-- ==== Sys2Proof/Word.lean ====
section
/-! DEFINITION. The word types of the machine and the plainest arithmetic on them (spec 00 R6, 07 R122). -/

namespace Sys2Proof

/-- A general register's value (R122). -/
abbrev Word := BitVec 64

/-- A 32-bit word: an instruction word, an FP32 pattern, fmt, an accumulator element. -/
abbrev W32 := BitVec 32

/-- One byte of storage. -/
abbrev Byte := BitVec 8

/-- A cause code (R349). -/
abbrev Cause := BitVec 16

end Sys2Proof
end

