-- ==== Sys2Proof/Machine/SMap.lean ====
section
/-! DEFINITION. Sparse maps from numbers to plain data, the form every memory and every large register file of
the state is held in: keys rise strictly and no entry equals what an unlisted key reads as, so that equal maps are
equal data. -/

namespace Sys2Proof.Machine

/-- A sparse map: pairs of key and value, keys strictly rising, no value equal to the default. -/
abbrev SMap (α : Type) := List (Nat × α)

/-- The value at `k`; `d` where the map lists nothing. -/
def SMap.get {α : Type} (d : α) : SMap α → Nat → α
  | [], _ => d
  | (j, v) :: r, k => if j = k then v else SMap.get d r k

/-- Puts a pair before the first larger key. -/
def SMap.insert {α : Type} (k : Nat) (v : α) : SMap α → SMap α
  | [] => [(k, v)]
  | (j, w) :: r => if k < j then (k, v) :: (j, w) :: r else (j, w) :: SMap.insert k v r

/-- Takes every entry of `k` out. -/
def SMap.erase {α : Type} (k : Nat) : SMap α → SMap α
  | [] => []
  | (j, w) :: r => if j = k then SMap.erase k r else (j, w) :: SMap.erase k r

/-- Writes `v` at `k`; a value equal to the default `d` leaves no entry. -/
def SMap.set {α : Type} [DecidableEq α] (d : α) (m : SMap α) (k : Nat) (v : α) : SMap α :=
  if v = d then SMap.erase k m else SMap.insert k v (SMap.erase k m)

/-- The canonical form: keys strictly rising, no entry equal to the default. -/
def SMap.wf {α : Type} [DecidableEq α] (d : α) : SMap α → Bool
  | [] => true
  | [(_, v)] => v ≠ d
  | (j, v) :: (k, w) :: r => decide (j < k) && decide (v ≠ d) && SMap.wf d ((k, w) :: r)

/-- Keeps the entries whose key passes the test. -/
def SMap.restrict {α : Type} (p : Nat → Bool) (m : SMap α) : SMap α := m.filter fun e => p e.1

/-- Byte memory: a byte nothing has written reads as zero (log entry 1). -/
abbrev Memory := SMap Byte

/-- The byte at a key of a memory. -/
def Memory.byte (m : Memory) (k : Nat) : Byte := SMap.get 0 m k

/-- Writes one byte. -/
def Memory.put (m : Memory) (k : Nat) (b : Byte) : Memory := SMap.set 0 m k b

/-- Writes bytes at rising keys. -/
def Memory.puts (m : Memory) (k : Nat) : List Byte → Memory
  | [] => m
  | b :: r => Memory.puts (m.put k b) (k + 1) r

/-- Reads `n` bytes at rising keys. -/
def Memory.gets (m : Memory) (k : Nat) : Nat → List Byte
  | 0 => []
  | n + 1 => m.byte k :: Memory.gets m (k + 1) n

/-- The canonical form of a memory. -/
def Memory.wf (m : Memory) : Bool := SMap.wf 0 m

end Sys2Proof.Machine
end

