-- ==== Sys2Proof/Machine/Bits.lean ====
section
/-! DEFINITION. Bit fields, byte order and sign extension: the helpers every layer reads words with (00 R6). -/

namespace Sys2Proof.Machine

/-- Bits `hi:lo` of a natural number. -/
def bits (v hi lo : Nat) : Nat := (v >>> lo) % 2 ^ (hi + 1 - lo)

/-- Bit `k` of a natural number. -/
def bit (v k : Nat) : Bool := v.testBit k

/-- The number with bit `k` alone set or clear. -/
def oneBit (b : Bool) (k : Nat) : Nat := if b then 2 ^ k else 0

/-- `v` with bits `hi:lo` replaced by the low bits of `x`. -/
def putBits (v hi lo x : Nat) : Nat :=
  let w := hi + 1 - lo
  v - ((v >>> lo) % 2 ^ w) * 2 ^ lo + (x % 2 ^ w) * 2 ^ lo

/-- The little-endian number of a list of bytes (R6). -/
def leNat : List Byte → Nat
  | [] => 0
  | b :: r => b.toNat + 256 * leNat r

/-- The `n` little-endian bytes of a number (R6). -/
def leBytes : Nat → Nat → List Byte
  | 0, _ => []
  | n + 1, v => BitVec.ofNat 8 v :: leBytes n (v / 256)

/-- The signed value of the low `w` bits of a number. -/
def sext (w v : Nat) : Int :=
  let x := v % 2 ^ w
  if x < 2 ^ (w - 1) then (x : Int) else (x : Int) - (2 ^ w : Nat)

/-- A 64-bit word from a number. -/
def toW (n : Nat) : Word := BitVec.ofNat 64 n

/-- A 64-bit word from an integer, modulo 2^64. -/
def ofI (i : Int) : Word := BitVec.ofInt 64 i

/-- The part of a list of bytes from `off`, `n` long. -/
def slice (l : List Byte) (off n : Nat) : List Byte := (l.drop off).take n

/-- The little-endian number in bytes `off` to `off + n - 1`. -/
def leAt (l : List Byte) (off n : Nat) : Nat := leNat (slice l off n)

/-- Element `i` of a vector, `d` past its end. -/
def vget {α : Type} {n : Nat} (v : Vector α n) (i : Nat) (d : α) : α := v.toList.getD i d

/-- A vector with element `i` replaced; unchanged past its end. -/
def vset {α : Type} {n : Nat} (v : Vector α n) (i : Nat) (x : α) : Vector α n := v.setIfInBounds i x

/-- `v` rounded down to a multiple of `a`. -/
def alignDown (v a : Nat) : Nat := v / a * a

/-- Whether two ranges of numbers, given by start and length, share an element. -/
def overlaps (a la b lb : Nat) : Bool := decide (0 < la ∧ 0 < lb ∧ a < b + lb ∧ b < a + la)

/-- Numbers `a` to `a + n - 1`. -/
def rangeFrom (a n : Nat) : List Nat := (List.range n).map (a + ·)

/-- Replaces the first element that passes the test. -/
def replaceFirst {α : Type} (p : α → Bool) (x : α) : List α → List α
  | [] => []
  | y :: r => if p y then x :: r else y :: replaceFirst p x r

end Sys2Proof.Machine
end

