-- ==== Sys2Proof/Syntax.lean ====
section
/-! DEFINITION. The instructions and events of the machine: one constructor for every row of spec/opcode_table.json.
The rows of the slots and of the attention sequencer are instructions; the other rows are the steps other agents make. -/

namespace Sys2Proof

/-- The guard fields of a slot instruction: bits `guard` and `invert` (R130). -/
structure Guard where
  p : BitVec 3
  inv : Bool
  deriving DecidableEq, Repr

/-- A five-bit g field: g0 to g23, or a stream register for 24 to 31 (R123). -/
abbrev GF := BitVec 5

/-- A ring number (R62). -/
abbrev Q := BitVec 4

/-- An accumulator number (R122). -/
abbrev Acc := BitVec 2

/-- A window-relative scratchpad offset (R59). -/
abbrev Off := BitVec 23

/-- A sequencer register number h0 to h15 (R266). -/
abbrev H := BitVec 4

/-- The strong operations performed at a location's home (R90, R91). -/
inductive StrongOp where
  | load | store | add | and | or | xor | min | max | swp | cas | fadd
  deriving DecidableEq, Repr

/-- An access of a stolen team, which its origin performs (R293): a weak one, a strong operation at a scope, with what it
compares and whether it compares unsigned, or a fence. -/
inductive GuestAcc where
  | load | store
  | strong (op : StrongOp) (scope : BitVec 3) (uns : Bool) (cmp : Word)
  | fence (scope : BitVec 3)
  deriving DecidableEq, Repr

/-- A steal request on the Bobbin token (R291). -/
structure StealReq where
  thief : Nat
  die : Nat
  count : Nat
  deriving DecidableEq, Repr

/-- What authentication of a firmware image finds (R305, R307). -/
inductive FwResult where
  | passed | badSignature | badVersion | badLength
  deriving DecidableEq, Repr

/-- Where an uncorrectable error is found (R383, R355). -/
inductive ErrorPlace where
  /-- A granule of HBM, of an Ebnas chip or of host memory, at the granule's address. -/
  | memory (pa : Nat)
  /-- A scratchpad granule of a core, by physical offset. -/
  | scratchpad (core off : Nat)
  /-- An L1 line, a remote-data line, a clean L2 line, a walker or TLB entry: the copy is dropped and refetched. -/
  | cachedCopy (domain : Nat)
  /-- A line of a live load-block. -/
  | loadBlock (cont blk line : Nat)
  /-- A register file, accumulator, ring view, tx or ag register of a continuation. -/
  | contextState (cont : Nat)
  /-- Dependence table, graph executor, L2 tags or copy engine of a die. -/
  | dieControl (die : Nat)
  /-- Launch unit, store walker, mesh or host port: `code` is R410's. -/
  | moduleControl (code : Byte)
  /-- A team image while it is written or read. -/
  | teamImage (task team : Nat)
  deriving DecidableEq, Repr

/-- Every row of the table of operations and events. -/
inductive Instr where
  /-- ADD (R142): Writes ga + gb, modulo 2^64, to gd. -/
  | add (gu : Guard) (d a b : GF)
  /-- SUB (R142): Writes ga − gb to gd. -/
  | sub (gu : Guard) (d a b : GF)
  /-- ADDI (R142): Writes ga plus the sign-extended imm11 to gd. -/
  | addi (gu : Guard) (d a : GF) (m : BitVec 11)
  /-- ADDSH (R142): Writes ga + gb × 2^sh to gd, with sh taken from fn. -/
  | addsh (gu : Guard) (d a b : GF) (s : BitVec 6)
  /-- MUL (R142): Writes the low 64 bits of ga × gb to gd. -/
  | mul (gu : Guard) (d a b : GF)
  /-- MULH (R142): Writes the high half of the signed 128-bit product to gd. -/
  | mulh (gu : Guard) (d a b : GF)
  /-- MULHU (R142): Writes the high half of the unsigned 128-bit product to gd. -/
  | mulhu (gu : Guard) (d a b : GF)
  /-- MADD (R142): Writes gd + ga × gb to gd; gd is also a source. -/
  | madd (gu : Guard) (d a b : GF)
  /-- DIV (R142): Signed division rounded toward zero, with the stated results for a zero divisor and for overflow. -/
  | div (gu : Guard) (d a b : GF)
  /-- DIVU (R142): Unsigned division rounded toward zero. -/
  | divu (gu : Guard) (d a b : GF)
  /-- REM (R142): Signed remainder, taking the sign of ga. -/
  | rem (gu : Guard) (d a b : GF)
  /-- REMU (R142): Unsigned remainder. -/
  | remu (gu : Guard) (d a b : GF)
  /-- MIN (R142): Writes the signed minimum of ga and gb to gd. -/
  | min (gu : Guard) (d a b : GF)
  /-- MAX (R142): Writes the signed maximum of ga and gb to gd. -/
  | max (gu : Guard) (d a b : GF)
  /-- MINU (R142): Writes the unsigned minimum of ga and gb to gd. -/
  | minu (gu : Guard) (d a b : GF)
  /-- MAXU (R142): Writes the unsigned maximum of ga and gb to gd. -/
  | maxu (gu : Guard) (d a b : GF)
  /-- AND (R143): Bitwise AND of ga and gb. -/
  | and (gu : Guard) (d a b : GF)
  /-- OR (R143): Bitwise OR of ga and gb. -/
  | or (gu : Guard) (d a b : GF)
  /-- XOR (R143): Bitwise exclusive OR of ga and gb. -/
  | xor (gu : Guard) (d a b : GF)
  /-- ANDN (R143): Writes ga AND NOT gb to gd. -/
  | andn (gu : Guard) (d a b : GF)
  /-- ANDI (R143): Bitwise AND of ga with the sign-extended imm11. -/
  | andi (gu : Guard) (d a : GF) (m : BitVec 11)
  /-- ORI (R143): Bitwise OR of ga with the sign-extended imm11. -/
  | ori (gu : Guard) (d a : GF) (m : BitVec 11)
  /-- XORI (R143): Bitwise exclusive OR of ga with the sign-extended imm11. -/
  | xori (gu : Guard) (d a : GF) (m : BitVec 11)
  /-- SLL (R143): Shifts ga left by gb<5:0>. -/
  | sll (gu : Guard) (d a b : GF)
  /-- SRL (R143): Shifts ga right, logically, by gb<5:0>. -/
  | srl (gu : Guard) (d a b : GF)
  /-- SRA (R143): Shifts ga right, arithmetically, by gb<5:0>. -/
  | sra (gu : Guard) (d a b : GF)
  /-- SLLI (R143): Shifts ga left by an immediate count. -/
  | slli (gu : Guard) (d a : GF) (n : BitVec 6)
  /-- SRLI (R143): Shifts ga right, logically, by an immediate count. -/
  | srli (gu : Guard) (d a : GF) (n : BitVec 6)
  /-- SRAI (R143): Shifts ga right, arithmetically, by an immediate count. -/
  | srai (gu : Guard) (d a : GF) (n : BitVec 6)
  /-- ROR (R143): Rotates ga right by gb<5:0>. -/
  | ror (gu : Guard) (d a b : GF)
  /-- CLZ (R143): Counts the leading zeros of ga. -/
  | clz (gu : Guard) (d a : GF)
  /-- CTZ (R143): Counts the trailing zeros of ga. -/
  | ctz (gu : Guard) (d a : GF)
  /-- POPC (R143): Counts the one bits of ga. -/
  | popc (gu : Guard) (d a : GF)
  /-- BEXT (R143): Extracts a bit field of ga, zero-extended or sign-extended. -/
  | bext (gu : Guard) (d a b : GF) (s : Bool)
  /-- BINS (R143): Inserts a bit field of ga into gd. -/
  | bins (gu : Guard) (d a b : GF)
  /-- MOVI (R144): Writes the sign-extended imm16 to gd. -/
  | movi (gu : Guard) (d : GF) (m : BitVec 16)
  /-- MOVK (R144): Writes imm16 into 16-bit lane k of gd and keeps the other bits; it has no guard. -/
  | movk (k : BitVec 2) (d : GF) (m : BitVec 16)
  /-- SEL (R144): Selects ga or gb by a predicate. -/
  | sel (gu : Guard) (d a b : GF) (q : BitVec 3)
  /-- CMPEQ (R144): Sets pd to ga = gb. -/
  | cmpeq (gu : Guard) (d : BitVec 3) (a b : GF)
  /-- CMPNE (R144): Sets pd to ga ≠ gb. -/
  | cmpne (gu : Guard) (d : BitVec 3) (a b : GF)
  /-- CMPLT (R144): Sets pd to the signed comparison ga < gb. -/
  | cmplt (gu : Guard) (d : BitVec 3) (a b : GF)
  /-- CMPLTU (R144): Sets pd to the unsigned comparison ga < gb. -/
  | cmpltu (gu : Guard) (d : BitVec 3) (a b : GF)
  /-- CMPGE (R144): Sets pd to the signed comparison ga ≥ gb. -/
  | cmpge (gu : Guard) (d : BitVec 3) (a b : GF)
  /-- CMPGEU (R144): Sets pd to the unsigned comparison ga ≥ gb. -/
  | cmpgeu (gu : Guard) (d : BitVec 3) (a b : GF)
  /-- CMPEQI (R144): Sets pd to ga equal to the sign-extended imm11. -/
  | cmpeqi (gu : Guard) (d : BitVec 3) (a : GF) (m : BitVec 11)
  /-- CMPLTI (R144): Sets pd to ga less than the sign-extended imm11, signed. -/
  | cmplti (gu : Guard) (d : BitVec 3) (a : GF) (m : BitVec 11)
  /-- PLOG (R144): Sets pd to an arbitrary function of two predicates, given by a 4-bit table. -/
  | plog (gu : Guard) (d a b : BitVec 3) (t : BitVec 4)
  /-- MOVP_GET (R144): Copies the predicates p7 to p0 into gd. -/
  | movpGet (gu : Guard) (d : GF)
  /-- MOVP_SET (R144): Sets p1 to p7 from the bits of ga. -/
  | movpSet (gu : Guard) (a : GF)
  /-- FADD (R145): FP32 or FP64 addition, rounded by RoundNE. -/
  | fadd (gu : Guard) (d a b : GF) (z : Bool)
  /-- FSUB (R145): FP32 or FP64 subtraction, rounded by RoundNE. -/
  | fsub (gu : Guard) (d a b : GF) (z : Bool)
  /-- FMUL (R145): FP32 or FP64 multiplication, rounded by RoundNE. -/
  | fmul (gu : Guard) (d a b : GF) (z : Bool)
  /-- FFMA (R145): Fused multiply-add ga × gb + gd, with one rounding. -/
  | ffma (gu : Guard) (d a b : GF) (z : Bool)
  /-- FDIV (R145): FP32 or FP64 division, rounded by RoundNE. -/
  | fdiv (gu : Guard) (d a b : GF) (z : Bool)
  /-- FSQRT (R145): FP square root. -/
  | fsqrt (gu : Guard) (d a : GF) (z : Bool)
  /-- FMIN (R145): FP minimum, by R107. -/
  | fmin (gu : Guard) (d a b : GF) (z : Bool)
  /-- FMAX (R145): FP maximum, by R107. -/
  | fmax (gu : Guard) (d a b : GF) (z : Bool)
  /-- FCMPEQ (R145): FP equality compare into pd. -/
  | fcmpeq (gu : Guard) (d : BitVec 3) (a b : GF) (z : Bool)
  /-- FCMPLT (R145): FP less-than compare into pd. -/
  | fcmplt (gu : Guard) (d : BitVec 3) (a b : GF) (z : Bool)
  /-- FCMPLE (R145): FP less-or-equal compare into pd. -/
  | fcmple (gu : Guard) (d : BitVec 3) (a b : GF) (z : Bool)
  /-- FCVT (R146): Converts between FP32 and FP64. -/
  | fcvt (gu : Guard) (d a : GF) (z : Bool)
  /-- FTOI (R146): Converts FP to a 64-bit integer, with rounding and saturation. -/
  | ftoi (gu : Guard) (d a : GF) (r u z : Bool)
  /-- ITOF (R146): Converts an integer to FP with RoundNE. -/
  | itof (gu : Guard) (d a : GF) (u z : Bool)
  /-- FCLASS (R145): Writes the one-hot class of an FP value to gd. -/
  | fclass (gu : Guard) (d a : GF) (z : Bool)
  /-- LDB (R159): Weak load of 1 byte, sign-extended. -/
  | ldb (gu : Guard) (d a : GF) (m : BitVec 11)
  /-- LDBU (R159): Weak load of 1 byte, zero-extended. -/
  | ldbu (gu : Guard) (d a : GF) (m : BitVec 11)
  /-- LDH (R159): Weak load of 2 bytes, sign-extended. -/
  | ldh (gu : Guard) (d a : GF) (m : BitVec 11)
  /-- LDHU (R159): Weak load of 2 bytes, zero-extended. -/
  | ldhu (gu : Guard) (d a : GF) (m : BitVec 11)
  /-- LDW (R159): Weak load of 4 bytes, sign-extended. -/
  | ldw (gu : Guard) (d a : GF) (m : BitVec 11)
  /-- LDWU (R159): Weak load of 4 bytes, zero-extended. -/
  | ldwu (gu : Guard) (d a : GF) (m : BitVec 11)
  /-- LDD (R159): Weak load of 8 bytes. -/
  | ldd (gu : Guard) (d a : GF) (m : BitVec 11)
  /-- LDACQ (R162): Load with acquire at the named scope, performed at the home. -/
  | ldacq (gu : Guard) (d a : GF) (e : Bool) (z : BitVec 2) (c : BitVec 3)
  /-- STB (R159): Weak store of 1 byte. -/
  | stb (gu : Guard) (d a : GF) (m : BitVec 11)
  /-- STH (R159): Weak store of 2 bytes. -/
  | sth (gu : Guard) (d a : GF) (m : BitVec 11)
  /-- STW (R159): Weak store of 4 bytes. -/
  | stw (gu : Guard) (d a : GF) (m : BitVec 11)
  /-- STD (R159): Weak store of 8 bytes. -/
  | std (gu : Guard) (d a : GF) (m : BitVec 11)
  /-- STREL (R162): Store with release at the named scope, after the earlier accesses have been performed. -/
  | strel (gu : Guard) (a b : GF) (e : Bool) (z : BitVec 2) (c : BitVec 3)
  /-- SPLDW (R160): Loads 4 bytes from the member's own scratchpad window. -/
  | spldw (gu : Guard) (d a : GF) (m : BitVec 11)
  /-- SPLDD (R160): Loads 8 bytes from the member's own scratchpad window. -/
  | spldd (gu : Guard) (d a : GF) (m : BitVec 11)
  /-- SPSTW (R160): Stores 4 bytes to the member's own scratchpad window. -/
  | spstw (gu : Guard) (d a : GF) (m : BitVec 11)
  /-- SPSTD (R160): Stores 8 bytes to the member's own scratchpad window. -/
  | spstd (gu : Guard) (d a : GF) (m : BitVec 11)
  /-- AMOADD (R163): Atomic add at the home, with acquire and release. -/
  | amoadd (gu : Guard) (d a b : GF) (e w : Bool) (c : BitVec 3)
  /-- AMOAND (R163): Atomic AND at the home. -/
  | amoand (gu : Guard) (d a b : GF) (e w : Bool) (c : BitVec 3)
  /-- AMOOR (R163): Atomic OR at the home. -/
  | amoor (gu : Guard) (d a b : GF) (e w : Bool) (c : BitVec 3)
  /-- AMOXOR (R163): Atomic exclusive OR at the home. -/
  | amoxor (gu : Guard) (d a b : GF) (e w : Bool) (c : BitVec 3)
  /-- AMOMIN (R163): Atomic minimum, signed or unsigned. -/
  | amomin (gu : Guard) (d a b : GF) (e u w : Bool) (c : BitVec 3)
  /-- AMOMAX (R163): Atomic maximum, signed or unsigned. -/
  | amomax (gu : Guard) (d a b : GF) (e u w : Bool) (c : BitVec 3)
  /-- AMOSWP (R163): Atomic swap. -/
  | amoswp (gu : Guard) (d a b : GF) (e w : Bool) (c : BitVec 3)
  /-- AMOCAS (R163): Atomic compare-and-swap; it writes only when the compare succeeds. -/
  | amocas (gu : Guard) (d a b : GF) (e w : Bool) (c : BitVec 3)
  /-- AMOFADD (R163): Atomic FP add, rounded by RoundNE. -/
  | amofadd (gu : Guard) (d a b : GF) (e w : Bool) (c : BitVec 3)
  /-- FENCE (R164): Orders the named earlier access sets before the named later access sets, at a scope. -/
  | fence (gu : Guard) (c : BitVec 3) (s : BitVec 4)
  /-- LDBLK (R165): Declares and fills a load-block of 1 to 64 lines and writes a completion value. -/
  | ldblk (gu : Guard) (d a b : GF) (n : BitVec 3)
  /-- BLKWB (R166): Writes back the dirty bytes of a load-block. -/
  | blkwb (gu : Guard) (n : BitVec 3)
  /-- BLKREL (R166): Writes back the dirty bytes of a load-block and frees it. -/
  | blkrel (gu : Guard) (n : BitVec 3)
  /-- XLT (R167): Translates an address into an interlocked tx register. -/
  | xlt (gu : Guard) (a : GF) (l : BitVec 3) (w : Bool) (n : BitVec 2)
  /-- XLTP (R167): Translates an address into a tx register and also writes the result to gd. -/
  | xltp (gu : Guard) (d a : GF) (l : BitVec 3) (w : Bool) (n : BitVec 2)
  /-- LEASEQ (R168): Reports whether ga lies in a lease of the task. -/
  | leaseq (gu : Guard) (d a : GF)
  /-- SBIND (R169): Checks a stream record and binds a stream register to it. -/
  | sbind (gu : Guard) (n : BitVec 3) (a : GF) (m : BitVec 11)
  /-- SUNBIND (R170): Unbinds a stream after performing its pending writes. -/
  | sunbind (gu : Guard) (n : BitVec 3)
  /-- QINIT (R171): Checks and writes a ring view after the earlier users of the ring have finished. -/
  | qinit (gu : Guard) (n : BitVec 4) (a b : GF)
  /-- QADV (R171): Advances a ring's tail, optionally writing row counts, or its head. -/
  | qadv (gu : Guard) (q : BitVec 4) (a : GF) (r h : Bool) (n : BitVec 8)
  /-- QSTAT (R171): Reads one half of a ring view into gd. -/
  | qstat (gu : Guard) (d : GF) (n : BitVec 4) (h : Bool)
  /-- WENQ (R173): Appends one entry to a work queue in memory as one strong operation on its tail word. -/
  | wenq (gu : Guard) (d a b : GF) (c : BitVec 3)
  /-- AGSET (R174): Binds an address generator to a slot, layer and position. -/
  | agset (gu : Guard) (n : BitVec 3) (a : GF)
  /-- AGADV (R174): Advances an address generator's position. -/
  | agadv (gu : Guard) (n : BitVec 3) (a : GF) (m : BitVec 11)
  /-- VSETL_IMM (R181): Sets VL from imm16. -/
  | vsetlImm (gu : Guard) (m : BitVec 16)
  /-- VSETL_REG (R181): Sets VL from a g register, saturated at 65,535. -/
  | vsetlReg (gu : Guard) (d : GF)
  /-- VMOV (R181): Moves elements as bit patterns, optionally from the vector input latch. -/
  | vmov (gu : Guard) (a b : GF) (l : Bool)
  /-- VFILL (R181): Fills the destination with one value. -/
  | vfill (gu : Guard) (a b : GF)
  /-- VADD (R182): Element-wise addition. -/
  | vadd (gu : Guard) (a b : GF) (l : Bool)
  /-- VSUB (R182): Element-wise subtraction. -/
  | vsub (gu : Guard) (a b : GF) (l : Bool)
  /-- VMUL (R182): Element-wise multiplication. -/
  | vmul (gu : Guard) (a b : GF) (l : Bool)
  /-- VFMA (R182): Element-wise fused multiply-add with a C region. -/
  | vfma (gu : Guard) (a b : GF) (l : Bool)
  /-- VMIN (R182): Element-wise minimum. -/
  | vmin (gu : Guard) (a b : GF) (l : Bool)
  /-- VMAX (R182): Element-wise maximum. -/
  | vmax (gu : Guard) (a b : GF) (l : Bool)
  /-- VABS (R182): Element-wise absolute value. -/
  | vabs (gu : Guard) (a : GF) (l : Bool)
  /-- VNEG (R182): Element-wise negation. -/
  | vneg (gu : Guard) (a : GF) (l : Bool)
  /-- VADDS (R182): Adds the scalar C to each element. -/
  | vadds (gu : Guard) (a b : GF) (l : Bool)
  /-- VMULS (R182): Multiplies each element by the scalar C. -/
  | vmuls (gu : Guard) (a b : GF) (l : Bool)
  /-- VFMAS (R182): A × B + the scalar C, per element. -/
  | vfmas (gu : Guard) (a b : GF) (l : Bool)
  /-- VRCP (R183): Element-wise reciprocal. -/
  | vrcp (gu : Guard) (a : GF) (l : Bool)
  /-- VRSQRT (R183): Element-wise reciprocal square root. -/
  | vrsqrt (gu : Guard) (a : GF) (l : Bool)
  /-- VEXP (R183): Element-wise exponential. -/
  | vexp (gu : Guard) (a : GF) (l : Bool)
  /-- VLOG (R183): Element-wise natural logarithm. -/
  | vlog (gu : Guard) (a : GF) (l : Bool)
  /-- VSIN (R183): Element-wise sine. -/
  | vsin (gu : Guard) (a : GF) (l : Bool)
  /-- VCOS (R183): Element-wise cosine. -/
  | vcos (gu : Guard) (a : GF) (l : Bool)
  /-- VTANH (R183): Element-wise hyperbolic tangent. -/
  | vtanh (gu : Guard) (a : GF) (l : Bool)
  /-- VSIG (R183): Element-wise sigmoid. -/
  | vsig (gu : Guard) (a : GF) (l : Bool)
  /-- VSILU (R183): Element-wise SiLU. -/
  | vsilu (gu : Guard) (a : GF) (l : Bool)
  /-- VGELU (R183): Element-wise GELU. -/
  | vgelu (gu : Guard) (a : GF) (l : Bool)
  /-- VCVT (R184): Converts elements from va to vd. -/
  | vcvt (gu : Guard) (a : GF) (l : Bool)
  /-- VQNT (R185): Quantises elements to a narrow format with E8M0 block scales. -/
  | vqnt (gu : Guard) (a b : GF) (l : Bool)
  /-- VDQ (R185): Dequantises block-scaled narrow elements. -/
  | vdq (gu : Guard) (a b : GF)
  /-- VCMP (R186): Compares elements and writes byte results. -/
  | vcmp (gu : Guard) (a b : GF) (s : Bool) (c : BitVec 3)
  /-- VSEL (R186): Selects A or B per element by a byte mask. -/
  | vsel (gu : Guard) (a b : GF)
  /-- VRSUM (R187): Tree sum of VL elements. -/
  | vrsum (gu : Guard) (a : GF)
  /-- VRMAX (R187): Tree maximum of VL elements. -/
  | vrmax (gu : Guard) (a : GF)
  /-- VARGMAX (R187): Index of the maximum element, or of the first NaN. -/
  | vargmax (gu : Guard) (a : GF)
  /-- VSCAN (R188): Sequential running sum. -/
  | vscan (gu : Guard) (a : GF)
  /-- VDOT (R187): Dot product by the reduction tree. -/
  | vdot (gu : Guard) (a b : GF)
  /-- VPERM (R189): Permutes elements by 2-byte indices. -/
  | vperm (gu : Guard) (a b : GF)
  /-- VGATH (R189): Gathers scratchpad elements by 4-byte indices. -/
  | vgath (gu : Guard) (a b : GF)
  /-- VSCADD (R190): Scatter-add with duplicate indices merged. -/
  | vscadd (gu : Guard) (a b : GF)
  /-- VIADD (R191): 32-bit integer add, modulo 2^32. -/
  | viadd (gu : Guard) (a b : GF) (s : Bool)
  /-- VAND (R191): Bitwise AND per element. -/
  | vand (gu : Guard) (a b : GF) (s : Bool)
  /-- VOR (R191): Bitwise OR per element. -/
  | vor (gu : Guard) (a b : GF) (s : Bool)
  /-- VXOR (R191): Bitwise exclusive OR per element. -/
  | vxor (gu : Guard) (a b : GF) (s : Bool)
  /-- VSHL (R191): Left shift per element. -/
  | vshl (gu : Guard) (a b : GF) (s : Bool)
  /-- VSHR (R191): Logical or arithmetic right shift per element. -/
  | vshr (gu : Guard) (a b : GF) (ar s : Bool)
  /-- VSMAX (R192): One step of a running softmax with a state record. -/
  | vsmax (gu : Guard) (a b : GF)
  /-- VRMSN (R193): RMS normalisation with weights and epsilon. -/
  | vrmsn (gu : Guard) (a b : GF)
  /-- VROPE (R194): Rotary rotation of element pairs by an exact integer phase. -/
  | vrope (gu : Guard) (a b : GF) (h : Bool)
  /-- VMASKW (R195): Masks scores by element index. -/
  | vmaskw (gu : Guard) (a b : GF) (z n : Bool)
  /-- TCWUPD (R196): Applies the predicate-unit rule to up to 64 token control words. -/
  | tcwupd (gu : Guard) (a b : GF)
  /-- TCWCNT (R197): Counts token control words by state. -/
  | tcwcnt (gu : Guard) (a : GF)
  /-- VFENCE (R198): Holds later instructions of the named slots until earlier vector commands complete. -/
  | vfence (gu : Guard) (s : BitVec 6)
  /-- VBSY (R199): Writes the vector pending count and the sequencer-busy bit. -/
  | vbsy (gu : Guard) (a : GF)
  /-- MMA (R205): Matrix multiply-accumulate of ring tiles into an accumulator. -/
  | mma (gu : Guard) (qa qb : Q) (acc : Acc) (z : Bool) (ks : BitVec 7) (ka kb : Bool)
  /-- MMABT (R205): Multiply-accumulate with a transposed B tile. -/
  | mmabt (gu : Guard) (qa qb : Q) (acc : Acc) (z : Bool) (ks : BitVec 7) (ka kb : Bool)
  /-- MMASP (R208): Multiply-accumulate with a 2:4 sparse A operand. -/
  | mmasp (gu : Guard) (qa qb : Q) (acc : Acc) (z : Bool) (ks : BitVec 7) (ka kb : Bool)
  /-- MMACB (R205): Multiply-accumulate with CB2 codebook weights. -/
  | mmacb (gu : Guard) (qa qb : Q) (acc : Acc) (z : Bool) (ks : BitVec 7) (ka kb : Bool)
  /-- MZERO (R213): Zeroes an accumulator and sets its kind. -/
  | mzero (gu : Guard) (acc : Acc) (kind : Bool)
  /-- MLDACC (R213): Loads an accumulator from scratchpad. -/
  | mldacc (gu : Guard) (acc : Acc) (off : Off) (kind : Bool)
  /-- MDRAIN (R214): Drains accumulator rows by RoundZ to the named consumers. -/
  | mdrain (gu : Guard) (acc : Acc) (dmask : BitVec 6) (off : Off)
  /-- MDRAINA (R214): Adds a drained accumulator into the member's own window. -/
  | mdraina (gu : Guard) (acc : Acc) (off : Off)
  /-- MPOP (R213): Pops operand rings without arithmetic. -/
  | mpop (gu : Guard) (qa qb : Q) (popA popB : Bool)
  /-- MCBLD (R215): Loads the CB2 codebook. -/
  | mcbld (gu : Guard) (off : Off)
  /-- MSCL (R215): Loads the TensorScale. -/
  | mscl (gu : Guard) (off : Off)
  /-- MFENCE (R215): Waits for earlier array commands to retire and holds the named slots. -/
  | mfence (gu : Guard) (slots : BitVec 6)
  /-- DCOPY (R222): Copy-engine row copy, a drain-port copy, or a KV write. -/
  | dcopy (gu : Guard) (card : GF) (ac : BitVec 6)
  /-- DMCAST (R222): Copies rows to several cluster positions. -/
  | dmcast (gu : Guard) (card : GF) (mm : BitVec 4) (ac : BitVec 6)
  /-- DGATH (R222): Gathers rows by an index list. -/
  | dgath (gu : Guard) (card : GF) (ac : BitVec 6)
  /-- DSCAT (R222): Scatters rows by an index list. -/
  | dscat (gu : Guard) (card : GF) (ac : BitVec 6)
  /-- DSCADD (R224): Merges rows and adds them atomically into destination rows. -/
  | dscadd (gu : Guard) (card : GF) (ac : BitVec 6)
  /-- DRED (R225): Collective reduction in logical-rank tree order. -/
  | dred (gu : Guard) (card : GF) (ac : BitVec 6)
  /-- DBCAST (R225): Collective broadcast from the root. -/
  | dbcast (gu : Guard) (card : GF) (ac : BitVec 6)
  /-- DALLG (R225): Collective all-gather. -/
  | dallg (gu : Guard) (card : GF) (ac : BitVec 6)
  /-- DEMBAG (R226): Pools embedding bags from the capacity tier. -/
  | dembag (gu : Guard) (card : GF) (ac : BitVec 6)
  /-- DSTAGE (R227): Fills a KV staging buffer with one layer. -/
  | dstage (gu : Guard) (card : GF) (ac : BitVec 6)
  /-- PACK (R228): Compaction network job that packs the rows taking part and writes a permutation record and lrc. -/
  | pack (gu : Guard) (card : GF) (ac : BitVec 6)
  /-- UNPACK (R228): Scatters packed rows back by a permutation record. -/
  | unpack (gu : Guard) (card : GF) (ac : BitVec 6)
  /-- EXN (R230): Sends exit notices, and optionally exit states, to a receiver. -/
  | exn (gu : Guard) (card : GF) (ac : BitVec 6)
  /-- KVFILL (R231): Requests the lazy fills of a KV range. -/
  | kvfill (gu : Guard) (card : GF) (ac : BitVec 6)
  /-- SKFIND (R234): Finds and confirms the longest stored snapshot, with optional resume copies. -/
  | skfind (gu : Guard) (card : GF) (ac : BitVec 6)
  /-- SKPUT (R235): Deposits one granule in the snapshot store, evicting if needed. -/
  | skput (gu : Guard) (card : GF) (ac : BitVec 6)
  /-- SKREL (R236): Decrements the refs of listed store nodes. -/
  | skrel (gu : Guard) (card : GF) (ac : BitVec 6)
  /-- SKPIN (R236): Sets or clears pinned on listed store nodes. -/
  | skpin (gu : Guard) (card : GF) (ac : BitVec 6)
  /-- DFENCE (R240): Holds the named slots until earlier jobs have completed. -/
  | dfence (gu : Guard) (slots : BitVec 6)
  /-- IXWALK (R237): Walks CSR rows into row and column entries. -/
  | ixwalk (gu : Guard) (card : GF) (ac : BitVec 6)
  /-- IXSECT (R238): Intersects two ascending lists. -/
  | ixsect (gu : Guard) (card : GF) (ac : BitVec 6)
  /-- IXPART (R239): Divides nonzeros into equal shares. -/
  | ixpart (gu : Guard) (card : GF) (ac : BitVec 6)
  /-- PBR (R147): Prepares a PC-relative branch target in a b register. -/
  | pbr (gu : Guard) (b : BitVec 3) (m : BitVec 16)
  /-- PBRR (R147): Prepares a branch target from a g register. -/
  | pbrr (gu : Guard) (n : BitVec 3) (a : GF)
  /-- BR (R148): Branches to b(T). -/
  | br (gu : Guard) (b : BitVec 3)
  /-- BRL (R148): Branches and links into g23 and b(L). -/
  | brl (gu : Guard) (b l : BitVec 3)
  /-- LOOP (R149): Closes a hardware loop: decrements lc and branches to the body start. -/
  | loop (gu : Guard) (b : BitVec 3) (x : BitVec 2)
  /-- LOOPI_IMM (R149): Sets up a hardware loop with an immediate count. -/
  | loopiImm (gu : Guard) (b : BitVec 3) (x : BitVec 2) (n : BitVec 15)
  /-- LOOPI_REG (R149): Sets up a hardware loop with the count taken from a g register. -/
  | loopiReg (gu : Guard) (b : BitVec 3) (x : BitVec 2) (g : GF)
  /-- LOOPL (R149): Sets up a loop of ceil(lrc / d) passes. -/
  | loopl (gu : Guard) (b : BitVec 3) (x : BitVec 2) (d : BitVec 7)
  /-- FMTW (R150): Writes one half of fmt. -/
  | fmtw (gu : Guard) (h : Bool) (m : BitVec 16)
  /-- FMTWG (R150): Writes fmt under a mask. -/
  | fmtwg (gu : Guard) (a b : GF)
  /-- WAITA (R151): Arms the monitor, compares a word and suspends if the condition is false. -/
  | waita (gu : Guard) (a b : GF) (s : Bool) (c : BitVec 3)
  /-- SUSP (R152): Suspends the continuation to runnable. -/
  | susp (gu : Guard)
  /-- DONE (R152): Ends the continuation after its accesses have been performed. -/
  | done (gu : Guard)
  /-- BARR (R152): Arrives at a team barrier. -/
  | barr (gu : Guard) (n : BitVec 3)
  /-- SYNC (R154): Holds later bundles until the selected completions hold. -/
  | sync (gu : Guard) (m : GF)
  /-- TRAP (R155): Raises a software trap with a code. -/
  | trap (gu : Guard) (c : BitVec 12)
  /-- SIGC (R156): Writes a completion value as a release at a scope. -/
  | sigc (gu : Guard) (a b : GF) (s : Bool) (c : BitVec 3)
  /-- TSPAWN (R248): Submits a task from a running continuation. -/
  | tspawn (gu : Guard) (d a : GF)
  /-- CRSPAWN (R249): Creates a helper continuation. -/
  | crspawn (gu : Guard) (d a b : GF)
  /-- GLNCH (R248): Requests a graph replay. -/
  | glnch (gu : Guard) (d a : GF)
  /-- GTOK (R250): Adds a software token to a graph node. -/
  | gtok (gu : Guard) (d a b : GF)
  /-- GSTAT (R251): Reads graph or node state. -/
  | gstat (gu : Guard) (d a b : GF) (n : Bool)
  /-- TEAMQ (R252): Reads the team's rank binding or shape. -/
  | teamq (gu : Guard) (d a : GF) (t : Bool)
  /-- SYSRD (R255): Reads a system register, serialising. -/
  | sysrd (gu : Guard) (d : GF) (x : BitVec 12)
  /-- SYSWR (R255): Writes a system register, serialising. -/
  | syswr (gu : Guard) (d : GF) (x : BitVec 12)
  /-- ERET (R258): Returns from a trap handler, restoring the mode. -/
  | eret (gu : Guard) (b : BitVec 3)
  /-- TLBDRN (R259): Marks TLB entries, tx registers and walks over a range as draining. -/
  | tlbdrn (gu : Guard) (d a b : GF) (c : Bool)
  /-- TLBCNF (R259): Waits until drained writes are visible and leases have ended. -/
  | tlbcnf (gu : Guard)
  /-- LEASEG (R260): Reports the leases on a page of any context. -/
  | leaseg (gu : Guard) (d a b : GF)
  /-- CINV (R261): Discards cached copies over a range. -/
  | cinv (gu : Guard) (a b : GF) (k : BitVec 2)
  /-- PRMT (R254): Asks the scheduler to pre-empt a task. -/
  | prmt (gu : Guard) (d a b : GF)
  /-- HINT (R253): Sets the continuation's remaining-time estimate. -/
  | hint (gu : Guard) (a : GF)
  /-- HSET (R267): Sequencer: sets h(d) to a sign-extended immediate. -/
  | hset (d : H) (imm : BitVec 48)
  /-- HADD (R267): Sequencer: adds two h registers and an immediate. -/
  | hadd (d a b : H) (imm : W32)
  /-- HJMP (R267): Sequencer: conditional jump. -/
  | hjmp (c : BitVec 2) (a : H) (tgt : BitVec 10)
  /-- HLOOP (R267): Sequencer: decrements h(a) and loops while it is nonzero. -/
  | hloop (a : H) (tgt : BitVec 10)
  /-- AGLD (R267): Sequencer: binds one of the run's address generators, as AGSET does. -/
  | agld (n : BitVec 3) (a : H)
  /-- KVRD (R268): Sequencer: attention read of K or V positions into a ring tile. -/
  | kvrd (kv : Bool) (n : BitVec 3) (q : Q) (boff : BitVec 16) (blen : Byte) (adv : Bool) (cnt : BitVec 7)
  /-- MXI (R269): Sequencer: issues an MX matrix command. -/
  | mxi (op : BitVec 7) (mx : BitVec 53)
  /-- SMAX (R270): Sequencer: scale, mask and running-softmax step on drained scores. -/
  | smax (q : Q) (a b w : H) (mk : Bool) (cnt : BitVec 7)
  /-- RESC (R267): Sequencer: rescales accumulator rows by the softmax correction. -/
  | resc (acc : Acc) (a : H)
  /-- NORM (R267): Sequencer: divides accumulator rows by the softmax sum. -/
  | norm (acc : Acc) (a : H)
  /-- ROPE (R271): Sequencer: applies rotary rotation to tile rows in place. -/
  | rope (a b c : H) (half : Bool) (d : BitVec 10) (rows : BitVec 7)
  /-- DJOB (R267): Sequencer: issues a copy-engine job card. -/
  | djob (a : H) (mm : BitVec 4) (ac : BitVec 6)
  /-- WAITW (R267): Sequencer: waits on a window word, as an acquire. -/
  | waitw (c : BitVec 2) (a b : H)
  /-- SIGW (R267): Sequencer: SIGC-like release write. -/
  | sigw (sc : BitVec 3) (a b : H)
  /-- MCMB (R273): Sequencer: merges an incoming attention partial into an accumulator. -/
  | mcmb (acc : Acc) (a b c : H)
  /-- HALT (R272): Sequencer: waits for the run's work to finish, writes back the generators and the completion, and ends the run. -/
  | halt
  /-- BUNDLE_DISPATCH (R128): A bundle is placed into the slot queues, with the bundle and group checks. -/
  | bundleDispatch
  /-- PICKER_PREEMPT_CONTEXT (R24): A context of higher priority becomes runnable, and the issuing one is set aside at the bundle boundary. -/
  | pickerPreemptContext (core : Nat)
  /-- WRITE_APPLY_AT_DIE (R93): A die applies a stamped write once its causal past has been applied. -/
  | writeApplyAtDie (die src : Nat)
  /-- STRONG_OPERATION_AT_HOME (R91): A strong or atomic operation is performed at the location's home: its module, what it
  brings and what AMOCAS compares. -/
  | strongOperationAtHome (src : Byte) (op : StrongOp) (pa : BitVec 52) (wide uns : Bool) (v : Word × Word)
  /-- LOAD_BLOCK_FILL_COMPLETE (R68): Every line of a load-block has arrived and its completion value is written. -/
  | loadBlockFillComplete (cont blk : Nat)
  /-- PAGE_WALK_COMPLETE (R375): A page-table walk finishes, giving a translation or a fault. -/
  | pageWalkComplete (die task : Nat) (va : Word)
  /-- TRANSLATION_COMPLETE (R167): A pending XLT or XLTP writes its tx register valid. -/
  | translationComplete (cont n : Nat)
  /-- VECTOR_COMMAND_COMPLETION (R179): An issued vector command writes its destination and flags. -/
  | vectorCommandCompletion (cont : Nat)
  /-- JOB_CHANNEL_START (R220): A job waiting for a copy-engine channel starts by priority. -/
  | jobChannelStart (die : Nat)
  /-- JOB_COMPLETION (R81): A job's payload has landed and it makes its ring advances, increments and completion write in order. -/
  | jobCompletion (job : Nat)
  /-- FOLLOW_ON_ISSUE (R137): Once the payload has landed and the counter reaches thr, the follow-on enters tile queue 1. -/
  | followOnIssue (job : Nat)
  /-- ARRAY_ENTRY (R211): The head of a tile queue enters the matrix array, chosen by pq. -/
  | arrayEntry (cont : Nat)
  /-- MATRIX_COMMAND_RETIRE (R212): A matrix command retires, popping its tiles. -/
  | matrixCommandRetire (cont : Nat)
  /-- EXIT_NOTICE_RECEIVE (R52): A receiver matches, updates, allocates and links for one notice. -/
  | exitNoticeReceive (die : Nat) (ext : Option Word)
  /-- EXIT_STATE_ARRIVAL (R230): An exit state lands in its fill-source record, which is marked arrived. -/
  | exitStateArrival (die : Nat) (ext : Option (Word × List Byte × Bool))
  /-- EXN_REFUSAL (R398): A receiver refuses a notice and the sender's EXN job ends its task. -/
  | exnRefusal (job : Nat)
  /-- ATTENTION_READ_REQUEST (R57): An attention read requests K and V over a range and stalls on gaps. -/
  | attentionReadRequest (waiter slot layer first count : Nat)
  /-- DARN_FILL (R56): The Darn engine computes K and V of a gap once its state has arrived. -/
  | darnFill (slot layer pos : Nat)
  /-- DARN_FILL_COMPLETE (R57): The header write sets fmask, clears busy and returns fsrc. -/
  | darnFillComplete (slot layer pos : Nat)
  /-- FILL_TIMEOUT (R57): A position's wait exceeds FILLTO and ends in a fill fault. -/
  | fillTimeout (waiter pos : Nat)
  /-- STAGING_BUFFER_SELECT (R79): A DSTAGE job takes its buffer once the waits end. -/
  | stagingBufferSelect (job : Nat)
  /-- SKEIN_OPERATION_EXECUTE (R234): The walker executes the next store operation in arrival order. -/
  | skeinOperationExecute
  /-- SQSTART_WRITE (R264): Starts a sequencer run, or sets rej. -/
  | sqstartWrite (v : Word)
  /-- SQCSD_WRITE (R263): Writes a control-store word and advances SQCSA. -/
  | sqcsdWrite (v : Word)
  /-- SQCSD_READ (R263): Reads a control-store word and advances SQCSA. -/
  | sqcsdRead (d : GF)
  /-- RXREG_WRITE (R257): Binds or replaces an exit-notice receiver registration. -/
  | rxregWrite (n : BitVec 6) (v : Word)
  /-- REGISTER_WRITE (R255): A write of a system register that has no row of its own, with its checks. -/
  | registerWrite (ld die idx : Nat) (v : Word)
  /-- DOORBELL (R299): The host writes a queue's submission tail to BAR2. -/
  | doorbell (ld q : Nat) (tail : W32)
  /-- COMPLETION_HEAD_WRITE (R300): The host writes a queue's completion head, freeing completion slots. -/
  | completionHeadWrite (ld q : Nat) (head : W32)
  /-- SUBMIT_TASK (R299): A kind-0 submission entry is read, admitted or refused, and answered. -/
  | submitTask (q : Nat)
  /-- SUBMIT_GRAPH_REPLAY (R299): A kind-1 submission entry requests a replay. -/
  | submitGraphReplay (q : Nat)
  /-- PATCH_COMMIT (R40): A kind-2 entry commits a host patch to the pending version. -/
  | patchCommit (q : Nat)
  /-- SPAWN_ANSWER (R248): The launch unit's answer to TSPAWN, CRSPAWN or GLNCH reaches gd. -/
  | spawnAnswer (cont : Nat)
  /-- REPLAY_START (R38): A replay starts, resets the nodes and fires the roots. -/
  | replayStart (graph : Nat)
  /-- PATCH_AREA_COPY_DONE (R246): The patch-area copy lands and bit 3 is set, releasing held patches. -/
  | patchAreaCopyDone (graph : Nat)
  /-- TASK_ORDERING_RELEASE (R36): A task whose predecessors have completed passes the dependence table. -/
  | taskOrderingRelease (task : Nat)
  /-- TASK_LEASING (R74): The footprint ranges are made resident and leased. -/
  | taskLeasing (task : Nat)
  /-- TEAM_DISPATCH (R281): A waiting team is made resident on chosen cores. -/
  | teamDispatch (die : Nat)
  /-- TEAM_SWAP_OUT (R30): A team's image is written to HBM. -/
  | teamSwapOut (task team : Nat)
  /-- TEAM_SWAP_IN (R30): A team's image is restored on its die. -/
  | teamSwapIn (task team : Nat)
  /-- SLICE_QUANTUM_EXPIRY (R31): A quantum ends and whole teams are swapped. -/
  | sliceQuantumExpiry (die : Nat)
  /-- SWAP_ABANDON_TIMEOUT (R392): A swap-out not finished within 16 × SLICEQ is abandoned. -/
  | swapAbandonTimeout (task team : Nat)
  /-- TASK_COMPLETION (R35): Every continuation has ended and every job has completed; versions switch and the completion is written. -/
  | taskCompletion (task : Nat)
  /-- DEADLINE_OVERRUN (R284): A bounded task passes its deadline incomplete. -/
  | deadlineOverrun (task : Nat)
  /-- STOP_BEGIN (R289): A STOP write with req = 1 begins stopping a context. -/
  | stopBegin (ctx : BitVec 12)
  /-- STOP_RESUME (R290): A STOP write with req = 0 at phase 3 resumes the context. -/
  | stopResume
  /-- STOP_SOURCES_STOPPED (R290): Every source of the context has stopped; phase becomes 1. -/
  | stopSourcesStopped
  /-- STOP_DRAIN_COMPLETE (R290): The context's traffic has drained; its teams are checkpointed to the cut. -/
  | stopDrainComplete
  /-- STOP_DRAIN_TIMEOUT (R395): Phase 2 reaches 16 × SLICEQ and the remaining tasks end. -/
  | stopDrainTimeout
  /-- BOBBIN_TOKEN_ARRIVAL (R291): The pod token arrives; the holder updates its load and requests. -/
  | bobbinTokenArrival (gen : W32) (loads : List (Nat × Byte)) (reqs : List StealReq)
  /-- BOBHOLD_EXPIRY (R291): The hold time ends and the token is sent on, serving steal requests. -/
  | bobholdExpiry
  /-- BOBBIN_TOKEN_REGENERATION (R396): A token is not received in time and a new generation is created. -/
  | bobbinTokenRegeneration (reach : Nat)
  /-- STOLEN_TEAM_ARRIVAL (R292): A stolen team's image lands at the thief and is placed. -/
  | stolenTeamArrival (origin die tag size : Nat)
  /-- STEAL_ACKNOWLEDGE (R397): The thief's acknowledgement reaches the origin. -/
  | stealAcknowledge (task team : Nat)
  /-- STOLEN_TEAM_ACCESS (R293): A stolen team's memory access is performed at the origin. -/
  | stolenTeamAccess (task team rank : Nat) (acc : GuestAcc) (va : Word) (size : Nat) (v : Word)
  /-- HOST_CXL_MEM_WRITE (R100): A host write to HBM over CXL.mem. -/
  | hostCxlMemWrite (pa : Nat) (bytes : List Byte)
  /-- HOST_CXL_MEM_READ (R100): A host read of HBM over CXL.mem. -/
  | hostCxlMemRead (pa n : Nat)
  /-- QCTL_ENABLE (R298): Latches a queue entry, checks it and sets en. -/
  | qctlEnable (q : BitVec 11)
  /-- QCTL_DISABLE (R298): Clears a queue's en bit. -/
  | qctlDisable (q : BitVec 11)
  /-- POWER_GOOD (R304): Power-good starts Stage 0 with every register at reset. -/
  | powerGood
  /-- POWER_LOST (R417): Power-good is lost and the module stops. -/
  | powerLost
  /-- FWCMD_AUTHENTICATE (R305): Starts authentication of the firmware image. -/
  | fwcmdAuthenticate
  /-- AUTHENTICATION_COMPLETE (R305): Authentication passes and Stage 1 begins, or it fails. -/
  | authenticationComplete (result : FwResult)
  /-- STAGE1_COMPLETE (R304): HBM and mesh training end and Stage 2 begins, or the stage fails. -/
  | stage1Complete (fail : Option (Byte × Word))
  /-- STAGE2_COMPLETE (R304): Engines and ports are up and ready becomes 1, or the stage fails. -/
  | stage2Complete (fail : Option Word) (ebnas : BitVec 16)
  /-- SCRUN_START (R306): Starts a Stage 0 scalar run. -/
  | scrunStart (v : Word)
  /-- MRST_MODULE_RESET (R416): Module reset by register write. -/
  | mrstModuleReset (v : Word)
  /-- CXL_RESET (R416): A conventional or hot reset of the port resets the module. -/
  | cxlReset
  /-- DRST_DIE_RESET (R415): Requests a reset of one die. -/
  | drstDieReset (die : Nat)
  /-- DIE_RESET_COMPLETE (R415): A die reset finishes and RSTAT becomes 2. -/
  | dieResetComplete (die : Nat)
  /-- MIGREQ_CLAIM (R380): Migration arbiter: a claim of a page. -/
  | migreqClaim (host : Bool) (page : BitVec 36)
  /-- MIGREQ_COMMIT (R380): Migration arbiter: a commit of a claimed page. -/
  | migreqCommit (host : Bool) (page : BitVec 36)
  /-- MIGREQ_RELEASE (R380): Migration arbiter: a release of a claim. -/
  | migreqRelease (host : Bool) (page : BitVec 36)
  /-- POWER_WINDOW_CHECK (R308): Every 1,024 cycles, mean power is compared with the cap and issue is gated. -/
  | powerWindowCheck (die watts temp : Nat)
  /-- THERMAL_TRIP (R418): The die temperature reaches the trip value and the die fails. -/
  | thermalTrip (die : Nat)
  /-- CORRECTED_ERROR (R356): A corrected bit or flit retry is counted. -/
  | correctedError (domain : Nat)
  /-- UNCORRECTABLE_ERROR (R383): An uncorrectable error poisons data or ends the task, die or module. -/
  | uncorrectableError (place : ErrorPlace)
  /-- POD_LINK_DOWN (R406): A pod-link port exhausts its retries or loses training and goes down. -/
  | podLinkDown (port : Nat) (trainingLost : Bool)
  /-- EBNAS_PORT_TIMEOUT (R408): A chip gives no answer within 65,536 cycles and its port goes down. -/
  | ebnasPortTimeout (chip : Nat)
  /-- FIRMWARE_WINDOW_WRITE (R305): LD 0 writes firmware image bytes through BAR4 into the scratchpad of core 0 of die 0, and the write is discarded while authentication runs or after Stage 0. -/
  | firmwareWindowWrite (ld off : Nat) (v : Word)
  deriving DecidableEq, Repr

end Sys2Proof
end

