-- ==== Sys2Proof/Machine/State.lean ====
section
/-! DEFINITION. The state of the machine as plain data: every register, memory, queue and record the spec gives it
(INVENTORY.md lists each with its rule), the reasons a step can stop, and the machine right after power-good. -/

namespace Sys2Proof.Machine

/-- A failure as R349 and R352 describe it: cause, faulting address, detail. -/
structure Trap where
  cause : Cause
  faddr : Word := 0
  info : Word := 0
  /-- Raised by a walk's read of a poisoned entry (R353, R381). -/
  walk : Bool := false
  deriving DecidableEq, Repr

/-- One transfer of a stream register, kept as the 64-byte record of R64 reads. -/
structure StreamRec where
  base : Word := 0
  /-- `true`: virtual space. -/
  virt : Bool := false
  /-- `true`: a write stream. -/
  out : Bool := false
  /-- log2 of the element size. -/
  lg : BitVec 2 := 0
  wrap : BitVec 4 := 0
  dims : Byte := 0
  wlen : W32 := 0
  counts : Vector (BitVec 16) 4 := Vector.replicate 4 0
  strides : Vector W32 4 := Vector.replicate 4 0
  phase : W32 := 0
  idx : Vector (BitVec 16) 4 := Vector.replicate 4 0
  remaining : Word := 0
  deriving DecidableEq, Repr

/-- An address generator (R77). -/
structure Ag where
  w0 : Word := 0
  w1 : Word := 0
  deriving DecidableEq, Repr

/-- A translation an XLT or XLTP waits for: what it found at issue, whether a drain has undone that, and XLTP's
destination (R167, R73). -/
structure TxPend where
  pa : Nat
  size : BitVec 2
  wr : Bool
  /-- Read permission. -/
  rd : Bool := true
  redo : Bool := false
  /-- A drain undid a complete translation: it is made again on the next use, and its failure is that use's (R73). -/
  again : Bool := false
  dest : Option GF
  /-- The bundle and the word of the XLT or XLTP. -/
  pc : BitVec 48 := 0
  insn : Word := 0
  deriving DecidableEq, Repr

/-- An interlocked translation register: its word (R73), the address it translates, the read permission found, a pending
translation. -/
structure Tx where
  word : Word := 0
  va : Word := 0
  wantWrite : Bool := false
  rd : Bool := true
  pend : Option TxPend := none
  deriving DecidableEq, Repr

/-- A live load-block (R68): its lines' addresses, copy and dirty bits. -/
structure LoadBlock where
  va : Word
  pas : List Nat
  data : List Byte
  dirty : List Bool
  poison : List Bool
  filled : Bool
  /-- Physical scratchpad key of the completion word. -/
  cword : Nat
  cval : Word
  deriving DecidableEq, Repr

/-- A scratchpad write that a command makes when it completes: physical scratchpad key, bytes. -/
structure SpadWrite where
  key : Nat
  bytes : List Byte
  poison : Bool := false
  deriving DecidableEq, Repr

/-- A vector command that has issued and not yet written its destination (R179). -/
structure VPend where
  writes : List SpadWrite
  /-- The six flags it sets, in FLAGS order of the v field. -/
  flags : Nat
  pc : BitVec 48
  deriving DecidableEq, Repr

/-- Where a matrix command came from (R210, R269). -/
inductive MSrc where
  | slot
  | follow (job : Nat)
  | seq (cluster : Nat)
  deriving DecidableEq, Repr

/-- A matrix command in tile queue 1 or in the array (R210 to R212). -/
structure MCmd where
  id : Nat
  mx : BitVec 64
  fmt : W32
  src : MSrc
  pc : BitVec 48
  /-- The accumulator it names; 4 for none. -/
  acc : Nat := 4
  /-- It is a drain. -/
  drain : Bool := false
  /-- Rings to pop at retirement. -/
  pops : List Nat := []
  /-- Rings it reads. -/
  reads : List Nat := []
  /-- Scratchpad writes a drain makes as its consumers accept it. -/
  writes : List SpadWrite := []
  /-- A drain's elements for the latch, the drain port or the sequencer, row-major as patterns of the drain format; the bytes
  of one; its rows; which of them are marked poisoned. -/
  elems : List Nat := []
  esize : Nat := 1
  mark : Nat := 0
  rowMarks : BitVec 64 := 0
  /-- Consumers that have still to accept: bit 4 latch, bit 5 drain port, bit 6 sequencer. -/
  waits : BitVec 8 := 0
  deriving DecidableEq, Repr

/-- One accumulator (R201): element (i,j) at key 64 i + j. -/
structure AccState where
  elems : SMap W32 := []
  /-- `true`: INT32. -/
  int : Bool := false
  mark : BitVec 7 := 0
  /-- Poisoned rows (R381). -/
  poison : BitVec 64 := 0
  deriving DecidableEq, Repr

/-- The matrix resources of the context that holds a core's claim (R25, R201). -/
structure Matrix where
  acc : Vector AccState 4 := Vector.replicate 4 {}
  codebook : SMap W32 := []
  tscale : W32 := 0x3F800000
  /-- The codebook or TensorScale came from a marked granule (R381). -/
  cbPoison : Bool := false
  rings : Vector (BitVec 128) 16 := Vector.replicate 16 0
  cpos : Vector Byte 16 := Vector.replicate 16 0
  tq1 : List MCmd := []
  array : List MCmd := []
  ac : Vector W32 64 := Vector.replicate 64 0
  /-- The vector input latch: the bytes drained elements wait in, each with the mark of its row (R180). -/
  latch : List (Byte × Bool) := []
  /-- Permutation records of 64 bytes, keyed by record. -/
  perm : SMap (BitVec 512) := []
  lrc : BitVec 7 := 0
  /-- Drains to the drain port that have entered the array and no job has taken: their command ids, oldest first. -/
  portDrains : List Nat := []
  /-- Drain-port jobs that have left the D queue and have no drain yet: job numbers, oldest first. -/
  portJobs : List Nat := []
  deriving DecidableEq, Repr

/-- A register that the launch unit or the scheduler has still to write (R248, R254): its number, and the answer once it is
known. -/
structure Answer where
  d : GF
  value : Option Word
  deriving DecidableEq, Repr

/-- An imprecise failure waiting for its report point (R351). -/
structure Imprecise where
  trap : Trap
  pc : BitVec 48
  insn : Word
  slot : BitVec 3
  eng : Bool
  deriving DecidableEq, Repr

/-- Registers of the group test (R127): class and number. -/
inductive RegName where
  | g (n : Nat) | p (n : Nat) | b (n : Nat) | lc (n : Nat) | lrc | vl | tx (n : Nat) | ag (n : Nat)
  /-- A stream, which only the queues interlock (R123, R128). -/
  | s (n : Nat)
  deriving DecidableEq, Repr

/-- Whether a name is a stream's. -/
def RegName.isStream : RegName → Bool
  | .s _ => true
  | _ => false

/-- An instruction that dispatch has placed in its slot's queue and that has not left it (R128): its word, its bundle's address,
the number of its bundle and of its group on the path, its bundle's sync mask. -/
structure QEntry where
  slot : Fin 7
  instr : Instr
  insn : Word
  pc : BitVec 48
  bundle : Nat
  group : Nat
  sync : BitVec 7
  /-- It has passed every check that can raise a precise fault (R350). -/
  checked : Bool := false
  /-- The model's own: it has been tried since the machine last moved on. -/
  tried : Bool := false
  deriving DecidableEq, Repr

/-- Whether two entries are the same place of the path. -/
def QEntry.same (a b : QEntry) : Bool := a.bundle == b.bundle && a.slot == b.slot

/-- A bundle in progress: its address, the slots left, where the next slot's word stands (R125). -/
structure Cursor where
  slots : List (Fin 7)
  /-- Address of the next slot's word. -/
  addr : BitVec 48
  /-- Bundle to go to once the last slot is done. -/
  next : BitVec 48
  sync : BitVec 7
  /-- Execution leaves by a transfer: the next bundle starts a group. -/
  jumped : Bool := false
  stop : Bool
  /-- The word of the instruction in hand (R352), and what it decodes to. -/
  insn : Word := 0
  instr : Option Instr := none
  /-- Numbers of the bundle and of its group on the path. -/
  bundle : Nat := 0
  group : Nat := 0
  /-- The instruction in hand leaves its queue after its bundle has passed (R128). -/
  back : Option QEntry := none
  /-- The first slot of this bundle that has set an enabled flag (R370). -/
  trapSlot : Option (BitVec 3) := none
  deriving DecidableEq, Repr

/-- What a hold waits for: matrix commands (MFENCE), engine jobs (DFENCE), register results, vector commands, stores (SYNC). -/
inductive HoldKind where
  | commands | jobs | results | vectors | stores
  deriving DecidableEq, Repr

/-- A wait that holds the named slots of later bundles: until the commands or jobs numbered below `before` are done
(R154, R215, R240). It takes effect when the bundle that makes it ends. -/
structure Hold where
  kind : HoldKind
  slots : BitVec 7
  before : Nat
  /-- The bundle that makes it. -/
  bundle : Nat := 0
  live : Bool := false
  deriving DecidableEq, Repr

/-- Where a SIGC writes. -/
inductive SigTarget where
  | spad (cont off : Nat)
  | mem (pa : Nat)
  deriving DecidableEq, Repr

/-- A SIGC whose write waits for jobs numbered below `before` and for load-block fills (R156). -/
structure PendSig where
  target : SigTarget
  value : Word
  scope : BitVec 3
  before : Nat
  deriving DecidableEq, Repr

/-- An older fmt value, which instructions take that leave their queues before cycle `till` of the die (R129). -/
structure OldFmt where
  val : W32
  till : Nat
  deriving DecidableEq, Repr

/-- fmt as it stood when an FMTW of a bundle left its queue ahead of older instructions (R129, R350). -/
structure FmtUndo where
  bundle : Nat
  fmt : W32
  old : List OldFmt
  deriving DecidableEq, Repr

/-- A continuation: its record (R21), its context (R25), its placement, and what it waits for. -/
structure Cont where
  /-- The model's number of the continuation. -/
  id : Nat := 0
  -- the record
  pc : BitVec 48 := 0
  state : Byte := 0
  prio : Byte := 0
  save : Word := 0
  waddr : Word := 0
  wval : W32 := 0
  wcond : BitVec 3 := 0
  team : W32 := 0
  rank : Byte := 0
  grid : BitVec 24 := 0
  taskRec : Word := 0
  rtime : BitVec 48 := 0
  ppol : BitVec 2 := 0
  tcause : Cause := 0
  fslot : BitVec 3 := 0
  /-- Address of the record, virtual in the context. -/
  recVa : Word := 0
  /-- Where the record and the save area stand in the HBM of the team's die (R21, R27). -/
  recPa : Nat := 0
  savePa : Nat := 0
  -- placement
  task : Nat := 0
  ctx : BitVec 12 := 0
  die : Nat := 0
  core : Nat := 0
  slot : Nat := 0
  resident : Bool := false
  winBase : Nat := 0
  winLimit : Nat := 0
  claim : Bool := false
  /-- It has not dispatched a bundle yet (R249). -/
  starting : Bool := true
  /-- A Stage 0 scalar run (R306): it fetches from its window. -/
  stage0 : Bool := false
  -- the context
  g : Vector Word 24 := Vector.replicate 24 0
  /-- The poisoned granule a register's value came from (R381). -/
  gPoison : Vector (Option Word) 24 := Vector.replicate 24 none
  streams : Vector (Option StreamRec) 8 := Vector.replicate 8 none
  p : BitVec 8 := 1
  b : Vector (BitVec 48) 8 := Vector.replicate 8 0
  lc : Vector W32 4 := Vector.replicate 4 0
  vl : BitVec 16 := 0
  fmt : W32 := 0
  fmtOld : List OldFmt := []
  /-- What its A-slot accesses to come are ordered after, by preserved program order (R86, R89). -/
  past : SMap Nat := []
  flags : W32 := 0
  tx : Vector Tx 4 := Vector.replicate 4 {}
  ag : Vector Ag 8 := Vector.replicate 8 {}
  blocks : Vector (Option LoadBlock) 8 := Vector.replicate 8 none
  tvec : Word := 0
  tsave : Bool := false
  trapen : BitVec 9 := 0
  fev : Word := 0
  sysMode : Bool := false
  imprecise : Option Imprecise := none
  /-- An enabled flag trap waits for the next bundle: its slot (R370). -/
  flagTrap : Option (BitVec 3) := none
  vpend : List VPend := []
  mx : Matrix := {}
  cursor : Option Cursor := none
  groupLen : Nat := 0
  groupWrites : List RegName := []
  /-- VL as it stood before the last group that wrote it, and that group's number (R127, R200). -/
  groupVl : BitVec 16 := 0
  vlGroup : Nat := 0
  /-- Bundles dispatched and groups begun on the path. -/
  bundles : Nat := 0
  groups : Nat := 0
  /-- The slot queues in path order (R128). -/
  queue : List QEntry := []
  /-- The next bundle is placed in its queues whole: an instruction of it cannot leave at once. -/
  timid : Bool := false
  /-- The model's own: slots whose queues lag for now (R128; log entry 3). -/
  lag : BitVec 7 := 0
  fmtUndo : List FmtUndo := []
  holds : List Hold := []
  /-- SIGCs in flight, oldest first (R156). -/
  sig : List PendSig := []
  answers : List Answer := []
  /-- The barrier it waits at in state 5 (R29). -/
  barr : Option (BitVec 3) := none
  /-- The continuation holds at a TLBCNF: the drains it waits for are its own (R259). -/
  inTlbcnf : Bool := false
  /-- Order in which it last issued, or was created, for the picker (R24). -/
  since : Nat := 0
  /-- The window image of a swapped-out member, keyed by window offset (R30, R61). -/
  image : Memory := []
  /-- The image has been captured; before the first dispatch there is none, only `early` writes (R61). -/
  imaged : Bool := false
  /-- Bytes written to the member's window before its first dispatch: offset and byte, oldest first. -/
  early : List (Nat × Byte) := []
  imagePoison : SMap Bool := []
  /-- Of a member of a stolen team: the thief has given its window's bytes for an access (R293; log entry 73). -/
  given : Bool := false
  deriving DecidableEq, Repr

/-- A team of another module that this one runs: its module, its task and its index there; whether a stop there holds it
(R290, R292, R293). -/
structure GuestId where
  origin : Nat
  task : Nat
  team : Nat
  halted : Bool := false
  deriving DecidableEq, Repr

/-- What a stolen member asks of its origin, which holds its context, translations and task (R293). -/
inductive GuestReq where
  | tspawn (x : Word)
  | crspawn (x y : Word) (fmt : W32)
  | glnch (x : Word)
  | gtok (x y : Word)
  | gstat (x y : Word) (node : Bool)
  | prmt (x y : Word)
  | tlbdrn (ctx : BitVec 12) (x y : Word)
  | tlbcnf
  | leaseg (x y : Word)
  deriving DecidableEq, Repr

/-- A context-table entry (R71), the copy a task took at admission. -/
structure CtxEntry where
  hbase : Word := 0
  hlim : Word := 0
  hoff : Word := 0
  ptbase : Word := 0
  deriving DecidableEq, Repr

/-- A footprint entry (R245). -/
structure Region where
  base : Word
  len : Nat
  wr : Bool
  ren : Bool
  whole : Bool
  deriving DecidableEq, Repr

/-- A kernel header as admission read it (R243). -/
structure Header where
  entry : Word := 0
  window : Nat := 0
  claim : Bool := false
  ppol : BitVec 2 := 0
  fmt : W32 := 0
  rtime : BitVec 48 := 0
  /-- Loop table: kind and trip count of the four levels (R32). -/
  loops : List (Nat × Nat) := []
  rings : List (BitVec 128) := []
  deriving DecidableEq, Repr

/-- Where a task stands on the path of R276. -/
inductive Stage where
  | ordering | leasing | dispatch | ended
  deriving DecidableEq, Repr

/-- A task (R35, R244). -/
structure Task where
  seq : Nat
  recVa : Word := 0
  ctx : BitVec 12 := 0
  entry : CtxEntry := {}
  cls : Nat := 0
  prio : Nat := 0
  path : Nat := 0
  sys : Bool := false
  /-- The sys field of the task record (R242). -/
  recSys : Bool := false
  hdr : Header := {}
  param : Word := 0
  cword : Word := 0
  cval : Word := 0
  teams : Nat := 1
  size : Nat := 1
  grid : BitVec 24 := 0
  helpers : Nat := 0
  fp : List Region := []
  /-- Footprints of the cards of its jobs, since its start (R36). -/
  cards : List Region := []
  /-- The accepting die: that of team 0, of a replay's node 0 (R283). -/
  accDie : Nat := 0
  tstate : Nat := 1
  stage : Stage := .ordering
  /-- Die of each team. -/
  place : List Nat := []
  leased : Bool := false
  bounded : Bool := false
  deadline : Option Nat := none
  /-- Core-cycles reserved on each die (R283). -/
  resv : List (Nat × Nat) := []
  /-- The count of each placement die when the first team was dispatched (R287). -/
  began : SMap Nat := []
  /-- Renamed versions: virtual base, length, physical base (R37). -/
  fresh : List (Word × Nat × Nat) := []
  /-- Versions current at dispatch: what the task reads elsewhere (R37, R388). -/
  seen : List (Word × Nat × Nat) := []
  /-- The record and the save area of the continuation whose access is translated: virtual base, length, physical base
  (R74). -/
  own : List (Word × Nat × Nat) := []
  node : Option (Nat × Nat) := none
  /-- Dies that chose this task as a drain victim (R287). -/
  draining : List Nat := []
  /-- It holds an entry of its die's dependence table (R280). -/
  entered : Bool := false
  /-- The whole task is a resubmission after a kill (R284). -/
  again : Bool := false
  /-- This module's own stand-in for the task of a team it has stolen (R292). -/
  guest : Option GuestId := none
  deriving DecidableEq, Repr

/-- Residence of a team (R28, R30, R292). -/
inductive Res where
  | waiting
  | resident
  /-- Issue has stopped; the swap waits for the team's work. `ckpt`: a checkpoint. -/
  | leaving (since : Nat) (ckpt : Bool)
  | out
  /-- Checkpointed and not yet readmitted. -/
  | parked
  | sending (thief : Nat)
  | stolen (thief : Nat)
  | ended
  deriving DecidableEq, Repr

/-- A team (R28). -/
structure Team where
  task : Nat
  idx : Nat
  die : Nat
  size : Nat
  res : Res := .waiting
  since : Nat := 0
  arrived : Vector (BitVec 16) 8 := Vector.replicate 8 0
  deriving DecidableEq, Repr

/-- A graph node as the executor holds it in a replay (R247). -/
structure Node where
  taskVa : Word
  npred : Nat
  succ : List Nat
  poff : Nat
  rlim : Nat
  st : Nat := 1
  tokens : Nat := 0
  retries : Nat := 0
  ncause : Cause := 0
  task : Option Nat := none
  /-- The task as admission of the replay prepared it (R276). -/
  prep : Option Task := none
  deriving DecidableEq, Repr

/-- A replay as admission accepted it, held until it starts (R39, R248). -/
structure Replay where
  entry : CtxEntry := {}
  cls : Nat := 0
  path : Nat := 0
  sys : Bool := false
  nodesVa : Word := 0
  count : Nat := 0
  parea : List Word := []
  psize : Nat := 0
  cword : Word := 0
  cval : Word := 0
  nodes : List Node := []
  bounded : Bool := false
  deadline : Option Nat := none
  resv : List (Nat × Nat) := []
  entries : Nat := 0
  /-- A patch doorbell that was held when this replay was accepted takes effect before its start (R40). -/
  afterPatch : Bool := false
  deriving DecidableEq, Repr

/-- A graph the executor knows (R246). -/
structure Graph where
  id : Nat
  desc : Word
  ctx : BitVec 12
  entry : CtxEntry := {}
  cls : Nat := 0
  path : Nat := 0
  sys : Bool := false
  nodesVa : Word := 0
  count : Nat := 0
  parea : List Word := []
  psize : Nat := 0
  cur : Bool := false
  cword : Word := 0
  cval : Word := 0
  replays : Nat := 0
  running : Bool := false
  /-- The pending replay (R39). -/
  pend : Option Replay := none
  pendVersion : Bool := false
  areaReady : Bool := true
  /-- Patch doorbells held until the patch area is ready. -/
  heldPatches : Nat := 0
  nodes : List Node := []
  faulted : Bool := false
  bounded : Bool := false
  deadline : Option Nat := none
  resv : List (Nat × Nat) := []
  /-- Entries reserved for the replay (R283). -/
  entries : Nat := 0
  deriving DecidableEq, Repr

/-- How far an engine job has come (R219, R81). -/
inductive JobState where
  | queued | started
  /-- Payload and signals made; a follow-on still waits on its counter. -/
  | landed
  deriving DecidableEq, Repr

/-- A 128-byte job card (R136). -/
abbrev Card := BitVec 1024

/-- An engine job (R136). -/
structure Job where
  id : Nat
  cont : Nat
  task : Nat
  die : Nat
  op : Nat
  card : Card
  cardOff : Nat
  mm : BitVec 4 := 0
  ac : BitVec 6 := 0
  fmt : W32 := 0
  pc : BitVec 48 := 0
  insn : Word := 0
  st : JobState := .queued
  /-- A djob of a sequencer run on this cluster. -/
  seq : Option Nat := none
  /-- Staging buffer chosen (R79). -/
  buf : Option Bool := none
  /-- Notices and states of an EXN job still to be processed (R230). -/
  left : Nat := 0
  sent : Bool := false
  refused : Bool := false
  /-- Follow-on still to issue. -/
  follow : Bool := false
  /-- What its accesses are ordered after at other dies (R97). -/
  past : SMap Nat := []
  /-- Drain elements a drain-port job has taken, rows, element size (R430). -/
  port : Option (List Nat × Nat × Nat) := none
  deriving DecidableEq, Repr

/-- A stamped write that some dies have still to apply (R93). -/
structure Write where
  src : Nat
  stamp : SMap Nat
  pa : Nat
  bytes : List Byte
  poison : Bool
  todo : List Nat
  deriving DecidableEq, Repr

/-- The write a die's view of a byte holds: source die and stamp (R94, R96). -/
structure Held where
  src : Nat := 0
  stamp : SMap Nat := []
  deriving DecidableEq, Repr

/-- Memory of the module: what each die sees of every byte (key: die × 2^52 + PA), the write each byte holds (R94),
poison marks of 64-byte granules, clocks V_d (key 64 d + s), writes in flight; scratchpads (key: core × 2^23 + offset) with the
write each of their bytes holds. -/
structure Mem where
  view : Memory := []
  held : SMap Held := []
  poison : SMap Bool := []
  clock : SMap Nat := []
  flight : List Write := []
  spad : Memory := []
  spadPoison : SMap Bool := []
  spadHeld : SMap Held := []
  deriving DecidableEq, Repr

/-- An exit-notice receiver registration with the member it is bound to (R257). -/
structure RxReg where
  word : Word := 0
  task : Nat := 0
  team : Nat := 0
  rank : Nat := 0
  deriving DecidableEq, Repr

/-- Registers and state of die scope (R256, R78, R295, R307, R412). -/
structure Die where
  sliceq : Word := 3000000
  pmthr : Word := 0
  ovrn : Word := 0
  stgb0 : Word := 0
  stgb1 : Word := 0
  stgs0 : Word := 0
  stgs1 : Word := 0
  stgst : Word := 0
  rx : Vector RxReg 64 := Vector.replicate 64 {}
  rstat : Word := 0
  thrm : Word := 0x034802A8
  pwrcap : Word := 250
  pwrstat : Word := 0
  failed : Bool := false
  /-- It failed by its temperature (R418). -/
  tripped : Bool := false
  /-- The die's own count at which the quantum running on it ends (R31, R262). -/
  quantumEnd : Nat := 3000000
  /-- A time-slice swap-out has been made and its swap-in is still to come (R31). -/
  owed : Bool := false
  deriving DecidableEq, Repr

/-- A run of an attention sequencer (R264, R266). -/
structure Run where
  cont : Nat
  task : Nat
  pcw : Nat
  h : Vector Word 16 := Vector.replicate 16 0
  ag : Vector Ag 8 := Vector.replicate 8 {}
  fmt : W32 := 0
  comp : W32 := 0
  /-- Rows a drain to the sequencer has delivered: patterns of its format, row-major; rows; whether the format is FP32; which
  rows are marked poisoned. -/
  scores : Option (List Nat × Nat × Bool × BitVec 64) := none
  deriving DecidableEq, Repr

/-- An attention sequencer (R263, R265). -/
structure Seq where
  store : SMap Word := []
  csa : BitVec 10 := 0
  stat : Word := 0
  run : Option Run := none
  deriving DecidableEq, Repr

/-- A host queue (R298 to R300). -/
structure Queue where
  entry : BitVec 256 := 0
  en : Bool := false
  tail : W32 := 0
  head : W32 := 0
  comps : Nat := 0
  chead : W32 := 0
  /-- A doorbell held by a consistent stop. -/
  held : Option W32 := none
  deriving DecidableEq, Repr

/-- A TLB entry of a die (R73). -/
structure TlbEntry where
  die : Nat
  ctx : BitVec 12
  va : Word
  len : Nat
  pa : Nat
  perm : BitVec 3
  deriving DecidableEq, Repr

/-- An instruction-cache line of a core (R13, R261). -/
structure ILine where
  core : Nat
  ctx : BitVec 12
  va : Word
  bytes : List Byte
  deriving DecidableEq, Repr

/-- A write of a module structure that a draining range holds back (R73). -/
structure HeldWrite where
  die : Nat
  ctx : BitVec 12
  entry : CtxEntry
  va : Word
  bytes : List Byte
  deriving DecidableEq, Repr

/-- A draining range (R73, R259). -/
structure Drain where
  cont : Nat
  ctx : BitVec 12
  base : Word
  len : Nat
  deriving DecidableEq, Repr

/-- A migration claim (R380). -/
structure Claim where
  page : BitVec 36
  host : Bool
  contested : Bool
  deriving DecidableEq, Repr

/-- An exit notice on its way to a receiver (R51, R230). -/
structure Notice where
  die : Nat
  word : Word
  /-- The EXN job of this module that sent it. -/
  job : Option Nat
  /-- The state that follows it. -/
  state : Option (List Byte)
  poison : Bool := false
  deriving DecidableEq, Repr

/-- An exit state on its way to its fill-source record. -/
structure ExitState where
  /-- The notice it follows. -/
  word : Word
  die : Nat
  slot : Nat
  recIdx : Option Nat
  bytes : List Byte
  job : Option Nat
  poison : Bool := false
  deriving DecidableEq, Repr

/-- Who makes an attention read (R57). -/
inductive Reader where
  | job (id : Nat)
  | seq (cluster : Nat)
  deriving DecidableEq, Repr

/-- An attention read that waits on positions. -/
structure AttRead where
  who : Reader
  slot : Nat
  layer : Nat
  first : Nat
  count : Nat
  began : Nat
  deriving DecidableEq, Repr

/-- A lazy fill in progress (R56, R57). -/
structure Fill where
  die : Nat
  slot : Nat
  layer : Nat
  pos : Nat
  recIdx : Nat
  k : List Byte
  v : List Byte
  poison : Bool := false
  /-- Where the block's header stands. -/
  hdr : List (Nat × Nat) := []
  deriving DecidableEq, Repr

/-- A PRMT that waits for a checkpoint to take effect (R254). -/
structure Prmt where
  cont : Nat
  d : GF
  task : Nat
  deriving DecidableEq, Repr

/-- A team another module owns and this one runs (R292). -/
structure Guest where
  origin : Nat
  die : Nat
  tag : Nat
  size : Nat
  /-- The number of the stand-in task here. -/
  key : Nat := 0
  deriving DecidableEq, Repr

/-- A stolen team's image and records, landed at the thief (R292, R397). -/
structure Inbound where
  origin : Nat
  tag : Nat
  task : Nat
  team : Nat
  prio : Nat
  teams : Nat
  members : List Cont
  deriving DecidableEq, Repr

/-- A page of a stolen team's virtual space while its origin performs accesses to it: what the translation there permits as a
TLB entry holds it, the cause of a failure, where its bytes stand here (R293; log entry 73). -/
structure Lent where
  task : Nat
  page : Nat
  slot : Nat
  perm : BitVec 3
  cause : Cause
  deriving DecidableEq, Repr

/-- What modules of a pod send each other (R230, R291 to R293, R301). -/
inductive Pkt where
  | notice (die : Nat) (word : Word)
  /-- The state that follows a notice. -/
  | state (die : Nat) (word : Word) (bytes : List Byte) (poison : Bool)
  | refusal (word : Word)
  /-- A notice, or the state that followed it, has been dealt with (R230). -/
  | noticeDone (word : Word)
  | token (gen : Nat) (loads : List (Nat × Byte)) (reqs : List StealReq)
  | strong (pa : Nat) (v : Word)
  | team (die task idx prio teams : Nat) (members : List Cont)
  | stealAck (tag : Nat)
  /-- A stolen team's access and its answer. -/
  | ask (task team page : Nat) (write : Bool)
  | back (task team page : Nat) (bytes : List Byte)
  /-- The answer of an access, or the cause of its failure where that is not 0. -/
  | answer (task team rank : Nat) (v : Word) (cause : Cause)
  /-- A request of a stolen member and its answer; one without a register confirms its drains (R259). -/
  | request (task team rank : Nat) (d : GF) (r : GuestReq)
  | reply (task team rank : Nat) (d : Option GF) (v : Word)
  /-- Its members' ends, a fault of it, a kill of it by the thief, a wait it begins. -/
  | done (task team : Nat)
  | fault (task team rank : Nat) (cause : Cause) (record : List Byte) (imp eng : Bool)
  | killed (task team : Nat)
  | arm (task team rank : Nat) (addr : Word) (value : W32) (cond : BitVec 3)
  /-- The origin wakes a member, ends the team, or halts it at a stop. -/
  | wake (task team rank : Nat)
  | endTeam (task team : Nat)
  | halt (task team : Nat) (held : Bool)
  /-- Bytes of a stolen member's window, to the thief and from it. -/
  | window (task team rank off : Nat) (bytes : List Byte) (poison : Bool)
  | given (task team rank off : Nat) (bytes : List Byte)
  deriving DecidableEq, Repr

/-- A message on a pod-link port: the port and the lane it waits at, the module it goes to, the 256-byte flits of it that are
still to be sent (R301). -/
structure Flit where
  port : Nat
  lane : Nat
  dest : Nat
  left : Nat
  body : Pkt
  /-- The EXN job it is of (R406). -/
  job : Option Nat := none
  deriving DecidableEq, Repr

/-- Messages that leave the module (R296, R297, R301, R357). -/
inductive Out where
  | msix (vector ld : Nat)
  | hostData (pa : Nat) (bytes : List Byte) (poison : Bool)
  | barData (bar off : Nat) (bytes : List Byte)
  | flit (port lane dest : Nat) (body : Pkt)
  deriving DecidableEq, Repr

/-- Registers of module scope (R256, R295, R307, R357, R379, R404, R412). -/
structure Regs where
  ctxtab : Word := 0
  ctxcnt : Word := 0
  plmap : Word := 0
  stopCtx : BitVec 12 := 0
  stopReq : Bool := false
  stopPhase : BitVec 2 := 0
  /-- Cycle at which phase 2 began (R395). -/
  stopBegan : Nat := 0
  bobhold : Word := 65536
  bobthr : Word := 0x0810
  lclass : Vector Word 8 := Vector.replicate 8 0
  filltab : Word := 0
  fillto : Word := 30000000
  skdesc : Word := 0
  skcorr : Word := 0
  stage : BitVec 2 := 0
  ready : Bool := false
  failCode : Byte := 0
  fwrun : Bool := false
  fwstat : Word := 0
  fwlen : Word := 0
  scrun : Word := 0
  qcfgt : Word := 0
  qctl : Word := 0
  podcfg : Word := 0x00010101
  ebstat : Vector Word 16 := Vector.replicate 16 0
  /-- Ebnas ports that went down after Stage 2 (R408). -/
  ebDown : BitVec 16 := 0
  elbase : Word := 0
  elsize : Word := 0
  elhead : Word := 0
  eltail : Word := 0
  ellost : Word := 0
  elmask : Word := 0x3C
  elpend : Word := 0
  softcnt : Vector Word 8 := Vector.replicate 8 0
  dieoff : Word := 0
  /-- Dies withheld in this start (R413): DIEOFF as the last Stage 1 took it. -/
  withheld : Word := 0
  sfail : Word := 0
  migres0 : Word := 0
  migres1 : Word := 0
  /-- Pod-link ports up, one bit each (R406). -/
  podUp : BitVec 12 := 0xFFF
  powered : Bool := true
  deriving DecidableEq, Repr

/-- The Bobbin token as this module knows it (R291, R396). -/
structure Bobbin where
  held : Bool := false
  gen : Nat := 0
  loads : List (Nat × Byte) := []
  reqs : List StealReq := []
  /-- Cycle of the last arrival or sending. -/
  since : Nat := 0
  deriving DecidableEq, Repr

/-- The machine. -/
structure Mach where
  /-- The continuation whose instructions the next step issues. -/
  cur : Cont := {}
  conts : List Cont := []
  nextId : Nat := 1
  mem : Mem := {}
  tasks : List Task := []
  teams : List Team := []
  graphs : List Graph := []
  jobs : List Job := []
  nextJob : Nat := 1
  nextCmd : Nat := 1
  dies : SMap Die := []
  seqs : SMap Seq := []
  queues : SMap Queue := []
  regs : Regs := {}
  /-- RSV(c,d) at 64 c + d (R283). -/
  rsv : SMap Nat := []
  /-- Current versions of renamed regions: context, virtual base, length, physical base (R37). -/
  versions : List (Nat × Word × Nat × Nat) := []
  tlb : List TlbEntry := []
  icache : List ILine := []
  drains : List Drain := []
  /-- Writes of module structures that a draining range holds back, oldest first (R73). -/
  heldWrites : List HeldWrite := []
  claims : List Claim := []
  notices : List Notice := []
  exitStates : List ExitState := []
  reads : List AttRead := []
  fills : List Fill := []
  /-- Store operations waiting at the walker: job numbers in order of arrival. -/
  skein : List Nat := []
  prmts : List Prmt := []
  bobbin : Bobbin := {}
  guests : List Guest := []
  inbound : List Inbound := []
  lent : List Lent := []
  /-- What waits at the pod-link ports, oldest first (R301). -/
  links : List Flit := []
  /-- Flits a waiting lane has let pass: key 4 × port + lane (R301). -/
  laneWaits : SMap Nat := []
  out : List Out := []
  seqCount : Nat := 0
  gridCount : Nat := 0
  /-- Cycles since Stage 1 that every die has counted (R5, R304). -/
  now : Nat := 0
  /-- Cycles each die has counted beside those: the counts of two dies share no time base (R5). -/
  ahead : SMap Nat := []
  /-- The model's count of free values taken and of pool allocations made. -/
  freeCount : Nat := 0
  /-- Counts the moments at which continuations stop issuing, for the picker's order (R24). -/
  order : Nat := 0
  /-- The model's own: the issuing continuation waits for a condition. -/
  stalled : Bool := false
  /-- The model's own: the cluster whose sequencer a micro-operation moves. -/
  seqSel : Nat := 0
  deriving DecidableEq, Repr

/-- One entry of the agenda: what moves next, or what the outside world does (the model's own; log entry 5). -/
inductive Sched where
  | event (i : Instr)
  | issue (cont : Nat)
  | micro (cluster : Nat)
  | ticks (n : Nat)
  /-- Cycles that one die alone counts (R5). -/
  | dieTicks (die n : Nat)
  /-- Queues of a continuation lag; the head of a queue of the issuing one is tried now; one element of a vector command is
  written (R128, R179). -/
  | lag (cont : Nat) (slots : BitVec 7)
  | leave (slot : Fin 7)
  | element (cont k : Nat)
  | fillLine (core : Nat) (va : Word)
  | dropLine (core : Nat)
  | dropTlb (die : Nat)
  /-- Another module has dealt with a notice of an EXN job, or with its state (R230). -/
  | noticeDone (job : Nat)
  /-- The record pool of an ended task is released (R22). -/
  | release (task : Nat)
  /-- A host writes or reads a BAR (R296, R297), or its own memory (R100). -/
  | barWrite (bar ld off : Nat) (bytes : List Byte)
  | barRead (bar off n : Nat)
  | hostWrite (pa : Nat) (bytes : List Byte)
  | hostRead (pa n : Nat)
  /-- A pod-link port sends a flit; a message passes through this module on its way (R301, R302). -/
  | send (port : Nat)
  | transit (lane dest : Nat) (body : Pkt)
  /-- A payload of a copy of another module, or its completion word, reaches memory here (R53, R101). -/
  | podPayload (src : Byte) (pa : Nat) (bytes : List Byte)
  | podCompletion (src : Byte) (pa : Nat) (v : Word)
  /-- What the thief of a team of this module sends (R293). -/
  | memberDone (task team : Nat)
  | memberFault (task team rank : Nat) (cause : Cause) (record : List Byte) (imp eng : Bool)
  | memberKilled (task team : Nat)
  | memberArm (task team rank : Nat) (addr : Word) (value : W32) (cond : BitVec 3)
  | memberAsk (task team rank : Nat) (d : GF) (r : GuestReq)
  | memberWindow (task team rank off : Nat) (bytes : List Byte)
  | memberTaken (task team rank : Nat)
  /-- What the origin of a team this module runs sends, and what this module's port does for it (R292, R293). -/
  | guestImage (x : Inbound)
  | guestAsk (key page : Nat) (write : Bool)
  | guestPage (key page : Nat) (perm : BitVec 3) (cause : Cause) (bytes : List Byte)
  | guestBack (key page : Nat)
  | guestReply (key rank : Nat) (d : Option GF) (v : Word)
  | guestWake (key rank : Nat)
  | guestEnd (origin task team : Nat)
  | guestHalt (origin task team : Nat) (held : Bool)
  | guestWindow (key rank off : Nat) (bytes : List Byte) (poison : Bool)
  | guestGive (key rank off n : Nat)
  deriving DecidableEq, Repr

/-- The state of the model: the machine, the machine as it stood at the start of the bundle in progress (R350), and the
order in which agents move (log entries 3 and 5). -/
structure State where
  m : Mach := {}
  snap : Option Mach := none
  agenda : List Sched := []
  deriving DecidableEq, Repr

/-- Reasons a step stops with a fault. -/
inductive Fault where
  /-- Raised by HOST_CXL_MEM_WRITE and HOST_CXL_MEM_READ at an address outside the HDM range (R296 exposes HBM alone):
  the access does not exist. Safe: the module never receives it. -/
  | hostOutsideHdm
  deriving DecidableEq, Repr

/-- Reasons a step is refused. -/
inductive Refusal where
  /-- Raised by an arm of the dispatcher that has no meaning yet. Safe: nothing is claimed of it. -/
  | notModelled (mnemonic : String)
  deriving DecidableEq, Repr

/-- The machine right after power-good: Stage 0, every register at its reset value (R304, R417; log entry 2). -/
def State.reset : State := {}

end Sys2Proof.Machine
end

