-- ==== Sys2Proof/Machine/Group.lean ====
section
/-! DEFINITION. The registers an instruction names as sources and as destinations, for the group rule (R127, R359). Writes of
g0 and p0 and streams are exempt; a vector command's read of VL does not count; fmt is no register of the test. -/

namespace Sys2Proof.Machine

/-- A g field that names a g register other than g0; with `st`, the stream it names too, which the group rule does not count
(R127). -/
def gR (st : Bool) (f : GF) : List RegName :=
  if 0 < f.toNat ∧ f.toNat < 24 then [.g f.toNat] else if st && decide (24 ≤ f.toNat) then [.s (f.toNat - 24)] else []

/-- A predicate field that names a predicate other than p0. -/
def pR (f : BitVec 3) : List RegName := if 0 < f.toNat then [.p f.toNat] else []

/-- The guard as a source (R130). -/
def guR (g : Guard) : List RegName := pR g.p

/-- Registers an instruction reads, implicit sources included; with `st`, streams too (R359). -/
def readsOf (st : Bool) : Instr → List RegName
  | .add gu _ a b => guR gu ++ gR st a ++ gR st b
  | .sub gu _ a b => guR gu ++ gR st a ++ gR st b
  | .addi gu _ a _ => guR gu ++ gR st a
  | .addsh gu _ a b _ => guR gu ++ gR st a ++ gR st b
  | .mul gu _ a b => guR gu ++ gR st a ++ gR st b
  | .mulh gu _ a b => guR gu ++ gR st a ++ gR st b
  | .mulhu gu _ a b => guR gu ++ gR st a ++ gR st b
  | .madd gu d a b => guR gu ++ gR st d ++ gR st a ++ gR st b
  | .div gu _ a b => guR gu ++ gR st a ++ gR st b
  | .divu gu _ a b => guR gu ++ gR st a ++ gR st b
  | .rem gu _ a b => guR gu ++ gR st a ++ gR st b
  | .remu gu _ a b => guR gu ++ gR st a ++ gR st b
  | .min gu _ a b => guR gu ++ gR st a ++ gR st b
  | .max gu _ a b => guR gu ++ gR st a ++ gR st b
  | .minu gu _ a b => guR gu ++ gR st a ++ gR st b
  | .maxu gu _ a b => guR gu ++ gR st a ++ gR st b
  | .and gu _ a b => guR gu ++ gR st a ++ gR st b
  | .or gu _ a b => guR gu ++ gR st a ++ gR st b
  | .xor gu _ a b => guR gu ++ gR st a ++ gR st b
  | .andn gu _ a b => guR gu ++ gR st a ++ gR st b
  | .andi gu _ a _ => guR gu ++ gR st a
  | .ori gu _ a _ => guR gu ++ gR st a
  | .xori gu _ a _ => guR gu ++ gR st a
  | .sll gu _ a b => guR gu ++ gR st a ++ gR st b
  | .srl gu _ a b => guR gu ++ gR st a ++ gR st b
  | .sra gu _ a b => guR gu ++ gR st a ++ gR st b
  | .slli gu _ a _ => guR gu ++ gR st a
  | .srli gu _ a _ => guR gu ++ gR st a
  | .srai gu _ a _ => guR gu ++ gR st a
  | .ror gu _ a b => guR gu ++ gR st a ++ gR st b
  | .clz gu _ a => guR gu ++ gR st a
  | .ctz gu _ a => guR gu ++ gR st a
  | .popc gu _ a => guR gu ++ gR st a
  | .bext gu _ a b _ => guR gu ++ gR st a ++ gR st b
  | .bins gu d a b => guR gu ++ gR st d ++ gR st a ++ gR st b
  | .movi gu _ _ => guR gu
  | .movk _ _ _ => []
  | .sel gu _ a b q => guR gu ++ pR q ++ gR st a ++ gR st b
  | .cmpeq gu _ a b => guR gu ++ gR st a ++ gR st b
  | .cmpne gu _ a b => guR gu ++ gR st a ++ gR st b
  | .cmplt gu _ a b => guR gu ++ gR st a ++ gR st b
  | .cmpltu gu _ a b => guR gu ++ gR st a ++ gR st b
  | .cmpge gu _ a b => guR gu ++ gR st a ++ gR st b
  | .cmpgeu gu _ a b => guR gu ++ gR st a ++ gR st b
  | .cmpeqi gu _ a _ => guR gu ++ gR st a
  | .cmplti gu _ a _ => guR gu ++ gR st a
  | .plog gu _ a b _ => guR gu ++ pR a ++ pR b
  | .movpGet gu _ => guR gu ++ ((List.range 8).drop 1 |>.map .p)
  | .movpSet gu a => guR gu ++ gR st a
  | .fadd gu _ a b _ => guR gu ++ gR st a ++ gR st b
  | .fsub gu _ a b _ => guR gu ++ gR st a ++ gR st b
  | .fmul gu _ a b _ => guR gu ++ gR st a ++ gR st b
  | .ffma gu d a b _ => guR gu ++ gR st d ++ gR st a ++ gR st b
  | .fdiv gu _ a b _ => guR gu ++ gR st a ++ gR st b
  | .fsqrt gu _ a _ => guR gu ++ gR st a
  | .fmin gu _ a b _ => guR gu ++ gR st a ++ gR st b
  | .fmax gu _ a b _ => guR gu ++ gR st a ++ gR st b
  | .fcmpeq gu _ a b _ => guR gu ++ gR st a ++ gR st b
  | .fcmplt gu _ a b _ => guR gu ++ gR st a ++ gR st b
  | .fcmple gu _ a b _ => guR gu ++ gR st a ++ gR st b
  | .fcvt gu _ a _ => guR gu ++ gR st a
  | .ftoi gu _ a _ _ _ => guR gu ++ gR st a
  | .itof gu _ a _ _ => guR gu ++ gR st a
  | .fclass gu _ a _ => guR gu ++ gR st a
  | .ldb gu _ a _ => guR gu ++ gR st a
  | .ldbu gu _ a _ => guR gu ++ gR st a
  | .ldh gu _ a _ => guR gu ++ gR st a
  | .ldhu gu _ a _ => guR gu ++ gR st a
  | .ldw gu _ a _ => guR gu ++ gR st a
  | .ldwu gu _ a _ => guR gu ++ gR st a
  | .ldd gu _ a _ => guR gu ++ gR st a
  | .ldacq gu _ a _ _ _ => guR gu ++ gR st a
  | .stb gu d a _ => guR gu ++ gR st d ++ gR st a
  | .sth gu d a _ => guR gu ++ gR st d ++ gR st a
  | .stw gu d a _ => guR gu ++ gR st d ++ gR st a
  | .std gu d a _ => guR gu ++ gR st d ++ gR st a
  | .strel gu a b _ _ _ => guR gu ++ gR st a ++ gR st b
  | .spldw gu _ a _ => guR gu ++ gR st a
  | .spldd gu _ a _ => guR gu ++ gR st a
  | .spstw gu d a _ => guR gu ++ gR st d ++ gR st a
  | .spstd gu d a _ => guR gu ++ gR st d ++ gR st a
  | .amoadd gu _ a b _ _ _ => guR gu ++ gR st a ++ gR st b
  | .amoand gu _ a b _ _ _ => guR gu ++ gR st a ++ gR st b
  | .amoor gu _ a b _ _ _ => guR gu ++ gR st a ++ gR st b
  | .amoxor gu _ a b _ _ _ => guR gu ++ gR st a ++ gR st b
  | .amomin gu _ a b _ _ _ _ => guR gu ++ gR st a ++ gR st b
  | .amomax gu _ a b _ _ _ _ => guR gu ++ gR st a ++ gR st b
  | .amoswp gu _ a b _ _ _ => guR gu ++ gR st a ++ gR st b
  | .amocas gu d a b _ _ _ => guR gu ++ gR st d ++ gR st a ++ gR st b
  | .amofadd gu _ a b _ _ _ => guR gu ++ gR st a ++ gR st b
  | .fence gu _ _ => guR gu
  | .ldblk gu d a b _ => guR gu ++ gR st d ++ gR st a ++ gR st b
  | .blkwb gu _ => guR gu
  | .blkrel gu _ => guR gu
  | .xlt gu a _ _ _ => guR gu ++ gR st a
  | .xltp gu _ a _ _ _ => guR gu ++ gR st a
  | .leaseq gu _ a => guR gu ++ gR st a
  | .sbind gu _ a _ => guR gu ++ gR st a
  | .sunbind gu _ => guR gu
  | .qinit gu _ a b => guR gu ++ gR st a ++ gR st b
  | .qadv gu _ a _ _ _ => guR gu ++ gR st a
  | .qstat gu _ _ _ => guR gu
  | .wenq gu _ a b _ => guR gu ++ gR st a ++ gR st b
  | .agset gu _ a => guR gu ++ gR st a
  | .agadv gu n a _ => guR gu ++ [.ag n.toNat] ++ gR st a
  | .vsetlImm gu _ => guR gu
  | .vsetlReg gu d => guR gu ++ gR st d ++ [.vl]
  | .vmov gu a b _ => guR gu ++ gR st a ++ gR st b
  | .vfill gu a b => guR gu ++ gR st a ++ gR st b
  | .vadd gu a b _ => guR gu ++ gR st a ++ gR st b
  | .vsub gu a b _ => guR gu ++ gR st a ++ gR st b
  | .vmul gu a b _ => guR gu ++ gR st a ++ gR st b
  | .vfma gu a b _ => guR gu ++ gR st a ++ gR st b
  | .vmin gu a b _ => guR gu ++ gR st a ++ gR st b
  | .vmax gu a b _ => guR gu ++ gR st a ++ gR st b
  | .vabs gu a _ => guR gu ++ gR st a
  | .vneg gu a _ => guR gu ++ gR st a
  | .vadds gu a b _ => guR gu ++ gR st a ++ gR st b
  | .vmuls gu a b _ => guR gu ++ gR st a ++ gR st b
  | .vfmas gu a b _ => guR gu ++ gR st a ++ gR st b
  | .vrcp gu a _ => guR gu ++ gR st a
  | .vrsqrt gu a _ => guR gu ++ gR st a
  | .vexp gu a _ => guR gu ++ gR st a
  | .vlog gu a _ => guR gu ++ gR st a
  | .vsin gu a _ => guR gu ++ gR st a
  | .vcos gu a _ => guR gu ++ gR st a
  | .vtanh gu a _ => guR gu ++ gR st a
  | .vsig gu a _ => guR gu ++ gR st a
  | .vsilu gu a _ => guR gu ++ gR st a
  | .vgelu gu a _ => guR gu ++ gR st a
  | .vcvt gu a _ => guR gu ++ gR st a
  | .vqnt gu a b _ => guR gu ++ gR st a ++ gR st b
  | .vdq gu a b => guR gu ++ gR st a ++ gR st b
  | .vcmp gu a b _ _ => guR gu ++ gR st a ++ gR st b
  | .vsel gu a b => guR gu ++ gR st a ++ gR st b
  | .vrsum gu a => guR gu ++ gR st a
  | .vrmax gu a => guR gu ++ gR st a
  | .vargmax gu a => guR gu ++ gR st a
  | .vscan gu a => guR gu ++ gR st a
  | .vdot gu a b => guR gu ++ gR st a ++ gR st b
  | .vperm gu a b => guR gu ++ gR st a ++ gR st b
  | .vgath gu a b => guR gu ++ gR st a ++ gR st b
  | .vscadd gu a b => guR gu ++ gR st a ++ gR st b
  | .viadd gu a b _ => guR gu ++ gR st a ++ gR st b
  | .vand gu a b _ => guR gu ++ gR st a ++ gR st b
  | .vor gu a b _ => guR gu ++ gR st a ++ gR st b
  | .vxor gu a b _ => guR gu ++ gR st a ++ gR st b
  | .vshl gu a b _ => guR gu ++ gR st a ++ gR st b
  | .vshr gu a b _ _ => guR gu ++ gR st a ++ gR st b
  | .vsmax gu a b => guR gu ++ gR st a ++ gR st b
  | .vrmsn gu a b => guR gu ++ gR st a ++ gR st b
  | .vrope gu a b _ => guR gu ++ gR st a ++ gR st b
  | .vmaskw gu a b _ _ => guR gu ++ gR st a ++ gR st b
  | .tcwupd gu a b => guR gu ++ gR st a ++ gR st b
  | .tcwcnt gu a => guR gu ++ gR st a
  | .vfence gu _ => guR gu
  | .vbsy gu a => guR gu ++ gR st a
  | .mma gu _ _ _ _ _ _ _ => guR gu
  | .mmabt gu _ _ _ _ _ _ _ => guR gu
  | .mmasp gu _ _ _ _ _ _ _ => guR gu
  | .mmacb gu _ _ _ _ _ _ _ => guR gu
  | .mzero gu _ _ => guR gu
  | .mldacc gu _ _ _ => guR gu
  | .mdrain gu _ _ _ => guR gu
  | .mdraina gu _ _ => guR gu
  | .mpop gu _ _ _ _ => guR gu
  | .mcbld gu _ => guR gu
  | .mscl gu _ => guR gu
  | .mfence gu _ => guR gu
  | .dcopy gu card _ => guR gu ++ gR st card
  | .dmcast gu card _ _ => guR gu ++ gR st card
  | .dgath gu card _ => guR gu ++ gR st card
  | .dscat gu card _ => guR gu ++ gR st card
  | .dscadd gu card _ => guR gu ++ gR st card
  | .dred gu card _ => guR gu ++ gR st card
  | .dbcast gu card _ => guR gu ++ gR st card
  | .dallg gu card _ => guR gu ++ gR st card
  | .dembag gu card _ => guR gu ++ gR st card
  | .dstage gu card _ => guR gu ++ gR st card
  | .pack gu card _ => guR gu ++ gR st card
  | .unpack gu card _ => guR gu ++ gR st card
  | .exn gu card _ => guR gu ++ gR st card
  | .kvfill gu card _ => guR gu ++ gR st card
  | .skfind gu card _ => guR gu ++ gR st card
  | .skput gu card _ => guR gu ++ gR st card
  | .skrel gu card _ => guR gu ++ gR st card
  | .skpin gu card _ => guR gu ++ gR st card
  | .dfence gu _ => guR gu
  | .ixwalk gu card _ => guR gu ++ gR st card
  | .ixsect gu card _ => guR gu ++ gR st card
  | .ixpart gu card _ => guR gu ++ gR st card
  | .pbr gu _ _ => guR gu
  | .pbrr gu _ a => guR gu ++ gR st a
  | .br gu b => guR gu ++ [.b b.toNat]
  | .brl gu b _ => guR gu ++ [.b b.toNat]
  | .loop gu b x => guR gu ++ [.lc x.toNat, .b b.toNat]
  | .loopiImm gu b _ _ => guR gu ++ [.b b.toNat]
  | .loopiReg gu b _ g => guR gu ++ [.b b.toNat] ++ gR st g
  | .loopl gu b _ _ => guR gu ++ [.b b.toNat] ++ [.lrc]
  | .fmtw gu _ _ => guR gu
  | .fmtwg gu a b => guR gu ++ gR st a ++ gR st b
  | .waita gu a b _ _ => guR gu ++ gR st a ++ gR st b
  | .susp gu => guR gu
  | .done gu => guR gu
  | .barr gu _ => guR gu
  | .sync gu _ => guR gu
  | .trap gu _ => guR gu
  | .sigc gu a b _ _ => guR gu ++ gR st a ++ gR st b
  | .tspawn gu _ a => guR gu ++ gR st a
  | .crspawn gu _ a b => guR gu ++ gR st a ++ gR st b
  | .glnch gu _ a => guR gu ++ gR st a
  | .gtok gu _ a b => guR gu ++ gR st a ++ gR st b
  | .gstat gu _ a b _ => guR gu ++ gR st a ++ gR st b
  | .teamq gu _ a _ => guR gu ++ gR st a
  | .sysrd gu _ _ => guR gu
  | .syswr gu d _ => guR gu ++ gR st d
  | .eret gu b => guR gu ++ [.b b.toNat]
  | .tlbdrn gu d a b c => guR gu ++ gR st a ++ gR st b ++ (if c then gR st d else [])
  | .tlbcnf gu => guR gu
  | .leaseg gu _ a b => guR gu ++ gR st a ++ gR st b
  | .cinv gu a b _ => guR gu ++ gR st a ++ gR st b
  | .prmt gu _ a b => guR gu ++ gR st a ++ gR st b
  | .hint gu a => guR gu ++ gR st a
  | .hset _ _ => []
  | .hadd _ _ _ _ => []
  | .hjmp _ _ _ => []
  | .hloop _ _ => []
  | .agld _ _ => []
  | .kvrd _ _ _ _ _ _ _ => []
  | .mxi _ _ => []
  | .smax _ _ _ _ _ _ => []
  | .resc _ _ => []
  | .norm _ _ => []
  | .rope _ _ _ _ _ _ => []
  | .djob _ _ _ => []
  | .waitw _ _ _ => []
  | .sigw _ _ _ => []
  | .mcmb _ _ _ _ => []
  | .halt => []
  | .bundleDispatch => []
  | .pickerPreemptContext _ => []
  | .writeApplyAtDie _ _ => []
  | .strongOperationAtHome _ _ _ _ _ _ => []
  | .loadBlockFillComplete _ _ => []
  | .pageWalkComplete _ _ _ => []
  | .translationComplete _ _ => []
  | .vectorCommandCompletion _ => []
  | .jobChannelStart _ => []
  | .jobCompletion _ => []
  | .followOnIssue _ => []
  | .arrayEntry _ => []
  | .matrixCommandRetire _ => []
  | .exitNoticeReceive _ _ => []
  | .exitStateArrival _ _ => []
  | .exnRefusal _ => []
  | .attentionReadRequest _ _ _ _ _ => []
  | .darnFill _ _ _ => []
  | .darnFillComplete _ _ _ => []
  | .fillTimeout _ _ => []
  | .stagingBufferSelect _ => []
  | .skeinOperationExecute => []
  | .sqstartWrite _ => []
  | .sqcsdWrite _ => []
  | .sqcsdRead _ => []
  | .rxregWrite _ _ => []
  | .registerWrite _ _ _ _ => []
  | .doorbell _ _ _ => []
  | .completionHeadWrite _ _ _ => []
  | .submitTask _ => []
  | .submitGraphReplay _ => []
  | .patchCommit _ => []
  | .spawnAnswer _ => []
  | .replayStart _ => []
  | .patchAreaCopyDone _ => []
  | .taskOrderingRelease _ => []
  | .taskLeasing _ => []
  | .teamDispatch _ => []
  | .teamSwapOut _ _ => []
  | .teamSwapIn _ _ => []
  | .sliceQuantumExpiry _ => []
  | .swapAbandonTimeout _ _ => []
  | .taskCompletion _ => []
  | .deadlineOverrun _ => []
  | .stopBegin _ => []
  | .stopResume => []
  | .stopSourcesStopped => []
  | .stopDrainComplete => []
  | .stopDrainTimeout => []
  | .bobbinTokenArrival _ _ _ => []
  | .bobholdExpiry => []
  | .bobbinTokenRegeneration _ => []
  | .stolenTeamArrival _ _ _ _ => []
  | .stealAcknowledge _ _ => []
  | .stolenTeamAccess _ _ _ _ _ _ _ => []
  | .hostCxlMemWrite _ _ => []
  | .hostCxlMemRead _ _ => []
  | .qctlEnable _ => []
  | .qctlDisable _ => []
  | .powerGood => []
  | .powerLost => []
  | .fwcmdAuthenticate => []
  | .authenticationComplete _ => []
  | .stage1Complete _ => []
  | .stage2Complete _ _ => []
  | .scrunStart _ => []
  | .mrstModuleReset _ => []
  | .cxlReset => []
  | .drstDieReset _ => []
  | .dieResetComplete _ => []
  | .migreqClaim _ _ => []
  | .migreqCommit _ _ => []
  | .migreqRelease _ _ => []
  | .powerWindowCheck _ _ _ => []
  | .thermalTrip _ => []
  | .correctedError _ => []
  | .uncorrectableError _ => []
  | .podLinkDown _ _ => []
  | .ebnasPortTimeout _ => []
  | .firmwareWindowWrite _ _ _ => []

/-- Registers an instruction writes; with `st`, streams too (R359). -/
def writesOf (st : Bool) : Instr → List RegName
  | .add _ d _ _ => gR st d
  | .sub _ d _ _ => gR st d
  | .addi _ d _ _ => gR st d
  | .addsh _ d _ _ _ => gR st d
  | .mul _ d _ _ => gR st d
  | .mulh _ d _ _ => gR st d
  | .mulhu _ d _ _ => gR st d
  | .madd _ d _ _ => gR st d
  | .div _ d _ _ => gR st d
  | .divu _ d _ _ => gR st d
  | .rem _ d _ _ => gR st d
  | .remu _ d _ _ => gR st d
  | .min _ d _ _ => gR st d
  | .max _ d _ _ => gR st d
  | .minu _ d _ _ => gR st d
  | .maxu _ d _ _ => gR st d
  | .and _ d _ _ => gR st d
  | .or _ d _ _ => gR st d
  | .xor _ d _ _ => gR st d
  | .andn _ d _ _ => gR st d
  | .andi _ d _ _ => gR st d
  | .ori _ d _ _ => gR st d
  | .xori _ d _ _ => gR st d
  | .sll _ d _ _ => gR st d
  | .srl _ d _ _ => gR st d
  | .sra _ d _ _ => gR st d
  | .slli _ d _ _ => gR st d
  | .srli _ d _ _ => gR st d
  | .srai _ d _ _ => gR st d
  | .ror _ d _ _ => gR st d
  | .clz _ d _ => gR st d
  | .ctz _ d _ => gR st d
  | .popc _ d _ => gR st d
  | .bext _ d _ _ _ => gR st d
  | .bins _ d _ _ => gR st d
  | .movi _ d _ => gR st d
  | .movk _ d _ => gR st d
  | .sel _ d _ _ _ => gR st d
  | .cmpeq _ d _ _ => pR d
  | .cmpne _ d _ _ => pR d
  | .cmplt _ d _ _ => pR d
  | .cmpltu _ d _ _ => pR d
  | .cmpge _ d _ _ => pR d
  | .cmpgeu _ d _ _ => pR d
  | .cmpeqi _ d _ _ => pR d
  | .cmplti _ d _ _ => pR d
  | .plog _ d _ _ _ => pR d
  | .movpGet _ d => gR st d
  | .movpSet _ _ => ((List.range 8).drop 1 |>.map .p)
  | .fadd _ d _ _ _ => gR st d
  | .fsub _ d _ _ _ => gR st d
  | .fmul _ d _ _ _ => gR st d
  | .ffma _ d _ _ _ => gR st d
  | .fdiv _ d _ _ _ => gR st d
  | .fsqrt _ d _ _ => gR st d
  | .fmin _ d _ _ _ => gR st d
  | .fmax _ d _ _ _ => gR st d
  | .fcmpeq _ d _ _ _ => pR d
  | .fcmplt _ d _ _ _ => pR d
  | .fcmple _ d _ _ _ => pR d
  | .fcvt _ d _ _ => gR st d
  | .ftoi _ d _ _ _ _ => gR st d
  | .itof _ d _ _ _ => gR st d
  | .fclass _ d _ _ => gR st d
  | .ldb _ d _ _ => gR st d
  | .ldbu _ d _ _ => gR st d
  | .ldh _ d _ _ => gR st d
  | .ldhu _ d _ _ => gR st d
  | .ldw _ d _ _ => gR st d
  | .ldwu _ d _ _ => gR st d
  | .ldd _ d _ _ => gR st d
  | .ldacq _ d _ _ _ _ => gR st d
  | .stb _ _ _ _ => []
  | .sth _ _ _ _ => []
  | .stw _ _ _ _ => []
  | .std _ _ _ _ => []
  | .strel _ _ _ _ _ _ => []
  | .spldw _ d _ _ => gR st d
  | .spldd _ d _ _ => gR st d
  | .spstw _ _ _ _ => []
  | .spstd _ _ _ _ => []
  | .amoadd _ d _ _ _ _ _ => gR st d
  | .amoand _ d _ _ _ _ _ => gR st d
  | .amoor _ d _ _ _ _ _ => gR st d
  | .amoxor _ d _ _ _ _ _ => gR st d
  | .amomin _ d _ _ _ _ _ _ => gR st d
  | .amomax _ d _ _ _ _ _ _ => gR st d
  | .amoswp _ d _ _ _ _ _ => gR st d
  | .amocas _ d _ _ _ _ _ => gR st d
  | .amofadd _ d _ _ _ _ _ => gR st d
  | .fence _ _ _ => []
  | .ldblk _ _ _ _ _ => []
  | .blkwb _ _ => []
  | .blkrel _ _ => []
  | .xlt _ _ _ _ n => [.tx n.toNat]
  | .xltp _ d _ _ _ n => [.tx n.toNat] ++ gR st d
  | .leaseq _ d _ => gR st d
  | .sbind _ n _ _ => if st then [.s n.toNat] else []
  | .sunbind _ n => if st then [.s n.toNat] else []
  | .qinit _ _ _ _ => []
  | .qadv _ _ _ _ _ _ => []
  | .qstat _ d _ _ => gR st d
  | .wenq _ d _ _ _ => gR st d
  | .agset _ n _ => [.ag n.toNat]
  | .agadv _ n _ _ => [.ag n.toNat]
  | .vsetlImm _ _ => [.vl]
  | .vsetlReg _ _ => [.vl]
  | .vmov _ _ _ _ => []
  | .vfill _ _ _ => []
  | .vadd _ _ _ _ => []
  | .vsub _ _ _ _ => []
  | .vmul _ _ _ _ => []
  | .vfma _ _ _ _ => []
  | .vmin _ _ _ _ => []
  | .vmax _ _ _ _ => []
  | .vabs _ _ _ => []
  | .vneg _ _ _ => []
  | .vadds _ _ _ _ => []
  | .vmuls _ _ _ _ => []
  | .vfmas _ _ _ _ => []
  | .vrcp _ _ _ => []
  | .vrsqrt _ _ _ => []
  | .vexp _ _ _ => []
  | .vlog _ _ _ => []
  | .vsin _ _ _ => []
  | .vcos _ _ _ => []
  | .vtanh _ _ _ => []
  | .vsig _ _ _ => []
  | .vsilu _ _ _ => []
  | .vgelu _ _ _ => []
  | .vcvt _ _ _ => []
  | .vqnt _ _ _ _ => []
  | .vdq _ _ _ => []
  | .vcmp _ _ _ _ _ => []
  | .vsel _ _ _ => []
  | .vrsum _ _ => []
  | .vrmax _ _ => []
  | .vargmax _ _ => []
  | .vscan _ _ => []
  | .vdot _ _ _ => []
  | .vperm _ _ _ => []
  | .vgath _ _ _ => []
  | .vscadd _ _ _ => []
  | .viadd _ _ _ _ => []
  | .vand _ _ _ _ => []
  | .vor _ _ _ _ => []
  | .vxor _ _ _ _ => []
  | .vshl _ _ _ _ => []
  | .vshr _ _ _ _ _ => []
  | .vsmax _ _ _ => []
  | .vrmsn _ _ _ => []
  | .vrope _ _ _ _ => []
  | .vmaskw _ _ _ _ _ => []
  | .tcwupd _ _ _ => []
  | .tcwcnt _ _ => []
  | .vfence _ _ => []
  | .vbsy _ _ => []
  | .mma _ _ _ _ _ _ _ _ => []
  | .mmabt _ _ _ _ _ _ _ _ => []
  | .mmasp _ _ _ _ _ _ _ _ => []
  | .mmacb _ _ _ _ _ _ _ _ => []
  | .mzero _ _ _ => []
  | .mldacc _ _ _ _ => []
  | .mdrain _ _ _ _ => []
  | .mdraina _ _ _ => []
  | .mpop _ _ _ _ _ => []
  | .mcbld _ _ => []
  | .mscl _ _ => []
  | .mfence _ _ => []
  | .dcopy _ _ _ => []
  | .dmcast _ _ _ _ => []
  | .dgath _ _ _ => []
  | .dscat _ _ _ => []
  | .dscadd _ _ _ => []
  | .dred _ _ _ => []
  | .dbcast _ _ _ => []
  | .dallg _ _ _ => []
  | .dembag _ _ _ => []
  | .dstage _ _ _ => []
  | .pack _ _ _ => [.lrc]
  | .unpack _ _ _ => []
  | .exn _ _ _ => []
  | .kvfill _ _ _ => []
  | .skfind _ _ _ => []
  | .skput _ _ _ => []
  | .skrel _ _ _ => []
  | .skpin _ _ _ => []
  | .dfence _ _ => []
  | .ixwalk _ _ _ => []
  | .ixsect _ _ _ => []
  | .ixpart _ _ _ => []
  | .pbr _ b _ => [.b b.toNat]
  | .pbrr _ n _ => [.b n.toNat]
  | .br _ _ => []
  | .brl _ _ l => [.g 23, .b l.toNat]
  | .loop _ _ x => [.lc x.toNat]
  | .loopiImm _ _ x _ => [.lc x.toNat]
  | .loopiReg _ _ x _ => [.lc x.toNat]
  | .loopl _ _ x _ => [.lc x.toNat]
  | .fmtw _ _ _ => []
  | .fmtwg _ _ _ => []
  | .waita _ _ _ _ _ => []
  | .susp _ => []
  | .done _ => []
  | .barr _ _ => []
  | .sync _ _ => []
  | .trap _ _ => []
  | .sigc _ _ _ _ _ => []
  | .tspawn _ d _ => gR st d
  | .crspawn _ d _ _ => gR st d
  | .glnch _ d _ => gR st d
  | .gtok _ d _ _ => gR st d
  | .gstat _ d _ _ _ => gR st d
  | .teamq _ d _ _ => gR st d
  | .sysrd _ d _ => gR st d
  | .syswr _ _ _ => []
  | .eret _ _ => []
  | .tlbdrn _ _ _ _ _ => []
  | .tlbcnf _ => []
  | .leaseg _ d _ _ => gR st d
  | .cinv _ _ _ _ => []
  | .prmt _ d _ _ => gR st d
  | .hint _ _ => []
  | .hset _ _ => []
  | .hadd _ _ _ _ => []
  | .hjmp _ _ _ => []
  | .hloop _ _ => []
  | .agld _ _ => []
  | .kvrd _ _ _ _ _ _ _ => []
  | .mxi _ _ => []
  | .smax _ _ _ _ _ _ => []
  | .resc _ _ => []
  | .norm _ _ => []
  | .rope _ _ _ _ _ _ => []
  | .djob _ _ _ => []
  | .waitw _ _ _ => []
  | .sigw _ _ _ => []
  | .mcmb _ _ _ _ => []
  | .halt => []
  | .bundleDispatch => []
  | .pickerPreemptContext _ => []
  | .writeApplyAtDie _ _ => []
  | .strongOperationAtHome _ _ _ _ _ _ => []
  | .loadBlockFillComplete _ _ => []
  | .pageWalkComplete _ _ _ => []
  | .translationComplete _ _ => []
  | .vectorCommandCompletion _ => []
  | .jobChannelStart _ => []
  | .jobCompletion _ => []
  | .followOnIssue _ => []
  | .arrayEntry _ => []
  | .matrixCommandRetire _ => []
  | .exitNoticeReceive _ _ => []
  | .exitStateArrival _ _ => []
  | .exnRefusal _ => []
  | .attentionReadRequest _ _ _ _ _ => []
  | .darnFill _ _ _ => []
  | .darnFillComplete _ _ _ => []
  | .fillTimeout _ _ => []
  | .stagingBufferSelect _ => []
  | .skeinOperationExecute => []
  | .sqstartWrite _ => []
  | .sqcsdWrite _ => []
  | .sqcsdRead _ => []
  | .rxregWrite _ _ => []
  | .registerWrite _ _ _ _ => []
  | .doorbell _ _ _ => []
  | .completionHeadWrite _ _ _ => []
  | .submitTask _ => []
  | .submitGraphReplay _ => []
  | .patchCommit _ => []
  | .spawnAnswer _ => []
  | .replayStart _ => []
  | .patchAreaCopyDone _ => []
  | .taskOrderingRelease _ => []
  | .taskLeasing _ => []
  | .teamDispatch _ => []
  | .teamSwapOut _ _ => []
  | .teamSwapIn _ _ => []
  | .sliceQuantumExpiry _ => []
  | .swapAbandonTimeout _ _ => []
  | .taskCompletion _ => []
  | .deadlineOverrun _ => []
  | .stopBegin _ => []
  | .stopResume => []
  | .stopSourcesStopped => []
  | .stopDrainComplete => []
  | .stopDrainTimeout => []
  | .bobbinTokenArrival _ _ _ => []
  | .bobholdExpiry => []
  | .bobbinTokenRegeneration _ => []
  | .stolenTeamArrival _ _ _ _ => []
  | .stealAcknowledge _ _ => []
  | .stolenTeamAccess _ _ _ _ _ _ _ => []
  | .hostCxlMemWrite _ _ => []
  | .hostCxlMemRead _ _ => []
  | .qctlEnable _ => []
  | .qctlDisable _ => []
  | .powerGood => []
  | .powerLost => []
  | .fwcmdAuthenticate => []
  | .authenticationComplete _ => []
  | .stage1Complete _ => []
  | .stage2Complete _ _ => []
  | .scrunStart _ => []
  | .mrstModuleReset _ => []
  | .cxlReset => []
  | .drstDieReset _ => []
  | .dieResetComplete _ => []
  | .migreqClaim _ _ => []
  | .migreqCommit _ _ => []
  | .migreqRelease _ _ => []
  | .powerWindowCheck _ _ _ => []
  | .thermalTrip _ => []
  | .correctedError _ => []
  | .uncorrectableError _ => []
  | .podLinkDown _ _ => []
  | .ebnasPortTimeout _ => []
  | .firmwareWindowWrite _ _ _ => []

/-- Registers an instruction reads, for the group rule (R127, R359). -/
def sources (i : Instr) : List RegName := readsOf false i

/-- Registers an instruction writes, for the group rule (R127, R359). -/
def dests (i : Instr) : List RegName := writesOf false i

/-- Whether an instruction depends on one that stands before it and has not left its queue: it reads or writes what that one
writes, writes what that one reads, or uses a stream that one uses (R128). -/
def hazard (x i : Instr) : Bool :=
  let rx := readsOf true x
  let wx := writesOf true x
  let ri := readsOf true i
  let wi := writesOf true i
  (wx.any fun r => ri.contains r || wi.contains r) || (rx.any fun r => wi.contains r || (r.isStream && ri.contains r))

/-- Whether an instruction names a stream. -/
def usesStream (i : Instr) : Bool := (readsOf true i ++ writesOf true i).any RegName.isStream

/-- FMTW and FMTWG, which nothing of an earlier bundle holds back (R129). -/
def isFmtw : Instr → Bool
  | .fmtw _ _ _ => true
  | .fmtwg _ _ _ => true
  | _ => false

/-- Whether an instruction in a group depends on registers the group has written (R127). -/
def groupClash (written : List RegName) (i : Instr) : Bool :=
  (sources i ++ dests i).any fun r => written.contains r

end Sys2Proof.Machine
end

