-- ==== Sys2Proof/WellFormed.lean ====
section
/-! DEFINITION. Which terms of Instr are legal instructions: the limits the fields have beyond their widths. A word that
breaks one is an illegal instruction (R123, R360 to R366) and no well-formed term encodes to it. Events carry numbers of
the outside world and have no limit here. -/

namespace Sys2Proof

/-- A field that must name a g register: streams are not allowed there (R123). -/
def isG (x : GF) : Bool := decide (x.toNat < 24)

/-- The limits R205 sets the fields of a multiply-accumulate command. -/
def mmaFields (qa qb : Q) (ks : BitVec 7) (top : Nat) : Bool :=
  qa != qb && decide (1 ≤ ks.toNat ∧ ks.toNat ≤ top)

/-- Whether an index names a system register (R256, R263, R295, R307, R357, R379, R404, R412). -/
def sysRegExists (x : Nat) : Bool :=
  decide (x ≤ 3 ∨ (0x008 ≤ x ∧ x ≤ 0x00C) ∨ (0x010 ≤ x ∧ x ≤ 0x015) ∨ x = 0x100 ∨ x = 0x101 ∨
    (0x110 ≤ x ∧ x ≤ 0x114) ∨ (0x118 ≤ x ∧ x ≤ 0x11A) ∨ (0x200 ≤ x ∧ x ≤ 0x204) ∨ (0x206 ≤ x ∧ x ≤ 0x208) ∨
    (0x210 ≤ x ∧ x ≤ 0x217) ∨ (0x300 ≤ x ∧ x ≤ 0x303) ∨ (0x310 ≤ x ∧ x ≤ 0x34F) ∨ (0x400 ≤ x ∧ x ≤ 0x403) ∨
    (0x500 ≤ x ∧ x ≤ 0x505) ∨ x = 0x508 ∨ x = 0x509 ∨ x = 0x520 ∨ (0x530 ≤ x ∧ x ≤ 0x53F) ∨ x = 0x540 ∨ x = 0x541 ∨
    (0x600 ≤ x ∧ x ≤ 0x606) ∨ (0x610 ≤ x ∧ x ≤ 0x617))

/-- A legal instruction: the field limits of R123, R149, R151, R169 to R174, R205, R213, R214, R251, R252, R255, R259,
R267. -/
def Instr.wf : Instr → Bool
  | .add _ _ _ _ => true
  | .sub _ _ _ _ => true
  | .addi _ _ _ _ => true
  | .addsh _ _ _ _ _ => true
  | .mul _ _ _ _ => true
  | .mulh _ _ _ _ => true
  | .mulhu _ _ _ _ => true
  | .madd _ _ _ _ => true
  | .div _ _ _ _ => true
  | .divu _ _ _ _ => true
  | .rem _ _ _ _ => true
  | .remu _ _ _ _ => true
  | .min _ _ _ _ => true
  | .max _ _ _ _ => true
  | .minu _ _ _ _ => true
  | .maxu _ _ _ _ => true
  | .and _ _ _ _ => true
  | .or _ _ _ _ => true
  | .xor _ _ _ _ => true
  | .andn _ _ _ _ => true
  | .andi _ _ _ _ => true
  | .ori _ _ _ _ => true
  | .xori _ _ _ _ => true
  | .sll _ _ _ _ => true
  | .srl _ _ _ _ => true
  | .sra _ _ _ _ => true
  | .slli _ _ _ _ => true
  | .srli _ _ _ _ => true
  | .srai _ _ _ _ => true
  | .ror _ _ _ _ => true
  | .clz _ _ _ => true
  | .ctz _ _ _ => true
  | .popc _ _ _ => true
  | .bext _ _ _ _ _ => true
  | .bins _ _ _ _ => true
  | .movi _ _ _ => true
  | .movk _ _ _ => true
  | .sel _ _ _ _ _ => true
  | .cmpeq _ _ _ _ => true
  | .cmpne _ _ _ _ => true
  | .cmplt _ _ _ _ => true
  | .cmpltu _ _ _ _ => true
  | .cmpge _ _ _ _ => true
  | .cmpgeu _ _ _ _ => true
  | .cmpeqi _ _ _ _ => true
  | .cmplti _ _ _ _ => true
  | .plog _ _ _ _ _ => true
  | .movpGet _ _ => true
  | .movpSet _ _ => true
  | .fadd _ _ _ _ _ => true
  | .fsub _ _ _ _ _ => true
  | .fmul _ _ _ _ _ => true
  | .ffma _ _ _ _ _ => true
  | .fdiv _ _ _ _ _ => true
  | .fsqrt _ _ _ _ => true
  | .fmin _ _ _ _ _ => true
  | .fmax _ _ _ _ _ => true
  | .fcmpeq _ _ _ _ _ => true
  | .fcmplt _ _ _ _ _ => true
  | .fcmple _ _ _ _ _ => true
  | .fcvt _ _ _ _ => true
  | .ftoi _ _ _ _ _ _ => true
  | .itof _ _ _ _ _ => true
  | .fclass _ _ _ _ => true
  | .ldb _ _ _ _ => true
  | .ldbu _ _ _ _ => true
  | .ldh _ _ _ _ => true
  | .ldhu _ _ _ _ => true
  | .ldw _ _ _ _ => true
  | .ldwu _ _ _ _ => true
  | .ldd _ _ _ _ => true
  | .ldacq _ _ _ _ _ _ => true
  | .stb _ _ _ _ => true
  | .sth _ _ _ _ => true
  | .stw _ _ _ _ => true
  | .std _ _ _ _ => true
  | .strel _ _ _ _ _ _ => true
  | .spldw _ _ _ _ => true
  | .spldd _ _ _ _ => true
  | .spstw _ _ _ _ => true
  | .spstd _ _ _ _ => true
  | .amoadd _ _ _ _ _ _ _ => true
  | .amoand _ _ _ _ _ _ _ => true
  | .amoor _ _ _ _ _ _ _ => true
  | .amoxor _ _ _ _ _ _ _ => true
  | .amomin _ _ _ _ _ _ _ _ => true
  | .amomax _ _ _ _ _ _ _ _ => true
  | .amoswp _ _ _ _ _ _ _ => true
  | .amocas _ _ _ _ _ _ _ => true
  | .amofadd _ _ _ _ _ _ _ => true
  | .fence _ _ _ => true
  | .ldblk _ _ _ _ _ => true
  | .blkwb _ _ => true
  | .blkrel _ _ => true
  | .xlt _ _ _ _ _ => true
  | .xltp _ _ _ _ _ _ => true
  | .leaseq _ _ _ => true
  | .sbind _ _ _ _ => true
  | .sunbind _ _ => true
  | .qinit _ _ _ _ => true
  | .qadv _ _ a r h n => decide (1 ≤ n.toNat ∧ n.toNat ≤ 128) && !(r && h) && (r || a == 0)
  | .qstat _ _ _ _ => true
  | .wenq _ _ _ _ _ => true
  | .agset _ _ _ => true
  | .agadv _ _ _ _ => true
  | .vsetlImm _ _ => true
  | .vsetlReg _ a => a != 0
  | .vmov _ a b _ => isG a && isG b
  | .vfill _ a b => isG a && isG b
  | .vadd _ a b _ => isG a && isG b
  | .vsub _ a b _ => isG a && isG b
  | .vmul _ a b _ => isG a && isG b
  | .vfma _ a b _ => isG a && isG b
  | .vmin _ a b _ => isG a && isG b
  | .vmax _ a b _ => isG a && isG b
  | .vabs _ a _ => isG a
  | .vneg _ a _ => isG a
  | .vadds _ a b _ => isG a && isG b
  | .vmuls _ a b _ => isG a && isG b
  | .vfmas _ a b _ => isG a && isG b
  | .vrcp _ a _ => isG a
  | .vrsqrt _ a _ => isG a
  | .vexp _ a _ => isG a
  | .vlog _ a _ => isG a
  | .vsin _ a _ => isG a
  | .vcos _ a _ => isG a
  | .vtanh _ a _ => isG a
  | .vsig _ a _ => isG a
  | .vsilu _ a _ => isG a
  | .vgelu _ a _ => isG a
  | .vcvt _ a _ => isG a
  | .vqnt _ a b _ => isG a && isG b
  | .vdq _ a b => isG a && isG b
  | .vcmp _ a b _ _ => isG a && isG b
  | .vsel _ a b => isG a && isG b
  | .vrsum _ a => isG a
  | .vrmax _ a => isG a
  | .vargmax _ a => isG a
  | .vscan _ a => isG a
  | .vdot _ a b => isG a && isG b
  | .vperm _ a b => isG a && isG b
  | .vgath _ a b => isG a && isG b
  | .vscadd _ a b => isG a && isG b
  | .viadd _ a b _ => isG a && isG b
  | .vand _ a b _ => isG a && isG b
  | .vor _ a b _ => isG a && isG b
  | .vxor _ a b _ => isG a && isG b
  | .vshl _ a b _ => isG a && isG b
  | .vshr _ a b _ _ => isG a && isG b
  | .vsmax _ a b => isG a && isG b
  | .vrmsn _ a b => isG a && isG b
  | .vrope _ a b _ => isG a && isG b
  | .vmaskw _ a b _ _ => isG a && isG b
  | .tcwupd _ a b => isG a && isG b
  | .tcwcnt _ a => isG a
  | .vfence _ _ => true
  | .vbsy _ a => isG a
  | .mma _ qa qb _ _ ks _ _ => mmaFields qa qb ks 96
  | .mmabt _ qa qb _ _ ks _ _ => mmaFields qa qb ks 96
  | .mmasp _ qa qb _ _ ks _ _ => mmaFields qa qb ks 48
  | .mmacb _ qa qb _ _ ks _ _ => mmaFields qa qb ks 96 && decide (ks.toNat % 2 = 0)
  | .mzero _ _ _ => true
  | .mldacc _ _ _ _ => true
  | .mdrain _ _ m off => decide (m.toNat ≠ 0) && (decide (m.toNat % 16 ≠ 0) || off == 0)
  | .mdraina _ _ _ => true
  | .mpop _ qa qb x y => (x || y) && (x || qa == 0) && (y || qb == 0)
  | .mcbld _ _ => true
  | .mscl _ _ => true
  | .mfence _ _ => true
  | .dcopy _ card _ => isG card
  | .dmcast _ card _ _ => isG card
  | .dgath _ card _ => isG card
  | .dscat _ card _ => isG card
  | .dscadd _ card _ => isG card
  | .dred _ card _ => isG card
  | .dbcast _ card _ => isG card
  | .dallg _ card _ => isG card
  | .dembag _ card _ => isG card
  | .dstage _ card _ => isG card
  | .pack _ card _ => isG card
  | .unpack _ card _ => isG card
  | .exn _ card _ => isG card
  | .kvfill _ card _ => isG card
  | .skfind _ card _ => isG card
  | .skput _ card _ => isG card
  | .skrel _ card _ => isG card
  | .skpin _ card _ => isG card
  | .dfence _ _ => true
  | .ixwalk _ card _ => isG card
  | .ixsect _ card _ => isG card
  | .ixpart _ card _ => isG card
  | .pbr _ _ _ => true
  | .pbrr _ _ _ => true
  | .br _ _ => true
  | .brl _ _ _ => true
  | .loop _ _ _ => true
  | .loopiImm _ _ _ _ => true
  | .loopiReg _ _ _ _ => true
  | .loopl _ _ _ d => decide (1 ≤ d.toNat ∧ d.toNat ≤ 64)
  | .fmtw _ _ _ => true
  | .fmtwg _ _ _ => true
  | .waita _ _ _ _ c => decide (c.toNat ≤ 4)
  | .susp _ => true
  | .done _ => true
  | .barr _ _ => true
  | .sync _ _ => true
  | .trap _ _ => true
  | .sigc _ _ _ _ _ => true
  | .tspawn _ _ _ => true
  | .crspawn _ _ _ _ => true
  | .glnch _ _ _ => true
  | .gtok _ _ _ _ => true
  | .gstat _ _ _ b n => n || b == 0
  | .teamq _ _ a t => !t || a == 0
  | .sysrd _ _ x => sysRegExists x.toNat
  | .syswr _ _ x => sysRegExists x.toNat
  | .eret _ _ => true
  | .tlbdrn _ d _ _ c => c || d == 0
  | .tlbcnf _ => true
  | .leaseg _ _ _ _ => true
  | .cinv _ _ _ _ => true
  | .prmt _ _ _ _ => true
  | .hint _ _ => true
  | .hset _ _ => true
  | .hadd _ _ _ _ => true
  | .hjmp _ _ _ => true
  | .hloop _ _ => true
  | .agld _ _ => true
  | .kvrd _ _ _ _ bl _ cnt => decide (1 ≤ bl.toNat ∧ 1 ≤ cnt.toNat ∧ cnt.toNat ≤ 64)
  | .mxi _ _ => true
  | .smax _ _ _ _ _ cnt => decide (1 ≤ cnt.toNat ∧ cnt.toNat ≤ 64)
  | .resc _ _ => true
  | .norm _ _ => true
  | .rope _ _ _ _ d rows => decide (d.toNat % 2 = 0 ∧ 2 ≤ d.toNat ∧ d.toNat ≤ 512 ∧ 1 ≤ rows.toNat ∧ rows.toNat ≤ 64)
  | .djob _ _ _ => true
  | .waitw _ _ _ => true
  | .sigw _ _ _ => true
  | .mcmb _ _ _ _ => true
  | .halt => true
  | .bundleDispatch => true
  | .pickerPreemptContext _ => true
  | .writeApplyAtDie _ _ => true
  | .strongOperationAtHome _ _ _ _ _ _ => true
  | .loadBlockFillComplete _ _ => true
  | .pageWalkComplete _ _ _ => true
  | .translationComplete _ _ => true
  | .vectorCommandCompletion _ => true
  | .jobChannelStart _ => true
  | .jobCompletion _ => true
  | .followOnIssue _ => true
  | .arrayEntry _ => true
  | .matrixCommandRetire _ => true
  | .exitNoticeReceive _ _ => true
  | .exitStateArrival _ _ => true
  | .exnRefusal _ => true
  | .attentionReadRequest _ _ _ _ _ => true
  | .darnFill _ _ _ => true
  | .darnFillComplete _ _ _ => true
  | .fillTimeout _ _ => true
  | .stagingBufferSelect _ => true
  | .skeinOperationExecute => true
  | .sqstartWrite _ => true
  | .sqcsdWrite _ => true
  | .sqcsdRead _ => true
  | .rxregWrite _ _ => true
  | .registerWrite _ _ _ _ => true
  | .doorbell _ _ _ => true
  | .completionHeadWrite _ _ _ => true
  | .submitTask _ => true
  | .submitGraphReplay _ => true
  | .patchCommit _ => true
  | .spawnAnswer _ => true
  | .replayStart _ => true
  | .patchAreaCopyDone _ => true
  | .taskOrderingRelease _ => true
  | .taskLeasing _ => true
  | .teamDispatch _ => true
  | .teamSwapOut _ _ => true
  | .teamSwapIn _ _ => true
  | .sliceQuantumExpiry _ => true
  | .swapAbandonTimeout _ _ => true
  | .taskCompletion _ => true
  | .deadlineOverrun _ => true
  | .stopBegin _ => true
  | .stopResume => true
  | .stopSourcesStopped => true
  | .stopDrainComplete => true
  | .stopDrainTimeout => true
  | .bobbinTokenArrival _ _ _ => true
  | .bobholdExpiry => true
  | .bobbinTokenRegeneration _ => true
  | .stolenTeamArrival _ _ _ _ => true
  | .stealAcknowledge _ _ => true
  | .stolenTeamAccess _ _ _ _ _ _ _ => true
  | .hostCxlMemWrite _ _ => true
  | .hostCxlMemRead _ _ => true
  | .qctlEnable _ => true
  | .qctlDisable _ => true
  | .powerGood => true
  | .powerLost => true
  | .fwcmdAuthenticate => true
  | .authenticationComplete _ => true
  | .stage1Complete _ => true
  | .stage2Complete _ _ => true
  | .scrunStart _ => true
  | .mrstModuleReset _ => true
  | .cxlReset => true
  | .drstDieReset _ => true
  | .dieResetComplete _ => true
  | .migreqClaim _ _ => true
  | .migreqCommit _ _ => true
  | .migreqRelease _ _ => true
  | .powerWindowCheck _ _ _ => true
  | .thermalTrip _ => true
  | .correctedError _ => true
  | .uncorrectableError _ => true
  | .podLinkDown _ _ => true
  | .ebnasPortTimeout _ => true
  | .firmwareWindowWrite _ _ _ => true

end Sys2Proof
end

