-- ==== Sys2Proof/Decode.lean ====
section
/-! DEFINITION. The decoder of every slot class and of the attention sequencer, total on any word, and the encoder
written from the same encodings (R125, R131, R132, R138, R267). A word is read as a natural number. -/

namespace Sys2Proof

/-- `n` bits of a word from bit `lo`. -/
def fld (w lo n : Nat) : Nat := w / 2 ^ lo % 2 ^ n

/-- A field as a bit vector. -/
def bv {n : Nat} (w lo : Nat) : BitVec n := BitVec.ofNat n (w / 2 ^ lo)

/-- A one-bit field. -/
def bo (w k : Nat) : Bool := decide (w / 2 ^ k % 2 = 1)

/-- The guard and invert fields, invert at bit `lo` (R131, R132). -/
def guardOf (w lo : Nat) : Guard := { p := bv w (lo + 1), inv := bo w lo }

/-- The guard fields as a number, invert lowest. -/
def Guard.enc (g : Guard) : Nat := g.p.toNat * 2 + g.inv.toNat

/-- Accepts a term that is a legal instruction. -/
def legal (i : Instr) : Option Instr := if i.wf then some i else none

/-- The instruction a word encodes, S0 and S1 (R138). -/
def decodeS (w : Nat) : Option Instr :=
  match w / 2 ^ 25 with
  | 0 => if fld w 0 6 = 0 then legal (.add (guardOf w 21) (bv w 16) (bv w 11) (bv w 6)) else none
  | 1 => if fld w 0 6 = 0 then legal (.sub (guardOf w 21) (bv w 16) (bv w 11) (bv w 6)) else none
  | 2 => legal (.addi (guardOf w 21) (bv w 16) (bv w 11) (bv w 0))
  | 3 => legal (.addsh (guardOf w 21) (bv w 16) (bv w 11) (bv w 6) (bv w 0))
  | 4 => if fld w 0 6 = 0 then legal (.mul (guardOf w 21) (bv w 16) (bv w 11) (bv w 6)) else none
  | 5 => if fld w 0 6 = 0 then legal (.mulh (guardOf w 21) (bv w 16) (bv w 11) (bv w 6)) else none
  | 6 => if fld w 0 6 = 0 then legal (.mulhu (guardOf w 21) (bv w 16) (bv w 11) (bv w 6)) else none
  | 7 => if fld w 0 6 = 0 then legal (.madd (guardOf w 21) (bv w 16) (bv w 11) (bv w 6)) else none
  | 8 => if fld w 0 6 = 0 then legal (.div (guardOf w 21) (bv w 16) (bv w 11) (bv w 6)) else none
  | 9 => if fld w 0 6 = 0 then legal (.divu (guardOf w 21) (bv w 16) (bv w 11) (bv w 6)) else none
  | 10 => if fld w 0 6 = 0 then legal (.rem (guardOf w 21) (bv w 16) (bv w 11) (bv w 6)) else none
  | 11 => if fld w 0 6 = 0 then legal (.remu (guardOf w 21) (bv w 16) (bv w 11) (bv w 6)) else none
  | 12 => if fld w 0 6 = 0 then legal (.min (guardOf w 21) (bv w 16) (bv w 11) (bv w 6)) else none
  | 13 => if fld w 0 6 = 0 then legal (.max (guardOf w 21) (bv w 16) (bv w 11) (bv w 6)) else none
  | 14 => if fld w 0 6 = 0 then legal (.minu (guardOf w 21) (bv w 16) (bv w 11) (bv w 6)) else none
  | 15 => if fld w 0 6 = 0 then legal (.maxu (guardOf w 21) (bv w 16) (bv w 11) (bv w 6)) else none
  | 16 => if fld w 0 6 = 0 then legal (.and (guardOf w 21) (bv w 16) (bv w 11) (bv w 6)) else none
  | 17 => if fld w 0 6 = 0 then legal (.or (guardOf w 21) (bv w 16) (bv w 11) (bv w 6)) else none
  | 18 => if fld w 0 6 = 0 then legal (.xor (guardOf w 21) (bv w 16) (bv w 11) (bv w 6)) else none
  | 19 => if fld w 0 6 = 0 then legal (.andn (guardOf w 21) (bv w 16) (bv w 11) (bv w 6)) else none
  | 20 => legal (.andi (guardOf w 21) (bv w 16) (bv w 11) (bv w 0))
  | 21 => legal (.ori (guardOf w 21) (bv w 16) (bv w 11) (bv w 0))
  | 22 => legal (.xori (guardOf w 21) (bv w 16) (bv w 11) (bv w 0))
  | 23 => if fld w 0 6 = 0 then legal (.sll (guardOf w 21) (bv w 16) (bv w 11) (bv w 6)) else none
  | 24 => if fld w 0 6 = 0 then legal (.srl (guardOf w 21) (bv w 16) (bv w 11) (bv w 6)) else none
  | 25 => if fld w 0 6 = 0 then legal (.sra (guardOf w 21) (bv w 16) (bv w 11) (bv w 6)) else none
  | 26 => if fld w 6 5 = 0 then legal (.slli (guardOf w 21) (bv w 16) (bv w 11) (bv w 0)) else none
  | 27 => if fld w 6 5 = 0 then legal (.srli (guardOf w 21) (bv w 16) (bv w 11) (bv w 0)) else none
  | 28 => if fld w 6 5 = 0 then legal (.srai (guardOf w 21) (bv w 16) (bv w 11) (bv w 0)) else none
  | 29 => if fld w 0 6 = 0 then legal (.ror (guardOf w 21) (bv w 16) (bv w 11) (bv w 6)) else none
  | 30 => if fld w 0 11 = 0 then legal (.clz (guardOf w 21) (bv w 16) (bv w 11)) else none
  | 31 => if fld w 0 11 = 0 then legal (.ctz (guardOf w 21) (bv w 16) (bv w 11)) else none
  | 32 => if fld w 0 11 = 0 then legal (.popc (guardOf w 21) (bv w 16) (bv w 11)) else none
  | 33 => if fld w 1 5 = 0 then legal (.bext (guardOf w 21) (bv w 16) (bv w 11) (bv w 6) (bo w 0)) else none
  | 34 => if fld w 0 6 = 0 then legal (.bins (guardOf w 21) (bv w 16) (bv w 11) (bv w 6)) else none
  | 35 => legal (.movi (guardOf w 21) (bv w 16) (bv w 0))
  | 36 => if fld w 23 2 = 0 then legal (.movk (bv w 21) (bv w 16) (bv w 0)) else none
  | 37 => if fld w 3 3 = 0 then legal (.sel (guardOf w 21) (bv w 16) (bv w 11) (bv w 6) (bv w 0)) else none
  | 38 => if fld w 0 6 = 0 ∧ fld w 19 2 = 0 then legal (.cmpeq (guardOf w 21) (bv w 16) (bv w 11) (bv w 6)) else none
  | 39 => if fld w 0 6 = 0 ∧ fld w 19 2 = 0 then legal (.cmpne (guardOf w 21) (bv w 16) (bv w 11) (bv w 6)) else none
  | 40 => if fld w 0 6 = 0 ∧ fld w 19 2 = 0 then legal (.cmplt (guardOf w 21) (bv w 16) (bv w 11) (bv w 6)) else none
  | 41 => if fld w 0 6 = 0 ∧ fld w 19 2 = 0 then legal (.cmpltu (guardOf w 21) (bv w 16) (bv w 11) (bv w 6)) else none
  | 42 => if fld w 0 6 = 0 ∧ fld w 19 2 = 0 then legal (.cmpge (guardOf w 21) (bv w 16) (bv w 11) (bv w 6)) else none
  | 43 => if fld w 0 6 = 0 ∧ fld w 19 2 = 0 then legal (.cmpgeu (guardOf w 21) (bv w 16) (bv w 11) (bv w 6)) else none
  | 44 => if fld w 19 2 = 0 then legal (.cmpeqi (guardOf w 21) (bv w 16) (bv w 11) (bv w 0)) else none
  | 45 => if fld w 19 2 = 0 then legal (.cmplti (guardOf w 21) (bv w 16) (bv w 11) (bv w 0)) else none
  | 46 => if fld w 4 2 = 0 ∧ fld w 9 2 = 0 ∧ fld w 14 2 = 0 ∧ fld w 19 2 = 0 then legal (.plog (guardOf w 21) (bv w 16) (bv w 11) (bv w 6) (bv w 0)) else none
  | 47 => if fld w 0 16 = 0 then legal (.movpGet (guardOf w 21) (bv w 16)) else if fld w 0 11 = 1 ∧ fld w 16 5 = 0 then legal (.movpSet (guardOf w 21) (bv w 11)) else none
  | 48 => if fld w 1 5 = 0 then legal (.fadd (guardOf w 21) (bv w 16) (bv w 11) (bv w 6) (bo w 0)) else none
  | 49 => if fld w 1 5 = 0 then legal (.fsub (guardOf w 21) (bv w 16) (bv w 11) (bv w 6) (bo w 0)) else none
  | 50 => if fld w 1 5 = 0 then legal (.fmul (guardOf w 21) (bv w 16) (bv w 11) (bv w 6) (bo w 0)) else none
  | 51 => if fld w 1 5 = 0 then legal (.ffma (guardOf w 21) (bv w 16) (bv w 11) (bv w 6) (bo w 0)) else none
  | 52 => if fld w 1 5 = 0 then legal (.fdiv (guardOf w 21) (bv w 16) (bv w 11) (bv w 6) (bo w 0)) else none
  | 53 => if fld w 1 10 = 0 then legal (.fsqrt (guardOf w 21) (bv w 16) (bv w 11) (bo w 0)) else none
  | 54 => if fld w 1 5 = 0 then legal (.fmin (guardOf w 21) (bv w 16) (bv w 11) (bv w 6) (bo w 0)) else none
  | 55 => if fld w 1 5 = 0 then legal (.fmax (guardOf w 21) (bv w 16) (bv w 11) (bv w 6) (bo w 0)) else none
  | 56 => if fld w 1 5 = 0 ∧ fld w 19 2 = 0 then legal (.fcmpeq (guardOf w 21) (bv w 16) (bv w 11) (bv w 6) (bo w 0)) else none
  | 57 => if fld w 1 5 = 0 ∧ fld w 19 2 = 0 then legal (.fcmplt (guardOf w 21) (bv w 16) (bv w 11) (bv w 6) (bo w 0)) else none
  | 58 => if fld w 1 5 = 0 ∧ fld w 19 2 = 0 then legal (.fcmple (guardOf w 21) (bv w 16) (bv w 11) (bv w 6) (bo w 0)) else none
  | 59 => if fld w 1 10 = 0 then legal (.fcvt (guardOf w 21) (bv w 16) (bv w 11) (bo w 0)) else none
  | 60 => if fld w 3 8 = 0 then legal (.ftoi (guardOf w 21) (bv w 16) (bv w 11) (bo w 2) (bo w 1) (bo w 0)) else none
  | 61 => if fld w 2 9 = 0 then legal (.itof (guardOf w 21) (bv w 16) (bv w 11) (bo w 1) (bo w 0)) else none
  | 62 => if fld w 1 10 = 0 then legal (.fclass (guardOf w 21) (bv w 16) (bv w 11) (bo w 0)) else none
  | _ => none

/-- The instruction a word encodes, A slot (R138). -/
def decodeA (w : Nat) : Option Instr :=
  match w / 2 ^ 25 with
  | 0 => legal (.ldb (guardOf w 21) (bv w 16) (bv w 11) (bv w 0))
  | 1 => legal (.ldbu (guardOf w 21) (bv w 16) (bv w 11) (bv w 0))
  | 2 => legal (.ldh (guardOf w 21) (bv w 16) (bv w 11) (bv w 0))
  | 3 => legal (.ldhu (guardOf w 21) (bv w 16) (bv w 11) (bv w 0))
  | 4 => legal (.ldw (guardOf w 21) (bv w 16) (bv w 11) (bv w 0))
  | 5 => legal (.ldwu (guardOf w 21) (bv w 16) (bv w 11) (bv w 0))
  | 6 => legal (.ldd (guardOf w 21) (bv w 16) (bv w 11) (bv w 0))
  | 7 => if fld w 6 5 = 0 then legal (.ldacq (guardOf w 21) (bv w 16) (bv w 11) (bo w 5) (bv w 3) (bv w 0)) else none
  | 8 => legal (.stb (guardOf w 21) (bv w 16) (bv w 11) (bv w 0))
  | 9 => legal (.sth (guardOf w 21) (bv w 16) (bv w 11) (bv w 0))
  | 10 => legal (.stw (guardOf w 21) (bv w 16) (bv w 11) (bv w 0))
  | 11 => legal (.std (guardOf w 21) (bv w 16) (bv w 11) (bv w 0))
  | 12 => if fld w 16 5 = 0 then legal (.strel (guardOf w 21) (bv w 11) (bv w 6) (bo w 5) (bv w 3) (bv w 0)) else none
  | 13 => legal (.spldw (guardOf w 21) (bv w 16) (bv w 11) (bv w 0))
  | 14 => legal (.spldd (guardOf w 21) (bv w 16) (bv w 11) (bv w 0))
  | 15 => legal (.spstw (guardOf w 21) (bv w 16) (bv w 11) (bv w 0))
  | 16 => legal (.spstd (guardOf w 21) (bv w 16) (bv w 11) (bv w 0))
  | 17 => if fld w 4 1 = 0 then legal (.amoadd (guardOf w 21) (bv w 16) (bv w 11) (bv w 6) (bo w 5) (bo w 3) (bv w 0)) else none
  | 18 => if fld w 4 1 = 0 then legal (.amoand (guardOf w 21) (bv w 16) (bv w 11) (bv w 6) (bo w 5) (bo w 3) (bv w 0)) else none
  | 19 => if fld w 4 1 = 0 then legal (.amoor (guardOf w 21) (bv w 16) (bv w 11) (bv w 6) (bo w 5) (bo w 3) (bv w 0)) else none
  | 20 => if fld w 4 1 = 0 then legal (.amoxor (guardOf w 21) (bv w 16) (bv w 11) (bv w 6) (bo w 5) (bo w 3) (bv w 0)) else none
  | 21 => legal (.amomin (guardOf w 21) (bv w 16) (bv w 11) (bv w 6) (bo w 5) (bo w 4) (bo w 3) (bv w 0))
  | 22 => legal (.amomax (guardOf w 21) (bv w 16) (bv w 11) (bv w 6) (bo w 5) (bo w 4) (bo w 3) (bv w 0))
  | 23 => if fld w 4 1 = 0 then legal (.amoswp (guardOf w 21) (bv w 16) (bv w 11) (bv w 6) (bo w 5) (bo w 3) (bv w 0)) else none
  | 24 => if fld w 4 1 = 0 then legal (.amocas (guardOf w 21) (bv w 16) (bv w 11) (bv w 6) (bo w 5) (bo w 3) (bv w 0)) else none
  | 25 => if fld w 4 1 = 0 then legal (.amofadd (guardOf w 21) (bv w 16) (bv w 11) (bv w 6) (bo w 5) (bo w 3) (bv w 0)) else none
  | 26 => if fld w 7 14 = 0 then legal (.fence (guardOf w 21) (bv w 4) (bv w 0)) else none
  | 27 => if fld w 3 3 = 0 then legal (.ldblk (guardOf w 21) (bv w 16) (bv w 11) (bv w 6) (bv w 0)) else none
  | 28 => if fld w 3 18 = 0 then legal (.blkwb (guardOf w 21) (bv w 0)) else none
  | 29 => if fld w 3 18 = 0 then legal (.blkrel (guardOf w 21) (bv w 0)) else none
  | 30 => if fld w 6 5 = 0 ∧ fld w 16 5 = 0 then legal (.xlt (guardOf w 21) (bv w 11) (bv w 3) (bo w 2) (bv w 0)) else none
  | 31 => if fld w 6 5 = 0 then legal (.xltp (guardOf w 21) (bv w 16) (bv w 11) (bv w 3) (bo w 2) (bv w 0)) else none
  | 32 => if fld w 0 11 = 0 then legal (.leaseq (guardOf w 21) (bv w 16) (bv w 11)) else none
  | 33 => if fld w 19 2 = 3 then legal (.sbind (guardOf w 21) (bv w 16) (bv w 11) (bv w 0)) else none
  | 34 => if fld w 0 16 = 0 ∧ fld w 19 2 = 3 then legal (.sunbind (guardOf w 21) (bv w 16)) else none
  | 35 => if fld w 0 6 = 0 ∧ fld w 20 1 = 0 then legal (.qinit (guardOf w 21) (bv w 16) (bv w 11) (bv w 6)) else none
  | 36 => if fld w 10 1 = 0 ∧ fld w 20 1 = 0 then legal (.qadv (guardOf w 21) (bv w 16) (bv w 11) (bo w 9) (bo w 8) (bv w 0)) else none
  | 37 => if fld w 1 10 = 0 ∧ fld w 15 1 = 0 then legal (.qstat (guardOf w 21) (bv w 16) (bv w 11) (bo w 0)) else none
  | 38 => if fld w 3 3 = 0 then legal (.wenq (guardOf w 21) (bv w 16) (bv w 11) (bv w 6) (bv w 0)) else none
  | 39 => if fld w 0 11 = 0 ∧ fld w 19 2 = 0 then legal (.agset (guardOf w 21) (bv w 16) (bv w 11)) else none
  | 40 => if fld w 19 2 = 0 then legal (.agadv (guardOf w 21) (bv w 16) (bv w 11) (bv w 0)) else none
  | _ => none

/-- The instruction a word encodes, V slot (R138). -/
def decodeV (w : Nat) : Option Instr :=
  match w / 2 ^ 25 with
  | 0 => if fld w 16 5 = 0 then legal (.vsetlImm (guardOf w 21) (bv w 0)) else if fld w 0 16 = 0 then legal (.vsetlReg (guardOf w 21) (bv w 16)) else none
  | 1 => if fld w 0 10 = 0 then legal (.vmov (guardOf w 21) (bv w 16) (bv w 11) (bo w 10)) else none
  | 2 => if fld w 0 11 = 0 then legal (.vfill (guardOf w 21) (bv w 16) (bv w 11)) else none
  | 3 => if fld w 0 10 = 0 then legal (.vadd (guardOf w 21) (bv w 16) (bv w 11) (bo w 10)) else none
  | 4 => if fld w 0 10 = 0 then legal (.vsub (guardOf w 21) (bv w 16) (bv w 11) (bo w 10)) else none
  | 5 => if fld w 0 10 = 0 then legal (.vmul (guardOf w 21) (bv w 16) (bv w 11) (bo w 10)) else none
  | 6 => if fld w 0 10 = 0 then legal (.vfma (guardOf w 21) (bv w 16) (bv w 11) (bo w 10)) else none
  | 7 => if fld w 0 10 = 0 then legal (.vmin (guardOf w 21) (bv w 16) (bv w 11) (bo w 10)) else none
  | 8 => if fld w 0 10 = 0 then legal (.vmax (guardOf w 21) (bv w 16) (bv w 11) (bo w 10)) else none
  | 9 => if fld w 0 10 = 0 ∧ fld w 11 5 = 0 then legal (.vabs (guardOf w 21) (bv w 16) (bo w 10)) else none
  | 10 => if fld w 0 10 = 0 ∧ fld w 11 5 = 0 then legal (.vneg (guardOf w 21) (bv w 16) (bo w 10)) else none
  | 11 => if fld w 0 10 = 0 then legal (.vadds (guardOf w 21) (bv w 16) (bv w 11) (bo w 10)) else none
  | 12 => if fld w 0 10 = 0 then legal (.vmuls (guardOf w 21) (bv w 16) (bv w 11) (bo w 10)) else none
  | 13 => if fld w 0 10 = 0 then legal (.vfmas (guardOf w 21) (bv w 16) (bv w 11) (bo w 10)) else none
  | 14 => if fld w 0 10 = 0 ∧ fld w 11 5 = 0 then legal (.vrcp (guardOf w 21) (bv w 16) (bo w 10)) else none
  | 15 => if fld w 0 10 = 0 ∧ fld w 11 5 = 0 then legal (.vrsqrt (guardOf w 21) (bv w 16) (bo w 10)) else none
  | 16 => if fld w 0 10 = 0 ∧ fld w 11 5 = 0 then legal (.vexp (guardOf w 21) (bv w 16) (bo w 10)) else none
  | 17 => if fld w 0 10 = 0 ∧ fld w 11 5 = 0 then legal (.vlog (guardOf w 21) (bv w 16) (bo w 10)) else none
  | 18 => if fld w 0 10 = 0 ∧ fld w 11 5 = 0 then legal (.vsin (guardOf w 21) (bv w 16) (bo w 10)) else none
  | 19 => if fld w 0 10 = 0 ∧ fld w 11 5 = 0 then legal (.vcos (guardOf w 21) (bv w 16) (bo w 10)) else none
  | 20 => if fld w 0 10 = 0 ∧ fld w 11 5 = 0 then legal (.vtanh (guardOf w 21) (bv w 16) (bo w 10)) else none
  | 21 => if fld w 0 10 = 0 ∧ fld w 11 5 = 0 then legal (.vsig (guardOf w 21) (bv w 16) (bo w 10)) else none
  | 22 => if fld w 0 10 = 0 ∧ fld w 11 5 = 0 then legal (.vsilu (guardOf w 21) (bv w 16) (bo w 10)) else none
  | 23 => if fld w 0 10 = 0 ∧ fld w 11 5 = 0 then legal (.vgelu (guardOf w 21) (bv w 16) (bo w 10)) else none
  | 24 => if fld w 0 10 = 0 ∧ fld w 11 5 = 0 then legal (.vcvt (guardOf w 21) (bv w 16) (bo w 10)) else none
  | 25 => if fld w 0 10 = 0 then legal (.vqnt (guardOf w 21) (bv w 16) (bv w 11) (bo w 10)) else none
  | 26 => if fld w 0 11 = 0 then legal (.vdq (guardOf w 21) (bv w 16) (bv w 11)) else none
  | 27 => if fld w 4 7 = 0 then legal (.vcmp (guardOf w 21) (bv w 16) (bv w 11) (bo w 3) (bv w 0)) else none
  | 28 => if fld w 0 11 = 0 then legal (.vsel (guardOf w 21) (bv w 16) (bv w 11)) else none
  | 29 => if fld w 0 16 = 0 then legal (.vrsum (guardOf w 21) (bv w 16)) else none
  | 30 => if fld w 0 16 = 0 then legal (.vrmax (guardOf w 21) (bv w 16)) else none
  | 31 => if fld w 0 16 = 0 then legal (.vargmax (guardOf w 21) (bv w 16)) else none
  | 32 => if fld w 0 16 = 0 then legal (.vscan (guardOf w 21) (bv w 16)) else none
  | 33 => if fld w 0 11 = 0 then legal (.vdot (guardOf w 21) (bv w 16) (bv w 11)) else none
  | 34 => if fld w 0 11 = 0 then legal (.vperm (guardOf w 21) (bv w 16) (bv w 11)) else none
  | 35 => if fld w 0 11 = 0 then legal (.vgath (guardOf w 21) (bv w 16) (bv w 11)) else none
  | 36 => if fld w 0 11 = 0 then legal (.vscadd (guardOf w 21) (bv w 16) (bv w 11)) else none
  | 37 => if fld w 1 10 = 0 then legal (.viadd (guardOf w 21) (bv w 16) (bv w 11) (bo w 0)) else none
  | 38 => if fld w 1 10 = 0 then legal (.vand (guardOf w 21) (bv w 16) (bv w 11) (bo w 0)) else none
  | 39 => if fld w 1 10 = 0 then legal (.vor (guardOf w 21) (bv w 16) (bv w 11) (bo w 0)) else none
  | 40 => if fld w 1 10 = 0 then legal (.vxor (guardOf w 21) (bv w 16) (bv w 11) (bo w 0)) else none
  | 41 => if fld w 1 10 = 0 then legal (.vshl (guardOf w 21) (bv w 16) (bv w 11) (bo w 0)) else none
  | 42 => if fld w 2 9 = 0 then legal (.vshr (guardOf w 21) (bv w 16) (bv w 11) (bo w 1) (bo w 0)) else none
  | 43 => if fld w 0 11 = 0 then legal (.vsmax (guardOf w 21) (bv w 16) (bv w 11)) else none
  | 44 => if fld w 0 11 = 0 then legal (.vrmsn (guardOf w 21) (bv w 16) (bv w 11)) else none
  | 45 => if fld w 1 10 = 0 then legal (.vrope (guardOf w 21) (bv w 16) (bv w 11) (bo w 0)) else none
  | 46 => if fld w 2 9 = 0 then legal (.vmaskw (guardOf w 21) (bv w 16) (bv w 11) (bo w 1) (bo w 0)) else none
  | 47 => if fld w 0 11 = 0 then legal (.tcwupd (guardOf w 21) (bv w 16) (bv w 11)) else none
  | 48 => if fld w 0 16 = 0 then legal (.tcwcnt (guardOf w 21) (bv w 16)) else none
  | 49 => if fld w 6 15 = 0 then legal (.vfence (guardOf w 21) (bv w 0)) else none
  | 50 => if fld w 0 16 = 0 then legal (.vbsy (guardOf w 21) (bv w 16)) else none
  | _ => none

/-- The instruction a word encodes, M slot (R132, R138). -/
def decodeM (w : Nat) : Option Instr :=
  match w / 2 ^ 57 with
  | 0 => if fld w 2 33 = 0 then legal (.mma (guardOf w 53) (bv w 49) (bv w 45) (bv w 43) (bo w 42) (bv w 35) (bo w 0) (bo w 1)) else none
  | 1 => if fld w 2 33 = 0 then legal (.mmabt (guardOf w 53) (bv w 49) (bv w 45) (bv w 43) (bo w 42) (bv w 35) (bo w 0) (bo w 1)) else none
  | 2 => if fld w 2 33 = 0 then legal (.mmasp (guardOf w 53) (bv w 49) (bv w 45) (bv w 43) (bo w 42) (bv w 35) (bo w 0) (bo w 1)) else none
  | 3 => if fld w 2 33 = 0 then legal (.mmacb (guardOf w 53) (bv w 49) (bv w 45) (bv w 43) (bo w 42) (bv w 35) (bo w 0) (bo w 1)) else none
  | 4 => if fld w 1 42 = 0 ∧ fld w 45 8 = 0 then legal (.mzero (guardOf w 53) (bv w 43) (bo w 0)) else none
  | 5 => if fld w 24 19 = 0 ∧ fld w 45 8 = 0 then legal (.mldacc (guardOf w 53) (bv w 43) (bv w 0) (bo w 23)) else none
  | 6 => if fld w 23 1 = 0 ∧ fld w 30 13 = 0 ∧ fld w 45 8 = 0 then legal (.mdrain (guardOf w 53) (bv w 43) (bv w 24) (bv w 0)) else none
  | 7 => if fld w 23 20 = 0 ∧ fld w 45 8 = 0 then legal (.mdraina (guardOf w 53) (bv w 43) (bv w 0)) else none
  | 8 => if fld w 2 43 = 0 then legal (.mpop (guardOf w 53) (bv w 49) (bv w 45) (bo w 0) (bo w 1)) else none
  | 9 => if fld w 23 30 = 0 then legal (.mcbld (guardOf w 53) (bv w 0)) else none
  | 10 => if fld w 23 30 = 0 then legal (.mscl (guardOf w 53) (bv w 0)) else none
  | 11 => if fld w 6 47 = 0 then legal (.mfence (guardOf w 53) (bv w 0)) else none
  | _ => none

/-- The instruction a word encodes, D slot (R132, R138). -/
def decodeD (w : Nat) : Option Instr :=
  match w / 2 ^ 57 with
  | 0 => if fld w 0 34 = 0 ∧ fld w 40 8 = 0 then legal (.dcopy (guardOf w 53) (bv w 48) (bv w 34)) else none
  | 1 => if fld w 0 34 = 0 ∧ fld w 44 4 = 0 then legal (.dmcast (guardOf w 53) (bv w 48) (bv w 40) (bv w 34)) else none
  | 2 => if fld w 0 34 = 0 ∧ fld w 40 8 = 0 then legal (.dgath (guardOf w 53) (bv w 48) (bv w 34)) else none
  | 3 => if fld w 0 34 = 0 ∧ fld w 40 8 = 0 then legal (.dscat (guardOf w 53) (bv w 48) (bv w 34)) else none
  | 4 => if fld w 0 34 = 0 ∧ fld w 40 8 = 0 then legal (.dscadd (guardOf w 53) (bv w 48) (bv w 34)) else none
  | 5 => if fld w 0 34 = 0 ∧ fld w 40 8 = 0 then legal (.dred (guardOf w 53) (bv w 48) (bv w 34)) else none
  | 6 => if fld w 0 34 = 0 ∧ fld w 40 8 = 0 then legal (.dbcast (guardOf w 53) (bv w 48) (bv w 34)) else none
  | 7 => if fld w 0 34 = 0 ∧ fld w 40 8 = 0 then legal (.dallg (guardOf w 53) (bv w 48) (bv w 34)) else none
  | 8 => if fld w 0 34 = 0 ∧ fld w 40 8 = 0 then legal (.dembag (guardOf w 53) (bv w 48) (bv w 34)) else none
  | 9 => if fld w 0 34 = 0 ∧ fld w 40 8 = 0 then legal (.dstage (guardOf w 53) (bv w 48) (bv w 34)) else none
  | 10 => if fld w 0 34 = 0 ∧ fld w 40 8 = 0 then legal (.pack (guardOf w 53) (bv w 48) (bv w 34)) else none
  | 11 => if fld w 0 34 = 0 ∧ fld w 40 8 = 0 then legal (.unpack (guardOf w 53) (bv w 48) (bv w 34)) else none
  | 12 => if fld w 0 34 = 0 ∧ fld w 40 8 = 0 then legal (.exn (guardOf w 53) (bv w 48) (bv w 34)) else none
  | 13 => if fld w 0 34 = 0 ∧ fld w 40 8 = 0 then legal (.kvfill (guardOf w 53) (bv w 48) (bv w 34)) else none
  | 14 => if fld w 0 34 = 0 ∧ fld w 40 8 = 0 then legal (.skfind (guardOf w 53) (bv w 48) (bv w 34)) else none
  | 15 => if fld w 0 34 = 0 ∧ fld w 40 8 = 0 then legal (.skput (guardOf w 53) (bv w 48) (bv w 34)) else none
  | 16 => if fld w 0 34 = 0 ∧ fld w 40 8 = 0 then legal (.skrel (guardOf w 53) (bv w 48) (bv w 34)) else none
  | 17 => if fld w 0 34 = 0 ∧ fld w 40 8 = 0 then legal (.skpin (guardOf w 53) (bv w 48) (bv w 34)) else none
  | 18 => if fld w 6 47 = 0 then legal (.dfence (guardOf w 53) (bv w 0)) else none
  | 19 => if fld w 0 34 = 0 ∧ fld w 40 8 = 0 then legal (.ixwalk (guardOf w 53) (bv w 48) (bv w 34)) else none
  | 20 => if fld w 0 34 = 0 ∧ fld w 40 8 = 0 then legal (.ixsect (guardOf w 53) (bv w 48) (bv w 34)) else none
  | 21 => if fld w 0 34 = 0 ∧ fld w 40 8 = 0 then legal (.ixpart (guardOf w 53) (bv w 48) (bv w 34)) else none
  | _ => none

/-- The instruction a word encodes, K slot (R138). -/
def decodeK (w : Nat) : Option Instr :=
  match w / 2 ^ 25 with
  | 0 => if fld w 16 2 = 0 then legal (.pbr (guardOf w 21) (bv w 18) (bv w 0)) else none
  | 1 => if fld w 0 11 = 0 ∧ fld w 19 2 = 0 then legal (.pbrr (guardOf w 21) (bv w 16) (bv w 11)) else none
  | 2 => if fld w 0 18 = 0 then legal (.br (guardOf w 21) (bv w 18)) else none
  | 3 => if fld w 3 15 = 0 then legal (.brl (guardOf w 21) (bv w 18) (bv w 0)) else none
  | 4 => if fld w 0 16 = 0 then legal (.loop (guardOf w 21) (bv w 18) (bv w 16)) else none
  | 5 => if fld w 15 1 = 0 then legal (.loopiImm (guardOf w 21) (bv w 18) (bv w 16) (bv w 0)) else if fld w 5 11 = 1024 then legal (.loopiReg (guardOf w 21) (bv w 18) (bv w 16) (bv w 0)) else none
  | 6 => if fld w 7 9 = 0 then legal (.loopl (guardOf w 21) (bv w 18) (bv w 16) (bv w 0)) else none
  | 7 => if fld w 17 4 = 0 then legal (.fmtw (guardOf w 21) (bo w 16) (bv w 0)) else none
  | 8 => if fld w 0 6 = 0 ∧ fld w 16 5 = 0 then legal (.fmtwg (guardOf w 21) (bv w 11) (bv w 6)) else none
  | 9 => if fld w 4 2 = 0 ∧ fld w 16 5 = 0 then legal (.waita (guardOf w 21) (bv w 11) (bv w 6) (bo w 3) (bv w 0)) else none
  | 10 => if fld w 0 21 = 0 then legal (.susp (guardOf w 21)) else none
  | 11 => if fld w 0 21 = 0 then legal (.done (guardOf w 21)) else none
  | 12 => if fld w 3 18 = 0 then legal (.barr (guardOf w 21) (bv w 0)) else none
  | 13 => if fld w 5 16 = 0 then legal (.sync (guardOf w 21) (bv w 0)) else none
  | 14 => if fld w 12 9 = 0 then legal (.trap (guardOf w 21) (bv w 0)) else none
  | 15 => if fld w 4 2 = 0 ∧ fld w 16 5 = 0 then legal (.sigc (guardOf w 21) (bv w 11) (bv w 6) (bo w 3) (bv w 0)) else none
  | 16 => if fld w 0 11 = 0 then legal (.tspawn (guardOf w 21) (bv w 16) (bv w 11)) else none
  | 17 => if fld w 0 6 = 0 then legal (.crspawn (guardOf w 21) (bv w 16) (bv w 11) (bv w 6)) else none
  | 18 => if fld w 0 11 = 0 then legal (.glnch (guardOf w 21) (bv w 16) (bv w 11)) else none
  | 19 => if fld w 0 6 = 0 then legal (.gtok (guardOf w 21) (bv w 16) (bv w 11) (bv w 6)) else none
  | 20 => if fld w 1 5 = 0 then legal (.gstat (guardOf w 21) (bv w 16) (bv w 11) (bv w 6) (bo w 0)) else none
  | 21 => if fld w 1 10 = 0 then legal (.teamq (guardOf w 21) (bv w 16) (bv w 11) (bo w 0)) else none
  | 22 => if fld w 12 4 = 0 then legal (.sysrd (guardOf w 21) (bv w 16) (bv w 0)) else none
  | 23 => if fld w 12 4 = 0 then legal (.syswr (guardOf w 21) (bv w 16) (bv w 0)) else none
  | 24 => if fld w 0 18 = 0 then legal (.eret (guardOf w 21) (bv w 18)) else none
  | 25 => if fld w 1 5 = 0 then legal (.tlbdrn (guardOf w 21) (bv w 16) (bv w 11) (bv w 6) (bo w 0)) else none
  | 26 => if fld w 0 21 = 0 then legal (.tlbcnf (guardOf w 21)) else none
  | 27 => if fld w 0 6 = 0 then legal (.leaseg (guardOf w 21) (bv w 16) (bv w 11) (bv w 6)) else none
  | 28 => if fld w 2 4 = 0 ∧ fld w 16 5 = 0 then legal (.cinv (guardOf w 21) (bv w 11) (bv w 6) (bv w 0)) else none
  | 29 => if fld w 0 6 = 0 then legal (.prmt (guardOf w 21) (bv w 16) (bv w 11) (bv w 6)) else none
  | 30 => if fld w 0 11 = 0 ∧ fld w 16 5 = 0 then legal (.hint (guardOf w 21) (bv w 11)) else none
  | _ => none

/-- The instruction a word encodes, attention sequencer (R267). -/
def decodeSeq (w : Nat) : Option Instr :=
  match w / 2 ^ 60 with
  | 0 => if fld w 48 8 = 0 then legal (.hset (bv w 56) (bv w 0)) else none
  | 1 => if fld w 32 16 = 0 then legal (.hadd (bv w 56) (bv w 52) (bv w 48) (bv w 0)) else none
  | 2 => if fld w 10 42 = 0 ∧ fld w 56 2 = 0 then legal (.hjmp (bv w 58) (bv w 52) (bv w 0)) else none
  | 3 => if fld w 10 42 = 0 ∧ fld w 56 4 = 0 then legal (.hloop (bv w 52) (bv w 0)) else none
  | 4 => if fld w 0 52 = 0 ∧ fld w 59 1 = 0 then legal (.agld (bv w 56) (bv w 52)) else none
  | 5 => if fld w 8 8 = 0 ∧ fld w 40 12 = 0 then legal (.kvrd (bo w 59) (bv w 56) (bv w 52) (bv w 24) (bv w 16) (bo w 7) (bv w 0)) else none
  | 6 => legal (.mxi (bv w 53) (bv w 0))
  | 7 => if fld w 7 32 = 0 ∧ fld w 56 4 = 0 then legal (.smax (bv w 52) (bv w 48) (bv w 44) (bv w 40) (bo w 39) (bv w 0)) else none
  | 8 => if fld w 0 48 = 0 ∧ fld w 52 2 = 0 ∧ fld w 56 4 = 0 then legal (.resc (bv w 54) (bv w 48)) else none
  | 9 => if fld w 0 48 = 0 ∧ fld w 52 2 = 0 ∧ fld w 56 4 = 0 then legal (.norm (bv w 54) (bv w 48)) else none
  | 10 => if fld w 7 1 = 0 ∧ fld w 19 25 = 0 ∧ fld w 56 4 = 0 then legal (.rope (bv w 52) (bv w 48) (bv w 44) (bo w 18) (bv w 8) (bv w 0)) else none
  | 11 => if fld w 0 40 = 0 ∧ fld w 46 2 = 0 ∧ fld w 56 4 = 0 then legal (.djob (bv w 52) (bv w 48) (bv w 40)) else none
  | 12 => if fld w 0 48 = 0 ∧ fld w 56 2 = 0 then legal (.waitw (bv w 58) (bv w 52) (bv w 48)) else none
  | 13 => if fld w 0 48 = 0 ∧ fld w 56 1 = 0 then legal (.sigw (bv w 57) (bv w 52) (bv w 48)) else none
  | 14 => if fld w 0 40 = 0 ∧ fld w 52 2 = 0 ∧ fld w 56 4 = 0 then legal (.mcmb (bv w 54) (bv w 48) (bv w 44) (bv w 40)) else none
  | 15 => if fld w 0 60 = 0 then legal .halt else none
  | _ => none

/-- The slots of a bundle (R125). -/
inductive Slot where
  | s0 | s1 | a | v | m | d | k
  deriving DecidableEq, Repr

/-- Slot number `k` (R125). -/
def Slot.of : Nat → Slot
  | 0 => .s0 | 1 => .s1 | 2 => .a | 3 => .v | 4 => .m | 5 => .d | _ => .k

/-- The number of a slot, also the value of fslot (R21, R125). -/
def Slot.num : Slot → Nat
  | .s0 => 0 | .s1 => 1 | .a => 2 | .v => 3 | .m => 4 | .d => 5 | .k => 6

/-- Bytes of a slot's word (R125). -/
def Slot.bytes : Slot → Nat
  | .m => 8 | .d => 8 | .s0 => 4 | .s1 => 4 | .a => 4 | .v => 4 | .k => 4

/-- The instruction a word encodes in a slot: each class has its own map (R138). -/
def decode (c : Slot) (w : Nat) : Option Instr :=
  match c with
  | .s0 => decodeS w
  | .s1 => decodeS w
  | .a => decodeA w
  | .v => decodeV w
  | .m => decodeM w
  | .d => decodeD w
  | .k => decodeK w

/-- The slot class whose map holds an instruction: `none` for a micro-operation and for an event. -/
def Instr.cls : Instr → Option Slot
  | .add _ _ _ _ => some .s0
  | .sub _ _ _ _ => some .s0
  | .addi _ _ _ _ => some .s0
  | .addsh _ _ _ _ _ => some .s0
  | .mul _ _ _ _ => some .s0
  | .mulh _ _ _ _ => some .s0
  | .mulhu _ _ _ _ => some .s0
  | .madd _ _ _ _ => some .s0
  | .div _ _ _ _ => some .s0
  | .divu _ _ _ _ => some .s0
  | .rem _ _ _ _ => some .s0
  | .remu _ _ _ _ => some .s0
  | .min _ _ _ _ => some .s0
  | .max _ _ _ _ => some .s0
  | .minu _ _ _ _ => some .s0
  | .maxu _ _ _ _ => some .s0
  | .and _ _ _ _ => some .s0
  | .or _ _ _ _ => some .s0
  | .xor _ _ _ _ => some .s0
  | .andn _ _ _ _ => some .s0
  | .andi _ _ _ _ => some .s0
  | .ori _ _ _ _ => some .s0
  | .xori _ _ _ _ => some .s0
  | .sll _ _ _ _ => some .s0
  | .srl _ _ _ _ => some .s0
  | .sra _ _ _ _ => some .s0
  | .slli _ _ _ _ => some .s0
  | .srli _ _ _ _ => some .s0
  | .srai _ _ _ _ => some .s0
  | .ror _ _ _ _ => some .s0
  | .clz _ _ _ => some .s0
  | .ctz _ _ _ => some .s0
  | .popc _ _ _ => some .s0
  | .bext _ _ _ _ _ => some .s0
  | .bins _ _ _ _ => some .s0
  | .movi _ _ _ => some .s0
  | .movk _ _ _ => some .s0
  | .sel _ _ _ _ _ => some .s0
  | .cmpeq _ _ _ _ => some .s0
  | .cmpne _ _ _ _ => some .s0
  | .cmplt _ _ _ _ => some .s0
  | .cmpltu _ _ _ _ => some .s0
  | .cmpge _ _ _ _ => some .s0
  | .cmpgeu _ _ _ _ => some .s0
  | .cmpeqi _ _ _ _ => some .s0
  | .cmplti _ _ _ _ => some .s0
  | .plog _ _ _ _ _ => some .s0
  | .movpGet _ _ => some .s0
  | .movpSet _ _ => some .s0
  | .fadd _ _ _ _ _ => some .s0
  | .fsub _ _ _ _ _ => some .s0
  | .fmul _ _ _ _ _ => some .s0
  | .ffma _ _ _ _ _ => some .s0
  | .fdiv _ _ _ _ _ => some .s0
  | .fsqrt _ _ _ _ => some .s0
  | .fmin _ _ _ _ _ => some .s0
  | .fmax _ _ _ _ _ => some .s0
  | .fcmpeq _ _ _ _ _ => some .s0
  | .fcmplt _ _ _ _ _ => some .s0
  | .fcmple _ _ _ _ _ => some .s0
  | .fcvt _ _ _ _ => some .s0
  | .ftoi _ _ _ _ _ _ => some .s0
  | .itof _ _ _ _ _ => some .s0
  | .fclass _ _ _ _ => some .s0
  | .ldb _ _ _ _ => some .a
  | .ldbu _ _ _ _ => some .a
  | .ldh _ _ _ _ => some .a
  | .ldhu _ _ _ _ => some .a
  | .ldw _ _ _ _ => some .a
  | .ldwu _ _ _ _ => some .a
  | .ldd _ _ _ _ => some .a
  | .ldacq _ _ _ _ _ _ => some .a
  | .stb _ _ _ _ => some .a
  | .sth _ _ _ _ => some .a
  | .stw _ _ _ _ => some .a
  | .std _ _ _ _ => some .a
  | .strel _ _ _ _ _ _ => some .a
  | .spldw _ _ _ _ => some .a
  | .spldd _ _ _ _ => some .a
  | .spstw _ _ _ _ => some .a
  | .spstd _ _ _ _ => some .a
  | .amoadd _ _ _ _ _ _ _ => some .a
  | .amoand _ _ _ _ _ _ _ => some .a
  | .amoor _ _ _ _ _ _ _ => some .a
  | .amoxor _ _ _ _ _ _ _ => some .a
  | .amomin _ _ _ _ _ _ _ _ => some .a
  | .amomax _ _ _ _ _ _ _ _ => some .a
  | .amoswp _ _ _ _ _ _ _ => some .a
  | .amocas _ _ _ _ _ _ _ => some .a
  | .amofadd _ _ _ _ _ _ _ => some .a
  | .fence _ _ _ => some .a
  | .ldblk _ _ _ _ _ => some .a
  | .blkwb _ _ => some .a
  | .blkrel _ _ => some .a
  | .xlt _ _ _ _ _ => some .a
  | .xltp _ _ _ _ _ _ => some .a
  | .leaseq _ _ _ => some .a
  | .sbind _ _ _ _ => some .a
  | .sunbind _ _ => some .a
  | .qinit _ _ _ _ => some .a
  | .qadv _ _ _ _ _ _ => some .a
  | .qstat _ _ _ _ => some .a
  | .wenq _ _ _ _ _ => some .a
  | .agset _ _ _ => some .a
  | .agadv _ _ _ _ => some .a
  | .vsetlImm _ _ => some .v
  | .vsetlReg _ _ => some .v
  | .vmov _ _ _ _ => some .v
  | .vfill _ _ _ => some .v
  | .vadd _ _ _ _ => some .v
  | .vsub _ _ _ _ => some .v
  | .vmul _ _ _ _ => some .v
  | .vfma _ _ _ _ => some .v
  | .vmin _ _ _ _ => some .v
  | .vmax _ _ _ _ => some .v
  | .vabs _ _ _ => some .v
  | .vneg _ _ _ => some .v
  | .vadds _ _ _ _ => some .v
  | .vmuls _ _ _ _ => some .v
  | .vfmas _ _ _ _ => some .v
  | .vrcp _ _ _ => some .v
  | .vrsqrt _ _ _ => some .v
  | .vexp _ _ _ => some .v
  | .vlog _ _ _ => some .v
  | .vsin _ _ _ => some .v
  | .vcos _ _ _ => some .v
  | .vtanh _ _ _ => some .v
  | .vsig _ _ _ => some .v
  | .vsilu _ _ _ => some .v
  | .vgelu _ _ _ => some .v
  | .vcvt _ _ _ => some .v
  | .vqnt _ _ _ _ => some .v
  | .vdq _ _ _ => some .v
  | .vcmp _ _ _ _ _ => some .v
  | .vsel _ _ _ => some .v
  | .vrsum _ _ => some .v
  | .vrmax _ _ => some .v
  | .vargmax _ _ => some .v
  | .vscan _ _ => some .v
  | .vdot _ _ _ => some .v
  | .vperm _ _ _ => some .v
  | .vgath _ _ _ => some .v
  | .vscadd _ _ _ => some .v
  | .viadd _ _ _ _ => some .v
  | .vand _ _ _ _ => some .v
  | .vor _ _ _ _ => some .v
  | .vxor _ _ _ _ => some .v
  | .vshl _ _ _ _ => some .v
  | .vshr _ _ _ _ _ => some .v
  | .vsmax _ _ _ => some .v
  | .vrmsn _ _ _ => some .v
  | .vrope _ _ _ _ => some .v
  | .vmaskw _ _ _ _ _ => some .v
  | .tcwupd _ _ _ => some .v
  | .tcwcnt _ _ => some .v
  | .vfence _ _ => some .v
  | .vbsy _ _ => some .v
  | .mma _ _ _ _ _ _ _ _ => some .m
  | .mmabt _ _ _ _ _ _ _ _ => some .m
  | .mmasp _ _ _ _ _ _ _ _ => some .m
  | .mmacb _ _ _ _ _ _ _ _ => some .m
  | .mzero _ _ _ => some .m
  | .mldacc _ _ _ _ => some .m
  | .mdrain _ _ _ _ => some .m
  | .mdraina _ _ _ => some .m
  | .mpop _ _ _ _ _ => some .m
  | .mcbld _ _ => some .m
  | .mscl _ _ => some .m
  | .mfence _ _ => some .m
  | .dcopy _ _ _ => some .d
  | .dmcast _ _ _ _ => some .d
  | .dgath _ _ _ => some .d
  | .dscat _ _ _ => some .d
  | .dscadd _ _ _ => some .d
  | .dred _ _ _ => some .d
  | .dbcast _ _ _ => some .d
  | .dallg _ _ _ => some .d
  | .dembag _ _ _ => some .d
  | .dstage _ _ _ => some .d
  | .pack _ _ _ => some .d
  | .unpack _ _ _ => some .d
  | .exn _ _ _ => some .d
  | .kvfill _ _ _ => some .d
  | .skfind _ _ _ => some .d
  | .skput _ _ _ => some .d
  | .skrel _ _ _ => some .d
  | .skpin _ _ _ => some .d
  | .dfence _ _ => some .d
  | .ixwalk _ _ _ => some .d
  | .ixsect _ _ _ => some .d
  | .ixpart _ _ _ => some .d
  | .pbr _ _ _ => some .k
  | .pbrr _ _ _ => some .k
  | .br _ _ => some .k
  | .brl _ _ _ => some .k
  | .loop _ _ _ => some .k
  | .loopiImm _ _ _ _ => some .k
  | .loopiReg _ _ _ _ => some .k
  | .loopl _ _ _ _ => some .k
  | .fmtw _ _ _ => some .k
  | .fmtwg _ _ _ => some .k
  | .waita _ _ _ _ _ => some .k
  | .susp _ => some .k
  | .done _ => some .k
  | .barr _ _ => some .k
  | .sync _ _ => some .k
  | .trap _ _ => some .k
  | .sigc _ _ _ _ _ => some .k
  | .tspawn _ _ _ => some .k
  | .crspawn _ _ _ _ => some .k
  | .glnch _ _ _ => some .k
  | .gtok _ _ _ _ => some .k
  | .gstat _ _ _ _ _ => some .k
  | .teamq _ _ _ _ => some .k
  | .sysrd _ _ _ => some .k
  | .syswr _ _ _ => some .k
  | .eret _ _ => some .k
  | .tlbdrn _ _ _ _ _ => some .k
  | .tlbcnf _ => some .k
  | .leaseg _ _ _ _ => some .k
  | .cinv _ _ _ _ => some .k
  | .prmt _ _ _ _ => some .k
  | .hint _ _ => some .k
  | .hset _ _ => none
  | .hadd _ _ _ _ => none
  | .hjmp _ _ _ => none
  | .hloop _ _ => none
  | .agld _ _ => none
  | .kvrd _ _ _ _ _ _ _ => none
  | .mxi _ _ => none
  | .smax _ _ _ _ _ _ => none
  | .resc _ _ => none
  | .norm _ _ => none
  | .rope _ _ _ _ _ _ => none
  | .djob _ _ _ => none
  | .waitw _ _ _ => none
  | .sigw _ _ _ => none
  | .mcmb _ _ _ _ => none
  | .halt => none
  | .bundleDispatch => none
  | .pickerPreemptContext _ => none
  | .writeApplyAtDie _ _ => none
  | .strongOperationAtHome _ _ _ _ _ _ => none
  | .loadBlockFillComplete _ _ => none
  | .pageWalkComplete _ _ _ => none
  | .translationComplete _ _ => none
  | .vectorCommandCompletion _ => none
  | .jobChannelStart _ => none
  | .jobCompletion _ => none
  | .followOnIssue _ => none
  | .arrayEntry _ => none
  | .matrixCommandRetire _ => none
  | .exitNoticeReceive _ _ => none
  | .exitStateArrival _ _ => none
  | .exnRefusal _ => none
  | .attentionReadRequest _ _ _ _ _ => none
  | .darnFill _ _ _ => none
  | .darnFillComplete _ _ _ => none
  | .fillTimeout _ _ => none
  | .stagingBufferSelect _ => none
  | .skeinOperationExecute => none
  | .sqstartWrite _ => none
  | .sqcsdWrite _ => none
  | .sqcsdRead _ => none
  | .rxregWrite _ _ => none
  | .registerWrite _ _ _ _ => none
  | .doorbell _ _ _ => none
  | .completionHeadWrite _ _ _ => none
  | .submitTask _ => none
  | .submitGraphReplay _ => none
  | .patchCommit _ => none
  | .spawnAnswer _ => none
  | .replayStart _ => none
  | .patchAreaCopyDone _ => none
  | .taskOrderingRelease _ => none
  | .taskLeasing _ => none
  | .teamDispatch _ => none
  | .teamSwapOut _ _ => none
  | .teamSwapIn _ _ => none
  | .sliceQuantumExpiry _ => none
  | .swapAbandonTimeout _ _ => none
  | .taskCompletion _ => none
  | .deadlineOverrun _ => none
  | .stopBegin _ => none
  | .stopResume => none
  | .stopSourcesStopped => none
  | .stopDrainComplete => none
  | .stopDrainTimeout => none
  | .bobbinTokenArrival _ _ _ => none
  | .bobholdExpiry => none
  | .bobbinTokenRegeneration _ => none
  | .stolenTeamArrival _ _ _ _ => none
  | .stealAcknowledge _ _ => none
  | .stolenTeamAccess _ _ _ _ _ _ _ => none
  | .hostCxlMemWrite _ _ => none
  | .hostCxlMemRead _ _ => none
  | .qctlEnable _ => none
  | .qctlDisable _ => none
  | .powerGood => none
  | .powerLost => none
  | .fwcmdAuthenticate => none
  | .authenticationComplete _ => none
  | .stage1Complete _ => none
  | .stage2Complete _ _ => none
  | .scrunStart _ => none
  | .mrstModuleReset _ => none
  | .cxlReset => none
  | .drstDieReset _ => none
  | .dieResetComplete _ => none
  | .migreqClaim _ _ => none
  | .migreqCommit _ _ => none
  | .migreqRelease _ _ => none
  | .powerWindowCheck _ _ _ => none
  | .thermalTrip _ => none
  | .correctedError _ => none
  | .uncorrectableError _ => none
  | .podLinkDown _ _ => none
  | .ebnasPortTimeout _ => none
  | .firmwareWindowWrite _ _ _ => none

/-- A word from its fixed bits and its fields: value and lowest bit. -/
def pk (base : Nat) : List (Nat × Nat) → Nat
  | [] => base
  | (v, lo) :: r => v * 2 ^ lo + pk base r

/-- The word of a well-formed instruction (R131, R132, R138, R267); 0 for an event, which has no encoding. -/
def encode : Instr → Nat
  | .add gu d a b => pk 0 [(gu.enc, 21), (d.toNat, 16), (a.toNat, 11), (b.toNat, 6)]
  | .sub gu d a b => pk 33554432 [(gu.enc, 21), (d.toNat, 16), (a.toNat, 11), (b.toNat, 6)]
  | .addi gu d a m => pk 67108864 [(gu.enc, 21), (d.toNat, 16), (a.toNat, 11), (m.toNat, 0)]
  | .addsh gu d a b s => pk 100663296 [(gu.enc, 21), (d.toNat, 16), (a.toNat, 11), (b.toNat, 6), (s.toNat, 0)]
  | .mul gu d a b => pk 134217728 [(gu.enc, 21), (d.toNat, 16), (a.toNat, 11), (b.toNat, 6)]
  | .mulh gu d a b => pk 167772160 [(gu.enc, 21), (d.toNat, 16), (a.toNat, 11), (b.toNat, 6)]
  | .mulhu gu d a b => pk 201326592 [(gu.enc, 21), (d.toNat, 16), (a.toNat, 11), (b.toNat, 6)]
  | .madd gu d a b => pk 234881024 [(gu.enc, 21), (d.toNat, 16), (a.toNat, 11), (b.toNat, 6)]
  | .div gu d a b => pk 268435456 [(gu.enc, 21), (d.toNat, 16), (a.toNat, 11), (b.toNat, 6)]
  | .divu gu d a b => pk 301989888 [(gu.enc, 21), (d.toNat, 16), (a.toNat, 11), (b.toNat, 6)]
  | .rem gu d a b => pk 335544320 [(gu.enc, 21), (d.toNat, 16), (a.toNat, 11), (b.toNat, 6)]
  | .remu gu d a b => pk 369098752 [(gu.enc, 21), (d.toNat, 16), (a.toNat, 11), (b.toNat, 6)]
  | .min gu d a b => pk 402653184 [(gu.enc, 21), (d.toNat, 16), (a.toNat, 11), (b.toNat, 6)]
  | .max gu d a b => pk 436207616 [(gu.enc, 21), (d.toNat, 16), (a.toNat, 11), (b.toNat, 6)]
  | .minu gu d a b => pk 469762048 [(gu.enc, 21), (d.toNat, 16), (a.toNat, 11), (b.toNat, 6)]
  | .maxu gu d a b => pk 503316480 [(gu.enc, 21), (d.toNat, 16), (a.toNat, 11), (b.toNat, 6)]
  | .and gu d a b => pk 536870912 [(gu.enc, 21), (d.toNat, 16), (a.toNat, 11), (b.toNat, 6)]
  | .or gu d a b => pk 570425344 [(gu.enc, 21), (d.toNat, 16), (a.toNat, 11), (b.toNat, 6)]
  | .xor gu d a b => pk 603979776 [(gu.enc, 21), (d.toNat, 16), (a.toNat, 11), (b.toNat, 6)]
  | .andn gu d a b => pk 637534208 [(gu.enc, 21), (d.toNat, 16), (a.toNat, 11), (b.toNat, 6)]
  | .andi gu d a m => pk 671088640 [(gu.enc, 21), (d.toNat, 16), (a.toNat, 11), (m.toNat, 0)]
  | .ori gu d a m => pk 704643072 [(gu.enc, 21), (d.toNat, 16), (a.toNat, 11), (m.toNat, 0)]
  | .xori gu d a m => pk 738197504 [(gu.enc, 21), (d.toNat, 16), (a.toNat, 11), (m.toNat, 0)]
  | .sll gu d a b => pk 771751936 [(gu.enc, 21), (d.toNat, 16), (a.toNat, 11), (b.toNat, 6)]
  | .srl gu d a b => pk 805306368 [(gu.enc, 21), (d.toNat, 16), (a.toNat, 11), (b.toNat, 6)]
  | .sra gu d a b => pk 838860800 [(gu.enc, 21), (d.toNat, 16), (a.toNat, 11), (b.toNat, 6)]
  | .slli gu d a n => pk 872415232 [(gu.enc, 21), (d.toNat, 16), (a.toNat, 11), (n.toNat, 0)]
  | .srli gu d a n => pk 905969664 [(gu.enc, 21), (d.toNat, 16), (a.toNat, 11), (n.toNat, 0)]
  | .srai gu d a n => pk 939524096 [(gu.enc, 21), (d.toNat, 16), (a.toNat, 11), (n.toNat, 0)]
  | .ror gu d a b => pk 973078528 [(gu.enc, 21), (d.toNat, 16), (a.toNat, 11), (b.toNat, 6)]
  | .clz gu d a => pk 1006632960 [(gu.enc, 21), (d.toNat, 16), (a.toNat, 11)]
  | .ctz gu d a => pk 1040187392 [(gu.enc, 21), (d.toNat, 16), (a.toNat, 11)]
  | .popc gu d a => pk 1073741824 [(gu.enc, 21), (d.toNat, 16), (a.toNat, 11)]
  | .bext gu d a b s => pk 1107296256 [(gu.enc, 21), (d.toNat, 16), (a.toNat, 11), (b.toNat, 6), (s.toNat, 0)]
  | .bins gu d a b => pk 1140850688 [(gu.enc, 21), (d.toNat, 16), (a.toNat, 11), (b.toNat, 6)]
  | .movi gu d m => pk 1174405120 [(gu.enc, 21), (d.toNat, 16), (m.toNat, 0)]
  | .movk k d m => pk 1207959552 [(k.toNat, 21), (d.toNat, 16), (m.toNat, 0)]
  | .sel gu d a b q => pk 1241513984 [(gu.enc, 21), (d.toNat, 16), (a.toNat, 11), (b.toNat, 6), (q.toNat, 0)]
  | .cmpeq gu d a b => pk 1275068416 [(gu.enc, 21), (d.toNat, 16), (a.toNat, 11), (b.toNat, 6)]
  | .cmpne gu d a b => pk 1308622848 [(gu.enc, 21), (d.toNat, 16), (a.toNat, 11), (b.toNat, 6)]
  | .cmplt gu d a b => pk 1342177280 [(gu.enc, 21), (d.toNat, 16), (a.toNat, 11), (b.toNat, 6)]
  | .cmpltu gu d a b => pk 1375731712 [(gu.enc, 21), (d.toNat, 16), (a.toNat, 11), (b.toNat, 6)]
  | .cmpge gu d a b => pk 1409286144 [(gu.enc, 21), (d.toNat, 16), (a.toNat, 11), (b.toNat, 6)]
  | .cmpgeu gu d a b => pk 1442840576 [(gu.enc, 21), (d.toNat, 16), (a.toNat, 11), (b.toNat, 6)]
  | .cmpeqi gu d a m => pk 1476395008 [(gu.enc, 21), (d.toNat, 16), (a.toNat, 11), (m.toNat, 0)]
  | .cmplti gu d a m => pk 1509949440 [(gu.enc, 21), (d.toNat, 16), (a.toNat, 11), (m.toNat, 0)]
  | .plog gu d a b t => pk 1543503872 [(gu.enc, 21), (d.toNat, 16), (a.toNat, 11), (b.toNat, 6), (t.toNat, 0)]
  | .movpGet gu d => pk 1577058304 [(gu.enc, 21), (d.toNat, 16)]
  | .movpSet gu a => pk 1577058305 [(gu.enc, 21), (a.toNat, 11)]
  | .fadd gu d a b z => pk 1610612736 [(gu.enc, 21), (d.toNat, 16), (a.toNat, 11), (b.toNat, 6), (z.toNat, 0)]
  | .fsub gu d a b z => pk 1644167168 [(gu.enc, 21), (d.toNat, 16), (a.toNat, 11), (b.toNat, 6), (z.toNat, 0)]
  | .fmul gu d a b z => pk 1677721600 [(gu.enc, 21), (d.toNat, 16), (a.toNat, 11), (b.toNat, 6), (z.toNat, 0)]
  | .ffma gu d a b z => pk 1711276032 [(gu.enc, 21), (d.toNat, 16), (a.toNat, 11), (b.toNat, 6), (z.toNat, 0)]
  | .fdiv gu d a b z => pk 1744830464 [(gu.enc, 21), (d.toNat, 16), (a.toNat, 11), (b.toNat, 6), (z.toNat, 0)]
  | .fsqrt gu d a z => pk 1778384896 [(gu.enc, 21), (d.toNat, 16), (a.toNat, 11), (z.toNat, 0)]
  | .fmin gu d a b z => pk 1811939328 [(gu.enc, 21), (d.toNat, 16), (a.toNat, 11), (b.toNat, 6), (z.toNat, 0)]
  | .fmax gu d a b z => pk 1845493760 [(gu.enc, 21), (d.toNat, 16), (a.toNat, 11), (b.toNat, 6), (z.toNat, 0)]
  | .fcmpeq gu d a b z => pk 1879048192 [(gu.enc, 21), (d.toNat, 16), (a.toNat, 11), (b.toNat, 6), (z.toNat, 0)]
  | .fcmplt gu d a b z => pk 1912602624 [(gu.enc, 21), (d.toNat, 16), (a.toNat, 11), (b.toNat, 6), (z.toNat, 0)]
  | .fcmple gu d a b z => pk 1946157056 [(gu.enc, 21), (d.toNat, 16), (a.toNat, 11), (b.toNat, 6), (z.toNat, 0)]
  | .fcvt gu d a z => pk 1979711488 [(gu.enc, 21), (d.toNat, 16), (a.toNat, 11), (z.toNat, 0)]
  | .ftoi gu d a r u z => pk 2013265920 [(gu.enc, 21), (d.toNat, 16), (a.toNat, 11), (r.toNat, 2), (u.toNat, 1), (z.toNat, 0)]
  | .itof gu d a u z => pk 2046820352 [(gu.enc, 21), (d.toNat, 16), (a.toNat, 11), (u.toNat, 1), (z.toNat, 0)]
  | .fclass gu d a z => pk 2080374784 [(gu.enc, 21), (d.toNat, 16), (a.toNat, 11), (z.toNat, 0)]
  | .ldb gu d a m => pk 0 [(gu.enc, 21), (d.toNat, 16), (a.toNat, 11), (m.toNat, 0)]
  | .ldbu gu d a m => pk 33554432 [(gu.enc, 21), (d.toNat, 16), (a.toNat, 11), (m.toNat, 0)]
  | .ldh gu d a m => pk 67108864 [(gu.enc, 21), (d.toNat, 16), (a.toNat, 11), (m.toNat, 0)]
  | .ldhu gu d a m => pk 100663296 [(gu.enc, 21), (d.toNat, 16), (a.toNat, 11), (m.toNat, 0)]
  | .ldw gu d a m => pk 134217728 [(gu.enc, 21), (d.toNat, 16), (a.toNat, 11), (m.toNat, 0)]
  | .ldwu gu d a m => pk 167772160 [(gu.enc, 21), (d.toNat, 16), (a.toNat, 11), (m.toNat, 0)]
  | .ldd gu d a m => pk 201326592 [(gu.enc, 21), (d.toNat, 16), (a.toNat, 11), (m.toNat, 0)]
  | .ldacq gu d a e z c => pk 234881024 [(gu.enc, 21), (d.toNat, 16), (a.toNat, 11), (e.toNat, 5), (z.toNat, 3), (c.toNat, 0)]
  | .stb gu d a m => pk 268435456 [(gu.enc, 21), (d.toNat, 16), (a.toNat, 11), (m.toNat, 0)]
  | .sth gu d a m => pk 301989888 [(gu.enc, 21), (d.toNat, 16), (a.toNat, 11), (m.toNat, 0)]
  | .stw gu d a m => pk 335544320 [(gu.enc, 21), (d.toNat, 16), (a.toNat, 11), (m.toNat, 0)]
  | .std gu d a m => pk 369098752 [(gu.enc, 21), (d.toNat, 16), (a.toNat, 11), (m.toNat, 0)]
  | .strel gu a b e z c => pk 402653184 [(gu.enc, 21), (a.toNat, 11), (b.toNat, 6), (e.toNat, 5), (z.toNat, 3), (c.toNat, 0)]
  | .spldw gu d a m => pk 436207616 [(gu.enc, 21), (d.toNat, 16), (a.toNat, 11), (m.toNat, 0)]
  | .spldd gu d a m => pk 469762048 [(gu.enc, 21), (d.toNat, 16), (a.toNat, 11), (m.toNat, 0)]
  | .spstw gu d a m => pk 503316480 [(gu.enc, 21), (d.toNat, 16), (a.toNat, 11), (m.toNat, 0)]
  | .spstd gu d a m => pk 536870912 [(gu.enc, 21), (d.toNat, 16), (a.toNat, 11), (m.toNat, 0)]
  | .amoadd gu d a b e w c => pk 570425344 [(gu.enc, 21), (d.toNat, 16), (a.toNat, 11), (b.toNat, 6), (e.toNat, 5), (w.toNat, 3), (c.toNat, 0)]
  | .amoand gu d a b e w c => pk 603979776 [(gu.enc, 21), (d.toNat, 16), (a.toNat, 11), (b.toNat, 6), (e.toNat, 5), (w.toNat, 3), (c.toNat, 0)]
  | .amoor gu d a b e w c => pk 637534208 [(gu.enc, 21), (d.toNat, 16), (a.toNat, 11), (b.toNat, 6), (e.toNat, 5), (w.toNat, 3), (c.toNat, 0)]
  | .amoxor gu d a b e w c => pk 671088640 [(gu.enc, 21), (d.toNat, 16), (a.toNat, 11), (b.toNat, 6), (e.toNat, 5), (w.toNat, 3), (c.toNat, 0)]
  | .amomin gu d a b e u w c => pk 704643072 [(gu.enc, 21), (d.toNat, 16), (a.toNat, 11), (b.toNat, 6), (e.toNat, 5), (u.toNat, 4), (w.toNat, 3), (c.toNat, 0)]
  | .amomax gu d a b e u w c => pk 738197504 [(gu.enc, 21), (d.toNat, 16), (a.toNat, 11), (b.toNat, 6), (e.toNat, 5), (u.toNat, 4), (w.toNat, 3), (c.toNat, 0)]
  | .amoswp gu d a b e w c => pk 771751936 [(gu.enc, 21), (d.toNat, 16), (a.toNat, 11), (b.toNat, 6), (e.toNat, 5), (w.toNat, 3), (c.toNat, 0)]
  | .amocas gu d a b e w c => pk 805306368 [(gu.enc, 21), (d.toNat, 16), (a.toNat, 11), (b.toNat, 6), (e.toNat, 5), (w.toNat, 3), (c.toNat, 0)]
  | .amofadd gu d a b e w c => pk 838860800 [(gu.enc, 21), (d.toNat, 16), (a.toNat, 11), (b.toNat, 6), (e.toNat, 5), (w.toNat, 3), (c.toNat, 0)]
  | .fence gu c s => pk 872415232 [(gu.enc, 21), (c.toNat, 4), (s.toNat, 0)]
  | .ldblk gu d a b n => pk 905969664 [(gu.enc, 21), (d.toNat, 16), (a.toNat, 11), (b.toNat, 6), (n.toNat, 0)]
  | .blkwb gu n => pk 939524096 [(gu.enc, 21), (n.toNat, 0)]
  | .blkrel gu n => pk 973078528 [(gu.enc, 21), (n.toNat, 0)]
  | .xlt gu a l w n => pk 1006632960 [(gu.enc, 21), (a.toNat, 11), (l.toNat, 3), (w.toNat, 2), (n.toNat, 0)]
  | .xltp gu d a l w n => pk 1040187392 [(gu.enc, 21), (d.toNat, 16), (a.toNat, 11), (l.toNat, 3), (w.toNat, 2), (n.toNat, 0)]
  | .leaseq gu d a => pk 1073741824 [(gu.enc, 21), (d.toNat, 16), (a.toNat, 11)]
  | .sbind gu n a m => pk 1108869120 [(gu.enc, 21), (n.toNat, 16), (a.toNat, 11), (m.toNat, 0)]
  | .sunbind gu n => pk 1142423552 [(gu.enc, 21), (n.toNat, 16)]
  | .qinit gu n a b => pk 1174405120 [(gu.enc, 21), (n.toNat, 16), (a.toNat, 11), (b.toNat, 6)]
  | .qadv gu q a r h n => pk 1207959552 [(gu.enc, 21), (q.toNat, 16), (a.toNat, 11), (r.toNat, 9), (h.toNat, 8), (n.toNat, 0)]
  | .qstat gu d n h => pk 1241513984 [(gu.enc, 21), (d.toNat, 16), (n.toNat, 11), (h.toNat, 0)]
  | .wenq gu d a b c => pk 1275068416 [(gu.enc, 21), (d.toNat, 16), (a.toNat, 11), (b.toNat, 6), (c.toNat, 0)]
  | .agset gu n a => pk 1308622848 [(gu.enc, 21), (n.toNat, 16), (a.toNat, 11)]
  | .agadv gu n a m => pk 1342177280 [(gu.enc, 21), (n.toNat, 16), (a.toNat, 11), (m.toNat, 0)]
  | .vsetlImm gu m => pk 0 [(gu.enc, 21), (m.toNat, 0)]
  | .vsetlReg gu d => pk 0 [(gu.enc, 21), (d.toNat, 16)]
  | .vmov gu a b l => pk 33554432 [(gu.enc, 21), (a.toNat, 16), (b.toNat, 11), (l.toNat, 10)]
  | .vfill gu a b => pk 67108864 [(gu.enc, 21), (a.toNat, 16), (b.toNat, 11)]
  | .vadd gu a b l => pk 100663296 [(gu.enc, 21), (a.toNat, 16), (b.toNat, 11), (l.toNat, 10)]
  | .vsub gu a b l => pk 134217728 [(gu.enc, 21), (a.toNat, 16), (b.toNat, 11), (l.toNat, 10)]
  | .vmul gu a b l => pk 167772160 [(gu.enc, 21), (a.toNat, 16), (b.toNat, 11), (l.toNat, 10)]
  | .vfma gu a b l => pk 201326592 [(gu.enc, 21), (a.toNat, 16), (b.toNat, 11), (l.toNat, 10)]
  | .vmin gu a b l => pk 234881024 [(gu.enc, 21), (a.toNat, 16), (b.toNat, 11), (l.toNat, 10)]
  | .vmax gu a b l => pk 268435456 [(gu.enc, 21), (a.toNat, 16), (b.toNat, 11), (l.toNat, 10)]
  | .vabs gu a l => pk 301989888 [(gu.enc, 21), (a.toNat, 16), (l.toNat, 10)]
  | .vneg gu a l => pk 335544320 [(gu.enc, 21), (a.toNat, 16), (l.toNat, 10)]
  | .vadds gu a b l => pk 369098752 [(gu.enc, 21), (a.toNat, 16), (b.toNat, 11), (l.toNat, 10)]
  | .vmuls gu a b l => pk 402653184 [(gu.enc, 21), (a.toNat, 16), (b.toNat, 11), (l.toNat, 10)]
  | .vfmas gu a b l => pk 436207616 [(gu.enc, 21), (a.toNat, 16), (b.toNat, 11), (l.toNat, 10)]
  | .vrcp gu a l => pk 469762048 [(gu.enc, 21), (a.toNat, 16), (l.toNat, 10)]
  | .vrsqrt gu a l => pk 503316480 [(gu.enc, 21), (a.toNat, 16), (l.toNat, 10)]
  | .vexp gu a l => pk 536870912 [(gu.enc, 21), (a.toNat, 16), (l.toNat, 10)]
  | .vlog gu a l => pk 570425344 [(gu.enc, 21), (a.toNat, 16), (l.toNat, 10)]
  | .vsin gu a l => pk 603979776 [(gu.enc, 21), (a.toNat, 16), (l.toNat, 10)]
  | .vcos gu a l => pk 637534208 [(gu.enc, 21), (a.toNat, 16), (l.toNat, 10)]
  | .vtanh gu a l => pk 671088640 [(gu.enc, 21), (a.toNat, 16), (l.toNat, 10)]
  | .vsig gu a l => pk 704643072 [(gu.enc, 21), (a.toNat, 16), (l.toNat, 10)]
  | .vsilu gu a l => pk 738197504 [(gu.enc, 21), (a.toNat, 16), (l.toNat, 10)]
  | .vgelu gu a l => pk 771751936 [(gu.enc, 21), (a.toNat, 16), (l.toNat, 10)]
  | .vcvt gu a l => pk 805306368 [(gu.enc, 21), (a.toNat, 16), (l.toNat, 10)]
  | .vqnt gu a b l => pk 838860800 [(gu.enc, 21), (a.toNat, 16), (b.toNat, 11), (l.toNat, 10)]
  | .vdq gu a b => pk 872415232 [(gu.enc, 21), (a.toNat, 16), (b.toNat, 11)]
  | .vcmp gu a b s c => pk 905969664 [(gu.enc, 21), (a.toNat, 16), (b.toNat, 11), (s.toNat, 3), (c.toNat, 0)]
  | .vsel gu a b => pk 939524096 [(gu.enc, 21), (a.toNat, 16), (b.toNat, 11)]
  | .vrsum gu a => pk 973078528 [(gu.enc, 21), (a.toNat, 16)]
  | .vrmax gu a => pk 1006632960 [(gu.enc, 21), (a.toNat, 16)]
  | .vargmax gu a => pk 1040187392 [(gu.enc, 21), (a.toNat, 16)]
  | .vscan gu a => pk 1073741824 [(gu.enc, 21), (a.toNat, 16)]
  | .vdot gu a b => pk 1107296256 [(gu.enc, 21), (a.toNat, 16), (b.toNat, 11)]
  | .vperm gu a b => pk 1140850688 [(gu.enc, 21), (a.toNat, 16), (b.toNat, 11)]
  | .vgath gu a b => pk 1174405120 [(gu.enc, 21), (a.toNat, 16), (b.toNat, 11)]
  | .vscadd gu a b => pk 1207959552 [(gu.enc, 21), (a.toNat, 16), (b.toNat, 11)]
  | .viadd gu a b s => pk 1241513984 [(gu.enc, 21), (a.toNat, 16), (b.toNat, 11), (s.toNat, 0)]
  | .vand gu a b s => pk 1275068416 [(gu.enc, 21), (a.toNat, 16), (b.toNat, 11), (s.toNat, 0)]
  | .vor gu a b s => pk 1308622848 [(gu.enc, 21), (a.toNat, 16), (b.toNat, 11), (s.toNat, 0)]
  | .vxor gu a b s => pk 1342177280 [(gu.enc, 21), (a.toNat, 16), (b.toNat, 11), (s.toNat, 0)]
  | .vshl gu a b s => pk 1375731712 [(gu.enc, 21), (a.toNat, 16), (b.toNat, 11), (s.toNat, 0)]
  | .vshr gu a b ar s => pk 1409286144 [(gu.enc, 21), (a.toNat, 16), (b.toNat, 11), (ar.toNat, 1), (s.toNat, 0)]
  | .vsmax gu a b => pk 1442840576 [(gu.enc, 21), (a.toNat, 16), (b.toNat, 11)]
  | .vrmsn gu a b => pk 1476395008 [(gu.enc, 21), (a.toNat, 16), (b.toNat, 11)]
  | .vrope gu a b h => pk 1509949440 [(gu.enc, 21), (a.toNat, 16), (b.toNat, 11), (h.toNat, 0)]
  | .vmaskw gu a b z n => pk 1543503872 [(gu.enc, 21), (a.toNat, 16), (b.toNat, 11), (z.toNat, 1), (n.toNat, 0)]
  | .tcwupd gu a b => pk 1577058304 [(gu.enc, 21), (a.toNat, 16), (b.toNat, 11)]
  | .tcwcnt gu a => pk 1610612736 [(gu.enc, 21), (a.toNat, 16)]
  | .vfence gu s => pk 1644167168 [(gu.enc, 21), (s.toNat, 0)]
  | .vbsy gu a => pk 1677721600 [(gu.enc, 21), (a.toNat, 16)]
  | .mma gu qa qb acc z ks ka kb => pk (0 * 2 ^ 57) [(gu.enc, 53), (qa.toNat, 49), (qb.toNat, 45), (acc.toNat, 43), (z.toNat, 42), (ks.toNat, 35), (ka.toNat, 0), (kb.toNat, 1)]
  | .mmabt gu qa qb acc z ks ka kb => pk (1 * 2 ^ 57) [(gu.enc, 53), (qa.toNat, 49), (qb.toNat, 45), (acc.toNat, 43), (z.toNat, 42), (ks.toNat, 35), (ka.toNat, 0), (kb.toNat, 1)]
  | .mmasp gu qa qb acc z ks ka kb => pk (2 * 2 ^ 57) [(gu.enc, 53), (qa.toNat, 49), (qb.toNat, 45), (acc.toNat, 43), (z.toNat, 42), (ks.toNat, 35), (ka.toNat, 0), (kb.toNat, 1)]
  | .mmacb gu qa qb acc z ks ka kb => pk (3 * 2 ^ 57) [(gu.enc, 53), (qa.toNat, 49), (qb.toNat, 45), (acc.toNat, 43), (z.toNat, 42), (ks.toNat, 35), (ka.toNat, 0), (kb.toNat, 1)]
  | .mzero gu acc kind => pk (4 * 2 ^ 57) [(gu.enc, 53), (acc.toNat, 43), (kind.toNat, 0)]
  | .mldacc gu acc off kind => pk (5 * 2 ^ 57) [(gu.enc, 53), (acc.toNat, 43), (off.toNat, 0), (kind.toNat, 23)]
  | .mdrain gu acc dmask off => pk (6 * 2 ^ 57) [(gu.enc, 53), (acc.toNat, 43), (dmask.toNat, 24), (off.toNat, 0)]
  | .mdraina gu acc off => pk (7 * 2 ^ 57) [(gu.enc, 53), (acc.toNat, 43), (off.toNat, 0)]
  | .mpop gu qa qb popA popB => pk (8 * 2 ^ 57) [(gu.enc, 53), (qa.toNat, 49), (qb.toNat, 45), (popA.toNat, 0), (popB.toNat, 1)]
  | .mcbld gu off => pk (9 * 2 ^ 57) [(gu.enc, 53), (off.toNat, 0)]
  | .mscl gu off => pk (10 * 2 ^ 57) [(gu.enc, 53), (off.toNat, 0)]
  | .mfence gu slots => pk (11 * 2 ^ 57) [(gu.enc, 53), (slots.toNat, 0)]
  | .dcopy gu card ac => pk (0 * 2 ^ 57) [(gu.enc, 53), (card.toNat, 48), (ac.toNat, 34)]
  | .dmcast gu card mm ac => pk (1 * 2 ^ 57) [(gu.enc, 53), (card.toNat, 48), (mm.toNat, 40), (ac.toNat, 34)]
  | .dgath gu card ac => pk (2 * 2 ^ 57) [(gu.enc, 53), (card.toNat, 48), (ac.toNat, 34)]
  | .dscat gu card ac => pk (3 * 2 ^ 57) [(gu.enc, 53), (card.toNat, 48), (ac.toNat, 34)]
  | .dscadd gu card ac => pk (4 * 2 ^ 57) [(gu.enc, 53), (card.toNat, 48), (ac.toNat, 34)]
  | .dred gu card ac => pk (5 * 2 ^ 57) [(gu.enc, 53), (card.toNat, 48), (ac.toNat, 34)]
  | .dbcast gu card ac => pk (6 * 2 ^ 57) [(gu.enc, 53), (card.toNat, 48), (ac.toNat, 34)]
  | .dallg gu card ac => pk (7 * 2 ^ 57) [(gu.enc, 53), (card.toNat, 48), (ac.toNat, 34)]
  | .dembag gu card ac => pk (8 * 2 ^ 57) [(gu.enc, 53), (card.toNat, 48), (ac.toNat, 34)]
  | .dstage gu card ac => pk (9 * 2 ^ 57) [(gu.enc, 53), (card.toNat, 48), (ac.toNat, 34)]
  | .pack gu card ac => pk (10 * 2 ^ 57) [(gu.enc, 53), (card.toNat, 48), (ac.toNat, 34)]
  | .unpack gu card ac => pk (11 * 2 ^ 57) [(gu.enc, 53), (card.toNat, 48), (ac.toNat, 34)]
  | .exn gu card ac => pk (12 * 2 ^ 57) [(gu.enc, 53), (card.toNat, 48), (ac.toNat, 34)]
  | .kvfill gu card ac => pk (13 * 2 ^ 57) [(gu.enc, 53), (card.toNat, 48), (ac.toNat, 34)]
  | .skfind gu card ac => pk (14 * 2 ^ 57) [(gu.enc, 53), (card.toNat, 48), (ac.toNat, 34)]
  | .skput gu card ac => pk (15 * 2 ^ 57) [(gu.enc, 53), (card.toNat, 48), (ac.toNat, 34)]
  | .skrel gu card ac => pk (16 * 2 ^ 57) [(gu.enc, 53), (card.toNat, 48), (ac.toNat, 34)]
  | .skpin gu card ac => pk (17 * 2 ^ 57) [(gu.enc, 53), (card.toNat, 48), (ac.toNat, 34)]
  | .dfence gu slots => pk (18 * 2 ^ 57) [(gu.enc, 53), (slots.toNat, 0)]
  | .ixwalk gu card ac => pk (19 * 2 ^ 57) [(gu.enc, 53), (card.toNat, 48), (ac.toNat, 34)]
  | .ixsect gu card ac => pk (20 * 2 ^ 57) [(gu.enc, 53), (card.toNat, 48), (ac.toNat, 34)]
  | .ixpart gu card ac => pk (21 * 2 ^ 57) [(gu.enc, 53), (card.toNat, 48), (ac.toNat, 34)]
  | .pbr gu b m => pk 0 [(gu.enc, 21), (b.toNat, 18), (m.toNat, 0)]
  | .pbrr gu n a => pk 33554432 [(gu.enc, 21), (n.toNat, 16), (a.toNat, 11)]
  | .br gu b => pk 67108864 [(gu.enc, 21), (b.toNat, 18)]
  | .brl gu b l => pk 100663296 [(gu.enc, 21), (b.toNat, 18), (l.toNat, 0)]
  | .loop gu b x => pk 134217728 [(gu.enc, 21), (b.toNat, 18), (x.toNat, 16)]
  | .loopiImm gu b x n => pk 167772160 [(gu.enc, 21), (b.toNat, 18), (x.toNat, 16), (n.toNat, 0)]
  | .loopiReg gu b x g => pk 167804928 [(gu.enc, 21), (b.toNat, 18), (x.toNat, 16), (g.toNat, 0)]
  | .loopl gu b x d => pk 201326592 [(gu.enc, 21), (b.toNat, 18), (x.toNat, 16), (d.toNat, 0)]
  | .fmtw gu h m => pk 234881024 [(gu.enc, 21), (h.toNat, 16), (m.toNat, 0)]
  | .fmtwg gu a b => pk 268435456 [(gu.enc, 21), (a.toNat, 11), (b.toNat, 6)]
  | .waita gu a b s c => pk 301989888 [(gu.enc, 21), (a.toNat, 11), (b.toNat, 6), (s.toNat, 3), (c.toNat, 0)]
  | .susp gu => pk 335544320 [(gu.enc, 21)]
  | .done gu => pk 369098752 [(gu.enc, 21)]
  | .barr gu n => pk 402653184 [(gu.enc, 21), (n.toNat, 0)]
  | .sync gu m => pk 436207616 [(gu.enc, 21), (m.toNat, 0)]
  | .trap gu c => pk 469762048 [(gu.enc, 21), (c.toNat, 0)]
  | .sigc gu a b s c => pk 503316480 [(gu.enc, 21), (a.toNat, 11), (b.toNat, 6), (s.toNat, 3), (c.toNat, 0)]
  | .tspawn gu d a => pk 536870912 [(gu.enc, 21), (d.toNat, 16), (a.toNat, 11)]
  | .crspawn gu d a b => pk 570425344 [(gu.enc, 21), (d.toNat, 16), (a.toNat, 11), (b.toNat, 6)]
  | .glnch gu d a => pk 603979776 [(gu.enc, 21), (d.toNat, 16), (a.toNat, 11)]
  | .gtok gu d a b => pk 637534208 [(gu.enc, 21), (d.toNat, 16), (a.toNat, 11), (b.toNat, 6)]
  | .gstat gu d a b n => pk 671088640 [(gu.enc, 21), (d.toNat, 16), (a.toNat, 11), (b.toNat, 6), (n.toNat, 0)]
  | .teamq gu d a t => pk 704643072 [(gu.enc, 21), (d.toNat, 16), (a.toNat, 11), (t.toNat, 0)]
  | .sysrd gu d x => pk 738197504 [(gu.enc, 21), (d.toNat, 16), (x.toNat, 0)]
  | .syswr gu d x => pk 771751936 [(gu.enc, 21), (d.toNat, 16), (x.toNat, 0)]
  | .eret gu b => pk 805306368 [(gu.enc, 21), (b.toNat, 18)]
  | .tlbdrn gu d a b c => pk 838860800 [(gu.enc, 21), (d.toNat, 16), (a.toNat, 11), (b.toNat, 6), (c.toNat, 0)]
  | .tlbcnf gu => pk 872415232 [(gu.enc, 21)]
  | .leaseg gu d a b => pk 905969664 [(gu.enc, 21), (d.toNat, 16), (a.toNat, 11), (b.toNat, 6)]
  | .cinv gu a b k => pk 939524096 [(gu.enc, 21), (a.toNat, 11), (b.toNat, 6), (k.toNat, 0)]
  | .prmt gu d a b => pk 973078528 [(gu.enc, 21), (d.toNat, 16), (a.toNat, 11), (b.toNat, 6)]
  | .hint gu a => pk 1006632960 [(gu.enc, 21), (a.toNat, 11)]
  | .hset d imm => pk (0 * 2 ^ 60) [(d.toNat, 56), (imm.toNat, 0)]
  | .hadd d a b imm => pk (1 * 2 ^ 60) [(d.toNat, 56), (a.toNat, 52), (b.toNat, 48), (imm.toNat, 0)]
  | .hjmp c a tgt => pk (2 * 2 ^ 60) [(c.toNat, 58), (a.toNat, 52), (tgt.toNat, 0)]
  | .hloop a tgt => pk (3 * 2 ^ 60) [(a.toNat, 52), (tgt.toNat, 0)]
  | .agld n a => pk (4 * 2 ^ 60) [(n.toNat, 56), (a.toNat, 52)]
  | .kvrd kv n q boff blen adv cnt => pk (5 * 2 ^ 60) [(kv.toNat, 59), (n.toNat, 56), (q.toNat, 52), (boff.toNat, 24), (blen.toNat, 16), (adv.toNat, 7), (cnt.toNat, 0)]
  | .mxi op mx => pk (6 * 2 ^ 60) [(op.toNat, 53), (mx.toNat, 0)]
  | .smax q a b w mk cnt => pk (7 * 2 ^ 60) [(q.toNat, 52), (a.toNat, 48), (b.toNat, 44), (w.toNat, 40), (mk.toNat, 39), (cnt.toNat, 0)]
  | .resc acc a => pk (8 * 2 ^ 60) [(acc.toNat, 54), (a.toNat, 48)]
  | .norm acc a => pk (9 * 2 ^ 60) [(acc.toNat, 54), (a.toNat, 48)]
  | .rope a b c half d rows => pk (10 * 2 ^ 60) [(a.toNat, 52), (b.toNat, 48), (c.toNat, 44), (half.toNat, 18), (d.toNat, 8), (rows.toNat, 0)]
  | .djob a mm ac => pk (11 * 2 ^ 60) [(a.toNat, 52), (mm.toNat, 48), (ac.toNat, 40)]
  | .waitw c a b => pk (12 * 2 ^ 60) [(c.toNat, 58), (a.toNat, 52), (b.toNat, 48)]
  | .sigw sc a b => pk (13 * 2 ^ 60) [(sc.toNat, 57), (a.toNat, 52), (b.toNat, 48)]
  | .mcmb acc a b c => pk (14 * 2 ^ 60) [(acc.toNat, 54), (a.toNat, 48), (b.toNat, 44), (c.toNat, 40)]
  | .halt  => pk (15 * 2 ^ 60) []
  | .bundleDispatch => 0
  | .pickerPreemptContext _ => 0
  | .writeApplyAtDie _ _ => 0
  | .strongOperationAtHome _ _ _ _ _ _ => 0
  | .loadBlockFillComplete _ _ => 0
  | .pageWalkComplete _ _ _ => 0
  | .translationComplete _ _ => 0
  | .vectorCommandCompletion _ => 0
  | .jobChannelStart _ => 0
  | .jobCompletion _ => 0
  | .followOnIssue _ => 0
  | .arrayEntry _ => 0
  | .matrixCommandRetire _ => 0
  | .exitNoticeReceive _ _ => 0
  | .exitStateArrival _ _ => 0
  | .exnRefusal _ => 0
  | .attentionReadRequest _ _ _ _ _ => 0
  | .darnFill _ _ _ => 0
  | .darnFillComplete _ _ _ => 0
  | .fillTimeout _ _ => 0
  | .stagingBufferSelect _ => 0
  | .skeinOperationExecute => 0
  | .sqstartWrite _ => 0
  | .sqcsdWrite _ => 0
  | .sqcsdRead _ => 0
  | .rxregWrite _ _ => 0
  | .registerWrite _ _ _ _ => 0
  | .doorbell _ _ _ => 0
  | .completionHeadWrite _ _ _ => 0
  | .submitTask _ => 0
  | .submitGraphReplay _ => 0
  | .patchCommit _ => 0
  | .spawnAnswer _ => 0
  | .replayStart _ => 0
  | .patchAreaCopyDone _ => 0
  | .taskOrderingRelease _ => 0
  | .taskLeasing _ => 0
  | .teamDispatch _ => 0
  | .teamSwapOut _ _ => 0
  | .teamSwapIn _ _ => 0
  | .sliceQuantumExpiry _ => 0
  | .swapAbandonTimeout _ _ => 0
  | .taskCompletion _ => 0
  | .deadlineOverrun _ => 0
  | .stopBegin _ => 0
  | .stopResume => 0
  | .stopSourcesStopped => 0
  | .stopDrainComplete => 0
  | .stopDrainTimeout => 0
  | .bobbinTokenArrival _ _ _ => 0
  | .bobholdExpiry => 0
  | .bobbinTokenRegeneration _ => 0
  | .stolenTeamArrival _ _ _ _ => 0
  | .stealAcknowledge _ _ => 0
  | .stolenTeamAccess _ _ _ _ _ _ _ => 0
  | .hostCxlMemWrite _ _ => 0
  | .hostCxlMemRead _ _ => 0
  | .qctlEnable _ => 0
  | .qctlDisable _ => 0
  | .powerGood => 0
  | .powerLost => 0
  | .fwcmdAuthenticate => 0
  | .authenticationComplete _ => 0
  | .stage1Complete _ => 0
  | .stage2Complete _ _ => 0
  | .scrunStart _ => 0
  | .mrstModuleReset _ => 0
  | .cxlReset => 0
  | .drstDieReset _ => 0
  | .dieResetComplete _ => 0
  | .migreqClaim _ _ => 0
  | .migreqCommit _ _ => 0
  | .migreqRelease _ _ => 0
  | .powerWindowCheck _ _ _ => 0
  | .thermalTrip _ => 0
  | .correctedError _ => 0
  | .uncorrectableError _ => 0
  | .podLinkDown _ _ => 0
  | .ebnasPortTimeout _ => 0
  | .firmwareWindowWrite _ _ _ => 0

/-- The first of two answers. -/
def orElse (a b : Option Instr) : Option Instr :=
  match a with
  | some i => some i
  | none => b

/-- The instruction the decoder reads from a row's word. The 32-bit slot classes share opcodes, so a 32-bit word alone
does not say its class: the maps are asked in slot order S, A, V, K, and a 64-bit word in the order M, D, sequencer (log
entry 7). -/
def decodeTableWord (nbits w : Nat) : Option Instr :=
  if nbits = 32 then orElse (decodeS w) (orElse (decodeA w) (orElse (decodeV w) (decodeK w)))
  else if nbits = 64 then orElse (decodeM w) (orElse (decodeD w) (decodeSeq w))
  else none

end Sys2Proof
end

