-- ==== Sys2Proof/Config.lean ====
section
/-! DEFINITION. What the spec leaves open: free values, opaque constants with no body, so that nothing can be proved of
a value of theirs. Log entries 10, 11, 12, 20, 22 to 25 and 32 to 34 name them. -/

namespace Sys2Proof.Config

/-- The pattern a function returns, for the function with its destination format and for its operand; the model takes it
where it lies within the bound of R183, else the correctly rounded one (R120; log entry 10). -/
opaque funcValue : Nat → Nat → Nat

/-- The pattern a Dusk-mode operation returns, for a free count; the model takes it where it lies within R120's bound of
the exact-mode one, else that one (log entry 11). -/
opaque duskValue : Nat → Nat

/-- Which of the underflow and inexact flags a Dusk-mode operation sets beside the exact mode's, as bits 0 and 1 (R120; log
entry 11). -/
opaque duskFlags : Nat → Nat

/-- The FP32 pattern SinT, or CosT where the flag is set, returns for a phase; the model takes it where it lies within
2^-24 of the true value, else the correctly rounded one (R194; log entry 12). -/
opaque trigValue : Nat → Bool → Nat

/-- The stepping field of IDENT (R307; log entry 20). -/
opaque stepping : BitVec 8

/-- Virtual address of the `n`-th continuation record the launch unit takes from a context's pool, before it is aligned
to 64 bytes (R21; log entry 22). -/
opaque recordVa : Nat → Nat → Nat

/-- Where that record stands in the HBM of its team's die, before it is aligned to 64 bytes (R21; log entry 22). -/
opaque recordPa : Nat → Nat → Nat

/-- Virtual address of the `n`-th context save area of a context, before it is aligned to 256 bytes (R27; log entry 22). -/
opaque saveVa : Nat → Nat → Nat

/-- Where that save area stands in the HBM of its team's die, before it is aligned to 256 bytes (R27; log entry 22). -/
opaque savePa : Nat → Nat → Nat

/-- Physical address of the `n`-th renamed version, before it is aligned to 64 KiB and brought into HBM (R37; log entry
22). -/
opaque versionPa : Nat → Nat

/-- Whether a context's pools can hold a submission that needs so many bytes (reason 0x0008 of R385), or a helper's record
(R249; log entry 23). -/
opaque poolHolds : Nat → Nat → Bool

/-- The rank in which a granule of a move whose rows meet lands, by the free count and the granule's number (R222; log entry
24). -/
opaque landRank : Nat → Nat → Nat

/-- Whether a move reads a source granule it has already written as it stands now, by the free count and the granule (R222;
log entry 24). -/
opaque readsLanded : Nat → Nat → Bool

/-- Which of the nodes evicted for one SKPUT its result names where there are several, as an index by the free count (R235;
log entry 25). -/
opaque evictedPick : Nat → Nat

/-- The cause code of the error-log entry of an overrun, which R349 does not list (R284; log entry 32). -/
opaque overrunCause : BitVec 16

/-- The severity of that entry, modulo 6 (R284, R357; log entry 32). -/
opaque overrunSeverity : Nat

/-- How many teams a steal request names, less one, modulo 16 (R291; log entry 33). -/
opaque stealCount : Nat → Nat

/-- The reason code a queue's completion gives where a pending replay exists, which R385 does not list (R39, R300; log entry
34). -/
opaque pendingReason : BitVec 16

/-- What the host reads at an offset of a BAR that names no register or queue (R256, R297; log entry 57). -/
opaque unmappedRead : Nat → Word

end Sys2Proof.Config
end

