-- ==== Sys2Proof/Machine/MemOps.lean ====
section
/-! DEFINITION. Named operations over memory: each die's view, stamped writes and their order (R93 to R96), the physical
map (R70), scratchpads and team images (R59 to R61), page walks (R71, R72), leases (R74). -/

namespace Sys2Proof.Machine

/-! ### Lookups -/

/-- Die `d`'s registers. -/
def Mach.die (m : Mach) (d : Nat) : Die := SMap.get {} m.dies d

/-- Replaces die `d`'s registers. -/
def Mach.setDie (m : Mach) (d : Nat) (x : Die) : Mach := { m with dies := SMap.set {} m.dies d x }

/-- The cycles a die has counted (R5). -/
def Mach.cyc (m : Mach) (d : Nat) : Nat := m.now + SMap.get 0 m.ahead d

/-- Cycles pass on one die (R5). -/
def Mach.tickDie (m : Mach) (d n : Nat) : Mach := { m with ahead := SMap.set 0 m.ahead d (SMap.get 0 m.ahead d + n) }

/-- The task with sequence number `q`. -/
def Mach.task? (m : Mach) (q : Nat) : Option Task := m.tasks.find? fun t => t.seq == q

/-- Replaces a task's entry. -/
def Mach.setTask (m : Mach) (t : Task) : Mach :=
  { m with tasks := m.tasks.map fun u => if u.seq == t.seq then t else u }

/-- A continuation by the model's number; the issuing one stands apart. -/
def Mach.cont? (m : Mach) (n : Nat) : Option Cont :=
  if m.cur.id == n then some m.cur else m.conts.find? fun c => c.id == n

/-- Replaces a continuation. -/
def Mach.setCont (m : Mach) (c : Cont) : Mach :=
  if m.cur.id == c.id then { m with cur := c }
  else { m with conts := m.conts.map fun u => if u.id == c.id then c else u }

/-- Every continuation, the issuing one first. -/
def Mach.allConts (m : Mach) : List Cont := m.cur :: m.conts

/-- Applies a change to every continuation that passes the test. -/
def Mach.mapConts (m : Mach) (f : Cont → Cont) : Mach := { m with cur := f m.cur, conts := m.conts.map f }

/-- The team of a task. -/
def Mach.team? (m : Mach) (task idx : Nat) : Option Team := m.teams.find? fun t => t.task == task && t.idx == idx

/-- Replaces a team. -/
def Mach.setTeam (m : Mach) (t : Team) : Mach :=
  { m with teams := m.teams.map fun u => if u.task == t.task && u.idx == t.idx then t else u }

/-- A job by number. -/
def Mach.job? (m : Mach) (n : Nat) : Option Job := m.jobs.find? fun j => j.id == n

/-- Replaces a job. -/
def Mach.setJob (m : Mach) (j : Job) : Mach := { m with jobs := m.jobs.map fun u => if u.id == j.id then j else u }

/-- A cluster's sequencer, by 4 × die + cluster. -/
def Mach.seq (m : Mach) (k : Nat) : Seq := SMap.get {} m.seqs k

/-- Replaces a cluster's sequencer. -/
def Mach.setSeq (m : Mach) (k : Nat) (x : Seq) : Mach := { m with seqs := SMap.set {} m.seqs k x }

/-- The module that runs a team of this one, if one does (R292). -/
def Mach.thiefOf (m : Mach) (task idx : Nat) : Option Nat :=
  match m.team? task idx with
  | some t => match t.res with
    | .stolen k => some k
    | _ => none
  | none => none

/-- Whether an access of a member's window must wait for the module that runs it (R293; log entry 73). -/
def Mach.away (m : Mach) (c : Cont) : Bool := (m.thiefOf c.task c.team.toNat).isSome && !c.given

/-- What stands behind a continuation of a team stolen from another module (R293). -/
def Mach.guestOf (m : Mach) (c : Cont) : Option GuestId := (m.task? c.task).bind Task.guest

/-! ### The pod -/

/-- This module's index in the pod (R301). -/
def Mach.modIndex (m : Mach) : Nat :=
  let w := m.regs.podcfg.toNat
  bits w 26 24 + bits w 3 0 * (bits w 34 32 + bits w 11 8 * bits w 41 40)

/-- Modules of the pod (R301). -/
def Mach.podSize (m : Mach) : Nat :=
  let w := m.regs.podcfg.toNat
  bits w 3 0 * bits w 11 8 * bits w 18 16

/-- A coordinate's way in a dimension of some size: none, or the direction's first port, the shorter way round, positive on a
tie (R17, R302). -/
def wayIn (size here there port : Nat) : Option Nat :=
  let d := (there + size - here) % size
  if size = 0 ∨ d = 0 then none else if 2 * d ≤ size then some port else some (port + 2)

/-- The first port of the direction in which traffic leaves this module for another (R17, R302). -/
def Mach.wayTo (m : Mach) (dest : Nat) : Option Nat :=
  let w := m.regs.podcfg.toNat
  let dx := bits w 3 0
  let dy := bits w 11 8
  ((wayIn dx (bits w 26 24) (dest % dx) 0).or (wayIn dy (bits w 34 32) (dest / dx % dy) 4)).or
    (wayIn (bits w 18 16) (bits w 41 40) (dest / dx / dy) 8)

/-- The port traffic for a module takes: the fixed one of its direction, or the other where that is down (R302, R406). -/
def Mach.portTo (m : Mach) (dest : Nat) : Option Nat :=
  match m.wayTo dest with
  | none => none
  | some p =>
    let a := p + dest % 2
    let b := p + (dest + 1) % 2
    if m.regs.podUp.getLsbD a then some a else if m.regs.podUp.getLsbD b then some b else none

/-- Bytes of a message's content, as far as they decide how many flits it takes (R301; log entry 74). -/
def Pkt.size : Pkt → Nat
  | .state _ _ b _ => 8 + b.length
  | .token _ loads reqs => 8 + loads.length + 8 * reqs.length
  | .team _ _ _ _ _ l => (l.map fun c => 2112 + c.winLimit).sum
  | .back _ _ _ b => 16 + b.length
  | .window _ _ _ _ b _ => 16 + b.length
  | .given _ _ _ _ b => 16 + b.length
  | _ => 64

/-- The task of this module that a message concerns (R290). -/
def Pkt.task? : Pkt → Option Nat
  | .team _ q _ _ _ _ => some q
  | .answer q _ _ _ _ => some q
  | .reply q _ _ _ _ => some q
  | .wake q _ _ => some q
  | .endTeam q _ => some q
  | .halt q _ _ => some q
  | .window q _ _ _ _ _ => some q
  | _ => none

/-- The 256-byte flits of a message (R301). -/
def Pkt.flits (p : Pkt) : Nat := (p.size + 255) / 256

/-- A message waits at the port that routes to a module, behind what its lane holds there; to an unreachable one nothing is
sent (R301, R302, R406). -/
def Mach.sendTo (m : Mach) (lane dest : Nat) (body : Pkt) (job : Option Nat := none) : Mach :=
  match m.portTo dest with
  | none => m
  | some p => { m with links := m.links ++ [{ port := p, lane := lane, dest := dest, left := body.flits, body := body, job := job }] }

/-- Lanes of a port in the order in which they are served (R301). -/
def laneOrder : List Nat := [0, 3, 1, 2]

/-- The lanes on which something waits at a port, in that order. -/
def Mach.waitingLanes (m : Mach) (port : Nat) : List Nat :=
  laneOrder.filter fun l => m.links.any fun f => f.port == port && f.lane == l

/-- The lane that sends the next flit of a port: one that has let 15 flits pass, else the first in order (R301). -/
def Mach.nextLane (m : Mach) (port : Nat) : Option Nat :=
  let l := m.waitingLanes port
  (l.find? fun x => decide (15 ≤ SMap.get 0 m.laneWaits (4 * port + x))).or l.head?

/-- A port that is up sends one flit; a message has left with its last (R301). -/
def Mach.sendFlit (m : Mach) (port : Nat) : Mach :=
  if !(m.regs.podUp.getLsbD port) then m
  else match m.nextLane port with
  | none => m
  | some lane =>
    let mine := fun (f : Flit) => f.port == port && f.lane == lane
    let waits := (m.waitingLanes port).foldl (fun (w : SMap Nat) x =>
      SMap.set 0 w (4 * port + x) (if x = lane then 0 else SMap.get 0 w (4 * port + x) + 1)) m.laneWaits
    match m.links.find? mine with
    | none => m
    | some f =>
      if f.left ≤ 1 then
        { m with links := m.links.eraseP mine, laneWaits := waits, out := m.out ++ [.flit port lane f.dest f.body] }
      else { m with links := replaceFirst mine { f with left := f.left - 1 } m.links, laneWaits := waits }

/-- The core of a continuation, counted over the module. -/
def Cont.gcore (c : Cont) : Nat := c.die * 16 + c.core

/-- The cluster of a continuation, counted over the module (R12). -/
def Cont.gcluster (c : Cont) : Nat := c.die * 4 + c.core / 4

/-! ### Views, stamps and keys -/

/-- Whether a die is withheld in this start (R413). -/
def Mach.isWithheld (m : Mach) (d : Nat) : Bool := m.regs.withheld.getLsbD d

/-- The Ebnas chip of a capacity-tier address (R80). -/
def chipOf (pa : Nat) : Nat := bits pa 15 12

/-- The home die of a physical address (R91): the die of its stack, of its chip's port, or die 0. -/
def homeOf (pa : Nat) : Nat :=
  if pa < 2 ^ 42 then pa / 2 ^ 36
  else if 2 ^ 48 ≤ pa ∧ pa < 2 ^ 48 + 2 ^ 44 then
    (if chipOf pa < 8 then 8 * chipOf pa else 8 * (chipOf pa - 8) + 7)
  else 0

/-- Whether an address lies in HBM. -/
def inHbm (pa : Nat) : Bool := decide (pa < 2 ^ 42)

/-- Whether an address lies in the capacity tier. -/
def inCap (pa : Nat) : Bool := decide (2 ^ 48 ≤ pa ∧ pa < 2 ^ 48 + 2 ^ 44)

/-- Whether an address lies in host memory. -/
def inHost (pa : Nat) : Bool := decide (2 * 2 ^ 48 ≤ pa ∧ pa < 3 * 2 ^ 48)

/-- Where the bytes of lent pages stand: no translation of this module gives such an address (R70, R293; log entry 73). -/
def farBase : Nat := 3 * 2 ^ 48

/-- Whether every agent sees one copy of a byte: host memory, and what another module performs accesses to (R100, R293). -/
def coherent (pa : Nat) : Bool := decide (2 * 2 ^ 48 ≤ pa ∧ pa < 4 * 2 ^ 48)

/-- The die whose copy of a byte die `d` sees: its own; of memory that is coherent, the one at its home (R91, R100). -/
def viewDie (d pa : Nat) : Nat := if coherent pa then 0 else d

/-- The key of die `d`'s view of a physical byte. -/
def vkey (d pa : Nat) : Nat := viewDie d pa * 2 ^ 52 + pa

/-- The key of die `d`'s mark of a byte's granule. -/
def markKey (d pa : Nat) : Nat := viewDie d pa * 2 ^ 46 + pa / 64

/-- V_d(s) (R93). -/
def Mem.clk (m : Mem) (d s : Nat) : Nat := SMap.get 0 m.clock (64 * d + s)

/-- A copy of V_d, as a map over dies. -/
def Mem.stampOf (m : Mem) (d : Nat) : SMap Nat :=
  (List.range 64).filterMap fun s => if m.clk d s = 0 then none else some (s, m.clk d s)

/-- The arbitration key: the sum of the stamp's entries, ties broken by the source die (R94). -/
def keyOf (src : Nat) (stamp : SMap Nat) : Nat := (stamp.map Prod.snd).sum * 64 + src

/-- The byte die `d` sees. -/
def Mem.byteAt (m : Mem) (d pa : Nat) : Byte := Memory.byte m.view (vkey d pa)

/-- `n` bytes as die `d` sees them. -/
def Mem.read (m : Mem) (d pa n : Nat) : List Byte := Memory.gets m.view (vkey d pa) n

/-- Whether die `d` sees the granule of a byte marked (R382). -/
def Mem.marked (m : Mem) (d pa : Nat) : Bool := SMap.get false m.poison (markKey d pa)

/-- The first marked granule of a range, by its address. -/
def Mem.firstMark (m : Mem) (d pa n : Nat) : Option Nat :=
  ((List.range ((pa + n + 63) / 64 - pa / 64)).map fun k => (pa / 64 + k) * 64).find? fun g => decide (0 < n) && m.marked d g

/-- The mark of a granule after bytes `pa` to `pa + n - 1` are written: a whole granule takes the write's mark, a part
keeps a mark (R382). -/
def markAfter (old poison : Bool) (g pa n : Nat) : Bool :=
  if pa ≤ g ∧ g + 64 ≤ pa + n then poison else old || poison

/-- Die `e` takes the data of a write where its key is larger than the key of the write held (R96). -/
def Mem.takeBytes (m : Mem) (e src : Nat) (stamp : SMap Nat) (poison : Bool) (pa0 n0 : Nat) : Nat → List Byte → Mem
  | _, [] => m
  | pa, b :: r =>
    let h := SMap.get ({} : Held) m.held (vkey e pa)
    let m' :=
      if keyOf h.src h.stamp < keyOf src stamp then
        { m with
          view := Memory.put m.view (vkey e pa) b
          held := SMap.set {} m.held (vkey e pa) { src := src, stamp := stamp }
          poison := if pa = pa0 ∨ pa % 64 = 0 then
              SMap.set false m.poison (markKey e pa) (markAfter (m.marked e pa) poison (pa / 64 * 64) pa0 n0)
            else m.poison }
      else m
    Mem.takeBytes m' e src stamp poison pa0 n0 (pa + 1) r

/-- Die `e` applies a write: data by key, then V_e(s) becomes T(s) (R93, R96). -/
def Mem.applyAt (m : Mem) (e : Nat) (w : Write) : Mem :=
  let m := m.takeBytes e w.src w.stamp w.poison w.pa w.bytes.length w.pa w.bytes
  { m with clock := SMap.set 0 m.clock (64 * e + w.src) (SMap.get 0 w.stamp w.src) }

/-- Whether the next write of `src` that die `e` has still to apply may be applied: the past of its stamp first, and its
home, which the sharers of the line follow (R69, R93). -/
def Mem.canApply (m : Mem) (e : Nat) (w : Write) : Bool :=
  w.todo.contains e && decide (SMap.get 0 w.stamp w.src = m.clk e w.src + 1) &&
    (w.stamp.all fun p => p.1 == w.src || decide (p.2 ≤ m.clk e p.1)) &&
    (w.bytes.isEmpty || e == homeOf w.pa || !(w.todo.contains (homeOf w.pa)))

/-- Takes die `e` off the dies that have still to apply a write. -/
def Mem.tick (e : Nat) (w : Write) (l : List Write) : List Write :=
  (l.map fun u => if u.src = w.src ∧ SMap.get 0 u.stamp u.src = SMap.get 0 w.stamp w.src then
    { u with todo := u.todo.filter fun x => x ≠ e } else u).filter fun u => !u.todo.isEmpty

/-- Die `e` applies one write in flight. -/
def Mem.arrive (m : Mem) (e : Nat) (w : Write) : Mem :=
  let m := m.applyAt e w
  { m with flight := Mem.tick e w m.flight }

/-- Whether a write lies in the past of a stamp (R93). -/
def Write.within (w : Write) (stamp : SMap Nat) : Bool := decide (SMap.get 0 w.stamp w.src ≤ SMap.get 0 stamp w.src)

/-- The writes in flight, each with the dies that apply it so that die `e` has the past of a stamp: `e` itself, the home of
every line they change, and whatever a later one of them needs (R69, R93). -/
def Mem.needs (e : Nat) (stamp : SMap Nat) : List Write → List (Write × List Nat)
  | [] => []
  | w :: r =>
    let later := Mem.needs e stamp r
    let ds := (if w.within stamp && w.todo.contains e then [e] else []) ++
      ((later.filter fun x => w.within x.1.stamp).map Prod.snd).flatten
    (w, if ds.isEmpty then [] else ((if w.bytes.isEmpty then [] else [homeOf w.pa]) ++ ds).eraseDups) :: later

/-- Die `e` applies every write in the past of a stamp, each after it has reached the home of its line: writes in flight stand
in an order that contains causality (R69, R93). -/
def Mem.catchUp (m : Mem) (e : Nat) (stamp : SMap Nat) : Mem :=
  (Mem.needs e stamp m.flight).foldl (fun m x =>
    x.2.foldl (fun (m : Mem) d => if x.1.todo.contains d then m.arrive d x.1 else m) m) m

/-- The stamps of the writes that a range of die `h`'s view holds, each once. -/
def Mem.stampsOver (m : Mem) (h pa n : Nat) : List (SMap Nat) :=
  ((rangeFrom pa n).map fun a => (SMap.get ({} : Held) m.held (vkey h a)).stamp).eraseDups

/-- Die `e` applies the past of every write it reads in a range of die `h`'s view: what an acquire observes (R94). -/
def Mem.acquire (m : Mem) (e h pa n : Nat) : Mem := (m.stampsOver h pa n).foldl (fun m t => m.catchUp e t) m

/-- A write by an agent of die `d`: it passes the die's ordering point, takes a stamp, is applied at `d` at once and at
the other dies later (R93; log entry 13). A writer of host memory holds its line coherently first (R100). -/
def Mem.write (m : Mem) (d pa : Nat) (bytes : List Byte) (poison : Bool) : Mem :=
  let m := if coherent pa then m.acquire d d pa bytes.length else m
  let m := { m with clock := SMap.set 0 m.clock (64 * d + d) (m.clk d d + 1) }
  let w : Write := { src := d, stamp := m.stampOf d, pa := pa, bytes := bytes, poison := poison,
                     todo := (List.range 64).filter fun e => e ≠ d }
  let m := m.applyAt d w
  { m with flight := m.flight ++ [w] }

/-- A weak reader on die `d` has what the writes of the host memory it reads follow: that memory is coherent (R94, R100). -/
def Mem.observe (m : Mem) (d : Nat) (ps : List (Nat × Nat)) : Mem :=
  ps.foldl (fun m p => if coherent p.1 then m.acquire d d p.1 p.2 else m) m

/-- Every die applies everything die `d` has made or seen: how a module-scope wait ends (R92). -/
def Mem.spread (m : Mem) (d : Nat) : Mem := (List.range 64).foldl (fun m e => m.catchUp e (m.stampOf d)) m

/-- Die `e` applies everything that any die has made: what an access at pod scope follows and what one observes, since what
another module has made here stands at the homes of its locations (R90, R101). -/
def Mem.gather (m : Mem) (e : Nat) : Mem := (List.range 64).foldl (fun m s => m.catchUp e (m.stampOf s)) m

/-! ### The physical map -/

/-- What is wrong with an access to a physical address: nothing, or the cause (R70, R303, R408, R413). -/
def Mach.paFault (m : Mach) (pa : Nat) : Option Cause :=
  if inHbm pa then (if m.isWithheld (pa / 2 ^ 36) then some 0x3004 else none)
  else if inCap pa then
    (if m.regs.ebDown.getLsbD (chipOf pa) then some 0x6003
     else if (vget m.regs.ebstat (chipOf pa) 0).getLsbD 0 then none else some 0x3004)
  else if inHost pa then none
  else some 0x3004

/-! ### Scratchpads and windows -/

/-- The key of a scratchpad byte: core over the module, physical offset (R59). -/
def skey (gcore off : Nat) : Nat := gcore * 2 ^ 23 + off

/-- The home die of a scratchpad key (R91). -/
def spadDie (k : Nat) : Nat := k / 2 ^ 27

/-- Scratchpad bytes take a write with its mark (R96, R382). -/
def Mem.spadPut (m : Mem) (h : Held) (k : Nat) (bytes : List Byte) (poison : Bool) : Mem :=
  { m with
    spad := m.spad.puts k bytes
    spadPoison := (List.range ((k + bytes.length + 63) / 64 - k / 64)).foldl
      (fun p j => SMap.set false p (k / 64 + j) (markAfter (SMap.get false p (k / 64 + j)) poison ((k / 64 + j) * 64) k bytes.length))
      m.spadPoison
    spadHeld := (rangeFrom k bytes.length).foldl (fun p a => SMap.set {} p a h) m.spadHeld }

/-- A write by an agent of die `d` of a location that no other die holds takes a stamp like any other; the dies have still to
advance their clocks (R84, R93). -/
def Mem.pass (m : Mem) (d : Nat) : Mem := m.write d 0 [] false

/-- The write that die `d` has stamped last (R93). -/
def Mem.last (m : Mem) (d : Nat) : Held := { src := d, stamp := m.stampOf d }

/-- Writes scratchpad bytes at a key by an agent of their home die, which has applied every write they hold (R93, R96). -/
def Mem.spadWrite (m : Mem) (k : Nat) (bytes : List Byte) (poison : Bool) : Mem :=
  let m := m.pass (spadDie k)
  m.spadPut (m.last (spadDie k)) k bytes poison

/-- Whether a scratchpad byte takes a write (R96). -/
def Mem.spadTakes (m : Mem) (h : Held) (k : Nat) : Bool :=
  let x := SMap.get ({} : Held) m.spadHeld k
  decide (keyOf x.src x.stamp < keyOf h.src h.stamp)

/-- Writes scratchpad bytes by an agent of die `d`: its home die has the write's past, and each byte takes the write where its
key is the larger (R93, R96, R97). -/
def Mem.spadStore (m : Mem) (d k : Nat) (bytes : List Byte) (poison : Bool) : Mem :=
  if d = spadDie k then m.spadWrite k bytes poison
  else
    let m := m.pass d
    let h := m.last d
    let m := m.catchUp (spadDie k) h.stamp
    if (rangeFrom k bytes.length).all (m.spadTakes h) then m.spadPut h k bytes poison
    else bytes.zipIdx.foldl (fun (m : Mem) x => if m.spadTakes h (k + x.2) then m.spadPut h (k + x.2) [x.1] poison else m) m

/-- Die `d` applies the past of every write it reads in a scratchpad range (R94). -/
def Mem.spadAcquire (m : Mem) (d k n : Nat) : Mem :=
  (((rangeFrom k n).map fun a => (SMap.get ({} : Held) m.spadHeld a).stamp).eraseDups).foldl (fun m t => m.catchUp d t) m

/-- Whether a scratchpad range holds a marked granule; its key if so. -/
def Mem.spadMark (m : Mem) (k n : Nat) : Option Nat :=
  ((List.range ((k + n + 63) / 64 - k / 64)).map fun j => (k / 64 + j) * 64).find?
    fun g => decide (0 < n) && SMap.get false m.spadPoison (g / 64)

/-- Whether an access of `n` bytes at a window offset passes the check of R59. -/
def Cont.inWindow (c : Cont) (off : Int) (n : Nat) : Bool := decide (0 ≤ off ∧ off + n ≤ c.winLimit)

/-- Reads window bytes of a member wherever it is: its window or its image (R61). -/
def Mach.winRead (m : Mach) (c : Cont) (off n : Nat) : List Byte :=
  if c.resident then m.mem.spad.gets (skey c.gcore (c.winBase + off)) n
  else if c.imaged then c.image.gets off n
  else (rangeFrom off n).map fun o => (c.early.foldl (fun b w => if w.1 = o then w.2 else b) 0)

/-- Whether a member's window bytes are marked. -/
def Mach.winMark (m : Mach) (c : Cont) (off n : Nat) : Option Nat :=
  if c.resident then m.mem.spadMark (skey c.gcore (c.winBase + off)) n
  else ((List.range ((off + n + 63) / 64 - off / 64)).map fun j => (off / 64 + j) * 64).find?
    fun g => decide (0 < n) && SMap.get false c.imagePoison (g / 64)

/-- An agent of die `d` writes window bytes of a member wherever it is; an image takes writes in their order, and a write of
the window of a stolen member is forwarded to the thief (R61, R93, R293; log entry 13). -/
def Mach.winWriteBy (m : Mach) (d : Nat) (c : Cont) (off : Nat) (bytes : List Byte) (poison : Bool) : Mach :=
  if c.resident then { m with mem := m.mem.spadStore d (skey c.gcore (c.winBase + off)) bytes poison }
  else
    let m := { m with mem := m.mem.pass d }
    let m := { m with mem := m.mem.catchUp c.die (m.mem.stampOf d) }
    let m := match m.thiefOf c.task c.team.toNat with
      | some k => m.sendTo 2 k (.window c.task c.team.toNat c.rank.toNat off bytes poison)
      | none => m
    let pz := (List.range ((off + bytes.length + 63) / 64 - off / 64)).foldl
      (fun p j => SMap.set false p (off / 64 + j)
        (markAfter (SMap.get false p (off / 64 + j)) poison ((off / 64 + j) * 64) off bytes.length)) c.imagePoison
    if c.imaged then m.setCont { c with image := c.image.puts off bytes, imagePoison := pz }
    else m.setCont { c with early := c.early ++ (rangeFrom off bytes.length).zip bytes, imagePoison := pz }

/-- Window bytes of a member written by an agent of its own die (R61, R91). -/
def Mach.winWrite (m : Mach) (c : Cont) (off : Nat) (bytes : List Byte) (poison : Bool) : Mach := m.winWriteBy c.die c off bytes poison

/-- Die `d` has read window bytes of a member (R94). -/
def Mach.winSaw (m : Mach) (d : Nat) (c : Cont) (off n : Nat) : Mach :=
  { m with mem := if c.resident then m.mem.spadAcquire d (skey c.gcore (c.winBase + off)) n
      else m.mem.catchUp d (m.mem.stampOf c.die) }

/-- The member of a grid with a team index and a rank. -/
def Mach.member? (m : Mach) (task team rank : Nat) : Option Cont :=
  m.allConts.find? fun c => c.task == task && c.team.toNat == team && c.rank.toNat == rank && c.id ≠ 0

/-- The member and offset a 32-bit scratchpad address names for a member of team `team` (R60). -/
def Mach.spTarget (m : Mach) (task team : Nat) (a : Nat) : Option (Cont × Nat) :=
  match m.task? task with
  | none => none
  | some t =>
    let tm := if team < t.teams then (team + bits a 31 27) % t.teams else team
    match m.member? task tm (bits a 26 23) with
    | none => none
    | some c => some (c, bits a 22 0)

/-- The member at a cluster position, of the issuing member's own team (R60, R133). -/
def Mach.clusterMember? (m : Mach) (c : Cont) (pos : Nat) : Option Cont :=
  m.allConts.find? fun u => u.id ≠ 0 && u.task == c.task && u.team == c.team && u.resident && u.die == c.die &&
    u.core / 4 == c.core / 4 && u.core % 4 == pos

/-! ### Virtual addresses -/

/-- The kinds of access a walk can check permissions for (R72). -/
inductive Acc3 where
  | read | write | exec
  deriving DecidableEq, Repr

/-- What translation of one address gives. -/
inductive Xl where
  /-- Physical address; write permission; size code of R73. -/
  | ok (pa : Nat) (wr : Bool) (size : BitVec 2)
  | fail (cause : Cause) (info : Nat)
  /-- The page is draining and the agent holds no lease (R73, R378). -/
  | wait
  deriving DecidableEq, Repr

/-- Whether an address is canonical (R71). -/
def canonical (va : Word) : Bool := va == (va.extractLsb' 0 56).signExtend 64

/-- Length in bytes of the page a size code of R73 names. -/
def pageLen : Nat → Nat
  | 0 => 2 ^ 16
  | 1 => 2 ^ 21
  | _ => 2 ^ 30

/-- One level of the walk of R72: address of the table, level, and what follows. -/
def Mach.walkFrom (m : Mach) (die : Nat) (va : Nat) (need : Acc3) : Nat → Nat → Xl
  | 0, _ => .fail 0x3002 0
  | fuel + 1, table =>
    let level := 3 - fuel
    let idx := if level = 0 then bits va 55 39 else if level = 1 then bits va 38 30 else if level = 2 then bits va 29 21
      else bits va 20 16
    let ea := table + 8 * idx
    match m.paFault ea with
    | some _ => .fail 0x3004 0
    | none =>
      if m.mem.marked die ea then .fail 0x3006 (ea / 64 * 64)
      else
        let e := leNat (m.mem.read die ea 8)
        let leaf := bit e 1
        if !bit e 0 then .fail 0x3002 0
        else if (level = 0 && leaf) || (level = 3 && !leaf) then .fail 0x3002 0
        else
          let addr := bits e 51 8 * 256
          if leaf then
            let sz := if level = 1 then 2 ^ 30 else if level = 2 then 2 ^ 21 else 2 ^ 16
            if addr % sz ≠ 0 then .fail 0x3002 0
            else
              let okp := match need with
                | .read => bit e 3
                | .write => bit e 2
                | .exec => bit e 4
              if okp then .ok (addr + va % sz) (bit e 2) (if level = 1 then 2 else if level = 2 then 1 else 0)
              else .fail 0x3003 0
          else Mach.walkFrom m die va need fuel addr

/-- Whether an address lies in a heap window (R71). -/
def CtxEntry.inHeap (e : CtxEntry) (va : Word) : Bool :=
  decide (e.hbase.toNat ≤ va.toNat ∧ va.toNat < e.hbase.toNat + e.hlim.toNat)

/-- Whether some byte of a range of a context is draining (R73). -/
def Mach.drainsOn (m : Mach) (ctx : BitVec 12) (va n : Nat) : Bool :=
  m.drains.any fun d => d.ctx == ctx && overlaps d.base.toNat d.len va n

/-- Whether an address of a context is draining (R73). -/
def Mach.draining (m : Mach) (ctx : BitVec 12) (va : Word) : Bool := m.drainsOn ctx va.toNat 1

/-- A TLB entry of a die that covers an address; a stale one serves until it drains (R73; log entry 15). -/
def Mach.tlbHit (m : Mach) (die : Nat) (ctx : BitVec 12) (va : Word) : Option TlbEntry :=
  m.tlb.find? fun t => t.die == die && t.ctx == ctx && decide (t.va.toNat ≤ va.toNat ∧ va.toNat < t.va.toNat + t.len)

/-- A TLB entry's answer to an access. -/
def TlbEntry.answer (t : TlbEntry) (va : Word) (need : Acc3) : Xl :=
  let okp := match need with
    | .read => t.perm.getLsbD 1
    | .write => t.perm.getLsbD 0
    | .exec => t.perm.getLsbD 2
  if okp then .ok (t.pa + (va.toNat - t.va.toNat)) (t.perm.getLsbD 0)
      (if t.len = 2 ^ 30 then 2 else if t.len = 2 ^ 21 then 1 else 0)
  else .fail 0x3003 0

/-- Translation of a canonical address in a context: heap window, TLB, page tables (R71, R72, R73); then the physical
map's own check. Without a lease on the page, an entry or a walk whose page overlaps a draining range is not used (R73, R259).
The sum of the heap window is taken of unbounded integers: the spec gives it no width (R8, R71; log entry 65). -/
def Mach.xlate (m : Mach) (die : Nat) (ctx : BitVec 12) (e : CtxEntry) (leased : Bool) (va : Word) (need : Acc3) : Xl :=
  let r : Xl :=
    if e.inHeap va then
      let pa := ((va.toNat : Int) + sext 64 e.hoff.toNat)
      if need = .exec then .fail 0x3003 0
      else if pa < 0 then .fail 0x3004 0
      else if inHbm pa.toNat || inCap pa.toNat then .ok pa.toNat true 3 else .fail 0x3004 0
    else if m.draining ctx va && !leased then .wait
    else match m.tlbHit die ctx va with
      | some t => if m.drainsOn ctx t.va.toNat t.len && !leased then .wait else t.answer va need
      | none => match m.walkFrom die va.toNat need 4 e.ptbase.toNat with
        | .ok pa wr sz =>
          if m.drainsOn ctx (alignDown va.toNat (pageLen sz.toNat)) (pageLen sz.toNat) && !leased then .wait else .ok pa wr sz
        | x => x
  match r with
  | .ok pa wr sz => match m.paFault pa with
    | some c => .fail c 0
    | none => .ok pa wr sz
  | x => x

/-- Bytes from an address that lie in regions of a footprint that allow the access (R74): whether all do. -/
def coversByte (fp : List Region) (write : Bool) (va : Nat) : Bool :=
  fp.any fun r => (r.wr || !write) && decide (r.base.toNat ≤ va ∧ va < r.base.toNat + r.len)

/-- The first byte of a range that no region covers, skipping region by region. -/
def firstUncovered (fp : List Region) (write : Bool) : Nat → Nat → Nat → Option Nat
  | 0, va, _ => some va
  | fuel + 1, va, n =>
    if n = 0 then none
    else match fp.find? (fun r => (r.wr || !write) && decide (r.base.toNat ≤ va ∧ va < r.base.toNat + r.len)) with
      | none => some va
      | some r =>
        let step := r.base.toNat + r.len - va
        if n ≤ step then none else firstUncovered fp write fuel (va + step) (n - step)

/-- The first byte of an access outside a task's leases (R74, R377). -/
def Task.outside (t : Task) (write : Bool) (va n : Nat) : Option Nat := firstUncovered t.fp write (t.fp.length + 1) va n

/-- A task's leases as an access of one of its continuations meets them: the continuation's own record and save area are
covered too, and translated to where they stand (R21, R74; log entry 22). -/
def Cont.leases (c : Cont) (t : Task) : Task :=
  let own := fun (base : Word) (len : Nat) => ({ base := base, len := len, wr := true, ren := false, whole := false } : Region)
  { t with fp := t.fp ++ [own c.recVa 64, own c.save 2048], own := [(c.recVa, 64, c.recPa), (c.save, 2048, c.savePa)] }

/-- The physical address a version of a renamed region gives (R37). -/
def renamed (vs : List (Word × Nat × Nat)) (va : Nat) : Option Nat :=
  (vs.find? fun v => decide (v.1.toNat ≤ va ∧ va < v.1.toNat + v.2.1)).map fun v => v.2.2 + (va - v.1.toNat)

/-- Whether a task holds a lease on the 64 KiB page of an address (R74). -/
def Task.leasesPage (t : Task) (va : Nat) : Bool := t.fp.any fun r => overlaps r.base.toNat r.len (alignDown va 65536) 65536

/-- Translation for an agent of a stolen team: its origin translates, and performs the access; until it has answered for the
page the access waits (R293; log entry 73). -/
def Mach.xlateLent (m : Mach) (t : Task) (va : Nat) (need : Acc3) : Xl :=
  match m.lent.find? fun l => l.task == t.seq && l.page == alignDown va 65536 with
  | none => .wait
  | some l =>
    let okp := match need with
      | .read => l.perm.getLsbD 1
      | .write => l.perm.getLsbD 0
      | .exec => l.perm.getLsbD 2
    if okp then .ok (farBase + 65536 * l.slot + va % 65536) (l.perm.getLsbD 0) 0 else .fail l.cause 0

/-- The check of the physical addresses an agent of a task reaches: those of a stolen team are its origin's (R70, R293). -/
def Mach.paCheck (m : Mach) (t : Task) (pa : Nat) : Option Cause := if t.guest.isSome then none else m.paFault pa

/-- Translation for an agent of a task: its continuation's own record and save area stand where the module put them; renamed
versions stand over the mapping; a finding inside the leases is a broken lease (R37, R74, R375). A page on which the task
holds a lease is not held back by a drain (R73). -/
def Mach.xlateTask (m : Mach) (die : Nat) (t : Task) (va : Word) (need : Acc3) : Xl :=
  let inside := (t.outside (need == .write) va.toNat 1).isNone
  match (if need = .exec then none else renamed t.own va.toNat) with
  | some p => .ok p true 0
  | none => if t.guest.isSome then m.xlateLent t va.toNat need
    else match m.xlate die t.ctx t.entry (t.leasesPage va.toNat) va need with
    | .ok pa wr sz => match renamed (t.fresh ++ t.seen) va.toNat with
      | some p => .ok p wr sz
      | none => .ok pa wr sz
    | .fail c i => if inside && need ≠ .exec && (c = 0x3002 ∨ c = 0x3003) then .fail 0x3007 i else .fail c i
    | .wait => .wait

/-- Splits a range of virtual addresses at 64 KiB pages: start and length of each part. -/
def pagesOf : Nat → Nat → Nat → List (Nat × Nat)
  | 0, _, _ => []
  | fuel + 1, va, n =>
    if n = 0 then []
    else
      let k := 65536 - va % 65536
      if n ≤ k then [(va, n)] else (va, k) :: pagesOf fuel (va + k) (n - k)

/-- The parts of a range. -/
def parts (va n : Nat) : List (Nat × Nat) := pagesOf (n / 65536 + 2) va n

/-- What resolving a range gives: physical parts, a trap, or a wait. -/
inductive Resolved where
  | ok (parts : List (Nat × Nat))
  | fail (t : Trap)
  | wait
  deriving DecidableEq, Repr

/-- The first byte of a physical range that cannot be accessed, from its start, and the cause: what an address holds can
change at every 4 KiB (R70, R80). -/
def firstBad (chk : Nat → Option Cause) (pa n : Nat) : Option (Nat × Cause) :=
  ((List.range (n / 4096 + 2)).map fun k => if k = 0 then pa else alignDown pa 4096 + 4096 * k).findSome? fun p =>
    if p < pa + n then (chk p).map fun c => (p - pa, c) else none

/-- Resolves the parts of a range with a translation of one address and a check of every physical byte. -/
def resolveWith (chk : Nat → Option Cause) (f : Word → Xl) : List (Nat × Nat) → Resolved
  | [] => .ok []
  | (va, n) :: r =>
    match f (toW va) with
    | .wait => .wait
    | .fail c i => .fail { cause := c, faddr := toW va, info := toW i, walk := c == 0x3006 }
    | .ok pa _ _ => match firstBad chk pa n with
      | some (k, c) => .fail { cause := c, faddr := toW (va + k) }
      | none => match resolveWith chk f r with
        | .ok l => .ok ((pa, n) :: l)
        | x => x

/-- Resolves an access of a task's engine or continuation: canonical, translation of every page, then the lease check
(R358, R377). -/
def Mach.resolveTask (m : Mach) (die : Nat) (t : Task) (va : Word) (n : Nat) (need : Acc3) : Resolved :=
  if n = 0 then .ok []
  else if !canonical va || !canonical (va + toW (n - 1)) then .fail { cause := 0x3001, faddr := va }
  else match resolveWith (m.paCheck t) (fun a => m.xlateTask die t a need) (parts va.toNat n) with
    | .ok l => match t.outside (need == .write) va.toNat n with
      | some a => .fail { cause := 0x3005, faddr := toW a }
      | none => .ok l
    | x => x

/-- Resolves an access that needs no lease: records, save areas, module structures (R74, R54). -/
def Mach.resolveCtx (m : Mach) (die : Nat) (ctx : BitVec 12) (e : CtxEntry) (va : Word) (n : Nat) (need : Acc3) : Resolved :=
  if n = 0 then .ok []
  else if !canonical va || !canonical (va + toW (n - 1)) then .fail { cause := 0x3001, faddr := va }
  else resolveWith m.paFault (fun a => m.xlate die ctx e true a need) (parts va.toNat n)

/-- Reads physical parts in order, as die `d` sees them. -/
def Mem.readParts (m : Mem) (d : Nat) (ps : List (Nat × Nat)) : List Byte := (ps.map fun p => m.read d p.1 p.2).flatten

/-- The first marked granule of physical parts. -/
def Mem.markParts (m : Mem) (d : Nat) (ps : List (Nat × Nat)) : Option Nat := ps.findSome? fun p => m.firstMark d p.1 p.2

/-- Writes physical parts in order, as one agent of die `d`. -/
def Mem.writeParts (m : Mem) (d : Nat) (ps : List (Nat × Nat)) (bytes : List Byte) (poison : Bool) : Mem :=
  (ps.foldl (fun a p => (a.1.write d p.1 (a.2.take p.2) poison, a.2.drop p.2)) (m, bytes)).1

/-- Writes bytes at a physical address in aligned 64-byte granules, each one write (R84, R98). -/
def Mem.writeGranules (d : Nat) (poison : Bool) : Nat → Mem → Nat → List Byte → Mem
  | 0, m, _, _ => m
  | fuel + 1, m, pa, bytes =>
    if bytes.isEmpty then m
    else
      let k := 64 - pa % 64
      Mem.writeGranules d poison fuel (m.write d pa (bytes.take k) poison) (pa + k) (bytes.drop k)

/-- Writes physical parts by granules. -/
def Mem.landParts (m : Mem) (d : Nat) (ps : List (Nat × Nat)) (bytes : List Byte) (poison : Bool) : Mem :=
  (ps.foldl (fun a p => (Mem.writeGranules d poison (p.2 / 64 + 2) a.1 p.1 (a.2.take p.2), a.2.drop p.2)) (m, bytes)).1

/-- Reads memory of a context that needs no lease: `none` where it cannot be read, or is marked. -/
def Mach.ctxRead (m : Mach) (die : Nat) (ctx : BitVec 12) (e : CtxEntry) (va : Word) (n : Nat) : Option (List Byte) :=
  match m.resolveCtx die ctx e va n .read with
  | .ok ps => if (m.mem.markParts die ps).isSome then none else some (m.mem.readParts die ps)
  | _ => none

/-- Writes memory of a context that needs no lease; a place that does not translate is not written, and a draining one is
written once the drain is over (R73). -/
def Mach.ctxWrite (m : Mach) (die : Nat) (ctx : BitVec 12) (e : CtxEntry) (va : Word) (bytes : List Byte) : Mach :=
  if m.drainsOn ctx va.toNat bytes.length && !(e.inHeap va) then
    { m with heldWrites := m.heldWrites ++ [{ die := die, ctx := ctx, entry := e, va := va, bytes := bytes }] }
  else match m.resolveCtx die ctx e va bytes.length .write with
    | .ok ps => { m with mem := m.mem.writeParts die ps bytes false }
    | _ => m

/-- Makes the held writes that no drain holds back any more, in order (R73). -/
def Mach.dropHeld (m : Mach) : Mach :=
  m.heldWrites.foldl (fun m w => m.ctxWrite w.die w.ctx w.entry w.va w.bytes) { m with heldWrites := [] }

/-- The context-table entry of a context as the table stands (R71, R256; log entry 17). -/
def Mach.ctxEntryNow (m : Mach) (die : Nat) (ctx : BitVec 12) : Option CtxEntry :=
  if m.regs.ctxcnt.toNat ≤ ctx.toNat then none
  else
    let b := m.mem.read die (m.regs.ctxtab.toNat + 64 * ctx.toNat) 32
    some { hbase := toW (leAt b 0 8), hlim := toW (leAt b 8 8), hoff := toW (leAt b 16 8), ptbase := toW (leAt b 24 8) }

end Sys2Proof.Machine
end

