-- ==== Sys2Proof/Machine/Real.lean ====
section
/-! DEFINITION. Numbers: the formats of R105 and R106, exact values, and the two rounding paths of R111 to R113, with the
events each conversion and operation makes (R118). Events are bits 0 to 6: invalid, divide, overflow, underflow, inexact,
saturation, nm. -/

namespace Sys2Proof.Machine

/-- Event bits (R118). -/
def evInvalid : Nat := 1
def evDivide : Nat := 2
def evOverflow : Nat := 4
def evUnderflow : Nat := 8
def evInexact : Nat := 16
def evSaturation : Nat := 32
def evNm : Nat := 64

/-- A value: not a number, an infinity, or exactly (−1)^neg × m × 2^e. -/
inductive Num where
  | nan
  | inf (neg : Bool)
  | fin (neg : Bool) (m : Nat) (e : Int)
  deriving DecidableEq, Repr

/-- A binary floating-point format (R106). -/
structure FloatFmt where
  w : Nat
  t : Nat
  bias : Nat
  /-- E4M3: no infinity, one NaN fraction. -/
  e4m3 : Bool := false
  /-- Flushes subnormals (R110). -/
  narrow : Bool := false
  deriving DecidableEq, Repr

/-- The floating-point format of a code (R105). -/
def floatFmt : Nat → Option FloatFmt
  | 0 => some { w := 8, t := 23, bias := 127 }
  | 1 => some { w := 8, t := 7, bias := 127, narrow := true }
  | 2 => some { w := 5, t := 10, bias := 15, narrow := true }
  | 3 => some { w := 4, t := 3, bias := 7, e4m3 := true, narrow := true }
  | 4 => some { w := 5, t := 2, bias := 15, narrow := true }
  | 7 => some { w := 11, t := 52, bias := 1023 }
  | _ => none

/-- The integer formats: width and whether signed (R105). -/
def intFmt : Nat → Option (Nat × Bool)
  | 5 => some (8, true)
  | 6 => some (32, true)
  | 9 => some (16, true)
  | 10 => some (8, false)
  | _ => none

/-- Bytes of an element of a format (R105). -/
def elemBytes : Nat → Nat
  | 0 => 4 | 1 => 2 | 2 => 2 | 3 => 1 | 4 => 1 | 5 => 1 | 6 => 4 | 7 => 8 | 9 => 2 | 10 => 1 | _ => 2

/-- Whether a code names a floating-point format. -/
def isFloat (c : Nat) : Bool := (floatFmt c).isSome

/-- Whether a code names an integer format. -/
def isInt (c : Nat) : Bool := (intFmt c).isSome

/-- FP32 and FP64, by the size bit of the scalar instructions (R145). -/
def fpCode (z : Bool) : Nat := if z then 7 else 0

/-- Sign, exponent and fraction of a pattern. -/
def FloatFmt.fields (f : FloatFmt) (x : Nat) : Bool × Nat × Nat := (x.testBit (f.w + f.t), x >>> f.t % 2 ^ f.w, x % 2 ^ f.t)

/-- Whether a pattern is a NaN (R106). -/
def FloatFmt.isNan (f : FloatFmt) (x : Nat) : Bool :=
  let (_, e, m) := f.fields x
  decide (e = 2 ^ f.w - 1) && (if f.e4m3 then decide (m = 7) else decide (m ≠ 0))

/-- Whether a pattern is a signalling NaN: FP32 and FP64 alone (R107). -/
def FloatFmt.isSig (f : FloatFmt) (x : Nat) : Bool := !f.narrow && f.isNan x && !x.testBit (f.t - 1)

/-- The value of a pattern; a narrow subnormal reads as zero (R106, R110). -/
def FloatFmt.read (f : FloatFmt) (x : Nat) : Num :=
  let (s, e, m) := f.fields x
  if f.isNan x then .nan
  else if e = 2 ^ f.w - 1 ∧ !f.e4m3 then .inf s
  else if e = 0 then (if f.narrow then .fin s 0 0 else .fin s m (1 - (f.bias : Int) - f.t))
  else .fin s (2 ^ f.t + m) ((e : Int) - f.bias - f.t)

/-- The value of an element of any format but CB2 (R105). -/
def readNum (code x : Nat) : Num :=
  match floatFmt code with
  | some f => f.read x
  | none => match intFmt code with
    | some (w, true) => let i := sext w x; .fin (decide (i < 0)) i.natAbs 0
    | some (w, false) => .fin false (x % 2 ^ w) 0
    | none => .nan

/-- Whether reading an element sets the invalid flag (R107). -/
def sigNan (code x : Nat) : Bool :=
  match floatFmt code with
  | some f => f.isSig x
  | none => false

/-- The invalid event of the signalling operands among some. -/
def sigEv (l : List (Nat × Nat)) : Nat := if l.any fun p => sigNan p.1 p.2 then evInvalid else 0

/-- The canonical NaN (R107). -/
def FloatFmt.nan (f : FloatFmt) : Nat :=
  if f.e4m3 then 0x7F else (2 ^ f.w - 1) * 2 ^ f.t + 2 ^ (f.t - 1)

/-- The infinity of a sign. -/
def FloatFmt.infinity (f : FloatFmt) (neg : Bool) : Nat := oneBit neg (f.w + f.t) + (2 ^ f.w - 1) * 2 ^ f.t

/-- The largest finite pattern of a sign. -/
def FloatFmt.maxPat (f : FloatFmt) (neg : Bool) : Nat :=
  oneBit neg (f.w + f.t) + (if f.e4m3 then 0x7E else (2 ^ f.w - 1) * 2 ^ f.t - 1)

/-- The exponent of the largest finite value. -/
def FloatFmt.emax (f : FloatFmt) : Int := if f.e4m3 then 8 else (2 ^ f.w - 2 : Nat) - (f.bias : Int)

/-- The exponent of the smallest normal. -/
def FloatFmt.emin (f : FloatFmt) : Int := 1 - (f.bias : Int)

/-- A magnitude `m × 2^e` (and a little more where `st`) in units of `2^q`, rounded to nearest with ties to even, or toward
zero; and whether something was lost. Where `st` holds, `q` must lie above `e`. -/
def toUnit (rz : Bool) (m : Nat) (e q : Int) (st : Bool) : Nat × Bool :=
  if q ≤ e then (m <<< (e - q).toNat, st)
  else
    let s := (q - e).toNat
    let n := m >>> s
    let r := m % 2 ^ s
    let half := 2 ^ (s - 1)
    let up := !rz && (decide (half < r) || (decide (r = half) && (st || n % 2 == 1)))
    (n + up.toNat, decide (r ≠ 0) || st)

/-- A pattern and the events of making it. -/
structure Rounded where
  pat : Nat
  ev : Nat
  deriving DecidableEq, Repr

/-- An exact value, or one a little larger in magnitude where `st`, in a floating-point format (R110, R111, R118). -/
def FloatFmt.round (f : FloatFmt) (rz : Bool) (x : Num) (st : Bool := false) : Rounded :=
  match x with
  | .nan => { pat := f.nan, ev := 0 }
  | .inf s =>
    if f.e4m3 ∨ f.t = 2 then { pat := f.maxPat s, ev := evSaturation + evInexact } else { pat := f.infinity s, ev := 0 }
  | .fin s m e =>
    let sg := oneBit s (f.w + f.t)
    if m = 0 then { pat := sg, ev := 0 }
    else
      let top := e + m.log2
      let free := toUnit rz m e (top - f.t) st
      let freeTop := top - f.t + free.1.log2
      let tiny := decide (freeTop < f.emin)
      if f.narrow && tiny then { pat := sg, ev := evUnderflow + evInexact }
      else
        let q := if tiny then f.emin - f.t else top - f.t
        let n := if tiny then toUnit rz m e q st else free
        let ev := (if n.2 then evInexact else 0) + (if tiny && n.2 then evUnderflow else 0)
        let nTop := q + n.1.log2
        if n.1 ≠ 0 ∧ (f.emax < nTop ∨ (f.e4m3 ∧ nTop = f.emax ∧ n.1 = 15)) then
          if f.e4m3 ∨ f.t = 2 then { pat := f.maxPat s, ev := evSaturation + evInexact }
          else if rz then { pat := f.maxPat s, ev := (if f.narrow then evOverflow else 0) + evInexact }
          else { pat := f.infinity s, ev := evOverflow + evInexact }
        else
          let pat := if nTop < f.emin ∨ n.1 = 0 then n.1
            else (nTop + f.bias).toNat * 2 ^ f.t + ((n.1 <<< f.t) >>> n.1.log2 - 2 ^ f.t)
          let capped := rz && f.narrow && !f.e4m3 && f.t ≠ 2 && decide (pat = f.maxPat false) && n.2
          { pat := sg + pat, ev := ev ||| (if capped then evOverflow else 0) }

/-- An integer clamped to a range. -/
def clamp (lo hi i : Int) : Int := if i < lo then lo else if hi < i then hi else i

/-- The range of a two's complement or unsigned width. -/
def intRange (w : Nat) (signed : Bool) : Int × Int :=
  if signed then (-(2 ^ (w - 1) : Nat), (2 ^ (w - 1) : Nat) - 1) else (0, (2 ^ w : Nat) - 1)

/-- An exact value as an integer of a width: rounded, then saturated (R111, R146). -/
def toIntFmt (w : Nat) (signed rz : Bool) (x : Num) (st : Bool := false) : Int × Nat :=
  let (lo, hi) := intRange w signed
  match x with
  | .nan => (0, evInvalid)
  | .inf s => (if s then lo else hi, evSaturation + evInexact)
  | .fin s m e =>
    let n := toUnit rz m e 0 st
    let i : Int := if s then -(n.1 : Int) else n.1
    let c := clamp lo hi i
    (c, (if n.2 || c ≠ i then evInexact else 0) + (if c ≠ i then evSaturation else 0))

/-- An exact value in the format of a code (R111). -/
def roundTo (code : Nat) (rz : Bool) (x : Num) (st : Bool := false) : Rounded :=
  match floatFmt code with
  | some f => f.round rz x st
  | none => match intFmt code with
    | some (w, sg) => let r := toIntFmt w sg rz x st; { pat := (r.1 % (2 ^ w : Nat)).toNat, ev := r.2 }
    | none => { pat := 0, ev := 0 }

/-! ### Exact arithmetic -/

/-- Whether a value is a zero. -/
def Num.isZero : Num → Bool
  | .fin _ m _ => m == 0
  | _ => false

/-- The sign of a value; a NaN counts as positive. -/
def Num.neg? : Num → Bool
  | .fin s _ _ => s
  | .inf s => s
  | .nan => false

/-- Negation of a value. -/
def Num.negate : Num → Num
  | .nan => .nan
  | .inf s => .inf (!s)
  | .fin s m e => .fin (!s) m e

/-- A signed magnitude as an integer. -/
def signed (s : Bool) (m : Nat) : Int := if s then -(m : Int) else m

/-- The exact sum; ∞ − ∞ is a NaN and invalid (R107, R118). -/
def Num.add : Num → Num → Num × Nat
  | .nan, _ => (.nan, 0)
  | _, .nan => (.nan, 0)
  | .inf a, .inf b => if a = b then (.inf a, 0) else (.nan, evInvalid)
  | .inf a, _ => (.inf a, 0)
  | _, .inf b => (.inf b, 0)
  | .fin a m e, .fin b n f =>
    let lo := Min.min e f
    let v := signed a (m <<< (e - lo).toNat) + signed b (n <<< (f - lo).toNat)
    if v = 0 then (.fin (a && b && m == 0 && n == 0) 0 0, 0) else (.fin (decide (v < 0)) v.natAbs lo, 0)

/-- The exact product; 0 × ∞ is a NaN and invalid (R107, R118). -/
def Num.mul : Num → Num → Num × Nat
  | .nan, _ => (.nan, 0)
  | _, .nan => (.nan, 0)
  | .inf a, .inf b => (.inf (a != b), 0)
  | .inf a, .fin b n _ => if n = 0 then (.nan, evInvalid) else (.inf (a != b), 0)
  | .fin a m _, .inf b => if m = 0 then (.nan, evInvalid) else (.inf (a != b), 0)
  | .fin a m e, .fin b n f => (.fin (a != b) (m * n) (if m * n = 0 then 0 else e + f), 0)

/-- The exact a × b + c. -/
def Num.fma (a b c : Num) : Num × Nat :=
  let p := a.mul b
  let s := p.1.add c
  (s.1, p.2 ||| s.2)

/-- The quotient to 140 bits and whether more follows (R118). -/
def Num.div : Num → Num → Num × Bool × Nat
  | .nan, _ => (.nan, false, 0)
  | _, .nan => (.nan, false, 0)
  | .inf _, .inf _ => (.nan, false, evInvalid)
  | .inf a, .fin b _ _ => (.inf (a != b), false, 0)
  | .fin a _ _, .inf b => (.fin (a != b) 0 0, false, 0)
  | .fin a m e, .fin b n f =>
    if n = 0 then (if m = 0 then (.nan, false, evInvalid) else (.inf (a != b), false, evDivide))
    else
      let k := 140 + n.log2
      (.fin (a != b) ((m <<< k) / n) (e - f - k), decide ((m <<< k) % n ≠ 0), 0)

/-- The integer square root, one bit at a time. -/
def isqrtGo (v : Nat) : Nat → Nat → Nat
  | 0, r => r
  | k + 1, r => let c := r + 2 ^ k; isqrtGo v k (if c * c ≤ v then c else r)

/-- The integer square root. -/
def isqrt (v : Nat) : Nat := isqrtGo v (v.log2 / 2 + 1) 0

/-- The square root to at least 140 bits and whether more follows (R145). -/
def Num.sqrt : Num → Num × Bool × Nat
  | .nan => (.nan, false, 0)
  | .inf s => if s then (.nan, false, evInvalid) else (.inf false, false, 0)
  | .fin s m e =>
    if m = 0 then (.fin s 0 0, false, 0)
    else if s then (.nan, false, evInvalid)
    else
      let k := 280 + (e % 2).toNat
      let v := m <<< k
      let r := isqrt v
      (.fin false r ((e - k) / 2), decide (r * r ≠ v), 0)

/-- Whether two values are equal; signed zeros are (R107). -/
def Num.eq : Num → Num → Bool
  | .fin a m e, .fin b n f =>
    let lo := Min.min e f
    signed a (m <<< (e - lo).toNat) == signed b (n <<< (f - lo).toNat)
  | .inf a, .inf b => a == b
  | _, _ => false

/-- Whether one value is less than another; false with a NaN (R107). -/
def Num.lt : Num → Num → Bool
  | .nan, _ => false
  | _, .nan => false
  | .inf a, .inf b => a && !b
  | .inf a, .fin _ _ _ => a
  | .fin _ _ _, .inf b => !b
  | .fin a m e, .fin b n f =>
    let lo := Min.min e f
    decide (signed a (m <<< (e - lo).toNat) < signed b (n <<< (f - lo).toNat))

/-- The maximum or the minimum: a NaN if either is one, −0 below +0 (R107). -/
def Num.pick (max : Bool) (a b : Num) : Num :=
  if a = .nan ∨ b = .nan then .nan
  else
    let aLess := a.lt b || (a.isZero && b.isZero && a.neg? && !b.neg?)
    if max then (if aLess then b else a) else (if aLess || (a.eq b && !(b.isZero && a.isZero && b.neg?)) then a else b)

end Sys2Proof.Machine
end

