-- ==== Sys2Proof/Machine/Flags.lean ====
section
/-! DEFINITION. The sticky flags and the first-event record: how an instruction's events reach FLAGS and FEV (R118, R367 to
R371). -/

namespace Sys2Proof.Machine

/-- The flags of FLAGS that a slot's events set: bit positions of R367. Events come in the order invalid, divide, overflow,
underflow, inexact, saturation, nm as bits 0 to 6. -/
def flagBits (slot : Nat) (ev : Nat) : Nat :=
  let e := fun (k at' : Nat) => oneBit (bit ev k) at'
  if slot = 0 then e 0 0 + e 1 1 + e 2 2 + e 3 3 + e 4 4 + e 5 5
  else if slot = 1 then e 0 6 + e 1 7 + e 2 8 + e 3 9 + e 4 10 + e 5 11
  else if slot = 2 then e 0 12 + e 2 13 + e 4 14
  else if slot = 3 then e 0 15 + e 1 16 + e 2 17 + e 3 18 + e 4 19 + e 5 20
  else if slot = 4 then e 0 21 + e 2 22 + e 3 23 + e 4 24 + e 5 25 + e 6 26
  else if slot = 5 then e 0 27 + e 2 28 + e 3 29 + e 4 30 + e 5 31
  else 0

/-- Records that an instruction of a slot has set flags TRAPEN names, for the bundle in progress or, between bundles, for the
next one (R370). -/
def Cont.noteTrap (c : Cont) (slot : Nat) : Cont :=
  match c.cursor with
  | some k => { c with cursor := some (match k.trapSlot with
      | some _ => k
      | none => { k with trapSlot := some (BitVec.ofNat 3 slot) }) }
  | none => { c with flagTrap := match c.flagTrap with
      | some x => some x
      | none => some (BitVec.ofNat 3 slot) }

/-- The events among a slot's that TRAPEN enables (R369). -/
def trapBits (trapen : BitVec 9) (ev : Nat) : Bool := decide (trapen.toNat % 2 ^ 7 &&& ev ≠ 0)

/-- Sets a slot's sticky flags and captures the first event (R367, R370, R371). `eng`: from a job or a follow-on, which
never raise a flag trap. -/
def Cont.setFlags (c : Cont) (slot ev : Nat) (eng : Bool) (pc : BitVec 48) : Cont :=
  if ev = 0 then c
  else
    let c := { c with
      flags := c.flags ||| BitVec.ofNat 32 (flagBits slot ev)
      fev := if c.trapen.getLsbD 8 && !(c.fev.getLsbD 63) then
          toW (2 ^ 63 + oneBit eng 62 + ev % 2 ^ 7 * 2 ^ 55 + slot * 2 ^ 48 + pc.toNat) else c.fev }
    if !eng && trapBits c.trapen ev then c.noteTrap slot else c


/-- Lands one issued vector command: destination bytes and flags (R179, R368). -/
def Mach.landV (m : Mach) (c : Cont) (v : VPend) : Mach :=
  let m := { m with mem := v.writes.foldl (fun (x : Mem) (w : SpadWrite) => x.spadWrite w.key w.bytes w.poison) m.mem }
  match m.cont? c.id with
  | none => m
  | some c => m.setCont { (c.setFlags 3 v.flags false v.pc) with vpend := c.vpend.drop 1 }

/-- Lands every vector command a continuation has in flight, in order. -/
def Mach.flushV (m : Mach) (id : Nat) : Mach :=
  match m.cont? id with
  | none => m
  | some c => c.vpend.foldl (fun m v => m.landV c v) m

/-- One of the elements that the oldest vector command in flight has still to write (R179). -/
def Mach.landElement (m : Mach) (id k : Nat) : Mach :=
  match m.cont? id with
  | none => m
  | some c => match c.vpend with
    | [] => m
    | v :: r => match v.writes[k]? with
      | none => m
      | some w =>
        let m := { m with mem := m.mem.spadWrite w.key w.bytes w.poison }
        m.setCont { c with vpend := { v with writes := v.writes.eraseIdx k } :: r }

/-- Drain writes of a continuation's own commands that are in the array are made now: a wait for them ends so (R86, R133). -/
def Mach.landDrains (m : Mach) (id : Nat) : Mach :=
  match m.cont? id with
  | none => m
  | some c =>
    let m := { m with mem := c.mx.array.foldl (fun (x : Mem) (k : MCmd) =>
      k.writes.foldl (fun (x : Mem) (w : SpadWrite) => x.spadWrite w.key w.bytes w.poison) x) m.mem }
    m.setCont { c with mx := { c.mx with array := c.mx.array.map fun (k : MCmd) => { k with writes := [] } } }

/-- Earlier accesses of a continuation are performed: vector commands in flight and drain writes land (R90). -/
def Mach.performed (m : Mach) (id : Nat) : Mach := (m.flushV id).landDrains id

end Sys2Proof.Machine
end

