-- ==== Sys2Proof/Machine/Card.lean ====
section
/-! DEFINITION. Fields of a job card (R136). -/

namespace Sys2Proof.Machine

/-- `n` bytes of a card from byte `off`. -/
def Card.at (c : Card) (off n : Nat) : Nat := c.toNat / 2 ^ (8 * off) % 2 ^ (8 * n)

def Card.kflags (c : Card) : Nat := c.at 4 4
def Card.ringq (c : Card) : Nat := bits (c.at 0 4) 29 26
def Card.ecode (c : Card) : Nat := bits (c.at 0 4) 25 22
def Card.prio (c : Card) : Nat := bits (c.at 0 4) 21 19
def Card.dport (c : Card) : Bool := bit (c.at 0 4) 14
def Card.cmpl (c : Card) : Bool := bit (c.at 0 4) 13
def Card.aincEn (c : Card) : Bool := bit (c.at 0 4) 12
def Card.fol (c : Card) : Bool := bit (c.at 0 4) 11
def Card.radv (c : Card) : Bool := bit (c.at 0 4) 10
/-- Destination space: `true` virtual. -/
def Card.dspace (c : Card) : Bool := bit (c.at 0 4) 9
/-- Source space: `true` virtual. -/
def Card.sspace (c : Card) : Bool := bit (c.at 0 4) 8
def Card.kind (c : Card) : Nat := c.at 0 1
def Card.src (c : Card) : Nat := c.at 8 8
def Card.dst (c : Card) : Nat := c.at 16 8
def Card.rows (c : Card) : Nat := c.at 24 4
def Card.rbytes (c : Card) : Nat := c.at 28 4
def Card.sstride (c : Card) : Int := sext 64 (c.at 32 8)
def Card.dstride (c : Card) : Int := sext 64 (c.at 40 8)
def Card.ilist (c : Card) : Nat := c.at 48 8
def Card.icount (c : Card) : Nat := c.at 56 4
def Card.rfbase (c : Card) : Nat := c.at 64 8
def Card.rflen (c : Card) : Nat := c.at 72 4
def Card.wflen (c : Card) : Nat := c.at 76 4
def Card.wfbase (c : Card) : Nat := c.at 80 8
def Card.cword (c : Card) : Nat := c.at 88 8
def Card.cval (c : Card) : Nat := c.at 96 8
def Card.aidx (c : Card) : Nat := c.at 104 1
def Card.ainc (c : Card) : Nat := c.at 106 2
def Card.thr (c : Card) : Nat := c.at 108 4
def Card.follow (c : Card) : Nat := c.at 112 8
def Card.kspec (c : Card) : Nat := c.at 120 8

/-- A card's own footprints (R36, R136). -/
def Card.regions (k : Card) : List Region :=
  (if k.rflen = 0 then [] else [{ base := toW k.rfbase, len := k.rflen, wr := false, ren := false, whole := false }]) ++
  (if k.wflen = 0 then [] else [{ base := toW k.wfbase, len := k.wflen, wr := true, ren := false, whole := false }])

end Sys2Proof.Machine
end

