-- ==== Sys2Proof/Machine/Record.lean ====
section
/-! DEFINITION. The records the module writes for software: continuation records (R21), save areas (R27), trap records
(R352), task records (R244), the error log (R357). -/

namespace Sys2Proof.Machine

/-- A continuation record as 64 bytes (R21). -/
def Cont.record (c : Cont) : List Byte :=
  leBytes 64 (c.pc.toNat + c.state.toNat * 2 ^ 48 + c.prio.toNat * 2 ^ 56 + c.save.toNat * 2 ^ 64 +
    c.waddr.toNat * 2 ^ 128 + c.wval.toNat * 2 ^ 192 + c.wcond.toNat * 2 ^ 224 + c.team.toNat * 2 ^ 256 +
    c.rank.toNat * 2 ^ 288 + c.grid.toNat * 2 ^ 296 + c.taskRec.toNat * 2 ^ 320 + c.rtime.toNat * 2 ^ 384 +
    c.ppol.toNat * 2 ^ 432 + c.tcause.toNat * 2 ^ 448 + c.fslot.toNat * 2 ^ 464)

/-- Writes a continuation's record where it stands, in the HBM of its team's die: record fields change there at every
transition (R21, R27). -/
def Mach.putRecord (m : Mach) (c : Cont) : Mach :=
  if c.stage0 then m else { m with mem := m.mem.write c.die c.recPa c.record false }

/-- Replaces a continuation and writes its record. -/
def Mach.recordCont (m : Mach) (c : Cont) : Mach := (m.setCont c).putRecord c

/-- A stream binding as the 64 bytes of R64. -/
def StreamRec.bytes (s : StreamRec) : List Byte :=
  leBytes 8 s.base.toNat ++ leBytes 1 (s.virt.toNat + 2 * s.out.toNat + 4 * s.lg.toNat + 16 * s.wrap.toNat) ++
  [s.dims] ++ leBytes 2 0 ++ leBytes 4 s.wlen.toNat ++ (s.counts.toList.map fun x => leBytes 2 x.toNat).flatten ++
  (s.strides.toList.map fun x => leBytes 4 x.toNat).flatten ++ leBytes 4 s.phase.toNat ++ leBytes 4 0 ++
  (s.idx.toList.map fun x => leBytes 2 x.toNat).flatten ++ leBytes 8 s.remaining.toNat

/-- The binding a 64-byte record holds (R64). -/
def StreamRec.ofBytes (b : List Byte) : StreamRec :=
  { base := toW (leAt b 0 8)
    virt := bit (leAt b 8 1) 0
    out := bit (leAt b 8 1) 1
    lg := BitVec.ofNat 2 (bits (leAt b 8 1) 3 2)
    wrap := BitVec.ofNat 4 (bits (leAt b 8 1) 7 4)
    dims := BitVec.ofNat 8 (leAt b 9 1)
    wlen := BitVec.ofNat 32 (leAt b 12 4)
    counts := Vector.ofFn fun i => BitVec.ofNat 16 (leAt b (16 + 2 * i.val) 2)
    strides := Vector.ofFn fun i => BitVec.ofNat 32 (leAt b (24 + 4 * i.val) 4)
    phase := BitVec.ofNat 32 (leAt b 40 4)
    idx := Vector.ofFn fun i => BitVec.ofNat 16 (leAt b (48 + 2 * i.val) 2)
    remaining := toW (leAt b 56 8) }

/-- Bytes 0x000 to 0x4FF of a context save area (R27). -/
def Cont.saveBytes (c : Cont) : List Byte :=
  leBytes 8 0 ++ ((c.g.toList.drop 1).map fun x => leBytes 8 x.toNat).flatten ++
  (c.b.toList.map fun x => leBytes 8 x.toNat).flatten ++
  (c.lc.toList.map fun x => leBytes 8 x.toNat).flatten ++
  leBytes 8 (c.p.toNat + (if c.claim then c.mx.lrc.toNat * 256 else 0)) ++
  leBytes 4 c.fmt.toNat ++ leBytes 4 c.flags.toNat ++
  (c.tx.toList.map fun x => leBytes 8 x.word.toNat).flatten ++
  (c.ag.toList.map fun x => leBytes 8 x.w0.toNat ++ leBytes 8 x.w1.toNat).flatten ++
  (c.streams.toList.map fun x => match x with
    | some s => s.bytes
    | none => leBytes 64 0).flatten ++
  leBytes 8 c.vl.toNat ++ leBytes 40 0 ++
  (c.mx.rings.toList.map fun x => leBytes 16 (if c.claim then x.toNat else 0)).flatten

/-- Writes bytes of a continuation's save area, at an offset (R27). -/
def Mach.putSave (m : Mach) (c : Cont) (off : Nat) (bytes : List Byte) : Mach :=
  if c.stage0 then m else { m with mem := m.mem.write c.die (c.savePa + off) bytes false }

/-- Writes a continuation's registers to its save area, with the zeros of its reserved tail (R27). -/
def Mach.saveRegs (m : Mach) (c : Cont) : Mach := (m.putSave c 0 c.saveBytes).putSave c 0x540 (leBytes 704 0)

/-- The trap record of R352 as 64 bytes. -/
def trapRecord (t : Trap) (pc : BitVec 48) (fslot : BitVec 3) (imp sys eng : Bool) (insn : Word) : List Byte :=
  leBytes 64 (pc.toNat + t.cause.toNat * 2 ^ 48 + fslot.toNat * 2 ^ 64 + imp.toNat * 2 ^ 67 + sys.toNat * 2 ^ 68 +
    eng.toNat * 2 ^ 69 + t.faddr.toNat * 2 ^ 128 + insn.toNat * 2 ^ 192 + t.info.toNat * 2 ^ 256)

/-- Writes a trap record at save-area offset 0x500 (R352). -/
def Mach.putTrapRecord (m : Mach) (c : Cont) (bytes : List Byte) : Mach := m.putSave c 0x500 bytes

/-- What an error-log entry names beside the failure (R357). -/
structure LogInfo where
  severity : Nat := 2
  fslot : BitVec 3 := 7
  imp : Bool := false
  eng : Bool := false
  die : Nat := 0
  core : Nat := 0
  ctx : Nat := 0
  seq : Nat := 0
  pc : Nat := 0
  ld : Nat := 0
  deriving DecidableEq, Repr

/-- The logical device that owns a context's queue (R298, R357). -/
def Mach.ldOf (m : Mach) (ctx : Nat) : Nat :=
  match m.queues.find? (fun q => q.2.en && bits q.2.entry.toNat 59 48 == ctx) with
  | some q => bits q.2.entry.toNat 63 60
  | none => 0

/-- Makes one error-log entry, or counts it as lost (R357). -/
def Mach.logError (m : Mach) (t : Trap) (i : LogInfo) : Mach :=
  if !(bit m.regs.elmask.toNat i.severity) then m
  else
    let r := m.regs
    let size := 2 ^ r.elsize.toNat
    let usable := decide (r.elbase ≠ 0 ∧ 4 ≤ r.elsize.toNat ∧ r.elsize.toNat ≤ 16 ∧
      r.elbase.toNat + 64 * size ≤ 2 ^ 36 ∧ (r.eltail - r.elhead).toNat < size)
    if !usable then
      { m with regs := { r with ellost := if r.ellost = BitVec.allOnes 64 then r.ellost else r.ellost + 1 } }
    else
      let bytes := leBytes 2 t.cause.toNat ++ leBytes 1 i.severity ++
        leBytes 1 (i.fslot.toNat + 8 * i.imp.toNat + 16 * i.eng.toNat) ++ leBytes 2 (i.die + 64 * i.core) ++
        leBytes 2 i.ctx ++ leBytes 8 i.seq ++ leBytes 8 i.pc ++ leBytes 8 t.faddr.toNat ++ leBytes 8 t.info.toNat ++
        leBytes 8 (m.cyc i.die) ++ leBytes 1 i.ld ++ leBytes 15 0
      let mem := m.mem.write 0 (r.elbase.toNat + 64 * (r.eltail.toNat % size)) bytes false
      { m with
        mem := mem
        regs := { r with eltail := r.eltail + 1, elpend := r.elpend ||| 1 }
        out := m.out ++ (if i.ld = 0 then [.msix 0 0] else [.msix 0 0, .msix 0 i.ld]) }

/-- Writes the fields of a task record that only the module writes: seq, tstate, tcause, grid (R244). -/
def Mach.putTaskState (m : Mach) (t : Task) (tcause : Cause) : Mach :=
  m.ctxWrite (t.place.headD 0) t.ctx t.entry (t.recVa + 56)
    (leBytes 8 t.seq ++ leBytes 1 t.tstate ++ leBytes 2 tcause.toNat ++ leBytes 3 t.grid.toNat)

end Sys2Proof.Machine
end

