-- ==== Sys2Proof/Machine/Launch.lean ====
section
/-! DEFINITION. The launch unit and the graph executor: kernel headers, task records and footprints as admission reads
them (R243 to R247, R385), placement (R278, R279), the admission test (R283), ordering (R36), continuations at their
start (R34), nodes that fire, fail and complete (R38, R386 to R391), kills (R41). -/

namespace Sys2Proof.Machine

/-! ### Headers, records, footprints -/

/-- Bytes of a bundle by its header's present mask (R125). -/
def bundleBytes (hdr : Nat) : Nat :=
  4 + 4 * ((oneBit (bit hdr 0) 0) + (oneBit (bit hdr 1) 0) + (oneBit (bit hdr 2) 0) + (oneBit (bit hdr 3) 0) +
    (oneBit (bit hdr 6) 0)) + 8 * (oneBit (bit hdr 4) 0 + oneBit (bit hdr 5) 0)

/-- Whether a bundle lies in one aligned 64-byte granule (R126). -/
def inGranule (pc hdr : Nat) : Bool := decide (pc / 64 = (pc + bundleBytes hdr - 1) / 64)

/-- Reads `n` bytes of a context for admission. -/
def Mach.admRead (m : Mach) (ctx : BitVec 12) (e : CtxEntry) (va : Word) (n : Nat) : Option (List Byte) := m.ctxRead 0 ctx e va n

/-- The bundle header at an address, read for execution. -/
def Mach.headerAt (m : Mach) (ctx : BitVec 12) (e : CtxEntry) (va : Word) : Option Nat :=
  match m.resolveCtx 0 ctx e va 4 .exec with
  | .ok ps => some (leNat (m.mem.readParts 0 ps))
  | _ => none

/-- Whether a ring view of a header is in the layout of R62: reserved bits zero, and of a valid one a tile size and an
aligned base (R243). -/
def headerRing (v : Nat) : Bool :=
  decide (bits v 127 87 = 0 ∧ bits v 63 52 = 0) && (!(bit v 51) || decide (1 ≤ bits v 31 23 ∧ bits v 5 0 = 0))

/-- A kernel header whose limits hold, with its default footprint list (R243; log entry 61). -/
def Mach.readHeader (m : Mach) (ctx : BitVec 12) (e : CtxEntry) (va : Word) : Option (Header × Word × Nat) :=
  if va.toNat % 64 ≠ 0 then none
  else match m.admRead ctx e va 384 with
  | none => none
  | some b =>
    let ent := leAt b 0 8
    let win := leAt b 8 4
    let ok := decide (ent < 2 ^ 32 ∧ ent % 4 = 0 ∧ win % 4096 = 0 ∧ 4096 ≤ win ∧ win ≤ 6291456 ∧ leAt b 12 1 < 8 ∧
      leAt b 13 3 = 0 ∧ leAt b 20 4 = 0 ∧ leAt b 24 8 < 2 ^ 48 ∧ leAt b 72 2 ≤ 256 ∧ leAt b 74 6 = 0 ∧ leAt b 336 48 = 0) &&
      (List.range 16).all fun i => headerRing (leAt b (80 + 16 * i) 16)
    let span := match m.headerAt ctx e (va + toW ent) with
      | some h => inGranule ((va + toW ent).toNat % 2 ^ 48) h
      | none => true
    if !ok || !span then none
    else some ({ entry := va + toW ent, window := win, claim := bit (leAt b 12 1) 0
                 ppol := BitVec.ofNat 2 (bits (leAt b 12 1) 2 1)
                 fmt := BitVec.ofNat 32 (leAt b 16 4 % 2 ^ 26)
                 rtime := BitVec.ofNat 48 (leAt b 24 8)
                 loops := (List.range 4).map fun i => (bits (leAt b (32 + 8 * i) 8) 33 32, leAt b (32 + 8 * i) 4)
                 rings := (List.range 16).map fun i => BitVec.ofNat 128 (leAt b (80 + 16 * i) 16) },
               toW (leAt b 64 8), leAt b 72 2)


/-- Product of the trips of the levels of one kind. -/
def tripsOf (loops : List (Nat × Nat)) (kind : Nat) : Nat :=
  ((loops.filter fun l => l.1 = kind).map Prod.snd).foldl (· * ·) 1

/-- Whether a loop table obeys R32 and R33. -/
def loopsOk (loops : List (Nat × Nat)) : Bool :=
  (loops.dropWhile fun l => l.1 ≠ 0).all (fun l => l.1 = 0) && (loops.all fun l => l.1 = 0 || decide (l.2 ≠ 0)) &&
    decide (tripsOf loops 3 ≤ 16777216 ∧ tripsOf loops 2 ≤ 16)

/-- A footprint entry whose limits hold (R245). -/
def regionOf (b : List Byte) : Option Region :=
  let w := leNat b
  let base := bits w 63 0
  let len := bits w 111 64
  let wr := bit w 112
  let ren := bit w 113
  let whole := bit w 114
  if decide (w < 2 ^ 115) && decide (1 ≤ len) && canonical (toW base) && (!ren || (wr && decide (base % 65536 = 0 ∧ len % 65536 = 0))) &&
      (!whole || ren) then some { base := toW base, len := len, wr := wr, ren := ren, whole := whole }
  else none

/-- Every element of a list of options, if none is absent. -/
def allSome {α : Type} : List (Option α) → Option (List α)
  | [] => some []
  | none :: _ => none
  | some x :: r => match allSome r with
    | some l => some (x :: l)
    | none => none

/-- Where a page lies, whatever it permits (R278). -/
def Mach.pagePa (m : Mach) (die : Nat) (ctx : BitVec 12) (e : CtxEntry) (va : Word) : Option Nat :=
  [Acc3.read, .write, .exec].findSome? fun k => match m.xlate die ctx e true va k with
    | .ok pa _ _ => some pa
    | _ => none

/-- Whether an address is translated: a page is there, whatever it permits (R74, R276, R385; log entry 40). -/
def Mach.translated (m : Mach) (die : Nat) (ctx : BitVec 12) (e : CtxEntry) (va : Word) : Bool :=
  match m.xlate die ctx e true va .read with
  | .ok _ _ _ => true
  | .fail c _ => c == 0x3003
  | .wait => false

/-- A footprint list (R245); `none` where it breaks a rule or cannot be read, or a region does not translate (R385). -/
def Mach.readFootprint (m : Mach) (ctx : BitVec 12) (e : CtxEntry) (va : Word) (n : Nat) : Option (List Region) :=
  if n = 0 then some []
  else match m.admRead ctx e va (16 * n) with
  | none => none
  | some b => match allSome ((List.range n).map fun i => regionOf (slice b (16 * i) 16)) with
    | none => none
    | some l =>
      if l.all (fun r => (parts r.base.toNat r.len).all fun p => m.translated 0 ctx e (toW p.1)) then some l else none

/-! ### Placement -/

/-- A die's entry of the placement map: elig and the enabled cores (R279); a base of 0 enables every core. -/
def Mach.plEntry (m : Mach) (d : Nat) : Nat :=
  if m.isWithheld d || (m.die d).failed then 0
  else if m.regs.plmap = 0 then 0x1FFFF
  else leNat (m.mem.read 0 (m.regs.plmap.toNat + 8 * d) 8)

/-- The enabled cores of a die, ascending. -/
def Mach.enabledCores (m : Mach) (d : Nat) : List Nat := (List.range 16).filter fun c => bit (m.plEntry d) c

/-- Whether a die takes new teams (R279, R413). -/
def Mach.eligible (m : Mach) (d : Nat) : Bool := bit (m.plEntry d) 16 && !(m.enabledCores d).isEmpty

/-- How many HBM-resident pages of a team's slices each die is home to; the best eligible die (R278). -/
def Mach.placeTeam (m : Mach) (ctx : BitVec 12) (e : CtxEntry) (fp : List Region) (teams t : Nat) : Option Nat :=
  let pages := (fp.map fun r =>
      let a := r.base.toNat + t * r.len / teams
      let z := r.base.toNat + (t + 1) * r.len / teams
      if a < z then (List.range ((z + 65535) / 65536 - a / 65536)).map fun k => (a / 65536 + k) * 65536 else []).flatten
  let homes := pages.eraseDups.filterMap fun p => match m.pagePa 0 ctx e (toW p) with
    | some pa => if inHbm pa then some (pa / 2 ^ 36) else none
    | none => none
  (List.range 64).foldl (fun best d =>
    if !m.eligible d then best
    else match best with
      | none => some d
      | some b => if homes.count b < homes.count d then some d else some b) none

/-- The dies of all teams of a task. -/
def Mach.placeAll (m : Mach) (ctx : BitVec 12) (e : CtxEntry) (fp : List Region) (teams : Nat) : Option (List Nat) :=
  allSome ((List.range teams).map fun t => m.placeTeam ctx e fp teams t)

/-! ### Ordering and the admission test -/

/-- Whether a later footprint must follow an earlier one; a renamable write waits for nothing (R36, R37). -/
def mustFollow (earlier later : List Region) : Bool :=
  earlier.any fun a => later.any fun b => overlaps a.base.toNat a.len b.base.toNat b.len &&
    ((a.wr && !(b.wr && b.ren)) || (b.wr && !b.ren))

/-- The tasks that nodes of a replay prepare, with the class bound of the replay (R283). -/
def preparedTasks (nodes : List Node) (bounded : Bool) (deadline : Option Nat) : List Task :=
  nodes.filterMap fun n => n.prep.map fun (t : Task) => { t with bounded := bounded && n.retries == 0, deadline := deadline }

/-- Tasks of a graph's admitted replays that are not in the dependence table and not complete: later tasks from outside the
graph still follow them (R36, R391). -/
def Graph.unfired (g : Graph) : List Task :=
  (if g.running then preparedTasks (g.nodes.filter fun n => n.st == 1 || n.st == 4 || n.st == 5) g.bounded g.deadline else []) ++
    (match g.pend with
      | some r => preparedTasks r.nodes r.bounded r.deadline
      | none => [])

/-- The tasks of a context that are earlier than a sequence number and not complete, but for those of one graph (R36). -/
def Mach.earlier (m : Mach) (ctx : BitVec 12) (seq : Nat) (graph : Option Nat) : List Task :=
  (m.tasks.filter (fun a => a.stage ≠ .ended) ++
    ((m.graphs.filter fun g => some g.id ≠ graph).map Graph.unfired).flatten).filter
    fun a => a.ctx == ctx && decide (a.seq < seq)

/-- A task's own footprint and those of the cards of its jobs that have not landed (R36, R220). -/
def Mach.footprints (m : Mach) (a : Task) : List Region :=
  a.fp ++ ((m.jobs.filter fun j => j.task == a.seq && j.st ≠ .landed).map fun j => Card.regions j.card).flatten

/-- The incomplete earlier tasks of its context that a task must follow, by their footprints or by those of their job cards
(R36). -/
def Mach.predecessors (m : Mach) (t : Task) : List Task :=
  (m.earlier t.ctx t.seq (t.node.map Prod.fst)).filter fun a => mustFollow (m.footprints a) t.fp

/-- The bound and the share of a latency class (R282). -/
def Mach.clsBound (m : Mach) (c : Nat) : Nat := bits (vget m.regs.lclass c 0).toNat 47 0

/-- The share of a latency class in units of 1/256 (R282). -/
def Mach.clsShare (m : Mach) (c : Nat) : Nat := bits (vget m.regs.lclass c 0).toNat 63 56

/-- The largest remaining-time estimate among a task's live records, or the header's before any exists (R253, R283). -/
def Mach.estimate (m : Mach) (t : Task) : Nat :=
  match (m.allConts.filter fun c => c.id ≠ 0 && c.task == t.seq && decide (c.state.toNat < 6)).map fun c => c.rtime.toNat with
  | [] => t.hdr.rtime.toNat
  | l => l.foldl max 0

/-- The lowest pre-emption policy among a task's records (R41). -/
def Mach.policy (m : Mach) (t : Task) : Nat :=
  match (m.allConts.filter fun c => c.id ≠ 0 && c.task == t.seq).map fun c => c.ppol.toNat with
  | [] => t.hdr.ppol.toNat
  | l => l.foldl min 3

/-- The accepting die of a replay: the die of team 0 of its node 0 (R283). -/
def acceptingDie (nodes : List Node) : Nat :=
  match nodes with
  | n :: _ => (match n.prep with
    | some p => p.place.headD 0
    | none => 0)
  | [] => 0

/-- Dependence-table entries in use on a die (R280). -/
def Mach.dtuse (m : Mach) (d : Nat) : Nat :=
  (m.tasks.filter fun t => t.entered && t.place.headD 0 == d).length +
    ((m.graphs.filter fun g => g.running && acceptingDie g.nodes == d).map fun g =>
      g.entries - (m.tasks.filter fun t => t.entered && t.node.map Prod.fst == some g.id).length).sum +
    (m.graphs.map fun g => match g.pend with
      | some r => if acceptingDie r.nodes = d then r.entries else 0
      | none => 0).sum

/-- Core-cycles a task would reserve on each die (R283). -/
def coreCycles (e size : Nat) (place : List Nat) : List (Nat × Nat) :=
  (List.range 64).filterMap fun d =>
    let k := place.count d
    if k = 0 then none else some (d, e * (k * size))

/-- Sums two lists of per-die amounts. -/
def addAmounts (a b : List (Nat × Nat)) : List (Nat × Nat) :=
  (List.range 64).filterMap fun d =>
    let v := ((a ++ b).filter fun p => p.1 = d).map Prod.snd |>.sum
    if v = 0 then none else some (d, v)

/-- The test of R283 for a bounded class: the reason of a refusal, if any. `est` is the task's estimate or a replay's longest
path, `q` its core-cycles, `preds` the incomplete tasks it follows, `entries` the table entries it needs. -/
def Mach.boundedTest (m : Mach) (cls est : Nat) (q : List (Nat × Nat)) (preds : List Task) (acc entries : Nat) : Option Nat :=
  let b := m.clsBound cls
  if b = 0 then none
  else
    let l := est + (preds.map fun t => t.deadline.getD 0 - m.cyc t.accDie).sum
    let w := ((m.tasks.filter fun t => t.stage == .dispatch && t.tstate == 2 && t.place.contains acc && m.policy t == 2).map m.estimate).foldl max 0
    if preds.any fun t => !t.bounded then some 0x000C
    else if l + w + 4096 > b then some 0x000D
    else if q.any (fun p => decide (SMap.get 0 m.rsv (64 * cls + p.1) + p.2 > m.clsShare cls * 16 * b / 256)) then some 0x000E
    else if m.dtuse acc + entries > 4096 then some 0x000F
    else none

/-- Adds reserved core-cycles of a class (R283). -/
def Mach.reserve (m : Mach) (cls : Nat) (q : List (Nat × Nat)) : Mach :=
  { m with rsv := q.foldl (fun r p => SMap.set 0 r (64 * cls + p.1) (SMap.get 0 r (64 * cls + p.1) + p.2)) m.rsv }

/-- What is left of some per-die amounts when others are taken from them. -/
def subAmounts (a b : List (Nat × Nat)) : List (Nat × Nat) :=
  (List.range 64).filterMap fun d =>
    let v := ((a.filter fun p => p.1 = d).map Prod.snd).sum - ((b.filter fun p => p.1 = d).map Prod.snd).sum
    if v = 0 then none else some (d, v)

/-- Releases reserved core-cycles (R284). -/
def Mach.unreserve (m : Mach) (cls : Nat) (q : List (Nat × Nat)) : Mach :=
  { m with rsv := q.foldl (fun r p => SMap.set 0 r (64 * cls + p.1) (SMap.get 0 r (64 * cls + p.1) - p.2)) m.rsv }

/-! ### Admission of a task -/

/-- Who submits: context, class, priority of the path, whether the path may start system mode (R242, R244, R282). -/
structure Submitter where
  ctx : BitVec 12
  cls : Nat
  path : Nat
  sys : Bool
  deriving DecidableEq, Repr

/-- Whether the fields and reserved bits of a task record obey R244. -/
def recordOk (va : Word) (w : Nat) : Bool :=
  decide (va.toNat % 128 = 0 ∧ bits w 1023 560 = 0 ∧ bits w 447 384 = 0 ∧ bits w 255 215 = 0 ∧ bits w 213 211 = 0 ∧
    bits w 207 192 ≤ 256 ∧ bits w 191 128 % 16 = 0 ∧ bits w 319 256 % 8 = 0)

/-- The limits of a submission's record, header, footprint, loop table, state, context and placement, in code order
(R385); the task as it would enter. -/
def Mach.examine (m : Mach) (s : Submitter) (rec : Word) (own : Bool) : Except Nat Task :=
  match m.ctxEntryNow 0 s.ctx with
  | none => .error 0x0006
  | some e => match m.admRead s.ctx e rec 128 with
    | none => .error 0x0002
    | some rb =>
      let w := leNat rb
      match m.readHeader s.ctx e (toW (bits w 63 0)) with
      | none => .error 0x0001
      | some (h, dlist, dcount) =>
        if !recordOk rec w then .error 0x0002
        else
          let n := bits w 207 192
          match m.readFootprint s.ctx e (if n = 0 then dlist else toW (bits w 191 128)) (if n = 0 then dcount else n) with
          | none => .error 0x0003
          | some fp =>
            if !loopsOk h.loops then .error 0x0004
            else if !own ∧ (bits w 519 512 = 1 ∨ bits w 519 512 = 2) then .error 0x0005
            else
              let teams := tripsOf h.loops 3
              let size := tripsOf h.loops 2
              match m.placeAll s.ctx e fp teams with
              | none => .error 0x0007
              | some place =>
                if place.any fun d => decide ((m.enabledCores d).length < size) then .error 0x0007
                else if !(Config.poolHolds s.ctx.toNat
                    (teams * size * (2048 + h.window + if h.claim then 131072 else 0))) then .error 0x0008
                else .ok { seq := m.seqCount + 1, recVa := rec, ctx := s.ctx, entry := e, cls := s.cls,
                           prio := min (bits w 210 208) s.path, path := s.path, sys := bit w 214 && s.sys, recSys := bit w 214, hdr := h,
                           param := toW (bits w 127 64), cword := toW (bits w 319 256), cval := toW (bits w 383 320),
                           teams := teams, size := size, fp := fp, place := place, accDie := place.headD 0 }

/-- Whether a task's waiting work is served before another's (R277). -/
def servedFirst (a b : Task) (ta tb : Nat) : Bool :=
  if a.prio ≠ b.prio then decide (b.prio < a.prio)
  else if a.bounded ≠ b.bounded then a.bounded
  else if a.seq ≠ b.seq then decide (a.seq < b.seq)
  else decide (ta < tb)

/-- The task at stage 4 without a table entry that takes the next one: a die has room for it, and no other task is served
first there (R277, R280). -/
def Mach.nextEntered (m : Mach) : Option Task :=
  (m.tasks.filter fun t => t.stage == .ordering && !t.entered && decide (m.dtuse (t.place.headD 0) < 4096)).foldl
    (fun best t => match best with
      | none => some t
      | some b => if servedFirst t b 0 0 then some t else some b) none

/-- Gives free table entries to the tasks that wait for one (R280). -/
def Mach.grantFrom (m : Mach) : Nat → Mach
  | 0 => m
  | n + 1 => match m.nextEntered with
    | none => m
    | some t => (m.setTask { t with entered := true }).grantFrom n

/-- Gives every free table entry to a waiting task, in the order of R277 (R280). -/
def Mach.grantEntries (m : Mach) : Mach := m.grantFrom (m.tasks.filter fun t => t.stage == .ordering && !t.entered).length

/-- Marks a refused record: tstate 5 (R285, R385). -/
def Mach.refuseRecord (m : Mach) (s : Submitter) (rec : Word) : Mach :=
  match m.ctxEntryNow 0 s.ctx with
  | some e => m.ctxWrite 0 s.ctx e (rec + 64) (leBytes 1 5 ++ leBytes 2 0)
  | none => m

/-- Admission of a task: the task enters at stage 4 with its sequence and grid numbers, or is refused with a reason
(R276, R283, R285). -/
def Mach.enrol (m : Mach) (s : Submitter) (rec : Word) : Mach × Except Nat Nat :=
  match m.examine s rec false with
  | .error r => (m.refuseRecord s rec, .error r)
  | .ok t =>
    let e := t.hdr.rtime.toNat
    let q := coreCycles e t.size t.place
    let b := m.clsBound s.cls
    match m.boundedTest s.cls e q (m.predecessors t) (t.place.headD 0) 1 with
    | some r => (m.refuseRecord s rec, .error r)
    | none =>
      let bounded := decide (b ≠ 0)
      let t := { t with bounded := bounded, deadline := if bounded then some (m.cyc t.accDie + b) else none,
                        resv := if bounded then q else [], entered := bounded, grid := BitVec.ofNat 24 (m.gridCount + 1) }
      let m := if bounded then m.reserve s.cls q else m
      let m : Mach := { m with tasks := m.tasks ++ [t], seqCount := m.seqCount + 1, gridCount := m.gridCount + 1 }
      (m.grantEntries.putTaskState t 0, .ok t.seq)

/-! ### Continuations and teams at their start -/

/-- The index of a team or a rank at loop-table level `i` (R33): mixed radix, the lowest level most significant. -/
def levelIndex (loops : List (Nat × Nat)) (team rank i : Nat) : Nat :=
  match loops[i]? with
  | none => 0
  | some (kind, trip) =>
    let later := tripsOf (loops.drop (i + 1)) kind
    if kind = 3 then team / later % trip else if kind = 2 then rank / later % trip else 0

/-- Trip counts of the temporal levels in order (R33). -/
def temporalTrips (loops : List (Nat × Nat)) : List Nat := (loops.filter fun l => l.1 = 1).map Prod.snd

/-- A continuation of a task as R34 starts it. -/
def startCont (t : Task) (id team rank die : Nat) (rec save : Word) : Cont :=
  { id := id, pc := BitVec.ofNat 48 t.hdr.entry.toNat, state := 1, prio := BitVec.ofNat 8 t.prio, save := save,
    team := BitVec.ofNat 32 team, rank := BitVec.ofNat 8 rank, grid := t.grid, taskRec := t.recVa, rtime := t.hdr.rtime,
    ppol := t.hdr.ppol, recVa := rec, task := t.seq, ctx := t.ctx, die := die, claim := t.hdr.claim,
    winLimit := t.hdr.window, sysMode := t.sys, fmt := t.hdr.fmt, fslot := 0,
    g := Vector.ofFn fun k =>
      if k.val = 1 then t.param else if k.val = 2 then toW team else if k.val = 3 then toW rank
      else if k.val = 4 then toW t.grid.toNat
      else if 5 ≤ k.val ∧ k.val ≤ 8 then toW (levelIndex t.hdr.loops team rank (k.val - 5)) else 0
    lc := Vector.ofFn fun j => BitVec.ofNat 32 ((temporalTrips t.hdr.loops).getD j.val 0)
    mx := { rings := Vector.ofFn fun k => t.hdr.rings.getD k.val 0
            cpos := Vector.ofFn fun k => BitVec.ofNat 8 (bits (t.hdr.rings.getD k.val 0).toNat 42 35) } }

/-- Address of a new continuation record (R21; log entry 22). -/
def newRecord (ctx n : Nat) : Word := toW (alignDown (Config.recordVa ctx n) 64)

/-- Address of a new save area (R27; log entry 22). -/
def newSave (ctx n : Nat) : Word := toW (alignDown (Config.saveVa ctx n) 256)

/-- An address in a die's HBM, aligned (R21, R27). -/
def inDieHbm (die x al : Nat) : Nat := die * 2 ^ 36 + alignDown x al % 2 ^ 36

/-- Creates one continuation: its record and its save area stand in the HBM of the team's die (R21, R27; R22: 0 to 1). -/
def Mach.createCont (m : Mach) (t : Task) (team rank die : Nat) (f : Cont → Cont) : Mach :=
  let n := m.freeCount
  let c := f (startCont t m.nextId team rank die (newRecord t.ctx.toNat n) (newSave t.ctx.toNat n))
  let c := { c with
    since := m.order
    recPa := inDieHbm die (Config.recordPa t.ctx.toNat n) 64
    savePa := inDieHbm die (Config.savePa t.ctx.toNat n) 256 }
  ({ m with conts := m.conts ++ [c], nextId := m.nextId + 1, freeCount := m.freeCount + 1 }).putRecord c

/-- Creates the teams and continuations of a task; they wait for residence (R28, R34). -/
def Mach.createTeams (m : Mach) (t : Task) : Mach :=
  let m := { m with teams := m.teams ++ (List.range t.teams).map fun i =>
      { task := t.seq, idx := i, die := t.place.getD i 0, size := t.size, since := m.cyc (t.place.getD i 0) } }
  (List.range t.teams).foldl (fun m i => (List.range t.size).foldl
    (fun m r => m.createCont t i r (t.place.getD i 0) id) m) m

/-! ### The end of a task's work -/

/-- Empties the matrix resources that go with the claim (R201, R180, R217). -/
def Cont.dropClaim (c : Cont) : Cont := { c with mx := {} }

/-- Stops everything of a task that is in flight: jobs, follow-ons, attention reads, sequencer runs, commands (R219, R275,
R354). -/
def Mach.stopWork (m : Mach) (q : Nat) : Mach :=
  let gone := (m.jobs.filter fun j => j.task == q).map Job.id
  { m with
    jobs := m.jobs.filter fun j => j.task ≠ q
    skein := m.skein.filter fun n => !gone.contains n
    reads := m.reads.filter fun r => match r.who with
      | .job n => !gone.contains n
      | .seq k => ((m.seq k).run.map Run.task) ≠ some q
    seqs := m.seqs.map fun p => (p.1, match p.2.run with
      | some r => if r.task = q then { p.2 with run := none, stat := toW (putBits p.2.stat.toNat 32 32 0) } else p.2
      | none => p.2)
    cur := if m.cur.task = q then { m.cur with
      vpend := [], holds := [], sig := [], answers := [], cursor := none, inTlbcnf := false, queue := [], timid := false, fmtUndo := [] } else m.cur
    conts := m.conts.map fun c => if c.task = q then { c with
      vpend := [], holds := [], sig := [], answers := [], inTlbcnf := false, queue := [], timid := false, fmtUndo := [] } else c
    drains := m.drains.filter fun d => !(m.allConts.any fun c => c.id == d.cont && c.task == q)
    prmts := m.prmts.filter fun p => !(m.allConts.any fun c => c.id == p.cont && c.task == q) }

/-- The thieves of a task's teams hear that the team has ended, one whose image is on its way too (R293, R397). -/
def Mach.recallTeams (m : Mach) (q : Nat) : Mach :=
  (m.teams.filter fun t => t.task == q).foldl (fun m t => match t.res with
    | .stolen k => m.sendTo 2 k (.endTeam q t.idx)
    | .sending k => m.sendTo 2 k (.endTeam q t.idx)
    | _ => m) m

/-- Puts every live continuation of a task into a final state and frees its contexts (R22, R41, R354). -/
def Mach.endConts (m : Mach) (q : Nat) (st : Byte) (cause : Cause) : Mach :=
  ((m.allConts.filter fun c => c.id ≠ 0 && c.task == q && decide (c.state.toNat < 6)).foldl
    (fun m c => m.recordCont { (c.dropClaim) with
      state := st, tcause := cause, resident := false, flagTrap := none, imprecise := none }) m).mapConts
    fun c => if c.id ≠ 0 ∧ c.task = q then { c with resident := false } else c

/-- Clears the receiver registrations bound to a task (R257). -/
def Mach.clearRx (m : Mach) (p : RxReg → Bool) : Mach :=
  { m with dies := m.dies.map fun d => (d.1, { d.2 with rx := d.2.rx.map fun r => if p r then { r with word := toW (r.word.toNat % 2 ^ 63) } else r }) }

/-- Gives the value of the first answer a continuation still waits for without one (R248, R254). -/
def Mach.fillAnswer (m : Mach) (id : Nat) (d : GF) (v : Word) : Mach :=
  match m.cont? id with
  | none => m
  | some c => m.setCont { c with answers := replaceFirst (fun a => a.d == d && a.value.isNone) { d := d, value := some v } c.answers }

/-- Answers every PRMT that still waits for an outcome on a task (R254). -/
def Mach.settlePrmts (m : Mach) (q : Nat) (v : Word) : Mach :=
  (m.prmts.filter fun p => p.task == q).foldl (fun m p => m.fillAnswer p.cont p.d v)
    { m with prmts := m.prmts.filter fun p => p.task ≠ q }

/-- Whether every continuation of a task has ended: a kill comes too late (R42). -/
def Mach.allEnded (m : Mach) (q : Nat) : Bool :=
  let l := m.allConts.filter fun c => c.id ≠ 0 && c.task == q
  !l.isEmpty && l.all fun c => c.state == 6

/-- The records of a task's ended continuations are released: they read as free, and the continuations are gone (R22; log
entry 49). -/
def Mach.releaseRecords (m : Mach) (q : Nat) : Mach :=
  let l := m.allConts.filter fun c => c.id ≠ 0 && c.task == q && decide (6 ≤ c.state.toNat)
  let m := l.foldl (fun (m : Mach) c => m.putRecord { c with state := 0 }) m
  { m with conts := m.conts.filter fun c => !(l.any fun x => x.id == c.id)
           cur := if l.any fun x => x.id == m.cur.id then { m.cur with id := 0 } else m.cur }

/-- A stolen team leaves this module: its contexts are free, what its origin lent is given back (R292, R397). -/
def Mach.dropGuest (m : Mach) (q : Nat) (cause : Cause) : Mach :=
  let m := ((m.endConts q 7 cause).stopWork q).releaseRecords q
  { m with
    tasks := m.tasks.filter fun t => t.seq ≠ q
    teams := m.teams.filter fun t => t.task ≠ q
    guests := m.guests.filter fun g => g.key ≠ q
    lent := m.lent.filter fun l => l.task ≠ q }

/-- Kills a task: state 7, versions freed, resubmitted with its sequence number, best-effort from now on (R41, R284);
without resubmission the task ends (R390). A task whose continuations have all ended completes instead (R42). The kill of a
stolen team is its origin's to make: its task is there (R293). -/
def Mach.kill (m : Mach) (q : Nat) (again : Bool) : Mach :=
  match m.task? q with
  | none => m
  | some t =>
    if m.allEnded q then m
    else if let some g := t.guest then
      (m.setTask { t with draining := t.draining ++ t.place }).sendTo 2 g.origin (.killed g.task g.team)
    else
      let m := ((((m.recallTeams q).settlePrmts q 0).endConts q 7 0).stopWork q).clearRx fun r => bit r.word.toNat 63 && r.task == q
      let m := m.unreserve t.cls t.resv
      let t := { t with fresh := [], leased := false, resv := [], bounded := if again then false else t.bounded, again := again,
                        began := [], draining := [], helpers := 0, cards := [], stage := if again then .ordering else .ended,
                        tstate := if again then 1 else 6, entered := !again && t.node.isSome && t.entered }
      let m : Mach := { m with teams := m.teams.filter fun x => x.task ≠ q }
      (m.setTask t).grantEntries.putTaskState t 0

/-! ### Graphs -/

/-- A graph of the executor by number. -/
def Mach.graph? (m : Mach) (n : Nat) : Option Graph := m.graphs.find? fun g => g.id == n

/-- Replaces a graph. -/
def Mach.setGraph (m : Mach) (g : Graph) : Mach := { m with graphs := m.graphs.map fun u => if u.id == g.id then g else u }

/-- The flags word of a graph descriptor (R246). -/
def Graph.flags (g : Graph) : Nat :=
  g.running.toNat + 2 * g.pend.isSome.toNat + 4 * g.pendVersion.toNat + 8 * g.areaReady.toNat

/-- Writes the executor's fields of a graph descriptor to memory (R246). -/
def Mach.putGraph (m : Mach) (g : Graph) : Mach :=
  let m := m.setGraph g
  let m := m.ctxWrite 0 g.ctx g.entry (g.desc + 12) (leBytes 4 g.flags)
  let m := m.ctxWrite 0 g.ctx g.entry (g.desc + 36) (leBytes 1 g.cur.toNat)
  m.ctxWrite 0 g.ctx g.entry (g.desc + 56) (leBytes 8 g.replays)

/-- Writes a node's RO fields to its record (R247). -/
def Mach.putNode (m : Mach) (g : Graph) (i : Nat) (n : Node) : Mach :=
  let a := g.nodesVa + toW (128 * i)
  let m := m.ctxWrite 0 g.ctx g.entry (a + 20) (leBytes 2 n.tokens ++ leBytes 1 n.st)
  let m := match m.ctxRead 0 g.ctx g.entry (a + 23) 1 with
    | some b => m.ctxWrite 0 g.ctx g.entry (a + 23) (leBytes 1 (leNat b / 16 * 16 + n.retries))
    | none => m
  m.ctxWrite 0 g.ctx g.entry (a + 32) (leBytes 2 n.ncause.toNat)

/-- Replaces a node in the executor's copy and in memory. -/
def Mach.setNode (m : Mach) (gid i : Nat) (n : Node) : Mach :=
  match m.graph? gid with
  | none => m
  | some g => (m.setGraph { g with nodes := g.nodes.set i n }).putNode g i n

/-- Whether a stop holds the sources of a context (R290). -/
def Mach.sourcesHeld (m : Mach) (ctx : BitVec 12) : Bool := decide (m.regs.stopPhase ≠ 0 ∨ m.regs.stopReq) && m.regs.stopCtx == ctx

/-- Fires a node: its task enters the dependence table at stage 4 (R38, R276). -/
def Mach.fireNode (m : Mach) (gid i : Nat) : Mach :=
  match m.graph? gid with
  | none => m
  | some g =>
    if m.sourcesHeld g.ctx || g.faulted then m
    else match g.nodes[i]? with
    | none => m
    | some n => match n.prep with
      | none => m
      | some p =>
        let first := g.bounded && n.retries == 0
        let q := if first then coreCycles p.hdr.rtime.toNat p.size p.place else []
        let held := m.tasks.any fun u : Task => u.seq == p.seq && u.entered
        let t := { p with param := g.parea.getD g.cur.toNat 0 + toW n.poff, node := some (gid, i), stage := .ordering, tstate := 1,
                          bounded := first, deadline := g.deadline, resv := q,
                          entered := first || held, grid := BitVec.ofNat 24 (m.gridCount + 1) }
        let m := m.releaseRecords t.seq
        let m := m.setGraph { g with resv := subAmounts g.resv q }
        let m : Mach := { m with
          tasks := (m.tasks.filter fun u : Task => u.seq ≠ t.seq) ++ [t]
          gridCount := m.gridCount + 1
          teams := m.teams.filter fun x : Team => x.task ≠ t.seq }
        (m.setNode gid i { n with st := 2, task := some t.seq }).grantEntries.putTaskState t 0

/-- Fires every node of a graph that waits with its tokens complete, in ascending index (R38, R387). -/
def Mach.fireReady (m : Mach) (gid : Nat) : Mach :=
  match m.graph? gid with
  | none => m
  | some g => ((List.range g.nodes.length).filter fun i => match g.nodes[i]? with
      | some n => n.st == 1 && n.tokens == n.npred
      | none => false).foldl (fun m i => m.fireNode gid i) m

/-- The nodes reached from a list along successor lists (R386). -/
def reachFrom (nodes : List Node) : Nat → List Nat → List Nat
  | 0, seen => seen
  | fuel + 1, seen =>
    let next := (seen.map fun i => (nodes[i]?.map Node.succ).getD []).flatten.filter fun j => !seen.contains j
    if next.isEmpty then seen else reachFrom nodes fuel (seen ++ next.eraseDups)

/-- The cone of a node: what its successor lists reach, the node excluded (R386). -/
def coneOf (nodes : List Node) (i : Nat) : List Nat :=
  (reachFrom nodes nodes.length ((nodes[i]?.map Node.succ).getD []).eraseDups).filter fun j => j ≠ i

/-- Ends a replay once every node is in nstate 3, 4 or 5: flag, count, completion word, log entries (R391). -/
def Mach.replayEnd (m : Mach) (gid : Nat) : Mach :=
  match m.graph? gid with
  | none => m
  | some g =>
    if !g.running || !(g.nodes.all fun n => n.st == 3 || n.st == 4 || n.st == 5) then m
    else
      let bad := (List.range g.nodes.length).find? fun i => match g.nodes[i]? with
        | some n => n.st == 5
        | none => false
      let v := if g.nodes.all fun n => n.st == 3 then g.cval
        else match bad with
          | some i => toW (2 ^ 63 + i * 2 ^ 16 + ((g.nodes[i]?.map fun n => n.ncause.toNat).getD 0))
          | none => toW (2 ^ 63)
      let m := m.unreserve g.cls g.resv
      let m : Mach := { m with tasks := m.tasks.map fun (t : Task) => if (Task.node t).map Prod.fst = some gid then { t with entered := false } else t }
      let m := (m.putGraph { g with running := false, replays := g.replays + 1, faulted := false, resv := [], entries := 0 }).grantEntries
      let m := { m with mem := (List.range 64).foldl (fun x e => x.catchUp 0 (m.mem.stampOf e)) m.mem }
      let m := if g.cword = 0 then m else m.ctxWrite 0 g.ctx g.entry g.cword (leBytes 8 v.toNat)
      (g.nodes.filter fun n => n.st == 5 && decide (1 ≤ n.rlim) && n.retries == n.rlim).foldl
        (fun m _ => m.logError { cause := 0x5004 } { ctx := g.ctx.toNat, ld := m.ldOf g.ctx.toNat }) m

/-- A graph fault: firing stops, nodes in flight are killed, the receiver fails, the rest is cancelled (R390). A node whose
task's continuations have all ended completes instead (R42). -/
def Mach.graphFault (m : Mach) (gid i : Nat) : Mach :=
  match m.graph? gid with
  | none => m
  | some g =>
    let m := m.setGraph { g with faulted := true }
    let late := g.nodes.filterMap fun n => if n.st == 2 then n.task.bind fun q => if m.allEnded q then some q else none else none
    let m := (g.nodes.filterMap fun n => if n.st == 2 then n.task else none).foldl (fun m q => m.kill q false) m
    let m := (List.range g.nodes.length).foldl (fun m j => match g.nodes[j]? with
      | none => m
      | some n =>
        if j = i then m.setNode gid j { n with st := 5, ncause := 0x5002 }
        else if n.st == 3 || (n.st == 2 && n.task.any late.contains) then m
        else m.setNode gid j { n with st := 4, ncause := 0x5003 }) m
    m.replayEnd gid

/-- One token reaches a node (R38, R250, R387); GTOK's token to a cancelled node is a graph fault too. -/
def Mach.putToken (m : Mach) (gid i : Nat) (software : Bool) : Mach :=
  match m.graph? gid with
  | none => m
  | some g => match g.nodes[i]? with
    | none => m.graphFault gid i
    | some n =>
      if (n.st == 1 || (n.st == 4 && !software)) && decide (n.tokens < n.npred) then m.setNode gid i { n with tokens := n.tokens + 1 }
      else m.graphFault gid i

/-- One token reaches a node; it fires once its tokens are complete (R38, R250). -/
def Mach.addToken (m : Mach) (gid i : Nat) (software : Bool) : Mach := (m.putToken gid i software).fireReady gid

/-- A node's task has completed: nstate 3, one token to each successor; then the nodes this makes ready enter in ascending
index, or the replay ends (R38, R391). -/
def Mach.nodeDone (m : Mach) (gid i : Nat) : Mach :=
  match m.graph? gid with
  | none => m
  | some g => match g.nodes[i]? with
    | none => m
    | some n =>
      let m := m.setNode gid i { n with st := 3 }
      (n.succ.foldl (fun m j => match m.graph? gid with
        | some h => if h.faulted || !h.running then m else m.putToken gid j false
        | none => m) m).fireReady gid |>.replayEnd gid

/-- Whether a failure is retried (R386): not of class 1, 2 or 0xF, not a lease violation, retries left. -/
def retryable (cause : Cause) (n : Node) : Bool :=
  decide (cause.toNat / 4096 ≠ 1 ∧ cause.toNat / 4096 ≠ 2 ∧ cause.toNat / 4096 ≠ 15 ∧ cause ≠ 0x3005 ∧ n.retries < n.rlim)

/-- A node's task has ended by a fault: the cone is cancelled, a retry is decided, cone nodes return (R386 to R388). -/
def Mach.nodeFailed (m : Mach) (gid i : Nat) (cause : Cause) (mayRetry : Bool) : Mach :=
  match m.graph? gid with
  | none => m
  | some g => match g.nodes[i]? with
    | none => m
    | some n =>
      let m := m.setNode gid i { n with st := 5, ncause := cause }
      let cone := coneOf g.nodes i
      if g.faulted then m.replayEnd gid
      else if cone.any fun j => match g.nodes[j]? with
          | some x => x.st == 2 || x.st == 3
          | none => false then m.graphFault gid i
      else
        let m := cone.foldl (fun m j => match (m.graph? gid).bind fun g => g.nodes[j]? with
          | some x => if x.st == 1 then m.setNode gid j { x with st := 4, ncause := 0x5003 } else m
          | none => m) m
        if mayRetry && retryable cause n then
          let m := m.setNode gid i { n with
            st := 2, ncause := cause, retries := n.retries + 1
            prep := n.prep.map fun (p : Task) => match n.task.bind m.task? with
              | some t => { p with seen := t.seen, again := true }
              | none => p }
          let others := match m.graph? gid with
            | some h => (List.range h.nodes.length).filter fun j => j ≠ i && (match h.nodes[j]? with
              | some x => x.st == 5
              | none => false)
            | none => []
          let m := cone.foldl (fun m j => match (m.graph? gid).bind fun g => g.nodes[j]? with
            | some x =>
              if x.st == 4 && !(others.any fun o => (coneOf g.nodes o).contains j) then
                m.setNode gid j { x with st := 1, ncause := 0 } else m
            | none => m) m
          (m.fireNode gid i).fireReady gid
        else if m.sourcesHeld g.ctx then m
        else m.replayEnd gid

/-! ### Tasks that end by a fault -/

/-- What a report names beside the task: where it was raised (R352, R357). -/
structure Report where
  trap : Trap
  pc : BitVec 48 := 0
  fslot : BitVec 3 := 7
  imp : Bool := false
  eng : Bool := false
  sys : Bool := false
  insn : Word := 0
  die : Nat := 0
  core : Nat := 0
  severity : Nat := 2
  /-- The rank of the member that raised it (R293). -/
  rank : Nat := 0
  deriving DecidableEq, Repr

/-- The trap record of a report (R352). -/
def Report.record (r : Report) : List Byte := trapRecord r.trap r.pc r.fslot r.imp r.sys r.eng r.insn

/-- Ends a task by a fault, in the order of R354: continuations, work in flight, versions, leases and reservation, record,
completion word, log entry; a graph node's failure follows step 2 (R386). A stolen team's fault is its origin's to report
(R293). -/
def Mach.endTask (m : Mach) (q : Nat) (r : Report) : Mach :=
  match m.task? q with
  | none => m
  | some t =>
    if t.stage == .ended then m
    else if let some g := t.guest then
      (m.sendTo 2 g.origin (.fault g.task g.team r.rank r.trap.cause r.record r.imp r.eng)).dropGuest q r.trap.cause
    else
      let m := ((((m.recallTeams q).settlePrmts q 0).endConts q 7 r.trap.cause).stopWork q).clearRx fun x => bit x.word.toNat 63 && x.task == q
      let m := m.unreserve t.cls t.resv
      let t : Task := { t with fresh := [], leased := false, resv := [], stage := .ended, tstate := 4, entered := t.node.isSome && t.entered }
      let m := { m with teams := m.teams.map fun (x : Team) => if x.task = q then { x with res := .ended } else x }
      let m := (m.setTask t).grantEntries.putTaskState t r.trap.cause
      let d := t.place.headD 0
      let m := { m with mem := t.place.foldl (fun x e => x.catchUp d (m.mem.stampOf e)) m.mem }
      let m := if t.cword = 0 then m
        else m.ctxWrite d t.ctx t.entry t.cword (leBytes 8 ((2 : Nat) ^ 63 + q % 2 ^ 32 * 2 ^ 16 + r.trap.cause.toNat))
      let m := m.logError r.trap {
        severity := r.severity, fslot := r.fslot, imp := r.imp, eng := r.eng, die := r.die,
        core := r.core, ctx := t.ctx.toNat, seq := q, pc := r.pc.toNat, ld := m.ldOf t.ctx.toNat }
      match t.node with
      | some (gid, i) => m.nodeFailed gid i r.trap.cause (!(m.sourcesHeld t.ctx))
      | none => m

end Sys2Proof.Machine
end

