-- ==== Sys2Proof/Machine/Ops.lean ====
section
/-! DEFINITION. The named operations the meanings are written over: actions that may trap or wait, registers, streams,
windows and virtual memory of a continuation, the end of a bundle, taking an exception (R350 to R353) and the return from
one (R258). -/

namespace Sys2Proof.Machine

/-- Why an instruction does not complete: a precise report, a wait, or an imprecise failure met at a report point. -/
inductive Stop where
  | trap (t : Trap)
  /-- A translation fault of XLT or XLTP, which leaves its tx register invalid (R167). -/
  | trapTx (t : Trap) (n : Nat)
  | wait
  /-- It waits with every check that can raise a precise fault passed (R350). -/
  | park
  | late (i : Imprecise)
  deriving DecidableEq, Repr

/-- An action of the issuing continuation. -/
abbrev Act := StateT Mach (Except Stop)

/-- Raises a cause (R349). -/
def raise {α : Type} (c : Cause) (faddr : Word := 0) (info : Word := 0) : Act α :=
  fun _ => .error (.trap { cause := c, faddr := faddr, info := info })

/-- Raises a trap. -/
def raiseT {α : Type} (t : Trap) : Act α := fun _ => .error (.trap t)

/-- Waits: the instruction stays in its queue (R128). -/
def await {α : Type} : Act α := fun _ => .error .wait

/-- Raises a cause where a condition holds. -/
def raiseIf (b : Bool) (c : Cause) (faddr : Word := 0) : Act Unit := if b then raise c faddr else pure ()

/-- Waits while a condition holds. -/
def awaitIf (b : Bool) : Act Unit := if b then await else pure ()

/-- Waits while a condition holds, every check passed (R350). -/
def parkIf (b : Bool) : Act Unit := if b then fun _ => .error .park else pure ()

/-- The issuing continuation. -/
def getC : Act Cont := fun m => .ok (m.cur, m)

/-- Changes the issuing continuation. -/
def modC (f : Cont → Cont) : Act Unit := fun m => .ok ((), { m with cur := f m.cur })

/-- The machine. -/
def getM : Act Mach := fun m => .ok (m, m)

/-- Changes the machine. -/
def modM (f : Mach → Mach) : Act Unit := fun m => .ok ((), f m)

/-- Takes the number of a fresh free value. -/
def fresh : Act Nat := fun m => .ok (m.freeCount, { m with freeCount := m.freeCount + 1 })

/-! ### The bundle in progress -/

/-- The slot whose instruction is being executed, by number; the class's own slot where no bundle is in progress. -/
def Cont.slotNow (c : Cont) (dflt : Slot) : Nat :=
  match c.cursor with
  | some k => (k.slots.head?.map Fin.val).getD dflt.num
  | none => dflt.num

/-- The word of the instruction in hand. -/
def Cont.insnNow (c : Cont) : Word :=
  match c.cursor with
  | some k => k.insn
  | none => 0

/-- A predicate register; p0 reads as true (R122). -/
def Cont.pred (c : Cont) (k : Nat) : Bool := decide (k = 0) || c.p.getLsbD k

/-- Writes a predicate register; a write of p0 is discarded (R122). -/
def Cont.setPred (c : Cont) (k : Nat) (b : Bool) : Cont :=
  if k = 0 then c else { c with p := if b then c.p ||| ((1 : BitVec 8) <<< k) else c.p &&& ~~~((1 : BitVec 8) <<< k) }

/-- Whether an instruction with this guard executes (R130). -/
def Cont.runs (c : Cont) (g : Guard) : Bool := c.pred g.p.toNat != g.inv

/-- Numbers of the bundle and of the group of the instruction in hand. -/
def Cont.bundleNow (c : Cont) : Nat :=
  match c.cursor with
  | some k => k.bundle
  | none => c.bundles

def Cont.groupNow (c : Cont) : Nat :=
  match c.cursor with
  | some k => k.group
  | none => c.groups

/-- VL as a vector command takes it: a VSETL of its own group does not count (R127, R200). -/
def Cont.vlNow (c : Cont) : BitVec 16 := if c.vlGroup = c.groupNow then c.groupVl else c.vl

/-- VSETL writes VL (R127). -/
def Cont.setVl (c : Cont) (v : BitVec 16) : Cont := { c with groupVl := c.vlNow, vlGroup := c.groupNow, vl := v }

/-- Sends execution of the issuing continuation to another bundle after this one (R127, R148). -/
def Cont.jump (c : Cont) (pc : BitVec 48) : Cont :=
  { c with cursor := c.cursor.map fun k => { k with next := pc, jumped := true } }

/-- The bundle after the one in progress. -/
def Cont.nextPc (c : Cont) : BitVec 48 :=
  match c.cursor with
  | some k => k.next
  | none => c.pc

/-! ### Picking -/

/-- Makes another continuation the issuing one. -/
def Mach.switchTo (m : Mach) (id : Nat) : Mach :=
  if m.cur.id = id then m
  else match m.conts.find? fun c => c.id == id with
    | none => m
    | some c => { m with cur := c, conts := (if m.cur.id = 0 then [] else [m.cur]) ++ m.conts.filter fun u => u.id ≠ id }

/-- Whether a continuation's task is of a bounded class. -/
def Mach.isBounded (m : Mach) (c : Cont) : Bool := (m.task? c.task).any Task.bounded

/-- Whether the picker takes one runnable continuation before another: higher priority, then a bounded class, then longest
since it last issued, then lower seq and team index (R24, R277; log entry 64). -/
def Mach.pickedFirst (m : Mach) (a b : Cont) : Bool :=
  if min a.prio.toNat 7 ≠ min b.prio.toNat 7 then decide (min b.prio.toNat 7 < min a.prio.toNat 7)
  else if m.isBounded a ≠ m.isBounded b then m.isBounded a
  else if a.since ≠ b.since then decide (a.since < b.since)
  else if a.task ≠ b.task then decide (a.task < b.task)
  else decide (a.team.toNat < b.team.toNat)

/-- The runnable continuation a core's picker takes (R24). -/
def Mach.pickOf (m : Mach) (gcore : Nat) : Option Cont :=
  (m.allConts.filter fun c => c.id ≠ 0 && c.resident && c.gcore == gcore && c.state == 1).foldl (fun best c =>
    match best with
    | none => some c
    | some b => if m.pickedFirst c b then some c else some b) none

/-- Whether a core has a running continuation. -/
def Mach.coreBusy (m : Mach) (gcore : Nat) : Bool :=
  m.allConts.any fun c => c.id ≠ 0 && c.resident && c.gcore == gcore && c.state == 2

/-- A core's picker loads a continuation (R22: 1 to 2, R24). -/
def Mach.pick (m : Mach) (gcore : Nat) : Mach :=
  if m.coreBusy gcore then m
  else match m.pickOf gcore with
    | none => m
    | some c =>
      let m := m.recordCont { c with state := 2 }
      if m.cur.id = 0 ∨ m.cur.state ≠ 2 then m.switchTo c.id else m

/-- Whether a register of a context is poisoned (R382). -/
def Cont.poisoned (c : Cont) : Bool := c.gPoison.toList.any Option.isSome

/-- The failure of a context that is released while a register of it is poisoned: the granule of the lowest such register
(R352, R382; log entry 39). -/
def Cont.poisonTrap (c : Cont) : Trap := { cause := 0x3006, info := (c.gPoison.toList.findSome? fun x => x).getD 0 }

/-- The report of a failure at a continuation. -/
def Cont.report (c : Cont) (t : Trap) (fslot : Nat) (insn : Word) : Report :=
  { trap := t, pc := c.pc, fslot := BitVec.ofNat 3 fslot, sys := c.sysMode, insn := insn, die := c.die, core := c.core }

/-- A report that ends the task: trap record, then R354; the core picks again. A Stage 0 run ends with its cause in FWSTAT
(R306). -/
def Mach.reportEnd (m : Mach) (c : Cont) (r : Report) : Mach :=
  if c.stage0 then
    { (m.setCont { c with state := 7, tcause := r.trap.cause, cursor := none, resident := false }) with
      regs := { m.regs with fwstat := toW (putBits m.regs.fwstat.toNat 31 16 r.trap.cause.toNat) } }
  else
    let m := m.setCont { c with fslot := r.fslot, cursor := none }
    let m := m.putTrapRecord c (trapRecord r.trap r.pc r.fslot r.imp r.sys r.eng r.insn)
    (m.endTask c.task { r with rank := c.rank.toNat }).pick c.gcore

/-- A continuation has left state 2 with its bundle: its record is written and the core picks again (R153, R24); a poisoned
register ends the task (R382). -/
def Mach.suspended (m : Mach) : Mach :=
  let c := m.cur
  let m := { (m.recordCont { c with since := m.order }) with order := m.order + 1 }
  if c.poisoned && c.state ≠ 6 then m.reportEnd m.cur (m.cur.report m.cur.poisonTrap 7 0)
  else m.pick c.gcore

/-! ### Barriers (R29) -/

/-- Members of a team that have not ended. -/
def Mach.liveMembers (m : Mach) (task idx : Nat) : List Cont :=
  m.allConts.filter fun c => c.id ≠ 0 && c.task == task && c.team.toNat == idx && decide (c.state.toNat < 6)

/-- Completes a barrier where every live member has arrived: waiting members become runnable (R22, R29). -/
def Mach.barrierCheck (m : Mach) (task idx id : Nat) : Mach :=
  match m.team? task idx with
  | none => m
  | some t =>
    let arr := vget t.arrived id 0
    let live := m.liveMembers task idx
    if arr ≠ 0 ∧ live.all (fun c => arr.getLsbD c.rank.toNat) then
      let m := m.setTeam { t with arrived := vset t.arrived id 0 }
      live.foldl (fun m c => if c.state = 5 ∧ c.barr = some (BitVec.ofNat 3 id) then m.recordCont { c with state := 1, barr := none } else m) m
    else m

/-! ### The end of an instruction -/

/-- The slot queues once the instruction in hand has left: an entry that leaves late is gone, and the others may be tried
again. -/
def Cont.leftQueue (c : Cont) : List QEntry :=
  (match c.cursor.bind Cursor.back with
    | some e => c.queue.filter fun (x : QEntry) => !(x.same e)
    | none => c.queue).map fun (x : QEntry) => { x with tried := false }

/-- The bundle has ended: the next bundle, the group rule's state, a flag trap to come, a suspension (R125, R127, R153,
R370); a cycle has passed (R5; log entry 9). -/
def Mach.endBundle (m : Mach) : Mach :=
  let c := m.cur
  match c.cursor with
  | none => m
  | some k =>
    let last := k.stop || k.jumped
    let c' := { c with
      pc := k.next
      cursor := none
      flagTrap := if k.back.isSome then c.flagTrap else k.trapSlot
      groupLen := if last then 0 else c.groupLen
      groupWrites := if last then [] else c.groupWrites
      groups := if last then c.groups + 1 else c.groups
      queue := c.leftQueue
      timid := false
      fmtUndo := if c.leftQueue.isEmpty then [] else c.fmtUndo
      holds := c.holds.map fun h => { h with live := true } }
    let m := { (m.tickDie c.die 1) with cur := c', stalled := false }
    if c.state = 6 ∧ k.trapSlot.isSome then
      m.reportEnd c' { (c.report { cause := 0x1009 } ((k.trapSlot.map BitVec.toNat).getD 0) 0) with imp := true }
    else if c.state ≠ 2 then
      (if c.stage0 && c.state == 6 then { m with cur := { c' with resident := false }, regs := { m.regs with scrun := m.regs.scrun ||| (1 <<< 63) } }
       else m).suspended
    else m

/-- The instruction at the cursor is done: the next slot of the bundle, or the end of the bundle. -/
def State.advance (s : State) : State :=
  match s.m.cur.cursor with
  | none => s
  | some k => match k.slots with
    | [] => { s with m := s.m.endBundle, snap := none }
    | x :: rest =>
      let m := { s.m with cur := { s.m.cur with
        cursor := some { k with slots := rest, addr := k.addr + BitVec.ofNat 48 (Slot.of x.val).bytes } } }
      if rest.isEmpty then { s with m := m.endBundle, snap := none } else { s with m := m }

/-- The bundle does not go on: the machine stands as it did before the bundle, and something else moves (log entry 3). -/
def State.haltBundle (s : State) : State :=
  let m := s.snap.getD s.m
  { s with m := { m with stalled := true, cur := { m.cur with timid := false } }, snap := none }

/-- Whether TRAPEN enables some event of R369: no instruction is then left behind in its queue (R370; log entry 3). -/
def Cont.traps (c : Cont) : Bool := decide (c.trapen.toNat % 2 ^ 7 ≠ 0)

/-- The instruction in hand as an entry of its slot's queue. -/
def Cont.entryNow (c : Cont) (checked : Bool) : Option QEntry :=
  match c.cursor with
  | some k => match k.slots, k.instr with
    | x :: _, some i => some { slot := x, instr := i, insn := k.insn, pc := c.pc, bundle := k.bundle, group := k.group
                               sync := k.sync, checked := checked }
    | _, _ => none
  | none => none

/-- The instruction in hand stays in its slot's queue, and the next slot's goes on (R128). -/
def State.enqueue (s : State) (checked : Bool) : State :=
  match s.m.cur.entryNow checked with
  | some e => if s.m.cur.traps then s.haltBundle
      else State.advance { s with m := { s.m with cur := { s.m.cur with queue := s.m.cur.queue ++ [e] } } }
  | none => s.haltBundle

/-- An entry that was tried stays in its queue; `checked`: it has passed its checks (R350). -/
def State.giveUp (s : State) (e : QEntry) (checked : Bool) : State :=
  let m := s.snap.getD s.m
  let q := m.cur.queue.map fun (x : QEntry) => if x.same e then { x with tried := true, checked := x.checked || checked } else x
  { s with m := { m with cur := { m.cur with queue := q } }, snap := none }

/-- An instruction waits that may still fault: its bundle stands as it did before it began, and is placed whole in its queues,
from which each instruction leaves when it may; an entry of a queue stays there (R128, R350; log entry 3). -/
def State.stallBundle (s : State) : State :=
  match s.m.cur.cursor.bind Cursor.back with
  | some e => s.giveUp e false
  | none =>
    if s.m.cur.timid then s.enqueue false
    else if s.m.cur.traps || (s.m.cur.entryNow false).isNone then s.haltBundle
    else
      let m := s.snap.getD s.m
      { s with m := { m with cur := { m.cur with timid := true } }, snap := none }

/-- An instruction waits with its checks passed: it stays in its queue (R128, R350). -/
def State.passed (s : State) : State :=
  match s.m.cur.cursor.bind Cursor.back with
  | some e => s.giveUp e true
  | none => s.enqueue true

/-! ### Taking an exception and returning from one -/

/-- Whether a precise report of a cause goes to a handler (R353). -/
def handled (t : Trap) : Bool :=
  let k := t.cause.toNat / 4096
  decide (k = 1 ∨ k = 2 ∨ k = 15) ||
    (decide (k = 3) && t.cause ≠ 0x3005 && t.cause ≠ 0x3007 && !(t.cause == 0x3006 && t.walk))

/-- The continuation at the entry of its handler: TSAVE keeps the mode, system mode, g22 the save pointer, pc TVEC
(R353). -/
def Cont.enterHandler (c : Cont) (cause : Cause) (fslot : Nat) : Cont :=
  { c with
    tcause := cause
    fslot := BitVec.ofNat 3 fslot
    tsave := c.sysMode
    sysMode := true
    g := vset c.g 22 c.save
    gPoison := vset c.gPoison 22 none
    pc := c.tvec.setWidth 48
    cursor := none
    flagTrap := none
    groupLen := 0
    groupWrites := []
    groups := c.groups + 1
    queue := []
    timid := false
    fmtUndo := [] }

/-- A pending imprecise failure is reported: the task ends (R351). -/
def Mach.reportLate (m : Mach) (i : Imprecise) : Mach :=
  m.reportEnd m.cur { trap := i.trap, pc := i.pc, fslot := i.slot, imp := true, eng := i.eng, sys := m.cur.sysMode
                      insn := i.insn, die := m.cur.die, core := m.cur.core }

/-- A precise report at the bundle in hand, on the machine as it stood at the bundle's start: a pending imprecise failure
comes first; then the handler, or the end of the task (R350 to R353, R382). -/
def Mach.report (m : Mach) (t : Trap) (fslot : Nat) (insn : Word) : Mach :=
  let c := m.cur
  match c.imprecise with
  | some i => m.reportLate i
  | none =>
    let r := c.report t fslot insn
    if c.tvec ≠ 0 ∧ !c.sysMode ∧ handled t ∧ !c.stage0 then
      if c.poisoned then m.reportEnd c { r with trap := if t.cause = 0x3006 then t else c.poisonTrap }
      else
        let m := m.saveRegs c
        let m := m.putTrapRecord c (trapRecord t c.pc (BitVec.ofNat 3 fslot) false false false insn)
        let m := m.recordCont (c.enterHandler t.cause fslot)
        m.logError t { severity := 1, fslot := BitVec.ofNat 3 fslot, die := c.die, core := c.core, ctx := c.ctx.toNat,
                       seq := c.task, pc := c.pc.toNat, ld := m.ldOf c.ctx.toNat }
    else m.reportEnd c r

/-- Whether a report may be made at an entry: every older bundle has left its queues, and no instruction that stands before it
in its own can still fault (R350). -/
def Cont.mayReport (c : Cont) (e : QEntry) : Bool :=
  c.queue.all fun x => decide (e.bundle < x.bundle) || (x.bundle == e.bundle && (x.checked || decide (e.slot ≤ x.slot)))

/-- The continuation at the start of an entry's bundle: what stands in its queues is discarded, and fmt is as it was (R350). -/
def Cont.backAt (c : Cont) (e : QEntry) : Cont :=
  let c := match c.fmtUndo.find? fun u => decide (e.bundle ≤ u.bundle) with
    | some u => { c with fmt := u.fmt, fmtOld := u.old }
    | none => c
  { c with pc := e.pc, cursor := none, queue := [], timid := false, fmtUndo := [] }

/-- The machine at the bundle that an instruction in hand reports, every earlier command complete: `none` while an older
instruction has not left its queue (R350, R200). -/
def State.reported (s : State) : Option Mach :=
  let m := s.snap.getD s.m
  match s.m.cur.cursor.bind Cursor.back with
  | some e => if m.cur.mayReport e then some ({ m with cur := m.cur.backAt e }.performed m.cur.id) else none
  | none => if m.cur.queue.isEmpty && !m.cur.timid then some (m.performed m.cur.id) else none

/-- No report can be made yet. -/
def State.holdReport (s : State) : State :=
  match s.m.cur.cursor.bind Cursor.back with
  | some e => s.giveUp e false
  | none => s.haltBundle

/-- Takes an exception: every effect of the bundle is undone, then the report (R350, R353). -/
def State.takeTrap (s : State) (t : Trap) (fslot : Nat) (insn : Word) : State :=
  match s.reported with
  | some m => { s with m := { (m.report t fslot insn) with stalled := false }, snap := none }
  | none => s.holdReport

/-- A continuation with a tx register invalid. -/
def Cont.dropTx (c : Cont) (n : Nat) : Cont := { c with tx := vset c.tx n {} }

/-- Takes the exception of a failed XLT: the tx register stays invalid in the registers the report saves (R167). -/
def State.takeTxTrap (s : State) (t : Trap) (n fslot : Nat) (insn : Word) : State :=
  match s.reported with
  | some m => { s with m := { ({ m with cur := m.cur.dropTx n }.report t fslot insn) with stalled := false }, snap := none }
  | none => s.holdReport

/-- A late failure at a report point: as an exception, but it ends the task (R351). -/
def State.takeLate (s : State) (i : Imprecise) : State :=
  match s.reported with
  | some m => { s with m := { (m.reportLate i) with stalled := false }, snap := none }
  | none => s.holdReport

/-- Returns from a handler: mode from TSAVE, tcause and fslot cleared, on at the target (R258). -/
def returnFrom (target : BitVec 48) : Act Unit := fun m =>
  let c := { m.cur with sysMode := m.cur.tsave, tcause := 0, fslot := 0 }
  .ok ((), ({ m with cur := c.jump target }).putRecord c)

/-! ### Waking -/

/-- Whether a wait condition holds of a word's low half (R23, R151). -/
def waitHolds (cond : BitVec 3) (v wval : W32) : Bool :=
  if cond = 0 then v == wval else if cond = 1 then v != wval else if cond = 2 then decide (wval.toNat ≤ v.toNat)
  else if cond = 3 then decide (v.toNat < wval.toNat) else v != wval

/-- The word a waiting continuation watches (R151): its window, or virtual memory as its die sees it. -/
def Mach.watched (m : Mach) (c : Cont) : Option W32 :=
  if c.waddr.getLsbD 63 && decide (c.waddr.toNat < 2 ^ 63 + 2 ^ 23) then
    some (BitVec.ofNat 32 (leNat (m.winRead c (c.waddr.toNat % 2 ^ 23) 4)))
  else match m.task? c.task with
    | none => none
    | some t => match m.resolveTask c.die (c.leases t) c.waddr 8 .read with
      | .ok ps => some (BitVec.ofNat 32 (leNat ((m.mem.readParts c.die ps).take 4)))
      | _ => none

/-- Wakes every waiting continuation whose condition now holds (R22, R23). The word is read in its die's view, or at its home in
a scratchpad, which hold whatever the write they show follows (R93): so the wake-up acquires (R90). A waiter that another
module has stolen is woken there, after a release at pod scope (R294). -/
def Mach.wake (m : Mach) : Mach :=
  m.allConts.foldl (fun m c =>
    if c.id ≠ 0 ∧ c.state = 3 then
      match m.watched c with
      | some v =>
        if waitHolds c.wcond v c.wval then
          let m := (m.recordCont { c with state := 1, past := m.mem.stampOf c.die }).pick c.gcore
          match m.thiefOf c.task c.team.toNat with
          | some k => ({ m with mem := m.mem.spread c.die } : Mach).sendTo 2 k (.wake c.task c.team.toNat c.rank.toNat)
          | none => m
        else m
      | none => m
    else m) m

/-- Lets every core without a running continuation pick one. -/
def Mach.pickAll (m : Mach) : Mach :=
  ((m.allConts.filter fun c => c.id ≠ 0 && c.resident && c.state == 1).map Cont.gcore).foldl (fun m k => m.pick k) m

/-! ### Registers -/

/-- Whether a g register still waits to be written from outside (R128, R248). -/
def Cont.awaits (c : Cont) (f : GF) : Bool :=
  (c.answers.any fun a => a.d == f) || c.tx.toList.any fun x => match x.pend with
    | some p => p.dest == some f
    | none => false

/-- The address of a stream's next element (R65), modulo 2^64. -/
def StreamRec.addr (s : StreamRec) : Int :=
  let f := (List.range 4).foldl (fun (acc : Int × Int × Bool) d =>
    let t := (vget s.idx d 0).toNat * sext 32 (vget s.strides d 0).toNat
    if s.wrap.getLsbD d then (acc.1 + t, acc.2.1, true) else (acc.1, acc.2.1 + t, acc.2.2)) ((s.phase.toNat : Int), (0 : Int), false)
  if f.2.2 then (s.base.toNat : Int) + f.1 % (s.wlen.toNat : Int) + f.2.1 else (s.base.toNat : Int) + f.2.1

/-- The indices of the next element: a mixed-radix counter (R65). -/
def StreamRec.stepIdx (s : StreamRec) : StreamRec :=
  let r := (List.range 4).foldl (fun (acc : Vector (BitVec 16) 4 × Bool) d =>
    if acc.2 && decide (d < s.dims.toNat) then
      let n := (vget acc.1 d 0).toNat + 1
      if n ≥ (vget s.counts d 0).toNat then (vset acc.1 d 0, true) else (vset acc.1 d (BitVec.ofNat 16 n), false)
    else acc) (s.idx, true)
  { s with idx := r.1, remaining := s.remaining - 1 }

/-- Translation for an A-slot access or a stream element: a tx register whose page holds the address serves first, one that
is pending makes it wait; the permission it lacks is a broken lease inside the leases (R72, R158, R167, R375). -/
def Mach.xlateCont (m : Mach) (c : Cont) (t : Task) (va : Word) (need : Acc3) : Xl :=
  let hit := c.tx.toList.find? fun x =>
    let len := pageLen (match x.pend with
      | some p => p.size.toNat
      | none => bits x.word.toNat 61 60)
    (x.word.getLsbD 63 || x.pend.isSome) && decide (bits x.word.toNat 61 60 ≠ 3) && decide (x.va.toNat / len = va.toNat / len)
  if t.guest.isSome || t.entry.inHeap va then m.xlateTask c.die t va need
  else match hit with
    | some x =>
      if x.pend.isSome then .wait
      else
        let len := pageLen (bits x.word.toNat 61 60)
        if (need = .write ∧ !(x.word.getLsbD 62)) ∨ (need = .read ∧ !x.rd) then
          .fail (if (t.outside (need == .write) va.toNat 1).isNone then 0x3007 else 0x3003) 0
        else match renamed (t.fresh ++ t.seen) va.toNat with
          | some p => .ok p (x.word.getLsbD 62) 0
          | none =>
            let pa := alignDown (bits x.word.toNat 51 0) len + va.toNat % len
            match m.paFault pa with
            | some f => .fail f 0
            | none => .ok pa (x.word.getLsbD 62) 0
    | none => m.xlateTask c.die t va need

/-- Resolves a virtual access of the issuing continuation (R158, R358). -/
def Mach.resolveCont (m : Mach) (va : Word) (n : Nat) (need : Acc3) : Resolved :=
  match m.task? m.cur.task with
  | none => .fail { cause := 0x3002, faddr := va }
  | some t =>
    let t := m.cur.leases t
    if !canonical va || !canonical (va + toW (n - 1)) then .fail { cause := 0x3001, faddr := va }
    else match resolveWith (m.paCheck t) (fun a => m.xlateCont m.cur t a need) (parts va.toNat n) with
      | .ok l => match t.outside (need == .write) va.toNat n with
        | some a => .fail { cause := 0x3005, faddr := toW a }
        | none => .ok l
      | x => x

/-- The live load-block that holds a byte: of two that hold one line, which the spec does not exclude, the one of lower id
(R68; log entry 66). -/
def Cont.blockOf (c : Cont) (va : Nat) : Option (Nat × LoadBlock) :=
  (List.range 8).findSome? fun k => match vget c.blocks k none with
    | some b => if b.va.toNat ≤ va ∧ va < b.va.toNat + b.data.length then some (k, b) else none
    | none => none

/-- Whether a live block holds some byte of a range. -/
def Cont.touchesBlock (c : Cont) (va n : Nat) : Bool := (rangeFrom va n).any fun a => (c.blockOf a).isSome

/-- A weak read of virtual memory: bytes, and a marked granule if one was read (R159, R68, R381). -/
def readV (va : Word) (n : Nat) : Act (List Byte × Option Nat) := fun m =>
  match m.resolveCont va n .read with
  | .wait => .error .wait
  | .fail t => .error (.trap t)
  | .ok ps =>
    let d := m.cur.die
    let m := { m with mem := m.mem.observe d ps }
    let raw := m.mem.readParts d ps
    if !(m.cur.touchesBlock va.toNat n) then .ok ((raw, m.mem.markParts d ps), m)
    else if (rangeFrom va.toNat n).any fun a => match m.cur.blockOf a with
        | some (_, b) => !b.filled
        | none => false then .error .wait
    else
      let out := ((rangeFrom va.toNat n).zip raw).map fun p => match m.cur.blockOf p.1 with
        | some (_, b) => b.data.getD (p.1 - b.va.toNat) 0
        | none => p.2
      let mark := ((rangeFrom va.toNat n).zip (ps.map fun q => rangeFrom q.1 q.2).flatten).findSome? fun p =>
        match m.cur.blockOf p.1 with
        | some (_, b) =>
          let k := (p.1 - b.va.toNat) / 64
          if b.poison.getD k false then some (b.pas.getD k 0) else none
        | none => if m.mem.marked d p.2 then some (p.2 / 64 * 64) else none
      .ok ((out, mark), m)

/-- Holds an imprecise failure for its report point; the first one stays (R351, R352). -/
def Cont.holdLate (c : Cont) (i : Imprecise) : Cont :=
  { c with imprecise := match c.imprecise with
    | some x => some x
    | none => some i }

/-- A weak write of virtual memory by the issuing continuation: range faults are precise, a translation, permission or
access fault is held for a report point; bytes of a live block go to the block (R158, R376, R68). -/
def writeV (insn : Word) (slot : Nat) (va : Word) (bytes : List Byte) : Act Unit := fun m =>
  match m.resolveCont va bytes.length .write with
  | .wait => .error .wait
  | .fail t =>
    if t.cause = 0x3001 ∨ t.cause = 0x3005 then .error (.trap t)
    else .ok ((), { m with cur := m.cur.holdLate { trap := t, pc := m.cur.pc, insn := insn, slot := BitVec.ofNat 3 slot, eng := false } })
  | .ok ps =>
    if !(m.cur.touchesBlock va.toNat bytes.length) then .ok ((), { m with mem := m.mem.writeParts m.cur.die ps bytes false })
    else
      let one := fun (m : Mach) (p : (Nat × Nat) × Byte) => match m.cur.blockOf p.1.1 with
        | some (k, b) => { m with cur := { m.cur with blocks := vset m.cur.blocks k (some { b with
            data := b.data.set (p.1.1 - b.va.toNat) p.2, dirty := b.dirty.set (p.1.1 - b.va.toNat) true }) } }
        | none => { m with mem := m.mem.write m.cur.die p.1.2 [p.2] false }
      .ok ((), (((rangeFrom va.toNat bytes.length).zip (ps.map fun q => rangeFrom q.1 q.2).flatten).zip bytes).foldl one m)

/-- The window offset of an access, checked by R59. -/
def checkWin (off : Int) (n : Nat) : Act Nat := do
  let c ← getC
  if c.inWindow off n then pure off.toNat else raise 0x2002 (ofI off)


/-- Whether a drain of the issuing continuation has still to write some byte of a scratchpad range. -/
def Mach.drainsAt (m : Mach) (key n : Nat) : Bool :=
  m.cur.mx.array.any fun k => k.writes.any fun w => overlaps w.key w.bytes.length key n

/-- Whether a drain of the issuing continuation has still to write some byte of a range of its window. -/
def Mach.drainsOver (m : Mach) (off n : Nat) : Bool := m.drainsAt (skey m.cur.gcore (m.cur.winBase + off)) n

/-- An access of a location that an earlier drain of the continuation writes comes after that write (R86, R95). -/
def Mach.landOver (m : Mach) (off n : Nat) : Mach := if m.drainsOver off n then m.landDrains m.cur.id else m

/-- Reads bytes of the issuing member's window after the check of R59. -/
def readS (off : Int) (n : Nat) : Act (List Byte) := do
  let o ← checkWin off n
  modM fun m => m.landOver o n
  let m ← getM
  pure (m.winRead m.cur o n)

/-- Writes bytes of the issuing member's window after the check of R59. -/
def writeS (off : Int) (bytes : List Byte) : Act Unit := do
  let o ← checkWin off bytes.length
  modM fun m => (m.landOver o bytes.length).winWrite (m.landOver o bytes.length).cur o bytes false

/-- Pops the next element of a stream, zero-extended (R65, R66, R123). What the pop may have seen comes before every A-slot
access to come, which the value may decide (R86; log entry 72). The element is read at the pop, so that it shows every
store of the continuation since SBIND, which R66 leaves open (log entry 67). -/
def popStream (k : Nat) : Act Word := do
  let c ← getC
  match vget c.streams k none with
  | none => raise 0x200B
  | some s =>
    if s.out then raise 0x200A
    else if s.remaining = 0 then raise 0x2009
    else
      let z := 2 ^ s.lg.toNat
      let bytes ← (if s.virt then do
          let r ← readV (ofI s.addr) z
          match r.2 with
          | some g => raise 0x3006 (ofI s.addr) (toW g)
          | none => pure r.1
        else do
          let o ← checkWin s.addr z
          modM fun m => m.landOver o z
          let m ← getM
          match m.winMark m.cur o z with
          | some g => raise 0x3006 (toW o) (toW g)
          | none => pure (m.winRead m.cur o z))
      modM fun m => { m with cur := { m.cur with streams := vset m.cur.streams k (some s.stepIdx), past := m.mem.stampOf m.cur.die } }
      pure (toW (leNat bytes))

/-- Pushes a value to a write stream, up to its element size (R65, R66, R123). -/
def pushStream (insn : Word) (slot : Nat) (k : Nat) (v : Word) : Act Unit := do
  let c ← getC
  match vget c.streams k none with
  | none => raise 0x200B
  | some s =>
    if !s.out then raise 0x200A
    else if s.remaining = 0 then raise 0x2009
    else do
      let z := 2 ^ s.lg.toNat
      if s.virt then writeV insn slot (ofI s.addr) (leBytes z v.toNat) else writeS s.addr (leBytes z v.toNat)
      modC fun c => { c with streams := vset c.streams k (some s.stepIdx) }

/-- Reads a register field: g0 as zero, a poisoned register as a report, a stream as a pop; a register whose value is
still to come makes the reader wait (R122, R123, R381). -/
def readG (f : GF) : Act Word :=
  if f = 0 then pure 0
  else if f.toNat < 24 then do
    let c ← getC
    if c.awaits f then await
    else match vget c.gPoison f.toNat none with
      | some pa => raise 0x3006 0 pa
      | none => pure (vget c.g f.toNat 0)
  else popStream (f.toNat - 24)

/-- Writes a register field: a write of g0 is discarded, a stream is pushed (R122, R123). -/
def writeG (f : GF) (v : Word) : Act Unit :=
  if f = 0 then pure ()
  else if f.toNat < 24 then do
    let c ← getC
    if c.awaits f then await
    else modC fun c => { c with g := vset c.g f.toNat v, gPoison := vset c.gPoison f.toNat none }
  else do
    let c ← getC
    pushStream c.insnNow (c.slotNow .s0) (f.toNat - 24) v

/-- Writes a loaded value, with the mark of the granule it came from (R381). -/
def writeLoaded (f : GF) (v : Word) (mark : Option Nat) : Act Unit := do
  writeG f v
  match mark with
  | none => pure ()
  | some g =>
    if f.toNat < 24 ∧ f ≠ 0 then modC fun c => { c with gPoison := vset c.gPoison f.toNat (some (toW g)) }
    else if f = 0 then pure ()
    else raise 0x3006 0 (toW g)

/-- The events of the slot instruction in hand reach its slot's flags. -/
def flagEvents (ev : Nat) : Act Unit := modC fun c => c.setFlags (c.slotNow .s0) ev false c.pc

/-- The events of an instruction that has a slot of its own, whatever slot the cursor stands at. -/
def flagEventsAt (slot ev : Nat) : Act Unit := modC fun c => c.setFlags slot ev false c.pc

/-- Earlier accesses of the issuing continuation are performed (R90). -/
def performEarlier : Act Unit := modM fun m => m.performed m.cur.id

/-- A report point: a pending imprecise failure is reported here (R351). -/
def reportPoint : Act Unit := fun m =>
  match m.cur.imprecise with
  | some i => .error (.late i)
  | none => .ok ((), m)

/-- Traps a context without the matrix claim (R25). -/
def needClaim : Act Unit := do
  let c ← getC
  raiseIf (!c.claim) 0x1006

/-- Traps user mode (R242). -/
def needSystem : Act Unit := do
  let c ← getC
  raiseIf (!c.sysMode) 0x1005

/-- Traps a reserved scope (R88). -/
def checkScope (sc : BitVec 3) : Act Unit := raiseIf (decide (5 ≤ sc.toNat)) 0x1008

/-- Whether any other die must have the issuer's past before a release at a scope: within the module the agents of pod scope are
those of module scope (R88, R89, R101). -/
def wide (sc : BitVec 3) : Bool := decide (3 ≤ sc.toNat)

end Sys2Proof.Machine
end

