-- ==== Sys2Proof/Machine/Strong.lean ====
section
/-! DEFINITION. Strong operations: the address checks, the location, and the access at its home (R60, R90, R91, R161). -/

namespace Sys2Proof.Machine

/-! ### Releases and acquires at a location's home (R90, R91) -/

/-- Before a strong access by die `d` at home `h`: with a wide scope the home has the issuer's whole past, else the past of the
edges that count for every agent and what the issuer's die holds at the location (R86, R89, R90). -/
def Mem.strongPrep (m : Mem) (d h pa n : Nat) (wide : Bool) (past : SMap Nat) : Mem :=
  if wide then m.catchUp h (m.stampOf d) else (m.catchUp h past).acquire h d pa n

/-- A strong write at the home, which the issuer's die then holds (R91, R95). -/
def Mem.strongWrite (m : Mem) (d h pa : Nat) (bytes : List Byte) (poison : Bool) : Mem :=
  (m.write h pa bytes poison).acquire d h pa bytes.length



/-- What R358 ranks before the other operand causes: alignment, then a canonical address or a place in the named team. -/
def strongCheck (spad : Bool) (n : Nat) (x : Word) : Act Unit := do
  raiseIf (decide (x.toNat % n ≠ 0)) 0x2001 x
  if spad then do
    let m ← getM
    match m.spTarget m.cur.task m.cur.team.toNat x.toNat with
    | none => raise 0x2002 x
    | some (t, off) => raiseIf (decide (2 ^ 32 ≤ x.toNat) || !(t.inWindow off n)) 0x2002 x
  else raiseIf (!canonical x) 0x3001 x

/-- The location of a strong access: a load-block of the context may not hold it; then translation (R68, R158, R376). -/
def strongPlace (spad : Bool) (n : Nat) (x : Word) (need : Acc3) : Act SigTarget := do
  let m ← getM
  if spad then
    match m.spTarget m.cur.task m.cur.team.toNat x.toNat with
    | none => raise 0x2002 x
    | some (t, off) => do
      awaitIf (m.away t)
      pure (.spad t.id off)
  else do
    raiseIf (m.cur.touchesBlock x.toNat n) 0x200C x
    match m.resolveCont x n need with
    | .wait => await
    | .fail t => raiseT t
    | .ok ps => pure (.mem (ps.headD (0, 0)).1)

/-- The home die of a location (R91). -/
def Mach.placeHome (m : Mach) : SigTarget → Nat
  | .mem pa => homeOf pa
  | .spad id _ => ((m.cont? id).map Cont.die).getD 0

/-- A read of a scratchpad location comes after the drains of its continuation that write there (R86, R95). -/
def Mach.placeLand (m : Mach) (p : SigTarget) (n : Nat) : Mach :=
  match p with
  | .mem _ => m
  | .spad id off => match m.cont? id with
    | some t => if t.resident && m.drainsAt (skey t.gcore (t.winBase + off)) n then m.landDrains m.cur.id else m
    | none => m

/-- The home is brought up to what the access must follow (R86, R90). -/
def Mach.placePrep (m : Mach) (d : Nat) (p : SigTarget) (n : Nat) (rel : Bool) (past : SMap Nat) : Mach :=
  match p with
  | .mem pa => { m with mem := m.mem.strongPrep d (homeOf pa) pa n rel past }
  | .spad _ _ => { m with mem := m.mem.catchUp (m.placeHome p) (if rel then m.mem.stampOf d else past) }

/-- The bytes at the home. -/
def Mach.placeRead (m : Mach) (p : SigTarget) (n : Nat) : List Byte :=
  match p with
  | .mem pa => m.mem.read (homeOf pa) pa n
  | .spad id off => match m.cont? id with
    | some t => m.winRead t off n
    | none => []

/-- The marked granule at the home, if the location is marked (R381). -/
def Mach.placeMark (m : Mach) (p : SigTarget) (n : Nat) : Option Nat :=
  match p with
  | .mem pa => m.mem.firstMark (homeOf pa) pa n
  | .spad id off => match m.cont? id with
    | some t => m.winMark t off n
    | none => none

/-- What a read at the home observes reaches the reader's die (R94, R95). -/
def Mach.placeAcquire (m : Mach) (d : Nat) (p : SigTarget) (n : Nat) : Mach :=
  match p with
  | .mem pa => { m with mem := m.mem.acquire d (homeOf pa) pa n }
  | .spad id off => match m.cont? id with
    | some t => m.winSaw d t off n
    | none => m

/-- A write at the home by an agent of die `d`, stamped by the home die; the issuer's die then holds it (R91, R95). -/
def Mach.placeWrite (m : Mach) (d : Nat) (p : SigTarget) (bytes : List Byte) : Mach :=
  match p with
  | .mem pa => { m with mem := m.mem.strongWrite d (homeOf pa) pa bytes false }
  | .spad id off => match m.cont? id with
    | some t => (m.winWrite t off bytes false).placeAcquire d p bytes.length
    | none => m

/-- A SIGC's write: a release at its scope (R90, R156). -/
def Mach.performSig (m : Mach) (c : Cont) (p : PendSig) : Mach :=
  let m := (m.setCont { c with sig := c.sig.drop 1 }).placePrep c.die p.target 8 (wide p.scope) c.past
  m.placeWrite c.die p.target (leBytes 8 p.value.toNat)

end Sys2Proof.Machine
end

