-- ==== Sys2Proof/Machine/Run.lean ====
section
/-! DEFINITION. How an instruction of the issuing continuation and an event are executed: holds, the waits that end outside
the bundles, the step over a slot (R128, R130, R154, R215, R240, R259, R350). -/

namespace Sys2Proof.Machine

/-! ### Running a slot instruction and an event -/

/-- The opcode of PACK in the D-slot map, by which a job is known (R138). -/
def opPack : Nat := 10

/-- Whether an instruction in the queue of some slot stands before a hold. -/
def Cont.queuedBefore (c : Cont) (h : Hold) (slots : List Nat) : Bool :=
  c.queue.any fun e => decide (e.bundle ≤ h.bundle) && slots.contains e.slot.val

/-- Whether what a hold waits for is still to come. -/
def Mach.holdWaits (m : Mach) (c : Cont) (h : Hold) : Bool :=
  match h.kind with
  | .commands => ((c.mx.array ++ c.mx.tq1).any fun k => decide (k.id < h.before)) || c.queuedBefore h [4]
  | .jobs => (m.jobs.any fun j => j.cont == c.id && j.seq.isNone && decide (j.id < h.before) && j.st ≠ .landed) || c.queuedBefore h [5]
  | .results => !c.answers.isEmpty || (c.tx.toList.any fun x => x.pend.any fun p => !p.again) ||
      (m.jobs.any fun j => j.cont == c.id && j.op == opPack && decide (j.id < h.before) && j.st ≠ .landed) ||
      c.queuedBefore h [0, 1, 2, 6]
  | .vectors => c.queuedBefore h [3]
  | .stores => c.queuedBefore h [0, 1, 2] || !c.sig.isEmpty

/-- Whether a wait of an earlier bundle still holds a slot of a bundle (R154, R215, R240). -/
def Mach.heldAt (m : Mach) (c : Cont) (slot bundle : Nat) : Bool :=
  c.holds.any fun h => h.live && h.slots.getLsbD slot && decide (h.bundle < bundle) && m.holdWaits c h

/-! ### Leaving a queue (R128) -/

/-- The instructions that stand before the one in hand and have not left their queues. -/
def Cont.older (c : Cont) : List QEntry :=
  match c.cursor.bind Cursor.back with
  | some e => c.queue.takeWhile fun x => !(x.same e)
  | none => c.queue

/-- Instructions that leave only once every older one has: strong operations, and those of the K slot that end, suspend or change
the mode of a continuation (R86, R90, R350). -/
def waitsAll : Instr → Bool
  | .ldacq _ _ _ _ _ _ => true
  | .strel _ _ _ _ _ _ => true
  | .amoadd _ _ _ _ _ _ _ => true
  | .amoand _ _ _ _ _ _ _ => true
  | .amoor _ _ _ _ _ _ _ => true
  | .amoxor _ _ _ _ _ _ _ => true
  | .amomin _ _ _ _ _ _ _ _ => true
  | .amomax _ _ _ _ _ _ _ _ => true
  | .amoswp _ _ _ _ _ _ _ => true
  | .amocas _ _ _ _ _ _ _ => true
  | .amofadd _ _ _ _ _ _ _ => true
  | .fence _ _ _ => true
  | .wenq _ _ _ _ _ => true
  | .pbr _ _ _ => false
  | .pbrr _ _ _ => false
  | .br _ _ => false
  | .brl _ _ _ => false
  | .loop _ _ _ => false
  | .loopiImm _ _ _ _ => false
  | .loopiReg _ _ _ _ => false
  | .loopl _ _ _ _ => false
  | .sync _ _ => false
  | .fmtw _ _ _ => false
  | .fmtwg _ _ _ => false
  | i => i.cls == some .k

/-- Whether an instruction touches registers alone. -/
def regsOnly (slot : Nat) (i : Instr) : Bool := decide (slot ≤ 1) && !(usesStream i)

/-- Whether an instruction of a slot may leave before an older one that has passed its checks: not where an edge of R86 may join
their accesses (R86, R128, R179; log entry 3). -/
def passes (x : QEntry) (slot : Nat) (i : Instr) : Bool :=
  let free := decide (slot = 6) || regsOnly slot i
  if x.slot = 3 ∨ isFmtw x.instr ∨ regsOnly x.slot.val x.instr then true
  else if x.slot = 4 then match x.instr with
    | .mzero _ _ _ => true
    | .mpop _ _ _ _ _ => true
    | .mfence _ _ => true
    | _ => free || decide (slot = 5)
  else if x.slot = 5 then free || decide (slot = 3 ∨ slot = 4)
  else decide (x.slot ≠ 6) && free

/-- Whether the shadow of an FMTW is still running on a die (R128, R129). -/
def Mach.inShadow (m : Mach) (c : Cont) : Bool := c.fmtOld.any fun o => decide (m.cyc c.die < o.till)

/-- Whether an instruction of a slot has to stay in its queue behind older ones (R128, R350). -/
def Mach.behind (m : Mach) (c : Cont) (older : List QEntry) (slot bundle : Nat) (synced : Bool) (i : Instr) : Bool :=
  (older.any fun x => x.slot.val == slot || hazard x.instr i || !(passes x slot i) || (!x.checked && !(isFmtw i)) ||
    (synced && decide (x.bundle < bundle))) ||
  (synced && m.inShadow c) || (waitsAll i && !older.isEmpty) || c.lag.getLsbD slot || m.heldAt c slot bundle

/-- The slot's sync bit of the bundle in hand (R128). -/
def Cont.syncedNow (c : Cont) (slot : Nat) : Bool :=
  match c.cursor with
  | some k => k.sync.getLsbD slot
  | none => false

/-- Whether the instruction in hand cannot be tried: an entry of a queue that needs a register of an older one; at its own turn,
whatever holds it in its queue, and for a bundle that is placed whole everything but FMTW (R128, R129). -/
def Mach.stays (m : Mach) (slot : Nat) (i : Instr) : Bool :=
  let c := m.cur
  match c.cursor.bind Cursor.back with
  | some _ => c.older.any fun x => hazard x.instr i
  | none => (c.timid && !(isFmtw i)) || m.behind c c.older slot c.bundleNow (c.syncedNow slot) i

/-- Whether the instruction in hand, its checks passed, leaves: an entry of a queue waits until the other instructions of its
bundle and of older ones have passed theirs (R350). -/
def Mach.leaves (m : Mach) (slot : Nat) (i : Instr) : Bool :=
  let c := m.cur
  match c.cursor.bind Cursor.back with
  | none => true
  | some e => !(m.behind c c.older slot c.bundleNow (c.syncedNow slot) i) &&
      (isFmtw i || c.queue.all fun x => x.checked || x.same e || decide (e.bundle < x.bundle))

/-- The head of the M-slot queue of a continuation, where it is free to leave as far as the older instructions go (R128, R211). -/
def Mach.mHead (m : Mach) (c : Cont) : Option QEntry :=
  match c.queue.find? fun x => x.slot == 4 with
  | some e => if m.behind c (c.queue.takeWhile fun x => !(x.same e)) 4 e.bundle (e.sync.getLsbD 4) e.instr then none else some e
  | none => none

/-! ### SIGC and TLBCNF -/

/-- Whether what a SIGC in flight covers has been performed (R156). -/
def Mach.sigReady (m : Mach) (c : Cont) (p : PendSig) : Bool :=
  !(m.jobs.any fun j => j.cont == c.id && j.seq.isNone && decide (j.id < p.before) && j.st ≠ .landed) &&
    c.blocks.toList.all fun b => match b with
      | some b => b.filled
      | none => true

/-- Performs the SIGCs of a continuation whose waits have ended, in their order. -/
def Mach.settleSigsOf (m : Mach) (id : Nat) : Mach :=
  ((m.cont? id).map Cont.sig |>.getD []).foldl (fun (m : Mach) _ => match m.cont? id with
    | some c => match c.sig with
      | p :: _ => if m.sigReady c p then m.performSig c p else m
      | [] => m
    | none => m) m

/-- Performs every SIGC whose waits have ended. -/
def Mach.settleSigs (m : Mach) : Mach :=
  m.allConts.foldl (fun m c => if c.id = 0 then m else m.settleSigsOf c.id) m

/-- Whether a live lease covers part of a range of a context, or a record or save area of a running task stands there
(R74). -/
def Mach.leasedRange (m : Mach) (ctx : BitVec 12) (base len : Nat) : Bool :=
  (m.tasks.any fun t => t.leased && t.ctx == ctx && t.fp.any fun r => overlaps r.base.toNat r.len base len) ||
    m.allConts.any fun c => c.id ≠ 0 && c.ctx == ctx && decide (c.state.toNat < 6) && ((m.task? c.task).any Task.leased) &&
      (overlaps c.recVa.toNat 64 base len || overlaps c.save.toNat 2048 base len)

/-- A TLBCNF whose leases have ended: writes are visible everywhere, the drained entries go, held walks proceed (R259). -/
def Mach.finishDrains (m : Mach) (id : Nat) : Mach :=
  let mine := m.drains.filter fun d => d.cont == id
  let m := { m with
    mem := (List.range 64).foldl (fun x d => x.spread d) m.mem
    tlb := m.tlb.filter fun e => !(mine.any fun d => d.ctx == e.ctx && overlaps d.base.toNat d.len e.va.toNat e.len)
    drains := m.drains.filter fun d => d.cont ≠ id }
  let m := m.dropHeld
  match m.cont? id with
  | some c =>
    let m := m.setCont { c with inTlbcnf := false }
    match m.thiefOf c.task c.team.toNat with
    | some k => m.sendTo 2 k (.reply c.task c.team.toNat c.rank.toNat none 0)
    | none => m
  | none => m

/-- Completes every TLBCNF that can complete. -/
def Mach.settleTlb (m : Mach) : Mach :=
  m.allConts.foldl (fun m c =>
    if c.id ≠ 0 ∧ c.inTlbcnf ∧ !(m.drains.any fun d => d.cont == c.id && m.leasedRange d.ctx d.base.toNat d.len) then
      m.finishDrains c.id else m) m

/-- What waits outside the bundles and can now go on: SIGC writes, TLBCNF. -/
def Mach.settle (m : Mach) : Mach := m.settleSigs.settleTlb

/-- A-slot accesses to come are ordered after an A-slot access (R86; log entry 72). -/
def Mach.slotPast (m : Mach) : Mach :=
  match m.cur.cursor with
  | some k => if k.slots.head? = some 2 then { m with cur := { m.cur with past := m.mem.stampOf m.cur.die } } else m
  | none => m

/-- The state after an instruction whose action left `m`: waiting continuations whose condition now holds wake (R22, R23), and
the cursor goes on (R125). -/
def State.complete (s : State) (m : Mach) : State :=
  let m := m.slotPast
  State.advance { s with m := if m.conts.any (fun c => c.state == 3) then m.wake else m }

/-- Executes an instruction of the issuing continuation: what holds it in its queue, its guard, then its action; a report undoes
the bundle, and one that waits stays in its queue (R128, R130, R350). -/
def runSlot (i : Instr) (dflt : Slot) (g : Option Guard) (a : Act Unit) (s : State) :
    Host.Outcome State Fault Refusal :=
  let c := s.m.cur
  let slot := c.slotNow dflt
  let go := match g with
    | some g => c.runs g
    | none => true
  if s.m.stays slot i then .next s.stallBundle
  else if !go then .next (if s.m.leaves slot i then s.advance else s.passed)
  else match a s.m with
    | .ok (_, m) => .next (if s.m.leaves slot i then s.complete m else s.passed)
    | .error (.trap t) => .next (s.takeTrap t slot (toW (encode i)))
    | .error (.trapTx t n) => .next (s.takeTxTrap t n slot (toW (encode i)))
    | .error .wait => .next s.stallBundle
    | .error .park => .next s.passed
    | .error (.late x) => .next (s.takeLate x)

/-- The state after an event that left `m`: what waits outside the bundles goes on, waiting continuations wake, and cores
pick (R22 to R24, R156, R259). -/
def State.after (s : State) (m : Mach) : State := { s with m := m.settle.wake.pickAll }

/-- Executes an event: a change of the machine, then the wake-ups it makes. An event that is not enabled changes
nothing. -/
def runEvent (f : Mach → Mach) (s : State) : Host.Outcome State Fault Refusal := .next (s.after (f s.m))

end Sys2Proof.Machine
end

