-- ==== Sys2Proof/Machine/Fetch.lean ====
section
/-! DEFINITION. Fetch, the bundle and group checks at dispatch (R125 to R128), and what a slot word at the cursor is. -/

namespace Sys2Proof.Machine

/-- What a fetch gives. -/
inductive Fetched where
  | ok (bytes : List Byte)
  | fail (t : Trap)
  | wait
  deriving DecidableEq, Repr

/-- The instruction-cache line of a core that holds an address: a line keeps the bytes it was filled with until CINV.i or
until it is dropped (R261; log entry 14). -/
def Mach.ihit (m : Mach) (c : Cont) (va : Nat) : Option ILine :=
  m.icache.find? fun l => l.core == c.gcore && l.ctx == c.ctx && decide (l.va.toNat ≤ va ∧ va < l.va.toNat + l.bytes.length)

/-- Instruction bytes for a continuation: its window in Stage 0 (R306), cached lines, or memory through an
exec-checked translation, which needs no lease (R74, R148). -/
def Mach.fetchBytes (m : Mach) (c : Cont) (va n : Nat) : Fetched :=
  if c.stage0 then
    if c.inWindow va n then .ok (m.winRead c va n) else .fail { cause := 0x2002, faddr := toW va }
  else match m.task? c.task with
    | none => .fail { cause := 0x3002, faddr := toW va }
    | some t =>
      let a : Word := (BitVec.ofNat 48 va).setWidth 64
      if t.guest.isNone && (rangeFrom a.toNat n).all fun x => (m.ihit c x).isSome then
        .ok ((rangeFrom a.toNat n).map fun x => match m.ihit c x with
          | some l => l.bytes.getD (x - l.va.toNat) 0
          | none => 0)
      else match resolveWith (m.paCheck t) (fun y => m.xlateTask c.die t y .exec) (parts a.toNat n) with
        | .ok ps => .ok (m.mem.readParts c.die ps)
        | .fail f => .fail { f with faddr := a }
        | .wait => .wait

/-- The slots a present mask names, in slot order (R125). -/
def slotsOf (mask : Nat) : List (Fin 7) := (List.finRange 7).filter fun k => bit mask k.val

/-- Whether an instruction must stand in a bundle with its stop bit set (R127, R149). -/
def needsStop : Instr → Bool
  | .br _ _ => true
  | .brl _ _ _ => true
  | .eret _ _ => true
  | .done _ => true
  | .loop _ _ _ => true
  | .loopiImm _ _ _ _ => true
  | .loopiReg _ _ _ _ => true
  | .loopl _ _ _ _ => true
  | _ => false

/-- The instructions a Stage 0 run may use beside those of S0, S1 and K (R306). -/
def stage0Allows (i : Instr) : Bool :=
  match i with
  | .spldw _ _ _ _ => true
  | .spldd _ _ _ _ => true
  | .spstw _ _ _ _ => true
  | .spstd _ _ _ _ => true
  | _ => i.cls == some .s0 || i.cls == some .k

/-- The instructions of a bundle's slots: the words after the header, decoded (R125, R138). -/
def decodeSlots (bytes : List Byte) : List (Fin 7) → List (Option Instr)
  | [] => []
  | k :: r =>
    let n := (Slot.of k.val).bytes
    decode (Slot.of k.val) (leNat (bytes.take n)) :: decodeSlots (bytes.drop n) r

/-- The group test over a bundle's instructions in slot order: the registers written so far, or a violation (R127). -/
def groupTest : List RegName → List (Option Instr) → Option (List RegName)
  | w, [] => some w
  | w, none :: r => groupTest w r
  | w, some i :: r => if groupClash w i then none else groupTest (w ++ dests i) r

/-- What dispatch of the bundle at the pc comes to. -/
inductive Dispatched where
  | go (c : Cont)
  | report (t : Trap) (fslot : Nat)
  | wait
  deriving DecidableEq, Repr


/-- Dispatch of the bundle at the issuing continuation's pc: a flag trap first (R370), then fetch (R148), the header's and
the group's checks (R125, R127, R358). -/
def Mach.dispatch (m : Mach) : Dispatched :=
  let c := m.cur
  match c.flagTrap with
  | some k => .report { cause := 0x1009 } k.toNat
  | none =>
    match m.fetchBytes c c.pc.toNat 4 with
    | .wait => .wait
    | .fail t => .report t 7
    | .ok hb =>
      let h := leNat hb
      if c.starting && (decide (c.pc.toNat % 4 ≠ 0) || (!c.stage0 && !(inGranule c.pc.toNat h))) then
        .report { cause := 0x1004, faddr := c.pc.setWidth 64 } 7
      else if h / 2 ^ 15 ≠ 0 ∨ (h / 2 ^ 8 % 2 ^ 7) &&& (h % 2 ^ 7) ≠ h / 2 ^ 8 % 2 ^ 7 ∨ 16 ≤ c.groupLen then .report { cause := 0x1002 } 7
      else
        let n := bundleBytes h
        match m.fetchBytes c (c.pc.toNat + 4) (n - 4) with
        | .wait => .wait
        | .fail t => .report { t with faddr := c.pc.setWidth 64 } 7
        | .ok body =>
          let slots := slotsOf (h % 2 ^ 7)
          let is := decodeSlots body slots
          let stop := bit h 7
          if !stop && is.any (fun i => match i with
              | some i => needsStop i
              | none => false) then .report { cause := 0x1002 } 7
          else match groupTest c.groupWrites is with
            | none => .report { cause := 0x1003 } 7
            | some w =>
              let sync := BitVec.ofNat 7 (h / 2 ^ 8)
              .go { c with
                starting := false
                groupLen := c.groupLen + 1
                groupWrites := w
                bundles := c.bundles + 1
                cursor := some { slots := slots, addr := c.pc + 4, next := c.pc + BitVec.ofNat 48 n, sync := sync, stop := stop
                                 bundle := c.bundles + 1, group := c.groups } }

/-- Whether the queues have room for another bundle: none of 17 bundles ago is left in them, and nothing that decides the path
(R128). -/
def Cont.roomy (c : Cont) : Bool :=
  c.queue.isEmpty || (!c.traps && c.flagTrap.isNone &&
    c.queue.all fun e => decide (c.bundles + 1 ≤ e.bundle + 16) && (e.slot ≠ 6 || isFmtw e.instr))

/-- Whether the issuing continuation may dispatch: running, resident, not between bundle parts, its team not leaving. -/
def Mach.canDispatch (m : Mach) : Bool :=
  let c := m.cur
  c.id ≠ 0 && c.state == 2 && c.cursor.isNone && c.roomy && !c.inTlbcnf && (c.stage0 || (c.resident && (match m.team? c.task c.team.toNat with
    | some t => (match t.res with
      | .leaving _ _ => false
      | _ => true)
    | none => true)))

/-- The cycles that an instruction which is synced waits for: four since the last FMTW (R128). -/
def Mach.shadowTick (m : Mach) (c : Cont) : Mach :=
  match c.cursor with
  | some k => if k.sync = 0 then m
      else m.tickDie c.die (c.fmtOld.foldl (fun n o => max n (o.till - m.cyc c.die)) 0)
  | none => m

/-- BUNDLE_DISPATCH (R128): the bundle at the pc is checked and its slots are made ready; an empty bundle ends at once. -/
def execBundleDispatch (s : State) : Host.Outcome State Fault Refusal :=
  let s := { s with m := if !s.m.cur.sig.isEmpty || s.m.cur.inTlbcnf then s.m.settle.wake else s.m }
  if !s.m.canDispatch then .next { s with m := { s.m with stalled := true } }
  else match s.m.dispatch with
    | .wait => .next { s with m := { s.m with stalled := true } }
    | .report t k => .next (State.takeTrap { s with m := { s.m with cur := { s.m.cur with flagTrap := none, timid := false } }, snap := none } t k 0)
    | .go c =>
      let s := { s with m := s.m.shadowTick c }
      let snap := s.m
      let m := { s.m with cur := { c with holds := c.holds.filter fun h => s.m.holdWaits c h }, stalled := false }
      let m := match c.cursor with
        | some k => if k.sync ≠ 0 ∨ c.trapen.toNat % 2 ^ 7 ≠ 0 then m.performed c.id else m
        | none => m
      let m := match c.cursor with
        | some k => if k.sync.getLsbD 2 ∨ c.holds.any (fun h => !(s.m.holdWaits c h)) then
            { m with cur := { m.cur with past := m.mem.stampOf m.cur.die } } else m
        | none => m
      match m.cur.cursor with
      | some k => if k.slots.isEmpty then .next { s with m := m.endBundle, snap := none } else .next { s with m := m, snap := some snap }
      | none => .next { s with m := m, snap := none }

end Sys2Proof.Machine
end

