-- ==== Sys2Proof/Machine/Operands.lean ====
section
/-! DEFINITION. Operand forms of the S, A and K slots: registers read in field order, results written to a g register or a
predicate (R123, R131, R141); floating-point operands and results (R105, R141). -/

namespace Sys2Proof.Machine

/-- gd <- f(ga, gb). -/
def opRR (f : Word → Word → Word) (d a b : GF) : Act Unit := do
  let x ← readG a
  let y ← readG b
  writeG d (f x y)

/-- gd <- f(gd, ga, gb); gd is read first, as the field nearer bit 31 (R123). -/
def opRRR (f : Word → Word → Word → Word) (d a b : GF) : Act Unit := do
  let z ← readG d
  let x ← readG a
  let y ← readG b
  writeG d (f z x y)

/-- gd <- f(ga). -/
def opR (f : Word → Word) (d a : GF) : Act Unit := do
  let x ← readG a
  writeG d (f x)

/-- pd <- f(ga, gb). -/
def opPred (f : Word → Word → Bool) (d : BitVec 3) (a b : GF) : Act Unit := do
  let x ← readG a
  let y ← readG b
  modC fun c => c.setPred d.toNat (f x y)

/-- pd <- f(ga). -/
def opPredR (f : Word → Bool) (d : BitVec 3) (a : GF) : Act Unit := do
  let x ← readG a
  modC fun c => c.setPred d.toNat (f x)

/-- The pattern of a scalar floating-point operand (R105). -/
def fpPat (z : Bool) (x : Word) : Nat := if z then x.toNat else x.toNat % 2 ^ 32

/-- The invalid event of signalling scalar operands. -/
def fpSig (z : Bool) (l : List Word) : Nat := sigEv (l.map fun x => (fpCode z, fpPat z x))

/-- The value of a scalar floating-point operand. -/
def fpNum (z : Bool) (x : Word) : Num := readNum (fpCode z) (fpPat z x)

/-- Writes a floating-point result and its events (R141, R145). -/
def writeFp (z : Bool) (d : GF) (x : Num) (st : Bool) (ev : Nat) : Act Unit := do
  let r := roundTo (fpCode z) false x st
  writeG d (toW r.pat)
  flagEvents (r.ev ||| ev)

/-- A two-operand floating-point operation. -/
def opFp (f : Num → Num → Num × Bool × Nat) (z : Bool) (d a b : GF) : Act Unit := do
  let x ← readG a
  let y ← readG b
  let r := f (fpNum z x) (fpNum z y)
  writeFp z d r.1 r.2.1 (r.2.2 ||| fpSig z [x, y])

/-- A floating-point comparison into a predicate (R107, R145). -/
def opFpCmp (f : Num → Num → Bool) (z : Bool) (d : BitVec 3) (a b : GF) : Act Unit := do
  let x ← readG a
  let y ← readG b
  modC fun c => c.setPred d.toNat (f (fpNum z x) (fpNum z y))
  flagEvents (fpSig z [x, y])

end Sys2Proof.Machine
end

