-- ==== Sys2Proof/Machine/Control.lean ====
section
/-! DEFINITION. The K-slot control instructions: branches, loops, fmt, suspension, SYNC, TRAP and SIGC (R147 to R156). -/

namespace Sys2Proof.Machine

/-- A transfer to a target whose form and place R126 checks; a target whose header cannot be fetched is reported there
(R148). `granule`: it must lie in one granule. -/
def transfer (target : BitVec 48) (granule : Bool) : Act Unit := do
  let m ← getM
  if target.toNat % 4 ≠ 0 then raise 0x1004 (target.setWidth 64)
  else match m.fetchBytes m.cur target.toNat 4 with
    | .wait => await
    | .fail _ => modC fun c => c.jump target
    | .ok b =>
      if granule && !(inGranule target.toNat (leNat b)) then raise 0x1004 (target.setWidth 64)
      else modC fun c => c.jump target

/-- Writes b(N). -/
def setB (n : BitVec 3) (v : BitVec 48) : Act Unit := modC fun c => { c with b := vset c.b n.toNat v }

/-- PBR: b(N) <- H + 4 × SExt(imm16) (R147). -/
def execPbr (gu : Guard) (b : BitVec 3) (m : BitVec 16) (σ : State) : Host.Outcome State Fault Refusal :=
  runSlot (.pbr gu b m) .k (some gu) (do
    let c ← getC
    setB b (c.pc + (m.signExtend 48 <<< 2))) σ

/-- PBRR: b(N) <- ga<47:0> (R147). -/
def execPbrr (gu : Guard) (n : BitVec 3) (a : GF) (σ : State) : Host.Outcome State Fault Refusal :=
  runSlot (.pbrr gu n a) .k (some gu) (do
    let x ← readG a
    setB n (x.setWidth 48)) σ

/-- BR (R148). -/
def execBr (gu : Guard) (b : BitVec 3) (σ : State) : Host.Outcome State Fault Refusal :=
  runSlot (.br gu b) .k (some gu) (do
    let c ← getC
    transfer (vget c.b b.toNat 0) true) σ

/-- BRL: the link goes to g23 and b(L); the target is b(T)'s old value (R148). -/
def execBrl (gu : Guard) (b : BitVec 3) (l : BitVec 3) (σ : State) : Host.Outcome State Fault Refusal :=
  runSlot (.brl gu b l) .k (some gu) (do
    let c ← getC
    let ret := c.nextPc
    let target := vget c.b b.toNat 0
    writeG 23 (ret.setWidth 64)
    setB l ret
    transfer target true) σ

/-- Writes lc(X). -/
def setLc (x : BitVec 2) (v : W32) : Act Unit := modC fun c => { c with lc := vset c.lc x.toNat v }

/-- Sets a loop up: the body runs zero times for a count of zero (R149). -/
def loopSetup (b : BitVec 3) (x : BitVec 2) (n : W32) : Act Unit := do
  setLc x n
  let c ← getC
  if n = 0 then transfer (vget c.b b.toNat 0) true else pure ()

/-- LOOP (R149). -/
def execLoop (gu : Guard) (b : BitVec 3) (x : BitVec 2) (σ : State) : Host.Outcome State Fault Refusal :=
  runSlot (.loop gu b x) .k (some gu) (do
    let c ← getC
    let n := vget c.lc x.toNat 0
    if 1 < n.toNat then
      setLc x (n - 1)
      transfer (vget c.b b.toNat 0) true
    else setLc x 0) σ

/-- LOOPI with an immediate count (R149). -/
def execLoopiImm (gu : Guard) (b : BitVec 3) (x : BitVec 2) (n : BitVec 15) (σ : State) : Host.Outcome State Fault Refusal :=
  runSlot (.loopiImm gu b x n) .k (some gu) (loopSetup b x (n.setWidth 32)) σ

/-- LOOPI with the count in a g register (R149). -/
def execLoopiReg (gu : Guard) (b : BitVec 3) (x : BitVec 2) (g : GF) (σ : State) : Host.Outcome State Fault Refusal :=
  runSlot (.loopiReg gu b x g) .k (some gu) (do
    let v ← readG g
    loopSetup b x (v.setWidth 32)) σ

/-- LOOPL: ceil(lrc / d) passes; lrc is waited for (R149, R157). -/
def execLoopl (gu : Guard) (b : BitVec 3) (x : BitVec 2) (d : BitVec 7) (σ : State) : Host.Outcome State Fault Refusal :=
  runSlot (.loopl gu b x d) .k (some gu) (do
    needClaim
    let m ← getM
    awaitIf (m.jobs.any fun j => j.cont == m.cur.id && j.op == opPack && j.st ≠ .landed)
    loopSetup b x (BitVec.ofNat 32 ((m.cur.mx.lrc.toNat + d.toNat - 1) / d.toNat))) σ

/-- Writes fmt: instructions that leave their queues in the four cycles that begin now take the older value; bits 31:26 ignore
writes; a vector or matrix command in a queue meets the format checks anew (R124, R129, R150). -/
def setFmt (v : W32) : Act Unit := modM fun m =>
  let c := m.cur
  { m with cur := { c with
    fmt := v &&& 0x03FFFFFF
    fmtOld := (c.fmtOld.filter fun o => decide (m.cyc c.die < o.till)) ++ [{ val := c.fmt, till := m.cyc c.die + 4 }]
    fmtUndo := if c.queue.isEmpty then c.fmtUndo else c.fmtUndo ++ [{ bundle := c.bundleNow, fmt := c.fmt, old := c.fmtOld }]
    queue := c.queue.map fun e => if e.slot = 3 ∨ e.slot = 4 then { e with checked := false } else e } }

/-- FMTW: one half of fmt (R150). -/
def execFmtw (gu : Guard) (h : Bool) (m : BitVec 16) (σ : State) : Host.Outcome State Fault Refusal :=
  runSlot (.fmtw gu h m) .k (some gu) (do
    let c ← getC
    setFmt (BitVec.ofNat 32 (if h then putBits c.fmt.toNat 31 16 m.toNat else putBits c.fmt.toNat 15 0 m.toNat))) σ

/-- FMTWG: fmt under a mask (R150). -/
def execFmtwg (gu : Guard) (a : GF) (b : GF) (σ : State) : Host.Outcome State Fault Refusal :=
  runSlot (.fmtwg gu a b) .k (some gu) (do
    let x ← readG a
    let y ← readG b
    let c ← getC
    setFmt ((c.fmt &&& ~~~(y.setWidth 32)) ||| (x.setWidth 32 &&& y.setWidth 32))) σ

/-- The word WAITA watches and its record address: in its window, or in virtual memory (R151). -/
def waitWord (virt : Bool) (x : Word) : Act (Word × W32) := do
  raiseIf (decide (x.toNat % 8 ≠ 0)) 0x2001 x
  if virt then do
    let m ← getM
    match m.resolveCont x 8 .read with
    | .wait => await
    | .fail t => raiseT t
    | .ok ps => pure (x, BitVec.ofNat 32 (leNat (m.mem.readParts m.cur.die ps)))
  else do
    raiseIf (decide (2 ^ 23 ≤ x.toNat)) 0x2002 x
    let b ← readS x.toNat 8
    pure (x + (1 <<< 63), BitVec.ofNat 32 (leNat b))

/-- A member of a stolen team waits on a word at its origin, which is told so (R293, R294). -/
def Mach.armAtOrigin (m : Mach) : Mach :=
  let c := m.cur
  match m.guestOf c with
  | none => m
  | some g =>
    if c.waddr.getLsbD 63 && decide (c.waddr.toNat < 2 ^ 63 + 2 ^ 23) then m
    else m.sendTo 2 g.origin (.arm g.task g.team c.rank.toNat c.waddr c.wval c.wcond)

/-- WAITA: arms, compares, and suspends where the condition is false (R23, R151). -/
def execWaita (gu : Guard) (a : GF) (b : GF) (s : Bool) (c : BitVec 3) (σ : State) : Host.Outcome State Fault Refusal :=
  runSlot (.waita gu a b s c) .k (some gu) (do
    let x ← readG a
    let y ← readG b
    let w ← waitWord s x
    reportPoint
    let v := w.2
    let chg := decide (c = 4)
    if !chg && waitHolds c v (y.setWidth 32) then pure ()
    else
      performEarlier
      modC fun k => { k with state := 3, waddr := w.1, wval := if chg then v else y.setWidth 32, wcond := c }
      modM Mach.armAtOrigin) σ

/-- SUSP: state 2 to 1 (R152). -/
def execSusp (gu : Guard) (σ : State) : Host.Outcome State Fault Refusal :=
  runSlot (.susp gu) .k (some gu) (do
    performEarlier
    modC fun c => { c with state := 1 }) σ

/-- DONE: a pending store failure is reported; state 6, arrived at every barrier (R29, R152, R351). -/
def execDone (gu : Guard) (σ : State) : Host.Outcome State Fault Refusal :=
  runSlot (.done gu) .k (some gu) (do
    reportPoint
    performEarlier
    modC fun c => { c with state := 6 }
    modM fun m => m.clearRx fun r => bit r.word.toNat 63 && r.task == m.cur.task && r.team == m.cur.team.toNat && r.rank == m.cur.rank.toNat
    modM fun m => (List.range 8).foldl (fun m k => m.barrierCheck m.cur.task m.cur.team.toNat k) m) σ

/-- Arrival at a barrier: the last member goes on, another goes to state 5 (R29). -/
def Mach.arriveBarrier (m : Mach) (id : BitVec 3) : Mach :=
  let c := m.cur
  match m.team? c.task c.team.toNat with
  | none => m
  | some t =>
    let arr := vget t.arrived id.toNat 0 ||| ((1 : BitVec 16) <<< c.rank.toNat)
    let m := (m.setTeam { t with arrived := vset t.arrived id.toNat arr }).barrierCheck c.task c.team.toNat id.toNat
    match m.team? c.task c.team.toNat with
    | some t => if vget t.arrived id.toNat 0 = 0 then m else { m with cur := { m.cur with state := 5, barr := some id } }
    | none => m

/-- BARR: a release, then arrival at the barrier (R29, R152). -/
def execBarr (gu : Guard) (n : BitVec 3) (σ : State) : Host.Outcome State Fault Refusal :=
  runSlot (.barr gu n) .k (some gu) (do
    reportPoint
    performEarlier
    modM fun k => k.arriveBarrier n) σ

/-- Bit `k` of a SYNC mask, where zero selects all five (R154). -/
def syncBit (m : BitVec 5) (k : Nat) : Bool := decide (m = 0) || m.getLsbD k

/-- SYNC: later bundles wait for the selected completions; stores are performed as they issue (R154). -/
def execSync (gu : Guard) (m : GF) (σ : State) : Host.Outcome State Fault Refusal :=
  runSlot (.sync gu m) .k (some gu) (do
    modM fun k => if syncBit m 1 then k.flushV k.cur.id else k
    modM fun k =>
      let hold := fun (x : Nat) (kind : HoldKind) (before : Nat) =>
        if syncBit m x then [({ kind := kind, slots := 0x7F, before := before, bundle := k.cur.bundleNow } : Hold)] else []
      let new := hold 0 .results k.nextJob ++ hold 1 .vectors 0 ++ hold 2 .commands k.nextCmd ++ hold 3 .stores 0 ++ hold 4 .jobs k.nextJob
      { k with cur := { k.cur with holds := k.cur.holds ++ new } }) σ

/-- TRAP: a software trap with its code (R155). -/
def execTrap (gu : Guard) (c : BitVec 12) (σ : State) : Host.Outcome State Fault Refusal :=
  runSlot (.trap gu c) .k (some gu) (raise (0xF000 + c.setWidth 16)) σ

/-- SIGC: the write follows every earlier access and job of the continuation, as a release at the scope (R156). -/
def execSigc (gu : Guard) (a : GF) (b : GF) (s : Bool) (c : BitVec 3) (σ : State) : Host.Outcome State Fault Refusal :=
  runSlot (.sigc gu a b s c) .k (some gu) (do
    checkScope c
    let x ← readG a
    strongCheck (!s) 8 x
    let y ← readG b
    let t ← strongPlace (!s) 8 x .write
    reportPoint
    performEarlier
    modM fun m =>
      let p : PendSig := { target := t, value := y, scope := c, before := m.nextJob }
      ({ m with cur := { m.cur with sig := m.cur.sig ++ [p] } } : Mach).settleSigsOf m.cur.id) σ

end Sys2Proof.Machine
end

