-- ==== Sys2Proof/Machine/Kv.lean ====
section
/-! DEFINITION. The slot fill table, arena descriptors and KV blocks (R54, R55, R75, R76), read as module structures; a
generator's binding and advance (R77, R174). -/

namespace Sys2Proof.Machine

/-- A slot's fill-table entry (R54). -/
structure SlotEntry where
  arena : Word
  area : Nat
  recs : Nat
  first : Nat
  last : Nat
  hidden : Nat
  fmt : Nat
  ctx : BitVec 12
  table : Word
  deriving DecidableEq, Repr

/-- An arena descriptor (R75). -/
structure Arena where
  base : Word
  stride : Nat
  positions : Nat
  first : Nat
  last : Nat
  kb : Nat
  vb : Nat
  deriving DecidableEq, Repr

/-- The fill-table entry of a slot as a die sees it; `none`: it is invalid. An entry whose first layer exceeds its last is
valid and holds no layer; an area base is used as it stands, wherever it lies (log entry 68). -/
def Mach.slotEntry? (m : Mach) (die slot : Nat) : Option SlotEntry :=
  let b := m.mem.read die (m.regs.filltab.toNat + 32 * slot) 32
  let e : SlotEntry := {
    arena := toW (leAt b 0 8), area := leAt b 8 8, recs := leAt b 16 2, first := leAt b 18 1, last := leAt b 19 1,
    hidden := leAt b 20 2, fmt := bits (leAt b 22 1) 3 0, ctx := BitVec.ofNat 12 (leAt b 22 2 / 16), table := toW (leAt b 24 8) }
  if !((m.mem.firstMark die (m.regs.filltab.toNat + 32 * slot) 32).isSome) ∧ 1 ≤ e.recs ∧ e.fmt ≤ 1 ∧ 64 ≤ e.hidden ∧ e.hidden ≤ 16384 ∧ e.hidden % 64 = 0 ∧ e.area % 64 = 0 then some e
  else none

/-- Reads a module structure that is virtual in a slot's context, as the context table stands (R54, R71). -/
def Mach.slotRead (m : Mach) (die : Nat) (ctx : BitVec 12) (va : Word) (n : Nat) : Option (List Byte) :=
  match m.ctxEntryNow die ctx with
  | none => none
  | some e => m.ctxRead die ctx e va n

/-- Writes a module structure that is virtual in a slot's context; `none` where it cannot be written. -/
def Mach.slotWrite (m : Mach) (die : Nat) (ctx : BitVec 12) (va : Word) (bytes : List Byte) (poison : Bool) : Option Mach :=
  match m.ctxEntryNow die ctx with
  | none => none
  | some e => match m.resolveCtx die ctx e va bytes.length .write with
    | .ok ps => some { m with mem := m.mem.landParts die ps bytes poison }
    | _ => none

/-- The arena descriptor's limits (R75). -/
def Arena.ok (a : Arena) : Bool :=
  decide (a.base.toNat % 64 = 0 ∧ a.stride % 64 = 0 ∧ 64 + 16 * (a.kb + a.vb) ≤ a.stride ∧ a.positions % 16 = 0 ∧
    16 ≤ a.positions ∧ a.positions ≤ 16777216 ∧ a.first ≤ a.last ∧ a.kb % 64 = 0 ∧ 64 ≤ a.kb ∧ a.kb ≤ 16384 ∧
    a.vb % 64 = 0 ∧ 64 ≤ a.vb ∧ a.vb ≤ 16384)

/-- Whether a draining range holds back a module's access to a range of a context: only heap windows do not drain (R71, R73). -/
def Mach.ctxHeld (m : Mach) (die : Nat) (ctx : BitVec 12) (va : Word) (n : Nat) : Bool :=
  m.drainsOn ctx va.toNat n && !((m.ctxEntryNow die ctx).any fun x => x.inHeap va)

/-- The arena of a slot entry: `none` where the descriptor cannot be read or breaks a limit. -/
def Mach.arena? (m : Mach) (die : Nat) (e : SlotEntry) : Option Arena :=
  match m.slotRead die e.ctx e.arena 32 with
  | none => none
  | some b =>
    let a : Arena := { base := toW (leAt b 0 8), stride := leAt b 8 4, positions := leAt b 12 4, first := leAt b 16 1,
                       last := leAt b 17 1, kb := leAt b 18 2, vb := leAt b 20 2 }
    if a.ok then some a else none

/-- Whether a layer is held on this module (R54). -/
def layerHeld (e : SlotEntry) (a : Arena) (l : Nat) : Bool := decide (e.first ≤ l ∧ l ≤ e.last ∧ a.first ≤ l ∧ l ≤ a.last)

/-- Address of the block of a layer that holds a position (R76). -/
def Arena.block (a : Arena) (l p : Nat) : Word := a.base + toW (((l - a.first) * (a.positions / 16) + p / 16) * a.stride)

/-- A slot and its arena, where both are valid. -/
def Mach.slotArena? (m : Mach) (die slot : Nat) : Option (SlotEntry × Arena) :=
  match m.slotEntry? die slot with
  | none => none
  | some e => match m.arena? die e with
    | none => none
    | some a => some (e, a)

/-- Whether a draining range holds back the arena descriptor of a slot (R54, R73). -/
def Mach.slotHeld (m : Mach) (die slot : Nat) : Bool := (m.slotEntry? die slot).any fun e => m.ctxHeld die e.ctx e.arena 32

/-- Why a slot's arena cannot be used: an invalid entry or descriptor, its translation, or poison (R54, R71, R381). -/
def Mach.slotFault (m : Mach) (die slot : Nat) : Trap :=
  match m.mem.firstMark die (m.regs.filltab.toNat + 32 * slot) 32 with
  | some g => { cause := 0x3006, info := toW g }
  | none => match m.slotEntry? die slot with
    | none => { cause := 0x2003 }
    | some e => match m.ctxEntryNow die e.ctx with
      | none => { cause := 0x3002, faddr := e.arena }
      | some x => match m.resolveCtx die e.ctx x e.arena 32 .read with
        | .ok ps => match m.mem.markParts die ps with
          | some g => { cause := 0x3006, faddr := e.arena, info := toW g }
          | none => { cause := 0x2003 }
        | .fail t => t
        | .wait => { cause := 0x2003 }

/-- Element size of a slot's hidden format (R54). -/
def SlotEntry.elem (e : SlotEntry) : Nat := if e.fmt = 0 then 4 else 2

/-- Physical address of a fill-source record (R54). -/
def SlotEntry.recordPa (e : SlotEntry) (x : Nat) : Nat := e.area + x * (64 + e.hidden * e.elem)

/-! ### Updates at a location's home (R91): what several dies change, one after the other -/

/-- Before an update of physical parts at their homes by an agent of die `d`. -/
def Mach.homePrep (m : Mach) (d : Nat) (ps : List (Nat × Nat)) (rel : Bool) (past : SMap Nat := []) : Mach :=
  { m with mem := ps.foldl (fun (x : Mem) p => x.strongPrep d (homeOf p.1) p.1 p.2 rel past) m.mem }

/-- Reads physical parts at their homes. -/
def Mach.homeRead (m : Mach) (ps : List (Nat × Nat)) : List Byte := (ps.map fun p => m.mem.read (homeOf p.1) p.1 p.2).flatten

/-- Whether a part is marked at its home. -/
def Mach.homeMarked (m : Mach) (ps : List (Nat × Nat)) : Bool := ps.any fun p => (m.mem.firstMark (homeOf p.1) p.1 p.2).isSome

/-- Writes physical parts at their homes; die `d` then holds them. -/
def Mach.homeWrite (m : Mach) (d : Nat) (ps : List (Nat × Nat)) (bytes : List Byte) (poison : Bool) : Mach :=
  (ps.foldl (fun (a : Mach × List Byte) p =>
    ({ a.1 with mem := a.1.mem.strongWrite d (homeOf p.1) p.1 (a.2.take p.2) poison }, a.2.drop p.2)) (m, bytes)).1

/-- What a read at the homes observes reaches die `d` (R94). -/
def Mach.homeAcquire (m : Mach) (d : Nat) (ps : List (Nat × Nat)) : Mach :=
  { m with mem := ps.foldl (fun (x : Mem) p => x.acquire d (homeOf p.1) p.1 p.2) m.mem }

/-- Changes a fill-source record's count at its home (R54). -/
def Mach.recordCount (m : Mach) (die : Nat) (e : SlotEntry) (x : Nat) (f : Nat → Nat) : Mach :=
  let ps := [(e.recordPa x + 16, 2)]
  let m := m.homePrep die ps false
  m.homeWrite die ps (leBytes 2 (f (leNat (m.homeRead ps)))) false

/-- Takes one from a fill-source record's count (R54). -/
def Mach.dropRecord (m : Mach) (die : Nat) (e : SlotEntry) (x : Nat) : Mach := m.recordCount die e x fun n => n - 1

/-- The physical parts of a KV block header, in a slot's context; `none` where it cannot be read or written. -/
def Mach.headerParts (m : Mach) (die : Nat) (e : SlotEntry) (a : Arena) (l p : Nat) : Option (List (Nat × Nat)) :=
  match m.ctxEntryNow die e.ctx with
  | none => none
  | some x => match m.resolveCtx die e.ctx x (a.block l p) 64 .write with
    | .ok ps => if (m.homePrep die ps false).homeMarked ps then none else some ps
    | _ => none

/-- The fsrc entry of position `i` of a header (R55). -/
def fsrcOf (h : List Byte) (i : Nat) : Nat := leAt h (12 + 2 * i) 2

/-- A header with position `i` present and its fsrc entry cleared (R57, R223). -/
def headerPresent (h : List Byte) (i : Nat) : List Byte :=
  leBytes 64 (putBits (putBits (leNat h) i i 1) (96 + 16 * i + 15) (96 + 16 * i) 0xFFFF)

/-- State, layer tag and base of a staging buffer (R78). -/
def Die.bufState (d : Die) (b : Bool) : Nat := if b then bits d.stgst.toNat 25 24 else bits d.stgst.toNat 9 8
def Die.bufLayer (d : Die) (b : Bool) : Nat := if b then bits d.stgst.toNat 23 16 else bits d.stgst.toNat 7 0
def Die.bufBase (d : Die) (b : Bool) : Nat := if b then d.stgb1.toNat else d.stgb0.toNat
def Die.bufBytes (d : Die) (b : Bool) : Nat := (if b then d.stgs1.toNat else d.stgs0.toNat) * 65536
def Die.newest (d : Die) : Bool := bit d.stgst.toNat 32

/-- A staging buffer with another state and layer tag. -/
def Die.setBuf (d : Die) (b : Bool) (st layer : Nat) : Die :=
  { d with stgst := toW (if b then putBits (putBits d.stgst.toNat 25 24 st) 23 16 layer
                         else putBits (putBits d.stgst.toNat 9 8 st) 7 0 layer) }

/-- Where a ready buffer of a die holds a block of a slot and layer (R79). -/
def Mach.stagedOn (m : Mach) (d slot layer blk stride : Nat) : List Nat :=
  [false, true].filterMap fun b =>
    let x := m.die d
    if x.bufState b = 2 ∧ x.bufLayer b = layer then
      let e := m.mem.read d (x.bufBase b + 16 * slot) 16
      if leAt e 0 8 ≠ 0 ∧ blk < leAt e 8 4 then some (x.bufBase b + leAt e 0 8 + blk * stride) else none
    else none

/-- Every staged copy of a block. -/
def Mach.staged (m : Mach) (slot layer blk stride : Nat) : List Nat :=
  ((List.range 64).map fun d => m.stagedOn d slot layer blk stride).flatten

/-- Writes bytes at an offset of every staged copy of a block (R79). -/
def Mach.writeStaged (m : Mach) (die slot layer blk stride off : Nat) (bytes : List Byte) (poison : Bool) : Mach :=
  (m.staged slot layer blk stride).foldl (fun m pa => { m with mem := m.mem.landParts die [(pa + off, bytes.length)] bytes poison }) m

/-- AGSET's binding of a word-1 form: the generator, or the cause (R174). -/
def Mach.bindAg (m : Mach) (die : Nat) (x : Word) : Except Trap Ag :=
  if x.toNat / 2 ^ 48 ≠ 0 then .error { cause := 0x2003 }
  else match m.slotArena? die (bits x.toNat 39 32) with
    | none => .error (m.slotFault die (bits x.toNat 39 32))
    | some (e, a) =>
      let l := bits x.toNat 47 40
      if !layerHeld e a l then .error { cause := 0x2003 }
      else if a.positions ≤ bits x.toNat 31 0 then .error { cause := 0x200D }
      else .ok { w0 := a.base + toW ((l - a.first) * (a.positions / 16) * a.stride), w1 := x }

/-- A generator moved by an amount, or the cause (R77, R174). -/
def Mach.advanceAg (m : Mach) (die : Nat) (g : Ag) (by' : Int) : Except Trap Ag :=
  match m.slotArena? die (bits g.w1.toNat 39 32) with
  | none => .error (m.slotFault die (bits g.w1.toNat 39 32))
  | some (_, a) =>
    let p := (bits g.w1.toNat 31 0 : Int) + by'
    if p < 0 ∨ (a.positions : Int) ≤ p then .error { cause := 0x200D }
    else .ok { g with w1 := toW (putBits g.w1.toNat 31 0 p.toNat) }

end Sys2Proof.Machine
end

