-- ==== Sys2Proof/Machine/Memory.lean ====
section
/-! DEFINITION. The A-slot instructions: loads, stores, strong operations, load-blocks, translations, streams, rings, the
enqueue operation and address generators (R158 to R174). -/

namespace Sys2Proof.Machine

/-! ### Loads and stores -/

/-- The effective address of an SI memory form: ga + SExt(imm11) × z (R158). -/
def siAddr (x : Word) (m : BitVec 11) (z : Nat) : Word := x + m.signExtend 64 * toW z

/-- A weak load of `n` bytes: sign- or zero-extended; the mark of a poisoned granule goes with the value (R159, R381). -/
def loadV (n : Nat) (sx : Bool) (d a : GF) (m : BitVec 11) : Act Unit := do
  let x ← readG a
  let r ← readV (siAddr x m n) n
  let v := leNat r.1
  writeLoaded d (if sx then ofI (sext (8 * n) v) else toW v) r.2

/-- A weak store of the low `n` bytes of gd (R159). -/
def storeV (n : Nat) (d a : GF) (m : BitVec 11) : Act Unit := do
  let v ← readG d
  let x ← readG a
  let c ← getC
  writeV c.insnNow 2 (siAddr x m n) (leBytes n v.toNat)

/-- LDB (R159). -/
def execLdb (gu : Guard) (d : GF) (a : GF) (m : BitVec 11) (σ : State) : Host.Outcome State Fault Refusal :=
  runSlot (.ldb gu d a m) .a (some gu) (loadV 1 true d a m) σ

/-- LDBU (R159). -/
def execLdbu (gu : Guard) (d : GF) (a : GF) (m : BitVec 11) (σ : State) : Host.Outcome State Fault Refusal :=
  runSlot (.ldbu gu d a m) .a (some gu) (loadV 1 false d a m) σ

/-- LDH (R159). -/
def execLdh (gu : Guard) (d : GF) (a : GF) (m : BitVec 11) (σ : State) : Host.Outcome State Fault Refusal :=
  runSlot (.ldh gu d a m) .a (some gu) (loadV 2 true d a m) σ

/-- LDHU (R159). -/
def execLdhu (gu : Guard) (d : GF) (a : GF) (m : BitVec 11) (σ : State) : Host.Outcome State Fault Refusal :=
  runSlot (.ldhu gu d a m) .a (some gu) (loadV 2 false d a m) σ

/-- LDW (R159). -/
def execLdw (gu : Guard) (d : GF) (a : GF) (m : BitVec 11) (σ : State) : Host.Outcome State Fault Refusal :=
  runSlot (.ldw gu d a m) .a (some gu) (loadV 4 true d a m) σ

/-- LDWU (R159). -/
def execLdwu (gu : Guard) (d : GF) (a : GF) (m : BitVec 11) (σ : State) : Host.Outcome State Fault Refusal :=
  runSlot (.ldwu gu d a m) .a (some gu) (loadV 4 false d a m) σ

/-- LDD (R159). -/
def execLdd (gu : Guard) (d : GF) (a : GF) (m : BitVec 11) (σ : State) : Host.Outcome State Fault Refusal :=
  runSlot (.ldd gu d a m) .a (some gu) (loadV 8 false d a m) σ

/-- STB (R159). -/
def execStb (gu : Guard) (d : GF) (a : GF) (m : BitVec 11) (σ : State) : Host.Outcome State Fault Refusal :=
  runSlot (.stb gu d a m) .a (some gu) (storeV 1 d a m) σ

/-- STH (R159). -/
def execSth (gu : Guard) (d : GF) (a : GF) (m : BitVec 11) (σ : State) : Host.Outcome State Fault Refusal :=
  runSlot (.sth gu d a m) .a (some gu) (storeV 2 d a m) σ

/-- STW (R159). -/
def execStw (gu : Guard) (d : GF) (a : GF) (m : BitVec 11) (σ : State) : Host.Outcome State Fault Refusal :=
  runSlot (.stw gu d a m) .a (some gu) (storeV 4 d a m) σ

/-- STD (R159). -/
def execStd (gu : Guard) (d : GF) (a : GF) (m : BitVec 11) (σ : State) : Host.Outcome State Fault Refusal :=
  runSlot (.std gu d a m) .a (some gu) (storeV 8 d a m) σ

/-- A load from the member's own window (R160). -/
def loadS (n : Nat) (d a : GF) (m : BitVec 11) : Act Unit := do
  let x ← readG a
  let o ← checkWin (siAddr x m n).toInt n
  modM fun m => m.landOver o n
  let k ← getM
  writeLoaded d (toW (leNat (k.winRead k.cur o n))) (k.winMark k.cur o n)

/-- A store to the member's own window (R160). -/
def storeS (n : Nat) (d a : GF) (m : BitVec 11) : Act Unit := do
  let v ← readG d
  let x ← readG a
  writeS (siAddr x m n).toInt (leBytes n v.toNat)

/-- SPLDW (R160). -/
def execSpldw (gu : Guard) (d : GF) (a : GF) (m : BitVec 11) (σ : State) : Host.Outcome State Fault Refusal :=
  runSlot (.spldw gu d a m) .a (some gu) (loadS 4 d a m) σ

/-- SPLDD (R160). -/
def execSpldd (gu : Guard) (d : GF) (a : GF) (m : BitVec 11) (σ : State) : Host.Outcome State Fault Refusal :=
  runSlot (.spldd gu d a m) .a (some gu) (loadS 8 d a m) σ

/-- SPSTW (R160). -/
def execSpstw (gu : Guard) (d : GF) (a : GF) (m : BitVec 11) (σ : State) : Host.Outcome State Fault Refusal :=
  runSlot (.spstw gu d a m) .a (some gu) (storeS 4 d a m) σ

/-- SPSTD (R160). -/
def execSpstd (gu : Guard) (d : GF) (a : GF) (m : BitVec 11) (σ : State) : Host.Outcome State Fault Refusal :=
  runSlot (.spstd gu d a m) .a (some gu) (storeS 8 d a m) σ

/-! ### Strong operations -/

/-- Load-block fills of the continuation have landed and its SIGCs have written, or it waits: they are earlier accesses (R156,
R162). -/
def awaitFills : Act Unit := do
  let c ← getC
  awaitIf (!c.sig.isEmpty || c.blocks.toList.any fun b => match b with
    | some b => !b.filled
    | none => false)

/-- A poisoned location stops a strong operation that reads it (R381). -/
def markCheck (p : SigTarget) (n : Nat) (x : Word) : Act Unit := do
  let m ← getM
  match m.placeMark p n with
  | some g => raise 0x3006 x (toW g)
  | none => pure ()

/-- LDACQ: a read at the home, with acquire (R162). -/
def execLdacq (gu : Guard) (d : GF) (a : GF) (e : Bool) (z : BitVec 2) (c : BitVec 3) (σ : State) : Host.Outcome State Fault Refusal :=
  runSlot (.ldacq gu d a e z c) .a (some gu) (do
    checkScope c
    let x ← readG a
    strongCheck e (2 ^ z.toNat) x
    let p ← strongPlace e (2 ^ z.toNat) x .read
    reportPoint
    modM fun m => (m.placeLand p (2 ^ z.toNat)).placePrep m.cur.die p (2 ^ z.toNat) false []
    markCheck p (2 ^ z.toNat) x
    let m ← getM
    modM fun m => m.placeAcquire m.cur.die p (2 ^ z.toNat)
    writeG d (toW (leNat (m.placeRead p (2 ^ z.toNat))))) σ

/-- STREL: a write at the home after every earlier access, with release (R162). -/
def execStrel (gu : Guard) (a : GF) (b : GF) (e : Bool) (z : BitVec 2) (c : BitVec 3) (σ : State) : Host.Outcome State Fault Refusal :=
  runSlot (.strel gu a b e z c) .a (some gu) (do
    checkScope c
    let x ← readG a
    strongCheck e (2 ^ z.toNat) x
    let y ← readG b
    let p ← strongPlace e (2 ^ z.toNat) x .write
    reportPoint
    awaitFills
    performEarlier
    modM fun m => (m.placePrep m.cur.die p (2 ^ z.toNat) (wide c) m.cur.past).placeWrite m.cur.die p (leBytes (2 ^ z.toNat) y.toNat)) σ

/-- The new value of an atomic of `n` bytes, if it writes, and its events (R163). `cmp` is AMOCAS's comparand. -/
def amoNew (op : StrongOp) (n : Nat) (uns : Bool) (old v cmp : Nat) : Option Nat × Nat :=
  let md := 2 ^ (8 * n)
  let less := if uns then decide (old < v % md) else decide (sext (8 * n) old < sext (8 * n) v)
  match op with
  | .load => (none, 0)
  | .store => (some (v % md), 0)
  | .add => (some ((old + v) % md), 0)
  | .and => (some (old &&& (v % md)), 0)
  | .or => (some (old ||| (v % md)), 0)
  | .xor => (some (old ^^^ (v % md)), 0)
  | .min => (some (if less then old else v % md), 0)
  | .max => (some (if less then v % md else old), 0)
  | .swp => (some (v % md), 0)
  | .cas => (if old = cmp % md then some (v % md) else none, 0)
  | .fadd =>
    let k := fpCode (n == 8)
    let s := (readNum k old).add (readNum k (v % md))
    let r := roundTo k false s.1
    (some r.pat, r.ev ||| s.2 ||| sigEv [(k, old), (k, v % md)])

/-- An atomic: one indivisible read-modify-write at the home, with acquire and release (R91, R163). AMOCAS reads gd, as the
field nearer bit 31, first. -/
def amo (op : StrongOp) (d a b : GF) (spad uns w : Bool) (sc : BitVec 3) : Act Unit := do
  checkScope sc
  let n := if w then 8 else 4
  let k ← (if op = .cas then readG d else pure 0)
  let x ← readG a
  strongCheck spad n x
  let y ← readG b
  let p ← strongPlace spad n x .write
  reportPoint
  awaitFills
  performEarlier
  modM fun m => m.placePrep m.cur.die p n (wide sc) m.cur.past
  markCheck p n x
  let m ← getM
  let old := leNat (m.placeRead p n)
  let r := amoNew op n uns old y.toNat k.toNat
  modM fun m => match r.1 with
    | some v => m.placeWrite m.cur.die p (leBytes n v)
    | none => m
  modM fun m => m.placeAcquire m.cur.die p n
  writeG d (toW old)
  flagEventsAt 2 r.2

/-- AMOADD (R163). -/
def execAmoadd (gu : Guard) (d : GF) (a : GF) (b : GF) (e : Bool) (w : Bool) (c : BitVec 3) (σ : State) : Host.Outcome State Fault Refusal :=
  runSlot (.amoadd gu d a b e w c) .a (some gu) (amo .add d a b e false w c) σ

/-- AMOAND (R163). -/
def execAmoand (gu : Guard) (d : GF) (a : GF) (b : GF) (e : Bool) (w : Bool) (c : BitVec 3) (σ : State) : Host.Outcome State Fault Refusal :=
  runSlot (.amoand gu d a b e w c) .a (some gu) (amo .and d a b e false w c) σ

/-- AMOOR (R163). -/
def execAmoor (gu : Guard) (d : GF) (a : GF) (b : GF) (e : Bool) (w : Bool) (c : BitVec 3) (σ : State) : Host.Outcome State Fault Refusal :=
  runSlot (.amoor gu d a b e w c) .a (some gu) (amo .or d a b e false w c) σ

/-- AMOXOR (R163). -/
def execAmoxor (gu : Guard) (d : GF) (a : GF) (b : GF) (e : Bool) (w : Bool) (c : BitVec 3) (σ : State) : Host.Outcome State Fault Refusal :=
  runSlot (.amoxor gu d a b e w c) .a (some gu) (amo .xor d a b e false w c) σ

/-- AMOMIN (R163). -/
def execAmomin (gu : Guard) (d : GF) (a : GF) (b : GF) (e : Bool) (u : Bool) (w : Bool) (c : BitVec 3) (σ : State) : Host.Outcome State Fault Refusal :=
  runSlot (.amomin gu d a b e u w c) .a (some gu) (amo .min d a b e u w c) σ

/-- AMOMAX (R163). -/
def execAmomax (gu : Guard) (d : GF) (a : GF) (b : GF) (e : Bool) (u : Bool) (w : Bool) (c : BitVec 3) (σ : State) : Host.Outcome State Fault Refusal :=
  runSlot (.amomax gu d a b e u w c) .a (some gu) (amo .max d a b e u w c) σ

/-- AMOSWP (R163). -/
def execAmoswp (gu : Guard) (d : GF) (a : GF) (b : GF) (e : Bool) (w : Bool) (c : BitVec 3) (σ : State) : Host.Outcome State Fault Refusal :=
  runSlot (.amoswp gu d a b e w c) .a (some gu) (amo .swp d a b e false w c) σ

/-- AMOCAS (R163). -/
def execAmocas (gu : Guard) (d : GF) (a : GF) (b : GF) (e : Bool) (w : Bool) (c : BitVec 3) (σ : State) : Host.Outcome State Fault Refusal :=
  runSlot (.amocas gu d a b e w c) .a (some gu) (amo .cas d a b e false w c) σ

/-- AMOFADD: never in Dusk mode; the A-slot flags (R163, R368). -/
def execAmofadd (gu : Guard) (d : GF) (a : GF) (b : GF) (e : Bool) (w : Bool) (c : BitVec 3) (σ : State) : Host.Outcome State Fault Refusal :=
  runSlot (.amofadd gu d a b e w c) .a (some gu) (amo .fadd d a b e false w c) σ

/-- FENCE: earlier accesses before later ones; earlier writes with later reads wait for every die of the scope (R92, R164). -/
def execFence (gu : Guard) (c : BitVec 3) (s : BitVec 4) (σ : State) : Host.Outcome State Fault Refusal :=
  runSlot (.fence gu c s) .a (some gu) (do
    checkScope c
    reportPoint
    if (s.getLsbD 0 || s.getLsbD 1) && (s.getLsbD 2 || s.getLsbD 3) then
      if s.getLsbD 0 then awaitFills else pure ()
      performEarlier
      modM fun m => if s.getLsbD 1 && s.getLsbD 2 && wide c then { m with mem := m.mem.spread m.cur.die } else m
    else pure ()) σ

/-! ### Load-blocks -/

/-- The line addresses of resolved parts. -/
def linesOf (ps : List (Nat × Nat)) : List Nat := (ps.map fun p => (List.range (p.2 / 64)).map fun k => p.1 + 64 * k).flatten

/-- LDBLK: declares a block; its fill lands later (R68, R165). -/
def execLdblk (gu : Guard) (d : GF) (a : GF) (b : GF) (n : BitVec 3) (σ : State) : Host.Outcome State Fault Refusal :=
  runSlot (.ldblk gu d a b n) .a (some gu) (do
    let v ← readG d
    let x ← readG a
    raiseIf (decide (x.toNat % 64 ≠ 0)) 0x2001 x
    let y ← readG b
    let off := bits y.toNat 22 0
    let len := 64 * (bits y.toNat 37 32 + 1)
    raiseIf (decide (off % 8 ≠ 0)) 0x2001 (toW off)
    raiseIf (!canonical x || !canonical (x + toW (len - 1))) 0x3001 x
    let o ← checkWin off 8
    raiseIf (decide (bits y.toNat 31 23 ≠ 0 ∨ bits y.toNat 63 38 ≠ 0)) 0x2003
    let m ← getM
    raiseIf (vget m.cur.blocks n.toNat none).isSome 0x200C x
    match m.resolveCont x len .read with
    | .wait => await
    | .fail t => raiseT t
    | .ok ps =>
      let blk : LoadBlock := {
        va := x, pas := linesOf ps, data := List.replicate len 0, dirty := List.replicate len false
        poison := List.replicate (len / 64) false, filled := false, cword := skey m.cur.gcore (m.cur.winBase + o), cval := v }
      modC fun c => { c with blocks := vset c.blocks n.toNat (some blk) }) σ

/-- A block's fill: every byte its owner has not stored takes memory's; then the completion value is written (R68, R81). -/
def Mach.fillBlock (m : Mach) (c : Cont) (n : Nat) : Mach :=
  match vget c.blocks n none with
  | none => m
  | some b =>
    if b.filled then m
    else
      let raw := (b.pas.map fun pa => m.mem.read c.die pa 64).flatten
      let data := (b.data.zip (b.dirty.zip raw)).map fun t => if t.2.1 then t.1 else t.2.2
      let b := { b with data := data, poison := b.pas.map fun pa => m.mem.marked c.die pa, filled := true }
      let m := m.setCont { c with blocks := vset c.blocks n (some b) }
      { m with mem := m.mem.spadWrite b.cword (leBytes 8 b.cval.toNat) false }

/-- Writes a block's dirty bytes back as weak stores, in ascending order; a failing one is held for its report (R166,
R376). -/
def Mach.writeBack (m : Mach) (c : Cont) (b : LoadBlock) : Mach × Cont :=
  (List.range b.data.length).foldl (fun (s : Mach × Cont) k =>
    if b.dirty.getD k false then
      match s.1.task? c.task with
      | none => s
      | some t => match s.1.resolveTask c.die (c.leases t) (b.va + toW k) 1 .write with
        | .ok ps => ({ s.1 with mem := s.1.mem.writeParts c.die ps [b.data.getD k 0] (b.poison.getD (k / 64) false) }, s.2)
        | .fail f => (s.1, s.2.holdLate { trap := f, pc := c.pc, insn := c.insnNow, slot := 2, eng := false })
        | .wait => s
    else s) (m, c)

/-- Writes a live block back, and frees it if asked. -/
def Mach.releaseBlock (m : Mach) (id n : Nat) (free : Bool) : Mach :=
  match m.cont? id with
  | none => m
  | some c => match vget c.blocks n none with
    | none => m
    | some b =>
      let r := m.writeBack c b
      let b' := if free then none else some { b with dirty := b.dirty.map fun _ => false }
      r.1.setCont { r.2 with blocks := vset r.2.blocks n b' }

/-- BLKWB and BLKREL: an unfilled block is waited for; a dead one is nothing (R166). -/
def blockBack (n : BitVec 3) (free : Bool) : Act Unit := do
  let c ← getC
  match vget c.blocks n.toNat none with
  | none => pure ()
  | some b =>
    awaitIf (!b.filled)
    modM fun m => m.releaseBlock m.cur.id n.toNat free

/-- BLKWB (R166). -/
def execBlkwb (gu : Guard) (n : BitVec 3) (σ : State) : Host.Outcome State Fault Refusal :=
  runSlot (.blkwb gu n) .a (some gu) (blockBack n false) σ

/-- BLKREL (R166). -/
def execBlkrel (gu : Guard) (n : BitVec 3) (σ : State) : Host.Outcome State Fault Refusal :=
  runSlot (.blkrel gu n) .a (some gu) (blockBack n true) σ

/-! ### Translations and leases -/

/-- A continuation with a tx register replaced. -/
def Cont.setTx (c : Cont) (n : Nat) (x : Tx) : Cont := { c with tx := vset c.tx n x }

/-- Whether a translation that has been found permits reading too (R72). -/
def Mach.mayRead (m : Mach) (die : Nat) (t : Task) (va : Word) : Bool :=
  match m.xlateTask die t va .read with
  | .ok _ _ _ => true
  | _ => false

/-- XLT and XLTP: an earlier translation of the register comes first, and an earlier write of the destination (R73, R128); the
register goes invalid; a heap address writes at once, a page's word comes with the translation; a failure is precise and
leaves the register invalid (R73, R167). -/
def xlt (dest : Option GF) (a : GF) (w : Bool) (n : BitVec 2) : Act Unit := do
  let x ← readG a
  let k ← getC
  awaitIf ((vget k.tx n.toNat {}).pend.any fun p => !p.again)
  awaitIf (dest.any fun d => k.awaits d)
  modC fun c => c.dropTx n.toNat
  let m ← getM
  let stop := fun (t : Trap) => (fun _ => .error (.trapTx t n.toNat) : Act Unit)
  if !canonical x then stop { cause := 0x3001, faddr := x }
  else match m.task? m.cur.task with
    | none => stop { cause := 0x3002, faddr := x }
    | some t => match m.xlateTask m.cur.die t x (if w then .write else .read) with
      | .fail c i => stop { cause := c, faddr := x, info := toW i, walk := c == 0x3006 }
      | .wait =>
        let p : TxPend := { pa := 0, size := 0, wr := false, redo := true, dest := dest, pc := k.pc, insn := k.insnNow }
        modC fun c => c.setTx n.toNat { va := x, wantWrite := w, pend := some p }
      | .ok pa wr sz =>
        if sz = 3 then do
          let word := toW (2 ^ 63 + 2 ^ 62 + 3 * 2 ^ 60 + pa)
          modC fun c => c.setTx n.toNat { word := word, va := x, wantWrite := w }
          match dest with
          | some d => writeG d word
          | none => pure ()
        else
          let p : TxPend := { pa := pa, size := sz, wr := wr, rd := m.mayRead m.cur.die t x, dest := dest, pc := k.pc, insn := k.insnNow }
          modC fun c => c.setTx n.toNat { va := x, wantWrite := w, pend := some p }

/-- XLT (R167). -/
def execXlt (gu : Guard) (a : GF) (l : BitVec 3) (w : Bool) (n : BitVec 2) (σ : State) : Host.Outcome State Fault Refusal :=
  runSlot (.xlt gu a l w n) .a (some gu) (xlt none a w n) σ

/-- XLTP (R167). -/
def execXltp (gu : Guard) (d : GF) (a : GF) (l : BitVec 3) (w : Bool) (n : BitVec 2) (σ : State) : Host.Outcome State Fault Refusal :=
  runSlot (.xltp gu d a l w n) .a (some gu) (xlt (some d) a w n) σ

/-- LEASEQ: the first leased range of the task's list that holds ga (R168). -/
def execLeaseq (gu : Guard) (d : GF) (a : GF) (σ : State) : Host.Outcome State Fault Refusal :=
  runSlot (.leaseq gu d a) .a (some gu) (do
    let x ← readG a
    let m ← getM
    let hit := (m.task? m.cur.task).bind fun t =>
      if t.leased && canonical x then t.fp.find? fun r => decide (r.base.toNat ≤ x.toNat ∧ x.toNat < r.base.toNat + r.len) else none
    writeG d (match hit with
      | some r => toW (2 ^ 63 + oneBit r.wr 62 + oneBit r.ren 61 + (r.base.toNat + r.len - x.toNat) % 2 ^ 56)
      | none => 0)) σ

/-! ### Streams -/

/-- The rules of R169 on a stream record. -/
def streamOk (b : List Byte) : Bool :=
  let s := StreamRec.ofBytes b
  let used := List.range s.dims.toNat
  decide (leAt b 10 2 = 0 ∧ leAt b 44 4 = 0 ∧ 1 ≤ s.dims.toNat ∧ s.dims.toNat ≤ 4) &&
    (used.all fun d => decide (vget s.counts d 0 ≠ 0)) &&
    (decide (s.wrap = 0) || decide (64 ≤ s.wlen.toNat ∧ s.wlen.toNat ≤ 2 ^ 31 ∧ s.wlen.toNat % 2 ^ s.lg.toNat = 0 ∧
      s.phase.toNat < s.wlen.toNat)) &&
    ((List.range 4).all fun d => decide ((vget s.idx d 0).toNat < if d < s.dims.toNat then (vget s.counts d 0).toNat else 1)) &&
    (if s.virt then canonical s.base else decide (s.base.toNat < 2 ^ 23))

/-- SBIND: copies and checks a record; an earlier binding's writes have been performed (R169). -/
def execSbind (gu : Guard) (n : BitVec 3) (a : GF) (m : BitVec 11) (σ : State) : Host.Outcome State Fault Refusal :=
  runSlot (.sbind gu n a m) .a (some gu) (do
    let x ← readG a
    let o := siAddr x m 64
    raiseIf (decide (o.toNat % 64 ≠ 0)) 0x2001 o
    let w ← checkWin o.toInt 64
    modM fun m => m.landOver w 64
    let k ← getM
    let b := k.winRead k.cur w 64
    raiseIf (!(streamOk b)) 0x2003
    match k.winMark k.cur w 64 with
    | some g => raiseT { cause := 0x3006, faddr := o, info := toW g, walk := true }
    | none => modC fun c => { c with streams := vset c.streams n.toNat (some (StreamRec.ofBytes b)) }) σ

/-- SUNBIND (R170). -/
def execSunbind (gu : Guard) (n : BitVec 3) (σ : State) : Host.Outcome State Fault Refusal :=
  runSlot (.sunbind gu n) .a (some gu) (modC fun c => { c with streams := vset c.streams n.toNat none }) σ

/-! ### Rings -/

/-- Fields of a ring view (R62). -/
def ringBase (v : BitVec 128) : Nat := bits v.toNat 22 0
def ringSize (v : BitVec 128) : Nat := bits v.toNat 31 23 * 64
def ringCount (v : BitVec 128) : Nat := 2 ^ bits v.toNat 34 32
def ringHead (v : BitVec 128) : Nat := bits v.toNat 42 35
def ringTail (v : BitVec 128) : Nat := bits v.toNat 50 43
def ringValid (v : BitVec 128) : Bool := bit v.toNat 51
def ringRows (v : BitVec 128) : Nat := bits v.toNat 86 64

/-- Occupancy: (tail − head) mod 256 (R63). -/
def ringOcc (v : BitVec 128) : Nat := (ringTail v + 256 - ringHead v) % 256

/-- A view with its tail moved. -/
def ringPush (v : BitVec 128) (n : Nat) : BitVec 128 := BitVec.ofNat 128 (putBits v.toNat 50 43 (ringTail v + n))

/-- A view as QINIT writes it: one that is not valid is not checked, and its reserved bits read as zero (R6, R62, R171). -/
def ringWritten (v : BitVec 128) : BitVec 128 := BitVec.ofNat 128 (putBits (putBits v.toNat 63 52 0) 127 87 0)

/-- A view with its head moved. -/
def ringPop (v : BitVec 128) (n : Nat) : BitVec 128 := BitVec.ofNat 128 (putBits v.toNat 42 35 (ringHead v + n))

/-- The consume position after the head moves by `n`: it never lies below the head (R202). -/
def consumeAfter (v : BitVec 128) (cpos : Byte) (n : Nat) : Byte :=
  if (cpos.toNat + 256 - ringHead v) % 256 < n then BitVec.ofNat 8 (ringHead v + n) else cpos

/-- QINIT's check of a valid view (R171). -/
def ringOk (c : Cont) (v : BitVec 128) : Bool :=
  decide (1 ≤ bits v.toNat 31 23 ∧ ringBase v % 64 = 0 ∧ bits v.toNat 63 52 = 0 ∧ bits v.toNat 127 87 = 0) &&
    c.inWindow (ringBase v) (ringCount v * ringSize v) && c.inWindow (ringRows v) (ringCount v)

/-- QINIT: after the ring's earlier users, a checked view is written (R171, R202). -/
def execQinit (gu : Guard) (n : BitVec 4) (a : GF) (b : GF) (σ : State) : Host.Outcome State Fault Refusal :=
  runSlot (.qinit gu n a b) .a (some gu) (do
    needClaim
    let x ← readG a
    let y ← readG b
    let c ← getC
    let v : BitVec 128 := BitVec.ofNat 128 (x.toNat + y.toNat * 2 ^ 64)
    raiseIf (ringValid v && !(ringOk c v)) 0x2003
    let m ← getM
    awaitIf ((c.mx.array ++ c.mx.tq1).any fun k => k.reads.contains n.toNat)
    awaitIf (m.jobs.any fun j => j.cont == c.id && j.st ≠ .landed && Card.radv j.card && Card.ringq j.card == n.toNat)
    modC fun c => { c with mx := { c.mx with
      rings := vset c.mx.rings n.toNat (ringWritten v), cpos := vset c.mx.cpos n.toNat (BitVec.ofNat 8 (ringHead v)) } }) σ

/-- Writes one row-count byte for each of `k` tiles from slot `i` on (R171). -/
def putRowCounts (v : BitVec 128) (x : Byte) : Nat → Nat → Act Unit
  | 0, _ => pure ()
  | k + 1, i => do
    writeS ((ringRows v + i % ringCount v : Nat) : Int) [x]
    putRowCounts v x k (i + 1)

/-- QADV: tail after earlier scratchpad writes, or head after earlier vector reads (R171, R202). -/
def execQadv (gu : Guard) (q : BitVec 4) (a : GF) (r : Bool) (h : Bool) (n : BitVec 8) (σ : State) : Host.Outcome State Fault Refusal :=
  runSlot (.qadv gu q a r h n) .a (some gu) (do
    needClaim
    let x ← (if r then readG a else pure 0)
    let c ← getC
    let v := vget c.mx.rings q.toNat 0
    if h then
      raiseIf (decide (ringOcc v < n.toNat)) 0x2007
      performEarlier
      modC fun c => { c with mx := { c.mx with
        rings := vset c.mx.rings q.toNat (ringPop v n.toNat)
        cpos := vset c.mx.cpos q.toNat (consumeAfter v (vget c.mx.cpos q.toNat 0) n.toNat) } }
    else
      raiseIf (decide (ringCount v < ringOcc v + n.toNat)) 0x2008
      performEarlier
      if r then putRowCounts v (x.setWidth 8) n.toNat (ringTail v) else pure ()
      modC fun c => { c with mx := { c.mx with rings := vset c.mx.rings q.toNat (ringPush v n.toNat) } }) σ

/-- QSTAT (R171). -/
def execQstat (gu : Guard) (d : GF) (n : BitVec 4) (h : Bool) (σ : State) : Host.Outcome State Fault Refusal :=
  runSlot (.qstat gu d n h) .a (some gu) (do
    needClaim
    let c ← getC
    let v := vget c.mx.rings n.toNat 0
    writeG d (if h then (v >>> 64).setWidth 64 else v.setWidth 64)) σ

/-! ### The enqueue operation -/

/-- A work-queue descriptor's limits (R172). -/
def wqOk (b : List Byte) : Bool :=
  let size := leAt b 8 4
  let cap := leAt b 12 4
  decide (leAt b 0 8 % 64 = 0 ∧ 64 ≤ size ∧ size ≤ 4096 ∧ size % 64 = 0 ∧ cap ≠ 0 ∧ cap = 2 ^ cap.log2 ∧ cap ≤ 16777216 ∧
    leAt b 32 32 = 0)

/-- WENQ: one strong operation on the tail word, with its payload (R172, R173). -/
def execWenq (gu : Guard) (d : GF) (a : GF) (b : GF) (c : BitVec 3) (σ : State) : Host.Outcome State Fault Refusal :=
  runSlot (.wenq gu d a b c) .a (some gu) (do
    checkScope c
    let x ← readG a
    raiseIf (decide (x.toNat % 64 ≠ 0)) 0x2001 x
    let y ← readG b
    raiseIf (decide (y.toNat % 2 ^ 23 % 64 ≠ 0)) 0x2001 y
    raiseIf (!canonical x) 0x3001 x
    raiseIf (decide (2 ^ 23 ≤ y.toNat)) 0x2002 y
    let _ ← checkWin y.toNat 64
    let k ← getC
    raiseIf (k.touchesBlock x.toNat 64) 0x200C x
    let p ← strongPlace false 64 x .read
    reportPoint
    awaitFills
    performEarlier
    modM fun m => m.placePrep m.cur.die p 64 true m.cur.past
    markCheck p 64 x
    let m ← getM
    let desc := m.placeRead p 64
    let size := leAt desc 8 4
    let o ← checkWin y.toNat size
    raiseIf (!(wqOk desc)) 0x2003
    let t := toW (leAt desc 16 8)
    let tail ← strongPlace false 8 (x + 16) .write
    if (leAt desc 12 4 : Int) ≤ (t.toNat : Int) - leAt desc 24 8 then
      modM fun m => m.placeAcquire m.cur.die p 64
      writeG d (BitVec.allOnes 64)
    else
      let e := toW (leAt desc 0 8) + toW (t.toNat % leAt desc 12 4 * size)
      match m.resolveCont e size .write with
      | .wait => await
      | .fail f => raiseT f
      | .ok ps =>
        match m.winMark m.cur o size with
        | some g => raise 0x3006 y (toW g)
        | none =>
          modM fun m => { m with mem := m.mem.writeParts m.cur.die ps (m.winRead m.cur o size) false }
          modM fun m => (m.placePrep m.cur.die tail 8 true m.cur.past).placeWrite m.cur.die tail (leBytes 8 (t.toNat + 1))
          modM fun m => m.placeAcquire m.cur.die p 64
          writeG d t) σ

/-! ### Address generators -/

/-- Writes ag(N), or raises the cause. -/
def putAg (n : BitVec 3) : Except Trap Ag → Act Unit
  | .error t => raiseT t
  | .ok g => modC fun c => { c with ag := vset c.ag n.toNat g }

/-- AGSET (R174). -/
def execAgset (gu : Guard) (n : BitVec 3) (a : GF) (σ : State) : Host.Outcome State Fault Refusal :=
  runSlot (.agset gu n a) .a (some gu) (do
    let x ← readG a
    let k ← getM
    awaitIf (k.slotHeld k.cur.die (bits x.toNat 39 32))
    putAg n (k.bindAg k.cur.die x)) σ

/-- AGADV (R174). -/
def execAgadv (gu : Guard) (n : BitVec 3) (a : GF) (m : BitVec 11) (σ : State) : Host.Outcome State Fault Refusal :=
  runSlot (.agadv gu n a m) .a (some gu) (do
    let x ← readG a
    let k ← getM
    awaitIf (k.slotHeld k.cur.die (bits (vget k.cur.ag n.toNat {}).w1.toNat 39 32))
    putAg n (k.advanceAg k.cur.die (vget k.cur.ag n.toNat {}) (sext 32 x.toNat + m.toInt))) σ

end Sys2Proof.Machine
end

