-- ==== Sys2Proof/Machine/Func.lean ====
section
/-! DEFINITION. The functions of R183 and the rotary angles of R194: their true values to 600 and more binary digits, and the
results a bound in units of the last place admits (R120). A value here is a fixed-point integer in units of 2^-640. -/

namespace Sys2Proof.Machine

/-- π in units of 2^-800. -/
def piFix : Int := 0x3243F6A8885A308D313198A2E03707344A4093822299F31D0082EFA98EC4E6C89452821E638D01377BE5466CF34E90C6CC0AC29B7C97C50DD3F84D5B5B54709179216D5D98979FB1BD1310BA698DFB5AC2FFD72DBD01ADFB7B8E1AFED6A267E96BA7C9045

/-- ln 2 in units of 2^-800. -/
def ln2Fix : Int := 0xB17217F7D1CF79ABC9E3B39803F2F6AF40F343267298B62D8A0D175B8BAAFA2BE7B876206DEBAC98559552FB4AFA1B10ED2EAE35C138214427573B291169B8253E96CA16224AE8C51ACBDA11317C387EB9EA9BC3B136603B256FA0EC7657F74B72CE87B1

/-- Binary digits kept after the point. -/
def fxBits : Nat := 640

/-- One in fixed point. -/
def fxOne : Int := (2 : Int) ^ fxBits

/-- A product in fixed point. -/
def fxMul (a b : Int) : Int := a * b / fxOne

/-- A quotient in fixed point. -/
def fxDiv (a b : Int) : Int := a * fxOne / b

/-- A finite value in fixed point, rounded down. -/
def fxOf (s : Bool) (m : Nat) (e : Int) : Int :=
  let k := e + fxBits
  signed s (if 0 ≤ k then m <<< k.toNat else m >>> (-k).toNat)

/-- A fixed-point value as a number. -/
def fxNum (v : Int) : Num := .fin (decide (v < 0)) v.natAbs (-(fxBits : Int))

/-- Σ from term `n`: each term is the one before it times `x / n` (`d` = 0) or `x / (n × (n + 1))` (`d` = 1). -/
def fxSeries (x : Int) (d : Int) : Nat → Int → Int → Int → Int
  | 0, _, _, acc => acc
  | k + 1, n, term, acc =>
    let t := fxMul term x / (if d = 0 then n else n * (n + d))
    fxSeries x d k (n + 1 + d) t (acc + t)

/-- e^r for a small r: Σ r^n / n!. -/
def fxExpSmall (r : Int) : Int := fxSeries r 0 140 1 fxOne fxOne

/-- e^x as a number, for a fixed-point x; far arguments give a value past every format's range. -/
def expNum (x : Int) : Num :=
  if 400 * fxOne < x then .fin false 1 600
  else if x < -400 * fxOne then .fin false 1 (-600)
  else
    let l := ln2Fix / 2 ^ 160
    let k := (x + l / 2) / l
    .fin false (fxExpSmall (x - k * l)).toNat (k - fxBits)

/-- e^x in fixed point, for x at most 0. -/
def fxExp (x : Int) : Int :=
  match expNum x with
  | .fin _ m e => fxOf false m e
  | _ => 0

/-- atanh by its odd series: Σ z^(2n+1) / (2n+1). -/
def fxAtanh (z2 : Int) : Nat → Int → Int → Int → Int
  | 0, _, _, acc => acc
  | k + 1, n, p, acc => fxAtanh z2 k (n + 2) (fxMul p z2) (acc + p / n)

/-- ln of a positive value m × 2^e. -/
def fxLn (m : Nat) (e : Int) : Int :=
  let y := fxOf false m (-(m.log2 : Int))
  let big := decide (3 * fxOne < 2 * y)
  let y := if big then y / 2 else y
  let k := e + m.log2 + (if big then 1 else 0)
  let z := fxDiv (y - fxOne) (y + fxOne)
  k * (ln2Fix / 2 ^ 160) + 2 * fxAtanh (fxMul z z) 160 1 z 0

/-- cos r and sin r for r within π/4. -/
def fxCosSmall (r : Int) : Int := fxSeries (-(fxMul r r)) 1 90 1 fxOne fxOne
def fxSinSmall (r : Int) : Int := fxSeries (-(fxMul r r)) 1 90 2 r r

/-- The sine, or the cosine, of a quarter-turn count and a rest. -/
def fxTrig (cos : Bool) (q r : Int) : Int :=
  match ((q + if cos then 1 else 0) % 4).toNat with
  | 0 => fxSinSmall r
  | 1 => fxCosSmall r
  | 2 => -(fxSinSmall r)
  | _ => -(fxCosSmall r)

/-- sin x or cos x of a fixed-point x. -/
def fxSinCos (cos : Bool) (x : Int) : Int :=
  let h := piFix / 2
  let y := x * 2 ^ 160
  let q := (y + h / 2) / h
  fxTrig cos q ((y - q * h) / 2 ^ 160)

/-- Σ x^(2n+1) / (2n+1)!!, all terms of one sign. -/
def fxPhiSeries (x2 : Int) : Nat → Int → Int → Int → Int
  | 0, _, _, acc => acc
  | k + 1, n, t, acc => fxPhiSeries x2 k (n + 2) (fxMul t x2 / n) (acc + t)

/-- The standard normal distribution function of x within ±16: (1 + erf(x/√2)) / 2. -/
def fxPhi (x : Int) : Int :=
  let a := if x < 0 then -x else x
  let dens := fxDiv (fxExp (-(fxMul a a) / 2)) (isqrt ((2 * piFix / 2 ^ 160).toNat * 2 ^ fxBits) : Nat)
  let up := fxOne / 2 + fxMul dens (fxPhiSeries (fxMul a a) 1200 3 a 0)
  if x < 0 then fxOne - up else up

/-- The functions of R183. -/
inductive FuncOp where
  | rcp | rsqrt | exp | log | sin | cos | tanh | sig | silu | gelu
  deriving DecidableEq, Repr

/-- A number of each function, for the free values. -/
def FuncOp.num : FuncOp → Nat
  | .rcp => 0 | .rsqrt => 1 | .exp => 2 | .log => 3 | .sin => 4 | .cos => 5 | .tanh => 6 | .sig => 7 | .silu => 8 | .gelu => 9

/-- 1 / (1 + e^-x) in fixed point. -/
def fxSig (x : Int) : Int :=
  let t := fxExp (if x < 0 then x else -x)
  if x < 0 then fxDiv t (fxOne + t) else fxDiv fxOne (fxOne + t)

/-- 1/√(m × 2^e) to 300 and more binary digits. -/
def rsqrtNum (m : Nat) (e : Int) : Num × Bool :=
  let m' := if e % 2 = 0 then m else 2 * m
  let e' := if e % 2 = 0 then e else e - 1
  let k := 300 + m'.log2
  let r := isqrt (2 ^ (2 * k) / m')
  (.fin false r (-(k : Int) - e' / 2), decide (r * r * m' ≠ 2 ^ (2 * k)))

/-- A function's exact result for a value, whether more digits follow, and its events: the special cases of R183 first. -/
def FuncOp.eval (f : FuncOp) (x : Num) : Num × Bool × Nat :=
  match x with
  | .nan => (.nan, false, 0)
  | .inf s =>
    match f with
    | .rcp => (.fin s 0 0, false, 0)
    | .rsqrt => if s then (.nan, false, evInvalid) else (.fin false 0 0, false, 0)
    | .exp => if s then (.fin false 0 0, false, 0) else (.inf false, false, 0)
    | .log => if s then (.nan, false, evInvalid) else (.inf false, false, 0)
    | .sin => (.nan, false, evInvalid)
    | .cos => (.nan, false, evInvalid)
    | .tanh => (.fin s 1 0, false, 0)
    | .sig => if s then (.fin false 0 0, false, 0) else (.fin false 1 0, false, 0)
    | .silu => if s then (.fin true 0 0, false, 0) else (.inf false, false, 0)
    | .gelu => if s then (.fin true 0 0, false, 0) else (.inf false, false, 0)
  | .fin s m e =>
    if m = 0 then
      match f with
      | .rcp => (.inf s, false, evDivide)
      | .rsqrt => (.inf s, false, evDivide)
      | .exp => (.fin false 1 0, false, 0)
      | .log => (.inf true, false, evDivide)
      | .sin => (x, false, 0)
      | .cos => (.fin false 1 0, false, 0)
      | .tanh => (x, false, 0)
      | .sig => (.fin false 1 (-1), false, 0)
      | .silu => (x, false, 0)
      | .gelu => (x, false, 0)
    else
      let v := fxOf s m e
      let far := decide (400 * fxOne < (if v < 0 then -v else v))
      match f with
      | .rcp => (Num.fin false 1 0).div x
      | .rsqrt => if s then (.nan, false, evInvalid) else let r := rsqrtNum m e; (r.1, r.2, 0)
      | .exp => (expNum v, true, 0)
      | .log =>
        if s then (.nan, false, evInvalid)
        else if x.eq (.fin false 1 0) then (.fin false 0 0, false, 0) else (fxNum (fxLn m e), true, 0)
      | .sin => (fxNum (fxSinCos false v), true, 0)
      | .cos => (fxNum (fxSinCos true v), true, 0)
      | .tanh =>
        if far then (.fin s (2 ^ 600 - 1) (-600), true, 0)
        else
          let t := fxExp (-2 * (if v < 0 then -v else v))
          let r := fxDiv (fxOne - t) (fxOne + t)
          (fxNum (if v < 0 then -r else r), true, 0)
      | .sig =>
        if far then (if s then (.fin false 1 (-600), true, 0) else (.fin false (2 ^ 600 - 1) (-600), true, 0))
        else (fxNum (fxSig v), true, 0)
      | .silu =>
        if far then (if s then (.fin true 1 (-600), true, 0) else (.fin false (m * (2 ^ 600 - 1)) (e - 600), true, 0))
        else ((x.mul (fxNum (fxSig v))).1, true, 0)
      | .gelu =>
        if 16 * fxOne < v then (.fin false (m * (2 ^ 600 - 1)) (e - 600), true, 0)
        else if v < -16 * fxOne then (.fin true 1 (-600), true, 0)
        else ((x.mul (fxNum (fxPhi v))).1, true, 0)

/-! ### Results within a bound -/

/-- The value of a finite pattern with subnormals kept. -/
def FloatFmt.raw (f : FloatFmt) (x : Nat) : Num := FloatFmt.read { f with narrow := false } x

/-- The exponent of one unit in the last place of a format at a magnitude m × 2^e. -/
def FloatFmt.ulpExp (f : FloatFmt) (m : Nat) (e : Int) : Int :=
  let u := e + m.log2 - f.t
  if f.narrow then u else Max.max u (f.emin - f.t)

/-- Whether two finite values lie within `k × 2^u` of each other. -/
def within (a b : Num) (k : Nat) (u : Int) : Bool :=
  match (a.add b.negate).1 with
  | .fin _ m e => !(Num.lt (.fin false k u) (.fin false m e))
  | _ => false

/-- Whether a pattern may stand for the exact value m × 2^e in a format whose result may lie `k` units off: a finite value
within the bound, or a flushed zero where the bound reaches below the smallest normal (R110, R120). -/
def FloatFmt.admits (f : FloatFmt) (k : Nat) (s : Bool) (m : Nat) (e : Int) (p : Nat) : Bool :=
  let u := f.ulpExp m e
  let c := f.raw p
  if f.narrow && c.isZero then
    (c.neg? == s) && ((Num.fin false m e).add (Num.fin true k u)).1.lt (.fin false 1 f.emin)
  else if f.narrow && decide ((f.fields p).2.1 = 0) then false
  else within c (.fin s m e) k u

/-- The events of delivering a pattern for an exact value: inexact where they differ, underflow where the result is tiny or
flushed (R118). -/
def FloatFmt.deliverEv (f : FloatFmt) (p : Nat) (x : Num) (st : Bool) : Nat :=
  let c := f.raw p
  let off := st || !(c.eq x)
  let tiny := decide ((f.fields p).2.1 = 0)
  (if off then evInexact else 0) + (if off && tiny then evUnderflow else 0)

/-- A key of a value, for free values that are functions of an operand. -/
def Num.key : Num → Nat
  | .nan => 0
  | .inf s => 1 + s.toNat
  | .fin s m e =>
    if m = 0 then 3 + s.toNat
    else
      let t := Nat.gcd m (2 ^ m.log2)
      (m / t * 2 ^ 16 + (e + t.log2 + 2 ^ 15).toNat) * 2 + 8 + s.toNat

/-- A function result in a format: the free one where the bound and the function's range allow it, else the correctly
rounded one (R120, R183). -/
def FloatFmt.bounded (f : FloatFmt) (k fn key : Nat) (lo hi : Option Int) (x : Num) (st : Bool) : Rounded :=
  let r := f.round false x st
  match x with
  | .fin s m e =>
    let p := Config.funcValue fn key
    let c := f.raw p
    let inRange := (match lo with
      | some v => !(c.lt (.fin (decide (v < 0)) v.natAbs 0))
      | none => true) && (match hi with
      | some v => !(Num.lt (.fin (decide (v < 0)) v.natAbs 0) c)
      | none => true)
    if m = 0 then r
    else if decide (p < 2 ^ (1 + f.w + f.t)) && inRange && f.admits k s m e p then { pat := p, ev := f.deliverEv p x st }
    else r
  | _ => r

/-- The bounds a function's result keeps: within −1 to 1, or 0 to 1 for the sigmoid (R183). -/
def FuncOp.range : FuncOp → Option Int × Option Int
  | .sin => (some (-1), some 1)
  | .cos => (some (-1), some 1)
  | .tanh => (some (-1), some 1)
  | .sig => (some 0, some 1)
  | _ => (none, none)

/-- Units in the last place of exact mode (R120). -/
def FuncOp.bound : FuncOp → Nat
  | .rcp => 1
  | .rsqrt => 1
  | _ => 2

/-- The operands for which a function's result is given exactly (R183). -/
def FuncOp.exactAt (f : FuncOp) (x : Num) : Bool :=
  match x with
  | .fin _ m _ => decide (m = 0) || (f == .log && x.eq (.fin false 1 0))
  | _ => true

/-- Whether a value lies in a function's range (R183). -/
def FuncOp.inRange (f : FuncOp) (c : Num) : Bool :=
  let int := fun (v : Int) => Num.fin (decide (v < 0)) v.natAbs 0
  (f.range.1.all fun v => !(c.lt (int v))) && f.range.2.all fun v => !((int v).lt c)

/-- A function's exact-mode result in the format of a code, with its events. -/
def FuncOp.apply (f : FuncOp) (vd : Nat) (x : Num) : Rounded :=
  match floatFmt vd with
  | none => { pat := 0, ev := 0 }
  | some k =>
    let r := f.eval x
    let o := if f.exactAt x then k.round false r.1 else k.bounded f.bound (f.num * 16 + vd) x.key f.range.1 f.range.2 r.1 r.2.1
    { o with ev := o.ev ||| r.2.2 }

/-- E of R192: e^d of an exact difference, in FP32; E(−∞) is +0. -/
def expDiff (d : Num) : Rounded := FuncOp.exp.apply 0 d

/-- The sine or cosine of a phase in units of 2^-32 turn (R194): exact at quarter turns, else within 2^-24. -/
def rotary (cos : Bool) (ph : Nat) : Nat :=
  let f : FloatFmt := { w := 8, t := 23, bias := 127 }
  if ph % 2 ^ 30 = 0 then
    (match (ph / 2 ^ 30 + cos.toNat) % 4 with
     | 0 => 0 | 1 => 0x3F800000 | 2 => 0 | _ => 0xBF800000)
  else
    let q : Int := ((ph + 2 ^ 29) / 2 ^ 30 : Nat)
    let rest : Int := (ph : Int) - q * 2 ^ 30
    let v := fxTrig cos q (rest * (2 * piFix / 2 ^ 160) / 2 ^ 32)
    let p := Config.trigValue ph cos
    if decide (p < 2 ^ 32) && within (f.raw p) (fxNum v) 1 (-24) then p else (f.round false (fxNum v) true).pat

/-! ### Dusk mode -/

/-- A result in Dusk mode: NaN, infinite and zero results stand; another may lie `k` units of the exact-mode result off,
finite and of its sign; underflow and inexact may be set beside the exact mode's flags (R119, R120). `dusk`: the free count
of the operation, if it runs in Dusk mode; `keep`: what else its result must obey. -/
def relaxIn (keep : Num → Bool) (dusk : Option Nat) (code k : Nat) (r : Rounded) : Rounded :=
  match dusk, floatFmt code with
  | some n, some f =>
    match f.read r.pat with
    | .fin s m e =>
      if m = 0 then r
      else
        let p := Config.duskValue n
        let more := (if bit (Config.duskFlags n) 0 then evUnderflow else 0) ||| (if bit (Config.duskFlags n) 1 then evInexact else 0)
        let ok := decide (p < 2 ^ (1 + f.w + f.t)) && ((f.fields p).1 == s) && f.admits k s m e p && keep (f.raw p)
        if ok then { pat := p, ev := r.ev ||| more ||| (if p = r.pat then 0 else f.deliverEv p (.fin s m e) true) }
        else { r with ev := r.ev ||| more }
    | _ => r
  | _, _ => r

/-- The same where the bound is all that holds. -/
def relax (dusk : Option Nat) (code k : Nat) (r : Rounded) : Rounded := relaxIn (fun _ => true) dusk code k r

/-- A function's result in Dusk mode: the special cases stay exact and the range is kept (R120, R183). -/
def FuncOp.loosen (f : FuncOp) (dusk : Option Nat) (code k : Nat) (x : Num) (r : Rounded) : Rounded :=
  if f.exactAt x then r else relaxIn f.inRange dusk code k r

end Sys2Proof.Machine
end

