-- ==== Sys2Proof/Machine/Regions.lean ====
section
/-! DEFINITION. What the vector commands share: region descriptors, the checks of R178 in the order of R358, the formats of
R176, the tree of R116, the softmax, normalisation and rotary steps (R192 to R194), and how a command writes (R179). -/

namespace Sys2Proof.Machine

/-! ### Regions -/

/-- A vector region (R134): offset of element 0, element stride, element size, elements. -/
structure VReg where
  off : Nat
  stride : Int
  z : Nat
  n : Nat
  deriving DecidableEq, Repr

/-- The region a descriptor word names. -/
def vReg (w z n : Nat) : VReg := { off := bits w 22 0, stride := sext 9 (bits w 31 23), z := z, n := n }

/-- Offset of element `i`. -/
def VReg.pos (r : VReg) (i : Nat) : Int := r.off + i * r.stride * r.z

/-- The lowest byte of the span. -/
def VReg.lo (r : VReg) : Int := Min.min (r.pos 0) (r.pos (r.n - 1))

/-- One past the highest byte of the span. -/
def VReg.hi (r : VReg) : Int := Max.max (r.pos 0) (r.pos (r.n - 1)) + r.z

/-- Whether every element passes the check of R59. -/
def VReg.inside (r : VReg) (c : Cont) : Bool := decide (r.n = 0) || decide (0 ≤ r.lo ∧ r.hi ≤ c.winLimit)

/-- The offset of the first element that fails the check of R59. -/
def VReg.firstOut (r : VReg) (c : Cont) : Int :=
  match (List.range r.n).find? fun i => !(c.inWindow (r.pos i) r.z) with
  | some i => r.pos i
  | none => 0

/-- Whether two spans meet (R135). -/
def VReg.meets (a b : VReg) : Bool := decide (a.n ≠ 0 ∧ b.n ≠ 0 ∧ a.lo < b.hi ∧ b.lo < a.hi)

/-- The exact aliasing that R135 allows. -/
def VReg.same (a b : VReg) : Bool := decide (a.off = b.off ∧ a.stride = b.stride ∧ a.z = b.z)

/-- Whether the offset is a multiple of the element size (R134). -/
def VReg.aligned (r : VReg) : Bool := decide (r.off % r.z = 0)

/-- The elements, as patterns. -/
def Mach.region (m : Mach) (r : VReg) : List Nat :=
  (List.range r.n).map fun i => leNat (m.winRead m.cur (r.pos i).toNat r.z)

/-- Whether a source element lies in a marked granule (R381). -/
def Mach.regionMarked (m : Mach) (r : VReg) : Bool :=
  (List.range r.n).any fun i => (m.winMark m.cur (r.pos i).toNat r.z).isSome

/-- The writes of a destination, one an element (R84, R179). -/
def Mach.regionWrites (m : Mach) (r : VReg) (vals : List Nat) (poison : Bool) : List SpadWrite :=
  vals.zipIdx.map fun p => { key := skey m.cur.gcore (m.cur.winBase + (r.pos p.2).toNat), bytes := leBytes r.z p.1, poison := poison }

/-! ### Formats -/

/-- The fields of fmt that a vector command takes (R124). -/
structure VFmt where
  va : Nat
  vd : Nat
  bs : Nat
  dusk : Bool
  deriving DecidableEq, Repr

/-- The vector fields of a fmt value. -/
def vFmt (f : W32) : VFmt :=
  { va := bits f.toNat 15 12, vd := bits f.toNat 19 16, bs := bits f.toNat 21 20, dusk := bit f.toNat 25 }

/-- Whether a code names a format of the floating or integer class (R176). -/
def vectorFmt (c : Nat) : Bool := isFloat c || isInt c

/-- Whether a code names a floating format that is not FP64. -/
def floatNot64 (c : Nat) : Bool := isFloat c && c ≠ 7

/-- The widened format of R116. -/
def wideCode (va : Nat) : Nat := if va = 7 then 7 else 0

/-- The fmt value of an instruction that leaves its queue at this cycle: within a shadow, the value before it (R129). -/
def Mach.fmtNow (m : Mach) : W32 :=
  match m.cur.fmtOld.find? fun o => decide (m.cyc m.cur.die < o.till) with
  | some o => o.val
  | none => m.cur.fmt

/-- An instruction takes the fmt value as it leaves its queue (R129; log entry 4). -/
def takeFmt : Act W32 := do
  let m ← getM
  pure m.fmtNow

/-! ### The frame of a command -/

/-- The four words of a vector command (R176). -/
structure VArg where
  d : Nat
  a : Nat
  b : Nat
  c : Nat
  deriving DecidableEq, Repr

/-- Reads ga and gb. -/
def vArgs (a b : GF) : Act VArg := do
  let x ← readG a
  let y ← readG b
  pure { d := bits x.toNat 31 0, a := bits x.toNat 63 32, b := bits y.toNat 31 0, c := bits y.toNat 63 32 }

/-- Runs a command on VL elements: nothing for VL = 0, but for the claim of a latch form (R178, R180); VL is the one from
before the group (R200). Earlier commands have written (R179). -/
def vRun (l : Bool) (body : Nat → VFmt → Act Unit) : Act Unit := do
  if l then needClaim else pure ()
  let c ← getC
  let f ← takeFmt
  if c.vlNow.toNat = 0 then pure ()
  else body c.vlNow.toNat (vFmt f)

/-- Regions and limits of a command, as R178 checks them. -/
structure VPlan where
  srcs : List VReg
  dsts : List VReg
  /-- A limit is broken: an unused word, a stride, a length. -/
  bad : Bool := false
  /-- No source may be an alias of a destination. -/
  strict : Bool := false

/-- Range checks (R134). -/
def vRange (l : List VReg) : Act Unit := do
  let c ← getC
  match l.find? fun r => !(r.inside c) with
  | some r => raise 0x2002 (ofI (r.firstOut c))
  | none => pure ()

/-- Whether some destination meets a source other than as R135 allows, or another destination. -/
def VPlan.clash (p : VPlan) : Bool :=
  (p.dsts.any fun d => p.srcs.any fun s => d.meets s && (p.strict || !(d.same s))) ||
    match p.dsts with
    | [d, e] => d.meets e
    | _ => false

/-- Whether a vector command in flight, or a drain in the array, has still to write some byte of a region's span. -/
def Mach.pendingOver (m : Mach) (r : VReg) : Bool :=
  let key := skey m.cur.gcore (m.cur.winBase + r.lo.toNat)
  let meets := fun (w : SpadWrite) => decide (r.n ≠ 0) && overlaps w.key w.bytes.length key (r.hi - r.lo).toNat
  (m.cur.vpend.any fun v => v.writes.any meets) || m.cur.mx.array.any fun k => k.writes.any meets

/-- A command comes after the earlier vector commands and drains of its continuation whose destinations it reads or writes
(R86, R179). -/
def Mach.flushOver (m : Mach) (p : VPlan) : Mach :=
  if (p.dsts ++ p.srcs).any m.pendingOver then m.performed m.cur.id else m

/-- The checks of R178 in the order of R358: range, limits and alignment, overlap; then what the command follows. -/
def vCheck (p : VPlan) : Act Unit := do
  vRange (p.dsts ++ p.srcs)
  raiseIf (p.bad || (p.dsts ++ p.srcs).any fun r => !r.aligned) 0x2003
  raiseIf p.clash 0x2005
  modM fun m => m.flushOver p

/-- Takes source elements from the latch: waits for them and consumes them (R180). -/
def takeLatch (n z : Nat) : Act (List Nat × Bool) := do
  let c ← getC
  parkIf (decide (c.mx.latch.length < n * z))
  modC fun c => { c with mx := { c.mx with latch := c.mx.latch.drop (n * z) } }
  let part := c.mx.latch.take (n * z)
  pure ((List.range n).map fun i => leAt (part.map Prod.fst) (i * z) z, part.any Prod.snd)

/-- A command that has passed its checks leaves its queue: its writes and flags come later, at once where a flag may
trap (R179, R370). -/
def putV (writes : List SpadWrite) (ev : Nat) : Act Unit := do
  modC fun c => { c with vpend := c.vpend ++ [{ writes := writes, flags := ev, pc := c.pc }] }
  modM fun m => if m.cur.trapen.toNat % 2 ^ 7 ≠ 0 then m.flushV m.cur.id else m

/-- Whether the cluster's sequencer holds the exponent engine of a continuation's core (R183, R264). -/
def Mach.expHeld (m : Mach) (c : Cont) : Bool :=
  match (m.seq c.gcluster).run with
  | none => false
  | some r => match m.cont? r.cont with
    | some u => u.gcore == c.gcore
    | none => false

/-- The free count of a Dusk-mode command (R119). -/
def duskCount (v : VFmt) : Act (Option Nat) := do
  if v.dusk then do
    let n ← fresh
    pure (some (n * 2 ^ 32))
  else pure none

/-- Which operands an element-wise command uses: element sizes, 0 for none. -/
structure VForm where
  ok : Bool := true
  za : Nat := 0
  zb : Nat := 0
  zc : Nat := 0
  zd : Nat
  /-- C is a 32-bit scalar. -/
  scalar : Bool := false

/-- The plan of an element-wise command: unused words are zero, no destination repeats (R134, R176, R180). -/
def VForm.plan (f : VForm) (l : Bool) (g : VArg) (n : Nat) : VPlan :=
  let d := vReg g.d f.zd n
  let one := fun (z w : Nat) => if z = 0 then [] else [vReg w z n]
  { srcs := (if l then [] else one f.za g.a) ++ one f.zb g.b ++ one f.zc g.c
    dsts := [d]
    bad := ((l || f.za == 0) && g.a ≠ 0) || (f.zb == 0 && g.b ≠ 0) || (f.zc == 0 && !f.scalar && g.c ≠ 0) ||
      (l && decide (4096 < n)) || (d.stride == 0 && decide (1 < n)) }

/-- An element-wise command: `f` gives element `i` from the elements of A or the latch, B, C or the scalar (R178, R179). -/
def vElems (l hold : Bool) (a b : GF) (form : VFmt → VForm)
    (f : VFmt → Option Nat → Nat → Nat → Nat → Nat → Rounded) : Act Unit :=
  vRun l fun n v => do
    let q := form v
    raiseIf (!q.ok) 0x1007
    let g ← vArgs a b
    let p := q.plan l g n
    vCheck p
    let m ← getM
    parkIf (hold && m.expHeld m.cur)
    let xs ← (if l then takeLatch n q.za else pure (if q.za = 0 then [] else m.region (vReg g.a q.za n), false))
    let ys := if q.zb = 0 then [] else m.region (vReg g.b q.zb n)
    let zs := if q.zc = 0 then [] else m.region (vReg g.c q.zc n)
    let dusk ← duskCount v
    let rs := (List.range n).map fun i =>
      f v (dusk.map (· + i)) i (xs.1.getD i 0) (ys.getD i 0) (if q.zc = 0 then g.c else zs.getD i 0)
    let poison := xs.2 || p.srcs.any m.regionMarked
    putV (m.regionWrites (vReg g.d q.zd n) (rs.map Rounded.pat) poison) (rs.foldl (fun e r => e ||| r.ev) 0)

/-! ### Element arithmetic -/

/-- An exact result in vd, with Dusk mode's bound for floating operations (R177, R120). A command with an integer va or vd counts
as an integer operation and is exact, for which R120 gives no bound (log entry 70). -/
def VFmt.put (v : VFmt) (dusk : Option Nat) (k : Nat) (x : Num) (st : Bool) (ev : Nat) : Rounded :=
  let r := roundTo v.vd false x st
  let r := if isFloat v.va then relax dusk v.vd k r else r
  { r with ev := r.ev ||| ev }

/-- The scalar C: FP32 for a floating va, else a signed integer (R176): its value, its format code. -/
def VFmt.scalarCode (v : VFmt) : Nat := if isFloat v.va then 0 else 6

/-- The forms of the arithmetic commands: any class of va and vd (R182). -/
def arithForm (useB useC scalar : Bool) (v : VFmt) : VForm :=
  { ok := vectorFmt v.va && vectorFmt v.vd
    za := elemBytes v.va
    zb := if useB then elemBytes v.va else 0
    zc := if useC then elemBytes v.va else 0
    zd := elemBytes v.vd
    scalar := scalar }

/-- A command of A and B (R182). -/
def vTwo (l : Bool) (a b : GF) (f : Num → Num → Num × Nat) : Act Unit :=
  vElems l false a b (arithForm true false false) fun v dusk _ x y _ =>
    let r := f (readNum v.va x) (readNum v.va y)
    v.put dusk 2 r.1 false (r.2 ||| sigEv [(v.va, x), (v.va, y)])

/-- A command of A and the scalar C (R182). -/
def vScalar (l : Bool) (a b : GF) (f : Num → Num → Num × Nat) : Act Unit :=
  vElems l false a b (arithForm false false true) fun v dusk _ x _ c =>
    let r := f (readNum v.va x) (readNum v.scalarCode c)
    v.put dusk 2 r.1 false (r.2 ||| sigEv [(v.va, x), (v.scalarCode, c)])

/-- A × B + C with one rounding, C a region or the scalar (R182). -/
def vFused (l scalar : Bool) (a b : GF) : Act Unit :=
  vElems l false a b (arithForm true (!scalar) scalar) fun v dusk _ x y c =>
    let code := if scalar then v.scalarCode else v.va
    let r := Num.fma (readNum v.va x) (readNum v.va y) (readNum code c)
    v.put dusk 2 r.1 false (r.2 ||| sigEv [(v.va, x), (v.va, y), (code, c)])

/-- Minimum or maximum; of integers it sets no flags (R107, R182). -/
def vPick (l max : Bool) (a b : GF) : Act Unit :=
  vElems l false a b (arithForm true false false) fun v _ _ x y _ =>
    let r := v.put none 0 ((readNum v.va x).pick max (readNum v.va y)) false (sigEv [(v.va, x), (v.va, y)])
    if isInt v.va then { r with ev := 0 } else r

/-- Absolute value or negation: of the bit pattern where va = vd is floating (R107, R182); the integer zero has no sign to
flip. -/
def vSign (l neg : Bool) (a : GF) : Act Unit :=
  vElems l false a 0 (arithForm false false false) fun v _ _ x _ _ =>
    if v.va = v.vd && isFloat v.va then
      let top := 8 * elemBytes v.va - 1
      let low := x % 2 ^ top
      { pat := low + oneBit (neg && !(bit x top)) top, ev := 0 }
    else
      let n := readNum v.va x
      v.put none 0 (if (neg || n.neg?) && !(isInt v.va && n.isZero) then n.negate else n) false (sigEv [(v.va, x)])

/-- A function of R183: floating va and vd, FP64 for the two reciprocals alone. -/
def vFunc (l : Bool) (f : FuncOp) (a : GF) : Act Unit :=
  let short := f == .rcp || f == .rsqrt
  vElems l (!short) a 0
    (fun v => { ok := if short then isFloat v.va && isFloat v.vd else floatNot64 v.va && floatNot64 v.vd
                za := elemBytes v.va, zd := elemBytes v.vd })
    fun v dusk _ x _ _ =>
      let r := f.apply v.vd (readNum v.va x)
      let r := f.loosen dusk v.vd (if short then 4 else 8) (readNum v.va x) r
      { r with ev := r.ev ||| sigEv [(v.va, x)] }

/-- A command on patterns of a size, with no flags: right operands from B, or the scalar C (R191). -/
def vWords (a b : GF) (s : Bool) (size : VFmt → Nat) (ok : VFmt → Bool) (f : Nat → Nat → Nat → Nat) : Act Unit :=
  vElems false false a b
    (fun v => { ok := ok v, za := size v, zb := if s then 0 else size v, zd := size v, scalar := s })
    fun v _ _ x y c => { pat := f (size v) x (if s then c else y), ev := 0 }

/-! ### The tree of R116 -/

/-- One level: neighbours combined, an odd last one carried. `n` counts the operations made. -/
def treeLevel (f : Nat → Nat → Nat → Rounded) : Nat → List Nat → List Nat × Nat × Nat
  | n, x :: y :: r =>
    let z := f n x y
    let t := treeLevel f (n + 1) r
    (z.pat :: t.1, z.ev ||| t.2.1, t.2.2)
  | n, l => (l, 0, n)

/-- The levels until one value is left. -/
def treeGo (f : Nat → Nat → Nat → Rounded) : Nat → Nat → List Nat → Nat → Rounded
  | 0, _, l, ev => { pat := l.headD 0, ev := ev }
  | fuel + 1, n, l, ev =>
    if l.length ≤ 1 then { pat := l.headD 0, ev := ev }
    else
      let t := treeLevel f n l
      treeGo f fuel t.2.2 t.1 (ev ||| t.2.1)

/-- One addition in a format, with the bound of Dusk mode (R116, R120). -/
def addIn (code : Nat) (dusk : Option Nat) (x y : Nat) : Rounded :=
  let s := (readNum code x).add (readNum code y)
  let r := relax dusk code 2 (roundTo code false s.1)
  { r with ev := r.ev ||| s.2 }

/-- The sum of patterns of a format by the tree (R116). -/
def treeSum (code : Nat) (dusk : Option Nat) (l : List Nat) : Rounded :=
  treeGo (fun n x y => addIn code (dusk.map (· + n)) x y) l.length 0 l 0

/-- The maximum of some values, by R107. -/
def maxOf (l : List Num) : Num :=
  match l with
  | [] => .nan
  | x :: r => r.foldl (fun a b => a.pick true b) x

/-- A value of a floating format in its widened format (R116). -/
def widen (va x : Nat) : Nat := (roundTo (wideCode va) false (readNum va x)).pat

/-- The exact sum of integer values. -/
def exactSum (l : List Num) : Num := l.foldl (fun a b => (a.add b).1) (.fin false 0 0)

/-! ### Softmax, normalisation, rotation -/

/-- What a softmax step leaves (R192). -/
structure Softmax where
  m : Nat
  l : Nat
  c : Nat
  p : List Nat
  ev : Nat
  deriving DecidableEq, Repr

/-- E of a difference, with the bound of Dusk mode (R192, R120). -/
def expStep (dusk : Option Nat) (x y : Num) : Rounded :=
  let d := x.add y.negate
  let r := FuncOp.exp.loosen dusk 0 8 d.1 (expDiff d.1)
  { r with ev := r.ev ||| d.2 }

/-- One step of the running softmax over exact scores, from the record's m and l (R192). E and the tree's additions take Dusk
mode's bounds; l0 × c and its sum with s, which have no row in R120's table, are rounded exactly (log entry 70). -/
def softmaxStep (dusk : Option Nat) (m0 l0 : Nat) (scores : List Num) : Softmax :=
  let m1 := scores.foldl (fun a b => a.pick true b) (readNum 0 m0)
  let at' := fun (i : Nat) => dusk.map (· + (2 ^ 20 + i))
  let one : Nat := 0x3F800000
  let c : Rounded := if m1 = .inf true then { pat := one, ev := 0 } else expStep (at' 0) (readNum 0 m0) m1
  let p : List Rounded := if m1 = .inf true then scores.map fun _ => { pat := 0, ev := 0 }
    else scores.zipIdx.map fun s => expStep (at' (s.2 + 1)) s.1 m1
  let s := treeSum 0 dusk (p.map Rounded.pat)
  let lc := (readNum 0 l0).mul (readNum 0 c.pat)
  let r := roundTo 0 false lc.1
  let t := (readNum 0 r.pat).add (readNum 0 s.pat)
  let l1 := roundTo 0 false t.1
  { m := (roundTo 0 false m1).pat, l := l1.pat, c := c.pat, p := p.map Rounded.pat
    ev := p.foldl (fun e x => e ||| x.ev) (c.ev ||| s.ev ||| lc.2 ||| r.ev ||| t.2 ||| l1.ev) }

/-- Normalisation by the root mean square, weights and ε (R193): patterns of vd. Exact mode takes the steps of R193 as they are
written, with the reciprocal square root alone free; R120 would allow 2 ulp an element (log entry 71). -/
def rmsNorm (va vd : Nat) (dusk : Option Nat) (xs ws : List Nat) (eps : Nat) : List Rounded :=
  let sq : List Rounded := xs.map fun x =>
    let p := (readNum va x).mul (readNum va x)
    let r := roundTo 0 false p.1
    { r with ev := r.ev ||| p.2 }
  let ss := treeSum 0 none (sq.map Rounded.pat)
  let q := (readNum 0 ss.pat).div (.fin false xs.length 0)
  let mean := roundTo 0 false q.1 q.2.1
  let e := (readNum 0 mean.pat).add (readNum 0 eps)
  let base := roundTo 0 false e.1
  let r := FuncOp.rsqrt.apply 0 (readNum 0 base.pat)
  let ev := sq.foldl (fun a x => a ||| x.ev) (ss.ev ||| q.2.2 ||| mean.ev ||| e.2 ||| base.ev ||| r.ev ||| sigEv [(0, eps)])
  (xs.zip ws).zipIdx.map fun p =>
    let ab := (readNum va p.1.1).mul (readNum va p.1.2)
    let w := roundTo 0 false ab.1
    let y := (readNum 0 w.pat).mul (readNum 0 r.pat)
    let o := relax (dusk.map (· + p.2)) vd 8 (roundTo vd false y.1)
    { o with ev := ev ||| ab.2 ||| w.ev ||| y.2 ||| o.ev ||| sigEv [(va, p.1.1), (va, p.1.2)] }

/-- The pair of an element: its number, and whether the element stands second (R194). -/
def ropePair (half : Bool) (n i : Nat) : Nat × Bool :=
  if half then (if i < n / 2 then (i, false) else (i - n / 2, true)) else (i / 2, i % 2 == 1)

/-- The rotation of pairs by exact phases (R194): patterns of vd. Exact mode takes the steps of R194 as they are written, with
sine and cosine alone free; R120 would allow 2 ulp an element (log entry 71). -/
def ropeAll (va vd : Nat) (dusk : Option Nat) (half : Bool) (xs freqs : List Nat) (pos : Nat) : List Rounded :=
  let n := xs.length
  (List.range n).map fun i =>
    let j := ropePair half n i
    let first := if half then j.1 else 2 * j.1
    let second := if half then j.1 + n / 2 else 2 * j.1 + 1
    let ph := pos * freqs.getD j.1 0 % 2 ^ 32
    let co := readNum 0 (rotary true ph)
    let si := readNum 0 (rotary false ph)
    let x := xs.getD first 0
    let y := xs.getD second 0
    let a := readNum va x
    let b := readNum va y
    let p := if j.2 then a.mul si else a.mul co
    let q := if j.2 then b.mul co else (b.mul si)
    let s := p.1.add (if j.2 then q.1 else q.1.negate)
    let r := relax (dusk.map (· + i)) vd 8 (roundTo vd false s.1)
    { r with ev := r.ev ||| p.2 ||| q.2 ||| s.2 ||| sigEv [(va, x), (va, y)] }

end Sys2Proof.Machine
end

