-- ==== Sys2Proof/Machine/Array.lean ====
section
/-! DEFINITION. The matrix array: operand tiles (R203, R204, R109), the products and sums of R114, R115 and R207, drains
(R113, R214), and what each command does as it enters (R205 to R215). -/

namespace Sys2Proof.Machine

/-- An accumulator's elements from a function of the key 64 i + j. -/
def accOf (f : Nat → W32) : SMap W32 :=
  (List.range 4096).filterMap fun k => if f k = 0 then none else some (k, f k)

/-- Element (i, j). -/
def AccState.at (a : AccState) (i j : Nat) : W32 := SMap.get 0 a.elems (64 * i + j)

/-- What a command that enters the array leaves: the matrix resources, its events, and how it stands in the array until it
retires. -/
structure Entered where
  mx : Matrix
  ev : Nat := 0
  pops : List Nat := []
  reads : List Nat := []
  acc : Nat := 4
  drain : Bool := false
  writes : List SpadWrite := []
  elems : List Nat := []
  esize : Nat := 1
  mark : Nat := 0
  rowMarks : BitVec 64 := 0
  waits : BitVec 8 := 0

/-- What entering gives: a wait, a failure, or the entry. -/
abbrev Enter := Except Stop

/-- A failure of a command that enters. -/
def failE {α : Type} (c : Cause) (faddr : Word := 0) : Enter α := .error (.trap { cause := c, faddr := faddr })

/-- Fails where a condition holds. -/
def failIf (b : Bool) (c : Cause) (faddr : Word := 0) : Enter Unit := if b then failE c faddr else pure ()

/-- The matrix fields of fmt (R124). -/
def fmtMa (f : W32) : Nat := bits f.toNat 3 0
def fmtMb (f : W32) : Nat := bits f.toNat 7 4
def fmtMc (f : W32) : Nat := bits f.toNat 11 8
def fmtBs (f : W32) : Nat := bits f.toNat 21 20
def fmtNm (f : W32) : Nat := bits f.toNat 23 22
def fmtPq (f : W32) : Bool := bit f.toNat 24
def fmtDusk (f : W32) : Bool := bit f.toNat 25

/-! ### Tiles -/

/-- The four multiply-accumulate commands. -/
inductive Mul where
  | plain | transposed | sparse | codebook
  deriving DecidableEq, Repr

/-- Whether a code is an 8-bit floating format. -/
def isFp8 (c : Nat) : Bool := c == 3 || c == 4

/-- The kind and the dense K positions of one K-step, for a format pair a command accepts (R206). -/
def stepOf (k : Mul) (ma mb : Nat) : Option (Bool × Nat) :=
  match k with
  | .sparse => if isFp8 ma && isFp8 mb then some (false, 8) else none
  | .codebook => if isFp8 ma && mb == 8 then some (false, 4) else none
  | _ =>
    if (ma == 1 || ma == 2) && (mb == 1 || mb == 2) then some (false, 2)
    else if isFp8 ma && isFp8 mb then some (false, 4)
    else if (ma == 5 || ma == 10) && (mb == 5 || mb == 10) then some (true, 4)
    else none

/-- Whether an operand of a format has a scale area (R204). -/
def scaled (code bs : Nat) : Bool := (isFp8 code || code == 8) && decide (bs ≤ 1)

/-- Pitches P and MP for n K-steps (R203). -/
def pitchP (n : Nat) : Nat := 64 * ((n + 15) / 16)
def pitchMP (n : Nat) : Nat := 64 * ((n + 63) / 64)

/-- Bytes of an operand tile: payload, metadata, and where the scale area starts (R203). -/
def tileBytes (k : Mul) (isA : Bool) (n step zb : Nat) : Nat :=
  match k, isA with
  | .sparse, true => 64 * pitchP n + 64 * pitchMP n
  | _, true => 64 * pitchP n
  | .transposed, false => 64 * pitchP n
  | .codebook, false => 64 * pitchMP n
  | _, false => step * n * 64 * zb

/-- An E8M0 scale (R108). -/
def scaleVal (b : Nat) : Num := if b = 0xFF then .nan else .fin false 1 ((b : Int) - 127)

/-- The scale of a line at a K position, or one without a scale area (R204). -/
def scaleAt (t : List Byte) (area bs : Nat) (has : Bool) (line k : Nat) : Num :=
  if has then scaleVal (t.getD (area + 64 * line + k / blockSize bs) 0).toNat else .fin false 1 0
where
  /-- K positions of a block (R108). -/
  blockSize (bs : Nat) : Nat := if bs = 0 then 32 else 16

/-- A weight of a CB2 index: coordinate `j` from 1 to 8, times 1/4 (R109). -/
def weightOf (bv idx j : Nat) : Num :=
  let flips := ((List.range 7).map fun i => (bit idx (i + 1)).toNat).sum
  let c := sext 4 (bv / 2 ^ (4 * (j - 1)))
  let neg := if j ≤ 7 then bit idx j else (flips + (bit idx 0).toNat) % 2 == 1
  let v := if neg then -c else c
  .fin (decide (v < 0)) v.natAbs (-2)

/-- Element values of an A tile, scale included, and whether step `s` of a row names a position twice (R203, R208). -/
def aVal (k : Mul) (t : List Byte) (ma bs n : Nat) (i p : Nat) : Num :=
  let z := elemBytes ma
  let area := tileBytes k true n 0 0
  let e : Num := match k with
    | .sparse =>
      let s := p / 8
      let q := p % 8
      let md := (t.getD (64 * pitchP n + i * pitchMP n + s) 0).toNat
      let stored := fun (v : Nat) => readNum ma (leAt t (i * pitchP n + 4 * s + v) 1)
      if q < 4 then (if bits md 1 0 = q then stored 0 else if bits md 3 2 = q then stored 1 else .fin false 0 0)
      else if 4 + bits md 5 4 = q then stored 2 else if 4 + bits md 7 6 = q then stored 3 else .fin false 0 0
    | _ => readNum ma (leAt t (i * pitchP n + p * z) z)
  (e.mul (scaleAt t area bs (scaled ma bs) i p)).1

/-- Whether a step of a sparse row names one position for two stored values of a group (R208). -/
def doubled (t : List Byte) (n i s : Nat) : Bool :=
  let md := (t.getD (64 * pitchP n + i * pitchMP n + s) 0).toNat
  bits md 1 0 == bits md 3 2 || bits md 5 4 == bits md 7 6

/-- Element values of a B tile, scales included (R203, R109). -/
def bVal (k : Mul) (t : List Byte) (mx : Matrix) (mb bs n step : Nat) (p j : Nat) : Num :=
  let z := elemBytes mb
  let area := tileBytes k false n step z
  let sc := scaleAt t area bs (scaled mb bs) j p
  match k with
  | .codebook =>
    let idx := leAt t (j * pitchMP n + 2 * (p / 8)) 2
    let w := weightOf (SMap.get 0 mx.codebook (bits idx 15 8)).toNat idx (p % 8 + 1)
    ((w.mul sc).1.mul (readNum 0 mx.tscale.toNat)).1
  | .transposed => ((readNum mb (leAt t (j * pitchP n + p * z) z)).mul sc).1
  | _ => ((readNum mb (leAt t ((64 * p + j) * z) z)).mul sc).1

/-! ### Sums -/

/-- The exact sum of one step's products; a NaN among them, or infinities of both signs, is invalid (R114). -/
def stepSum (a b : Nat → Num) : Nat → Nat → Num
  | 0, _ => .fin true 0 0
  | k + 1, p => ((a p).mul (b p)).1.add (stepSum a b k (p + 1)) |>.1

/-- One addition into an FP32 accumulator (R114, R120). -/
def accAdd (dusk : Option Nat) (acc : Nat) (p : Num) : Rounded :=
  let s := (readNum 0 acc).add p
  let r := relax dusk 0 2 (roundTo 0 false s.1)
  { r with ev := r.ev ||| s.2 ||| (if p = .nan then evInvalid else 0) ||| sigEv [(0, acc)] }

/-- One addition into an INT32 accumulator; a saturation is inexact too (R115, R118). -/
def accAddInt (acc : Nat) (p : Num) : Rounded := roundTo 6 false ((readNum 6 acc).add p).1

/-- The steps of an accumulator element, ascending (R207). -/
def elemGo (int : Bool) (dusk : Option Nat) (step : Nat) (a b : Nat → Num) : Nat → Nat → Rounded → Rounded
  | 0, _, acc => acc
  | k + 1, s, acc =>
    let p := stepSum a b step (step * s)
    let r := if int then accAddInt acc.pat p else accAdd (dusk.map (· + s)) acc.pat p
    elemGo int dusk step a b k (s + 1) { r with ev := r.ev ||| acc.ev }

/-- A ring's tile at the consume position: its bytes, its row count, its scratchpad offsets (R63, R202); waits while there
is none. -/
def Cont.tileAt (c : Cont) (q : Nat) : Enter (Nat × Nat) :=
  let v := vget c.mx.rings q 0
  let cp := (vget c.mx.cpos q 0).toNat
  if !(ringValid v) || (ringTail v + 256 - cp) % 256 = 0 then .error .wait
  else pure (ringBase v + cp % ringCount v * ringSize v, ringRows v + cp % ringCount v)

/-- Advances a consume position (R202). -/
def Matrix.consume (x : Matrix) (q : Nat) : Matrix := { x with cpos := vset x.cpos q (vget x.cpos q 0 + 1) }

/-- Reads window bytes for the array; a range outside the window is a fault. -/
def Mach.arrayRead (m : Mach) (c : Cont) (off n : Nat) : Enter (List Byte) :=
  if c.inWindow off n then pure (m.winRead c off n) else failE 0x2002 (toW off)

/-- MMA, MMABT, MMASP and MMACB as they enter (R206 to R208). `keepA`, `keepB`: the tile stays. -/
def enterMul (k : Mul) (qa qb acc : Nat) (z : Bool) (ks : Nat) (keepA keepB : Bool) (m : Mach) (c : Cont) (f : W32)
    (dusk : Option Nat) : Enter Entered := do
  let ta ← c.tileAt qa
  let tb ← c.tileAt qb
  let ma := fmtMa f
  let mb := fmtMb f
  let bs := fmtBs f
  match stepOf k ma mb with
  | none => failE 0x1007
  | some (int, step) => do
    let old := vget c.mx.acc acc {}
    failIf ((k == .sparse && fmtNm f ≠ 0) || ((isFp8 ma || isFp8 mb || mb == 8) && bs == 3) || (!z && old.int != int)) 0x1007
    let needA := tileBytes k true ks step 0 + (if scaled ma bs then 4096 else 0)
    let needB := tileBytes k false ks step (elemBytes mb) + (if scaled mb bs then 4096 else 0)
    let a ← m.arrayRead c ta.1 needA
    let b ← m.arrayRead c tb.1 needB
    let rc ← m.arrayRead c ta.2 1
    failIf (decide (ringSize (vget c.mx.rings qa 0) < needA ∨ ringSize (vget c.mx.rings qb 0) < needB)) 0x2003
    match m.winMark c ta.2 1 with
    | some g => .error (.trap { cause := 0x3006, faddr := toW ta.2, info := toW g, walk := true })
    | none => do
      let rows := leNat rc
      failIf (decide (64 < rows)) 0x2007
      let start : AccState := if z then { int := int, mark := BitVec.ofNat 7 rows }
        else { old with mark := BitVec.ofNat 7 (max old.mark.toNat rows) }
      let one := fun (key : Nat) =>
        let i := key / 64
        let j := key % 64
        elemGo int (dusk.map (· + key * 128)) step (aVal k a ma bs ks i) (fun p => bVal k b c.mx mb bs ks step p j) ks 0
          { pat := (start.at i j).toNat, ev := 0 }
      let outs := (List.range (64 * rows)).map one
      let nm := k == .sparse && (List.range rows).any fun i => (List.range ks).any fun s => doubled a ks i s
      let lineMark := fun (i : Nat) => (m.winMark c (ta.1 + i * pitchP ks) (pitchP ks)).isSome ||
        (k == .sparse && (m.winMark c (ta.1 + 64 * pitchP ks + i * pitchMP ks) (pitchMP ks)).isSome) ||
        (scaled ma bs && (m.winMark c (ta.1 + tileBytes k true ks 0 0 + 64 * i) 64).isSome)
      let bMark := (m.winMark c tb.1 needB).isSome || (k == .codebook && c.mx.cbPoison)
      let marks := (List.range rows).foldl (fun (x : BitVec 64) i =>
        if bMark || lineMark i then x ||| ((1 : BitVec 64) <<< i) else x) start.poison
      let elems := accOf fun key => if key < 64 * rows then BitVec.ofNat 32 (outs.getD key { pat := 0, ev := 0 }).pat
        else start.at (key / 64) (key % 64)
      let mx := { c.mx with acc := vset c.mx.acc acc { start with elems := elems, poison := marks } }
      let mx := if keepA then mx else mx.consume qa
      let mx := if keepB then mx else mx.consume qb
      pure { mx := mx
             ev := outs.foldl (fun e r => e ||| r.ev) (if nm then evNm else 0)
             pops := (if keepA then [] else [qa]) ++ (if keepB then [] else [qb])
             reads := [qa, qb]
             acc := acc }

/-! ### Setting accumulators -/

/-- MZERO (R213). -/
def enterZero (acc : Nat) (int : Bool) (c : Cont) : Enter Entered :=
  pure { mx := { c.mx with acc := vset c.mx.acc acc { int := int } }, acc := acc }

/-- MLDACC (R213). -/
def enterLoad (acc off : Nat) (int : Bool) (m : Mach) (c : Cont) : Enter Entered := do
  failIf (decide (off % 64 ≠ 0)) 0x2001 (toW off)
  let b ← m.arrayRead c off 16384
  let marks := (List.range 64).foldl (fun (x : BitVec 64) i =>
    if (m.winMark c (off + 256 * i) 256).isSome then x ||| ((1 : BitVec 64) <<< i) else x) 0
  pure { mx := { c.mx with acc := vset c.mx.acc acc {
           elems := accOf fun k => BitVec.ofNat 32 (leAt b (4 * k) 4), int := int, mark := 64, poison := marks } }
         acc := acc }

/-- MPOP (R213). -/
def enterPop (qa qb : Nat) (popA popB : Bool) (c : Cont) : Enter Entered := do
  let qs := (if popA then [qa] else []) ++ (if popB then [qb] else [])
  if qs.any fun q => match c.tileAt q with
      | .ok _ => false
      | .error _ => true then .error .wait
  else pure { mx := qs.foldl Matrix.consume c.mx, pops := qs, reads := qs }

/-- MCBLD (R215). -/
def enterCodebook (off : Nat) (m : Mach) (c : Cont) : Enter Entered := do
  failIf (decide (off % 64 ≠ 0)) 0x2001 (toW off)
  let b ← m.arrayRead c off 1024
  pure { mx := { c.mx with
    codebook := (List.range 256).filterMap fun v =>
      let x : W32 := BitVec.ofNat 32 (leAt b (4 * v) 4)
      if x = 0 then none else some (v, x)
    cbPoison := c.mx.cbPoison || (m.winMark c off 1024).isSome } }

/-- MSCL (R215). -/
def enterScale (off : Nat) (m : Mach) (c : Cont) : Enter Entered := do
  failIf (decide (off % 4 ≠ 0)) 0x2001 (toW off)
  let b ← m.arrayRead c off 4
  pure { mx := { c.mx with tscale := BitVec.ofNat 32 (leNat b), cbPoison := c.mx.cbPoison || (m.winMark c off 4).isSome } }

/-! ### Drains -/

/-- Whether a drain may convert an accumulator of a kind into a format (R113). -/
def drainFmt (int : Bool) (mc : Nat) : Bool :=
  if int then mc == 6 || mc == 9 || mc == 5 || mc == 10 else decide (mc ≤ 4)

/-- A drained element: RoundZ, a move into FP32, or Sat (R113). -/
def drainElem (int : Bool) (mc x : Nat) : Rounded :=
  if int then roundTo mc true (readNum 6 x)
  else if mc = 0 then { pat := x, ev := 0 }
  else
    let r := roundTo mc true (readNum 0 x)
    { r with ev := r.ev ||| sigEv [(0, x)] }

/-- An element of MDRAINA: the exact sum with the element in the window, one rounding (R214). -/
def drainSum (int : Bool) (mc d x : Nat) : Rounded :=
  if int then roundTo mc true (((readNum mc d).add (readNum 6 x)).1)
  else
    let s := (readNum mc d).add (readNum 0 x)
    let r := roundTo mc true s.1
    { r with ev := r.ev ||| s.2 ||| sigEv [(mc, d), (0, x)] }

/-- The rows of a drained accumulator. -/
def drainRows (a : AccState) (mc : Nat) : List Rounded :=
  (List.range (64 * a.mark.toNat)).map fun k => drainElem a.int mc (SMap.get 0 a.elems k).toNat

/-- The members that dmask bits 0 to 3 name, each at its cluster position: `none` where one is absent (R60, R133). -/
def Mach.drainTargets (m : Mach) (c : Cont) (dmask : Nat) : Option (List Cont) :=
  allSome (((List.range 4).filter fun p => bit dmask p).map fun p => m.clusterMember? c p)

/-- The writes of a drain at an offset of a member's window, one a row. -/
def rowWrites (t : Cont) (off z : Nat) (marks : BitVec 64) (pats : List Nat) (rows : Nat) : List SpadWrite :=
  (List.range rows).map fun i =>
    { key := skey t.gcore (t.winBase + off + 64 * i * z)
      bytes := (((pats.drop (64 * i)).take 64).map fun v => leBytes z v).flatten
      poison := marks.getLsbD i }

/-- MDRAIN as it enters: its elements are taken, each named consumer accepts them later (R133, R214). -/
def enterDrain (acc dmask off : Nat) (m : Mach) (c : Cont) (f : W32) : Enter Entered := do
  let a := vget c.mx.acc acc {}
  let mc := fmtMc f
  failIf (!(drainFmt a.int mc)) 0x1007
  let z := elemBytes mc
  let rows := a.mark.toNat
  match m.drainTargets c dmask with
  | none => failE 0x2002 (toW off)
  | some ts => do
    failIf (decide (0 < rows) && ts.any fun t => !(t.inWindow off (64 * rows * z))) 0x2002 (toW off)
    failIf (decide (off % z ≠ 0)) 0x2003
    let rs := drainRows a mc
    pure { mx := c.mx
           ev := rs.foldl (fun e r => e ||| r.ev) 0
           acc := acc
           drain := true
           writes := (ts.map fun t => rowWrites t off z a.poison (rs.map Rounded.pat) rows).flatten
           elems := rs.map Rounded.pat
           esize := z
           mark := rows
           rowMarks := a.poison
           waits := BitVec.ofNat 8 (dmask / 16 * 16) }

/-- MDRAINA as it enters (R214). -/
def enterDrainAdd (acc off : Nat) (m : Mach) (c : Cont) (f : W32) : Enter Entered := do
  let a := vget c.mx.acc acc {}
  let mc := fmtMc f
  failIf (!(drainFmt a.int mc)) 0x1007
  let z := elemBytes mc
  let rows := a.mark.toNat
  let b ← (if rows = 0 then pure [] else m.arrayRead c off (64 * rows * z))
  failIf (decide (off % z ≠ 0)) 0x2003
  let rs := (List.range (64 * rows)).map fun k => drainSum a.int mc (leAt b (k * z) z) (SMap.get 0 a.elems k).toNat
  let marks := (List.range rows).foldl (fun (x : BitVec 64) i =>
    if (m.winMark c (off + 64 * i * z) (64 * z)).isSome then x ||| ((1 : BitVec 64) <<< i) else x) a.poison
  pure { mx := c.mx
         ev := rs.foldl (fun e r => e ||| r.ev) 0
         acc := acc
         drain := true
         writes := rowWrites c off z marks (rs.map Rounded.pat) rows }

/-! ### Entering and retiring -/

/-- The rings a command reads, and the accumulator it writes. -/
def mNeeds : Instr → List Nat × Option Nat
  | .mma _ qa qb acc _ _ _ _ => ([qa.toNat, qb.toNat], some acc.toNat)
  | .mmabt _ qa qb acc _ _ _ _ => ([qa.toNat, qb.toNat], some acc.toNat)
  | .mmasp _ qa qb acc _ _ _ _ => ([qa.toNat, qb.toNat], some acc.toNat)
  | .mmacb _ qa qb acc _ _ _ _ => ([qa.toNat, qb.toNat], some acc.toNat)
  | .mpop _ qa qb pa pb => ((if pa then [qa.toNat] else []) ++ (if pb then [qb.toNat] else []), none)
  | .mzero _ acc _ => ([], some acc.toNat)
  | .mldacc _ acc _ _ => ([], some acc.toNat)
  | _ => ([], none)

/-- Whether a command may enter as far as rings and outstanding drains decide (R211, R133). -/
def Cont.mReady (c : Cont) (i : Instr) : Bool :=
  ((mNeeds i).1.all fun q => match c.tileAt q with
    | .ok _ => true
    | .error _ => false) &&
  match (mNeeds i).2 with
  | some a => !(c.mx.array.any fun k => k.drain && k.acc == a)
  | none => true

/-- Whether a run of an attention sequencer holds the array of a continuation (R269). -/
def Mach.runHolds (m : Mach) (c : Cont) : Bool := m.seqs.any fun p => match p.2.run with
  | some r => r.cont == c.id
  | none => false

/-- A command in the array. -/
def Entered.cmd (e : Entered) (id : Nat) (mx : BitVec 64) (f : W32) (src : MSrc) (pc : BitVec 48) : MCmd :=
  { id := id, mx := mx, fmt := f, src := src, pc := pc, acc := e.acc, drain := e.drain, pops := e.pops, reads := e.reads
    writes := e.writes, elems := e.elems, esize := e.esize, mark := e.mark, rowMarks := e.rowMarks, waits := e.waits }

/-- What a command does as it enters, by its instruction: the M-slot commands that a follow-on or a sequencer run may also
hold are named by their meanings' own entries. -/
def enterInstr (i : Instr) (m : Mach) (c : Cont) (f : W32) (dusk : Option Nat) (high : Nat) : Enter Entered :=
  match i with
  | .mma _ qa qb acc z ks ka kb => enterMul .plain qa.toNat qb.toNat acc.toNat z ks.toNat ka kb m c f dusk
  | .mmabt _ qa qb acc z ks ka kb => enterMul .transposed qa.toNat qb.toNat acc.toNat z ks.toNat ka kb m c f dusk
  | .mmasp _ qa qb acc z ks ka kb => enterMul .sparse qa.toNat qb.toNat acc.toNat z ks.toNat ka kb m c f dusk
  | .mmacb _ qa qb acc z ks ka kb => enterMul .codebook qa.toNat qb.toNat acc.toNat z ks.toNat ka kb m c f dusk
  | .mzero _ acc kind => enterZero acc.toNat kind c
  | .mdrain _ acc dmask off => enterDrain acc.toNat (dmask.toNat + high) off.toNat m c f
  | .mdraina _ acc off => enterDrainAdd acc.toNat off.toNat m c f
  | _ => failE 0x1001

/-- An entered command takes its place: resources, array, drain-port order (R211, R430). -/
def Mach.place (m : Mach) (id : Nat) (e : Entered) (k : MCmd) : Mach :=
  match m.cont? id with
  | none => m
  | some c => { (m.setCont { c with mx := { e.mx with
      array := e.mx.array ++ [k]
      portDrains := if k.waits.getLsbD 5 then e.mx.portDrains ++ [k.id] else e.mx.portDrains } }) with
      nextCmd := m.nextCmd + 1 }

/-- Whether every ring a command reads has a tile at its consume position (R202, R211). -/
def Cont.ringsReady (c : Cont) (i : Instr) : Bool :=
  (mNeeds i).1.all fun q => match c.tileAt q with
    | .ok _ => true
    | .error _ => false

/-- Whether the head of tile queue 1 may enter (R211). -/
def Cont.queue1Ready (c : Cont) : Bool :=
  match c.mx.tq1 with
  | k :: _ => (match decodeM k.mx.toNat with
    | some j => c.mReady j
    | none => false)
  | [] => false

/-- An M-slot command: claim, waits, its fmt as it enters, its entry, its flags (R25, R129, R210, R211). With its tiles there
and its checks passed it may still wait for its accumulator, or yield to tile queue 1. -/
def mSlot (i : Instr) (enter : Mach → Cont → W32 → Option Nat → Enter Entered) : Act Unit := do
  needClaim
  let m ← getM
  awaitIf (m.runHolds m.cur || !(m.cur.ringsReady i))
  let f ← takeFmt
  let dusk ← (if fmtDusk f then do
      let n ← fresh
      pure (some (n * 2 ^ 32))
    else pure none)
  modM fun m => m.landDrains m.cur.id
  let m ← getM
  match enter m m.cur f dusk with
  | .error e => fun _ => .error e
  | .ok e => do
    parkIf (!(m.cur.mReady i) || (!(fmtPq m.cur.fmt) && m.cur.queue1Ready))
    modM fun m => m.place m.cur.id e (e.cmd m.nextCmd (m.cur.insnNow.setWidth 64) f .slot m.cur.pc)
    flagEventsAt 4 e.ev

/-- A follow-on fails as it enters: its task ends (R216, R364). -/
def Mach.followFails (m : Mach) (c : Cont) (k : MCmd) (cardOff : Nat) (t : Trap) : Mach :=
  let cause : Cause := if t.cause = 0x3006 then 0x3006 else 0x4006
  m.reportEnd c { trap := { cause := cause, faddr := t.faddr, info := if t.cause = 0x3006 then t.info else toW cardOff }
                  pc := k.pc, fslot := 5, imp := true, eng := true, sys := c.sysMode, insn := k.mx, die := c.die, core := c.core }

/-- Whether fmt.pq lets a ready head of tile queue 0 enter before tile queue 1 (R124, R211). -/
def Mach.queue0First (m : Mach) (c : Cont) : Bool :=
  fmtPq c.fmt && match m.mHead c with
    | some e => c.mReady e.instr
    | none => false

/-- The head of tile queue 1 enters the array, where it may (R211, R216). -/
def Mach.enterQueued (m : Mach) (id : Nat) : Mach :=
  match m.cont? id with
  | none => m
  | some c => match c.mx.tq1 with
    | [] => m
    | k :: rest => match decodeM k.mx.toNat with
      | none => m
      | some i =>
        if m.runHolds c || !c.resident || !(c.mReady i) || m.queue0First c then m
        else
          let cardOff := match k.src with
            | .follow n => n
            | _ => 0
          let m := (m.setCont { c with mx := { c.mx with tq1 := rest } }).landDrains id
          match m.cont? id with
          | none => m
          | some c =>
            let dusk := if fmtDusk k.fmt then some (m.freeCount * 2 ^ 32) else none
            let m := if fmtDusk k.fmt then { m with freeCount := m.freeCount + 1 } else m
            match enterInstr i m c k.fmt dusk 0 with
            | .ok e =>
              let m := m.place id e (e.cmd k.id k.mx k.fmt k.src k.pc)
              match m.cont? id with
              | some c => m.setCont (c.setFlags 4 e.ev true k.pc)
              | none => m
            | .error (.trap t) => m.followFails c k cardOff t
            | .error _ => m

/-- Whether a run's sequencer can accept another drain: the rows of the one before have been consumed (R133, R270). -/
def Mach.runAccepts (m : Mach) (src : MSrc) : Bool :=
  match src with
  | .seq n => match (m.seq n).run with
    | some r => r.scores.isNone
    | none => true
  | _ => true

/-- Whether a command in the array may retire: what still has to accept its result (R133, R212). -/
def Mach.canRetire (m : Mach) (c : Cont) (k : MCmd) : Bool :=
  !(k.waits.getLsbD 5) && (!(k.waits.getLsbD 4) || c.mx.latch.isEmpty) && (!(k.waits.getLsbD 6) || m.runAccepts k.src)

/-- A command retires: drain writes, latch, sequencer, pops (R133, R202, R212). -/
def Mach.retire (m : Mach) (c : Cont) (k : MCmd) : Mach :=
  let m := { m with mem := k.writes.foldl (fun (x : Mem) (w : SpadWrite) => x.spadWrite w.key w.bytes w.poison) m.mem }
  let popped := k.pops.foldl (fun (r : Vector (BitVec 128) 16 × Vector Byte 16) q =>
    (vset r.1 q (ringPop (vget r.1 q 0) 1), vset r.2 q (consumeAfter (vget r.1 q 0) (vget r.2 q 0) 1))) (c.mx.rings, c.mx.cpos)
  let latch := if k.waits.getLsbD 4 then
      ((k.elems.zipIdx.map fun e => (leBytes k.esize e.1).map fun b => (b, k.rowMarks.getLsbD (e.2 / 64))).flatten)
    else c.mx.latch
  let m := m.setCont { c with mx := { c.mx with
    rings := popped.1, cpos := popped.2, latch := latch, array := c.mx.array.filter fun x => x.id ≠ k.id } }
  match k.src with
  | .seq n =>
    if k.waits.getLsbD 6 then
      match (m.seq n).run with
      | some r => m.setSeq n { m.seq n with run := some { r with scores := some (k.elems, k.mark, fmtMc k.fmt == 0, k.rowMarks) } }
      | none => m
    else m
  | _ => m

/-- The oldest command that may retire does (R212). -/
def Mach.retireOne (m : Mach) (id : Nat) : Mach :=
  match m.cont? id with
  | none => m
  | some c => match c.mx.array.find? fun k => m.canRetire c k with
    | none => m
    | some k => m.retire c k

end Sys2Proof.Machine
end

