-- ==== Sys2Proof/Machine/Matrix.lean ====
section
/-! DEFINITION. The M-slot commands and the events of the matrix array (R205 to R215). -/

namespace Sys2Proof.Machine

/-- MMA (R205 to R207). -/
def execMma (gu : Guard) (qa : Q) (qb : Q) (acc : Acc) (z : Bool) (ks : BitVec 7) (ka : Bool) (kb : Bool) (σ : State) : Host.Outcome State Fault Refusal :=
  runSlot (.mma gu qa qb acc z ks ka kb) .m (some gu) (mSlot (.mma gu qa qb acc z ks ka kb) (enterMul .plain qa.toNat qb.toNat acc.toNat z ks.toNat ka kb)) σ

/-- MMABT: B stored transposed (R203, R205). -/
def execMmabt (gu : Guard) (qa : Q) (qb : Q) (acc : Acc) (z : Bool) (ks : BitVec 7) (ka : Bool) (kb : Bool) (σ : State) : Host.Outcome State Fault Refusal :=
  runSlot (.mmabt gu qa qb acc z ks ka kb) .m (some gu) (mSlot (.mmabt gu qa qb acc z ks ka kb) (enterMul .transposed qa.toNat qb.toNat acc.toNat z ks.toNat ka kb)) σ

/-- MMASP: A is 2:4 sparse (R208). -/
def execMmasp (gu : Guard) (qa : Q) (qb : Q) (acc : Acc) (z : Bool) (ks : BitVec 7) (ka : Bool) (kb : Bool) (σ : State) : Host.Outcome State Fault Refusal :=
  runSlot (.mmasp gu qa qb acc z ks ka kb) .m (some gu) (mSlot (.mmasp gu qa qb acc z ks ka kb) (enterMul .sparse qa.toNat qb.toNat acc.toNat z ks.toNat ka kb)) σ

/-- MMACB: B holds codebook indices (R109, R205). -/
def execMmacb (gu : Guard) (qa : Q) (qb : Q) (acc : Acc) (z : Bool) (ks : BitVec 7) (ka : Bool) (kb : Bool) (σ : State) : Host.Outcome State Fault Refusal :=
  runSlot (.mmacb gu qa qb acc z ks ka kb) .m (some gu) (mSlot (.mmacb gu qa qb acc z ks ka kb) (enterMul .codebook qa.toNat qb.toNat acc.toNat z ks.toNat ka kb)) σ

/-- MZERO (R213). -/
def execMzero (gu : Guard) (acc : Acc) (kind : Bool) (σ : State) : Host.Outcome State Fault Refusal :=
  runSlot (.mzero gu acc kind) .m (some gu) (mSlot (.mzero gu acc kind) (fun _ c _ _ => enterZero acc.toNat kind c)) σ

/-- MLDACC (R213). -/
def execMldacc (gu : Guard) (acc : Acc) (off : Off) (kind : Bool) (σ : State) : Host.Outcome State Fault Refusal :=
  runSlot (.mldacc gu acc off kind) .m (some gu) (mSlot (.mldacc gu acc off kind) (fun m c _ _ => enterLoad acc.toNat off.toNat kind m c)) σ

/-- MDRAIN (R214). -/
def execMdrain (gu : Guard) (acc : Acc) (dmask : BitVec 6) (off : Off) (σ : State) : Host.Outcome State Fault Refusal :=
  runSlot (.mdrain gu acc dmask off) .m (some gu) (mSlot (.mdrain gu acc dmask off) (fun m c f _ => enterDrain acc.toNat dmask.toNat off.toNat m c f)) σ

/-- MDRAINA (R214). -/
def execMdraina (gu : Guard) (acc : Acc) (off : Off) (σ : State) : Host.Outcome State Fault Refusal :=
  runSlot (.mdraina gu acc off) .m (some gu) (mSlot (.mdraina gu acc off) (fun m c f _ => enterDrainAdd acc.toNat off.toNat m c f)) σ

/-- MPOP (R213). -/
def execMpop (gu : Guard) (qa : Q) (qb : Q) (popA : Bool) (popB : Bool) (σ : State) : Host.Outcome State Fault Refusal :=
  runSlot (.mpop gu qa qb popA popB) .m (some gu) (mSlot (.mpop gu qa qb popA popB) (fun _ c _ _ => enterPop qa.toNat qb.toNat popA popB c)) σ

/-- MCBLD (R215). -/
def execMcbld (gu : Guard) (off : Off) (σ : State) : Host.Outcome State Fault Refusal :=
  runSlot (.mcbld gu off) .m (some gu) (mSlot (.mcbld gu off) (fun m c _ _ => enterCodebook off.toNat m c)) σ

/-- MSCL (R215). -/
def execMscl (gu : Guard) (off : Off) (σ : State) : Host.Outcome State Fault Refusal :=
  runSlot (.mscl gu off) .m (some gu) (mSlot (.mscl gu off) (fun m c _ _ => enterScale off.toNat m c)) σ

/-- The slots MFENCE and DFENCE name: bits 0 to 5 stand for the six other slots, a zero mask for all; `base`
holds the slots a fence always names (R215, R240). -/
def fenceSlots (mask : BitVec 6) (others : List Nat) (base : Nat) : BitVec 7 :=
  (others.zipIdx.foldl (fun (x : Nat) p => if mask = 0 || mask.getLsbD p.2 then x + 2 ^ p.1 else x) base : Nat)

/-- MFENCE: later M-slot commands, and later instructions of the named slots, wait for the commands that stand before it (R215). -/
def execMfence (gu : Guard) (slots : BitVec 6) (σ : State) : Host.Outcome State Fault Refusal :=
  runSlot (.mfence gu slots) .m (some gu) (do
    needClaim
    modM fun m => { m with cur := { m.cur with holds := m.cur.holds ++
      [{ kind := .commands, slots := fenceSlots slots [0, 1, 2, 3, 5, 6] 16, before := m.nextCmd, bundle := m.cur.bundleNow }] } }) σ

/-- ARRAY_ENTRY: the head of tile queue 1 enters the array (R211, R216). -/
def execArrayEntry (cont : Nat) (σ : State) : Host.Outcome State Fault Refusal :=
  runEvent (fun m => m.enterQueued cont) σ

/-- MATRIX_COMMAND_RETIRE (R212). -/
def execMatrixCommandRetire (cont : Nat) (σ : State) : Host.Outcome State Fault Refusal :=
  runEvent (fun m => m.retireOne cont) σ

end Sys2Proof.Machine
end

