-- ==== Sys2Proof/Machine/Jobs.lean ====
section
/-! DEFINITION. Engine jobs: the checks of a card as the D instruction leaves its queue (R136, R219, R221), the job's own
accesses, its start, its signals in the order of R81, its faults (R219), its follow-on (R137). -/

namespace Sys2Proof.Machine

/-- Opcodes of the D-slot map (R138). -/
def opDcopy : Nat := 0
def opDmcast : Nat := 1
def opDgath : Nat := 2
def opDscat : Nat := 3
def opDscadd : Nat := 4
def opDred : Nat := 5
def opDbcast : Nat := 6
def opDallg : Nat := 7
def opDembag : Nat := 8
def opDstage : Nat := 9
def opUnpack : Nat := 11
def opExn : Nat := 12
def opKvfill : Nat := 13
def opSkfind : Nat := 14
def opSkput : Nat := 15
def opSkrel : Nat := 16
def opSkpin : Nat := 17
def opIxwalk : Nat := 19
def opIxsect : Nat := 20
def opIxpart : Nat := 21

/-! ### Checks of a card -/

/-- Which fields of R221 a kind uses. -/
structure KindUse where
  src : Bool := false
  dst : Bool := false
  rows : Bool := false
  rbytes : Bool := false
  sstride : Bool := false
  dstride : Bool := false
  list : Bool := false
  kspec : Bool := false
  kflags : Nat := 0
  ecode : Bool := false
  /-- src, dst or the list is a scratchpad address whatever its space bit holds. -/
  srcSp : Bool := false
  dstSp : Bool := false
  listSp : Bool := false
  deriving DecidableEq, Repr

/-- The table of R221; `kflags` is the mask of bits a kind may set. -/
def useOf (op : Nat) : KindUse :=
  if op = 0 then { src := true, dst := true, rows := true, rbytes := true, sstride := true, dstride := true, kspec := true, kflags := 1 }
  else if op = 1 then { src := true, dst := true, dstSp := true, rows := true, rbytes := true, sstride := true, dstride := true }
  else if op = 2 ∨ op = 3 then { src := true, dst := true, rbytes := true, sstride := true, dstride := true, list := true }
  else if op = 4 then { src := true, dst := true, rbytes := true, sstride := true, dstride := true, list := true, ecode := true }
  else if op = 5 then { src := true, srcSp := true, dst := true, rbytes := true, kspec := true, kflags := 7, ecode := true }
  else if op = 6 ∨ op = 7 then { src := true, srcSp := true, dst := true, rbytes := true, kspec := true, kflags := 3, ecode := true }
  else if op = 8 then { src := true, dst := true, rows := true, rbytes := true, sstride := true, dstride := true, list := true,
                        kspec := true, kflags := 0x33, ecode := true }
  else if op = 9 then { list := true, kspec := true }
  else if op = 10 then { src := true, srcSp := true, dst := true, dstSp := true, rows := true, rbytes := true, sstride := true,
                         dstride := true, kspec := true }
  else if op = 11 then { src := true, srcSp := true, dst := true, dstSp := true, rbytes := true, sstride := true, dstride := true, kspec := true }
  else if op = 12 then { src := true, srcSp := true, rbytes := true, sstride := true, list := true, listSp := true, kspec := true, kflags := 1 }
  else if op = 13 then { rows := true, kspec := true }
  else if op = 14 then { dst := true, dstSp := true, rows := true, list := true, kspec := true, kflags := 1 }
  else if op = 15 then { src := true, dst := true, dstSp := true, list := true, kspec := true, kflags := 1 }
  else if op = 16 then { list := true }
  else if op = 17 then { list := true, kflags := 1 }
  else if op = 19 then { src := true, dst := true, dstSp := true, rows := true, list := true, kspec := true, kflags := 1 }
  else if op = 20 then { src := true, dst := true, dstSp := true, rows := true, list := true }
  else { src := true, dst := true, dstSp := true, rows := true, kspec := true }

/-- Whether an address field fits its space: bits 63:32 zero in scratchpad (R136). -/
def addrOk (spad : Bool) (a : Nat) : Bool := !spad || decide (a < 2 ^ 32)

/-- The reserved bits and the limits of R136 that hold for every kind. -/
def Card.common (k : Card) (op : Nat) : Bool :=
  let u := useOf op
  let w := k.at 0 4
  let zero := fun (used : Bool) (v : Nat) => used || decide (v = 0)
  decide (k.kind = op) && decide (bits w 31 30 = 0 ∧ bits w 18 15 = 0 ∧ k.at 60 4 = 0 ∧ k.at 105 1 = 0 ∧ k.aidx < 64) &&
    zero u.src k.src && zero u.dst k.dst && zero u.rows k.rows && zero u.rbytes k.rbytes &&
    zero u.sstride (k.at 32 8) && zero u.dstride (k.at 40 8) && zero u.list k.ilist && zero u.list k.icount &&
    zero u.kspec k.kspec && decide (k.kflags &&& u.kflags = k.kflags) && zero u.ecode k.ecode &&
    decide (k.rows < 2 ^ 24 ∧ k.rbytes ≤ 2 ^ 24 ∧ k.cword < 2 ^ 32) && (!k.aincEn || decide (1 ≤ k.ainc)) &&
    addrOk (u.srcSp || (!k.sspace && op ≠ 15)) k.src && addrOk (u.dstSp || !k.dspace) k.dst && addrOk (u.listSp || !k.sspace) k.ilist

/-- The row count that a ring advance writes, where the card alone gives it (R136). -/
def Card.rowCount (k : Card) (op : Nat) : Nat := if op = 2 ∨ op = 3 then k.icount else k.rows

/-- What each kind's own description asks of a card (R222 to R239, R430). -/
def Card.kindOk (k : Card) (op : Nat) : Bool :=
  let some1 := decide (1 ≤ k.rbytes)
  let coll := decide (1 ≤ bits k.kspec 39 16 ∧ bits k.kspec 63 40 < bits k.kspec 39 16 ∧ bits k.kflags 1 0 ≠ 3)
  if k.dport then
    (op == 0 || op == 1) && decide (k.src = 0 ∧ k.sspace = false ∧ k.at 32 8 = 0 ∧ k.rows = 0 ∧ k.rbytes = 0 ∧ k.kflags = 0 ∧ k.kspec = 0) &&
      (op == 0 || decide (k.dst < 2 ^ 23))
  else if op = 0 then
    if k.kflags = 1 then some1 && decide (k.kspec < 2 ^ 40 ∧ 1 ≤ k.rows ∧ k.dst = 0 ∧ k.at 40 8 = 0) else some1 && decide (k.kspec = 0)
  else if op = 1 then some1 && decide (k.dst < 2 ^ 23)
  else if op = 2 ∨ op = 3 then some1
  else if op = 4 then
    some1 && (k.ecode == 0 || k.ecode == 1 || k.ecode == 2 || k.ecode == 7 || k.ecode == 6 || k.ecode == 9) &&
      decide (k.rbytes % elemBytes k.ecode = 0)
  else if op = 5 then some1 && coll && vectorFmt k.ecode && decide (k.rbytes % elemBytes k.ecode = 0)
  else if op = 6 ∨ op = 7 then some1 && coll
  else if op = 8 then
    some1 && decide (1 ≤ k.rows ∧ k.rows ≤ 65535 ∧ bits k.kspec 31 23 = 0 ∧ bits k.kspec 63 55 = 0 ∧ bits k.kflags 5 4 ≠ 3) &&
      (k.ecode == 0 || k.ecode == 1)
  else if op = 9 then decide (1 ≤ k.icount ∧ k.icount ≤ 256 ∧ k.kspec < 256)
  else if op = 10 then
    some1 && decide (1 ≤ k.rows ∧ k.rows ≤ 64 ∧ bits k.kspec 22 0 % 8 = 0 ∧ bits k.kspec 23 23 = 0 ∧ bits k.kspec 63 33 = 0)
  else if op = 11 then some1 && decide (bits k.kspec 23 0 = 0 ∧ bits k.kspec 63 32 = 0)
  else if op = 12 then decide (1 ≤ k.icount ∧ k.icount ≤ 4096 ∧ k.kspec < 2 ^ 14) && (k.kflags == 0 || some1)
  else if op = 13 then decide (1 ≤ k.rows ∧ bits k.kspec 15 8 ≤ bits k.kspec 23 16 ∧ bits k.kspec 63 48 = 0)
  else if op = 14 then decide (1 ≤ k.rows ∧ k.rows ≤ 65535 ∧ k.kspec < 256)
  else if op = 15 then decide (k.icount = 256)
  else if op = 16 ∨ op = 17 then decide (1 ≤ k.icount ∧ k.icount ≤ 65535)
  else if op = 19 then decide (k.kspec < 2 ^ 32)
  else if op = 21 then decide (1 ≤ k.kspec ∧ k.kspec ≤ 65536)
  else true

/-- Whether a follow-on is one that R216 allows by value: guard and invert zero, an opcode of its list, its own fields. -/
def followOk (w : Nat) : Bool :=
  decide (bits w 56 53 = 0) && match decodeM w with
  | some (.mma _ _ _ _ _ _ _ _) => true
  | some (.mmabt _ _ _ _ _ _ _ _) => true
  | some (.mmasp _ _ _ _ _ _ _ _) => true
  | some (.mmacb _ _ _ _ _ _ _ _) => true
  | some (.mdrain _ _ _ _) => true
  | some (.mdraina _ _ _) => true
  | _ => false

/-- Whether a card passes every check of R219 that yields a bad job card. -/
def Card.good (k : Card) (op : Nat) : Bool :=
  k.common op && k.kindOk op && (!k.fol || followOk k.follow) && (!k.radv || decide (k.rowCount op ≤ 255))

/-- Whether a kind waits for a channel of the die's copy engine (R220). -/
def usesChannel (op : Nat) : Bool := decide (op ≤ 11)

/-- The completion word's check against the target team and the target member's window (R219). -/
def Mach.cwordCause (m : Mach) (c : Cont) (k : Card) : Option Cause :=
  if !k.cmpl then none
  else if k.cword % 8 ≠ 0 then some 0x2001
  else match m.spTarget c.task c.team.toNat k.cword with
    | none => some 0x2002
    | some (t, off) => if t.inWindow off 8 then none else some 0x2002

/-- Reads a card at a window offset (R132, R219). -/
def Mach.readCard (m : Mach) (c : Cont) (off : Nat) : Except Trap Card :=
  if off % 128 ≠ 0 ∨ !(c.inWindow off 128) then .error { cause := 0x2002, faddr := toW off }
  else match m.winMark c off 128 with
    | some g => .error { cause := 0x3006, faddr := toW off, info := toW g, walk := true }
    | none => .ok (BitVec.ofNat 1024 (leNat (m.winRead c off 128)))

/-- A job joins the queues: started at once where it needs no channel; store operations line up at the walker; drain-port
jobs take their turn (R219, R220, R430). -/
def Mach.addJob (m : Mach) (j : Job) : Mach :=
  let j := { j with id := m.nextJob, st := if usesChannel j.op then .queued else .started, follow := j.card.fol }
  let m := { m with
    jobs := m.jobs ++ [j]
    tasks := m.tasks.map fun (t : Task) => if t.seq = j.task then { t with cards := t.cards ++ Card.regions j.card } else t
    nextJob := m.nextJob + 1
    skein := if 14 ≤ j.op ∧ j.op ≤ 17 then m.skein ++ [j.id] else m.skein }
  if j.card.dport then
    match m.cont? j.cont with
    | some c => m.setCont { c with mx := { c.mx with portJobs := c.mx.portJobs ++ [j.id] } }
    | none => m
  else m

/-- What a job's accesses follow: what the continuation's accesses to come follow, and with the D slot's sync bit every access of
an earlier bundle (R86, R97; log entry 72). -/
def Mach.jobPast (m : Mach) : SMap Nat :=
  match m.cur.cursor with
  | some k => if k.sync.getLsbD 5 then m.mem.stampOf m.cur.die else m.cur.past
  | none => m.cur.past

/-- A D-slot instruction that names a card (R218, R219): its checks, then the job. The accesses of other slots come before the
job's where an edge of R86 says so, as dispatch with a sync bit makes them (R97). -/
def issueJob (op : Nat) (card : GF) (mm : BitVec 4) (ac : BitVec 6) : Act Unit := do
  let m ← getM
  awaitIf ((m.guestOf m.cur).isNone && m.sourcesHeld m.cur.ctx)
  if op = opPack ∨ op = opUnpack then needClaim else pure ()
  let x ← readG card
  let m ← getM
  let c := m.cur
  let off := bits x.toNat 22 0
  match m.readCard c off with
  | .error t => raiseT t
  | .ok k => do
    if k.fol then needClaim else pure ()
    match m.cwordCause c k with
    | some cause => raise cause (toW k.cword)
    | none => do
      raiseIf (!(k.good op)) 0x2004 (toW off)
      let f ← takeFmt
      modM fun m => m.addJob { id := 0, cont := c.id, task := c.task, die := c.die, op := op, card := k, cardOff := off
                               mm := mm, ac := ac, fmt := f, pc := c.pc, insn := c.insnNow, past := m.jobPast }

/-! ### A running job's accesses -/

/-- What a job's work gives: a machine, a wait, or a fault. -/
abbrev JobM := Except Stop

/-- A fault of a running job. -/
def failJ {α : Type} (c : Cause) (faddr : Word := 0) (info : Word := 0) : JobM α :=
  .error (.trap { cause := c, faddr := faddr, info := info })

/-- A fault where a condition holds. -/
def failJIf (b : Bool) (c : Cause) (info : Word := 0) : JobM Unit := if b then failJ c 0 info else pure ()

/-- The member and offset of a scratchpad range a job names (R60). -/
def Mach.jobSpad (m : Mach) (c : Cont) (a : Int) (n : Nat) : JobM (Cont × Nat) :=
  if a < 0 ∨ (2 : Int) ^ 32 ≤ a then failJ 0x2002 (ofI a)
  else match m.spTarget c.task c.team.toNat a.toNat with
    | none => failJ 0x2002 (ofI a)
    | some (t, off) =>
      if !(t.inWindow off n) then failJ 0x2002 (ofI a)
      else if m.away t then .error .wait
      else pure (t, off)

/-- The physical parts of a job's virtual range (R74, R158). -/
def Mach.jobParts (m : Mach) (j : Job) (a : Int) (n : Nat) (need : Acc3) : JobM (List (Nat × Nat)) :=
  match m.task? j.task with
  | none => .error .wait
  | some t => match m.resolveTask j.die t (ofI a) n need with
    | .ok ps => pure ps
    | .fail f => .error (.trap f)
    | .wait => .error .wait

/-- A job reads a range: bytes and the first marked granule. -/
def Mach.jobRead (m : Mach) (j : Job) (c : Cont) (virt : Bool) (a : Int) (n : Nat) : JobM (List Byte × Option Nat) :=
  if n = 0 then pure ([], none)
  else if virt then do
    let ps ← m.jobParts j a n .read
    pure (m.mem.readParts j.die ps, m.mem.markParts j.die ps)
  else do
    let t ← m.jobSpad c a n
    pure (m.winRead t.1 t.2 n, m.winMark t.1 t.2 n)

/-- The job's die has what the writes of a range it reads follow, in another core's scratchpad or in host memory (R94, R97). -/
def Mach.jobSaw (m : Mach) (j : Job) (c : Cont) (virt : Bool) (a : Int) (n : Nat) : Mach :=
  if virt then match m.jobParts j a n .read with
    | .ok ps => { m with mem := m.mem.observe j.die ps }
    | .error _ => m
  else match m.jobSpad c a n with
    | .ok t => m.winSaw j.die t.1 t.2 n
    | .error _ => m

/-- Reads a range whose mark ends the task (R381). -/
def Mach.jobClean (m : Mach) (j : Job) (c : Cont) (virt : Bool) (a : Int) (n : Nat) : JobM (List Byte) := do
  let r ← m.jobRead j c virt a n
  match r.2 with
  | some g => failJ 0x3006 (ofI a) (toW g)
  | none => pure r.1

/-- Checks that a job may write a range. -/
def Mach.jobMay (m : Mach) (j : Job) (c : Cont) (virt : Bool) (a : Int) (n : Nat) : JobM Unit :=
  if n = 0 then pure ()
  else if virt then do
    let _ ← m.jobParts j a n .write
    pure ()
  else do
    let _ ← m.jobSpad c a n
    pure ()

/-- A job writes a range by granules (R98). -/
def Mach.jobWrite (m : Mach) (j : Job) (c : Cont) (virt : Bool) (a : Int) (bytes : List Byte) (poison : Bool) : JobM Mach :=
  if bytes.isEmpty then pure m
  else if virt then do
    let ps ← m.jobParts j a bytes.length .write
    pure { m with mem := m.mem.landParts j.die ps bytes poison }
  else do
    let t ← m.jobSpad c a bytes.length
    pure (m.winWriteBy j.die t.1 t.2 bytes poison)

/-- Does something for every element of a list, in order. -/
def eachJ {α : Type} (f : Mach → α → JobM Mach) : Mach → List α → JobM Mach
  | m, [] => pure m
  | m, x :: r => do
    let m ← f m x
    eachJ f m r

/-- Gathers what a reading gives for every element. -/
def gatherJ {α β : Type} (f : α → JobM β) : List α → JobM (List β)
  | [] => pure []
  | x :: r => do
    let y ← f x
    let ys ← gatherJ f r
    pure (y :: ys)

/-- A list of unsigned numbers of `z` bytes. -/
def numbers (z n : Nat) (b : List Byte) : List Nat := (List.range n).map fun i => leAt b (z * i) z

/-! ### Signals (R81, R136) -/

/-- The members at which a job advances rings and counters: those its destination names (R136). -/
def Mach.signalMembers (m : Mach) (j : Job) (c : Cont) : JobM (List Nat) :=
  let k : Card := j.card
  if j.op = opDmcast then
    match allSome (((List.range 4).filter fun p => j.mm.getLsbD p).map fun p => m.clusterMember? c p) with
    | none => failJ 0x2002 (toW k.dst)
    | some l => pure (l.map Cont.id)
  else if !(useOf j.op).dst || (k.dspace && !(useOf j.op).dstSp) || (j.op == opDcopy && k.kflags = 1) then pure [c.id]
  else do
    let t ← m.jobSpad c k.dst 0
    pure [t.1.id]

/-- A member at which a job makes a signal has the job's payload and what that follows (R81, R97). -/
def Mach.signalPast (m : Mach) (j : Job) (id : Nat) : Mach :=
  match m.cont? id with
  | none => m
  | some t => { m with mem := m.mem.catchUp t.die (m.mem.stampOf j.die) }

/-- One ring advance at a member: its row count, then its tail (R63, R136). -/
def Mach.ringAdvance (m : Mach) (id q rows : Nat) : JobM Mach :=
  match m.cont? id with
  | none => pure m
  | some t =>
    let v := vget t.mx.rings q 0
    if !t.claim then failJ 0x2007
    else if ringCount v < ringOcc v + 1 then failJ 0x2008
    else
      let off := ringRows v + ringTail v % ringCount v
      if !(t.inWindow off 1) then failJ 0x2002 (toW off)
      else
        let m := m.winWrite t off [BitVec.ofNat 8 rows] false
        match m.cont? id with
        | some t => pure (m.setCont { t with mx := { t.mx with rings := vset t.mx.rings q (ringPush v 1) } })
        | none => pure m

/-- One increment of an arrival counter at a member (R136, R137). -/
def Mach.arrive (m : Mach) (id k n : Nat) : JobM Mach :=
  match m.cont? id with
  | none => pure m
  | some t =>
    let v := (vget t.mx.ac k 0).toNat + n
    if !t.claim || decide (2 ^ 32 ≤ v) then failJ 0x200E
    else pure (m.setCont { t with mx := { t.mx with ac := vset t.mx.ac k (BitVec.ofNat 32 v) } })

/-- The completion write: a release that covers the payload (R81). -/
def Mach.completionWrite (m : Mach) (j : Job) (c : Cont) : Mach :=
  let k : Card := j.card
  if !k.cmpl then m
  else match m.spTarget c.task c.team.toNat k.cword with
    | none => m
    | some (t, off) =>
      let m := m.signalPast j t.id
      match m.cont? t.id with
      | some t => m.winWriteBy j.die t off (leBytes 8 k.cval) false
      | none => m

/-- The signals of a job whose payload has landed, each after the one before; then the job is gone, or waits with its
follow-on (R81, R137). `ev`: the flags its arithmetic sets (R118). -/
def Mach.jobSignals (m : Mach) (j : Job) (rows ev : Nat) : JobM Mach :=
  match m.cont? j.cont with
  | none => pure { m with jobs := m.jobs.filter fun x => x.id ≠ j.id }
  | some c => do
    let k : Card := j.card
    let ids ← (if k.radv || k.aincEn then m.signalMembers j c else pure [])
    let m := ids.foldl (fun (m : Mach) id => m.signalPast j id) m
    let m ← (if k.radv then eachJ (fun m id => m.ringAdvance id k.ringq rows) m ids else pure m)
    let m ← (if k.aincEn then eachJ (fun m id => m.arrive id k.aidx k.ainc) m ids else pure m)
    let m := match m.cont? j.cont with
      | some c => m.setCont (c.setFlags 5 ev true j.pc)
      | none => m
    let m := match m.cont? j.cont with
      | some c => m.completionWrite j c
      | none => m
    pure (if j.follow then m.setJob { j with st := .landed } else { m with jobs := m.jobs.filter fun x => x.id ≠ j.id })

/-! ### Faults -/

/-- A running job's fault ends its task; a failure of the continuation that is still pending is the one recorded (R219,
R351). -/
def Mach.jobEnds (m : Mach) (j : Job) (t : Trap) : Mach :=
  match m.cont? j.cont with
  | none => m
  | some c =>
    match c.imprecise with
    | some i => m.reportEnd c { trap := i.trap, pc := i.pc, fslot := i.slot, imp := true, eng := i.eng, sys := c.sysMode
                                insn := i.insn, die := c.die, core := c.core }
    | none => m.reportEnd c { trap := t, pc := j.pc, fslot := 5, imp := true, eng := true, sys := c.sysMode, insn := j.insn
                              die := c.die, core := c.core }

/-- The same, with the card's offset as the detail of class 0x4 (R352). -/
def Mach.jobFails (m : Mach) (j : Job) (t : Trap) : Mach :=
  m.jobEnds j (if t.cause.toNat / 4096 = 4 then { t with info := toW j.cardOff } else t)

/-! ### Start -/

/-- Whether a job's own footprints must wait for an earlier task of its context, by that task's footprints or those of its job
cards (R36, R220). -/
def Mach.jobBlocked (m : Mach) (j : Job) : Bool :=
  match m.task? j.task with
  | none => false
  | some t => (m.earlier t.ctx t.seq (t.node.map Prod.fst)).any fun a => mustFollow (m.footprints a) (Card.regions j.card)

/-- Whether an earlier PACK or UNPACK of the continuation names the same permutation record (R229). -/
def Mach.recordBusy (m : Mach) (j : Job) : Bool :=
  (j.op == opPack || j.op == opUnpack) && m.jobs.any fun x =>
    x.cont == j.cont && (x.op == opPack || x.op == opUnpack) && decide (x.id < j.id) && x.st ≠ .landed &&
      bits x.card.kspec 31 24 == bits j.card.kspec 31 24

/-- The job of a die that a free channel takes: highest priority, then oldest (R220). -/
def Mach.nextOnDie (m : Mach) (d : Nat) : Option Job :=
  (m.jobs.filter fun j => j.die == d && j.st == .queued && usesChannel j.op && !(m.jobBlocked j) && !(m.recordBusy j)).foldl
    (fun best j => match best with
      | none => some j
      | some b => if b.card.prio < j.card.prio then some j else some b) none

/-- The channels of a die's copy engine (R11). -/
def engineChannels : Nat := 64

/-- The channels of a die's copy engine that jobs hold (R11, R220). -/
def Mach.channelsUsed (m : Mach) (d : Nat) : Nat :=
  (m.jobs.filter fun j => j.die == d && j.st == .started && usesChannel j.op).length

/-- A waiting job of a die starts where a channel is free (R11, R220). -/
def Mach.startJob (m : Mach) (d : Nat) : Mach :=
  if engineChannels ≤ m.channelsUsed d then m
  else match m.nextOnDie d with
    | none => m
    | some j => m.setJob { j with st := .started }

/-! ### Follow-on -/

/-- The follow-on of a landed job enters tile queue 1 where its counter has reached thr; the counter falls by thr in the
same step (R137, R210). -/
def Mach.issueFollow (m : Mach) (n : Nat) : Mach :=
  match m.job? n with
  | none => m
  | some j => match m.cont? j.cont with
    | none => m
    | some c =>
      let v := (vget c.mx.ac j.ac.toNat 0).toNat
      if j.st ≠ .landed ∨ !j.follow ∨ !c.resident ∨ v < j.card.thr ∨ 8 ≤ c.mx.tq1.length ∨ m.runHolds c then m
      else
        let k : MCmd := { id := m.nextCmd, mx := BitVec.ofNat 64 j.card.follow, fmt := j.fmt, src := .follow j.cardOff, pc := j.pc
                          reads := ((decodeM j.card.follow).map fun i => (mNeeds i).1).getD [] }
        { (m.setCont { c with mx := { c.mx with
            tq1 := c.mx.tq1 ++ [k]
            ac := vset c.mx.ac j.ac.toNat (BitVec.ofNat 32 (v - j.card.thr)) } }) with
          jobs := m.jobs.filter fun x => x.id ≠ n, nextCmd := m.nextCmd + 1 }

end Sys2Proof.Machine
end

