-- ==== Sys2Proof/Machine/Moves.lean ====
section
/-! DEFINITION. What each engine job does with its payload: row moves, KV writes, scatter-adds, collectives, embedding bags,
staging, compaction, the index engine (R222 to R229, R237 to R239, R430). -/

namespace Sys2Proof.Machine

/-- The machine after a job's payload, the row count a ring advance writes, and the flags of its arithmetic. -/
structure Landed where
  m : Mach
  rows : Nat := 0
  ev : Nat := 0

/-! ### Bytes with their marks -/

/-- A range with the mark of each byte's granule (R381). -/
def Mach.jobReadMarked (m : Mach) (j : Job) (c : Cont) (virt : Bool) (a : Int) (n : Nat) : JobM (List (Byte × Bool)) :=
  if n = 0 then pure []
  else if virt then do
    let ps ← m.jobParts j a n .read
    pure ((ps.map fun p => (m.mem.read j.die p.1 p.2).zip ((rangeFrom p.1 p.2).map fun x => m.mem.marked j.die x)).flatten)
  else do
    let t ← m.jobSpad c a n
    pure ((m.winRead t.1 t.2 n).zip ((rangeFrom t.2 n).map fun x => (m.winMark t.1 x 1).isSome))

/-- Splits bytes at 64-byte boundaries of their addresses. -/
def granules : Nat → Int → List (Byte × Bool) → List (Int × List (Byte × Bool))
  | 0, _, _ => []
  | fuel + 1, a, l =>
    if l.isEmpty then []
    else
      let k := (64 - a % 64).toNat
      (a, l.take k) :: granules fuel (a + k) (l.drop k)

/-- Writes a range, each granule with the mark its bytes carry. -/
def Mach.jobWriteMarked (m : Mach) (j : Job) (c : Cont) (virt : Bool) (a : Int) (l : List (Byte × Bool)) : JobM Mach :=
  eachJ (fun m (g : Int × List (Byte × Bool)) => m.jobWrite j c virt g.1 (g.2.map Prod.fst) (g.2.any Prod.snd)) m (granules (l.length / 64 + 2) a l)

/-! ### Row moves (R222, R430) -/

/-- The job's die has what the writes of the ranges a job reads follow (R94, R97). -/
def Mach.jobSawAll (m : Mach) (j : Job) (c : Cont) (virt : Bool) (n : Nat) (l : List Int) : Mach :=
  l.foldl (fun (m : Mach) a => m.jobSaw j c virt a n) m

/-- Row indices of the list of a card (R222). -/
def Mach.jobIndices (m : Mach) (j : Job) (c : Cont) : JobM (List Nat) := do
  let b ← m.jobRead j c j.card.sspace j.card.ilist (4 * j.card.icount)
  pure (numbers 4 j.card.icount b.1)

/-- The rows a drain-port job takes: it waits for the drain it is paired with (R430). -/
def portRows (c : Cont) (j : Job) : JobM (MCmd × List (List (Byte × Bool))) :=
  match c.mx.portJobs.findIdx? fun n => n == j.id with
  | none => .error .wait
  | some i => match (c.mx.portDrains[i]?).bind fun n => c.mx.array.find? fun k => k.id == n with
    | none => .error .wait
    | some k => pure (k, (List.range k.mark).map fun x =>
        (((k.elems.drop (64 * x)).take 64).map fun v => (leBytes k.esize v).map fun b => (b, k.rowMarks.getLsbD x)).flatten)

/-- The drain has been taken: the pair leaves both orders, and the drain may retire (R430). -/
def Mach.takePort (m : Mach) (id job cmd : Nat) : Mach :=
  match m.cont? id with
  | none => m
  | some c => m.setCont { c with mx := { c.mx with
      portJobs := c.mx.portJobs.filter fun n => n ≠ job
      portDrains := c.mx.portDrains.filter fun n => n ≠ cmd
      array := c.mx.array.map fun (k : MCmd) => if k.id = cmd then { k with waits := k.waits &&& ~~~((1 : BitVec 8) <<< 5) } else k } }

/-- Source addresses and destination addresses of the rows of a move (R222). -/
def rowPlan (op : Nat) (k : Card) (idx : List Nat) : List (Int × Int) :=
  let sa := fun (x : Nat) => (k.src : Int) + x * k.sstride
  let da := fun (x : Nat) => (k.dst : Int) + x * k.dstride
  if op = opDgath then idx.zipIdx.map fun p => (sa p.1, da p.2)
  else if op = opDscat then idx.zipIdx.map fun p => (sa p.2, da p.1)
  else (List.range k.rows).map fun x => (sa x, da x)

/-- Writes a row at an offset of members of the cluster (R60, R222). -/
def Mach.writePositions (m : Mach) (ids : List Nat) (off : Int) (l : List (Byte × Bool)) : JobM Mach :=
  eachJ (fun m id => match m.cont? id with
    | none => pure m
    | some t =>
      if t.inWindow off l.length then
        pure ((granules (l.length / 64 + 2) off l).foldl (fun m g => match m.cont? id with
          | some t => m.winWrite t g.1.toNat (g.2.map Prod.fst) (g.2.any Prod.snd)
          | none => m) m)
      else failJ 0x2002 (ofI off)) m ids

/-- A row to move: where it goes, what its source held before the job, and that source's address (none at a drain port). -/
structure Row where
  dst : Int
  data : List (Byte × Bool)
  src : Option Int := none
  deriving DecidableEq, Repr

/-- The granules of a row's destination, each as a row of its own. -/
def Row.pieces (r : Row) : List Row :=
  (granules (r.data.length / 64 + 2) r.dst r.data).map fun g => { dst := g.1, data := g.2, src := r.src.map fun a => a + (g.1 - r.dst) }

/-- Whether rows of a move meet: the destination of one is that of another in part or in whole, or, in one space, the source of
one is the destination of one (R222). -/
def rowsMeet (spad : Bool) (rows : List Row) : Bool :=
  rows.zipIdx.any fun p => rows.zipIdx.any fun q =>
    let meets := fun (a : Int) => decide (a < q.1.dst + q.1.data.length ∧ q.1.dst < a + p.1.data.length)
    (p.2 ≠ q.2 && meets p.1.dst) || (spad && (match p.1.src with
      | some a => meets a
      | none => false))

/-- The pieces of a move in the order of their ranks: any order is that of some ranks. -/
def byRank (rank : Nat → Nat) : List (Row × Nat) → List (Row × Nat)
  | [] => []
  | x :: r => put x (byRank rank r)
where
  /-- Puts one piece in its place. -/
  put (x : Row × Nat) : List (Row × Nat) → List (Row × Nat)
    | [] => [x]
    | y :: r => if rank x.2 ≤ rank y.2 then x :: y :: r else y :: put x r

/-- What a row's piece moves where the job has written its source: each source granule as it stood before or as it stands
now, as a free value (R222; log entry 24). -/
def mixed (pick : Nat → Bool) (a : Int) (old new : List (Byte × Bool)) : List (Byte × Bool) :=
  if old = new then old else (old.zip new).zipIdx.map fun x => if pick ((a + x.2) / 64).toNat then x.1.2 else x.1.1

/-- A piece's bytes as the move takes them from the machine it has come to. -/
def Mach.pieceData (m : Mach) (j : Job) (c : Cont) (n : Nat) (r : Row) : List (Byte × Bool) :=
  match r.src with
  | none => r.data
  | some a => match m.jobReadMarked j c j.card.sspace a r.data.length with
    | .ok l => mixed (fun g => Config.readsLanded n g) a r.data l
    | .error _ => r.data

/-- Lands a piece of a row; for DMCAST at every position of the mask (R222). -/
def Mach.landPiece (m : Mach) (j : Job) (c : Cont) (ids : Option (List Nat)) (r : Row) (l : List (Byte × Bool)) : JobM Mach :=
  match ids with
  | some ids => m.writePositions ids r.dst l
  | none => m.jobWrite j c j.card.dspace r.dst (l.map Prod.fst) (l.any Prod.snd)

/-- Lands rows, granule by granule. Where rows meet, their granules land in an order that is a free value, and a source granule
the job has written is read old or new, a free value too (R222; log entry 24). -/
def Mach.landRows (m : Mach) (j : Job) (c : Cont) (rows : List Row) : JobM Mach :=
  let k : Card := j.card
  let n := m.freeCount
  let pieces := (rows.map Row.pieces).flatten.zipIdx
  let pieces := if rowsMeet (k.sspace == k.dspace) rows then byRank (Config.landRank n) pieces else pieces
  let land := fun (ids : Option (List Nat)) =>
    eachJ (fun m (g : Row × Nat) => m.landPiece j c ids g.1 (m.pieceData j c n g.1)) { m with freeCount := n + 1 } pieces
  if j.op = opDmcast then
    match allSome (((List.range 4).filter fun p => j.mm.getLsbD p).map fun p => m.clusterMember? c p) with
    | none => failJ 0x2002 (toW k.dst)
    | some ts => land (some (ts.map Cont.id))
  else land none

/-- DCOPY, DMCAST, DGATH and DSCAT (R222, R430). -/
def Mach.moveRows (m : Mach) (j : Job) (c : Cont) : JobM Landed := do
  let k : Card := j.card
  if k.dport then do
    let p ← portRows c j
    let rows := p.2.zipIdx.map fun r => { dst := (k.dst : Int) + r.2 * k.dstride, data := r.1 : Row }
    let m ← m.landRows j c rows
    pure { m := m.takePort c.id j.id p.1.id, rows := p.1.mark }
  else do
    let idx ← (if (useOf j.op).list then m.jobIndices j c else pure [])
    let plan := if j.op = opDmcast ∧ j.mm = 0 then [] else rowPlan j.op k idx
    let m := (m.jobSawAll j c k.sspace (4 * k.icount) (if (useOf j.op).list then [(k.ilist : Int)] else [])).jobSawAll j c k.sspace
      k.rbytes (plan.map Prod.fst)
    let rows ← gatherJ (fun (p : Int × Int) => do
      let b ← m.jobReadMarked j c k.sspace p.1 k.rbytes
      pure { dst := p.2, data := b, src := some p.1 : Row }) plan
    let m ← m.landRows j c rows
    pure { m := m, rows := k.rowCount j.op }

/-! ### KV writes (R223) -/

/-- A job's access to an arena goes through its task's translation and leases; a slot of another context lies outside them
(R54, R74). -/
def Mach.arenaOwn (m : Mach) (j : Job) (e : SlotEntry) : JobM Unit :=
  match m.task? j.task with
  | none => .error .wait
  | some t => if t.ctx = e.ctx then pure () else failJ 0x3005 e.arena

/-- The header of an arena block as a task's engine reads it, at its home (R91, R381). -/
def Mach.jobHeader (m : Mach) (j : Job) (va : Nat) : JobM (Mach × List (Nat × Nat) × List Byte) := do
  let ps ← m.jobParts j va 64 .write
  let m := m.homePrep j.die ps false j.past
  if m.homeMarked ps then failJ 0x3006 (toW va) (toW ((ps.headD (0, 0)).1 / 64 * 64))
  else pure (m.homeAcquire j.die ps, ps, m.homeRead ps)

/-- Writes K, V and the header of one position, in the arena and in every staged copy (R79, R223). -/
def Mach.putPosition (m : Mach) (j : Job) (c : Cont) (e : SlotEntry) (a : Arena) (slot layer p : Nat)
    (kb vb : List (Byte × Bool)) : JobM Mach := do
  let blk := a.block layer p
  let i := p % 16
  let m ← m.jobWriteMarked j c true (blk.toNat + 64 + i * a.kb) kb
  let m ← m.jobWriteMarked j c true (blk.toNat + 64 + 16 * a.kb + i * a.vb) vb
  let stage := fun (m : Mach) (off : Nat) (l : List (Byte × Bool)) =>
    m.writeStaged j.die slot layer (p / 16) a.stride off (l.map Prod.fst) (l.any Prod.snd)
  let m := stage m (64 + i * a.kb) kb
  let m := stage m (64 + 16 * a.kb + i * a.vb) vb
  let h ← m.jobHeader j blk.toNat
  let m := (h.1.homePrep j.die h.2.1 true).homeWrite j.die h.2.1 (headerPresent h.2.2 i) false
  let m := m.writeStaged j.die slot layer (p / 16) a.stride 0 (headerPresent h.2.2 i) false
  pure (if fsrcOf h.2.2 i = 0xFFFF then m else m.dropRecord j.die e (fsrcOf h.2.2 i))

/-- A KV write (R223). -/
def Mach.kvWrite (m : Mach) (j : Job) (c : Cont) : JobM Landed := do
  let k : Card := j.card
  let slot := bits k.kspec 7 0
  let layer := bits k.kspec 15 8
  let p0 := bits k.kspec 39 16
  if m.slotHeld j.die slot then .error .wait
  else match m.slotArena? j.die slot with
  | none => .error (.trap (m.slotFault j.die slot))
  | some (e, a) => do
    failJIf (!(layerHeld e a layer) || decide (k.rbytes ≠ a.kb + a.vb)) 0x2003
    failJIf (decide (a.positions < p0 + k.rows)) 0x200D
    m.arenaOwn j e
    let heads ← gatherJ (fun x => m.jobHeader j (a.block layer (p0 + x)).toNat) (List.range k.rows)
    if (heads.zipIdx.any fun h => bit (leAt h.1.2.2 2 2) ((p0 + h.2) % 16)) then .error .wait
    else do
      let m := m.jobSawAll j c k.sspace k.rbytes ((List.range k.rows).map fun (x : Nat) => (k.src : Int) + x * k.sstride)
      let rows ← gatherJ (fun (x : Nat) => m.jobReadMarked j c k.sspace ((k.src : Int) + x * k.sstride) k.rbytes) (List.range k.rows)
      let m ← eachJ (fun m (r : List (Byte × Bool) × Nat) =>
        m.putPosition j c e a slot layer (p0 + r.2) (r.1.take a.kb) (r.1.drop a.kb)) m rows.zipIdx
      pure { m := m, rows := k.rows }

/-! ### Scatter-add (R224) -/

/-- The merged value of one destination element: widened sums for floating formats (R224); DSCADD's additions, which neither R119
nor R120 lists, are exact in Dusk mode too (log entry 70). -/
def mergeElem (code : Nat) (dusk : Option Nat) (l : List Nat) : Num × Nat :=
  if isInt code then (exactSum (l.map (readNum code)), 0)
  else match l with
    | [] => (.fin false 0 0, 0)
    | x :: r =>
      let s := r.foldl (fun (acc : Rounded) y =>
        let s := addIn (wideCode code) dusk acc.pat (widen code y)
        { s with ev := s.ev ||| acc.ev }) { pat := widen code x, ev := sigEv (l.map fun y => (code, y)) }
      (readNum (wideCode code) s.pat, s.ev)

/-- DSCADD (R224). -/
def Mach.scatterAddRows (m : Mach) (j : Job) (c : Cont) : JobM Landed := do
  let k : Card := j.card
  let z := elemBytes k.ecode
  let idx ← m.jobIndices j c
  let m := (m.jobSaw j c k.sspace k.ilist (4 * k.icount)).jobSawAll j c k.sspace k.rbytes
    ((List.range k.icount).map fun (x : Nat) => (k.src : Int) + x * k.sstride)
  let rows ← gatherJ (fun (x : Nat) => m.jobReadMarked j c k.sspace ((k.src : Int) + x * k.sstride) k.rbytes) (List.range k.icount)
  let adds := (idx.eraseDups.map fun d =>
    let mine := (idx.zip rows).filterMap fun p => if p.1 = d then some p.2 else none
    (List.range (k.rbytes / z)).map fun e =>
      let vals := mine.map fun r => leAt (r.map Prod.fst) (e * z) z
      let mark := mine.any fun r => ((r.drop (e * z)).take z).any Prod.snd
      (((k.dst : Int) + d * k.dstride + e * z), mergeElem k.ecode none vals, mark)).flatten
  let out ← eachJ (fun (m : Mach) (x : Int × (Num × Nat) × Bool) => do
    m.jobMay j c k.dspace x.1 z
    pure m) m adds
  let res ← adds.foldlM (fun (a : Mach × Nat) (x : Int × (Num × Nat) × Bool) => do
    let upd := fun (old : Nat) =>
      let s := (readNum k.ecode old).add x.2.1.1
      let r := roundTo k.ecode false s.1
      ({ r with ev := r.ev ||| s.2 ||| x.2.1.2 ||| sigEv [(k.ecode, old)] } : Rounded)
    if k.dspace then do
      let ps ← a.1.jobParts j x.1 z .write
      let m0 := a.1.homePrep j.die ps false j.past
      let r := upd (leNat (m0.homeRead ps))
      pure (m0.homeWrite j.die ps (leBytes z r.pat) (x.2.2 || m0.homeMarked ps), a.2 ||| r.ev)
    else do
      let t ← a.1.jobSpad c x.1 z
      let m0 : Mach := { a.1 with mem := a.1.mem.catchUp t.1.die j.past }
      let r := upd (leNat (m0.winRead t.1 t.2 z))
      pure (m0.winWrite t.1 t.2 (leBytes z r.pat) (x.2.2 || (m0.winMark t.1 t.2 z).isSome), a.2 ||| r.ev)) (out, 0)
  pure { m := res.1, ev := res.2 }

/-! ### Collectives (R117, R225) -/

/-- A continuation's logical rank (R225). -/
def Mach.logicalRank (m : Mach) (c : Cont) : Nat :=
  match m.task? c.task with
  | some t => c.team.toNat * t.size + c.rank.toNat
  | none => 0

/-- The jobs of a collective in flight: those of the grid with its id. -/
def Mach.collective (m : Mach) (j : Job) : List (Job × Cont) :=
  (m.jobs.filter fun x => x.task == j.task && (x.op == opDred || x.op == opDbcast || x.op == opDallg) && x.st ≠ .landed &&
    bits x.card.kspec 15 0 == bits j.card.kspec 15 0).filterMap fun x => (m.cont? x.cont).map fun c => (x, c)

/-- One element of a reduction over ranks: the tree over logical rank, or the extreme (R117, R225). -/
def reduceElem (code op : Nat) (dusk : Option Nat) (l : List Nat) : Rounded :=
  let sig := sigEv (l.map fun x => (code, x))
  if op = 0 then
    if isInt code then roundTo code false (exactSum (l.map (readNum code)))
    else
      let s := treeSum (wideCode code) dusk (l.map (widen code))
      let r := roundTo code false (readNum (wideCode code) s.pat)
      { r with ev := r.ev ||| s.ev ||| sig }
  else
    let v := match l.map (readNum code) with
      | [] => .nan
      | x :: r => r.foldl (fun a b => a.pick (op == 1) b) x
    let r := roundTo code false v
    { r with ev := r.ev ||| sig }

/-- A collective acts once every rank's job has started: contributions are read, results written, every participant's
signals made (R225). -/
def Mach.runCollective (m : Mach) (j : Job) : JobM Mach := do
  let all := m.collective j
  let k : Card := j.card
  let n := bits k.kspec 39 16
  let same := fun (x : Job) => x.op == j.op && x.card.kspec == k.kspec && x.card.kflags == k.kflags && x.card.ecode == k.ecode &&
    x.card.rbytes == k.rbytes
  failJIf (all.any fun p => !(same p.1) || decide (n ≤ m.logicalRank p.2)) 0x4002
  if all.length < n ∨ all.any fun p => p.1.st ≠ .started then .error .wait
  else do
    let order ← gatherJ (fun r => match all.find? fun p => m.logicalRank p.2 == r with
      | some p => pure p
      | none => .error .wait) (List.range n)
    let m := order.foldl (fun (m : Mach) q => order.foldl (fun (m : Mach) p => m.jobSaw q.1 p.2 false p.1.card.src k.rbytes) m) m
    let parts ← gatherJ (fun (p : Job × Cont) => m.jobReadMarked p.1 p.2 false p.1.card.src k.rbytes) order
    let root := bits k.kspec 63 40
    let put := fun (m : Mach) (p : Job × Cont) (off : Nat) (l : List (Byte × Bool)) =>
      m.jobWriteMarked p.1 p.2 p.1.card.dspace ((p.1.card.dst : Int) + off) l
    let z := elemBytes k.ecode
    let first := m.freeCount
    let dusk := fun (e : Nat) => if order.any fun p => fmtDusk p.1.fmt then some ((first + e) * 2 ^ 32) else none
    let m := { m with freeCount := m.freeCount + k.rbytes / z }
    let red := (List.range (k.rbytes / z)).map fun e =>
      let r := reduceElem k.ecode (bits k.kflags 1 0) (dusk e) (parts.map fun b => leAt (b.map Prod.fst) (e * z) z)
      (r, parts.any fun b => ((b.drop (e * z)).take z).any Prod.snd)
    let redBytes := (red.map fun r => (leBytes z r.1.pat).map fun b => (b, r.2)).flatten
    let m ← (if j.op = opDred then
        eachJ (fun m (p : Job × Cont) => put m p 0 redBytes)
          m (if bit k.kflags 2 then order else order.filter fun p => m.logicalRank p.2 == root)
      else if j.op = opDbcast then eachJ (fun m (p : Job × Cont) => put m p 0 (parts.getD root [])) m order
      else eachJ (fun m (p : Job × Cont) => eachJ (fun m (b : List (Byte × Bool) × Nat) => put m p (b.2 * k.rbytes) b.1) m parts.zipIdx) m order)
    let ev := if j.op = opDred then red.foldl (fun e r => e ||| r.1.ev) 0 else 0
    eachJ (fun m (p : Job × Cont) => m.jobSignals p.1 0 ev) m order

/-! ### Embedding bags (R117, R226) -/

/-- One pooled element: a running value over a chip's rows, or over the chips' partials. -/
def poolAdd (pool : Nat) (dusk : Option Nat) (x y : Nat) : Rounded :=
  if pool = 3 then { roundTo 0 false ((readNum 0 x).pick true (readNum 0 y)) with ev := sigEv [(0, x), (0, y)] }
  else addIn 0 dusk x y

/-- Folds FP32 patterns in order: the first stands as it is. `dusk`: the free count of the first addition. -/
def poolGo (pool : Nat) (dusk : Option Nat) (l : List Rounded) : Rounded :=
  match l with
  | [] => { pat := 0, ev := 0 }
  | x :: r => r.zipIdx.foldl (fun (a : Rounded) y =>
      let s := poolAdd pool (dusk.map (· + y.2)) a.pat y.1.pat
      { s with ev := s.ev ||| a.ev ||| y.1.ev }) x

/-- One element of a bag's result from its rows: chip, value, weight (R117, R226). The additions take Dusk mode's bound, each its
own; the weighted products and the mean's division, which have no row in R120's table, are rounded exactly (log entry 70). -/
def bagElem (pool code ecode : Nat) (dusk : Option Nat) (rows : List (Nat × Nat × Nat)) : Rounded :=
  if rows.isEmpty then { pat := 0, ev := 0 }
  else
    let val := fun (r : Nat × Nat × Nat) =>
      let w := widen code r.2.1
      let s := sigEv [(code, r.2.1)]
      if pool = 1 then
        let p := (readNum 0 w).mul (readNum 0 r.2.2)
        let o := roundTo 0 false p.1
        ({ o with ev := o.ev ||| p.2 ||| s ||| sigEv [(0, r.2.2)] } : Rounded)
      else { pat := w, ev := s }
    let groups := (List.range 16).filterMap fun ch =>
      let mine := (rows.filter fun r => r.1 = ch).map val
      if mine.isEmpty then none else some mine
    let chips := groups.zipIdx.map fun g => poolGo pool (dusk.map (· + ((groups.take g.2).map List.length).sum)) g.1
    let t := poolGo pool (dusk.map (· + rows.length)) chips
    let q := if pool = 2 then
        let d := (readNum 0 t.pat).div (.fin false rows.length 0)
        let o := roundTo 0 false d.1 d.2.1
        { o with ev := o.ev ||| d.2.2 ||| t.ev }
      else t
    let o := roundTo ecode false (readNum 0 q.pat)
    { o with ev := o.ev ||| q.ev }

/-- DEMBAG (R226). -/
def Mach.embedBags (m : Mach) (j : Job) (c : Cont) : JobM Landed := do
  let k : Card := j.card
  let pool := bits k.kflags 1 0
  let code := bits k.kflags 5 4
  let z := elemBytes code
  let ob ← (if c.inWindow (bits k.kspec 22 0) (4 * (k.rows + 1)) then pure (m.winRead c (bits k.kspec 22 0) (4 * (k.rows + 1)))
    else failJ 0x2002 (toW (bits k.kspec 22 0)))
  let offs := numbers 4 (k.rows + 1) ob
  failJIf ((List.range k.rows).any (fun b => decide (offs.getD (b + 1) 0 < offs.getD b 0)) || decide (k.icount < offs.getD k.rows 0)) 0x4001
  let idx ← m.jobIndices j c
  let ws ← (if pool = 1 then
      (if c.inWindow (bits k.kspec 54 32) (4 * k.icount) then pure (numbers 4 k.icount (m.winRead c (bits k.kspec 54 32) (4 * k.icount)))
       else failJ 0x2002 (toW (bits k.kspec 54 32)))
    else pure [])
  let bags ← gatherJ (fun b => gatherJ (fun i => do
      let a := (k.src : Int) + (idx.getD i 0) * k.sstride
      let ps ← (if k.sspace then m.jobParts j a k.rbytes .read else failJ 0x3004 (ofI a))
      let pa := (ps.headD (0, 0)).1
      failJIf (!(inCap pa) || decide (pa / 4096 ≠ (pa + k.rbytes - 1) / 4096)) 0x3004
      pure (chipOf pa, m.mem.readParts j.die ps, ws.getD i 0, (m.mem.markParts j.die ps).isSome))
        (rangeFrom (offs.getD b 0) (offs.getD (b + 1) 0 - offs.getD b 0))) (List.range k.rows)
  let first := m.freeCount
  let per := k.rbytes / z
  let dusk := fun (b e : Nat) => if fmtDusk j.fmt then some ((first + b * per + e) * 2 ^ 32) else none
  let m := { m with freeCount := m.freeCount + k.rows * per }
  let out := bags.zipIdx.map fun rows =>
    ((List.range per).map fun e => bagElem pool code k.ecode (dusk rows.2 e) (rows.1.map fun r => (r.1, leAt r.2.1 (e * z) z, r.2.2.1)),
      rows.1.any fun r => r.2.2.2)
  let m ← eachJ (fun m (b : (List Rounded × Bool) × Nat) => m.jobWriteMarked j c k.dspace ((k.dst : Int) + b.2 * k.dstride)
    ((b.1.1.map fun r => (leBytes (elemBytes k.ecode) r.pat).map fun x => (x, b.1.2)).flatten)) m out.zipIdx
  pure { m := m, rows := k.rows, ev := out.foldl (fun e b => b.1.foldl (fun e r => e ||| r.ev) e) 0 }

/-! ### Staging (R78, R79, R227) -/

/-- The buffer a starting DSTAGE job takes, once it may (R79). -/
def stageChoice (d : Die) : Option Bool :=
  let s0 := d.bufState false
  let s1 := d.bufState true
  if s0 = 2 ∨ s1 = 2 then
    let ready := if s0 = 2 ∧ s1 = 2 then d.newest else decide (s1 = 2)
    if d.bufState (!ready) = 1 then none else some (!ready)
  else if s0 = 0 then some false
  else if s1 = 0 then some true
  else none

/-- A DSTAGE job takes its buffer, which becomes filling (R79). -/
def Mach.selectBuffer (m : Mach) (n : Nat) : Mach :=
  match m.job? n with
  | none => m
  | some j =>
    if j.op ≠ opDstage ∨ j.st ≠ .started ∨ j.buf.isSome then m
    else match stageChoice (m.die j.die) with
      | none => m
      | some b => (m.setJob { j with buf := some b }).setDie j.die ((m.die j.die).setBuf b 1 ((m.die j.die).bufLayer b))

/-- Die `d` applies every write in flight that reaches a physical range (R79). -/
def Mem.settleRange (m : Mem) (d : Nat) (ps : List (Nat × Nat)) : Mem :=
  (m.flight.filter fun w => w.todo.contains d && ps.any fun p => overlaps p.1 p.2 w.pa w.bytes.length).foldl
    (fun m w => m.catchUp d w.stamp) m

/-- DSTAGE: every named block in entry order from offset 4 KiB, then the slot map (R227). A write to a block that is still on
its way to the staging die is copied with the block (R79). -/
def Mach.stageLayer (m : Mach) (j : Job) (c : Cont) (b : Bool) : JobM Landed := do
  let k : Card := j.card
  let layer := bits k.kspec 7 0
  let raw ← m.jobRead j c k.sspace k.ilist (8 * k.icount)
  let entries := numbers 8 k.icount raw.1
  let d := m.die j.die
  let plans ← gatherJ (fun w => if m.slotHeld j.die (bits w 7 0) then .error .wait else match m.slotArena? j.die (bits w 7 0) with
    | none => .error (.trap (m.slotFault j.die (bits w 7 0)))
    | some (e, a) => do
      let n := bits w 31 8
      failJIf (!(layerHeld e a layer) || decide (bits w 63 32 ≠ 0 ∨ n = 0 ∨ a.positions / 16 < n)) 0x2003
      m.arenaOwn j e
      pure (bits w 7 0, a, n)) entries
  let offs := plans.foldl (fun (l : List Nat) p => l ++ [l.getLastD 4096 + p.2.2 * p.2.1.stride]) [4096]
  failJIf (decide (d.bufBytes b < offs.getLastD 4096)) 0x2003
  let m ← eachJ (fun (m : Mach) (p : Nat × Arena × Nat) => do
    let ps ← m.jobParts j (p.2.1.block layer 0).toNat (p.2.2 * p.2.1.stride) .read
    pure { m with mem := m.mem.settleRange j.die ps }) m plans
  let datas ← gatherJ (fun (p : Nat × Arena × Nat) => m.jobReadMarked j c true (p.2.1.block layer 0).toNat (p.2.2 * p.2.1.stride)) plans
  let m := (datas.zip offs).foldl (fun (m : Mach) x =>
    (granules (x.1.length / 64 + 2) 0 x.1).foldl (fun (m : Mach) (g : Int × List (Byte × Bool)) =>
      let at' := [(d.bufBase b + x.2 + g.1.toNat, g.2.length)]
      { m with mem := m.mem.landParts j.die at' (g.2.map Prod.fst) (g.2.any Prod.snd) }) m) m
  let map := (List.range 256).map fun s =>
    match (plans.zip offs).reverse.find? fun p => p.1.1 = s with
    | some p => leBytes 8 p.2 ++ leBytes 4 p.1.2.2 ++ leBytes 4 0
    | none => leBytes 16 0
  pure { m := { m with mem := m.mem.landParts j.die [(d.bufBase b, 4096)] map.flatten false } }

/-- The buffer of a DSTAGE job that has completed, or failed (R79, R408). -/
def Mach.stageDone (m : Mach) (j : Job) (b ok : Bool) : Mach :=
  let d := m.die j.die
  if ok then
    let d := d.setBuf b 2 (bits j.card.kspec 7 0)
    m.setDie j.die { d with stgst := toW (putBits d.stgst.toNat 32 32 b.toNat) }
  else m.setDie j.die (d.setBuf b 0 (d.bufLayer b))

/-! ### Compaction (R48, R49, R228) -/

/-- Whether a row takes part in a pass (R47). -/
def takesPart (t : Nat) (recursion : Bool) : Bool := bit t 14 && bits t 1 0 == (if recursion then 3 else 0)

/-- PACK (R48, R228). -/
def Mach.packRows (m : Mach) (j : Job) (c : Cont) : JobM Landed := do
  let k : Card := j.card
  let toff := bits k.kspec 22 0
  let ts ← (if !(c.inWindow toff (8 * k.rows)) then failJ 0x2002 (toW toff)
    else match m.winMark c toff (8 * k.rows) with
      | some g => failJ 0x3006 (toW toff) (toW g)
      | none => pure (numbers 8 k.rows (m.winRead c toff (8 * k.rows))))
  let sel := (List.range k.rows).filter fun x => takesPart (ts.getD x 0) (bit k.kspec 32)
  let rows ← gatherJ (fun (x : Nat) => m.jobReadMarked j c false ((k.src : Int) + x * k.sstride) k.rbytes) sel
  let m ← eachJ (fun m (r : List (Byte × Bool) × Nat) => m.jobWriteMarked j c false ((k.dst : Int) + r.2 * k.dstride) r.1) m rows.zipIdx
  let rec' : BitVec 512 := BitVec.ofNat 512 (leNat ((sel.map fun x => BitVec.ofNat 8 x) ++ List.replicate (64 - sel.length) 0xFF))
  match m.cont? c.id with
  | none => pure { m := m }
  | some c => pure {
      m := m.setCont { c with mx := { c.mx with perm := SMap.set 0 c.mx.perm (bits k.kspec 31 24) rec', lrc := BitVec.ofNat 7 sel.length } }
      rows := sel.length }

/-- UNPACK (R49, R228). -/
def Mach.unpackRows (m : Mach) (j : Job) (c : Cont) : JobM Landed := do
  let k : Card := j.card
  let n := bits k.kspec 31 24
  let r := SMap.get 0 c.mx.perm n
  let tgt := (List.range 64).filterMap fun x =>
    let v := bits r.toNat (8 * x + 7) (8 * x)
    if v = 0xFF then none else some (x, v)
  failJIf ((tgt.any fun p => decide (64 ≤ p.2)) || decide ((tgt.map Prod.snd).eraseDups.length ≠ tgt.length)) 0x200F (toW n)
  let rows ← gatherJ (fun (p : Nat × Nat) => do
    let b ← m.jobReadMarked j c false ((k.src : Int) + p.1 * k.sstride) k.rbytes
    pure ((k.dst : Int) + p.2 * k.dstride, b)) tgt
  let m ← eachJ (fun m (r : Int × List (Byte × Bool)) => m.jobWriteMarked j c false r.1 r.2) m rows
  pure { m := m }

/-! ### The index engine (R237 to R239) -/

/-- Row pointers of a card, `n + 1` from row `r0`, none below the one before (R237). -/
def Mach.rowPointers (m : Mach) (j : Job) (c : Cont) (r0 n : Nat) : JobM (List Nat) := do
  let b ← m.jobRead j c j.card.sspace ((j.card.src : Int) + 4 * r0) (4 * (n + 1))
  let ps := numbers 4 (n + 1) b.1
  failJIf ((List.range n).any fun i => decide (ps.getD (i + 1) 0 < ps.getD i 0)) 0x4001
  pure ps

/-- IXWALK (R237). -/
def Mach.indexWalk (m : Mach) (j : Job) (c : Cont) : JobM Landed := do
  let k : Card := j.card
  let r0 := k.kspec
  let ps ← m.rowPointers j c r0 k.rows
  failJIf (ps.any fun p => decide (k.icount < p)) 0x4001
  let e0 := ps.getD 0 0
  let cb ← m.jobRead j c k.sspace ((k.ilist : Int) + 4 * e0) (4 * (ps.getD k.rows 0 - e0))
  let cols := numbers 4 (ps.getD k.rows 0 - e0) cb.1
  failJIf (cols.any fun x => decide (16777215 < x)) 0x4001
  let entries := ((List.range k.rows).map fun q =>
    (rangeFrom (ps.getD q 0) (ps.getD (q + 1) 0 - ps.getD q 0)).map fun e => (r0 + q) % 2 ^ 32 + cols.getD (e - e0) 0 * 2 ^ 32).flatten
  let body := leBytes 8 entries.length ++ (entries.map fun x => leBytes 8 x).flatten ++
    (if k.kflags = 1 then (ps.map fun p => leBytes 4 (p - e0)).flatten else [])
  let m ← m.jobWrite j c false k.dst body false
  pure { m := m, rows := k.rows }

/-- IXSECT: both lists strictly ascending (R238). -/
def Mach.indexIntersect (m : Mach) (j : Job) (c : Cont) : JobM Landed := do
  let k : Card := j.card
  let ab ← m.jobRead j c k.sspace k.src (4 * k.rows)
  let bb ← m.jobRead j c k.sspace k.ilist (4 * k.icount)
  let a := numbers 4 k.rows ab.1
  let b := numbers 4 k.icount bb.1
  let rising := fun (l : List Nat) => (l.zip (l.drop 1)).all fun p => decide (p.1 < p.2)
  failJIf (!(rising a) || !(rising b)) 0x4001
  let hits := a.zipIdx.filterMap fun p => (b.findIdx? fun y => y == p.1).map fun ib => p.2 + ib * 2 ^ 32
  let m ← m.jobWrite j c false k.dst (leBytes 8 hits.length ++ (hits.map fun x => leBytes 8 x).flatten) false
  pure { m := m, rows := k.rows }

/-- Whether a row belongs to a part of the nonzeros from `a` to `b - 1`: it holds one of them; or it is empty and the first
nonzero after it is one of them, or, where none follows, the last of all; without a nonzero every row belongs to part 0
(R239). -/
def rowInPart (ps : List Nat) (rows q a b r : Nat) : Bool :=
  let n0 := ps.getD 0 0
  let total := ps.getD rows 0 - n0
  let lo := ps.getD r 0
  let hi := ps.getD (r + 1) 0
  if total = 0 then decide (q = 0)
  else if lo < hi then decide (max lo a < min hi b)
  else decide (a ≤ min lo (n0 + total - 1) ∧ min lo (n0 + total - 1) < b)

/-- IXPART (R239). -/
def Mach.indexPart (m : Mach) (j : Job) (c : Cont) : JobM Landed := do
  let k : Card := j.card
  let parts := k.kspec
  let ps ← m.rowPointers j c 0 k.rows
  let n0 := ps.getD 0 0
  let total := ps.getD k.rows 0 - n0
  let entry := fun (q : Nat) =>
    let a := n0 + q * total / parts
    let b := n0 + (q + 1) * total / parts
    let mine := (List.range k.rows).filter fun r => rowInPart ps k.rows q a b r
    leBytes 4 a ++ leBytes 4 b ++ leBytes 4 (mine.headD k.rows) ++ leBytes 4 mine.length
  let m ← m.jobWrite j c false k.dst ((List.range parts).map entry).flatten false
  pure { m := m, rows := k.rows }

/-! ### One job -/

/-- The payload of a job of the copy engine or the index engine that needs no other agent's answer. -/
def Mach.jobPayload (m : Mach) (j : Job) (c : Cont) : JobM Landed :=
  if j.op = opDcopy ∧ j.card.kflags = 1 ∧ !j.card.dport then m.kvWrite j c
  else if j.op ≤ opDscat then m.moveRows j c
  else if j.op = opDscadd then m.scatterAddRows j c
  else if j.op = opDembag then m.embedBags j c
  else if j.op = opDstage then (match j.buf with
    | none => .error .wait
    | some b => m.stageLayer j c b)
  else if j.op = opPack then m.packRows j c
  else if j.op = opUnpack then m.unpackRows j c
  else if j.op = opIxwalk then m.indexWalk j c
  else if j.op = opIxsect then m.indexIntersect j c
  else if j.op = opIxpart then m.indexPart j c
  else .error .wait

/-- A copy or index job lands and makes its signals; a fault ends its task (R81, R219). -/
def Mach.finishJob (m : Mach) (j : Job) (c : Cont) : Mach :=
  let out : JobM Mach :=
    if j.op = opDred ∨ j.op = opDbcast ∨ j.op = opDallg then m.runCollective j
    else do
      let l ← m.jobPayload j c
      let m ← l.m.jobSignals j l.rows l.ev
      pure (match j.op == opDstage, j.buf with
        | true, some b => m.stageDone j b true
        | _, _ => m)
  match out with
  | .ok m => m
  | .error (.trap t) =>
    let m := match j.op == opDstage, j.buf with
      | true, some b => m.stageDone j b false
      | _, _ => m
    m.jobFails j t
  | .error _ => m

end Sys2Proof.Machine
end

