-- ==== Sys2Proof/Machine/Cond.lean ====
section
/-! DEFINITION. Exit notices and their states (R51 to R54, R230, R398, R399), attention reads and lazy fills (R56 to R58,
R401, R431), the jobs that ask for them (R230, R231). -/

namespace Sys2Proof.Machine

/-! ### Sending notices (R230) -/

/-- Whether a notice of a list is one EXN sends (R230). -/
def noticeOk (w : Nat) : Bool := decide (bits w 57 56 < 2 ∧ bits w 63 58 = 0 ∧ bits w 7 1 = 0)

/-- Whether an earlier EXN job of the continuation has still to send (R52: in issue order). -/
def Mach.exnUnsent (m : Mach) (j : Job) : Bool :=
  m.jobs.any fun x => x.cont == j.cont && x.op == opExn && decide (x.id < j.id) && !x.sent

/-- Whether a payload of a job must wait for a notice of an earlier EXN job to a receiver of this module (R53). -/
def Mach.exnBefore (m : Mach) (j : Job) : Bool :=
  m.jobs.any fun x => x.cont == j.cont && x.op == opExn && decide (x.id < j.id) && bits x.card.kspec 7 0 == m.modIndex &&
    (!x.sent || m.notices.any fun n => n.job == some x.id)

/-- A notice to another module goes on the Crimson lane, the state behind it on the lane of payloads (R230, R301). -/
def Mach.sendNotice (m : Mach) (job tgt die : Nat) (word : Word) (st : Option (List Byte) × Bool) : Mach :=
  let m := m.sendTo 0 tgt (.notice die word) (some job)
  match st.1 with
  | some b => m.sendTo 2 tgt (.state die word b st.2) (some job)
  | none => m

/-- EXN's first part: every notice checked, then all sent in list order, each with its state behind it (R230). -/
def Mach.sendNotices (m : Mach) (j : Job) (c : Cont) : JobM Mach := do
  let k : Card := j.card
  let b ← m.jobRead j c false k.ilist (8 * k.icount)
  let words := numbers 8 k.icount b.1
  let tgt := bits k.kspec 7 0
  let die := bits k.kspec 13 8
  failJIf ((words.any fun w => !(noticeOk w)) || decide (m.podSize ≤ tgt)) 0x2004
  failJIf (decide (tgt ≠ m.modIndex) && (m.portTo tgt).isNone) 0x6002
  let st := k.kflags == 1
  let states ← gatherJ (fun (x : Nat) => if st then do
      let s ← m.jobReadMarked j c false ((k.src : Int) + x * k.sstride) k.rbytes
      pure (some (s.map Prod.fst), s.any Prod.snd)
    else pure (none, false)) (List.range k.icount)
  let full := fun (w : Nat) => toW (putBits (putBits w 15 8 m.modIndex) 0 0 st.toNat)
  let sent := { j with sent := true, left := k.icount * (if st then 2 else 1) }
  let m := m.setJob sent
  pure (if tgt = m.modIndex then
      { m with notices := m.notices ++ (words.zip states).map fun p =>
          { die := die, word := full p.1, job := some j.id, state := p.2.1, poison := p.2.2 } }
    else (words.zip states).foldl (fun (m : Mach) p => m.sendNotice j.id tgt die (full p.1) p.2) m)

/-- One part of an EXN job has been processed. -/
def Mach.exnCount (m : Mach) (job : Option Nat) : Mach :=
  match job.bind m.job? with
  | some j => m.setJob { j with left := j.left - 1 }
  | none => m

/-- One part of an EXN job to another module has been dealt with there (R230). -/
def Mach.remoteDone (m : Mach) (n : Nat) : Mach :=
  match m.job? n with
  | none => m
  | some j => if j.op = opExn ∧ j.sent ∧ bits j.card.kspec 7 0 ≠ m.modIndex then m.exnCount (some n) else m

/-- A notice or its state has been dealt with: the job counts it, or the module that sent it hears of it (R230). -/
def Mach.partDone (m : Mach) (job : Option Nat) (word : Word) : Mach :=
  match job with
  | some _ => m.exnCount job
  | none => m.sendTo 1 (bits word.toNat 15 8) (.noticeDone word)

/-- A receiver refuses: the EXN job of this module hears of it, or the sending module does (R398). -/
def Mach.refuseNotice (m : Mach) (job : Option Nat) (word : Word) : Mach :=
  match job with
  | some n => match m.job? n with
    | some j => m.setJob { j with refused := true }
    | none => m
  | none => m.sendTo 1 (bits word.toNat 15 8) (.refusal word)

/-- A refused EXN job ends its task (R398). -/
def Mach.exnRefused (m : Mach) (n : Nat) : Mach :=
  match m.job? n with
  | none => m
  | some j => if j.op = opExn ∧ j.sent ∧ (j.refused ∨ bits j.card.kspec 7 0 ≠ m.modIndex) then m.jobFails j { cause := 0x4005 } else m

/-! ### Receiving notices (R52) -/

/-- A TCW after an exit notice of a block (R52). -/
def exitTcw (t blk : Nat) : Nat := putBits (putBits (putBits (putBits t 1 0 2) 14 14 0) 15 15 1) 13 6 blk

/-- Steps 1 and 2 for one registration (R52, R399). -/
def Mach.matchRx (m : Mach) (r : RxReg) (word : Nat) : Mach :=
  let w := r.word.toNat
  if !(bit w 63) then m
  else match m.member? r.task r.team r.rank with
    | none => m
    | some c => (List.range (bits w 29 23)).foldl (fun m i => match m.cont? c.id with
      | none => m
      | some c =>
        let t := leNat (m.winRead c (bits w 22 0 + 8 * i) 8)
        if bit t 14 && bits t 23 16 == bits word 47 40 && bits t 47 24 == bits word 39 16 && bits word 57 56 == 0 then
          let m := m.winWrite c (bits w 22 0 + 8 * i) (leBytes 8 (exitTcw t (bits word 55 48))) false
          match m.cont? c.id with
          | some c => m.winWrite c (bits w 52 30) (leBytes 8 (leNat (m.winRead c (bits w 52 30) 8) - 1)) false
          | none => m
        else m) m

/-- Whether a fill-source record is free (R54). -/
def Mach.recordFree (m : Mach) (e : SlotEntry) (x : Nat) : Bool :=
  leNat (m.homeRead [(e.recordPa x + 16, 2)]) == 0 && !(bit (leNat (m.homeRead [(e.recordPa x, 1)])) 1)

/-- The layers at which a notice leaves a gap on this module (R51, R54). -/
def gapLayers (e : SlotEntry) (a : Arena) (word : Nat) : List Nat :=
  (List.range 256).filter fun l => layerHeld e a l &&
    (if bits word 57 56 = 0 then decide (bits word 55 48 < l) else decide (l = bits word 55 48 + 1))

/-- The log entry of a receiver's refusal (R398). -/
def Mach.logNotice (m : Mach) (die : Nat) (word : Nat) (info : Word) : Mach :=
  m.logError { cause := 0x4005, faddr := toW (bits word 47 40 * 2 ^ 24 + bits word 39 16), info := info } { die := die }

/-- Writes a header in the arena and in every staged copy (R79). -/
def Mach.putHeader (m : Mach) (die : Nat) (ps : List (Nat × Nat)) (a : Arena) (slot l p : Nat) (h : List Byte) (rel : Bool) : Mach :=
  let m := (m.homePrep die ps rel).homeWrite die ps h false
  m.writeStaged die slot l (p / 16) a.stride 0 h false

/-- Step 4 for one layer: whether the header could be read and written (R52, R398). -/
def Mach.linkLayer (m : Mach) (die : Nat) (e : SlotEntry) (a : Arena) (slot x l p : Nat) : Mach × Bool :=
  if a.positions ≤ p then (m, false)
  else match m.headerParts die e a l p with
    | none => (m, false)
    | some ps =>
      let m := m.homePrep die ps false
      let h := m.homeRead ps
      if bit (leAt h 0 2) (p % 16) || fsrcOf h (p % 16) ≠ 0xFFFF then (m, true)
      else
        let i := p % 16
        let m := m.putHeader die ps a slot l p (leBytes 64 (putBits (leNat h) (96 + 16 * i + 15) (96 + 16 * i) x)) false
        (m.recordCount die e x fun n => n + 1, true)

/-- One notice at a receiver (R52, R398). -/
def Mach.receiveNotice (m : Mach) (n : Notice) : Mach :=
  let w := n.word.toNat
  let slot := bits w 47 40
  let m := (m.die n.die).rx.toList.foldl (fun m r => m.matchRx r w) m
  let m := m.partDone n.job n.word
  let refuse := fun (m : Mach) => m.refuseNotice n.job n.word
  match m.slotArena? n.die slot with
  | none => refuse (m.logNotice n.die w 0)
  | some (e, a) => match (List.range e.recs).find? fun x => m.recordFree e x with
    | none => refuse (m.logNotice n.die w 0)
    | some x =>
      let ps := [(e.recordPa x, 18)]
      let hdr := leBytes 8 (2 * (bit w 0).toNat) ++ leBytes 8 (bits w 57 16 * 2 ^ 16) ++ leBytes 2 0
      let m := (m.homePrep n.die ps false).homeWrite n.die ps hdr false
      let r := (gapLayers e a w).foldl (fun (acc : Mach × Bool) l =>
        let s := acc.1.linkLayer n.die e a slot x l (bits w 39 16)
        if s.2 then (s.1, acc.2)
        else (s.1.logNotice n.die w (a.block l (bits w 39 16)), false)) (m, true)
      let m := if r.2 then r.1 else refuse r.1
      if bit w 0 then
        { m with exitStates := m.exitStates ++ [{ word := n.word, die := n.die, slot := slot, recIdx := some x, bytes := n.state.getD []
                                                  job := n.job, poison := n.poison }] }
      else m

/-- Whether a draining range holds back a notice: the arena descriptor, or a header of a gap layer (R52, R73). -/
def Mach.noticeHeld (m : Mach) (n : Notice) : Bool :=
  let w := n.word.toNat
  let slot := bits w 47 40
  m.slotHeld n.die slot || match m.slotArena? n.die slot with
    | none => false
    | some (e, a) => (gapLayers e a w).any fun l => m.ctxHeld n.die e.ctx (a.block l (bits w 39 16)) 64

/-- The next notice at a die's receiver: one of this module's, or one that arrives over a pod link (R52). One that a draining
range holds back stays; one that comes from another module then stands behind those of this one. -/
def Mach.noticeAt (m : Mach) (die : Nat) (ext : Option Word) : Mach :=
  match ext with
  | some w =>
    let n : Notice := { die := die, word := w, job := none, state := none }
    if !(noticeOk (putBits w.toNat 15 0 0)) then m
    else if m.noticeHeld n then { m with notices := m.notices ++ [n] }
    else m.receiveNotice n
  | none => match m.notices.find? fun n => n.die == die with
    | none => m
    | some n => if m.noticeHeld n then m else { m with notices := m.notices.erase n }.receiveNotice n

/-- A state lands in its record, which is then marked arrived (R54, R81, R230). -/
def Mach.landState (m : Mach) (s : ExitState) (e : SlotEntry) (x : Nat) (bytes : List Byte) : Mach :=
  let m := { m with mem := m.mem.landParts s.die [(e.recordPa x + 64, bytes.length)] bytes s.poison }
  let ps := [(e.recordPa x, 8)]
  ((m.homePrep s.die ps true).homeWrite s.die ps (leBytes 8 1) false).partDone s.job s.word

/-- The next state to arrive at a die: one a job of this module sent, or one over a pod link, which lands in the record of the
notice it followed; the state of a refused notice is discarded (R54, R230, R398). -/
def Mach.stateAt (m : Mach) (die : Nat) (ext : Option (Word × List Byte × Bool)) : Mach :=
  match m.exitStates.find? fun s => s.die == die && (match ext with
    | some x => s.job.isNone && s.word == x.1
    | none => s.job.isSome) with
  | none => m
  | some s =>
    let m := { m with exitStates := m.exitStates.erase s }
    let s := match ext with
      | some x => { s with bytes := x.2.1, poison := x.2.2 }
      | none => s
    let bytes := s.bytes
    match s.recIdx, m.slotEntry? die s.slot with
    | some x, some e =>
      if bytes.length = e.hidden * e.elem then m.landState s e x bytes
      else m.refuseNotice s.job s.word
    | _, _ => m

/-! ### Attention reads and fills (R56, R57) -/

/-- Where a die reads a block of a slot and layer: a ready staged copy, or the arena (R79). -/
def Mach.blockParts (m : Mach) (die : Nat) (e : SlotEntry) (a : Arena) (slot l p off n : Nat) : Option (List (Nat × Nat)) :=
  match m.stagedOn die slot l (p / 16) a.stride with
  | pa :: _ => some [(pa + off, n)]
  | [] => match m.ctxEntryNow die e.ctx with
    | none => none
    | some x => match m.resolveCtx die e.ctx x (a.block l p + toW off) n .read with
      | .ok ps => some ps
      | _ => none

/-- The header a reader of a position sees; what it observes it acquires (R57, R79). -/
def Mach.readHeader? (m : Mach) (die : Nat) (e : SlotEntry) (a : Arena) (slot l p : Nat) : Option (Mach × List Byte) :=
  match m.blockParts die e a slot l p 0 64 with
  | none => none
  | some ps =>
    let m := (m.homePrep die ps false).homeAcquire die ps
    some (m, m.homeRead ps)

/-- Whether K and V of every position of a range are present, as a die reads them (R57). -/
def Mach.present (m : Mach) (die : Nat) (e : SlotEntry) (a : Arena) (slot l first count : Nat) : Option Mach :=
  (rangeFrom first count).foldl (fun (o : Option Mach) p => match o with
    | none => none
    | some m => match m.readHeader? die e a slot l p with
      | none => none
      | some (m, h) => if bit (leAt h 0 2) (p % 16) then some m else none) (some m)

/-- The die of a reader (R57). -/
def Mach.readerDie (m : Mach) : Reader → Nat
  | .job n => ((m.job? n).map Job.die).getD 0
  | .seq k => k / 4

/-- Whether a read waits on a position. -/
def AttRead.waitsOn (r : AttRead) (slot l p : Nat) : Bool :=
  r.slot == slot && r.layer == l && decide (r.first ≤ p ∧ p < r.first + r.count)

/-- A request enters, once (R57). -/
def Mach.request (m : Mach) (r : AttRead) : Mach :=
  if m.reads.any fun x => x.who == r.who && x.slot == r.slot && x.layer == r.layer && x.first == r.first && x.count == r.count then m
  else { m with reads := m.reads ++ [r] }

/-- A layer fill descriptor (R431). -/
structure FillDesc where
  wk : Word
  wv : Word
  gamma : Word
  freq : Word
  eps : Nat
  nf : Nat
  wf : Nat
  kf : Nat
  vf : Nat
  bs : Nat
  half : Bool
  deriving DecidableEq, Repr

/-- The descriptor 64 bytes hold, where they obey its limits; the alignment that the layout states of W_K, W_V, γ and the
frequency table counts among them, and a table that is not itself 64-byte aligned is read as it stands (R431; log entry
69). -/
def fillDesc (a : Arena) (b : List Byte) : Option FillDesc :=
  let d : FillDesc := {
    wk := toW (leAt b 0 8), wv := toW (leAt b 8 8), gamma := toW (leAt b 16 8), freq := toW (leAt b 24 8), eps := leAt b 32 4
    nf := bits (leAt b 36 1) 3 0, wf := bits (leAt b 36 1) 7 4, kf := bits (leAt b 37 1) 3 0, vf := bits (leAt b 37 1) 7 4
    bs := bits (leAt b 38 1) 1 0, half := bit (leAt b 38 1) 4 }
  let drain := fun (c : Nat) => c == 0 || c == 1 || c == 2 || isFp8 c
  let pair := ((d.nf == 1 || d.nf == 2) && (d.wf == 1 || d.wf == 2)) || (isFp8 d.nf && isFp8 d.wf)
  let ok := pair && drain d.kf && drain d.vf && decide (d.bs ≤ 2) && (isFp8 d.wf || d.bs == 2) &&
    decide (a.kb / elemBytes d.kf % 2 = 0 ∧ d.wk.toNat % 64 = 0 ∧ d.wv.toNat % 64 = 0 ∧ d.gamma.toNat % 64 = 0 ∧ d.freq.toNat % 4 = 0 ∧
      bits (leAt b 38 1) 3 2 = 0 ∧ bits (leAt b 38 1) 7 5 = 0 ∧ leAt b 39 25 = 0)
  if ok then some d else none

/-- One output of a projection: the adds of the K-steps, ascending, with the weights' block scales, then the drain by RoundZ
(R108, R114, R207, R214, R431). -/
def projElem (d : FillDesc) (out : Nat) (ns : List Nat) (row scales : List Byte) (row0 scale0 : Nat) : Nat :=
  let zw := elemBytes d.wf
  let kbs := if d.bs = 0 then 32 else 16
  let step := if isFp8 d.wf then 4 else 2
  let av := fun (p : Nat) => readNum d.nf (ns.getD p 0)
  let bv := fun (p : Nat) =>
    let w := readNum d.wf (leAt row (row0 + p * zw) zw)
    if d.bs = 2 then w else (w.mul (scaleVal (scales.getD (scale0 + p / kbs) 0).toNat)).1
  let acc := elemGo false none step av bv (ns.length / step) 0 { pat := 0, ev := 0 }
  (drainElem false out acc.pat).pat

/-- A projection by a weight matrix of `n` rows (R431); `none` where the matrix cannot be read. -/
def Mach.project (m : Mach) (die : Nat) (ctx : BitVec 12) (d : FillDesc) (wm : Word) (out n : Nat) (ns : List Nat) : Option (List Nat) :=
  let h := ns.length
  let zw := elemBytes d.wf
  let kbs := if d.bs = 0 then 32 else 16
  let per := (h + kbs - 1) / kbs
  match m.slotRead die ctx wm (n * h * zw), (if d.bs = 2 then some [] else m.slotRead die ctx (wm + toW (n * h * zw)) (n * per)) with
  | some w, some s => some ((List.range n).map fun r => projElem d out ns w s (r * h * zw) (r * per))
  | _, _ => none

/-- What the Darn engine computes of a gap from its state record: K and V bytes, and the state's mark; `none` where it cannot
finish (R56, R401, R431). -/
def Mach.fillValue (m : Mach) (die : Nat) (e : SlotEntry) (a : Arena) (l p x : Nat) : Option (List Byte × List Byte × Bool) :=
  match (m.slotRead die e.ctx (e.table + toW (64 * (l - e.first))) 64).bind (fillDesc a) with
  | none => none
  | some d =>
    let z := e.elem
    let pa := e.recordPa x + 64
    match m.paFault pa, m.slotRead die e.ctx d.gamma (e.hidden * z), m.slotRead die e.ctx d.freq (4 * (a.kb / elemBytes d.kf / 2)) with
    | none, some g, some f =>
      let hs := numbers z e.hidden (m.mem.read die pa (e.hidden * z))
      let mark := (m.mem.firstMark die pa (e.hidden * z)).isSome
      let ns := (rmsNorm e.fmt d.nf none hs (numbers z e.hidden g) d.eps).map Rounded.pat
      let dk := a.kb / elemBytes d.kf
      match m.project die e.ctx d d.wk d.kf dk ns, m.project die e.ctx d d.wv d.vf (a.vb / elemBytes d.vf) ns with
      | some ks, some vs =>
        let kr := (ropeAll d.kf d.kf none d.half ks (numbers 4 (dk / 2) f) p).map Rounded.pat
        some ((kr.map fun v => leBytes (elemBytes d.kf) v).flatten, (vs.map fun v => leBytes (elemBytes d.vf) v).flatten, mark)
      | _, _ => none
    | _, _, _ => none

/-! ### Readers that fail -/

/-- A run's failure: SQSTAT keeps its cause and place, the writer's task ends (R265, R266). -/
def Mach.seqFails (m : Mach) (k : Nat) (t : Trap) : Mach :=
  match (m.seq k).run with
  | none => m
  | some r =>
    let st := putBits (putBits (putBits (m.seq k).stat.toNat 63 48 t.cause.toNat) 47 38 r.pcw) 32 32 0
    let m := m.setSeq k { m.seq k with run := none, stat := toW st }
    let m := { m with reads := m.reads.filter fun x => x.who ≠ .seq k }
    match m.cont? r.cont with
    | none => m
    | some c => m.reportEnd c { trap := t, pc := c.pc, fslot := 7, imp := true, eng := true, sys := c.sysMode
                                die := c.die, core := c.core }

/-- A reader fails with a fill fault (R57, R401). -/
def Mach.readerFails (m : Mach) (who : Reader) (t : Trap) : Mach :=
  match who with
  | .job n => match m.job? n with
    | some j => m.jobEnds j t
    | none => m
  | .seq k => m.seqFails k t

/-! ### Fill events -/

/-- Whether a draining range holds back a fill: the block, the layer fill descriptor, or an array it names (R54, R73). -/
def Mach.fillHeld (m : Mach) (die : Nat) (e : SlotEntry) (a : Arena) (l p : Nat) : Bool :=
  let at' := e.table + toW (64 * (l - e.first))
  m.ctxHeld die e.ctx (a.block l p) a.stride || m.ctxHeld die e.ctx at' 64 ||
    match (m.slotRead die e.ctx at' 64).bind (fillDesc a) with
    | none => false
    | some d =>
      let rows := fun (wm : Word) (n : Nat) => m.ctxHeld die e.ctx wm (n * e.hidden * elemBytes d.wf + n * e.hidden)
      rows d.wk (a.kb / elemBytes d.kf) || rows d.wv (a.vb / elemBytes d.vf) || m.ctxHeld die e.ctx d.gamma (e.hidden * e.elem) ||
        m.ctxHeld die e.ctx d.freq (2 * (a.kb / elemBytes d.kf))

/-- A fill that cannot finish: its readers fail, one log entry (R401). -/
def Mach.fillFails (m : Mach) (die slot l p : Nat) (headerPa : Nat) : Mach :=
  let t : Trap := { cause := 0x4004, info := toW headerPa }
  let who := ((m.reads.filter fun r => r.waitsOn slot l p).map AttRead.who).eraseDups
  (who.foldl (fun m w => m.readerFails w t) m).logError t { die := die }

/-- A fill in progress that cannot finish: the busy bit is cleared first (R401). -/
def Mach.abandonFill (m : Mach) (f : Fill) : Mach :=
  let i := f.pos % 16
  let m := m.homePrep f.die f.hdr false
  let m := m.homeWrite f.die f.hdr (leBytes 64 (putBits (leNat (m.homeRead f.hdr)) (16 + i) (16 + i) 0)) false
  m.fillFails f.die f.slot f.layer f.pos (f.hdr.headD (0, 0)).1

/-- The Darn engine takes up a gap that a read waits on, once the state has arrived (R56, R57, R401). -/
def Mach.fillGap (m : Mach) (slot l p : Nat) : Mach :=
  match m.reads.find? fun r => r.waitsOn slot l p with
  | none => m
  | some r =>
    let die := m.readerDie r.who
    match m.slotArena? die slot with
    | none => m
    | some (e, a) => if m.slotHeld die slot || m.fillHeld die e a l p then m else match m.headerParts die e a l p with
      | none => m
      | some ps =>
        let m1 := m.homePrep die ps false
        let h := m1.homeRead ps
        let i := p % 16
        let x := fsrcOf h i
        let rp := [(e.recordPa x, 8)]
        if bit (leAt h 0 2) i || bit (leAt h 2 2) i || x = 0xFFFF || e.recs ≤ x then m
        else if !(bit (leNat (m1.homeRead rp)) 0) then m
        else
          let m1 := (m1.homePrep die rp false).homeAcquire die rp
          match m1.fillValue die e a l p x with
          | none => m1.fillFails die slot l p (ps.headD (0, 0)).1
          | some v =>
            let m1 := m1.putHeader die ps a slot l p (leBytes 64 (putBits (leNat h) (16 + i) (16 + i) 1)) false
            { m1 with fills := m1.fills ++ [{ die := die, slot := slot, layer := l, pos := p, recIdx := x, k := v.1, v := v.2.1, poison := v.2.2, hdr := ps }] }

/-- A fill completes: K and V, then the header write that sets fmask, then the record's count (R57, R79). -/
def Mach.fillDone (m : Mach) (slot l p : Nat) : Mach :=
  match m.fills.find? fun f => f.slot == slot && f.layer == l && f.pos == p with
  | none => m
  | some f =>
    let m0 := m
    let m := { m with fills := m.fills.erase f }
    let die := f.die
    match m.slotArena? die slot with
    | none => m.abandonFill f
    | some (e, a) => if m.slotHeld die slot || m.ctxHeld die e.ctx (a.block l p) a.stride then m0
      else match m.headerParts die e a l p with
      | none => m.abandonFill f
      | some ps =>
        let i := p % 16
        let blk := a.block l p
        let ko := 64 + i * a.kb
        let vo := 64 + 16 * a.kb + i * a.vb
        match m.slotWrite die e.ctx (blk + toW ko) f.k f.poison with
        | none => m.abandonFill f
        | some m => match m.slotWrite die e.ctx (blk + toW vo) f.v f.poison with
          | none => m.abandonFill f
          | some m =>
            let m := m.writeStaged die slot l (p / 16) a.stride ko f.k f.poison
            let m := m.writeStaged die slot l (p / 16) a.stride vo f.v f.poison
            let m := m.homePrep die ps true
            let h := headerPresent (m.homeRead ps) i
            let h := leBytes 64 (putBits (leNat h) (16 + i) (16 + i) 0)
            (m.putHeader die ps a slot l p h true).dropRecord die e f.recIdx

/-- Whether a read still waits on a position and its wait has exceeded FILLTO (R57). -/
def Mach.waitLate (m : Mach) (p : Nat) (r : AttRead) : Bool :=
  let die := m.readerDie r.who
  decide (r.first ≤ p ∧ p < r.first + r.count) && decide (m.regs.fillto.toNat < m.cyc die - r.began) &&
    !(m.slotHeld die r.slot) && match m.slotArena? die r.slot with
      | none => true
      | some (e, a) => (m.present die e a r.slot r.layer p 1).isNone

/-- A position's wait has exceeded FILLTO in one of a reader's reads: a fill fault (R57). -/
def Mach.fillLate (m : Mach) (who : Reader) (p : Nat) : Mach :=
  if m.reads.any fun r => r.who == who && m.waitLate p r then
    match who with
    | .job n => match m.job? n with
      | some j => m.jobFails j { cause := 0x4004 }
      | none => m
    | .seq k => m.seqFails k { cause := 0x4004 }
  else m

/-! ### KVFILL (R231) -/

/-- The layers and positions of a KVFILL job, once checked (R231). -/
def Mach.fillRange (m : Mach) (j : Job) : JobM (SlotEntry × Arena × List Nat) :=
  let k : Card := j.card
  let slot := bits k.kspec 7 0
  if m.slotHeld j.die slot then .error .wait
  else match m.slotArena? j.die slot with
  | none => .error (.trap (m.slotFault j.die slot))
  | some (e, a) => do
    let ls := rangeFrom (bits k.kspec 15 8) (bits k.kspec 23 16 + 1 - bits k.kspec 15 8)
    failJIf (ls.any fun l => !(layerHeld e a l)) 0x2003
    failJIf (decide (a.positions < bits k.kspec 47 24 + k.rows)) 0x200D
    pure (e, a, ls)

/-- Whether a KVFILL job's range is complete (R231). -/
def Mach.fillComplete (m : Mach) (j : Job) : JobM Mach := do
  let k : Card := j.card
  let r ← m.fillRange j
  r.2.2.foldlM (fun m l => match m.present j.die r.1 r.2.1 (bits k.kspec 7 0) l (bits k.kspec 47 24) k.rows with
    | some m => pure m
    | none => .error .wait) m

/-- A KVFILL job's request for one of its layers (R57, R231). -/
def Mach.requestFill (m : Mach) (n slot l first count : Nat) : Mach :=
  match m.job? n with
  | none => m
  | some j =>
    let k : Card := j.card
    if j.op ≠ opKvfill ∨ bits k.kspec 7 0 ≠ slot ∨ first ≠ bits k.kspec 47 24 ∨ count ≠ k.rows then m
    else match m.fillRange j with
      | .ok r => if r.2.2.contains l then
          m.request { who := .job n, slot := slot, layer := l, first := first, count := count, began := m.cyc (m.readerDie (.job n)) } else m
      | .error (.trap t) => m.jobFails j t
      | .error _ => m

end Sys2Proof.Machine
end

