-- ==== Sys2Proof/Machine/Store.lean ====
section
/-! DEFINITION. The prefix snapshot store's walker: descriptor, trie, SKFIND with resume, SKPUT with eviction, SKREL and SKPIN
(R232 to R236, R336, R403 to R405). -/

namespace Sys2Proof.Machine

/-- A walker's work: the machine as far as it has come stands even where the operation then ends in a fault (R403, R405). -/
abbrev SkM := ExceptT Stop (StateM Mach)

/-- Work of a running job that changes nothing. -/
def liftJ {α : Type} (f : Mach → JobM α) : SkM α := fun m =>
  match f m with
  | .ok x => (.ok x, m)
  | .error e => (.error e, m)

/-- Work of a running job that changes the machine. -/
def stepJ (f : Mach → JobM Mach) : SkM Unit := fun m =>
  match f m with
  | .ok m' => (.ok (), m')
  | .error e => (.error e, m)

/-- The machine at this point. -/
def skM : SkM Mach := fun m => (.ok m, m)

/-- A fault of the operation. -/
def skFail {α : Type} (c : Cause) : SkM α := fun m => (.error (.trap { cause := c }), m)

/-- A fault where a condition holds. -/
def skFailIf (b : Bool) (c : Cause) : SkM Unit := if b then skFail c else pure ()

/-- Who an operation acts for. -/
structure SkJob where
  j : Job
  c : Cont

/-- Reads store memory through the task's translation, at die 0; a mark ends the job (R336, R405). -/
def skRead (k : SkJob) (va n : Nat) : SkM (List Byte) := liftJ fun m => m.jobClean k.j k.c true va n

/-- Reads a number. -/
def skGet (k : SkJob) (va n : Nat) : SkM Nat := do
  let b ← skRead k va n
  pure (leNat b)

/-- Writes store memory. -/
def skPut (k : SkJob) (va : Nat) (b : List Byte) : SkM Unit := stepJ fun m => m.jobWrite k.j k.c true va b false

/-- The store's descriptor (R232). -/
structure SkDesc where
  va : Nat
  b : Nat
  root : Nat
  pool : Nat
  cap : Nat
  free : Nat
  tokens : Nat
  stamp : Nat
  coll : Nat
  head : Nat
  deriving DecidableEq, Repr

/-- Reads the descriptor: SKDESC = 0, or a descriptor outside its limits, is a store fault (R232, R256, R365). -/
def skDesc (k : SkJob) : SkM SkDesc := do
  let m ← skM
  let va := m.regs.skdesc.toNat
  skFailIf (decide (va = 0)) 0x4003
  let b ← skRead k va 64
  let d : SkDesc := { va := va, b := leAt b 0 8, root := leAt b 8 8, pool := leAt b 16 8, cap := leAt b 24 4, free := leAt b 28 4
                      tokens := leAt b 32 8, stamp := leAt b 40 8, coll := leAt b 48 8, head := leAt b 56 8 }
  skFailIf (!(decide (2 ≤ d.b ∧ d.b ≤ 2 ^ 61 - 2 ∧ d.root % 128 = 0 ∧ d.pool % 128 = 0 ∧ 1 ≤ d.cap ∧ d.cap ≤ 16777216))) 0x4003
  pure d

/-- Writes the free count and the free-list head. -/
def skFreeList (k : SkJob) (d : SkDesc) (free head : Nat) : SkM SkDesc := do
  skPut k (d.va + 28) (leBytes 4 free)
  skPut k (d.va + 56) (leBytes 8 head)
  pure { d with free := free, head := head }

/-- A store node (R233). -/
structure SkNode where
  refs : Nat
  children : Nat
  depth : Nat
  valid : Bool
  pinned : Bool
  key : Nat
  parent : Nat
  stamp : Nat
  snap : Nat
  tokp : Nat
  deriving DecidableEq, Repr

/-- Reads the node at an address. -/
def skNode (k : SkJob) (a : Nat) : SkM SkNode := do
  let b ← skRead k a 128
  pure { refs := leAt b 0 4, children := leAt b 4 2, depth := leAt b 6 2, valid := bit (leAt b 8 1) 0, pinned := bit (leAt b 8 1) 1
         key := leAt b 32 8, parent := leAt b 40 8, stamp := leAt b 48 8, snap := leAt b 56 8, tokp := leAt b 64 8 }

/-- A node's 128 bytes (R233). -/
def SkNode.bytes (n : SkNode) : List Byte :=
  leBytes 4 n.refs ++ leBytes 2 n.children ++ leBytes 2 n.depth ++ leBytes 8 (n.valid.toNat + 2 * n.pinned.toNat) ++
    leBytes 16 0 ++ leBytes 8 n.key ++ leBytes 8 n.parent ++ leBytes 8 n.stamp ++ leBytes 8 n.snap ++ leBytes 8 n.tokp ++ leBytes 56 0

/-- The nibble a key follows at a depth (R233). -/
def nibble (key d : Nat) : Nat := bits key (63 - 4 * d) (60 - 4 * d)

/-- The path of a key: the index nodes passed, each with the entry taken, and the entry the path ends at (R233). -/
def skPath (k : SkJob) (key : Nat) : Nat → Nat → Nat → List (Nat × Nat) → SkM (List (Nat × Nat) × Nat)
  | 0, _, _, _ => skFail 0x4003
  | fuel + 1, node, d, path => do
    let i := nibble key d
    let e ← skGet k (node + 8 * i) 8
    let path := path ++ [(node, i)]
    if e = 0 ∨ e % 2 = 1 then pure (path, e) else skPath k key fuel e (d + 1) path

/-- The path of a key from the root. -/
def skWalk (k : SkJob) (d : SkDesc) (key : Nat) : SkM (List (Nat × Nat) × Nat) := skPath k key 16 d.root 0 []

/-- The store node that holds a key: the full key is compared at the node reached (R233). -/
def skLookup (k : SkJob) (d : SkDesc) (key : Nat) : SkM (Option (Nat × SkNode)) := do
  let p ← skWalk k d key
  if p.2 % 2 = 1 then do
    let n ← skNode k (p.2 - 1)
    pure (if n.key = key then some (p.2 - 1, n) else none)
  else pure none

/-- Whether an address is a pool slot. -/
def SkDesc.slot (d : SkDesc) (a : Nat) : Bool := decide (d.pool ≤ a ∧ a < d.pool + 128 * d.cap ∧ (a - d.pool) % 128 = 0)

/-- A valid store node: a pool slot marked valid that its own key reaches (R233, R235, R236). -/
def skValid (k : SkJob) (d : SkDesc) (a : Nat) : SkM (Option SkNode) :=
  if !(d.slot a) then pure none
  else do
    let n ← skNode k a
    if !n.valid then pure none
    else do
      let f ← skLookup k d n.key
      pure (match f with
        | some (b, n) => if b = a then some n else none
        | none => none)

/-- One step of the rolling hash (R234). -/
def rollHash (b h t : Nat) : Nat := (h * b + t) % (2 ^ 61 - 1)

/-- The 256 token ids of a card's list from granule `g`, with their marks. -/
def skTokens (k : SkJob) (g : Nat) : SkM (List (Byte × Bool)) :=
  liftJ fun m => m.jobReadMarked k.j k.c k.j.card.sspace ((k.j.card.ilist : Int) + 1024 * g) 1024

/-- The key after 256 more tokens. -/
def keyAfter (b h : Nat) (toks : List Byte) : Nat := (numbers 4 256 toks).foldl (rollHash b) h

/-- Counts a collision (R404). -/
def skCollide (k : SkJob) (d : SkDesc) : SkM SkDesc := do
  skPut k (d.va + 48) (leBytes 8 (d.coll + 1))
  pure { d with coll := (d.coll + 1) % 2 ^ 64 }

/-! ### SKFIND (R234, R403) -/

/-- One granule of the loop: the node confirmed, the key, and the descriptor as it then stands; none ends the loop. -/
def findOne (k : SkJob) (d : SkDesc) (h prev g : Nat) : SkM (Option (Nat × Nat × SkDesc)) :=
  if k.j.card.icount < 256 * (g + 1) then pure none
  else do
    let toks ← skTokens k g
    let h := keyAfter d.b h (toks.map Prod.fst)
    let f ← skLookup k d h
    match f with
    | none => pure none
    | some (a, n) => do
      let mine ← liftJ fun m => m.jobRead k.j k.c true n.tokp 1024
      if mine.2.isSome then do
        stepJ fun m => pure { m with regs := { m.regs with
          skcorr := if m.regs.skcorr = BitVec.allOnes 64 then m.regs.skcorr else m.regs.skcorr + 1 } }
        pure none
      else if n.parent ≠ prev ∨ mine.1 ≠ toks.map Prod.fst then do
        let _ ← skCollide k d
        pure none
      else do
        let st := (d.stamp + 1) % 2 ^ 64
        skPut k (d.va + 40) (leBytes 8 st)
        skPut k (a + 48) (leBytes 8 st)
        skPut k a (leBytes 4 (n.refs + 1))
        pure (some (a, h, { d with stamp := st }))

/-- The loop over granules: the nodes referenced, and what cut it short. -/
def findLoop (k : SkJob) : Nat → SkDesc → Nat → Nat → List Nat → Mach → (List Nat × Option Stop) × Mach
  | 0, _, _, _, got, m => ((got, none), m)
  | fuel + 1, d, h, prev, got, m =>
    match (findOne k d h prev got.length) m with
    | (.error e, m) => ((got, some e), m)
    | (.ok none, m) => ((got, none), m)
    | (.ok (some x), m) => findLoop k fuel x.2.2 x.2.1 x.1 (got ++ [x.1]) m

/-- The header a resume copy writes: the new slot, no fill sources, not busy (R234). -/
def resumedHeader (h : List Byte) (slot : Nat) : List Byte :=
  leBytes 64 (putBits (putBits (putBits (leNat h) 55 48 slot) 31 16 0) 351 96 (2 ^ 256 - 1))

/-- The resume copy of one block (R234, R403). -/
def resumeBlock (k : SkJob) (a : Arena) (slot src dst : Nat) : SkM Unit := do
  let h ← skRead k src 64
  let body ← liftJ fun m => m.jobReadMarked k.j k.c true ((src : Int) + 64) (16 * (a.kb + a.vb))
  stepJ fun m => m.jobWriteMarked k.j k.c true ((dst : Int) + 64) body
  skPut k dst (resumedHeader h slot)

/-- Does something for every element of a list, in order. -/
def eachSk {α : Type} (f : α → SkM Unit) : List α → SkM Unit
  | [] => pure ()
  | x :: r => do
    f x
    eachSk f r

/-- The resume copy of the matched granules (R234). -/
def resumeAll (k : SkJob) (got : List Nat) : SkM Unit := do
  let m ← skM
  let slot := bits k.j.card.kspec 7 0
  liftJ fun m => if m.slotHeld k.j.die slot then .error .wait else pure ()
  match m.slotArena? k.j.die slot with
  | none => fun m => (.error (.trap (m.slotFault k.j.die slot)), m)
  | some (e, a) => do
    liftJ fun m => m.arenaOwn k.j e
    skFailIf (decide (a.positions < 256 * got.length)) 0x200D
    eachSk (fun (g : Nat × Nat) => do
      let n ← skNode k g.1
      eachSk (fun (l : Nat) => eachSk (fun (i : Nat) =>
        resumeBlock k a slot (n.snap + ((l - a.first) * 16 + i) * a.stride) (a.block l (256 * g.2 + 16 * i)).toNat) (List.range 16))
        (rangeFrom a.first (a.last + 1 - a.first))) got.zipIdx

/-- Takes back the references an operation has made (R403). -/
def unref (k : SkJob) (got : List Nat) : SkM Unit := eachSk (fun a => do
  let n ← skGet k a 4
  skPut k a (leBytes 4 (n - 1))) got

/-- SKFIND: the loop, the resume copy, the result; a fault after the lookup takes the references back (R234, R403). -/
def skFind (k : SkJob) : SkM Unit := do
  liftJ fun m => m.jobMay k.j k.c false k.j.card.dst (8 + 8 * k.j.card.rows)
  let d ← skDesc k
  let r : List Nat × Option Stop ← fun m =>
    let x := findLoop k k.j.card.rows d 0 0 [] m
    (.ok x.1, x.2)
  let rest : SkM Unit := match r.2 with
    | some e => fun m => (.error e, m)
    | none => do
      if k.j.card.kflags = 1 ∧ r.1 ≠ [] then resumeAll k r.1 else pure ()
      stepJ fun m => m.jobWrite k.j k.c false k.j.card.dst (leBytes 8 r.1.length ++ (r.1.map fun a => leBytes 8 a).flatten) false
  fun m => match rest m with
    | (.error (.trap t), m) => (.error (.trap t), ((unref k r.1) m).2)
    | x => x

/-! ### SKPUT (R235, R336, R405) -/

/-- The slots a new key needs, with its path and the store node it must be split from: one, and one index node for every nibble
the two keys still share (R233, R235; log entry 52). -/
def slotsNeeded (k : SkJob) (d : SkDesc) (key : Nat) : SkM (Nat × List (Nat × Nat) × Option (Nat × Nat)) := do
  let p ← skWalk k d key
  if p.2 = 0 then pure (1, p.1, none)
  else do
    let o ← skNode k (p.2 - 1)
    let depth := p.1.length
    let same := ((rangeFrom depth (16 - depth)).takeWhile fun x => nibble key x == nibble o.key x).length
    pure (2 + same, p.1, some (p.2 - 1, o.key))

/-- The addresses of every store node, found from the root (R233). -/
def allNodes (k : SkJob) : Nat → List Nat → SkM (List Nat)
  | 0, _ => pure []
  | _, [] => pure []
  | fuel + 1, node :: rest => do
    let b ← skRead k node 128
    let es := numbers 8 16 b
    let more ← allNodes k fuel (rest ++ es.filter fun e => decide (e ≠ 0 ∧ e % 2 = 0))
    pure ((es.filter fun e => decide (e % 2 = 1)).map (· - 1) ++ more)

/-- The best of the candidates for eviction: ascending stamp, ties by address (R235). -/
def skVictim (k : SkJob) (d : SkDesc) : SkM (Option (Nat × SkNode)) := do
  let l ← allNodes k (d.cap + 1) [d.root]
  best l none
where
  /-- The best so far. -/
  best : List Nat → Option (Nat × SkNode) → SkM (Option (Nat × SkNode))
    | [], b => pure b
    | a :: r, b => do
      let n ← skNode k a
      let ok := n.refs == 0 && n.children == 0 && !n.pinned
      best r (if !ok then b else match b with
        | none => some (a, n)
        | some (ba, bn) => if n.stamp < bn.stamp ∨ (n.stamp = bn.stamp ∧ a < ba) then some (a, n) else b)

/-- A slot returns to the free-list head (R336). -/
def skFree (k : SkJob) (d : SkDesc) (a : Nat) : SkM SkDesc := do
  skPut k a (leBytes 8 d.head ++ leBytes 120 0)
  skFreeList k d (d.free + 1) a

/-- Frees the index nodes of a path that are left empty, from the lowest; the root stays (R235). -/
def freeEmpty (k : SkJob) (d : SkDesc) : List (Nat × Nat) → SkM SkDesc
  | [] => pure d
  | [_] => pure d
  | (node, _) :: up :: rest => do
    let b ← skRead k node 128
    if b.any fun x => x ≠ 0 then pure d
    else do
      skPut k (up.1 + 8 * up.2) (leBytes 8 0)
      let d ← skFree k d node
      freeEmpty k d (up :: rest)

/-- Evicts a node: out of the trie, its parent's children fall, its slot and empty index nodes are freed (R235). -/
def skEvict (k : SkJob) (d : SkDesc) (a : Nat) (n : SkNode) : SkM SkDesc := do
  let p ← skWalk k d n.key
  match p.1.reverse with
  | [] => pure d
  | last :: up => do
    skPut k (last.1 + 8 * last.2) (leBytes 8 0)
    if n.parent = 0 then pure ()
    else do
      let ch ← skGet k (n.parent + 4) 2
      skPut k (n.parent + 4) (leBytes 2 (ch - 1))
    let d ← skFree k d a
    freeEmpty k d (last :: up)

/-- Takes slots from the free-list head (R336, R405). -/
def takeSlots (k : SkJob) (d : SkDesc) : Nat → Nat → SkM (List Nat × Nat)
  | 0, h => pure ([], h)
  | n + 1, h => do
    skFailIf (!(d.slot h)) 0x4003
    let next ← skGet k h 8
    let r ← takeSlots k d n next
    pure (h :: r.1, r.2)

/-- Entries of an index node where the new node and the old one part, or where a deeper index node stands (R233). -/
def splitEntries (x y a b : Nat) (next : Option Nat) : List Byte :=
  ((List.range 16).map fun i => leBytes 8 (match next with
    | some n => if i = x then n else 0
    | none => if i = x then a + 1 else if i = y then b + 1 else 0)).flatten

/-- Writes the index nodes of a split, the lowest first (R233). -/
def putSplit (k : SkJob) (key okey a b : Nat) : Nat → List Nat → SkM Unit
  | _, [] => pure ()
  | d, i :: rest => do
    putSplit k key okey a b (d + 1) rest
    skPut k i (splitEntries (nibble key d) (nibble okey d) a b rest.head?)

/-- Evicts until enough slots are free: the slots needed, the snapshots evicted; none where no candidate remains (R235). -/
def makeRoom (k : SkJob) (key : Nat) : Nat → SkDesc → List Nat → SkM (SkDesc × List Nat × Option (Nat × List (Nat × Nat) × Option (Nat × Nat)))
  | 0, d, ev => pure (d, ev, none)
  | fuel + 1, d, ev => do
    let n ← slotsNeeded k d key
    if n.1 ≤ d.free then pure (d, ev, some n)
    else do
      let v ← skVictim k d
      match v with
      | none => pure (d, ev, none)
      | some (a, x) => do
        let d ← skEvict k d a x
        makeRoom k key fuel d (ev ++ [x.snap])

/-- Which evicted snapshot the result names (R235; log entry 25). -/
def evictedName (ev : List Nat) : SkM Nat := fun m =>
  if ev.length ≤ 1 then (.ok (ev.headD 0), m)
  else (.ok (ev.getD (Config.evictedPick m.freeCount % ev.length) 0), { m with freeCount := m.freeCount + 1 })

/-- Deposits a new node: status, node, evicted snapshot; a parent that has itself been evicted to make room is no valid store
node any more (R235; log entry 52). -/
def deposit (k : SkJob) (d : SkDesc) (key parent depth : Nat) (toks : List (Byte × Bool)) : SkM (Nat × Nat × Nat) := do
  let r ← makeRoom k key (d.cap + 1) d []
  let named ← evictedName r.2.1
  match r.2.2 with
  | none => pure (3, 0, named)
  | some (need, path, split) => do
    let d := r.1
    let still ← (if parent = 0 then pure true else do
      let n ← skValid k d parent
      pure n.isSome)
    skFailIf (!still) 0x4003
    let s ← takeSlots k d need d.head
    let a := s.1.headD 0
    let tokp := d.tokens + 1024 * ((a - d.pool) / 128)
    stepJ fun m => m.jobWriteMarked k.j k.c true tokp toks
    let node : SkNode := { refs := k.j.card.kflags, children := 0, depth := depth, valid := true, pinned := false, key := key
                           parent := parent, stamp := d.stamp, snap := k.j.card.kspec, tokp := tokp }
    skPut k a node.bytes
    let last := path.getLastD (d.root, 0)
    match split with
    | none => skPut k (last.1 + 8 * last.2) (leBytes 8 (a + 1))
    | some (b, okey) => do
      putSplit k key okey a b path.length (s.1.drop 1)
      skPut k (last.1 + 8 * last.2) (leBytes 8 ((s.1.drop 1).headD 0))
    if parent = 0 then pure ()
    else do
      let ch ← skGet k (parent + 4) 2
      skPut k (parent + 4) (leBytes 2 (ch + 1))
    let _ ← skFreeList k d (d.free - need) s.2
    pure (0, a, named)

/-- SKPUT (R235, R404). -/
def skPutOp (k : SkJob) : SkM Unit := do
  liftJ fun m => m.jobMay k.j k.c false k.j.card.dst 24
  let d ← skDesc k
  let parent := k.j.card.src
  let pn ← (if parent = 0 then pure none else do
    let n ← skValid k d parent
    match n with
    | none => skFail 0x4003
    | some n => pure (some n))
  let toks ← skTokens k 0
  let key := keyAfter d.b ((pn.map SkNode.key).getD 0) (toks.map Prod.fst)
  let f ← skLookup k d key
  let res ← (match f with
    | some (a, n) => do
      let mine ← skRead k n.tokp 1024
      if n.parent = parent ∧ mine = toks.map Prod.fst then do
        skPut k a (leBytes 4 (n.refs + k.j.card.kflags))
        pure (1, a, 0)
      else do
        let _ ← skCollide k d
        pure (2, 0, 0)
    | none => deposit k d key parent ((pn.map fun n => n.depth + 1).getD 0) toks)
  stepJ fun m => m.jobWrite k.j k.c false k.j.card.dst (leBytes 8 res.1 ++ leBytes 8 res.2.1 ++ leBytes 8 res.2.2) false

/-! ### SKREL and SKPIN (R236) -/

/-- The list of a card, every entry a valid store node (R236). -/
def skList (k : SkJob) (d : SkDesc) : SkM (List (Nat × SkNode)) := do
  let b ← liftJ fun m => m.jobRead k.j k.c k.j.card.sspace k.j.card.ilist (8 * k.j.card.icount)
  all (numbers 8 k.j.card.icount b.1)
where
  /-- Every entry in turn. -/
  all : List Nat → SkM (List (Nat × SkNode))
    | [] => pure []
    | a :: r => do
      let n ← skValid k d a
      match n with
      | none => skFail 0x4003
      | some n => do
        let l ← all r
        pure ((a, n) :: l)

/-- SKREL (R236). -/
def skRelease (k : SkJob) : SkM Unit := do
  let d ← skDesc k
  let l ← skList k d
  skFailIf (l.any fun p => decide (p.2.refs < (l.filter fun q => q.1 = p.1).length)) 0x4003
  eachSk (fun (p : Nat × SkNode) => do
    let n ← skGet k p.1 4
    skPut k p.1 (leBytes 4 (n - 1))) l

/-- SKPIN (R236). -/
def skPin (k : SkJob) : SkM Unit := do
  let d ← skDesc k
  let l ← skList k d
  eachSk (fun (p : Nat × SkNode) => skPut k (p.1 + 8) (leBytes 1 (1 + 2 * k.j.card.kflags))) l

/-! ### The walker -/

/-- The walker executes the next operation in order of arrival, as an agent of die 0; its writes are made at every die (R234,
R241, R403). -/
def Mach.walkStore (m : Mach) : Mach :=
  match m.skein with
  | [] => m
  | n :: rest => match m.job? n with
    | none => { m with skein := rest }
    | some j => match m.cont? j.cont with
      | none => { m with skein := rest }
      | some c =>
        if m.jobBlocked j || m.exnBefore j then m
        else
          let m0 := { m with mem := m.mem.catchUp 0 (m.mem.stampOf j.die) }
          let k : SkJob := { j := { j with die := 0 }, c := c }
          let op := if j.op = opSkfind then skFind k else if j.op = opSkput then skPutOp k else if j.op = opSkrel then skRelease k else skPin k
          match op m0 with
          | (.ok _, m1) =>
            let m1 := { m1 with mem := m1.mem.spread 0, skein := rest }
            match m1.job? n with
            | some j => m1.setJob { j with sent := true }
            | none => m1
          | (.error (.trap t), m1) => { m1 with mem := m1.mem.spread 0, skein := rest }.jobFails j t
          | (.error _, _) => m

end Sys2Proof.Machine
end

