-- ==== Sys2Proof/Machine/Engines.lean ====
section
/-! DEFINITION. The D-slot instructions, and the events of the engines behind them: jobs that start and complete, follow-ons,
staging, exit notices, fills, the store walker (R218 to R240). -/

namespace Sys2Proof.Machine

/-- DCOPY (R222, R223): its card leaves the queue (R218, R219). -/
def execDcopy (gu : Guard) (card : GF) (ac : BitVec 6) (σ : State) : Host.Outcome State Fault Refusal :=
  runSlot (.dcopy gu card ac) .d (some gu) (issueJob opDcopy card 0 ac) σ

/-- DMCAST (R222): its card leaves the queue (R218, R219). -/
def execDmcast (gu : Guard) (card : GF) (mm : BitVec 4) (ac : BitVec 6) (σ : State) : Host.Outcome State Fault Refusal :=
  runSlot (.dmcast gu card mm ac) .d (some gu) (issueJob opDmcast card mm ac) σ

/-- DGATH (R222): its card leaves the queue (R218, R219). -/
def execDgath (gu : Guard) (card : GF) (ac : BitVec 6) (σ : State) : Host.Outcome State Fault Refusal :=
  runSlot (.dgath gu card ac) .d (some gu) (issueJob opDgath card 0 ac) σ

/-- DSCAT (R222): its card leaves the queue (R218, R219). -/
def execDscat (gu : Guard) (card : GF) (ac : BitVec 6) (σ : State) : Host.Outcome State Fault Refusal :=
  runSlot (.dscat gu card ac) .d (some gu) (issueJob opDscat card 0 ac) σ

/-- DSCADD (R224): its card leaves the queue (R218, R219). -/
def execDscadd (gu : Guard) (card : GF) (ac : BitVec 6) (σ : State) : Host.Outcome State Fault Refusal :=
  runSlot (.dscadd gu card ac) .d (some gu) (issueJob opDscadd card 0 ac) σ

/-- DRED (R225): its card leaves the queue (R218, R219). -/
def execDred (gu : Guard) (card : GF) (ac : BitVec 6) (σ : State) : Host.Outcome State Fault Refusal :=
  runSlot (.dred gu card ac) .d (some gu) (issueJob opDred card 0 ac) σ

/-- DBCAST (R225): its card leaves the queue (R218, R219). -/
def execDbcast (gu : Guard) (card : GF) (ac : BitVec 6) (σ : State) : Host.Outcome State Fault Refusal :=
  runSlot (.dbcast gu card ac) .d (some gu) (issueJob opDbcast card 0 ac) σ

/-- DALLG (R225): its card leaves the queue (R218, R219). -/
def execDallg (gu : Guard) (card : GF) (ac : BitVec 6) (σ : State) : Host.Outcome State Fault Refusal :=
  runSlot (.dallg gu card ac) .d (some gu) (issueJob opDallg card 0 ac) σ

/-- DEMBAG (R226): its card leaves the queue (R218, R219). -/
def execDembag (gu : Guard) (card : GF) (ac : BitVec 6) (σ : State) : Host.Outcome State Fault Refusal :=
  runSlot (.dembag gu card ac) .d (some gu) (issueJob opDembag card 0 ac) σ

/-- DSTAGE (R227): its card leaves the queue (R218, R219). -/
def execDstage (gu : Guard) (card : GF) (ac : BitVec 6) (σ : State) : Host.Outcome State Fault Refusal :=
  runSlot (.dstage gu card ac) .d (some gu) (issueJob opDstage card 0 ac) σ

/-- PACK (R228): its card leaves the queue (R218, R219). -/
def execPack (gu : Guard) (card : GF) (ac : BitVec 6) (σ : State) : Host.Outcome State Fault Refusal :=
  runSlot (.pack gu card ac) .d (some gu) (issueJob opPack card 0 ac) σ

/-- UNPACK (R228): its card leaves the queue (R218, R219). -/
def execUnpack (gu : Guard) (card : GF) (ac : BitVec 6) (σ : State) : Host.Outcome State Fault Refusal :=
  runSlot (.unpack gu card ac) .d (some gu) (issueJob opUnpack card 0 ac) σ

/-- EXN (R230): its card leaves the queue (R218, R219). -/
def execExn (gu : Guard) (card : GF) (ac : BitVec 6) (σ : State) : Host.Outcome State Fault Refusal :=
  runSlot (.exn gu card ac) .d (some gu) (issueJob opExn card 0 ac) σ

/-- KVFILL (R231): its card leaves the queue (R218, R219). -/
def execKvfill (gu : Guard) (card : GF) (ac : BitVec 6) (σ : State) : Host.Outcome State Fault Refusal :=
  runSlot (.kvfill gu card ac) .d (some gu) (issueJob opKvfill card 0 ac) σ

/-- SKFIND (R234): its card leaves the queue (R218, R219). -/
def execSkfind (gu : Guard) (card : GF) (ac : BitVec 6) (σ : State) : Host.Outcome State Fault Refusal :=
  runSlot (.skfind gu card ac) .d (some gu) (issueJob opSkfind card 0 ac) σ

/-- SKPUT (R235): its card leaves the queue (R218, R219). -/
def execSkput (gu : Guard) (card : GF) (ac : BitVec 6) (σ : State) : Host.Outcome State Fault Refusal :=
  runSlot (.skput gu card ac) .d (some gu) (issueJob opSkput card 0 ac) σ

/-- SKREL (R236): its card leaves the queue (R218, R219). -/
def execSkrel (gu : Guard) (card : GF) (ac : BitVec 6) (σ : State) : Host.Outcome State Fault Refusal :=
  runSlot (.skrel gu card ac) .d (some gu) (issueJob opSkrel card 0 ac) σ

/-- SKPIN (R236): its card leaves the queue (R218, R219). -/
def execSkpin (gu : Guard) (card : GF) (ac : BitVec 6) (σ : State) : Host.Outcome State Fault Refusal :=
  runSlot (.skpin gu card ac) .d (some gu) (issueJob opSkpin card 0 ac) σ

/-- IXWALK (R237): its card leaves the queue (R218, R219). -/
def execIxwalk (gu : Guard) (card : GF) (ac : BitVec 6) (σ : State) : Host.Outcome State Fault Refusal :=
  runSlot (.ixwalk gu card ac) .d (some gu) (issueJob opIxwalk card 0 ac) σ

/-- IXSECT (R238): its card leaves the queue (R218, R219). -/
def execIxsect (gu : Guard) (card : GF) (ac : BitVec 6) (σ : State) : Host.Outcome State Fault Refusal :=
  runSlot (.ixsect gu card ac) .d (some gu) (issueJob opIxsect card 0 ac) σ

/-- IXPART (R239): its card leaves the queue (R218, R219). -/
def execIxpart (gu : Guard) (card : GF) (ac : BitVec 6) (σ : State) : Host.Outcome State Fault Refusal :=
  runSlot (.ixpart gu card ac) .d (some gu) (issueJob opIxpart card 0 ac) σ

/-- DFENCE (R240). -/
def execDfence (gu : Guard) (slots : BitVec 6) (σ : State) : Host.Outcome State Fault Refusal :=
  runSlot (.dfence gu slots) .d (some gu) (do
    let n ← getM
    modC fun c => { c with holds := c.holds ++ [{ kind := .jobs, slots := fenceSlots slots [0, 1, 2, 3, 4, 6] 0, before := n.nextJob
                                                  bundle := c.bundleNow }] }) σ

/-! ### Events of the engines -/

/-- Whether the issuing machine lets a job complete now: JOB_COMPLETION of one kind or another (R81, R230, R231, R234). -/
def Mach.completeJob (m : Mach) (n : Nat) : Mach :=
  match m.job? n with
  | none => m
  | some j => match m.cont? j.cont with
    | none => m
    | some c =>
      let signal := fun (m : Mach) (rows : Nat) => match m.jobSignals j rows 0 with
        | .ok m => m
        | .error (.trap t) => m.jobFails j t
        | .error _ => m
      if j.st ≠ .started ∨ m.jobBlocked j ∨ !c.resident then m
      else if j.op = opExn then
        if !j.sent then
          (if m.exnUnsent j then m else match m.sendNotices j c with
            | .ok m => m
            | .error (.trap t) => m.jobFails j t
            | .error _ => m)
        else if j.left = 0 ∧ !j.refused then signal m 0
        else m
      else if m.exnBefore j then m
      else if j.op = opKvfill then
        (match m.fillComplete j with
          | .ok m => signal { m with reads := m.reads.filter fun r => r.who ≠ .job n } j.card.rows
          | .error (.trap t) => m.jobFails j t
          | .error _ => m)
      else if 14 ≤ j.op ∧ j.op ≤ 17 then (if j.sent then signal m j.card.rows else m)
      else m.finishJob j c

/-- The reader an event names: a job by its number, a sequencer by 2^32 and its cluster. -/
def readerOf (n : Nat) : Reader := if n < 2 ^ 32 then .job n else .seq (n - 2 ^ 32)

/-- VECTOR_COMMAND_COMPLETION: the oldest vector command in flight writes its destination and flags (R179). -/
def execVectorCommandCompletion (cont : Nat) (σ : State) : Host.Outcome State Fault Refusal :=
  runEvent (fun m =>
    match m.cont? cont with
    | none => m
    | some c => match c.vpend with
      | v :: _ => m.landV c v
      | [] => m) σ

/-- JOB_CHANNEL_START: a free channel of a die takes a waiting job (R220). -/
def execJobChannelStart (die : Nat) (σ : State) : Host.Outcome State Fault Refusal :=
  runEvent (fun m => m.startJob die) σ

/-- JOB_COMPLETION: payload and signals of a job (R81). -/
def execJobCompletion (job : Nat) (σ : State) : Host.Outcome State Fault Refusal :=
  runEvent (fun m => m.completeJob job) σ

/-- FOLLOW_ON_ISSUE (R137). -/
def execFollowOnIssue (job : Nat) (σ : State) : Host.Outcome State Fault Refusal :=
  runEvent (fun m => m.issueFollow job) σ

/-- STAGING_BUFFER_SELECT (R79). -/
def execStagingBufferSelect (job : Nat) (σ : State) : Host.Outcome State Fault Refusal :=
  runEvent (fun m => m.selectBuffer job) σ

/-- EXIT_NOTICE_RECEIVE (R52). -/
def execExitNoticeReceive (die : Nat) (ext : Option Word) (σ : State) : Host.Outcome State Fault Refusal :=
  runEvent (fun m => m.noticeAt die ext) σ

/-- EXIT_STATE_ARRIVAL (R230). -/
def execExitStateArrival (die : Nat) (ext : Option (Word × List Byte × Bool)) (σ : State) : Host.Outcome State Fault Refusal :=
  runEvent (fun m => m.stateAt die ext) σ

/-- EXN_REFUSAL (R398). -/
def execExnRefusal (job : Nat) (σ : State) : Host.Outcome State Fault Refusal :=
  runEvent (fun m => m.exnRefused job) σ

/-- DARN_FILL (R56, R57). -/
def execDarnFill (slot : Nat) (layer : Nat) (pos : Nat) (σ : State) : Host.Outcome State Fault Refusal :=
  runEvent (fun m => m.fillGap slot layer pos) σ

/-- DARN_FILL_COMPLETE (R57). -/
def execDarnFillComplete (slot : Nat) (layer : Nat) (pos : Nat) (σ : State) : Host.Outcome State Fault Refusal :=
  runEvent (fun m => m.fillDone slot layer pos) σ

/-- FILL_TIMEOUT (R57). -/
def execFillTimeout (waiter : Nat) (pos : Nat) (σ : State) : Host.Outcome State Fault Refusal :=
  runEvent (fun m => m.fillLate (readerOf waiter) pos) σ

/-- SKEIN_OPERATION_EXECUTE (R234). -/
def execSkeinOperationExecute (σ : State) : Host.Outcome State Fault Refusal :=
  runEvent (fun m => m.walkStore) σ

end Sys2Proof.Machine
end

