-- ==== Sys2Proof/Machine/Vector.lean ====
section
/-! DEFINITION. The V-slot commands: length, moves, arithmetic, functions, conversions, comparisons, reductions, permutes,
integer commands, softmax, normalisation, rotation, masks, token control words, ordering and status (R181 to R199). -/

namespace Sys2Proof.Machine

/-- VSETL with an immediate (R181). -/
def execVsetlImm (gu : Guard) (m : BitVec 16) (σ : State) : Host.Outcome State Fault Refusal :=
  runSlot (.vsetlImm gu m) .v (some gu) (modC fun c => c.setVl m) σ

/-- VSETL from a register, saturated at 65,535 (R181). -/
def execVsetlReg (gu : Guard) (d : GF) (σ : State) : Host.Outcome State Fault Refusal :=
  runSlot (.vsetlReg gu d) .v (some gu) (do
    let x ← readG d
    modC fun c => c.setVl (BitVec.ofNat 16 (min x.toNat 65535))) σ

/-- VMOV: bit patterns of vd's element size (R181). -/
def execVmov (gu : Guard) (a : GF) (b : GF) (l : Bool) (σ : State) : Host.Outcome State Fault Refusal :=
  runSlot (.vmov gu a b l) .v (some gu) (vElems l false a b (fun v => { ok := vectorFmt v.vd, za := elemBytes v.vd, zd := elemBytes v.vd }) (fun _ _ _ x _ _ => { pat := x, ev := 0 })) σ

/-- VFILL: the whole of gb is the fill value (R181). -/
def fillWith (a b : GF) : Act Unit :=
  vRun false fun n v => do
    raiseIf (!(vectorFmt v.vd)) 0x1007
    let x ← readG a
    let y ← readG b
    let z := elemBytes v.vd
    let d := vReg (bits x.toNat 31 0) z n
    vCheck { srcs := [], dsts := [d], bad := decide (bits x.toNat 63 32 ≠ 0) || (d.stride == 0 && decide (1 < n)) }
    let m ← getM
    putV (m.regionWrites d (List.replicate n (y.toNat % 2 ^ (8 * z))) false) 0

/-- VFILL (R181). -/
def execVfill (gu : Guard) (a : GF) (b : GF) (σ : State) : Host.Outcome State Fault Refusal :=
  runSlot (.vfill gu a b) .v (some gu) (fillWith a b) σ

/-- VADD (R182). -/
def execVadd (gu : Guard) (a : GF) (b : GF) (l : Bool) (σ : State) : Host.Outcome State Fault Refusal :=
  runSlot (.vadd gu a b l) .v (some gu) (vTwo l a b Num.add) σ

/-- VSUB (R182). -/
def execVsub (gu : Guard) (a : GF) (b : GF) (l : Bool) (σ : State) : Host.Outcome State Fault Refusal :=
  runSlot (.vsub gu a b l) .v (some gu) (vTwo l a b fun x y => x.add y.negate) σ

/-- VMUL (R182). -/
def execVmul (gu : Guard) (a : GF) (b : GF) (l : Bool) (σ : State) : Host.Outcome State Fault Refusal :=
  runSlot (.vmul gu a b l) .v (some gu) (vTwo l a b Num.mul) σ

/-- VFMA: C a region, one rounding (R182). -/
def execVfma (gu : Guard) (a : GF) (b : GF) (l : Bool) (σ : State) : Host.Outcome State Fault Refusal :=
  runSlot (.vfma gu a b l) .v (some gu) (vFused l false a b) σ

/-- VMIN (R182). -/
def execVmin (gu : Guard) (a : GF) (b : GF) (l : Bool) (σ : State) : Host.Outcome State Fault Refusal :=
  runSlot (.vmin gu a b l) .v (some gu) (vPick l false a b) σ

/-- VMAX (R182). -/
def execVmax (gu : Guard) (a : GF) (b : GF) (l : Bool) (σ : State) : Host.Outcome State Fault Refusal :=
  runSlot (.vmax gu a b l) .v (some gu) (vPick l true a b) σ

/-- VABS (R182). -/
def execVabs (gu : Guard) (a : GF) (l : Bool) (σ : State) : Host.Outcome State Fault Refusal :=
  runSlot (.vabs gu a l) .v (some gu) (vSign l false a) σ

/-- VNEG (R182). -/
def execVneg (gu : Guard) (a : GF) (l : Bool) (σ : State) : Host.Outcome State Fault Refusal :=
  runSlot (.vneg gu a l) .v (some gu) (vSign l true a) σ

/-- VADDS (R182). -/
def execVadds (gu : Guard) (a : GF) (b : GF) (l : Bool) (σ : State) : Host.Outcome State Fault Refusal :=
  runSlot (.vadds gu a b l) .v (some gu) (vScalar l a b Num.add) σ

/-- VMULS (R182). -/
def execVmuls (gu : Guard) (a : GF) (b : GF) (l : Bool) (σ : State) : Host.Outcome State Fault Refusal :=
  runSlot (.vmuls gu a b l) .v (some gu) (vScalar l a b Num.mul) σ

/-- VFMAS: C the scalar, one rounding (R182). -/
def execVfmas (gu : Guard) (a : GF) (b : GF) (l : Bool) (σ : State) : Host.Outcome State Fault Refusal :=
  runSlot (.vfmas gu a b l) .v (some gu) (vFused l true a b) σ

/-- VRCP (R183). -/
def execVrcp (gu : Guard) (a : GF) (l : Bool) (σ : State) : Host.Outcome State Fault Refusal :=
  runSlot (.vrcp gu a l) .v (some gu) (vFunc l .rcp a) σ

/-- VRSQRT (R183). -/
def execVrsqrt (gu : Guard) (a : GF) (l : Bool) (σ : State) : Host.Outcome State Fault Refusal :=
  runSlot (.vrsqrt gu a l) .v (some gu) (vFunc l .rsqrt a) σ

/-- VEXP (R183). -/
def execVexp (gu : Guard) (a : GF) (l : Bool) (σ : State) : Host.Outcome State Fault Refusal :=
  runSlot (.vexp gu a l) .v (some gu) (vFunc l .exp a) σ

/-- VLOG (R183). -/
def execVlog (gu : Guard) (a : GF) (l : Bool) (σ : State) : Host.Outcome State Fault Refusal :=
  runSlot (.vlog gu a l) .v (some gu) (vFunc l .log a) σ

/-- VSIN (R183). -/
def execVsin (gu : Guard) (a : GF) (l : Bool) (σ : State) : Host.Outcome State Fault Refusal :=
  runSlot (.vsin gu a l) .v (some gu) (vFunc l .sin a) σ

/-- VCOS (R183). -/
def execVcos (gu : Guard) (a : GF) (l : Bool) (σ : State) : Host.Outcome State Fault Refusal :=
  runSlot (.vcos gu a l) .v (some gu) (vFunc l .cos a) σ

/-- VTANH (R183). -/
def execVtanh (gu : Guard) (a : GF) (l : Bool) (σ : State) : Host.Outcome State Fault Refusal :=
  runSlot (.vtanh gu a l) .v (some gu) (vFunc l .tanh a) σ

/-- VSIG (R183). -/
def execVsig (gu : Guard) (a : GF) (l : Bool) (σ : State) : Host.Outcome State Fault Refusal :=
  runSlot (.vsig gu a l) .v (some gu) (vFunc l .sig a) σ

/-- VSILU (R183). -/
def execVsilu (gu : Guard) (a : GF) (l : Bool) (σ : State) : Host.Outcome State Fault Refusal :=
  runSlot (.vsilu gu a l) .v (some gu) (vFunc l .silu a) σ

/-- VGELU (R183). -/
def execVgelu (gu : Guard) (a : GF) (l : Bool) (σ : State) : Host.Outcome State Fault Refusal :=
  runSlot (.vgelu gu a l) .v (some gu) (vFunc l .gelu a) σ

/-- VCVT (R184). -/
def execVcvt (gu : Guard) (a : GF) (l : Bool) (σ : State) : Host.Outcome State Fault Refusal :=
  runSlot (.vcvt gu a l) .v (some gu) (vElems l false a 0 (arithForm false false false) (fun v _ _ x _ _ => v.put none 0 (readNum v.va x) false (sigEv [(v.va, x)]))) σ

/-! ### Block quantisation (R185) -/

/-- The formats of a quantised element. -/
def quantFmt (c : Nat) : Bool := c == 3 || c == 4 || c == 5

/-- The block size of fmt.bs (R108, R185). -/
def blockOf (bs : Nat) : Nat := if bs = 0 then 32 else 16

/-- emax of a quantised format (R185). -/
def quantTop (c : Nat) : Int := if c = 3 then 8 else if c = 4 then 15 else 6

/-- One block of VQNT: its scale byte and its elements (R185). -/
def quantBlock (va vd : Nat) (xs : List Nat) : Nat × List Rounded :=
  let ns := xs.map (readNum va)
  let top := maxOf (ns.map fun n => if n.neg? then n.negate else n)
  let sig := sigEv (xs.map fun x => (va, x))
  match top with
  | .fin _ m e =>
    if m = 0 then (127, xs.map fun _ => { pat := 0, ev := 0 })
    else
      let k := clamp (-127) 127 (e + m.log2 - quantTop vd)
      ((k + 127).toNat, ns.map fun n => roundTo vd false (match n with
        | .fin s m e => .fin s m (e - k)
        | x => x))
  | _ => (0xFF, xs.map fun _ => { pat := (roundTo vd false .nan).pat, ev := evInvalid ||| sig })

/-- The elements in blocks. -/
def chunks (k : Nat) : Nat → List Nat → List (List Nat)
  | 0, _ => []
  | n + 1, l => l.take k :: chunks k n (l.drop k)

/-- The plan of VQNT and VDQ: with scales B holds VL / k bytes; with bs 2 C is the scalar (R185). -/
def quantPlan (l scalesOut : Bool) (v : VFmt) (g : VArg) (n : Nat) : VPlan :=
  let k := blockOf v.bs
  let a := vReg g.a (elemBytes v.va) n
  let d := vReg g.d (elemBytes v.vd) n
  let b := vReg g.b 1 (n / k)
  let base : VPlan := {
    srcs := if l then [] else [a]
    dsts := [d]
    bad := (l && (g.a ≠ 0 || decide (4096 < n))) || (d.stride == 0 && decide (1 < n)) }
  if v.bs = 2 then { base with bad := base.bad || g.b ≠ 0 }
  else if scalesOut then
    { base with dsts := [d, b], bad := base.bad || g.c ≠ 0 || decide (n % k ≠ 0) || (b.stride == 0 && decide (1 < b.n)) }
  else { base with srcs := base.srcs ++ [b], bad := base.bad || g.c ≠ 0 || decide (n % k ≠ 0) }

/-- The invalid event of a scalar scale that is a NaN, signalling or not (R118, R185). -/
def scaleEv (c : Nat) : Nat := if readNum 0 c = .nan then evInvalid else 0

/-- VQNT (R185). -/
def quantise (l : Bool) (a b : GF) : Act Unit :=
  vRun l fun n v => do
    raiseIf (!(isFloat v.va) || !(quantFmt v.vd) || v.bs == 3) 0x1007
    let g ← vArgs a b
    let p := quantPlan l true v g n
    vCheck p
    let m ← getM
    let z := elemBytes v.va
    let xs ← (if l then takeLatch n z else pure (m.region (vReg g.a z n), p.srcs.any m.regionMarked))
    let d := vReg g.d (elemBytes v.vd) n
    if v.bs = 2 then
      let rs := xs.1.map fun x =>
        let q := (readNum v.va x).div (readNum 0 g.c)
        let r := roundTo v.vd false q.1 q.2.1
        { r with ev := r.ev ||| q.2.2 ||| sigEv [(v.va, x)] ||| scaleEv g.c : Rounded }
      putV (m.regionWrites d (rs.map Rounded.pat) xs.2) (rs.foldl (fun e r => e ||| r.ev) 0)
    else
      let k := blockOf v.bs
      let bl := (chunks k (n / k) xs.1).map (quantBlock v.va v.vd)
      let rs := (bl.map Prod.snd).flatten
      putV (m.regionWrites d (rs.map Rounded.pat) xs.2 ++ m.regionWrites (vReg g.b 1 (n / k)) (bl.map Prod.fst) xs.2)
        (rs.foldl (fun e r => e ||| r.ev) 0)

/-- VQNT (R185). -/
def execVqnt (gu : Guard) (a : GF) (b : GF) (l : Bool) (σ : State) : Host.Outcome State Fault Refusal :=
  runSlot (.vqnt gu a b l) .v (some gu) (quantise l a b) σ

/-- VDQ (R185). -/
def dequantise (a b : GF) : Act Unit :=
  vRun false fun n v => do
    raiseIf (!(quantFmt v.va) || !(isFloat v.vd) || v.bs == 3) 0x1007
    let g ← vArgs a b
    let p := quantPlan false false v g n
    vCheck p
    let m ← getM
    let xs := m.region (vReg g.a (elemBytes v.va) n)
    let k := blockOf v.bs
    let ss := if v.bs = 2 then [] else m.region (vReg g.b 1 (n / k))
    let rs := xs.zipIdx.map fun x =>
      let s := ss.getD (x.2 / k) 0
      let q := if v.bs = 2 then (readNum v.va x.1).mul (readNum 0 g.c)
        else if s = 0xFF then (.nan, evInvalid)
        else (readNum v.va x.1).mul (.fin false 1 ((s : Int) - 127))
      v.put none 0 q.1 false (q.2 ||| (if v.bs = 2 then scaleEv g.c else 0))
    putV (m.regionWrites (vReg g.d (elemBytes v.vd) n) (rs.map Rounded.pat) (p.srcs.any m.regionMarked))
      (rs.foldl (fun e r => e ||| r.ev) 0)

/-- VDQ (R185). -/
def execVdq (gu : Guard) (a : GF) (b : GF) (σ : State) : Host.Outcome State Fault Refusal :=
  runSlot (.vdq gu a b) .v (some gu) (dequantise a b) σ

/-! ### Comparison and selection (R186) -/

/-- The eight conditions of VCMP. -/
def cmpHolds (cc : BitVec 3) (x y : Num) : Bool :=
  let un := x = .nan || y = .nan
  if cc = 0 then x.eq y else if cc = 1 then !(x.eq y) else if cc = 2 then x.lt y else if cc = 3 then x.lt y || x.eq y
  else if cc = 4 then y.lt x else if cc = 5 then y.lt x || x.eq y else if cc = 6 then un else !un

/-- VCMP: one byte an element; fmt.vd is not read (R186). -/
def execVcmp (gu : Guard) (a : GF) (b : GF) (s : Bool) (c : BitVec 3) (σ : State) : Host.Outcome State Fault Refusal :=
  runSlot (.vcmp gu a b s c) .v (some gu) (do
    vElems false false a b
      (fun v => { ok := vectorFmt v.va, za := elemBytes v.va, zb := if s then 0 else elemBytes v.va, zd := 1, scalar := s })
      fun v _ _ x y w =>
        let code := if s then v.scalarCode else v.va
        let r := if s then w else y
        { pat := (cmpHolds c (readNum v.va x) (readNum code r)).toNat, ev := sigEv [(v.va, x), (code, r)] }) σ

/-- VSEL: patterns where va = vd, else a conversion (R186). -/
def execVsel (gu : Guard) (a : GF) (b : GF) (σ : State) : Host.Outcome State Fault Refusal :=
  runSlot (.vsel gu a b) .v (some gu) (do
    vElems false false a b
      (fun v => { ok := vectorFmt v.va && vectorFmt v.vd, za := elemBytes v.va, zb := elemBytes v.va, zc := 1, zd := elemBytes v.vd })
      fun v _ _ x y w =>
        let r := if w ≠ 0 then x else y
        if v.va = v.vd then { pat := r, ev := 0 } else v.put none 0 (readNum v.va r) false (sigEv [(v.va, r)])) σ

/-! ### Reductions and scans (R187, R188) -/

/-- A reduction: VL elements of A, and of B where used, to one element of a size; D's stride is ignored (R187). -/
def vReduce (a b : GF) (useB : Bool) (ok : VFmt → Bool) (size : VFmt → Nat)
    (f : VFmt → Option Nat → List Nat → List Nat → Rounded) : Act Unit :=
  vRun false fun n v => do
    raiseIf (!(ok v)) 0x1007
    let g ← vArgs a b
    let z := elemBytes v.va
    let d := vReg g.d (size v) 1
    let p : VPlan := {
      srcs := vReg g.a z n :: (if useB then [vReg g.b z n] else [])
      dsts := [d]
      bad := (!useB && g.b ≠ 0) || g.c ≠ 0 }
    vCheck p
    let m ← getM
    let dusk ← duskCount v
    let r := f v dusk (m.region (vReg g.a z n)) (if useB then m.region (vReg g.b z n) else [])
    putV (m.regionWrites d [r.pat] (p.srcs.any m.regionMarked)) r.ev

/-- Any class of va and vd. -/
def anyPair (v : VFmt) : Bool := vectorFmt v.va && vectorFmt v.vd

/-- The signalling operands among elements. -/
def sigAll (va : Nat) (l : List Nat) : Nat := sigEv (l.map fun x => (va, x))

/-- VRSUM (R187). -/
def execVrsum (gu : Guard) (a : GF) (σ : State) : Host.Outcome State Fault Refusal :=
  runSlot (.vrsum gu a) .v (some gu) (do
    vReduce a 0 false anyPair (fun v => elemBytes v.vd) fun v dusk xs _ =>
      if isInt v.va then roundTo v.vd false (exactSum (xs.map (readNum v.va)))
      else
        let s := treeSum (wideCode v.va) dusk (xs.map (widen v.va))
        let r := roundTo v.vd false (readNum (wideCode v.va) s.pat)
        { r with ev := r.ev ||| s.ev ||| sigAll v.va xs }) σ

/-- VRMAX (R187). -/
def execVrmax (gu : Guard) (a : GF) (σ : State) : Host.Outcome State Fault Refusal :=
  runSlot (.vrmax gu a) .v (some gu) (do
    vReduce a 0 false anyPair (fun v => elemBytes v.vd) fun v _ xs _ =>
      let r := roundTo v.vd false (maxOf (xs.map (readNum v.va)))
      { r with ev := r.ev ||| sigAll v.va xs }) σ

/-- The index VARGMAX gives: the first NaN, else the first element at or above every other (R187). -/
def argMax (l : List Num) : Nat :=
  match l.findIdx? fun x => x == .nan with
  | some i => i
  | none => (l.findIdx? fun x => l.all fun y => !(x.lt y || (x.isZero && y.isZero && x.neg? && !y.neg?))).getD 0

/-- VARGMAX: a 4-byte index; fmt.vd is not read (R187). -/
def execVargmax (gu : Guard) (a : GF) (σ : State) : Host.Outcome State Fault Refusal :=
  runSlot (.vargmax gu a) .v (some gu) (do
    vReduce a 0 false (fun v => vectorFmt v.va) (fun _ => 4) fun v _ xs _ =>
      { pat := argMax (xs.map (readNum v.va)), ev := sigAll v.va xs }) σ

/-- VSCAN: running sums, one rounding a step (R188). -/
def scanGo (va vd : Nat) (dusk : Option Nat) : Nat → Nat → List Nat → List Rounded
  | _, _, [] => []
  | i, y, x :: r =>
    let s := addIn (wideCode va) (dusk.map (· + i)) y (widen va x)
    let o := roundTo vd false (readNum (wideCode va) s.pat)
    { o with ev := o.ev ||| s.ev } :: scanGo va vd dusk (i + 1) s.pat r

/-- VSCAN of integers: exact running sums (R188). -/
def scanInt (va vd : Nat) : Num → List Nat → List Rounded
  | _, [] => []
  | y, x :: r =>
    let s := (y.add (readNum va x)).1
    roundTo vd false s :: scanInt va vd s r

/-- VSCAN (R188). -/
def scan (a : GF) : Act Unit :=
  vRun false fun n v => do
    raiseIf (!(anyPair v)) 0x1007
    let g ← vArgs a 0
    let p := (arithForm false false false v).plan false g n
    vCheck p
    let m ← getM
    let dusk ← duskCount v
    let xs := m.region (vReg g.a (elemBytes v.va) n)
    let rs := if isInt v.va then scanInt v.va v.vd (.fin false 0 0) xs else scanGo v.va v.vd dusk 0 0 xs
    putV (m.regionWrites (vReg g.d (elemBytes v.vd) n) (rs.map Rounded.pat) (p.srcs.any m.regionMarked))
      (rs.foldl (fun e r => e ||| r.ev) (sigAll v.va xs))

/-- VSCAN (R188). -/
def execVscan (gu : Guard) (a : GF) (σ : State) : Host.Outcome State Fault Refusal :=
  runSlot (.vscan gu a) .v (some gu) (scan a) σ

/-- VDOT: rounded leaves, then the tree (R116, R187). Its additions take Dusk mode's bound; the leaf products, which have no row in
R120's table, are rounded exactly (log entry 70). -/
def execVdot (gu : Guard) (a : GF) (b : GF) (σ : State) : Host.Outcome State Fault Refusal :=
  runSlot (.vdot gu a b) .v (some gu) (do
    vReduce a b true anyPair (fun v => elemBytes v.vd) fun v dusk xs ys =>
      let ps := (xs.zip ys).map fun p => (readNum v.va p.1).mul (readNum v.va p.2)
      if isInt v.va then roundTo v.vd false (exactSum (ps.map Prod.fst))
      else
        let ls : List Rounded := ps.map fun p => { roundTo (wideCode v.va) false p.1 with ev := (roundTo (wideCode v.va) false p.1).ev ||| p.2 }
        let s := treeSum (wideCode v.va) dusk (ls.map Rounded.pat)
        let r := roundTo v.vd false (readNum (wideCode v.va) s.pat)
        { r with ev := ls.foldl (fun e x => e ||| x.ev) (r.ev ||| s.ev ||| sigAll v.va xs ||| sigAll v.va ys) }) σ

/-! ### Permutes, gathers, scatter-add (R189, R190) -/

/-- VPERM (R189). -/
def permute (a b : GF) : Act Unit :=
  vRun false fun n v => do
    raiseIf (!(vectorFmt v.vd)) 0x1007
    let g ← vArgs a b
    let z := elemBytes v.vd
    let len := bits g.c 15 0
    let d := vReg g.d z n
    let p : VPlan := {
      srcs := [vReg g.a z len, vReg g.b 2 n]
      dsts := [d]
      bad := decide (bits g.c 31 16 ≠ 0) || (d.stride == 0 && decide (1 < n)) }
    vCheck p
    let m ← getM
    let idx := m.region (vReg g.b 2 n)
    match idx.findIdx? fun i => decide (len ≤ i) with
    | some k => raise 0x2006 0 (toW k)
    | none => do
      let src := m.region (vReg g.a z len)
      putV (m.regionWrites d (idx.map fun i => src.getD i 0) (p.srcs.any m.regionMarked)) 0

/-- VPERM (R189). -/
def execVperm (gu : Guard) (a : GF) (b : GF) (σ : State) : Host.Outcome State Fault Refusal :=
  runSlot (.vperm gu a b) .v (some gu) (permute a b) σ

/-- VGATH (R189). -/
def gather (a b : GF) : Act Unit :=
  vRun false fun n v => do
    raiseIf (!(vectorFmt v.vd)) 0x1007
    let g ← vArgs a b
    let z := elemBytes v.vd
    let d := vReg g.d z n
    let ix := vReg g.b 4 n
    vRange [d, ix]
    raiseIf (!ix.aligned) 0x2003
    modM fun m => m.flushOver { srcs := [ix], dsts := [] }
    let m ← getM
    let idx := m.region ix
    let base := vReg g.a z (idx.foldl max 0 + 1)
    let one := { base with stride := 1 }
    match idx.find? fun i => !(m.cur.inWindow (one.pos i) z) with
    | some i => raise 0x2002 (ofI (one.pos i))
    | none => do
      let p : VPlan := {
        srcs := [one, ix]
        dsts := [d]
        bad := base.stride != 1 || g.c ≠ 0 || (d.stride == 0 && decide (1 < n)) }
      vCheck p
      let m ← getM
      let poison := m.regionMarked ix || idx.any fun i => (m.winMark m.cur (one.pos i).toNat z).isSome
      putV (m.regionWrites d (idx.map fun i => leNat (m.winRead m.cur (one.pos i).toNat z)) poison) 0

/-- VGATH (R189). -/
def execVgath (gu : Guard) (a : GF) (b : GF) (σ : State) : Host.Outcome State Fault Refusal :=
  runSlot (.vgath gu a b) .v (some gu) (gather a b) σ

/-- The sum VSCADD merges for one destination (R190); its additions, which neither R119 nor R120 lists, are exact in Dusk mode too
(log entry 70). -/
def mergeSum (va : Nat) (l : List Nat) : Rounded :=
  match l with
  | [] => { pat := 0, ev := 0 }
  | x :: r => r.foldl (fun acc y =>
      let s := addIn (wideCode va) none acc.pat (widen va y)
      { s with ev := s.ev ||| acc.ev }) { pat := widen va x, ev := 0 }

/-- VSCADD (R190). -/
def scatterAdd (a b : GF) : Act Unit :=
  vRun false fun n v => do
    raiseIf (!((isFloat v.va && isFloat v.vd) || (isInt v.va && isInt v.vd))) 0x1007
    let g ← vArgs a b
    let z := elemBytes v.vd
    let src := vReg g.a (elemBytes v.va) n
    let ix := vReg g.b 4 n
    vRange [src, ix]
    raiseIf (!ix.aligned) 0x2003
    modM fun m => m.flushOver { srcs := [ix], dsts := [] }
    let m ← getM
    let idx := m.region ix
    let base := { vReg g.d z (idx.foldl max 0 + 1) with stride := 1 }
    match idx.find? fun i => !(m.cur.inWindow (base.pos i) z) with
    | some i => raise 0x2002 (ofI (base.pos i))
    | none => do
      vCheck { srcs := [src, ix], dsts := [base], bad := g.c ≠ 0, strict := true }
      let m ← getM
      let xs := m.region src
      let out := idx.eraseDups.map fun j =>
        let mine := (idx.zip xs).filterMap fun p => if p.1 = j then some p.2 else none
        let old := leNat (m.winRead m.cur (base.pos j).toNat z)
        let r : Rounded :=
          if isInt v.va then roundTo v.vd false (exactSum (readNum v.vd old :: mine.map (readNum v.va)))
          else
            let y := mergeSum v.va mine
            let s := (readNum v.vd old).add (readNum (wideCode v.va) y.pat)
            let o := roundTo v.vd false s.1
            { o with ev := o.ev ||| y.ev ||| s.2 ||| sigEv [(v.vd, old)] }
        (j, r)
      let poison := [src, ix].any m.regionMarked
      putV ((out.map fun o => m.regionWrites { base with off := (base.pos o.1).toNat, n := 1 } [o.2.pat]
            (poison || (m.winMark m.cur (base.pos o.1).toNat z).isSome)).flatten)
        (out.foldl (fun e o => e ||| o.2.ev) (sigAll v.va xs))

/-- VSCADD (R190). -/
def execVscadd (gu : Guard) (a : GF) (b : GF) (σ : State) : Host.Outcome State Fault Refusal :=
  runSlot (.vscadd gu a b) .v (some gu) (scatterAdd a b) σ

/-! ### Integer and bitwise commands (R191) -/

/-- VIADD (R191). -/
def execViadd (gu : Guard) (a : GF) (b : GF) (s : Bool) (σ : State) : Host.Outcome State Fault Refusal :=
  runSlot (.viadd gu a b s) .v (some gu) (vWords a b s (fun _ => 4) (fun _ => true) fun _ x y => (x + y) % 2 ^ 32) σ

/-- VAND (R191). -/
def execVand (gu : Guard) (a : GF) (b : GF) (s : Bool) (σ : State) : Host.Outcome State Fault Refusal :=
  runSlot (.vand gu a b s) .v (some gu) (vWords a b s (fun v => elemBytes v.vd) (fun v => vectorFmt v.vd) fun z x y => x &&& y % 2 ^ (8 * z)) σ

/-- VOR (R191). -/
def execVor (gu : Guard) (a : GF) (b : GF) (s : Bool) (σ : State) : Host.Outcome State Fault Refusal :=
  runSlot (.vor gu a b s) .v (some gu) (vWords a b s (fun v => elemBytes v.vd) (fun v => vectorFmt v.vd) fun z x y => x ||| y % 2 ^ (8 * z)) σ

/-- VXOR (R191). -/
def execVxor (gu : Guard) (a : GF) (b : GF) (s : Bool) (σ : State) : Host.Outcome State Fault Refusal :=
  runSlot (.vxor gu a b s) .v (some gu) (vWords a b s (fun v => elemBytes v.vd) (fun v => vectorFmt v.vd) fun z x y => x ^^^ y % 2 ^ (8 * z)) σ

/-- VSHL (R191). -/
def execVshl (gu : Guard) (a : GF) (b : GF) (s : Bool) (σ : State) : Host.Outcome State Fault Refusal :=
  runSlot (.vshl gu a b s) .v (some gu) (do
    vWords a b s (fun v => elemBytes v.vd) (fun v => vectorFmt v.vd) fun z x y =>
      let n := y % 64
      if 8 * z ≤ n then 0 else (x <<< n) % 2 ^ (8 * z)) σ

/-- VSHR, logical or arithmetic (R191). -/
def execVshr (gu : Guard) (a : GF) (b : GF) (ar : Bool) (s : Bool) (σ : State) : Host.Outcome State Fault Refusal :=
  runSlot (.vshr gu a b ar s) .v (some gu) (do
    vWords a b s (fun v => elemBytes v.vd) (fun v => vectorFmt v.vd) fun z x y =>
      let n := y % 64
      let fill := ar && bit x (8 * z - 1)
      if 8 * z ≤ n then (if fill then 2 ^ (8 * z) - 1 else 0)
      else x >>> n + (if fill then 2 ^ (8 * z) - 2 ^ (8 * z - n) else 0)) σ

/-! ### Softmax, normalisation, rotation, masks (R192 to R195) -/

/-- VSMAX (R192). -/
def softmax (a b : GF) : Act Unit :=
  vRun false fun n v => do
    raiseIf (!(floatNot64 v.va) || !(vectorFmt v.vd)) 0x1007
    let g ← vArgs a b
    let src := vReg g.a (elemBytes v.va) n
    let d := vReg g.d (elemBytes v.vd) n
    let rec' := vReg g.b 16 1
    vRange [d, src, rec']
    raiseIf (!src.aligned || !d.aligned || !rec'.aligned || rec'.stride != 0 || decide (g.c ≠ 0) || (d.stride == 0 && decide (1 < n))) 0x2003
    raiseIf (rec'.meets src || rec'.meets d || (d.meets src && !(d.same src))) 0x2005
    modM fun m => m.flushOver { srcs := [src, rec'], dsts := [d] }
    let m ← getM
    parkIf (m.expHeld m.cur)
    let dusk ← duskCount v
    let bytes := m.winRead m.cur rec'.off 16
    let m0 := leAt bytes 0 4
    let l0 := leAt bytes 4 4
    let xs := m.region src
    let s := softmaxStep dusk m0 l0 (xs.map (readNum v.va))
    let out := s.p.map fun p => roundTo v.vd false (readNum 0 p)
    let poison := m.regionMarked src || m.regionMarked rec'
    putV (m.regionWrites d (out.map Rounded.pat) poison ++
        m.regionWrites rec' [s.m + s.l * 2 ^ 32 + s.c * 2 ^ 64] poison)
      (out.foldl (fun e r => e ||| r.ev) (s.ev ||| sigAll v.va xs ||| sigEv [(0, m0), (0, l0)]))

/-- VSMAX (R192). -/
def execVsmax (gu : Guard) (a : GF) (b : GF) (σ : State) : Host.Outcome State Fault Refusal :=
  runSlot (.vsmax gu a b) .v (some gu) (softmax a b) σ

/-- VRMSN (R193). -/
def normalise (a b : GF) : Act Unit :=
  vRun false fun n v => do
    raiseIf (!(floatNot64 v.va) || !(vectorFmt v.vd)) 0x1007
    let g ← vArgs a b
    let p := { arithForm true false true v with scalar := true }.plan false g n
    vCheck p
    let m ← getM
    let dusk ← duskCount v
    let z := elemBytes v.va
    let rs := rmsNorm v.va v.vd dusk (m.region (vReg g.a z n)) (m.region (vReg g.b z n)) g.c
    putV (m.regionWrites (vReg g.d (elemBytes v.vd) n) (rs.map Rounded.pat) (p.srcs.any m.regionMarked))
      (rs.foldl (fun e r => e ||| r.ev) 0)

/-- VRMSN (R193). -/
def execVrmsn (gu : Guard) (a : GF) (b : GF) (σ : State) : Host.Outcome State Fault Refusal :=
  runSlot (.vrmsn gu a b) .v (some gu) (normalise a b) σ

/-- VROPE (R194). -/
def rotate (a b : GF) (half : Bool) : Act Unit :=
  vRun false fun n v => do
    raiseIf (!(floatNot64 v.va) || !(vectorFmt v.vd)) 0x1007
    let g ← vArgs a b
    let src := vReg g.a (elemBytes v.va) n
    let d := vReg g.d (elemBytes v.vd) n
    let fr := vReg g.b 4 (n / 2)
    let p : VPlan := {
      srcs := [src, fr]
      dsts := [d]
      bad := decide (n % 2 ≠ 0 ∨ bits g.c 31 24 ≠ 0) || (d.stride == 0 && decide (1 < n)) }
    vCheck p
    let m ← getM
    parkIf (m.expHeld m.cur)
    let dusk ← duskCount v
    let rs := ropeAll v.va v.vd dusk half (m.region src) (m.region fr) (bits g.c 23 0)
    putV (m.regionWrites d (rs.map Rounded.pat) (p.srcs.any m.regionMarked)) (rs.foldl (fun e r => e ||| r.ev) 0)

/-- VROPE (R194). -/
def execVrope (gu : Guard) (a : GF) (b : GF) (h : Bool) (σ : State) : Host.Outcome State Fault Refusal :=
  runSlot (.vrope gu a b h) .v (some gu) (rotate a b h) σ

/-- VMASKW (R195): `z` fills with zero, `out` keeps the elements outside the range. -/
def maskRange (a b : GF) (z out : Bool) : Act Unit :=
  vRun false fun n v => do
    raiseIf (!(anyPair v) || (!z && (decide (v.vd = 3) || isInt v.vd))) 0x1007
    let g ← vArgs a b
    let p := { arithForm false false false v with zb := 0 }.plan false { g with b := 0 } n
    vCheck p
    let m ← getM
    let lo := bits g.b 15 0
    let hi := bits g.b 31 16
    let fill := if z then 0 else match floatFmt v.vd with
      | some f => f.infinity true
      | none => 0
    let rs := (m.region (vReg g.a (elemBytes v.va) n)).zipIdx.map fun x =>
      let within := decide (lo ≤ x.2 ∧ x.2 ≤ hi)
      if within != out then v.put none 0 (readNum v.va x.1) false (sigEv [(v.va, x.1)]) else { pat := fill, ev := 0 }
    putV (m.regionWrites (vReg g.d (elemBytes v.vd) n) (rs.map Rounded.pat) (p.srcs.any m.regionMarked))
      (rs.foldl (fun e r => e ||| r.ev) 0)

/-- VMASKW (R195). -/
def execVmaskw (gu : Guard) (a : GF) (b : GF) (z : Bool) (n : Bool) (σ : State) : Host.Outcome State Fault Refusal :=
  runSlot (.vmaskw gu a b z n) .v (some gu) (maskRange a b z n) σ

/-! ### Token control words (R43, R46, R196, R197) -/

/-- The rule of R46 for one token control word: block, pass kind, confidence, threshold entry. -/
def tcwStep (t : Nat) (blk : Nat) (recursion : Bool) (conf : Num) (entry : List Byte) : Nat :=
  let act := bits t 1 0
  let put := fun (act : Nat) => putBits (putBits t 1 0 act) 13 6 blk
  let thr := fun (k : Nat) => readNum 0 (leAt entry (4 * k) 4)
  let reach := fun (k : Nat) => (thr k).lt conf || (thr k).eq conf
  if !(bit t 14) then t
  else if !recursion && act = 1 then put 0
  else if (!recursion && act = 0) || (recursion && act = 3) then
    if reach 0 then putBits (putBits (put 2) 14 14 0) 15 15 1
    else if reach 1 then putBits (put 1) 15 15 1
    else if bit (leAt entry 12 4) 0 && bits t 5 2 ≠ 0 && conf.lt (thr 2) then putBits (put 3) 5 2 (bits t 5 2 - 1)
    else put 0
  else t

/-- A token control word in a marked granule ends the task (R381). -/
def tcwMark (r : VReg) : Act Unit := do
  let m ← getM
  match (List.range r.n).findSome? fun i => m.winMark m.cur (r.pos i).toNat 8 with
  | some g => raiseT { cause := 0x3006, faddr := ofI r.off, info := toW g, walk := true }
  | none => pure ()

/-- TCWUPD: its words are updated at once, each in one read-modify-write (R46, R196). -/
def tcwUpdate (a b : GF) : Act Unit :=
  vRun false fun n _ => do
    let g ← vArgs a b
    let d := vReg g.d 8 n
    let src := vReg g.a 4 n
    let table := vReg g.b 16 1
    let entry := { table with off := table.off + 16 * bits g.c 7 0 }
    vCheck { srcs := [src, entry], dsts := [d]
             bad := decide (64 < n) || d.stride != 1 || table.stride != 0 || decide (table.off % 64 ≠ 0 ∨ bits g.c 31 9 ≠ 0) }
    tcwMark d
    let m ← getM
    let conf := m.region src
    let thr := m.winRead m.cur entry.off 16
    let out := ((m.region d).zip conf).map fun p => tcwStep p.1 (bits g.c 7 0) (bit g.c 8) (readNum 0 p.2) thr
    putV (m.regionWrites d out (m.regionMarked src || m.regionMarked entry))
      (if conf.any fun x => readNum 0 x == .nan then evInvalid else 0)
    modM fun m => m.flushV m.cur.id

/-- TCWUPD (R196). -/
def execTcwupd (gu : Guard) (a : GF) (b : GF) (σ : State) : Host.Outcome State Fault Refusal :=
  runSlot (.tcwupd gu a b) .v (some gu) (tcwUpdate a b) σ

/-- How many token control words pass a test, as a byte. -/
def tcwCount (l : List Nat) (p : Nat → Bool) : Nat := (l.filter p).length

/-- TCWCNT (R197). -/
def tcwCounts (a : GF) : Act Unit :=
  vRun false fun n _ => do
    let g ← vArgs a 0
    let src := vReg g.a 8 n
    let d := vReg g.d 8 1
    vCheck { srcs := [src], dsts := [d], bad := decide (64 < n) }
    tcwMark src
    let m ← getM
    let ts := m.region src
    let live := fun (act : Nat) (t : Nat) => bit t 14 && bits t 1 0 == act
    let w := tcwCount ts (live 0) + tcwCount ts (live 1) * 2 ^ 8 + tcwCount ts (live 3) * 2 ^ 16 +
      tcwCount ts (fun t => !(bit t 14)) * 2 ^ 24 + tcwCount ts (fun t => bit t 15) * 2 ^ 32 + tcwCount ts (live 2) * 2 ^ 40
    putV (m.regionWrites d [w] false) 0

/-- TCWCNT (R197). -/
def execTcwcnt (gu : Guard) (a : GF) (σ : State) : Host.Outcome State Fault Refusal :=
  runSlot (.tcwcnt gu a) .v (some gu) (tcwCounts a) σ

/-! ### Ordering and status (R198, R199) -/

/-- VFENCE: earlier vector commands have read and written (R198). -/
def execVfence (gu : Guard) (s : BitVec 6) (σ : State) : Host.Outcome State Fault Refusal :=
  runSlot (.vfence gu s) .v (some gu) (modM fun m => m.flushV m.cur.id) σ

/-- VBSY: samples the commands in flight, then writes after them (R199). -/
def busyWord (a : GF) : Act Unit := do
  let x ← readG a
  let d := vReg (bits x.toNat 31 0) 8 1
  vCheck { srcs := [], dsts := [d], bad := decide (bits x.toNat 63 32 ≠ 0) }
  let m ← getM
  let w := m.cur.vpend.length + oneBit (m.expHeld m.cur) 16
  putV (m.regionWrites d [w] false) 0

/-- VBSY (R199). -/
def execVbsy (gu : Guard) (a : GF) (σ : State) : Host.Outcome State Fault Refusal :=
  runSlot (.vbsy gu a) .v (some gu) (busyWord a) σ

end Sys2Proof.Machine
end

