-- ==== Sys2Proof/Machine/Sequencer.lean ====
section
/-! DEFINITION. The attention sequencer: its registers (R263 to R265), its micro-operations (R266 to R273), the attention reads
it makes (R57, R268). -/

namespace Sys2Proof.Machine

/-! ### Running a micro-operation -/

/-- The run of the sequencer that moves. -/
def runOf : Act Run := do
  let m ← getM
  match (m.seq m.seqSel).run with
  | some r => pure r
  | none => await

/-- Changes a run. -/
def Mach.modRun (m : Mach) (k : Nat) (f : Run → Run) : Mach := m.setSeq k { m.seq k with run := (m.seq k).run.map f }

/-- Changes the run of the sequencer that moves. -/
def setRun (f : Run → Run) : Act Unit := modM fun m => m.modRun m.seqSel f

/-- The writer's continuation. -/
def runCont : Act Cont := do
  let r ← runOf
  let m ← getM
  match m.cont? r.cont with
  | some c => pure c
  | none => await

/-- h(n): h0 reads as zero (R266). -/
def Run.hv (r : Run) (n : H) : Word := if n = 0 then 0 else vget r.h n.toNat 0

/-- Writes h(n): a write of h0 is discarded (R266). -/
def Run.putH (r : Run) (n : H) (v : Word) : Run := if n = 0 then r else { r with h := vset r.h n.toNat v }

/-- h(n) of the run that moves. -/
def hGet (n : H) : Act Word := do
  let r ← runOf
  pure (r.hv n)

/-- A micro-operation: the next word is the one after it unless it names another; a fault ends the run and the writer's task; a
wait leaves it to begin again (R266, R272). -/
def runMicro (a : Act Unit) (s : State) : Host.Outcome State Fault Refusal :=
  let k := s.m.seqSel
  match a (s.m.modRun k fun r => { r with pcw := (r.pcw + 1) % 1024 }) with
  | .ok (_, m) => .next { s with m := m.settle.wake.pickAll }
  | .error (.trap t) => .next { s with m := (s.m.seqFails k t).settle.wake.pickAll }
  | .error _ => .next s

/-- The next word is `tgt` where a condition holds. -/
def jumpIf (b : Bool) (tgt : BitVec 10) : Act Unit := if b then setRun fun r => { r with pcw := tgt.toNat } else pure ()

/-- HSET (R267). -/
def execHset (d : H) (imm : BitVec 48) (σ : State) : Host.Outcome State Fault Refusal :=
  runMicro (do
    setRun fun r => r.putH d (imm.signExtend 64)) σ

/-- HADD (R267). -/
def execHadd (d : H) (a : H) (b : H) (imm : W32) (σ : State) : Host.Outcome State Fault Refusal :=
  runMicro (do
    let x ← hGet a
    let y ← hGet b
    setRun fun r => r.putH d (x + y + imm.signExtend 64)) σ

/-- HJMP (R267). -/
def execHjmp (c : BitVec 2) (a : H) (tgt : BitVec 10) (σ : State) : Host.Outcome State Fault Refusal :=
  runMicro (do
    let x ← hGet a
    jumpIf (c == 0 || (c == 1 && x == 0) || (c == 2 && x != 0) || (c == 3 && x.getLsbD 63)) tgt) σ

/-- HLOOP (R267). -/
def execHloop (a : H) (tgt : BitVec 10) (σ : State) : Host.Outcome State Fault Refusal :=
  runMicro (do
    let x ← hGet a
    setRun fun r => r.putH a (x - 1)
    let y ← hGet a
    jumpIf (y != 0) tgt) σ

/-- AGLD: binds a generator of the run as AGSET does (R174, R267). -/
def execAgld (n : BitVec 3) (a : H) (σ : State) : Host.Outcome State Fault Refusal :=
  runMicro (do
    let x ← hGet a
    let c ← runCont
    let m ← getM
    awaitIf (m.slotHeld c.die (bits x.toNat 39 32))
    match m.bindAg c.die x with
    | .error t => raiseT t
    | .ok g => setRun fun r => { r with ag := vset r.ag n.toNat g }) σ

/-! ### Rings of the run -/

/-- The tail tile of a ring the run fills: where it stands, its row count's place (R63). -/
def tailTile (q : Nat) (bytes : Nat) : Act (Nat × Nat) := do
  let c ← runCont
  let v := vget c.mx.rings q 0
  raiseIf (decide (ringSize v < bytes)) 0x2003
  raiseIf (!(ringValid v)) 0x2007
  raiseIf (decide (ringCount v < ringOcc v + 1)) 0x2008
  pure (ringBase v + ringTail v % ringCount v * ringSize v, ringRows v + ringTail v % ringCount v)

/-- Writes at a window offset of the writer's member. -/
def runWrite (off : Nat) (b : List Byte) (poison : Bool) : Act Unit := do
  let c ← runCont
  raiseIf (!(c.inWindow off b.length)) 0x2002 (toW off)
  modM fun m => m.winWrite c off b poison

/-- Reads at a window offset of the writer's member, with its mark. -/
def runRead (off n : Nat) : Act (List Byte × Bool) := do
  let c ← runCont
  raiseIf (!(c.inWindow off n)) 0x2002 (toW off)
  let m ← getM
  pure (m.winRead c off n, (m.winMark c off n).isSome)

/-- The tile's row count, then the tail (R63). -/
def pushTile (q rows place : Nat) : Act Unit := do
  runWrite place [BitVec.ofNat 8 rows] false
  modM fun m => match (m.seq m.seqSel).run.bind fun r => m.cont? r.cont with
    | some c => m.setCont { c with mx := { c.mx with rings := vset c.mx.rings q (ringPush (vget c.mx.rings q 0) 1) } }
    | none => m

/-! ### KVRD (R268) -/

/-- What a KVRD reads, once its checks pass: slot, layer, first position, count, with the arena as the generator addresses it. -/
structure KvRange where
  e : SlotEntry
  a : Arena
  slot : Nat
  layer : Nat
  first : Nat

/-- The range of a KVRD through a generator (R77, R268). -/
def Mach.kvRange (m : Mach) (die : Nat) (g : Ag) (kv : Bool) (boff blen cnt : Nat) : Except Trap KvRange :=
  let slot := bits g.w1.toNat 39 32
  let l := bits g.w1.toNat 47 40
  let p := bits g.w1.toNat 31 0
  match m.slotArena? die slot with
  | none => .error (m.slotFault die slot)
  | some (e, a) =>
    if (if kv then a.vb else a.kb) < (boff + blen) * 64 then .error { cause := 0x2003 }
    else if a.positions < p + cnt then .error { cause := 0x200D }
    else .ok { e := e, a := { a with base := g.w0, first := l }, slot := slot, layer := l, first := p }

/-- The parts of a block as a reader's die reads them: a staged copy, or the arena under the task's leases (R54, R79). -/
def Mach.kvParts (m : Mach) (die : Nat) (t : Task) (x : KvRange) (p off n : Nat) : Except Stop (List (Nat × Nat)) :=
  match m.stagedOn die x.slot x.layer (p / 16) x.a.stride with
  | pa :: _ => .ok [(pa + off, n)]
  | [] =>
    let va := x.a.block x.layer p + toW off
    if t.ctx ≠ x.e.ctx then .error (.trap { cause := 0x3005, faddr := va })
    else match m.resolveTask die t va n .read with
      | .ok ps => .ok ps
      | .fail f => .error (.trap f)
      | .wait => .error .wait

/-- Whether the positions of a range are all present, as an acquire; a marked header ends the run (R57, R381). -/
def kvPresent (die : Nat) (t : Task) (x : KvRange) : List Nat → Act Bool
  | [] => pure true
  | p :: r => do
    let m ← getM
    match m.kvParts die t x p 0 64 with
    | .error e => fun _ => .error e
    | .ok ps => do
      modM fun m => (m.homePrep die ps false).homeAcquire die ps
      let m ← getM
      if m.homeMarked ps then raise 0x3006 (x.a.block x.layer p) (toW ((ps.headD (0, 0)).1 / 64 * 64))
      else if bit (leAt (m.homeRead ps) 0 2) (p % 16) then kvPresent die t x r
      else pure false

/-- Copies the named bytes of each position to its row of the tile. -/
def kvCopy (die : Nat) (t : Task) (x : KvRange) (kv : Bool) (boff blen tile : Nat) : List (Nat × Nat) → Act Unit
  | [] => pure ()
  | (p, row) :: r => do
    let m ← getM
    let ent := if kv then 64 + 16 * x.a.kb + p % 16 * x.a.vb else 64 + p % 16 * x.a.kb
    match m.kvParts die t x p (ent + 64 * boff) (64 * blen) with
    | .error e => fun _ => .error e
    | .ok ps => do
      let gs := (List.range blen).map fun i => (tile + row * blen * 64 + 64 * i,
        slice (m.mem.readParts die ps) (64 * i) 64, ps.any fun q => (m.mem.firstMark die q.1 q.2).isSome)
      gs.foldlM (fun _ (g : Nat × List Byte × Bool) => runWrite g.1 g.2.1 g.2.2) ()
      kvCopy die t x kv boff blen tile r

/-- KVRD: an attention read into a ring tile (R268). -/
def execKvrd (kv : Bool) (n : BitVec 3) (q : Q) (boff : BitVec 16) (blen : Byte) (adv : Bool) (cnt : BitVec 7) (σ : State) : Host.Outcome State Fault Refusal :=
  runMicro (do
    let r ← runOf
    let c ← runCont
    let m ← getM
    let ag := vget r.ag n.toNat {}
    awaitIf (m.slotHeld c.die (bits ag.w1.toNat 39 32))
    let x ← (match m.kvRange c.die ag kv boff.toNat blen.toNat cnt.toNat with
      | .ok x => pure x
      | .error t => raiseT t)
    let tile ← tailTile q.toNat (cnt.toNat * blen.toNat * 64)
    match m.task? c.task with
    | none => await
    | some t => do
      let ok ← kvPresent c.die t x (rangeFrom x.first cnt.toNat)
      awaitIf (!ok)
      kvCopy c.die t x kv boff.toNat blen.toNat tile.1 ((rangeFrom x.first cnt.toNat).zip (List.range cnt.toNat))
      pushTile q.toNat cnt.toNat tile.2
      modM fun m => { m with reads := m.reads.filter fun y => y.who ≠ .seq m.seqSel }
      if adv then setRun fun r => { r with ag := vset r.ag n.toNat { ag with w1 := toW (putBits ag.w1.toNat 31 0 (x.first + cnt.toNat)) } } else pure ()) σ

/-- The range that the KVRD at a run's place asks for. -/
def Mach.kvrdAsks (m : Mach) (k : Nat) : Option (Nat × Nat × Nat × Nat) :=
  match (m.seq k).run with
  | none => none
  | some r => match decodeSeq (SMap.get 0 (m.seq k).store r.pcw).toNat, m.cont? r.cont with
    | some (.kvrd kv n _ boff blen _ cnt), some c => match m.kvRange c.die (vget r.ag n.toNat {}) kv boff.toNat blen.toNat cnt.toNat with
      | .ok x => some (x.slot, x.layer, x.first, cnt.toNat)
      | .error _ => none
    | _, _ => none

/-- ATTENTION_READ_REQUEST: a KVFILL job or a run asks for a range it must wait on (R57). -/
def execAttentionReadRequest (waiter : Nat) (slot : Nat) (layer : Nat) (first : Nat) (count : Nat) (σ : State) : Host.Outcome State Fault Refusal :=
  runEvent (fun m =>
    match (if waiter < 2 ^ 32 then Reader.job waiter else Reader.seq (waiter - 2 ^ 32)) with
    | .job n => m.requestFill n slot layer first count
    | .seq k => if m.kvrdAsks k = some (slot, layer, first, count) then
        m.request { who := .seq k, slot := slot, layer := layer, first := first, count := count, began := m.cyc (k / 4) } else m) σ

/-! ### Matrix commands of a run (R269) -/

/-- Waits for earlier commands on an accumulator to retire. -/
def awaitAcc (acc : Nat) : Act Unit := do
  let c ← runCont
  awaitIf (c.mx.array.any fun k => k.acc == acc)

/-- The command of an MXI, and the drain mask bit that delivers to the sequencer; bits 5 and 7 of the mask are illegal (R269,
R430). -/
def mxiInstr (op mx : Nat) : Option (Instr × Nat) :=
  if op = 6 then
    (if bits mx 23 23 = 0 ∧ bits mx 29 29 = 0 ∧ bits mx 42 31 = 0 ∧ bits mx 52 45 = 0 ∧ bits mx 30 24 ≠ 0 ∧
        (bits mx 27 24 ≠ 0 ∨ bits mx 22 0 = 0) then
      some (.mdrain { p := 0, inv := false } (BitVec.ofNat 2 (bits mx 44 43)) (BitVec.ofNat 6 (bits mx 29 24)) (BitVec.ofNat 23 (bits mx 22 0)),
        bits mx 30 30 * 64) else none)
  else match decodeM (op * 2 ^ 57 + mx) with
    | some i => (match i with
      | .mma _ _ _ _ _ _ _ _ => some (i, 0)
      | .mmabt _ _ _ _ _ _ _ _ => some (i, 0)
      | .mmasp _ _ _ _ _ _ _ _ => some (i, 0)
      | .mmacb _ _ _ _ _ _ _ _ => some (i, 0)
      | .mzero _ _ _ => some (i, 0)
      | .mdraina _ _ _ => some (i, 0)
      | _ => none)
    | none => none

/-- The accumulator a command of a run names. -/
def accOfInstr : Instr → Nat
  | .mma _ _ _ acc _ _ _ _ => acc.toNat
  | .mmabt _ _ _ acc _ _ _ _ => acc.toNat
  | .mmasp _ _ _ acc _ _ _ _ => acc.toNat
  | .mmacb _ _ _ acc _ _ _ _ => acc.toNat
  | .mzero _ acc _ => acc.toNat
  | .mdrain _ acc _ _ => acc.toNat
  | .mdraina _ acc _ => acc.toNat
  | _ => 4

/-- A free count for a Dusk-mode operation of a run (R119). -/
def runDusk (r : Run) : Act (Option Nat) :=
  if fmtDusk r.fmt then do
    let n ← fresh
    pure (some (n * 2 ^ 40))
  else pure none

/-- MXI: a matrix command of the run enters the array (R269). -/
def execMxi (op : BitVec 7) (mx : BitVec 53) (σ : State) : Host.Outcome State Fault Refusal :=
  runMicro (do
    let r ← runOf
    match mxiInstr op.toNat mx.toNat with
    | none => raise 0x1001
    | some (i, high) => do
      awaitAcc (accOfInstr i)
      let dusk ← runDusk r
      let c ← runCont
      awaitIf (!(c.mReady i))
      modM fun m => m.landDrains c.id
      let c ← runCont
      let m ← getM
      match enterInstr i m c r.fmt dusk high with
      | .error e => fun _ => .error e
      | .ok e => modM fun m => m.place c.id e (e.cmd m.nextCmd (BitVec.ofNat 64 (op.toNat * 2 ^ 57 + mx.toNat)) r.fmt (.seq m.seqSel) c.pc)) σ

/-- A score after scale and mask (R270). -/
def smaxScore (x scale : Nat) (masked : Bool) : Num :=
  if masked then .inf true
  else
    let p := (readNum 0 x).mul (readNum 0 scale)
    readNum 0 (roundTo 0 false p.1).pat

/-- SMAX: scale, mask and running softmax over delivered scores, into a ring tile (R270). -/
def execSmax (q : Q) (a : H) (b : H) (w : H) (mk : Bool) (cnt : BitVec 7) (σ : State) : Host.Outcome State Fault Refusal :=
  runMicro (do
    let r ← runOf
    match r.scores with
    | none => await
    | some (xs, rows, fp32, marks) => do
      raiseIf (!fp32) 0x1007
      let ma := fmtMa r.fmt
      raiseIf (!(ma == 1 || ma == 2 || isFp8 ma || ma == 5 || ma == 10)) 0x1007
      let za := elemBytes ma
      let off := bits (r.hv a).toNat 22 0
      let scale := bits (r.hv b).toNat 31 0
      let qp := bits (r.hv w).toNat 23 0
      let kp := bits (r.hv w).toNat 47 24
      let win := bits (r.hv w).toNat 63 48
      raiseIf (decide (off % 16 ≠ 0)) 0x2003
      let rec' ← runRead off (16 * rows)
      let tile ← tailTile q.toNat (rows * 64 * za)
      let dusk ← runDusk r
      (List.range rows).foldlM (fun _ (i : Nat) => do
        let s := (List.range 64).map fun j =>
          let dist : Int := (qp + i : Nat) - (kp + j : Nat)
          smaxScore (xs.getD (64 * i + j) 0) scale (decide (cnt.toNat ≤ j) || (mk && !(decide (0 ≤ dist ∧ dist ≤ (win : Int)))))
        let o := softmaxStep (dusk.map (· + i * 2 ^ 24)) (leAt rec'.1 (16 * i) 4) (leAt rec'.1 (16 * i + 4) 4) s
        runWrite (off + 16 * i) (leBytes 4 o.m ++ leBytes 4 o.l ++ leBytes 4 o.c ++ leBytes 4 0) (marks.getLsbD i)
        runWrite (tile.1 + i * 64 * za) (o.p.map fun p => leBytes za (roundTo ma false (readNum 0 p)).pat).flatten (marks.getLsbD i || rec'.2)) ()
      pushTile q.toNat rows tile.2
      setRun fun r => { r with scores := none }) σ

/-! ### Accumulators (R267, R273) -/

/-- Changes the rows of an accumulator below its mark (R267). -/
def mapAcc (acc : Nat) (f : Nat → Nat → Nat → Nat) (marks : Nat → Bool) : Act Unit := do
  let c ← runCont
  let a := vget c.mx.acc acc {}
  let elems := accOf fun key =>
    if key / 64 < a.mark.toNat then BitVec.ofNat 32 (f (key / 64) (key % 64) (a.at (key / 64) (key % 64)).toNat) else a.at (key / 64) (key % 64)
  let poison := (List.range a.mark.toNat).foldl (fun (x : BitVec 64) i => if marks i then x ||| ((1 : BitVec 64) <<< i) else x) a.poison
  modM fun m => m.setCont { c with mx := { c.mx with acc := vset c.mx.acc acc { a with elems := elems, poison := poison } } }

/-- Rows below an accumulator's mark. -/
def accRows (acc : Nat) : Act Nat := do
  let c ← runCont
  pure (vget c.mx.acc acc {}).mark.toNat

/-- RESC (R267). -/
def execResc (acc : Acc) (a : H) (σ : State) : Host.Outcome State Fault Refusal :=
  runMicro (do
    awaitAcc acc.toNat
    let x ← hGet a
    let n ← accRows acc.toNat
    let recs ← runRead (bits x.toNat 22 0) (16 * n)
    mapAcc acc.toNat (fun i _ v =>
      let p := (readNum 0 v).mul (readNum 0 (leAt recs.1 (16 * i + 8) 4))
      (roundTo 0 false p.1).pat) (fun _ => recs.2)) σ

/-- NORM (R267). -/
def execNorm (acc : Acc) (a : H) (σ : State) : Host.Outcome State Fault Refusal :=
  runMicro (do
    awaitAcc acc.toNat
    let x ← hGet a
    let n ← accRows acc.toNat
    let recs ← runRead (bits x.toNat 22 0) (16 * n)
    mapAcc acc.toNat (fun i _ v =>
      let l := readNum 0 (leAt recs.1 (16 * i + 4) 4)
      if l.isZero then 0
      else
        let p := (readNum 0 v).div l
        (roundTo 0 false p.1 p.2.1).pat) (fun _ => recs.2)) σ

/-- ROPE: rows of a tile rotated in place (R271). -/
def execRope (a : H) (b : H) (c : H) (half : Bool) (d : BitVec 10) (rows : BitVec 7) (σ : State) : Host.Outcome State Fault Refusal :=
  runMicro (do
    let r ← runOf
    let va := bits r.fmt.toNat 15 12
    let z := elemBytes va
    let n := d.toNat
    let tile := bits (r.hv a).toNat 22 0
    let fo := bits (r.hv b).toNat 22 0
    let pos := bits (r.hv c).toNat 23 0
    raiseIf (!(floatNot64 va)) 0x1007
    raiseIf (decide (tile % z ≠ 0 ∨ fo % 4 ≠ 0 ∨ 16777215 < pos + (rows.toNat - 1))) 0x2003
    let f ← runRead fo (4 * (n / 2))
    let t ← runRead tile (rows.toNat * n * z)
    let dusk ← runDusk r
    (List.range rows.toNat).foldlM (fun _ (x : Nat) => do
      let xs := (List.range n).map fun i => leAt t.1 ((x * n + i) * z) z
      let o := ropeAll va va (dusk.map (· + x * 2 ^ 20)) half xs (numbers 4 (n / 2) f.1) (pos + x)
      let src ← runRead (tile + x * n * z) (n * z)
      runWrite (tile + x * n * z) (o.map fun v => leBytes z v.pat).flatten (src.2 || f.2)) ()) σ

/-- MCMB: an incoming partial is merged into an accumulator and its records (R273). -/
def execMcmb (acc : Acc) (a : H) (b : H) (c : H) (σ : State) : Host.Outcome State Fault Refusal :=
  runMicro (do
    awaitAcc acc.toNat
    let r ← runOf
    let n ← accRows acc.toNat
    let ao := bits (r.hv a).toNat 22 0
    let own ← runRead ao (16 * n)
    let inc ← runRead (bits (r.hv b).toNat 22 0) (16 * n)
    let out ← runRead (bits (r.hv c).toNat 22 0) (256 * n)
    let dusk ← runDusk r
    let fp := fun (b : List Byte) (o : Nat) => readNum 0 (leAt b o 4)
    let ms := fun (i : Nat) => (fp own.1 (16 * i)).pick true (fp inc.1 (16 * i))
    let c1 := fun (i : Nat) => (expStep (dusk.map (· + i * 2 ^ 24)) (fp own.1 (16 * i)) (ms i)).pat
    let c2 := fun (i : Nat) => (expStep (dusk.map (· + i * 2 ^ 24 + 1)) (fp inc.1 (16 * i)) (ms i)).pat
    let mul := fun (x y : Num) => (roundTo 0 false (x.mul y).1).pat
    let sum := fun (x y : Nat) => (roundTo 0 false ((readNum 0 x).add (readNum 0 y)).1).pat
    let skip := fun (i : Nat) => decide (ms i = .inf true)
    mapAcc acc.toNat (fun i j v =>
      if skip i then v
      else sum (mul (readNum 0 v) (readNum 0 (c1 i))) (mul (fp out.1 (256 * i + 4 * j)) (readNum 0 (c2 i))))
      (fun _ => inc.2 || out.2 || own.2)
    (List.range n).foldlM (fun _ (i : Nat) =>
      if skip i then pure ()
      else do
        let l := sum (mul (fp own.1 (16 * i + 4)) (readNum 0 (c1 i))) (mul (fp inc.1 (16 * i + 4)) (readNum 0 (c2 i)))
        runWrite (ao + 16 * i) (leBytes 4 (roundTo 0 false (ms i)).pat ++ leBytes 4 l) (inc.2 || own.2)) ()) σ

/-! ### Jobs, words and the end of a run -/

/-- DJOB: a card of the run leaves as the D-slot instruction of its kind would (R218, R219, R267). -/
def execDjob (a : H) (mm : BitVec 4) (ac : BitVec 6) (σ : State) : Host.Outcome State Fault Refusal :=
  runMicro (do
    let r ← runOf
    let c ← runCont
    let m ← getM
    awaitIf ((m.guestOf c).isNone && m.sourcesHeld c.ctx)
    let off := bits (r.hv a).toNat 22 0
    match m.readCard c off with
    | .error t => raiseT t
    | .ok k => do
      raiseIf (decide (3 < k.kind) || k.dport) 0x2004 (toW off)
      raiseIf (decide (k.kind ≠ opDmcast ∧ mm ≠ 0)) 0x1001
      match m.cwordCause c k with
      | some cause => raise cause (toW k.cword)
      | none => do
        raiseIf (!(k.good k.kind)) 0x2004 (toW off)
        modM fun m => m.landDrains c.id
        modM fun m => m.addJob { id := 0, cont := c.id, task := c.task, die := c.die, op := k.kind, card := k, cardOff := off
                                 mm := mm, ac := ac, fmt := r.fmt, pc := c.pc, seq := some m.seqSel }) σ

/-- WAITW: waits on a window word; what it observes it acquires (R23, R267). -/
def execWaitw (c : BitVec 2) (a : H) (b : H) (σ : State) : Host.Outcome State Fault Refusal :=
  runMicro (do
    let r ← runOf
    let x := (r.hv a).toNat
    raiseIf (decide (x % 8 ≠ 0)) 0x2001 (toW x)
    let w ← runRead x 8
    awaitIf (!(waitHolds (c.setWidth 3) (BitVec.ofNat 32 (leNat w.1)) ((r.hv b).setWidth 32)))) σ

/-- Whether commands or job payloads of a run are still to come. -/
def Mach.runBusy (m : Mach) (k : Nat) (c : Cont) : Bool :=
  (c.mx.array.any fun x => x.src == .seq k) || m.jobs.any fun j => j.seq == some k && j.st ≠ .landed

/-- A release write of a run at an address of the form R60, at a scope (R81, R90, R156). -/
def runRelease (sc : BitVec 3) (addr : Nat) (v : Word) : Act Unit := do
  let c ← runCont
  raiseIf (decide (addr % 8 ≠ 0)) 0x2001 (toW addr)
  let m ← getM
  match m.spTarget c.task c.team.toNat addr with
  | none => raise 0x2002 (toW addr)
  | some (t, off) => do
    raiseIf (decide (2 ^ 32 ≤ addr) || !(t.inWindow off 8)) 0x2002 (toW addr)
    modM fun m => (m.placePrep c.die (.spad t.id off) 8 (wide sc) []).placeWrite c.die (.spad t.id off) (leBytes 8 v.toNat)

/-- SIGW: after the run's earlier accesses and payloads, a release write (R156, R267). -/
def execSigw (sc : BitVec 3) (a : H) (b : H) (σ : State) : Host.Outcome State Fault Refusal :=
  runMicro (do
    raiseIf (decide (5 ≤ sc.toNat)) 0x1008
    let r ← runOf
    let c ← runCont
    let m ← getM
    awaitIf (m.runBusy m.seqSel c)
    runRelease sc (r.hv a).toNat (r.hv b)) σ

/-- HALT: after everything of the run, the generators go back, the array is free, the completion is written (R272). -/
def execHalt (σ : State) : Host.Outcome State Fault Refusal :=
  runMicro (do
    let r ← runOf
    let c ← runCont
    let m ← getM
    awaitIf (m.runBusy m.seqSel c)
    modM fun m => m.setCont { c with ag := r.ag }
    runRelease 3 r.comp.toNat (r.hv 15)
    modM fun m =>
      let s := m.seq m.seqSel
      let n := bits s.stat.toNat 15 0
      m.setSeq m.seqSel { s with run := none, stat := toW (putBits (putBits (putBits s.stat.toNat 63 38 0) 32 32 0) 15 0 (n + 1)) }) σ

/-! ### Registers (R263 to R265) -/

/-- The sequencer of the issuing continuation's cluster. -/
def Mach.mySeq (m : Mach) : Seq := m.seq m.cur.gcluster

/-- Replaces it. -/
def Mach.setMySeq (m : Mach) (s : Seq) : Mach := m.setSeq m.cur.gcluster s

/-- SQSTAT.rej. -/
def Seq.reject (s : Seq) : Seq := { s with stat := toW (putBits s.stat.toNat 33 33 1) }

/-- A read of SQCSD: the word at SQCSA, which then advances (R263). -/
def readSqcsd : Act Word := do
  let m ← getM
  let s := m.mySeq
  modM fun m => m.setMySeq { s with csa := s.csa + 1 }
  pure (SMap.get 0 s.store s.csa.toNat)

/-- A write of SQCSD: refused while a run is active (R263). -/
def writeSqcsd (v : Word) : Act Unit := modM fun m =>
  let s := m.mySeq
  m.setMySeq (match s.run with
    | some _ => { s with csa := s.csa + 1 }.reject
    | none => { s with csa := s.csa + 1, store := SMap.set 0 s.store s.csa.toNat v })

/-- A write of SQSTART: a run, or rej (R264). -/
def writeSqstart (v : Word) : Act Unit := do
  let m ← getM
  let c := m.cur
  let s := m.mySeq
  let par := bits v.toNat 32 10
  if s.run.isSome || !c.claim || !(c.inWindow par 128) || par % 128 ≠ 0 then modM fun m => m.setMySeq s.reject
  else do
    performEarlier
    let f ← takeFmt
    modM fun m =>
      let b := m.winRead m.cur par 128
      let r : Run := {
        cont := c.id, task := c.task, pcw := bits v.toNat 9 0
        h := Vector.ofFn fun i => if i.val = 0 then 0 else toW (leAt b (8 * i.val) 8)
        ag := c.ag, fmt := f, comp := BitVec.ofNat 32 (leAt b 0 4) }
      let stat := putBits (putBits s.stat.toNat 32 32 1) 19 16 c.core
      m.setMySeq { s with run := some r, stat := toW stat }

/-- A register step of the issuing continuation that stands as an event of its own: a failure is reported as the register write's
would be (R255, R350). -/
def runStep (a : Act Unit) (s : State) : Host.Outcome State Fault Refusal :=
  if s.m.cur.id = 0 then .next s
  else match a s.m with
    | .ok (_, m) => .next { s with m := m.settle.wake.pickAll }
    | .error (.trap t) => .next (s.takeTrap t 6 0)
    | .error _ => .next s

/-- SQSTART_WRITE (R264). -/
def execSqstartWrite (v : Word) (σ : State) : Host.Outcome State Fault Refusal :=
  runStep (writeSqstart v) σ

/-- SQCSD_WRITE (R263). -/
def execSqcsdWrite (v : Word) (σ : State) : Host.Outcome State Fault Refusal :=
  runStep (writeSqcsd v) σ

/-- SQCSD_READ (R263). -/
def execSqcsdRead (d : GF) (σ : State) : Host.Outcome State Fault Refusal :=
  runStep (do
    let x ← readSqcsd
    writeG d x) σ

end Sys2Proof.Machine
end

