-- ==== Sys2Proof/Machine/Replay.lean ====
section
/-! DEFINITION. Admission of a graph replay (R246 to R248, R283, R385), its start (R38, R40), patch versions (R246). -/

namespace Sys2Proof.Machine

/-! ### Descriptors and nodes as admission reads them -/

/-- A replay's descriptor whose limits hold; its nodes are still to read (R246). -/
def Mach.readReplay (m : Mach) (s : Submitter) (e : CtxEntry) (desc : Word) : Option Replay :=
  if desc.toNat % 64 ≠ 0 then none
  else match m.admRead s.ctx e desc 64 with
  | none => none
  | some b =>
    let r : Replay := {
      entry := e, cls := s.cls, path := s.path, sys := s.sys, nodesVa := toW (leAt b 0 8), count := leAt b 8 4
      parea := [toW (leAt b 16 8), toW (leAt b 24 8)], psize := leAt b 32 4
      cword := toW (leAt b 40 8), cval := toW (leAt b 48 8) }
    if r.nodesVa.toNat % 128 = 0 ∧ 1 ≤ r.count ∧ r.count ≤ 65536 ∧ leAt b 16 8 % 64 = 0 ∧ leAt b 24 8 % 64 = 0 ∧
      64 ≤ r.psize ∧ r.psize % 64 = 0 ∧ leAt b 37 3 = 0 then some r else none

/-- A node record whose limits hold (R247). -/
def Mach.readNode (m : Mach) (ctx : BitVec 12) (r : Replay) (i : Nat) : Option Node :=
  match m.admRead ctx r.entry (r.nodesVa + toW (128 * i)) 128 with
  | none => none
  | some b =>
    let w := leNat b
    let poff := bits w 223 192
    let nsucc := bits w 159 144
    if bits w 1023 272 ≠ 0 ∨ bits w 255 224 ≠ 0 ∨ poff % 64 ≠ 0 ∨ r.psize ≤ poff then none
    else match (if nsucc = 0 then some [] else m.admRead ctx r.entry (toW (bits w 127 64)) (4 * nsucc)) with
      | none => none
      | some l =>
        let succ := (List.range nsucc).map fun k => leAt l (4 * k) 4
        if succ.all fun j => decide (j < r.count) then
          some { taskVa := toW (bits w 63 0), npred := bits w 143 128, succ := succ, poff := poff, rlim := bits w 191 188 }
        else none

/-! ### The shape of a graph -/

/-- The nodes in an order in which every edge goes forward, lowest index first; shorter than the graph where it has a
cycle. -/
def topoFrom (nodes : List Node) : Nat → List Nat → List Nat
  | 0, done => done
  | fuel + 1, done =>
    match (List.range nodes.length).find? fun j => !done.contains j &&
      (List.range nodes.length).all fun i => done.contains i || !(((nodes[i]?.map Node.succ).getD []).contains j) with
    | none => done
    | some j => topoFrom nodes fuel (done ++ [j])

/-- The topological order of a graph. -/
def topoOrder (nodes : List Node) : List Nat := topoFrom nodes nodes.length []

/-- Edges that reach a node. -/
def edgesTo (nodes : List Node) (j : Nat) : Nat := (nodes.map fun n => n.succ.count j).sum

/-- Whether a graph has a cycle or a node with fewer predecessors than edges (reason 0x000B of R385). -/
def graphBad (nodes : List Node) : Bool :=
  decide ((topoOrder nodes).length < nodes.length) ||
    (List.range nodes.length).any fun j => decide (((nodes[j]?.map Node.npred).getD 0) < edgesTo nodes j)

/-- The longest path of an amount per node over the edges (R283). -/
def longestPath (nodes : List Node) (est : Nat → Nat) : Nat :=
  let far := (topoOrder nodes).reverse.foldl (fun (acc : List (Nat × Nat)) i =>
    let next := ((nodes[i]?.map Node.succ).getD []).map fun j => ((acc.find? fun p => p.1 = j).map Prod.snd).getD 0
    (i, est i + next.foldl max 0) :: acc) []
  (far.map Prod.snd).foldl max 0

/-- One search of a maximum matching of the pairs a node can precede: pairs of later and earlier node. -/
def tryMatch (reach : Nat → List Nat) : Nat → Nat → List (Nat × Nat) → List Nat → Option (List (Nat × Nat)) × List Nat
  | 0, _, _, seen => (none, seen)
  | fuel + 1, i, mt, seen =>
    (reach i).foldl (fun (acc : Option (List (Nat × Nat)) × List Nat) j =>
      match acc.1 with
      | some _ => acc
      | none =>
        if acc.2.contains j then acc
        else match mt.find? fun p => p.1 = j with
          | none => (some ((j, i) :: mt), j :: acc.2)
          | some p => match tryMatch reach fuel p.2 mt (j :: acc.2) with
            | (some mt', seen') => (some ((j, i) :: mt'.filter fun q => q.1 ≠ j), seen')
            | (none, seen') => (none, seen')) (none, seen)

/-- The width of a graph: how many nodes can be in flight at once, the nodes less a maximum matching (R283). -/
def graphWidth (nodes : List Node) : Nat :=
  let n := nodes.length
  n - ((List.range n).foldl (fun mt i => match tryMatch (coneOf nodes) (n + 1) i mt [] with
    | (some x, _) => x
    | (none, _) => mt) []).length

/-! ### Requests for a replay -/

/-- What a request for a replay comes to (R248). -/
inductive ReplayAnswer where
  | started
  | held
  /-- A pending replay exists (R39). -/
  | full
  | refused (reason : Nat)
  deriving DecidableEq, Repr

/-- The graph of a context with a descriptor. -/
def Mach.graphOf (m : Mach) (ctx : BitVec 12) (desc : Word) : Option Graph := m.graphs.find? fun g => g.ctx == ctx && g.desc == desc

/-- The graph of a context with a descriptor, entered in the executor's list on its first use, with its patch area ready
(R246 states no value for bit 3 before the first copy; log entry 62). -/
def Mach.enterGraph (m : Mach) (s : Submitter) (e : CtxEntry) (desc : Word) : Mach × Graph :=
  match m.graphOf s.ctx desc with
  | some g => (m, g)
  | none =>
    let b := (m.admRead s.ctx e desc 64).getD []
    let g : Graph := { id := m.graphs.length + 1, desc := desc, ctx := s.ctx, entry := e, cur := bit (leAt b 36 1) 0
                       replays := leAt b 56 8, parea := [toW (leAt b 16 8), toW (leAt b 24 8)], psize := leAt b 32 4 }
    ({ m with graphs := m.graphs ++ [g] }, g)

/-- The checks of R385 on a replay, in its order; the replay as it would be held. A node's record that the graph's own
running replay holds in tstate 1 or 2 does not refuse the pending one (R39; log entry 38). -/
def Mach.examineReplay (m : Mach) (s : Submitter) (desc : Word) : Except Nat Replay :=
  match m.ctxEntryNow 0 s.ctx with
  | none => .error 0x0006
  | some e => match m.readReplay s e desc with
    | none => .error 0x0009
    | some r => match allSome ((List.range r.count).map fun i => m.readNode s.ctx r i) with
      | none => .error 0x000A
      | some nodes =>
        let own := match m.graphOf s.ctx desc with
          | some g => if g.running then g.nodes.map Node.taskVa else []
          | none => []
        let found := nodes.map fun n => m.examine s n.taskVa (own.contains n.taskVa)
        let bad := found.filterMap fun x => match x with
          | .error k => some k
          | .ok _ => none
        match bad with
        | k :: rest => .error (rest.foldl min k)
        | [] =>
          if graphBad nodes then .error 0x000B
          else
            let order := topoOrder nodes
            let acc := match found with
              | .ok t :: _ => t.accDie
              | _ => 0
            let prepared := (nodes.zip found).zipIdx.map fun p =>
              let n : Node := p.1.1
              match p.1.2 with
              | .ok t => { n with prep := some { t with seq := m.seqCount + 1 + order.idxOf p.2, accDie := acc } }
              | .error _ => n
            .ok { r with nodes := prepared }

/-- A replay with its reservation under R283, or the reason of a refusal. -/
def Mach.boundReplay (m : Mach) (gid : Nat) (r : Replay) : Except Nat Replay :=
  let tasks := r.nodes.filterMap Node.prep
  let est := fun i => ((r.nodes[i]?.bind Node.prep).map fun t => t.hdr.rtime.toNat).getD 0
  let q := tasks.foldl (fun a t => addAmounts a (coreCycles t.hdr.rtime.toNat t.size t.place)) []
  let preds := (tasks.map fun t => m.predecessors { t with node := some (gid, 0) }).flatten.eraseDups
  let w := graphWidth r.nodes
  match m.boundedTest r.cls (longestPath r.nodes est) q preds (acceptingDie r.nodes) w with
  | some k => .error k
  | none =>
    if m.clsBound r.cls = 0 then .ok r
    else .ok { r with bounded := true, deadline := some (m.cyc (acceptingDie r.nodes) + m.clsBound r.cls), resv := q, entries := w }

/-- A replay starts: the pending version becomes current, every node is set to its start and the roots fire; a patch doorbell
held since before the replay was accepted takes effect first (R38, R40, R246). -/
def Mach.startReplay (m : Mach) (gid : Nat) : Mach :=
  match m.graph? gid with
  | none => m
  | some g => match g.pend with
    | none => m
    | some r =>
      if g.running || r.afterPatch then m
      else
        let g := { g with
          pend := none, running := true, faulted := false, entry := r.entry, cls := r.cls, path := r.path, sys := r.sys
          nodesVa := r.nodesVa, count := r.count, parea := r.parea, psize := r.psize, cword := r.cword, cval := r.cval
          nodes := r.nodes, bounded := r.bounded, deadline := r.deadline, resv := r.resv, entries := r.entries
          cur := g.cur != g.pendVersion, pendVersion := false, areaReady := g.areaReady && !g.pendVersion }
        let m := m.putGraph g
        let m := (List.range g.nodes.length).foldl (fun m i => match g.nodes[i]? with
          | some n => m.setNode gid i n
          | none => m) m
        m.fireReady gid

/-- Admission of a replay that may be held or started (R385). -/
def Mach.admitReplay (m : Mach) (s : Submitter) (desc : Word) : Mach × ReplayAnswer :=
  match m.examineReplay s desc with
  | .error k => (m, .refused k)
  | .ok r => match m.boundReplay ((m.graphOf s.ctx desc).map Graph.id |>.getD (m.graphs.length + 1)) r with
    | .error k => (m, .refused k)
    | .ok r =>
      let x := m.enterGraph s r.entry desc
      let m := { x.1 with seqCount := x.1.seqCount + r.nodes.length }
      let m := m.reserve r.cls r.resv
      let wait := decide (0 < x.2.heldPatches)
      let m := m.putGraph { x.2 with pend := some { r with afterPatch := wait } }
      if x.2.running || wait then (m, .held) else (m.startReplay x.2.id, .started)

/-- A request for a replay: refused while a pending replay exists, held as the one pending replay, or started (R39, R248,
R385). -/
def Mach.requestReplay (m : Mach) (s : Submitter) (desc : Word) : Mach × ReplayAnswer :=
  match m.graphOf s.ctx desc with
  | some g =>
    if g.pend.isSome then (m, .full) else m.admitReplay s desc
  | none => m.admitReplay s desc

/-! ### Patches -/

/-- A patch is committed to the pending version, or held while the patch area is being copied (R40, R246). -/
def Mach.commitPatch (m : Mach) (g : Graph) : Mach :=
  if g.areaReady then m.putGraph { g with pendVersion := true } else m.setGraph { g with heldPatches := g.heldPatches + 1 }

/-- The copy of the current area into the patch area lands: bit 3 is set and held patches take effect (R246). -/
def Mach.copyArea (m : Mach) (gid : Nat) : Mach :=
  match m.graph? gid with
  | none => m
  | some g =>
    if g.areaReady then m
    else
      let src := g.parea.getD g.cur.toNat 0
      let dst := g.parea.getD (!g.cur).toNat 0
      let m := match m.admRead g.ctx g.entry src g.psize with
        | some b => m.ctxWrite 0 g.ctx g.entry dst b
        | none => m
      m.putGraph { g with areaReady := true, pendVersion := decide (0 < g.heldPatches), heldPatches := 0
                          pend := g.pend.map fun r => { r with afterPatch := false } }

end Sys2Proof.Machine
end

