-- ==== Sys2Proof/Machine/Swap.lean ====
section
/-! DEFINITION. Teams on cores: the choice of cores (R28, R281), windows and images (R26, R30, R61), swap-out and swap-in
(R30, R372, R382, R394), the pre-emption rule (R287), answers to registers (R248, R254). -/

namespace Sys2Proof.Machine

/-! ### Answers -/

/-- Runs an action as another continuation; a failure is held for its report point. -/
def Mach.runAs (m : Mach) (id : Nat) (a : Act Unit) : Mach :=
  let old := m.cur.id
  let x := m.switchTo id
  if x.cur.id ≠ id then m
  else match a x with
    | .ok (_, y) => y.switchTo old
    | .error (.trap t) =>
      ({ x with cur := x.cur.holdLate { trap := t, pc := x.cur.pc, insn := 0, slot := 7, eng := false } } : Mach).switchTo old
    | .error _ => m

/-- Writes a register field of a continuation from outside its bundles; the save area too where it is swapped out (R262). -/
def Mach.deliver (m : Mach) (id : Nat) (d : GF) (v : Word) : Mach :=
  match m.cont? id with
  | none => m
  | some c =>
    if d = 0 then m
    else if d.toNat < 24 then
      let m := m.setCont { c with g := vset c.g d.toNat v, gPoison := vset c.gPoison d.toNat none }
      if c.resident then m
      else match m.task? c.task with
        | some _ => m.putSave c (8 * d.toNat) (leBytes 8 v.toNat)
        | none => m
    else m.runAs id (pushStream 0 6 (d.toNat - 24) v)


/-- The oldest answer with a value reaches its register; that of a stolen member goes to the module that runs it (R293). -/
def Mach.answer (m : Mach) (id : Nat) : Mach :=
  match m.cont? id with
  | none => m
  | some c => match c.answers.find? fun a => a.value.isSome with
    | none => m
    | some a =>
      let m := m.setCont { c with answers := c.answers.erase a }
      match m.thiefOf c.task c.team.toNat with
      | some k => m.sendTo 2 k (.reply c.task c.team.toNat c.rank.toNat (some a.d) (a.value.getD 0))
      | none => m.deliver id a.d (a.value.getD 0)

/-! ### Cores and windows -/

/-- The members of a team in rank order. -/
def Mach.members (m : Mach) (task idx : Nat) : List Cont := (List.range 16).filterMap fun r => m.member? task idx r

/-- Continuations in the contexts of a core. -/
def Mach.onCore (m : Mach) (gcore : Nat) : List Cont := m.allConts.filter fun c => c.id ≠ 0 && c.resident && c.gcore == gcore

/-- The lowest free context of a core (R24). -/
def Mach.freeSlot (m : Mach) (gcore : Nat) : Option Nat :=
  (List.range 4).find? fun s => !((m.onCore gcore).any fun c => c.slot == s)

/-- Bytes of a core's scratchpad (R59). -/
def spadBytes : Nat := 6291456

/-- The lowest base at which a window fits between the windows of a core (R26, R59; log entry 27). -/
def Mach.freeWindow (m : Mach) (gcore limit : Nat) : Option Nat :=
  let l := (m.onCore gcore).map fun c => (c.winBase, c.winLimit)
  let ok := (0 :: l.map fun p => p.1 + p.2).filter fun b => decide (b + limit ≤ spadBytes) && l.all fun p => !(overlaps b limit p.1 p.2)
  match ok with
  | [] => none
  | b :: r => some (r.foldl min b)

/-- Whether a core can take a member (R28). -/
def Mach.coreFits (m : Mach) (gcore : Nat) (claim : Bool) (limit : Nat) : Bool :=
  (m.freeSlot gcore).isSome && (m.freeWindow gcore limit).isSome && !(claim && (m.onCore gcore).any fun c => c.claim)

/-- The sets of clusters of a die, fewest first. -/
def clusterSets : List (List Nat) :=
  [[0], [1], [2], [3], [0, 1], [0, 2], [0, 3], [1, 2], [1, 3], [2, 3], [0, 1, 2], [0, 1, 3], [0, 2, 3], [1, 2, 3], [0, 1, 2, 3]]

/-- The cores R281 chooses for a team: ascending, in the fewest clusters. -/
def Mach.chooseCores (m : Mach) (die n : Nat) (claim : Bool) (limit : Nat) : Option (List Nat) :=
  let ok := (m.enabledCores die).filter fun c => m.coreFits (16 * die + c) claim limit
  (clusterSets.find? fun s => decide (n ≤ (ok.filter fun c => s.contains (c / 4)).length)).map
    fun s => (ok.filter fun c => s.contains (c / 4)).take n

/-- Writes the sparse bytes of an image into a core's scratchpad, its other bytes zero. -/
def putImage (spad : Memory) (key limit : Nat) (image : Memory) : Memory :=
  image.foldl (fun s e => if e.1 < limit then Memory.put s (key + e.1) e.2 else s) (SMap.restrict (fun k => !(decide (key ≤ k ∧ k < key + limit))) spad)

/-- The sparse bytes of a range of a scratchpad, from zero. -/
def takeImage (spad : Memory) (key limit : Nat) : Memory :=
  (SMap.restrict (fun k => decide (key ≤ k ∧ k < key + limit)) spad).map fun e => (e.1 - key, e.2)

/-- A member takes a context and a window of a core: its image, or what was written to it before its first dispatch, is in
the window (R30, R61). A suspended continuation becomes runnable (R22). -/
def Mach.seat (m : Mach) (c : Cont) (core : Nat) : Mach :=
  let g := c.die * 16 + core
  match m.freeSlot g, m.freeWindow g c.winLimit with
  | some s, some b =>
    let key := skey g b
    let spad := if c.imaged then putImage m.mem.spad key c.winLimit c.image
      else c.early.foldl (fun (x : Memory) (w : Nat × Byte) => Memory.put x (key + w.1) w.2) m.mem.spad
    let marks := if c.imaged then SMap.restrict (fun k => !(decide (key / 64 ≤ k ∧ k < (key + c.winLimit) / 64))) m.mem.spadPoison else m.mem.spadPoison
    let marks := c.imagePoison.foldl (fun (x : SMap Bool) (e : Nat × Bool) => SMap.set false x (key / 64 + e.1) e.2) marks
    let held := SMap.restrict (fun k => !(decide (key ≤ k ∧ k < key + c.winLimit))) m.mem.spadHeld
    let m := { m with mem := { m.mem with spad := spad, spadPoison := marks, spadHeld := held } }
    m.recordCont { c with
      core := core, slot := s, winBase := b, resident := true, image := [], imaged := false, early := [], imagePoison := []
      state := if c.state = 4 then 1 else c.state }
  | _, _ => m

/-- A live block that has not filled does so, with its completion value; then it is written back and freed (R68, R166). -/
def Mach.retireBlock (m : Mach) (id n : Nat) : Mach :=
  match m.cont? id with
  | none => m
  | some c => (m.fillBlock c n).releaseBlock id n true

/-- A member leaves its core: commands and load-blocks land, registers go to the save area, the window to the image; a
running continuation is suspended (R22, R27, R30, R68). A member inside a handler overwrites what the save area held of the
reported bundle (log entry 63). -/
def Mach.unseat (m : Mach) (id : Nat) : Mach :=
  let m := (List.range 8).foldl (fun m k => m.retireBlock id k) (m.performed id)
  match m.cont? id with
  | none => m
  | some c =>
    let key := skey c.gcore c.winBase
    let m := m.saveRegs c
    m.recordCont { c with
      state := if c.state = 2 then 4 else c.state, resident := false, fmtOld := [], imaged := true, early := []
      image := takeImage m.mem.spad key c.winLimit
      imagePoison := (SMap.restrict (fun k => decide (key / 64 ≤ k ∧ k < (key + c.winLimit) / 64)) m.mem.spadPoison).map
        fun e => (e.1 - key / 64, e.2) }

/-! ### Swap-out -/

/-- Whether an attention read of a job is waiting for a fill (R57, R58). -/
def Mach.waitsFill (m : Mach) (j : Job) : Bool := m.reads.any fun r => r.who == .job j.id

/-- Whether every live load-block of a continuation has filled (R68). -/
def Cont.blocksFilled (c : Cont) : Bool :=
  c.blocks.toList.all fun b => match b with
    | some b => b.filled
    | none => true

/-- Whether step 2 of R30 holds of a team: matrix commands, jobs, load-block fills, a sequencer run and SIGCs of its members
are complete; an armed follow-on and a read that waits on a fill stay (R58, R166, R217, R275). -/
def Mach.teamIdle (m : Mach) (t : Team) : Bool :=
  (m.members t.task t.idx).all fun c =>
    c.mx.array.isEmpty && c.mx.tq1.isEmpty && c.sig.isEmpty && c.cursor.isNone && c.queue.isEmpty && c.blocksFilled &&
    (m.jobs.all fun j => j.cont ≠ c.id || j.st == .landed || m.waitsFill j) &&
    (m.seqs.all fun p => match p.2.run with
      | some r => r.cont ≠ c.id
      | none => true)

/-- PRMTs for a checkpoint of a task whose teams are all swapped out are answered (R254). -/
def Mach.answerPrmt (m : Mach) (q : Nat) : Mach :=
  if m.teams.any fun t => t.task == q && (match t.res with
      | .resident => true
      | .leaving _ _ => true
      | _ => false) then m
  else m.settlePrmts q 2

/-- A team is swapped out, by a time slice (`res` is `out`) or a checkpoint; a poisoned register is reported instead and ends
its task (R30, R31, R382). -/
def Mach.swapOut (m : Mach) (t : Team) (res : Res) : Mach :=
  match (m.members t.task t.idx).find? fun c => c.poisoned && decide (c.state.toNat < 6) with
  | some c => m.reportEnd c (c.report c.poisonTrap 7 0)
  | none =>
    let gone := (m.members t.task t.idx).map Cont.id
    let m := { m with reads := m.reads.filter fun r => match r.who with
      | .job n => !(match m.job? n with
        | some j => gone.contains j.cont
        | none => false)
      | .seq _ => true }
    let m := gone.foldl (fun m id => m.unseat id) m
    let m := if res = .out then m.setDie t.die { m.die t.die with owed := true } else m
    (m.setTeam { t with res := res, since := m.cyc t.die }).answerPrmt t.task

/-- A resident team stops issuing; its swap waits for its work (R30). -/
def Mach.beginLeave (m : Mach) (t : Team) (ckpt : Bool) : Mach := m.setTeam { t with res := .leaving (m.cyc t.die) ckpt }

/-- A swap-out is given up: issue resumes; a checkpoint becomes a drain, which answers PRMT with 3 (R392). -/
def Mach.abandonSwap (m : Mach) (t : Team) (ckpt : Bool) : Mach :=
  let m := m.setTeam { t with res := .resident }
  if !ckpt then m
  else
    let m := match m.task? t.task with
      | some k => m.setTask { k with draining := k.draining ++ [t.die] }
      | none => m
    let mine := m.prmts.filter fun p => p.task == t.task
    let m := m.settlePrmts t.task 3
    if mine.isEmpty then m
    else { m with teams := m.teams.map fun x => if x.task = t.task then (match x.res with
      | .leaving _ true => { x with res := .resident }
      | .parked => { x with res := .out }
      | _ => x) else x }

/-! ### Becoming resident -/

/-- Frees the contexts of teams of a die whose members have all ended and whose jobs are complete (R26, R28). -/
def Mach.retireTeams (m : Mach) (die : Nat) : Mach :=
  m.teams.foldl (fun m t =>
    if t.die = die ∧ t.res = .resident ∧ (m.members t.task t.idx).all (fun c => decide (6 ≤ c.state.toNat) &&
        m.jobs.all fun j => j.cont ≠ c.id || j.st == .landed) then
      ((m.members t.task t.idx).foldl (fun m c => m.setCont { c with resident := false }) m).setTeam { t with res := .ended }
    else m) m

/-- What the module needs of a team's kernel header: claim and window. -/
def Mach.teamNeeds (m : Mach) (t : Team) : Bool × Nat :=
  match (m.members t.task t.idx).head? with
  | some c => (c.claim, c.winLimit)
  | none => (false, 0)

/-- The cores a team would take now. -/
def Mach.coresFor (m : Mach) (t : Team) : Option (List Nat) :=
  m.chooseCores t.die t.size (m.teamNeeds t).1 (m.teamNeeds t).2

/-- Whether the placement map no longer allows a team (R394). -/
def Mach.excluded (m : Mach) (t : Team) : Bool := !(bit (m.plEntry t.die) 16) || decide ((m.enabledCores t.die).length < t.size)

/-- A member whose record in memory reads an impossible state (R22). -/
def Mach.badRecord (m : Mach) (c : Cont) : Bool :=
  match m.task? c.task with
  | none => false
  | some _ => decide (8 ≤ leNat (m.mem.read c.die (c.recPa + 6) 1))

/-- Ends the task of a team that may not become resident: excluded by the map, or a bad record (R22, R394). -/
def Mach.admitCheck (m : Mach) (t : Team) : Option Cause :=
  if m.excluded t then some 0x5006
  else if (m.members t.task t.idx).any fun c => m.badRecord c then some 0x5001
  else none

/-- Bytes of a region as its task would find them: the current version, or the mapped pages (R37). -/
def Mach.regionBytes (m : Mach) (d : Nat) (t : Task) (r : Region) : List Byte :=
  match resolveWith m.paFault (fun a => match renamed t.seen a.toNat with
      | some p => .ok p true 0
      | none => m.xlate d t.ctx t.entry true a .read) (parts r.base.toNat r.len) with
  | .ok ps => m.mem.readParts d ps
  | _ => []

/-- Where the `n`-th version lies: 64 KiB aligned, in the HBM of a die (R37; log entry 22). -/
def versionAt (d n : Nat) : Nat := d * 2 ^ 36 + alignDown (Config.versionPa n) 65536 % 2 ^ 36

/-- A new version of a renamable region: zero where it is whole-write, else a copy of the current one (R37). -/
def Mach.newVersion (m : Mach) (t : Task) (r : Region) : Mach × Task :=
  let d := t.place.headD 0
  let pa := versionAt d m.freeCount
  let bytes := if r.whole then List.replicate r.len 0 else m.regionBytes d t r
  ({ m with mem := m.mem.landParts d [(pa, r.len)] bytes false, freeCount := m.freeCount + 1 },
    { t with fresh := t.fresh ++ [(r.base, r.len, pa)] })

/-- A task's first team is dispatched: it sees the versions that are current now, those of its first attempt where it runs
again after a failure, and gets its own new ones (R37, R99, R388); the count of each of its dies is noted (R287). -/
def Mach.firstDispatch (m : Mach) (t : Task) : Mach :=
  let seen := if t.again then t.seen else (m.versions.filter fun v => v.1 = t.ctx.toNat).map fun v => (v.2.1, v.2.2.1, v.2.2.2)
  let t : Task := { t with
    seen := seen, fresh := [], tstate := 2
    began := t.place.foldl (fun (b : SMap Nat) d => SMap.set 0 b d (m.cyc d)) [] }
  let r := (t.fp.filter fun r => r.ren).foldl (fun (x : Mach × Task) r => x.1.newVersion x.2 r) (m, t)
  (r.1.setTask r.2).putTaskState r.2 0

/-- A team becomes resident on chosen cores; its task's first dispatch observes what the task follows and fixes the versions
it sees (R28, R37, R95, R281). -/
def Mach.makeResident (m : Mach) (t : Team) (cores : List Nat) : Mach :=
  let m := ((m.members t.task t.idx).zip cores).foldl (fun m p => match m.cont? p.1.id with
    | some c => m.seat c p.2
    | none => m) m
  let m := m.setTeam { t with res := .resident, since := m.cyc t.die }
  let m := m.setDie t.die { m.die t.die with owed := false }
  match m.task? t.task with
  | none => m
  | some k =>
    let d := k.place.headD 0
    let m := { m with mem := (m.mem.catchUp t.die (m.mem.stampOf 0)).catchUp t.die (m.mem.stampOf d) }
    if k.tstate = 2 then m else m.firstDispatch k

/-! ### Order and pre-emption -/


/-- The first of a list of teams in the order of R277. -/
def Mach.firstTeam (m : Mach) (l : List Team) : Option Team :=
  l.foldl (fun best t => match best with
    | none => some t
    | some b => match m.task? t.task, m.task? b.task with
      | some x, some y => if servedFirst x y t.idx b.idx then some t else some b
      | _, _ => some b) none

/-- Whether a task may still be killed or checkpointed under its policy (R41): the outcome the restriction gives, as 1 kill,
2 checkpoint, 3 drain. -/
def restrict (pol out : Nat) : Nat :=
  if pol = 2 then 3
  else if out = 1 ∧ pol = 1 then 2
  else if out = 2 ∧ pol = 3 then 3
  else out

/-- The outcome R287 chooses for a victim on a die, before the restriction. -/
def Mach.chooseOutcome (m : Mach) (die : Nat) (v : Task) : Nat :=
  let w := (m.die die).pmthr.toNat
  let x := m.cyc die - SMap.get 0 v.began die
  if m.estimate v ≤ bits w 27 0 then 3 else if x ≤ bits w 55 28 then 1 else 2

/-- Carries an outcome out on the teams of a die, or of every die: 1 kill, 2 checkpoint, 3 drain (R41). -/
def Mach.carryOut (m : Mach) (v : Task) (out : Nat) (die : Option Nat) : Mach :=
  if out = 1 then m.kill v.seq true
  else if out = 2 then
    m.teams.foldl (fun m t =>
      if t.task = v.seq ∧ t.res = .resident ∧ (die.isNone ∨ die = some t.die) then m.beginLeave t true else m) m
  else match die with
    | some d => m.setTask { v with draining := v.draining ++ [d] }
    | none => m

/-- R287 for a newcomer that cannot become resident on a die; a victim that is leaving or draining is waited for;
`none` where nothing is pre-empted. -/
def Mach.preempt (m : Mach) (die : Nat) (newcomer : Task) : Option Mach :=
  let here := m.teams.filter fun t => t.die == die
  let busy := here.any fun t => (match t.res with
      | .leaving _ _ => true
      | _ => false) || (t.res == .resident && match m.task? t.task with
      | some k => k.draining.contains die
      | none => false)
  if busy then none
  else
    let victims := m.tasks.filter fun k => k.stage ≠ .ended && k.seq ≠ newcomer.seq && here.any fun t => t.task == k.seq && t.res == .resident
    let pick := victims.foldl (fun (best : Option Task) k => match best with
      | none => some k
      | some b => if k.prio < b.prio ∨ (k.prio = b.prio ∧ b.seq < k.seq) then some k else some b) none
    match pick with
    | none => none
    | some v =>
      if !(newcomer.bounded && !v.bounded) && decide (newcomer.prio ≤ v.prio + bits (m.die die).pmthr.toNat 58 56) then none
      else some <| m.carryOut v (restrict (m.policy v) (m.chooseOutcome die v)) (some die)

end Sys2Proof.Machine
end

