-- ==== Sys2Proof/Machine/Stop.lean ====
section
/-! DEFINITION. The end of a task (R35, R37, R99), queues as a stop holds them, the consistent stop (R289, R290, R395). -/

namespace Sys2Proof.Machine

/-! ### The end of a task -/

/-- Whether every continuation of a task has ended, every SIGC has written and every job is complete; an armed follow-on holds
nothing open (R35, R156). -/
def Mach.taskDone (m : Mach) (t : Task) : Bool :=
  t.stage == .dispatch && t.tstate == 2 &&
    (m.allConts.all fun c => c.id = 0 || c.task ≠ t.seq || (c.state == 6 && c.sig.isEmpty)) &&
    (m.jobs.all fun j => j.task ≠ t.seq || j.st == .landed)

/-- A task completes: versions switch in one step, reservation and leases end, tstate 3, then the completion word as a
release, then its node's successors; its records are released (R22, R35, R37, R38, R74, R99, R244, R284). -/
def Mach.finishTask (m : Mach) (t : Task) : Mach :=
  let d := t.place.headD 0
  let m := (m.allConts.filter fun c => c.id ≠ 0 && c.task == t.seq).foldl (fun (m : Mach) (c : Cont) => m.performed c.id) m
  let m : Mach := (m.unreserve t.cls t.resv).clearRx fun x => bit x.word.toNat 63 && x.task == t.seq
  let m : Mach := { m with versions := t.fresh.map (fun (v : Word × Nat × Nat) => (t.ctx.toNat, v.1, v.2.1, v.2.2)) ++ m.versions }
  let t' : Task := { t with tstate := 3, stage := .ended, leased := false, entered := false, resv := [], fresh := [] }
  let m : Mach := ((m.settlePrmts t.seq 0).setTask t').grantEntries.putTaskState t' 0
  let m : Mach := { m with mem := (t.place.foldl (fun (x : Mem) e => x.catchUp d (m.mem.stampOf e)) m.mem).catchUp 0 (m.mem.stampOf d) }
  let m := if t.cword = 0 then m else m.ctxWrite d t.ctx t.entry t.cword (leBytes 8 t.cval.toNat)
  let m : Mach := { m with mem := m.mem.catchUp 0 (m.mem.stampOf d) }
  let m := (m.stopWork t.seq).releaseRecords t.seq
  let m : Mach := { m with teams := m.teams.filter fun x : Team => x.task ≠ t.seq }
  match t.node with
  | some (g, i) => m.nodeDone g i
  | none => m

/-- A stolen team is over: once every page its origin lent is given back, its members' DONE is reported there (R292, R293). -/
def Mach.finishGuest (m : Mach) (t : Task) (g : GuestId) : Mach :=
  if m.lent.any fun l => l.task == t.seq then m
  else (m.sendTo 2 g.origin (.done g.task g.team)).dropGuest t.seq 0

/-- TASK_COMPLETION: an imprecise failure still pending is reported first (R35, R351). -/
def Mach.completeTask (m : Mach) (q : Nat) : Mach :=
  match m.task? q with
  | none => m
  | some t =>
    if !m.taskDone t then m
    else match m.allConts.findSome? fun c => if c.id ≠ 0 ∧ c.task = q then c.imprecise.map fun i => (c, i) else none with
      | some (c, i) => m.reportEnd c { trap := i.trap, pc := i.pc, fslot := i.slot, imp := true, eng := i.eng, sys := c.sysMode
                                       insn := i.insn, die := c.die, core := c.core }
      | none => match t.guest with
        | some g => m.finishGuest t g
        | none => m.finishTask t

/-! ### The consistent stop -/

/-- Tasks of a context that have not ended; a team of another module has its context there (R293). -/
def Mach.ctxTasks (m : Mach) (ctx : BitVec 12) : List Task :=
  m.tasks.filter fun t => t.ctx == ctx && t.stage ≠ .ended && t.guest.isNone

/-- Whether a task has an entry in flight in an engine, a tile queue, a sequencer or a link lane (R290, R395). -/
def Mach.inFlight (m : Mach) (q : Nat) : Bool :=
  (m.jobs.any fun j => j.task == q) ||
    (m.allConts.any fun c => c.id ≠ 0 && c.task == q &&
      (!c.mx.array.isEmpty || !c.mx.tq1.isEmpty || !c.sig.isEmpty || !c.queue.isEmpty || c.cursor.isSome)) ||
    (m.seqs.any fun p => p.2.run.map Run.task == some q) || (m.links.any fun f => f.body.task? == some q)

/-- Whether notices and states of other modules still wait in receiver queues for slots of a context (R290). -/
def Mach.foreignExits (m : Mach) (ctx : BitVec 12) : Bool :=
  let mine := fun (die slot : Nat) => (m.slotEntry? die slot).any fun e => e.ctx == ctx
  (m.notices.any fun n => n.job.isNone && mine n.die (bits n.word.toNat 47 40)) ||
    (m.exitStates.any fun s => s.job.isNone && mine s.die s.slot)

/-- The modules that run teams of a context hear that a stop holds them, or that it is over (R290). -/
def Mach.haltStolen (m : Mach) (ctx : BitVec 12) (held : Bool) : Mach :=
  m.teams.foldl (fun m t => match t.res, m.task? t.task with
    | .stolen k, some q => if q.ctx = ctx then m.sendTo 2 k (.halt t.task t.idx held) else m
    | _, _ => m) m

/-- The cut: resident teams of the context are checkpointed, stolen ones on the module that holds them, its reservations are
released, phase 3 (R290). -/
def Mach.stopCut (m : Mach) : Mach :=
  let ctx := m.regs.stopCtx
  let m := m.teams.foldl (fun m t => match m.task? t.task with
    | some k => if k.ctx = ctx ∧ k.stage ≠ .ended then (match t.res with
        | .resident => m.swapOut t .parked
        | .leaving _ _ => m.swapOut t .parked
        | _ => m) else m
    | none => m) m
  let m := m.haltStolen ctx true
  let m := (m.ctxTasks ctx).foldl (fun m t => (m.unreserve t.cls t.resv).setTask { t with resv := [], bounded := false }) m
  let m := (m.graphs.filter fun g => g.ctx == ctx).foldl (fun m g =>
    let m := m.unreserve g.cls g.resv
    let m := match g.pend with
      | some r => m.unreserve r.cls r.resv
      | none => m
    m.setGraph { g with resv := [], entries := 0, bounded := false, pend := g.pend.map fun r => { r with resv := [], entries := 0, bounded := false } }) m
  { m with regs := { m.regs with stopPhase := 3 } }

/-- STOP with req = 1: the sources of a context are held; at any other phase the write is discarded (R289). -/
def Mach.beginStop (m : Mach) (ctx : BitVec 12) : Mach :=
  if m.regs.stopPhase ≠ 0 ∨ m.regs.stopReq ∨ m.regs.ctxcnt.toNat ≤ ctx.toNat then m
  else { m with regs := { m.regs with stopReq := true, stopCtx := ctx } }

/-- Whether a queue of a context holds rung entries that the module has not read and can read: its completion ring has a free
slot (R299, R300). -/
def Queue.unread (q : Queue) (ctx : BitVec 12) : Bool :=
  q.en && decide (bits q.entry.toNat 59 48 = ctx.toNat) && q.tail ≠ q.head &&
    decide ((BitVec.ofNat 32 q.comps - q.chead).toNat < 2 ^ bits q.entry.toNat 47 44)

/-- Every source has stopped: phase 1, once the entries rung before the stop have been read, from which the drain begins
(R290). -/
def Mach.stopSources (m : Mach) : Mach :=
  if !m.regs.stopReq then m
  else if m.regs.stopPhase = 0 then
    if m.queues.any fun p => p.2.unread m.regs.stopCtx then m else { m with regs := { m.regs with stopPhase := 1 } }
  else if m.regs.stopPhase = 1 then { m with regs := { m.regs with stopPhase := 2, stopBegan := m.cyc 0 } }
  else m

/-- The drain is complete: the cut follows (R290). -/
def Mach.stopDrained (m : Mach) : Mach :=
  if m.regs.stopPhase = 2 ∧ !(m.foreignExits m.regs.stopCtx) ∧ (m.ctxTasks m.regs.stopCtx).all (fun t => !(m.inFlight t.seq)) then
    m.stopCut else m

/-- The limit of phase 2: tasks with an entry in flight end with 0x5003, then the cut (R395). -/
def Mach.stopTimeout (m : Mach) : Mach :=
  if m.regs.stopPhase = 2 ∧ m.regs.stopBegan + 16 * (m.die 0).sliceq.toNat ≤ m.cyc 0 then
    (((m.ctxTasks m.regs.stopCtx).filter fun t => m.inFlight t.seq).foldl
      (fun (m : Mach) t => m.endTask t.seq { trap := { cause := 0x5003 }, die := t.place.headD 0 }) m).stopCut
  else m

/-- A write of STOP with req = 0: at phase 3 it resumes; ctx takes the written number, below CTXCNT; at phases 1 and 2 it is
discarded (R289). -/
def Mach.putStopCtx (m : Mach) (ctx : BitVec 12) : Mach :=
  if m.regs.stopPhase ≠ 0 ∨ m.regs.stopReq ∨ m.regs.ctxcnt.toNat ≤ ctx.toNat then m
  else { m with regs := { m.regs with stopCtx := ctx } }

/-- STOP with req = 0 at phase 3: sources reopen, teams may return, waiting nodes fire (R289, R290, R395). -/
def Mach.resumeStop (m : Mach) : Mach :=
  let ctx := m.regs.stopCtx
  if m.regs.stopPhase = 0 then { m with regs := { m.regs with stopReq := false } }
  else if m.regs.stopPhase ≠ 3 then m
  else
    let m : Mach := { m with
      regs := { m.regs with stopPhase := 0, stopReq := false }
      teams := m.teams.map fun (t : Team) => if t.res = .parked ∧ (m.task? t.task).map Task.ctx = some ctx then { t with res := .out } else t
      queues := m.queues.map fun (p : Nat × Queue) => (p.1, match p.2.held with
        | some x => if bits p.2.entry.toNat 59 48 = ctx.toNat then { p.2 with tail := x, held := none } else p.2
        | none => p.2) }
    (m.graphs.filter fun g => g.ctx == ctx).foldl (fun m g => (m.fireReady g.id).replayEnd g.id) (m.haltStolen ctx false)

end Sys2Proof.Machine
end

