-- ==== Sys2Proof/Machine/Guest.lean ====
section
/-! DEFINITION. Teams that run at another module than their own: what the thief does with an image that lands, the accesses
its port asks the origin for, the end of the team (R292, R293, R397); what the origin does with what the thief sends; copies
of other modules that reach memory here (R53, R101). -/

namespace Sys2Proof.Machine

/-! ### The thief -/

/-- The number of the stand-in task of a stolen team: beyond every sequence number (R282; log entry 73). -/
def guestKey (n : Nat) : Nat := 2 ^ 64 + n

/-- The stand-in task of a stolen team: its own task, with its context, leases and record, stays at the origin (R293). -/
def guestTask (x : Inbound) (die key : Nat) : Task :=
  { seq := key, prio := x.prio, path := x.prio, teams := x.teams, size := x.members.length, place := [die], accDie := die, tstate := 2
    stage := .dispatch, leased := true, fp := [{ base := 0, len := 2 ^ 64, wr := true, ren := false, whole := false }]
    guest := some { origin := x.origin, task := x.task, team := x.team } }

/-- A member of a stolen team, with its record and its save area here (R21, R27, R292). -/
def Mach.guestMember (m : Mach) (die key : Nat) (c : Cont) : Mach :=
  let n := m.freeCount
  let c := { c with
    id := m.nextId, task := key, die := die, resident := false, since := m.order
    recPa := inDieHbm die (Config.recordPa c.ctx.toNat n) 64
    savePa := inDieHbm die (Config.savePa c.ctx.toNat n) 256 }
  (({ m with conts := m.conts ++ [c], nextId := m.nextId + 1, freeCount := m.freeCount + 1 } : Mach).putRecord c).saveRegs c

/-- An image that has landed whole is a team that waits on the die its request named (R281, R292). -/
def Mach.landTeam (m : Mach) (x : Inbound) (die : Nat) : Mach :=
  let key := guestKey m.freeCount
  let t := guestTask x die key
  let m : Mach := { m with
    freeCount := m.freeCount + 1
    inbound := m.inbound.filter fun y => y ≠ x
    tasks := m.tasks ++ [t]
    teams := m.teams ++ [{ task := key, idx := x.team, die := die, size := t.size, res := .out, since := m.cyc die }]
    guests := m.guests ++ [{ origin := x.origin, die := die, tag := x.tag, size := t.size, key := key }] }
  (x.members.foldl (fun (m : Mach) c => m.guestMember die key c) m).sendTo 2 x.origin (.stealAck x.tag)

/-- A task here that stands for a stolen team. -/
def Mach.guest? (m : Mach) (key : Nat) : Option GuestId := (m.task? key).bind Task.guest

/-- The port asks the origin for the accesses of a stolen team to a page (R293). -/
def Mach.guestAsk (m : Mach) (key page : Nat) (write : Bool) : Mach :=
  match m.guest? key with
  | some g => m.sendTo 2 g.origin (.ask g.task g.team page write)
  | none => m

/-- The origin answers for a page: while it is lent the origin makes no other access to it (R293; log entry 73). -/
def Mach.lendPage (m : Mach) (key page : Nat) (perm : BitVec 3) (cause : Cause) (bytes : List Byte) : Mach :=
  if (m.guest? key).isNone || decide (page % 65536 ≠ 0 ∨ 65536 < bytes.length) || m.lent.any (fun l => l.task == key && l.page == page) then m
  else
    let slot := m.freeCount % 2 ^ 32
    { m with
      freeCount := m.freeCount + 1
      lent := m.lent ++ [{ task := key, page := page, slot := slot, perm := perm, cause := cause }]
      mem := m.mem.write 0 (farBase + 65536 * slot) (bytes ++ List.replicate (65536 - bytes.length) 0) false }

/-- The port gives a page back, with what the team has written (R293). -/
def Mach.giveBack (m : Mach) (key page : Nat) : Mach :=
  match m.guest? key, m.lent.find? fun l => l.task == key && l.page == page with
  | some g, some l =>
    ({ m with lent := m.lent.filter fun y => y ≠ l } : Mach).sendTo 2 g.origin
      (.back g.task g.team page (if l.perm.getLsbD 0 then m.mem.read 0 (farBase + 65536 * l.slot) 65536 else []))
  | _, _ => m

/-- The member of a stolen team here by its rank. -/
def Mach.guestMember? (m : Mach) (key rank : Nat) : Option Cont := (m.guest? key).bind fun g => m.member? key g.team rank

/-- The origin's answer to a request reaches its register; with none, the confirmation a member holds for (R248, R259, R293). -/
def Mach.guestReply (m : Mach) (key rank : Nat) (d : Option GF) (v : Word) : Mach :=
  match m.guestMember? key rank, d with
  | none, _ => m
  | some c, none => m.setCont { c with inTlbcnf := false }
  | some c, some d => m.fillAnswer c.id d v

/-- A member that waits is woken by its origin (R294). -/
def Mach.guestWake (m : Mach) (key rank : Nat) : Mach :=
  match m.guestMember? key rank with
  | none => m
  | some c => if c.state = 3 then (m.recordCont { c with state := 1, past := m.mem.stampOf c.die }).pick c.gcore else m

/-- A team's task has ended at its origin: the team stops here, and an image that is still landing is discarded (R397). -/
def Mach.guestEnd (m : Mach) (origin task team : Nat) : Mach :=
  let mine := fun (g : GuestId) => g.origin == origin && g.task == task && g.team == team
  let m : Mach := { m with inbound := m.inbound.filter fun x => !(x.origin == origin && x.task == task && x.team == team) }
  ((m.tasks.filter fun t => t.guest.any mine).foldl (fun (m : Mach) (t : Task) => m.dropGuest t.seq 0) m).pickAll

/-- A stop at the origin: the team is checkpointed here, and stays so until the stop is over (R290). -/
def Mach.guestHalt (m : Mach) (origin task team : Nat) (held : Bool) : Mach :=
  (m.tasks.filter fun t => t.guest.any fun g => g.origin == origin && g.task == task && g.team == team).foldl (fun (m : Mach) (t : Task) =>
    let m := m.setTask { t with guest := t.guest.map fun g => { g with halted := held } }
    if held then m.teams.foldl (fun m x => if x.task = t.seq ∧ x.res = .resident then m.beginLeave x true else m) m else m) m

/-- A write of a member's window that the origin forwards (R293). -/
def Mach.guestWindow (m : Mach) (key rank off : Nat) (bytes : List Byte) (poison : Bool) : Mach :=
  match m.guestMember? key rank with
  | none => m
  | some c => m.winWrite c off bytes poison

/-- A member's window bytes go to the origin, for an access there (R293). -/
def Mach.guestGive (m : Mach) (key rank off n : Nat) : Mach :=
  match m.guest? key, m.guestMember? key rank with
  | some g, some c => m.sendTo 2 g.origin (.given g.task g.team rank off (m.winRead c off n))
  | _, _ => m

/-! ### The origin -/

/-- Whether the module that sends traffic of lane 2 has notices here that are still to be processed: what it sent later is
held behind them (R53). -/
def Mach.noticesFrom (m : Mach) (src : Nat) : Bool := m.notices.any fun n => n.job.isNone && bits n.word.toNat 15 8 == src

/-- The thief reports that a team's members have all ended (R293). -/
def Mach.memberDone (m : Mach) (q n : Nat) : Mach :=
  match m.team? q n, m.thiefOf q n with
  | some t, some _ =>
    let m := (m.members q n).foldl (fun (m : Mach) c => if c.state.toNat < 6 then m.recordCont { c with state := 6 } else m) m
    (m.clearRx fun r => bit r.word.toNat 63 && r.task == q && r.team == n).setTeam { t with res := .ended }
  | _, _ => m

/-- The thief reports a fault of a member: its trap record stands here, and its task ends (R293, R354). -/
def Mach.memberFault (m : Mach) (q n rank : Nat) (cause : Cause) (record : List Byte) (imp eng : Bool) : Mach :=
  match m.team? q n, m.thiefOf q n, m.member? q n rank with
  | some t, some _, some c =>
    let trap : Trap := { cause := cause, faddr := toW (leAt record 16 8), info := toW (leAt record 32 8) }
    ((m.putTrapRecord c record).setTeam { t with res := .ended }).endTask q
      { trap := trap, pc := BitVec.ofNat 48 (leAt record 0 6), fslot := BitVec.ofNat 3 (leAt record 8 1), imp := imp, eng := eng
        die := c.die, rank := rank }
  | _, _, _ => m

/-- The thief's scheduler has chosen to kill a stolen team's task (R287, R293). -/
def Mach.memberKilled (m : Mach) (q n : Nat) : Mach := if (m.thiefOf q n).isSome then m.kill q true else m

/-- A stolen member waits on a word of the origin's memory (R23, R294). -/
def Mach.memberArm (m : Mach) (q n rank : Nat) (addr : Word) (value : W32) (cond : BitVec 3) : Mach :=
  match m.thiefOf q n, m.member? q n rank with
  | some _, some c => m.recordCont { c with state := 3, waddr := addr, wval := value, wcond := cond }
  | _, _ => m

/-- The thief gives bytes of a member's window for an access here (R293; log entry 73). -/
def Mach.memberWindow (m : Mach) (q n rank off : Nat) (bytes : List Byte) : Mach :=
  match m.thiefOf q n, m.member? q n rank with
  | some _, some c => m.setCont { c with imaged := true, given := true, image := c.image.puts off bytes }
  | _, _ => m

/-- The thief takes a member's window back (R293; log entry 73). -/
def Mach.memberTaken (m : Mach) (q n rank : Nat) : Mach :=
  match m.member? q n rank with
  | some c => m.setCont { c with given := false }
  | none => m

/-! ### Copies of other modules -/

/-- A payload of a copy of another module lands, behind the notices that module has sent (R53, R98, R101). -/
def Mach.podPayload (m : Mach) (src : Byte) (pa : Nat) (bytes : List Byte) : Mach :=
  if m.noticesFrom src.toNat || (m.paFault pa).isSome || (m.paFault (pa + (bytes.length - 1))).isSome then m
  else { m with mem := m.mem.landParts (homeOf pa) [(pa, bytes.length)] bytes false }

/-- Its completion word: a release at pod scope, which covers every payload that module has landed here (R53, R81, R101). -/
def Mach.podCompletion (m : Mach) (src : Byte) (pa : Nat) (v : Word) : Mach :=
  if m.noticesFrom src.toNat || (m.paFault pa).isSome || decide (pa % 8 ≠ 0) then m
  else { m with mem := (m.mem.gather (homeOf pa)).write (homeOf pa) pa (leBytes 8 v.toNat) false }

end Sys2Proof.Machine
end

