-- ==== Sys2Proof/Machine/Start.lean ====
section
/-! DEFINITION. Start-up and recovery: stages (R304, R410, R411), the scalar run of Stage 0 (R306), firmware (R305), resets of
the module and of a die (R415, R416), die failure (R355, R418); queues as QCTL latches them (R298); the migration
arbiter (R379, R380). -/

namespace Sys2Proof.Machine

/-! ### Stages -/

/-- A return to Stage 0 with a failure code: all work ends and no memory content is kept (R410, R411; log entry 1). -/
def Mach.toStage0 (m : Mach) (code : Byte) (dies : Word) : Mach :=
  { ({} : Mach) with
    nextId := m.nextId, nextJob := m.nextJob, nextCmd := m.nextCmd
    dies := m.dies.map fun (p : Nat × Die) => (p.1, { p.2 with rx := Vector.replicate 64 {}, failed := false, tripped := false })
    seqCount := m.seqCount, gridCount := m.gridCount, now := m.now, ahead := m.ahead, freeCount := m.freeCount, order := m.order, out := m.out
    regs := { m.regs with
      stage := 0, ready := false, failCode := code, sfail := dies, fwrun := false, stopReq := false, stopPhase := 0
      ebstat := Vector.replicate 16 0, ebDown := 0, scrun := m.regs.scrun } }

/-- A module reset: as power-good, with DIEOFF kept and code 0x40 (R416). -/
def Mach.moduleReset (m : Mach) : Mach :=
  { ({} : Mach) with
    out := m.out, freeCount := m.freeCount
    regs := { ({} : Regs) with dieoff := m.regs.dieoff, failCode := 0x40 } }

/-- Stage 1 begins: DIEOFF is taken, clocks are zero, CYC starts (R304, R413). -/
def Mach.beginStage1 (m : Mach) : Mach :=
  { m with
    now := 0, ahead := []
    mem := { m.mem with clock := [], held := [], flight := [], spadHeld := [] }
    dies := m.dies.map fun (p : Nat × Die) => (p.1, { p.2 with quantumEnd := p.2.sliceq.toNat })
    bobbin := {}
    regs := { m.regs with stage := 1, withheld := m.regs.dieoff } }

/-- The die of an Ebnas port (R15). -/
def ebnasDie (chip : Nat) : Nat := if chip < 8 then 8 * chip else 8 * (chip - 8) + 7

/-- The die of a pod-link port (R15). -/
def podDie (port : Nat) : Nat := if port < 6 then port + 1 else port + 51

/-- The module is up: staging and sequencers at their reset, ports as training left them (R78, R263, R303, R304, R413). -/
def Mach.becomeReady (m : Mach) (chips : BitVec 16) : Mach :=
  { m with
    seqs := []
    dies := m.dies.map fun (p : Nat × Die) => (p.1, { p.2 with stgb0 := 0, stgb1 := 0, stgs0 := 0, stgs1 := 0, stgst := 0 })
    regs := { m.regs with
      ready := true
      ebDown := 0
      podUp := BitVec.ofNat 12 ((List.range 12).map fun k => oneBit (!(m.isWithheld (podDie k))) k).sum
      ebstat := Vector.ofFn fun k => if chips.getLsbD k.val && !(m.isWithheld (ebnasDie k.val)) then 0x801 else 0 } }

/-! ### Firmware and the scalar run of Stage 0 -/

/-- FWCMD = 1: authentication starts, in Stage 0 only (R305). -/
def Mach.beginAuth (m : Mach) : Mach :=
  if m.regs.stage ≠ 0 ∨ m.regs.fwrun then m
  else { m with regs := { m.regs with fwrun := true, fwstat := toW (putBits m.regs.fwstat.toNat 7 0 1) } }

/-- FWSTAT's code of what authentication finds (R307). -/
def fwCode : FwResult → Nat
  | .passed => 2
  | .badSignature => 3
  | .badVersion => 4
  | .badLength => 5

/-- Authentication ends; an image whose length breaks FWLEN's limits cannot pass (R305, R307). -/
def Mach.endAuth (m : Mach) (r : FwResult) : Mach :=
  if !m.regs.fwrun then m
  else
    let r := if m.regs.fwlen.toNat < 4096 ∨ spadBytes < m.regs.fwlen.toNat then .badLength else r
    let m := { m with regs := { m.regs with fwrun := false, fwstat := toW (putBits m.regs.fwstat.toNat 7 0 (fwCode r)) } }
    if r = .passed then m.beginStage1 else m

/-- SCRUN: a scalar run starts on core 0 of die 0 in the scratchpad (R306). -/
def Mach.startScalar (m : Mach) (v : Word) : Mach :=
  if m.regs.stage ≠ 0 ∨ m.allConts.any (fun c => c.id ≠ 0 && c.stage0 && c.resident) then m
  else
    let c : Cont := { id := m.nextId, pc := BitVec.ofNat 48 (bits v.toNat 22 0), state := 1, stage0 := true, resident := true
                      winLimit := spadBytes, since := m.order }
    { m with
      conts := m.conts ++ [c]
      nextId := m.nextId + 1
      regs := { m.regs with scrun := toW (bits v.toNat 22 0) } }

/-! ### Die failure and die reset -/

/-- A die fails: every task with a team on it ends with 0x6004 and one entry of severity 3 is made; on die 0 the module
returns to Stage 0 (R355, R410, R414, R418). -/
def Mach.failDie (m : Mach) (d : Nat) (code0 : Byte) : Mach :=
  if d = 0 then m.toStage0 code0 0
  else
    let m := m.setDie d { m.die d with failed := true }
    let m := (m.tasks.filter fun t => t.stage ≠ .ended && m.teams.any fun x => x.task == t.seq && x.die == d).foldl
      (fun (m : Mach) (t : Task) => m.endTask t.seq { trap := { cause := 0x6004 }, die := d }) m
    m.logError { cause := 0x6004 } { severity := 3, die := d }

/-- The elig bit of a die as the placement map holds it (R279). -/
def Mach.mapElig (m : Mach) (d : Nat) : Bool :=
  m.regs.plmap = 0 || bit (leNat (m.mem.read 0 (m.regs.plmap.toNat + 8 * d) 8)) 16

/-- Temperature of a die in 1/8 °C, as PWRSTAT holds it (R307). -/
def Die.temp (x : Die) : Nat := bits x.pwrstat.toNat 31 16

/-- DRST: refused while the die is eligible, holds a team, or is too hot after a trip; die 0 and a reset in progress discard
it (R415, R418, R419). -/
def Mach.beginDieReset (m : Mach) (d : Nat) : Mach :=
  let x := m.die d
  if d = 0 ∨ 64 ≤ d ∨ x.rstat = 1 ∨ m.isWithheld d then m
  else if m.mapElig d ∨ m.teams.any (fun t => t.die == d && (match t.res with
      | .resident => true
      | .leaving _ _ => true
      | _ => false)) ∨ (x.tripped ∧ bits x.thrm.toNat 15 0 ≤ x.temp) then m.setDie d { x with rstat := 3 }
  else m.setDie d { x with rstat := 1 }

/-- A die reset ends: cores, engines, tables and caches of the die are as after Stage 2, HBM is kept (R415). -/
def Mach.endDieReset (m : Mach) (d : Nat) : Mach :=
  let x := m.die d
  if x.rstat ≠ 1 then m
  else
    let m := (m.tasks.filter fun t => t.stage ≠ .ended && t.place.contains d).foldl
      (fun (m : Mach) (t : Task) => m.endTask t.seq { trap := { cause := 0x5006 }, die := d }) m
    let m : Mach := { m with
      seqs := m.seqs.filter fun (p : Nat × Seq) => p.1 / 4 ≠ d
      tlb := m.tlb.filter fun (t : TlbEntry) => t.die ≠ d
      icache := m.icache.filter fun (l : ILine) => l.core / 16 ≠ d
      notices := m.notices.filter fun (n : Notice) => n.die ≠ d
      exitStates := m.exitStates.filter fun (n : ExitState) => n.die ≠ d
      fills := m.fills.filter fun (n : Fill) => n.die ≠ d }
    m.setDie d { x with rstat := 2, failed := false, tripped := false, stgb0 := 0, stgb1 := 0, stgs0 := 0, stgs1 := 0, stgst := 0
                        rx := Vector.replicate 64 {}, quantumEnd := m.cyc d + x.sliceq.toNat }

/-! ### Queues -/

/-- A host queue by number. -/
def Mach.queue (m : Mach) (q : Nat) : Queue := SMap.get {} m.queues q

/-- Replaces a host queue. -/
def Mach.setQueue (m : Mach) (q : Nat) (x : Queue) : Mach := { m with queues := SMap.set {} m.queues q x }

/-- Whether a queue entry's limits hold; its reserved bits are ignored (R6, R298, R71). -/
def Mach.entryOk (m : Mach) (w : Nat) : Bool :=
  let place := fun (a : Nat) => inHbm a || inHost a
  decide (bits w 191 128 % 64 = 0 ∧ bits w 127 64 % 64 = 0 ∧ 4 ≤ bits w 47 44 ∧ bits w 47 44 ≤ 16 ∧ bits w 59 48 < m.regs.ctxcnt.toNat) && place (bits w 191 128) && place (bits w 127 64)

/-- Writes the en bit of a queue's table entry (R298). -/
def Mach.putEn (m : Mach) (q : Nat) (en : Bool) : Mach :=
  let a := m.regs.qcfgt.toNat + 32 * q
  { m with mem := m.mem.write 0 a (leBytes 8 (putBits (leNat (m.mem.read 0 a 8)) 36 36 en.toNat)) false }

/-- QCTL with bit 15 set: the entry is latched and checked (R298). -/
def Mach.enableQueue (m : Mach) (q : Nat) : Mach :=
  let e := leNat (m.mem.read 0 (m.regs.qcfgt.toNat + 32 * q) 32)
  let ctl := q + 2 ^ 15
  if m.entryOk e then
    ({ (m.setQueue q { entry := BitVec.ofNat 256 e, en := true }) with regs := { m.regs with qctl := toW ctl } } : Mach).putEn q true
  else { m with regs := { m.regs with qctl := toW (ctl + 2 ^ 16) } }

/-- QCTL with bit 15 clear (R298). -/
def Mach.disableQueue (m : Mach) (q : Nat) : Mach :=
  ({ (m.setQueue q { m.queue q with en := false }) with regs := { m.regs with qctl := toW q } } : Mach).putEn q false

/-! ### The migration arbiter -/

/-- A result register's word: decided, outcome, page (R379). -/
def migWord (res : Nat) (page : BitVec 36) : Word := toW (2 ^ 63 + res * 2 ^ 36 + page.toNat)

/-- Writes the result register of a side. -/
def Mach.migResult (m : Mach) (host : Bool) (page : BitVec 36) (res : Nat) : Mach :=
  { m with regs := if host then { m.regs with migres1 := migWord res page } else { m.regs with migres0 := migWord res page } }

/-- The claim on a page. -/
def Mach.claimOf (m : Mach) (page : BitVec 36) : Option Claim := m.claims.find? fun c => c.page == page

/-- A claim (R380). -/
def Mach.migClaim (m : Mach) (host : Bool) (page : BitVec 36) : Mach :=
  match m.claimOf page with
  | some c =>
    if c.host = host then m.migResult host page 3
    else ({ m with claims := m.claims.map fun (x : Claim) => if x.page = page then { x with contested := true } else x } : Mach).migResult host page 1
  | none =>
    if 64 ≤ m.claims.length then m.migResult host page 3
    else ({ m with claims := m.claims ++ [{ page := page, host := host, contested := false }] } : Mach).migResult host page 0

/-- A commit (R380). -/
def Mach.migCommit (m : Mach) (host : Bool) (page : BitVec 36) : Mach :=
  match m.claimOf page with
  | some c => if c.host = host then m.migResult host page c.contested.toNat else m.migResult host page 3
  | none => m.migResult host page 3

/-- A release (R380); a page this side has not claimed is refused (log entry 28). -/
def Mach.migRelease (m : Mach) (host : Bool) (page : BitVec 36) : Mach :=
  match m.claimOf page with
  | some c =>
    if c.host = host then ({ m with claims := m.claims.filter fun (x : Claim) => x.page ≠ page } : Mach).migResult host page 2
    else m.migResult host page 3
  | none => m.migResult host page 3

/-- A write of MIGREQ: op 3 is discarded, reserved bits are ignored (R6, R379). -/
def Mach.migRequest (m : Mach) (v : Word) : Mach :=
  let host := v.getLsbD 63
  let page := BitVec.ofNat 36 v.toNat
  if bits v.toNat 62 61 = 0 then m.migClaim host page
  else if bits v.toNat 62 61 = 1 then m.migCommit host page
  else if bits v.toNat 62 61 = 2 then m.migRelease host page
  else m

end Sys2Proof.Machine
end

