-- ==== Sys2Proof/Machine/SysRegs.lean ====
section
/-! DEFINITION. The system register map: which indices exist, their scope and mode (R255, R256, R263, R295, R307, R357,
R379, R404, R412), reads, and writes with their checks. -/

namespace Sys2Proof.Machine

/-! ### The map -/

/-- Scopes of system registers (R255, R263). -/
inductive RegScope where
  | context | die | module | cluster
  deriving DecidableEq, Repr

/-- The scope of an index, and whether it is marked S; `none`: outside the map. -/
def regInfo (x : Nat) : Option (RegScope × Bool) :=
  if x = 0x000 then some (.die, false)
  else if x ≤ 0x003 then some (.context, false)
  else if x = 0x008 ∨ x = 0x009 then some (.context, true)
  else if 0x00A ≤ x ∧ x ≤ 0x00C then some (.context, false)
  else if x = 0x010 ∨ x = 0x013 ∨ x = 0x015 then some (.module, true)
  else if x = 0x011 ∨ x = 0x012 ∨ x = 0x014 then some (.die, true)
  else if x = 0x100 ∨ x = 0x101 then some (.module, true)
  else if 0x110 ≤ x ∧ x ≤ 0x114 then some (.die, true)
  else if 0x118 ≤ x ∧ x ≤ 0x11A then some (.module, true)
  else if x = 0x200 ∨ x = 0x201 then some (.die, true)
  else if x = 0x202 ∨ x = 0x208 then some (.die, false)
  else if x = 0x203 ∨ x = 0x204 ∨ x = 0x206 ∨ x = 0x207 then some (.module, true)
  else if 0x210 ≤ x ∧ x ≤ 0x217 then some (.module, true)
  else if 0x300 ≤ x ∧ x ≤ 0x303 then some (.module, true)
  else if 0x310 ≤ x ∧ x ≤ 0x34F then some (.die, false)
  else if 0x400 ≤ x ∧ x ≤ 0x403 then some (.cluster, false)
  else if x = 0x500 ∨ x = 0x501 ∨ x = 0x503 then some (.module, false)
  else if x = 0x502 ∨ x = 0x504 ∨ x = 0x505 ∨ x = 0x508 ∨ x = 0x509 ∨ x = 0x520 then some (.module, true)
  else if 0x530 ≤ x ∧ x ≤ 0x53F then some (.module, false)
  else if x = 0x540 then some (.die, true)
  else if x = 0x541 then some (.die, false)
  else if 0x600 ≤ x ∧ x ≤ 0x606 then some (.module, true)
  else if 0x610 ≤ x ∧ x ≤ 0x617 then some (.module, false)
  else none

/-! ### Reads -/

/-- IDENT (R307): part, family and the open stepping. -/
def identWord : Word := toW (0x6404 + 9 * 2 ^ 16 + 2 ^ 24 + Config.stepping.toNat * 2 ^ 56)

/-- STAGE (R307). -/
def Regs.stageWord (r : Regs) : Word := toW (r.stage.toNat + oneBit r.ready 2 + r.failCode.toNat * 256)

/-- STOP (R289). -/
def Regs.stopWord (r : Regs) : Word := toW (oneBit r.stopReq 63 + r.stopPhase.toNat * 2 ^ 16 + r.stopCtx.toNat)

/-- A register of die scope (R256, R78, R295, R307, R412); write-only ones read zero (R7). -/
def Mach.readDieReg (m : Mach) (d x : Nat) : Word :=
  let r := m.die d
  if m.isWithheld d then 0
  else if x = 0x000 then (if m.regs.stage = 0 then 0 else toW (m.cyc d))
  else if x = 0x012 then r.rstat
  else if x = 0x014 then r.thrm
  else if x = 0x110 then r.stgb0
  else if x = 0x111 then r.stgb1
  else if x = 0x112 then r.stgs0
  else if x = 0x113 then r.stgs1
  else if x = 0x114 then r.stgst
  else if x = 0x200 then r.sliceq
  else if x = 0x201 then r.pmthr
  else if x = 0x202 then toW (m.dtuse d)
  else if x = 0x208 then r.ovrn
  else if 0x310 ≤ x ∧ x ≤ 0x34F then (vget r.rx (x - 0x310) {}).word
  else if x = 0x540 then r.pwrcap
  else if x = 0x541 then r.pwrstat
  else 0

/-- A register of module scope (R256, R295, R307, R357, R379, R404, R412); write-only ones read zero (R7). -/
def Mach.readModReg (m : Mach) (x : Nat) : Word :=
  let r := m.regs
  if x = 0x010 then r.dieoff
  else if x = 0x015 then r.sfail
  else if x = 0x100 then r.ctxtab
  else if x = 0x101 then r.ctxcnt
  else if x = 0x119 then r.migres0
  else if x = 0x11A then r.migres1
  else if x = 0x203 then r.plmap
  else if x = 0x204 then r.stopWord
  else if x = 0x206 then r.bobhold
  else if x = 0x207 then r.bobthr
  else if 0x210 ≤ x ∧ x ≤ 0x217 then vget r.lclass (x - 0x210) 0
  else if x = 0x300 then r.filltab
  else if x = 0x301 then r.fillto
  else if x = 0x302 then r.skdesc
  else if x = 0x303 then r.skcorr
  else if x = 0x500 then identWord
  else if x = 0x501 then r.stageWord
  else if x = 0x503 then r.fwstat
  else if x = 0x504 then r.fwlen
  else if x = 0x505 then r.scrun
  else if x = 0x508 then r.qcfgt
  else if x = 0x509 then r.qctl
  else if x = 0x520 then r.podcfg
  else if 0x530 ≤ x ∧ x ≤ 0x53F then vget r.ebstat (x - 0x530) 0
  else if x = 0x600 then r.elbase
  else if x = 0x601 then r.elsize
  else if x = 0x602 then r.elhead
  else if x = 0x603 then r.eltail
  else if x = 0x604 then r.ellost
  else if x = 0x605 then r.elmask
  else if x = 0x606 then r.elpend
  else if 0x610 ≤ x ∧ x ≤ 0x617 then vget r.softcnt (x - 0x610) 0
  else 0

/-- A register of context scope (R256). -/
def Mach.readCtxReg (m : Mach) (c : Cont) (x : Nat) : Word :=
  if x = 0x001 then toW (c.core + c.die * 16 + m.modIndex % 256 * 1024)
  else if x = 0x002 then c.ctx.setWidth 64
  else if x = 0x003 then toW (oneBit c.sysMode 0)
  else if x = 0x008 then c.tvec
  else if x = 0x009 then toW (oneBit c.tsave 0)
  else if x = 0x00A then c.trapen.setWidth 64
  else if x = 0x00B then c.flags.setWidth 64
  else if x = 0x00C then c.fev
  else 0

/-! ### Writes -/

/-- A value where a limit holds, else the old one: a write outside the range of a register is discarded (log entry 29). -/
def takeIf (b : Bool) (new old : Word) : Word := if b then new else old

/-- Whether a write of a latency class keeps the shares of the bounded classes within 256 (R282). -/
def Mach.sharesOk (m : Mach) (k : Nat) (v : Word) : Bool :=
  decide (((List.range 8).map fun i =>
    let w := (if i = k then v else vget m.regs.lclass i 0).toNat
    if bits w 47 0 = 0 then 0 else bits w 63 56).sum ≤ 256)

/-- Whether a power cap lies in its range and keeps the sum of all dies within 16,000 W (R307). -/
def Mach.capOk (m : Mach) (d : Nat) (v : Word) : Bool :=
  decide (50 ≤ v.toNat ∧ v.toNat ≤ 400 ∧
    ((List.range 64).map fun e => if e = d then v.toNat else (m.die e).pwrcap.toNat).sum ≤ 16000)

/-- A write of a register of die scope; RXREG stands apart (R257). -/
def Mach.writeDieReg (m : Mach) (d x : Nat) (v : Word) : Mach :=
  let r := m.die d
  let n := v.toNat
  if m.isWithheld d then m
  else if x = 0x011 then (if v.getLsbD 0 then m.beginDieReset d else m)
  else if x = 0x014 then m.setDie d { r with thrm := takeIf (decide (bits n 15 0 + 64 ≤ bits n 31 16)) (toW (bits n 31 0)) r.thrm }
  else if x = 0x110 then m.setDie d { r with stgb0 := takeIf (decide (n % 65536 = 0)) v r.stgb0 }
  else if x = 0x111 then m.setDie d { r with stgb1 := takeIf (decide (n % 65536 = 0)) v r.stgb1 }
  else if x = 0x112 then m.setDie d { r with stgs0 := takeIf (decide (16 ≤ n ∧ n ≤ 131072)) v r.stgs0 }
  else if x = 0x113 then m.setDie d { r with stgs1 := takeIf (decide (16 ≤ n ∧ n ≤ 131072)) v r.stgs1 }
  else if x = 0x200 then m.setDie d { r with sliceq := takeIf (decide (1024 ≤ n ∧ n < 2 ^ 32)) v r.sliceq }
  else if x = 0x201 then m.setDie d { r with pmthr := toW (bits n 58 0) }
  else if x = 0x540 then m.setDie d { r with pwrcap := takeIf (m.capOk d v) v r.pwrcap }
  else m

/-- Whether a value of PODCFG names a torus of at most 8 × 8 × 4 modules and a place in it (R17, R301). -/
def podOk (n : Nat) : Bool :=
  decide (1 ≤ bits n 3 0 ∧ bits n 3 0 ≤ 8 ∧ 1 ≤ bits n 11 8 ∧ bits n 11 8 ≤ 8 ∧ 1 ≤ bits n 18 16 ∧ bits n 18 16 ≤ 4 ∧
    bits n 26 24 < bits n 3 0 ∧ bits n 34 32 < bits n 11 8 ∧ bits n 41 40 < bits n 18 16)

/-- A write of a register of module scope (R256, R295, R307, R357, R379, R412). -/
def Mach.writeModReg (m : Mach) (x : Nat) (v : Word) : Mach :=
  let r := m.regs
  let n := v.toNat
  let home := decide (n < 2 ^ 36)
  let put := fun (r : Regs) => { m with regs := r }
  if x = 0x010 then put { r with dieoff := takeIf (r.stage == 0) (toW (n / 2 * 2)) r.dieoff }
  else if x = 0x013 then (if bits n 15 0 = 0x4D52 then m.moduleReset else m)
  else if x = 0x100 then put { r with ctxtab := takeIf (decide (n % 4096 = 0)) v r.ctxtab }
  else if x = 0x101 then put { r with ctxcnt := takeIf (decide (n ≤ 4096)) v r.ctxcnt }
  else if x = 0x118 then m.migRequest v
  else if x = 0x203 then put { r with plmap := takeIf (home && decide (n % 4096 = 0)) v r.plmap }
  else if x = 0x204 then (if v.getLsbD 63 then m.beginStop (BitVec.ofNat 12 n) else m.resumeStop.putStopCtx (BitVec.ofNat 12 n))
  else if x = 0x206 then put { r with bobhold := takeIf (decide (1024 ≤ n ∧ n < 2 ^ 32)) v r.bobhold }
  else if x = 0x207 then put { r with bobthr := toW (bits n 15 0) }
  else if 0x210 ≤ x ∧ x ≤ 0x217 then
    put { r with lclass := vset r.lclass (x - 0x210) (takeIf (m.sharesOk (x - 0x210) v) (toW (putBits n 55 48 0)) (vget r.lclass (x - 0x210) 0)) }
  else if x = 0x300 then put { r with filltab := takeIf (home && decide (n % 32 = 0)) v r.filltab }
  else if x = 0x301 then put { r with fillto := takeIf (decide (1024 ≤ n ∧ n < 2 ^ 48)) v r.fillto }
  else if x = 0x302 then put { r with skdesc := v }
  else if x = 0x502 then (if n = 1 then m.beginAuth else m)
  else if x = 0x504 then put { r with fwlen := v }
  else if x = 0x505 then m.startScalar v
  else if x = 0x508 then put { r with qcfgt := takeIf (home && decide (n % 4096 = 0)) v r.qcfgt }
  else if x = 0x509 then (if v.getLsbD 15 then m.enableQueue (bits n 10 0) else m.disableQueue (bits n 10 0))
  else if x = 0x520 then put { r with podcfg := takeIf (podOk n) (v &&& 0x00000307_07070F0F) r.podcfg }
  else if x = 0x600 then put { r with elbase := takeIf (home && decide (n % 4096 = 0)) v r.elbase }
  else if x = 0x601 then put { r with elsize := takeIf (decide (4 ≤ n ∧ n ≤ 16)) v r.elsize }
  else if x = 0x602 then put { r with elhead := v }
  else if x = 0x605 then put { r with elmask := v &&& 0x3F }
  else if x = 0x606 then put { r with elpend := r.elpend &&& ~~~v }
  else m

/-- A write of a register of context scope: reserved and read-only bits keep their value (R256, R367, R369, R371). -/
def Cont.writeCtxReg (c : Cont) (x : Nat) (v : Word) : Cont :=
  if x = 0x008 then { c with tvec := v }
  else if x = 0x009 then { c with tsave := v.getLsbD 0 }
  else if x = 0x00A then { c with trapen := BitVec.ofNat 9 (v.toNat &&& 0x17F) }
  else if x = 0x00B then { c with flags := v.setWidth 32 }
  else if x = 0x00C then { c with fev := toW (putBits v.toNat 54 51 0) }
  else c

/-- Whether a receiver registration is one the member may make (R257). -/
def rxOk (c : Cont) (v : Word) : Bool :=
  let ewd := bits v.toNat 52 30
  let cnt := bits v.toNat 29 23
  let arr := bits v.toNat 22 0
  !v.getLsbD 63 || (decide (1 ≤ cnt ∧ cnt ≤ 64 ∧ ewd % 8 = 0 ∧ arr % 8 = 0) && c.inWindow ewd 8 && c.inWindow arr (8 * cnt))

/-- A receiver registration as it is held: its reserved bits read as zero (R6, R257). -/
def rxWord (v : Word) : Word := toW (putBits v.toNat 62 53 0)

/-- A write of a receiver registration binds it to the writing member (R257). -/
def writeRx (k : Nat) (v : Word) : Act Unit := do
  let c ← getC
  raiseIf (!(rxOk c v)) 0x2003
  modM fun m =>
    let x := m.die c.die
    m.setDie c.die { x with rx := vset x.rx k { word := rxWord v, task := c.task, team := c.team.toNat, rank := c.rank.toNat } }

/-- The checks of an index: outside the map, a register marked S in user mode (R255, R366). -/
def regCheck (x : Nat) : Act RegScope := do
  match regInfo x with
  | none => raise 0x1001
  | some (s, priv) => do
    if priv then needSystem else pure ()
    pure s

/-- SYSRD's read (R255). -/
def readReg (x : Nat) : Act Word := do
  let s ← regCheck x
  let m ← getM
  match s with
  | .context => pure (m.readCtxReg m.cur x)
  | .die => pure (m.readDieReg m.cur.die x)
  | .module => pure (m.readModReg x)
  | .cluster =>
    if x = 0x400 then pure (m.mySeq.csa.setWidth 64)
    else if x = 0x401 then readSqcsd
    else if x = 0x403 then pure m.mySeq.stat
    else pure 0

/-- SYSWR's write (R255). -/
def writeReg (x : Nat) (v : Word) : Act Unit := do
  let s ← regCheck x
  match s with
  | .context => modC fun c => c.writeCtxReg x v
  | .die => if 0x310 ≤ x ∧ x ≤ 0x34F then writeRx (x - 0x310) v else modM fun m => m.writeDieReg m.cur.die x v
  | .module => modM fun m => m.writeModReg x v
  | .cluster =>
    if x = 0x400 then modM fun m => m.setMySeq { m.mySeq with csa := v.setWidth 10 }
    else if x = 0x401 then writeSqcsd v
    else if x = 0x402 then writeSqstart v
    else modM fun m => m.setMySeq (if v.getLsbD 33 then { m.mySeq with stat := toW (putBits m.mySeq.stat.toNat 33 33 0) } else m.mySeq)

/-! ### The host's writes -/

/-- A host access refused: one entry of severity 5 (R296, R299, R357). -/
def Mach.refuseHost (m : Mach) (cause : Cause) (ctx ld off : Nat) (v : Word) : Mach :=
  m.logError { cause := cause, faddr := toW off, info := v } { severity := 5, ctx := ctx, ld := ld }

/-- A BAR0 write (R256, R296, R297): LD 0 alone; a register of module scope stands at die 0; context and sequencer registers
are not mapped. A receiver registration has no writing member here, so only its end is taken (log entry 30). -/
def Mach.bar0Write (m : Mach) (ld die x : Nat) (v : Word) : Mach :=
  if ld ≠ 0 then m.refuseHost 0x7001 0 ld (die * 0x10000 + x * 8) v
  else if 64 ≤ die then m
  else match regInfo x with
    | some (.die, _) =>
      if 0x310 ≤ x ∧ x ≤ 0x34F then
        if v.getLsbD 63 ∨ m.isWithheld die then m
        else m.setDie die { m.die die with rx := vset (m.die die).rx (x - 0x310) { word := rxWord v } }
      else m.writeDieReg die x v
    | some (.module, _) => if die = 0 then m.writeModReg x v else m
    | _ => m

/-- What a BAR0 read of 8 bytes gives, from any LD: the register's value; what an offset reads as that holds no register the
spec does not say (R256, R296, R297; log entry 57). -/
def Mach.bar0Read (m : Mach) (off : Nat) : Word :=
  let die := off / 0x10000
  let x := off % 0x10000 / 8
  match regInfo x with
  | some (.die, _) => if die < 64 then m.readDieReg die x else Config.unmappedRead off
  | some (.module, _) => if die = 0 then m.readModReg x else Config.unmappedRead off
  | _ => Config.unmappedRead off

end Sys2Proof.Machine
end

