-- ==== Sys2Proof/Machine/HostPort.lean ====
section
/-! DEFINITION. The host port: doorbells and queues (R298 to R300), patches and replays it starts (R38, R40, R246), CXL.mem
(R100, R296), the firmware window (R305). -/

namespace Sys2Proof.Machine

/-! ### Queues -/

/-- The owner, context, class, priority and mode of a queue's latched entry (R298). -/
def Queue.owner (x : Queue) : Nat := bits x.entry.toNat 63 60

/-- Who a queue submits as (R242, R244, R282). -/
def Queue.submitter (x : Queue) : Submitter :=
  let w := x.entry.toNat
  { ctx := BitVec.ofNat 12 (bits w 59 48), cls := bits w 43 41, path := bits w 40 38, sys := bit w 37 }

/-- Entries of a queue's rings (R298). -/
def Queue.ring (x : Queue) : Nat := 2 ^ bits x.entry.toNat 47 44

/-- Whether the module takes doorbells now (R299, R304). -/
def Mach.portReady (m : Mach) : Bool := m.regs.ready && m.regs.stage == 2

/-- A doorbell: a queue's new tail; another LD is refused, a stop holds it (R290, R299). -/
def Mach.doorbell (m : Mach) (ld q : Nat) (tail : W32) : Mach :=
  let x := m.queue q
  if !x.en ∨ !m.portReady then m
  else if x.owner ≠ ld then m.refuseHost 0x7002 (bits x.entry.toNat 59 48) ld (16 * q) (tail.setWidth 64)
  else if m.sourcesHeld x.submitter.ctx then m.setQueue q { x with held := some tail }
  else m.setQueue q { x with tail := tail }

/-- DOORBELL (R290, R299). -/
def execDoorbell (ld : Nat) (q : Nat) (tail : W32) (σ : State) : Host.Outcome State Fault Refusal :=
  runEvent (fun m => m.doorbell ld q tail) σ

/-- The host's write of a completion head (R300); only the queue's host writes it (log entry 35). -/
def Mach.putChead (m : Mach) (ld q : Nat) (head : W32) : Mach :=
  let x := m.queue q
  if !x.en ∨ x.owner ≠ ld then m else m.setQueue q { x with chead := head }

/-- COMPLETION_HEAD_WRITE (R300). -/
def execCompletionHeadWrite (ld : Nat) (q : Nat) (head : W32) (σ : State) : Host.Outcome State Fault Refusal :=
  runEvent (fun m => m.putChead ld q head) σ

/-- The next submission entry of a queue, where it may be read: one is there, and a completion slot is free (R299, R300), and
no stop of its context has begun to drain (R290). A marked entry reads as malformed (log entry 36). -/
def Mach.nextEntry (m : Mach) (q : Nat) : Option (List Byte) :=
  let x := m.queue q
  let used := (BitVec.ofNat 32 x.comps - x.chead).toNat
  if !x.en ∨ !m.portReady ∨ x.head = x.tail ∨ x.ring ≤ used ∨ (m.regs.stopPhase ≠ 0 ∧ m.regs.stopCtx = x.submitter.ctx) then none
  else
    let pa := bits x.entry.toNat 127 64 + 64 * (x.head.toNat % x.ring)
    if (m.paFault pa).isSome ∨ m.mem.marked 0 pa then some (leBytes 64 0xFF)
    else some (m.mem.read 0 pa 64)

/-- Whether an entry's reserved bytes are zero and its kind is known (R299, R300). -/
def entryForm (b : List Byte) : Bool := decide (leAt b 0 1 ≤ 2 ∧ leAt b 1 7 = 0 ∧ leAt b 24 40 = 0)

/-- The completion entry of the submission just read (R300). -/
def Mach.putCompletion (m : Mach) (q : Nat) (b : List Byte) (status reason : Nat) : Mach :=
  let x := m.queue q
  let head := x.head + 1
  let entry := leBytes 8 (leAt b 16 8) ++ leBytes 2 status ++ leBytes 2 reason ++ leBytes 2 head.toNat ++
    leBytes 1 (if x.comps / x.ring % 2 = 0 then 1 else 0) ++ leBytes 1 0
  let pa := bits x.entry.toNat 191 128 + 16 * (x.comps % x.ring)
  let m := m.setQueue q { x with head := head, comps := x.comps + 1 }
  { m with mem := m.mem.write 0 pa entry false }

/-- Reads the next entry of a queue if it is of a kind, or malformed where kind 0 is asked for; answers it (R299, R300). -/
def Mach.takeEntry (m : Mach) (q kind : Nat) (f : Mach → Submitter → Word → Mach × Nat × Nat) : Mach :=
  match m.nextEntry q with
  | none => m
  | some b =>
    if leAt b 0 1 ≠ kind ∧ !(kind = 0 ∧ 3 ≤ leAt b 0 1) then m
    else if !(entryForm b) then m.putCompletion q b 2 0
    else
      let r := f m (m.queue q).submitter (toW (leAt b 8 8))
      r.1.putCompletion q b r.2.1 r.2.2

/-- SUBMIT_TASK: kind 0 (R276, R285, R299, R300). -/
def execSubmitTask (q : Nat) (σ : State) : Host.Outcome State Fault Refusal :=
  runEvent (fun m =>
    m.takeEntry q 0 fun m s a =>
      let r := m.enrol s a
      match r.2 with
      | .ok _ => (r.1, 0, 0)
      | .error k => (r.1, 1, k)) σ

/-- SUBMIT_GRAPH_REPLAY: kind 1 (R39, R299, R300). -/
def execSubmitGraphReplay (q : Nat) (σ : State) : Host.Outcome State Fault Refusal :=
  runEvent (fun m =>
    m.takeEntry q 1 fun m s a =>
      let r := m.requestReplay s a
      match r.2 with
      | .started => (r.1, 0, 0)
      | .held => (r.1, 0, 0)
      | .full => (r.1, 1, Config.pendingReason.toNat)
      | .refused k => (r.1, 1, k)) σ

/-- PATCH_COMMIT: kind 2 (R40, R246, R299, R300). -/
def execPatchCommit (q : Nat) (σ : State) : Host.Outcome State Fault Refusal :=
  runEvent (fun m =>
    m.takeEntry q 2 fun m s a =>
      match m.ctxEntryNow 0 s.ctx with
      | none => (m, 1, 0x0006)
      | some e => match m.readReplay s e a with
        | none => (m, 1, 0x0009)
        | some _ =>
          let x := m.enterGraph s e a
          (x.1.commitPatch x.2, 0, 0)) σ

/-- REPLAY_START: a pending replay starts once none runs (R38, R39). -/
def execReplayStart (graph : Nat) (σ : State) : Host.Outcome State Fault Refusal :=
  runEvent (fun m =>
    match m.graph? graph with
    | none => m
    | some g => if m.sourcesHeld g.ctx then m else m.startReplay graph) σ

/-- PATCH_AREA_COPY_DONE (R246). -/
def execPatchAreaCopyDone (graph : Nat) (σ : State) : Host.Outcome State Fault Refusal :=
  runEvent (fun m => m.copyArea graph) σ

/-- QCTL_ENABLE (R298). -/
def execQctlEnable (q : BitVec 11) (σ : State) : Host.Outcome State Fault Refusal :=
  runEvent (fun m => m.enableQueue q.toNat) σ

/-- QCTL_DISABLE (R298). -/
def execQctlDisable (q : BitVec 11) (σ : State) : Host.Outcome State Fault Refusal :=
  runEvent (fun m => m.disableQueue q.toNat) σ

/-! ### CXL.mem and the firmware window -/

/-- Whether a host access lies in the HDM range: HBM of dies that are not withheld (R296, R413). -/
def Mach.inHdm (m : Mach) (pa n : Nat) : Bool :=
  decide (pa + n ≤ 2 ^ 42) && (List.range 64).all fun d => !(m.isWithheld d) || !(overlaps (d * 2 ^ 36) (2 ^ 36) pa n)

/-- HOST_CXL_MEM_WRITE: a write of the host port agent on die 0 (R100). -/
def execHostCxlMemWrite (pa : Nat) (bytes : List Byte) (σ : State) : Host.Outcome State Fault Refusal :=
  if σ.m.inHdm pa bytes.length then
    runEvent (fun m => { m with mem := m.mem.write 0 pa bytes false }) σ
  else .fault .hostOutsideHdm

/-- HOST_CXL_MEM_READ: data as die 0 sees it, with its mark (R100, R381). -/
def execHostCxlMemRead (pa : Nat) (n : Nat) (σ : State) : Host.Outcome State Fault Refusal :=
  if σ.m.inHdm pa n then
    runEvent (fun m => { m with out := m.out ++ [.hostData pa (m.mem.read 0 pa n) (m.mem.firstMark 0 pa n).isSome] }) σ
  else .fault .hostOutsideHdm

/-- A write of 8 bytes of the image through BAR4, in Stage 0 while nothing is being authenticated (R297, R305). -/
def Mach.firmwareWrite (m : Mach) (ld off : Nat) (v : Word) : Mach :=
  if ld ≠ 0 ∨ m.regs.stage ≠ 0 ∨ m.regs.fwrun ∨ off % 8 ≠ 0 ∨ spadBytes < off + 8 then m
  else { m with mem := m.mem.spadWrite (skey 0 off) (leBytes 8 v.toNat) false }

/-- FIRMWARE_WINDOW_WRITE (R297, R305). -/
def execFirmwareWindowWrite (ld : Nat) (off : Nat) (v : Word) (σ : State) : Host.Outcome State Fault Refusal :=
  runEvent (fun m => m.firmwareWrite ld off v) σ

/-! ### Accesses to the BARs and to the host's own memory -/

/-- Whether a BAR access is one of 8 bytes, 8-byte aligned (R297). -/
def barForm (off n : Nat) : Bool := n == 8 && off % 8 == 0

/-- A write of the host to a BAR: of another size or alignment it is discarded, whatever LD makes it (R296, R297). -/
def Mach.barWrite (m : Mach) (bar ld off : Nat) (bytes : List Byte) : Mach :=
  let v := toW (leNat bytes)
  if !(barForm off bytes.length) then m
  else if bar = 0 then (if off < 2 ^ 22 then m.bar0Write ld (off / 0x10000) (off % 0x10000 / 8) v else m)
  else if bar = 2 then
    (if 16 * 2048 ≤ off then m
     else if off % 16 = 0 then m.doorbell ld (off / 16) (v.setWidth 32)
     else m.putChead ld (off / 16) (v.setWidth 32))
  else if bar = 4 then m.firmwareWrite ld off v
  else m

/-- What a read of 8 bytes of BAR2 gives: a queue's submission tail or its completion head (R297). -/
def Mach.bar2Read (m : Mach) (off : Nat) : Word :=
  if 16 * 2048 ≤ off then Config.unmappedRead off
  else if off % 16 = 0 then (m.queue (off / 16)).tail.setWidth 64
  else (m.queue (off / 16)).chead.setWidth 64

/-- What the host reads from a BAR: all ones where the size or the alignment is another (R296, R297, R305). -/
def Mach.barRead (m : Mach) (bar off n : Nat) : List Byte :=
  if !(barForm off n) then List.replicate n 0xFF
  else if bar = 0 then leBytes 8 (m.bar0Read off).toNat
  else if bar = 2 then leBytes 8 (m.bar2Read off).toNat
  else if bar = 4 ∧ off + 8 ≤ spadBytes then m.mem.spad.gets (skey 0 off) 8
  else leBytes 8 (Config.unmappedRead off).toNat

/-- The host writes its own memory (R70, R100, R296). -/
def Mach.hostWrite (m : Mach) (pa : Nat) (bytes : List Byte) : Mach :=
  if inHost pa && inHost (pa + bytes.length) then { m with mem := m.mem.write 0 pa bytes false } else m

/-- What the host reads of its own memory (R70, R100, R296). -/
def Mach.hostRead (m : Mach) (pa n : Nat) : Mach :=
  if inHost pa && inHost (pa + n) then
    { m with out := m.out ++ [.hostData pa (m.mem.read 0 pa n) (m.mem.firstMark 0 pa n).isSome] }
  else m

end Sys2Proof.Machine
end

