-- ==== Sys2Proof/Machine/Power.lean ====
section
/-! DEFINITION. Power, start-up and recovery events (R304 to R308, R410 to R418), the migration arbiter (R379, R380), errors
and links that go down (R355, R356, R383, R393, R406, R408). -/

namespace Sys2Proof.Machine

/-! ### Power and stages -/

/-- POWER_GOOD: Stage 0 with every register at reset (R304, R417). -/
def execPowerGood (σ : State) : Host.Outcome State Fault Refusal :=
  runEvent (fun m => if m.regs.powered then m else { ({} : Mach) with out := m.out, freeCount := m.freeCount }) σ

/-- POWER_LOST: the module stops and keeps nothing (R417). -/
def execPowerLost (σ : State) : Host.Outcome State Fault Refusal :=
  runEvent (fun m => { ({} : Mach) with out := m.out, freeCount := m.freeCount, regs := { ({} : Regs) with powered := false } }) σ

/-- FWCMD_AUTHENTICATE (R305). -/
def execFwcmdAuthenticate (σ : State) : Host.Outcome State Fault Refusal :=
  runEvent (fun m => m.beginAuth) σ

/-- AUTHENTICATION_COMPLETE (R305). -/
def execAuthenticationComplete (result : FwResult) (σ : State) : Host.Outcome State Fault Refusal :=
  runEvent (fun m => m.endAuth result) σ

/-- STAGE1_COMPLETE: Stage 2 begins, or training has failed (R304, R410). -/
def execStage1Complete (fail : Option (Byte × Word)) (σ : State) : Host.Outcome State Fault Refusal :=
  runEvent (fun m =>
    if m.regs.stage ≠ 1 then m
    else match fail with
      | none => { m with regs := { m.regs with stage := 2 } }
      | some (code, dies) => m.toStage0 code (if code = 0x10 then dies else 0)) σ

/-- STAGE2_COMPLETE: the module is ready, or the self-test has failed (R304, R410). -/
def execStage2Complete (fail : Option Word) (ebnas : BitVec 16) (σ : State) : Host.Outcome State Fault Refusal :=
  runEvent (fun m =>
    if m.regs.stage ≠ 2 ∨ m.regs.ready then m
    else match fail with
      | none => m.becomeReady ebnas
      | some dies => m.toStage0 0x20 dies) σ

/-- SCRUN_START (R306). -/
def execScrunStart (v : Word) (σ : State) : Host.Outcome State Fault Refusal :=
  runEvent (fun m => m.startScalar v) σ

/-- MRST_MODULE_RESET (R412, R416). -/
def execMrstModuleReset (v : Word) (σ : State) : Host.Outcome State Fault Refusal :=
  runEvent (fun m => m.writeModReg 0x013 v) σ

/-- CXL_RESET (R416). -/
def execCxlReset (σ : State) : Host.Outcome State Fault Refusal :=
  runEvent (fun m => m.moduleReset) σ

/-- DRST_DIE_RESET (R415). -/
def execDrstDieReset (die : Nat) (σ : State) : Host.Outcome State Fault Refusal :=
  runEvent (fun m => m.beginDieReset die) σ

/-- DIE_RESET_COMPLETE (R415). -/
def execDieResetComplete (die : Nat) (σ : State) : Host.Outcome State Fault Refusal :=
  runEvent (fun m => m.endDieReset die) σ

/-! ### The migration arbiter -/

/-- MIGREQ_CLAIM (R380). -/
def execMigreqClaim (host : Bool) (page : BitVec 36) (σ : State) : Host.Outcome State Fault Refusal :=
  runEvent (fun m => m.migClaim host page) σ

/-- MIGREQ_COMMIT (R380). -/
def execMigreqCommit (host : Bool) (page : BitVec 36) (σ : State) : Host.Outcome State Fault Refusal :=
  runEvent (fun m => m.migCommit host page) σ

/-- MIGREQ_RELEASE (R380). -/
def execMigreqRelease (host : Bool) (page : BitVec 36) (σ : State) : Host.Outcome State Fault Refusal :=
  runEvent (fun m => m.migRelease host page) σ

/-! ### Power and temperature -/

/-- A die's cap in watts at a temperature in 1/8 °C (R308, R418). -/
def Die.cap (x : Die) (temp : Nat) : Nat :=
  let theta := bits x.thrm.toNat 15 0
  if temp < theta then x.pwrcap.toNat else max 50 (x.pwrcap.toNat - (temp - theta))

/-- POWER_WINDOW_CHECK: PWRSTAT; the die gates issue while its mean power is above its cap, which changes no result (R308, R418). -/
def execPowerWindowCheck (die : Nat) (watts : Nat) (temp : Nat) (σ : State) : Host.Outcome State Fault Refusal :=
  runEvent (fun m =>
    let x := m.die die
    if 64 ≤ die ∨ m.isWithheld die then m
    else m.setDie die { x with pwrstat := toW (watts % 65536 + temp % 65536 * 2 ^ 16 + oneBit (decide (x.cap temp < watts)) 32) }) σ

/-- THERMAL_TRIP: a die at its trip temperature fails; die 0 takes the module to Stage 0 (R418). -/
def execThermalTrip (die : Nat) (σ : State) : Host.Outcome State Fault Refusal :=
  runEvent (fun m =>
    let x := m.die die
    if 64 ≤ die ∨ m.isWithheld die ∨ x.temp < bits x.thrm.toNat 31 16 then m
    else (m.setDie die { x with tripped := true }).failDie die 0x32) σ

/-! ### Errors -/

/-- A corrected event of a row of R82 is counted (R356, R357). -/
def Mach.countSoft (m : Mach) (k : Nat) : Mach :=
  let v := vget m.regs.softcnt k 0
  { m with regs := { m.regs with softcnt := vset m.regs.softcnt k (if v = BitVec.allOnes 64 then v else v + 1) } }

/-- CORRECTED_ERROR (R356). -/
def execCorrectedError (domain : Nat) (σ : State) : Host.Outcome State Fault Refusal :=
  runEvent (fun m => m.countSoft domain) σ

/-- A granule of addressable memory is marked in what every die sees (R83, R382, R383; log entry 37). -/
def Mach.markGranule (m : Mach) (pa : Nat) : Mach :=
  let marks := (List.range 64).foldl (fun (p : SMap Bool) d => SMap.set false p (d * 2 ^ 46 + pa / 64) true) m.mem.poison
  if (m.paFault pa).isSome then m else { m with mem := { m.mem with poison := marks } }

/-- UNCORRECTABLE_ERROR: a mark, a refetch, or the end of a task, a die or the module (R355, R383, R393). -/
def execUncorrectableError (place : ErrorPlace) (σ : State) : Host.Outcome State Fault Refusal :=
  runEvent (fun m =>
    match place with
    | .memory pa => m.markGranule pa
    | .scratchpad core off =>
      let marks := SMap.set false m.mem.spadPoison (skey core off / 64) true
      if core < 1024 ∧ off < spadBytes then { m with mem := { m.mem with spadPoison := marks } } else m
    | .cachedCopy domain => m.countSoft domain
    | .loadBlock cont blk line => match m.cont? cont with
      | none => m
      | some c => match vget c.blocks blk none with
        | none => m
        | some b => m.setCont { c with blocks := vset c.blocks blk (some { b with poison := b.poison.set line true }) }
    | .contextState cont => match m.cont? cont with
      | none => m
      | some c => if c.id = 0 ∨ 6 ≤ c.state.toNat then m else m.reportEnd c (c.report { cause := 0x6001 } 7 0)
    | .dieControl die => if 64 ≤ die then m else m.failDie die 0x31
    | .moduleControl code => m.toStage0 code 0
    | .teamImage task team => match m.team? task team with
      | none => m
      | some t => m.endTask task { trap := { cause := 0x5005 }, die := t.die }) σ

/-! ### Links -/

/-- A job of this module ends its task because traffic of it was lost (R406). -/
def Mach.loseJob (m : Mach) (j : Job) : Mach := m.jobFails j { cause := 0x6002 }

/-- Whether a whole message still waits at a port. -/
def Flit.whole (f : Flit) : Bool := f.left == f.body.flits

/-- Whether a team's image still waits whole at a port. -/
def Mach.imageWaits (m : Mach) (t : Team) : Bool :=
  m.links.any fun f => f.whole && match f.body with
    | .team _ q n _ _ _ => q == t.task && n == t.idx
    | _ => false

/-- Steals in flight on a port that goes down are void, and so are those to a module that can no longer be reached; stolen
teams of such a module are lost, and teams of it that run here are discarded (R397, R406). `away` is the port's module test
before it went down. -/
def Mach.loseSteals (m : Mach) (away : Nat → Bool) : Mach :=
  let m := m.teams.foldl (fun m t => match t.res with
    | .sending k =>
      if (m.portTo k).isNone || (away k && !(m.imageWaits t)) then (m.setTeam { t with res := .out }).sendTo 2 k (.endTeam t.task t.idx)
      else m
    | .stolen k => if (m.portTo k).isNone then m.endTask t.task { trap := { cause := 0x5005 }, die := t.die } else m
    | _ => m) m
  m.tasks.foldl (fun m t => match t.guest with
    | some g => if (m.portTo g.origin).isNone then m.dropGuest t.seq 0 else m
    | none => m) m

/-- What waits whole at a port that goes down takes the other port of its direction; the rest of it is lost (R406). -/
def Mach.reroute (m : Mach) (port : Nat) : Mach :=
  { m with links := m.links.filterMap fun f =>
      if f.port ≠ port then some f
      else if !f.whole then none
      else (m.portTo f.dest).map fun p => { f with port := p } }

/-- POD_LINK_DOWN: the port goes down; what was in flight on it is lost (R397, R406, R409). -/
def execPodLinkDown (port : Nat) (trainingLost : Bool) (σ : State) : Host.Outcome State Fault Refusal :=
  runEvent (fun m =>
    if 12 ≤ port ∨ !(m.regs.podUp.getLsbD port) then m
    else
      let away := fun (k : Nat) => m.portTo k == some port
      let m : Mach := ({ m with regs := { m.regs with podUp := m.regs.podUp &&& ~~~((1 : BitVec 12) <<< port) } } : Mach).reroute port
      let lost := m.jobs.filter fun j => j.op = opExn && j.sent && bits j.card.kspec 7 0 ≠ m.modIndex && away (bits j.card.kspec 7 0) &&
        decide ((m.links.filter fun f => f.job == some j.id).length < j.left)
      let m := m.logError { cause := 0x6002, info := toW (port + (if trainingLost then 2 else 1) * 256) } { severity := 3, die := podDie port }
      let m := lost.foldl (fun (m : Mach) (j : Job) => m.loseJob j) m
      m.loseSteals away) σ

/-- EBNAS_PORT_TIMEOUT: the port goes down until a module reset; its memory is no longer mapped (R303, R408). -/
def execEbnasPortTimeout (chip : Nat) (σ : State) : Host.Outcome State Fault Refusal :=
  runEvent (fun m =>
    let w := vget m.regs.ebstat chip 0
    if 16 ≤ chip ∨ !(w.getLsbD 0) then m
    else
      let m : Mach := { m with regs := { m.regs with
        ebstat := vset m.regs.ebstat chip (toW (putBits w.toNat 0 0 0))
        ebDown := m.regs.ebDown ||| ((1 : BitVec 16) <<< chip) } }
      m.logError { cause := 0x6003 } { severity := 3, die := ebnasDie chip }) σ

end Sys2Proof.Machine
end

