-- ==== Sys2Proof/Machine/Scalar.lean ====
section
/-! DEFINITION. The S-slot instructions: integers, logic, fields, moves, predicates and floating point (R141 to R146). -/

namespace Sys2Proof.Machine

/-- Signed division rounded toward zero, with its two special cases (R142). -/
def divS (x y : Word) : Word :=
  if y = 0 then BitVec.allOnes 64 else if x = 2 ^ 63 ∧ y = BitVec.allOnes 64 then 2 ^ 63 else x.sdiv y

/-- Unsigned division (R142). -/
def divU (x y : Word) : Word := if y = 0 then BitVec.allOnes 64 else x / y

/-- Signed remainder with the sign of the dividend (R142). -/
def remS (x y : Word) : Word := if y = 0 then x else if x = 2 ^ 63 ∧ y = BitVec.allOnes 64 then 0 else x.srem y

/-- Unsigned remainder (R142). -/
def remU (x y : Word) : Word := if y = 0 then x else x % y

/-- Leading zeros, 64 for zero (R143). -/
def clz64 (x : Word) : Nat := if x = 0 then 64 else 63 - x.toNat.log2

/-- Trailing zeros, 64 for zero (R143). -/
def ctz64 (x : Word) : Nat := ((List.range 64).find? fun k => x.getLsbD k).getD 64

/-- One bits (R143). -/
def popCount (x : Word) : Nat := ((List.range 64).filter fun k => x.getLsbD k).length

/-- Position and length of a bit field: pos = gb<5:0>, n = min(gb<14:8>, 64 − pos) (R143). -/
def fieldOf (y : Word) : Nat × Nat := (y.toNat % 64, Min.min (bits y.toNat 14 8) (64 - y.toNat % 64))

/-- BEXT's result (R143). -/
def bextOf (s : Bool) (x y : Word) : Word :=
  let (pos, n) := fieldOf y
  if n = 0 then 0
  else
    let f := bits x.toNat (pos + n - 1) pos
    if s then ofI (sext n f) else toW f

/-- BINS's result (R143). -/
def binsOf (z x y : Word) : Word :=
  let (pos, n) := fieldOf y
  if n = 0 then z else toW (putBits z.toNat (pos + n - 1) pos x.toNat)

/-- ADD (R142). -/
def execAdd (gu : Guard) (d : GF) (a : GF) (b : GF) (σ : State) : Host.Outcome State Fault Refusal :=
  runSlot (.add gu d a b) .s0 (some gu) (opRR (· + ·) d a b) σ

/-- SUB (R142). -/
def execSub (gu : Guard) (d : GF) (a : GF) (b : GF) (σ : State) : Host.Outcome State Fault Refusal :=
  runSlot (.sub gu d a b) .s0 (some gu) (opRR (· - ·) d a b) σ

/-- ADDI (R142). -/
def execAddi (gu : Guard) (d : GF) (a : GF) (m : BitVec 11) (σ : State) : Host.Outcome State Fault Refusal :=
  runSlot (.addi gu d a m) .s0 (some gu) (opR (· + m.signExtend 64) d a) σ

/-- ADDSH (R142). -/
def execAddsh (gu : Guard) (d : GF) (a : GF) (b : GF) (s : BitVec 6) (σ : State) : Host.Outcome State Fault Refusal :=
  runSlot (.addsh gu d a b s) .s0 (some gu) (opRR (fun x y => x + y <<< s.toNat) d a b) σ

/-- MUL (R142). -/
def execMul (gu : Guard) (d : GF) (a : GF) (b : GF) (σ : State) : Host.Outcome State Fault Refusal :=
  runSlot (.mul gu d a b) .s0 (some gu) (opRR (· * ·) d a b) σ

/-- MULH: the high half of the signed product (R142). -/
def execMulh (gu : Guard) (d : GF) (a : GF) (b : GF) (σ : State) : Host.Outcome State Fault Refusal :=
  runSlot (.mulh gu d a b) .s0 (some gu) (opRR (fun x y => ofI (x.toInt * y.toInt / 2 ^ 64)) d a b) σ

/-- MULHU (R142). -/
def execMulhu (gu : Guard) (d : GF) (a : GF) (b : GF) (σ : State) : Host.Outcome State Fault Refusal :=
  runSlot (.mulhu gu d a b) .s0 (some gu) (opRR (fun x y => toW (x.toNat * y.toNat / 2 ^ 64)) d a b) σ

/-- MADD (R142). -/
def execMadd (gu : Guard) (d : GF) (a : GF) (b : GF) (σ : State) : Host.Outcome State Fault Refusal :=
  runSlot (.madd gu d a b) .s0 (some gu) (opRRR (fun z x y => z + x * y) d a b) σ

/-- DIV (R142). -/
def execDiv (gu : Guard) (d : GF) (a : GF) (b : GF) (σ : State) : Host.Outcome State Fault Refusal :=
  runSlot (.div gu d a b) .s0 (some gu) (opRR divS d a b) σ

/-- DIVU (R142). -/
def execDivu (gu : Guard) (d : GF) (a : GF) (b : GF) (σ : State) : Host.Outcome State Fault Refusal :=
  runSlot (.divu gu d a b) .s0 (some gu) (opRR divU d a b) σ

/-- REM (R142). -/
def execRem (gu : Guard) (d : GF) (a : GF) (b : GF) (σ : State) : Host.Outcome State Fault Refusal :=
  runSlot (.rem gu d a b) .s0 (some gu) (opRR remS d a b) σ

/-- REMU (R142). -/
def execRemu (gu : Guard) (d : GF) (a : GF) (b : GF) (σ : State) : Host.Outcome State Fault Refusal :=
  runSlot (.remu gu d a b) .s0 (some gu) (opRR remU d a b) σ

/-- MIN (R142). -/
def execMin (gu : Guard) (d : GF) (a : GF) (b : GF) (σ : State) : Host.Outcome State Fault Refusal :=
  runSlot (.min gu d a b) .s0 (some gu) (opRR (fun x y => if x.slt y then x else y) d a b) σ

/-- MAX (R142). -/
def execMax (gu : Guard) (d : GF) (a : GF) (b : GF) (σ : State) : Host.Outcome State Fault Refusal :=
  runSlot (.max gu d a b) .s0 (some gu) (opRR (fun x y => if x.slt y then y else x) d a b) σ

/-- MINU (R142). -/
def execMinu (gu : Guard) (d : GF) (a : GF) (b : GF) (σ : State) : Host.Outcome State Fault Refusal :=
  runSlot (.minu gu d a b) .s0 (some gu) (opRR (fun x y => if x.ult y then x else y) d a b) σ

/-- MAXU (R142). -/
def execMaxu (gu : Guard) (d : GF) (a : GF) (b : GF) (σ : State) : Host.Outcome State Fault Refusal :=
  runSlot (.maxu gu d a b) .s0 (some gu) (opRR (fun x y => if x.ult y then y else x) d a b) σ

/-- AND (R143). -/
def execAnd (gu : Guard) (d : GF) (a : GF) (b : GF) (σ : State) : Host.Outcome State Fault Refusal :=
  runSlot (.and gu d a b) .s0 (some gu) (opRR (· &&& ·) d a b) σ

/-- OR (R143). -/
def execOr (gu : Guard) (d : GF) (a : GF) (b : GF) (σ : State) : Host.Outcome State Fault Refusal :=
  runSlot (.or gu d a b) .s0 (some gu) (opRR (· ||| ·) d a b) σ

/-- XOR (R143). -/
def execXor (gu : Guard) (d : GF) (a : GF) (b : GF) (σ : State) : Host.Outcome State Fault Refusal :=
  runSlot (.xor gu d a b) .s0 (some gu) (opRR (· ^^^ ·) d a b) σ

/-- ANDN (R143). -/
def execAndn (gu : Guard) (d : GF) (a : GF) (b : GF) (σ : State) : Host.Outcome State Fault Refusal :=
  runSlot (.andn gu d a b) .s0 (some gu) (opRR (fun x y => x &&& ~~~y) d a b) σ

/-- ANDI (R143). -/
def execAndi (gu : Guard) (d : GF) (a : GF) (m : BitVec 11) (σ : State) : Host.Outcome State Fault Refusal :=
  runSlot (.andi gu d a m) .s0 (some gu) (opR (· &&& m.signExtend 64) d a) σ

/-- ORI (R143). -/
def execOri (gu : Guard) (d : GF) (a : GF) (m : BitVec 11) (σ : State) : Host.Outcome State Fault Refusal :=
  runSlot (.ori gu d a m) .s0 (some gu) (opR (· ||| m.signExtend 64) d a) σ

/-- XORI (R143). -/
def execXori (gu : Guard) (d : GF) (a : GF) (m : BitVec 11) (σ : State) : Host.Outcome State Fault Refusal :=
  runSlot (.xori gu d a m) .s0 (some gu) (opR (· ^^^ m.signExtend 64) d a) σ

/-- SLL (R143). -/
def execSll (gu : Guard) (d : GF) (a : GF) (b : GF) (σ : State) : Host.Outcome State Fault Refusal :=
  runSlot (.sll gu d a b) .s0 (some gu) (opRR (fun x y => x <<< (y.toNat % 64)) d a b) σ

/-- SRL (R143). -/
def execSrl (gu : Guard) (d : GF) (a : GF) (b : GF) (σ : State) : Host.Outcome State Fault Refusal :=
  runSlot (.srl gu d a b) .s0 (some gu) (opRR (fun x y => x >>> (y.toNat % 64)) d a b) σ

/-- SRA (R143). -/
def execSra (gu : Guard) (d : GF) (a : GF) (b : GF) (σ : State) : Host.Outcome State Fault Refusal :=
  runSlot (.sra gu d a b) .s0 (some gu) (opRR (fun x y => x.sshiftRight (y.toNat % 64)) d a b) σ

/-- SLLI (R143). -/
def execSlli (gu : Guard) (d : GF) (a : GF) (n : BitVec 6) (σ : State) : Host.Outcome State Fault Refusal :=
  runSlot (.slli gu d a n) .s0 (some gu) (opR (· <<< n.toNat) d a) σ

/-- SRLI (R143). -/
def execSrli (gu : Guard) (d : GF) (a : GF) (n : BitVec 6) (σ : State) : Host.Outcome State Fault Refusal :=
  runSlot (.srli gu d a n) .s0 (some gu) (opR (· >>> n.toNat) d a) σ

/-- SRAI (R143). -/
def execSrai (gu : Guard) (d : GF) (a : GF) (n : BitVec 6) (σ : State) : Host.Outcome State Fault Refusal :=
  runSlot (.srai gu d a n) .s0 (some gu) (opR (·.sshiftRight n.toNat) d a) σ

/-- ROR (R143). -/
def execRor (gu : Guard) (d : GF) (a : GF) (b : GF) (σ : State) : Host.Outcome State Fault Refusal :=
  runSlot (.ror gu d a b) .s0 (some gu) (opRR (fun x y => x.rotateRight (y.toNat % 64)) d a b) σ

/-- CLZ (R143). -/
def execClz (gu : Guard) (d : GF) (a : GF) (σ : State) : Host.Outcome State Fault Refusal :=
  runSlot (.clz gu d a) .s0 (some gu) (opR (fun x => toW (clz64 x)) d a) σ

/-- CTZ (R143). -/
def execCtz (gu : Guard) (d : GF) (a : GF) (σ : State) : Host.Outcome State Fault Refusal :=
  runSlot (.ctz gu d a) .s0 (some gu) (opR (fun x => toW (ctz64 x)) d a) σ

/-- POPC (R143). -/
def execPopc (gu : Guard) (d : GF) (a : GF) (σ : State) : Host.Outcome State Fault Refusal :=
  runSlot (.popc gu d a) .s0 (some gu) (opR (fun x => toW (popCount x)) d a) σ

/-- BEXT (R143). -/
def execBext (gu : Guard) (d : GF) (a : GF) (b : GF) (s : Bool) (σ : State) : Host.Outcome State Fault Refusal :=
  runSlot (.bext gu d a b s) .s0 (some gu) (opRR (bextOf s) d a b) σ

/-- BINS (R143). -/
def execBins (gu : Guard) (d : GF) (a : GF) (b : GF) (σ : State) : Host.Outcome State Fault Refusal :=
  runSlot (.bins gu d a b) .s0 (some gu) (opRRR binsOf d a b) σ

/-- MOVI (R144). -/
def execMovi (gu : Guard) (d : GF) (m : BitVec 16) (σ : State) : Host.Outcome State Fault Refusal :=
  runSlot (.movi gu d m) .s0 (some gu) (writeG d (m.signExtend 64)) σ

/-- A word with lane `k` of 16 bits replaced (R144). -/
def putLane (x : Word) (k : Nat) (m : BitVec 16) : Word := toW (putBits x.toNat (16 * k + 15) (16 * k) m.toNat)

/-- MOVK, which has no guard; gd is also a source (R144). -/
def execMovk (k : BitVec 2) (d : GF) (m : BitVec 16) (σ : State) : Host.Outcome State Fault Refusal :=
  runSlot (.movk k d m) .s0 none (do
      let z ← readG d
      writeG d (putLane z k.toNat m)) σ

/-- SEL: both operands are read (R144). -/
def execSel (gu : Guard) (d : GF) (a : GF) (b : GF) (q : BitVec 3) (σ : State) : Host.Outcome State Fault Refusal :=
  runSlot (.sel gu d a b q) .s0 (some gu) (do
      let x ← readG a
      let y ← readG b
      let c ← getC
      writeG d (if c.pred q.toNat then x else y)) σ

/-- CMPEQ (R144). -/
def execCmpeq (gu : Guard) (d : BitVec 3) (a : GF) (b : GF) (σ : State) : Host.Outcome State Fault Refusal :=
  runSlot (.cmpeq gu d a b) .s0 (some gu) (opPred (· == ·) d a b) σ

/-- CMPNE (R144). -/
def execCmpne (gu : Guard) (d : BitVec 3) (a : GF) (b : GF) (σ : State) : Host.Outcome State Fault Refusal :=
  runSlot (.cmpne gu d a b) .s0 (some gu) (opPred (· != ·) d a b) σ

/-- CMPLT (R144). -/
def execCmplt (gu : Guard) (d : BitVec 3) (a : GF) (b : GF) (σ : State) : Host.Outcome State Fault Refusal :=
  runSlot (.cmplt gu d a b) .s0 (some gu) (opPred BitVec.slt d a b) σ

/-- CMPLTU (R144). -/
def execCmpltu (gu : Guard) (d : BitVec 3) (a : GF) (b : GF) (σ : State) : Host.Outcome State Fault Refusal :=
  runSlot (.cmpltu gu d a b) .s0 (some gu) (opPred BitVec.ult d a b) σ

/-- CMPGE (R144). -/
def execCmpge (gu : Guard) (d : BitVec 3) (a : GF) (b : GF) (σ : State) : Host.Outcome State Fault Refusal :=
  runSlot (.cmpge gu d a b) .s0 (some gu) (opPred (fun x y => y.sle x) d a b) σ

/-- CMPGEU (R144). -/
def execCmpgeu (gu : Guard) (d : BitVec 3) (a : GF) (b : GF) (σ : State) : Host.Outcome State Fault Refusal :=
  runSlot (.cmpgeu gu d a b) .s0 (some gu) (opPred (fun x y => y.ule x) d a b) σ

/-- CMPEQI (R144). -/
def execCmpeqi (gu : Guard) (d : BitVec 3) (a : GF) (m : BitVec 11) (σ : State) : Host.Outcome State Fault Refusal :=
  runSlot (.cmpeqi gu d a m) .s0 (some gu) (opPredR (· == m.signExtend 64) d a) σ

/-- CMPLTI, signed (R144). -/
def execCmplti (gu : Guard) (d : BitVec 3) (a : GF) (m : BitVec 11) (σ : State) : Host.Outcome State Fault Refusal :=
  runSlot (.cmplti gu d a m) .s0 (some gu) (opPredR (fun x => x.slt (m.signExtend 64)) d a) σ

/-- PLOG: bit 2 p(pa) + p(pb) of the table (R144). -/
def execPlog (gu : Guard) (d : BitVec 3) (a : BitVec 3) (b : BitVec 3) (t : BitVec 4) (σ : State) : Host.Outcome State Fault Refusal :=
  runSlot (.plog gu d a b t) .s0 (some gu) (modC fun c => c.setPred d.toNat (t.getLsbD (2 * (c.pred a.toNat).toNat + (c.pred b.toNat).toNat))) σ

/-- MOVP.get: p7 to p0, p0 as 1 (R144). -/
def execMovpGet (gu : Guard) (d : GF) (σ : State) : Host.Outcome State Fault Refusal :=
  runSlot (.movpGet gu d) .s0 (some gu) (do
      let c ← getC
      writeG d (toW (c.p.toNat ||| 1))) σ

/-- MOVP.set: p1 to p7 from ga (R144). -/
def execMovpSet (gu : Guard) (a : GF) (σ : State) : Host.Outcome State Fault Refusal :=
  runSlot (.movpSet gu a) .s0 (some gu) (do
      let x ← readG a
      modC fun c => { c with p := BitVec.ofNat 8 (x.toNat ||| 1) }) σ

/-- An operation whose exact result is at hand. -/
def exactOp (f : Num → Num → Num × Nat) (x y : Num) : Num × Bool × Nat := ((f x y).1, false, (f x y).2)

/-- FADD (R145). -/
def execFadd (gu : Guard) (d : GF) (a : GF) (b : GF) (z : Bool) (σ : State) : Host.Outcome State Fault Refusal :=
  runSlot (.fadd gu d a b z) .s0 (some gu) (opFp (exactOp Num.add) z d a b) σ

/-- FSUB (R145). -/
def execFsub (gu : Guard) (d : GF) (a : GF) (b : GF) (z : Bool) (σ : State) : Host.Outcome State Fault Refusal :=
  runSlot (.fsub gu d a b z) .s0 (some gu) (opFp (exactOp fun x y => x.add y.negate) z d a b) σ

/-- FMUL (R145). -/
def execFmul (gu : Guard) (d : GF) (a : GF) (b : GF) (z : Bool) (σ : State) : Host.Outcome State Fault Refusal :=
  runSlot (.fmul gu d a b z) .s0 (some gu) (opFp (exactOp Num.mul) z d a b) σ

/-- FFMA: ga × gb + gd with one rounding; gd is read first (R123, R145). -/
def execFfma (gu : Guard) (d : GF) (a : GF) (b : GF) (z : Bool) (σ : State) : Host.Outcome State Fault Refusal :=
  runSlot (.ffma gu d a b z) .s0 (some gu) (do
      let w ← readG d
      let x ← readG a
      let y ← readG b
      let r := Num.fma (fpNum z x) (fpNum z y) (fpNum z w)
      writeFp z d r.1 false (r.2 ||| fpSig z [w, x, y])) σ

/-- FDIV (R145). -/
def execFdiv (gu : Guard) (d : GF) (a : GF) (b : GF) (z : Bool) (σ : State) : Host.Outcome State Fault Refusal :=
  runSlot (.fdiv gu d a b z) .s0 (some gu) (opFp Num.div z d a b) σ

/-- FSQRT (R145). -/
def execFsqrt (gu : Guard) (d : GF) (a : GF) (z : Bool) (σ : State) : Host.Outcome State Fault Refusal :=
  runSlot (.fsqrt gu d a z) .s0 (some gu) (do
      let x ← readG a
      let r := (fpNum z x).sqrt
      writeFp z d r.1 r.2.1 (r.2.2 ||| fpSig z [x])) σ

/-- FMIN (R107, R145). -/
def execFmin (gu : Guard) (d : GF) (a : GF) (b : GF) (z : Bool) (σ : State) : Host.Outcome State Fault Refusal :=
  runSlot (.fmin gu d a b z) .s0 (some gu) (opFp (exactOp fun x y => (Num.pick false x y, 0)) z d a b) σ

/-- FMAX (R107, R145). -/
def execFmax (gu : Guard) (d : GF) (a : GF) (b : GF) (z : Bool) (σ : State) : Host.Outcome State Fault Refusal :=
  runSlot (.fmax gu d a b z) .s0 (some gu) (opFp (exactOp fun x y => (Num.pick true x y, 0)) z d a b) σ

/-- FCMPEQ (R145). -/
def execFcmpeq (gu : Guard) (d : BitVec 3) (a : GF) (b : GF) (z : Bool) (σ : State) : Host.Outcome State Fault Refusal :=
  runSlot (.fcmpeq gu d a b z) .s0 (some gu) (opFpCmp Num.eq z d a b) σ

/-- FCMPLT (R145). -/
def execFcmplt (gu : Guard) (d : BitVec 3) (a : GF) (b : GF) (z : Bool) (σ : State) : Host.Outcome State Fault Refusal :=
  runSlot (.fcmplt gu d a b z) .s0 (some gu) (opFpCmp Num.lt z d a b) σ

/-- FCMPLE (R145). -/
def execFcmple (gu : Guard) (d : BitVec 3) (a : GF) (b : GF) (z : Bool) (σ : State) : Host.Outcome State Fault Refusal :=
  runSlot (.fcmple gu d a b z) .s0 (some gu) (opFpCmp (fun x y => x.lt y || x.eq y) z d a b) σ

/-- FCVT: z names the destination; the source is the other format (R146). -/
def execFcvt (gu : Guard) (d : GF) (a : GF) (z : Bool) (σ : State) : Host.Outcome State Fault Refusal :=
  runSlot (.fcvt gu d a z) .s0 (some gu) (do
      let x ← readG a
      writeFp z d (fpNum (!z) x) false (fpSig (!z) [x])) σ

/-- FTOI: u unsigned, r RoundZ (R146). -/
def execFtoi (gu : Guard) (d : GF) (a : GF) (r : Bool) (u : Bool) (z : Bool) (σ : State) : Host.Outcome State Fault Refusal :=
  runSlot (.ftoi gu d a r u z) .s0 (some gu) (do
      let x ← readG a
      let i := toIntFmt 64 (!u) r (fpNum z x)
      writeG d (ofI i.1)
      flagEvents (i.2 ||| fpSig z [x])) σ

/-- ITOF (R146). -/
def execItof (gu : Guard) (d : GF) (a : GF) (u : Bool) (z : Bool) (σ : State) : Host.Outcome State Fault Refusal :=
  runSlot (.itof gu d a u z) .s0 (some gu) (do
      let x ← readG a
      let i : Int := if u then x.toNat else x.toInt
      writeFp z d (.fin (decide (i < 0)) i.natAbs 0) false 0) σ

/-- The one-hot class of a pattern (R145). -/
def classOf (f : FloatFmt) (x : Nat) : Nat :=
  let (s, e, m) := f.fields x
  if f.isNan x then (if f.isSig x then 2 ^ 8 else 2 ^ 9)
  else if e = 2 ^ f.w - 1 then (if s then 2 ^ 0 else 2 ^ 7)
  else if e = 0 then (if m = 0 then (if s then 2 ^ 3 else 2 ^ 4) else if s then 2 ^ 2 else 2 ^ 5)
  else if s then 2 ^ 1 else 2 ^ 6

/-- FCLASS (R145). -/
def execFclass (gu : Guard) (d : GF) (a : GF) (z : Bool) (σ : State) : Host.Outcome State Fault Refusal :=
  runSlot (.fclass gu d a z) .s0 (some gu) (opR (fun x => toW (((floatFmt (fpCode z)).map fun f => classOf f (fpPat z x)).getD 0)) d a) σ

end Sys2Proof.Machine
end

