-- ==== Sys2Proof/Machine/Scheduler.lean ====
section
/-! DEFINITION. The events of memory, of translation and of the scheduler: writes that arrive (R93), block fills and walks
(R68, R375), ordering, leasing, dispatch, swaps and completion of tasks (R35 to R37, R74, R276 to R288, R392), the
consistent stop (R289, R290), the Bobbin token and stolen teams (R291 to R293, R396, R397). -/

namespace Sys2Proof.Machine

/-- PICKER_PREEMPT_CONTEXT: a core's running continuation is set aside for one of higher priority (R22, R24). -/
def execPickerPreemptContext (core : Nat) (σ : State) : Host.Outcome State Fault Refusal :=
  runEvent (fun m =>
    match m.allConts.find? fun c => c.id ≠ 0 && c.resident && c.gcore == core && c.state == 2 with
    | none => m
    | some c => match m.pickOf core with
      | none => m
      | some b =>
        if min b.prio.toNat 7 ≤ min c.prio.toNat 7 ∨ !c.queue.isEmpty then m
        else if c.poisoned then m.reportEnd c (c.report c.poisonTrap 7 0)
        else ({ (m.recordCont { c with state := 1, since := m.order }) with order := m.order + 1 } : Mach).pick core) σ

/-- WRITE_APPLY_AT_DIE: a die applies the next write of a source once its causal past is there (R93). -/
def execWriteApplyAtDie (die : Nat) (src : Nat) (σ : State) : Host.Outcome State Fault Refusal :=
  runEvent (fun m =>
    match m.mem.flight.find? fun w => w.src = src && w.todo.contains die with
    | none => m
    | some w => if m.mem.canApply die w then { m with mem := m.mem.arrive die w } else m) σ

/-- STRONG_OPERATION_AT_HOME: a pod-scope operation of another module at a location of this one: the home has what it follows,
and what it observes is there for that module's later operations (R90, R91, R101, R301). -/
def execStrongOperationAtHome (src : Byte) (op : StrongOp) (pa : BitVec 52) (wide : Bool) (uns : Bool) (v : Word × Word) (σ : State) : Host.Outcome State Fault Refusal :=
  runEvent (fun m =>
    let n := if wide then 8 else 4
    let a := pa.toNat
    let h := homeOf a
    if a % n ≠ 0 ∨ (m.paFault a).isSome then m
    else
      let m : Mach := { m with mem := m.mem.gather h }
      let old := leNat (m.mem.read h a n)
      let new := if m.mem.marked h a then none else (amoNew op n uns old v.1.toNat v.2.toNat).1
      let m := match new with
        | some x => { m with mem := m.mem.write h a (leBytes n x) false }
        | none => m
      m.sendTo 1 src.toNat (.strong a (toW old))) σ

/-- LOAD_BLOCK_FILL_COMPLETE (R68, R81). -/
def execLoadBlockFillComplete (cont : Nat) (blk : Nat) (σ : State) : Host.Outcome State Fault Refusal :=
  runEvent (fun m =>
    match m.cont? cont with
    | none => m
    | some c => m.fillBlock c blk) σ

/-- A TLB entry of what the page tables hold for a page of a task's context: the permissions of its leaf (R72, R73). -/
def Mach.walkEntry (m : Mach) (die : Nat) (t : Task) (va : Word) : Option TlbEntry :=
  let try_ := fun (need : Acc3) => m.walkFrom die va.toNat need 4 t.entry.ptbase.toNat
  let hit := fun (x : Xl) => match x with
    | .ok pa _ s => some (pa, pageLen s.toNat)
    | _ => none
  let r := hit (try_ .read)
  let w := hit (try_ .write)
  let x := hit (try_ .exec)
  match (r.or w).or x with
  | none => none
  | some (pa, len) => some {
      die := die, ctx := t.ctx, va := toW (alignDown va.toNat len), len := len, pa := alignDown pa len
      perm := BitVec.ofNat 3 (w.isSome.toNat + 2 * r.isSome.toNat + 4 * x.isSome.toNat) }

/-- PAGE_WALK_COMPLETE: a walk's entry is kept; one that meets a draining range is discarded (R73, R375). -/
def execPageWalkComplete (die : Nat) (task : Nat) (va : Word) (σ : State) : Host.Outcome State Fault Refusal :=
  runEvent (fun m =>
    match m.task? task with
    | none => m
    | some t =>
      if !canonical va ∨ t.entry.inHeap va ∨ m.draining t.ctx va then m
      else match m.walkEntry die t va with
        | none => m
        | some e =>
          if m.drainsOn t.ctx e.va.toNat e.len then m else { m with tlb := (m.tlb.filter fun (x : TlbEntry) => !(x.die == die && x.ctx == t.ctx && overlaps x.va.toNat x.len e.va.toNat e.len)) ++ [e] }) σ

/-- The word of a tx register whose translation is complete (R73). -/
def txWord (p : TxPend) : Word := toW (2 ^ 63 + oneBit p.wr 62 + p.size.toNat * 2 ^ 60 + p.pa)

/-- A tx register takes its translation; XLTP's register is written too (R167). -/
def Mach.finishTx (m : Mach) (c : Cont) (n : Nat) (x : Tx) (p : TxPend) : Mach :=
  let m := m.setCont (c.setTx n { x with word := txWord p, rd := p.rd, pend := none })
  match p.dest with
  | some d => m.deliver c.id d (txWord p)
  | none => m

/-- A translation that a drain undid is made again (R73, R375). The failure of one that had not been complete is reported at the
XLT's own bundle (R167; log entry 31); after one that had been, the register stays invalid and the next use finds the
failure itself. -/
def Mach.redoTx (m : Mach) (c : Cont) (t : Task) (n : Nat) (x : Tx) (p : TxPend) : Mach :=
  match m.xlateTask c.die t x.va (if x.wantWrite then .write else .read) with
  | .wait => m
  | .ok pa wr sz => m.finishTx c n x { p with pa := pa, size := sz, wr := wr, rd := m.mayRead c.die t x.va, redo := false }
  | .fail k i =>
    let m := m.setCont (c.dropTx n)
    if p.again then m
    else
      let old := m.cur.id
      let m := m.switchTo c.id
      if m.cur.id ≠ c.id then m
      else
        let m : Mach := { m with cur := { m.cur with pc := p.pc, cursor := none } }
        (m.report { cause := k, faddr := x.va, info := toW i, walk := k == 0x3006 } 2 p.insn).switchTo old

/-- TRANSLATION_COMPLETE (R167). -/
def execTranslationComplete (cont : Nat) (n : Nat) (σ : State) : Host.Outcome State Fault Refusal :=
  runEvent (fun m =>
    match m.cont? cont with
    | none => m
    | some c => match (vget c.tx n {}).pend, m.task? c.task with
      | some p, some t => if p.redo then m.redoTx c t n (vget c.tx n {}) p else m.finishTx c n (vget c.tx n {}) p
      | _, _ => m) σ

/-! ### Ordering, leasing, dispatch, completion -/

/-- TASK_ORDERING_RELEASE: every task it follows is complete, and it has an entry of its die's table (R36, R276, R280). -/
def execTaskOrderingRelease (task : Nat) (σ : State) : Host.Outcome State Fault Refusal :=
  runEvent (fun m =>
    match m.task? task with
    | none => m
    | some t =>
      let d := t.place.headD 0
      if t.stage ≠ .ordering ∨ !(m.predecessors t).isEmpty ∨ !t.entered then m
      else
        let past := m.tasks.filter fun a => a.ctx == t.ctx && decide (a.seq < t.seq) && mustFollow (a.fp ++ a.cards) t.fp
        let mem := past.foldl (fun (x : Mem) (a : Task) => a.place.foldl (fun (x : Mem) e => x.catchUp d (m.mem.stampOf e)) x) m.mem
        ({ m with mem := mem } : Mach).setTask { t with stage := .leasing }) σ

/-- Whether every page of a footprint can be held under a lease now (R73, R74). -/
def Mach.canLease (m : Mach) (t : Task) : Bool :=
  t.fp.all fun r => (parts r.base.toNat r.len).all fun p =>
    !(m.draining t.ctx (toW p.1)) && m.translated (t.place.headD 0) t.ctx t.entry (toW p.1)

/-- TASK_LEASING: the footprint is leased, teams and continuations are created; records of an earlier attempt are released
(R21, R22, R74). -/
def execTaskLeasing (task : Nat) (σ : State) : Host.Outcome State Fault Refusal :=
  runEvent (fun m =>
    match m.task? task with
    | none => m
    | some t =>
      if t.stage ≠ .leasing ∨ !(m.canLease t) then m
      else
        let t : Task := { t with leased := true, stage := .dispatch }
        ((m.releaseRecords task).setTask t).createTeams t) σ

/-- Whether a team of a task may become resident now: not at or past the cut of a stop (R290). -/
def Mach.mayReside (m : Mach) (t : Team) : Bool :=
  match m.task? t.task with
  | some k => match k.guest with
    | some g => !g.halted
    | none => k.stage == .dispatch && !(m.regs.stopPhase == 3 && m.regs.stopCtx == k.ctx)
  | none => false

/-- The end of a team's task because it may not become resident (R22, R394). -/
def Mach.failTeam (m : Mach) (t : Team) (cause : Cause) : Mach := m.endTask t.task { trap := { cause := cause }, die := t.die }

/-- Whether a team waits for residence: new, swapped out, or checkpointed (R30, R31, R41). -/
def Team.waits (t : Team) : Bool := t.res == .waiting || t.res == .out || t.res == .parked

/-- The teams of a die that wait and may become resident. -/
def Mach.waitersOn (m : Mach) (die : Nat) : List Team := m.teams.filter fun t => t.die == die && t.waits && m.mayReside t

/-- Whether a team is served before another (R277). -/
def Mach.teamBefore (m : Mach) (a b : Team) : Bool :=
  match m.task? a.task, m.task? b.task with
  | some x, some y => servedFirst x y a.idx b.idx
  | _, _ => false

/-- A team's place in a list in the order of R277. -/
def Mach.insertTeam (m : Mach) (t : Team) : List Team → List Team
  | [] => [t]
  | u :: r => if m.teamBefore u t then u :: m.insertTeam t r else t :: u :: r

/-- The team of a list that has waited longest (R31). -/
def longestWaiting (l : List Team) : Option Team :=
  l.foldl (fun best t => match best with
    | none => some t
    | some b => if t.since < b.since then some t else some b) none

/-- The teams of a die in the order in which they are served: after a time-slice swap-out the team that has waited longest and
no other (R31), else every waiting team in the order of R277. -/
def Mach.dispatchOrder (m : Mach) (die : Nat) : List Team :=
  if (m.die die).owed then (longestWaiting (m.waitersOn die)).toList
  else (m.waitersOn die).foldr (fun t l => m.insertTeam t l) []

/-- One dispatch attempt over teams in order: the first that can become resident does; one that may not ends its task; one
that finds no room is a newcomer for R287 (R281, R287, R394). -/
def Mach.dispatchGo (m : Mach) (die : Nat) : List Team → Mach
  | [] => m
  | t :: r => match m.admitCheck t with
    | some k => m.failTeam t k
    | none => match m.coresFor t with
      | some cores => m.makeResident t cores
      | none => match (m.task? t.task).bind fun k => m.preempt die k with
        | some x => x
        | none => m.dispatchGo die r

/-- TEAM_DISPATCH: a dispatch attempt of a die (R277, R281, R287, R394). -/
def execTeamDispatch (die : Nat) (σ : State) : Host.Outcome State Fault Refusal :=
  runEvent (fun m =>
    let m := m.retireTeams die
    m.dispatchGo die (m.dispatchOrder die)) σ

/-- TEAM_SWAP_OUT: a leaving team whose work is complete goes to its image (R30, R41). -/
def execTeamSwapOut (task : Nat) (team : Nat) (σ : State) : Host.Outcome State Fault Refusal :=
  runEvent (fun m =>
    match m.team? task team with
    | none => m
    | some t => match t.res with
      | .leaving _ ckpt => if m.teamIdle t then m.swapOut t (if ckpt then .parked else .out) else m
      | _ => m) σ

/-- Whether a team that is next in order keeps later ones back: it could become resident, or its task must end. -/
def Mach.canServe (m : Mach) (t : Team) : Bool := (m.admitCheck t).isSome || (m.coresFor t).isSome

/-- TEAM_SWAP_IN: a swapped-out or checkpointed team returns to its die in its turn (R30, R31, R41, R277, R394). -/
def execTeamSwapIn (task : Nat) (team : Nat) (σ : State) : Host.Outcome State Fault Refusal :=
  runEvent (fun m =>
    match m.team? task team with
    | none => m
    | some t =>
      let m := m.retireTeams t.die
      let order := m.dispatchOrder t.die
      if !(order.contains t) ∨ t.res = .waiting ∨ (order.takeWhile fun u => u ≠ t).any m.canServe then m
      else match m.admitCheck t with
        | some k => m.failTeam t k
        | none => match m.coresFor t with
          | some cores => m.makeResident t cores
          | none => m) σ

/-- SLICE_QUANTUM_EXPIRY: where more teams wait than fit, the resident team of lowest priority and longest residence leaves (R31). -/
def execSliceQuantumExpiry (die : Nat) (σ : State) : Host.Outcome State Fault Refusal :=
  runEvent (fun m =>
    let x := m.die die
    if m.cyc die < x.quantumEnd then m
    else
      let m := m.setDie die { x with quantumEnd := m.cyc die + x.sliceq.toNat }
      let waiting := !(m.waitersOn die).isEmpty
      let prio := fun (t : Team) => ((m.task? t.task).map Task.prio).getD 0
      let pick := (m.teams.filter fun t => t.die == die && t.res == .resident).foldl (fun (best : Option Team) t => match best with
        | none => some t
        | some b => if prio t < prio b ∨ (prio t = prio b ∧ t.since < b.since) then some t else some b) none
      match pick with
      | some t => if waiting then m.beginLeave t false else m
      | none => m) σ

/-- SWAP_ABANDON_TIMEOUT (R392). -/
def execSwapAbandonTimeout (task : Nat) (team : Nat) (σ : State) : Host.Outcome State Fault Refusal :=
  runEvent (fun m =>
    match m.team? task team with
    | none => m
    | some t => match t.res with
      | .leaving since ckpt =>
        if since + 16 * (m.die t.die).sliceq.toNat ≤ m.cyc t.die ∧ !(m.teamIdle t) then m.abandonSwap t ckpt else m
      | _ => m) σ

/-- TASK_COMPLETION (R35, R37, R244). -/
def execTaskCompletion (task : Nat) (σ : State) : Host.Outcome State Fault Refusal :=
  runEvent (fun m => m.completeTask task) σ

/-- An overrun is counted at a die and logged (R284; log entry 32). -/
def Mach.overran (m : Mach) (d : Nat) (ctx : BitVec 12) (seq : Nat) : Mach :=
  (m.setDie d { m.die d with ovrn := (m.die d).ovrn + 1 }).logError { cause := Config.overrunCause } {
    severity := Config.overrunSeverity % 6, die := d, ctx := ctx.toNat, seq := seq, ld := m.ldOf ctx.toNat }

/-- Ends the reservation of a replay and of its nodes in flight (R284). -/
def Mach.endReplayBound (m : Mach) (g : Graph) : Mach :=
  let mine := m.tasks.filter fun t : Task => t.node.map Prod.fst == some g.id
  let m := mine.foldl (fun (m : Mach) t => (m.unreserve t.cls t.resv).setTask { t with deadline := none, resv := [] }) m
  (m.unreserve g.cls g.resv).setGraph { g with deadline := none, resv := [] }

/-- Whether a replay's nodes count a task number as theirs. -/
def nodesName (nodes : List Node) (q : Nat) : Bool := nodes.any fun n => n.prep.any fun t => t.seq == q

/-- DEADLINE_OVERRUN: a task, or the running or pending replay a node of which the number names, is still incomplete past its
deadline by its accepting die's count: it is counted and logged there and its reservation ends (R284; log entry 32). -/
def execDeadlineOverrun (task : Nat) (σ : State) : Host.Outcome State Fault Refusal :=
  runEvent (fun m =>
    match m.graphs.find? fun g => g.running && nodesName g.nodes task with
    | some g => match g.deadline with
      | none => m
      | some e =>
        if m.cyc (acceptingDie g.nodes) ≤ e then m
        else (m.endReplayBound g).overran (acceptingDie g.nodes) g.ctx task
    | none => match m.graphs.findSome? fun g => g.pend.bind fun r => if nodesName r.nodes task then some (g, r) else none with
      | some (g, r) => match r.deadline with
        | none => m
        | some e =>
          if m.cyc (acceptingDie r.nodes) ≤ e then m
          else ((m.unreserve r.cls r.resv).setGraph { g with pend := some { r with deadline := none, resv := [] } }).overran
            (acceptingDie r.nodes) g.ctx task
      | none => match m.task? task with
        | none => m
        | some t => match t.deadline with
          | none => m
          | some e =>
            if m.cyc t.accDie ≤ e ∨ t.stage = .ended ∨ m.taskDone t then m
            else ((m.unreserve t.cls t.resv).setTask { t with deadline := none, resv := [] }).overran t.accDie t.ctx t.seq) σ

/-! ### The consistent stop -/

/-- STOP_BEGIN (R289). -/
def execStopBegin (ctx : BitVec 12) (σ : State) : Host.Outcome State Fault Refusal :=
  runEvent (fun m => m.beginStop ctx) σ

/-- STOP_RESUME (R289, R290). -/
def execStopResume (σ : State) : Host.Outcome State Fault Refusal :=
  runEvent (fun m => m.resumeStop) σ

/-- STOP_SOURCES_STOPPED (R290). -/
def execStopSourcesStopped (σ : State) : Host.Outcome State Fault Refusal :=
  runEvent (fun m => m.stopSources) σ

/-- STOP_DRAIN_COMPLETE (R290). -/
def execStopDrainComplete (σ : State) : Host.Outcome State Fault Refusal :=
  runEvent (fun m => m.stopDrained) σ

/-- STOP_DRAIN_TIMEOUT (R395). -/
def execStopDrainTimeout (σ : State) : Host.Outcome State Fault Refusal :=
  runEvent (fun m => m.stopTimeout) σ

/-! ### The Bobbin token and stolen teams -/

/-- Whether a team is of this module: one it has stolen remains its origin's (R293). -/
def Mach.ours (m : Mach) (t : Team) : Bool := (m.task? t.task).any fun k => k.guest.isNone

/-- Teams of the module that wait and are not resident (R291). -/
def Mach.waitingTeams (m : Mach) : List Team := m.teams.filter fun t => t.waits && m.mayReside t && m.ours t

/-- A module's load byte (R291). -/
def Mach.loadByte (m : Mach) : Byte := BitVec.ofNat 8 (min 255 m.waitingTeams.length)

/-- The lowest die with free contexts on at least `k` cores (R291). -/
def Mach.idleDie (m : Mach) (k : Nat) : Option Nat :=
  (List.range 64).find? fun d => m.eligible d && decide (k ≤ ((m.enabledCores d).filter fun c => (m.freeSlot (16 * d + c)).isSome).length)

/-- The requests of a token as a holder leaves them: its own are removed once it is no longer idle, one is added where it is
idle (R291, R397; log entry 33). -/
def Mach.tokenRequests (m : Mach) (reqs : List StealReq) : List StealReq :=
  let me := m.modIndex
  let die := m.idleDie (bits m.regs.bobthr.toNat 15 8)
  let idle := m.waitingTeams.isEmpty && die.isSome
  let reqs := if idle then reqs else reqs.filter fun r => r.thief ≠ me
  match die with
  | some d => if idle && decide (reqs.length < 8) && !(reqs.any fun r => r.thief = me) then
      reqs ++ [{ thief := me, die := d, count := 1 + Config.stealCount m.freeCount % 16 }] else reqs
  | none => reqs

/-- BOBBIN_TOKEN_ARRIVAL: a token older than one seen is dropped; else it is held (R291, R396). -/
def execBobbinTokenArrival (gen : W32) (loads : List (Nat × Byte)) (reqs : List StealReq) (σ : State) : Host.Outcome State Fault Refusal :=
  runEvent (fun m =>
    if gen.toNat < m.bobbin.gen then m
    else
      let b : Bobbin := {
        held := true, gen := gen.toNat, loads := (loads.filter fun p => p.1 ≠ m.modIndex) ++ [(m.modIndex, m.loadByte)]
        reqs := m.tokenRequests reqs, since := m.cyc 0 }
      { m with bobbin := b, freeCount := m.freeCount + 1 }) σ

/-- Whether a team may be stolen: it is wholly off the cores, swapped out, checkpointed or never dispatched (R292, R294). -/
def Mach.stealable (m : Mach) (t : Team) : Bool :=
  match m.task? t.task with
  | none => false
  | some k => t.waits && m.mayReside t && k.guest.isNone && m.clsBound k.cls == 0 &&
    !(m.dies.any fun d => d.2.rx.toList.any fun r => bit r.word.toNat 63 && r.task == t.task && r.team == t.idx) &&
    !(m.seqs.any fun p => match p.2.run with
      | some r => (m.members t.task t.idx).any fun c => c.id == r.cont
      | none => false)

/-- A team goes to a thief: its task is dispatched if it was not, a release at pod scope covers what the team follows, then
its image and records go over the links; the image stays here until the thief has it (R292, R294, R397). -/
def Mach.sendTeam (m : Mach) (t : Team) (r : StealReq) : Mach :=
  match m.task? t.task with
  | none => m
  | some k =>
    let d := k.place.headD 0
    let m : Mach := { m with mem := ((m.mem.catchUp t.die (m.mem.stampOf 0)).catchUp t.die (m.mem.stampOf d)).spread t.die }
    let m := if k.tstate = 2 then m else m.firstDispatch k
    (m.setTeam { t with res := .sending r.thief }).sendTo 2 r.thief (.team r.die t.task t.idx k.prio k.teams (m.members t.task t.idx))

/-- Serves one request: the teams R31 would swap in last go to the thief, up to a limit, if it can be reached (R292, R406). -/
def Mach.serve (m : Mach) (r : StealReq) (limit : Nat) : Mach × StealReq × Nat :=
  (List.range (min r.count limit)).foldl (fun (x : Mach × StealReq × Nat) _ =>
    let l := x.1.teams.filter fun t => x.1.stealable t && (x.1.portTo r.thief).isSome
    match l.foldl (fun (best : Option Team) t => match best with
        | none => some t
        | some b => if b.since < t.since then some t else some b) none with
    | none => x
    | some t => (x.1.sendTeam t r, { x.2.1 with count := x.2.1.count - 1 }, x.2.2 - 1)) (m, r, limit)

/-- The module the token goes to: the next in index, after the highest the lowest (R291). -/
def Mach.nextModule (m : Mach) : Nat := (m.modIndex + 1) % m.podSize

/-- The token goes on; a pod of one module holds it anew (R291, R301). -/
def Mach.passToken (m : Mach) (loads : List (Nat × Byte)) (reqs : List StealReq) : Mach :=
  if m.nextModule = m.modIndex then { m with bobbin := { m.bobbin with loads := loads, reqs := reqs, since := m.cyc 0 } }
  else ({ m with bobbin := { m.bobbin with held := false, loads := [], reqs := [], since := m.cyc 0 } } : Mach).sendTo 3 m.nextModule
    (.token m.bobbin.gen loads reqs)

/-- BOBHOLD_EXPIRY: requests are served where too many teams wait, and the token goes on (R291, R292). -/
def execBobholdExpiry (σ : State) : Host.Outcome State Fault Refusal :=
  runEvent (fun m =>
    if !m.bobbin.held ∨ m.cyc 0 < m.bobbin.since + m.regs.bobhold.toNat then m
    else
      let give := bits m.regs.bobthr.toNat 7 0
      let r := m.bobbin.reqs.foldl (fun (x : Mach × List StealReq × Nat) q =>
        if q.thief = m.modIndex then (x.1, x.2.1 ++ [q], x.2.2)
        else
          let y := x.1.serve q x.2.2
          (y.1, (if y.2.1.count = 0 then x.2.1 else x.2.1 ++ [y.2.1]), y.2.2)) (m, [], m.waitingTeams.length - give)
      let m := r.1
      m.passToken ((m.bobbin.loads.filter fun p => p.1 ≠ m.modIndex) ++ [(m.modIndex, m.loadByte)]) r.2.1) σ

/-- BOBBIN_TOKEN_REGENERATION: the lowest module that can be reached makes a new token (R396); `reach` has a bit for each module this one reaches. -/
def execBobbinTokenRegeneration (reach : Nat) (σ : State) : Host.Outcome State Fault Refusal :=
  runEvent (fun m =>
    if m.bobbin.held ∨ m.cyc 0 ≤ m.bobbin.since + 2 * m.podSize * m.regs.bobhold.toNat ∨ (List.range m.modIndex).any (fun k => bit reach k) then m
    else
      let b : Bobbin := { held := true, gen := m.bobbin.gen + 1, loads := [(m.modIndex, m.loadByte)], reqs := [], since := m.cyc 0 }
      { m with bobbin := b }) σ

/-- STOLEN_TEAM_ARRIVAL: a team's whole image has landed: it waits on its die, and the origin hears of it; one whose team has
ended meanwhile has been discarded (R292, R397). -/
def execStolenTeamArrival (origin : Nat) (die : Nat) (tag : Nat) (size : Nat) (σ : State) : Host.Outcome State Fault Refusal :=
  runEvent (fun m => match m.inbound.find? fun x => x.origin == origin && x.tag == tag && x.members.length == size with
    | some x => m.landTeam x die
    | none => m) σ

/-- STEAL_ACKNOWLEDGE: the team is the thief's to run (R397). -/
def execStealAcknowledge (task : Nat) (team : Nat) (σ : State) : Host.Outcome State Fault Refusal :=
  runEvent (fun m =>
    match m.team? task team with
    | none => m
    | some t => match t.res with
      | .sending k => m.setTeam { t with res := .stolen k }
      | _ => m) σ

/-- What an access needs of a translation. -/
def accNeed : GuestAcc → Acc3
  | .store => .write
  | .strong .load _ _ _ => .read
  | .strong _ _ _ _ => .write
  | _ => .read

/-- An access of a stolen member at resolved parts, by the port on the member's die (R86, R90, R91, R293). -/
def Mach.guestAccess (m : Mach) (c : Cont) (k : Nat) (acc : GuestAcc) (ps : List (Nat × Nat)) (size : Nat) (v : Word) : Mach :=
  let answer := fun (m : Mach) (x : Nat) (cause : Cause) => m.sendTo 2 k (.answer c.task c.team.toNat c.rank.toNat (toW x) cause)
  let p : SigTarget := .mem (ps.headD (0, 0)).1
  match acc with
  | .load =>
    let m : Mach := { m with mem := m.mem.observe c.die ps }
    if (m.mem.markParts c.die ps).isSome then answer m 0 0x3006 else answer m (leNat (m.mem.readParts c.die ps)) 0
  | .store => { m with mem := m.mem.writeParts c.die ps (leBytes size v.toNat) false }
  | .fence sc => answer { m with mem := if wide sc then m.mem.spread c.die else m.mem } 0 0
  | .strong op sc uns cmp =>
    let m := m.placePrep c.die p size (op != .load && wide sc) (m.mem.stampOf c.die)
    if (m.placeMark p size).isSome then answer m 0 0x3006
    else
      let old := leNat (m.placeRead p size)
      let m := match (amoNew op size uns old v.toNat cmp.toNat).1 with
        | some x => m.placeWrite c.die p (leBytes size x)
        | none => m
      answer (m.placeAcquire c.die p size) old 0

/-- STOLEN_TEAM_ACCESS: an access of a stolen team, performed here on its behalf, behind the notices its module has sent; a
failure of a weak store ends the task, any other goes back to the member (R53, R293, R374). -/
def execStolenTeamAccess (task : Nat) (team : Nat) (rank : Nat) (acc : GuestAcc) (va : Word) (size : Nat) (v : Word) (σ : State) : Host.Outcome State Fault Refusal :=
  runEvent (fun m =>
    match m.task? task, m.member? task team rank, m.thiefOf task team with
    | some t, some c, some k =>
      let aligned := match acc with
        | .strong _ _ _ _ => decide ((size = 4 ∨ size = 8 ∨ size = 1 ∨ size = 2) ∧ va.toNat % size = 0)
        | _ => decide (1 ≤ size ∧ size ≤ 8)
      if m.noticesFrom k || !aligned then m
      else match m.resolveTask c.die (c.leases t) va size (accNeed acc) with
        | .wait => m
        | .fail f =>
          if acc = .store then m.endTask task { trap := f, pc := c.pc, imp := true, sys := c.sysMode, die := c.die }
          else m.sendTo 2 k (.answer task team rank 0 f.cause)
        | .ok ps => m.guestAccess c k acc ps size v
    | _, _, _ => m) σ

end Sys2Proof.Machine
end

