-- ==== Sys2Proof/Machine/System.lean ====
section
/-! DEFINITION. The K-slot task, graph and system instructions: spawning (R248, R249), graph tokens and status (R250, R251),
TEAMQ, HINT, PRMT (R252 to R254), system registers (R255), ERET, TLBDRN, TLBCNF, LEASEG, CINV (R258 to R261), and the
events of their answers. -/

namespace Sys2Proof.Machine

/-! ### Spawning -/

/-- The wait before a request, and its release at module scope to the launch unit on die 0 (R162, R248). -/
def sendRequest : Act Unit := do
  reportPoint
  awaitFills
  performEarlier
  modM fun m => { m with mem := m.mem.catchUp 0 (m.mem.stampOf m.cur.die) }

/-- A record or descriptor named by an instruction: its alignment, then its translation (R248, R366). -/
def probe (x : Word) (n : Nat) : Act Unit := do
  raiseIf (decide (x.toNat % n ≠ 0)) 0x2001 x
  let m ← getM
  match m.task? m.cur.task with
  | none => raise 0x3002 x
  | some t => match m.resolveCtx m.cur.die t.ctx t.entry x n .read with
    | .ok _ => pure ()
    | .fail f => raiseT f
    | .wait => await

/-- A destination that an answer will write later: free of another answer, and a stream that can be pushed (R123, R128). -/
def checkDest (d : GF) : Act Unit := do
  let c ← getC
  awaitIf (c.awaits d)
  if d.toNat < 24 then pure ()
  else match vget c.streams (d.toNat - 24) none with
    | none => raise 0x200B
    | some s =>
      if !s.out then raise 0x200A
      else raiseIf (decide (s.remaining = 0)) 0x2009

/-- Requests of a context whose sources a stop holds wait (R290). -/
def awaitSources : Act Unit := do
  let m ← getM
  awaitIf (m.sourcesHeld m.cur.ctx)

/-- Who a continuation submits as: its context, its task's class, its own priority and mode (R242, R244, R282). -/
def Mach.submitter (m : Mach) : Submitter :=
  { ctx := m.cur.ctx, cls := ((m.task? m.cur.task).map Task.cls).getD 0, path := min m.cur.prio.toNat 7, sys := m.cur.sysMode }

/-- The launch unit's answer is on its way to a register of the issuing continuation (R248). -/
def expect (d : GF) (v : Option Word) : Act Unit := modC fun c => { c with answers := c.answers ++ [{ d := d, value := v }] }

/-- What an instruction does where its task is: a member of a stolen team asks its origin, whose answer comes later (R293). -/
def atOrigin (d : GF) (r : GuestReq) (act : Act (Option Word)) : Act (Option Word) := do
  let m ← getM
  match m.guestOf m.cur with
  | none => act
  | some g => do
    modM fun m => m.sendTo 2 g.origin (.request g.task g.team m.cur.rank.toNat d r)
    pure none

/-- A register takes a result at once, or once it comes. -/
def writeOrExpect (d : GF) (v : Option Word) : Act Unit :=
  match v with
  | some x => writeG d x
  | none => expect d none

/-- A task record is submitted (R248). -/
def tspawnAt (x : Word) : Act (Option Word) := do
  probe x 128
  awaitSources
  sendRequest
  let m ← getM
  let r := m.enrol m.submitter x
  modM fun _ => r.1
  pure (some (match r.2 with
    | .ok q => toW (q % 2 ^ 63)
    | .error k => toW (2 ^ 63 + k)))

/-- TSPAWN: a task record is submitted; its seq or a reason comes back (R248). -/
def execTspawn (gu : Guard) (d : GF) (a : GF) (σ : State) : Host.Outcome State Fault Refusal :=
  runSlot (.tspawn gu d a) .k (some gu) (do
    checkDest d
    let x ← readG a
    let v ← atOrigin d (.tspawn x) (tspawnAt x)
    expect d v) σ

/-- Creates a helper continuation of the issuing task: its record's address, or all ones (R249). -/
def Mach.createHelper (m : Mach) (t : Task) (entry g1 : Word) (fmt : W32) : Mach × Word :=
  if 65536 ≤ t.helpers ∨ !(Config.poolHolds t.ctx.toNat (2048 + t.hdr.window)) then (m, BitVec.allOnes 64)
  else
    let c := m.cur
    let team := t.teams + t.helpers
    let va := newRecord t.ctx.toNat m.freeCount
    let helper : Team := { task := t.seq, idx := team, die := c.die, size := 1, since := m.cyc c.die }
    let m := { m with teams := m.teams ++ [helper] }
    let m := m.setTask { t with helpers := t.helpers + 1 }
    (m.createCont t team 0 c.die fun h => { h with
      pc := entry.setWidth 48, claim := false, prio := c.prio, fmt := fmt, lc := Vector.replicate 4 0
      sysMode := t.recSys && c.sysMode
      g := Vector.ofFn fun k => if k.val = 1 then g1 else if k.val = 2 then toW team else if k.val = 4 then toW t.grid.toNat else 0 }, va)

/-- A helper of the issuer's grid and task is asked for, with the format it starts with (R249). -/
def crspawnAt (x y : Word) (f : W32) : Act (Option Word) := do
  awaitSources
  sendRequest
  let m ← getM
  match m.task? m.cur.task with
  | none => pure (some (BitVec.allOnes 64))
  | some t => do
    let r := m.createHelper t x y f
    modM fun _ => r.1
    pure (some r.2)

/-- CRSPAWN: one helper continuation of the issuer's grid and task (R249). -/
def execCrspawn (gu : Guard) (d : GF) (a : GF) (b : GF) (σ : State) : Host.Outcome State Fault Refusal :=
  runSlot (.crspawn gu d a b) .k (some gu) (do
    checkDest d
    let x ← readG a
    let y ← readG b
    let f ← takeFmt
    let v ← atOrigin d (.crspawn x y f) (crspawnAt x y f)
    expect d v) σ

/-- A replay is asked for (R39, R248). -/
def glnchAt (x : Word) : Act (Option Word) := do
  probe x 64
  awaitSources
  sendRequest
  let m ← getM
  let r := m.requestReplay m.submitter x
  modM fun _ => r.1
  pure (some (match r.2 with
    | .started => 0
    | .held => 1
    | .full => 2
    | .refused k => toW (3 + k % 65536 * 65536)))

/-- GLNCH: a replay is started, held as pending, or refused (R39, R248). -/
def execGlnch (gu : Guard) (d : GF) (a : GF) (σ : State) : Host.Outcome State Fault Refusal :=
  runSlot (.glnch gu d a) .k (some gu) (do
    checkDest d
    let x ← readG a
    let v ← atOrigin d (.glnch x) (glnchAt x)
    expect d v) σ

/-! ### Graph tokens and status -/

/-- The node count of a descriptor in memory, for a graph with no running replay (R246). -/
def Mach.countOf (m : Mach) (x : Word) : Nat :=
  match m.task? m.cur.task with
  | none => 0
  | some t => match m.ctxRead m.cur.die t.ctx t.entry (x + 8) 4 with
    | some b => leNat b
    | none => 0

/-- One token from software for a node of a graph's running replay: the node's count, or all ones (R250). -/
def gtokAt (x y : Word) : Act (Option Word) := do
  probe x 64
  let m ← getM
  let i := bits y.toNat 15 0
  let run := (m.graphOf m.cur.ctx x).bind fun g => if g.running then some g else none
  let n := match run with
    | some g => g.count
    | none => m.countOf x
  raiseIf (decide (n ≤ i ∨ 65536 ≤ y.toNat)) 0x2003
  sendRequest
  match run with
  | none => pure (some (BitVec.allOnes 64))
  | some g => do
    let old := ((g.nodes[i]?).map Node.tokens).getD 0
    modM fun m => m.addToken g.id i true
    pure (some (toW (old + 1)))

/-- GTOK: one token from software to a node of the running replay (R250); the token may have ended the issuer's own task. -/
def execGtok (gu : Guard) (d : GF) (a : GF) (b : GF) (σ : State) : Host.Outcome State Fault Refusal :=
  runSlot (.gtok gu d a b) .k (some gu) (do
    let x ← readG a
    let y ← readG b
    let v ← atOrigin d (.gtok x y) (gtokAt x y)
    let c ← getC
    if c.id = 0 then pure () else writeOrExpect d v) σ

/-- GSTAT's word of a graph (R251). -/
def Graph.statWord (g : Graph) : Word :=
  toW (g.flags + oneBit g.cur 4 + (if g.running then (g.nodes.filter fun n => n.st == 3).length else 0) * 2 ^ 16 + g.replays % 2 ^ 24 * 2 ^ 40)

/-- GSTAT's word of a node (R251). -/
def Node.statWord (n : Node) : Word :=
  toW (n.st + n.tokens % 65536 * 2 ^ 8 + n.retries % 16 * 2 ^ 24 + n.ncause.toNat * 2 ^ 32)

/-- GSTAT's word of a graph the executor has not met, from its descriptor in memory (R246). -/
def descWord (b : List Byte) : Word := toW (leAt b 12 4 % 16 + oneBit (bit (leAt b 36 1) 0) 4 + leAt b 56 8 % 2 ^ 24 * 2 ^ 40)

/-- GSTAT's word of a node the executor has not met, from its record in memory (R247). -/
def recordWord (w : Nat) : Word :=
  toW (bits w 183 176 + bits w 175 160 * 2 ^ 8 + bits w 187 184 * 2 ^ 24 + bits w 271 256 * 2 ^ 32)

/-- What GSTAT reads (R251): the executor's copy where it holds the graph, else memory. -/
def Mach.gstatWord (m : Mach) (x y : Word) (node : Bool) : Word :=
  let read := fun (a : Word) (k : Nat) => (m.task? m.cur.task).bind fun t => m.ctxRead m.cur.die t.ctx t.entry a k
  match m.graphOf m.cur.ctx x with
  | some g =>
    if !node then g.statWord
    else if 65536 ≤ y.toNat ∨ m.countOf x ≤ y.toNat then 0
    else match g.nodes[y.toNat]? with
      | some n => n.statWord
      | none => match read (g.nodesVa + toW (128 * y.toNat)) 128 with
        | some b => recordWord (leNat b)
        | none => 0
  | none => match read x 64 with
    | none => 0
    | some b =>
      if !node then descWord b
      else if 65536 ≤ y.toNat ∨ leAt b 8 4 ≤ y.toNat then 0
      else match read (toW (leAt b 0 8) + toW (128 * y.toNat)) 128 with
        | some r => recordWord (leNat r)
        | none => 0

/-- The word GSTAT gives for a graph whose descriptor can be reached (R251). -/
def gstatAt (x y : Word) (n : Bool) : Act (Option Word) := do
  probe x 64
  let m ← getM
  pure (some (m.gstatWord x y n))

/-- GSTAT: a graph's or a node's state as it stands (R251). -/
def execGstat (gu : Guard) (d : GF) (a : GF) (b : GF) (n : Bool) (σ : State) : Host.Outcome State Fault Refusal :=
  runSlot (.gstat gu d a b n) .k (some gu) (do
    let x ← readG a
    let y ← (if n then readG b else pure 0)
    let v ← atOrigin d (.gstat x y n) (gstatAt x y n)
    writeOrExpect d v) σ

/-! ### Team queries, hints, pre-emption -/

/-- TEAMQ: a rank's binding, or the team's shape (R252). -/
def execTeamq (gu : Guard) (d : GF) (a : GF) (t : Bool) (σ : State) : Host.Outcome State Fault Refusal :=
  runSlot (.teamq gu d a t) .k (some gu) (do
    let x ← (if t then pure 0 else readG a)
    let m ← getM
    let c := m.cur
    if t then do
      let size := ((m.team? c.task c.team.toNat).map Team.size).getD 1
      let teams := ((m.task? c.task).map Task.teams).getD 1
      writeG d (toW (size + c.die * 2 ^ 8 + c.winLimit / 4096 * 2 ^ 16 + teams * 2 ^ 32))
    else match (if x.toNat < 16 then m.member? c.task c.team.toNat x.toNat else none) with
      | none => writeG d 0
      | some r => writeG d (toW (r.core + r.die * 2 ^ 4 + oneBit r.claim 10 + 2 ^ 15))) σ

/-- HINT: the remaining-time estimate of the issuer's record (R253). -/
def execHint (gu : Guard) (a : GF) (σ : State) : Host.Outcome State Fault Refusal :=
  runSlot (.hint gu a) .k (some gu) (do
    let x ← readG a
    modC fun c => { c with rtime := BitVec.ofNat 48 (min x.toNat (2 ^ 48 - 1)) }
    modM fun m => m.putRecord m.cur) σ

/-- The task of the issuer's context with a record address: running, else any. -/
def Mach.taskAt (m : Mach) (ctx : BitVec 12) (va : Word) : Option Task :=
  let l := m.tasks.filter fun t => t.ctx == ctx && t.recVa == va && t.stage ≠ .ended
  match l.find? fun t => t.tstate = 2 with
  | some t => some t
  | none => l.head?

/-- Whether a task of another context has its record at the physical address the issuer's names (R254). -/
def Mach.foreignRecord (m : Mach) (va : Word) : Bool :=
  match m.task? m.cur.task with
  | none => false
  | some me => match m.resolveCtx m.cur.die me.ctx me.entry va 128 .read with
    | .ok ps => m.tasks.any fun t => t.ctx ≠ m.cur.ctx && t.stage ≠ .ended &&
        (match m.resolveCtx 0 t.ctx t.entry t.recVa 128 .read with
          | .ok qs => qs == ps
          | _ => false)
    | _ => false

/-- PRMT's outcome for a running task: 4 where its policy excludes the one asked for (R254, R287). -/
def Mach.prmtOutcome (m : Mach) (t : Task) (asked : Nat) : Nat :=
  let pol := m.policy t
  if asked = 0 then restrict pol (m.chooseOutcome (t.place.headD 0) t)
  else if restrict pol asked ≠ asked then 4
  else asked

/-- The scheduler is asked to pre-empt a task of the issuer's context; its answer is on its way, or comes once a checkpoint has
taken effect (R254). -/
def prmtAt (d : GF) (x y : Word) : Act Unit := do
  probe x 128
  let m ← getM
  match m.taskAt m.cur.ctx x with
  | none => expect d (some (if m.foreignRecord x then 5 else 0))
  | some t =>
    if t.tstate ≠ 2 then expect d (some 0)
    else do
      let out := m.prmtOutcome t (bits y.toNat 1 0)
      if out = 4 then expect d (some 4)
      else if out = 3 then do
        modM fun m => m.carryOut t 3 (some (t.place.headD 0))
        expect d (some 3)
      else if out = 1 then do
        expect d (some 1)
        modM fun m => (m.carryOut t 1 none).pickAll
      else do
        expect d none
        modM fun m => (({ m with prmts := m.prmts ++ [{ cont := m.cur.id, d := d, task := t.seq }] } : Mach).carryOut t 2 none).answerPrmt t.seq

/-- PRMT: the scheduler is asked to pre-empt a task of the issuer's context (R254). -/
def execPrmt (gu : Guard) (d : GF) (a : GF) (b : GF) (σ : State) : Host.Outcome State Fault Refusal :=
  runSlot (.prmt gu d a b) .k (some gu) (do
    checkDest d
    let x ← readG a
    let y ← readG b
    let m ← getM
    if (m.guestOf m.cur).isSome then do
      let v ← atOrigin d (.prmt x y) (pure none)
      expect d v
    else prmtAt d x y) σ

/-! ### System registers -/

/-- SYSRD (R255): bundles run in order, so both serialise by themselves. -/
def execSysrd (gu : Guard) (d : GF) (x : BitVec 12) (σ : State) : Host.Outcome State Fault Refusal :=
  runSlot (.sysrd gu d x) .k (some gu) (do
    let v ← readReg x.toNat
    writeG d v) σ

/-- SYSWR (R255). -/
def execSyswr (gu : Guard) (d : GF) (x : BitVec 12) (σ : State) : Host.Outcome State Fault Refusal :=
  runSlot (.syswr gu d x) .k (some gu) (do
    let s ← regCheck x.toNat
    let v ← readG d
    if s = .cluster then performEarlier else pure ()
    writeReg x.toNat v) σ

/-! ### Privileged control -/

/-- ERET: back from a handler to b(N), the mode from TSAVE (R258). -/
def execEret (gu : Guard) (b : BitVec 3) (σ : State) : Host.Outcome State Fault Refusal :=
  runSlot (.eret gu b) .k (some gu) (do
    needSystem
    let c ← getC
    let target := vget c.b b.toNat 0
    raiseIf (decide (target.toNat % 4 ≠ 0)) 0x1004 (target.setWidth 64)
    returnFrom target) σ

/-- A tx register after a drain of a range: a translation in it reads invalid and is made again on its next use, a pending one
starts again (R73, R378). -/
def Tx.drained (x : Tx) (base len : Nat) : Tx :=
  let page := pageLen (match x.pend with
    | some p => p.size.toNat
    | none => bits x.word.toNat 61 60)
  if !(overlaps base len (alignDown x.va.toNat page) page) then x
  else match x.pend with
    | some p => { x with pend := some { p with redo := true } }
    | none =>
      if bits x.word.toNat 61 60 = 3 || !(x.word.getLsbD 63) then x
      else { x with
        word := toW (x.word.toNat % 2 ^ 63)
        pend := some { pa := 0, size := BitVec.ofNat 2 (bits x.word.toNat 61 60), wr := false, redo := true, again := true, dest := none } }

/-- A range of a context is draining, for the continuation that asked (R73, R259). -/
def Mach.drainRange (m : Mach) (ctx : BitVec 12) (x y : Word) : Mach :=
  ({ m with drains := m.drains ++ [{ cont := m.cur.id, ctx := ctx, base := x, len := y.toNat }] } : Mach).mapConts
    fun k => if k.ctx = ctx then { k with tx := k.tx.map fun t => t.drained x.toNat y.toNat } else k

/-- TLBDRN: entries, tx registers and walks of a context over a range are draining (R73, R259). -/
def execTlbdrn (gu : Guard) (d : GF) (a : GF) (b : GF) (c : Bool) (σ : State) : Host.Outcome State Fault Refusal :=
  runSlot (.tlbdrn gu d a b c) .k (some gu) (do
    needSystem
    let z ← (if c then readG d else pure 0)
    let x ← readG a
    let y ← readG b
    let m ← getM
    let ctx : BitVec 12 := if c then z.setWidth 12 else m.cur.ctx
    raiseIf (decide (x.toNat % 65536 ≠ 0 ∨ y.toNat % 65536 ≠ 0 ∨ y = 0 ∨ 2 ^ 55 < y.toNat ∨ (c ∧ m.regs.ctxcnt.toNat ≤ ctx.toNat))) 0x2003
    let _ ← atOrigin 0 (.tlbdrn ctx x y) (do
      modM fun m => m.drainRange ctx x y
      pure none)
    pure ()) σ

/-- TLBCNF: later bundles hold until the drains the continuation made are over (R259). -/
def execTlbcnf (gu : Guard) (σ : State) : Host.Outcome State Fault Refusal :=
  runSlot (.tlbcnf gu) .k (some gu) (do
    needSystem
    performEarlier
    let m ← getM
    if (m.guestOf m.cur).isSome then do
      let _ ← atOrigin 0 .tlbcnf (pure none)
      modC fun c => { c with inTlbcnf := true }
    else modM fun m =>
      if m.drains.any (fun d => d.cont == m.cur.id) then ({ m with cur := { m.cur with inTlbcnf := true } } : Mach).settleTlb else m) σ

/-- The page of an address as its context maps it now; a 64 KiB one where it maps none (R72, R260). -/
def Mach.pageOf (m : Mach) (ctx : BitVec 12) (va : Word) : Nat × Nat :=
  let len := match m.ctxEntryNow m.cur.die ctx with
    | none => 65536
    | some e => if e.inHeap va then 65536 else ([Acc3.read, .write, .exec].findSome? fun k => match m.walkFrom m.cur.die va.toNat k 4 e.ptbase.toNat with
      | .ok _ _ s => some (pageLen s.toNat)
      | _ => none).getD 65536
  (alignDown va.toNat len, len)

/-- What LEASEG reads of the leases on a page of a context (R260). -/
def Mach.leaseWord (m : Mach) (x y : Word) : Word :=
  if !canonical x ∨ 4096 ≤ y.toNat ∨ m.regs.ctxcnt.toNat ≤ y.toNat then 0
  else
    let ctx : BitVec 12 := y.setWidth 12
    let p := m.pageOf ctx x
    let l := (m.tasks.filter fun t => t.leased && t.ctx == ctx && t.guest.isNone).flatMap fun t =>
      (t.fp.filter fun r => overlaps r.base.toNat r.len p.1 p.2).map fun _ => t
    let first := match l.map Task.seq with
      | [] => 0
      | q :: r => r.foldl min q
    let held := m.drains.any fun k => k.ctx == ctx && overlaps k.base.toNat k.len p.1 p.2 && ((m.cont? k.cont).map Cont.inTlbcnf) == some true
    toW (oneBit (!l.isEmpty) 63 + oneBit held 62 + min l.length 65535 * 2 ^ 32 + first % 2 ^ 32)

/-- LEASEG: the leases on a page of any context (R260). -/
def execLeaseg (gu : Guard) (d : GF) (a : GF) (b : GF) (σ : State) : Host.Outcome State Fault Refusal :=
  runSlot (.leaseg gu d a b) .k (some gu) (do
    needSystem
    let x ← readG a
    let y ← readG b
    let v ← atOrigin d (.leaseg x y) (do
      let m ← getM
      pure (some (m.leaseWord x y)))
    writeOrExpect d v) σ

/-- CINV: copies over a range are discarded; the data caches hold none that a read could tell from memory (R261). -/
def execCinv (gu : Guard) (a : GF) (b : GF) (k : BitVec 2) (σ : State) : Host.Outcome State Fault Refusal :=
  runSlot (.cinv gu a b k) .k (some gu) (do
    needSystem
    let x ← readG a
    let y ← readG b
    raiseIf (decide (x.toNat % 64 ≠ 0 ∨ y.toNat % 64 ≠ 0 ∨ 2 ^ 40 < y.toNat)) 0x2003
    performEarlier
    modM fun m => if k = 0 ∨ k = 3 then
        { m with
          mem := m.mem.spread m.cur.die
          icache := m.icache.filter fun l => !(l.ctx == m.cur.ctx && overlaps l.va.toNat l.bytes.length x.toNat y.toNat) }
      else m) σ

/-! ### Requests of stolen members -/

/-- What a stolen member asks for, done at its origin as if it had issued it here (R293). -/
def serveAct (d : GF) : GuestReq → Act Unit
  | .tspawn x => do expect d (← tspawnAt x)
  | .crspawn x y f => do expect d (← crspawnAt x y f)
  | .glnch x => do expect d (← glnchAt x)
  | .gtok x y => do expect d (← gtokAt x y)
  | .gstat x y n => do expect d (← gstatAt x y n)
  | .prmt x y => prmtAt d x y
  | .tlbdrn ctx x y => modM fun m => m.drainRange ctx x y
  | .tlbcnf => pure ()
  | .leaseg x y => modM fun m => { m with cur := { m.cur with answers := m.cur.answers ++ [{ d := d, value := some (m.leaseWord x y) }] } }

/-- A request of a stolen member reaches its origin; a confirmation comes once the drains it asked for are over (R259, R293). -/
def Mach.memberAsk (m : Mach) (q n rank : Nat) (d : GF) (r : GuestReq) : Mach :=
  match m.thiefOf q n, m.member? q n rank with
  | some k, some c =>
    if r = .tlbcnf then
      (if m.drains.any fun x => x.cont == c.id then m.setCont { c with inTlbcnf := true } else m.sendTo 2 k (.reply q n rank none 0))
    else m.runAs c.id (serveAct d r)
  | _, _ => m

/-! ### Events -/

/-- SPAWN_ANSWER: an answer of the launch unit or the scheduler reaches its register (R248, R254). -/
def execSpawnAnswer (cont : Nat) (σ : State) : Host.Outcome State Fault Refusal :=
  runEvent (fun m => m.answer cont) σ

/-- RXREG_WRITE: the issuing member's registration (R257). -/
def execRxregWrite (n : BitVec 6) (v : Word) (σ : State) : Host.Outcome State Fault Refusal :=
  runStep (writeRx n.toNat v) σ

/-- REGISTER_WRITE: the host's write through BAR0 (R256, R296, R297). -/
def execRegisterWrite (ld : Nat) (die : Nat) (idx : Nat) (v : Word) (σ : State) : Host.Outcome State Fault Refusal :=
  runEvent (fun m => m.bar0Write ld die idx v) σ

end Sys2Proof.Machine
end

