-- ==== Sys2Proof/Machine/Dispatch.lean ====
section
/-! DEFINITION. One arm for every instruction and event: a direct call of its meaning. -/

namespace Sys2Proof.Machine

/-- What an instruction or an event does. -/
def exec (i : Instr) (s : State) : Host.Outcome State Fault Refusal :=
  match i with
  | .add gu d a b => Sys2Proof.Machine.execAdd gu d a b s
  | .sub gu d a b => Sys2Proof.Machine.execSub gu d a b s
  | .addi gu d a m => Sys2Proof.Machine.execAddi gu d a m s
  | .addsh gu d a b k => Sys2Proof.Machine.execAddsh gu d a b k s
  | .mul gu d a b => Sys2Proof.Machine.execMul gu d a b s
  | .mulh gu d a b => Sys2Proof.Machine.execMulh gu d a b s
  | .mulhu gu d a b => Sys2Proof.Machine.execMulhu gu d a b s
  | .madd gu d a b => Sys2Proof.Machine.execMadd gu d a b s
  | .div gu d a b => Sys2Proof.Machine.execDiv gu d a b s
  | .divu gu d a b => Sys2Proof.Machine.execDivu gu d a b s
  | .rem gu d a b => Sys2Proof.Machine.execRem gu d a b s
  | .remu gu d a b => Sys2Proof.Machine.execRemu gu d a b s
  | .min gu d a b => Sys2Proof.Machine.execMin gu d a b s
  | .max gu d a b => Sys2Proof.Machine.execMax gu d a b s
  | .minu gu d a b => Sys2Proof.Machine.execMinu gu d a b s
  | .maxu gu d a b => Sys2Proof.Machine.execMaxu gu d a b s
  | .and gu d a b => Sys2Proof.Machine.execAnd gu d a b s
  | .or gu d a b => Sys2Proof.Machine.execOr gu d a b s
  | .xor gu d a b => Sys2Proof.Machine.execXor gu d a b s
  | .andn gu d a b => Sys2Proof.Machine.execAndn gu d a b s
  | .andi gu d a m => Sys2Proof.Machine.execAndi gu d a m s
  | .ori gu d a m => Sys2Proof.Machine.execOri gu d a m s
  | .xori gu d a m => Sys2Proof.Machine.execXori gu d a m s
  | .sll gu d a b => Sys2Proof.Machine.execSll gu d a b s
  | .srl gu d a b => Sys2Proof.Machine.execSrl gu d a b s
  | .sra gu d a b => Sys2Proof.Machine.execSra gu d a b s
  | .slli gu d a n => Sys2Proof.Machine.execSlli gu d a n s
  | .srli gu d a n => Sys2Proof.Machine.execSrli gu d a n s
  | .srai gu d a n => Sys2Proof.Machine.execSrai gu d a n s
  | .ror gu d a b => Sys2Proof.Machine.execRor gu d a b s
  | .clz gu d a => Sys2Proof.Machine.execClz gu d a s
  | .ctz gu d a => Sys2Proof.Machine.execCtz gu d a s
  | .popc gu d a => Sys2Proof.Machine.execPopc gu d a s
  | .bext gu d a b k => Sys2Proof.Machine.execBext gu d a b k s
  | .bins gu d a b => Sys2Proof.Machine.execBins gu d a b s
  | .movi gu d m => Sys2Proof.Machine.execMovi gu d m s
  | .movk k d m => Sys2Proof.Machine.execMovk k d m s
  | .sel gu d a b q => Sys2Proof.Machine.execSel gu d a b q s
  | .cmpeq gu d a b => Sys2Proof.Machine.execCmpeq gu d a b s
  | .cmpne gu d a b => Sys2Proof.Machine.execCmpne gu d a b s
  | .cmplt gu d a b => Sys2Proof.Machine.execCmplt gu d a b s
  | .cmpltu gu d a b => Sys2Proof.Machine.execCmpltu gu d a b s
  | .cmpge gu d a b => Sys2Proof.Machine.execCmpge gu d a b s
  | .cmpgeu gu d a b => Sys2Proof.Machine.execCmpgeu gu d a b s
  | .cmpeqi gu d a m => Sys2Proof.Machine.execCmpeqi gu d a m s
  | .cmplti gu d a m => Sys2Proof.Machine.execCmplti gu d a m s
  | .plog gu d a b t => Sys2Proof.Machine.execPlog gu d a b t s
  | .movpGet gu d => Sys2Proof.Machine.execMovpGet gu d s
  | .movpSet gu a => Sys2Proof.Machine.execMovpSet gu a s
  | .fadd gu d a b z => Sys2Proof.Machine.execFadd gu d a b z s
  | .fsub gu d a b z => Sys2Proof.Machine.execFsub gu d a b z s
  | .fmul gu d a b z => Sys2Proof.Machine.execFmul gu d a b z s
  | .ffma gu d a b z => Sys2Proof.Machine.execFfma gu d a b z s
  | .fdiv gu d a b z => Sys2Proof.Machine.execFdiv gu d a b z s
  | .fsqrt gu d a z => Sys2Proof.Machine.execFsqrt gu d a z s
  | .fmin gu d a b z => Sys2Proof.Machine.execFmin gu d a b z s
  | .fmax gu d a b z => Sys2Proof.Machine.execFmax gu d a b z s
  | .fcmpeq gu d a b z => Sys2Proof.Machine.execFcmpeq gu d a b z s
  | .fcmplt gu d a b z => Sys2Proof.Machine.execFcmplt gu d a b z s
  | .fcmple gu d a b z => Sys2Proof.Machine.execFcmple gu d a b z s
  | .fcvt gu d a z => Sys2Proof.Machine.execFcvt gu d a z s
  | .ftoi gu d a r u z => Sys2Proof.Machine.execFtoi gu d a r u z s
  | .itof gu d a u z => Sys2Proof.Machine.execItof gu d a u z s
  | .fclass gu d a z => Sys2Proof.Machine.execFclass gu d a z s
  | .ldb gu d a m => Sys2Proof.Machine.execLdb gu d a m s
  | .ldbu gu d a m => Sys2Proof.Machine.execLdbu gu d a m s
  | .ldh gu d a m => Sys2Proof.Machine.execLdh gu d a m s
  | .ldhu gu d a m => Sys2Proof.Machine.execLdhu gu d a m s
  | .ldw gu d a m => Sys2Proof.Machine.execLdw gu d a m s
  | .ldwu gu d a m => Sys2Proof.Machine.execLdwu gu d a m s
  | .ldd gu d a m => Sys2Proof.Machine.execLdd gu d a m s
  | .ldacq gu d a e z c => Sys2Proof.Machine.execLdacq gu d a e z c s
  | .stb gu d a m => Sys2Proof.Machine.execStb gu d a m s
  | .sth gu d a m => Sys2Proof.Machine.execSth gu d a m s
  | .stw gu d a m => Sys2Proof.Machine.execStw gu d a m s
  | .std gu d a m => Sys2Proof.Machine.execStd gu d a m s
  | .strel gu a b e z c => Sys2Proof.Machine.execStrel gu a b e z c s
  | .spldw gu d a m => Sys2Proof.Machine.execSpldw gu d a m s
  | .spldd gu d a m => Sys2Proof.Machine.execSpldd gu d a m s
  | .spstw gu d a m => Sys2Proof.Machine.execSpstw gu d a m s
  | .spstd gu d a m => Sys2Proof.Machine.execSpstd gu d a m s
  | .amoadd gu d a b e w c => Sys2Proof.Machine.execAmoadd gu d a b e w c s
  | .amoand gu d a b e w c => Sys2Proof.Machine.execAmoand gu d a b e w c s
  | .amoor gu d a b e w c => Sys2Proof.Machine.execAmoor gu d a b e w c s
  | .amoxor gu d a b e w c => Sys2Proof.Machine.execAmoxor gu d a b e w c s
  | .amomin gu d a b e u w c => Sys2Proof.Machine.execAmomin gu d a b e u w c s
  | .amomax gu d a b e u w c => Sys2Proof.Machine.execAmomax gu d a b e u w c s
  | .amoswp gu d a b e w c => Sys2Proof.Machine.execAmoswp gu d a b e w c s
  | .amocas gu d a b e w c => Sys2Proof.Machine.execAmocas gu d a b e w c s
  | .amofadd gu d a b e w c => Sys2Proof.Machine.execAmofadd gu d a b e w c s
  | .fence gu c k => Sys2Proof.Machine.execFence gu c k s
  | .ldblk gu d a b n => Sys2Proof.Machine.execLdblk gu d a b n s
  | .blkwb gu n => Sys2Proof.Machine.execBlkwb gu n s
  | .blkrel gu n => Sys2Proof.Machine.execBlkrel gu n s
  | .xlt gu a l w n => Sys2Proof.Machine.execXlt gu a l w n s
  | .xltp gu d a l w n => Sys2Proof.Machine.execXltp gu d a l w n s
  | .leaseq gu d a => Sys2Proof.Machine.execLeaseq gu d a s
  | .sbind gu n a m => Sys2Proof.Machine.execSbind gu n a m s
  | .sunbind gu n => Sys2Proof.Machine.execSunbind gu n s
  | .qinit gu n a b => Sys2Proof.Machine.execQinit gu n a b s
  | .qadv gu q a r h n => Sys2Proof.Machine.execQadv gu q a r h n s
  | .qstat gu d n h => Sys2Proof.Machine.execQstat gu d n h s
  | .wenq gu d a b c => Sys2Proof.Machine.execWenq gu d a b c s
  | .agset gu n a => Sys2Proof.Machine.execAgset gu n a s
  | .agadv gu n a m => Sys2Proof.Machine.execAgadv gu n a m s
  | .vsetlImm gu m => Sys2Proof.Machine.execVsetlImm gu m s
  | .vsetlReg gu d => Sys2Proof.Machine.execVsetlReg gu d s
  | .vmov gu a b l => Sys2Proof.Machine.execVmov gu a b l s
  | .vfill gu a b => Sys2Proof.Machine.execVfill gu a b s
  | .vadd gu a b l => Sys2Proof.Machine.execVadd gu a b l s
  | .vsub gu a b l => Sys2Proof.Machine.execVsub gu a b l s
  | .vmul gu a b l => Sys2Proof.Machine.execVmul gu a b l s
  | .vfma gu a b l => Sys2Proof.Machine.execVfma gu a b l s
  | .vmin gu a b l => Sys2Proof.Machine.execVmin gu a b l s
  | .vmax gu a b l => Sys2Proof.Machine.execVmax gu a b l s
  | .vabs gu a l => Sys2Proof.Machine.execVabs gu a l s
  | .vneg gu a l => Sys2Proof.Machine.execVneg gu a l s
  | .vadds gu a b l => Sys2Proof.Machine.execVadds gu a b l s
  | .vmuls gu a b l => Sys2Proof.Machine.execVmuls gu a b l s
  | .vfmas gu a b l => Sys2Proof.Machine.execVfmas gu a b l s
  | .vrcp gu a l => Sys2Proof.Machine.execVrcp gu a l s
  | .vrsqrt gu a l => Sys2Proof.Machine.execVrsqrt gu a l s
  | .vexp gu a l => Sys2Proof.Machine.execVexp gu a l s
  | .vlog gu a l => Sys2Proof.Machine.execVlog gu a l s
  | .vsin gu a l => Sys2Proof.Machine.execVsin gu a l s
  | .vcos gu a l => Sys2Proof.Machine.execVcos gu a l s
  | .vtanh gu a l => Sys2Proof.Machine.execVtanh gu a l s
  | .vsig gu a l => Sys2Proof.Machine.execVsig gu a l s
  | .vsilu gu a l => Sys2Proof.Machine.execVsilu gu a l s
  | .vgelu gu a l => Sys2Proof.Machine.execVgelu gu a l s
  | .vcvt gu a l => Sys2Proof.Machine.execVcvt gu a l s
  | .vqnt gu a b l => Sys2Proof.Machine.execVqnt gu a b l s
  | .vdq gu a b => Sys2Proof.Machine.execVdq gu a b s
  | .vcmp gu a b k c => Sys2Proof.Machine.execVcmp gu a b k c s
  | .vsel gu a b => Sys2Proof.Machine.execVsel gu a b s
  | .vrsum gu a => Sys2Proof.Machine.execVrsum gu a s
  | .vrmax gu a => Sys2Proof.Machine.execVrmax gu a s
  | .vargmax gu a => Sys2Proof.Machine.execVargmax gu a s
  | .vscan gu a => Sys2Proof.Machine.execVscan gu a s
  | .vdot gu a b => Sys2Proof.Machine.execVdot gu a b s
  | .vperm gu a b => Sys2Proof.Machine.execVperm gu a b s
  | .vgath gu a b => Sys2Proof.Machine.execVgath gu a b s
  | .vscadd gu a b => Sys2Proof.Machine.execVscadd gu a b s
  | .viadd gu a b k => Sys2Proof.Machine.execViadd gu a b k s
  | .vand gu a b k => Sys2Proof.Machine.execVand gu a b k s
  | .vor gu a b k => Sys2Proof.Machine.execVor gu a b k s
  | .vxor gu a b k => Sys2Proof.Machine.execVxor gu a b k s
  | .vshl gu a b k => Sys2Proof.Machine.execVshl gu a b k s
  | .vshr gu a b ar k => Sys2Proof.Machine.execVshr gu a b ar k s
  | .vsmax gu a b => Sys2Proof.Machine.execVsmax gu a b s
  | .vrmsn gu a b => Sys2Proof.Machine.execVrmsn gu a b s
  | .vrope gu a b h => Sys2Proof.Machine.execVrope gu a b h s
  | .vmaskw gu a b z n => Sys2Proof.Machine.execVmaskw gu a b z n s
  | .tcwupd gu a b => Sys2Proof.Machine.execTcwupd gu a b s
  | .tcwcnt gu a => Sys2Proof.Machine.execTcwcnt gu a s
  | .vfence gu k => Sys2Proof.Machine.execVfence gu k s
  | .vbsy gu a => Sys2Proof.Machine.execVbsy gu a s
  | .mma gu qa qb acc z ks ka kb => Sys2Proof.Machine.execMma gu qa qb acc z ks ka kb s
  | .mmabt gu qa qb acc z ks ka kb => Sys2Proof.Machine.execMmabt gu qa qb acc z ks ka kb s
  | .mmasp gu qa qb acc z ks ka kb => Sys2Proof.Machine.execMmasp gu qa qb acc z ks ka kb s
  | .mmacb gu qa qb acc z ks ka kb => Sys2Proof.Machine.execMmacb gu qa qb acc z ks ka kb s
  | .mzero gu acc kind => Sys2Proof.Machine.execMzero gu acc kind s
  | .mldacc gu acc off kind => Sys2Proof.Machine.execMldacc gu acc off kind s
  | .mdrain gu acc dmask off => Sys2Proof.Machine.execMdrain gu acc dmask off s
  | .mdraina gu acc off => Sys2Proof.Machine.execMdraina gu acc off s
  | .mpop gu qa qb popA popB => Sys2Proof.Machine.execMpop gu qa qb popA popB s
  | .mcbld gu off => Sys2Proof.Machine.execMcbld gu off s
  | .mscl gu off => Sys2Proof.Machine.execMscl gu off s
  | .mfence gu slots => Sys2Proof.Machine.execMfence gu slots s
  | .dcopy gu card ac => Sys2Proof.Machine.execDcopy gu card ac s
  | .dmcast gu card mm ac => Sys2Proof.Machine.execDmcast gu card mm ac s
  | .dgath gu card ac => Sys2Proof.Machine.execDgath gu card ac s
  | .dscat gu card ac => Sys2Proof.Machine.execDscat gu card ac s
  | .dscadd gu card ac => Sys2Proof.Machine.execDscadd gu card ac s
  | .dred gu card ac => Sys2Proof.Machine.execDred gu card ac s
  | .dbcast gu card ac => Sys2Proof.Machine.execDbcast gu card ac s
  | .dallg gu card ac => Sys2Proof.Machine.execDallg gu card ac s
  | .dembag gu card ac => Sys2Proof.Machine.execDembag gu card ac s
  | .dstage gu card ac => Sys2Proof.Machine.execDstage gu card ac s
  | .pack gu card ac => Sys2Proof.Machine.execPack gu card ac s
  | .unpack gu card ac => Sys2Proof.Machine.execUnpack gu card ac s
  | .exn gu card ac => Sys2Proof.Machine.execExn gu card ac s
  | .kvfill gu card ac => Sys2Proof.Machine.execKvfill gu card ac s
  | .skfind gu card ac => Sys2Proof.Machine.execSkfind gu card ac s
  | .skput gu card ac => Sys2Proof.Machine.execSkput gu card ac s
  | .skrel gu card ac => Sys2Proof.Machine.execSkrel gu card ac s
  | .skpin gu card ac => Sys2Proof.Machine.execSkpin gu card ac s
  | .dfence gu slots => Sys2Proof.Machine.execDfence gu slots s
  | .ixwalk gu card ac => Sys2Proof.Machine.execIxwalk gu card ac s
  | .ixsect gu card ac => Sys2Proof.Machine.execIxsect gu card ac s
  | .ixpart gu card ac => Sys2Proof.Machine.execIxpart gu card ac s
  | .pbr gu b m => Sys2Proof.Machine.execPbr gu b m s
  | .pbrr gu n a => Sys2Proof.Machine.execPbrr gu n a s
  | .br gu b => Sys2Proof.Machine.execBr gu b s
  | .brl gu b l => Sys2Proof.Machine.execBrl gu b l s
  | .loop gu b x => Sys2Proof.Machine.execLoop gu b x s
  | .loopiImm gu b x n => Sys2Proof.Machine.execLoopiImm gu b x n s
  | .loopiReg gu b x g => Sys2Proof.Machine.execLoopiReg gu b x g s
  | .loopl gu b x d => Sys2Proof.Machine.execLoopl gu b x d s
  | .fmtw gu h m => Sys2Proof.Machine.execFmtw gu h m s
  | .fmtwg gu a b => Sys2Proof.Machine.execFmtwg gu a b s
  | .waita gu a b k c => Sys2Proof.Machine.execWaita gu a b k c s
  | .susp gu => Sys2Proof.Machine.execSusp gu s
  | .done gu => Sys2Proof.Machine.execDone gu s
  | .barr gu n => Sys2Proof.Machine.execBarr gu n s
  | .sync gu m => Sys2Proof.Machine.execSync gu m s
  | .trap gu c => Sys2Proof.Machine.execTrap gu c s
  | .sigc gu a b k c => Sys2Proof.Machine.execSigc gu a b k c s
  | .tspawn gu d a => Sys2Proof.Machine.execTspawn gu d a s
  | .crspawn gu d a b => Sys2Proof.Machine.execCrspawn gu d a b s
  | .glnch gu d a => Sys2Proof.Machine.execGlnch gu d a s
  | .gtok gu d a b => Sys2Proof.Machine.execGtok gu d a b s
  | .gstat gu d a b n => Sys2Proof.Machine.execGstat gu d a b n s
  | .teamq gu d a t => Sys2Proof.Machine.execTeamq gu d a t s
  | .sysrd gu d x => Sys2Proof.Machine.execSysrd gu d x s
  | .syswr gu d x => Sys2Proof.Machine.execSyswr gu d x s
  | .eret gu b => Sys2Proof.Machine.execEret gu b s
  | .tlbdrn gu d a b c => Sys2Proof.Machine.execTlbdrn gu d a b c s
  | .tlbcnf gu => Sys2Proof.Machine.execTlbcnf gu s
  | .leaseg gu d a b => Sys2Proof.Machine.execLeaseg gu d a b s
  | .cinv gu a b k => Sys2Proof.Machine.execCinv gu a b k s
  | .prmt gu d a b => Sys2Proof.Machine.execPrmt gu d a b s
  | .hint gu a => Sys2Proof.Machine.execHint gu a s
  | .hset d imm => Sys2Proof.Machine.execHset d imm s
  | .hadd d a b imm => Sys2Proof.Machine.execHadd d a b imm s
  | .hjmp c a tgt => Sys2Proof.Machine.execHjmp c a tgt s
  | .hloop a tgt => Sys2Proof.Machine.execHloop a tgt s
  | .agld n a => Sys2Proof.Machine.execAgld n a s
  | .kvrd kv n q boff blen adv cnt => Sys2Proof.Machine.execKvrd kv n q boff blen adv cnt s
  | .mxi op mx => Sys2Proof.Machine.execMxi op mx s
  | .smax q a b w mk cnt => Sys2Proof.Machine.execSmax q a b w mk cnt s
  | .resc acc a => Sys2Proof.Machine.execResc acc a s
  | .norm acc a => Sys2Proof.Machine.execNorm acc a s
  | .rope a b c half d rows => Sys2Proof.Machine.execRope a b c half d rows s
  | .djob a mm ac => Sys2Proof.Machine.execDjob a mm ac s
  | .waitw c a b => Sys2Proof.Machine.execWaitw c a b s
  | .sigw sc a b => Sys2Proof.Machine.execSigw sc a b s
  | .mcmb acc a b c => Sys2Proof.Machine.execMcmb acc a b c s
  | .halt => Sys2Proof.Machine.execHalt s
  | .bundleDispatch => Sys2Proof.Machine.execBundleDispatch s
  | .pickerPreemptContext core => Sys2Proof.Machine.execPickerPreemptContext core s
  | .writeApplyAtDie die src => Sys2Proof.Machine.execWriteApplyAtDie die src s
  | .strongOperationAtHome src op pa wide uns v => Sys2Proof.Machine.execStrongOperationAtHome src op pa wide uns v s
  | .loadBlockFillComplete cont blk => Sys2Proof.Machine.execLoadBlockFillComplete cont blk s
  | .pageWalkComplete die task va => Sys2Proof.Machine.execPageWalkComplete die task va s
  | .translationComplete cont n => Sys2Proof.Machine.execTranslationComplete cont n s
  | .vectorCommandCompletion cont => Sys2Proof.Machine.execVectorCommandCompletion cont s
  | .jobChannelStart die => Sys2Proof.Machine.execJobChannelStart die s
  | .jobCompletion job => Sys2Proof.Machine.execJobCompletion job s
  | .followOnIssue job => Sys2Proof.Machine.execFollowOnIssue job s
  | .arrayEntry cont => Sys2Proof.Machine.execArrayEntry cont s
  | .matrixCommandRetire cont => Sys2Proof.Machine.execMatrixCommandRetire cont s
  | .exitNoticeReceive die ext => Sys2Proof.Machine.execExitNoticeReceive die ext s
  | .exitStateArrival die ext => Sys2Proof.Machine.execExitStateArrival die ext s
  | .exnRefusal job => Sys2Proof.Machine.execExnRefusal job s
  | .attentionReadRequest waiter slot layer first count => Sys2Proof.Machine.execAttentionReadRequest waiter slot layer first count s
  | .darnFill slot layer pos => Sys2Proof.Machine.execDarnFill slot layer pos s
  | .darnFillComplete slot layer pos => Sys2Proof.Machine.execDarnFillComplete slot layer pos s
  | .fillTimeout waiter pos => Sys2Proof.Machine.execFillTimeout waiter pos s
  | .stagingBufferSelect job => Sys2Proof.Machine.execStagingBufferSelect job s
  | .skeinOperationExecute => Sys2Proof.Machine.execSkeinOperationExecute s
  | .sqstartWrite v => Sys2Proof.Machine.execSqstartWrite v s
  | .sqcsdWrite v => Sys2Proof.Machine.execSqcsdWrite v s
  | .sqcsdRead d => Sys2Proof.Machine.execSqcsdRead d s
  | .rxregWrite n v => Sys2Proof.Machine.execRxregWrite n v s
  | .registerWrite ld die idx v => Sys2Proof.Machine.execRegisterWrite ld die idx v s
  | .doorbell ld q tail => Sys2Proof.Machine.execDoorbell ld q tail s
  | .completionHeadWrite ld q head => Sys2Proof.Machine.execCompletionHeadWrite ld q head s
  | .submitTask q => Sys2Proof.Machine.execSubmitTask q s
  | .submitGraphReplay q => Sys2Proof.Machine.execSubmitGraphReplay q s
  | .patchCommit q => Sys2Proof.Machine.execPatchCommit q s
  | .spawnAnswer cont => Sys2Proof.Machine.execSpawnAnswer cont s
  | .replayStart graph => Sys2Proof.Machine.execReplayStart graph s
  | .patchAreaCopyDone graph => Sys2Proof.Machine.execPatchAreaCopyDone graph s
  | .taskOrderingRelease task => Sys2Proof.Machine.execTaskOrderingRelease task s
  | .taskLeasing task => Sys2Proof.Machine.execTaskLeasing task s
  | .teamDispatch die => Sys2Proof.Machine.execTeamDispatch die s
  | .teamSwapOut task team => Sys2Proof.Machine.execTeamSwapOut task team s
  | .teamSwapIn task team => Sys2Proof.Machine.execTeamSwapIn task team s
  | .sliceQuantumExpiry die => Sys2Proof.Machine.execSliceQuantumExpiry die s
  | .swapAbandonTimeout task team => Sys2Proof.Machine.execSwapAbandonTimeout task team s
  | .taskCompletion task => Sys2Proof.Machine.execTaskCompletion task s
  | .deadlineOverrun task => Sys2Proof.Machine.execDeadlineOverrun task s
  | .stopBegin ctx => Sys2Proof.Machine.execStopBegin ctx s
  | .stopResume => Sys2Proof.Machine.execStopResume s
  | .stopSourcesStopped => Sys2Proof.Machine.execStopSourcesStopped s
  | .stopDrainComplete => Sys2Proof.Machine.execStopDrainComplete s
  | .stopDrainTimeout => Sys2Proof.Machine.execStopDrainTimeout s
  | .bobbinTokenArrival gen loads reqs => Sys2Proof.Machine.execBobbinTokenArrival gen loads reqs s
  | .bobholdExpiry => Sys2Proof.Machine.execBobholdExpiry s
  | .bobbinTokenRegeneration reach => Sys2Proof.Machine.execBobbinTokenRegeneration reach s
  | .stolenTeamArrival origin die tag size => Sys2Proof.Machine.execStolenTeamArrival origin die tag size s
  | .stealAcknowledge task team => Sys2Proof.Machine.execStealAcknowledge task team s
  | .stolenTeamAccess task team rank acc va size v => Sys2Proof.Machine.execStolenTeamAccess task team rank acc va size v s
  | .hostCxlMemWrite pa bytes => Sys2Proof.Machine.execHostCxlMemWrite pa bytes s
  | .hostCxlMemRead pa n => Sys2Proof.Machine.execHostCxlMemRead pa n s
  | .qctlEnable q => Sys2Proof.Machine.execQctlEnable q s
  | .qctlDisable q => Sys2Proof.Machine.execQctlDisable q s
  | .powerGood => Sys2Proof.Machine.execPowerGood s
  | .powerLost => Sys2Proof.Machine.execPowerLost s
  | .fwcmdAuthenticate => Sys2Proof.Machine.execFwcmdAuthenticate s
  | .authenticationComplete result => Sys2Proof.Machine.execAuthenticationComplete result s
  | .stage1Complete fail => Sys2Proof.Machine.execStage1Complete fail s
  | .stage2Complete fail ebnas => Sys2Proof.Machine.execStage2Complete fail ebnas s
  | .scrunStart v => Sys2Proof.Machine.execScrunStart v s
  | .mrstModuleReset v => Sys2Proof.Machine.execMrstModuleReset v s
  | .cxlReset => Sys2Proof.Machine.execCxlReset s
  | .drstDieReset die => Sys2Proof.Machine.execDrstDieReset die s
  | .dieResetComplete die => Sys2Proof.Machine.execDieResetComplete die s
  | .migreqClaim host page => Sys2Proof.Machine.execMigreqClaim host page s
  | .migreqCommit host page => Sys2Proof.Machine.execMigreqCommit host page s
  | .migreqRelease host page => Sys2Proof.Machine.execMigreqRelease host page s
  | .powerWindowCheck die watts temp => Sys2Proof.Machine.execPowerWindowCheck die watts temp s
  | .thermalTrip die => Sys2Proof.Machine.execThermalTrip die s
  | .correctedError domain => Sys2Proof.Machine.execCorrectedError domain s
  | .uncorrectableError place => Sys2Proof.Machine.execUncorrectableError place s
  | .podLinkDown port trainingLost => Sys2Proof.Machine.execPodLinkDown port trainingLost s
  | .ebnasPortTimeout chip => Sys2Proof.Machine.execEbnasPortTimeout chip s
  | .firmwareWindowWrite ld off v => Sys2Proof.Machine.execFirmwareWindowWrite ld off v s

end Sys2Proof.Machine
end

