-- ==== Sys2Proof/Machine/Turn.lean ====
section
/-! DEFINITION. What moves next: the next slot of the bundle in progress, or the next entry of the agenda, or the
dispatch of the issuing continuation's next bundle, or a cycle in which nothing moves (R125, R128; log entries 3 and 5);
and where a word is placed for the host's questions. -/

namespace Sys2Proof.Machine

/-- Whether an instruction is a micro-operation of the attention sequencer (R267). -/
def isMicro : Instr → Bool
  | .hset _ _ => true
  | .hadd _ _ _ _ => true
  | .hjmp _ _ _ => true
  | .hloop _ _ => true
  | .agld _ _ => true
  | .kvrd _ _ _ _ _ _ _ => true
  | .mxi _ _ => true
  | .smax _ _ _ _ _ _ => true
  | .resc _ _ => true
  | .norm _ _ => true
  | .rope _ _ _ _ _ _ => true
  | .djob _ _ _ => true
  | .waitw _ _ _ => true
  | .sigw _ _ _ => true
  | .mcmb _ _ _ _ => true
  | .halt => true
  | _ => false

/-- Whether a constructor stands for an event, which the agenda may name. -/
def isEvent (i : Instr) : Bool := i.cls.isNone && !isMicro i

/-- The instruction word at the cursor, as memory stood when its bundle was dispatched, and what it decodes to. -/
def slotInstr (s : State) (k : Cursor) (x : Fin 7) : Except (Option Trap) (Nat × Instr) :=
  match (s.snap.getD s.m).fetchBytes s.m.cur k.addr.toNat (Slot.of x.val).bytes with
  | .wait => .error none
  | .fail t => .error (some t)
  | .ok b => match decode (Slot.of x.val) (leNat b) with
    | none => .error (some { cause := 0x1001 })
    | some i => if s.m.cur.stage0 && !stage0Allows i then .error (some { cause := 0x1001 }) else .ok (leNat b, i)

/-- The machine with the word of the instruction in hand noted for a trap record (R352), and what it decodes to. -/
def State.noteInsn (s : State) (w : Nat) (i : Instr) : State :=
  { s with m := { s.m with cur := { s.m.cur with cursor := s.m.cur.cursor.map fun k => { k with insn := toW w, instr := some i } } } }

/-- What a step comes to: an instruction or event to execute, or a next state. -/
inductive Turn where
  | run (i : Instr) (s : State)
  | next (s : State)
  deriving DecidableEq, Repr

/-- The slot at the cursor (R125, R130). -/
def slotTurn (s : State) (k : Cursor) : Turn :=
  match k.slots with
  | [] => .next s.advance
  | x :: _ => match slotInstr s k x with
    | .error none => .next s.haltBundle
    | .error (some t) => .next (s.takeTrap t x.val 0)
    | .ok (w, i) => .run i (s.noteInsn w i)

/-- A continuation whose queues no longer lag, and whose entries may be tried again. -/
def Cont.rested (c : Cont) : Cont := { c with lag := 0, queue := c.queue.map fun e => { e with tried := false } }

/-- A cycle in which nothing moves. -/
def State.idle (s : State) : State := { s with m := { s.m with now := s.m.now + 1, stalled := false, cur := s.m.cur.rested } }

/-- An entry of a queue of the issuing continuation is tried (R128). -/
def State.enterBack (s : State) (e : QEntry) : State :=
  let c := s.m.cur
  { s with
    snap := some s.m
    m := { s.m with cur := { c with
      pc := e.pc
      cursor := some { slots := [e.slot], addr := 0, next := c.pc, sync := e.sync, stop := false, insn := e.insn
                       instr := some e.instr, bundle := e.bundle, group := e.group, back := some e } } } }

/-- The step that tries an entry. -/
def queueTurn (s : State) (e : QEntry) : Turn := .run e.instr (s.enterBack e)

/-- Whether the issuing continuation is running, so that its queues move. -/
def Mach.runs (m : Mach) : Bool := decide (m.cur.id ≠ 0 ∧ m.cur.state = 2)

/-- Whether a continuation of strictly higher priority waits for the core of the issuing one, which stands between two bundles
with empty queues (R24). -/
def Mach.mustYield (m : Mach) : Bool :=
  m.runs && m.cur.resident && m.cur.queue.isEmpty && match m.pickOf m.cur.gcore with
    | some c => decide (min m.cur.prio.toNat 7 < min c.prio.toNat 7)
    | none => false

/-- The micro-operation at a run's place in its control store; a word that is none ends the run (R266). -/
def microTurn (s : State) (k : Nat) : Turn :=
  match (s.m.seq k).run with
  | none => .next s
  | some r => match decodeSeq (SMap.get 0 (s.m.seq k).store r.pcw).toNat with
    | none => .next { s with m := s.m.seqFails k { cause := 0x1001 } }
    | some i => .run i { s with m := { s.m with seqSel := k } }

/-- Cycles pass on every die (R5). -/
def Mach.tickBy (m : Mach) (n : Nat) : Mach := { m with now := m.now + n }

/-- The record pool of a task that has ended, or waits to run again, is released (R22; log entry 49). -/
def Mach.releasePool (m : Mach) (q : Nat) : Mach :=
  match m.task? q with
  | none => m
  | some t => if t.stage = .ended ∨ t.stage = .ordering then m.releaseRecords q else m

/-- The instruction-cache lines of a core in 128 KiB of 64 bytes (R13). -/
def icacheLines : Nat := 2048

/-- The cache with a line more: a core holds no more lines than its cache has room for, and its oldest go first (R13; log
entry 14). -/
def addLine (l : List ILine) (x : ILine) : List ILine :=
  let mine := l.filter fun y => y.core == x.core
  match mine with
  | o :: _ => if icacheLines ≤ mine.length then l.erase o ++ [x] else l ++ [x]
  | [] => l ++ [x]

/-- An instruction-cache line is filled at a core by what its running continuation would fetch (log entry 14). -/
def Mach.fillLine (m : Mach) (core : Nat) (va : Word) : Mach :=
  match m.allConts.find? (fun c => c.id ≠ 0 && c.resident && c.gcore == core) with
  | none => m
  | some c =>
    let a := alignDown va.toNat 64
    match m.fetchBytes c a 64 with
    | .ok b => { m with icache := addLine m.icache { core := core, ctx := c.ctx, va := toW a, bytes := b } }
    | _ => m

/-- One entry of the agenda. -/
def agendaTurn (s : State) : Sched → Turn
  | .event i => if isEvent i && (s.m.regs.powered || i == .powerGood) then .run i s else .next s
  | .issue id => match s.m.cont? id with
    | some c => if c.state = 2 ∧ c.resident then .next { s with m := s.m.switchTo id } else .next s
    | none => .next s
  | .micro k => microTurn s k
  | .ticks n => .next { s with m := (s.m.tickBy n).wake }
  | .dieTicks d n => .next { s with m := s.m.tickDie d n }
  | .noticeDone n => .next (s.after (s.m.remoteDone n))
  | .release q => .next { s with m := s.m.releasePool q }
  | .barWrite bar ld off b => .next (if s.m.regs.powered then s.after (s.m.barWrite bar ld off b) else s)
  | .barRead bar off n => .next (if s.m.regs.powered then { s with m := { s.m with out := s.m.out ++ [.barData bar off (s.m.barRead bar off n)] } } else s)
  | .hostWrite pa b => .next (if s.m.regs.powered then s.after (s.m.hostWrite pa b) else s)
  | .hostRead pa n => .next (if s.m.regs.powered then { s with m := s.m.hostRead pa n } else s)
  | .send port => .next { s with m := s.m.sendFlit port }
  | .transit lane dest body => .next { s with m := s.m.sendTo lane dest body }
  | .podPayload src pa b => .next (s.after (s.m.podPayload src pa b))
  | .podCompletion src pa v => .next (s.after (s.m.podCompletion src pa v))
  | .memberDone q n => .next (s.after (s.m.memberDone q n))
  | .memberFault q n r k rec imp eng => .next (s.after (s.m.memberFault q n r k rec imp eng))
  | .memberKilled q n => .next (s.after (s.m.memberKilled q n))
  | .memberArm q n r a v c => .next (s.after (s.m.memberArm q n r a v c))
  | .memberAsk q n r d x => .next (s.after (s.m.memberAsk q n r d x))
  | .memberWindow q n r off b => .next (s.after (s.m.memberWindow q n r off b))
  | .memberTaken q n r => .next { s with m := s.m.memberTaken q n r }
  | .guestImage x => .next { s with m := { s.m with inbound := s.m.inbound ++ [x] } }
  | .guestAsk k p w => .next { s with m := s.m.guestAsk k p w }
  | .guestPage k p perm c b => .next (s.after (s.m.lendPage k p perm c b))
  | .guestBack k p => .next { s with m := s.m.giveBack k p }
  | .guestReply k r d v => .next (s.after (s.m.guestReply k r d v))
  | .guestWake k r => .next (s.after (s.m.guestWake k r))
  | .guestEnd o q n => .next (s.after (s.m.guestEnd o q n))
  | .guestHalt o q n held => .next (s.after (s.m.guestHalt o q n held))
  | .guestWindow k r off b p => .next (s.after (s.m.guestWindow k r off b p))
  | .guestGive k r off n => .next { s with m := s.m.guestGive k r off n }
  | .lag id x => .next { s with m := match s.m.cont? id with
      | some c => s.m.setCont { c with lag := x }
      | none => s.m }
  | .leave x => match s.m.cur.queue.find? fun e => e.slot == x with
    | some e => if s.m.runs then queueTurn s e else .next s
    | none => .next s
  | .element id k => .next (s.after (s.m.landElement id k))
  | .fillLine core va => .next { s with m := s.m.fillLine core va }
  | .dropLine core => .next { s with m := { s.m with icache := s.m.icache.filter fun l => l.core ≠ core } }
  | .dropTlb die => .next { s with m := { s.m with tlb := s.m.tlb.filter fun t => t.die ≠ die } }

/-- What the next step is. -/
def turn (s : State) : Turn :=
  match s.m.cur.cursor with
  | some k => slotTurn s k
  | none => match s.agenda with
    | a :: rest => agendaTurn { s with agenda := rest } a
    | [] =>
      if !s.m.runs then .next s.idle
      else match s.m.cur.queue.find? fun e => !e.tried with
        | some e => queueTurn s e
        | none =>
          if s.m.mustYield then .run (.pickerPreemptContext s.m.cur.gcore) s
          else if s.m.stalled then .next s.idle
          else .run .bundleDispatch s

/-! ### Placing an instruction for the host's questions (log entry 6) -/

/-- The slot class a word is placed in: the first whose map takes it. -/
def slotFor (nbits w : Nat) : Option Slot :=
  if nbits = 32 then
    (if (decodeS w).isSome then some .s0 else if (decodeA w).isSome then some .a else if (decodeV w).isSome then some .v
     else some .k)
  else if (decodeM w).isSome then some .m else if (decodeD w).isSome then some .d else none

/-- A task that owns the first GiB, mapped to itself by the page tables `placedMem` holds. -/
def placedTask : Task :=
  { seq := 1, entry := { ptbase := 0x100000 }, tstate := 2, stage := .dispatch, place := [0], leased := true, sys := true
    fp := [{ base := 0, len := 2 ^ 30, wr := true, ren := false, whole := false }] }

/-- A running continuation of that task on core 0 of die 0 with a 64 KiB window and the matrix claim. -/
def placedCont (cursor : Option Cursor) : Cont :=
  { id := 1, pc := 0x1000, state := 2, task := 1, recVa := 0x8000, save := 0x9000, resident := true, winLimit := 65536
    recPa := 0x8000, savePa := 0x9000, claim := true, sysMode := true, starting := false, cursor := cursor }

/-- Page tables and one bundle at 0x1000 in die 0's view of memory. -/
def placedMem (v : Memory) (hdr n w : Nat) : Memory :=
  (((v.puts 0x1000 (leBytes 4 hdr)).puts 0x1004 (leBytes n w)).puts 0x100000 (leBytes 8 0x200001)).puts 0x200000 (leBytes 8 0x1F)

/-- A cursor at one slot, its word at 0x1004. -/
def placedCursor (x : Slot) : Cursor :=
  { slots := [⟨x.num, by cases x <;> decide⟩], addr := 0x1004, next := 0x1004 + BitVec.ofNat 48 x.bytes, sync := 0, stop := true }

/-- A sequencer whose control store holds a word, with a run at it. -/
def placedSeq (w : Nat) : SMap Seq :=
  [(0, { store := SMap.set 0 [] 0 (toW w), stat := 1 <<< 32, run := some { cont := 1, task := 1, pcw := 0 } })]

end Sys2Proof.Machine
end

