-- ==== Sys2Proof/Machine/Step.lean ====
section
/-! DEFINITION. One step of the machine, and the placing of a word for the host's questions. -/

namespace Sys2Proof.Machine

/-- One step of the machine. -/
def step (s : State) : Host.Outcome State Fault Refusal :=
  match turn s with
  | .run i t => exec i t
  | .next t => .next t

/-- `s` with a word placed where the next step takes its instruction: a started module, one running continuation, the
word in the slot at its cursor, or in the control store of cluster 0's sequencer with a run at it (log entry 6). -/
def State.withFetchWord (s : State) (nbits w : Nat) : State :=
  let base : Mach := { s.m with
    regs := { s.m.regs with stage := 2, ready := true }
    tasks := [placedTask]
    teams := [{ task := 1, idx := 0, die := 0, size := 1, res := .resident }]
    conts := [], nextId := 2, seqCount := 1, gridCount := 1 }
  match slotFor nbits w with
  | some x =>
    { m := { base with
        cur := placedCont (some (placedCursor x))
        mem := { base.mem with view := placedMem base.mem.view (2 ^ x.num + 2 ^ 7) x.bytes w } }
      snap := none, agenda := [] }
  | none =>
    { m := { base with
        cur := placedCont none
        mem := { base.mem with view := placedMem base.mem.view 0 4 0 }
        seqs := placedSeq w }
      snap := none, agenda := [.micro 0] }

end Sys2Proof.Machine
end

