-- ==== Sys2Proof/Safety.lean ====
section
/-! DEFINITION. What a claim about a step may speak of: when an instruction executes, when a step undoes it, what of the
machine the end of a bundle leaves alone, and the canonical form of memory. -/

namespace Sys2Proof.Machine

/-- Nothing keeps an instruction of the slot in its queue: no older instruction stands before it, no sync bit, no wait of an
earlier bundle and no lag of its queue holds it, and it is not placed in its queue with its whole bundle (R128, R154, R215,
R240). -/
def State.Open (s : State) (x : Slot) : Prop :=
  ∀ i, s.m.stays (s.m.cur.slotNow x) i = false ∧ s.m.leaves (s.m.cur.slotNow x) i = true

/-- The guard holds and nothing holds the slot: an instruction of this class executes (R128, R130). -/
def State.Ready (s : State) (g : Guard) (x : Slot) : Prop := s.m.cur.runs g = true ∧ s.Open x

/-- The instruction had no effect: it waits in its queue or its bundle was undone, or a report was made on the machine as it
stood before the bundle (R128, R350). -/
def Undone (s t : State) : Prop :=
  t = s.stallBundle ∨ t = s.passed ∨ (∃ f slot w, t = s.takeTrap f slot w) ∨ (∃ f n slot w, t = s.takeTxTrap f n slot w) ∨
    ∃ x, t = s.takeLate x

/-- The issuing continuation runs (R21) and no other one waits for a word (R23), so that the end of an instruction moves the
issuing continuation alone. -/
def State.Quiet (s : State) : Prop := s.m.cur.state = 2 ∧ ∀ c ∈ s.m.conts, c.state ≠ 3

/-- A continuation without what the end of an instruction and of a bundle moves: the pc, the cursor, the group rule's record and
the number of the group, the slot of a flag trap to come, what stands in the queues, what its accesses to come follow, and
which holds have begun. -/
def Cont.arch (c : Cont) : Cont :=
  { c with pc := 0, cursor := none, flagTrap := none, groupLen := 0, groupWrites := [], groups := 0, queue := [], timid := false
           fmtUndo := [], past := [], holds := c.holds.map fun h => { h with live := true } }

/-- A machine without what the end of an instruction and of a bundle moves. -/
def Mach.arch (m : Mach) : Mach := { m with cur := m.cur.arch, stalled := false, ahead := [] }

/-- Every map of a memory stands in its canonical form. -/
def Mem.Canonical (m : Mem) : Prop :=
  m.view.wf = true ∧ SMap.wf {} m.held = true ∧ SMap.wf false m.poison = true ∧ SMap.wf 0 m.clock = true ∧
    m.spad.wf = true ∧ SMap.wf false m.spadPoison = true ∧ SMap.wf {} m.spadHeld = true

/-- The memory of a state is canonical, and that of the machine it would go back to. -/
def State.Canonical (s : State) : Prop := s.m.mem.Canonical ∧ ∀ m, s.snap = some m → m.mem.Canonical

/-- A general register that is no stream, as an operand names it (R123). -/
def isPlain (f : GF) : Prop := f.toNat < 24

/-- The register a field names can be read without waiting or a report: g0, or a register whose value has come and is not
poisoned (R122, R123, R128, R381). -/
def Cont.readable (c : Cont) (f : GF) : Prop :=
  f.toNat < 24 ∧ (f = 0 ∨ (c.awaits f = false ∧ vget c.gPoison f.toNat none = none))

/-- The value a readable field gives: g0 reads as zero (R122). -/
def Cont.val (c : Cont) (f : GF) : Word := if f = 0 then 0 else vget c.g f.toNat 0

/-- The register a field names can be written without waiting. -/
def Cont.writable (c : Cont) (f : GF) : Prop := f.toNat < 24 ∧ (f = 0 ∨ c.awaits f = false)

/-- A continuation with a general register written: a write of g0 is discarded (R122). -/
def Cont.setG (c : Cont) (f : GF) (v : Word) : Cont :=
  if f = 0 then c else { c with g := vset c.g f.toNat v, gPoison := vset c.gPoison f.toNat none }

/-- A machine whose issuing continuation is replaced. -/
def Mach.withCur (m : Mach) (c : Cont) : Mach := { m with cur := c }

/-- A machine whose memory is replaced. -/
def Mach.withMem (m : Mach) (x : Mem) : Mach := { m with mem := x }

/-- A continuation whose register `f` carries the mark of a granule (R381). -/
def Cont.markG (c : Cont) (f : GF) (g : Nat) : Cont := { c with gPoison := vset c.gPoison f.toNat (some (toW g)) }

/-- A continuation with a stream register replaced. -/
def Cont.setStream (c : Cont) (k : Nat) (r : Option StreamRec) : Cont := { c with streams := vset c.streams k r }

/-- A continuation with a load-block replaced. -/
def Cont.setBlock (c : Cont) (k : Nat) (b : Option LoadBlock) : Cont := { c with blocks := vset c.blocks k b }

/-- A continuation with an address generator replaced. -/
def Cont.setAg (c : Cont) (k : Nat) (g : Ag) : Cont := { c with ag := vset c.ag k g }

/-- A continuation with a ring view and its consume position replaced. -/
def Cont.setRing (c : Cont) (k : Nat) (v : BitVec 128) (p : Byte) : Cont :=
  { c with mx := { c.mx with rings := vset c.mx.rings k v, cpos := vset c.mx.cpos k p } }

/-- A machine after the events of the S-slot instruction in hand have reached its slot's flags (R118, R368). -/
def Mach.noteEvents (m : Mach) (ev : Nat) : Mach := m.withCur (m.cur.setFlags (m.cur.slotNow .s0) ev false m.cur.pc)

/-! ### What the statements name -/

/-- The rational a finite value stands for; 0 for the others. -/
def Num.rat : Sys2Proof.Machine.Num → ℚ
  | .fin s m e => (if s then -1 else 1) * (m : ℚ) * (2 : ℚ) ^ e
  | _ => 0

/-- The operand of a strong operation is in order: a scope that exists, an aligned address of the space, a location that
translates with the permission asked, no failure of an earlier store to report (R60, R68, R158, R161). -/
def Mach.strongReady (m : Mach) (sc : BitVec 3) (spad : Bool) (n : ℕ) (x : Word) (need : Acc3)
    (p : SigTarget) : Prop :=
  sc.toNat < 5 ∧ strongCheck spad n x m = .ok ((), m) ∧ strongPlace spad n x need m = .ok (p, m) ∧ m.cur.imprecise = none

/-- Every live load-block of a continuation has been filled (R162, R165). -/
def Cont.filledAll (c : Cont) : Prop := ∀ b, some b ∈ c.blocks.toList → b.filled = true

/-- What a strong operation waits for has come: every live load-block has been filled, and every SIGC has written (R156, R162). -/
def Cont.settled (c : Cont) : Prop := c.filledAll ∧ c.sig = []

/-- The value an atomic writes for the old value, gb's low bytes and the comparand, all numbers below 2^(8n) (R163). -/
def amoSpec (n : ℕ) (uns : Bool) (old v cmp : ℕ) : StrongOp → Option ℕ
  | .load => none
  | .store => some v
  | .add => some ((old + v) % 2 ^ (8 * n))
  | .and => some (old &&& v)
  | .or => some (old ||| v)
  | .xor => some (old ^^^ v)
  | .min => some (if uns then min old v else ((min (sext (8 * n) old) (sext (8 * n) v)) % (2 ^ (8 * n) : ℕ)).toNat)
  | .max => some (if uns then max old v else ((max (sext (8 * n) old) (sext (8 * n) v)) % (2 ^ (8 * n) : ℕ)).toNat)
  | .swp => some v
  | .cas => if old = cmp then some v else none
  | .fadd => some (roundTo (fpCode (n == 8)) false (Machine.Num.add (readNum (fpCode (n == 8)) old)
      (readNum (fpCode (n == 8)) v)).1).pat

/-- The checks of R178 pass: every region inside the window, no limit broken, every offset aligned, no overlap R135 forbids. -/
def VPlan.passes (p : VPlan) (c : Cont) : Prop :=
  (∀ r ∈ p.dsts ++ p.srcs, r.inside c = true) ∧ p.bad = false ∧ (∀ r ∈ p.dsts ++ p.srcs, r.off % r.z = 0) ∧
    p.clash = false

/-- The number the free values of a Dusk-mode operation start at (R119, log entry 11); none outside Dusk mode. -/
def Mach.draw (m : Mach) (on : Bool) (w : ℕ) : Option ℕ := if on then some (m.freeCount * 2 ^ w) else none

/-- A machine that has drawn free values for a Dusk-mode operation. -/
def Mach.drawn (m : Mach) (on : Bool) : Mach := if on then { m with freeCount := m.freeCount + 1 } else m

/-- A vector command that executes with its operands read: `n` elements (the VL of R200), the fields `v` of the fmt it takes,
words `g` (R129, R178); `m` is the machine then. -/
def State.vRuns (s : State) (gu : Guard) (l : Bool) (a b : GF) (n : ℕ) (v : VFmt) (g : VArg)
    (m : Mach) : Prop :=
  s.Ready gu .v ∧ (l = true → s.m.cur.claim = true) ∧ n = s.m.cur.vlNow.toNat ∧ n ≠ 0 ∧ v = vFmt s.m.fmtNow ∧
    vArgs a b s.m = .ok (g, m)

/-- A vector command that executes with its operands read and its checks passed; `m` is the machine once the earlier commands
whose destinations it meets have written (R86, R178, R179). -/
def State.vChecked (s : State) (gu : Guard) (l : Bool) (a b : GF) (n : ℕ) (v : VFmt) (g : VArg) (p : VPlan)
    (m : Mach) : Prop :=
  ∃ m0, s.vRuns gu l a b n v g m0 ∧ p.passes m0.cur ∧ m = m0.flushOver p

/-- The elements of A: from its region, or from the latch, which then holds the rest; and whether one was marked (R176, R180,
R381). -/
def Mach.takesA (m : Mach) (l : Bool) (w z n : ℕ) (xs : List ℕ) (marked : Bool) (m' : Mach) : Prop :=
  if l then n * z ≤ m.cur.mx.latch.length ∧
      xs = (List.range n).map (fun i => leAt ((m.cur.mx.latch.take (n * z)).map Prod.fst) (i * z) z) ∧
      marked = (m.cur.mx.latch.take (n * z)).any Prod.snd ∧
      m' = m.withCur { m.cur with mx := { m.cur.mx with latch := m.cur.mx.latch.drop (n * z) } }
  else xs = m.region (vReg w z n) ∧ marked = m.regionMarked (vReg w z n) ∧ m' = m

/-- A machine whose issuing continuation has a vector command in flight: its writes and events are still to come, at once
where TRAPEN enables a flag trap (R179, R370). -/
def Mach.issueV (m : Mach) (w : List SpadWrite) (ev : ℕ) : Mach :=
  if m.cur.trapen.toNat % 2 ^ 7 ≠ 0 then
    (m.withCur { m.cur with vpend := m.cur.vpend ++ [{ writes := w, flags := ev, pc := m.cur.pc }] }).flushV m.cur.id
  else m.withCur { m.cur with vpend := m.cur.vpend ++ [{ writes := w, flags := ev, pc := m.cur.pc }] }

/-- The writes of results to region D, and the union of their events, are in flight. -/
def Mach.issueRegion (m : Mach) (d : VReg) (rs : List Rounded) (marked : Bool) (ev : ℕ) : Mach :=
  m.issueV (m.regionWrites d (rs.map Rounded.pat) marked) (rs.foldl (fun e r => e ||| r.ev) ev)

/-- An element-wise command of `n` elements: A (or the latch) of `za` bytes, B of `zb`, C of `zc` or the scalar, D of `zd`; a
size of 0 says the operand is not used. `q` says which; `dk` is what Dusk mode draws. -/
def State.vElements (s : State) (gu : Guard) (l : Bool) (a b : GF) (q : VFmt → VForm) (n : ℕ) (v : VFmt)
    (g : VArg) (xs ys zs : List ℕ) (marked : Bool) (dk : Option ℕ) (m : Mach) : Prop :=
  ∃ m1 pa m2, s.vChecked gu l a b n v g ((q v).plan l g n) m1 ∧ (q v).ok = true ∧ (q v).za ≠ 0 ∧
    m1.takesA l g.a (q v).za n xs pa m2 ∧ dk = m2.draw v.dusk 32 ∧ m = m2.drawn v.dusk ∧
    ys = (if (q v).zb = 0 then [] else m1.region (vReg g.b (q v).zb n)) ∧
    zs = (if (q v).zc = 0 then List.replicate n g.c else m1.region (vReg g.c (q v).zc n)) ∧
    marked = (pa || ((q v).zb ≠ 0 && m1.regionMarked (vReg g.b (q v).zb n)) ||
      ((q v).zc ≠ 0 && m1.regionMarked (vReg g.c (q v).zc n)))

/-- Element `i` of each operand through a function of three patterns, and of the element's own free value in Dusk mode. -/
def byElement (dk : Option ℕ) (n : ℕ) (xs ys zs : List ℕ) (f : Option ℕ → ℕ → ℕ → ℕ → Rounded) : List Rounded :=
  (List.range n).map fun i => f (dk.map (· + i)) (xs.getD i 0) (ys.getD i 0) (zs.getD i 0)

/-- An exact result rounded once to format vd, with its own events beside those of the rounding (R177). -/
def VFmt.exact (v : VFmt) (x : Sys2Proof.Machine.Num × ℕ) (sig : ℕ) : Rounded :=
  { pat := (roundTo v.vd false x.1).pat, ev := (roundTo v.vd false x.1).ev ||| (x.2 ||| sig) }

/-- An exact result rounded once to format vd; in Dusk mode a floating one within two units of it (R119, R120, R177). -/
def VFmt.near (v : VFmt) (d : Option ℕ) (x : Sys2Proof.Machine.Num × ℕ) (sig : ℕ) : Rounded :=
  { pat := (if isFloat v.va then relax d v.vd 2 (roundTo v.vd false x.1) else roundTo v.vd false x.1).pat
    ev := (if isFloat v.va then relax d v.vd 2 (roundTo v.vd false x.1) else roundTo v.vd false x.1).ev ||| (x.2 ||| sig) }

/-- The vector commands that run on VL elements. -/
def vlCommand (gu : Guard) (a b : GF) (l x : Bool) (cc : BitVec 3) : List Instr :=
  [.vmov gu a b l, .vfill gu a b, .vadd gu a b l, .vsub gu a b l, .vmul gu a b l, .vfma gu a b l, .vmin gu a b l,
   .vmax gu a b l, .vabs gu a l, .vneg gu a l, .vadds gu a b l, .vmuls gu a b l, .vfmas gu a b l, .vrcp gu a l,
   .vrsqrt gu a l, .vexp gu a l, .vlog gu a l, .vsin gu a l, .vcos gu a l, .vtanh gu a l, .vsig gu a l, .vsilu gu a l,
   .vgelu gu a l, .vcvt gu a l, .vqnt gu a b l, .vdq gu a b, .vcmp gu a b x cc, .vsel gu a b, .vrsum gu a, .vrmax gu a,
   .vargmax gu a, .vscan gu a, .vdot gu a b, .vperm gu a b, .vgath gu a b, .vscadd gu a b, .viadd gu a b x,
   .vand gu a b x, .vor gu a b x, .vxor gu a b x, .vshl gu a b x, .vshr gu a b l x, .vsmax gu a b, .vrmsn gu a b,
   .vrope gu a b x, .vmaskw gu a b l x, .tcwupd gu a b, .tcwcnt gu a]

/-- A ring has a tile at its consume position (R202, R211). -/
def Cont.hasTile (c : Cont) (q : ℕ) : Prop :=
  ringValid (vget c.mx.rings q 0) = true ∧ (ringTail (vget c.mx.rings q 0) + 256 - (vget c.mx.cpos q 0).toNat) % 256 ≠ 0

/-- No drain of an accumulator is outstanding (R211). -/
def Cont.noDrain (c : Cont) (acc : ℕ) : Prop := ∀ k ∈ c.mx.array, k.drain = true → k.acc ≠ acc

/-- A matrix command that enters the array as it leaves its slot: the claim is held, no sequencer run holds the array, and the
head of tile queue 1 does not go before it; `f` is the fmt it takes; `m` is the machine once earlier drains have landed
(R25, R124, R129, R211). -/
def State.mRuns (s : State) (gu : Guard) (f : W32) (m : Mach) : Prop :=
  s.Ready gu .m ∧ s.m.cur.claim = true ∧ s.m.runHolds s.m.cur = false ∧
    (s.m.cur.fmt.getLsbD 24 = true ∨ s.m.cur.queue1Ready = false) ∧ f = s.m.fmtNow ∧ m = s.m.landDrains s.m.cur.id

/-- The additions of K-steps to one element, ascending: each adds the exact sum of a step's products and rounds once, to FP32
or INT32 (R114, R115, R207). -/
def mulSteps (int : Bool) (step ks : ℕ) (a b : ℕ → Sys2Proof.Machine.Num) (start : ℕ) : Rounded :=
  (List.range ks).foldl (fun acc k =>
    let p := stepSum a b step (step * k)
    let code := if int then 6 else 0
    let x := (readNum code acc.pat).add p
    let r := roundTo code false x.1
    { pat := r.pat
      ev := if int then r.ev ||| acc.ev
        else (r.ev ||| x.2 ||| (if p = .nan then evInvalid else 0) ||| sigEv [(0, acc.pat)]) ||| acc.ev }) { pat := start, ev := 0 }

/-- The D instructions that name a card, with their opcodes and the member mask of DMCAST. -/
def cardInstrs (gu : Guard) (card : GF) (mm : BitVec 4) (ac : BitVec 6) : List (Instr × ℕ × BitVec 4) :=
  [(.dcopy gu card ac, 0, 0), (.dmcast gu card mm ac, 1, mm), (.dgath gu card ac, 2, 0), (.dscat gu card ac, 3, 0),
   (.dscadd gu card ac, 4, 0), (.dred gu card ac, 5, 0), (.dbcast gu card ac, 6, 0), (.dallg gu card ac, 7, 0),
   (.dembag gu card ac, 8, 0), (.dstage gu card ac, 9, 0), (.pack gu card ac, 10, 0), (.unpack gu card ac, 11, 0),
   (.exn gu card ac, 12, 0), (.kvfill gu card ac, 13, 0), (.skfind gu card ac, 14, 0), (.skput gu card ac, 15, 0),
   (.skrel gu card ac, 16, 0), (.skpin gu card ac, 17, 0), (.ixwalk gu card ac, 19, 0), (.ixsect gu card ac, 20, 0),
   (.ixpart gu card ac, 21, 0)]

/-- A transfer to `t` is in order: a bundle header at a multiple of 4 whose bundle lies in one granule (R126, R148). -/
def Mach.landsAt (m : Mach) (t : BitVec 48) : Prop :=
  t.toNat % 4 = 0 ∧ ∃ b, m.fetchBytes m.cur t.toNat 4 = .ok b ∧ inGranule t.toNat (leNat b) = true

/-- A machine whose issuing continuation goes on at `t` after its bundle (R127, R148). -/
def Mach.jumpTo (m : Mach) (t : BitVec 48) : Mach := m.withCur (m.cur.jump t)

/-- A continuation with a loop counter set. -/
def Cont.setLoop (c : Cont) (x : BitVec 2) (v : W32) : Cont := { c with lc := vset c.lc x.toNat v }

/-- A continuation with a branch register set. -/
def Cont.setBranch (c : Cont) (n : BitVec 3) (v : BitVec 48) : Cont := { c with b := vset c.b n.toNat v }

/-- A request leaves a continuation: every earlier access performed, none pending, and the launch unit's die has the issuer's past
(R162, R248). -/
def Mach.sends (m m' : Mach) : Prop :=
  m.cur.imprecise = none ∧ m.cur.settled ∧ m' = (m.performed m.cur.id).withMem
    ((m.performed m.cur.id).mem.catchUp 0 ((m.performed m.cur.id).mem.stampOf (m.performed m.cur.id).cur.die))

/-- A machine in which an answer is on its way to a register of the issuing continuation (R248). -/
def Mach.answerTo (m : Mach) (d : GF) (v : Option Word) : Mach :=
  m.withCur { m.cur with answers := m.cur.answers ++ [{ d := d, value := v }] }

/-- A machine in which the run of the sequencer that moves is `r`. -/
def Mach.withRun (m : Mach) (r : Run) : Mach := m.setSeq m.seqSel { m.seq m.seqSel with run := some r }

/-- A run at its next word (R266). -/
def Run.nextWord (r : Run) : Run := { r with pcw := (r.pcw + 1) % 1024 }

/-- A run whose next word is another. -/
def Run.at (r : Run) (n : ℕ) : Run := { r with pcw := n }

/-- A micro-operation of a run of the continuation `c`: `r` the run at its next word, `m` the machine with it (R266). -/
def State.micro (s : State) (r : Run) (c : Cont) (m : Mach) : Prop :=
  (∃ r0, (s.m.seq s.m.seqSel).run = some r0 ∧ r = r0.nextWord) ∧ s.m.cont? r.cont = some c ∧ m = s.m.withRun r

/-- R63, R266: the tile at the tail of a ring of the run's window, which can take one more tile of so many bytes. -/
def Cont.tailTileAt (c : Cont) (q bytes tile place : ℕ) : Prop :=
  bytes ≤ ringSize (vget c.mx.rings q 0) ∧ ringValid (vget c.mx.rings q 0) = true ∧
    ringOcc (vget c.mx.rings q 0) + 1 ≤ ringCount (vget c.mx.rings q 0) ∧
    tile = ringBase (vget c.mx.rings q 0) + ringTail (vget c.mx.rings q 0) % ringCount (vget c.mx.rings q 0) * ringSize (vget c.mx.rings q 0) ∧
    place = ringRows (vget c.mx.rings q 0) + ringTail (vget c.mx.rings q 0) % ringCount (vget c.mx.rings q 0)

/-- A machine after a tile of a ring has been filled: its row count is written, then the tail advances (R63). -/
def Mach.tilePushed (m : Mach) (c : Cont) (q rows place : ℕ) : Mach :=
  (m.winWrite c place [BitVec.ofNat 8 rows] false).setCont
    { c with mx := { c.mx with rings := vset c.mx.rings q (ringPush (vget c.mx.rings q 0) 1) } }

/-- The stamp of the next write of die `d` (R93). -/
def Mem.nextStamp (m : Mem) (d : ℕ) : SMap ℕ :=
  Mem.stampOf { m with clock := SMap.set 0 m.clock (64 * d + d) (m.clk d d + 1) } d

/-- What an access of the issuing continuation first brings in: results of its earlier drains that land where it reads or
writes, or the writes that its die is to see before it reads host memory (R86, R100). -/
def Mach.settleOne (m : Mach) : Option (List (ℕ × ℕ)) → Mach
  | none => m.landDrains m.cur.id
  | some ps => m.withMem (m.mem.observe m.cur.die ps)

/-- A machine as its issuing continuation's accesses find it, once what each first brings in has come. -/
def Mach.settlesTo (m m0 : Mach) : Prop := ∃ l : List (Option (List (ℕ × ℕ))), m0 = l.foldl Mach.settleOne m

/-- A byte a die sees is as it was, or, after an access to host memory, as a write that was on its way there has left it. -/
def Mem.keptAt (m : Mem) (d : ℕ) (host : Prop) (x : Mem) (e a : ℕ) : Prop :=
  x.byteAt e a = m.byteAt e a ∨ (host ∧ (e = d ∨ coherent a = true) ∧
    ∃ w ∈ m.flight, d ∈ w.todo ∧ w.pa ≤ a ∧ a < w.pa + w.bytes.length ∧ x.byteAt e a = w.bytes.getD (a - w.pa) 0)

/-- A memory differs from a machine's at most in the bytes of a virtual range of the issuing continuation, as its die sees
them; a store to host memory, of which every die reads one copy, first brings in what the bytes there follow (R69, R74, R100,
R158). -/
def Mach.sparesVirt (m : Mach) (va : Word) (n : ℕ) (x : Mem) : Prop :=
  x.spad = m.mem.spad ∧ x.spadPoison = m.mem.spadPoison ∧ ((∀ ps, m.resolveCont va n .write ≠ .ok ps) → x = m.mem) ∧
    ∀ ps, m.resolveCont va n .write = .ok ps → (∀ p ∈ ps, p.1 + p.2 ≤ 2 ^ 52) → (∀ w ∈ m.mem.flight, w.pa + w.bytes.length ≤ 2 ^ 52) →
      ∀ e a, e < 64 → a < 2 ^ 52 → (e = m.cur.die ∨ coherent a = true → ∀ p ∈ ps, a < p.1 ∨ p.1 + p.2 ≤ a) →
        m.mem.keptAt m.cur.die (∃ p ∈ ps, ∃ b, p.1 ≤ b ∧ b < p.1 + p.2 ∧ coherent b = true) x e a

/-- A memory differs from a machine's at most in the bytes of a range of the issuing member's window, their marks and stamps
(R59, R93). -/
def Mach.sparesWin (m : Mach) (o : Int) (n : ℕ) (x : Mem) : Prop :=
  (m.cur.die = spadDie (skey m.cur.gcore (m.cur.winBase + o.toNat)) → x.view = m.mem.view ∧ x.poison = m.mem.poison) ∧ ∀ key,
    key < skey m.cur.gcore (m.cur.winBase + o.toNat) ∨ skey m.cur.gcore (m.cur.winBase + o.toNat) + n ≤ key →
    x.spad.byte key = m.mem.spad.byte key

/-- What a destination field leaves of memory: all of it where it names no output stream, else all but the stream's element
(R65, R123). -/
def Mach.sparesDest (m : Mach) (f : ℕ) (x : Mem) : Prop :=
  (f < 24 → x = m.mem) ∧ ∀ r : StreamRec, 24 ≤ f → vget m.cur.streams (f - 24) none = some r →
    (r.virt = true → m.sparesVirt (ofI r.addr) (2 ^ r.lg.toNat) x) ∧ (r.virt = false → m.sparesWin r.addr (2 ^ r.lg.toNat) x)

/-- The general registers, predicates, branch registers and loop counters outside a list keep their values and their marks. -/
def Cont.keeps (c c' : Cont) (l : List RegName) : Prop :=
  (∀ k, k < 24 → RegName.g k ∉ l → vget c'.g k 0 = vget c.g k 0 ∧ vget c'.gPoison k none = vget c.gPoison k none) ∧
    (∀ k, k < 8 → RegName.p k ∉ l → c'.pred k = c.pred k) ∧ (∀ k, k < 8 → RegName.b k ∉ l → vget c'.b k 0 = vget c.b k 0) ∧
    ∀ k, k < 4 → RegName.lc k ∉ l → vget c'.lc k 0 = vget c.lc k 0

/-- The bytes the present slots of a bundle take (R125, R131, R133, R134). -/
def bodyBytes (h : ℕ) : ℕ :=
  ((List.range 7).map fun k => if h.testBit k then (if k = 4 ∨ k = 5 then 8 else 4) else 0).sum

end Sys2Proof.Machine
end

