-- ==== Sys2Proof/Certificates/Slice0/Obligations.lean ====
section
/-! DEFINITION. The statements for the provers, rule by rule of the spec. -/

open Sys2Proof Sys2Proof.Machine

/-! ### Operands and registers -/

/-- R122, R123: g0 reads as zero and a general register as its value; nothing changes. R122, R123: a write of a general register
changes that register alone; a write of g0 is discarded; a register then reads as what was written. R122: p0 reads as true
and a write of it is discarded; a write of another predicate changes that one alone. -/
def Obligations.RegisterOperands : Prop :=
  (∀ (m : Mach) (f : GF), m.cur.readable f → readG f m = .ok (m.cur.val f, m)) ∧
  (∀ (m : Mach) (f : GF) (v : Word), m.cur.writable f →
     writeG f v m = .ok ((), { m with cur := m.cur.setG f v }) ∧
     (m.cur.setG f v).val f = (if f = 0 then 0 else v) ∧
     (∀ k : GF, k ≠ f → (m.cur.setG f v).val k = m.cur.val k) ∧
     { m.cur.setG f v with g := m.cur.g, gPoison := m.cur.gPoison } = m.cur) ∧
  (∀ (c : Cont) (d k : Nat) (b : Bool), d < 8 → k < 8 →
     c.pred 0 = true ∧ (c.setPred d b).pred k = (if k = d ∧ d ≠ 0 then b else c.pred k) ∧ c.setPred 0 b = c ∧
     { c.setPred d b with p := c.p } = c)

/-- R65, R66, R123: a field from 24 to 31 pops its stream: the element at the stream's next address in the member's window or in
virtual memory, zero-extended, and the indices step; an unbound one, one of the other direction and an exhausted one report
0x200B, 0x200A and 0x2009. R65, R66, R123: a destination field from 24 to 31 pushes the low bytes of the value to its
stream, and the indices step. That the element is read at the pop is the model's choice (log entry 67). -/
def Obligations.StreamOperands : Prop :=
  (∀ (m : Mach) (k : Nat) (f : GF), k < 8 → f.toNat = 24 + k →
     (vget m.cur.streams k none = none → readG f m = .error (.trap { cause := 0x200B })) ∧
     ∀ r : StreamRec, vget m.cur.streams k none = some r →
       (r.out = true → readG f m = .error (.trap { cause := 0x200A })) ∧
       (r.out = false → r.remaining = 0 → readG f m = .error (.trap { cause := 0x2009 })) ∧
       (r.out = false → r.remaining ≠ 0 → r.virt = false → m.cur.inWindow r.addr (2 ^ r.lg.toNat) = true →
         ∀ m0, m0 = m.landOver r.addr.toNat (2 ^ r.lg.toNat) →
         m0.winMark m0.cur r.addr.toNat (2 ^ r.lg.toNat) = none →
         readG f m = .ok (toW (leNat (m0.winRead m0.cur r.addr.toNat (2 ^ r.lg.toNat))),
           m0.withCur { m0.cur.setStream k (some r.stepIdx) with past := m0.mem.stampOf m0.cur.die })) ∧
       (r.out = false → r.remaining ≠ 0 → r.virt = true → ∀ ps, m.resolveCont (ofI r.addr) (2 ^ r.lg.toNat) .read = .ok ps →
         ∀ m0, m0 = m.withMem (m.mem.observe m.cur.die ps) →
         m.cur.touchesBlock (ofI r.addr).toNat (2 ^ r.lg.toNat) = false → m0.mem.markParts m.cur.die ps = none →
         readG f m = .ok (toW (leNat (m0.mem.readParts m.cur.die ps)),
           m0.withCur { m0.cur.setStream k (some r.stepIdx) with past := m0.mem.stampOf m0.cur.die }))) ∧
  (∀ (m : Mach) (k : Nat) (f : GF) (v : Word), k < 8 → f.toNat = 24 + k →
     (vget m.cur.streams k none = none → writeG f v m = .error (.trap { cause := 0x200B })) ∧
     ∀ r : StreamRec, vget m.cur.streams k none = some r →
       (r.out = false → writeG f v m = .error (.trap { cause := 0x200A })) ∧
       (r.out = true → r.remaining = 0 → writeG f v m = .error (.trap { cause := 0x2009 })) ∧
       (r.out = true → r.remaining ≠ 0 → r.virt = false → m.cur.inWindow r.addr (2 ^ r.lg.toNat) = true →
         m.cur.resident = true → ∀ m0, m0 = m.landOver r.addr.toNat (2 ^ r.lg.toNat) →
         writeG f v m = .ok ((), { m0 with
           mem := m0.mem.spadStore m0.cur.die (skey m0.cur.gcore (m0.cur.winBase + r.addr.toNat)) (leBytes (2 ^ r.lg.toNat) v.toNat) false
           cur := m0.cur.setStream k (some r.stepIdx) })) ∧
       (r.out = true → r.remaining ≠ 0 → r.virt = true → ∀ ps, m.resolveCont (ofI r.addr) (2 ^ r.lg.toNat) .write = .ok ps →
         m.cur.touchesBlock (ofI r.addr).toNat (2 ^ r.lg.toNat) = false →
         writeG f v m = .ok ((), { m with
           mem := m.mem.writeParts m.cur.die ps (leBytes (2 ^ r.lg.toNat) v.toNat) false
           cur := { m.cur with streams := vset m.cur.streams k (some r.stepIdx) } })))

/-! ### The S slots -/

/-- R142: every integer instruction completes with the result the rule's table gives, on operands of every form, under the
operation number the table gives it. -/
def Obligations.IntegerArithmetic : Prop :=
  ∀ (s : State) (gu : Guard) (d a b : GF), s.Ready gu .s0 →
    (∀ x y m1 m2, readG a s.m = .ok (x, m1) → readG b m1 = .ok (y, m2) → ∀ i v, (i, v) ∈
      [(Instr.add gu d a b, toW (x.toNat + y.toNat)),
       (.sub gu d a b, ofI (x.toInt - y.toInt)),
       (.mul gu d a b, toW (x.toNat * y.toNat)),
       (.mulh gu d a b, (x.signExtend 128 * y.signExtend 128).extractLsb' 64 64),
       (.mulhu gu d a b, (x.setWidth 128 * y.setWidth 128).extractLsb' 64 64),
       (.div gu d a b, if y = 0 then BitVec.allOnes 64 else ofI (x.toInt.tdiv y.toInt)),
       (.divu gu d a b, if y = 0 then BitVec.allOnes 64 else toW (x.toNat / y.toNat)),
       (.rem gu d a b, if y = 0 then x else ofI (x.toInt.tmod y.toInt)),
       (.remu gu d a b, if y = 0 then x else toW (x.toNat % y.toNat)),
       (.min gu d a b, ofI (min x.toInt y.toInt)),
       (.max gu d a b, ofI (max x.toInt y.toInt)),
       (.minu gu d a b, toW (min x.toNat y.toNat)),
       (.maxu gu d a b, toW (max x.toNat y.toNat))] →
      ∀ m3, writeG d v m2 = .ok ((), m3) → exec i s = .next (s.complete m3)) ∧
    (∀ x y m1 m2 (sh : BitVec 6), readG a s.m = .ok (x, m1) → readG b m1 = .ok (y, m2) →
      ∀ m3, writeG d (toW (x.toNat + y.toNat * 2 ^ sh.toNat)) m2 = .ok ((), m3) →
        exec (.addsh gu d a b sh) s = .next (s.complete m3)) ∧
    (∀ x m1 (k : BitVec 11), readG a s.m = .ok (x, m1) →
      ∀ m2, writeG d (ofI (x.toInt + k.toInt)) m1 = .ok ((), m2) → exec (.addi gu d a k) s = .next (s.complete m2)) ∧
    (∀ z x y m1 m2 m3, readG d s.m = .ok (z, m1) → readG a m1 = .ok (x, m2) → readG b m2 = .ok (y, m3) →
      ∀ m4, writeG d (toW (z.toNat + x.toNat * y.toNat)) m3 = .ok ((), m4) → exec (.madd gu d a b) s = .next (s.complete m4)) ∧
    (∀ (sh : BitVec 6) (k : BitVec 11) i op, (i, op) ∈
      [(Instr.add gu d a b, 0x00), (.sub gu d a b, 0x01), (.addi gu d a k, 0x02), (.addsh gu d a b sh, 0x03),
       (.mul gu d a b, 0x04), (.mulh gu d a b, 0x05), (.mulhu gu d a b, 0x06), (.madd gu d a b, 0x07), (.div gu d a b, 0x08),
       (.divu gu d a b, 0x09), (.rem gu d a b, 0x0A), (.remu gu d a b, 0x0B), (.min gu d a b, 0x0C), (.max gu d a b, 0x0D),
       (.minu gu d a b, 0x0E), (.maxu gu d a b, 0x0F)] → encode i / 2 ^ 25 = op) ∧
    (∀ sh : BitVec 6, encode (.addsh gu d a b sh) % 2 ^ 6 = sh.toNat)

/-- R143: every logic, shift, count and bit-field instruction completes with the result the rule's table gives, under the
operation number the table gives it; a word with a bit set that the table calls zero is no instruction. -/
def Obligations.LogicShiftField : Prop :=
  ∀ (s : State) (gu : Guard) (d a b : GF), s.Ready gu .s0 →
    (∀ x m1 (k : BitVec 11) (n : BitVec 6), readG a s.m = .ok (x, m1) → ∀ i v, (i, v) ∈
      [(Instr.andi gu d a k, x &&& ofI k.toInt),
       (.ori gu d a k, x ||| ofI k.toInt),
       (.xori gu d a k, x ^^^ ofI k.toInt),
       (.slli gu d a n, toW (x.toNat * 2 ^ n.toNat)),
       (.srli gu d a n, toW (x.toNat / 2 ^ n.toNat)),
       (.srai gu d a n, ofI (x.toInt / 2 ^ n.toNat)),
       (.popc gu d a, toW ((List.range 64).map fun k => x.toNat / 2 ^ k % 2).sum)] →
      ∀ m2, writeG d v m1 = .ok ((), m2) → exec i s = .next (s.complete m2)) ∧
    (∀ x m1, readG a s.m = .ok (x, m1) → ∃ n ≤ 64, x.toNat < 2 ^ (64 - n) ∧ (n < 64 → 2 ^ (63 - n) ≤ x.toNat) ∧
      ∀ m2, writeG d (toW n) m1 = .ok ((), m2) → exec (.clz gu d a) s = .next (s.complete m2)) ∧
    (∀ x m1, readG a s.m = .ok (x, m1) → ∃ n ≤ 64, (n < 64 → x.getLsbD n = true) ∧ (∀ k < n, x.getLsbD k = false) ∧
      ∀ m2, writeG d (toW n) m1 = .ok ((), m2) → exec (.ctz gu d a) s = .next (s.complete m2)) ∧
    (∀ x y m1 m2, readG a s.m = .ok (x, m1) → readG b m1 = .ok (y, m2) → ∀ i v, (i, v) ∈
      [(Instr.and gu d a b, x &&& y), (.or gu d a b, x ||| y), (.xor gu d a b, x ^^^ y), (.andn gu d a b, x &&& ~~~y),
       (.sll gu d a b, toW (x.toNat * 2 ^ (y.toNat % 64))),
       (.srl gu d a b, toW (x.toNat / 2 ^ (y.toNat % 64))),
       (.sra gu d a b, ofI (x.toInt / 2 ^ (y.toNat % 64))),
       (.ror gu d a b, toW (x.toNat / 2 ^ (y.toNat % 64) + x.toNat * 2 ^ (64 - y.toNat % 64)))] →
      ∀ m3, writeG d v m2 = .ok ((), m3) → exec i s = .next (s.complete m3)) ∧
    (∀ x y m1 m2 pos n (sx : Bool), readG a s.m = .ok (x, m1) → readG b m1 = .ok (y, m2) →
      pos = y.toNat % 64 → n = min (y.toNat / 2 ^ 8 % 2 ^ 7) (64 - pos) →
      ∀ m3, writeG d (if n = 0 then 0 else
          if (sx && x.getLsbD (pos + n - 1)) = true then ofI ((x.toNat / 2 ^ pos % 2 ^ n : Nat) - (2 ^ n : Nat)) else toW (x.toNat / 2 ^ pos % 2 ^ n)) m2 = .ok ((), m3) →
        exec (.bext gu d a b sx) s = .next (s.complete m3)) ∧
    (∀ z x y m1 m2 m3 pos n, readG d s.m = .ok (z, m1) → readG a m1 = .ok (x, m2) → readG b m2 = .ok (y, m3) →
      pos = y.toNat % 64 → n = min (y.toNat / 2 ^ 8 % 2 ^ 7) (64 - pos) →
      ∃ v : Word, (∀ k, k < 64 → v.getLsbD k = if pos ≤ k ∧ k < pos + n then x.getLsbD (k - pos) else z.getLsbD k) ∧
        ∀ m4, writeG d v m3 = .ok ((), m4) → exec (.bins gu d a b) s = .next (s.complete m4)) ∧
    (∀ (n : BitVec 6) (k : BitVec 11) (sx : Bool) i op, (i, op) ∈
      [(Instr.and gu d a b, 0x10), (.or gu d a b, 0x11), (.xor gu d a b, 0x12), (.andn gu d a b, 0x13), (.andi gu d a k, 0x14),
       (.ori gu d a k, 0x15), (.xori gu d a k, 0x16), (.sll gu d a b, 0x17), (.srl gu d a b, 0x18), (.sra gu d a b, 0x19),
       (.slli gu d a n, 0x1A), (.srli gu d a n, 0x1B), (.srai gu d a n, 0x1C), (.ror gu d a b, 0x1D), (.clz gu d a, 0x1E),
       (.ctz gu d a, 0x1F), (.popc gu d a, 0x20), (.bext gu d a b sx, 0x21), (.bins gu d a b, 0x22)] →
      encode i / 2 ^ 25 = op) ∧
    (∀ sx : Bool, encode (.bext gu d a b sx) % 2 = sx.toNat) ∧
    (∀ w < 2 ^ 32, w / 2 ^ 25 ∈ [0x1A, 0x1B, 0x1C] → w / 2 ^ 6 % 2 ^ 5 ≠ 0 → decode .s0 w = none)

/-- R144: every move, compare and predicate instruction completes with the result the rule's table gives, under the operation
number the table gives it; a word with a bit set that the table calls zero is no instruction. -/
def Obligations.MoveComparePredicate : Prop :=
  ∀ (s : State) (gu : Guard),
    (∀ d (k : BitVec 16), s.Ready gu .s0 →
      ∀ m1, writeG d (ofI k.toInt) s.m = .ok ((), m1) → exec (.movi gu d k) s = .next (s.complete m1)) ∧
    (∀ d z m1 (l : BitVec 2) (k : BitVec 16), s.Open .s0 → readG d s.m = .ok (z, m1) →
      ∃ v : Word, (∀ j, j < 64 → v.getLsbD j = if j / 16 = l.toNat then k.getLsbD (j % 16) else z.getLsbD j) ∧
        ∀ m2, writeG d v m1 = .ok ((), m2) → exec (.movk l d k) s = .next (s.complete m2)) ∧
    (∀ d a b x y m1 m2 (q : BitVec 3), s.Ready gu .s0 → readG a s.m = .ok (x, m1) → readG b m1 = .ok (y, m2) →
      ∀ m3, writeG d (if m2.cur.pred q.toNat then x else y) m2 = .ok ((), m3) →
        exec (.sel gu d a b q) s = .next (s.complete m3)) ∧
    (∀ (d : BitVec 3) a b x y m1 m2, s.Ready gu .s0 → readG a s.m = .ok (x, m1) → readG b m1 = .ok (y, m2) → ∀ i v, (i, v) ∈
      [(Instr.cmpeq gu d a b, decide (x.toNat = y.toNat)), (.cmpne gu d a b, decide (x.toNat ≠ y.toNat)),
       (.cmplt gu d a b, decide (x.toInt < y.toInt)), (.cmpltu gu d a b, decide (x.toNat < y.toNat)),
       (.cmpge gu d a b, decide (y.toInt ≤ x.toInt)), (.cmpgeu gu d a b, decide (y.toNat ≤ x.toNat))] →
      exec i s = .next (s.complete { m2 with cur := m2.cur.setPred d.toNat v })) ∧
    (∀ (d : BitVec 3) a x m1 (k : BitVec 11), s.Ready gu .s0 → readG a s.m = .ok (x, m1) → ∀ i v, (i, v) ∈
      [(Instr.cmpeqi gu d a k, decide (x.toInt = k.toInt)), (.cmplti gu d a k, decide (x.toInt < k.toInt))] →
      exec i s = .next (s.complete { m1 with cur := m1.cur.setPred d.toNat v })) ∧
    (∀ (d a b : BitVec 3) (t : BitVec 4), s.Ready gu .s0 → exec (.plog gu d a b t) s = .next (s.complete { s.m with
      cur := s.m.cur.setPred d.toNat (t.getLsbD
        ((if s.m.cur.pred a.toNat then 2 else 0) + if s.m.cur.pred b.toNat then 1 else 0)) })) ∧
    (∀ d, s.Ready gu .s0 → ∃ v : Word, (∀ k, k < 64 → v.getLsbD k = (decide (k < 8) && s.m.cur.pred k)) ∧
      ∀ m1, writeG d v s.m = .ok ((), m1) → exec (.movpGet gu d) s = .next (s.complete m1)) ∧
    (∀ a x m1, s.Ready gu .s0 → readG a s.m = .ok (x, m1) → ∃ q : BitVec 8,
      (∀ k, 1 ≤ k → k < 8 → ({ m1.cur with p := q } : Cont).pred k = x.getLsbD k) ∧
      exec (.movpSet gu a) s = .next (s.complete { m1 with cur := { m1.cur with p := q } })) ∧
    (∀ (d a b : GF) (p q r : BitVec 3) (t : BitVec 4) (k : BitVec 11) (l : BitVec 2) (n : BitVec 16) i op, (i, op) ∈
      [(Instr.movi gu d n, 0x23), (.movk l d n, 0x24), (.sel gu d a b q, 0x25), (.cmpeq gu p a b, 0x26), (.cmpne gu p a b, 0x27),
       (.cmplt gu p a b, 0x28), (.cmpltu gu p a b, 0x29), (.cmpge gu p a b, 0x2A), (.cmpgeu gu p a b, 0x2B),
       (.cmpeqi gu p a k, 0x2C), (.cmplti gu p a k, 0x2D), (.plog gu p q r t, 0x2E), (.movpGet gu d, 0x2F),
       (.movpSet gu a, 0x2F)] → encode i / 2 ^ 25 = op) ∧
    (∀ (d a b : GF) (p q r : BitVec 3) (t : BitVec 4) (l : BitVec 2) (n : BitVec 16),
      encode (.movk l d n) / 2 ^ 21 % 2 ^ 4 = l.toNat ∧ encode (.sel gu d a b q) % 2 ^ 6 = q.toNat ∧
      encode (.cmpeq gu p a b) / 2 ^ 16 % 2 ^ 5 = p.toNat ∧ encode (.plog gu p q r t) % 2 ^ 6 = t.toNat ∧
      encode (.movpGet gu d) % 2 = 0 ∧ encode (.movpSet gu a) % 2 = 1) ∧
    (∀ w < 2 ^ 32, (w / 2 ^ 25 = 0x24 ∧ w / 2 ^ 23 % 2 ^ 2 ≠ 0) ∨ (w / 2 ^ 25 = 0x25 ∧ w / 2 ^ 3 % 2 ^ 3 ≠ 0) ∨
      (w / 2 ^ 25 = 0x2E ∧ w / 2 ^ 4 % 2 ^ 2 ≠ 0) ∨ (w / 2 ^ 25 = 0x2F ∧ w % 2 = 0 ∧ w / 2 ^ 11 % 2 ^ 5 ≠ 0) ∨
      (w / 2 ^ 25 = 0x2F ∧ w % 2 = 1 ∧ w / 2 ^ 16 % 2 ^ 5 ≠ 0) → decode .s0 w = none) ∧
    (∀ (a : GF) (b : Bool), dests (.movpSet gu a) = [.p 1, .p 2, .p 3, .p 4, .p 5, .p 6, .p 7] ∧ s.m.cur.setPred 0 b = s.m.cur)

/-- R145: every floating-point instruction completes with the exact result rounded once to the format, and its events in the
flags of the slot that executes it; a signalling operand adds invalid; comparisons write a predicate. R146: FCVT rounds to
the other format, FTOI rounds and saturates, ITOF rounds an integer; the flags are those of R111 and R146. -/
def Obligations.ScalarFloatAndConversion : Prop :=
  (∀ (s : State) (gu : Guard) (d a b : GF) (pd : BitVec 3) (z : Bool), s.Ready gu .s0 →
     (∀ x y m1 m2, readG a s.m = .ok (x, m1) → readG b m1 = .ok (y, m2) → ∀ i r, (i, r) ∈
       [(Instr.fadd gu d a b z, ((Machine.Num.add (fpNum z x) (fpNum z y)).1, false, (Machine.Num.add (fpNum z x) (fpNum z y)).2)),
        (.fsub gu d a b z, ((Machine.Num.add (fpNum z x) (fpNum z y).negate).1, false, (Machine.Num.add (fpNum z x) (fpNum z y).negate).2)),
        (.fmul gu d a b z, ((Machine.Num.mul (fpNum z x) (fpNum z y)).1, false, (Machine.Num.mul (fpNum z x) (fpNum z y)).2)),
        (.fdiv gu d a b z, Machine.Num.div (fpNum z x) (fpNum z y)),
        (.fmin gu d a b z, (Machine.Num.pick false (fpNum z x) (fpNum z y), false, 0)),
        (.fmax gu d a b z, (Machine.Num.pick true (fpNum z x) (fpNum z y), false, 0))] →
       ∀ p m3, p = roundTo (fpCode z) false r.1 r.2.1 → writeG d (toW p.pat) m2 = .ok ((), m3) →
         exec i s = .next (s.complete (m3.noteEvents (p.ev ||| (r.2.2 ||| fpSig z [x, y]))))) ∧
     (∀ w x y m1 m2 m3 p m4, readG d s.m = .ok (w, m1) → readG a m1 = .ok (x, m2) → readG b m2 = .ok (y, m3) →
       p = roundTo (fpCode z) false (Machine.Num.fma (fpNum z x) (fpNum z y) (fpNum z w)).1 →
       writeG d (toW p.pat) m3 = .ok ((), m4) →
       exec (.ffma gu d a b z) s = .next (s.complete (m4.noteEvents (p.ev ||| ((Machine.Num.fma (fpNum z x) (fpNum z y) (fpNum z w)).2 ||| fpSig z [w, x, y]))))) ∧
     (∀ x m1 p m2, readG a s.m = .ok (x, m1) → p = roundTo (fpCode z) false (fpNum z x).sqrt.1 (fpNum z x).sqrt.2.1 →
       writeG d (toW p.pat) m1 = .ok ((), m2) →
       exec (.fsqrt gu d a z) s = .next (s.complete (m2.noteEvents (p.ev ||| ((fpNum z x).sqrt.2.2 ||| fpSig z [x]))))) ∧
     (∀ x y m1 m2, readG a s.m = .ok (x, m1) → readG b m1 = .ok (y, m2) → ∀ i v, (i, v) ∈
       [(Instr.fcmpeq gu pd a b z, Machine.Num.eq (fpNum z x) (fpNum z y)), (.fcmplt gu pd a b z, Machine.Num.lt (fpNum z x) (fpNum z y)),
        (.fcmple gu pd a b z, Machine.Num.lt (fpNum z x) (fpNum z y) || Machine.Num.eq (fpNum z x) (fpNum z y))] → ∀ c,
       c = m2.cur.setPred pd.toNat v →
       exec i s = .next (s.complete ((m2.withCur c).noteEvents (fpSig z [x, y])))) ∧
     (∀ x m1 m2 sg e m top k, readG a s.m = .ok (x, m1) →
       (sg, e, m, top) = (if z then (x.toNat / 2 ^ 63 % 2, x.toNat / 2 ^ 52 % 2 ^ 11, x.toNat % 2 ^ 52, 2047)
         else (x.toNat / 2 ^ 31 % 2, x.toNat / 2 ^ 23 % 2 ^ 8, x.toNat % 2 ^ 23, 255)) →
       k = (if e = top ∧ m ≠ 0 then (if m < (if z then 2 ^ 51 else 2 ^ 22) then 8 else 9)
         else if e = top then (if sg = 1 then 0 else 7)
         else if e = 0 ∧ m = 0 then (if sg = 1 then 3 else 4)
         else if e = 0 then (if sg = 1 then 2 else 5) else if sg = 1 then 1 else 6) →
       writeG d (toW (2 ^ k)) m1 = .ok ((), m2) → exec (.fclass gu d a z) s = .next (s.complete m2))) ∧
  (∀ (s : State) (gu : Guard) (d a : GF) (x : Word) (m1 : Mach), s.Ready gu .s0 → readG a s.m = .ok (x, m1) →
     (∀ z p m2, p = roundTo (fpCode z) false (fpNum (!z) x) → writeG d (toW p.pat) m1 = .ok ((), m2) →
       exec (.fcvt gu d a z) s = .next (s.complete (m2.noteEvents (p.ev ||| (fpSig (!z) [x]))))) ∧
     (∀ z u rz lo hi, lo = (if u then 0 else -2 ^ 63 : Int) → hi = (if u then 2 ^ 64 - 1 else 2 ^ 63 - 1 : Int) →
       (fpNum z x = .nan → ∀ m2, writeG d 0 m1 = .ok ((), m2) → exec (.ftoi gu d a rz u z) s = .next (s.complete
         (m2.noteEvents evInvalid))) ∧
       (∀ sg, fpNum z x = .inf sg → ∀ m2, writeG d (ofI (if sg then lo else hi)) m1 = .ok ((), m2) →
         exec (.ftoi gu d a rz u z) s = .next (s.complete
           (m2.noteEvents (evSaturation + evInexact)))) ∧
       (∀ sg m e n lost i, fpNum z x = .fin sg m e → (n, lost) = toUnit rz m e 0 false → i = (if sg then -(n : Int) else n) →
         ∀ m2, writeG d (ofI (if i < lo then lo else if hi < i then hi else i)) m1 = .ok ((), m2) →
           exec (.ftoi gu d a rz u z) s = .next (s.complete (m2.noteEvents ((if lost = true ∨ i < lo ∨ hi < i then evInexact else 0) + if i < lo ∨ hi < i then evSaturation else 0))))) ∧
     (∀ z u p m2, p = roundTo (fpCode z) false
         (if u = true then .fin false x.toNat 0 else .fin (decide (x.toInt < 0)) x.toInt.natAbs 0) →
       writeG d (toW p.pat) m1 = .ok ((), m2) →
       exec (.itof gu d a u z) s = .next (s.complete (m2.noteEvents p.ev))))

/-- R145, R107: the sum, the product and the fused sum of finite values are exact before they are rounded, and raise no event of
their own. R111: rounding a finite value to FP32 or FP64 gives a pattern of the format no other finite pattern is nearer
than, where the result is finite. R106, R111: a finite number of any floating-point format rounds to its own pattern with no
event, but for a subnormal of a format that flushes them. -/
def Obligations.FloatsExactThenRounded : Prop :=
  (∀ (s t u : Bool) (m n k : ℕ) (e f g : ℤ), ∀ x y w : Machine.Num, x = .fin s m e → y = .fin t n f → w = .fin u k g →
     ((x.add y).1.rat = x.rat + y.rat ∧ (x.add y).2 = 0) ∧ ((x.mul y).1.rat = x.rat * y.rat ∧ (x.mul y).2 = 0) ∧
     ((Machine.Num.fma x y w).1.rat = x.rat * y.rat + w.rat ∧ (Machine.Num.fma x y w).2 = 0) ∧
     (x.lt y = true ↔ x.rat < y.rat) ∧ (x.eq y = true ↔ x.rat = y.rat)) ∧
  (∀ (c : ℕ) (f : FloatFmt) (s : Bool) (m : ℕ) (e : ℤ) (p : ℕ), c = 0 ∨ c = 7 → floatFmt c = some f →
     p = (f.round false (.fin s m e)).pat → (f.fields p).2.1 ≠ 2 ^ f.w - 1 →
     p < 2 ^ (1 + f.w + f.t) ∧
     ∀ q : ℕ, q < 2 ^ (1 + f.w + f.t) → (f.fields q).2.1 ≠ 2 ^ f.w - 1 →
       |(f.read p).rat - (Machine.Num.fin s m e).rat| ≤ |(f.read q).rat - (Machine.Num.fin s m e).rat|) ∧
  (∀ (c : ℕ) (f : FloatFmt) (rz : Bool) (p : ℕ), floatFmt c = some f → p < 2 ^ (1 + f.w + f.t) → f.isNan p = false →
     ((f.fields p).2.1 = 2 ^ f.w - 1 → f.e4m3 = true) →
     ((f.fields p).2.1 = 0 → f.narrow = true → (f.fields p).2.2 = 0) →
     f.round rz (f.read p) = { pat := p, ev := 0 })

/-- R119, R120: outside Dusk mode a result is the exact one; in Dusk mode a finite nonzero floating result is within `k` units
of the exact-mode result and keeps its sign, and a NaN, an infinity, a zero and an integer stand. -/
def Obligations.DuskResultsStayInBound : Prop :=
  ∀ (dusk : Option ℕ) (code k : ℕ) (r : Rounded),
    relax none code k r = r ∧
    (∀ f, floatFmt code = some f → (f.read r.pat = .nan ∨ (∃ sg, f.read r.pat = .inf sg) ∨ (f.read r.pat).isZero = true) →
      relax dusk code k r = r) ∧
    (floatFmt code = none → relax dusk code k r = r) ∧
    (∀ f sg mm e, floatFmt code = some f → f.read r.pat = .fin sg mm e → mm ≠ 0 →
      (relax dusk code k r).pat = r.pat ∨
      ((f.fields (relax dusk code k r).pat).1 = sg ∧ f.admits k sg mm e (relax dusk code k r).pat = true)) ∧
    (relax dusk code k r).ev &&& r.ev = r.ev

/-- R367 to R371: an instruction's events are added to its slot's flags, none is cleared; the first one is captured once, where
TRAPEN arms capture; nothing else of the continuation changes but the note of a flag trap. -/
def Obligations.StickyFlags : Prop :=
  ∀ (c : Cont) (slot ev : ℕ) (eng : Bool) (pc : BitVec 48), ev ≠ 0 →
    (c.setFlags slot ev eng pc).flags = c.flags ||| BitVec.ofNat 32 (flagBits slot ev) ∧
    (c.setFlags slot ev eng pc).fev = (if c.trapen.getLsbD 8 = true ∧ c.fev.getLsbD 63 = false then
      toW (2 ^ 63 + (if eng then 2 ^ 62 else 0) + ev % 2 ^ 7 * 2 ^ 55 + slot * 2 ^ 48 + pc.toNat) else c.fev) ∧
    { c.setFlags slot ev eng pc with flags := c.flags, fev := c.fev, cursor := c.cursor, flagTrap := c.flagTrap } = c ∧
    ((eng = true ∨ trapBits c.trapen ev = false) →
      (c.setFlags slot ev eng pc).cursor = c.cursor ∧ (c.setFlags slot ev eng pc).flagTrap = c.flagTrap)

/-! ### The A slot -/

/-- R158, R159: a weak load completes with the bytes at ga + SExt(imm11) × z as the issuer's die sees them, sign- or
zero-extended; where a granule read is marked, a general register takes the mark. -/
def Obligations.WeakLoads : Prop :=
  ∀ (s : State) (gu : Guard) (d a : GF) (k : BitVec 11) (x : Word) (m1 : Mach) (i : Instr) (n : ℕ) (sx : Bool)
    (va : Word) (ps : List (ℕ × ℕ)) (v : Word), s.Ready gu .a → readG a s.m = .ok (x, m1) →
    (i, n, sx) ∈ [(Instr.ldb gu d a k, 1, true), (.ldbu gu d a k, 1, false), (.ldh gu d a k, 2, true),
      (.ldhu gu d a k, 2, false), (.ldw gu d a k, 4, true), (.ldwu gu d a k, 4, false), (.ldd gu d a k, 8, false)] →
    va = ofI (x.toInt + k.toInt * n) → m1.resolveCont va n .read = .ok ps → m1.cur.touchesBlock va.toNat n = false →
    ∀ m0, m0 = m1.withMem (m1.mem.observe m1.cur.die ps) →
    v = (if sx = true ∧ 2 ^ (8 * n - 1) ≤ leNat (m0.mem.readParts m0.cur.die ps)
      then ofI ((leNat (m0.mem.readParts m0.cur.die ps) : ℤ) - (2 ^ (8 * n) : ℕ))
      else toW (leNat (m0.mem.readParts m0.cur.die ps))) →
    (m0.mem.markParts m0.cur.die ps = none → ∀ m2, writeG d v m0 = .ok ((), m2) → exec i s = .next (s.complete m2)) ∧
    (∀ g, m0.mem.markParts m0.cur.die ps = some g → isPlain d → d ≠ 0 → ∀ m2, writeG d v m0 = .ok ((), m2) →
      exec i s = .next (s.complete
        (m2.withCur (m2.cur.markG d g))))

/-- R158, R159: a weak store completes with the low bytes of gd at ga + SExt(imm11) × z, as one agent of the issuer's die; a
range or access fault is a precise report, a translation or permission fault is held for a later report point. R59, R160:
the scratchpad forms reach bytes o to o + z − 1 of the issuing member's own window, o the 64-bit sum; an offset outside the
window is a scratchpad range fault. -/
def Obligations.WeakStoresAndScratchpad : Prop :=
  (∀ (s : State) (gu : Guard) (d a : GF) (k : BitVec 11) (v x : Word) (m1 m2 : Mach) (i : Instr) (n : ℕ) (va : Word),
     s.Ready gu .a → readG d s.m = .ok (v, m1) → readG a m1 = .ok (x, m2) →
     (i, n) ∈ [(Instr.stb gu d a k, 1), (.sth gu d a k, 2), (.stw gu d a k, 4), (.std gu d a k, 8)] →
     va = ofI (x.toInt + k.toInt * n) →
     (∀ ps, m2.resolveCont va n .write = .ok ps → m2.cur.touchesBlock va.toNat n = false →
       exec i s = .next (s.complete (m2.withMem (m2.mem.writeParts m2.cur.die ps (leBytes n v.toNat) false)))) ∧
     (∀ t, m2.resolveCont va n .write = .fail t → t.cause ≠ 0x3001 → t.cause ≠ 0x3005 → m2.cur.imprecise = none →
       exec i s = .next (s.complete (m2.withCur (m2.cur.holdLate
         { trap := t, pc := m2.cur.pc, insn := m2.cur.insnNow, slot := 2, eng := false })))) ∧
     (∀ t, m2.resolveCont va n .write = .fail t → t.cause = 0x3001 ∨ t.cause = 0x3005 →
       exec i s = .next (s.takeTrap t (s.m.cur.slotNow .a) (toW (encode i))))) ∧
  (∀ (s : State) (gu : Guard) (d a : GF) (k : BitVec 11) (n : ℕ), s.Ready gu .a →
     (∀ x m1 o i, readG a s.m = .ok (x, m1) → o = (ofI (x.toInt + k.toInt * n)).toInt →
       (i, n) ∈ [(Instr.spldw gu d a k, 4), (.spldd gu d a k, 8)] →
       (0 ≤ o → o + n - 1 < m1.cur.winLimit → ∀ m0, m0 = m1.landOver o.toNat n →
         (m0.winMark m0.cur o.toNat n = none →
           ∀ m2, writeG d (toW (leNat (m0.winRead m0.cur o.toNat n))) m0 = .ok ((), m2) → exec i s = .next (s.complete m2)) ∧
         (∀ g, m0.winMark m0.cur o.toNat n = some g → isPlain d → d ≠ 0 →
           ∀ m2, writeG d (toW (leNat (m0.winRead m0.cur o.toNat n))) m0 = .ok ((), m2) →
             exec i s = .next (s.complete (m2.withCur (m2.cur.markG d g))))) ∧
       (¬(0 ≤ o ∧ o + n - 1 < m1.cur.winLimit) →
         exec i s = .next (s.takeTrap { cause := 0x2002, faddr := ofI o } (s.m.cur.slotNow .a) (toW (encode i))))) ∧
     (∀ v x m1 m2 o i, readG d s.m = .ok (v, m1) → readG a m1 = .ok (x, m2) → o = (ofI (x.toInt + k.toInt * n)).toInt →
       (i, n) ∈ [(Instr.spstw gu d a k, 4), (.spstd gu d a k, 8)] →
       (0 ≤ o → o + n - 1 < m2.cur.winLimit → m2.cur.resident = true → ∀ m0, m0 = m2.landOver o.toNat n →
         exec i s = .next (s.complete (m0.withMem
           (m0.mem.spadStore m0.cur.die (skey m0.cur.gcore (m0.cur.winBase + o.toNat)) (leBytes n v.toNat) false)))) ∧
       (¬(0 ≤ o ∧ o + n - 1 < m2.cur.winLimit) →
         exec i s = .next (s.takeTrap { cause := 0x2002, faddr := ofI o } (s.m.cur.slotNow .a) (toW (encode i))))))

/-- R91, R162: LDACQ reads the location at its home and its die takes over what it observes; STREL performs every earlier
access, gives the home the issuer's past, and writes the location there. R92, R164: a FENCE with a nonempty earlier set and
a nonempty later set performs the continuation's earlier accesses, and with earlier writes before later reads at a wide
scope every die applies what the issuer has made or seen; any other FENCE orders nothing; a reserved scope reports 0x1008. -/
def Obligations.AcquireReleaseFences : Prop :=
  (∀ (s : State) (gu : Guard) (d a b : GF) (e : Bool) (z : BitVec 2) (c : BitVec 3) (p : SigTarget) (n : ℕ),
     s.Ready gu .a → n = 2 ^ z.toNat →
     (∀ x m1 m2, readG a s.m = .ok (x, m1) → m1.strongReady c e n x .read p →
       m2 = (m1.placeLand p n).placePrep m1.cur.die p n false [] → m2.placeMark p n = none →
       ∀ m3, writeG d (toW (leNat (m2.placeRead p n))) (m2.placeAcquire m2.cur.die p n) = .ok ((), m3) →
         exec (.ldacq gu d a e z c) s = .next (s.complete m3)) ∧
     (∀ x y m1 m2 m3, readG a s.m = .ok (x, m1) → readG b m1 = .ok (y, m2) → c.toNat < 5 →
       strongCheck e n x m1 = .ok ((), m1) → strongPlace e n x .write m2 = .ok (p, m2) → m2.cur.imprecise = none →
       m2.cur.settled → m3 = m2.performed m2.cur.id →
       exec (.strel gu a b e z c) s = .next (s.complete
         ((m3.placePrep m3.cur.die p n (decide (3 ≤ c.toNat)) m3.cur.past).placeWrite m3.cur.die p (leBytes n y.toNat))))) ∧
  (∀ (s : State) (gu : Guard) (c : BitVec 3) (e : BitVec 4), s.Ready gu .a →
     (c.toNat < 5 → s.m.cur.imprecise = none →
       ((e.getLsbD 0 = true ∨ e.getLsbD 1 = true) → (e.getLsbD 2 = true ∨ e.getLsbD 3 = true) →
         (e.getLsbD 0 = true → s.m.cur.settled) → ∀ m1, m1 = s.m.performed s.m.cur.id →
         exec (.fence gu c e) s = .next (s.complete
           (if e.getLsbD 1 = true ∧ e.getLsbD 2 = true ∧ 3 ≤ c.toNat then m1.withMem (m1.mem.spread m1.cur.die) else m1))) ∧
       ((e.getLsbD 0 = false ∧ e.getLsbD 1 = false ∨ e.getLsbD 2 = false ∧ e.getLsbD 3 = false) →
         exec (.fence gu c e) s = .next (s.complete s.m))) ∧
     (5 ≤ c.toNat → exec (.fence gu c e) s = .next
       (s.takeTrap { cause := 0x1008 } (s.m.cur.slotNow .a) (toW (encode (.fence gu c e))))))

/-- R91, R163: an atomic performs every earlier access, then reads the old value at the home, writes the new one there and
answers the old one; AMOFADD adds its events to the A slot's flags. -/
def Obligations.Atomics : Prop :=
  ∀ (s : State) (gu : Guard) (d a b : GF) (e w : Bool) (c : BitVec 3) (p : SigTarget) (n : ℕ) (x y z : Word)
    (m1 m2 m3 m4 m5 : Mach) (old : ℕ) (i : Instr) (op : StrongOp) (uns : Bool),
    s.Ready gu .a → c.toNat < 5 → n = (if w then 8 else 4) →
    (if op = .cas then readG d s.m = .ok (z, m1) else m1 = s.m) → readG a m1 = .ok (x, m2) →
    strongCheck e n x m2 = .ok ((), m2) → readG b m2 = .ok (y, m3) → strongPlace e n x .write m3 = .ok (p, m3) →
    m3.cur.imprecise = none → m3.cur.settled → m4 = m3.performed m3.cur.id →
    m5 = m4.placePrep m4.cur.die p n (decide (3 ≤ c.toNat)) m4.cur.past → m5.placeMark p n = none → old = leNat (m5.placeRead p n) →
    (i, op, uns) ∈ [(Instr.amoadd gu d a b e w c, .add, false), (.amoand gu d a b e w c, .and, false),
      (.amoor gu d a b e w c, .or, false), (.amoxor gu d a b e w c, .xor, false),
      (.amomin gu d a b e uns w c, .min, uns), (.amomax gu d a b e uns w c, .max, uns),
      (.amoswp gu d a b e w c, .swp, false), (.amocas gu d a b e w c, .cas, false),
      (.amofadd gu d a b e w c, .fadd, false)] → old < 2 ^ (8 * n) →
    ∀ m6 m7, m6 = (match amoSpec n uns old (y.toNat % 2 ^ (8 * n)) (z.toNat % 2 ^ (8 * n)) op with
      | some v => m5.placeWrite m5.cur.die p (leBytes n v)
      | none => m5) →
      writeG d (toW old) (m6.placeAcquire m6.cur.die p n) = .ok ((), m7) →
      exec i s = .next (s.complete (m7.withCur (m7.cur.setFlags 2 (if op = .fadd then
        (amoNew .fadd n false old y.toNat 0).2 else 0) false m7.cur.pc)))

/-- R68, R165, R166: LDBLK declares a block that is not yet filled; a live id is a load-block fault; BLKWB writes a filled
block's dirty bytes back and cleans it, BLKREL frees it too, and either does nothing where the id is not live; an unfilled
block makes them wait. -/
def Obligations.LoadBlocks : Prop :=
  ∀ (s : State) (gu : Guard) (d a b : GF) (k : BitVec 3), s.Ready gu .a →
    (∀ v x y m1 m2 m3 off len, readG d s.m = .ok (v, m1) → readG a m1 = .ok (x, m2) → readG b m2 = .ok (y, m3) →
      off = y.toNat % 2 ^ 23 → len = 64 * (y.toNat / 2 ^ 32 % 2 ^ 6 + 1) →
      x.toNat % 64 = 0 → off % 8 = 0 → canonical x = true → canonical (x + toW (len - 1)) = true →
      off + 8 ≤ m3.cur.winLimit → y.toNat / 2 ^ 23 % 2 ^ 9 = 0 → y.toNat / 2 ^ 38 = 0 →
      (vget m3.cur.blocks k.toNat none = none → ∀ ps, m3.resolveCont x len .read = .ok ps →
        exec (.ldblk gu d a b k) s = .next (s.complete (m3.withCur (m3.cur.setBlock k.toNat
          (some { va := x, pas := linesOf ps, data := List.replicate len 0, dirty := List.replicate len false
                  poison := List.replicate (len / 64) false, filled := false
                  cword := skey m3.cur.gcore (m3.cur.winBase + off), cval := v }))))) ∧
      (∀ o, vget m3.cur.blocks k.toNat none = some o → exec (.ldblk gu d a b k) s = .next
        (s.takeTrap { cause := 0x200C, faddr := x } (s.m.cur.slotNow .a) (toW (encode (.ldblk gu d a b k)))))) ∧
    (vget s.m.cur.blocks k.toNat none = none →
      exec (.blkwb gu k) s = .next (s.complete s.m) ∧ exec (.blkrel gu k) s = .next (s.complete s.m)) ∧
    (∀ o, vget s.m.cur.blocks k.toNat none = some o →
      (o.filled = true → exec (.blkwb gu k) s = .next (s.complete (s.m.releaseBlock s.m.cur.id k.toNat false)) ∧
        exec (.blkrel gu k) s = .next (s.complete (s.m.releaseBlock s.m.cur.id k.toNat true))) ∧
      (o.filled = false → exec (.blkwb gu k) s = .next s.stallBundle ∧ exec (.blkrel gu k) s = .next s.stallBundle))

/-- R71, R73, R167, R168: XLT and XLTP give tx(N) and gd the word of a heap-window address at once (size 3, wr 1) and leave a
page's word pending; a failure is reported with tx(N) invalid; LEASEQ answers from the task's leases. -/
def Obligations.TranslationAndLeases : Prop :=
  ∀ (s : State) (gu : Guard) (d a : GF) (l : BitVec 3) (w : Bool) (n : BitVec 2) (x : Word) (m1 m2 : Mach) (t : Task),
    s.Ready gu .a → readG a s.m = .ok (x, m1) → m2 = m1.withCur (m1.cur.dropTx n.toNat) →
    m2.task? m2.cur.task = some t → (∀ q, (vget m1.cur.tx n.toNat {}).pend = some q → q.again = true) →
    (canonical x = true → ∀ pa wr, m2.xlateTask m2.cur.die t x (if w then .write else .read) = .ok pa wr 3 →
      exec (.xlt gu a l w n) s = .next (s.complete (m2.withCur (m2.cur.setTx n.toNat
        { word := toW (2 ^ 63 + 2 ^ 62 + 3 * 2 ^ 60 + pa), va := x, wantWrite := w }))) ∧
      ∀ m3, m1.cur.awaits d = false → writeG d (toW (2 ^ 63 + 2 ^ 62 + 3 * 2 ^ 60 + pa)) (m2.withCur (m2.cur.setTx n.toNat
          { word := toW (2 ^ 63 + 2 ^ 62 + 3 * 2 ^ 60 + pa), va := x, wantWrite := w })) = .ok ((), m3) →
        exec (.xltp gu d a l w n) s = .next (s.complete m3)) ∧
    (canonical x = true → ∀ pa wr sz, sz ≠ 3 → m2.xlateTask m2.cur.die t x (if w then .write else .read) = .ok pa wr sz →
      ∀ q : TxPend, q = { pa := pa, size := sz, wr := wr, rd := m2.mayRead m2.cur.die t x, dest := none, pc := m1.cur.pc
                          insn := m1.cur.insnNow } →
      exec (.xlt gu a l w n) s = .next (s.complete (m2.withCur (m2.cur.setTx n.toNat
        { va := x, wantWrite := w, pend := some q }))) ∧
      (m1.cur.awaits d = false → exec (.xltp gu d a l w n) s = .next (s.complete (m2.withCur (m2.cur.setTx n.toNat
        { va := x, wantWrite := w, pend := some { q with dest := some d } }))))) ∧
    (canonical x = true → m2.xlateTask m2.cur.die t x (if w then .write else .read) = .wait →
      ∀ q : TxPend, q = { pa := 0, size := 0, wr := false, redo := true, dest := none, pc := m1.cur.pc, insn := m1.cur.insnNow } →
      exec (.xlt gu a l w n) s = .next (s.complete (m2.withCur (m2.cur.setTx n.toNat
        { va := x, wantWrite := w, pend := some q }))) ∧
      (m1.cur.awaits d = false → exec (.xltp gu d a l w n) s = .next (s.complete (m2.withCur (m2.cur.setTx n.toNat
        { va := x, wantWrite := w, pend := some { q with dest := some d } }))))) ∧
    (canonical x = true → ∀ f i, m2.xlateTask m2.cur.die t x (if w then .write else .read) = .fail f i →
      exec (.xlt gu a l w n) s = .next (s.takeTxTrap { cause := f, faddr := x, info := toW i, walk := f == 0x3006 } n.toNat
        (s.m.cur.slotNow .a) (toW (encode (.xlt gu a l w n))))) ∧
    (canonical x = false → exec (.xlt gu a l w n) s = .next
      (s.takeTxTrap { cause := 0x3001, faddr := x } n.toNat (s.m.cur.slotNow .a) (toW (encode (.xlt gu a l w n))))) ∧
    (∀ u, m1.task? m1.cur.task = some u →
      (∀ r m3, u.leased = true → canonical x = true →
        u.fp.find? (fun r => decide (r.base.toNat ≤ x.toNat ∧ x.toNat < r.base.toNat + r.len)) = some r →
        writeG d (toW (2 ^ 63 + (if r.wr then 2 ^ 62 else 0) + (if r.ren then 2 ^ 61 else 0) +
          (r.base.toNat + r.len - x.toNat) % 2 ^ 56)) m1 = .ok ((), m3) →
        exec (.leaseq gu d a) s = .next (s.complete m3)) ∧
      (∀ m3, (u.leased = false ∨ canonical x = false ∨ ∀ r ∈ u.fp, ¬(r.base.toNat ≤ x.toNat ∧ x.toNat < r.base.toNat + r.len)) →
        writeG d 0 m1 = .ok ((), m3) → exec (.leaseq gu d a) s = .next (s.complete m3)))

/-- R169, R170, R174: SBIND binds the 64-byte record at ga + SExt(imm11) × 64 of the window where it keeps the rules, else
reports 0x2003 and leaves the stream; SUNBIND unbinds; AGSET and AGADV move an address generator as R77 and R174 give it, or
report the failure and leave it. R62, R63, R171, R202: QINIT writes a checked view, QADV moves a tail or a head within the
ring's occupancy, QSTAT reads a view; an advance past the ring reports 0x2008, past its contents 0x2007; without the matrix
claim all report 0x1006. R172, R173: on a queue that is not full WENQ copies the payload to entry tail mod capacity, then
adds one to tail as a release, and answers the old tail; on a full queue it writes nothing and answers all ones; a bad
descriptor reports 0x2003. -/
def Obligations.StreamsGeneratorsRings : Prop :=
  (∀ (s : State) (gu : Guard) (a : GF) (n : BitVec 3) (k : BitVec 11), s.Ready gu .a →
     (∀ x m0 m1 o rec, readG a s.m = .ok (x, m0) → o = ofI (x.toInt + k.toInt * 64) → m1 = m0.landOver o.toNat 64 →
       rec = m1.winRead m1.cur o.toNat 64 → o.toNat % 64 = 0 → 0 ≤ o.toInt → o.toInt + 64 ≤ m0.cur.winLimit →
       (streamOk rec = true → m1.winMark m1.cur o.toNat 64 = none →
         exec (.sbind gu n a k) s = .next (s.complete
           (m1.withCur (m1.cur.setStream n.toNat (some (StreamRec.ofBytes rec)))))) ∧
       (streamOk rec = false → exec (.sbind gu n a k) s = .next
         (s.takeTrap { cause := 0x2003 } (s.m.cur.slotNow .a) (toW (encode (.sbind gu n a k)))))) ∧
     exec (.sunbind gu n) s = .next (s.complete
       (s.m.withCur (s.m.cur.setStream n.toNat none))) ∧
     (∀ x m1, readG a s.m = .ok (x, m1) → m1.slotHeld m1.cur.die (bits x.toNat 39 32) = false →
       (∀ g, m1.bindAg m1.cur.die x = .ok g → exec (.agset gu n a) s = .next (s.complete
         (m1.withCur (m1.cur.setAg n.toNat g)))) ∧
       (∀ t, m1.bindAg m1.cur.die x = .error t → exec (.agset gu n a) s = .next
         (s.takeTrap t (s.m.cur.slotNow .a) (toW (encode (.agset gu n a)))))) ∧
     (∀ x m1, readG a s.m = .ok (x, m1) → m1.slotHeld m1.cur.die (bits (vget m1.cur.ag n.toNat {}).w1.toNat 39 32) = false →
       (∀ g, m1.advanceAg m1.cur.die (vget m1.cur.ag n.toNat {}) (sext 32 x.toNat + k.toInt) = .ok g →
         exec (.agadv gu n a k) s = .next (s.complete (m1.withCur (m1.cur.setAg n.toNat g)))) ∧
       (∀ t, m1.advanceAg m1.cur.die (vget m1.cur.ag n.toNat {}) (sext 32 x.toNat + k.toInt) = .error t →
         exec (.agadv gu n a k) s = .next (s.takeTrap t (s.m.cur.slotNow .a) (toW (encode (.agadv gu n a k))))))) ∧
  (∀ (s : State) (gu : Guard) (a b d : GF) (q : BitVec 4) (n : BitVec 8) (h r : Bool), s.Ready gu .a →
     (s.m.cur.claim = true →
       (∀ x y m1 m2 (v : BitVec 128), readG a s.m = .ok (x, m1) → readG b m1 = .ok (y, m2) → v = BitVec.ofNat 128 (x.toNat + 2 ^ 64 * y.toNat) →
         (v.getLsbD 51 = true → ringOk m2.cur v = true) →
         (∀ k ∈ m2.cur.mx.array ++ m2.cur.mx.tq1, q.toNat ∉ k.reads) →
         (∀ j ∈ m2.jobs, j.cont = m2.cur.id → j.st = .landed ∨ Card.radv j.card = false ∨ Card.ringq j.card ≠ q.toNat) →
         exec (.qinit gu q a b) s = .next (s.complete
           (m2.withCur (m2.cur.setRing q.toNat (ringWritten v) (BitVec.ofNat 8 (ringHead v)))))) ∧
       (∀ v m1, v = vget s.m.cur.mx.rings q.toNat 0 →
         writeG d (if h then v.extractLsb' 64 64 else v.extractLsb' 0 64) s.m = .ok ((), m1) →
         exec (.qstat gu d q h) s = .next (s.complete m1)) ∧
       (∀ v m1 c1, v = vget s.m.cur.mx.rings q.toNat 0 → m1 = s.m.performed s.m.cur.id → c1 = m1.cur →
         (n.toNat ≤ ringOcc v → exec (.qadv gu q 0 false true n) s = .next (s.complete (m1.withCur (c1.setRing q.toNat
           (ringPop v n.toNat) (consumeAfter v (vget c1.mx.cpos q.toNat 0) n.toNat))))) ∧
         (ringOcc v < n.toNat → exec (.qadv gu q 0 false true n) s = .next
           (s.takeTrap { cause := 0x2007 } (s.m.cur.slotNow .a) (toW (encode (.qadv gu q 0 false true n))))) ∧
         (ringOcc v + n.toNat ≤ ringCount v → exec (.qadv gu q 0 false false n) s = .next (s.complete
           (m1.withCur (c1.setRing q.toNat (ringPush v n.toNat) (vget c1.mx.cpos q.toNat 0))))) ∧
         (ringCount v < ringOcc v + n.toNat → exec (.qadv gu q 0 false false n) s = .next
           (s.takeTrap { cause := 0x2008 } (s.m.cur.slotNow .a) (toW (encode (.qadv gu q 0 false false n)))))) ∧
       (∀ x m1 v m2 m3, readG a s.m = .ok (x, m1) → v = vget m1.cur.mx.rings q.toNat 0 →
         ringOcc v + n.toNat ≤ ringCount v → m2 = m1.performed m1.cur.id →
         putRowCounts v (x.setWidth 8) n.toNat (ringTail v) m2 = .ok ((), m3) →
         exec (.qadv gu q a true false n) s = .next (s.complete
           (m3.withCur (m3.cur.setRing q.toNat (ringPush v n.toNat) (vget m3.cur.mx.cpos q.toNat 0)))))) ∧
     (s.m.cur.claim = false → ∀ i ∈ [Instr.qinit gu q a b, .qstat gu d q h, .qadv gu q a r h n],
       exec i s = .next (s.takeTrap { cause := 0x1006 } (s.m.cur.slotNow .a) (toW (encode i)))) ∧
     (∀ v : BitVec 128, ringOcc v = (v.toNat / 2 ^ 43 % 2 ^ 8 + 256 - v.toNat / 2 ^ 35 % 2 ^ 8) % 256 ∧
       ringHead (ringPop v n.toNat) = (ringHead v + n.toNat) % 256 ∧ ringTail (ringPush v n.toNat) = (ringTail v + n.toNat) % 256 ∧
       (∀ k < 128, (ringWritten v).getLsbD k = (v.getLsbD k && decide (k < 52 ∨ (64 ≤ k ∧ k < 87)))) ∧
       (n.toNat ≤ ringOcc v → ringOcc (ringPop v n.toNat) = ringOcc v - n.toNat))) ∧
  (∀ (s : State) (gu : Guard) (d a b : GF) (c : BitVec 3) (x y : Word) (m1 m2 m3 m4 : Mach) (p : SigTarget)
     (desc : List Byte) (size cap t hd : ℕ), s.Ready gu .a → c.toNat < 5 → readG a s.m = .ok (x, m1) →
     x.toNat % 64 = 0 → readG b m1 = .ok (y, m2) → y.toNat % 64 = 0 → canonical x = true → y.toNat < 2 ^ 23 →
     y.toNat + 64 ≤ m2.cur.winLimit →
     m2.cur.touchesBlock x.toNat 64 = false → strongPlace false 64 x .read m2 = .ok (p, m2) → m2.cur.imprecise = none →
     m2.cur.settled → m3 = m2.performed m2.cur.id → m4 = m3.placePrep m3.cur.die p 64 true m3.cur.past → m4.placeMark p 64 = none →
     desc = m4.placeRead p 64 → size = leAt desc 8 4 →
     (m4.cur.winLimit < y.toNat + size → exec (.wenq gu d a b c) s = .next
       (s.takeTrap { cause := 0x2002, faddr := y } (s.m.cur.slotNow .a) (toW (encode (.wenq gu d a b c))))) ∧
     (y.toNat + size ≤ m4.cur.winLimit → wqOk desc = false → exec (.wenq gu d a b c) s = .next
       (s.takeTrap { cause := 0x2003 } (s.m.cur.slotNow .a) (toW (encode (.wenq gu d a b c))))) ∧
     (wqOk desc = true → cap = leAt desc 12 4 → t = leAt desc 16 8 → hd = leAt desc 24 8 →
       y.toNat + size ≤ m4.cur.winLimit → ∀ tail, strongPlace false 8 (x + 16) .write m4 = .ok (tail, m4) →
       ((cap : ℤ) ≤ ((toW t).toNat : ℤ) - hd → ∀ m5, writeG d (BitVec.allOnes 64) (m4.placeAcquire m4.cur.die p 64) = .ok ((), m5) →
         exec (.wenq gu d a b c) s = .next (s.complete m5)) ∧
       (((toW t).toNat : ℤ) - hd < cap → ∀ ps m5 m6,
         m4.resolveCont (toW (leAt desc 0 8) + toW ((toW t).toNat % cap * size)) size .write = .ok ps →
         m4.winMark m4.cur y.toNat size = none →
         m5 = m4.withMem (m4.mem.writeParts m4.cur.die ps (m4.winRead m4.cur y.toNat size) false) →
         m6 = (m5.placePrep m5.cur.die tail 8 true m5.cur.past).placeWrite m5.cur.die tail (leBytes 8 ((toW t).toNat + 1)) →
         ∀ m7, writeG d (toW t) (m6.placeAcquire m6.cur.die p 64) = .ok ((), m7) →
           exec (.wenq gu d a b c) s = .next (s.complete m7))))

/-! ### The V slot -/

/-- R181: VSETL sets VL, from a register no higher than 65,535; VMOV copies patterns of vd's size, VFILL repeats the low bytes
of gb. R178, R181, R200: a vector command takes VL as it stood before its group, and with VL = 0 it reads and writes
nothing. R178, R358: the checks of an element-wise command, in order: format class 0x1007, range 0x2002, limits and
alignment 0x2003, overlap 0x2005; the command writes nothing. -/
def Obligations.VectorLengthMoveFill : Prop :=
  (∀ (s : State) (gu : Guard) (a b : GF) (l : Bool),
     (∀ k, s.Ready gu .v → exec (.vsetlImm gu k) s = .next (s.complete (s.m.withCur (s.m.cur.setVl k)))) ∧
     (∀ x m1, s.Ready gu .v → readG a s.m = .ok (x, m1) → exec (.vsetlReg gu a) s = .next (s.complete
       (m1.withCur (m1.cur.setVl (BitVec.ofNat 16 (if x.toNat < 65535 then x.toNat else 65535)))))) ∧
     (∀ (c : Cont) (k : BitVec 16), (c.setVl k).vl = k ∧ (c.setVl k).vlNow = c.vlNow ∧
       { c.setVl k with vl := c.vl, groupVl := c.groupVl, vlGroup := c.vlGroup } = c) ∧
     (∀ c : Cont, c.vlGroup ≠ c.groupNow → c.vlNow = c.vl) ∧
     (∀ n v g xs ys zs mk dk m, s.vElements gu l a b
         (fun v => { ok := vectorFmt v.vd, za := elemBytes v.vd, zd := elemBytes v.vd }) n v g xs ys zs mk dk m →
       exec (.vmov gu a b l) s = .next (s.complete
         (m.issueRegion (vReg g.d (elemBytes v.vd) n) (byElement dk n xs ys zs fun _ x _ _ => { pat := x, ev := 0 }) mk 0))) ∧
     (∀ n v x y m1 m2 m3 d, s.Ready gu .v → n = s.m.cur.vlNow.toNat → n ≠ 0 → v = vFmt s.m.fmtNow →
       vectorFmt v.vd = true → readG a s.m = .ok (x, m1) → readG b m1 = .ok (y, m2) →
       d = vReg (x.toNat % 2 ^ 32) (elemBytes v.vd) n → x.toNat / 2 ^ 32 = 0 → d.inside m2.cur = true →
       d.off % d.z = 0 → (d.stride ≠ 0 ∨ n = 1) → m3 = m2.flushOver { srcs := [], dsts := [d] } →
       exec (.vfill gu a b) s = .next (s.complete (m3.issueV
         (m3.regionWrites d (List.replicate n (y.toNat % 2 ^ (8 * elemBytes v.vd))) false) 0)))) ∧
  (∀ (s : State) (gu : Guard) (a b : GF) (l x : Bool) (cc : BitVec 3) (i : Instr), i ∈ vlCommand gu a b l x cc →
     s.Ready gu .v → s.m.cur.claim = true → s.m.cur.vlNow = 0 → exec i s = .next (s.complete s.m)) ∧
  (∀ (s : State) (gu : Guard) (a b : GF) (n : ℕ) (v : VFmt) (g : VArg) (m : Mach) (p : VPlan) (i : Instr),
     i ∈ [Instr.vadd gu a b false, .vsub gu a b false, .vmul gu a b false, .vmin gu a b false, .vmax gu a b false] →
     s.vRuns gu false a b n v g m → p = (arithForm true false false v).plan false g n →
     (¬(vectorFmt v.va = true ∧ vectorFmt v.vd = true) → exec i s = .next
       (s.takeTrap { cause := 0x1007 } (s.m.cur.slotNow .v) (toW (encode i)))) ∧
     (vectorFmt v.va = true → vectorFmt v.vd = true →
       (∀ r ∈ p.dsts ++ p.srcs, r.inside m.cur = true) →
       (p.bad = true ∨ (∃ r ∈ p.dsts ++ p.srcs, r.off % r.z ≠ 0) → exec i s = .next
         (s.takeTrap { cause := 0x2003 } (s.m.cur.slotNow .v) (toW (encode i)))) ∧
       (p.bad = false → (∀ r ∈ p.dsts ++ p.srcs, r.off % r.z = 0) → p.clash = true → exec i s = .next
         (s.takeTrap { cause := 0x2005 } (s.m.cur.slotNow .v) (toW (encode i))))) ∧
     (vectorFmt v.va = true → vectorFmt v.vd = true → (∃ r ∈ p.dsts ++ p.srcs, r.inside m.cur = false) →
       ∃ fa, exec i s = .next (s.takeTrap { cause := 0x2002, faddr := fa } (s.m.cur.slotNow .v) (toW (encode i)))))

/-- R107, R177, R182: each arithmetic command gives, element by element, the exact result rounded once to vd; minimum and
maximum follow R107; absolute value and negation touch the sign bit alone where va = vd is floating. -/
def Obligations.VectorArithmetic : Prop :=
  ∀ (s : State) (gu : Guard) (a b : GF) (l : Bool) (n : ℕ) (v : VFmt) (g : VArg) (xs ys zs : List ℕ) (mk : Bool) (dk : Option ℕ) (m : Mach),
    (∀ i f, (i, f) ∈
      [(Instr.vadd gu a b l, fun d x y (_ : ℕ) => v.near d ((readNum v.va x).add (readNum v.va y)) (sigEv [(v.va, x), (v.va, y)])),
       (.vsub gu a b l, fun d x y _ => v.near d ((readNum v.va x).add (readNum v.va y).negate) (sigEv [(v.va, x), (v.va, y)])),
       (.vmul gu a b l, fun d x y _ => v.near d ((readNum v.va x).mul (readNum v.va y)) (sigEv [(v.va, x), (v.va, y)])),
       (.vmin gu a b l, fun _ x y _ => if isInt v.va then
          { pat := (roundTo v.vd false ((readNum v.va x).pick false (readNum v.va y))).pat, ev := 0 }
          else v.exact ((readNum v.va x).pick false (readNum v.va y), 0) (sigEv [(v.va, x), (v.va, y)])),
       (.vmax gu a b l, fun _ x y _ => if isInt v.va then
          { pat := (roundTo v.vd false ((readNum v.va x).pick true (readNum v.va y))).pat, ev := 0 }
          else v.exact ((readNum v.va x).pick true (readNum v.va y), 0) (sigEv [(v.va, x), (v.va, y)]))] →
      s.vElements gu l a b (arithForm true false false) n v g xs ys zs mk dk m →
      exec i s = .next (s.complete (m.issueRegion (vReg g.d (elemBytes v.vd) n) (byElement dk n xs ys zs f) mk 0))) ∧
    (s.vElements gu l a b (arithForm true true false) n v g xs ys zs mk dk m →
      exec (.vfma gu a b l) s = .next (s.complete (m.issueRegion (vReg g.d (elemBytes v.vd) n) (byElement dk n xs ys zs
        fun d x y c => v.near d (Machine.Num.fma (readNum v.va x) (readNum v.va y) (readNum v.va c))
          (sigEv [(v.va, x), (v.va, y), (v.va, c)])) mk 0))) ∧
    (s.vElements gu l a b (arithForm true false true) n v g xs ys zs mk dk m →
      exec (.vfmas gu a b l) s = .next (s.complete (m.issueRegion (vReg g.d (elemBytes v.vd) n) (byElement dk n xs ys zs
        fun d x y c => v.near d (Machine.Num.fma (readNum v.va x) (readNum v.va y) (readNum (if isFloat v.va then 0 else 6) c))
          (sigEv [(v.va, x), (v.va, y), (if isFloat v.va then 0 else 6, c)])) mk 0))) ∧
    (∀ i f, (i, f) ∈
      [(Instr.vadds gu a b l, fun d x (_ : ℕ) c => v.near d
          ((readNum v.va x).add (readNum (if isFloat v.va then 0 else 6) c)) (sigEv [(v.va, x), (if isFloat v.va then 0 else 6, c)])),
       (.vmuls gu a b l, fun d x _ c => v.near d
          ((readNum v.va x).mul (readNum (if isFloat v.va then 0 else 6) c)) (sigEv [(v.va, x), (if isFloat v.va then 0 else 6, c)]))] →
      s.vElements gu l a b (arithForm false false true) n v g xs ys zs mk dk m →
      exec i s = .next (s.complete (m.issueRegion (vReg g.d (elemBytes v.vd) n) (byElement dk n xs ys zs f) mk 0))) ∧
    (∀ i neg, (i, neg) ∈ [(Instr.vabs gu a l, false), (.vneg gu a l, true)] →
      s.vElements gu l a 0 (arithForm false false false) n v g xs ys zs mk dk m →
      (v.va = v.vd → isFloat v.va = true → ∀ top, top = 8 * elemBytes v.va - 1 →
        exec i s = .next (s.complete (m.issueRegion (vReg g.d (elemBytes v.vd) n) (byElement dk n xs ys zs fun _ x _ _ =>
          { pat := x % 2 ^ top + (if neg = true ∧ x / 2 ^ top % 2 = 0 then 2 ^ top else 0), ev := 0 }) mk 0))) ∧
      (v.va ≠ v.vd ∨ isFloat v.va = false →
        exec i s = .next (s.complete (m.issueRegion (vReg g.d (elemBytes v.vd) n) (byElement dk n xs ys zs fun _ x _ _ => v.exact
          (if (neg = true ∨ (readNum v.va x).neg? = true) ∧ ¬(isInt v.va = true ∧ (readNum v.va x).isZero = true)
            then (readNum v.va x).negate else readNum v.va x, 0) (sigEv [(v.va, x)])) mk 0))))

/-- R120, R183, R184: a function command gives, element by element, a value of vd within its bound (Config.funcValue, log entry
10), with the events of R118; VCVT rounds each element once. In Dusk mode the value stays in the function's range and its exact
values stand (R183). -/
def Obligations.VectorFunctionsConversion : Prop :=
  ∀ (s : State) (gu : Guard) (a : GF) (l : Bool) (n : ℕ) (v : VFmt) (g : VArg) (xs ys zs : List ℕ) (mk : Bool) (dk : Option ℕ) (m : Mach),
    (∀ i op, (i, op) ∈ [(Instr.vrcp gu a l, FuncOp.rcp), (.vrsqrt gu a l, .rsqrt)] →
      s.vElements gu l a 0 (fun v => { ok := isFloat v.va && isFloat v.vd, za := elemBytes v.va, zd := elemBytes v.vd })
        n v g xs ys zs mk dk m →
      exec i s = .next (s.complete (m.issueRegion (vReg g.d (elemBytes v.vd) n) (byElement dk n xs ys zs fun d x _ _ =>
        { pat := (op.loosen d v.vd 4 (readNum v.va x) (op.apply v.vd (readNum v.va x))).pat
          ev := (op.loosen d v.vd 4 (readNum v.va x) (op.apply v.vd (readNum v.va x))).ev ||| sigEv [(v.va, x)] }) mk 0))) ∧
    (∀ i op, (i, op) ∈ [(Instr.vexp gu a l, FuncOp.exp), (.vlog gu a l, .log), (.vsin gu a l, .sin), (.vcos gu a l, .cos),
        (.vtanh gu a l, .tanh), (.vsig gu a l, .sig), (.vsilu gu a l, .silu), (.vgelu gu a l, .gelu)] →
      s.vElements gu l a 0 (fun v => { ok := floatNot64 v.va && floatNot64 v.vd, za := elemBytes v.va, zd := elemBytes v.vd })
        n v g xs ys zs mk dk m → m.expHeld m.cur = false →
      exec i s = .next (s.complete (m.issueRegion (vReg g.d (elemBytes v.vd) n) (byElement dk n xs ys zs fun d x _ _ =>
        { pat := (op.loosen d v.vd 8 (readNum v.va x) (op.apply v.vd (readNum v.va x))).pat
          ev := (op.loosen d v.vd 8 (readNum v.va x) (op.apply v.vd (readNum v.va x))).ev ||| sigEv [(v.va, x)] }) mk 0))) ∧
    (s.vElements gu l a 0 (arithForm false false false) n v g xs ys zs mk dk m →
      exec (.vcvt gu a l) s = .next (s.complete (m.issueRegion (vReg g.d (elemBytes v.vd) n) (byElement dk n xs ys zs fun _ x _ _ =>
        v.exact (readNum v.va x, 0) (sigEv [(v.va, x)])) mk 0)))

/-- R186, R191: VCMP gives one byte an element by its condition, VSEL chooses, and the integer and bitwise commands work on
patterns modulo their width with no flags. -/
def Obligations.VectorCompareSelectInteger : Prop :=
  ∀ (s : State) (gu : Guard) (a b : GF) (sc ar : Bool) (cc : BitVec 3) (n : ℕ) (v : VFmt) (g : VArg) (xs ys zs : List ℕ)
    (mk : Bool) (dk : Option ℕ) (m : Mach),
    (s.vElements gu false a b (fun v => { ok := vectorFmt v.va, za := elemBytes v.va
                                          zb := if sc then 0 else elemBytes v.va, zd := 1, scalar := sc }) n v g xs ys zs mk dk m →
      ∀ code, code = (if sc = true then (if isFloat v.va then 0 else 6) else v.va) →
      exec (.vcmp gu a b sc cc) s = .next (s.complete (m.issueRegion (vReg g.d 1 n) (byElement dk n xs ys zs fun _ x y c =>
        { pat := if cmpHolds cc (readNum v.va x) (readNum code (if sc then c else y)) then 1 else 0
          ev := sigEv [(v.va, x), (code, if sc then c else y)] }) mk 0))) ∧
    (s.vElements gu false a b (fun v => { ok := vectorFmt v.va && vectorFmt v.vd, za := elemBytes v.va, zb := elemBytes v.va
                                          zc := 1, zd := elemBytes v.vd }) n v g xs ys zs mk dk m →
      exec (.vsel gu a b) s = .next (s.complete (m.issueRegion (vReg g.d (elemBytes v.vd) n) (byElement dk n xs ys zs fun _ x y c =>
        if v.va = v.vd then { pat := if c = 0 then y else x, ev := 0 }
        else v.exact (readNum v.va (if c = 0 then y else x), 0) (sigEv [(v.va, if c = 0 then y else x)])) mk 0))) ∧
    (s.vElements gu false a b (fun _ => { za := 4, zb := if sc then 0 else 4, zd := 4, scalar := sc }) n v g xs ys zs mk dk m →
      exec (.viadd gu a b sc) s = .next (s.complete (m.issueRegion (vReg g.d 4 n) (byElement dk n xs ys zs fun _ x y c =>
        { pat := (x + if sc then c else y) % 2 ^ 32, ev := 0 }) mk 0))) ∧
    (∀ w i f, w = 8 * elemBytes v.vd → (i, f) ∈
      [(Instr.vand gu a b sc, fun x y => x &&& y % 2 ^ w), (.vor gu a b sc, fun x y => x ||| y % 2 ^ w),
       (.vxor gu a b sc, fun x y => x ^^^ y % 2 ^ w),
       (.vshl gu a b sc, fun x y => x * 2 ^ (y % 64) % 2 ^ w),
       (.vshr gu a b ar sc, fun x y => if ar = true ∧ 2 ^ (w - 1) ≤ x then
          2 ^ w - 1 - (2 ^ w - 1 - x) / 2 ^ (y % 64) else x / 2 ^ (y % 64))] →
      (∀ x ∈ xs, x < 2 ^ w) →
      s.vElements gu false a b (fun v => { ok := vectorFmt v.vd, za := elemBytes v.vd
                                           zb := if sc then 0 else elemBytes v.vd, zd := elemBytes v.vd, scalar := sc })
        n v g xs ys zs mk dk m →
      exec i s = .next (s.complete (m.issueRegion (vReg g.d (elemBytes v.vd) n) (byElement dk n xs ys zs fun _ x y c =>
        { pat := f x (if sc then c else y), ev := 0 }) mk 0)))

/-- R106, R185: VQNT gives each block of 32 or 16 elements one scale byte, by the block's largest magnitude, and rounds the
scaled elements; VDQ multiplies by the scale; with bs = 2 C is the one FP32 scale of all. -/
def Obligations.BlockQuantisation : Prop :=
  ∀ (s : State) (gu : Guard) (a b : GF) (l : Bool) (n : ℕ) (v : VFmt) (g : VArg) (m1 m : Mach) (xs : List ℕ) (mk : Bool)
    (k : ℕ) (d : VReg), d = vReg g.d (elemBytes v.vd) n → k = (if v.bs = 0 then 32 else 16) →
    (s.vChecked gu l a b n v g (quantPlan l true v g n) m1 → isFloat v.va = true → quantFmt v.vd = true → v.bs < 3 →
      m1.takesA l g.a (elemBytes v.va) n xs mk m →
      (v.bs = 2 → exec (.vqnt gu a b l) s = .next (s.complete (m.issueRegion d (xs.map fun x =>
        { pat := (roundTo v.vd false ((readNum v.va x).div (readNum 0 g.c)).1 ((readNum v.va x).div (readNum 0 g.c)).2.1).pat
          ev := (roundTo v.vd false ((readNum v.va x).div (readNum 0 g.c)).1 ((readNum v.va x).div (readNum 0 g.c)).2.1).ev |||
            ((readNum v.va x).div (readNum 0 g.c)).2.2 ||| sigEv [(v.va, x)] |||
            (if readNum 0 g.c = .nan then evInvalid else 0) }) mk 0))) ∧
      (v.bs ≠ 2 → ∀ bl, bl = (chunks k (n / k) xs).map (quantBlock v.va v.vd) →
        exec (.vqnt gu a b l) s = .next (s.complete (m.issueV
          (m.regionWrites d ((bl.map Prod.snd).flatten.map Rounded.pat) mk ++
            m.regionWrites (vReg g.b 1 (n / k)) (bl.map Prod.fst) mk)
          ((bl.map Prod.snd).flatten.foldl (fun e r => e ||| r.ev) 0))))) ∧
    (s.vChecked gu false a b n v g (quantPlan false false v g n) m → quantFmt v.va = true → isFloat v.vd = true → v.bs < 3 →
      xs = m.region (vReg g.a (elemBytes v.va) n) →
      mk = (quantPlan false false v g n).srcs.any m.regionMarked →
      (v.bs = 2 → exec (.vdq gu a b) s = .next (s.complete (m.issueRegion d (xs.map fun x => v.exact
        ((readNum v.va x).mul (readNum 0 g.c)) (if readNum 0 g.c = .nan then evInvalid else 0)) mk 0))) ∧
      (v.bs ≠ 2 → exec (.vdq gu a b) s = .next (s.complete (m.issueRegion d (xs.zipIdx.map fun x => v.exact
        (if (m.region (vReg g.b 1 (n / k))).getD (x.2 / k) 0 = 255 then (.nan, evInvalid)
         else (readNum v.va x.1).mul (.fin false 1 (((m.region (vReg g.b 1 (n / k))).getD (x.2 / k) 0 : ℤ) - 127))) 0) mk 0)))) ∧
    (∀ va vd ys e, (∀ y ∈ ys, ∃ sg mm ee, readNum va y = .fin sg mm ee) → (∃ y ∈ ys, (readNum va y).isZero = false) →
      e = ((quantBlock va vd ys).1 : ℤ) - 127 → -127 < e → e < 127 →
      (∃ y ∈ ys, ∃ sg mm ee, readNum va y = .fin sg mm ee ∧ mm ≠ 0 ∧ e = ee + mm.log2 - quantTop vd) ∧
      ∀ y ∈ ys, ∀ sg mm ee, readNum va y = .fin sg mm ee → mm ≠ 0 → ee + mm.log2 - quantTop vd ≤ e)

/-- R116, R187, R188: the reductions use the tree of R116 in the widened format, or exact integer sums, and round to vd; VSCAN
gives the running sums. -/
def Obligations.VectorReductionsScan : Prop :=
  ∀ (s : State) (gu : Guard) (a b : GF) (n : ℕ) (v : VFmt) (g : VArg) (m : Mach) (xs ys : List ℕ) (p : VPlan) (mk : Bool),
    xs = m.region (vReg g.a (elemBytes v.va) n) → ys = m.region (vReg g.b (elemBytes v.va) n) →
    mk = p.srcs.any m.regionMarked → vectorFmt v.va = true →
    (s.vChecked gu false a 0 n v g p m →
      p = { srcs := [vReg g.a (elemBytes v.va) n], dsts := [vReg g.d 4 1], bad := g.b ≠ 0 || g.c ≠ 0 } →
      exec (.vargmax gu a) s = .next (s.complete ((m.drawn v.dusk).issueRegion (vReg g.d 4 1)
        [{ pat := argMax (xs.map (readNum v.va)), ev := sigAll v.va xs }] mk 0))) ∧
    (s.vChecked gu false a 0 n v g p m → vectorFmt v.vd = true →
      p = { srcs := [vReg g.a (elemBytes v.va) n], dsts := [vReg g.d (elemBytes v.vd) 1], bad := g.b ≠ 0 || g.c ≠ 0 } →
      exec (.vrmax gu a) s = .next (s.complete ((m.drawn v.dusk).issueRegion (vReg g.d (elemBytes v.vd) 1)
        [v.exact (maxOf (xs.map (readNum v.va)), 0) (sigAll v.va xs)] mk 0)) ∧
      (isInt v.va = true → exec (.vrsum gu a) s = .next (s.complete ((m.drawn v.dusk).issueRegion (vReg g.d (elemBytes v.vd) 1)
        [roundTo v.vd false (exactSum (xs.map (readNum v.va)))] mk 0))) ∧
      (isInt v.va = false → ∀ t, t = treeSum (wideCode v.va) (m.draw v.dusk 32) (xs.map (widen v.va)) →
        exec (.vrsum gu a) s = .next (s.complete ((m.drawn v.dusk).issueRegion (vReg g.d (elemBytes v.vd) 1)
          [v.exact (readNum (wideCode v.va) t.pat, t.ev) (sigAll v.va xs)] mk 0)))) ∧
    (s.vChecked gu false a b n v g p m → vectorFmt v.vd = true →
      p = { srcs := [vReg g.a (elemBytes v.va) n, vReg g.b (elemBytes v.va) n], dsts := [vReg g.d (elemBytes v.vd) 1], bad := g.c ≠ 0 } →
      (isInt v.va = true → exec (.vdot gu a b) s = .next (s.complete ((m.drawn v.dusk).issueRegion (vReg g.d (elemBytes v.vd) 1)
        [roundTo v.vd false (exactSum ((xs.zip ys).map fun q => ((readNum v.va q.1).mul (readNum v.va q.2)).1))] mk 0))) ∧
      (isInt v.va = false → ∀ ls t, ls = (xs.zip ys).map (fun q => ({
            pat := (roundTo (wideCode v.va) false ((readNum v.va q.1).mul (readNum v.va q.2)).1).pat
            ev := (roundTo (wideCode v.va) false ((readNum v.va q.1).mul (readNum v.va q.2)).1).ev |||
              ((readNum v.va q.1).mul (readNum v.va q.2)).2 } : Rounded)) →
          t = treeSum (wideCode v.va) (m.draw v.dusk 32) (ls.map Rounded.pat) →
          exec (.vdot gu a b) s = .next (s.complete ((m.drawn v.dusk).issueRegion (vReg g.d (elemBytes v.vd) 1)
            [{ pat := (roundTo v.vd false (readNum (wideCode v.va) t.pat)).pat
               ev := ls.foldl (fun e x => e ||| x.ev) ((roundTo v.vd false (readNum (wideCode v.va) t.pat)).ev ||| t.ev |||
                 sigAll v.va xs ||| sigAll v.va ys) }] mk 0)))) ∧
    (s.vChecked gu false a 0 n v g p m → vectorFmt v.vd = true → p = (arithForm false false false v).plan false g n →
      (isInt v.va = true → exec (.vscan gu a) s = .next (s.complete ((m.drawn v.dusk).issueRegion (vReg g.d (elemBytes v.vd) n)
        ((List.range n).map fun i => roundTo v.vd false (exactSum ((xs.take (i + 1)).map (readNum v.va)))) mk (sigAll v.va xs)))) ∧
      (isInt v.va = false → exec (.vscan gu a) s = .next (s.complete ((m.drawn v.dusk).issueRegion (vReg g.d (elemBytes v.vd) n)
        (scanGo v.va v.vd (m.draw v.dusk 32) 0 0 xs) mk (sigAll v.va xs)))))

/-- R189, R190: VPERM and VGATH move elements by index, an index at or past the table's length reporting 0x2006; VSCADD adds to
each destination the merged sum of its sources. -/
def Obligations.VectorPermuteGatherScatter : Prop :=
  ∀ (s : State) (gu : Guard) (a b : GF) (n : ℕ) (v : VFmt) (g : VArg) (m0 : Mach) (z : ℕ) (d : VReg),
    s.vRuns gu false a b n v g m0 → z = elemBytes v.vd → d = vReg g.d z n →
    (vectorFmt v.vd = true → ∀ len idx (p : VPlan) m, len = g.c % 2 ^ 16 → m = m0.flushOver p → idx = m.region (vReg g.b 2 n) →
      p = { srcs := [vReg g.a z len, vReg g.b 2 n], dsts := [d]
            bad := decide (bits g.c 31 16 ≠ 0) || (d.stride == 0 && decide (1 < n)) } → p.passes m0.cur →
      ((∀ i ∈ idx, i < len) → exec (.vperm gu a b) s = .next (s.complete (m.issueV
        (m.regionWrites d (idx.map fun i => (m.region (vReg g.a z len)).getD i 0) (p.srcs.any m.regionMarked)) 0))) ∧
      (∀ k, k < n → len ≤ idx.getD k 0 → (∀ j < k, idx.getD j 0 < len) → exec (.vperm gu a b) s = .next
        (s.takeTrap { cause := 0x2006, info := toW k } (s.m.cur.slotNow .v) (toW (encode (.vperm gu a b)))))) ∧
    (vectorFmt v.vd = true → ∀ idx src (p : VPlan) m1 m, m1 = m0.flushOver { srcs := [vReg g.b 4 n], dsts := [] } →
      idx = m1.region (vReg g.b 4 n) →
      src = { vReg g.a z (idx.foldl max 0 + 1) with stride := 1 } → (vReg g.a z 1).stride = 1 → g.c = 0 →
      p = { srcs := [src, vReg g.b 4 n], dsts := [d], bad := d.stride == 0 && decide (1 < n) } → p.passes m0.cur →
      m = m1.flushOver p →
      exec (.vgath gu a b) s = .next (s.complete (m.issueV
        (m.regionWrites d (idx.map fun i => leNat (m.winRead m.cur (src.pos i).toNat z))
          (m.regionMarked (vReg g.b 4 n) || idx.any fun i => (m.winMark m.cur (src.pos i).toNat z).isSome)) 0))) ∧
    ((isFloat v.va = true ∧ isFloat v.vd = true) ∨ (isInt v.va = true ∧ isInt v.vd = true) → g.c = 0 →
      ∀ idx xs src base (p : VPlan) m1 m, m1 = m0.flushOver { srcs := [vReg g.b 4 n], dsts := [] } →
      idx = m1.region (vReg g.b 4 n) → src = vReg g.a (elemBytes v.va) n → xs = m.region src →
      base = { vReg g.d z (idx.foldl max 0 + 1) with stride := 1 } →
      p = { srcs := [src, vReg g.b 4 n], dsts := [base], strict := true } → p.passes m0.cur → m = m1.flushOver p →
      ∃ ws e, exec (.vscadd gu a b) s = .next (s.complete (m.issueV ws e)) ∧ ws.length = idx.eraseDups.length ∧
        ∀ (k j : ℕ), idx.eraseDups[k]? = some j → ∀ old mine, old = leNat (m.winRead m.cur (base.pos j).toNat z) →
          mine = (idx.zip xs).filterMap (fun q => if q.1 = j then some q.2 else none) →
          ∃ mk, ws[k]? = some (SpadWrite.mk (skey m.cur.gcore (m.cur.winBase + (base.pos j).toNat))
            (leBytes z (if isInt v.va then (roundTo v.vd false (exactSum (readNum v.vd old :: mine.map (readNum v.va)))).pat
              else (roundTo v.vd false ((readNum v.vd old).add (readNum (wideCode v.va) (mergeSum v.va mine).pat)).1).pat)) mk))

/-- R192 to R195: VSMAX gives the exponentials of the scores against the running maximum and updates the record, VRMSN
normalises, VROPE rotates pairs, VMASKW keeps the elements of a range and fills the others. -/
def Obligations.VectorSoftmaxNormRotateMask : Prop :=
  ∀ (s : State) (gu : Guard) (a b : GF) (n : ℕ) (v : VFmt) (g : VArg) (m : Mach) (src d : VReg) (xs : List ℕ) (p : VPlan),
    s.vChecked gu false a b n v g p m → src = vReg g.a (elemBytes v.va) n → d = vReg g.d (elemBytes v.vd) n →
    xs = m.region src → vectorFmt v.vd = true →
    (floatNot64 v.va = true → m.expHeld m.cur = false →
      ∀ m0 l0 sm, p = { srcs := [src, vReg g.b 16 1], dsts := [d], bad := d.stride == 0 && decide (1 < n) } →
        (vReg g.b 16 1).stride = 0 → g.c = 0 → (vReg g.b 16 1).meets src = false →
        (vReg g.b 16 1).meets d = false →
        m0 = leAt (m.winRead m.cur (vReg g.b 16 1).off 16) 0 4 → l0 = leAt (m.winRead m.cur (vReg g.b 16 1).off 16) 4 4 →
        sm = softmaxStep (m.draw v.dusk 32) m0 l0 (xs.map (readNum v.va)) →
        ∃ e, exec (.vsmax gu a b) s = .next (s.complete ((m.drawn v.dusk).issueV
          (m.regionWrites d (sm.p.map fun x => (roundTo v.vd false (readNum 0 x)).pat) (m.regionMarked src || m.regionMarked (vReg g.b 16 1)) ++
            m.regionWrites (vReg g.b 16 1) [sm.m + sm.l * 2 ^ 32 + sm.c * 2 ^ 64] (m.regionMarked src || m.regionMarked (vReg g.b 16 1))) e))) ∧
    (floatNot64 v.va = true → p = VForm.plan { arithForm true false true v with scalar := true } false g n →
      exec (.vrmsn gu a b) s = .next (s.complete ((m.drawn v.dusk).issueRegion d
        (rmsNorm v.va v.vd (m.draw v.dusk 32) xs (m.region (vReg g.b (elemBytes v.va) n)) g.c) (p.srcs.any m.regionMarked) 0))) ∧
    (floatNot64 v.va = true → m.expHeld m.cur = false → ∀ half, n % 2 = 0 → g.c < 2 ^ 24 →
      p = { srcs := [src, vReg g.b 4 (n / 2)], dsts := [d], bad := d.stride == 0 && decide (1 < n) } →
      exec (.vrope gu a b half) s = .next (s.complete ((m.drawn v.dusk).issueRegion d
        (ropeAll v.va v.vd (m.draw v.dusk 32) half xs (m.region (vReg g.b 4 (n / 2))) g.c) (p.srcs.any m.regionMarked) 0))) ∧
    (vectorFmt v.va = true → ∀ z out, z = true ∨ (v.vd ≠ 3 ∧ isFloat v.vd = true) →
      p = (arithForm false false false v).plan false { g with b := 0 } n →
      exec (.vmaskw gu a b z out) s = .next (s.complete (m.issueRegion d
        (xs.zipIdx.map fun x => if decide (g.b % 2 ^ 16 ≤ x.2 ∧ x.2 ≤ g.b / 2 ^ 16 % 2 ^ 16) ≠ out
          then v.exact (readNum v.va x.1, 0) (sigEv [(v.va, x.1)])
          else { pat := if z then 0 else (((floatFmt v.vd).map fun f => f.infinity true).getD 0), ev := 0 })
        (p.srcs.any m.regionMarked) 0)))

/-- R46, R196 to R199: TCWUPD updates each token control word by the rule of R46 at once, TCWCNT counts them, VFENCE waits for
nothing of its own and lands earlier commands, VBSY counts the commands in flight. -/
def Obligations.TokenWordsOrderingStatus : Prop :=
  ∀ (s : State) (gu : Guard) (a b : GF) (n : ℕ) (v : VFmt) (g : VArg) (m : Mach),
    (∀ d src entry conf (p : VPlan), s.vChecked gu false a b n v g p m → d = vReg g.d 8 n → src = vReg g.a 4 n →
      entry = { vReg g.b 16 1 with off := (vReg g.b 16 1).off + 16 * (g.c % 2 ^ 8) } → n ≤ 64 → d.stride = 1 →
      (vReg g.b 16 1).stride = 0 → (vReg g.b 16 1).off % 64 = 0 → g.c < 2 ^ 9 →
      p = { srcs := [src, entry], dsts := [d] } → m.regionMarked d = false → conf = m.region src →
      ∃ e m2, exec (.tcwupd gu a b) s = .next (s.complete m2) ∧
        m2 = (m.issueV (m.regionWrites d (((m.region d).zip conf).map fun t => tcwStep t.1 (g.c % 2 ^ 8) (g.c.testBit 8)
          (readNum 0 t.2) (m.winRead m.cur entry.off 16)) (m.regionMarked src || m.regionMarked entry)) e).flushV m.cur.id) ∧
    (∀ ts (p : VPlan) (c : ℕ → ℕ), s.vChecked gu false a 0 n v g p m → p = { srcs := [vReg g.a 8 n], dsts := [vReg g.d 8 1] } →
      n ≤ 64 → m.regionMarked (vReg g.a 8 n) = false → ts = m.region (vReg g.a 8 n) →
      c = (fun act => (ts.filter fun t => t.testBit 14 && t % 4 == act).length) →
      exec (.tcwcnt gu a) s = .next (s.complete (m.issueV (m.regionWrites (vReg g.d 8 1)
        [c 0 + c 1 * 2 ^ 8 + c 3 * 2 ^ 16 + (ts.filter fun t => !t.testBit 14).length * 2 ^ 24 +
          (ts.filter fun t => t.testBit 15).length * 2 ^ 32 + c 2 * 2 ^ 40] false) 0))) ∧
    (∀ k, s.Ready gu .v → exec (.vfence gu k) s = .next (s.complete (s.m.flushV s.m.cur.id))) ∧
    (∀ x m1 m2 d, s.Ready gu .v → readG a s.m = .ok (x, m1) → d = vReg (x.toNat % 2 ^ 32) 8 1 → x.toNat / 2 ^ 32 = 0 →
      d.inside m1.cur = true → d.off % 8 = 0 → m2 = m1.flushOver { srcs := [], dsts := [d] } →
      exec (.vbsy gu a) s = .next (s.complete (m2.issueV
        (m2.regionWrites d [m2.cur.vpend.length + if m2.expHeld m2.cur then 2 ^ 16 else 0] false) 0)))

/-! ### The M and D slots -/

/-- R108, R109, R203, R204, R206: the K positions of a step by format pair, the bytes of a tile, and where an element of A or of
B, its metadata, its scale and its codebook index stand; a step's sum of finite products is exact. -/
def Obligations.MatrixOperands : Prop :=
  ∀ (t : List Byte) (mx : Matrix) (ma mb bs n step i p j : ℕ), i < 64 → j < 64 →
    (∀ k, k = Mul.plain ∨ k = .transposed → stepOf k ma mb =
      if (ma = 1 ∨ ma = 2) ∧ (mb = 1 ∨ mb = 2) then some (false, 2)
      else if (ma = 3 ∨ ma = 4) ∧ (mb = 3 ∨ mb = 4) then some (false, 4)
      else if (ma = 5 ∨ ma = 10) ∧ (mb = 5 ∨ mb = 10) then some (true, 4) else none) ∧
    stepOf .sparse ma mb = (if (ma = 3 ∨ ma = 4) ∧ (mb = 3 ∨ mb = 4) then some (false, 8) else none) ∧
    stepOf .codebook ma mb = (if (ma = 3 ∨ ma = 4) ∧ mb = 8 then some (false, 4) else none) ∧
    ((scaled ma bs = false → aVal .plain t ma bs n i p = ((readNum ma (leAt t (i * (64 * ((n + 15) / 16)) + p * elemBytes ma)
        (elemBytes ma))).mul (.fin false 1 0)).1) ∧
      (scaled mb bs = false → bVal .plain t mx mb bs n step p j =
        ((readNum mb (leAt t ((64 * p + j) * elemBytes mb) (elemBytes mb))).mul (.fin false 1 0)).1) ∧
      (scaled mb bs = false → bVal .transposed t mx mb bs n step p j =
        ((readNum mb (leAt t (j * (64 * ((n + 15) / 16)) + p * elemBytes mb) (elemBytes mb))).mul (.fin false 1 0)).1)) ∧
    (scaled ma bs = true → ∀ x, x = (t.getD (64 * (64 * ((n + 15) / 16)) + 64 * i + p / (if bs = 0 then 32 else 16)) 0).toNat →
      aVal .plain t ma bs n i p = ((readNum ma (leAt t (i * (64 * ((n + 15) / 16)) + p) 1)).mul
        (if x = 255 then .nan else .fin false 1 ((x : ℤ) - 127))).1) ∧
    (∀ md s q, md = (t.getD (64 * (64 * ((n + 15) / 16)) + i * (64 * ((n + 63) / 64)) + s) 0).toNat → q < 8 → scaled ma bs = false →
      aVal .sparse t ma bs n i (8 * s + q) =
        ((if q < 4 ∧ md % 4 = q then readNum ma (leAt t (i * (64 * ((n + 15) / 16)) + 4 * s) 1)
          else if q < 4 ∧ md / 4 % 4 = q then readNum ma (leAt t (i * (64 * ((n + 15) / 16)) + 4 * s + 1) 1)
          else if 4 ≤ q ∧ 4 + md / 16 % 4 = q then readNum ma (leAt t (i * (64 * ((n + 15) / 16)) + 4 * s + 2) 1)
          else if 4 ≤ q ∧ 4 + md / 64 % 4 = q then readNum ma (leAt t (i * (64 * ((n + 15) / 16)) + 4 * s + 3) 1)
          else .fin false 0 0).mul (.fin false 1 0)).1) ∧
    (∀ (a b : ℕ → Sys2Proof.Machine.Num), (∀ k, ∃ sg m e, a k = .fin sg m e) → (∀ k, ∃ sg m e, b k = .fin sg m e) →
      (stepSum a b n p).rat = ((List.range n).map fun k => (a (p + k)).rat * (b (p + k)).rat).sum)

/-- R205 to R208, R211: a multiply adds, over its K-steps, the products of its operand tiles to each element of the rows the
ring's row count names, sets kind and mark, and consumes the tiles it does not keep; nothing else of the accumulators
changes, no ring's head moves before the command retires, and a format pair outside its table reports 0x1007. -/
def Obligations.MatrixMultiply : Prop :=
  ∀ (s : State) (gu : Guard) (qa qb : Q) (acc : Acc) (z ka kb : Bool) (ks : BitVec 7) (i : Instr) (k : Mul) (f : W32) (m : Mach)
    (oa ob ra rb : ℕ),
    (i, k) ∈ [(Instr.mma gu qa qb acc z ks ka kb, Mul.plain), (.mmabt gu qa qb acc z ks ka kb, .transposed),
      (.mmasp gu qa qb acc z ks ka kb, .sparse), (.mmacb gu qa qb acc z ks ka kb, .codebook)] →
    s.mRuns gu f m → m.cur.noDrain acc.toNat → m.cur.tileAt qa.toNat = .ok (oa, ra) → m.cur.tileAt qb.toNat = .ok (ob, rb) →
    (stepOf k (f.toNat % 16) (f.toNat / 16 % 16) = none →
      exec i s = .next (s.takeTrap { cause := 0x1007 } (s.m.cur.slotNow .m) (toW (encode i)))) ∧
    (∀ int step ma mb bs old needA needB rows start, stepOf k ma mb = some (int, step) →
      ma = f.toNat % 16 → mb = f.toNat / 16 % 16 → bs = f.toNat / 2 ^ 20 % 4 → old = vget m.cur.mx.acc acc.toNat {} →
      (k = .sparse → f.toNat / 2 ^ 22 % 4 = 0) → (isFp8 ma = true ∨ isFp8 mb = true ∨ mb = 8 → bs ≠ 3) →
      (z = false → old.int = int) →
      needA = tileBytes k true ks.toNat step 0 + (if scaled ma bs then 4096 else 0) →
      needB = tileBytes k false ks.toNat step (elemBytes mb) + (if scaled mb bs then 4096 else 0) →
      m.cur.inWindow oa needA = true → m.cur.inWindow ob needB = true → m.cur.inWindow ra 1 = true →
      needA ≤ ringSize (vget m.cur.mx.rings qa.toNat 0) → needB ≤ ringSize (vget m.cur.mx.rings qb.toNat 0) →
      m.winMark m.cur ra 1 = none → rows = leNat (m.winRead m.cur ra 1) → rows ≤ 64 →
      start = (fun r j => if z then 0 else (old.at r j).toNat) →
      ∃ m', exec i s = .next (s.complete m') ∧
        (vget m'.cur.mx.acc acc.toNat {}).int = int ∧
        (vget m'.cur.mx.acc acc.toNat {}).mark.toNat = (if z then rows else max old.mark.toNat rows) ∧
        (f.getLsbD 25 = false → ∀ r j, r < rows → j < 64 → ((vget m'.cur.mx.acc acc.toNat {}).at r j).toNat =
          (mulSteps int step ks.toNat (aVal k (m.winRead m.cur oa needA) ma bs ks.toNat r)
            (fun p => bVal k (m.winRead m.cur ob needB) m.cur.mx mb bs ks.toNat step p j) (start r j)).pat) ∧
        (∀ r j, rows ≤ r → r < 64 → j < 64 → ((vget m'.cur.mx.acc acc.toNat {}).at r j).toNat = start r j) ∧
        (∀ b, b < 4 → b ≠ acc.toNat → vget m'.cur.mx.acc b {} = vget m.cur.mx.acc b {}) ∧
        (∀ q, q < 16 → vget m'.cur.mx.cpos q 0 = vget m.cur.mx.cpos q 0 + (if ka = false ∧ q = qa.toNat then 1 else 0) +
          (if kb = false ∧ q = qb.toNat then 1 else 0)) ∧
        m'.cur.mx.rings = m.cur.mx.rings ∧ m'.mem = m.mem ∧ m'.cur.g = m.cur.g ∧ m'.cur.p = m.cur.p ∧
        (∃ e : MCmd, m'.cur.mx.array = m.cur.mx.array ++ [e] ∧ e.drain = false ∧ e.writes = [] ∧
          e.pops = (if ka then [] else [qa.toNat]) ++ (if kb then [] else [qb.toNat])))

/-- R25, R213, R215: MZERO clears an accumulator and sets its kind; MLDACC loads 4,096 patterns and sets mark to 64; MPOP
consumes tiles; MCBLD loads the codebook, MSCL the tensor scale; a misaligned offset reports 0x2001. MFENCE makes later
commands of the slots it names wait for the commands before it. Without the claim every M-slot instruction reports 0x1006.
R113, R214: MDRAIN takes the accumulator's rows converted by RoundZ or Sat, one command whose writes go to each member its
mask names and which waits for each port its mask names; MDRAINA adds the window's elements first; the accumulator stands. -/
def Obligations.MatrixAccumulatorsAndDrains : Prop :=
  (∀ (s : State) (gu : Guard) (acc : Acc) (off : Off) (kind : Bool) (k : BitVec 6) (qa qb : Q) (pa pb : Bool) (ks : BitVec 7),
     (∀ f m, s.mRuns gu f m →
       (m.cur.noDrain acc.toNat → ∃ m', exec (.mzero gu acc kind) s = .next (s.complete m') ∧
         vget m'.cur.mx.acc acc.toNat {} = { int := kind } ∧
         (∀ b, b < 4 → b ≠ acc.toNat → vget m'.cur.mx.acc b {} = vget m.cur.mx.acc b {}) ∧
         m'.cur.mx.rings = m.cur.mx.rings ∧ m'.mem = m.mem) ∧
       (m.cur.noDrain acc.toNat → off.toNat % 64 = 0 → m.cur.inWindow off.toNat 16384 = true →
         ∃ m', exec (.mldacc gu acc off kind) s = .next (s.complete m') ∧
           (∀ r j, r < 64 → j < 64 → ((vget m'.cur.mx.acc acc.toNat {}).at r j).toNat =
             leAt (m.winRead m.cur off.toNat 16384) (4 * (64 * r + j)) 4) ∧
           (vget m'.cur.mx.acc acc.toNat {}).int = kind ∧ (vget m'.cur.mx.acc acc.toNat {}).mark = 64 ∧
           (∀ b, b < 4 → b ≠ acc.toNat → vget m'.cur.mx.acc b {} = vget m.cur.mx.acc b {}) ∧ m'.mem = m.mem) ∧
       ((pa = true → m.cur.hasTile qa.toNat) → (pb = true → m.cur.hasTile qb.toNat) →
         ∃ m', exec (.mpop gu qa qb pa pb) s = .next (s.complete m') ∧ m'.cur.mx.acc = m.cur.mx.acc ∧ m'.cur.mx.rings = m.cur.mx.rings ∧
           (∀ q, q < 16 → vget m'.cur.mx.cpos q 0 = vget m.cur.mx.cpos q 0 + (if pa = true ∧ q = qa.toNat then 1 else 0) +
             (if pb = true ∧ q = qb.toNat then 1 else 0)) ∧ m'.mem = m.mem) ∧
       (off.toNat % 64 = 0 → m.cur.inWindow off.toNat 1024 = true →
         ∃ m', exec (.mcbld gu off) s = .next (s.complete m') ∧ m'.cur.mx.acc = m.cur.mx.acc ∧ m'.mem = m.mem ∧
           ∀ v, v < 256 → (SMap.get 0 m'.cur.mx.codebook v).toNat = leAt (m.winRead m.cur off.toNat 1024) (4 * v) 4) ∧
       (off.toNat % 4 = 0 → m.cur.inWindow off.toNat 4 = true →
         ∃ m', exec (.mscl gu off) s = .next (s.complete m') ∧ m'.cur.mx.acc = m.cur.mx.acc ∧ m'.mem = m.mem ∧
           m'.cur.mx.tscale.toNat = leNat (m.winRead m.cur off.toNat 4)) ∧
       (off.toNat % 64 ≠ 0 → exec (.mcbld gu off) s = .next (s.takeTrap { cause := 0x2001, faddr := toW off.toNat }
         (s.m.cur.slotNow .m) (toW (encode (.mcbld gu off)))))) ∧
     (s.Ready gu .m → s.m.cur.claim = true → ∀ h : Hold,
       h = { kind := .commands, slots := fenceSlots k [0, 1, 2, 3, 5, 6] 16, before := s.m.nextCmd, bundle := s.m.cur.bundleNow } →
       exec (.mfence gu k) s = .next (s.complete (s.m.withCur { s.m.cur with holds := s.m.cur.holds ++ [h] })) ∧
       (∀ x, x < 7 → h.slots.getLsbD x = (decide (x = 4) || decide (k = 0) || k.getLsbD (if x < 4 then x else x - 1)))) ∧
     (s.Ready gu .m → s.m.cur.claim = false →
       ∀ i ∈ [Instr.mma gu qa qb acc kind ks pa pb, .mmabt gu qa qb acc kind ks pa pb, .mmasp gu qa qb acc kind ks pa pb,
         .mmacb gu qa qb acc kind ks pa pb, .mzero gu acc kind, .mldacc gu acc off kind, .mdrain gu acc k off, .mdraina gu acc off,
         .mpop gu qa qb pa pb, .mcbld gu off, .mscl gu off, .mfence gu k],
       exec i s = .next (s.takeTrap { cause := 0x1006 } (s.m.cur.slotNow .m) (toW (encode i))))) ∧
  (∀ (s : State) (gu : Guard) (acc : Acc) (off : Off) (f : W32) (m : Mach) (a : AccState) (mc z rows : ℕ), s.mRuns gu f m →
     a = vget m.cur.mx.acc acc.toNat {} → mc = f.toNat / 2 ^ 8 % 16 → z = elemBytes mc → rows = a.mark.toNat →
     (if a.int then mc = 5 ∨ mc = 6 ∨ mc = 9 ∨ mc = 10 else mc ≤ 4) →
     (∀ (k : BitVec 6) ts pats, m.drainTargets m.cur k.toNat = some ts →
       (rows ≠ 0 → ∀ t ∈ ts, t.inWindow off.toNat (64 * rows * z) = true) → off.toNat % z = 0 →
       pats = (List.range (64 * rows)).map (fun e => if a.int then (roundTo mc true (readNum 6 (SMap.get 0 a.elems e).toNat)).pat
         else if mc = 0 then (SMap.get 0 a.elems e).toNat else (roundTo mc true (readNum 0 (SMap.get 0 a.elems e).toNat)).pat) →
       ∃ m' e, exec (.mdrain gu acc k off) s = .next (s.complete m') ∧ m'.cur.mx.array = m.cur.mx.array ++ [e] ∧
         e.drain = true ∧ e.acc = acc.toNat ∧ e.elems = pats ∧ e.waits.toNat = k.toNat / 16 * 16 ∧
         e.writes = (ts.map fun t => rowWrites t off.toNat z a.poison pats rows).flatten ∧
         m'.cur.mx.acc = m.cur.mx.acc ∧ m'.mem = m.mem) ∧
     ((rows ≠ 0 → m.cur.inWindow off.toNat (64 * rows * z) = true) → off.toNat % z = 0 → ∀ pats,
       pats = (List.range (64 * rows)).map (fun e =>
         (roundTo mc true ((readNum mc (leAt (m.winRead m.cur off.toNat (64 * rows * z)) (e * z) z)).add
           (readNum (if a.int then 6 else 0) (SMap.get 0 a.elems e).toNat)).1).pat) →
       ∃ m' e marks, exec (.mdraina gu acc off) s = .next (s.complete m') ∧ m'.cur.mx.array = m.cur.mx.array ++ [e] ∧
         e.drain = true ∧ e.acc = acc.toNat ∧ e.writes = rowWrites m.cur off.toNat z marks pats rows ∧
         m'.cur.mx.acc = m.cur.mx.acc ∧ m'.mem = m.mem))

/-- R133, R137, R202, R211, R212, R216: the oldest command whose results are accepted retires: its drain writes are made, its
rings' heads move past its tiles, it leaves the array and fills the latch; tile queue 1's head enters as its slot's commands
do; a command that must wait stays. -/
def Obligations.ArrayEvents : Prop :=
  ∀ (s : State) (id : ℕ) (c : Cont), s.m.cont? id = some c →
    (∀ k, c.mx.array.find? (fun k => s.m.canRetire c k) = some k → (∀ n, k.src ≠ .seq n) →
      ∃ m', exec (.matrixCommandRetire id) s = .next (s.after m') ∧
        m'.mem = k.writes.foldl (fun x w => x.spadWrite w.key w.bytes w.poison) s.m.mem ∧
        ∀ c', m'.cont? id = some c' →
          c'.mx.array = c.mx.array.filter (fun x => x.id ≠ k.id) ∧ c'.mx.acc = c.mx.acc ∧
          (∀ q, q < 16 → k.pops.Nodup → vget c'.mx.rings q 0 = if q ∈ k.pops then ringPop (vget c.mx.rings q 0) 1 else vget c.mx.rings q 0) ∧
          (∀ q, q < 16 → k.pops.Nodup → vget c'.mx.cpos q 0 =
            if q ∈ k.pops then consumeAfter (vget c.mx.rings q 0) (vget c.mx.cpos q 0) 1 else vget c.mx.cpos q 0) ∧
          (k.waits.getLsbD 4 = false → c'.mx.latch = c.mx.latch) ∧
          (k.waits.getLsbD 4 = true → c'.mx.latch.map Prod.fst = (k.elems.map fun v => leBytes k.esize v).flatten)) ∧
    ((∀ k ∈ c.mx.array, k.waits.getLsbD 5 = true ∨ (k.waits.getLsbD 4 = true ∧ c.mx.latch ≠ []) ∨
        (k.waits.getLsbD 6 = true ∧ s.m.runAccepts k.src = false)) →
      exec (.matrixCommandRetire id) s = .next (s.after s.m)) ∧
    (∀ k, s.m.canRetire c k = true ↔ (k.waits.getLsbD 5 = false ∧ (k.waits.getLsbD 4 = true → c.mx.latch = []) ∧
      (k.waits.getLsbD 6 = true → s.m.runAccepts k.src = true))) ∧
    (c.mx.tq1 = [] → exec (.arrayEntry id) s = .next (s.after s.m)) ∧
    (∀ k rest i gu acc kind, c.mx.tq1 = k :: rest → decodeM k.mx.toNat = some i → i = .mzero gu acc kind → fmtDusk k.fmt = false →
      s.m.runHolds c = false → c.resident = true → c.noDrain acc.toNat → s.m.queue0First c = false →
      ∃ m', exec (.arrayEntry id) s = .next (s.after m') ∧ ∀ c', m'.cont? id = some c' →
        c'.mx.tq1 = rest ∧ vget c'.mx.acc acc.toNat {} = { int := kind } ∧ c'.mx.array.length = c.mx.array.length + 1)

/-- R218, R219, R240: a D instruction reads the card at bits 22:0 of its register and, where it passes every check, adds one job
that follows the continuation's earlier accesses; a card outside the window or misaligned reports 0x2002, a completion word
out of line 0x2001, a bad card 0x2004, and adds none. DFENCE makes later instructions wait for the jobs before it. -/
def Obligations.JobIssue : Prop :=
  ∀ (s : State) (gu : Guard) (card : GF) (mm : BitVec 4) (ac : BitVec 6) (i : Instr) (op : ℕ) (mk : BitVec 4) (x : Word) (m : Mach)
    (off : ℕ),
    (i, op, mk) ∈ cardInstrs gu card mm ac → s.Ready gu .d → (s.m.guestOf s.m.cur ≠ none ∨ s.m.sourcesHeld s.m.cur.ctx = false) →
    (op = 10 ∨ op = 11 → s.m.cur.claim = true) → readG card s.m = .ok (x, m) → off = x.toNat % 2 ^ 23 →
    (off % 128 ≠ 0 ∨ m.cur.inWindow off 128 = false → exec i s = .next
      (s.takeTrap { cause := 0x2002, faddr := toW off } (s.m.cur.slotNow .d) (toW (encode i)))) ∧
    (∀ k : Card, off % 128 = 0 → m.cur.inWindow off 128 = true → m.winMark m.cur off 128 = none →
      k = BitVec.ofNat 1024 (leNat (m.winRead m.cur off 128)) → (k.fol = true → m.cur.claim = true) →
      (∀ cw, m.cwordCause m.cur k = some cw → exec i s = .next
        (s.takeTrap { cause := cw, faddr := toW k.cword } (s.m.cur.slotNow .d) (toW (encode i)))) ∧
      (m.cwordCause m.cur k = none → k.good op = false → exec i s = .next
        (s.takeTrap { cause := 0x2004, faddr := toW off } (s.m.cur.slotNow .d) (toW (encode i)))) ∧
      (m.cwordCause m.cur k = none → k.good op = true →
        exec i s = .next (s.complete (m.addJob
          { id := 0, cont := m.cur.id, task := m.cur.task, die := m.cur.die, op := op, card := k, cardOff := off, mm := mk, ac := ac
            fmt := m.fmtNow, pc := m.cur.pc, insn := m.cur.insnNow, past := m.jobPast })))) ∧
    (∀ (j : Job) (n : Mach), (n.addJob j).jobs = n.jobs ++ [{ j with
        id := n.nextJob, st := (if j.op ≤ 11 then .queued else .started), follow := j.card.fol }] ∧
      (n.addJob j).nextJob = n.nextJob + 1 ∧ (n.addJob j).mem = n.mem) ∧
    (∀ (k : BitVec 6) (h : Hold),
      h = { kind := .jobs, slots := fenceSlots k [0, 1, 2, 3, 4, 6] 0, before := s.m.nextJob, bundle := s.m.cur.bundleNow } →
      exec (.dfence gu k) s = .next (s.complete (s.m.withCur { s.m.cur with holds := s.m.cur.holds ++ [h] })))

/-! ### The K slot -/

/-- R147, R148: PBR gives b(N) the bundle address plus 4 × SExt(imm16), PBRR the low 48 bits of ga; BR goes to b(T), BRL too
after the link has gone to g23 and b(L); a target off a multiple of 4, or whose bundle crosses a granule, reports 0x1004.
R149: LOOP counts lc(X) down and goes back while more than one pass is left; LOOPI and LOOPL set a count and, where it is
zero, go to b(T) at once; LOOPL's count is ceil(lrc / d) and needs the matrix claim. -/
def Obligations.BranchesAndLoops : Prop :=
  (∀ (s : State) (gu : Guard) (b l : BitVec 3) (t : BitVec 48), s.Ready gu .k → t = vget s.m.cur.b b.toNat 0 →
     (∀ k : BitVec 16, exec (.pbr gu b k) s = .next (s.complete (s.m.withCur
       (s.m.cur.setBranch b (BitVec.ofInt 48 ((s.m.cur.pc.toNat : ℤ) + 4 * k.toInt)))))) ∧
     (∀ a x m1, readG a s.m = .ok (x, m1) → exec (.pbrr gu b a) s = .next (s.complete (m1.withCur
       (m1.cur.setBranch b (BitVec.ofNat 48 x.toNat))))) ∧
     (s.m.landsAt t → exec (.br gu b) s = .next (s.complete (s.m.jumpTo t))) ∧
     (∀ ret m1 m2, ret = s.m.cur.nextPc → writeG 23 (ret.setWidth 64) s.m = .ok ((), m1) →
       m2 = m1.withCur (m1.cur.setBranch l ret) → m2.landsAt t → exec (.brl gu b l) s = .next (s.complete (m2.jumpTo t))) ∧
     (t.toNat % 4 ≠ 0 ∨ (∃ y, s.m.fetchBytes s.m.cur t.toNat 4 = .ok y ∧ inGranule t.toNat (leNat y) = false) →
       exec (.br gu b) s = .next (s.takeTrap { cause := 0x1004, faddr := t.setWidth 64 } (s.m.cur.slotNow .k) (toW (encode (.br gu b)))))) ∧
  (∀ (s : State) (gu : Guard) (b : BitVec 3) (x : BitVec 2) (t : BitVec 48), s.Ready gu .k → t = vget s.m.cur.b b.toNat 0 →
     (∀ n : ℕ, n = (vget s.m.cur.lc x.toNat 0).toNat →
       (1 < n → s.m.landsAt t →
         exec (.loop gu b x) s = .next (s.complete ((s.m.withCur (s.m.cur.setLoop x (BitVec.ofNat 32 (n - 1)))).jumpTo t))) ∧
       (n ≤ 1 → exec (.loop gu b x) s = .next (s.complete (s.m.withCur (s.m.cur.setLoop x 0))))) ∧
     (∀ i m1 (n : ℕ),
       ((∃ k : BitVec 15, i = .loopiImm gu b x k ∧ n = k.toNat ∧ m1 = s.m) ∨
         (∃ g v, i = .loopiReg gu b x g ∧ readG g s.m = .ok (v, m1) ∧ n = v.toNat % 2 ^ 32) ∨
         (∃ d : BitVec 7, i = .loopl gu b x d ∧ s.m.cur.claim = true ∧ m1 = s.m ∧ d ≠ 0 ∧
           (∀ j ∈ s.m.jobs, j.cont = s.m.cur.id → j.op = 10 → j.st = .landed) ∧
           n = (s.m.cur.mx.lrc.toNat + d.toNat - 1) / d.toNat ∧ n < 2 ^ 32)) →
       (n ≠ 0 → exec i s = .next (s.complete (m1.withCur (m1.cur.setLoop x (BitVec.ofNat 32 n))))) ∧
       (n = 0 → m1.landsAt (vget m1.cur.b b.toNat 0) →
         exec i s = .next (s.complete ((m1.withCur (m1.cur.setLoop x 0)).jumpTo (vget m1.cur.b b.toNat 0))))) ∧
     (∀ d, s.m.cur.claim = false → exec (.loopl gu b x d) s = .next
       (s.takeTrap { cause := 0x1006 } (s.m.cur.slotNow .k) (toW (encode (.loopl gu b x d))))))

/-- R124, R129, R150: FMTW writes one half of fmt, FMTWG the bits of a mask; bits 31:26 stay zero; an instruction takes the value
before the write for four cycles, and the new one from then on. R23, R29, R151 to R154: WAITA goes on where its condition holds and
else waits on its word; SUSP makes the continuation runnable and gives the core up, DONE ends it, BARR waits for the members
of its team that have not ended, SYNC makes later bundles wait for what its mask selects; HINT sets the remaining-time
estimate. -/
def Obligations.ContinuationControl : Prop :=
  (∀ (s : State) (gu : Guard), s.Ready gu .k → ∀ (put : Mach → W32 → Cont),
     put = (fun m v => { m.cur with
       fmt := v
       fmtOld := (m.cur.fmtOld.filter fun o => decide (m.cyc m.cur.die < o.till)) ++ [{ val := m.cur.fmt, till := m.cyc m.cur.die + 4 }]
       fmtUndo := if m.cur.queue = [] then m.cur.fmtUndo
         else m.cur.fmtUndo ++ [{ bundle := m.cur.bundleNow, fmt := m.cur.fmt, old := m.cur.fmtOld }]
       queue := m.cur.queue.map fun e => if e.slot = 3 ∨ e.slot = 4 then { e with checked := false } else e }) →
     (∀ (h : Bool) (k : BitVec 16), ∃ v : W32, exec (.fmtw gu h k) s = .next (s.complete (s.m.withCur (put s.m v))) ∧
       ∀ j, j < 32 → v.getLsbD j = (decide (j < 26) && (if (decide (16 ≤ j)) = h then k.getLsbD (j % 16) else s.m.cur.fmt.getLsbD j))) ∧
     (∀ a b x y m1 m2, readG a s.m = .ok (x, m1) → readG b m1 = .ok (y, m2) → ∃ v : W32,
       exec (.fmtwg gu a b) s = .next (s.complete (m2.withCur (put m2 v))) ∧
       ∀ j, j < 32 → v.getLsbD j = (decide (j < 26) && (if y.getLsbD j then x.getLsbD j else m2.cur.fmt.getLsbD j))) ∧
     (∀ m : Mach, takeFmt m = .ok (m.fmtNow, m) ∧
       (m.fmtNow = m.cur.fmt ∨ ∃ o ∈ m.cur.fmtOld, m.cyc m.cur.die < o.till ∧ m.fmtNow = o.val) ∧
       ((∀ o ∈ m.cur.fmtOld, o.till ≤ m.cyc m.cur.die) → m.fmtNow = m.cur.fmt)) ∧
     (∀ (m n : Mach) v, m.inShadow m.cur = false → n.cur = put m v →
       (n.cyc n.cur.die < m.cyc m.cur.die + 4 → n.fmtNow = m.cur.fmt) ∧
       (m.cyc m.cur.die + 4 ≤ n.cyc n.cur.die → n.fmtNow = v))) ∧
  (∀ (s : State) (gu : Guard), s.Ready gu .k →
     (∀ a b x y m0 m1 m2 (c : BitVec 3) (v : W32) (w : Word) (virt : Bool), readG a s.m = .ok (x, m0) → readG b m0 = .ok (y, m1) → x.toNat % 8 = 0 →
       (if virt then (∃ ps, m1.resolveCont x 8 .read = .ok ps ∧ v.toNat = leNat (m1.mem.readParts m1.cur.die ps) % 2 ^ 32) ∧ w = x ∧ m2 = m1
         else x.toNat < 2 ^ 23 ∧ m1.cur.inWindow x.toNat 8 = true ∧ m2 = m1.landOver x.toNat 8 ∧
           v.toNat = leNat (m2.winRead m2.cur x.toNat 8) % 2 ^ 32 ∧ w.toNat = x.toNat + 2 ^ 63) →
       m2.cur.imprecise = none → m2.guestOf m2.cur = none →
       (c ≠ 4 → waitHolds c v (y.setWidth 32) = true → exec (.waita gu a b virt c) s = .next (s.complete m2)) ∧
       (c ≠ 4 → waitHolds c v (y.setWidth 32) = false → ∀ m3, m3 = m2.performed m2.cur.id →
         exec (.waita gu a b virt c) s = .next (s.complete (m3.withCur { m3.cur with state := 3, waddr := w, wval := y.setWidth 32, wcond := c }))) ∧
       (c = 4 → ∀ m3, m3 = m2.performed m2.cur.id →
         exec (.waita gu a b virt c) s = .next (s.complete (m3.withCur { m3.cur with state := 3, waddr := w, wval := v, wcond := c })))) ∧
     (∀ v y : W32, (waitHolds 0 v y = true ↔ v = y) ∧ (waitHolds 1 v y = true ↔ v ≠ y) ∧ (waitHolds 2 v y = true ↔ y.toNat ≤ v.toNat) ∧
       (waitHolds 3 v y = true ↔ v.toNat < y.toNat)) ∧
     (∀ m1, m1 = s.m.performed s.m.cur.id →
       exec (.susp gu) s = .next (s.complete (m1.withCur { m1.cur with state := 1 })) ∧
       (s.m.cur.imprecise = none → ∀ m2, m2 = ((m1.withCur { m1.cur with state := 6 }).clearRx fun r =>
           bit r.word.toNat 63 && r.task == m1.cur.task && r.team == m1.cur.team.toNat && r.rank == m1.cur.rank.toNat) →
         (m1.team? m1.cur.task m1.cur.team.toNat = none → exec (.done gu) s = .next (s.complete m2)) ∧
         exec (.done gu) s = .next (s.complete ((List.range 8).foldl
           (fun (m : Mach) k => m.barrierCheck m.cur.task m.cur.team.toNat k) m2))) ∧
       (s.m.cur.imprecise = none → ∀ (n : BitVec 3) t arr, m1.team? m1.cur.task m1.cur.team.toNat = some t →
         arr = vget t.arrived n.toNat 0 ||| ((1 : BitVec 16) <<< m1.cur.rank.toNat) → m1.cur.rank.toNat < 16 →
         ((∃ c ∈ m1.liveMembers m1.cur.task m1.cur.team.toNat, arr.getLsbD c.rank.toNat = false) →
           exec (.barr gu n) s = .next (s.complete ((m1.setTeam { t with arrived := vset t.arrived n.toNat arr }).withCur
             { m1.cur with state := 5, barr := some n }))) ∧
         ((∀ c ∈ m1.liveMembers m1.cur.task m1.cur.team.toNat, arr.getLsbD c.rank.toNat = true) →
           ∃ m2 t', exec (.barr gu n) s = .next (s.complete m2) ∧
             ((∀ c ∈ m1.conts, c.id ≠ m1.cur.id) → m1.cur.state = 2 → m2.cur = m1.cur) ∧
             m2.team? m1.cur.task m1.cur.team.toNat = some t' ∧ vget t'.arrived n.toNat 0 = 0))) ∧
     (∀ k : GF, ∃ m1, m1 = (if k = 0 ∨ k.getLsbD 1 = true then s.m.flushV s.m.cur.id else s.m) ∧
       exec (.sync gu k) s = .next (s.complete (m1.withCur { m1.cur with holds := m1.cur.holds ++
         (if k = 0 ∨ k.getLsbD 0 = true then [{ kind := .results, slots := 0x7F, before := m1.nextJob, bundle := m1.cur.bundleNow }] else []) ++
         (if k = 0 ∨ k.getLsbD 1 = true then [{ kind := .vectors, slots := 0x7F, before := 0, bundle := m1.cur.bundleNow }] else []) ++
         (if k = 0 ∨ k.getLsbD 2 = true then [{ kind := .commands, slots := 0x7F, before := m1.nextCmd, bundle := m1.cur.bundleNow }] else []) ++
         (if k = 0 ∨ k.getLsbD 3 = true then [{ kind := .stores, slots := 0x7F, before := 0, bundle := m1.cur.bundleNow }] else []) ++
         (if k = 0 ∨ k.getLsbD 4 = true then [{ kind := .jobs, slots := 0x7F, before := m1.nextJob, bundle := m1.cur.bundleNow }] else []) }))) ∧
     (∀ a x m1 c, readG a s.m = .ok (x, m1) → c = { m1.cur with rtime := BitVec.ofNat 48 (min x.toNat (2 ^ 48 - 1)) } →
       exec (.hint gu a) s = .next (s.complete ((m1.withCur c).putRecord c))))

/-- R155, R156: TRAP raises a software trap with its code; SIGC writes the eight bytes of gb as a release at its scope, at once
where every earlier job has landed and every load-block is filled, and else once they have, the bundles after it going on; SIGCs
of a continuation write in their order. -/
def Obligations.TrapAndSignal : Prop :=
  ∀ (s : State) (gu : Guard), s.Ready gu .k →
    (∀ c : BitVec 12, exec (.trap gu c) s = .next
      (s.takeTrap { cause := BitVec.ofNat 16 (0xF000 + c.toNat) } (s.m.cur.slotNow .k) (toW (encode (.trap gu c))))) ∧
    (∀ a b x y m1 m2 m3 (v : Bool) (c : BitVec 3) p q, c.toNat < 5 → readG a s.m = .ok (x, m1) → strongCheck (!v) 8 x m1 = .ok ((), m1) →
      readG b m1 = .ok (y, m2) → strongPlace (!v) 8 x .write m2 = .ok (p, m2) → m2.cur.imprecise = none → m3 = m2.performed m2.cur.id →
      q = { target := p, value := y, scope := c, before := m3.nextJob } →
      (m3.cur.sig = [] → m3.cur.filledAll → (∀ j ∈ m3.jobs, j.cont = m3.cur.id → j.st = .landed) →
        exec (.sigc gu a b v c) s = .next (s.complete (m3.performSig m3.cur q))) ∧
      (m3.cur.sig = [] → (∃ j ∈ m3.jobs, j.cont = m3.cur.id ∧ j.seq = none ∧ j.id < m3.nextJob ∧ j.st ≠ .landed) →
        exec (.sigc gu a b v c) s = .next (s.complete (m3.withCur { m3.cur with sig := [q] }))) ∧
      (∀ p rest, m3.cur.sig = p :: rest → m3.sigReady m3.cur p = false →
        exec (.sigc gu a b v c) s = .next (s.complete (m3.withCur { m3.cur with sig := p :: rest ++ [q] })))) ∧
    (∀ (m : Mach) (c : Cont) (pa : ℕ) (y : Word) (sc : BitVec 3), ∃ m1, m1 = m.setCont { c with sig := c.sig.drop 1 } ∧
      m.performSig c { target := .mem pa, value := y, scope := sc, before := 0 } =
        m1.withMem ((m1.mem.strongPrep c.die (homeOf pa) pa 8 (decide (3 ≤ sc.toNat)) c.past).strongWrite c.die (homeOf pa) pa (leBytes 8 y.toNat) false))

/-- R248, R249, R276, R285: TSPAWN submits the record at ga, GLNCH the graph, CRSPAWN creates a helper; each answer follows to
gd: the task's seq or bit 63 with the reason, the outcome of the replay, the new record's address or all ones. An accepted
task has the next sequence and grid numbers and waits for its ordering; a misaligned address reports 0x2001. R293: a member of a
stolen team asks its origin. -/
def Obligations.LaunchRequests : Prop :=
  ∀ (s : State) (gu : Guard) (d a b : GF), s.Ready gu .k → d.toNat < 24 → s.m.cur.awaits d = false →
    (∀ x m1 g, readG a s.m = .ok (x, m1) → m1.guestOf m1.cur = some g → ∀ i r,
      (i, r) ∈ [(Instr.tspawn gu d a, GuestReq.tspawn x), (.glnch gu d a, .glnch x)] →
      exec i s = .next (s.complete ((m1.sendTo 2 g.origin (.request g.task g.team m1.cur.rank.toNat d r)).answerTo d none))) ∧
    (∀ x m1 m2 t, readG a s.m = .ok (x, m1) → m1.guestOf m1.cur = none → m1.task? m1.cur.task = some t →
      m1.sourcesHeld m1.cur.ctx = false → m1.sends m2 →
      (x.toNat % 128 = 0 → (∃ ps, m1.resolveCtx m1.cur.die t.ctx t.entry x 128 .read = .ok ps) →
        (∀ m3 q, m2.enrol m2.submitter x = (m3, .ok q) →
          exec (.tspawn gu d a) s = .next (s.complete (m3.answerTo d (some (toW (q % 2 ^ 63))))) ∧
          q = m2.seqCount + 1 ∧ m3.seqCount = q ∧ m3.gridCount = m2.gridCount + 1 ∧
          m3.tasks.map Task.seq = m2.tasks.map Task.seq ++ [q] ∧
          ((∀ u ∈ m2.tasks, u.seq ≠ q) → ∃ k ∈ m3.tasks, k.seq = q ∧ k.recVa = x ∧ k.ctx = m2.cur.ctx ∧ k.stage = .ordering ∧ k.tstate = 1)) ∧
        (∀ m3 r, m2.enrol m2.submitter x = (m3, .error r) →
          exec (.tspawn gu d a) s = .next (s.complete (m3.answerTo d (some (toW (2 ^ 63 + r))))) ∧ m3.tasks = m2.tasks ∧
          m3.seqCount = m2.seqCount)) ∧
      (x.toNat % 64 = 0 → (∃ ps, m1.resolveCtx m1.cur.die t.ctx t.entry x 64 .read = .ok ps) →
        ∀ m3 r, m2.requestReplay m2.submitter x = (m3, r) → exec (.glnch gu d a) s = .next (s.complete (m3.answerTo d (some (match r with
          | .started => 0
          | .held => 1
          | .full => 2
          | .refused k => toW (3 + k % 65536 * 65536)))))) ∧
      (x.toNat % 128 ≠ 0 → exec (.tspawn gu d a) s = .next
        (s.takeTrap { cause := 0x2001, faddr := x } (s.m.cur.slotNow .k) (toW (encode (.tspawn gu d a)))))) ∧
    (∀ x y m1 m2, readG a s.m = .ok (x, m1) → readG b m1 = .ok (y, m2) →
      (∀ g, m2.guestOf m2.cur = some g → exec (.crspawn gu d a b) s = .next (s.complete
        ((m2.sendTo 2 g.origin (.request g.task g.team m2.cur.rank.toNat d (.crspawn x y m2.fmtNow))).answerTo d none))) ∧
      (∀ m3 t, m2.guestOf m2.cur = none → m2.sourcesHeld m2.cur.ctx = false → m2.sends m3 → m3.task? m3.cur.task = some t →
        ∀ r, r = m3.createHelper t x y m2.fmtNow → exec (.crspawn gu d a b) s = .next (s.complete (r.1.answerTo d (some r.2))) ∧
          (65536 ≤ t.helpers → r = (m3, BitVec.allOnes 64))))

/-- R250 to R252: GTOK adds one token from software to a node of the running replay and answers its count, all ones with no
running replay, and reports 0x2003 for an index out of range; GSTAT and TEAMQ answer at once what R251 and R252 list. R254:
PRMT asks for a task of the issuer's context to be pre-empted: 0 where no such task runs, 4 where its policy excludes what
is asked, 3 as it is killed and resubmitted, 1 with the request made, the answer to a checkpoint following. -/
def Obligations.GraphTeamAndPreemption : Prop :=
  (∀ (s : State) (gu : Guard) (d a b : GF), s.Ready gu .k →
     (∀ x y m1 m2 m3 t, readG a s.m = .ok (x, m1) → readG b m1 = .ok (y, m2) → x.toNat % 64 = 0 → m2.task? m2.cur.task = some t →
       t.guest = none → (∃ ps, m2.resolveCtx m2.cur.die t.ctx t.entry x 64 .read = .ok ps) → m2.sends m3 →
       (∀ g n m4 m5, m2.graphOf m2.cur.ctx x = some g → g.running = true → y.toNat < g.count → y.toNat < 65536 →
         g.nodes[y.toNat]? = some n → m4 = m3.addToken g.id y.toNat true → m4.cur.id ≠ 0 →
         writeG d (toW (n.tokens + 1)) m4 = .ok ((), m5) → exec (.gtok gu d a b) s = .next (s.complete m5)) ∧
       ((∀ g, m2.graphOf m2.cur.ctx x = some g → g.running = false) → y.toNat < m2.countOf x → y.toNat < 65536 → m3.cur.id ≠ 0 →
         ∀ m4, writeG d (BitVec.allOnes 64) m3 = .ok ((), m4) → exec (.gtok gu d a b) s = .next (s.complete m4)) ∧
       (∀ g, m2.graphOf m2.cur.ctx x = some g → g.running = true → g.count ≤ y.toNat % 65536 ∨ 65536 ≤ y.toNat → exec (.gtok gu d a b) s =
         .next (s.takeTrap { cause := 0x2003 } (s.m.cur.slotNow .k) (toW (encode (.gtok gu d a b)))))) ∧
     (∀ x y m1 m2 m3 t nd, readG a s.m = .ok (x, m1) → (if nd then readG b m1 = .ok (y, m2) else y = 0 ∧ m2 = m1) → x.toNat % 64 = 0 →
       m2.task? m2.cur.task = some t → t.guest = none → (∃ ps, m2.resolveCtx m2.cur.die t.ctx t.entry x 64 .read = .ok ps) →
       writeG d (m2.gstatWord x y nd) m2 = .ok ((), m3) → exec (.gstat gu d a b nd) s = .next (s.complete m3)) ∧
     (∀ x m1 g, readG a s.m = .ok (x, m1) → m1.guestOf m1.cur = some g → exec (.gstat gu d a b false) s = .next (s.complete
       ((m1.sendTo 2 g.origin (.request g.task g.team m1.cur.rank.toNat d (.gstat x 0 false))).answerTo d none))) ∧
     (∀ (m : Mach) (g : Graph) x, m.graphOf m.cur.ctx x = some g → g.nodes.length ≤ 65536 → (m.gstatWord x 0 false).toNat =
       g.flags + (if g.cur then 16 else 0) + (if g.running then (g.nodes.filter fun n => n.st == 3).length else 0) * 2 ^ 16 +
         g.replays % 2 ^ 24 * 2 ^ 40) ∧
     (∀ k t m1, s.m.task? s.m.cur.task = some k → s.m.team? s.m.cur.task s.m.cur.team.toNat = some t →
       writeG d (toW (t.size + s.m.cur.die * 2 ^ 8 + s.m.cur.winLimit / 4096 * 2 ^ 16 + k.teams * 2 ^ 32)) s.m = .ok ((), m1) →
       exec (.teamq gu d a true) s = .next (s.complete m1)) ∧
     (∀ x m1 m2, readG a s.m = .ok (x, m1) →
       (∀ r, x.toNat < 16 → m1.member? m1.cur.task m1.cur.team.toNat x.toNat = some r →
         writeG d (toW (r.core + r.die * 2 ^ 4 + (if r.claim then 2 ^ 10 else 0) + 2 ^ 15)) m1 = .ok ((), m2) →
         exec (.teamq gu d a false) s = .next (s.complete m2)) ∧
       (16 ≤ x.toNat → writeG d 0 m1 = .ok ((), m2) → exec (.teamq gu d a false) s = .next (s.complete m2)))) ∧
  (∀ (s : State) (gu : Guard) (d a b : GF) x y m1 m2 me, s.Ready gu .k → d.toNat < 24 → s.m.cur.awaits d = false →
     readG a s.m = .ok (x, m1) → readG b m1 = .ok (y, m2) → x.toNat % 128 = 0 → m2.task? m2.cur.task = some me → me.guest = none →
     (∃ ps, m2.resolveCtx m2.cur.die me.ctx me.entry x 128 .read = .ok ps) →
     (m2.taskAt m2.cur.ctx x = none → m2.foreignRecord x = false → exec (.prmt gu d a b) s = .next (s.complete (m2.answerTo d (some 0)))) ∧
     (m2.taskAt m2.cur.ctx x = none → m2.foreignRecord x = true → exec (.prmt gu d a b) s = .next (s.complete (m2.answerTo d (some 5)))) ∧
     (∀ t out, m2.taskAt m2.cur.ctx x = some t → out = m2.prmtOutcome t (y.toNat % 4) →
       (t.tstate ≠ 2 → exec (.prmt gu d a b) s = .next (s.complete (m2.answerTo d (some 0)))) ∧
       (t.tstate = 2 → out = 4 → exec (.prmt gu d a b) s = .next (s.complete (m2.answerTo d (some 4)))) ∧
       (t.tstate = 2 → out = 3 → exec (.prmt gu d a b) s = .next
         (s.complete ((m2.carryOut t 3 (some (t.place.headD 0))).answerTo d (some 3)))) ∧
       (t.tstate = 2 → out = 1 → exec (.prmt gu d a b) s = .next (s.complete (((m2.answerTo d (some 1)).carryOut t 1 none).pickAll))) ∧
       (t.tstate = 2 → out = 2 → ∀ m3 : Mach, m3 = m2.answerTo d none → exec (.prmt gu d a b) s = .next (s.complete
         ((({ m3 with prmts := m3.prmts ++ [{ cont := m3.cur.id, d := d, task := t.seq }] } : Mach).carryOut t 2 none).answerPrmt t.seq)))))

/-- R255 to R257, R367, R371: SYSRD reads and SYSWR writes the register an index names; an index outside the map reports 0x1001,
a register marked S 0x1005 in user mode; a read-only register, or a read-only bit, keeps its value. -/
def Obligations.SystemRegisters : Prop :=
  ∀ (s : State) (gu : Guard) (d : GF) (x : BitVec 12), s.Ready gu .k →
    (regInfo x.toNat = none → exec (.sysrd gu d x) s = .next (s.takeTrap { cause := 0x1001 } (s.m.cur.slotNow .k) (toW (encode (.sysrd gu d x)))) ∧
      exec (.syswr gu d x) s = .next (s.takeTrap { cause := 0x1001 } (s.m.cur.slotNow .k) (toW (encode (.syswr gu d x))))) ∧
    (∀ sc, regInfo x.toNat = some (sc, true) → s.m.cur.sysMode = false →
      exec (.sysrd gu d x) s = .next (s.takeTrap { cause := 0x1005 } (s.m.cur.slotNow .k) (toW (encode (.sysrd gu d x)))) ∧
      exec (.syswr gu d x) s = .next (s.takeTrap { cause := 0x1005 } (s.m.cur.slotNow .k) (toW (encode (.syswr gu d x))))) ∧
    (∀ sc p m1, regInfo x.toNat = some (sc, p) → (p = true → s.m.cur.sysMode = true) →
      (sc = .context → writeG d (s.m.readCtxReg s.m.cur x.toNat) s.m = .ok ((), m1) → exec (.sysrd gu d x) s = .next (s.complete m1)) ∧
      (sc = .die → writeG d (s.m.readDieReg s.m.cur.die x.toNat) s.m = .ok ((), m1) → exec (.sysrd gu d x) s = .next (s.complete m1)) ∧
      (sc = .module → writeG d (s.m.readModReg x.toNat) s.m = .ok ((), m1) → exec (.sysrd gu d x) s = .next (s.complete m1)) ∧
      (x.toNat = 0x400 ∨ x.toNat = 0x403 → writeG d (if x.toNat = 0x400 then s.m.mySeq.csa.setWidth 64 else s.m.mySeq.stat) s.m = .ok ((), m1) →
        exec (.sysrd gu d x) s = .next (s.complete m1))) ∧
    (∀ sc p v m1, regInfo x.toNat = some (sc, p) → (p = true → s.m.cur.sysMode = true) → readG d s.m = .ok (v, m1) →
      (sc = .context → exec (.syswr gu d x) s = .next (s.complete (m1.withCur (m1.cur.writeCtxReg x.toNat v)))) ∧
      (sc = .die → ¬(0x310 ≤ x.toNat ∧ x.toNat ≤ 0x34F) → exec (.syswr gu d x) s = .next (s.complete (m1.writeDieReg m1.cur.die x.toNat v))) ∧
      (sc = .module → exec (.syswr gu d x) s = .next (s.complete (m1.writeModReg x.toNat v))) ∧
      (0x310 ≤ x.toNat → x.toNat ≤ 0x34F → rxOk m1.cur v = false → exec (.syswr gu d x) s = .next
        (s.takeTrap { cause := 0x2003 } (s.m.cur.slotNow .k) (toW (encode (.syswr gu d x)))))) ∧
    (∀ (c : Cont) (m : Mach) (v : Word),
      m.readCtxReg (c.writeCtxReg 0x008 v) 0x008 = v ∧ (m.readCtxReg (c.writeCtxReg 0x00A v) 0x00A).toNat = v.toNat &&& 0x17F ∧
      (m.readCtxReg (c.writeCtxReg 0x00B v) 0x00B).toNat = v.toNat % 2 ^ 32 ∧
      c.writeCtxReg 0x001 v = c ∧ c.writeCtxReg 0x002 v = c ∧ c.writeCtxReg 0x003 v = c)

/-- R242, R258 to R261: in system mode ERET goes on at b(N) in the mode TSAVE kept, with tcause and fslot cleared; TLBDRN begins
a drain of its context over its range, TLBCNF waits for the drains its continuation made, LEASEG answers, CINV discards the
instruction lines of its range; in user mode each reports 0x1005. -/
def Obligations.PrivilegedControl : Prop :=
  ∀ (s : State) (gu : Guard) (d a b : GF) (n : BitVec 3) (e : Bool) (k : BitVec 2), s.Ready gu .k →
    (s.m.cur.sysMode = false → ∀ i ∈ [Instr.eret gu n, .tlbdrn gu d a b e, .tlbcnf gu, .leaseg gu d a b, .cinv gu a b k],
      exec i s = .next (s.takeTrap { cause := 0x1005 } (s.m.cur.slotNow .k) (toW (encode i)))) ∧
    (s.m.cur.sysMode = true → ∀ t c, t = vget s.m.cur.b n.toNat 0 → t.toNat % 4 = 0 →
      c = { s.m.cur with sysMode := s.m.cur.tsave, tcause := 0, fslot := 0 } →
      exec (.eret gu n) s = .next (s.complete ((s.m.withCur (c.jump t)).putRecord c))) ∧
    (s.m.cur.sysMode = true → ∀ x y m1 m2, readG a s.m = .ok (x, m1) → readG b m1 = .ok (y, m2) → m2.guestOf m2.cur = none →
      (x.toNat % 65536 = 0 → y.toNat % 65536 = 0 → y ≠ 0 → y.toNat ≤ 2 ^ 55 →
        ∃ m3, exec (.tlbdrn gu d a b false) s = .next (s.complete m3) ∧
          m3.drains = m2.drains ++ [{ cont := m2.cur.id, ctx := m2.cur.ctx, base := x, len := y.toNat }] ∧ m3.mem = m2.mem ∧
          m3.cur.g = m2.cur.g) ∧
      (x.toNat % 65536 ≠ 0 ∨ y.toNat % 65536 ≠ 0 ∨ y = 0 ∨ 2 ^ 55 < y.toNat → exec (.tlbdrn gu d a b false) s = .next
        (s.takeTrap { cause := 0x2003 } (s.m.cur.slotNow .k) (toW (encode (.tlbdrn gu d a b false))))) ∧
      (∀ m3, canonical x = false ∨ 4096 ≤ y.toNat ∨ m2.regs.ctxcnt.toNat ≤ y.toNat → writeG d 0 m2 = .ok ((), m3) →
        exec (.leaseg gu d a b) s = .next (s.complete m3)) ∧
      (∀ ctx p l held m3, canonical x = true → y.toNat < 4096 → y.toNat < m2.regs.ctxcnt.toNat → ctx = BitVec.ofNat 12 y.toNat →
        p = m2.pageOf ctx x → l = ((m2.tasks.filter fun t => t.leased && t.ctx == ctx && t.guest.isNone).flatMap fun t =>
          (t.fp.filter fun r => overlaps r.base.toNat r.len p.1 p.2).map fun _ => t.seq) →
        (held = true ↔ ∃ k ∈ m2.drains, k.ctx = ctx ∧ overlaps k.base.toNat k.len p.1 p.2 = true ∧ ∃ c, m2.cont? k.cont = some c ∧ c.inTlbcnf = true) →
        writeG d (toW ((if l = [] then 0 else 2 ^ 63) + (if held then 2 ^ 62 else 0) + min l.length 65535 * 2 ^ 32 +
          l.min?.getD 0 % 2 ^ 32)) m2 = .ok ((), m3) → exec (.leaseg gu d a b) s = .next (s.complete m3)) ∧
      (x.toNat % 64 = 0 → y.toNat % 64 = 0 → y.toNat ≤ 2 ^ 40 → ∀ m3, m3 = m2.performed m2.cur.id →
        exec (.cinv gu a b k) s = .next (s.complete (if k = 0 ∨ k = 3 then { m3 with
          mem := m3.mem.spread m3.cur.die
          icache := m3.icache.filter fun l => !(l.ctx == m3.cur.ctx && overlaps l.va.toNat l.bytes.length x.toNat y.toNat) } else m3)))) ∧
    (s.m.cur.sysMode = true → s.m.guestOf s.m.cur = none → ∀ m1, m1 = s.m.performed s.m.cur.id →
      ((∀ q ∈ m1.drains, q.cont ≠ m1.cur.id) → exec (.tlbcnf gu) s = .next (s.complete m1)) ∧
      (∀ m2, m2 = m1.withCur { m1.cur with inTlbcnf := true } → (∃ q ∈ m1.drains, q.cont = m1.cur.id) → m1.cur.id ≠ 0 →
        (∀ c ∈ m1.conts, c.inTlbcnf = false) →
        ((∃ q ∈ m1.drains, q.cont = m1.cur.id ∧ m1.leasedRange q.ctx q.base.toNat q.len = true) →
          exec (.tlbcnf gu) s = .next (s.complete m2)) ∧
        ((∀ q ∈ m1.drains, q.cont = m1.cur.id → m1.leasedRange q.ctx q.base.toNat q.len = false) →
          exec (.tlbcnf gu) s = .next (s.complete (m2.finishDrains m1.cur.id)))))

/-! ### The attention sequencer -/

/-- R266, R267: h0 reads as zero and keeps it; HSET, HADD, HJMP and HLOOP compute on h registers as R267 lists them; AGLD binds
a generator of the run; a fault ends the run and the task of its writer. -/
def Obligations.SequencerControl : Prop :=
  ∀ (s : State) (r : Run) (c : Cont) (m : Mach), s.micro r c m →
    (∀ d (k : BitVec 48), exec (.hset d k) s = .next (s.after (s.m.withRun (r.putH d (BitVec.ofInt 64 k.toInt))))) ∧
    (∀ d a b (k : W32), exec (.hadd d a b k) s = .next (s.after (s.m.withRun (r.putH d
      (BitVec.ofInt 64 ((r.hv a).toNat + (r.hv b).toNat + k.toInt)))))) ∧
    (∀ (k : BitVec 2) a (t : BitVec 10) go,
      go = (if k = 0 then true else if k = 1 then decide (r.hv a = 0) else if k = 2 then decide (r.hv a ≠ 0) else decide ((r.hv a).toInt < 0)) →
      exec (.hjmp k a t) s = .next (s.after (s.m.withRun (if go then r.at t.toNat else r)))) ∧
    (∀ a (t : BitVec 10) q, q = r.putH a (r.hv a - 1) →
      exec (.hloop a t) s = .next (s.after (s.m.withRun (if q.hv a = 0 then q else q.at t.toNat)))) ∧
    (∀ n a g, m.slotHeld c.die (bits (r.hv a).toNat 39 32) = false → m.bindAg c.die (r.hv a) = .ok g →
      exec (.agld n a) s = .next (s.after (s.m.withRun { r with ag := vset r.ag n.toNat g }))) ∧
    (∀ n a t, m.slotHeld c.die (bits (r.hv a).toNat 39 32) = false → m.bindAg c.die (r.hv a) = .error t → exec (.agld n a) s = .next (s.after (s.m.seqFails s.m.seqSel t))) ∧
    (∀ (h : H) v, (r.putH 0 v) = r ∧ r.hv 0 = 0 ∧ (h ≠ 0 → (r.putH h v).hv h = v))

/-- R54, R57, R268: KVRD waits while a position of its range is absent; once all are present it copies the bytes it names of
each position to a row of the ring's next tile, then writes the row count and advances the tail, and with adv its generator.
R269, R430: MXI enters one matrix command of the run, drains only with a port or a member named; any other opcode or field
reports 0x1001; a command on an accumulator that an earlier one still holds waits. -/
def Obligations.SequencerReadAndMatrix : Prop :=
  (∀ (s : State) (r : Run) (c : Cont) (m : Mach) (kv : Bool) (n : BitVec 3) (q : Q) (bo : BitVec 16) (bl : Byte) (adv : Bool)
     (cnt : BitVec 7) (ag : Ag) (i : Instr), s.micro r c m → i = .kvrd kv n q bo bl adv cnt → ag = vget r.ag n.toNat {} →
     m.slotHeld c.die (bits ag.w1.toNat 39 32) = false →
     (∀ t, m.kvRange c.die ag kv bo.toNat bl.toNat cnt.toNat = .error t → exec i s = .next (s.after (s.m.seqFails s.m.seqSel t))) ∧
     (∀ x tile place t, m.kvRange c.die ag kv bo.toNat bl.toNat cnt.toNat = .ok x →
       c.tailTileAt q.toNat (cnt.toNat * bl.toNat * 64) tile place → m.task? c.task = some t →
       (∀ m2, kvPresent c.die t x (rangeFrom x.first cnt.toNat) m = .ok (false, m2) → exec i s = .next s) ∧
       (∀ m2 m3 c3, kvPresent c.die t x (rangeFrom x.first cnt.toNat) m = .ok (true, m2) →
         kvCopy c.die t x kv bo.toNat bl.toNat tile ((rangeFrom x.first cnt.toNat).zip (List.range cnt.toNat)) m2 = .ok ((), m3) →
         (m3.seq m3.seqSel).run = some r → m3.cont? r.cont = some c3 → c3.inWindow place 1 = true → c3.mx.rings = c.mx.rings →
         ∃ m4, exec i s = .next (s.after m4) ∧ m4.mem = (m3.tilePushed c3 q.toNat cnt.toNat place).mem ∧
           (∀ c4, m4.cont? r.cont = some c4 → vget c4.mx.rings q.toNat 0 = ringPush (vget c.mx.rings q.toNat 0) 1) ∧
           m4.reads = m3.reads.filter (fun y => y.who ≠ .seq m3.seqSel) ∧
           ∃ r4, (m4.seq m4.seqSel).run = some r4 ∧ r4.h = r.h ∧
             r4.ag = if adv then vset r.ag n.toNat { ag with w1 := toW (putBits ag.w1.toNat 31 0 (x.first + cnt.toNat)) } else r.ag))) ∧
  (∀ (s : State) (r : Run) (c : Cont) (m : Mach) (op : BitVec 7) (mx : BitVec 53), s.micro r c m →
     (mxiInstr op.toNat mx.toNat = none → exec (.mxi op mx) s = .next (s.after (s.m.seqFails s.m.seqSel { cause := 0x1001 }))) ∧
     (∀ i high, mxiInstr op.toNat mx.toNat = some (i, high) →
       ((∃ k ∈ c.mx.array, k.acc = accOfInstr i) → exec (.mxi op mx) s = .next s) ∧
       ((∀ k ∈ c.mx.array, k.acc ≠ accOfInstr i) → c.mReady i = true → ∀ (m0 : Mach) m2 c2, m0 = m.drawn (r.fmt.getLsbD 25) → m2 = m0.landDrains c.id →
         m2.cont? r.cont = some c2 →
         (∀ e, enterInstr i m2 c2 r.fmt (m.draw (r.fmt.getLsbD 25) 40) high = .ok e → exec (.mxi op mx) s = .next (s.after (m2.place c2.id e
           (e.cmd m2.nextCmd (BitVec.ofNat 64 (op.toNat * 2 ^ 57 + mx.toNat)) r.fmt (.seq s.m.seqSel) c2.pc)))) ∧
         (∀ t, enterInstr i m2 c2 r.fmt (m.draw (r.fmt.getLsbD 25) 40) high = .error (.trap t) →
           exec (.mxi op mx) s = .next (s.after (s.m.seqFails s.m.seqSel t))))) ∧
     mxiInstr 6 0 = none)

/-- R117, R270: SMAX scales and masks each delivered score, gives the exponentials of each row against its running record, in
the tile's format, updates the records and fills the tile; with no scores delivered it waits. R267, R271, R273: RESC
multiplies and NORM divides each row of an accumulator by its record's field, MCMB merges a partial and its records, each
rounded once per operation; ROPE rotates rows in place; rows at or above mark, and the other accumulators, stand. -/
def Obligations.SequencerSoftmaxAndAccumulators : Prop :=
  (∀ (s : State) (r : Run) (c : Cont) (m : Mach) (q : Q) (a b w : H) (mk : Bool) (cnt : BitVec 7), s.micro r c m →
     (r.scores = none → exec (.smax q a b w mk cnt) s = .next s) ∧
     (∀ xs rows marks ma za off tile place score step wr, c.resident = true → r.scores = some (xs, rows, true, marks) → ma = r.fmt.toNat % 16 →
       ma = 1 ∨ ma = 2 ∨ ma = 3 ∨ ma = 4 ∨ ma = 5 ∨ ma = 10 → za = elemBytes ma →
       off = (r.hv a).toNat % 2 ^ 23 → off % 16 = 0 → c.inWindow off (16 * rows) = true → c.tailTileAt q.toNat (rows * 64 * za) tile place →
       c.inWindow tile (rows * 64 * za) = true → c.inWindow place 1 = true →
       score = (fun i j => smaxScore (xs.getD (64 * i + j) 0) ((r.hv b).toNat % 2 ^ 32) (decide (cnt.toNat ≤ j) || (mk && !decide (
         0 ≤ (((r.hv w).toNat % 2 ^ 24 + i : ℕ) : ℤ) - (((r.hv w).toNat / 2 ^ 24 % 2 ^ 24 + j : ℕ) : ℤ) ∧
         (((r.hv w).toNat % 2 ^ 24 + i : ℕ) : ℤ) - (((r.hv w).toNat / 2 ^ 24 % 2 ^ 24 + j : ℕ) : ℤ) ≤ (((r.hv w).toNat / 2 ^ 48 : ℕ) : ℤ))))) →
       step = (fun i => softmaxStep ((m.draw (r.fmt.getLsbD 25) 40).map (· + i * 2 ^ 24)) (leAt (m.winRead c off (16 * rows)) (16 * i) 4) (leAt (m.winRead c off (16 * rows)) (16 * i + 4) 4)
         ((List.range 64).map (score i))) →
       wr = (fun (x : Mach) i => ((x.winWrite c (off + 16 * i) (leBytes 4 (step i).m ++ leBytes 4 (step i).l ++ leBytes 4 (step i).c ++ leBytes 4 0)
         (marks.getLsbD i)).winWrite c (tile + i * 64 * za) ((step i).p.map fun p => leBytes za (roundTo ma false (readNum 0 p)).pat).flatten
         (marks.getLsbD i || (m.winMark c off (16 * rows)).isSome))) →
       exec (.smax q a b w mk cnt) s = .next (s.after ((((List.range rows).foldl wr (m.drawn (r.fmt.getLsbD 25))).tilePushed c q.toNat rows place).withRun
         { r with scores := none })))) ∧
  (∀ (s : State) (r : Run) (c : Cont) (m : Mach) (acc : Acc) (a b d : H) (k : AccState) (n o : ℕ) (own : List Byte), s.micro r c m →
     k = vget c.mx.acc acc.toNat {} → n = k.mark.toNat → n ≤ 64 → o = (r.hv a).toNat % 2 ^ 23 → (∀ x ∈ c.mx.array, x.acc ≠ acc.toNat) →
     c.inWindow o (16 * n) = true → own = m.winRead c o (16 * n) → ∀ done : Instr → (ℕ → ℕ → Word → ℕ) → Mem → Prop,
     done = (fun i f mem => ∃ m2 c2, exec i s = .next (s.after m2) ∧ m2.cont? r.cont = some c2 ∧ m2.mem = mem ∧
       (∀ x y, x < n → y < 64 → ((vget c2.mx.acc acc.toNat {}).at x y).toNat = f x y (toW (k.at x y).toNat) % 2 ^ 32) ∧
       (∀ x y, n ≤ x → x < 64 → y < 64 → (vget c2.mx.acc acc.toNat {}).at x y = k.at x y) ∧
       (∀ z, z < 4 → z ≠ acc.toNat → vget c2.mx.acc z {} = vget c.mx.acc z {}) ∧ (vget c2.mx.acc acc.toNat {}).mark = k.mark) →
     done (.resc acc a) (fun x _ v => (roundTo 0 false ((readNum 0 v.toNat).mul (readNum 0 (leAt own (16 * x + 8) 4))).1).pat) m.mem ∧
     done (.norm acc a) (fun x _ v => if (readNum 0 (leAt own (16 * x + 4) 4)).isZero then 0
       else (roundTo 0 false ((readNum 0 v.toNat).div (readNum 0 (leAt own (16 * x + 4) 4))).1
         ((readNum 0 v.toNat).div (readNum 0 (leAt own (16 * x + 4) 4))).2.1).pat) m.mem ∧
     (∀ inc out ms c1 c2 wr, c.resident = true → c.inWindow ((r.hv b).toNat % 2 ^ 23 : ℕ) (16 * n) = true → c.inWindow ((r.hv d).toNat % 2 ^ 23 : ℕ) (256 * n) = true →
       inc = m.winRead c ((r.hv b).toNat % 2 ^ 23) (16 * n) → out = m.winRead c ((r.hv d).toNat % 2 ^ 23) (256 * n) →
       ms = (fun x => (readNum 0 (leAt own (16 * x) 4)).pick true (readNum 0 (leAt inc (16 * x) 4))) →
       c1 = (fun x => readNum 0 (expStep ((m.draw (r.fmt.getLsbD 25) 40).map (· + x * 2 ^ 24)) (readNum 0 (leAt own (16 * x) 4)) (ms x)).pat) →
       c2 = (fun x => readNum 0 (expStep ((m.draw (r.fmt.getLsbD 25) 40).map (· + x * 2 ^ 24 + 1)) (readNum 0 (leAt inc (16 * x) 4)) (ms x)).pat) →
       wr = (fun (y : Mach) x => if ms x = .inf true then y else y.winWrite c (o + 16 * x) (leBytes 4 (roundTo 0 false (ms x)).pat ++ leBytes 4
         (roundTo 0 false ((readNum 0 (roundTo 0 false ((readNum 0 (leAt own (16 * x + 4) 4)).mul (c1 x)).1).pat).add
           (readNum 0 (roundTo 0 false ((readNum 0 (leAt inc (16 * x + 4) 4)).mul (c2 x)).1).pat)).1).pat)
         ((m.winMark c ((r.hv b).toNat % 2 ^ 23) (16 * n)).isSome || (m.winMark c o (16 * n)).isSome)) →
       done (.mcmb acc a b d) (fun x y v => if ms x = .inf true then v.toNat
         else (roundTo 0 false ((readNum 0 (roundTo 0 false ((readNum 0 v.toNat).mul (c1 x)).1).pat).add
           (readNum 0 (roundTo 0 false ((readNum 0 (leAt out (256 * x + 4 * y) 4)).mul (c2 x)).1).pat)).1).pat) ((List.range n).foldl wr m).mem) ∧
     (∀ (half : Bool) (dm : BitVec 10) (rows : BitVec 7) va z tile fo pos wr, c.resident = true → va = r.fmt.toNat / 2 ^ 12 % 16 → floatNot64 va = true →
       z = elemBytes va → tile = (r.hv a).toNat % 2 ^ 23 → fo = (r.hv b).toNat % 2 ^ 23 → pos = (r.hv d).toNat % 2 ^ 24 → tile % z = 0 →
       fo % 4 = 0 → pos + (rows.toNat - 1) ≤ 16777215 → c.inWindow fo (4 * (dm.toNat / 2)) = true →
       c.inWindow tile (rows.toNat * dm.toNat * z) = true → (∀ x, x < rows.toNat → c.inWindow (tile + x * dm.toNat * z : ℕ) (dm.toNat * z) = true) →
       wr = (fun (y : Mach) x => y.winWrite c (tile + x * dm.toNat * z) ((ropeAll va va ((m.draw (r.fmt.getLsbD 25) 40).map (· + x * 2 ^ 20)) half
         ((List.range dm.toNat).map fun i => leAt (m.winRead c tile (rows.toNat * dm.toNat * z)) ((x * dm.toNat + i) * z) z)
         (numbers 4 (dm.toNat / 2) (m.winRead c fo (4 * (dm.toNat / 2)))) (pos + x)).map fun v => leBytes z v.pat).flatten
         ((y.winMark c (tile + x * dm.toNat * z) (dm.toNat * z)).isSome || (m.winMark c fo (4 * (dm.toNat / 2))).isSome)) →
       exec (.rope a b d half dm rows) s = .next (s.after ((List.range rows.toNat).foldl wr (m.drawn (r.fmt.getLsbD 25))))))

/-- R263 to R267, R272: DJOB issues a copy-engine job of the run, WAITW waits on a window word, SIGW writes one as a release
once the run's commands and payloads are done, HALT ends the run with its completion; a run starts by SQSTART with the claim
held and 128 aligned window bytes of parameters, else rej is set; SQCSD reads and writes the store at SQCSA, which advances. -/
def Obligations.SequencerRun : Prop :=
  ∀ (s : State),
    (∀ (r : Run) (c : Cont) (m : Mach), s.micro r c m →
      (∀ a (mm : BitVec 4) ac k, m.readCard c ((r.hv a).toNat % 2 ^ 23) = .ok k → (m.guestOf c ≠ none ∨ m.sourcesHeld c.ctx = false) →
        (k.kind ≤ 3 → k.dport = false → (k.kind ≠ 1 → mm = 0) → m.cwordCause c k = none → k.good k.kind = true → ∀ m2, m2 = m.landDrains c.id →
          exec (.djob a mm ac) s = .next (s.after (m2.addJob
            { id := 0, cont := c.id, task := c.task, die := c.die, op := k.kind, card := k, cardOff := (r.hv a).toNat % 2 ^ 23, mm := mm
              ac := ac, fmt := r.fmt, pc := c.pc, seq := some s.m.seqSel }))) ∧
        (3 < k.kind ∨ k.dport = true → exec (.djob a mm ac) s = .next (s.after (s.m.seqFails s.m.seqSel
          { cause := 0x2004, faddr := toW ((r.hv a).toNat % 2 ^ 23) })))) ∧
      (∀ (k : BitVec 2) a b w, (r.hv a).toNat % 8 = 0 → c.inWindow (r.hv a).toNat 8 = true → w = leNat (m.winRead c (r.hv a).toNat 8) % 2 ^ 32 →
        exec (.waitw k a b) s = (if (if k = 0 then decide (w = (r.hv b).toNat % 2 ^ 32) else if k = 1 then decide (w ≠ (r.hv b).toNat % 2 ^ 32)
          else if k = 2 then decide ((r.hv b).toNat % 2 ^ 32 ≤ w) else decide (w < (r.hv b).toNat % 2 ^ 32)) then .next (s.after m) else .next s)) ∧
      (∀ (sc : BitVec 3) a b t off, sc.toNat < 5 → m.runBusy s.m.seqSel c = false → (r.hv a).toNat % 8 = 0 → (r.hv a).toNat < 2 ^ 32 →
        m.spTarget c.task c.team.toNat (r.hv a).toNat = some (t, off) → t.inWindow off 8 = true →
        exec (.sigw sc a b) s = .next (s.after ((m.placePrep c.die (.spad t.id off) 8 (decide (3 ≤ sc.toNat)) []).placeWrite c.die (.spad t.id off)
          (leBytes 8 (r.hv b).toNat)))) ∧
      (∀ sc a b, m.runBusy s.m.seqSel c = true → exec (.sigw sc a b) s = .next s ∨ 5 ≤ sc.toNat) ∧
      (m.runBusy s.m.seqSel c = true → exec .halt s = .next s) ∧
      (∀ t off m2, m.runBusy s.m.seqSel c = false → r.comp.toNat % 8 = 0 → m2 = m.setCont { c with ag := r.ag } →
        m2.spTarget c.task c.team.toNat r.comp.toNat = some (t, off) → t.inWindow off 8 = true →
        ∃ m3, exec .halt s = .next (s.after m3) ∧ (m3.seq s.m.seqSel).run = none ∧ (m3.seq s.m.seqSel).stat.getLsbD 32 = false ∧
          (m3.seq s.m.seqSel).stat.toNat % 2 ^ 16 = ((s.m.seq s.m.seqSel).stat.toNat % 2 ^ 16 + 1) % 2 ^ 16 ∧
          m3.mem = ((m2.placePrep c.die (.spad t.id off) 8 true []).placeWrite c.die (.spad t.id off) (leBytes 8 (r.hv 15).toNat)).mem)) ∧
    (s.m.cur.id ≠ 0 →
      (∀ (v : Word) (par : ℕ), par = v.toNat / 2 ^ 10 % 2 ^ 23 → s.m.mySeq.run = none → s.m.cur.claim = true → s.m.cur.inWindow par 128 = true → par % 128 = 0 →
        ∃ m2 r, exec (.sqstartWrite v) s = .next (s.after m2) ∧ m2.mySeq.run = some r ∧ r.cont = s.m.cur.id ∧ r.pcw = v.toNat % 2 ^ 10 ∧
          (∀ i : H, i ≠ 0 → (r.hv i).toNat = leAt ((s.m.performed s.m.cur.id).winRead (s.m.performed s.m.cur.id).cur par 128) (8 * i.toNat) 8) ∧
          r.ag = s.m.cur.ag ∧ m2.mySeq.stat.getLsbD 32 = true) ∧
      (∀ v, s.m.mySeq.run ≠ none ∨ s.m.cur.claim = false ∨ v.toNat / 2 ^ 10 % 2 ^ 23 % 128 ≠ 0 →
        exec (.sqstartWrite v) s = .next (s.after (s.m.setMySeq { s.m.mySeq with stat := s.m.mySeq.stat ||| toW (2 ^ 33) }))) ∧
      (∀ v, s.m.mySeq.run = none → exec (.sqcsdWrite v) s = .next (s.after (s.m.setMySeq { s.m.mySeq with
        csa := s.m.mySeq.csa + 1, store := SMap.set 0 s.m.mySeq.store s.m.mySeq.csa.toNat v }))) ∧
      (∀ v, s.m.mySeq.run ≠ none → exec (.sqcsdWrite v) s = .next (s.after (s.m.setMySeq { s.m.mySeq with
        csa := s.m.mySeq.csa + 1, stat := s.m.mySeq.stat ||| toW (2 ^ 33) }))) ∧
      (∀ d m2, writeG d (SMap.get 0 s.m.mySeq.store s.m.mySeq.csa.toNat) (s.m.setMySeq { s.m.mySeq with csa := s.m.mySeq.csa + 1 }) = .ok ((), m2) →
        exec (.sqcsdRead d) s = .next (s.after m2)))

/-! ### Memory, engines, the module and the host -/

/-- R93 to R96: a die reads at once what it writes where it holds nothing with a larger key; no other die's view changes before
the write arrives there; a write that arrives is taken byte by byte exactly where its key is larger than the held one's, so
two writes with different keys leave a byte the same in either order of arrival. R100: every die reads one copy of host
memory. R84, R91, R93, R96: a scratchpad's own die stamps its write and holds the bytes under that stamp; a byte another die
writes there is taken exactly where that die's key is the larger. -/
def Obligations.CausalMemory : Prop :=
  ∀ (m : Mem) (d pa : ℕ) (bs : List Byte) (q : Bool), d < 64 → pa + bs.length ≤ 2 ^ 52 →
    (coherent pa = false → (∀ a, pa ≤ a → a < pa + bs.length → coherent a = false) →
      ((∀ a, pa ≤ a → a < pa + bs.length → keyOf (SMap.get ({} : Held) m.held (vkey d a)).src (SMap.get ({} : Held) m.held (vkey d a)).stamp <
          keyOf d (m.nextStamp d)) → (m.write d pa bs q).read d pa bs.length = bs) ∧
      (∀ e a, e < 64 → a < 2 ^ 52 → e ≠ d ∨ a < pa ∨ pa + bs.length ≤ a → (m.write d pa bs q).byteAt e a = m.byteAt e a)) ∧
    (∀ e, e < 64 → e ≠ d → ∃ w ∈ (m.write d pa bs q).flight, w.src = d ∧ w.pa = pa ∧ w.bytes = bs ∧ e ∈ w.todo) ∧
    (∀ e a, coherent a = true → m.byteAt e a = m.byteAt d a) ∧
    (∀ k m1, d = spadDie k → m1 = m.spadStore d k bs q → m1.clk d d = m.clk d d + 1 ∧
      (∀ i, i < bs.length → Memory.byte m1.spad (k + i) = bs.getD i 0 ∧ SMap.get ({} : Held) m1.spadHeld (k + i) = m1.last d) ∧
      (∀ a, a < k ∨ k + bs.length ≤ a → Memory.byte m1.spad a = Memory.byte m.spad a ∧
        SMap.get ({} : Held) m1.spadHeld a = SMap.get ({} : Held) m.spadHeld a)) ∧
    (∀ (k : ℕ) (x : Byte), d ≠ spadDie k → spadDie k < 64 → ∀ h, h = (m.pass d).last d →
      Memory.byte (m.spadStore d k [x] q).spad k = (if keyOf (SMap.get ({} : Held) m.spadHeld k).src (SMap.get ({} : Held) m.spadHeld k).stamp <
        keyOf d h.stamp then x else Memory.byte m.spad k)) ∧
    (∀ (e : ℕ) (w : Write) (a : ℕ), e < 64 → w.pa + w.bytes.length ≤ 2 ^ 52 → w.pa ≤ a → a < w.pa + w.bytes.length →
      (m.applyAt e w).byteAt e a = if keyOf (SMap.get ({} : Held) m.held (vkey e a)).src (SMap.get ({} : Held) m.held (vkey e a)).stamp < keyOf w.src w.stamp
        then w.bytes.getD (a - w.pa) 0 else m.byteAt e a) ∧
    (∀ (e : ℕ) (w u : Write) (a : ℕ), e < 64 → a < 2 ^ 52 → w.pa + w.bytes.length ≤ 2 ^ 52 → u.pa + u.bytes.length ≤ 2 ^ 52 →
      keyOf w.src w.stamp ≠ keyOf u.src u.stamp → ((m.applyAt e w).applyAt e u).byteAt e a = ((m.applyAt e u).applyAt e w).byteAt e a)

/-- R22, R24, R68, R73, R91, R93, R101, R167, R179, R375: a higher-priority context takes the core, a die applies the next write
of a source once its causal past, and the write at its location's home, is there, another module's operation is done at the
location's home and its answer leaves for that module, a load-block's lines
and then its completion word land, a walk leaves its entry unless its range drains, a translation reaches its tx register, a
vector command lands. -/
def Obligations.MemoryEvents : Prop :=
  ∀ s : State,
    (∀ core c b, s.m.allConts.find? (fun c => c.id ≠ 0 && c.resident && c.gcore == core && c.state == 2) = some c → s.m.pickOf core = some b →
      (min b.prio.toNat 7 ≤ min c.prio.toNat 7 ∨ c.queue ≠ [] → exec (.pickerPreemptContext core) s = .next (s.after s.m)) ∧
      (min c.prio.toNat 7 < min b.prio.toNat 7 → c.queue = [] → c.poisoned = false → ∀ m1 : Mach, m1 = s.m.recordCont { c with state := 1, since := s.m.order } →
        exec (.pickerPreemptContext core) s = .next (s.after (({ m1 with order := m1.order + 1 } : Mach).pick core)))) ∧
    (∀ die src w, s.m.mem.flight.find? (fun w => decide (w.src = src) && w.todo.contains die) = some w →
      exec (.writeApplyAtDie die src) s = .next (s.after (if
        die ∈ w.todo ∧ SMap.get 0 w.stamp w.src = s.m.mem.clk die w.src + 1 ∧ (∀ p ∈ w.stamp, p.1 = w.src ∨ p.2 ≤ s.m.mem.clk die p.1) ∧
          (w.bytes = [] ∨ die = homeOf w.pa ∨ homeOf w.pa ∉ w.todo)
        then s.m.withMem (s.m.mem.arrive die w) else s.m))) ∧
    (∀ (src : Byte) op (pa : BitVec 52) wd uns v cmp n old (x : Mem), n = (if wd then 8 else 4) → pa.toNat % n = 0 → s.m.paFault pa.toNat = none →
      x = s.m.mem.gather (homeOf pa.toNat) → x.marked (homeOf pa.toNat) pa.toNat = false → old = leNat (x.read (homeOf pa.toNat) pa.toNat n) →
      ∀ m1 : Mach, m1 = (match (amoNew op n uns old v.toNat cmp.toNat).1 with
        | some y => s.m.withMem (x.write (homeOf pa.toNat) pa.toNat (leBytes n y) false)
        | none => s.m.withMem x) →
      exec (.strongOperationAtHome src op pa wd uns (v, cmp)) s = .next (s.after (m1.sendTo 1 src.toNat (.strong pa.toNat (toW old))))) ∧
    (∀ id c k b, s.m.cont? id = some c → vget c.blocks k none = some b → k < 8 → b.filled = false → b.dirty = List.replicate b.data.length false →
      b.data.length = 64 * b.pas.length →
      ∃ m1 c1 b1, exec (.loadBlockFillComplete id k) s = .next (s.after m1) ∧ m1.cont? id = some c1 ∧ vget c1.blocks k none = some b1 ∧
        b1.filled = true ∧ b1.data = (b.pas.map fun pa => s.m.mem.read c.die pa 64).flatten ∧
        m1.mem = s.m.mem.spadWrite b.cword (leBytes 8 b.cval.toNat) false) ∧
    (∀ die task t va e, s.m.task? task = some t → canonical va = true → t.entry.inHeap va = false →
      (s.m.draining t.ctx va = true → exec (.pageWalkComplete die task va) s = .next (s.after s.m)) ∧
      (s.m.draining t.ctx va = false → s.m.walkEntry die t va = some e → s.m.drainsOn t.ctx e.va.toNat e.len = true →
        exec (.pageWalkComplete die task va) s = .next (s.after s.m)) ∧
      (s.m.draining t.ctx va = false → s.m.walkEntry die t va = some e → s.m.drainsOn t.ctx e.va.toNat e.len = false →
        exec (.pageWalkComplete die task va) s = .next (s.after { s.m with
        tlb := (s.m.tlb.filter fun x => !(x.die == die && x.ctx == t.ctx && overlaps x.va.toNat x.len e.va.toNat e.len)) ++ [e] }))) ∧
    (∀ id c n p t, s.m.cont? id = some c → (vget c.tx n {}).pend = some p → p.redo = false → p.dest = none → s.m.task? c.task = some t →
      exec (.translationComplete id n) s = .next (s.after (s.m.setCont (c.setTx n { vget c.tx n {} with
        word := toW (2 ^ 63 + (if p.wr then 2 ^ 62 else 0) + p.size.toNat * 2 ^ 60 + p.pa), rd := p.rd, pend := none })))) ∧
    (∀ id c v rest, s.m.cont? id = some c → c.vpend = v :: rest → exec (.vectorCommandCompletion id) s = .next (s.after (s.m.landV c v)) ∧
      (∀ c1, (s.m.landV c v).cont? id = some c1 → c1.vpend = rest) ∧
      (s.m.landV c v).mem = v.writes.foldl (fun x w => x.spadWrite w.key w.bytes w.poison) s.m.mem)

/-- R11, R79, R137, R220, R222, R248: the job a channel takes starts while one of the 64 channels is free; a DCOPY of one row in
one granule lands where its card says; a
landed job's follow-on enters tile queue 1 once its counter has reached thr, which then falls by thr; a full queue, too low
a counter or a sequencer run makes it wait; an answer reaches its register. -/
def Obligations.JobEvents : Prop :=
  ∀ s : State,
    (∀ die j, s.m.nextOnDie die = some j → s.m.channelsUsed die < 64 →
      exec (.jobChannelStart die) s = .next (s.after (s.m.setJob { j with st := .started })) ∧ j.die = die ∧ j.st = .queued) ∧
    (∀ die, s.m.nextOnDie die = none ∨ 64 ≤ s.m.channelsUsed die → exec (.jobChannelStart die) s = .next (s.after s.m)) ∧
    (∀ n j c t ps rs qs (x : Mem) (k : Card), s.m.job? n = some j → s.m.cont? j.cont = some c → j.st = .started → j.op = 0 → s.m.jobBlocked j = false →
      c.resident = true → s.m.exnBefore j = false → s.m.task? j.task = some t → k = j.card → k.dport = false → k.kflags = 0 → k.rows = 1 →
      k.radv = false → k.aincEn = false → k.cmpl = false → k.fol = false → j.follow = false → k.sspace = true → k.dspace = true → 1 ≤ k.rbytes → k.dst % 64 + k.rbytes ≤ 64 →
      s.m.resolveTask j.die t (toW k.src) k.rbytes .read = .ok ps → x = s.m.mem.observe j.die ps →
      (s.m.withMem x).resolveTask j.die t (toW k.src) k.rbytes .read = .ok rs → (s.m.withMem x).resolveTask j.die t (toW k.dst) k.rbytes .write = .ok qs →
      x.markParts j.die rs = none →
      ∃ m1, exec (.jobCompletion n) s = .next (s.after m1) ∧
        m1.mem = x.landParts j.die qs (x.readParts j.die rs) false ∧ m1.jobs = s.m.jobs.filter fun x => x.id ≠ j.id) ∧
    (∀ n j c v, s.m.job? n = some j → s.m.cont? j.cont = some c → v = (vget c.mx.ac j.ac.toNat 0).toNat →
      (j.st ≠ .landed ∨ j.follow = false ∨ c.resident = false ∨ v < j.card.thr ∨ 8 ≤ c.mx.tq1.length ∨ s.m.runHolds c = true →
        exec (.followOnIssue n) s = .next (s.after s.m)) ∧
      (j.st = .landed → j.follow = true → c.resident = true → j.card.thr ≤ v → c.mx.tq1.length < 8 → s.m.runHolds c = false →
        ∃ m1 c1 e, exec (.followOnIssue n) s = .next (s.after m1) ∧ m1.cont? j.cont = some c1 ∧ c1.mx.tq1 = c.mx.tq1 ++ [e] ∧
          e.mx = BitVec.ofNat 64 j.card.follow ∧ e.fmt = j.fmt ∧ vget c1.mx.ac j.ac.toNat 0 = BitVec.ofNat 32 (v - j.card.thr) ∧
          m1.jobs = s.m.jobs.filter fun x => x.id ≠ n)) ∧
    (∀ id c a v d, s.m.cont? id = some c → c.answers.find? (fun a => a.value.isSome) = some a → a.value = some v → a.d = d → d.toNat < 24 →
      d ≠ 0 → c.resident = true → s.m.thiefOf c.task c.team.toNat = none →
      exec (.spawnAnswer id) s = .next (s.after (s.m.setCont { c with
        answers := c.answers.erase a, g := vset c.g d.toNat v, gPoison := vset c.gPoison d.toNat none })))

/-- R52 to R58, R73, R79, R230, R234, R398, R401: the events of exit notices, exit states, fills, staging and the store act on
the next thing of their kind, wait while its pages drain, and change nothing where there is none; a request waits once; a
notice for a slot that is not valid is answered, logged and refused; a state goes to the record of the notice it follows; an
absent position's reader fails once FILLTO of its die's cycles has passed. -/
def Obligations.ExitAndFillEvents : Prop :=
  ∀ s : State,
    (∀ die w, (∀ n ∈ s.m.notices, n.die ≠ die) → noticeOk (putBits w.toNat 15 0 0) = false →
      exec (.exitNoticeReceive die none) s = .next (s.after s.m) ∧ exec (.exitNoticeReceive die (some w)) s = .next (s.after s.m)) ∧
    (∀ die n, s.m.notices.find? (fun n => n.die == die) = some n →
      (s.m.noticeHeld n = false → exec (.exitNoticeReceive die none) s = .next (s.after (({ s.m with notices := s.m.notices.erase n } : Mach).receiveNotice n))) ∧
      (s.m.noticeHeld n = true → exec (.exitNoticeReceive die none) s = .next (s.after s.m))) ∧
    (∀ die w n, n = ({ die := die, word := w, job := none, state := none } : Notice) → noticeOk (putBits w.toNat 15 0 0) = true →
      exec (.exitNoticeReceive die (some w)) s = .next (s.after (if s.m.noticeHeld n then { s.m with notices := s.m.notices ++ [n] } else s.m.receiveNotice n))) ∧
    (∀ (m : Mach) (n : Notice) src, (∀ d, m.die d = {}) → m.slotArena? n.die (n.word.toNat / 2 ^ 40 % 2 ^ 8) = none → n.job = none → src = n.word.toNat / 2 ^ 8 % 2 ^ 8 →
      m.receiveNotice n = ((m.sendTo 1 src (.noticeDone n.word)).logNotice n.die n.word.toNat 0).sendTo 1 src (.refusal n.word)) ∧
    (∀ die, (∀ x ∈ s.m.exitStates, x.die = die → x.job = none) → exec (.exitStateArrival die none) s = .next (s.after s.m)) ∧
    (∀ die w bs q, (∀ x ∈ s.m.exitStates, x.die = die → x.job = none → x.word ≠ w) →
      exec (.exitStateArrival die (some (w, bs, q))) s = .next (s.after s.m)) ∧
    (∀ die x e r m1, s.m.exitStates.find? (fun x => x.die == die && x.job.isSome) = some x → x.recIdx = some r →
      s.m.slotEntry? die x.slot = some e → m1 = ({ s.m with exitStates := s.m.exitStates.erase x } : Mach) →
      (x.bytes.length = e.hidden * e.elem → exec (.exitStateArrival die none) s = .next (s.after (m1.landState x e r x.bytes))) ∧
      (x.bytes.length ≠ e.hidden * e.elem → exec (.exitStateArrival die none) s = .next (s.after (m1.refuseNotice x.job x.word)))) ∧
    (∀ die w bs q x e r m1, s.m.exitStates.find? (fun x => x.die == die && (x.job.isNone && x.word == w)) = some x → x.recIdx = some r →
      s.m.slotEntry? die x.slot = some e → m1 = ({ s.m with exitStates := s.m.exitStates.erase x } : Mach) →
      (bs.length = e.hidden * e.elem →
        exec (.exitStateArrival die (some (w, bs, q))) s = .next (s.after (m1.landState { x with bytes := bs, poison := q } e r bs))) ∧
      (bs.length ≠ e.hidden * e.elem → exec (.exitStateArrival die (some (w, bs, q))) s = .next (s.after (m1.refuseNotice x.job x.word)))) ∧
    (∀ n j, s.m.job? n = some j → (j.op = 12 ∧ j.sent = true ∧ (j.refused = true ∨ j.card.kspec % 2 ^ 8 ≠ s.m.modIndex) →
        exec (.exnRefusal n) s = .next (s.after (s.m.jobEnds j { cause := 0x4005, info := toW j.cardOff }))) ∧
      (j.op ≠ 12 ∨ j.sent = false → exec (.exnRefusal n) s = .next (s.after s.m))) ∧
    (∀ k slot layer first count, k < 256 → s.m.kvrdAsks k = some (slot, layer, first, count) →
      (∀ x ∈ s.m.reads, ¬(x.who = .seq k ∧ x.slot = slot ∧ x.layer = layer ∧ x.first = first ∧ x.count = count)) →
      exec (.attentionReadRequest (2 ^ 32 + k) slot layer first count) s = .next (s.after { s.m with
        reads := s.m.reads ++ [{ who := .seq k, slot := slot, layer := layer, first := first, count := count, began := s.m.cyc (k / 4) }] })) ∧
    (∀ slot layer pos, (∀ r ∈ s.m.reads, r.waitsOn slot layer pos = false) → exec (.darnFill slot layer pos) s = .next (s.after s.m)) ∧
    (∀ slot layer pos r e a ps h x v m1 m2, s.m.reads.find? (fun r => r.waitsOn slot layer pos) = some r → ∀ die, die = s.m.readerDie r.who →
      s.m.slotArena? die slot = some (e, a) → s.m.slotHeld die slot = false → s.m.fillHeld die e a layer pos = false →
      s.m.headerParts die e a layer pos = some ps → m1 = s.m.homePrep die ps false → h = m1.homeRead ps →
      leAt h 0 2 / 2 ^ (pos % 16) % 2 = 0 → leAt h 2 2 / 2 ^ (pos % 16) % 2 = 0 → x = fsrcOf h (pos % 16) → x ≠ 0xFFFF → x < e.recs →
      leNat (m1.homeRead [(e.recordPa x, 8)]) % 2 = 1 → m2 = (m1.homePrep die [(e.recordPa x, 8)] false).homeAcquire die [(e.recordPa x, 8)] →
      m2.fillValue die e a layer pos x = some v →
      ∃ m3, exec (.darnFill slot layer pos) s = .next (s.after m3) ∧ m3.fills = m2.fills ++
        [{ die := die, slot := slot, layer := layer, pos := pos, recIdx := x, k := v.1, v := v.2.1, poison := v.2.2, hdr := ps }]) ∧
    (∀ slot layer pos r e a die, s.m.reads.find? (fun r => r.waitsOn slot layer pos) = some r → die = s.m.readerDie r.who →
      s.m.slotArena? die slot = some (e, a) → s.m.slotHeld die slot = true ∨ s.m.fillHeld die e a layer pos = true →
      exec (.darnFill slot layer pos) s = .next (s.after s.m)) ∧
    (∀ slot layer pos, s.m.fills.find? (fun f => f.slot == slot && f.layer == layer && f.pos == pos) = none →
      exec (.darnFillComplete slot layer pos) s = .next (s.after s.m)) ∧
    (∀ slot layer pos f, s.m.fills.find? (fun f => f.slot == slot && f.layer == layer && f.pos == pos) = some f →
      exec (.darnFillComplete slot layer pos) s = .next (s.after (s.m.fillDone slot layer pos)) ∧
      (s.m.slotArena? f.die slot = none → (s.m.fillDone slot layer pos).fills = s.m.fills.erase f)) ∧
    (∀ n pos r j, n < 2 ^ 32 → s.m.job? n = some j → r ∈ s.m.reads → r.who = .job n → r.first ≤ pos → pos < r.first + r.count →
      s.m.regs.fillto.toNat < s.m.cyc j.die - r.began → s.m.slotHeld j.die r.slot = false →
      (s.m.slotArena? j.die r.slot = none ∨ ∃ e a, s.m.slotArena? j.die r.slot = some (e, a) ∧ s.m.present j.die e a r.slot r.layer pos 1 = none) →
      exec (.fillTimeout n pos) s = .next (s.after (s.m.jobEnds j { cause := 0x4004, info := toW j.cardOff }))) ∧
    (∀ n pos, (∀ r ∈ s.m.reads, r.began + s.m.regs.fillto.toNat ≥ s.m.cyc (s.m.readerDie r.who)) → exec (.fillTimeout n pos) s = .next (s.after s.m)) ∧
    (∀ n, s.m.job? n = none → exec (.stagingBufferSelect n) s = .next (s.after s.m)) ∧
    (∀ n, exec (.stagingBufferSelect n) s = .next (s.after (s.m.selectBuffer n))) ∧
    (s.m.skein = [] → exec .skeinOperationExecute s = .next (s.after s.m)) ∧
    exec .skeinOperationExecute s = .next (s.after s.m.walkStore)

/-- R28, R31, R36, R37, R41, R74, R276 to R287, R392, R394: a task is released once it follows nothing and has its table entry;
leased, with its continuations, once its pages can be held; of the teams that wait on a die, in the order served (after a
time-slice the one that waited longest), the first becomes resident on the cores R281 chooses, or its task ends where it may
not, or it pre-empts, or the next is tried; a leaving team goes out once idle and comes back in its turn; a completed task
ends; a deadline passes in the cycles of the task's accepting die. -/
def Obligations.SchedulerEvents : Prop :=
  ∀ s : State,
    (∀ q t, s.m.task? q = some t → t.stage = .ordering →
      ((s.m.predecessors t).isEmpty = false ∨ t.entered = false → exec (.taskOrderingRelease q) s = .next (s.after s.m)) ∧
      ((s.m.predecessors t).isEmpty = true → t.entered = true → ∃ m1, exec (.taskOrderingRelease q) s = .next (s.after m1) ∧
        m1.task? q = some { t with stage := .leasing })) ∧
    (∀ q t, s.m.task? q = some t → t.stage = .leasing → (s.m.canLease t = false → exec (.taskLeasing q) s = .next (s.after s.m)) ∧
      (s.m.canLease t = true → (∀ c ∈ s.m.allConts, c.id ≠ 0 → c.task ≠ q) → ∃ m1, exec (.taskLeasing q) s = .next (s.after m1) ∧
        m1.task? q = some { t with leased := true, stage := .dispatch } ∧
        m1.conts.length = s.m.conts.length + t.teams * t.size ∧ m1.teams.length = s.m.teams.length + t.teams)) ∧
    (∀ die m1 l, m1 = s.m.retireTeams die → l = m1.dispatchOrder die →
      (∀ t ∈ l, t ∈ m1.teams ∧ t.die = die ∧ (t.res = .waiting ∨ t.res = .out ∨ t.res = .parked) ∧ m1.mayReside t = true) ∧
      ((m1.die die).owed = true → l = (longestWaiting (m1.waitersOn die)).toList) ∧
      (l = [] → exec (.teamDispatch die) s = .next (s.after m1)) ∧
      (∀ t r, l = t :: r →
        (∀ k, m1.admitCheck t = some k → exec (.teamDispatch die) s = .next (s.after (m1.failTeam t k))) ∧
        (∀ cores, m1.admitCheck t = none → m1.coresFor t = some cores → exec (.teamDispatch die) s = .next (s.after (m1.makeResident t cores)) ∧
          ∀ u, (m1.makeResident t cores).team? t.task t.idx = some u → u.res = .resident) ∧
        (m1.admitCheck t = none → m1.coresFor t = none →
          (∀ x, (m1.task? t.task).bind (fun k => m1.preempt die k) = some x → exec (.teamDispatch die) s = .next (s.after x)) ∧
          ((m1.task? t.task).bind (fun k => m1.preempt die k) = none →
            exec (.teamDispatch die) s = .next (s.after (m1.dispatchGo die r)))))) ∧
    (∀ q n t d k, s.m.team? q n = some t → t.res = .leaving d k → (s.m.teamIdle t = false → exec (.teamSwapOut q n) s = .next (s.after s.m)) ∧
      (s.m.teamIdle t = true → exec (.teamSwapOut q n) s = .next (s.after (s.m.swapOut t (if k then .parked else .out))))) ∧
    (∀ q n t m1 r, s.m.team? q n = some t → m1 = s.m.retireTeams t.die → m1.dispatchOrder t.die = t :: r → t.res = .out ∨ t.res = .parked →
      (∀ k, m1.admitCheck t = some k → exec (.teamSwapIn q n) s = .next (s.after (m1.failTeam t k))) ∧
      (∀ cores, m1.admitCheck t = none → m1.coresFor t = some cores → exec (.teamSwapIn q n) s = .next (s.after (m1.makeResident t cores)))) ∧
    (∀ die, s.m.cyc die < (s.m.die die).quantumEnd → exec (.sliceQuantumExpiry die) s = .next (s.after s.m)) ∧
    (∀ die m1, (s.m.die die).quantumEnd ≤ s.m.cyc die → m1 = s.m.setDie die { s.m.die die with quantumEnd := s.m.cyc die + (s.m.die die).sliceq.toNat } →
      (∀ t ∈ m1.teams, t.die = die → t.res ≠ .resident) ∨ m1.waitersOn die = [] → exec (.sliceQuantumExpiry die) s = .next (s.after m1)) ∧
    (∀ q n t d k, s.m.team? q n = some t → t.res = .leaving d k → s.m.teamIdle t = false →
      (d + 16 * (s.m.die t.die).sliceq.toNat ≤ s.m.cyc t.die → exec (.swapAbandonTimeout q n) s = .next (s.after (s.m.abandonSwap t k))) ∧
      (s.m.cyc t.die < d + 16 * (s.m.die t.die).sliceq.toNat → exec (.swapAbandonTimeout q n) s = .next (s.after s.m))) ∧
    (∀ q t, s.m.task? q = some t → (s.m.taskDone t = false → exec (.taskCompletion q) s = .next (s.after s.m)) ∧
      (s.m.taskDone t = true → (∀ c ∈ s.m.allConts, c.task = q → c.imprecise = none) → t.node = none → t.guest = none →
        exec (.taskCompletion q) s = .next (s.after (s.m.finishTask t)) ∧ ∃ t1, (s.m.finishTask t).task? q = some t1 ∧ t1.tstate = 3 ∧
          t1.stage = .ended ∧ t1.leased = false ∧ t1.resv = [])) ∧
    (∀ q t e, s.m.task? q = some t → t.deadline = some e →
      (∀ g ∈ s.m.graphs, nodesName g.nodes q = false ∧ ∀ r, g.pend = some r → nodesName r.nodes q = false) →
      (s.m.cyc t.accDie ≤ e → exec (.deadlineOverrun q) s = .next (s.after s.m)) ∧
      (e < s.m.cyc t.accDie → t.stage ≠ .ended → s.m.taskDone t = false → ∃ m1 t1, exec (.deadlineOverrun q) s = .next (s.after m1) ∧
        m1.task? q = some t1 ∧ t1.deadline = none ∧ t1.resv = [] ∧
        (t.accDie < 64 → (m1.die t.accDie).ovrn = (s.m.die t.accDie).ovrn + 1))) ∧
    (∀ q g e d, s.m.graphs.find? (fun g => g.running && nodesName g.nodes q) = some g → g.deadline = some e → d = acceptingDie g.nodes →
      (s.m.cyc d ≤ e → exec (.deadlineOverrun q) s = .next (s.after s.m)) ∧
      (e < s.m.cyc d → exec (.deadlineOverrun q) s = .next (s.after ((s.m.endReplayBound g).overran d g.ctx q))))

/-- R289 to R293, R395 to R397: STOP holds a context's sources, lets the entries rung before it be read, and passes its phases;
the Bobbin token is dropped when old, held, sent on to the next module with this module's load when BOBHOLD has passed, and
made again by the lowest module reached when lost; a stolen team's whole image becomes a team that waits here, and its origin
hears of it; the accesses of a team that another module has stolen are performed here, behind that module's notices. -/
def Obligations.StopAndStealEvents : Prop :=
  ∀ s : State,
    (∀ ctx, s.m.regs.stopPhase = 0 → s.m.regs.stopReq = false → ctx.toNat < s.m.regs.ctxcnt.toNat →
      exec (.stopBegin ctx) s = .next (s.after { s.m with regs := { s.m.regs with stopReq := true, stopCtx := ctx } })) ∧
    (∀ ctx, s.m.regs.stopPhase ≠ 0 ∨ s.m.regs.stopReq = true → exec (.stopBegin ctx) s = .next (s.after s.m)) ∧
    (s.m.regs.stopPhase = 0 → exec .stopResume s = .next (s.after { s.m with regs := { s.m.regs with stopReq := false } })) ∧
    (s.m.regs.stopPhase = 1 ∨ s.m.regs.stopPhase = 2 → exec .stopResume s = .next (s.after s.m)) ∧
    (s.m.regs.stopPhase = 3 → ∃ m1, exec .stopResume s = .next (s.after m1) ∧
      (s.m.graphs = [] → m1.regs.stopPhase = 0 ∧ m1.regs.stopReq = false ∧
        ∀ t ∈ m1.teams, t.res = .parked → (s.m.task? t.task).map Task.ctx ≠ some s.m.regs.stopCtx)) ∧
    (s.m.regs.stopReq = true → s.m.regs.stopPhase = 0 → (∀ p ∈ s.m.queues, p.2.unread s.m.regs.stopCtx = false) →
      exec .stopSourcesStopped s = .next (s.after { s.m with regs := { s.m.regs with stopPhase := 1 } })) ∧
    (s.m.regs.stopPhase = 0 → (∃ p ∈ s.m.queues, p.2.unread s.m.regs.stopCtx = true) → exec .stopSourcesStopped s = .next (s.after s.m)) ∧
    (s.m.regs.stopReq = true → s.m.regs.stopPhase = 1 →
      exec .stopSourcesStopped s = .next (s.after { s.m with regs := { s.m.regs with stopPhase := 2, stopBegan := s.m.cyc 0 } })) ∧
    (s.m.regs.stopPhase = 2 → s.m.foreignExits s.m.regs.stopCtx = false → (∀ t ∈ s.m.ctxTasks s.m.regs.stopCtx, s.m.inFlight t.seq = false) →
      exec .stopDrainComplete s = .next (s.after s.m.stopCut) ∧ s.m.stopCut.regs.stopPhase = 3) ∧
    (s.m.foreignExits s.m.regs.stopCtx = true ∨ (∃ t ∈ s.m.ctxTasks s.m.regs.stopCtx, s.m.inFlight t.seq = true) →
      exec .stopDrainComplete s = .next (s.after s.m)) ∧
    (s.m.cyc 0 < s.m.regs.stopBegan + 16 * (s.m.die 0).sliceq.toNat → exec .stopDrainTimeout s = .next (s.after s.m)) ∧
    (s.m.regs.stopPhase = 2 → s.m.regs.stopBegan + 16 * (s.m.die 0).sliceq.toNat ≤ s.m.cyc 0 →
      ∃ m1, exec .stopDrainTimeout s = .next (s.after m1) ∧ m1.regs.stopPhase = 3) ∧
    (∀ (gen : W32) loads reqs, (gen.toNat < s.m.bobbin.gen → exec (.bobbinTokenArrival gen loads reqs) s = .next (s.after s.m)) ∧
      (s.m.bobbin.gen ≤ gen.toNat → ∃ m1, exec (.bobbinTokenArrival gen loads reqs) s = .next (s.after m1) ∧ m1.bobbin.held = true ∧
        m1.bobbin.gen = gen.toNat ∧ m1.bobbin.since = s.m.cyc 0 ∧ (s.m.modIndex, s.m.loadByte) ∈ m1.bobbin.loads)) ∧
    (s.m.bobbin.held = false ∨ s.m.cyc 0 < s.m.bobbin.since + s.m.regs.bobhold.toNat → exec .bobholdExpiry s = .next (s.after s.m)) ∧
    (∀ next loads, s.m.bobbin.held = true → s.m.bobbin.since + s.m.regs.bobhold.toNat ≤ s.m.cyc 0 → s.m.bobbin.reqs = [] →
      next = (s.m.modIndex + 1) % s.m.podSize → loads = (s.m.bobbin.loads.filter fun p => p.1 ≠ s.m.modIndex) ++ [(s.m.modIndex, s.m.loadByte)] →
      (next = s.m.modIndex → exec .bobholdExpiry s = .next (s.after { s.m with
        bobbin := { s.m.bobbin with loads := loads, reqs := [], since := s.m.cyc 0 } })) ∧
      (next ≠ s.m.modIndex → exec .bobholdExpiry s = .next (s.after (({ s.m with
        bobbin := { s.m.bobbin with held := false, loads := [], reqs := [], since := s.m.cyc 0 } } : Mach).sendTo 3 next
          (.token s.m.bobbin.gen loads []))))) ∧
    (∀ reach, s.m.bobbin.held = false → s.m.bobbin.since + 2 * s.m.podSize * s.m.regs.bobhold.toNat < s.m.cyc 0 →
      (∀ k, k < s.m.modIndex → reach / 2 ^ k % 2 = 0) → exec (.bobbinTokenRegeneration reach) s = .next (s.after { s.m with
        bobbin := { held := true, gen := s.m.bobbin.gen + 1, loads := [(s.m.modIndex, s.m.loadByte)], reqs := [], since := s.m.cyc 0 } })) ∧
    (∀ o d g n,
      ((∀ x ∈ s.m.inbound, x.origin = o → x.tag = g → x.members.length ≠ n) → exec (.stolenTeamArrival o d g n) s = .next (s.after s.m)) ∧
      (∀ x, s.m.inbound.find? (fun x => x.origin == o && x.tag == g && x.members.length == n) = some x → ∃ m1 t,
        exec (.stolenTeamArrival o d g n) s = .next (s.after m1) ∧
        m1.teams = s.m.teams ++ [{ task := t.seq, idx := x.team, die := d, size := n, res := .out, since := s.m.cyc d }] ∧ m1.tasks = s.m.tasks ++ [t] ∧
        t.guest = some { origin := o, task := x.task, team := x.team } ∧ m1.conts.length = s.m.conts.length + n ∧
        ∀ p, s.m.portTo o = some p → ∃ f ∈ m1.links, f.port = p ∧ f.lane = 2 ∧ f.dest = o ∧ f.body = .stealAck g)) ∧
    (∀ q n t k, s.m.team? q n = some t → t.res = .sending k → exec (.stealAcknowledge q n) s = .next (s.after (s.m.setTeam { t with res := .stolen k }))) ∧
    (∀ q n rk va z v t c k ps (x : Mem), s.m.task? q = some t → s.m.member? q n rk = some c → s.m.thiefOf q n = some k →
      (s.m.noticesFrom k = true → ∀ acc, exec (.stolenTeamAccess q n rk acc va z v) s = .next (s.after s.m)) ∧
      (s.m.noticesFrom k = false → 1 ≤ z → z ≤ 8 →
        (s.m.resolveTask c.die (c.leases t) va z .write = .ok ps → exec (.stolenTeamAccess q n rk .store va z v) s = .next (s.after
          (s.m.withMem (s.m.mem.writeParts c.die ps (leBytes z v.toNat) false)))) ∧
        (s.m.resolveTask c.die (c.leases t) va z .read = .ok ps → x = s.m.mem.observe c.die ps → x.markParts c.die ps = none →
          exec (.stolenTeamAccess q n rk .load va z v) s = .next (s.after ((s.m.withMem x).sendTo 2 k
            (.answer c.task c.team.toNat c.rank.toNat (toW (leNat (x.readParts c.die ps))) 0))))))

/-- R38 to R40, R246, R296 to R300, R305: a doorbell of its owner sets a queue's tail, another LD's is refused; an entry is
answered with its completion; queues are latched and closed; the host reads and writes HBM as an agent of die 0, and an
address outside the range it may reach ends the run; the firmware window takes words in Stage 0 alone; a held replay, once the
patches before it have taken effect, and a patch copy take effect. -/
def Obligations.HostEvents : Prop :=
  ∀ s : State,
    (∀ ld q tail x, x = s.m.queue q → x.en = true → s.m.portReady = true →
      (x.owner = ld → s.m.sourcesHeld x.submitter.ctx = false → exec (.doorbell ld q tail) s = .next (s.after (s.m.setQueue q { x with tail := tail }))) ∧
      (x.owner = ld → s.m.sourcesHeld x.submitter.ctx = true →
        exec (.doorbell ld q tail) s = .next (s.after (s.m.setQueue q { x with held := some tail }))) ∧
      (x.owner ≠ ld → exec (.doorbell ld q tail) s = .next (s.after
        (s.m.refuseHost 0x7002 (x.entry.toNat / 2 ^ 48 % 2 ^ 12) ld (16 * q) (tail.setWidth 64))))) ∧
    (∀ ld q head x, x = s.m.queue q → x.en = true → x.owner = ld →
      exec (.completionHeadWrite ld q head) s = .next (s.after (s.m.setQueue q { x with chead := head }))) ∧
    (∀ q, s.m.nextEntry q = none → ∀ i ∈ [Instr.submitTask q, .submitGraphReplay q, .patchCommit q], exec i s = .next (s.after s.m)) ∧
    (∀ q b sub a, s.m.nextEntry q = some b → sub = (s.m.queue q).submitter → a = toW (leAt b 8 8) →
      (leAt b 0 1 = 0 → entryForm b = true →
        (∀ m1 n, s.m.enrol sub a = (m1, .ok n) → exec (.submitTask q) s = .next (s.after (m1.putCompletion q b 0 0))) ∧
        (∀ m1 k, s.m.enrol sub a = (m1, .error k) → exec (.submitTask q) s = .next (s.after (m1.putCompletion q b 1 k)))) ∧
      (3 ≤ leAt b 0 1 → exec (.submitTask q) s = .next (s.after (s.m.putCompletion q b 2 0))) ∧
      (leAt b 0 1 = 1 → entryForm b = true → ∀ m1 r, s.m.requestReplay sub a = (m1, r) →
        (r = .started ∨ r = .held → exec (.submitGraphReplay q) s = .next (s.after (m1.putCompletion q b 0 0))) ∧
        (∀ k, r = .refused k → exec (.submitGraphReplay q) s = .next (s.after (m1.putCompletion q b 1 k)))) ∧
      (leAt b 0 1 = 2 → entryForm b = true → ∀ e, s.m.ctxEntryNow 0 sub.ctx = some e →
        (s.m.readReplay sub e a = none → exec (.patchCommit q) s = .next (s.after (s.m.putCompletion q b 1 0x0009))) ∧
        (∀ r x, s.m.readReplay sub e a = some r → x = s.m.enterGraph sub e a →
          exec (.patchCommit q) s = .next (s.after ((x.1.commitPatch x.2).putCompletion q b 0 0))))) ∧
    (∀ n g, s.m.graph? n = some g → (s.m.sourcesHeld g.ctx = false → exec (.replayStart n) s = .next (s.after (s.m.startReplay n))) ∧
      (g.running = true ∨ g.pend = none ∨ (∃ r, g.pend = some r ∧ r.afterPatch = true) → s.m.startReplay n = s.m) ∧
      (g.areaReady = true → exec (.patchAreaCopyDone n) s = .next (s.after s.m)) ∧
      (g.areaReady = false → exec (.patchAreaCopyDone n) s = .next (s.after (s.m.copyArea n)))) ∧
    (∀ (q : BitVec 11) e, e = leNat (s.m.mem.read 0 (s.m.regs.qcfgt.toNat + 32 * q.toNat) 32) →
      (s.m.entryOk e = false → exec (.qctlEnable q) s = .next (s.after { s.m with regs := { s.m.regs with
        qctl := toW (q.toNat + 2 ^ 15 + 2 ^ 16) } })) ∧
      (s.m.entryOk e = true → ∃ m1, exec (.qctlEnable q) s = .next (s.after m1) ∧ m1.queue q.toNat = { entry := BitVec.ofNat 256 e, en := true } ∧
        m1.regs.qctl = toW (q.toNat + 2 ^ 15)) ∧
      (∃ m1, exec (.qctlDisable q) s = .next (s.after m1) ∧ m1.queue q.toNat = { s.m.queue q.toNat with en := false })) ∧
    (∀ pa bs, (s.m.inHdm pa bs.length = true → exec (.hostCxlMemWrite pa bs) s = .next (s.after (s.m.withMem (s.m.mem.write 0 pa bs false)))) ∧
      (s.m.inHdm pa bs.length = false → exec (.hostCxlMemWrite pa bs) s = .fault .hostOutsideHdm)) ∧
    (∀ pa n, (s.m.inHdm pa n = true → exec (.hostCxlMemRead pa n) s = .next (s.after
        { s.m with out := s.m.out ++ [.hostData pa (s.m.mem.read 0 pa n) (s.m.mem.firstMark 0 pa n).isSome] })) ∧
      (s.m.inHdm pa n = false → exec (.hostCxlMemRead pa n) s = .fault .hostOutsideHdm)) ∧
    (∀ ld off v, (ld = 0 → s.m.regs.stage = 0 → s.m.regs.fwrun = false → off % 8 = 0 → off + 8 ≤ 6291456 →
        exec (.firmwareWindowWrite ld off v) s = .next (s.after (s.m.withMem (s.m.mem.spadWrite (skey 0 off) (leBytes 8 v.toNat) false)))) ∧
      (ld ≠ 0 ∨ s.m.regs.stage ≠ 0 ∨ s.m.regs.fwrun = true → exec (.firmwareWindowWrite ld off v) s = .next (s.after s.m))) ∧
    (∀ ld die x v, ld ≠ 0 → exec (.registerWrite ld die x v) s = .next (s.after (s.m.refuseHost 0x7001 0 ld (die * 0x10000 + x * 8) v))) ∧
    (∀ x v p, regInfo x = some (.module, p) → exec (.registerWrite 0 0 x v) s = .next (s.after (s.m.writeModReg x v))) ∧
    (∀ (n : BitVec 6) v x, s.m.cur.id ≠ 0 → rxOk s.m.cur v = true →
      x = vset (s.m.die s.m.cur.die).rx n.toNat { word := v &&& ~~~toW (1023 * 2 ^ 53), task := s.m.cur.task, team := s.m.cur.team.toNat, rank := s.m.cur.rank.toNat } →
      exec (.rxregWrite n v) s = .next (s.after (s.m.setDie s.m.cur.die { s.m.die s.m.cur.die with rx := x })))

/-- R304 to R308, R355, R356, R379, R380, R383, R393, R406 to R418: power, firmware and the stages move the module as R304 and
R305 list; a scalar run starts in Stage 0; resets take the module or a die back; the arbiter decides a claim by the first
claimant; a tripped or failed die ends the tasks on it; errors mark, count or end what they hit; a port that goes down is
out of use. -/
def Obligations.PowerAndErrorEvents : Prop :=
  ∀ s : State,
    (s.m.regs.powered = true → exec .powerGood s = .next (s.after s.m)) ∧
    (s.m.regs.powered = false → ∃ m1, exec .powerGood s = .next (s.after m1) ∧ m1.regs = {} ∧ m1.conts = [] ∧ m1.tasks = [] ∧ m1.mem = {}) ∧
    (∃ m1, exec .powerLost s = .next (s.after m1) ∧ m1.regs.powered = false ∧ m1.mem = {} ∧ m1.tasks = []) ∧
    (s.m.regs.stage = 0 → s.m.regs.fwrun = false → ∃ m1, exec .fwcmdAuthenticate s = .next (s.after m1) ∧ m1.regs.fwrun = true ∧
      m1.regs.fwstat.toNat % 2 ^ 8 = 1) ∧
    (s.m.regs.stage ≠ 0 → exec .fwcmdAuthenticate s = .next (s.after s.m)) ∧
    (∀ r code, s.m.regs.fwrun = true → 4096 ≤ s.m.regs.fwlen.toNat → s.m.regs.fwlen.toNat ≤ 6291456 →
      (r, code) ∈ [(FwResult.passed, 2), (.badSignature, 3), (.badVersion, 4), (.badLength, 5)] →
      ∃ m1, exec (.authenticationComplete r) s = .next (s.after m1) ∧ m1.regs.fwrun = false ∧ m1.regs.fwstat.toNat % 2 ^ 8 = code ∧
        (r = .passed → m1.regs.stage = 1 ∧ (∀ d, m1.cyc d = 0) ∧ m1.regs.withheld = s.m.regs.dieoff) ∧ (r ≠ .passed → m1.regs.stage = s.m.regs.stage)) ∧
    (s.m.regs.stage = 1 → exec (.stage1Complete none) s = .next (s.after { s.m with regs := { s.m.regs with stage := 2 } }) ∧
      ∀ code dies, ∃ m1, exec (.stage1Complete (some (code, dies))) s = .next (s.after m1) ∧ m1.regs.stage = 0 ∧ m1.regs.failCode = code ∧
        m1.tasks = [] ∧ m1.mem = {}) ∧
    (s.m.regs.stage = 2 → s.m.regs.ready = false → ∀ chips dies, (∃ m1, exec (.stage2Complete none chips) s = .next (s.after m1) ∧ m1.regs.ready = true ∧
        m1.seqs = []) ∧
      ∃ m1, exec (.stage2Complete (some dies) chips) s = .next (s.after m1) ∧ m1.regs.stage = 0 ∧ m1.regs.failCode = 0x20 ∧ m1.regs.sfail = dies) ∧
    (∀ v, s.m.regs.stage = 0 → (∀ c ∈ s.m.allConts, c.stage0 = false) → ∃ m1 c, exec (.scrunStart v) s = .next (s.after m1) ∧
      m1.conts = s.m.conts ++ [c] ∧ c.stage0 = true ∧ c.pc.toNat = v.toNat % 2 ^ 23 ∧ c.sysMode = false ∧ c.state = 1) ∧
    (∀ v, s.m.regs.stage ≠ 0 → exec (.scrunStart v) s = .next (s.after s.m)) ∧
    (∀ v m1, m1 = s.m.moduleReset → m1.regs = { dieoff := s.m.regs.dieoff, failCode := 0x40 } ∧ m1.tasks = [] ∧ m1.mem = {} ∧
      exec .cxlReset s = .next (s.after m1) ∧ (v.toNat % 2 ^ 16 = 0x4D52 → exec (.mrstModuleReset v) s = .next (s.after m1)) ∧
      (v.toNat % 2 ^ 16 ≠ 0x4D52 → exec (.mrstModuleReset v) s = .next (s.after s.m))) ∧
    (∀ d, d ≠ 0 → d < 64 → (s.m.die d).rstat ≠ 1 → s.m.isWithheld d = false →
      (s.m.mapElig d = true → exec (.drstDieReset d) s = .next (s.after (s.m.setDie d { s.m.die d with rstat := 3 }))) ∧
      (s.m.mapElig d = false → (∀ t ∈ s.m.teams, t.die ≠ d) → (s.m.die d).tripped = false →
        exec (.drstDieReset d) s = .next (s.after (s.m.setDie d { s.m.die d with rstat := 1 })))) ∧
    (∀ d, d = 0 → exec (.drstDieReset d) s = .next (s.after s.m)) ∧
    (∀ d, d < 64 → ((s.m.die d).rstat ≠ 1 → exec (.dieResetComplete d) s = .next (s.after s.m)) ∧
      ((s.m.die d).rstat = 1 → ∃ m1, exec (.dieResetComplete d) s = .next (s.after m1) ∧ (m1.die d).rstat = 2 ∧ (m1.die d).failed = false ∧
        (∀ e ∈ m1.tlb, e.die ≠ d))) ∧
    (∀ h page,
      (∀ c, s.m.claimOf page = some c →
        (exec (.migreqClaim h page) s = .next (s.after (if c.host = h then s.m.migResult h page 3 else
          ({ s.m with claims := s.m.claims.map fun x => if x.page = page then { x with contested := true } else x } : Mach).migResult h page 1))) ∧
        (exec (.migreqCommit h page) s = .next (s.after (s.m.migResult h page (if c.host = h then (if c.contested then 1 else 0) else 3)))) ∧
        (exec (.migreqRelease h page) s = .next (s.after (if c.host = h then
          ({ s.m with claims := s.m.claims.filter fun x => x.page ≠ page } : Mach).migResult h page 2 else s.m.migResult h page 3)))) ∧
      (s.m.claimOf page = none → s.m.claims.length < 64 → exec (.migreqClaim h page) s = .next (s.after
        (({ s.m with claims := s.m.claims ++ [{ page := page, host := h, contested := false }] } : Mach).migResult h page 0))) ∧
      (s.m.claimOf page = none → 64 ≤ s.m.claims.length → exec (.migreqClaim h page) s = .next (s.after (s.m.migResult h page 3))) ∧
      (s.m.claimOf page = none → exec (.migreqCommit h page) s = .next (s.after (s.m.migResult h page 3)))) ∧
    (∀ d w θ, d < 64 → s.m.isWithheld d = false → ∃ x : Die, exec (.powerWindowCheck d w θ) s = .next (s.after (s.m.setDie d x)) ∧
      x.pwrstat.toNat = w % 2 ^ 16 + θ % 2 ^ 16 * 2 ^ 16 + (if (if θ < (s.m.die d).thrm.toNat % 2 ^ 16 then (s.m.die d).pwrcap.toNat
        else max 50 ((s.m.die d).pwrcap.toNat - (θ - (s.m.die d).thrm.toNat % 2 ^ 16))) < w then 2 ^ 32 else 0) ∧
      { x with pwrstat := (s.m.die d).pwrstat } = s.m.die d) ∧
    (∀ d, d < 64 → s.m.isWithheld d = false →
      ((s.m.die d).temp < (s.m.die d).thrm.toNat / 2 ^ 16 % 2 ^ 16 → exec (.thermalTrip d) s = .next (s.after s.m)) ∧
      ((s.m.die d).thrm.toNat / 2 ^ 16 % 2 ^ 16 ≤ (s.m.die d).temp → exec (.thermalTrip d) s = .next (s.after
        ((s.m.setDie d { s.m.die d with tripped := true }).failDie d 0x32)))) ∧
    (∀ (m : Mach) code, (m.failDie 0 code).regs.stage = 0 ∧ (m.failDie 0 code).regs.failCode = code ∧ (m.failDie 0 code).tasks = []) ∧
    (∀ k n, k < 8 → n = vget s.m.regs.softcnt k 0 → exec (.correctedError k) s = .next (s.after { s.m with
      regs := { s.m.regs with softcnt := vset s.m.regs.softcnt k (if n = BitVec.allOnes 64 then n else n + 1) } })) ∧
    (∀ pa d, s.m.paFault pa = none → d < 64 → pa < 2 ^ 52 → ∃ m1, exec (.uncorrectableError (.memory pa)) s = .next (s.after m1) ∧
      m1.mem.marked d pa = true ∧ m1.mem.view = s.m.mem.view) ∧
    (∀ id c, s.m.cont? id = some c → c.id ≠ 0 → c.state.toNat < 6 → exec (.uncorrectableError (.contextState id)) s = .next (s.after
      (s.m.reportEnd c (c.report { cause := 0x6001 } 7 0)))) ∧
    (∀ d, d < 64 → exec (.uncorrectableError (.dieControl d)) s = .next (s.after (s.m.failDie d 0x31))) ∧
    (∀ code, exec (.uncorrectableError (.moduleControl code)) s = .next (s.after (s.m.toStage0 code 0))) ∧
    (∀ p lost, p < 12 → (s.m.regs.podUp.getLsbD p = false → exec (.podLinkDown p lost) s = .next (s.after s.m)) ∧
      (s.m.regs.podUp.getLsbD p = true → s.m.jobs = [] → s.m.teams = [] → ∃ m1, exec (.podLinkDown p lost) s = .next (s.after m1) ∧
        m1.regs.podUp = s.m.regs.podUp &&& ~~~((1 : BitVec 12) <<< p) ∧ (s.m.tasks = [] → ∀ f ∈ m1.links, f.port ≠ p))) ∧
    (∀ k, k < 16 → ((vget s.m.regs.ebstat k 0).getLsbD 0 = false → exec (.ebnasPortTimeout k) s = .next (s.after s.m)) ∧
      ((vget s.m.regs.ebstat k 0).getLsbD 0 = true → ∃ m1, exec (.ebnasPortTimeout k) s = .next (s.after m1) ∧
        (vget m1.regs.ebstat k 0).getLsbD 0 = false ∧ m1.regs.ebDown.getLsbD k = true))

/-! ### What an instruction leaves alone -/

/-- R122, R123, R142 to R146, R368: an instruction of an S slot changes its destination register, the flags of its slot, the
streams its fields name and, through a destination stream, that stream's element, and nothing else. -/
def Obligations.ScalarFrame : Prop :=
  ∀ (i : Instr) (s t : State) (c c' : Cont) (f : ℕ), i.cls = some .s0 → s.Quiet → s.m.cur.resident = true → exec i s = .next t → c = s.m.cur →
    c' = t.m.cur → f = encode i / 2 ^ 16 % 32 → Undone s t ∨ ∃ m0, s.m.settlesTo m0 ∧
    (c.keeps c' (dests i) ∧ (∃ ev, c'.flags = c.flags ||| BitVec.ofNat 32 (flagBits (c.slotNow .s0) ev)) ∧
      (∀ k, k < 8 → f ≠ 24 + k → encode i / 2 ^ 11 % 32 ≠ 24 + k → encode i / 2 ^ 6 % 32 ≠ 24 + k →
        vget c'.streams k none = vget c.streams k none) ∧
      (f < 24 → c'.blocks = c.blocks ∧ c'.imprecise = c.imprecise) ∧ m0.sparesDest f t.m.mem ∧ c'.mx = m0.cur.mx ∧
      { c'.arch with g := c.g, gPoison := c.gPoison, p := c.p, flags := c.flags, fev := c.fev, streams := c.streams
                     blocks := c.blocks, imprecise := c.imprecise, mx := c.mx } = c.arch ∧
      { t.m.arch with cur := c.arch, mem := s.m.mem } = s.m.arch)

/-- R86, R158 to R160: a weak or scratchpad load changes its destination alone; a store changes at most its own bytes at the address
its operands give, in memory, in a load-block that stands there or in the window, and no register. -/
def Obligations.AccessFrame : Prop :=
  ∀ (s t : State) (gu : Guard) (d a : GF) (k : BitVec 11) (i : Instr) (c c' : Cont), s.Quiet → s.m.cur.resident = true →
    exec i s = .next t → c = s.m.cur → c' = t.m.cur → Undone s t ∨
    ((i ∈ [Instr.ldb gu d a k, .ldbu gu d a k, .ldh gu d a k, .ldhu gu d a k, .ldw gu d a k, .ldwu gu d a k, .ldd gu d a k,
        .spldw gu d a k, .spldd gu d a k] → ∃ m0, s.m.settlesTo m0 ∧ c'.mx = m0.cur.mx ∧
      c.keeps c' (dests i) ∧ m0.sparesDest d.toNat t.m.mem ∧ (d.toNat < 24 → c'.blocks = c.blocks ∧ c'.imprecise = c.imprecise) ∧
      { c'.arch with g := c.g, gPoison := c.gPoison, streams := c.streams, blocks := c.blocks, imprecise := c.imprecise, mx := c.mx } = c.arch ∧
      { t.m.arch with cur := c.arch, mem := s.m.mem } = s.m.arch) ∧
    (∀ (n : ℕ) virt v x m1 m2 va, (i, n, virt) ∈ [(Instr.stb gu d a k, 1, true), (.sth gu d a k, 2, true), (.stw gu d a k, 4, true),
        (.std gu d a k, 8, true), (.spstw gu d a k, 4, false), (.spstd gu d a k, 8, false)] →
      readG d s.m = .ok (v, m1) → readG a m1 = .ok (x, m2) → va = ofI (x.toInt + k.toInt * n) →
      c.keeps c' [] ∧ (virt = true → m2.sparesVirt va n t.m.mem ∧ c'.mx = m2.cur.mx) ∧
      (virt = false → (m2.landOver va.toInt.toNat n).sparesWin va.toInt n t.m.mem ∧ c'.mx = (m2.landOver va.toInt.toNat n).cur.mx) ∧
      ((virt = false ∨ c.touchesBlock va.toNat n = false) → c'.blocks = c.blocks) ∧ (virt = false → c'.imprecise = c.imprecise) ∧
      { c'.arch with streams := c.streams, blocks := c.blocks, imprecise := c.imprecise, mx := c.mx } = c.arch ∧
      { t.m.arch with cur := c.arch, mem := s.m.mem } = s.m.arch))

/-- R178, R202, R218: an instruction of the V, M or D slot leaves every general register, predicate, branch register, loop
counter and what the dies see of memory alone, VL too where it is no VSETL; of the scratchpads it changes only what results of
earlier commands bring in, and, for TCWUPD or with a flag trap enabled, its own results (R179, R370). What an access first
brings in (R86, R100) is no more than results of the continuation's own drains and writes on their way to its die. -/
def Obligations.EngineFrame : Prop :=
  (∀ m m0 : Mach, m.settlesTo m0 → { m0 with cur := m.cur, mem := m.mem } = m ∧ (∃ l, m0.cur = { m.cur with mx := { m.cur.mx with array := l } } ∧
      l.map (fun k => { k with writes := [] }) = m.cur.mx.array.map fun k => { k with writes := [] }) ∧
    (∀ e a, e < 64 → a < 2 ^ 52 → e ≠ m.cur.die → coherent a = false → (∀ w ∈ m.mem.flight, w.pa + w.bytes.length ≤ 2 ^ 52) →
      m.cur.die < 64 → m0.mem.byteAt e a = m.mem.byteAt e a) ∧
    ∀ key, (∀ k ∈ m.cur.mx.array, ∀ w ∈ k.writes, key < w.key ∨ w.key + w.bytes.length ≤ key) →
      m0.mem.spad.byte key = m.mem.spad.byte key) ∧
  ∀ (i : Instr) (s t : State) (c c' : Cont), i.cls = some .v ∨ i.cls = some .m ∨ i.cls = some .d → s.Quiet → s.m.cur.resident = true →
    exec i s = .next t → c = s.m.cur → c' = t.m.cur → Undone s t ∨ ∃ m0, s.m.settlesTo m0 ∧
    (c.keeps c' [] ∧ ((∀ gu n, i ≠ .vsetlImm gu n) → (∀ gu a, i ≠ .vsetlReg gu a) → c'.vl = c.vl) ∧
      t.m.mem.view = m0.mem.view ∧ t.m.mem.held = m0.mem.held ∧ t.m.mem.poison = m0.mem.poison ∧
      ((∀ gu a b, i ≠ .tcwupd gu a b) → c.trapen.toNat % 2 ^ 7 = 0 → ∀ key,
        (∀ v ∈ c.vpend, ∀ w ∈ v.writes, key < w.key ∨ w.key + w.bytes.length ≤ key) →
        (∀ k ∈ c.mx.array, ∀ w ∈ k.writes, key < w.key ∨ w.key + w.bytes.length ≤ key) → t.m.mem.spad.byte key = s.m.mem.spad.byte key) ∧
      c'.tx = c.tx ∧ c'.ag = c.ag ∧ c'.blocks = c.blocks ∧ c'.fmt = c.fmt ∧ c'.tvec = c.tvec ∧ c'.tsave = c.tsave ∧ c'.tcause = c.tcause ∧
      c'.trapen = c.trapen ∧ c'.sysMode = c.sysMode ∧ c.flags &&& c'.flags = c.flags ∧ t.m.tasks = s.m.tasks ∧ t.m.teams = s.m.teams ∧
      t.m.graphs = s.m.graphs ∧ t.m.regs = s.m.regs ∧ t.m.dies = s.m.dies ∧ t.m.tlb = s.m.tlb ∧ t.m.icache = s.m.icache)

/-- R147 to R151: the branch, loop and format instructions leave memory, the flags, the predicates, VL and the matrix state
alone, and of the general, branch and loop registers change their destinations alone. -/
def Obligations.ControlFrame : Prop :=
  ∀ (s t : State) (i : Instr) (c c' : Cont), s.Quiet → s.m.cur.resident = true →
    (i.cls = some .k ∧ match i with
      | .pbr .. | .pbrr .. | .br .. | .brl .. | .loop .. | .loopiImm .. | .loopiReg .. | .loopl .. | .fmtw .. | .fmtwg .. => True
      | _ => False) →
    exec i s = .next t → c = s.m.cur → c' = t.m.cur → Undone s t ∨ ∃ m0, s.m.settlesTo m0 ∧
    (c.keeps c' (dests i) ∧ t.m.mem = m0.mem ∧ c'.flags = c.flags ∧ c'.vl = c.vl ∧ c'.mx = m0.cur.mx ∧ c'.tx = c.tx ∧ c'.ag = c.ag ∧
      c'.blocks = c.blocks ∧ c'.tvec = c.tvec ∧ c'.tsave = c.tsave ∧ c'.tcause = c.tcause ∧ c'.sysMode = c.sysMode ∧ c'.imprecise = c.imprecise ∧
      ((∀ g n k, i ≠ .fmtw g n k) → (∀ g n k, i ≠ .fmtwg g n k) → c'.fmt = c.fmt) ∧
      { t.m.arch with cur := c.arch, mem := s.m.mem } = s.m.arch)

/-! ### Bundles, traps, steps and encodings -/

/-- R5, R125, R127, R128, R130: an instruction whose guard fails has no effect but to let the bundle go on; the slots of a bundle
execute in their order and the last one ends it at the next pc, a cycle of its die later; a bundle is taken in by its header,
with its present slots, its length and its sync bits, while its group has fewer than 16 bundles and no dependence; a header
that breaks the format reports 0x1002 and a dependence inside the group 0x1003, at fslot 7. An instruction that something of
its queues holds back waits in its queue, and its bundle goes on. -/
def Obligations.BundlesAndGuards : Prop :=
  (∀ (i : Instr) (x : Slot) (g : Guard) (s : State), i.cls = some x → (∀ l d k, i ≠ .movk l d k) →
      g.enc = encode i / 2 ^ (if x.bytes = 4 then 21 else 53) % 16 →
      (s.Open x → (s.m.cur.pred g.p.toNat != g.inv) = false → exec i s = .next s.advance) ∧
      (s.m.stays (s.m.cur.slotNow x) i = true → exec i s = .next s.stallBundle)) ∧
    (∀ (s : State) (k : Cursor) (x : Fin 7) (rest : List (Fin 7)) (j : Instr), s.m.cur.cursor = some k → k.back = none → k.slots = x :: rest →
      k.instr = some j → s.m.cur.timid = true → s.m.cur.trapen.toNat % 2 ^ 7 = 0 → ∀ s1 : State, s1 = { s with m := s.m.withCur { s.m.cur with
        queue := s.m.cur.queue ++ [{ slot := x, instr := j, insn := k.insn, pc := s.m.cur.pc, bundle := k.bundle, group := k.group, sync := k.sync }] } } →
      s.stallBundle = s1.advance) ∧
    (∀ (s : State) (k : Cursor) (x : Fin 7) (rest : List (Fin 7)) (c : Cont), s.m.cur.cursor = some k → k.slots = x :: rest → c = s.m.cur →
      (rest ≠ [] → s.advance = { s with m := s.m.withCur { c with
        cursor := some { k with slots := rest, addr := k.addr + (if x = 4 ∨ x = 5 then 8 else 4) } } }) ∧
      (rest = [] → c.state = 2 → s.advance.snap = none ∧ s.advance.m.cyc c.die = s.m.cyc c.die + 1 ∧
        (∀ d, d ≠ c.die → s.advance.m.cyc d = s.m.cyc d) ∧ s.advance.m.cur.pc = k.next ∧
        s.advance.m.cur.cursor = none ∧ (k.back = none → s.advance.m.cur.flagTrap = k.trapSlot ∧
          s.advance.m.cur.queue = c.queue.map fun e => { e with tried := false }) ∧ s.advance.m.mem = s.m.mem ∧
        s.advance.m.cur.groupWrites = (if k.stop = true ∨ k.jumped = true then [] else c.groupWrites) ∧
        s.advance.m.cur.g = c.g ∧ s.advance.m.cur.p = c.p)) ∧
    (∀ (s : State) (c : Cont) (hb : List Byte) (h : ℕ), c = s.m.cur → s.m.canDispatch = true → c.flagTrap = none → c.sig = [] →
      s.m.fetchBytes c c.pc.toNat 4 = .ok hb → h = leNat hb → (c.starting = true → c.pc.toNat % 4 = 0 ∧ inGranule c.pc.toNat h = true) →
      ((2 ^ 15 ≤ h ∨ 16 ≤ c.groupLen) → exec .bundleDispatch s =
        .next (State.takeTrap { s with m := s.m.withCur { c with timid := false }, snap := none } { cause := 0x1002 } 7 0)) ∧
      (h < 2 ^ 15 → (∀ k, k < 7 → h.testBit (8 + k) = true → h.testBit k = true) → c.groupLen < 16 →
        ∀ body is, s.m.fetchBytes c (c.pc.toNat + 4) (bodyBytes h) = .ok body →
        is = decodeSlots body ((List.finRange 7).filter fun k => h.testBit k.val) →
        (h.testBit 7 = false → ∀ i, some i ∈ is → needsStop i = false) →
        (groupTest c.groupWrites is = none → exec .bundleDispatch s =
          .next (State.takeTrap { s with m := s.m.withCur { c with timid := false }, snap := none } { cause := 0x1003 } 7 0)) ∧
        (∀ w, groupTest c.groupWrites is = some w → h % 2 ^ 7 ≠ 0 → h / 2 ^ 8 = 0 → c.trapen.toNat % 2 ^ 7 = 0 →
          ∃ t, exec .bundleDispatch s = .next t ∧ t.snap = some s.m ∧ t.agenda = s.agenda ∧ t.m.mem = s.m.mem ∧ t.m.cur.g = c.g ∧
            t.m.cur.p = c.p ∧ t.m.cur.pc = c.pc ∧ t.m.cur.groupLen = c.groupLen + 1 ∧ t.m.cur.groupWrites = w ∧
            t.m.cur.cursor = some { slots := (List.finRange 7).filter fun k => h.testBit k.val, addr := c.pc + 4
                                    next := c.pc + BitVec.ofNat 48 (4 + bodyBytes h), sync := 0, stop := h.testBit 7
                                    bundle := c.bundles + 1, group := c.groups })))

/-- R27, R350, R352, R353: a precise report is made on the machine as the bundle found it, with every result of earlier commands
landed, once no instruction of an earlier bundle stands in a queue; with a handler named, in user mode
and of a class that has one, the registers and the trap record are saved, the mode is kept in TSAVE and becomes system mode,
g22 takes the save area and the pc the handler; with none it ends the task. A pending imprecise failure comes first and ends
the task. -/
def Obligations.TrapEntry : Prop :=
  ∀ (s : State) (f : Trap) (slot : ℕ) (w : Word) (t : State), t = s.takeTrap f slot w → slot < 8 →
    (∀ m, s.m.cur.cursor.bind Cursor.back = none → m = s.snap.getD s.m →
      (m.cur.queue = [] → m.cur.timid = false → s.reported = some (m.performed m.cur.id)) ∧
      (m.cur.queue ≠ [] ∨ m.cur.timid = true →
        t = { s with m := { m.withCur { m.cur with timid := false } with stalled := true }, snap := none })) ∧
    ∀ (m : Mach) (c : Cont), s.reported = some m → c = m.cur → t.snap = none ∧ t.agenda = s.agenda ∧ t.m.stalled = false ∧
    (c.imprecise = none → c.tvec ≠ 0 → c.sysMode = false → c.stage0 = false → c.poisoned = false →
      (f.cause.toNat / 4096 = 1 ∨ f.cause.toNat / 4096 = 2 ∨ f.cause.toNat / 4096 = 15 ∨
        (f.cause.toNat / 4096 = 3 ∧ f.cause ≠ 0x3005 ∧ f.cause ≠ 0x3007 ∧ (f.cause = 0x3006 → f.walk = false))) →
      t.m.cur.pc = c.tvec.setWidth 48 ∧ t.m.cur.sysMode = true ∧ t.m.cur.tsave = false ∧ t.m.cur.tcause = f.cause ∧ t.m.cur.fslot.toNat = slot ∧
      vget t.m.cur.g 22 0 = c.save ∧ (∀ k, k < 24 → k ≠ 22 → vget t.m.cur.g k 0 = vget c.g k 0) ∧ t.m.cur.cursor = none ∧
      { t.m.cur with pc := c.pc, sysMode := c.sysMode, tsave := c.tsave, tcause := c.tcause, fslot := c.fslot, g := c.g, gPoison := c.gPoison
                     cursor := c.cursor, flagTrap := c.flagTrap, groupLen := c.groupLen, groupWrites := c.groupWrites, groups := c.groups
                     queue := c.queue, timid := c.timid, fmtUndo := c.fmtUndo } = c ∧
      t.m.conts = m.conts ∧ t.m.tasks = m.tasks ∧ t.m.teams = m.teams ∧ t.m.jobs = m.jobs ∧
      ∀ m', m' = ((m.saveRegs c).putTrapRecord c (trapRecord f c.pc (BitVec.ofNat 3 slot) false false false w)).recordCont
        (c.enterHandler f.cause slot) → t.m.mem = (m'.logError f { severity := 1, fslot := BitVec.ofNat 3 slot, die := c.die, core := c.core
                                                                   ctx := c.ctx.toNat, seq := c.task, pc := c.pc.toNat
                                                                   ld := m'.ldOf c.ctx.toNat }).mem) ∧
    (c.imprecise = none → c.stage0 = false → (c.tvec = 0 ∨ c.sysMode = true ∨ f.cause = 0x3005 ∨ f.cause.toNat / 4096 = 5) →
      ∀ k, m.task? c.task = some k → k.stage ≠ .ended → k.node = none → k.guest = none →
      ∃ k', t.m.task? c.task = some k' ∧ k'.tstate = 4 ∧ k'.stage = .ended ∧ k'.leased = false ∧ k'.resv = []) ∧
    (∀ x, c.imprecise = some x → c.stage0 = false → ∀ k, m.task? c.task = some k → k.stage ≠ .ended → k.node = none → k.guest = none →
      ∃ k', t.m.task? c.task = some k' ∧ k'.tstate = 4 ∧ k'.stage = .ended) ∧
    (∀ k, k < 24 → leAt c.saveBytes (8 * k) 8 = if k = 0 then 0 else (vget c.g k 0).toNat) ∧ c.saveBytes.length = 1280 ∧
    (∀ (pc : BitVec 48) (sl : BitVec 3) (imp sys eng : Bool) b, b = trapRecord f pc sl imp sys eng w → b.length = 64 ∧ leAt b 0 6 = pc.toNat ∧
      leAt b 6 2 = f.cause.toNat ∧ leAt b 8 1 = sl.toNat + 8 * imp.toNat + 16 * sys.toNat + 32 * eng.toNat ∧ leAt b 16 8 = f.faddr.toNat ∧
      leAt b 24 8 = w.toNat ∧ leAt b 32 8 = f.info.toNat)

/-- R24, R125, R128, R131, R350: with a cursor in a bundle a step executes what the bytes of the next slot decode to, as memory
stood when the bundle was taken in, with that word noted for a report; bytes that decode to nothing are an illegal instruction
of that slot; between bundles a step runs the next event the agenda names, the micro-operation of the run it names, an
instruction that waits in a queue, or takes the next bundle in; a context of higher priority takes the core first. -/
def Obligations.StepRunsDecodedInstruction : Prop :=
  ∀ s : State,
    (∀ k x rest b, s.m.cur.cursor = some k → k.slots = x :: rest →
      (s.snap.getD s.m).fetchBytes s.m.cur k.addr.toNat (Slot.of x.val).bytes = .ok b →
      (∀ i, decode (Slot.of x.val) (leNat b) = some i → s.m.cur.stage0 = false ∨ stage0Allows i = true →
        step s = exec i { s with m := s.m.withCur { s.m.cur with cursor := some { k with insn := toW (leNat b), instr := some i } } }) ∧
      (decode (Slot.of x.val) (leNat b) = none → step s = .next (s.takeTrap { cause := 0x1001 } x.val 0))) ∧
    (s.m.cur.cursor = none →
      (s.agenda = [] → s.m.cur.id ≠ 0 → s.m.cur.state = 2 →
        (∀ e, s.m.cur.queue.find? (fun e => !e.tried) = some e → step s = exec e.instr (s.enterBack e) ∧ (s.enterBack e).snap = some s.m ∧
          (s.enterBack e).m.cur.pc = e.pc ∧ ∃ k, (s.enterBack e).m.cur.cursor = some k ∧ k.slots = [e.slot] ∧ k.next = s.m.cur.pc ∧
            k.back = some e) ∧
        (s.m.cur.queue.find? (fun e => !e.tried) = none → s.m.mustYield = true → step s = exec (.pickerPreemptContext s.m.cur.gcore) s) ∧
        (s.m.cur.queue.find? (fun e => !e.tried) = none → s.m.mustYield = false → s.m.stalled = false → step s = exec .bundleDispatch s) ∧
        (s.m.cur.queue.find? (fun e => !e.tried) = none → s.m.mustYield = false → s.m.stalled = true → step s = .next s.idle)) ∧
      (s.agenda = [] → s.m.cur.id = 0 ∨ s.m.cur.state ≠ 2 → step s = .next s.idle) ∧
      s.idle = { s with m := { s.m with now := s.m.now + 1, stalled := false, cur := { s.m.cur with
        lag := 0, queue := s.m.cur.queue.map fun e => { e with tried := false } } } } ∧
      (∀ i rest, s.agenda = .event i :: rest → isEvent i = true → s.m.regs.powered = true → step s = exec i { s with agenda := rest }) ∧
      (∀ n rest r i, s.agenda = .micro n :: rest → (s.m.seq n).run = some r → decodeSeq (SMap.get 0 (s.m.seq n).store r.pcw).toNat = some i →
        step s = exec i { m := { s.m with seqSel := n }, snap := s.snap, agenda := rest }))

/-- R131, R133, R138: words the manual writes out decode to the instructions it writes beside them. -/
def Obligations.DecodedWordsAreTheManuals : Prop :=
  decode .v 0x06053000 = some (.vadd ⟨0, false⟩ 5 6 false) ∧ decode .s0 0x50032980 = some (.cmplt ⟨0, false⟩ 3 5 6) ∧
    decode .s1 0x600531C1 = some (.fadd ⟨0, false⟩ 5 6 7 true) ∧ decode .a 0x0C084802 = some (.ldd ⟨0, false⟩ 8 9 2) ∧
    decode .a 0x16074801 = some (.std ⟨0, false⟩ 7 9 1) ∧
    decode .m 0x0002470000000002 = some (.mma ⟨0, false⟩ 1 2 0 true 96 false true) ∧
    decode .m 0x0C00080003008000 = some (.mdrain ⟨0, false⟩ 1 3 0x8000)

/-- R131 to R138, R267: every legal instruction of a slot encodes to a word of its slot's width that decodes back to it, with
every operand at every value, in both S slots for the scalar ones; every legal micro-operation likewise. -/
def Obligations.EncodeThenDecode : Prop :=
  ∀ i : Instr, i.wf = true →
    (∀ x, i.cls = some x → encode i < 2 ^ (8 * x.bytes) ∧ decode x (encode i) = some i ∧ (x = .s0 → decode .s1 (encode i) = some i)) ∧
    (isMicro i = true → encode i < 2 ^ 64 ∧ decodeSeq (encode i) = some i)

/-- Every step keeps the maps of memory in their canonical form, in the machine and in the one a bundle would go back to. -/
def Obligations.StepKeepsMemoryCanonical : Prop :=
  ∀ s t : State, s.Canonical → step s = .next t → t.Canonical

/-- R32, R100, R290, R304, R305, R308: at reset the module is in Stage 0 and powered, no continuation, task, team, graph or job
exists, no byte is listed and memory is canonical; the registers whose reset value the manual gives hold it. -/
def Obligations.ResetState : Prop :=
  State.reset.Canonical ∧ State.reset.snap = none ∧ State.reset.agenda = [] ∧ ∀ m, m = State.reset.m → m.mem.view = [] ∧ m.mem.spad = [] ∧
    m.regs.stage = 0 ∧ m.regs.ready = false ∧ m.conts = [] ∧ m.cur.id = 0 ∧ m.tasks = [] ∧ m.teams = [] ∧ m.graphs = [] ∧ m.jobs = [] ∧
    m.regs.stopPhase = 0 ∧ m.regs.stopReq = false ∧ ∀ d, m.cyc d = 0
end

