-- ==== Sys2Proof/Laws/Act.lean ====
section
/-! SUPPORT. What an action and a slot instruction answer: the equations of the action combinators, and one lemma for each way
a slot instruction ends. -/

namespace Sys2Proof.Machine

@[simp] theorem act_bind {α β : Type} (x : Act α) (f : α → Act β) (m : Mach) :
    (x >>= f) m = (match x m with
      | .ok (a, m') => f a m'
      | .error e => .error e) := by
  simp only [bind, StateT.bind, Except.bind]; cases x m <;> rfl

@[simp] theorem act_pure {α : Type} (a : α) (m : Mach) : (pure a : Act α) m = .ok (a, m) := rfl
@[simp] theorem act_getC (m : Mach) : getC m = .ok (m.cur, m) := rfl
@[simp] theorem act_getM (m : Mach) : getM m = .ok (m, m) := rfl
@[simp] theorem act_modC (f : Cont → Cont) (m : Mach) : modC f m = .ok ((), { m with cur := f m.cur }) := rfl
@[simp] theorem act_modM (f : Mach → Mach) (m : Mach) : modM f m = .ok ((), f m) := rfl
@[simp] theorem act_fresh (m : Mach) : fresh m = .ok (m.freeCount, { m with freeCount := m.freeCount + 1 }) := rfl
@[simp] theorem act_raise {α : Type} (c : Cause) (x y : Word) (m : Mach) :
    (raise c x y : Act α) m = .error (.trap { cause := c, faddr := x, info := y }) := rfl
@[simp] theorem act_raiseT {α : Type} (t : Trap) (m : Mach) : (raiseT t : Act α) m = .error (.trap t) := rfl
@[simp] theorem act_await {α : Type} (m : Mach) : (await : Act α) m = .error .wait := rfl
@[simp] theorem act_raiseIf (b : Bool) (c : Cause) (x : Word) (m : Mach) :
    raiseIf b c x m = if b then .error (.trap { cause := c, faddr := x }) else .ok ((), m) := by cases b <;> rfl
@[simp] theorem act_awaitIf (b : Bool) (m : Mach) : awaitIf b m = if b then .error .wait else .ok ((), m) := by
  cases b <;> rfl
@[simp] theorem act_performEarlier (m : Mach) : performEarlier m = .ok ((), m.performed m.cur.id) := rfl
@[simp] theorem act_ite {α : Type} (p : Prop) [Decidable p] (x y : Act α) (m : Mach) :
    (if p then x else y) m = if p then x m else y m := by split <;> rfl

theorem reportPoint_none {m : Mach} (h : m.cur.imprecise = none) : reportPoint m = .ok ((), m) := by
  simp [reportPoint, h]

theorem reportPoint_some {m : Mach} {i : Imprecise} (h : m.cur.imprecise = some i) :
    reportPoint m = .error (.late i) := by simp [reportPoint, h]

/-- What keeps a slot open, in parts: an empty queue, no lag, no wait and no shadow that a sync bit meets (R128). -/
theorem State.open_of {s : State} {x : Slot} (hq : s.m.cur.queue = []) (hk : s.m.cur.cursor.bind Cursor.back = none)
    (ht : s.m.cur.timid = false) (hl : s.m.cur.lag.getLsbD (s.m.cur.slotNow x) = false)
    (hh : s.m.heldAt s.m.cur (s.m.cur.slotNow x) s.m.cur.bundleNow = false)
    (hs : s.m.cur.syncedNow (s.m.cur.slotNow x) = false ∨ s.m.inShadow s.m.cur = false) : s.Open x := by
  intro i
  have ho : s.m.cur.older = [] := by simp [Cont.older, hk, hq]
  have hs' : (s.m.cur.syncedNow (s.m.cur.slotNow x) && s.m.inShadow s.m.cur) = false := by
    rcases hs with h | h <;> simp [h]
  have hl' : s.m.cur.lag[s.m.cur.slotNow x]?.getD false = false := by simpa [BitVec.getLsbD_eq_getElem?_getD] using hl
  simp only [Mach.stays, Mach.leaves, Mach.behind, hk, ht, ho, hh, hs', hl, List.any_nil, List.isEmpty_nil, Bool.not_true,
    Bool.and_false, Bool.false_and, Bool.or_false, and_self]

/-- An instruction whose guard does not hold only moves the cursor (R130). -/
theorem runSlot_skip {i : Instr} {x : Slot} {g : Guard} {a : Act Unit} {s : State} (h : s.m.cur.runs g = false)
    (ho : s.Open x) : runSlot i x (some g) a s = .next s.advance := by simp [runSlot, h, (ho i).1, (ho i).2]

/-- An instruction that something holds in its queue waits (R128, R154). -/
theorem runSlot_held {i : Instr} {x : Slot} {g : Option Guard} {a : Act Unit} {s : State}
    (hh : s.m.stays (s.m.cur.slotNow x) i = true) : runSlot i x g a s = .next s.stallBundle := by
  simp [runSlot, hh]

/-- A slot instruction whose action succeeds completes. -/
theorem runSlot_ok {i : Instr} {x : Slot} {g : Guard} {a : Act Unit} {s : State} {u : Unit} {m : Mach} (h : s.Ready g x)
    (ha : a s.m = .ok (u, m)) : runSlot i x (some g) a s = .next (s.complete m) := by
  simp [runSlot, h.1, (h.2 i).1, (h.2 i).2, ha]

/-- An unguarded one likewise. -/
theorem runSlot_open_ok {i : Instr} {x : Slot} {a : Act Unit} {s : State} {u : Unit} {m : Mach} (h : s.Open x)
    (ha : a s.m = .ok (u, m)) : runSlot i x none a s = .next (s.complete m) := by
  simp [runSlot, (h i).1, (h i).2, ha]

/-- A slot instruction whose action raises takes the exception (R350). -/
theorem runSlot_trap {i : Instr} {x : Slot} {g : Guard} {a : Act Unit} {s : State} {t : Trap} (h : s.Ready g x)
    (ha : a s.m = .error (.trap t)) :
    runSlot i x (some g) a s = .next (s.takeTrap t (s.m.cur.slotNow x) (toW (encode i))) := by
  simp [runSlot, h.1, (h.2 i).1, ha]

theorem runSlot_trapTx {i : Instr} {x : Slot} {g : Guard} {a : Act Unit} {s : State} {t : Trap} {n : Nat} (h : s.Ready g x)
    (ha : a s.m = .error (.trapTx t n)) :
    runSlot i x (some g) a s = .next (s.takeTxTrap t n (s.m.cur.slotNow x) (toW (encode i))) := by
  simp [runSlot, h.1, (h.2 i).1, ha]

/-- A slot instruction whose action waits before its checks are made stands in its queue (R128). -/
theorem runSlot_wait {i : Instr} {x : Slot} {g : Guard} {a : Act Unit} {s : State} (h : s.Ready g x)
    (ha : a s.m = .error .wait) : runSlot i x (some g) a s = .next s.stallBundle := by
  simp [runSlot, h.1, (h.2 i).1, ha]

/-- One that waits with its checks made stands there as one that can no longer fault (R350). -/
theorem runSlot_park {i : Instr} {x : Slot} {g : Guard} {a : Act Unit} {s : State} (h : s.Ready g x)
    (ha : a s.m = .error .park) : runSlot i x (some g) a s = .next s.passed := by
  simp [runSlot, h.1, (h.2 i).1, ha]

theorem runSlot_late {i : Instr} {x : Slot} {g : Guard} {a : Act Unit} {s : State} {f : Imprecise} (h : s.Ready g x)
    (ha : a s.m = .error (.late f)) : runSlot i x (some g) a s = .next (s.takeLate f) := by
  simp [runSlot, h.1, (h.2 i).1, ha]

/-- What a slot instruction can come to: it is skipped, it has no effect, or its action succeeded and it completes. -/
theorem runSlot_cases {i : Instr} {x : Slot} {g : Option Guard} {a : Act Unit} {s t : State}
    (h : runSlot i x g a s = .next t) :
    (t = s.advance ∧ ∃ q, g = some q ∧ s.m.cur.runs q = false) ∨ Undone s t ∨
      ∃ m, a s.m = .ok ((), m) ∧ t = s.complete m := by
  have skip : ∀ b : Bool, (.next (if b then s.advance else s.passed) : Host.Outcome State Fault Refusal) = .next t →
      t = s.advance ∨ Undone s t := by
    intro b hb; cases b
    · exact .inr (.inr (.inl (by simpa using hb.symm)))
    · exact .inl (by simpa using hb.symm)
  have main : ∀ go : Bool, (if s.m.stays (s.m.cur.slotNow x) i then Host.Outcome.next s.stallBundle
      else if !go then .next (if s.m.leaves (s.m.cur.slotNow x) i then s.advance else s.passed)
      else match a s.m with
        | .ok (_, m) => .next (if s.m.leaves (s.m.cur.slotNow x) i then s.complete m else s.passed)
        | .error (.trap f) => .next (s.takeTrap f (s.m.cur.slotNow x) (toW (encode i)))
        | .error (.trapTx f n) => .next (s.takeTxTrap f n (s.m.cur.slotNow x) (toW (encode i)))
        | .error .wait => .next s.stallBundle
        | .error .park => .next s.passed
        | .error (.late y) => .next (s.takeLate y)) = (.next t : Host.Outcome State Fault Refusal) →
      (go = false ∧ t = s.advance) ∨ Undone s t ∨ ∃ m, a s.m = .ok ((), m) ∧ t = s.complete m := by
    intro go hgo
    split at hgo
    · exact .inr (.inl (.inl (by simpa using hgo.symm)))
    cases go
    · exact (skip _ (by simpa using hgo)).imp (⟨rfl, ·⟩) .inl
    · simp only [Bool.not_true, Bool.false_eq_true, if_false] at hgo
      split at hgo
      · next m ha =>
        cases hl : s.m.leaves (s.m.cur.slotNow x) i
        · exact .inr (.inl (.inr (.inl (by simpa [hl] using hgo.symm))))
        · exact .inr (.inr ⟨m, ha, by simpa [hl] using hgo.symm⟩)
      · exact .inr (.inl (.inr (.inr (.inl ⟨_, _, _, by simpa using hgo.symm⟩))))
      · exact .inr (.inl (.inr (.inr (.inr (.inl ⟨_, _, _, _, by simpa using hgo.symm⟩)))))
      · exact .inr (.inl (.inl (by simpa using hgo.symm)))
      · exact .inr (.inl (.inr (.inl (by simpa using hgo.symm))))
      · exact .inr (.inl (.inr (.inr (.inr (.inr ⟨_, by simpa using hgo.symm⟩)))))
  obtain ⟨hg, ht⟩ | ht := main _ h
  · cases g with
    | none => simp at hg
    | some q => exact .inl ⟨ht, q, rfl, hg⟩
  · exact .inr ht

end Sys2Proof.Machine
end

