-- ==== Sys2Proof/Laws/Memory.lean ====
section
/-! SUPPORT. The laws of sparse maps and of memory: what a read after a write gives, and that every memory operation keeps the
canonical form. -/

namespace Sys2Proof.Machine

variable {α : Type} {d : α} {m : SMap α} {k j : Nat} {v : α}

/-! ### Sparse maps -/

theorem SMap.get_erase : SMap.get d (SMap.erase k m) j = if j = k then d else SMap.get d m j := by
  induction m with
  | nil => simp [SMap.erase, SMap.get]
  | cons p r ih =>
    obtain ⟨i, w⟩ := p
    by_cases h : i = k <;> by_cases hj : i = j <;> grind [SMap.erase, SMap.get]

theorem SMap.erase_eq_filter : SMap.erase k m = m.filter (fun p => p.1 ≠ k) := by
  induction m with
  | nil => rfl
  | cons p r ih => obtain ⟨i, w⟩ := p; by_cases h : i = k <;> simp [SMap.erase, h, ih]

theorem SMap.erase_absent {p : Nat × α} (h : p ∈ SMap.erase k m) : p.1 ≠ k := by
  rw [SMap.erase_eq_filter] at h; simpa using (List.mem_filter.1 h).2

theorem SMap.get_insert (h : ∀ p ∈ m, p.1 ≠ k) :
    SMap.get d (SMap.insert k v m) j = if j = k then v else SMap.get d m j := by
  induction m with
  | nil => grind [SMap.insert, SMap.get]
  | cons p r ih =>
    have hp := h p (.head _)
    have hr := ih fun q hq => h q (.tail _ hq)
    grind [SMap.insert, SMap.get]

/-- A read of a key after a write of a key. -/
theorem SMap.get_set [DecidableEq α] : SMap.get d (SMap.set d m k v) j = if j = k then v else SMap.get d m j := by
  unfold SMap.set; split
  · next h => rw [SMap.get_erase, h]
  · next h =>
    rw [SMap.get_insert fun p => SMap.erase_absent]
    grind [SMap.get_erase]

@[simp] theorem SMap.get_set_same [DecidableEq α] : SMap.get d (SMap.set d m k v) k = v := by simp [SMap.get_set]

theorem SMap.get_set_ne [DecidableEq α] (h : j ≠ k) : SMap.get d (SMap.set d m k v) j = SMap.get d m j := by
  simp [SMap.get_set, h]

/-- The canonical form, as rising keys and no default value. -/
theorem SMap.wf_iff [DecidableEq α] :
    SMap.wf d m = true ↔ m.Pairwise (fun a b => a.1 < b.1) ∧ ∀ p ∈ m, p.2 ≠ d := by
  induction m with
  | nil => simp [SMap.wf]
  | cons p r ih =>
    cases r with
    | nil => simp [SMap.wf]
    | cons q r =>
      simp only [SMap.wf, Bool.and_eq_true, decide_eq_true_eq, ih, List.pairwise_cons, List.mem_cons]
      constructor
      · rintro ⟨⟨hlt, hv⟩, ⟨hq, hr⟩, ha⟩
        refine ⟨⟨?_, hq, hr⟩, ?_⟩
        · rintro x (rfl | hx)
          · exact hlt
          · exact hlt.trans (hq x hx)
        · rintro x (rfl | hx)
          · exact hv
          · exact ha x hx
      · rintro ⟨⟨hp, hq, hr⟩, ha⟩
        exact ⟨⟨hp q (.inl rfl), ha p (.inl rfl)⟩, ⟨hq, hr⟩, fun x hx => ha x (.inr hx)⟩

theorem SMap.mem_insert {p : Nat × α} : p ∈ SMap.insert k v m ↔ p = (k, v) ∨ p ∈ m := by
  induction m with
  | nil => simp [SMap.insert]
  | cons q r ih => unfold SMap.insert; split <;> simp [ih]; tauto

/-- Filtering keeps the canonical form. -/
theorem SMap.wf_filter [DecidableEq α] (p : Nat × α → Bool) (h : SMap.wf d m = true) : SMap.wf d (m.filter p) = true := by
  rw [SMap.wf_iff] at h ⊢
  exact ⟨h.1.filter p, fun q hq => h.2 q (List.mem_filter.1 hq).1⟩

theorem SMap.wf_restrict [DecidableEq α] (p : Nat → Bool) (h : SMap.wf d m = true) : SMap.wf d (SMap.restrict p m) = true :=
  SMap.wf_filter _ h

theorem SMap.pairwise_insert (h : m.Pairwise (fun a b => a.1 < b.1)) (hk : ∀ p ∈ m, p.1 ≠ k) :
    (SMap.insert k v m).Pairwise (fun a b => a.1 < b.1) := by
  induction m with
  | nil => simp [SMap.insert]
  | cons q r ih =>
    rw [List.pairwise_cons] at h
    unfold SMap.insert
    split
    · next hlt =>
      refine List.pairwise_cons.2 ⟨?_, List.pairwise_cons.2 h⟩
      rintro x hx
      rcases List.mem_cons.1 hx with rfl | hx
      · exact hlt
      · exact Nat.lt_trans hlt (h.1 x hx)
    · next hge =>
      refine List.pairwise_cons.2 ⟨?_, ih h.2 fun p hp => hk p (.tail _ hp)⟩
      intro x hx
      rcases SMap.mem_insert.1 hx with rfl | hx
      · have := hk q (.head _); simp only at this ⊢; omega
      · exact h.1 x hx

/-- A write keeps the canonical form. -/
theorem SMap.wf_set [DecidableEq α] (h : SMap.wf d m = true) : SMap.wf d (SMap.set d m k v) = true := by
  have he : SMap.wf d (SMap.erase k m) = true := SMap.erase_eq_filter (m := m) ▸ SMap.wf_filter _ h
  unfold SMap.set; split
  · exact he
  · next hv =>
    rw [SMap.wf_iff] at he ⊢
    refine ⟨SMap.pairwise_insert he.1 ?_, ?_⟩
    · intro p hp; exact SMap.erase_absent hp
    · intro p hp
      rcases SMap.mem_insert.1 hp with rfl | hp
      · exact hv
      · exact he.2 p hp

/-- A fold of writes keeps the canonical form. -/
theorem SMap.wf_foldl {β : Type} [DecidableEq α] (f : SMap α → β → SMap α) (l : List β)
    (hf : ∀ x b, SMap.wf d x = true → SMap.wf d (f x b) = true) (h : SMap.wf d m = true) : SMap.wf d (l.foldl f m) = true := by
  induction l generalizing m with
  | nil => exact h
  | cons b r ih => exact ih (hf _ _ h)

/-! ### Byte memory -/

theorem Memory.byte_put (m : Memory) (k j : Nat) (b : Byte) : (m.put k b).byte j = if j = k then b else m.byte j :=
  SMap.get_set

theorem Memory.wf_put {m : Memory} {k : Nat} {b : Byte} (h : m.wf = true) : (m.put k b).wf = true := SMap.wf_set h

/-- A read of a byte after a write of bytes: the byte written there, or what stood there. -/
theorem Memory.byte_puts (l : List Byte) (m : Memory) (k j : Nat) :
    (m.puts k l).byte j = if k ≤ j ∧ j < k + l.length then l.getD (j - k) 0 else m.byte j := by
  induction l generalizing m k with
  | nil => simp [Memory.puts]
  | cons b r ih =>
    rw [Memory.puts, ih, Memory.byte_put]
    by_cases h : j = k
    · subst h; simp
    · by_cases h1 : k + 1 ≤ j ∧ j < k + 1 + r.length
      · rw [if_pos h1, if_pos (by simp only [List.length_cons]; omega), show j - k = (j - (k + 1)) + 1 by omega]
        simp
      · rw [if_neg h1, if_neg h, if_neg (by simp only [List.length_cons]; omega)]

/-- A write of bytes leaves every other byte. -/
theorem Memory.byte_puts_outside {m : Memory} {k j : Nat} {l : List Byte} (h : j < k ∨ k + l.length ≤ j) :
    (m.puts k l).byte j = m.byte j := by rw [Memory.byte_puts, if_neg (by omega)]

theorem Memory.wf_puts {l : List Byte} {m : Memory} {k : Nat} (h : m.wf = true) : (m.puts k l).wf = true := by
  induction l generalizing m k with
  | nil => exact h
  | cons b r ih => exact ih (Memory.wf_put h)

theorem Memory.length_gets (n : Nat) (m : Memory) (k : Nat) : (m.gets k n).length = n := by
  induction n generalizing k with
  | zero => rfl
  | succ n ih => simp [Memory.gets, ih]

theorem Memory.getElem_gets (n : Nat) (m : Memory) (k i : Nat) (h : i < n) :
    (m.gets k n)[i]? = some (m.byte (k + i)) := by
  induction n generalizing k i with
  | zero => omega
  | succ n ih =>
    cases i with
    | zero => simp [Memory.gets]
    | succ i => rw [Memory.gets, List.getElem?_cons_succ, ih _ _ (by omega), Nat.add_right_comm, Nat.add_assoc]

/-- A read of the bytes just written gives them. -/
theorem Memory.gets_puts_same (l : List Byte) (m : Memory) (k : Nat) : (m.puts k l).gets k l.length = l := by
  apply List.ext_getElem?
  intro i
  by_cases h : i < l.length
  · rw [Memory.getElem_gets _ _ _ _ h, Memory.byte_puts, if_pos (by omega), Nat.add_sub_cancel_left,
      List.getD_eq_getElem?_getD, List.getElem?_eq_getElem h]; rfl
  · rw [List.getElem?_eq_none (by rw [Memory.length_gets]; omega), List.getElem?_eq_none (by omega)]

/-- A read of bytes outside the ones written gives what it gave. -/
theorem Memory.gets_puts_apart (l : List Byte) (m : Memory) (k j n : Nat) (h : j + n ≤ k ∨ k + l.length ≤ j) :
    (m.puts k l).gets j n = m.gets j n := by
  induction n generalizing j with
  | zero => rfl
  | succ n ih => rw [Memory.gets, Memory.gets, ih _ (by omega), Memory.byte_puts_outside (by omega)]

/-! ### The memory of the module -/

theorem Mem.canonical_reset : ({} : Mem).Canonical := by unfold Mem.Canonical; decide

theorem Mem.Canonical.takeBytes {e src pa0 n0 : Nat} {stamp : SMap Nat} {q : Bool} (l : List Byte) :
    ∀ {m : Mem} {pa : Nat}, m.Canonical → (m.takeBytes e src stamp q pa0 n0 pa l).Canonical := by
  induction l with
  | nil => intro m pa h; exact h
  | cons b r ih =>
    intro m pa h
    rw [Mem.takeBytes]
    apply ih
    obtain ⟨h1, h2, h3, h4, h5, h6⟩ := h
    split
    · refine ⟨Memory.wf_put h1, SMap.wf_set h2, ?_, h4, h5, h6⟩
      dsimp only; split
      · exact SMap.wf_set h3
      · exact h3
    · exact ⟨h1, h2, h3, h4, h5, h6⟩

theorem Mem.Canonical.withClock {m : Mem} {k v : Nat} (h : m.Canonical) :
    ({ m with clock := SMap.set 0 m.clock k v } : Mem).Canonical :=
  ⟨h.1, h.2.1, h.2.2.1, SMap.wf_set h.2.2.2.1, h.2.2.2.2⟩

theorem Mem.Canonical.withFlight {m : Mem} {l : List Write} (h : m.Canonical) : ({ m with flight := l } : Mem).Canonical := h

theorem Mem.Canonical.applyAt {m : Mem} {e : Nat} {w : Write} (h : m.Canonical) : (m.applyAt e w).Canonical :=
  (h.takeBytes _).withClock

theorem Mem.Canonical.arrive {m : Mem} {e : Nat} {w : Write} (h : m.Canonical) : (m.arrive e w).Canonical :=
  h.applyAt.withFlight

/-- A fold of operations that keep the form keeps it. -/
theorem Mem.Canonical.foldl {β : Type} {f : Mem → β → Mem} (hf : ∀ x b, x.Canonical → (f x b).Canonical) (l : List β) :
    ∀ {m : Mem}, m.Canonical → (l.foldl f m).Canonical := by
  induction l with
  | nil => intro m h; exact h
  | cons b r ih => intro m h; exact ih (hf _ _ h)

/-- A choice between two memories in the form. -/
theorem Mem.Canonical.ite {c : Prop} [Decidable c] {m n : Mem} (h : m.Canonical) (k : n.Canonical) :
    (if c then m else n).Canonical := by split <;> assumption

theorem Mem.Canonical.catchUp {m : Mem} {e : Nat} {t : SMap Nat} (h : m.Canonical) : (m.catchUp e t).Canonical :=
  h.foldl (fun _ _ h => h.foldl (fun _ _ h => h.arrive.ite h) _) _

theorem Mem.Canonical.acquire {m : Mem} {e a pa n : Nat} (h : m.Canonical) : (m.acquire e a pa n).Canonical :=
  h.foldl (fun _ _ h => h.catchUp) _

theorem Mem.Canonical.write {m : Mem} {e pa : Nat} {l : List Byte} {q : Bool} (h : m.Canonical) :
    (m.write e pa l q).Canonical := (h.acquire.ite h).withClock.applyAt.withFlight

theorem Mem.Canonical.observe {m : Mem} {d : Nat} {ps : List (Nat × Nat)} (h : m.Canonical) : (m.observe d ps).Canonical :=
  h.foldl (fun _ _ h => h.acquire.ite h) _

theorem Mem.Canonical.spread {m : Mem} {e : Nat} (h : m.Canonical) : (m.spread e).Canonical :=
  h.foldl (fun _ _ h => h.catchUp) _

theorem Mem.Canonical.gather {m : Mem} {e : Nat} (h : m.Canonical) : (m.gather e).Canonical :=
  h.foldl (fun _ _ h => h.catchUp) _

theorem Mem.Canonical.spadPut {m : Mem} {x : Held} {k : Nat} {l : List Byte} {q : Bool} (h : m.Canonical) :
    (m.spadPut x k l q).Canonical :=
  ⟨h.1, h.2.1, h.2.2.1, h.2.2.2.1, Memory.wf_puts h.2.2.2.2.1,
    SMap.wf_foldl _ _ (fun _ _ h => SMap.wf_set h) h.2.2.2.2.2.1, SMap.wf_foldl _ _ (fun _ _ h => SMap.wf_set h) h.2.2.2.2.2.2⟩

theorem Mem.Canonical.pass {m : Mem} {d : Nat} (h : m.Canonical) : (m.pass d).Canonical := h.write

theorem Mem.Canonical.spadWrite {m : Mem} {k : Nat} {l : List Byte} {q : Bool} (h : m.Canonical) :
    (m.spadWrite k l q).Canonical := h.pass.spadPut

theorem Mem.Canonical.spadStore {m : Mem} {d k : Nat} {l : List Byte} {q : Bool} (h : m.Canonical) :
    (m.spadStore d k l q).Canonical := by
  unfold Mem.spadStore
  exact h.spadWrite.ite (h.pass.catchUp.spadPut.ite (h.pass.catchUp.foldl (fun _ _ h => h.spadPut.ite h) _))

theorem Mem.Canonical.spadAcquire {m : Mem} {d k n : Nat} (h : m.Canonical) : (m.spadAcquire d k n).Canonical :=
  h.foldl (fun _ _ h => h.catchUp) _

/-- A fold that carries the bytes left beside the memory keeps the form. -/
theorem Mem.Canonical.foldlPair {β γ : Type} {f : Mem × γ → β → Mem × γ} (hf : ∀ a b, a.1.Canonical → (f a b).1.Canonical)
    (l : List β) : ∀ {a : Mem × γ}, a.1.Canonical → (l.foldl f a).1.Canonical := by
  induction l with
  | nil => intro a h; exact h
  | cons b r ih => intro a h; exact ih (hf _ _ h)

theorem Mem.Canonical.writeParts {m : Mem} {e : Nat} {ps : List (Nat × Nat)} {l : List Byte} {q : Bool} (h : m.Canonical) :
    (m.writeParts e ps l q).Canonical := h.foldlPair (a := (m, l)) (fun _ _ h => h.write) ps

theorem Mem.Canonical.writeGranules {e : Nat} {q : Bool} (n : Nat) :
    ∀ {m : Mem} {pa : Nat} {l : List Byte}, m.Canonical → (Mem.writeGranules e q n m pa l).Canonical := by
  induction n with
  | zero => intro m pa l h; exact h
  | succ n ih =>
    intro m pa l h
    rw [Mem.writeGranules]
    split
    · exact h
    · exact ih h.write

theorem Mem.Canonical.landParts {m : Mem} {e : Nat} {ps : List (Nat × Nat)} {l : List Byte} {q : Bool} (h : m.Canonical) :
    (m.landParts e ps l q).Canonical := h.foldlPair (a := (m, l)) (fun _ _ h => h.writeGranules _) ps

theorem Mem.Canonical.strongPrep {m : Mem} {e a pa n : Nat} {w : Bool} {t : SMap Nat} (h : m.Canonical) :
    (m.strongPrep e a pa n w t).Canonical := h.catchUp.ite h.catchUp.acquire

theorem Mem.Canonical.strongWrite {m : Mem} {e a pa : Nat} {l : List Byte} {q : Bool} (h : m.Canonical) :
    (m.strongWrite e a pa l q).Canonical := by
  unfold Mem.strongWrite; exact h.write.acquire

end Sys2Proof.Machine
end

