-- ==== Sys2Proof/Laws/State.lean ====
section
/-! SUPPORT. What each named update of a continuation or of the machine leaves alone: one equation per field. -/

namespace Sys2Proof.Machine

@[simp] theorem Cont.setG_id (m : Cont) (f : GF) (v : Word) : (m.setG f v).id = m.id := by
  unfold Cont.setG; split <;> rfl
@[simp] theorem Cont.setG_pc (m : Cont) (f : GF) (v : Word) : (m.setG f v).pc = m.pc := by
  unfold Cont.setG; split <;> rfl
@[simp] theorem Cont.setG_state (m : Cont) (f : GF) (v : Word) : (m.setG f v).state = m.state := by
  unfold Cont.setG; split <;> rfl
@[simp] theorem Cont.setG_prio (m : Cont) (f : GF) (v : Word) : (m.setG f v).prio = m.prio := by
  unfold Cont.setG; split <;> rfl
@[simp] theorem Cont.setG_save (m : Cont) (f : GF) (v : Word) : (m.setG f v).save = m.save := by
  unfold Cont.setG; split <;> rfl
@[simp] theorem Cont.setG_waddr (m : Cont) (f : GF) (v : Word) : (m.setG f v).waddr = m.waddr := by
  unfold Cont.setG; split <;> rfl
@[simp] theorem Cont.setG_wval (m : Cont) (f : GF) (v : Word) : (m.setG f v).wval = m.wval := by
  unfold Cont.setG; split <;> rfl
@[simp] theorem Cont.setG_wcond (m : Cont) (f : GF) (v : Word) : (m.setG f v).wcond = m.wcond := by
  unfold Cont.setG; split <;> rfl
@[simp] theorem Cont.setG_team (m : Cont) (f : GF) (v : Word) : (m.setG f v).team = m.team := by
  unfold Cont.setG; split <;> rfl
@[simp] theorem Cont.setG_rank (m : Cont) (f : GF) (v : Word) : (m.setG f v).rank = m.rank := by
  unfold Cont.setG; split <;> rfl
@[simp] theorem Cont.setG_grid (m : Cont) (f : GF) (v : Word) : (m.setG f v).grid = m.grid := by
  unfold Cont.setG; split <;> rfl
@[simp] theorem Cont.setG_taskRec (m : Cont) (f : GF) (v : Word) : (m.setG f v).taskRec = m.taskRec := by
  unfold Cont.setG; split <;> rfl
@[simp] theorem Cont.setG_rtime (m : Cont) (f : GF) (v : Word) : (m.setG f v).rtime = m.rtime := by
  unfold Cont.setG; split <;> rfl
@[simp] theorem Cont.setG_ppol (m : Cont) (f : GF) (v : Word) : (m.setG f v).ppol = m.ppol := by
  unfold Cont.setG; split <;> rfl
@[simp] theorem Cont.setG_tcause (m : Cont) (f : GF) (v : Word) : (m.setG f v).tcause = m.tcause := by
  unfold Cont.setG; split <;> rfl
@[simp] theorem Cont.setG_fslot (m : Cont) (f : GF) (v : Word) : (m.setG f v).fslot = m.fslot := by
  unfold Cont.setG; split <;> rfl
@[simp] theorem Cont.setG_recVa (m : Cont) (f : GF) (v : Word) : (m.setG f v).recVa = m.recVa := by
  unfold Cont.setG; split <;> rfl
@[simp] theorem Cont.setG_task (m : Cont) (f : GF) (v : Word) : (m.setG f v).task = m.task := by
  unfold Cont.setG; split <;> rfl
@[simp] theorem Cont.setG_ctx (m : Cont) (f : GF) (v : Word) : (m.setG f v).ctx = m.ctx := by
  unfold Cont.setG; split <;> rfl
@[simp] theorem Cont.setG_die (m : Cont) (f : GF) (v : Word) : (m.setG f v).die = m.die := by
  unfold Cont.setG; split <;> rfl
@[simp] theorem Cont.setG_core (m : Cont) (f : GF) (v : Word) : (m.setG f v).core = m.core := by
  unfold Cont.setG; split <;> rfl
@[simp] theorem Cont.setG_slot (m : Cont) (f : GF) (v : Word) : (m.setG f v).slot = m.slot := by
  unfold Cont.setG; split <;> rfl
@[simp] theorem Cont.setG_resident (m : Cont) (f : GF) (v : Word) : (m.setG f v).resident = m.resident := by
  unfold Cont.setG; split <;> rfl
@[simp] theorem Cont.setG_winBase (m : Cont) (f : GF) (v : Word) : (m.setG f v).winBase = m.winBase := by
  unfold Cont.setG; split <;> rfl
@[simp] theorem Cont.setG_winLimit (m : Cont) (f : GF) (v : Word) : (m.setG f v).winLimit = m.winLimit := by
  unfold Cont.setG; split <;> rfl
@[simp] theorem Cont.setG_claim (m : Cont) (f : GF) (v : Word) : (m.setG f v).claim = m.claim := by
  unfold Cont.setG; split <;> rfl
@[simp] theorem Cont.setG_starting (m : Cont) (f : GF) (v : Word) : (m.setG f v).starting = m.starting := by
  unfold Cont.setG; split <;> rfl
@[simp] theorem Cont.setG_stage0 (m : Cont) (f : GF) (v : Word) : (m.setG f v).stage0 = m.stage0 := by
  unfold Cont.setG; split <;> rfl
@[simp] theorem Cont.setG_streams (m : Cont) (f : GF) (v : Word) : (m.setG f v).streams = m.streams := by
  unfold Cont.setG; split <;> rfl
@[simp] theorem Cont.setG_p (m : Cont) (f : GF) (v : Word) : (m.setG f v).p = m.p := by
  unfold Cont.setG; split <;> rfl
@[simp] theorem Cont.setG_b (m : Cont) (f : GF) (v : Word) : (m.setG f v).b = m.b := by
  unfold Cont.setG; split <;> rfl
@[simp] theorem Cont.setG_lc (m : Cont) (f : GF) (v : Word) : (m.setG f v).lc = m.lc := by
  unfold Cont.setG; split <;> rfl
@[simp] theorem Cont.setG_vl (m : Cont) (f : GF) (v : Word) : (m.setG f v).vl = m.vl := by
  unfold Cont.setG; split <;> rfl
@[simp] theorem Cont.setG_fmt (m : Cont) (f : GF) (v : Word) : (m.setG f v).fmt = m.fmt := by
  unfold Cont.setG; split <;> rfl
@[simp] theorem Cont.setG_fmtOld (m : Cont) (f : GF) (v : Word) : (m.setG f v).fmtOld = m.fmtOld := by
  unfold Cont.setG; split <;> rfl
@[simp] theorem Cont.setG_flags (m : Cont) (f : GF) (v : Word) : (m.setG f v).flags = m.flags := by
  unfold Cont.setG; split <;> rfl
@[simp] theorem Cont.setG_tx (m : Cont) (f : GF) (v : Word) : (m.setG f v).tx = m.tx := by
  unfold Cont.setG; split <;> rfl
@[simp] theorem Cont.setG_ag (m : Cont) (f : GF) (v : Word) : (m.setG f v).ag = m.ag := by
  unfold Cont.setG; split <;> rfl
@[simp] theorem Cont.setG_blocks (m : Cont) (f : GF) (v : Word) : (m.setG f v).blocks = m.blocks := by
  unfold Cont.setG; split <;> rfl
@[simp] theorem Cont.setG_tvec (m : Cont) (f : GF) (v : Word) : (m.setG f v).tvec = m.tvec := by
  unfold Cont.setG; split <;> rfl
@[simp] theorem Cont.setG_tsave (m : Cont) (f : GF) (v : Word) : (m.setG f v).tsave = m.tsave := by
  unfold Cont.setG; split <;> rfl
@[simp] theorem Cont.setG_trapen (m : Cont) (f : GF) (v : Word) : (m.setG f v).trapen = m.trapen := by
  unfold Cont.setG; split <;> rfl
@[simp] theorem Cont.setG_fev (m : Cont) (f : GF) (v : Word) : (m.setG f v).fev = m.fev := by
  unfold Cont.setG; split <;> rfl
@[simp] theorem Cont.setG_sysMode (m : Cont) (f : GF) (v : Word) : (m.setG f v).sysMode = m.sysMode := by
  unfold Cont.setG; split <;> rfl
@[simp] theorem Cont.setG_imprecise (m : Cont) (f : GF) (v : Word) : (m.setG f v).imprecise = m.imprecise := by
  unfold Cont.setG; split <;> rfl
@[simp] theorem Cont.setG_flagTrap (m : Cont) (f : GF) (v : Word) : (m.setG f v).flagTrap = m.flagTrap := by
  unfold Cont.setG; split <;> rfl
@[simp] theorem Cont.setG_vpend (m : Cont) (f : GF) (v : Word) : (m.setG f v).vpend = m.vpend := by
  unfold Cont.setG; split <;> rfl
@[simp] theorem Cont.setG_mx (m : Cont) (f : GF) (v : Word) : (m.setG f v).mx = m.mx := by
  unfold Cont.setG; split <;> rfl
@[simp] theorem Cont.setG_cursor (m : Cont) (f : GF) (v : Word) : (m.setG f v).cursor = m.cursor := by
  unfold Cont.setG; split <;> rfl
@[simp] theorem Cont.setG_groupLen (m : Cont) (f : GF) (v : Word) : (m.setG f v).groupLen = m.groupLen := by
  unfold Cont.setG; split <;> rfl
@[simp] theorem Cont.setG_groupWrites (m : Cont) (f : GF) (v : Word) : (m.setG f v).groupWrites = m.groupWrites := by
  unfold Cont.setG; split <;> rfl
@[simp] theorem Cont.setG_groupVl (m : Cont) (f : GF) (v : Word) : (m.setG f v).groupVl = m.groupVl := by
  unfold Cont.setG; split <;> rfl
@[simp] theorem Cont.setG_holds (m : Cont) (f : GF) (v : Word) : (m.setG f v).holds = m.holds := by
  unfold Cont.setG; split <;> rfl
@[simp] theorem Cont.setG_sig (m : Cont) (f : GF) (v : Word) : (m.setG f v).sig = m.sig := by
  unfold Cont.setG; split <;> rfl
@[simp] theorem Cont.setG_answers (m : Cont) (f : GF) (v : Word) : (m.setG f v).answers = m.answers := by
  unfold Cont.setG; split <;> rfl
@[simp] theorem Cont.setG_barr (m : Cont) (f : GF) (v : Word) : (m.setG f v).barr = m.barr := by
  unfold Cont.setG; split <;> rfl
@[simp] theorem Cont.setG_inTlbcnf (m : Cont) (f : GF) (v : Word) : (m.setG f v).inTlbcnf = m.inTlbcnf := by
  unfold Cont.setG; split <;> rfl
@[simp] theorem Cont.setG_since (m : Cont) (f : GF) (v : Word) : (m.setG f v).since = m.since := by
  unfold Cont.setG; split <;> rfl
@[simp] theorem Cont.setG_image (m : Cont) (f : GF) (v : Word) : (m.setG f v).image = m.image := by
  unfold Cont.setG; split <;> rfl
@[simp] theorem Cont.setG_imaged (m : Cont) (f : GF) (v : Word) : (m.setG f v).imaged = m.imaged := by
  unfold Cont.setG; split <;> rfl
@[simp] theorem Cont.setG_early (m : Cont) (f : GF) (v : Word) : (m.setG f v).early = m.early := by
  unfold Cont.setG; split <;> rfl
@[simp] theorem Cont.setG_imagePoison (m : Cont) (f : GF) (v : Word) : (m.setG f v).imagePoison = m.imagePoison := by
  unfold Cont.setG; split <;> rfl
@[simp] theorem Cont.setG_recPa (m : Cont) (f : GF) (v : Word) : (m.setG f v).recPa = m.recPa := by
  unfold Cont.setG; split <;> rfl
@[simp] theorem Cont.setG_savePa (m : Cont) (f : GF) (v : Word) : (m.setG f v).savePa = m.savePa := by
  unfold Cont.setG; split <;> rfl
@[simp] theorem Cont.setG_past (m : Cont) (f : GF) (v : Word) : (m.setG f v).past = m.past := by
  unfold Cont.setG; split <;> rfl
@[simp] theorem Cont.setG_vlGroup (m : Cont) (f : GF) (v : Word) : (m.setG f v).vlGroup = m.vlGroup := by
  unfold Cont.setG; split <;> rfl
@[simp] theorem Cont.setG_bundles (m : Cont) (f : GF) (v : Word) : (m.setG f v).bundles = m.bundles := by
  unfold Cont.setG; split <;> rfl
@[simp] theorem Cont.setG_groups (m : Cont) (f : GF) (v : Word) : (m.setG f v).groups = m.groups := by
  unfold Cont.setG; split <;> rfl
@[simp] theorem Cont.setG_queue (m : Cont) (f : GF) (v : Word) : (m.setG f v).queue = m.queue := by
  unfold Cont.setG; split <;> rfl
@[simp] theorem Cont.setG_timid (m : Cont) (f : GF) (v : Word) : (m.setG f v).timid = m.timid := by
  unfold Cont.setG; split <;> rfl
@[simp] theorem Cont.setG_lag (m : Cont) (f : GF) (v : Word) : (m.setG f v).lag = m.lag := by
  unfold Cont.setG; split <;> rfl
@[simp] theorem Cont.setG_fmtUndo (m : Cont) (f : GF) (v : Word) : (m.setG f v).fmtUndo = m.fmtUndo := by
  unfold Cont.setG; split <;> rfl
@[simp] theorem Cont.setG_given (m : Cont) (f : GF) (v : Word) : (m.setG f v).given = m.given := by
  unfold Cont.setG; split <;> rfl

@[simp] theorem Cont.markG_id (m : Cont) (f : GF) (n : Nat) : (m.markG f n).id = m.id := rfl
@[simp] theorem Cont.markG_pc (m : Cont) (f : GF) (n : Nat) : (m.markG f n).pc = m.pc := rfl
@[simp] theorem Cont.markG_state (m : Cont) (f : GF) (n : Nat) : (m.markG f n).state = m.state := rfl
@[simp] theorem Cont.markG_prio (m : Cont) (f : GF) (n : Nat) : (m.markG f n).prio = m.prio := rfl
@[simp] theorem Cont.markG_save (m : Cont) (f : GF) (n : Nat) : (m.markG f n).save = m.save := rfl
@[simp] theorem Cont.markG_waddr (m : Cont) (f : GF) (n : Nat) : (m.markG f n).waddr = m.waddr := rfl
@[simp] theorem Cont.markG_wval (m : Cont) (f : GF) (n : Nat) : (m.markG f n).wval = m.wval := rfl
@[simp] theorem Cont.markG_wcond (m : Cont) (f : GF) (n : Nat) : (m.markG f n).wcond = m.wcond := rfl
@[simp] theorem Cont.markG_team (m : Cont) (f : GF) (n : Nat) : (m.markG f n).team = m.team := rfl
@[simp] theorem Cont.markG_rank (m : Cont) (f : GF) (n : Nat) : (m.markG f n).rank = m.rank := rfl
@[simp] theorem Cont.markG_grid (m : Cont) (f : GF) (n : Nat) : (m.markG f n).grid = m.grid := rfl
@[simp] theorem Cont.markG_taskRec (m : Cont) (f : GF) (n : Nat) : (m.markG f n).taskRec = m.taskRec := rfl
@[simp] theorem Cont.markG_rtime (m : Cont) (f : GF) (n : Nat) : (m.markG f n).rtime = m.rtime := rfl
@[simp] theorem Cont.markG_ppol (m : Cont) (f : GF) (n : Nat) : (m.markG f n).ppol = m.ppol := rfl
@[simp] theorem Cont.markG_tcause (m : Cont) (f : GF) (n : Nat) : (m.markG f n).tcause = m.tcause := rfl
@[simp] theorem Cont.markG_fslot (m : Cont) (f : GF) (n : Nat) : (m.markG f n).fslot = m.fslot := rfl
@[simp] theorem Cont.markG_recVa (m : Cont) (f : GF) (n : Nat) : (m.markG f n).recVa = m.recVa := rfl
@[simp] theorem Cont.markG_task (m : Cont) (f : GF) (n : Nat) : (m.markG f n).task = m.task := rfl
@[simp] theorem Cont.markG_ctx (m : Cont) (f : GF) (n : Nat) : (m.markG f n).ctx = m.ctx := rfl
@[simp] theorem Cont.markG_die (m : Cont) (f : GF) (n : Nat) : (m.markG f n).die = m.die := rfl
@[simp] theorem Cont.markG_core (m : Cont) (f : GF) (n : Nat) : (m.markG f n).core = m.core := rfl
@[simp] theorem Cont.markG_slot (m : Cont) (f : GF) (n : Nat) : (m.markG f n).slot = m.slot := rfl
@[simp] theorem Cont.markG_resident (m : Cont) (f : GF) (n : Nat) : (m.markG f n).resident = m.resident := rfl
@[simp] theorem Cont.markG_winBase (m : Cont) (f : GF) (n : Nat) : (m.markG f n).winBase = m.winBase := rfl
@[simp] theorem Cont.markG_winLimit (m : Cont) (f : GF) (n : Nat) : (m.markG f n).winLimit = m.winLimit := rfl
@[simp] theorem Cont.markG_claim (m : Cont) (f : GF) (n : Nat) : (m.markG f n).claim = m.claim := rfl
@[simp] theorem Cont.markG_starting (m : Cont) (f : GF) (n : Nat) : (m.markG f n).starting = m.starting := rfl
@[simp] theorem Cont.markG_stage0 (m : Cont) (f : GF) (n : Nat) : (m.markG f n).stage0 = m.stage0 := rfl
@[simp] theorem Cont.markG_g (m : Cont) (f : GF) (n : Nat) : (m.markG f n).g = m.g := rfl
@[simp] theorem Cont.markG_gPoison (m : Cont) (f : GF) (n : Nat) : (m.markG f n).gPoison = vset m.gPoison f.toNat (some (toW n)) := rfl
@[simp] theorem Cont.markG_streams (m : Cont) (f : GF) (n : Nat) : (m.markG f n).streams = m.streams := rfl
@[simp] theorem Cont.markG_p (m : Cont) (f : GF) (n : Nat) : (m.markG f n).p = m.p := rfl
@[simp] theorem Cont.markG_b (m : Cont) (f : GF) (n : Nat) : (m.markG f n).b = m.b := rfl
@[simp] theorem Cont.markG_lc (m : Cont) (f : GF) (n : Nat) : (m.markG f n).lc = m.lc := rfl
@[simp] theorem Cont.markG_vl (m : Cont) (f : GF) (n : Nat) : (m.markG f n).vl = m.vl := rfl
@[simp] theorem Cont.markG_fmt (m : Cont) (f : GF) (n : Nat) : (m.markG f n).fmt = m.fmt := rfl
@[simp] theorem Cont.markG_fmtOld (m : Cont) (f : GF) (n : Nat) : (m.markG f n).fmtOld = m.fmtOld := rfl
@[simp] theorem Cont.markG_flags (m : Cont) (f : GF) (n : Nat) : (m.markG f n).flags = m.flags := rfl
@[simp] theorem Cont.markG_tx (m : Cont) (f : GF) (n : Nat) : (m.markG f n).tx = m.tx := rfl
@[simp] theorem Cont.markG_ag (m : Cont) (f : GF) (n : Nat) : (m.markG f n).ag = m.ag := rfl
@[simp] theorem Cont.markG_blocks (m : Cont) (f : GF) (n : Nat) : (m.markG f n).blocks = m.blocks := rfl
@[simp] theorem Cont.markG_tvec (m : Cont) (f : GF) (n : Nat) : (m.markG f n).tvec = m.tvec := rfl
@[simp] theorem Cont.markG_tsave (m : Cont) (f : GF) (n : Nat) : (m.markG f n).tsave = m.tsave := rfl
@[simp] theorem Cont.markG_trapen (m : Cont) (f : GF) (n : Nat) : (m.markG f n).trapen = m.trapen := rfl
@[simp] theorem Cont.markG_fev (m : Cont) (f : GF) (n : Nat) : (m.markG f n).fev = m.fev := rfl
@[simp] theorem Cont.markG_sysMode (m : Cont) (f : GF) (n : Nat) : (m.markG f n).sysMode = m.sysMode := rfl
@[simp] theorem Cont.markG_imprecise (m : Cont) (f : GF) (n : Nat) : (m.markG f n).imprecise = m.imprecise := rfl
@[simp] theorem Cont.markG_flagTrap (m : Cont) (f : GF) (n : Nat) : (m.markG f n).flagTrap = m.flagTrap := rfl
@[simp] theorem Cont.markG_vpend (m : Cont) (f : GF) (n : Nat) : (m.markG f n).vpend = m.vpend := rfl
@[simp] theorem Cont.markG_mx (m : Cont) (f : GF) (n : Nat) : (m.markG f n).mx = m.mx := rfl
@[simp] theorem Cont.markG_cursor (m : Cont) (f : GF) (n : Nat) : (m.markG f n).cursor = m.cursor := rfl
@[simp] theorem Cont.markG_groupLen (m : Cont) (f : GF) (n : Nat) : (m.markG f n).groupLen = m.groupLen := rfl
@[simp] theorem Cont.markG_groupWrites (m : Cont) (f : GF) (n : Nat) : (m.markG f n).groupWrites = m.groupWrites := rfl
@[simp] theorem Cont.markG_groupVl (m : Cont) (f : GF) (n : Nat) : (m.markG f n).groupVl = m.groupVl := rfl
@[simp] theorem Cont.markG_holds (m : Cont) (f : GF) (n : Nat) : (m.markG f n).holds = m.holds := rfl
@[simp] theorem Cont.markG_sig (m : Cont) (f : GF) (n : Nat) : (m.markG f n).sig = m.sig := rfl
@[simp] theorem Cont.markG_answers (m : Cont) (f : GF) (n : Nat) : (m.markG f n).answers = m.answers := rfl
@[simp] theorem Cont.markG_barr (m : Cont) (f : GF) (n : Nat) : (m.markG f n).barr = m.barr := rfl
@[simp] theorem Cont.markG_inTlbcnf (m : Cont) (f : GF) (n : Nat) : (m.markG f n).inTlbcnf = m.inTlbcnf := rfl
@[simp] theorem Cont.markG_since (m : Cont) (f : GF) (n : Nat) : (m.markG f n).since = m.since := rfl
@[simp] theorem Cont.markG_image (m : Cont) (f : GF) (n : Nat) : (m.markG f n).image = m.image := rfl
@[simp] theorem Cont.markG_imaged (m : Cont) (f : GF) (n : Nat) : (m.markG f n).imaged = m.imaged := rfl
@[simp] theorem Cont.markG_early (m : Cont) (f : GF) (n : Nat) : (m.markG f n).early = m.early := rfl
@[simp] theorem Cont.markG_imagePoison (m : Cont) (f : GF) (n : Nat) : (m.markG f n).imagePoison = m.imagePoison := rfl
@[simp] theorem Cont.markG_recPa (m : Cont) (f : GF) (n : Nat) : (m.markG f n).recPa = m.recPa := rfl
@[simp] theorem Cont.markG_savePa (m : Cont) (f : GF) (n : Nat) : (m.markG f n).savePa = m.savePa := rfl
@[simp] theorem Cont.markG_past (m : Cont) (f : GF) (n : Nat) : (m.markG f n).past = m.past := rfl
@[simp] theorem Cont.markG_vlGroup (m : Cont) (f : GF) (n : Nat) : (m.markG f n).vlGroup = m.vlGroup := rfl
@[simp] theorem Cont.markG_bundles (m : Cont) (f : GF) (n : Nat) : (m.markG f n).bundles = m.bundles := rfl
@[simp] theorem Cont.markG_groups (m : Cont) (f : GF) (n : Nat) : (m.markG f n).groups = m.groups := rfl
@[simp] theorem Cont.markG_queue (m : Cont) (f : GF) (n : Nat) : (m.markG f n).queue = m.queue := rfl
@[simp] theorem Cont.markG_timid (m : Cont) (f : GF) (n : Nat) : (m.markG f n).timid = m.timid := rfl
@[simp] theorem Cont.markG_lag (m : Cont) (f : GF) (n : Nat) : (m.markG f n).lag = m.lag := rfl
@[simp] theorem Cont.markG_fmtUndo (m : Cont) (f : GF) (n : Nat) : (m.markG f n).fmtUndo = m.fmtUndo := rfl
@[simp] theorem Cont.markG_given (m : Cont) (f : GF) (n : Nat) : (m.markG f n).given = m.given := rfl

@[simp] theorem Cont.setPred_id (m : Cont) (k : Nat) (b : Bool) : (m.setPred k b).id = m.id := by
  unfold Cont.setPred; split <;> rfl
@[simp] theorem Cont.setPred_pc (m : Cont) (k : Nat) (b : Bool) : (m.setPred k b).pc = m.pc := by
  unfold Cont.setPred; split <;> rfl
@[simp] theorem Cont.setPred_state (m : Cont) (k : Nat) (b : Bool) : (m.setPred k b).state = m.state := by
  unfold Cont.setPred; split <;> rfl
@[simp] theorem Cont.setPred_prio (m : Cont) (k : Nat) (b : Bool) : (m.setPred k b).prio = m.prio := by
  unfold Cont.setPred; split <;> rfl
@[simp] theorem Cont.setPred_save (m : Cont) (k : Nat) (b : Bool) : (m.setPred k b).save = m.save := by
  unfold Cont.setPred; split <;> rfl
@[simp] theorem Cont.setPred_waddr (m : Cont) (k : Nat) (b : Bool) : (m.setPred k b).waddr = m.waddr := by
  unfold Cont.setPred; split <;> rfl
@[simp] theorem Cont.setPred_wval (m : Cont) (k : Nat) (b : Bool) : (m.setPred k b).wval = m.wval := by
  unfold Cont.setPred; split <;> rfl
@[simp] theorem Cont.setPred_wcond (m : Cont) (k : Nat) (b : Bool) : (m.setPred k b).wcond = m.wcond := by
  unfold Cont.setPred; split <;> rfl
@[simp] theorem Cont.setPred_team (m : Cont) (k : Nat) (b : Bool) : (m.setPred k b).team = m.team := by
  unfold Cont.setPred; split <;> rfl
@[simp] theorem Cont.setPred_rank (m : Cont) (k : Nat) (b : Bool) : (m.setPred k b).rank = m.rank := by
  unfold Cont.setPred; split <;> rfl
@[simp] theorem Cont.setPred_grid (m : Cont) (k : Nat) (b : Bool) : (m.setPred k b).grid = m.grid := by
  unfold Cont.setPred; split <;> rfl
@[simp] theorem Cont.setPred_taskRec (m : Cont) (k : Nat) (b : Bool) : (m.setPred k b).taskRec = m.taskRec := by
  unfold Cont.setPred; split <;> rfl
@[simp] theorem Cont.setPred_rtime (m : Cont) (k : Nat) (b : Bool) : (m.setPred k b).rtime = m.rtime := by
  unfold Cont.setPred; split <;> rfl
@[simp] theorem Cont.setPred_ppol (m : Cont) (k : Nat) (b : Bool) : (m.setPred k b).ppol = m.ppol := by
  unfold Cont.setPred; split <;> rfl
@[simp] theorem Cont.setPred_tcause (m : Cont) (k : Nat) (b : Bool) : (m.setPred k b).tcause = m.tcause := by
  unfold Cont.setPred; split <;> rfl
@[simp] theorem Cont.setPred_fslot (m : Cont) (k : Nat) (b : Bool) : (m.setPred k b).fslot = m.fslot := by
  unfold Cont.setPred; split <;> rfl
@[simp] theorem Cont.setPred_recVa (m : Cont) (k : Nat) (b : Bool) : (m.setPred k b).recVa = m.recVa := by
  unfold Cont.setPred; split <;> rfl
@[simp] theorem Cont.setPred_task (m : Cont) (k : Nat) (b : Bool) : (m.setPred k b).task = m.task := by
  unfold Cont.setPred; split <;> rfl
@[simp] theorem Cont.setPred_ctx (m : Cont) (k : Nat) (b : Bool) : (m.setPred k b).ctx = m.ctx := by
  unfold Cont.setPred; split <;> rfl
@[simp] theorem Cont.setPred_die (m : Cont) (k : Nat) (b : Bool) : (m.setPred k b).die = m.die := by
  unfold Cont.setPred; split <;> rfl
@[simp] theorem Cont.setPred_core (m : Cont) (k : Nat) (b : Bool) : (m.setPred k b).core = m.core := by
  unfold Cont.setPred; split <;> rfl
@[simp] theorem Cont.setPred_slot (m : Cont) (k : Nat) (b : Bool) : (m.setPred k b).slot = m.slot := by
  unfold Cont.setPred; split <;> rfl
@[simp] theorem Cont.setPred_resident (m : Cont) (k : Nat) (b : Bool) : (m.setPred k b).resident = m.resident := by
  unfold Cont.setPred; split <;> rfl
@[simp] theorem Cont.setPred_winBase (m : Cont) (k : Nat) (b : Bool) : (m.setPred k b).winBase = m.winBase := by
  unfold Cont.setPred; split <;> rfl
@[simp] theorem Cont.setPred_winLimit (m : Cont) (k : Nat) (b : Bool) : (m.setPred k b).winLimit = m.winLimit := by
  unfold Cont.setPred; split <;> rfl
@[simp] theorem Cont.setPred_claim (m : Cont) (k : Nat) (b : Bool) : (m.setPred k b).claim = m.claim := by
  unfold Cont.setPred; split <;> rfl
@[simp] theorem Cont.setPred_starting (m : Cont) (k : Nat) (b : Bool) : (m.setPred k b).starting = m.starting := by
  unfold Cont.setPred; split <;> rfl
@[simp] theorem Cont.setPred_stage0 (m : Cont) (k : Nat) (b : Bool) : (m.setPred k b).stage0 = m.stage0 := by
  unfold Cont.setPred; split <;> rfl
@[simp] theorem Cont.setPred_g (m : Cont) (k : Nat) (b : Bool) : (m.setPred k b).g = m.g := by
  unfold Cont.setPred; split <;> rfl
@[simp] theorem Cont.setPred_gPoison (m : Cont) (k : Nat) (b : Bool) : (m.setPred k b).gPoison = m.gPoison := by
  unfold Cont.setPred; split <;> rfl
@[simp] theorem Cont.setPred_streams (m : Cont) (k : Nat) (b : Bool) : (m.setPred k b).streams = m.streams := by
  unfold Cont.setPred; split <;> rfl
@[simp] theorem Cont.setPred_b (m : Cont) (k : Nat) (b : Bool) : (m.setPred k b).b = m.b := by
  unfold Cont.setPred; split <;> rfl
@[simp] theorem Cont.setPred_lc (m : Cont) (k : Nat) (b : Bool) : (m.setPred k b).lc = m.lc := by
  unfold Cont.setPred; split <;> rfl
@[simp] theorem Cont.setPred_vl (m : Cont) (k : Nat) (b : Bool) : (m.setPred k b).vl = m.vl := by
  unfold Cont.setPred; split <;> rfl
@[simp] theorem Cont.setPred_fmt (m : Cont) (k : Nat) (b : Bool) : (m.setPred k b).fmt = m.fmt := by
  unfold Cont.setPred; split <;> rfl
@[simp] theorem Cont.setPred_fmtOld (m : Cont) (k : Nat) (b : Bool) : (m.setPred k b).fmtOld = m.fmtOld := by
  unfold Cont.setPred; split <;> rfl
@[simp] theorem Cont.setPred_flags (m : Cont) (k : Nat) (b : Bool) : (m.setPred k b).flags = m.flags := by
  unfold Cont.setPred; split <;> rfl
@[simp] theorem Cont.setPred_tx (m : Cont) (k : Nat) (b : Bool) : (m.setPred k b).tx = m.tx := by
  unfold Cont.setPred; split <;> rfl
@[simp] theorem Cont.setPred_ag (m : Cont) (k : Nat) (b : Bool) : (m.setPred k b).ag = m.ag := by
  unfold Cont.setPred; split <;> rfl
@[simp] theorem Cont.setPred_blocks (m : Cont) (k : Nat) (b : Bool) : (m.setPred k b).blocks = m.blocks := by
  unfold Cont.setPred; split <;> rfl
@[simp] theorem Cont.setPred_tvec (m : Cont) (k : Nat) (b : Bool) : (m.setPred k b).tvec = m.tvec := by
  unfold Cont.setPred; split <;> rfl
@[simp] theorem Cont.setPred_tsave (m : Cont) (k : Nat) (b : Bool) : (m.setPred k b).tsave = m.tsave := by
  unfold Cont.setPred; split <;> rfl
@[simp] theorem Cont.setPred_trapen (m : Cont) (k : Nat) (b : Bool) : (m.setPred k b).trapen = m.trapen := by
  unfold Cont.setPred; split <;> rfl
@[simp] theorem Cont.setPred_fev (m : Cont) (k : Nat) (b : Bool) : (m.setPred k b).fev = m.fev := by
  unfold Cont.setPred; split <;> rfl
@[simp] theorem Cont.setPred_sysMode (m : Cont) (k : Nat) (b : Bool) : (m.setPred k b).sysMode = m.sysMode := by
  unfold Cont.setPred; split <;> rfl
@[simp] theorem Cont.setPred_imprecise (m : Cont) (k : Nat) (b : Bool) : (m.setPred k b).imprecise = m.imprecise := by
  unfold Cont.setPred; split <;> rfl
@[simp] theorem Cont.setPred_flagTrap (m : Cont) (k : Nat) (b : Bool) : (m.setPred k b).flagTrap = m.flagTrap := by
  unfold Cont.setPred; split <;> rfl
@[simp] theorem Cont.setPred_vpend (m : Cont) (k : Nat) (b : Bool) : (m.setPred k b).vpend = m.vpend := by
  unfold Cont.setPred; split <;> rfl
@[simp] theorem Cont.setPred_mx (m : Cont) (k : Nat) (b : Bool) : (m.setPred k b).mx = m.mx := by
  unfold Cont.setPred; split <;> rfl
@[simp] theorem Cont.setPred_cursor (m : Cont) (k : Nat) (b : Bool) : (m.setPred k b).cursor = m.cursor := by
  unfold Cont.setPred; split <;> rfl
@[simp] theorem Cont.setPred_groupLen (m : Cont) (k : Nat) (b : Bool) : (m.setPred k b).groupLen = m.groupLen := by
  unfold Cont.setPred; split <;> rfl
@[simp] theorem Cont.setPred_groupWrites (m : Cont) (k : Nat) (b : Bool) : (m.setPred k b).groupWrites = m.groupWrites := by
  unfold Cont.setPred; split <;> rfl
@[simp] theorem Cont.setPred_groupVl (m : Cont) (k : Nat) (b : Bool) : (m.setPred k b).groupVl = m.groupVl := by
  unfold Cont.setPred; split <;> rfl
@[simp] theorem Cont.setPred_holds (m : Cont) (k : Nat) (b : Bool) : (m.setPred k b).holds = m.holds := by
  unfold Cont.setPred; split <;> rfl
@[simp] theorem Cont.setPred_sig (m : Cont) (k : Nat) (b : Bool) : (m.setPred k b).sig = m.sig := by
  unfold Cont.setPred; split <;> rfl
@[simp] theorem Cont.setPred_answers (m : Cont) (k : Nat) (b : Bool) : (m.setPred k b).answers = m.answers := by
  unfold Cont.setPred; split <;> rfl
@[simp] theorem Cont.setPred_barr (m : Cont) (k : Nat) (b : Bool) : (m.setPred k b).barr = m.barr := by
  unfold Cont.setPred; split <;> rfl
@[simp] theorem Cont.setPred_inTlbcnf (m : Cont) (k : Nat) (b : Bool) : (m.setPred k b).inTlbcnf = m.inTlbcnf := by
  unfold Cont.setPred; split <;> rfl
@[simp] theorem Cont.setPred_since (m : Cont) (k : Nat) (b : Bool) : (m.setPred k b).since = m.since := by
  unfold Cont.setPred; split <;> rfl
@[simp] theorem Cont.setPred_image (m : Cont) (k : Nat) (b : Bool) : (m.setPred k b).image = m.image := by
  unfold Cont.setPred; split <;> rfl
@[simp] theorem Cont.setPred_imaged (m : Cont) (k : Nat) (b : Bool) : (m.setPred k b).imaged = m.imaged := by
  unfold Cont.setPred; split <;> rfl
@[simp] theorem Cont.setPred_early (m : Cont) (k : Nat) (b : Bool) : (m.setPred k b).early = m.early := by
  unfold Cont.setPred; split <;> rfl
@[simp] theorem Cont.setPred_imagePoison (m : Cont) (k : Nat) (b : Bool) : (m.setPred k b).imagePoison = m.imagePoison := by
  unfold Cont.setPred; split <;> rfl
@[simp] theorem Cont.setPred_recPa (m : Cont) (k : Nat) (b : Bool) : (m.setPred k b).recPa = m.recPa := by
  unfold Cont.setPred; split <;> rfl
@[simp] theorem Cont.setPred_savePa (m : Cont) (k : Nat) (b : Bool) : (m.setPred k b).savePa = m.savePa := by
  unfold Cont.setPred; split <;> rfl
@[simp] theorem Cont.setPred_past (m : Cont) (k : Nat) (b : Bool) : (m.setPred k b).past = m.past := by
  unfold Cont.setPred; split <;> rfl
@[simp] theorem Cont.setPred_vlGroup (m : Cont) (k : Nat) (b : Bool) : (m.setPred k b).vlGroup = m.vlGroup := by
  unfold Cont.setPred; split <;> rfl
@[simp] theorem Cont.setPred_bundles (m : Cont) (k : Nat) (b : Bool) : (m.setPred k b).bundles = m.bundles := by
  unfold Cont.setPred; split <;> rfl
@[simp] theorem Cont.setPred_groups (m : Cont) (k : Nat) (b : Bool) : (m.setPred k b).groups = m.groups := by
  unfold Cont.setPred; split <;> rfl
@[simp] theorem Cont.setPred_queue (m : Cont) (k : Nat) (b : Bool) : (m.setPred k b).queue = m.queue := by
  unfold Cont.setPred; split <;> rfl
@[simp] theorem Cont.setPred_timid (m : Cont) (k : Nat) (b : Bool) : (m.setPred k b).timid = m.timid := by
  unfold Cont.setPred; split <;> rfl
@[simp] theorem Cont.setPred_lag (m : Cont) (k : Nat) (b : Bool) : (m.setPred k b).lag = m.lag := by
  unfold Cont.setPred; split <;> rfl
@[simp] theorem Cont.setPred_fmtUndo (m : Cont) (k : Nat) (b : Bool) : (m.setPred k b).fmtUndo = m.fmtUndo := by
  unfold Cont.setPred; split <;> rfl
@[simp] theorem Cont.setPred_given (m : Cont) (k : Nat) (b : Bool) : (m.setPred k b).given = m.given := by
  unfold Cont.setPred; split <;> rfl

@[simp] theorem Cont.setStream_id (m : Cont) (k : Nat) (r : Option StreamRec) : (m.setStream k r).id = m.id := rfl
@[simp] theorem Cont.setStream_pc (m : Cont) (k : Nat) (r : Option StreamRec) : (m.setStream k r).pc = m.pc := rfl
@[simp] theorem Cont.setStream_state (m : Cont) (k : Nat) (r : Option StreamRec) : (m.setStream k r).state = m.state := rfl
@[simp] theorem Cont.setStream_prio (m : Cont) (k : Nat) (r : Option StreamRec) : (m.setStream k r).prio = m.prio := rfl
@[simp] theorem Cont.setStream_save (m : Cont) (k : Nat) (r : Option StreamRec) : (m.setStream k r).save = m.save := rfl
@[simp] theorem Cont.setStream_waddr (m : Cont) (k : Nat) (r : Option StreamRec) : (m.setStream k r).waddr = m.waddr := rfl
@[simp] theorem Cont.setStream_wval (m : Cont) (k : Nat) (r : Option StreamRec) : (m.setStream k r).wval = m.wval := rfl
@[simp] theorem Cont.setStream_wcond (m : Cont) (k : Nat) (r : Option StreamRec) : (m.setStream k r).wcond = m.wcond := rfl
@[simp] theorem Cont.setStream_team (m : Cont) (k : Nat) (r : Option StreamRec) : (m.setStream k r).team = m.team := rfl
@[simp] theorem Cont.setStream_rank (m : Cont) (k : Nat) (r : Option StreamRec) : (m.setStream k r).rank = m.rank := rfl
@[simp] theorem Cont.setStream_grid (m : Cont) (k : Nat) (r : Option StreamRec) : (m.setStream k r).grid = m.grid := rfl
@[simp] theorem Cont.setStream_taskRec (m : Cont) (k : Nat) (r : Option StreamRec) : (m.setStream k r).taskRec = m.taskRec := rfl
@[simp] theorem Cont.setStream_rtime (m : Cont) (k : Nat) (r : Option StreamRec) : (m.setStream k r).rtime = m.rtime := rfl
@[simp] theorem Cont.setStream_ppol (m : Cont) (k : Nat) (r : Option StreamRec) : (m.setStream k r).ppol = m.ppol := rfl
@[simp] theorem Cont.setStream_tcause (m : Cont) (k : Nat) (r : Option StreamRec) : (m.setStream k r).tcause = m.tcause := rfl
@[simp] theorem Cont.setStream_fslot (m : Cont) (k : Nat) (r : Option StreamRec) : (m.setStream k r).fslot = m.fslot := rfl
@[simp] theorem Cont.setStream_recVa (m : Cont) (k : Nat) (r : Option StreamRec) : (m.setStream k r).recVa = m.recVa := rfl
@[simp] theorem Cont.setStream_task (m : Cont) (k : Nat) (r : Option StreamRec) : (m.setStream k r).task = m.task := rfl
@[simp] theorem Cont.setStream_ctx (m : Cont) (k : Nat) (r : Option StreamRec) : (m.setStream k r).ctx = m.ctx := rfl
@[simp] theorem Cont.setStream_die (m : Cont) (k : Nat) (r : Option StreamRec) : (m.setStream k r).die = m.die := rfl
@[simp] theorem Cont.setStream_core (m : Cont) (k : Nat) (r : Option StreamRec) : (m.setStream k r).core = m.core := rfl
@[simp] theorem Cont.setStream_slot (m : Cont) (k : Nat) (r : Option StreamRec) : (m.setStream k r).slot = m.slot := rfl
@[simp] theorem Cont.setStream_resident (m : Cont) (k : Nat) (r : Option StreamRec) : (m.setStream k r).resident = m.resident := rfl
@[simp] theorem Cont.setStream_winBase (m : Cont) (k : Nat) (r : Option StreamRec) : (m.setStream k r).winBase = m.winBase := rfl
@[simp] theorem Cont.setStream_winLimit (m : Cont) (k : Nat) (r : Option StreamRec) : (m.setStream k r).winLimit = m.winLimit := rfl
@[simp] theorem Cont.setStream_claim (m : Cont) (k : Nat) (r : Option StreamRec) : (m.setStream k r).claim = m.claim := rfl
@[simp] theorem Cont.setStream_starting (m : Cont) (k : Nat) (r : Option StreamRec) : (m.setStream k r).starting = m.starting := rfl
@[simp] theorem Cont.setStream_stage0 (m : Cont) (k : Nat) (r : Option StreamRec) : (m.setStream k r).stage0 = m.stage0 := rfl
@[simp] theorem Cont.setStream_g (m : Cont) (k : Nat) (r : Option StreamRec) : (m.setStream k r).g = m.g := rfl
@[simp] theorem Cont.setStream_gPoison (m : Cont) (k : Nat) (r : Option StreamRec) : (m.setStream k r).gPoison = m.gPoison := rfl
@[simp] theorem Cont.setStream_streams (m : Cont) (k : Nat) (r : Option StreamRec) : (m.setStream k r).streams = vset m.streams k r := rfl
@[simp] theorem Cont.setStream_p (m : Cont) (k : Nat) (r : Option StreamRec) : (m.setStream k r).p = m.p := rfl
@[simp] theorem Cont.setStream_b (m : Cont) (k : Nat) (r : Option StreamRec) : (m.setStream k r).b = m.b := rfl
@[simp] theorem Cont.setStream_lc (m : Cont) (k : Nat) (r : Option StreamRec) : (m.setStream k r).lc = m.lc := rfl
@[simp] theorem Cont.setStream_vl (m : Cont) (k : Nat) (r : Option StreamRec) : (m.setStream k r).vl = m.vl := rfl
@[simp] theorem Cont.setStream_fmt (m : Cont) (k : Nat) (r : Option StreamRec) : (m.setStream k r).fmt = m.fmt := rfl
@[simp] theorem Cont.setStream_fmtOld (m : Cont) (k : Nat) (r : Option StreamRec) : (m.setStream k r).fmtOld = m.fmtOld := rfl
@[simp] theorem Cont.setStream_flags (m : Cont) (k : Nat) (r : Option StreamRec) : (m.setStream k r).flags = m.flags := rfl
@[simp] theorem Cont.setStream_tx (m : Cont) (k : Nat) (r : Option StreamRec) : (m.setStream k r).tx = m.tx := rfl
@[simp] theorem Cont.setStream_ag (m : Cont) (k : Nat) (r : Option StreamRec) : (m.setStream k r).ag = m.ag := rfl
@[simp] theorem Cont.setStream_blocks (m : Cont) (k : Nat) (r : Option StreamRec) : (m.setStream k r).blocks = m.blocks := rfl
@[simp] theorem Cont.setStream_tvec (m : Cont) (k : Nat) (r : Option StreamRec) : (m.setStream k r).tvec = m.tvec := rfl
@[simp] theorem Cont.setStream_tsave (m : Cont) (k : Nat) (r : Option StreamRec) : (m.setStream k r).tsave = m.tsave := rfl
@[simp] theorem Cont.setStream_trapen (m : Cont) (k : Nat) (r : Option StreamRec) : (m.setStream k r).trapen = m.trapen := rfl
@[simp] theorem Cont.setStream_fev (m : Cont) (k : Nat) (r : Option StreamRec) : (m.setStream k r).fev = m.fev := rfl
@[simp] theorem Cont.setStream_sysMode (m : Cont) (k : Nat) (r : Option StreamRec) : (m.setStream k r).sysMode = m.sysMode := rfl
@[simp] theorem Cont.setStream_imprecise (m : Cont) (k : Nat) (r : Option StreamRec) : (m.setStream k r).imprecise = m.imprecise := rfl
@[simp] theorem Cont.setStream_flagTrap (m : Cont) (k : Nat) (r : Option StreamRec) : (m.setStream k r).flagTrap = m.flagTrap := rfl
@[simp] theorem Cont.setStream_vpend (m : Cont) (k : Nat) (r : Option StreamRec) : (m.setStream k r).vpend = m.vpend := rfl
@[simp] theorem Cont.setStream_mx (m : Cont) (k : Nat) (r : Option StreamRec) : (m.setStream k r).mx = m.mx := rfl
@[simp] theorem Cont.setStream_cursor (m : Cont) (k : Nat) (r : Option StreamRec) : (m.setStream k r).cursor = m.cursor := rfl
@[simp] theorem Cont.setStream_groupLen (m : Cont) (k : Nat) (r : Option StreamRec) : (m.setStream k r).groupLen = m.groupLen := rfl
@[simp] theorem Cont.setStream_groupWrites (m : Cont) (k : Nat) (r : Option StreamRec) : (m.setStream k r).groupWrites = m.groupWrites := rfl
@[simp] theorem Cont.setStream_groupVl (m : Cont) (k : Nat) (r : Option StreamRec) : (m.setStream k r).groupVl = m.groupVl := rfl
@[simp] theorem Cont.setStream_holds (m : Cont) (k : Nat) (r : Option StreamRec) : (m.setStream k r).holds = m.holds := rfl
@[simp] theorem Cont.setStream_sig (m : Cont) (k : Nat) (r : Option StreamRec) : (m.setStream k r).sig = m.sig := rfl
@[simp] theorem Cont.setStream_answers (m : Cont) (k : Nat) (r : Option StreamRec) : (m.setStream k r).answers = m.answers := rfl
@[simp] theorem Cont.setStream_barr (m : Cont) (k : Nat) (r : Option StreamRec) : (m.setStream k r).barr = m.barr := rfl
@[simp] theorem Cont.setStream_inTlbcnf (m : Cont) (k : Nat) (r : Option StreamRec) : (m.setStream k r).inTlbcnf = m.inTlbcnf := rfl
@[simp] theorem Cont.setStream_since (m : Cont) (k : Nat) (r : Option StreamRec) : (m.setStream k r).since = m.since := rfl
@[simp] theorem Cont.setStream_image (m : Cont) (k : Nat) (r : Option StreamRec) : (m.setStream k r).image = m.image := rfl
@[simp] theorem Cont.setStream_imaged (m : Cont) (k : Nat) (r : Option StreamRec) : (m.setStream k r).imaged = m.imaged := rfl
@[simp] theorem Cont.setStream_early (m : Cont) (k : Nat) (r : Option StreamRec) : (m.setStream k r).early = m.early := rfl
@[simp] theorem Cont.setStream_imagePoison (m : Cont) (k : Nat) (r : Option StreamRec) : (m.setStream k r).imagePoison = m.imagePoison := rfl
@[simp] theorem Cont.setStream_recPa (m : Cont) (k : Nat) (r : Option StreamRec) : (m.setStream k r).recPa = m.recPa := rfl
@[simp] theorem Cont.setStream_savePa (m : Cont) (k : Nat) (r : Option StreamRec) : (m.setStream k r).savePa = m.savePa := rfl
@[simp] theorem Cont.setStream_past (m : Cont) (k : Nat) (r : Option StreamRec) : (m.setStream k r).past = m.past := rfl
@[simp] theorem Cont.setStream_vlGroup (m : Cont) (k : Nat) (r : Option StreamRec) : (m.setStream k r).vlGroup = m.vlGroup := rfl
@[simp] theorem Cont.setStream_bundles (m : Cont) (k : Nat) (r : Option StreamRec) : (m.setStream k r).bundles = m.bundles := rfl
@[simp] theorem Cont.setStream_groups (m : Cont) (k : Nat) (r : Option StreamRec) : (m.setStream k r).groups = m.groups := rfl
@[simp] theorem Cont.setStream_queue (m : Cont) (k : Nat) (r : Option StreamRec) : (m.setStream k r).queue = m.queue := rfl
@[simp] theorem Cont.setStream_timid (m : Cont) (k : Nat) (r : Option StreamRec) : (m.setStream k r).timid = m.timid := rfl
@[simp] theorem Cont.setStream_lag (m : Cont) (k : Nat) (r : Option StreamRec) : (m.setStream k r).lag = m.lag := rfl
@[simp] theorem Cont.setStream_fmtUndo (m : Cont) (k : Nat) (r : Option StreamRec) : (m.setStream k r).fmtUndo = m.fmtUndo := rfl
@[simp] theorem Cont.setStream_given (m : Cont) (k : Nat) (r : Option StreamRec) : (m.setStream k r).given = m.given := rfl

@[simp] theorem Cont.setBlock_id (m : Cont) (k : Nat) (b : Option LoadBlock) : (m.setBlock k b).id = m.id := rfl
@[simp] theorem Cont.setBlock_pc (m : Cont) (k : Nat) (b : Option LoadBlock) : (m.setBlock k b).pc = m.pc := rfl
@[simp] theorem Cont.setBlock_state (m : Cont) (k : Nat) (b : Option LoadBlock) : (m.setBlock k b).state = m.state := rfl
@[simp] theorem Cont.setBlock_prio (m : Cont) (k : Nat) (b : Option LoadBlock) : (m.setBlock k b).prio = m.prio := rfl
@[simp] theorem Cont.setBlock_save (m : Cont) (k : Nat) (b : Option LoadBlock) : (m.setBlock k b).save = m.save := rfl
@[simp] theorem Cont.setBlock_waddr (m : Cont) (k : Nat) (b : Option LoadBlock) : (m.setBlock k b).waddr = m.waddr := rfl
@[simp] theorem Cont.setBlock_wval (m : Cont) (k : Nat) (b : Option LoadBlock) : (m.setBlock k b).wval = m.wval := rfl
@[simp] theorem Cont.setBlock_wcond (m : Cont) (k : Nat) (b : Option LoadBlock) : (m.setBlock k b).wcond = m.wcond := rfl
@[simp] theorem Cont.setBlock_team (m : Cont) (k : Nat) (b : Option LoadBlock) : (m.setBlock k b).team = m.team := rfl
@[simp] theorem Cont.setBlock_rank (m : Cont) (k : Nat) (b : Option LoadBlock) : (m.setBlock k b).rank = m.rank := rfl
@[simp] theorem Cont.setBlock_grid (m : Cont) (k : Nat) (b : Option LoadBlock) : (m.setBlock k b).grid = m.grid := rfl
@[simp] theorem Cont.setBlock_taskRec (m : Cont) (k : Nat) (b : Option LoadBlock) : (m.setBlock k b).taskRec = m.taskRec := rfl
@[simp] theorem Cont.setBlock_rtime (m : Cont) (k : Nat) (b : Option LoadBlock) : (m.setBlock k b).rtime = m.rtime := rfl
@[simp] theorem Cont.setBlock_ppol (m : Cont) (k : Nat) (b : Option LoadBlock) : (m.setBlock k b).ppol = m.ppol := rfl
@[simp] theorem Cont.setBlock_tcause (m : Cont) (k : Nat) (b : Option LoadBlock) : (m.setBlock k b).tcause = m.tcause := rfl
@[simp] theorem Cont.setBlock_fslot (m : Cont) (k : Nat) (b : Option LoadBlock) : (m.setBlock k b).fslot = m.fslot := rfl
@[simp] theorem Cont.setBlock_recVa (m : Cont) (k : Nat) (b : Option LoadBlock) : (m.setBlock k b).recVa = m.recVa := rfl
@[simp] theorem Cont.setBlock_task (m : Cont) (k : Nat) (b : Option LoadBlock) : (m.setBlock k b).task = m.task := rfl
@[simp] theorem Cont.setBlock_ctx (m : Cont) (k : Nat) (b : Option LoadBlock) : (m.setBlock k b).ctx = m.ctx := rfl
@[simp] theorem Cont.setBlock_die (m : Cont) (k : Nat) (b : Option LoadBlock) : (m.setBlock k b).die = m.die := rfl
@[simp] theorem Cont.setBlock_core (m : Cont) (k : Nat) (b : Option LoadBlock) : (m.setBlock k b).core = m.core := rfl
@[simp] theorem Cont.setBlock_slot (m : Cont) (k : Nat) (b : Option LoadBlock) : (m.setBlock k b).slot = m.slot := rfl
@[simp] theorem Cont.setBlock_resident (m : Cont) (k : Nat) (b : Option LoadBlock) : (m.setBlock k b).resident = m.resident := rfl
@[simp] theorem Cont.setBlock_winBase (m : Cont) (k : Nat) (b : Option LoadBlock) : (m.setBlock k b).winBase = m.winBase := rfl
@[simp] theorem Cont.setBlock_winLimit (m : Cont) (k : Nat) (b : Option LoadBlock) : (m.setBlock k b).winLimit = m.winLimit := rfl
@[simp] theorem Cont.setBlock_claim (m : Cont) (k : Nat) (b : Option LoadBlock) : (m.setBlock k b).claim = m.claim := rfl
@[simp] theorem Cont.setBlock_starting (m : Cont) (k : Nat) (b : Option LoadBlock) : (m.setBlock k b).starting = m.starting := rfl
@[simp] theorem Cont.setBlock_stage0 (m : Cont) (k : Nat) (b : Option LoadBlock) : (m.setBlock k b).stage0 = m.stage0 := rfl
@[simp] theorem Cont.setBlock_g (m : Cont) (k : Nat) (b : Option LoadBlock) : (m.setBlock k b).g = m.g := rfl
@[simp] theorem Cont.setBlock_gPoison (m : Cont) (k : Nat) (b : Option LoadBlock) : (m.setBlock k b).gPoison = m.gPoison := rfl
@[simp] theorem Cont.setBlock_streams (m : Cont) (k : Nat) (b : Option LoadBlock) : (m.setBlock k b).streams = m.streams := rfl
@[simp] theorem Cont.setBlock_p (m : Cont) (k : Nat) (b : Option LoadBlock) : (m.setBlock k b).p = m.p := rfl
@[simp] theorem Cont.setBlock_b (m : Cont) (k : Nat) (b : Option LoadBlock) : (m.setBlock k b).b = m.b := rfl
@[simp] theorem Cont.setBlock_lc (m : Cont) (k : Nat) (b : Option LoadBlock) : (m.setBlock k b).lc = m.lc := rfl
@[simp] theorem Cont.setBlock_vl (m : Cont) (k : Nat) (b : Option LoadBlock) : (m.setBlock k b).vl = m.vl := rfl
@[simp] theorem Cont.setBlock_fmt (m : Cont) (k : Nat) (b : Option LoadBlock) : (m.setBlock k b).fmt = m.fmt := rfl
@[simp] theorem Cont.setBlock_fmtOld (m : Cont) (k : Nat) (b : Option LoadBlock) : (m.setBlock k b).fmtOld = m.fmtOld := rfl
@[simp] theorem Cont.setBlock_flags (m : Cont) (k : Nat) (b : Option LoadBlock) : (m.setBlock k b).flags = m.flags := rfl
@[simp] theorem Cont.setBlock_tx (m : Cont) (k : Nat) (b : Option LoadBlock) : (m.setBlock k b).tx = m.tx := rfl
@[simp] theorem Cont.setBlock_ag (m : Cont) (k : Nat) (b : Option LoadBlock) : (m.setBlock k b).ag = m.ag := rfl
@[simp] theorem Cont.setBlock_blocks (m : Cont) (k : Nat) (b : Option LoadBlock) : (m.setBlock k b).blocks = vset m.blocks k b := rfl
@[simp] theorem Cont.setBlock_tvec (m : Cont) (k : Nat) (b : Option LoadBlock) : (m.setBlock k b).tvec = m.tvec := rfl
@[simp] theorem Cont.setBlock_tsave (m : Cont) (k : Nat) (b : Option LoadBlock) : (m.setBlock k b).tsave = m.tsave := rfl
@[simp] theorem Cont.setBlock_trapen (m : Cont) (k : Nat) (b : Option LoadBlock) : (m.setBlock k b).trapen = m.trapen := rfl
@[simp] theorem Cont.setBlock_fev (m : Cont) (k : Nat) (b : Option LoadBlock) : (m.setBlock k b).fev = m.fev := rfl
@[simp] theorem Cont.setBlock_sysMode (m : Cont) (k : Nat) (b : Option LoadBlock) : (m.setBlock k b).sysMode = m.sysMode := rfl
@[simp] theorem Cont.setBlock_imprecise (m : Cont) (k : Nat) (b : Option LoadBlock) : (m.setBlock k b).imprecise = m.imprecise := rfl
@[simp] theorem Cont.setBlock_flagTrap (m : Cont) (k : Nat) (b : Option LoadBlock) : (m.setBlock k b).flagTrap = m.flagTrap := rfl
@[simp] theorem Cont.setBlock_vpend (m : Cont) (k : Nat) (b : Option LoadBlock) : (m.setBlock k b).vpend = m.vpend := rfl
@[simp] theorem Cont.setBlock_mx (m : Cont) (k : Nat) (b : Option LoadBlock) : (m.setBlock k b).mx = m.mx := rfl
@[simp] theorem Cont.setBlock_cursor (m : Cont) (k : Nat) (b : Option LoadBlock) : (m.setBlock k b).cursor = m.cursor := rfl
@[simp] theorem Cont.setBlock_groupLen (m : Cont) (k : Nat) (b : Option LoadBlock) : (m.setBlock k b).groupLen = m.groupLen := rfl
@[simp] theorem Cont.setBlock_groupWrites (m : Cont) (k : Nat) (b : Option LoadBlock) : (m.setBlock k b).groupWrites = m.groupWrites := rfl
@[simp] theorem Cont.setBlock_groupVl (m : Cont) (k : Nat) (b : Option LoadBlock) : (m.setBlock k b).groupVl = m.groupVl := rfl
@[simp] theorem Cont.setBlock_holds (m : Cont) (k : Nat) (b : Option LoadBlock) : (m.setBlock k b).holds = m.holds := rfl
@[simp] theorem Cont.setBlock_sig (m : Cont) (k : Nat) (b : Option LoadBlock) : (m.setBlock k b).sig = m.sig := rfl
@[simp] theorem Cont.setBlock_answers (m : Cont) (k : Nat) (b : Option LoadBlock) : (m.setBlock k b).answers = m.answers := rfl
@[simp] theorem Cont.setBlock_barr (m : Cont) (k : Nat) (b : Option LoadBlock) : (m.setBlock k b).barr = m.barr := rfl
@[simp] theorem Cont.setBlock_inTlbcnf (m : Cont) (k : Nat) (b : Option LoadBlock) : (m.setBlock k b).inTlbcnf = m.inTlbcnf := rfl
@[simp] theorem Cont.setBlock_since (m : Cont) (k : Nat) (b : Option LoadBlock) : (m.setBlock k b).since = m.since := rfl
@[simp] theorem Cont.setBlock_image (m : Cont) (k : Nat) (b : Option LoadBlock) : (m.setBlock k b).image = m.image := rfl
@[simp] theorem Cont.setBlock_imaged (m : Cont) (k : Nat) (b : Option LoadBlock) : (m.setBlock k b).imaged = m.imaged := rfl
@[simp] theorem Cont.setBlock_early (m : Cont) (k : Nat) (b : Option LoadBlock) : (m.setBlock k b).early = m.early := rfl
@[simp] theorem Cont.setBlock_imagePoison (m : Cont) (k : Nat) (b : Option LoadBlock) : (m.setBlock k b).imagePoison = m.imagePoison := rfl
@[simp] theorem Cont.setBlock_recPa (m : Cont) (k : Nat) (b : Option LoadBlock) : (m.setBlock k b).recPa = m.recPa := rfl
@[simp] theorem Cont.setBlock_savePa (m : Cont) (k : Nat) (b : Option LoadBlock) : (m.setBlock k b).savePa = m.savePa := rfl
@[simp] theorem Cont.setBlock_past (m : Cont) (k : Nat) (b : Option LoadBlock) : (m.setBlock k b).past = m.past := rfl
@[simp] theorem Cont.setBlock_vlGroup (m : Cont) (k : Nat) (b : Option LoadBlock) : (m.setBlock k b).vlGroup = m.vlGroup := rfl
@[simp] theorem Cont.setBlock_bundles (m : Cont) (k : Nat) (b : Option LoadBlock) : (m.setBlock k b).bundles = m.bundles := rfl
@[simp] theorem Cont.setBlock_groups (m : Cont) (k : Nat) (b : Option LoadBlock) : (m.setBlock k b).groups = m.groups := rfl
@[simp] theorem Cont.setBlock_queue (m : Cont) (k : Nat) (b : Option LoadBlock) : (m.setBlock k b).queue = m.queue := rfl
@[simp] theorem Cont.setBlock_timid (m : Cont) (k : Nat) (b : Option LoadBlock) : (m.setBlock k b).timid = m.timid := rfl
@[simp] theorem Cont.setBlock_lag (m : Cont) (k : Nat) (b : Option LoadBlock) : (m.setBlock k b).lag = m.lag := rfl
@[simp] theorem Cont.setBlock_fmtUndo (m : Cont) (k : Nat) (b : Option LoadBlock) : (m.setBlock k b).fmtUndo = m.fmtUndo := rfl
@[simp] theorem Cont.setBlock_given (m : Cont) (k : Nat) (b : Option LoadBlock) : (m.setBlock k b).given = m.given := rfl

@[simp] theorem Cont.setAg_id (m : Cont) (k : Nat) (g : Ag) : (m.setAg k g).id = m.id := rfl
@[simp] theorem Cont.setAg_pc (m : Cont) (k : Nat) (g : Ag) : (m.setAg k g).pc = m.pc := rfl
@[simp] theorem Cont.setAg_state (m : Cont) (k : Nat) (g : Ag) : (m.setAg k g).state = m.state := rfl
@[simp] theorem Cont.setAg_prio (m : Cont) (k : Nat) (g : Ag) : (m.setAg k g).prio = m.prio := rfl
@[simp] theorem Cont.setAg_save (m : Cont) (k : Nat) (g : Ag) : (m.setAg k g).save = m.save := rfl
@[simp] theorem Cont.setAg_waddr (m : Cont) (k : Nat) (g : Ag) : (m.setAg k g).waddr = m.waddr := rfl
@[simp] theorem Cont.setAg_wval (m : Cont) (k : Nat) (g : Ag) : (m.setAg k g).wval = m.wval := rfl
@[simp] theorem Cont.setAg_wcond (m : Cont) (k : Nat) (g : Ag) : (m.setAg k g).wcond = m.wcond := rfl
@[simp] theorem Cont.setAg_team (m : Cont) (k : Nat) (g : Ag) : (m.setAg k g).team = m.team := rfl
@[simp] theorem Cont.setAg_rank (m : Cont) (k : Nat) (g : Ag) : (m.setAg k g).rank = m.rank := rfl
@[simp] theorem Cont.setAg_grid (m : Cont) (k : Nat) (g : Ag) : (m.setAg k g).grid = m.grid := rfl
@[simp] theorem Cont.setAg_taskRec (m : Cont) (k : Nat) (g : Ag) : (m.setAg k g).taskRec = m.taskRec := rfl
@[simp] theorem Cont.setAg_rtime (m : Cont) (k : Nat) (g : Ag) : (m.setAg k g).rtime = m.rtime := rfl
@[simp] theorem Cont.setAg_ppol (m : Cont) (k : Nat) (g : Ag) : (m.setAg k g).ppol = m.ppol := rfl
@[simp] theorem Cont.setAg_tcause (m : Cont) (k : Nat) (g : Ag) : (m.setAg k g).tcause = m.tcause := rfl
@[simp] theorem Cont.setAg_fslot (m : Cont) (k : Nat) (g : Ag) : (m.setAg k g).fslot = m.fslot := rfl
@[simp] theorem Cont.setAg_recVa (m : Cont) (k : Nat) (g : Ag) : (m.setAg k g).recVa = m.recVa := rfl
@[simp] theorem Cont.setAg_task (m : Cont) (k : Nat) (g : Ag) : (m.setAg k g).task = m.task := rfl
@[simp] theorem Cont.setAg_ctx (m : Cont) (k : Nat) (g : Ag) : (m.setAg k g).ctx = m.ctx := rfl
@[simp] theorem Cont.setAg_die (m : Cont) (k : Nat) (g : Ag) : (m.setAg k g).die = m.die := rfl
@[simp] theorem Cont.setAg_core (m : Cont) (k : Nat) (g : Ag) : (m.setAg k g).core = m.core := rfl
@[simp] theorem Cont.setAg_slot (m : Cont) (k : Nat) (g : Ag) : (m.setAg k g).slot = m.slot := rfl
@[simp] theorem Cont.setAg_resident (m : Cont) (k : Nat) (g : Ag) : (m.setAg k g).resident = m.resident := rfl
@[simp] theorem Cont.setAg_winBase (m : Cont) (k : Nat) (g : Ag) : (m.setAg k g).winBase = m.winBase := rfl
@[simp] theorem Cont.setAg_winLimit (m : Cont) (k : Nat) (g : Ag) : (m.setAg k g).winLimit = m.winLimit := rfl
@[simp] theorem Cont.setAg_claim (m : Cont) (k : Nat) (g : Ag) : (m.setAg k g).claim = m.claim := rfl
@[simp] theorem Cont.setAg_starting (m : Cont) (k : Nat) (g : Ag) : (m.setAg k g).starting = m.starting := rfl
@[simp] theorem Cont.setAg_stage0 (m : Cont) (k : Nat) (g : Ag) : (m.setAg k g).stage0 = m.stage0 := rfl
@[simp] theorem Cont.setAg_g (m : Cont) (k : Nat) (g : Ag) : (m.setAg k g).g = m.g := rfl
@[simp] theorem Cont.setAg_gPoison (m : Cont) (k : Nat) (g : Ag) : (m.setAg k g).gPoison = m.gPoison := rfl
@[simp] theorem Cont.setAg_streams (m : Cont) (k : Nat) (g : Ag) : (m.setAg k g).streams = m.streams := rfl
@[simp] theorem Cont.setAg_p (m : Cont) (k : Nat) (g : Ag) : (m.setAg k g).p = m.p := rfl
@[simp] theorem Cont.setAg_b (m : Cont) (k : Nat) (g : Ag) : (m.setAg k g).b = m.b := rfl
@[simp] theorem Cont.setAg_lc (m : Cont) (k : Nat) (g : Ag) : (m.setAg k g).lc = m.lc := rfl
@[simp] theorem Cont.setAg_vl (m : Cont) (k : Nat) (g : Ag) : (m.setAg k g).vl = m.vl := rfl
@[simp] theorem Cont.setAg_fmt (m : Cont) (k : Nat) (g : Ag) : (m.setAg k g).fmt = m.fmt := rfl
@[simp] theorem Cont.setAg_fmtOld (m : Cont) (k : Nat) (g : Ag) : (m.setAg k g).fmtOld = m.fmtOld := rfl
@[simp] theorem Cont.setAg_flags (m : Cont) (k : Nat) (g : Ag) : (m.setAg k g).flags = m.flags := rfl
@[simp] theorem Cont.setAg_tx (m : Cont) (k : Nat) (g : Ag) : (m.setAg k g).tx = m.tx := rfl
@[simp] theorem Cont.setAg_ag (m : Cont) (k : Nat) (g : Ag) : (m.setAg k g).ag = vset m.ag k g := rfl
@[simp] theorem Cont.setAg_blocks (m : Cont) (k : Nat) (g : Ag) : (m.setAg k g).blocks = m.blocks := rfl
@[simp] theorem Cont.setAg_tvec (m : Cont) (k : Nat) (g : Ag) : (m.setAg k g).tvec = m.tvec := rfl
@[simp] theorem Cont.setAg_tsave (m : Cont) (k : Nat) (g : Ag) : (m.setAg k g).tsave = m.tsave := rfl
@[simp] theorem Cont.setAg_trapen (m : Cont) (k : Nat) (g : Ag) : (m.setAg k g).trapen = m.trapen := rfl
@[simp] theorem Cont.setAg_fev (m : Cont) (k : Nat) (g : Ag) : (m.setAg k g).fev = m.fev := rfl
@[simp] theorem Cont.setAg_sysMode (m : Cont) (k : Nat) (g : Ag) : (m.setAg k g).sysMode = m.sysMode := rfl
@[simp] theorem Cont.setAg_imprecise (m : Cont) (k : Nat) (g : Ag) : (m.setAg k g).imprecise = m.imprecise := rfl
@[simp] theorem Cont.setAg_flagTrap (m : Cont) (k : Nat) (g : Ag) : (m.setAg k g).flagTrap = m.flagTrap := rfl
@[simp] theorem Cont.setAg_vpend (m : Cont) (k : Nat) (g : Ag) : (m.setAg k g).vpend = m.vpend := rfl
@[simp] theorem Cont.setAg_mx (m : Cont) (k : Nat) (g : Ag) : (m.setAg k g).mx = m.mx := rfl
@[simp] theorem Cont.setAg_cursor (m : Cont) (k : Nat) (g : Ag) : (m.setAg k g).cursor = m.cursor := rfl
@[simp] theorem Cont.setAg_groupLen (m : Cont) (k : Nat) (g : Ag) : (m.setAg k g).groupLen = m.groupLen := rfl
@[simp] theorem Cont.setAg_groupWrites (m : Cont) (k : Nat) (g : Ag) : (m.setAg k g).groupWrites = m.groupWrites := rfl
@[simp] theorem Cont.setAg_groupVl (m : Cont) (k : Nat) (g : Ag) : (m.setAg k g).groupVl = m.groupVl := rfl
@[simp] theorem Cont.setAg_holds (m : Cont) (k : Nat) (g : Ag) : (m.setAg k g).holds = m.holds := rfl
@[simp] theorem Cont.setAg_sig (m : Cont) (k : Nat) (g : Ag) : (m.setAg k g).sig = m.sig := rfl
@[simp] theorem Cont.setAg_answers (m : Cont) (k : Nat) (g : Ag) : (m.setAg k g).answers = m.answers := rfl
@[simp] theorem Cont.setAg_barr (m : Cont) (k : Nat) (g : Ag) : (m.setAg k g).barr = m.barr := rfl
@[simp] theorem Cont.setAg_inTlbcnf (m : Cont) (k : Nat) (g : Ag) : (m.setAg k g).inTlbcnf = m.inTlbcnf := rfl
@[simp] theorem Cont.setAg_since (m : Cont) (k : Nat) (g : Ag) : (m.setAg k g).since = m.since := rfl
@[simp] theorem Cont.setAg_image (m : Cont) (k : Nat) (g : Ag) : (m.setAg k g).image = m.image := rfl
@[simp] theorem Cont.setAg_imaged (m : Cont) (k : Nat) (g : Ag) : (m.setAg k g).imaged = m.imaged := rfl
@[simp] theorem Cont.setAg_early (m : Cont) (k : Nat) (g : Ag) : (m.setAg k g).early = m.early := rfl
@[simp] theorem Cont.setAg_imagePoison (m : Cont) (k : Nat) (g : Ag) : (m.setAg k g).imagePoison = m.imagePoison := rfl
@[simp] theorem Cont.setAg_recPa (m : Cont) (k : Nat) (g : Ag) : (m.setAg k g).recPa = m.recPa := rfl
@[simp] theorem Cont.setAg_savePa (m : Cont) (k : Nat) (g : Ag) : (m.setAg k g).savePa = m.savePa := rfl
@[simp] theorem Cont.setAg_past (m : Cont) (k : Nat) (g : Ag) : (m.setAg k g).past = m.past := rfl
@[simp] theorem Cont.setAg_vlGroup (m : Cont) (k : Nat) (g : Ag) : (m.setAg k g).vlGroup = m.vlGroup := rfl
@[simp] theorem Cont.setAg_bundles (m : Cont) (k : Nat) (g : Ag) : (m.setAg k g).bundles = m.bundles := rfl
@[simp] theorem Cont.setAg_groups (m : Cont) (k : Nat) (g : Ag) : (m.setAg k g).groups = m.groups := rfl
@[simp] theorem Cont.setAg_queue (m : Cont) (k : Nat) (g : Ag) : (m.setAg k g).queue = m.queue := rfl
@[simp] theorem Cont.setAg_timid (m : Cont) (k : Nat) (g : Ag) : (m.setAg k g).timid = m.timid := rfl
@[simp] theorem Cont.setAg_lag (m : Cont) (k : Nat) (g : Ag) : (m.setAg k g).lag = m.lag := rfl
@[simp] theorem Cont.setAg_fmtUndo (m : Cont) (k : Nat) (g : Ag) : (m.setAg k g).fmtUndo = m.fmtUndo := rfl
@[simp] theorem Cont.setAg_given (m : Cont) (k : Nat) (g : Ag) : (m.setAg k g).given = m.given := rfl

@[simp] theorem Cont.setRing_id (m : Cont) (k : Nat) (v : BitVec 128) (p : Byte) : (m.setRing k v p).id = m.id := rfl
@[simp] theorem Cont.setRing_pc (m : Cont) (k : Nat) (v : BitVec 128) (p : Byte) : (m.setRing k v p).pc = m.pc := rfl
@[simp] theorem Cont.setRing_state (m : Cont) (k : Nat) (v : BitVec 128) (p : Byte) : (m.setRing k v p).state = m.state := rfl
@[simp] theorem Cont.setRing_prio (m : Cont) (k : Nat) (v : BitVec 128) (p : Byte) : (m.setRing k v p).prio = m.prio := rfl
@[simp] theorem Cont.setRing_save (m : Cont) (k : Nat) (v : BitVec 128) (p : Byte) : (m.setRing k v p).save = m.save := rfl
@[simp] theorem Cont.setRing_waddr (m : Cont) (k : Nat) (v : BitVec 128) (p : Byte) : (m.setRing k v p).waddr = m.waddr := rfl
@[simp] theorem Cont.setRing_wval (m : Cont) (k : Nat) (v : BitVec 128) (p : Byte) : (m.setRing k v p).wval = m.wval := rfl
@[simp] theorem Cont.setRing_wcond (m : Cont) (k : Nat) (v : BitVec 128) (p : Byte) : (m.setRing k v p).wcond = m.wcond := rfl
@[simp] theorem Cont.setRing_team (m : Cont) (k : Nat) (v : BitVec 128) (p : Byte) : (m.setRing k v p).team = m.team := rfl
@[simp] theorem Cont.setRing_rank (m : Cont) (k : Nat) (v : BitVec 128) (p : Byte) : (m.setRing k v p).rank = m.rank := rfl
@[simp] theorem Cont.setRing_grid (m : Cont) (k : Nat) (v : BitVec 128) (p : Byte) : (m.setRing k v p).grid = m.grid := rfl
@[simp] theorem Cont.setRing_taskRec (m : Cont) (k : Nat) (v : BitVec 128) (p : Byte) : (m.setRing k v p).taskRec = m.taskRec := rfl
@[simp] theorem Cont.setRing_rtime (m : Cont) (k : Nat) (v : BitVec 128) (p : Byte) : (m.setRing k v p).rtime = m.rtime := rfl
@[simp] theorem Cont.setRing_ppol (m : Cont) (k : Nat) (v : BitVec 128) (p : Byte) : (m.setRing k v p).ppol = m.ppol := rfl
@[simp] theorem Cont.setRing_tcause (m : Cont) (k : Nat) (v : BitVec 128) (p : Byte) : (m.setRing k v p).tcause = m.tcause := rfl
@[simp] theorem Cont.setRing_fslot (m : Cont) (k : Nat) (v : BitVec 128) (p : Byte) : (m.setRing k v p).fslot = m.fslot := rfl
@[simp] theorem Cont.setRing_recVa (m : Cont) (k : Nat) (v : BitVec 128) (p : Byte) : (m.setRing k v p).recVa = m.recVa := rfl
@[simp] theorem Cont.setRing_task (m : Cont) (k : Nat) (v : BitVec 128) (p : Byte) : (m.setRing k v p).task = m.task := rfl
@[simp] theorem Cont.setRing_ctx (m : Cont) (k : Nat) (v : BitVec 128) (p : Byte) : (m.setRing k v p).ctx = m.ctx := rfl
@[simp] theorem Cont.setRing_die (m : Cont) (k : Nat) (v : BitVec 128) (p : Byte) : (m.setRing k v p).die = m.die := rfl
@[simp] theorem Cont.setRing_core (m : Cont) (k : Nat) (v : BitVec 128) (p : Byte) : (m.setRing k v p).core = m.core := rfl
@[simp] theorem Cont.setRing_slot (m : Cont) (k : Nat) (v : BitVec 128) (p : Byte) : (m.setRing k v p).slot = m.slot := rfl
@[simp] theorem Cont.setRing_resident (m : Cont) (k : Nat) (v : BitVec 128) (p : Byte) : (m.setRing k v p).resident = m.resident := rfl
@[simp] theorem Cont.setRing_winBase (m : Cont) (k : Nat) (v : BitVec 128) (p : Byte) : (m.setRing k v p).winBase = m.winBase := rfl
@[simp] theorem Cont.setRing_winLimit (m : Cont) (k : Nat) (v : BitVec 128) (p : Byte) : (m.setRing k v p).winLimit = m.winLimit := rfl
@[simp] theorem Cont.setRing_claim (m : Cont) (k : Nat) (v : BitVec 128) (p : Byte) : (m.setRing k v p).claim = m.claim := rfl
@[simp] theorem Cont.setRing_starting (m : Cont) (k : Nat) (v : BitVec 128) (p : Byte) : (m.setRing k v p).starting = m.starting := rfl
@[simp] theorem Cont.setRing_stage0 (m : Cont) (k : Nat) (v : BitVec 128) (p : Byte) : (m.setRing k v p).stage0 = m.stage0 := rfl
@[simp] theorem Cont.setRing_g (m : Cont) (k : Nat) (v : BitVec 128) (p : Byte) : (m.setRing k v p).g = m.g := rfl
@[simp] theorem Cont.setRing_gPoison (m : Cont) (k : Nat) (v : BitVec 128) (p : Byte) : (m.setRing k v p).gPoison = m.gPoison := rfl
@[simp] theorem Cont.setRing_streams (m : Cont) (k : Nat) (v : BitVec 128) (p : Byte) : (m.setRing k v p).streams = m.streams := rfl
@[simp] theorem Cont.setRing_p (m : Cont) (k : Nat) (v : BitVec 128) (p : Byte) : (m.setRing k v p).p = m.p := rfl
@[simp] theorem Cont.setRing_b (m : Cont) (k : Nat) (v : BitVec 128) (p : Byte) : (m.setRing k v p).b = m.b := rfl
@[simp] theorem Cont.setRing_lc (m : Cont) (k : Nat) (v : BitVec 128) (p : Byte) : (m.setRing k v p).lc = m.lc := rfl
@[simp] theorem Cont.setRing_vl (m : Cont) (k : Nat) (v : BitVec 128) (p : Byte) : (m.setRing k v p).vl = m.vl := rfl
@[simp] theorem Cont.setRing_fmt (m : Cont) (k : Nat) (v : BitVec 128) (p : Byte) : (m.setRing k v p).fmt = m.fmt := rfl
@[simp] theorem Cont.setRing_fmtOld (m : Cont) (k : Nat) (v : BitVec 128) (p : Byte) : (m.setRing k v p).fmtOld = m.fmtOld := rfl
@[simp] theorem Cont.setRing_flags (m : Cont) (k : Nat) (v : BitVec 128) (p : Byte) : (m.setRing k v p).flags = m.flags := rfl
@[simp] theorem Cont.setRing_tx (m : Cont) (k : Nat) (v : BitVec 128) (p : Byte) : (m.setRing k v p).tx = m.tx := rfl
@[simp] theorem Cont.setRing_ag (m : Cont) (k : Nat) (v : BitVec 128) (p : Byte) : (m.setRing k v p).ag = m.ag := rfl
@[simp] theorem Cont.setRing_blocks (m : Cont) (k : Nat) (v : BitVec 128) (p : Byte) : (m.setRing k v p).blocks = m.blocks := rfl
@[simp] theorem Cont.setRing_tvec (m : Cont) (k : Nat) (v : BitVec 128) (p : Byte) : (m.setRing k v p).tvec = m.tvec := rfl
@[simp] theorem Cont.setRing_tsave (m : Cont) (k : Nat) (v : BitVec 128) (p : Byte) : (m.setRing k v p).tsave = m.tsave := rfl
@[simp] theorem Cont.setRing_trapen (m : Cont) (k : Nat) (v : BitVec 128) (p : Byte) : (m.setRing k v p).trapen = m.trapen := rfl
@[simp] theorem Cont.setRing_fev (m : Cont) (k : Nat) (v : BitVec 128) (p : Byte) : (m.setRing k v p).fev = m.fev := rfl
@[simp] theorem Cont.setRing_sysMode (m : Cont) (k : Nat) (v : BitVec 128) (p : Byte) : (m.setRing k v p).sysMode = m.sysMode := rfl
@[simp] theorem Cont.setRing_imprecise (m : Cont) (k : Nat) (v : BitVec 128) (p : Byte) : (m.setRing k v p).imprecise = m.imprecise := rfl
@[simp] theorem Cont.setRing_flagTrap (m : Cont) (k : Nat) (v : BitVec 128) (p : Byte) : (m.setRing k v p).flagTrap = m.flagTrap := rfl
@[simp] theorem Cont.setRing_vpend (m : Cont) (k : Nat) (v : BitVec 128) (p : Byte) : (m.setRing k v p).vpend = m.vpend := rfl
@[simp] theorem Cont.setRing_cursor (m : Cont) (k : Nat) (v : BitVec 128) (p : Byte) : (m.setRing k v p).cursor = m.cursor := rfl
@[simp] theorem Cont.setRing_groupLen (m : Cont) (k : Nat) (v : BitVec 128) (p : Byte) : (m.setRing k v p).groupLen = m.groupLen := rfl
@[simp] theorem Cont.setRing_groupWrites (m : Cont) (k : Nat) (v : BitVec 128) (p : Byte) : (m.setRing k v p).groupWrites = m.groupWrites := rfl
@[simp] theorem Cont.setRing_groupVl (m : Cont) (k : Nat) (v : BitVec 128) (p : Byte) : (m.setRing k v p).groupVl = m.groupVl := rfl
@[simp] theorem Cont.setRing_holds (m : Cont) (k : Nat) (v : BitVec 128) (p : Byte) : (m.setRing k v p).holds = m.holds := rfl
@[simp] theorem Cont.setRing_sig (m : Cont) (k : Nat) (v : BitVec 128) (p : Byte) : (m.setRing k v p).sig = m.sig := rfl
@[simp] theorem Cont.setRing_answers (m : Cont) (k : Nat) (v : BitVec 128) (p : Byte) : (m.setRing k v p).answers = m.answers := rfl
@[simp] theorem Cont.setRing_barr (m : Cont) (k : Nat) (v : BitVec 128) (p : Byte) : (m.setRing k v p).barr = m.barr := rfl
@[simp] theorem Cont.setRing_inTlbcnf (m : Cont) (k : Nat) (v : BitVec 128) (p : Byte) : (m.setRing k v p).inTlbcnf = m.inTlbcnf := rfl
@[simp] theorem Cont.setRing_since (m : Cont) (k : Nat) (v : BitVec 128) (p : Byte) : (m.setRing k v p).since = m.since := rfl
@[simp] theorem Cont.setRing_image (m : Cont) (k : Nat) (v : BitVec 128) (p : Byte) : (m.setRing k v p).image = m.image := rfl
@[simp] theorem Cont.setRing_imaged (m : Cont) (k : Nat) (v : BitVec 128) (p : Byte) : (m.setRing k v p).imaged = m.imaged := rfl
@[simp] theorem Cont.setRing_early (m : Cont) (k : Nat) (v : BitVec 128) (p : Byte) : (m.setRing k v p).early = m.early := rfl
@[simp] theorem Cont.setRing_imagePoison (m : Cont) (k : Nat) (v : BitVec 128) (p : Byte) : (m.setRing k v p).imagePoison = m.imagePoison := rfl
@[simp] theorem Cont.setRing_recPa (m : Cont) (k : Nat) (v : BitVec 128) (p : Byte) : (m.setRing k v p).recPa = m.recPa := rfl
@[simp] theorem Cont.setRing_savePa (m : Cont) (k : Nat) (v : BitVec 128) (p : Byte) : (m.setRing k v p).savePa = m.savePa := rfl
@[simp] theorem Cont.setRing_past (m : Cont) (k : Nat) (v : BitVec 128) (p : Byte) : (m.setRing k v p).past = m.past := rfl
@[simp] theorem Cont.setRing_vlGroup (m : Cont) (k : Nat) (v : BitVec 128) (p : Byte) : (m.setRing k v p).vlGroup = m.vlGroup := rfl
@[simp] theorem Cont.setRing_bundles (m : Cont) (k : Nat) (v : BitVec 128) (p : Byte) : (m.setRing k v p).bundles = m.bundles := rfl
@[simp] theorem Cont.setRing_groups (m : Cont) (k : Nat) (v : BitVec 128) (p : Byte) : (m.setRing k v p).groups = m.groups := rfl
@[simp] theorem Cont.setRing_queue (m : Cont) (k : Nat) (v : BitVec 128) (p : Byte) : (m.setRing k v p).queue = m.queue := rfl
@[simp] theorem Cont.setRing_timid (m : Cont) (k : Nat) (v : BitVec 128) (p : Byte) : (m.setRing k v p).timid = m.timid := rfl
@[simp] theorem Cont.setRing_lag (m : Cont) (k : Nat) (v : BitVec 128) (p : Byte) : (m.setRing k v p).lag = m.lag := rfl
@[simp] theorem Cont.setRing_fmtUndo (m : Cont) (k : Nat) (v : BitVec 128) (p : Byte) : (m.setRing k v p).fmtUndo = m.fmtUndo := rfl
@[simp] theorem Cont.setRing_given (m : Cont) (k : Nat) (v : BitVec 128) (p : Byte) : (m.setRing k v p).given = m.given := rfl

@[simp] theorem Cont.setTx_id (m : Cont) (n : Nat) (x : Tx) : (m.setTx n x).id = m.id := rfl
@[simp] theorem Cont.setTx_pc (m : Cont) (n : Nat) (x : Tx) : (m.setTx n x).pc = m.pc := rfl
@[simp] theorem Cont.setTx_state (m : Cont) (n : Nat) (x : Tx) : (m.setTx n x).state = m.state := rfl
@[simp] theorem Cont.setTx_prio (m : Cont) (n : Nat) (x : Tx) : (m.setTx n x).prio = m.prio := rfl
@[simp] theorem Cont.setTx_save (m : Cont) (n : Nat) (x : Tx) : (m.setTx n x).save = m.save := rfl
@[simp] theorem Cont.setTx_waddr (m : Cont) (n : Nat) (x : Tx) : (m.setTx n x).waddr = m.waddr := rfl
@[simp] theorem Cont.setTx_wval (m : Cont) (n : Nat) (x : Tx) : (m.setTx n x).wval = m.wval := rfl
@[simp] theorem Cont.setTx_wcond (m : Cont) (n : Nat) (x : Tx) : (m.setTx n x).wcond = m.wcond := rfl
@[simp] theorem Cont.setTx_team (m : Cont) (n : Nat) (x : Tx) : (m.setTx n x).team = m.team := rfl
@[simp] theorem Cont.setTx_rank (m : Cont) (n : Nat) (x : Tx) : (m.setTx n x).rank = m.rank := rfl
@[simp] theorem Cont.setTx_grid (m : Cont) (n : Nat) (x : Tx) : (m.setTx n x).grid = m.grid := rfl
@[simp] theorem Cont.setTx_taskRec (m : Cont) (n : Nat) (x : Tx) : (m.setTx n x).taskRec = m.taskRec := rfl
@[simp] theorem Cont.setTx_rtime (m : Cont) (n : Nat) (x : Tx) : (m.setTx n x).rtime = m.rtime := rfl
@[simp] theorem Cont.setTx_ppol (m : Cont) (n : Nat) (x : Tx) : (m.setTx n x).ppol = m.ppol := rfl
@[simp] theorem Cont.setTx_tcause (m : Cont) (n : Nat) (x : Tx) : (m.setTx n x).tcause = m.tcause := rfl
@[simp] theorem Cont.setTx_fslot (m : Cont) (n : Nat) (x : Tx) : (m.setTx n x).fslot = m.fslot := rfl
@[simp] theorem Cont.setTx_recVa (m : Cont) (n : Nat) (x : Tx) : (m.setTx n x).recVa = m.recVa := rfl
@[simp] theorem Cont.setTx_task (m : Cont) (n : Nat) (x : Tx) : (m.setTx n x).task = m.task := rfl
@[simp] theorem Cont.setTx_ctx (m : Cont) (n : Nat) (x : Tx) : (m.setTx n x).ctx = m.ctx := rfl
@[simp] theorem Cont.setTx_die (m : Cont) (n : Nat) (x : Tx) : (m.setTx n x).die = m.die := rfl
@[simp] theorem Cont.setTx_core (m : Cont) (n : Nat) (x : Tx) : (m.setTx n x).core = m.core := rfl
@[simp] theorem Cont.setTx_slot (m : Cont) (n : Nat) (x : Tx) : (m.setTx n x).slot = m.slot := rfl
@[simp] theorem Cont.setTx_resident (m : Cont) (n : Nat) (x : Tx) : (m.setTx n x).resident = m.resident := rfl
@[simp] theorem Cont.setTx_winBase (m : Cont) (n : Nat) (x : Tx) : (m.setTx n x).winBase = m.winBase := rfl
@[simp] theorem Cont.setTx_winLimit (m : Cont) (n : Nat) (x : Tx) : (m.setTx n x).winLimit = m.winLimit := rfl
@[simp] theorem Cont.setTx_claim (m : Cont) (n : Nat) (x : Tx) : (m.setTx n x).claim = m.claim := rfl
@[simp] theorem Cont.setTx_starting (m : Cont) (n : Nat) (x : Tx) : (m.setTx n x).starting = m.starting := rfl
@[simp] theorem Cont.setTx_stage0 (m : Cont) (n : Nat) (x : Tx) : (m.setTx n x).stage0 = m.stage0 := rfl
@[simp] theorem Cont.setTx_g (m : Cont) (n : Nat) (x : Tx) : (m.setTx n x).g = m.g := rfl
@[simp] theorem Cont.setTx_gPoison (m : Cont) (n : Nat) (x : Tx) : (m.setTx n x).gPoison = m.gPoison := rfl
@[simp] theorem Cont.setTx_streams (m : Cont) (n : Nat) (x : Tx) : (m.setTx n x).streams = m.streams := rfl
@[simp] theorem Cont.setTx_p (m : Cont) (n : Nat) (x : Tx) : (m.setTx n x).p = m.p := rfl
@[simp] theorem Cont.setTx_b (m : Cont) (n : Nat) (x : Tx) : (m.setTx n x).b = m.b := rfl
@[simp] theorem Cont.setTx_lc (m : Cont) (n : Nat) (x : Tx) : (m.setTx n x).lc = m.lc := rfl
@[simp] theorem Cont.setTx_vl (m : Cont) (n : Nat) (x : Tx) : (m.setTx n x).vl = m.vl := rfl
@[simp] theorem Cont.setTx_fmt (m : Cont) (n : Nat) (x : Tx) : (m.setTx n x).fmt = m.fmt := rfl
@[simp] theorem Cont.setTx_fmtOld (m : Cont) (n : Nat) (x : Tx) : (m.setTx n x).fmtOld = m.fmtOld := rfl
@[simp] theorem Cont.setTx_flags (m : Cont) (n : Nat) (x : Tx) : (m.setTx n x).flags = m.flags := rfl
@[simp] theorem Cont.setTx_tx (m : Cont) (n : Nat) (x : Tx) : (m.setTx n x).tx = vset m.tx n x := rfl
@[simp] theorem Cont.setTx_ag (m : Cont) (n : Nat) (x : Tx) : (m.setTx n x).ag = m.ag := rfl
@[simp] theorem Cont.setTx_blocks (m : Cont) (n : Nat) (x : Tx) : (m.setTx n x).blocks = m.blocks := rfl
@[simp] theorem Cont.setTx_tvec (m : Cont) (n : Nat) (x : Tx) : (m.setTx n x).tvec = m.tvec := rfl
@[simp] theorem Cont.setTx_tsave (m : Cont) (n : Nat) (x : Tx) : (m.setTx n x).tsave = m.tsave := rfl
@[simp] theorem Cont.setTx_trapen (m : Cont) (n : Nat) (x : Tx) : (m.setTx n x).trapen = m.trapen := rfl
@[simp] theorem Cont.setTx_fev (m : Cont) (n : Nat) (x : Tx) : (m.setTx n x).fev = m.fev := rfl
@[simp] theorem Cont.setTx_sysMode (m : Cont) (n : Nat) (x : Tx) : (m.setTx n x).sysMode = m.sysMode := rfl
@[simp] theorem Cont.setTx_imprecise (m : Cont) (n : Nat) (x : Tx) : (m.setTx n x).imprecise = m.imprecise := rfl
@[simp] theorem Cont.setTx_flagTrap (m : Cont) (n : Nat) (x : Tx) : (m.setTx n x).flagTrap = m.flagTrap := rfl
@[simp] theorem Cont.setTx_vpend (m : Cont) (n : Nat) (x : Tx) : (m.setTx n x).vpend = m.vpend := rfl
@[simp] theorem Cont.setTx_mx (m : Cont) (n : Nat) (x : Tx) : (m.setTx n x).mx = m.mx := rfl
@[simp] theorem Cont.setTx_cursor (m : Cont) (n : Nat) (x : Tx) : (m.setTx n x).cursor = m.cursor := rfl
@[simp] theorem Cont.setTx_groupLen (m : Cont) (n : Nat) (x : Tx) : (m.setTx n x).groupLen = m.groupLen := rfl
@[simp] theorem Cont.setTx_groupWrites (m : Cont) (n : Nat) (x : Tx) : (m.setTx n x).groupWrites = m.groupWrites := rfl
@[simp] theorem Cont.setTx_groupVl (m : Cont) (n : Nat) (x : Tx) : (m.setTx n x).groupVl = m.groupVl := rfl
@[simp] theorem Cont.setTx_holds (m : Cont) (n : Nat) (x : Tx) : (m.setTx n x).holds = m.holds := rfl
@[simp] theorem Cont.setTx_sig (m : Cont) (n : Nat) (x : Tx) : (m.setTx n x).sig = m.sig := rfl
@[simp] theorem Cont.setTx_answers (m : Cont) (n : Nat) (x : Tx) : (m.setTx n x).answers = m.answers := rfl
@[simp] theorem Cont.setTx_barr (m : Cont) (n : Nat) (x : Tx) : (m.setTx n x).barr = m.barr := rfl
@[simp] theorem Cont.setTx_inTlbcnf (m : Cont) (n : Nat) (x : Tx) : (m.setTx n x).inTlbcnf = m.inTlbcnf := rfl
@[simp] theorem Cont.setTx_since (m : Cont) (n : Nat) (x : Tx) : (m.setTx n x).since = m.since := rfl
@[simp] theorem Cont.setTx_image (m : Cont) (n : Nat) (x : Tx) : (m.setTx n x).image = m.image := rfl
@[simp] theorem Cont.setTx_imaged (m : Cont) (n : Nat) (x : Tx) : (m.setTx n x).imaged = m.imaged := rfl
@[simp] theorem Cont.setTx_early (m : Cont) (n : Nat) (x : Tx) : (m.setTx n x).early = m.early := rfl
@[simp] theorem Cont.setTx_imagePoison (m : Cont) (n : Nat) (x : Tx) : (m.setTx n x).imagePoison = m.imagePoison := rfl
@[simp] theorem Cont.setTx_recPa (m : Cont) (n : Nat) (x : Tx) : (m.setTx n x).recPa = m.recPa := rfl
@[simp] theorem Cont.setTx_savePa (m : Cont) (n : Nat) (x : Tx) : (m.setTx n x).savePa = m.savePa := rfl
@[simp] theorem Cont.setTx_past (m : Cont) (n : Nat) (x : Tx) : (m.setTx n x).past = m.past := rfl
@[simp] theorem Cont.setTx_vlGroup (m : Cont) (n : Nat) (x : Tx) : (m.setTx n x).vlGroup = m.vlGroup := rfl
@[simp] theorem Cont.setTx_bundles (m : Cont) (n : Nat) (x : Tx) : (m.setTx n x).bundles = m.bundles := rfl
@[simp] theorem Cont.setTx_groups (m : Cont) (n : Nat) (x : Tx) : (m.setTx n x).groups = m.groups := rfl
@[simp] theorem Cont.setTx_queue (m : Cont) (n : Nat) (x : Tx) : (m.setTx n x).queue = m.queue := rfl
@[simp] theorem Cont.setTx_timid (m : Cont) (n : Nat) (x : Tx) : (m.setTx n x).timid = m.timid := rfl
@[simp] theorem Cont.setTx_lag (m : Cont) (n : Nat) (x : Tx) : (m.setTx n x).lag = m.lag := rfl
@[simp] theorem Cont.setTx_fmtUndo (m : Cont) (n : Nat) (x : Tx) : (m.setTx n x).fmtUndo = m.fmtUndo := rfl
@[simp] theorem Cont.setTx_given (m : Cont) (n : Nat) (x : Tx) : (m.setTx n x).given = m.given := rfl

@[simp] theorem Cont.jump_id (m : Cont) (a : BitVec 48) : (m.jump a).id = m.id := rfl
@[simp] theorem Cont.jump_pc (m : Cont) (a : BitVec 48) : (m.jump a).pc = m.pc := rfl
@[simp] theorem Cont.jump_state (m : Cont) (a : BitVec 48) : (m.jump a).state = m.state := rfl
@[simp] theorem Cont.jump_prio (m : Cont) (a : BitVec 48) : (m.jump a).prio = m.prio := rfl
@[simp] theorem Cont.jump_save (m : Cont) (a : BitVec 48) : (m.jump a).save = m.save := rfl
@[simp] theorem Cont.jump_waddr (m : Cont) (a : BitVec 48) : (m.jump a).waddr = m.waddr := rfl
@[simp] theorem Cont.jump_wval (m : Cont) (a : BitVec 48) : (m.jump a).wval = m.wval := rfl
@[simp] theorem Cont.jump_wcond (m : Cont) (a : BitVec 48) : (m.jump a).wcond = m.wcond := rfl
@[simp] theorem Cont.jump_team (m : Cont) (a : BitVec 48) : (m.jump a).team = m.team := rfl
@[simp] theorem Cont.jump_rank (m : Cont) (a : BitVec 48) : (m.jump a).rank = m.rank := rfl
@[simp] theorem Cont.jump_grid (m : Cont) (a : BitVec 48) : (m.jump a).grid = m.grid := rfl
@[simp] theorem Cont.jump_taskRec (m : Cont) (a : BitVec 48) : (m.jump a).taskRec = m.taskRec := rfl
@[simp] theorem Cont.jump_rtime (m : Cont) (a : BitVec 48) : (m.jump a).rtime = m.rtime := rfl
@[simp] theorem Cont.jump_ppol (m : Cont) (a : BitVec 48) : (m.jump a).ppol = m.ppol := rfl
@[simp] theorem Cont.jump_tcause (m : Cont) (a : BitVec 48) : (m.jump a).tcause = m.tcause := rfl
@[simp] theorem Cont.jump_fslot (m : Cont) (a : BitVec 48) : (m.jump a).fslot = m.fslot := rfl
@[simp] theorem Cont.jump_recVa (m : Cont) (a : BitVec 48) : (m.jump a).recVa = m.recVa := rfl
@[simp] theorem Cont.jump_task (m : Cont) (a : BitVec 48) : (m.jump a).task = m.task := rfl
@[simp] theorem Cont.jump_ctx (m : Cont) (a : BitVec 48) : (m.jump a).ctx = m.ctx := rfl
@[simp] theorem Cont.jump_die (m : Cont) (a : BitVec 48) : (m.jump a).die = m.die := rfl
@[simp] theorem Cont.jump_core (m : Cont) (a : BitVec 48) : (m.jump a).core = m.core := rfl
@[simp] theorem Cont.jump_slot (m : Cont) (a : BitVec 48) : (m.jump a).slot = m.slot := rfl
@[simp] theorem Cont.jump_resident (m : Cont) (a : BitVec 48) : (m.jump a).resident = m.resident := rfl
@[simp] theorem Cont.jump_winBase (m : Cont) (a : BitVec 48) : (m.jump a).winBase = m.winBase := rfl
@[simp] theorem Cont.jump_winLimit (m : Cont) (a : BitVec 48) : (m.jump a).winLimit = m.winLimit := rfl
@[simp] theorem Cont.jump_claim (m : Cont) (a : BitVec 48) : (m.jump a).claim = m.claim := rfl
@[simp] theorem Cont.jump_starting (m : Cont) (a : BitVec 48) : (m.jump a).starting = m.starting := rfl
@[simp] theorem Cont.jump_stage0 (m : Cont) (a : BitVec 48) : (m.jump a).stage0 = m.stage0 := rfl
@[simp] theorem Cont.jump_g (m : Cont) (a : BitVec 48) : (m.jump a).g = m.g := rfl
@[simp] theorem Cont.jump_gPoison (m : Cont) (a : BitVec 48) : (m.jump a).gPoison = m.gPoison := rfl
@[simp] theorem Cont.jump_streams (m : Cont) (a : BitVec 48) : (m.jump a).streams = m.streams := rfl
@[simp] theorem Cont.jump_p (m : Cont) (a : BitVec 48) : (m.jump a).p = m.p := rfl
@[simp] theorem Cont.jump_b (m : Cont) (a : BitVec 48) : (m.jump a).b = m.b := rfl
@[simp] theorem Cont.jump_lc (m : Cont) (a : BitVec 48) : (m.jump a).lc = m.lc := rfl
@[simp] theorem Cont.jump_vl (m : Cont) (a : BitVec 48) : (m.jump a).vl = m.vl := rfl
@[simp] theorem Cont.jump_fmt (m : Cont) (a : BitVec 48) : (m.jump a).fmt = m.fmt := rfl
@[simp] theorem Cont.jump_fmtOld (m : Cont) (a : BitVec 48) : (m.jump a).fmtOld = m.fmtOld := rfl
@[simp] theorem Cont.jump_flags (m : Cont) (a : BitVec 48) : (m.jump a).flags = m.flags := rfl
@[simp] theorem Cont.jump_tx (m : Cont) (a : BitVec 48) : (m.jump a).tx = m.tx := rfl
@[simp] theorem Cont.jump_ag (m : Cont) (a : BitVec 48) : (m.jump a).ag = m.ag := rfl
@[simp] theorem Cont.jump_blocks (m : Cont) (a : BitVec 48) : (m.jump a).blocks = m.blocks := rfl
@[simp] theorem Cont.jump_tvec (m : Cont) (a : BitVec 48) : (m.jump a).tvec = m.tvec := rfl
@[simp] theorem Cont.jump_tsave (m : Cont) (a : BitVec 48) : (m.jump a).tsave = m.tsave := rfl
@[simp] theorem Cont.jump_trapen (m : Cont) (a : BitVec 48) : (m.jump a).trapen = m.trapen := rfl
@[simp] theorem Cont.jump_fev (m : Cont) (a : BitVec 48) : (m.jump a).fev = m.fev := rfl
@[simp] theorem Cont.jump_sysMode (m : Cont) (a : BitVec 48) : (m.jump a).sysMode = m.sysMode := rfl
@[simp] theorem Cont.jump_imprecise (m : Cont) (a : BitVec 48) : (m.jump a).imprecise = m.imprecise := rfl
@[simp] theorem Cont.jump_flagTrap (m : Cont) (a : BitVec 48) : (m.jump a).flagTrap = m.flagTrap := rfl
@[simp] theorem Cont.jump_vpend (m : Cont) (a : BitVec 48) : (m.jump a).vpend = m.vpend := rfl
@[simp] theorem Cont.jump_mx (m : Cont) (a : BitVec 48) : (m.jump a).mx = m.mx := rfl
@[simp] theorem Cont.jump_groupLen (m : Cont) (a : BitVec 48) : (m.jump a).groupLen = m.groupLen := rfl
@[simp] theorem Cont.jump_groupWrites (m : Cont) (a : BitVec 48) : (m.jump a).groupWrites = m.groupWrites := rfl
@[simp] theorem Cont.jump_groupVl (m : Cont) (a : BitVec 48) : (m.jump a).groupVl = m.groupVl := rfl
@[simp] theorem Cont.jump_holds (m : Cont) (a : BitVec 48) : (m.jump a).holds = m.holds := rfl
@[simp] theorem Cont.jump_sig (m : Cont) (a : BitVec 48) : (m.jump a).sig = m.sig := rfl
@[simp] theorem Cont.jump_answers (m : Cont) (a : BitVec 48) : (m.jump a).answers = m.answers := rfl
@[simp] theorem Cont.jump_barr (m : Cont) (a : BitVec 48) : (m.jump a).barr = m.barr := rfl
@[simp] theorem Cont.jump_inTlbcnf (m : Cont) (a : BitVec 48) : (m.jump a).inTlbcnf = m.inTlbcnf := rfl
@[simp] theorem Cont.jump_since (m : Cont) (a : BitVec 48) : (m.jump a).since = m.since := rfl
@[simp] theorem Cont.jump_image (m : Cont) (a : BitVec 48) : (m.jump a).image = m.image := rfl
@[simp] theorem Cont.jump_imaged (m : Cont) (a : BitVec 48) : (m.jump a).imaged = m.imaged := rfl
@[simp] theorem Cont.jump_early (m : Cont) (a : BitVec 48) : (m.jump a).early = m.early := rfl
@[simp] theorem Cont.jump_imagePoison (m : Cont) (a : BitVec 48) : (m.jump a).imagePoison = m.imagePoison := rfl
@[simp] theorem Cont.jump_recPa (m : Cont) (a : BitVec 48) : (m.jump a).recPa = m.recPa := rfl
@[simp] theorem Cont.jump_savePa (m : Cont) (a : BitVec 48) : (m.jump a).savePa = m.savePa := rfl
@[simp] theorem Cont.jump_past (m : Cont) (a : BitVec 48) : (m.jump a).past = m.past := rfl
@[simp] theorem Cont.jump_vlGroup (m : Cont) (a : BitVec 48) : (m.jump a).vlGroup = m.vlGroup := rfl
@[simp] theorem Cont.jump_bundles (m : Cont) (a : BitVec 48) : (m.jump a).bundles = m.bundles := rfl
@[simp] theorem Cont.jump_groups (m : Cont) (a : BitVec 48) : (m.jump a).groups = m.groups := rfl
@[simp] theorem Cont.jump_queue (m : Cont) (a : BitVec 48) : (m.jump a).queue = m.queue := rfl
@[simp] theorem Cont.jump_timid (m : Cont) (a : BitVec 48) : (m.jump a).timid = m.timid := rfl
@[simp] theorem Cont.jump_lag (m : Cont) (a : BitVec 48) : (m.jump a).lag = m.lag := rfl
@[simp] theorem Cont.jump_fmtUndo (m : Cont) (a : BitVec 48) : (m.jump a).fmtUndo = m.fmtUndo := rfl
@[simp] theorem Cont.jump_given (m : Cont) (a : BitVec 48) : (m.jump a).given = m.given := rfl

@[simp] theorem Cont.setLoop_id (m : Cont) (x : BitVec 2) (v : W32) : (m.setLoop x v).id = m.id := rfl
@[simp] theorem Cont.setLoop_pc (m : Cont) (x : BitVec 2) (v : W32) : (m.setLoop x v).pc = m.pc := rfl
@[simp] theorem Cont.setLoop_state (m : Cont) (x : BitVec 2) (v : W32) : (m.setLoop x v).state = m.state := rfl
@[simp] theorem Cont.setLoop_prio (m : Cont) (x : BitVec 2) (v : W32) : (m.setLoop x v).prio = m.prio := rfl
@[simp] theorem Cont.setLoop_save (m : Cont) (x : BitVec 2) (v : W32) : (m.setLoop x v).save = m.save := rfl
@[simp] theorem Cont.setLoop_waddr (m : Cont) (x : BitVec 2) (v : W32) : (m.setLoop x v).waddr = m.waddr := rfl
@[simp] theorem Cont.setLoop_wval (m : Cont) (x : BitVec 2) (v : W32) : (m.setLoop x v).wval = m.wval := rfl
@[simp] theorem Cont.setLoop_wcond (m : Cont) (x : BitVec 2) (v : W32) : (m.setLoop x v).wcond = m.wcond := rfl
@[simp] theorem Cont.setLoop_team (m : Cont) (x : BitVec 2) (v : W32) : (m.setLoop x v).team = m.team := rfl
@[simp] theorem Cont.setLoop_rank (m : Cont) (x : BitVec 2) (v : W32) : (m.setLoop x v).rank = m.rank := rfl
@[simp] theorem Cont.setLoop_grid (m : Cont) (x : BitVec 2) (v : W32) : (m.setLoop x v).grid = m.grid := rfl
@[simp] theorem Cont.setLoop_taskRec (m : Cont) (x : BitVec 2) (v : W32) : (m.setLoop x v).taskRec = m.taskRec := rfl
@[simp] theorem Cont.setLoop_rtime (m : Cont) (x : BitVec 2) (v : W32) : (m.setLoop x v).rtime = m.rtime := rfl
@[simp] theorem Cont.setLoop_ppol (m : Cont) (x : BitVec 2) (v : W32) : (m.setLoop x v).ppol = m.ppol := rfl
@[simp] theorem Cont.setLoop_tcause (m : Cont) (x : BitVec 2) (v : W32) : (m.setLoop x v).tcause = m.tcause := rfl
@[simp] theorem Cont.setLoop_fslot (m : Cont) (x : BitVec 2) (v : W32) : (m.setLoop x v).fslot = m.fslot := rfl
@[simp] theorem Cont.setLoop_recVa (m : Cont) (x : BitVec 2) (v : W32) : (m.setLoop x v).recVa = m.recVa := rfl
@[simp] theorem Cont.setLoop_task (m : Cont) (x : BitVec 2) (v : W32) : (m.setLoop x v).task = m.task := rfl
@[simp] theorem Cont.setLoop_ctx (m : Cont) (x : BitVec 2) (v : W32) : (m.setLoop x v).ctx = m.ctx := rfl
@[simp] theorem Cont.setLoop_die (m : Cont) (x : BitVec 2) (v : W32) : (m.setLoop x v).die = m.die := rfl
@[simp] theorem Cont.setLoop_core (m : Cont) (x : BitVec 2) (v : W32) : (m.setLoop x v).core = m.core := rfl
@[simp] theorem Cont.setLoop_slot (m : Cont) (x : BitVec 2) (v : W32) : (m.setLoop x v).slot = m.slot := rfl
@[simp] theorem Cont.setLoop_resident (m : Cont) (x : BitVec 2) (v : W32) : (m.setLoop x v).resident = m.resident := rfl
@[simp] theorem Cont.setLoop_winBase (m : Cont) (x : BitVec 2) (v : W32) : (m.setLoop x v).winBase = m.winBase := rfl
@[simp] theorem Cont.setLoop_winLimit (m : Cont) (x : BitVec 2) (v : W32) : (m.setLoop x v).winLimit = m.winLimit := rfl
@[simp] theorem Cont.setLoop_claim (m : Cont) (x : BitVec 2) (v : W32) : (m.setLoop x v).claim = m.claim := rfl
@[simp] theorem Cont.setLoop_starting (m : Cont) (x : BitVec 2) (v : W32) : (m.setLoop x v).starting = m.starting := rfl
@[simp] theorem Cont.setLoop_stage0 (m : Cont) (x : BitVec 2) (v : W32) : (m.setLoop x v).stage0 = m.stage0 := rfl
@[simp] theorem Cont.setLoop_g (m : Cont) (x : BitVec 2) (v : W32) : (m.setLoop x v).g = m.g := rfl
@[simp] theorem Cont.setLoop_gPoison (m : Cont) (x : BitVec 2) (v : W32) : (m.setLoop x v).gPoison = m.gPoison := rfl
@[simp] theorem Cont.setLoop_streams (m : Cont) (x : BitVec 2) (v : W32) : (m.setLoop x v).streams = m.streams := rfl
@[simp] theorem Cont.setLoop_p (m : Cont) (x : BitVec 2) (v : W32) : (m.setLoop x v).p = m.p := rfl
@[simp] theorem Cont.setLoop_b (m : Cont) (x : BitVec 2) (v : W32) : (m.setLoop x v).b = m.b := rfl
@[simp] theorem Cont.setLoop_lc (m : Cont) (x : BitVec 2) (v : W32) : (m.setLoop x v).lc = vset m.lc x.toNat v := rfl
@[simp] theorem Cont.setLoop_vl (m : Cont) (x : BitVec 2) (v : W32) : (m.setLoop x v).vl = m.vl := rfl
@[simp] theorem Cont.setLoop_fmt (m : Cont) (x : BitVec 2) (v : W32) : (m.setLoop x v).fmt = m.fmt := rfl
@[simp] theorem Cont.setLoop_fmtOld (m : Cont) (x : BitVec 2) (v : W32) : (m.setLoop x v).fmtOld = m.fmtOld := rfl
@[simp] theorem Cont.setLoop_flags (m : Cont) (x : BitVec 2) (v : W32) : (m.setLoop x v).flags = m.flags := rfl
@[simp] theorem Cont.setLoop_tx (m : Cont) (x : BitVec 2) (v : W32) : (m.setLoop x v).tx = m.tx := rfl
@[simp] theorem Cont.setLoop_ag (m : Cont) (x : BitVec 2) (v : W32) : (m.setLoop x v).ag = m.ag := rfl
@[simp] theorem Cont.setLoop_blocks (m : Cont) (x : BitVec 2) (v : W32) : (m.setLoop x v).blocks = m.blocks := rfl
@[simp] theorem Cont.setLoop_tvec (m : Cont) (x : BitVec 2) (v : W32) : (m.setLoop x v).tvec = m.tvec := rfl
@[simp] theorem Cont.setLoop_tsave (m : Cont) (x : BitVec 2) (v : W32) : (m.setLoop x v).tsave = m.tsave := rfl
@[simp] theorem Cont.setLoop_trapen (m : Cont) (x : BitVec 2) (v : W32) : (m.setLoop x v).trapen = m.trapen := rfl
@[simp] theorem Cont.setLoop_fev (m : Cont) (x : BitVec 2) (v : W32) : (m.setLoop x v).fev = m.fev := rfl
@[simp] theorem Cont.setLoop_sysMode (m : Cont) (x : BitVec 2) (v : W32) : (m.setLoop x v).sysMode = m.sysMode := rfl
@[simp] theorem Cont.setLoop_imprecise (m : Cont) (x : BitVec 2) (v : W32) : (m.setLoop x v).imprecise = m.imprecise := rfl
@[simp] theorem Cont.setLoop_flagTrap (m : Cont) (x : BitVec 2) (v : W32) : (m.setLoop x v).flagTrap = m.flagTrap := rfl
@[simp] theorem Cont.setLoop_vpend (m : Cont) (x : BitVec 2) (v : W32) : (m.setLoop x v).vpend = m.vpend := rfl
@[simp] theorem Cont.setLoop_mx (m : Cont) (x : BitVec 2) (v : W32) : (m.setLoop x v).mx = m.mx := rfl
@[simp] theorem Cont.setLoop_cursor (m : Cont) (x : BitVec 2) (v : W32) : (m.setLoop x v).cursor = m.cursor := rfl
@[simp] theorem Cont.setLoop_groupLen (m : Cont) (x : BitVec 2) (v : W32) : (m.setLoop x v).groupLen = m.groupLen := rfl
@[simp] theorem Cont.setLoop_groupWrites (m : Cont) (x : BitVec 2) (v : W32) : (m.setLoop x v).groupWrites = m.groupWrites := rfl
@[simp] theorem Cont.setLoop_groupVl (m : Cont) (x : BitVec 2) (v : W32) : (m.setLoop x v).groupVl = m.groupVl := rfl
@[simp] theorem Cont.setLoop_holds (m : Cont) (x : BitVec 2) (v : W32) : (m.setLoop x v).holds = m.holds := rfl
@[simp] theorem Cont.setLoop_sig (m : Cont) (x : BitVec 2) (v : W32) : (m.setLoop x v).sig = m.sig := rfl
@[simp] theorem Cont.setLoop_answers (m : Cont) (x : BitVec 2) (v : W32) : (m.setLoop x v).answers = m.answers := rfl
@[simp] theorem Cont.setLoop_barr (m : Cont) (x : BitVec 2) (v : W32) : (m.setLoop x v).barr = m.barr := rfl
@[simp] theorem Cont.setLoop_inTlbcnf (m : Cont) (x : BitVec 2) (v : W32) : (m.setLoop x v).inTlbcnf = m.inTlbcnf := rfl
@[simp] theorem Cont.setLoop_since (m : Cont) (x : BitVec 2) (v : W32) : (m.setLoop x v).since = m.since := rfl
@[simp] theorem Cont.setLoop_image (m : Cont) (x : BitVec 2) (v : W32) : (m.setLoop x v).image = m.image := rfl
@[simp] theorem Cont.setLoop_imaged (m : Cont) (x : BitVec 2) (v : W32) : (m.setLoop x v).imaged = m.imaged := rfl
@[simp] theorem Cont.setLoop_early (m : Cont) (x : BitVec 2) (v : W32) : (m.setLoop x v).early = m.early := rfl
@[simp] theorem Cont.setLoop_imagePoison (m : Cont) (x : BitVec 2) (v : W32) : (m.setLoop x v).imagePoison = m.imagePoison := rfl
@[simp] theorem Cont.setLoop_recPa (m : Cont) (x : BitVec 2) (v : W32) : (m.setLoop x v).recPa = m.recPa := rfl
@[simp] theorem Cont.setLoop_savePa (m : Cont) (x : BitVec 2) (v : W32) : (m.setLoop x v).savePa = m.savePa := rfl
@[simp] theorem Cont.setLoop_past (m : Cont) (x : BitVec 2) (v : W32) : (m.setLoop x v).past = m.past := rfl
@[simp] theorem Cont.setLoop_vlGroup (m : Cont) (x : BitVec 2) (v : W32) : (m.setLoop x v).vlGroup = m.vlGroup := rfl
@[simp] theorem Cont.setLoop_bundles (m : Cont) (x : BitVec 2) (v : W32) : (m.setLoop x v).bundles = m.bundles := rfl
@[simp] theorem Cont.setLoop_groups (m : Cont) (x : BitVec 2) (v : W32) : (m.setLoop x v).groups = m.groups := rfl
@[simp] theorem Cont.setLoop_queue (m : Cont) (x : BitVec 2) (v : W32) : (m.setLoop x v).queue = m.queue := rfl
@[simp] theorem Cont.setLoop_timid (m : Cont) (x : BitVec 2) (v : W32) : (m.setLoop x v).timid = m.timid := rfl
@[simp] theorem Cont.setLoop_lag (m : Cont) (x : BitVec 2) (v : W32) : (m.setLoop x v).lag = m.lag := rfl
@[simp] theorem Cont.setLoop_fmtUndo (m : Cont) (x : BitVec 2) (v : W32) : (m.setLoop x v).fmtUndo = m.fmtUndo := rfl
@[simp] theorem Cont.setLoop_given (m : Cont) (x : BitVec 2) (v : W32) : (m.setLoop x v).given = m.given := rfl

@[simp] theorem Cont.setBranch_id (m : Cont) (n : BitVec 3) (v : BitVec 48) : (m.setBranch n v).id = m.id := rfl
@[simp] theorem Cont.setBranch_pc (m : Cont) (n : BitVec 3) (v : BitVec 48) : (m.setBranch n v).pc = m.pc := rfl
@[simp] theorem Cont.setBranch_state (m : Cont) (n : BitVec 3) (v : BitVec 48) : (m.setBranch n v).state = m.state := rfl
@[simp] theorem Cont.setBranch_prio (m : Cont) (n : BitVec 3) (v : BitVec 48) : (m.setBranch n v).prio = m.prio := rfl
@[simp] theorem Cont.setBranch_save (m : Cont) (n : BitVec 3) (v : BitVec 48) : (m.setBranch n v).save = m.save := rfl
@[simp] theorem Cont.setBranch_waddr (m : Cont) (n : BitVec 3) (v : BitVec 48) : (m.setBranch n v).waddr = m.waddr := rfl
@[simp] theorem Cont.setBranch_wval (m : Cont) (n : BitVec 3) (v : BitVec 48) : (m.setBranch n v).wval = m.wval := rfl
@[simp] theorem Cont.setBranch_wcond (m : Cont) (n : BitVec 3) (v : BitVec 48) : (m.setBranch n v).wcond = m.wcond := rfl
@[simp] theorem Cont.setBranch_team (m : Cont) (n : BitVec 3) (v : BitVec 48) : (m.setBranch n v).team = m.team := rfl
@[simp] theorem Cont.setBranch_rank (m : Cont) (n : BitVec 3) (v : BitVec 48) : (m.setBranch n v).rank = m.rank := rfl
@[simp] theorem Cont.setBranch_grid (m : Cont) (n : BitVec 3) (v : BitVec 48) : (m.setBranch n v).grid = m.grid := rfl
@[simp] theorem Cont.setBranch_taskRec (m : Cont) (n : BitVec 3) (v : BitVec 48) : (m.setBranch n v).taskRec = m.taskRec := rfl
@[simp] theorem Cont.setBranch_rtime (m : Cont) (n : BitVec 3) (v : BitVec 48) : (m.setBranch n v).rtime = m.rtime := rfl
@[simp] theorem Cont.setBranch_ppol (m : Cont) (n : BitVec 3) (v : BitVec 48) : (m.setBranch n v).ppol = m.ppol := rfl
@[simp] theorem Cont.setBranch_tcause (m : Cont) (n : BitVec 3) (v : BitVec 48) : (m.setBranch n v).tcause = m.tcause := rfl
@[simp] theorem Cont.setBranch_fslot (m : Cont) (n : BitVec 3) (v : BitVec 48) : (m.setBranch n v).fslot = m.fslot := rfl
@[simp] theorem Cont.setBranch_recVa (m : Cont) (n : BitVec 3) (v : BitVec 48) : (m.setBranch n v).recVa = m.recVa := rfl
@[simp] theorem Cont.setBranch_task (m : Cont) (n : BitVec 3) (v : BitVec 48) : (m.setBranch n v).task = m.task := rfl
@[simp] theorem Cont.setBranch_ctx (m : Cont) (n : BitVec 3) (v : BitVec 48) : (m.setBranch n v).ctx = m.ctx := rfl
@[simp] theorem Cont.setBranch_die (m : Cont) (n : BitVec 3) (v : BitVec 48) : (m.setBranch n v).die = m.die := rfl
@[simp] theorem Cont.setBranch_core (m : Cont) (n : BitVec 3) (v : BitVec 48) : (m.setBranch n v).core = m.core := rfl
@[simp] theorem Cont.setBranch_slot (m : Cont) (n : BitVec 3) (v : BitVec 48) : (m.setBranch n v).slot = m.slot := rfl
@[simp] theorem Cont.setBranch_resident (m : Cont) (n : BitVec 3) (v : BitVec 48) : (m.setBranch n v).resident = m.resident := rfl
@[simp] theorem Cont.setBranch_winBase (m : Cont) (n : BitVec 3) (v : BitVec 48) : (m.setBranch n v).winBase = m.winBase := rfl
@[simp] theorem Cont.setBranch_winLimit (m : Cont) (n : BitVec 3) (v : BitVec 48) : (m.setBranch n v).winLimit = m.winLimit := rfl
@[simp] theorem Cont.setBranch_claim (m : Cont) (n : BitVec 3) (v : BitVec 48) : (m.setBranch n v).claim = m.claim := rfl
@[simp] theorem Cont.setBranch_starting (m : Cont) (n : BitVec 3) (v : BitVec 48) : (m.setBranch n v).starting = m.starting := rfl
@[simp] theorem Cont.setBranch_stage0 (m : Cont) (n : BitVec 3) (v : BitVec 48) : (m.setBranch n v).stage0 = m.stage0 := rfl
@[simp] theorem Cont.setBranch_g (m : Cont) (n : BitVec 3) (v : BitVec 48) : (m.setBranch n v).g = m.g := rfl
@[simp] theorem Cont.setBranch_gPoison (m : Cont) (n : BitVec 3) (v : BitVec 48) : (m.setBranch n v).gPoison = m.gPoison := rfl
@[simp] theorem Cont.setBranch_streams (m : Cont) (n : BitVec 3) (v : BitVec 48) : (m.setBranch n v).streams = m.streams := rfl
@[simp] theorem Cont.setBranch_p (m : Cont) (n : BitVec 3) (v : BitVec 48) : (m.setBranch n v).p = m.p := rfl
@[simp] theorem Cont.setBranch_b (m : Cont) (n : BitVec 3) (v : BitVec 48) : (m.setBranch n v).b = vset m.b n.toNat v := rfl
@[simp] theorem Cont.setBranch_lc (m : Cont) (n : BitVec 3) (v : BitVec 48) : (m.setBranch n v).lc = m.lc := rfl
@[simp] theorem Cont.setBranch_vl (m : Cont) (n : BitVec 3) (v : BitVec 48) : (m.setBranch n v).vl = m.vl := rfl
@[simp] theorem Cont.setBranch_fmt (m : Cont) (n : BitVec 3) (v : BitVec 48) : (m.setBranch n v).fmt = m.fmt := rfl
@[simp] theorem Cont.setBranch_fmtOld (m : Cont) (n : BitVec 3) (v : BitVec 48) : (m.setBranch n v).fmtOld = m.fmtOld := rfl
@[simp] theorem Cont.setBranch_flags (m : Cont) (n : BitVec 3) (v : BitVec 48) : (m.setBranch n v).flags = m.flags := rfl
@[simp] theorem Cont.setBranch_tx (m : Cont) (n : BitVec 3) (v : BitVec 48) : (m.setBranch n v).tx = m.tx := rfl
@[simp] theorem Cont.setBranch_ag (m : Cont) (n : BitVec 3) (v : BitVec 48) : (m.setBranch n v).ag = m.ag := rfl
@[simp] theorem Cont.setBranch_blocks (m : Cont) (n : BitVec 3) (v : BitVec 48) : (m.setBranch n v).blocks = m.blocks := rfl
@[simp] theorem Cont.setBranch_tvec (m : Cont) (n : BitVec 3) (v : BitVec 48) : (m.setBranch n v).tvec = m.tvec := rfl
@[simp] theorem Cont.setBranch_tsave (m : Cont) (n : BitVec 3) (v : BitVec 48) : (m.setBranch n v).tsave = m.tsave := rfl
@[simp] theorem Cont.setBranch_trapen (m : Cont) (n : BitVec 3) (v : BitVec 48) : (m.setBranch n v).trapen = m.trapen := rfl
@[simp] theorem Cont.setBranch_fev (m : Cont) (n : BitVec 3) (v : BitVec 48) : (m.setBranch n v).fev = m.fev := rfl
@[simp] theorem Cont.setBranch_sysMode (m : Cont) (n : BitVec 3) (v : BitVec 48) : (m.setBranch n v).sysMode = m.sysMode := rfl
@[simp] theorem Cont.setBranch_imprecise (m : Cont) (n : BitVec 3) (v : BitVec 48) : (m.setBranch n v).imprecise = m.imprecise := rfl
@[simp] theorem Cont.setBranch_flagTrap (m : Cont) (n : BitVec 3) (v : BitVec 48) : (m.setBranch n v).flagTrap = m.flagTrap := rfl
@[simp] theorem Cont.setBranch_vpend (m : Cont) (n : BitVec 3) (v : BitVec 48) : (m.setBranch n v).vpend = m.vpend := rfl
@[simp] theorem Cont.setBranch_mx (m : Cont) (n : BitVec 3) (v : BitVec 48) : (m.setBranch n v).mx = m.mx := rfl
@[simp] theorem Cont.setBranch_cursor (m : Cont) (n : BitVec 3) (v : BitVec 48) : (m.setBranch n v).cursor = m.cursor := rfl
@[simp] theorem Cont.setBranch_groupLen (m : Cont) (n : BitVec 3) (v : BitVec 48) : (m.setBranch n v).groupLen = m.groupLen := rfl
@[simp] theorem Cont.setBranch_groupWrites (m : Cont) (n : BitVec 3) (v : BitVec 48) : (m.setBranch n v).groupWrites = m.groupWrites := rfl
@[simp] theorem Cont.setBranch_groupVl (m : Cont) (n : BitVec 3) (v : BitVec 48) : (m.setBranch n v).groupVl = m.groupVl := rfl
@[simp] theorem Cont.setBranch_holds (m : Cont) (n : BitVec 3) (v : BitVec 48) : (m.setBranch n v).holds = m.holds := rfl
@[simp] theorem Cont.setBranch_sig (m : Cont) (n : BitVec 3) (v : BitVec 48) : (m.setBranch n v).sig = m.sig := rfl
@[simp] theorem Cont.setBranch_answers (m : Cont) (n : BitVec 3) (v : BitVec 48) : (m.setBranch n v).answers = m.answers := rfl
@[simp] theorem Cont.setBranch_barr (m : Cont) (n : BitVec 3) (v : BitVec 48) : (m.setBranch n v).barr = m.barr := rfl
@[simp] theorem Cont.setBranch_inTlbcnf (m : Cont) (n : BitVec 3) (v : BitVec 48) : (m.setBranch n v).inTlbcnf = m.inTlbcnf := rfl
@[simp] theorem Cont.setBranch_since (m : Cont) (n : BitVec 3) (v : BitVec 48) : (m.setBranch n v).since = m.since := rfl
@[simp] theorem Cont.setBranch_image (m : Cont) (n : BitVec 3) (v : BitVec 48) : (m.setBranch n v).image = m.image := rfl
@[simp] theorem Cont.setBranch_imaged (m : Cont) (n : BitVec 3) (v : BitVec 48) : (m.setBranch n v).imaged = m.imaged := rfl
@[simp] theorem Cont.setBranch_early (m : Cont) (n : BitVec 3) (v : BitVec 48) : (m.setBranch n v).early = m.early := rfl
@[simp] theorem Cont.setBranch_imagePoison (m : Cont) (n : BitVec 3) (v : BitVec 48) : (m.setBranch n v).imagePoison = m.imagePoison := rfl
@[simp] theorem Cont.setBranch_recPa (m : Cont) (n : BitVec 3) (v : BitVec 48) : (m.setBranch n v).recPa = m.recPa := rfl
@[simp] theorem Cont.setBranch_savePa (m : Cont) (n : BitVec 3) (v : BitVec 48) : (m.setBranch n v).savePa = m.savePa := rfl
@[simp] theorem Cont.setBranch_past (m : Cont) (n : BitVec 3) (v : BitVec 48) : (m.setBranch n v).past = m.past := rfl
@[simp] theorem Cont.setBranch_vlGroup (m : Cont) (n : BitVec 3) (v : BitVec 48) : (m.setBranch n v).vlGroup = m.vlGroup := rfl
@[simp] theorem Cont.setBranch_bundles (m : Cont) (n : BitVec 3) (v : BitVec 48) : (m.setBranch n v).bundles = m.bundles := rfl
@[simp] theorem Cont.setBranch_groups (m : Cont) (n : BitVec 3) (v : BitVec 48) : (m.setBranch n v).groups = m.groups := rfl
@[simp] theorem Cont.setBranch_queue (m : Cont) (n : BitVec 3) (v : BitVec 48) : (m.setBranch n v).queue = m.queue := rfl
@[simp] theorem Cont.setBranch_timid (m : Cont) (n : BitVec 3) (v : BitVec 48) : (m.setBranch n v).timid = m.timid := rfl
@[simp] theorem Cont.setBranch_lag (m : Cont) (n : BitVec 3) (v : BitVec 48) : (m.setBranch n v).lag = m.lag := rfl
@[simp] theorem Cont.setBranch_fmtUndo (m : Cont) (n : BitVec 3) (v : BitVec 48) : (m.setBranch n v).fmtUndo = m.fmtUndo := rfl
@[simp] theorem Cont.setBranch_given (m : Cont) (n : BitVec 3) (v : BitVec 48) : (m.setBranch n v).given = m.given := rfl

@[simp] theorem Cont.noteTrap_id (m : Cont) (k : Nat) : (m.noteTrap k).id = m.id := by
  simp only [Cont.noteTrap]; repeat (first | rfl | split)
@[simp] theorem Cont.noteTrap_pc (m : Cont) (k : Nat) : (m.noteTrap k).pc = m.pc := by
  simp only [Cont.noteTrap]; repeat (first | rfl | split)
@[simp] theorem Cont.noteTrap_state (m : Cont) (k : Nat) : (m.noteTrap k).state = m.state := by
  simp only [Cont.noteTrap]; repeat (first | rfl | split)
@[simp] theorem Cont.noteTrap_prio (m : Cont) (k : Nat) : (m.noteTrap k).prio = m.prio := by
  simp only [Cont.noteTrap]; repeat (first | rfl | split)
@[simp] theorem Cont.noteTrap_save (m : Cont) (k : Nat) : (m.noteTrap k).save = m.save := by
  simp only [Cont.noteTrap]; repeat (first | rfl | split)
@[simp] theorem Cont.noteTrap_waddr (m : Cont) (k : Nat) : (m.noteTrap k).waddr = m.waddr := by
  simp only [Cont.noteTrap]; repeat (first | rfl | split)
@[simp] theorem Cont.noteTrap_wval (m : Cont) (k : Nat) : (m.noteTrap k).wval = m.wval := by
  simp only [Cont.noteTrap]; repeat (first | rfl | split)
@[simp] theorem Cont.noteTrap_wcond (m : Cont) (k : Nat) : (m.noteTrap k).wcond = m.wcond := by
  simp only [Cont.noteTrap]; repeat (first | rfl | split)
@[simp] theorem Cont.noteTrap_team (m : Cont) (k : Nat) : (m.noteTrap k).team = m.team := by
  simp only [Cont.noteTrap]; repeat (first | rfl | split)
@[simp] theorem Cont.noteTrap_rank (m : Cont) (k : Nat) : (m.noteTrap k).rank = m.rank := by
  simp only [Cont.noteTrap]; repeat (first | rfl | split)
@[simp] theorem Cont.noteTrap_grid (m : Cont) (k : Nat) : (m.noteTrap k).grid = m.grid := by
  simp only [Cont.noteTrap]; repeat (first | rfl | split)
@[simp] theorem Cont.noteTrap_taskRec (m : Cont) (k : Nat) : (m.noteTrap k).taskRec = m.taskRec := by
  simp only [Cont.noteTrap]; repeat (first | rfl | split)
@[simp] theorem Cont.noteTrap_rtime (m : Cont) (k : Nat) : (m.noteTrap k).rtime = m.rtime := by
  simp only [Cont.noteTrap]; repeat (first | rfl | split)
@[simp] theorem Cont.noteTrap_ppol (m : Cont) (k : Nat) : (m.noteTrap k).ppol = m.ppol := by
  simp only [Cont.noteTrap]; repeat (first | rfl | split)
@[simp] theorem Cont.noteTrap_tcause (m : Cont) (k : Nat) : (m.noteTrap k).tcause = m.tcause := by
  simp only [Cont.noteTrap]; repeat (first | rfl | split)
@[simp] theorem Cont.noteTrap_fslot (m : Cont) (k : Nat) : (m.noteTrap k).fslot = m.fslot := by
  simp only [Cont.noteTrap]; repeat (first | rfl | split)
@[simp] theorem Cont.noteTrap_recVa (m : Cont) (k : Nat) : (m.noteTrap k).recVa = m.recVa := by
  simp only [Cont.noteTrap]; repeat (first | rfl | split)
@[simp] theorem Cont.noteTrap_task (m : Cont) (k : Nat) : (m.noteTrap k).task = m.task := by
  simp only [Cont.noteTrap]; repeat (first | rfl | split)
@[simp] theorem Cont.noteTrap_ctx (m : Cont) (k : Nat) : (m.noteTrap k).ctx = m.ctx := by
  simp only [Cont.noteTrap]; repeat (first | rfl | split)
@[simp] theorem Cont.noteTrap_die (m : Cont) (k : Nat) : (m.noteTrap k).die = m.die := by
  simp only [Cont.noteTrap]; repeat (first | rfl | split)
@[simp] theorem Cont.noteTrap_core (m : Cont) (k : Nat) : (m.noteTrap k).core = m.core := by
  simp only [Cont.noteTrap]; repeat (first | rfl | split)
@[simp] theorem Cont.noteTrap_slot (m : Cont) (k : Nat) : (m.noteTrap k).slot = m.slot := by
  simp only [Cont.noteTrap]; repeat (first | rfl | split)
@[simp] theorem Cont.noteTrap_resident (m : Cont) (k : Nat) : (m.noteTrap k).resident = m.resident := by
  simp only [Cont.noteTrap]; repeat (first | rfl | split)
@[simp] theorem Cont.noteTrap_winBase (m : Cont) (k : Nat) : (m.noteTrap k).winBase = m.winBase := by
  simp only [Cont.noteTrap]; repeat (first | rfl | split)
@[simp] theorem Cont.noteTrap_winLimit (m : Cont) (k : Nat) : (m.noteTrap k).winLimit = m.winLimit := by
  simp only [Cont.noteTrap]; repeat (first | rfl | split)
@[simp] theorem Cont.noteTrap_claim (m : Cont) (k : Nat) : (m.noteTrap k).claim = m.claim := by
  simp only [Cont.noteTrap]; repeat (first | rfl | split)
@[simp] theorem Cont.noteTrap_starting (m : Cont) (k : Nat) : (m.noteTrap k).starting = m.starting := by
  simp only [Cont.noteTrap]; repeat (first | rfl | split)
@[simp] theorem Cont.noteTrap_stage0 (m : Cont) (k : Nat) : (m.noteTrap k).stage0 = m.stage0 := by
  simp only [Cont.noteTrap]; repeat (first | rfl | split)
@[simp] theorem Cont.noteTrap_g (m : Cont) (k : Nat) : (m.noteTrap k).g = m.g := by
  simp only [Cont.noteTrap]; repeat (first | rfl | split)
@[simp] theorem Cont.noteTrap_gPoison (m : Cont) (k : Nat) : (m.noteTrap k).gPoison = m.gPoison := by
  simp only [Cont.noteTrap]; repeat (first | rfl | split)
@[simp] theorem Cont.noteTrap_streams (m : Cont) (k : Nat) : (m.noteTrap k).streams = m.streams := by
  simp only [Cont.noteTrap]; repeat (first | rfl | split)
@[simp] theorem Cont.noteTrap_p (m : Cont) (k : Nat) : (m.noteTrap k).p = m.p := by
  simp only [Cont.noteTrap]; repeat (first | rfl | split)
@[simp] theorem Cont.noteTrap_b (m : Cont) (k : Nat) : (m.noteTrap k).b = m.b := by
  simp only [Cont.noteTrap]; repeat (first | rfl | split)
@[simp] theorem Cont.noteTrap_lc (m : Cont) (k : Nat) : (m.noteTrap k).lc = m.lc := by
  simp only [Cont.noteTrap]; repeat (first | rfl | split)
@[simp] theorem Cont.noteTrap_vl (m : Cont) (k : Nat) : (m.noteTrap k).vl = m.vl := by
  simp only [Cont.noteTrap]; repeat (first | rfl | split)
@[simp] theorem Cont.noteTrap_fmt (m : Cont) (k : Nat) : (m.noteTrap k).fmt = m.fmt := by
  simp only [Cont.noteTrap]; repeat (first | rfl | split)
@[simp] theorem Cont.noteTrap_fmtOld (m : Cont) (k : Nat) : (m.noteTrap k).fmtOld = m.fmtOld := by
  simp only [Cont.noteTrap]; repeat (first | rfl | split)
@[simp] theorem Cont.noteTrap_flags (m : Cont) (k : Nat) : (m.noteTrap k).flags = m.flags := by
  simp only [Cont.noteTrap]; repeat (first | rfl | split)
@[simp] theorem Cont.noteTrap_tx (m : Cont) (k : Nat) : (m.noteTrap k).tx = m.tx := by
  simp only [Cont.noteTrap]; repeat (first | rfl | split)
@[simp] theorem Cont.noteTrap_ag (m : Cont) (k : Nat) : (m.noteTrap k).ag = m.ag := by
  simp only [Cont.noteTrap]; repeat (first | rfl | split)
@[simp] theorem Cont.noteTrap_blocks (m : Cont) (k : Nat) : (m.noteTrap k).blocks = m.blocks := by
  simp only [Cont.noteTrap]; repeat (first | rfl | split)
@[simp] theorem Cont.noteTrap_tvec (m : Cont) (k : Nat) : (m.noteTrap k).tvec = m.tvec := by
  simp only [Cont.noteTrap]; repeat (first | rfl | split)
@[simp] theorem Cont.noteTrap_tsave (m : Cont) (k : Nat) : (m.noteTrap k).tsave = m.tsave := by
  simp only [Cont.noteTrap]; repeat (first | rfl | split)
@[simp] theorem Cont.noteTrap_trapen (m : Cont) (k : Nat) : (m.noteTrap k).trapen = m.trapen := by
  simp only [Cont.noteTrap]; repeat (first | rfl | split)
@[simp] theorem Cont.noteTrap_fev (m : Cont) (k : Nat) : (m.noteTrap k).fev = m.fev := by
  simp only [Cont.noteTrap]; repeat (first | rfl | split)
@[simp] theorem Cont.noteTrap_sysMode (m : Cont) (k : Nat) : (m.noteTrap k).sysMode = m.sysMode := by
  simp only [Cont.noteTrap]; repeat (first | rfl | split)
@[simp] theorem Cont.noteTrap_imprecise (m : Cont) (k : Nat) : (m.noteTrap k).imprecise = m.imprecise := by
  simp only [Cont.noteTrap]; repeat (first | rfl | split)
@[simp] theorem Cont.noteTrap_vpend (m : Cont) (k : Nat) : (m.noteTrap k).vpend = m.vpend := by
  simp only [Cont.noteTrap]; repeat (first | rfl | split)
@[simp] theorem Cont.noteTrap_mx (m : Cont) (k : Nat) : (m.noteTrap k).mx = m.mx := by
  simp only [Cont.noteTrap]; repeat (first | rfl | split)
@[simp] theorem Cont.noteTrap_groupLen (m : Cont) (k : Nat) : (m.noteTrap k).groupLen = m.groupLen := by
  simp only [Cont.noteTrap]; repeat (first | rfl | split)
@[simp] theorem Cont.noteTrap_groupWrites (m : Cont) (k : Nat) : (m.noteTrap k).groupWrites = m.groupWrites := by
  simp only [Cont.noteTrap]; repeat (first | rfl | split)
@[simp] theorem Cont.noteTrap_groupVl (m : Cont) (k : Nat) : (m.noteTrap k).groupVl = m.groupVl := by
  simp only [Cont.noteTrap]; repeat (first | rfl | split)
@[simp] theorem Cont.noteTrap_holds (m : Cont) (k : Nat) : (m.noteTrap k).holds = m.holds := by
  simp only [Cont.noteTrap]; repeat (first | rfl | split)
@[simp] theorem Cont.noteTrap_sig (m : Cont) (k : Nat) : (m.noteTrap k).sig = m.sig := by
  simp only [Cont.noteTrap]; repeat (first | rfl | split)
@[simp] theorem Cont.noteTrap_answers (m : Cont) (k : Nat) : (m.noteTrap k).answers = m.answers := by
  simp only [Cont.noteTrap]; repeat (first | rfl | split)
@[simp] theorem Cont.noteTrap_barr (m : Cont) (k : Nat) : (m.noteTrap k).barr = m.barr := by
  simp only [Cont.noteTrap]; repeat (first | rfl | split)
@[simp] theorem Cont.noteTrap_inTlbcnf (m : Cont) (k : Nat) : (m.noteTrap k).inTlbcnf = m.inTlbcnf := by
  simp only [Cont.noteTrap]; repeat (first | rfl | split)
@[simp] theorem Cont.noteTrap_since (m : Cont) (k : Nat) : (m.noteTrap k).since = m.since := by
  simp only [Cont.noteTrap]; repeat (first | rfl | split)
@[simp] theorem Cont.noteTrap_image (m : Cont) (k : Nat) : (m.noteTrap k).image = m.image := by
  simp only [Cont.noteTrap]; repeat (first | rfl | split)
@[simp] theorem Cont.noteTrap_imaged (m : Cont) (k : Nat) : (m.noteTrap k).imaged = m.imaged := by
  simp only [Cont.noteTrap]; repeat (first | rfl | split)
@[simp] theorem Cont.noteTrap_early (m : Cont) (k : Nat) : (m.noteTrap k).early = m.early := by
  simp only [Cont.noteTrap]; repeat (first | rfl | split)
@[simp] theorem Cont.noteTrap_imagePoison (m : Cont) (k : Nat) : (m.noteTrap k).imagePoison = m.imagePoison := by
  simp only [Cont.noteTrap]; repeat (first | rfl | split)
@[simp] theorem Cont.noteTrap_recPa (m : Cont) (k : Nat) : (m.noteTrap k).recPa = m.recPa := by
  simp only [Cont.noteTrap]; repeat (first | rfl | split)
@[simp] theorem Cont.noteTrap_savePa (m : Cont) (k : Nat) : (m.noteTrap k).savePa = m.savePa := by
  simp only [Cont.noteTrap]; repeat (first | rfl | split)
@[simp] theorem Cont.noteTrap_past (m : Cont) (k : Nat) : (m.noteTrap k).past = m.past := by
  simp only [Cont.noteTrap]; repeat (first | rfl | split)
@[simp] theorem Cont.noteTrap_vlGroup (m : Cont) (k : Nat) : (m.noteTrap k).vlGroup = m.vlGroup := by
  simp only [Cont.noteTrap]; repeat (first | rfl | split)
@[simp] theorem Cont.noteTrap_bundles (m : Cont) (k : Nat) : (m.noteTrap k).bundles = m.bundles := by
  simp only [Cont.noteTrap]; repeat (first | rfl | split)
@[simp] theorem Cont.noteTrap_groups (m : Cont) (k : Nat) : (m.noteTrap k).groups = m.groups := by
  simp only [Cont.noteTrap]; repeat (first | rfl | split)
@[simp] theorem Cont.noteTrap_queue (m : Cont) (k : Nat) : (m.noteTrap k).queue = m.queue := by
  simp only [Cont.noteTrap]; repeat (first | rfl | split)
@[simp] theorem Cont.noteTrap_timid (m : Cont) (k : Nat) : (m.noteTrap k).timid = m.timid := by
  simp only [Cont.noteTrap]; repeat (first | rfl | split)
@[simp] theorem Cont.noteTrap_lag (m : Cont) (k : Nat) : (m.noteTrap k).lag = m.lag := by
  simp only [Cont.noteTrap]; repeat (first | rfl | split)
@[simp] theorem Cont.noteTrap_fmtUndo (m : Cont) (k : Nat) : (m.noteTrap k).fmtUndo = m.fmtUndo := by
  simp only [Cont.noteTrap]; repeat (first | rfl | split)
@[simp] theorem Cont.noteTrap_given (m : Cont) (k : Nat) : (m.noteTrap k).given = m.given := by
  simp only [Cont.noteTrap]; repeat (first | rfl | split)

@[simp] theorem Cont.setFlags_id (m : Cont) (k ev : Nat) (e : Bool) (a : BitVec 48) : (m.setFlags k ev e a).id = m.id := by
  unfold Cont.setFlags; split; · rfl
  dsimp only; split; · rw [Cont.noteTrap_id]
  rfl
@[simp] theorem Cont.setFlags_pc (m : Cont) (k ev : Nat) (e : Bool) (a : BitVec 48) : (m.setFlags k ev e a).pc = m.pc := by
  unfold Cont.setFlags; split; · rfl
  dsimp only; split; · rw [Cont.noteTrap_pc]
  rfl
@[simp] theorem Cont.setFlags_state (m : Cont) (k ev : Nat) (e : Bool) (a : BitVec 48) : (m.setFlags k ev e a).state = m.state := by
  unfold Cont.setFlags; split; · rfl
  dsimp only; split; · rw [Cont.noteTrap_state]
  rfl
@[simp] theorem Cont.setFlags_prio (m : Cont) (k ev : Nat) (e : Bool) (a : BitVec 48) : (m.setFlags k ev e a).prio = m.prio := by
  unfold Cont.setFlags; split; · rfl
  dsimp only; split; · rw [Cont.noteTrap_prio]
  rfl
@[simp] theorem Cont.setFlags_save (m : Cont) (k ev : Nat) (e : Bool) (a : BitVec 48) : (m.setFlags k ev e a).save = m.save := by
  unfold Cont.setFlags; split; · rfl
  dsimp only; split; · rw [Cont.noteTrap_save]
  rfl
@[simp] theorem Cont.setFlags_waddr (m : Cont) (k ev : Nat) (e : Bool) (a : BitVec 48) : (m.setFlags k ev e a).waddr = m.waddr := by
  unfold Cont.setFlags; split; · rfl
  dsimp only; split; · rw [Cont.noteTrap_waddr]
  rfl
@[simp] theorem Cont.setFlags_wval (m : Cont) (k ev : Nat) (e : Bool) (a : BitVec 48) : (m.setFlags k ev e a).wval = m.wval := by
  unfold Cont.setFlags; split; · rfl
  dsimp only; split; · rw [Cont.noteTrap_wval]
  rfl
@[simp] theorem Cont.setFlags_wcond (m : Cont) (k ev : Nat) (e : Bool) (a : BitVec 48) : (m.setFlags k ev e a).wcond = m.wcond := by
  unfold Cont.setFlags; split; · rfl
  dsimp only; split; · rw [Cont.noteTrap_wcond]
  rfl
@[simp] theorem Cont.setFlags_team (m : Cont) (k ev : Nat) (e : Bool) (a : BitVec 48) : (m.setFlags k ev e a).team = m.team := by
  unfold Cont.setFlags; split; · rfl
  dsimp only; split; · rw [Cont.noteTrap_team]
  rfl
@[simp] theorem Cont.setFlags_rank (m : Cont) (k ev : Nat) (e : Bool) (a : BitVec 48) : (m.setFlags k ev e a).rank = m.rank := by
  unfold Cont.setFlags; split; · rfl
  dsimp only; split; · rw [Cont.noteTrap_rank]
  rfl
@[simp] theorem Cont.setFlags_grid (m : Cont) (k ev : Nat) (e : Bool) (a : BitVec 48) : (m.setFlags k ev e a).grid = m.grid := by
  unfold Cont.setFlags; split; · rfl
  dsimp only; split; · rw [Cont.noteTrap_grid]
  rfl
@[simp] theorem Cont.setFlags_taskRec (m : Cont) (k ev : Nat) (e : Bool) (a : BitVec 48) : (m.setFlags k ev e a).taskRec = m.taskRec := by
  unfold Cont.setFlags; split; · rfl
  dsimp only; split; · rw [Cont.noteTrap_taskRec]
  rfl
@[simp] theorem Cont.setFlags_rtime (m : Cont) (k ev : Nat) (e : Bool) (a : BitVec 48) : (m.setFlags k ev e a).rtime = m.rtime := by
  unfold Cont.setFlags; split; · rfl
  dsimp only; split; · rw [Cont.noteTrap_rtime]
  rfl
@[simp] theorem Cont.setFlags_ppol (m : Cont) (k ev : Nat) (e : Bool) (a : BitVec 48) : (m.setFlags k ev e a).ppol = m.ppol := by
  unfold Cont.setFlags; split; · rfl
  dsimp only; split; · rw [Cont.noteTrap_ppol]
  rfl
@[simp] theorem Cont.setFlags_tcause (m : Cont) (k ev : Nat) (e : Bool) (a : BitVec 48) : (m.setFlags k ev e a).tcause = m.tcause := by
  unfold Cont.setFlags; split; · rfl
  dsimp only; split; · rw [Cont.noteTrap_tcause]
  rfl
@[simp] theorem Cont.setFlags_fslot (m : Cont) (k ev : Nat) (e : Bool) (a : BitVec 48) : (m.setFlags k ev e a).fslot = m.fslot := by
  unfold Cont.setFlags; split; · rfl
  dsimp only; split; · rw [Cont.noteTrap_fslot]
  rfl
@[simp] theorem Cont.setFlags_recVa (m : Cont) (k ev : Nat) (e : Bool) (a : BitVec 48) : (m.setFlags k ev e a).recVa = m.recVa := by
  unfold Cont.setFlags; split; · rfl
  dsimp only; split; · rw [Cont.noteTrap_recVa]
  rfl
@[simp] theorem Cont.setFlags_task (m : Cont) (k ev : Nat) (e : Bool) (a : BitVec 48) : (m.setFlags k ev e a).task = m.task := by
  unfold Cont.setFlags; split; · rfl
  dsimp only; split; · rw [Cont.noteTrap_task]
  rfl
@[simp] theorem Cont.setFlags_ctx (m : Cont) (k ev : Nat) (e : Bool) (a : BitVec 48) : (m.setFlags k ev e a).ctx = m.ctx := by
  unfold Cont.setFlags; split; · rfl
  dsimp only; split; · rw [Cont.noteTrap_ctx]
  rfl
@[simp] theorem Cont.setFlags_die (m : Cont) (k ev : Nat) (e : Bool) (a : BitVec 48) : (m.setFlags k ev e a).die = m.die := by
  unfold Cont.setFlags; split; · rfl
  dsimp only; split; · rw [Cont.noteTrap_die]
  rfl
@[simp] theorem Cont.setFlags_core (m : Cont) (k ev : Nat) (e : Bool) (a : BitVec 48) : (m.setFlags k ev e a).core = m.core := by
  unfold Cont.setFlags; split; · rfl
  dsimp only; split; · rw [Cont.noteTrap_core]
  rfl
@[simp] theorem Cont.setFlags_slot (m : Cont) (k ev : Nat) (e : Bool) (a : BitVec 48) : (m.setFlags k ev e a).slot = m.slot := by
  unfold Cont.setFlags; split; · rfl
  dsimp only; split; · rw [Cont.noteTrap_slot]
  rfl
@[simp] theorem Cont.setFlags_resident (m : Cont) (k ev : Nat) (e : Bool) (a : BitVec 48) : (m.setFlags k ev e a).resident = m.resident := by
  unfold Cont.setFlags; split; · rfl
  dsimp only; split; · rw [Cont.noteTrap_resident]
  rfl
@[simp] theorem Cont.setFlags_winBase (m : Cont) (k ev : Nat) (e : Bool) (a : BitVec 48) : (m.setFlags k ev e a).winBase = m.winBase := by
  unfold Cont.setFlags; split; · rfl
  dsimp only; split; · rw [Cont.noteTrap_winBase]
  rfl
@[simp] theorem Cont.setFlags_winLimit (m : Cont) (k ev : Nat) (e : Bool) (a : BitVec 48) : (m.setFlags k ev e a).winLimit = m.winLimit := by
  unfold Cont.setFlags; split; · rfl
  dsimp only; split; · rw [Cont.noteTrap_winLimit]
  rfl
@[simp] theorem Cont.setFlags_claim (m : Cont) (k ev : Nat) (e : Bool) (a : BitVec 48) : (m.setFlags k ev e a).claim = m.claim := by
  unfold Cont.setFlags; split; · rfl
  dsimp only; split; · rw [Cont.noteTrap_claim]
  rfl
@[simp] theorem Cont.setFlags_starting (m : Cont) (k ev : Nat) (e : Bool) (a : BitVec 48) : (m.setFlags k ev e a).starting = m.starting := by
  unfold Cont.setFlags; split; · rfl
  dsimp only; split; · rw [Cont.noteTrap_starting]
  rfl
@[simp] theorem Cont.setFlags_stage0 (m : Cont) (k ev : Nat) (e : Bool) (a : BitVec 48) : (m.setFlags k ev e a).stage0 = m.stage0 := by
  unfold Cont.setFlags; split; · rfl
  dsimp only; split; · rw [Cont.noteTrap_stage0]
  rfl
@[simp] theorem Cont.setFlags_g (m : Cont) (k ev : Nat) (e : Bool) (a : BitVec 48) : (m.setFlags k ev e a).g = m.g := by
  unfold Cont.setFlags; split; · rfl
  dsimp only; split; · rw [Cont.noteTrap_g]
  rfl
@[simp] theorem Cont.setFlags_gPoison (m : Cont) (k ev : Nat) (e : Bool) (a : BitVec 48) : (m.setFlags k ev e a).gPoison = m.gPoison := by
  unfold Cont.setFlags; split; · rfl
  dsimp only; split; · rw [Cont.noteTrap_gPoison]
  rfl
@[simp] theorem Cont.setFlags_streams (m : Cont) (k ev : Nat) (e : Bool) (a : BitVec 48) : (m.setFlags k ev e a).streams = m.streams := by
  unfold Cont.setFlags; split; · rfl
  dsimp only; split; · rw [Cont.noteTrap_streams]
  rfl
@[simp] theorem Cont.setFlags_p (m : Cont) (k ev : Nat) (e : Bool) (a : BitVec 48) : (m.setFlags k ev e a).p = m.p := by
  unfold Cont.setFlags; split; · rfl
  dsimp only; split; · rw [Cont.noteTrap_p]
  rfl
@[simp] theorem Cont.setFlags_b (m : Cont) (k ev : Nat) (e : Bool) (a : BitVec 48) : (m.setFlags k ev e a).b = m.b := by
  unfold Cont.setFlags; split; · rfl
  dsimp only; split; · rw [Cont.noteTrap_b]
  rfl
@[simp] theorem Cont.setFlags_lc (m : Cont) (k ev : Nat) (e : Bool) (a : BitVec 48) : (m.setFlags k ev e a).lc = m.lc := by
  unfold Cont.setFlags; split; · rfl
  dsimp only; split; · rw [Cont.noteTrap_lc]
  rfl
@[simp] theorem Cont.setFlags_vl (m : Cont) (k ev : Nat) (e : Bool) (a : BitVec 48) : (m.setFlags k ev e a).vl = m.vl := by
  unfold Cont.setFlags; split; · rfl
  dsimp only; split; · rw [Cont.noteTrap_vl]
  rfl
@[simp] theorem Cont.setFlags_fmt (m : Cont) (k ev : Nat) (e : Bool) (a : BitVec 48) : (m.setFlags k ev e a).fmt = m.fmt := by
  unfold Cont.setFlags; split; · rfl
  dsimp only; split; · rw [Cont.noteTrap_fmt]
  rfl
@[simp] theorem Cont.setFlags_fmtOld (m : Cont) (k ev : Nat) (e : Bool) (a : BitVec 48) : (m.setFlags k ev e a).fmtOld = m.fmtOld := by
  unfold Cont.setFlags; split; · rfl
  dsimp only; split; · rw [Cont.noteTrap_fmtOld]
  rfl
@[simp] theorem Cont.setFlags_tx (m : Cont) (k ev : Nat) (e : Bool) (a : BitVec 48) : (m.setFlags k ev e a).tx = m.tx := by
  unfold Cont.setFlags; split; · rfl
  dsimp only; split; · rw [Cont.noteTrap_tx]
  rfl
@[simp] theorem Cont.setFlags_ag (m : Cont) (k ev : Nat) (e : Bool) (a : BitVec 48) : (m.setFlags k ev e a).ag = m.ag := by
  unfold Cont.setFlags; split; · rfl
  dsimp only; split; · rw [Cont.noteTrap_ag]
  rfl
@[simp] theorem Cont.setFlags_blocks (m : Cont) (k ev : Nat) (e : Bool) (a : BitVec 48) : (m.setFlags k ev e a).blocks = m.blocks := by
  unfold Cont.setFlags; split; · rfl
  dsimp only; split; · rw [Cont.noteTrap_blocks]
  rfl
@[simp] theorem Cont.setFlags_tvec (m : Cont) (k ev : Nat) (e : Bool) (a : BitVec 48) : (m.setFlags k ev e a).tvec = m.tvec := by
  unfold Cont.setFlags; split; · rfl
  dsimp only; split; · rw [Cont.noteTrap_tvec]
  rfl
@[simp] theorem Cont.setFlags_tsave (m : Cont) (k ev : Nat) (e : Bool) (a : BitVec 48) : (m.setFlags k ev e a).tsave = m.tsave := by
  unfold Cont.setFlags; split; · rfl
  dsimp only; split; · rw [Cont.noteTrap_tsave]
  rfl
@[simp] theorem Cont.setFlags_trapen (m : Cont) (k ev : Nat) (e : Bool) (a : BitVec 48) : (m.setFlags k ev e a).trapen = m.trapen := by
  unfold Cont.setFlags; split; · rfl
  dsimp only; split; · rw [Cont.noteTrap_trapen]
  rfl
@[simp] theorem Cont.setFlags_sysMode (m : Cont) (k ev : Nat) (e : Bool) (a : BitVec 48) : (m.setFlags k ev e a).sysMode = m.sysMode := by
  unfold Cont.setFlags; split; · rfl
  dsimp only; split; · rw [Cont.noteTrap_sysMode]
  rfl
@[simp] theorem Cont.setFlags_imprecise (m : Cont) (k ev : Nat) (e : Bool) (a : BitVec 48) : (m.setFlags k ev e a).imprecise = m.imprecise := by
  unfold Cont.setFlags; split; · rfl
  dsimp only; split; · rw [Cont.noteTrap_imprecise]
  rfl
@[simp] theorem Cont.setFlags_vpend (m : Cont) (k ev : Nat) (e : Bool) (a : BitVec 48) : (m.setFlags k ev e a).vpend = m.vpend := by
  unfold Cont.setFlags; split; · rfl
  dsimp only; split; · rw [Cont.noteTrap_vpend]
  rfl
@[simp] theorem Cont.setFlags_mx (m : Cont) (k ev : Nat) (e : Bool) (a : BitVec 48) : (m.setFlags k ev e a).mx = m.mx := by
  unfold Cont.setFlags; split; · rfl
  dsimp only; split; · rw [Cont.noteTrap_mx]
  rfl
@[simp] theorem Cont.setFlags_groupLen (m : Cont) (k ev : Nat) (e : Bool) (a : BitVec 48) : (m.setFlags k ev e a).groupLen = m.groupLen := by
  unfold Cont.setFlags; split; · rfl
  dsimp only; split; · rw [Cont.noteTrap_groupLen]
  rfl
@[simp] theorem Cont.setFlags_groupWrites (m : Cont) (k ev : Nat) (e : Bool) (a : BitVec 48) : (m.setFlags k ev e a).groupWrites = m.groupWrites := by
  unfold Cont.setFlags; split; · rfl
  dsimp only; split; · rw [Cont.noteTrap_groupWrites]
  rfl
@[simp] theorem Cont.setFlags_groupVl (m : Cont) (k ev : Nat) (e : Bool) (a : BitVec 48) : (m.setFlags k ev e a).groupVl = m.groupVl := by
  unfold Cont.setFlags; split; · rfl
  dsimp only; split; · rw [Cont.noteTrap_groupVl]
  rfl
@[simp] theorem Cont.setFlags_holds (m : Cont) (k ev : Nat) (e : Bool) (a : BitVec 48) : (m.setFlags k ev e a).holds = m.holds := by
  unfold Cont.setFlags; split; · rfl
  dsimp only; split; · rw [Cont.noteTrap_holds]
  rfl
@[simp] theorem Cont.setFlags_sig (m : Cont) (k ev : Nat) (e : Bool) (a : BitVec 48) : (m.setFlags k ev e a).sig = m.sig := by
  unfold Cont.setFlags; split; · rfl
  dsimp only; split; · rw [Cont.noteTrap_sig]
  rfl
@[simp] theorem Cont.setFlags_answers (m : Cont) (k ev : Nat) (e : Bool) (a : BitVec 48) : (m.setFlags k ev e a).answers = m.answers := by
  unfold Cont.setFlags; split; · rfl
  dsimp only; split; · rw [Cont.noteTrap_answers]
  rfl
@[simp] theorem Cont.setFlags_barr (m : Cont) (k ev : Nat) (e : Bool) (a : BitVec 48) : (m.setFlags k ev e a).barr = m.barr := by
  unfold Cont.setFlags; split; · rfl
  dsimp only; split; · rw [Cont.noteTrap_barr]
  rfl
@[simp] theorem Cont.setFlags_inTlbcnf (m : Cont) (k ev : Nat) (e : Bool) (a : BitVec 48) : (m.setFlags k ev e a).inTlbcnf = m.inTlbcnf := by
  unfold Cont.setFlags; split; · rfl
  dsimp only; split; · rw [Cont.noteTrap_inTlbcnf]
  rfl
@[simp] theorem Cont.setFlags_since (m : Cont) (k ev : Nat) (e : Bool) (a : BitVec 48) : (m.setFlags k ev e a).since = m.since := by
  unfold Cont.setFlags; split; · rfl
  dsimp only; split; · rw [Cont.noteTrap_since]
  rfl
@[simp] theorem Cont.setFlags_image (m : Cont) (k ev : Nat) (e : Bool) (a : BitVec 48) : (m.setFlags k ev e a).image = m.image := by
  unfold Cont.setFlags; split; · rfl
  dsimp only; split; · rw [Cont.noteTrap_image]
  rfl
@[simp] theorem Cont.setFlags_imaged (m : Cont) (k ev : Nat) (e : Bool) (a : BitVec 48) : (m.setFlags k ev e a).imaged = m.imaged := by
  unfold Cont.setFlags; split; · rfl
  dsimp only; split; · rw [Cont.noteTrap_imaged]
  rfl
@[simp] theorem Cont.setFlags_early (m : Cont) (k ev : Nat) (e : Bool) (a : BitVec 48) : (m.setFlags k ev e a).early = m.early := by
  unfold Cont.setFlags; split; · rfl
  dsimp only; split; · rw [Cont.noteTrap_early]
  rfl
@[simp] theorem Cont.setFlags_imagePoison (m : Cont) (k ev : Nat) (e : Bool) (a : BitVec 48) : (m.setFlags k ev e a).imagePoison = m.imagePoison := by
  unfold Cont.setFlags; split; · rfl
  dsimp only; split; · rw [Cont.noteTrap_imagePoison]
  rfl
@[simp] theorem Cont.setFlags_recPa (m : Cont) (k ev : Nat) (e : Bool) (a : BitVec 48) : (m.setFlags k ev e a).recPa = m.recPa := by
  unfold Cont.setFlags; split; · rfl
  dsimp only; split; · rw [Cont.noteTrap_recPa]
  rfl
@[simp] theorem Cont.setFlags_savePa (m : Cont) (k ev : Nat) (e : Bool) (a : BitVec 48) : (m.setFlags k ev e a).savePa = m.savePa := by
  unfold Cont.setFlags; split; · rfl
  dsimp only; split; · rw [Cont.noteTrap_savePa]
  rfl
@[simp] theorem Cont.setFlags_past (m : Cont) (k ev : Nat) (e : Bool) (a : BitVec 48) : (m.setFlags k ev e a).past = m.past := by
  unfold Cont.setFlags; split; · rfl
  dsimp only; split; · rw [Cont.noteTrap_past]
  rfl
@[simp] theorem Cont.setFlags_vlGroup (m : Cont) (k ev : Nat) (e : Bool) (a : BitVec 48) : (m.setFlags k ev e a).vlGroup = m.vlGroup := by
  unfold Cont.setFlags; split; · rfl
  dsimp only; split; · rw [Cont.noteTrap_vlGroup]
  rfl
@[simp] theorem Cont.setFlags_bundles (m : Cont) (k ev : Nat) (e : Bool) (a : BitVec 48) : (m.setFlags k ev e a).bundles = m.bundles := by
  unfold Cont.setFlags; split; · rfl
  dsimp only; split; · rw [Cont.noteTrap_bundles]
  rfl
@[simp] theorem Cont.setFlags_groups (m : Cont) (k ev : Nat) (e : Bool) (a : BitVec 48) : (m.setFlags k ev e a).groups = m.groups := by
  unfold Cont.setFlags; split; · rfl
  dsimp only; split; · rw [Cont.noteTrap_groups]
  rfl
@[simp] theorem Cont.setFlags_queue (m : Cont) (k ev : Nat) (e : Bool) (a : BitVec 48) : (m.setFlags k ev e a).queue = m.queue := by
  unfold Cont.setFlags; split; · rfl
  dsimp only; split; · rw [Cont.noteTrap_queue]
  rfl
@[simp] theorem Cont.setFlags_timid (m : Cont) (k ev : Nat) (e : Bool) (a : BitVec 48) : (m.setFlags k ev e a).timid = m.timid := by
  unfold Cont.setFlags; split; · rfl
  dsimp only; split; · rw [Cont.noteTrap_timid]
  rfl
@[simp] theorem Cont.setFlags_lag (m : Cont) (k ev : Nat) (e : Bool) (a : BitVec 48) : (m.setFlags k ev e a).lag = m.lag := by
  unfold Cont.setFlags; split; · rfl
  dsimp only; split; · rw [Cont.noteTrap_lag]
  rfl
@[simp] theorem Cont.setFlags_fmtUndo (m : Cont) (k ev : Nat) (e : Bool) (a : BitVec 48) : (m.setFlags k ev e a).fmtUndo = m.fmtUndo := by
  unfold Cont.setFlags; split; · rfl
  dsimp only; split; · rw [Cont.noteTrap_fmtUndo]
  rfl
@[simp] theorem Cont.setFlags_given (m : Cont) (k ev : Nat) (e : Bool) (a : BitVec 48) : (m.setFlags k ev e a).given = m.given := by
  unfold Cont.setFlags; split; · rfl
  dsimp only; split; · rw [Cont.noteTrap_given]
  rfl

@[simp] theorem Cont.holdLate_id (m : Cont) (i : Imprecise) : (m.holdLate i).id = m.id := rfl
@[simp] theorem Cont.holdLate_pc (m : Cont) (i : Imprecise) : (m.holdLate i).pc = m.pc := rfl
@[simp] theorem Cont.holdLate_state (m : Cont) (i : Imprecise) : (m.holdLate i).state = m.state := rfl
@[simp] theorem Cont.holdLate_prio (m : Cont) (i : Imprecise) : (m.holdLate i).prio = m.prio := rfl
@[simp] theorem Cont.holdLate_save (m : Cont) (i : Imprecise) : (m.holdLate i).save = m.save := rfl
@[simp] theorem Cont.holdLate_waddr (m : Cont) (i : Imprecise) : (m.holdLate i).waddr = m.waddr := rfl
@[simp] theorem Cont.holdLate_wval (m : Cont) (i : Imprecise) : (m.holdLate i).wval = m.wval := rfl
@[simp] theorem Cont.holdLate_wcond (m : Cont) (i : Imprecise) : (m.holdLate i).wcond = m.wcond := rfl
@[simp] theorem Cont.holdLate_team (m : Cont) (i : Imprecise) : (m.holdLate i).team = m.team := rfl
@[simp] theorem Cont.holdLate_rank (m : Cont) (i : Imprecise) : (m.holdLate i).rank = m.rank := rfl
@[simp] theorem Cont.holdLate_grid (m : Cont) (i : Imprecise) : (m.holdLate i).grid = m.grid := rfl
@[simp] theorem Cont.holdLate_taskRec (m : Cont) (i : Imprecise) : (m.holdLate i).taskRec = m.taskRec := rfl
@[simp] theorem Cont.holdLate_rtime (m : Cont) (i : Imprecise) : (m.holdLate i).rtime = m.rtime := rfl
@[simp] theorem Cont.holdLate_ppol (m : Cont) (i : Imprecise) : (m.holdLate i).ppol = m.ppol := rfl
@[simp] theorem Cont.holdLate_tcause (m : Cont) (i : Imprecise) : (m.holdLate i).tcause = m.tcause := rfl
@[simp] theorem Cont.holdLate_fslot (m : Cont) (i : Imprecise) : (m.holdLate i).fslot = m.fslot := rfl
@[simp] theorem Cont.holdLate_recVa (m : Cont) (i : Imprecise) : (m.holdLate i).recVa = m.recVa := rfl
@[simp] theorem Cont.holdLate_task (m : Cont) (i : Imprecise) : (m.holdLate i).task = m.task := rfl
@[simp] theorem Cont.holdLate_ctx (m : Cont) (i : Imprecise) : (m.holdLate i).ctx = m.ctx := rfl
@[simp] theorem Cont.holdLate_die (m : Cont) (i : Imprecise) : (m.holdLate i).die = m.die := rfl
@[simp] theorem Cont.holdLate_core (m : Cont) (i : Imprecise) : (m.holdLate i).core = m.core := rfl
@[simp] theorem Cont.holdLate_slot (m : Cont) (i : Imprecise) : (m.holdLate i).slot = m.slot := rfl
@[simp] theorem Cont.holdLate_resident (m : Cont) (i : Imprecise) : (m.holdLate i).resident = m.resident := rfl
@[simp] theorem Cont.holdLate_winBase (m : Cont) (i : Imprecise) : (m.holdLate i).winBase = m.winBase := rfl
@[simp] theorem Cont.holdLate_winLimit (m : Cont) (i : Imprecise) : (m.holdLate i).winLimit = m.winLimit := rfl
@[simp] theorem Cont.holdLate_claim (m : Cont) (i : Imprecise) : (m.holdLate i).claim = m.claim := rfl
@[simp] theorem Cont.holdLate_starting (m : Cont) (i : Imprecise) : (m.holdLate i).starting = m.starting := rfl
@[simp] theorem Cont.holdLate_stage0 (m : Cont) (i : Imprecise) : (m.holdLate i).stage0 = m.stage0 := rfl
@[simp] theorem Cont.holdLate_g (m : Cont) (i : Imprecise) : (m.holdLate i).g = m.g := rfl
@[simp] theorem Cont.holdLate_gPoison (m : Cont) (i : Imprecise) : (m.holdLate i).gPoison = m.gPoison := rfl
@[simp] theorem Cont.holdLate_streams (m : Cont) (i : Imprecise) : (m.holdLate i).streams = m.streams := rfl
@[simp] theorem Cont.holdLate_p (m : Cont) (i : Imprecise) : (m.holdLate i).p = m.p := rfl
@[simp] theorem Cont.holdLate_b (m : Cont) (i : Imprecise) : (m.holdLate i).b = m.b := rfl
@[simp] theorem Cont.holdLate_lc (m : Cont) (i : Imprecise) : (m.holdLate i).lc = m.lc := rfl
@[simp] theorem Cont.holdLate_vl (m : Cont) (i : Imprecise) : (m.holdLate i).vl = m.vl := rfl
@[simp] theorem Cont.holdLate_fmt (m : Cont) (i : Imprecise) : (m.holdLate i).fmt = m.fmt := rfl
@[simp] theorem Cont.holdLate_fmtOld (m : Cont) (i : Imprecise) : (m.holdLate i).fmtOld = m.fmtOld := rfl
@[simp] theorem Cont.holdLate_flags (m : Cont) (i : Imprecise) : (m.holdLate i).flags = m.flags := rfl
@[simp] theorem Cont.holdLate_tx (m : Cont) (i : Imprecise) : (m.holdLate i).tx = m.tx := rfl
@[simp] theorem Cont.holdLate_ag (m : Cont) (i : Imprecise) : (m.holdLate i).ag = m.ag := rfl
@[simp] theorem Cont.holdLate_blocks (m : Cont) (i : Imprecise) : (m.holdLate i).blocks = m.blocks := rfl
@[simp] theorem Cont.holdLate_tvec (m : Cont) (i : Imprecise) : (m.holdLate i).tvec = m.tvec := rfl
@[simp] theorem Cont.holdLate_tsave (m : Cont) (i : Imprecise) : (m.holdLate i).tsave = m.tsave := rfl
@[simp] theorem Cont.holdLate_trapen (m : Cont) (i : Imprecise) : (m.holdLate i).trapen = m.trapen := rfl
@[simp] theorem Cont.holdLate_fev (m : Cont) (i : Imprecise) : (m.holdLate i).fev = m.fev := rfl
@[simp] theorem Cont.holdLate_sysMode (m : Cont) (i : Imprecise) : (m.holdLate i).sysMode = m.sysMode := rfl
@[simp] theorem Cont.holdLate_flagTrap (m : Cont) (i : Imprecise) : (m.holdLate i).flagTrap = m.flagTrap := rfl
@[simp] theorem Cont.holdLate_vpend (m : Cont) (i : Imprecise) : (m.holdLate i).vpend = m.vpend := rfl
@[simp] theorem Cont.holdLate_mx (m : Cont) (i : Imprecise) : (m.holdLate i).mx = m.mx := rfl
@[simp] theorem Cont.holdLate_cursor (m : Cont) (i : Imprecise) : (m.holdLate i).cursor = m.cursor := rfl
@[simp] theorem Cont.holdLate_groupLen (m : Cont) (i : Imprecise) : (m.holdLate i).groupLen = m.groupLen := rfl
@[simp] theorem Cont.holdLate_groupWrites (m : Cont) (i : Imprecise) : (m.holdLate i).groupWrites = m.groupWrites := rfl
@[simp] theorem Cont.holdLate_groupVl (m : Cont) (i : Imprecise) : (m.holdLate i).groupVl = m.groupVl := rfl
@[simp] theorem Cont.holdLate_holds (m : Cont) (i : Imprecise) : (m.holdLate i).holds = m.holds := rfl
@[simp] theorem Cont.holdLate_sig (m : Cont) (i : Imprecise) : (m.holdLate i).sig = m.sig := rfl
@[simp] theorem Cont.holdLate_answers (m : Cont) (i : Imprecise) : (m.holdLate i).answers = m.answers := rfl
@[simp] theorem Cont.holdLate_barr (m : Cont) (i : Imprecise) : (m.holdLate i).barr = m.barr := rfl
@[simp] theorem Cont.holdLate_inTlbcnf (m : Cont) (i : Imprecise) : (m.holdLate i).inTlbcnf = m.inTlbcnf := rfl
@[simp] theorem Cont.holdLate_since (m : Cont) (i : Imprecise) : (m.holdLate i).since = m.since := rfl
@[simp] theorem Cont.holdLate_image (m : Cont) (i : Imprecise) : (m.holdLate i).image = m.image := rfl
@[simp] theorem Cont.holdLate_imaged (m : Cont) (i : Imprecise) : (m.holdLate i).imaged = m.imaged := rfl
@[simp] theorem Cont.holdLate_early (m : Cont) (i : Imprecise) : (m.holdLate i).early = m.early := rfl
@[simp] theorem Cont.holdLate_imagePoison (m : Cont) (i : Imprecise) : (m.holdLate i).imagePoison = m.imagePoison := rfl
@[simp] theorem Cont.holdLate_recPa (m : Cont) (i : Imprecise) : (m.holdLate i).recPa = m.recPa := rfl
@[simp] theorem Cont.holdLate_savePa (m : Cont) (i : Imprecise) : (m.holdLate i).savePa = m.savePa := rfl
@[simp] theorem Cont.holdLate_past (m : Cont) (i : Imprecise) : (m.holdLate i).past = m.past := rfl
@[simp] theorem Cont.holdLate_vlGroup (m : Cont) (i : Imprecise) : (m.holdLate i).vlGroup = m.vlGroup := rfl
@[simp] theorem Cont.holdLate_bundles (m : Cont) (i : Imprecise) : (m.holdLate i).bundles = m.bundles := rfl
@[simp] theorem Cont.holdLate_groups (m : Cont) (i : Imprecise) : (m.holdLate i).groups = m.groups := rfl
@[simp] theorem Cont.holdLate_queue (m : Cont) (i : Imprecise) : (m.holdLate i).queue = m.queue := rfl
@[simp] theorem Cont.holdLate_timid (m : Cont) (i : Imprecise) : (m.holdLate i).timid = m.timid := rfl
@[simp] theorem Cont.holdLate_lag (m : Cont) (i : Imprecise) : (m.holdLate i).lag = m.lag := rfl
@[simp] theorem Cont.holdLate_fmtUndo (m : Cont) (i : Imprecise) : (m.holdLate i).fmtUndo = m.fmtUndo := rfl
@[simp] theorem Cont.holdLate_given (m : Cont) (i : Imprecise) : (m.holdLate i).given = m.given := rfl

@[simp] theorem Mach.withCur_cur (m : Mach) (c : Cont) : (m.withCur c).cur = c := rfl
@[simp] theorem Mach.withCur_conts (m : Mach) (c : Cont) : (m.withCur c).conts = m.conts := rfl
@[simp] theorem Mach.withCur_nextId (m : Mach) (c : Cont) : (m.withCur c).nextId = m.nextId := rfl
@[simp] theorem Mach.withCur_mem (m : Mach) (c : Cont) : (m.withCur c).mem = m.mem := rfl
@[simp] theorem Mach.withCur_tasks (m : Mach) (c : Cont) : (m.withCur c).tasks = m.tasks := rfl
@[simp] theorem Mach.withCur_teams (m : Mach) (c : Cont) : (m.withCur c).teams = m.teams := rfl
@[simp] theorem Mach.withCur_graphs (m : Mach) (c : Cont) : (m.withCur c).graphs = m.graphs := rfl
@[simp] theorem Mach.withCur_jobs (m : Mach) (c : Cont) : (m.withCur c).jobs = m.jobs := rfl
@[simp] theorem Mach.withCur_nextJob (m : Mach) (c : Cont) : (m.withCur c).nextJob = m.nextJob := rfl
@[simp] theorem Mach.withCur_nextCmd (m : Mach) (c : Cont) : (m.withCur c).nextCmd = m.nextCmd := rfl
@[simp] theorem Mach.withCur_dies (m : Mach) (c : Cont) : (m.withCur c).dies = m.dies := rfl
@[simp] theorem Mach.withCur_seqs (m : Mach) (c : Cont) : (m.withCur c).seqs = m.seqs := rfl
@[simp] theorem Mach.withCur_queues (m : Mach) (c : Cont) : (m.withCur c).queues = m.queues := rfl
@[simp] theorem Mach.withCur_regs (m : Mach) (c : Cont) : (m.withCur c).regs = m.regs := rfl
@[simp] theorem Mach.withCur_rsv (m : Mach) (c : Cont) : (m.withCur c).rsv = m.rsv := rfl
@[simp] theorem Mach.withCur_versions (m : Mach) (c : Cont) : (m.withCur c).versions = m.versions := rfl
@[simp] theorem Mach.withCur_tlb (m : Mach) (c : Cont) : (m.withCur c).tlb = m.tlb := rfl
@[simp] theorem Mach.withCur_icache (m : Mach) (c : Cont) : (m.withCur c).icache = m.icache := rfl
@[simp] theorem Mach.withCur_drains (m : Mach) (c : Cont) : (m.withCur c).drains = m.drains := rfl
@[simp] theorem Mach.withCur_claims (m : Mach) (c : Cont) : (m.withCur c).claims = m.claims := rfl
@[simp] theorem Mach.withCur_notices (m : Mach) (c : Cont) : (m.withCur c).notices = m.notices := rfl
@[simp] theorem Mach.withCur_exitStates (m : Mach) (c : Cont) : (m.withCur c).exitStates = m.exitStates := rfl
@[simp] theorem Mach.withCur_reads (m : Mach) (c : Cont) : (m.withCur c).reads = m.reads := rfl
@[simp] theorem Mach.withCur_fills (m : Mach) (c : Cont) : (m.withCur c).fills = m.fills := rfl
@[simp] theorem Mach.withCur_skein (m : Mach) (c : Cont) : (m.withCur c).skein = m.skein := rfl
@[simp] theorem Mach.withCur_prmts (m : Mach) (c : Cont) : (m.withCur c).prmts = m.prmts := rfl
@[simp] theorem Mach.withCur_bobbin (m : Mach) (c : Cont) : (m.withCur c).bobbin = m.bobbin := rfl
@[simp] theorem Mach.withCur_guests (m : Mach) (c : Cont) : (m.withCur c).guests = m.guests := rfl
@[simp] theorem Mach.withCur_out (m : Mach) (c : Cont) : (m.withCur c).out = m.out := rfl
@[simp] theorem Mach.withCur_seqCount (m : Mach) (c : Cont) : (m.withCur c).seqCount = m.seqCount := rfl
@[simp] theorem Mach.withCur_gridCount (m : Mach) (c : Cont) : (m.withCur c).gridCount = m.gridCount := rfl
@[simp] theorem Mach.withCur_now (m : Mach) (c : Cont) : (m.withCur c).now = m.now := rfl
@[simp] theorem Mach.withCur_freeCount (m : Mach) (c : Cont) : (m.withCur c).freeCount = m.freeCount := rfl
@[simp] theorem Mach.withCur_order (m : Mach) (c : Cont) : (m.withCur c).order = m.order := rfl
@[simp] theorem Mach.withCur_stalled (m : Mach) (c : Cont) : (m.withCur c).stalled = m.stalled := rfl
@[simp] theorem Mach.withCur_seqSel (m : Mach) (c : Cont) : (m.withCur c).seqSel = m.seqSel := rfl
@[simp] theorem Mach.withCur_heldWrites (m : Mach) (c : Cont) : (m.withCur c).heldWrites = m.heldWrites := rfl
@[simp] theorem Mach.withCur_ahead (m : Mach) (c : Cont) : (m.withCur c).ahead = m.ahead := rfl
@[simp] theorem Mach.withCur_inbound (m : Mach) (c : Cont) : (m.withCur c).inbound = m.inbound := rfl
@[simp] theorem Mach.withCur_lent (m : Mach) (c : Cont) : (m.withCur c).lent = m.lent := rfl
@[simp] theorem Mach.withCur_links (m : Mach) (c : Cont) : (m.withCur c).links = m.links := rfl
@[simp] theorem Mach.withCur_laneWaits (m : Mach) (c : Cont) : (m.withCur c).laneWaits = m.laneWaits := rfl

@[simp] theorem Mach.withMem_cur (m : Mach) (x : Mem) : (m.withMem x).cur = m.cur := rfl
@[simp] theorem Mach.withMem_conts (m : Mach) (x : Mem) : (m.withMem x).conts = m.conts := rfl
@[simp] theorem Mach.withMem_nextId (m : Mach) (x : Mem) : (m.withMem x).nextId = m.nextId := rfl
@[simp] theorem Mach.withMem_mem (m : Mach) (x : Mem) : (m.withMem x).mem = x := rfl
@[simp] theorem Mach.withMem_tasks (m : Mach) (x : Mem) : (m.withMem x).tasks = m.tasks := rfl
@[simp] theorem Mach.withMem_teams (m : Mach) (x : Mem) : (m.withMem x).teams = m.teams := rfl
@[simp] theorem Mach.withMem_graphs (m : Mach) (x : Mem) : (m.withMem x).graphs = m.graphs := rfl
@[simp] theorem Mach.withMem_jobs (m : Mach) (x : Mem) : (m.withMem x).jobs = m.jobs := rfl
@[simp] theorem Mach.withMem_nextJob (m : Mach) (x : Mem) : (m.withMem x).nextJob = m.nextJob := rfl
@[simp] theorem Mach.withMem_nextCmd (m : Mach) (x : Mem) : (m.withMem x).nextCmd = m.nextCmd := rfl
@[simp] theorem Mach.withMem_dies (m : Mach) (x : Mem) : (m.withMem x).dies = m.dies := rfl
@[simp] theorem Mach.withMem_seqs (m : Mach) (x : Mem) : (m.withMem x).seqs = m.seqs := rfl
@[simp] theorem Mach.withMem_queues (m : Mach) (x : Mem) : (m.withMem x).queues = m.queues := rfl
@[simp] theorem Mach.withMem_regs (m : Mach) (x : Mem) : (m.withMem x).regs = m.regs := rfl
@[simp] theorem Mach.withMem_rsv (m : Mach) (x : Mem) : (m.withMem x).rsv = m.rsv := rfl
@[simp] theorem Mach.withMem_versions (m : Mach) (x : Mem) : (m.withMem x).versions = m.versions := rfl
@[simp] theorem Mach.withMem_tlb (m : Mach) (x : Mem) : (m.withMem x).tlb = m.tlb := rfl
@[simp] theorem Mach.withMem_icache (m : Mach) (x : Mem) : (m.withMem x).icache = m.icache := rfl
@[simp] theorem Mach.withMem_drains (m : Mach) (x : Mem) : (m.withMem x).drains = m.drains := rfl
@[simp] theorem Mach.withMem_claims (m : Mach) (x : Mem) : (m.withMem x).claims = m.claims := rfl
@[simp] theorem Mach.withMem_notices (m : Mach) (x : Mem) : (m.withMem x).notices = m.notices := rfl
@[simp] theorem Mach.withMem_exitStates (m : Mach) (x : Mem) : (m.withMem x).exitStates = m.exitStates := rfl
@[simp] theorem Mach.withMem_reads (m : Mach) (x : Mem) : (m.withMem x).reads = m.reads := rfl
@[simp] theorem Mach.withMem_fills (m : Mach) (x : Mem) : (m.withMem x).fills = m.fills := rfl
@[simp] theorem Mach.withMem_skein (m : Mach) (x : Mem) : (m.withMem x).skein = m.skein := rfl
@[simp] theorem Mach.withMem_prmts (m : Mach) (x : Mem) : (m.withMem x).prmts = m.prmts := rfl
@[simp] theorem Mach.withMem_bobbin (m : Mach) (x : Mem) : (m.withMem x).bobbin = m.bobbin := rfl
@[simp] theorem Mach.withMem_guests (m : Mach) (x : Mem) : (m.withMem x).guests = m.guests := rfl
@[simp] theorem Mach.withMem_out (m : Mach) (x : Mem) : (m.withMem x).out = m.out := rfl
@[simp] theorem Mach.withMem_seqCount (m : Mach) (x : Mem) : (m.withMem x).seqCount = m.seqCount := rfl
@[simp] theorem Mach.withMem_gridCount (m : Mach) (x : Mem) : (m.withMem x).gridCount = m.gridCount := rfl
@[simp] theorem Mach.withMem_now (m : Mach) (x : Mem) : (m.withMem x).now = m.now := rfl
@[simp] theorem Mach.withMem_freeCount (m : Mach) (x : Mem) : (m.withMem x).freeCount = m.freeCount := rfl
@[simp] theorem Mach.withMem_order (m : Mach) (x : Mem) : (m.withMem x).order = m.order := rfl
@[simp] theorem Mach.withMem_stalled (m : Mach) (x : Mem) : (m.withMem x).stalled = m.stalled := rfl
@[simp] theorem Mach.withMem_seqSel (m : Mach) (x : Mem) : (m.withMem x).seqSel = m.seqSel := rfl
@[simp] theorem Mach.withMem_heldWrites (m : Mach) (x : Mem) : (m.withMem x).heldWrites = m.heldWrites := rfl
@[simp] theorem Mach.withMem_ahead (m : Mach) (x : Mem) : (m.withMem x).ahead = m.ahead := rfl
@[simp] theorem Mach.withMem_inbound (m : Mach) (x : Mem) : (m.withMem x).inbound = m.inbound := rfl
@[simp] theorem Mach.withMem_lent (m : Mach) (x : Mem) : (m.withMem x).lent = m.lent := rfl
@[simp] theorem Mach.withMem_links (m : Mach) (x : Mem) : (m.withMem x).links = m.links := rfl
@[simp] theorem Mach.withMem_laneWaits (m : Mach) (x : Mem) : (m.withMem x).laneWaits = m.laneWaits := rfl

@[simp] theorem Mach.setDie_cur (m : Mach) (d : Nat) (x : Die) : (m.setDie d x).cur = m.cur := rfl
@[simp] theorem Mach.setDie_conts (m : Mach) (d : Nat) (x : Die) : (m.setDie d x).conts = m.conts := rfl
@[simp] theorem Mach.setDie_nextId (m : Mach) (d : Nat) (x : Die) : (m.setDie d x).nextId = m.nextId := rfl
@[simp] theorem Mach.setDie_mem (m : Mach) (d : Nat) (x : Die) : (m.setDie d x).mem = m.mem := rfl
@[simp] theorem Mach.setDie_tasks (m : Mach) (d : Nat) (x : Die) : (m.setDie d x).tasks = m.tasks := rfl
@[simp] theorem Mach.setDie_teams (m : Mach) (d : Nat) (x : Die) : (m.setDie d x).teams = m.teams := rfl
@[simp] theorem Mach.setDie_graphs (m : Mach) (d : Nat) (x : Die) : (m.setDie d x).graphs = m.graphs := rfl
@[simp] theorem Mach.setDie_jobs (m : Mach) (d : Nat) (x : Die) : (m.setDie d x).jobs = m.jobs := rfl
@[simp] theorem Mach.setDie_nextJob (m : Mach) (d : Nat) (x : Die) : (m.setDie d x).nextJob = m.nextJob := rfl
@[simp] theorem Mach.setDie_nextCmd (m : Mach) (d : Nat) (x : Die) : (m.setDie d x).nextCmd = m.nextCmd := rfl
@[simp] theorem Mach.setDie_dies (m : Mach) (d : Nat) (x : Die) : (m.setDie d x).dies = SMap.set {} m.dies d x := rfl
@[simp] theorem Mach.setDie_seqs (m : Mach) (d : Nat) (x : Die) : (m.setDie d x).seqs = m.seqs := rfl
@[simp] theorem Mach.setDie_queues (m : Mach) (d : Nat) (x : Die) : (m.setDie d x).queues = m.queues := rfl
@[simp] theorem Mach.setDie_regs (m : Mach) (d : Nat) (x : Die) : (m.setDie d x).regs = m.regs := rfl
@[simp] theorem Mach.setDie_rsv (m : Mach) (d : Nat) (x : Die) : (m.setDie d x).rsv = m.rsv := rfl
@[simp] theorem Mach.setDie_versions (m : Mach) (d : Nat) (x : Die) : (m.setDie d x).versions = m.versions := rfl
@[simp] theorem Mach.setDie_tlb (m : Mach) (d : Nat) (x : Die) : (m.setDie d x).tlb = m.tlb := rfl
@[simp] theorem Mach.setDie_icache (m : Mach) (d : Nat) (x : Die) : (m.setDie d x).icache = m.icache := rfl
@[simp] theorem Mach.setDie_drains (m : Mach) (d : Nat) (x : Die) : (m.setDie d x).drains = m.drains := rfl
@[simp] theorem Mach.setDie_claims (m : Mach) (d : Nat) (x : Die) : (m.setDie d x).claims = m.claims := rfl
@[simp] theorem Mach.setDie_notices (m : Mach) (d : Nat) (x : Die) : (m.setDie d x).notices = m.notices := rfl
@[simp] theorem Mach.setDie_exitStates (m : Mach) (d : Nat) (x : Die) : (m.setDie d x).exitStates = m.exitStates := rfl
@[simp] theorem Mach.setDie_reads (m : Mach) (d : Nat) (x : Die) : (m.setDie d x).reads = m.reads := rfl
@[simp] theorem Mach.setDie_fills (m : Mach) (d : Nat) (x : Die) : (m.setDie d x).fills = m.fills := rfl
@[simp] theorem Mach.setDie_skein (m : Mach) (d : Nat) (x : Die) : (m.setDie d x).skein = m.skein := rfl
@[simp] theorem Mach.setDie_prmts (m : Mach) (d : Nat) (x : Die) : (m.setDie d x).prmts = m.prmts := rfl
@[simp] theorem Mach.setDie_bobbin (m : Mach) (d : Nat) (x : Die) : (m.setDie d x).bobbin = m.bobbin := rfl
@[simp] theorem Mach.setDie_guests (m : Mach) (d : Nat) (x : Die) : (m.setDie d x).guests = m.guests := rfl
@[simp] theorem Mach.setDie_out (m : Mach) (d : Nat) (x : Die) : (m.setDie d x).out = m.out := rfl
@[simp] theorem Mach.setDie_seqCount (m : Mach) (d : Nat) (x : Die) : (m.setDie d x).seqCount = m.seqCount := rfl
@[simp] theorem Mach.setDie_gridCount (m : Mach) (d : Nat) (x : Die) : (m.setDie d x).gridCount = m.gridCount := rfl
@[simp] theorem Mach.setDie_now (m : Mach) (d : Nat) (x : Die) : (m.setDie d x).now = m.now := rfl
@[simp] theorem Mach.setDie_freeCount (m : Mach) (d : Nat) (x : Die) : (m.setDie d x).freeCount = m.freeCount := rfl
@[simp] theorem Mach.setDie_order (m : Mach) (d : Nat) (x : Die) : (m.setDie d x).order = m.order := rfl
@[simp] theorem Mach.setDie_stalled (m : Mach) (d : Nat) (x : Die) : (m.setDie d x).stalled = m.stalled := rfl
@[simp] theorem Mach.setDie_seqSel (m : Mach) (d : Nat) (x : Die) : (m.setDie d x).seqSel = m.seqSel := rfl
@[simp] theorem Mach.setDie_heldWrites (m : Mach) (d : Nat) (x : Die) : (m.setDie d x).heldWrites = m.heldWrites := rfl
@[simp] theorem Mach.setDie_ahead (m : Mach) (d : Nat) (x : Die) : (m.setDie d x).ahead = m.ahead := rfl
@[simp] theorem Mach.setDie_inbound (m : Mach) (d : Nat) (x : Die) : (m.setDie d x).inbound = m.inbound := rfl
@[simp] theorem Mach.setDie_lent (m : Mach) (d : Nat) (x : Die) : (m.setDie d x).lent = m.lent := rfl
@[simp] theorem Mach.setDie_links (m : Mach) (d : Nat) (x : Die) : (m.setDie d x).links = m.links := rfl
@[simp] theorem Mach.setDie_laneWaits (m : Mach) (d : Nat) (x : Die) : (m.setDie d x).laneWaits = m.laneWaits := rfl

@[simp] theorem Mach.setTask_cur (m : Mach) (t : Task) : (m.setTask t).cur = m.cur := rfl
@[simp] theorem Mach.setTask_conts (m : Mach) (t : Task) : (m.setTask t).conts = m.conts := rfl
@[simp] theorem Mach.setTask_nextId (m : Mach) (t : Task) : (m.setTask t).nextId = m.nextId := rfl
@[simp] theorem Mach.setTask_mem (m : Mach) (t : Task) : (m.setTask t).mem = m.mem := rfl
@[simp] theorem Mach.setTask_teams (m : Mach) (t : Task) : (m.setTask t).teams = m.teams := rfl
@[simp] theorem Mach.setTask_graphs (m : Mach) (t : Task) : (m.setTask t).graphs = m.graphs := rfl
@[simp] theorem Mach.setTask_jobs (m : Mach) (t : Task) : (m.setTask t).jobs = m.jobs := rfl
@[simp] theorem Mach.setTask_nextJob (m : Mach) (t : Task) : (m.setTask t).nextJob = m.nextJob := rfl
@[simp] theorem Mach.setTask_nextCmd (m : Mach) (t : Task) : (m.setTask t).nextCmd = m.nextCmd := rfl
@[simp] theorem Mach.setTask_dies (m : Mach) (t : Task) : (m.setTask t).dies = m.dies := rfl
@[simp] theorem Mach.setTask_seqs (m : Mach) (t : Task) : (m.setTask t).seqs = m.seqs := rfl
@[simp] theorem Mach.setTask_queues (m : Mach) (t : Task) : (m.setTask t).queues = m.queues := rfl
@[simp] theorem Mach.setTask_regs (m : Mach) (t : Task) : (m.setTask t).regs = m.regs := rfl
@[simp] theorem Mach.setTask_rsv (m : Mach) (t : Task) : (m.setTask t).rsv = m.rsv := rfl
@[simp] theorem Mach.setTask_versions (m : Mach) (t : Task) : (m.setTask t).versions = m.versions := rfl
@[simp] theorem Mach.setTask_tlb (m : Mach) (t : Task) : (m.setTask t).tlb = m.tlb := rfl
@[simp] theorem Mach.setTask_icache (m : Mach) (t : Task) : (m.setTask t).icache = m.icache := rfl
@[simp] theorem Mach.setTask_drains (m : Mach) (t : Task) : (m.setTask t).drains = m.drains := rfl
@[simp] theorem Mach.setTask_claims (m : Mach) (t : Task) : (m.setTask t).claims = m.claims := rfl
@[simp] theorem Mach.setTask_notices (m : Mach) (t : Task) : (m.setTask t).notices = m.notices := rfl
@[simp] theorem Mach.setTask_exitStates (m : Mach) (t : Task) : (m.setTask t).exitStates = m.exitStates := rfl
@[simp] theorem Mach.setTask_reads (m : Mach) (t : Task) : (m.setTask t).reads = m.reads := rfl
@[simp] theorem Mach.setTask_fills (m : Mach) (t : Task) : (m.setTask t).fills = m.fills := rfl
@[simp] theorem Mach.setTask_skein (m : Mach) (t : Task) : (m.setTask t).skein = m.skein := rfl
@[simp] theorem Mach.setTask_prmts (m : Mach) (t : Task) : (m.setTask t).prmts = m.prmts := rfl
@[simp] theorem Mach.setTask_bobbin (m : Mach) (t : Task) : (m.setTask t).bobbin = m.bobbin := rfl
@[simp] theorem Mach.setTask_guests (m : Mach) (t : Task) : (m.setTask t).guests = m.guests := rfl
@[simp] theorem Mach.setTask_out (m : Mach) (t : Task) : (m.setTask t).out = m.out := rfl
@[simp] theorem Mach.setTask_seqCount (m : Mach) (t : Task) : (m.setTask t).seqCount = m.seqCount := rfl
@[simp] theorem Mach.setTask_gridCount (m : Mach) (t : Task) : (m.setTask t).gridCount = m.gridCount := rfl
@[simp] theorem Mach.setTask_now (m : Mach) (t : Task) : (m.setTask t).now = m.now := rfl
@[simp] theorem Mach.setTask_freeCount (m : Mach) (t : Task) : (m.setTask t).freeCount = m.freeCount := rfl
@[simp] theorem Mach.setTask_order (m : Mach) (t : Task) : (m.setTask t).order = m.order := rfl
@[simp] theorem Mach.setTask_stalled (m : Mach) (t : Task) : (m.setTask t).stalled = m.stalled := rfl
@[simp] theorem Mach.setTask_seqSel (m : Mach) (t : Task) : (m.setTask t).seqSel = m.seqSel := rfl
@[simp] theorem Mach.setTask_heldWrites (m : Mach) (t : Task) : (m.setTask t).heldWrites = m.heldWrites := rfl
@[simp] theorem Mach.setTask_ahead (m : Mach) (t : Task) : (m.setTask t).ahead = m.ahead := rfl
@[simp] theorem Mach.setTask_inbound (m : Mach) (t : Task) : (m.setTask t).inbound = m.inbound := rfl
@[simp] theorem Mach.setTask_lent (m : Mach) (t : Task) : (m.setTask t).lent = m.lent := rfl
@[simp] theorem Mach.setTask_links (m : Mach) (t : Task) : (m.setTask t).links = m.links := rfl
@[simp] theorem Mach.setTask_laneWaits (m : Mach) (t : Task) : (m.setTask t).laneWaits = m.laneWaits := rfl

@[simp] theorem Mach.setTeam_cur (m : Mach) (t : Team) : (m.setTeam t).cur = m.cur := rfl
@[simp] theorem Mach.setTeam_conts (m : Mach) (t : Team) : (m.setTeam t).conts = m.conts := rfl
@[simp] theorem Mach.setTeam_nextId (m : Mach) (t : Team) : (m.setTeam t).nextId = m.nextId := rfl
@[simp] theorem Mach.setTeam_mem (m : Mach) (t : Team) : (m.setTeam t).mem = m.mem := rfl
@[simp] theorem Mach.setTeam_tasks (m : Mach) (t : Team) : (m.setTeam t).tasks = m.tasks := rfl
@[simp] theorem Mach.setTeam_graphs (m : Mach) (t : Team) : (m.setTeam t).graphs = m.graphs := rfl
@[simp] theorem Mach.setTeam_jobs (m : Mach) (t : Team) : (m.setTeam t).jobs = m.jobs := rfl
@[simp] theorem Mach.setTeam_nextJob (m : Mach) (t : Team) : (m.setTeam t).nextJob = m.nextJob := rfl
@[simp] theorem Mach.setTeam_nextCmd (m : Mach) (t : Team) : (m.setTeam t).nextCmd = m.nextCmd := rfl
@[simp] theorem Mach.setTeam_dies (m : Mach) (t : Team) : (m.setTeam t).dies = m.dies := rfl
@[simp] theorem Mach.setTeam_seqs (m : Mach) (t : Team) : (m.setTeam t).seqs = m.seqs := rfl
@[simp] theorem Mach.setTeam_queues (m : Mach) (t : Team) : (m.setTeam t).queues = m.queues := rfl
@[simp] theorem Mach.setTeam_regs (m : Mach) (t : Team) : (m.setTeam t).regs = m.regs := rfl
@[simp] theorem Mach.setTeam_rsv (m : Mach) (t : Team) : (m.setTeam t).rsv = m.rsv := rfl
@[simp] theorem Mach.setTeam_versions (m : Mach) (t : Team) : (m.setTeam t).versions = m.versions := rfl
@[simp] theorem Mach.setTeam_tlb (m : Mach) (t : Team) : (m.setTeam t).tlb = m.tlb := rfl
@[simp] theorem Mach.setTeam_icache (m : Mach) (t : Team) : (m.setTeam t).icache = m.icache := rfl
@[simp] theorem Mach.setTeam_drains (m : Mach) (t : Team) : (m.setTeam t).drains = m.drains := rfl
@[simp] theorem Mach.setTeam_claims (m : Mach) (t : Team) : (m.setTeam t).claims = m.claims := rfl
@[simp] theorem Mach.setTeam_notices (m : Mach) (t : Team) : (m.setTeam t).notices = m.notices := rfl
@[simp] theorem Mach.setTeam_exitStates (m : Mach) (t : Team) : (m.setTeam t).exitStates = m.exitStates := rfl
@[simp] theorem Mach.setTeam_reads (m : Mach) (t : Team) : (m.setTeam t).reads = m.reads := rfl
@[simp] theorem Mach.setTeam_fills (m : Mach) (t : Team) : (m.setTeam t).fills = m.fills := rfl
@[simp] theorem Mach.setTeam_skein (m : Mach) (t : Team) : (m.setTeam t).skein = m.skein := rfl
@[simp] theorem Mach.setTeam_prmts (m : Mach) (t : Team) : (m.setTeam t).prmts = m.prmts := rfl
@[simp] theorem Mach.setTeam_bobbin (m : Mach) (t : Team) : (m.setTeam t).bobbin = m.bobbin := rfl
@[simp] theorem Mach.setTeam_guests (m : Mach) (t : Team) : (m.setTeam t).guests = m.guests := rfl
@[simp] theorem Mach.setTeam_out (m : Mach) (t : Team) : (m.setTeam t).out = m.out := rfl
@[simp] theorem Mach.setTeam_seqCount (m : Mach) (t : Team) : (m.setTeam t).seqCount = m.seqCount := rfl
@[simp] theorem Mach.setTeam_gridCount (m : Mach) (t : Team) : (m.setTeam t).gridCount = m.gridCount := rfl
@[simp] theorem Mach.setTeam_now (m : Mach) (t : Team) : (m.setTeam t).now = m.now := rfl
@[simp] theorem Mach.setTeam_freeCount (m : Mach) (t : Team) : (m.setTeam t).freeCount = m.freeCount := rfl
@[simp] theorem Mach.setTeam_order (m : Mach) (t : Team) : (m.setTeam t).order = m.order := rfl
@[simp] theorem Mach.setTeam_stalled (m : Mach) (t : Team) : (m.setTeam t).stalled = m.stalled := rfl
@[simp] theorem Mach.setTeam_seqSel (m : Mach) (t : Team) : (m.setTeam t).seqSel = m.seqSel := rfl
@[simp] theorem Mach.setTeam_heldWrites (m : Mach) (t : Team) : (m.setTeam t).heldWrites = m.heldWrites := rfl
@[simp] theorem Mach.setTeam_ahead (m : Mach) (t : Team) : (m.setTeam t).ahead = m.ahead := rfl
@[simp] theorem Mach.setTeam_inbound (m : Mach) (t : Team) : (m.setTeam t).inbound = m.inbound := rfl
@[simp] theorem Mach.setTeam_lent (m : Mach) (t : Team) : (m.setTeam t).lent = m.lent := rfl
@[simp] theorem Mach.setTeam_links (m : Mach) (t : Team) : (m.setTeam t).links = m.links := rfl
@[simp] theorem Mach.setTeam_laneWaits (m : Mach) (t : Team) : (m.setTeam t).laneWaits = m.laneWaits := rfl

@[simp] theorem Mach.setJob_cur (m : Mach) (j : Job) : (m.setJob j).cur = m.cur := rfl
@[simp] theorem Mach.setJob_conts (m : Mach) (j : Job) : (m.setJob j).conts = m.conts := rfl
@[simp] theorem Mach.setJob_nextId (m : Mach) (j : Job) : (m.setJob j).nextId = m.nextId := rfl
@[simp] theorem Mach.setJob_mem (m : Mach) (j : Job) : (m.setJob j).mem = m.mem := rfl
@[simp] theorem Mach.setJob_tasks (m : Mach) (j : Job) : (m.setJob j).tasks = m.tasks := rfl
@[simp] theorem Mach.setJob_teams (m : Mach) (j : Job) : (m.setJob j).teams = m.teams := rfl
@[simp] theorem Mach.setJob_graphs (m : Mach) (j : Job) : (m.setJob j).graphs = m.graphs := rfl
@[simp] theorem Mach.setJob_nextJob (m : Mach) (j : Job) : (m.setJob j).nextJob = m.nextJob := rfl
@[simp] theorem Mach.setJob_nextCmd (m : Mach) (j : Job) : (m.setJob j).nextCmd = m.nextCmd := rfl
@[simp] theorem Mach.setJob_dies (m : Mach) (j : Job) : (m.setJob j).dies = m.dies := rfl
@[simp] theorem Mach.setJob_seqs (m : Mach) (j : Job) : (m.setJob j).seqs = m.seqs := rfl
@[simp] theorem Mach.setJob_queues (m : Mach) (j : Job) : (m.setJob j).queues = m.queues := rfl
@[simp] theorem Mach.setJob_regs (m : Mach) (j : Job) : (m.setJob j).regs = m.regs := rfl
@[simp] theorem Mach.setJob_rsv (m : Mach) (j : Job) : (m.setJob j).rsv = m.rsv := rfl
@[simp] theorem Mach.setJob_versions (m : Mach) (j : Job) : (m.setJob j).versions = m.versions := rfl
@[simp] theorem Mach.setJob_tlb (m : Mach) (j : Job) : (m.setJob j).tlb = m.tlb := rfl
@[simp] theorem Mach.setJob_icache (m : Mach) (j : Job) : (m.setJob j).icache = m.icache := rfl
@[simp] theorem Mach.setJob_drains (m : Mach) (j : Job) : (m.setJob j).drains = m.drains := rfl
@[simp] theorem Mach.setJob_claims (m : Mach) (j : Job) : (m.setJob j).claims = m.claims := rfl
@[simp] theorem Mach.setJob_notices (m : Mach) (j : Job) : (m.setJob j).notices = m.notices := rfl
@[simp] theorem Mach.setJob_exitStates (m : Mach) (j : Job) : (m.setJob j).exitStates = m.exitStates := rfl
@[simp] theorem Mach.setJob_reads (m : Mach) (j : Job) : (m.setJob j).reads = m.reads := rfl
@[simp] theorem Mach.setJob_fills (m : Mach) (j : Job) : (m.setJob j).fills = m.fills := rfl
@[simp] theorem Mach.setJob_skein (m : Mach) (j : Job) : (m.setJob j).skein = m.skein := rfl
@[simp] theorem Mach.setJob_prmts (m : Mach) (j : Job) : (m.setJob j).prmts = m.prmts := rfl
@[simp] theorem Mach.setJob_bobbin (m : Mach) (j : Job) : (m.setJob j).bobbin = m.bobbin := rfl
@[simp] theorem Mach.setJob_guests (m : Mach) (j : Job) : (m.setJob j).guests = m.guests := rfl
@[simp] theorem Mach.setJob_out (m : Mach) (j : Job) : (m.setJob j).out = m.out := rfl
@[simp] theorem Mach.setJob_seqCount (m : Mach) (j : Job) : (m.setJob j).seqCount = m.seqCount := rfl
@[simp] theorem Mach.setJob_gridCount (m : Mach) (j : Job) : (m.setJob j).gridCount = m.gridCount := rfl
@[simp] theorem Mach.setJob_now (m : Mach) (j : Job) : (m.setJob j).now = m.now := rfl
@[simp] theorem Mach.setJob_freeCount (m : Mach) (j : Job) : (m.setJob j).freeCount = m.freeCount := rfl
@[simp] theorem Mach.setJob_order (m : Mach) (j : Job) : (m.setJob j).order = m.order := rfl
@[simp] theorem Mach.setJob_stalled (m : Mach) (j : Job) : (m.setJob j).stalled = m.stalled := rfl
@[simp] theorem Mach.setJob_seqSel (m : Mach) (j : Job) : (m.setJob j).seqSel = m.seqSel := rfl
@[simp] theorem Mach.setJob_heldWrites (m : Mach) (j : Job) : (m.setJob j).heldWrites = m.heldWrites := rfl
@[simp] theorem Mach.setJob_ahead (m : Mach) (j : Job) : (m.setJob j).ahead = m.ahead := rfl
@[simp] theorem Mach.setJob_inbound (m : Mach) (j : Job) : (m.setJob j).inbound = m.inbound := rfl
@[simp] theorem Mach.setJob_lent (m : Mach) (j : Job) : (m.setJob j).lent = m.lent := rfl
@[simp] theorem Mach.setJob_links (m : Mach) (j : Job) : (m.setJob j).links = m.links := rfl
@[simp] theorem Mach.setJob_laneWaits (m : Mach) (j : Job) : (m.setJob j).laneWaits = m.laneWaits := rfl

@[simp] theorem Mach.setSeq_cur (m : Mach) (k : Nat) (x : Seq) : (m.setSeq k x).cur = m.cur := rfl
@[simp] theorem Mach.setSeq_conts (m : Mach) (k : Nat) (x : Seq) : (m.setSeq k x).conts = m.conts := rfl
@[simp] theorem Mach.setSeq_nextId (m : Mach) (k : Nat) (x : Seq) : (m.setSeq k x).nextId = m.nextId := rfl
@[simp] theorem Mach.setSeq_mem (m : Mach) (k : Nat) (x : Seq) : (m.setSeq k x).mem = m.mem := rfl
@[simp] theorem Mach.setSeq_tasks (m : Mach) (k : Nat) (x : Seq) : (m.setSeq k x).tasks = m.tasks := rfl
@[simp] theorem Mach.setSeq_teams (m : Mach) (k : Nat) (x : Seq) : (m.setSeq k x).teams = m.teams := rfl
@[simp] theorem Mach.setSeq_graphs (m : Mach) (k : Nat) (x : Seq) : (m.setSeq k x).graphs = m.graphs := rfl
@[simp] theorem Mach.setSeq_jobs (m : Mach) (k : Nat) (x : Seq) : (m.setSeq k x).jobs = m.jobs := rfl
@[simp] theorem Mach.setSeq_nextJob (m : Mach) (k : Nat) (x : Seq) : (m.setSeq k x).nextJob = m.nextJob := rfl
@[simp] theorem Mach.setSeq_nextCmd (m : Mach) (k : Nat) (x : Seq) : (m.setSeq k x).nextCmd = m.nextCmd := rfl
@[simp] theorem Mach.setSeq_dies (m : Mach) (k : Nat) (x : Seq) : (m.setSeq k x).dies = m.dies := rfl
@[simp] theorem Mach.setSeq_seqs (m : Mach) (k : Nat) (x : Seq) : (m.setSeq k x).seqs = SMap.set {} m.seqs k x := rfl
@[simp] theorem Mach.setSeq_queues (m : Mach) (k : Nat) (x : Seq) : (m.setSeq k x).queues = m.queues := rfl
@[simp] theorem Mach.setSeq_regs (m : Mach) (k : Nat) (x : Seq) : (m.setSeq k x).regs = m.regs := rfl
@[simp] theorem Mach.setSeq_rsv (m : Mach) (k : Nat) (x : Seq) : (m.setSeq k x).rsv = m.rsv := rfl
@[simp] theorem Mach.setSeq_versions (m : Mach) (k : Nat) (x : Seq) : (m.setSeq k x).versions = m.versions := rfl
@[simp] theorem Mach.setSeq_tlb (m : Mach) (k : Nat) (x : Seq) : (m.setSeq k x).tlb = m.tlb := rfl
@[simp] theorem Mach.setSeq_icache (m : Mach) (k : Nat) (x : Seq) : (m.setSeq k x).icache = m.icache := rfl
@[simp] theorem Mach.setSeq_drains (m : Mach) (k : Nat) (x : Seq) : (m.setSeq k x).drains = m.drains := rfl
@[simp] theorem Mach.setSeq_claims (m : Mach) (k : Nat) (x : Seq) : (m.setSeq k x).claims = m.claims := rfl
@[simp] theorem Mach.setSeq_notices (m : Mach) (k : Nat) (x : Seq) : (m.setSeq k x).notices = m.notices := rfl
@[simp] theorem Mach.setSeq_exitStates (m : Mach) (k : Nat) (x : Seq) : (m.setSeq k x).exitStates = m.exitStates := rfl
@[simp] theorem Mach.setSeq_reads (m : Mach) (k : Nat) (x : Seq) : (m.setSeq k x).reads = m.reads := rfl
@[simp] theorem Mach.setSeq_fills (m : Mach) (k : Nat) (x : Seq) : (m.setSeq k x).fills = m.fills := rfl
@[simp] theorem Mach.setSeq_skein (m : Mach) (k : Nat) (x : Seq) : (m.setSeq k x).skein = m.skein := rfl
@[simp] theorem Mach.setSeq_prmts (m : Mach) (k : Nat) (x : Seq) : (m.setSeq k x).prmts = m.prmts := rfl
@[simp] theorem Mach.setSeq_bobbin (m : Mach) (k : Nat) (x : Seq) : (m.setSeq k x).bobbin = m.bobbin := rfl
@[simp] theorem Mach.setSeq_guests (m : Mach) (k : Nat) (x : Seq) : (m.setSeq k x).guests = m.guests := rfl
@[simp] theorem Mach.setSeq_out (m : Mach) (k : Nat) (x : Seq) : (m.setSeq k x).out = m.out := rfl
@[simp] theorem Mach.setSeq_seqCount (m : Mach) (k : Nat) (x : Seq) : (m.setSeq k x).seqCount = m.seqCount := rfl
@[simp] theorem Mach.setSeq_gridCount (m : Mach) (k : Nat) (x : Seq) : (m.setSeq k x).gridCount = m.gridCount := rfl
@[simp] theorem Mach.setSeq_now (m : Mach) (k : Nat) (x : Seq) : (m.setSeq k x).now = m.now := rfl
@[simp] theorem Mach.setSeq_freeCount (m : Mach) (k : Nat) (x : Seq) : (m.setSeq k x).freeCount = m.freeCount := rfl
@[simp] theorem Mach.setSeq_order (m : Mach) (k : Nat) (x : Seq) : (m.setSeq k x).order = m.order := rfl
@[simp] theorem Mach.setSeq_stalled (m : Mach) (k : Nat) (x : Seq) : (m.setSeq k x).stalled = m.stalled := rfl
@[simp] theorem Mach.setSeq_seqSel (m : Mach) (k : Nat) (x : Seq) : (m.setSeq k x).seqSel = m.seqSel := rfl
@[simp] theorem Mach.setSeq_heldWrites (m : Mach) (k : Nat) (x : Seq) : (m.setSeq k x).heldWrites = m.heldWrites := rfl
@[simp] theorem Mach.setSeq_ahead (m : Mach) (k : Nat) (x : Seq) : (m.setSeq k x).ahead = m.ahead := rfl
@[simp] theorem Mach.setSeq_inbound (m : Mach) (k : Nat) (x : Seq) : (m.setSeq k x).inbound = m.inbound := rfl
@[simp] theorem Mach.setSeq_lent (m : Mach) (k : Nat) (x : Seq) : (m.setSeq k x).lent = m.lent := rfl
@[simp] theorem Mach.setSeq_links (m : Mach) (k : Nat) (x : Seq) : (m.setSeq k x).links = m.links := rfl
@[simp] theorem Mach.setSeq_laneWaits (m : Mach) (k : Nat) (x : Seq) : (m.setSeq k x).laneWaits = m.laneWaits := rfl

@[simp] theorem Mach.setCont_nextId (m : Mach) (c : Cont) : (m.setCont c).nextId = m.nextId := by
  unfold Mach.setCont; split <;> rfl
@[simp] theorem Mach.setCont_mem (m : Mach) (c : Cont) : (m.setCont c).mem = m.mem := by
  unfold Mach.setCont; split <;> rfl
@[simp] theorem Mach.setCont_tasks (m : Mach) (c : Cont) : (m.setCont c).tasks = m.tasks := by
  unfold Mach.setCont; split <;> rfl
@[simp] theorem Mach.setCont_teams (m : Mach) (c : Cont) : (m.setCont c).teams = m.teams := by
  unfold Mach.setCont; split <;> rfl
@[simp] theorem Mach.setCont_graphs (m : Mach) (c : Cont) : (m.setCont c).graphs = m.graphs := by
  unfold Mach.setCont; split <;> rfl
@[simp] theorem Mach.setCont_jobs (m : Mach) (c : Cont) : (m.setCont c).jobs = m.jobs := by
  unfold Mach.setCont; split <;> rfl
@[simp] theorem Mach.setCont_nextJob (m : Mach) (c : Cont) : (m.setCont c).nextJob = m.nextJob := by
  unfold Mach.setCont; split <;> rfl
@[simp] theorem Mach.setCont_nextCmd (m : Mach) (c : Cont) : (m.setCont c).nextCmd = m.nextCmd := by
  unfold Mach.setCont; split <;> rfl
@[simp] theorem Mach.setCont_dies (m : Mach) (c : Cont) : (m.setCont c).dies = m.dies := by
  unfold Mach.setCont; split <;> rfl
@[simp] theorem Mach.setCont_seqs (m : Mach) (c : Cont) : (m.setCont c).seqs = m.seqs := by
  unfold Mach.setCont; split <;> rfl
@[simp] theorem Mach.setCont_queues (m : Mach) (c : Cont) : (m.setCont c).queues = m.queues := by
  unfold Mach.setCont; split <;> rfl
@[simp] theorem Mach.setCont_regs (m : Mach) (c : Cont) : (m.setCont c).regs = m.regs := by
  unfold Mach.setCont; split <;> rfl
@[simp] theorem Mach.setCont_rsv (m : Mach) (c : Cont) : (m.setCont c).rsv = m.rsv := by
  unfold Mach.setCont; split <;> rfl
@[simp] theorem Mach.setCont_versions (m : Mach) (c : Cont) : (m.setCont c).versions = m.versions := by
  unfold Mach.setCont; split <;> rfl
@[simp] theorem Mach.setCont_tlb (m : Mach) (c : Cont) : (m.setCont c).tlb = m.tlb := by
  unfold Mach.setCont; split <;> rfl
@[simp] theorem Mach.setCont_icache (m : Mach) (c : Cont) : (m.setCont c).icache = m.icache := by
  unfold Mach.setCont; split <;> rfl
@[simp] theorem Mach.setCont_drains (m : Mach) (c : Cont) : (m.setCont c).drains = m.drains := by
  unfold Mach.setCont; split <;> rfl
@[simp] theorem Mach.setCont_claims (m : Mach) (c : Cont) : (m.setCont c).claims = m.claims := by
  unfold Mach.setCont; split <;> rfl
@[simp] theorem Mach.setCont_notices (m : Mach) (c : Cont) : (m.setCont c).notices = m.notices := by
  unfold Mach.setCont; split <;> rfl
@[simp] theorem Mach.setCont_exitStates (m : Mach) (c : Cont) : (m.setCont c).exitStates = m.exitStates := by
  unfold Mach.setCont; split <;> rfl
@[simp] theorem Mach.setCont_reads (m : Mach) (c : Cont) : (m.setCont c).reads = m.reads := by
  unfold Mach.setCont; split <;> rfl
@[simp] theorem Mach.setCont_fills (m : Mach) (c : Cont) : (m.setCont c).fills = m.fills := by
  unfold Mach.setCont; split <;> rfl
@[simp] theorem Mach.setCont_skein (m : Mach) (c : Cont) : (m.setCont c).skein = m.skein := by
  unfold Mach.setCont; split <;> rfl
@[simp] theorem Mach.setCont_prmts (m : Mach) (c : Cont) : (m.setCont c).prmts = m.prmts := by
  unfold Mach.setCont; split <;> rfl
@[simp] theorem Mach.setCont_bobbin (m : Mach) (c : Cont) : (m.setCont c).bobbin = m.bobbin := by
  unfold Mach.setCont; split <;> rfl
@[simp] theorem Mach.setCont_guests (m : Mach) (c : Cont) : (m.setCont c).guests = m.guests := by
  unfold Mach.setCont; split <;> rfl
@[simp] theorem Mach.setCont_out (m : Mach) (c : Cont) : (m.setCont c).out = m.out := by
  unfold Mach.setCont; split <;> rfl
@[simp] theorem Mach.setCont_seqCount (m : Mach) (c : Cont) : (m.setCont c).seqCount = m.seqCount := by
  unfold Mach.setCont; split <;> rfl
@[simp] theorem Mach.setCont_gridCount (m : Mach) (c : Cont) : (m.setCont c).gridCount = m.gridCount := by
  unfold Mach.setCont; split <;> rfl
@[simp] theorem Mach.setCont_now (m : Mach) (c : Cont) : (m.setCont c).now = m.now := by
  unfold Mach.setCont; split <;> rfl
@[simp] theorem Mach.setCont_freeCount (m : Mach) (c : Cont) : (m.setCont c).freeCount = m.freeCount := by
  unfold Mach.setCont; split <;> rfl
@[simp] theorem Mach.setCont_order (m : Mach) (c : Cont) : (m.setCont c).order = m.order := by
  unfold Mach.setCont; split <;> rfl
@[simp] theorem Mach.setCont_stalled (m : Mach) (c : Cont) : (m.setCont c).stalled = m.stalled := by
  unfold Mach.setCont; split <;> rfl
@[simp] theorem Mach.setCont_seqSel (m : Mach) (c : Cont) : (m.setCont c).seqSel = m.seqSel := by
  unfold Mach.setCont; split <;> rfl
@[simp] theorem Mach.setCont_heldWrites (m : Mach) (c : Cont) : (m.setCont c).heldWrites = m.heldWrites := by
  unfold Mach.setCont; split <;> rfl
@[simp] theorem Mach.setCont_ahead (m : Mach) (c : Cont) : (m.setCont c).ahead = m.ahead := by
  unfold Mach.setCont; split <;> rfl
@[simp] theorem Mach.setCont_inbound (m : Mach) (c : Cont) : (m.setCont c).inbound = m.inbound := by
  unfold Mach.setCont; split <;> rfl
@[simp] theorem Mach.setCont_lent (m : Mach) (c : Cont) : (m.setCont c).lent = m.lent := by
  unfold Mach.setCont; split <;> rfl
@[simp] theorem Mach.setCont_links (m : Mach) (c : Cont) : (m.setCont c).links = m.links := by
  unfold Mach.setCont; split <;> rfl
@[simp] theorem Mach.setCont_laneWaits (m : Mach) (c : Cont) : (m.setCont c).laneWaits = m.laneWaits := by
  unfold Mach.setCont; split <;> rfl

@[simp] theorem Mach.mapConts_nextId (m : Mach) (f : Cont → Cont) : (m.mapConts f).nextId = m.nextId := rfl
@[simp] theorem Mach.mapConts_mem (m : Mach) (f : Cont → Cont) : (m.mapConts f).mem = m.mem := rfl
@[simp] theorem Mach.mapConts_tasks (m : Mach) (f : Cont → Cont) : (m.mapConts f).tasks = m.tasks := rfl
@[simp] theorem Mach.mapConts_teams (m : Mach) (f : Cont → Cont) : (m.mapConts f).teams = m.teams := rfl
@[simp] theorem Mach.mapConts_graphs (m : Mach) (f : Cont → Cont) : (m.mapConts f).graphs = m.graphs := rfl
@[simp] theorem Mach.mapConts_jobs (m : Mach) (f : Cont → Cont) : (m.mapConts f).jobs = m.jobs := rfl
@[simp] theorem Mach.mapConts_nextJob (m : Mach) (f : Cont → Cont) : (m.mapConts f).nextJob = m.nextJob := rfl
@[simp] theorem Mach.mapConts_nextCmd (m : Mach) (f : Cont → Cont) : (m.mapConts f).nextCmd = m.nextCmd := rfl
@[simp] theorem Mach.mapConts_dies (m : Mach) (f : Cont → Cont) : (m.mapConts f).dies = m.dies := rfl
@[simp] theorem Mach.mapConts_seqs (m : Mach) (f : Cont → Cont) : (m.mapConts f).seqs = m.seqs := rfl
@[simp] theorem Mach.mapConts_queues (m : Mach) (f : Cont → Cont) : (m.mapConts f).queues = m.queues := rfl
@[simp] theorem Mach.mapConts_regs (m : Mach) (f : Cont → Cont) : (m.mapConts f).regs = m.regs := rfl
@[simp] theorem Mach.mapConts_rsv (m : Mach) (f : Cont → Cont) : (m.mapConts f).rsv = m.rsv := rfl
@[simp] theorem Mach.mapConts_versions (m : Mach) (f : Cont → Cont) : (m.mapConts f).versions = m.versions := rfl
@[simp] theorem Mach.mapConts_tlb (m : Mach) (f : Cont → Cont) : (m.mapConts f).tlb = m.tlb := rfl
@[simp] theorem Mach.mapConts_icache (m : Mach) (f : Cont → Cont) : (m.mapConts f).icache = m.icache := rfl
@[simp] theorem Mach.mapConts_drains (m : Mach) (f : Cont → Cont) : (m.mapConts f).drains = m.drains := rfl
@[simp] theorem Mach.mapConts_claims (m : Mach) (f : Cont → Cont) : (m.mapConts f).claims = m.claims := rfl
@[simp] theorem Mach.mapConts_notices (m : Mach) (f : Cont → Cont) : (m.mapConts f).notices = m.notices := rfl
@[simp] theorem Mach.mapConts_exitStates (m : Mach) (f : Cont → Cont) : (m.mapConts f).exitStates = m.exitStates := rfl
@[simp] theorem Mach.mapConts_reads (m : Mach) (f : Cont → Cont) : (m.mapConts f).reads = m.reads := rfl
@[simp] theorem Mach.mapConts_fills (m : Mach) (f : Cont → Cont) : (m.mapConts f).fills = m.fills := rfl
@[simp] theorem Mach.mapConts_skein (m : Mach) (f : Cont → Cont) : (m.mapConts f).skein = m.skein := rfl
@[simp] theorem Mach.mapConts_prmts (m : Mach) (f : Cont → Cont) : (m.mapConts f).prmts = m.prmts := rfl
@[simp] theorem Mach.mapConts_bobbin (m : Mach) (f : Cont → Cont) : (m.mapConts f).bobbin = m.bobbin := rfl
@[simp] theorem Mach.mapConts_guests (m : Mach) (f : Cont → Cont) : (m.mapConts f).guests = m.guests := rfl
@[simp] theorem Mach.mapConts_out (m : Mach) (f : Cont → Cont) : (m.mapConts f).out = m.out := rfl
@[simp] theorem Mach.mapConts_seqCount (m : Mach) (f : Cont → Cont) : (m.mapConts f).seqCount = m.seqCount := rfl
@[simp] theorem Mach.mapConts_gridCount (m : Mach) (f : Cont → Cont) : (m.mapConts f).gridCount = m.gridCount := rfl
@[simp] theorem Mach.mapConts_now (m : Mach) (f : Cont → Cont) : (m.mapConts f).now = m.now := rfl
@[simp] theorem Mach.mapConts_freeCount (m : Mach) (f : Cont → Cont) : (m.mapConts f).freeCount = m.freeCount := rfl
@[simp] theorem Mach.mapConts_order (m : Mach) (f : Cont → Cont) : (m.mapConts f).order = m.order := rfl
@[simp] theorem Mach.mapConts_stalled (m : Mach) (f : Cont → Cont) : (m.mapConts f).stalled = m.stalled := rfl
@[simp] theorem Mach.mapConts_seqSel (m : Mach) (f : Cont → Cont) : (m.mapConts f).seqSel = m.seqSel := rfl
@[simp] theorem Mach.mapConts_heldWrites (m : Mach) (f : Cont → Cont) : (m.mapConts f).heldWrites = m.heldWrites := rfl
@[simp] theorem Mach.mapConts_ahead (m : Mach) (f : Cont → Cont) : (m.mapConts f).ahead = m.ahead := rfl
@[simp] theorem Mach.mapConts_inbound (m : Mach) (f : Cont → Cont) : (m.mapConts f).inbound = m.inbound := rfl
@[simp] theorem Mach.mapConts_lent (m : Mach) (f : Cont → Cont) : (m.mapConts f).lent = m.lent := rfl
@[simp] theorem Mach.mapConts_links (m : Mach) (f : Cont → Cont) : (m.mapConts f).links = m.links := rfl
@[simp] theorem Mach.mapConts_laneWaits (m : Mach) (f : Cont → Cont) : (m.mapConts f).laneWaits = m.laneWaits := rfl

@[simp] theorem Mach.tickDie_cur (m : Mach) (d n : Nat) : (m.tickDie d n).cur = m.cur := rfl
@[simp] theorem Mach.tickDie_conts (m : Mach) (d n : Nat) : (m.tickDie d n).conts = m.conts := rfl
@[simp] theorem Mach.tickDie_nextId (m : Mach) (d n : Nat) : (m.tickDie d n).nextId = m.nextId := rfl
@[simp] theorem Mach.tickDie_mem (m : Mach) (d n : Nat) : (m.tickDie d n).mem = m.mem := rfl
@[simp] theorem Mach.tickDie_tasks (m : Mach) (d n : Nat) : (m.tickDie d n).tasks = m.tasks := rfl
@[simp] theorem Mach.tickDie_teams (m : Mach) (d n : Nat) : (m.tickDie d n).teams = m.teams := rfl
@[simp] theorem Mach.tickDie_graphs (m : Mach) (d n : Nat) : (m.tickDie d n).graphs = m.graphs := rfl
@[simp] theorem Mach.tickDie_jobs (m : Mach) (d n : Nat) : (m.tickDie d n).jobs = m.jobs := rfl
@[simp] theorem Mach.tickDie_nextJob (m : Mach) (d n : Nat) : (m.tickDie d n).nextJob = m.nextJob := rfl
@[simp] theorem Mach.tickDie_nextCmd (m : Mach) (d n : Nat) : (m.tickDie d n).nextCmd = m.nextCmd := rfl
@[simp] theorem Mach.tickDie_dies (m : Mach) (d n : Nat) : (m.tickDie d n).dies = m.dies := rfl
@[simp] theorem Mach.tickDie_seqs (m : Mach) (d n : Nat) : (m.tickDie d n).seqs = m.seqs := rfl
@[simp] theorem Mach.tickDie_queues (m : Mach) (d n : Nat) : (m.tickDie d n).queues = m.queues := rfl
@[simp] theorem Mach.tickDie_regs (m : Mach) (d n : Nat) : (m.tickDie d n).regs = m.regs := rfl
@[simp] theorem Mach.tickDie_rsv (m : Mach) (d n : Nat) : (m.tickDie d n).rsv = m.rsv := rfl
@[simp] theorem Mach.tickDie_versions (m : Mach) (d n : Nat) : (m.tickDie d n).versions = m.versions := rfl
@[simp] theorem Mach.tickDie_tlb (m : Mach) (d n : Nat) : (m.tickDie d n).tlb = m.tlb := rfl
@[simp] theorem Mach.tickDie_icache (m : Mach) (d n : Nat) : (m.tickDie d n).icache = m.icache := rfl
@[simp] theorem Mach.tickDie_drains (m : Mach) (d n : Nat) : (m.tickDie d n).drains = m.drains := rfl
@[simp] theorem Mach.tickDie_heldWrites (m : Mach) (d n : Nat) : (m.tickDie d n).heldWrites = m.heldWrites := rfl
@[simp] theorem Mach.tickDie_claims (m : Mach) (d n : Nat) : (m.tickDie d n).claims = m.claims := rfl
@[simp] theorem Mach.tickDie_notices (m : Mach) (d n : Nat) : (m.tickDie d n).notices = m.notices := rfl
@[simp] theorem Mach.tickDie_exitStates (m : Mach) (d n : Nat) : (m.tickDie d n).exitStates = m.exitStates := rfl
@[simp] theorem Mach.tickDie_reads (m : Mach) (d n : Nat) : (m.tickDie d n).reads = m.reads := rfl
@[simp] theorem Mach.tickDie_fills (m : Mach) (d n : Nat) : (m.tickDie d n).fills = m.fills := rfl
@[simp] theorem Mach.tickDie_skein (m : Mach) (d n : Nat) : (m.tickDie d n).skein = m.skein := rfl
@[simp] theorem Mach.tickDie_prmts (m : Mach) (d n : Nat) : (m.tickDie d n).prmts = m.prmts := rfl
@[simp] theorem Mach.tickDie_bobbin (m : Mach) (d n : Nat) : (m.tickDie d n).bobbin = m.bobbin := rfl
@[simp] theorem Mach.tickDie_guests (m : Mach) (d n : Nat) : (m.tickDie d n).guests = m.guests := rfl
@[simp] theorem Mach.tickDie_inbound (m : Mach) (d n : Nat) : (m.tickDie d n).inbound = m.inbound := rfl
@[simp] theorem Mach.tickDie_lent (m : Mach) (d n : Nat) : (m.tickDie d n).lent = m.lent := rfl
@[simp] theorem Mach.tickDie_links (m : Mach) (d n : Nat) : (m.tickDie d n).links = m.links := rfl
@[simp] theorem Mach.tickDie_laneWaits (m : Mach) (d n : Nat) : (m.tickDie d n).laneWaits = m.laneWaits := rfl
@[simp] theorem Mach.tickDie_out (m : Mach) (d n : Nat) : (m.tickDie d n).out = m.out := rfl
@[simp] theorem Mach.tickDie_seqCount (m : Mach) (d n : Nat) : (m.tickDie d n).seqCount = m.seqCount := rfl
@[simp] theorem Mach.tickDie_gridCount (m : Mach) (d n : Nat) : (m.tickDie d n).gridCount = m.gridCount := rfl
@[simp] theorem Mach.tickDie_now (m : Mach) (d n : Nat) : (m.tickDie d n).now = m.now := rfl
@[simp] theorem Mach.tickDie_freeCount (m : Mach) (d n : Nat) : (m.tickDie d n).freeCount = m.freeCount := rfl
@[simp] theorem Mach.tickDie_order (m : Mach) (d n : Nat) : (m.tickDie d n).order = m.order := rfl
@[simp] theorem Mach.tickDie_stalled (m : Mach) (d n : Nat) : (m.tickDie d n).stalled = m.stalled := rfl
@[simp] theorem Mach.tickDie_seqSel (m : Mach) (d n : Nat) : (m.tickDie d n).seqSel = m.seqSel := rfl

@[simp] theorem Cont.setVl_id (m : Cont) (v : BitVec 16) : (m.setVl v).id = m.id := rfl
@[simp] theorem Cont.setVl_pc (m : Cont) (v : BitVec 16) : (m.setVl v).pc = m.pc := rfl
@[simp] theorem Cont.setVl_state (m : Cont) (v : BitVec 16) : (m.setVl v).state = m.state := rfl
@[simp] theorem Cont.setVl_prio (m : Cont) (v : BitVec 16) : (m.setVl v).prio = m.prio := rfl
@[simp] theorem Cont.setVl_save (m : Cont) (v : BitVec 16) : (m.setVl v).save = m.save := rfl
@[simp] theorem Cont.setVl_waddr (m : Cont) (v : BitVec 16) : (m.setVl v).waddr = m.waddr := rfl
@[simp] theorem Cont.setVl_wval (m : Cont) (v : BitVec 16) : (m.setVl v).wval = m.wval := rfl
@[simp] theorem Cont.setVl_wcond (m : Cont) (v : BitVec 16) : (m.setVl v).wcond = m.wcond := rfl
@[simp] theorem Cont.setVl_team (m : Cont) (v : BitVec 16) : (m.setVl v).team = m.team := rfl
@[simp] theorem Cont.setVl_rank (m : Cont) (v : BitVec 16) : (m.setVl v).rank = m.rank := rfl
@[simp] theorem Cont.setVl_grid (m : Cont) (v : BitVec 16) : (m.setVl v).grid = m.grid := rfl
@[simp] theorem Cont.setVl_taskRec (m : Cont) (v : BitVec 16) : (m.setVl v).taskRec = m.taskRec := rfl
@[simp] theorem Cont.setVl_rtime (m : Cont) (v : BitVec 16) : (m.setVl v).rtime = m.rtime := rfl
@[simp] theorem Cont.setVl_ppol (m : Cont) (v : BitVec 16) : (m.setVl v).ppol = m.ppol := rfl
@[simp] theorem Cont.setVl_tcause (m : Cont) (v : BitVec 16) : (m.setVl v).tcause = m.tcause := rfl
@[simp] theorem Cont.setVl_fslot (m : Cont) (v : BitVec 16) : (m.setVl v).fslot = m.fslot := rfl
@[simp] theorem Cont.setVl_recVa (m : Cont) (v : BitVec 16) : (m.setVl v).recVa = m.recVa := rfl
@[simp] theorem Cont.setVl_recPa (m : Cont) (v : BitVec 16) : (m.setVl v).recPa = m.recPa := rfl
@[simp] theorem Cont.setVl_savePa (m : Cont) (v : BitVec 16) : (m.setVl v).savePa = m.savePa := rfl
@[simp] theorem Cont.setVl_task (m : Cont) (v : BitVec 16) : (m.setVl v).task = m.task := rfl
@[simp] theorem Cont.setVl_ctx (m : Cont) (v : BitVec 16) : (m.setVl v).ctx = m.ctx := rfl
@[simp] theorem Cont.setVl_die (m : Cont) (v : BitVec 16) : (m.setVl v).die = m.die := rfl
@[simp] theorem Cont.setVl_core (m : Cont) (v : BitVec 16) : (m.setVl v).core = m.core := rfl
@[simp] theorem Cont.setVl_slot (m : Cont) (v : BitVec 16) : (m.setVl v).slot = m.slot := rfl
@[simp] theorem Cont.setVl_resident (m : Cont) (v : BitVec 16) : (m.setVl v).resident = m.resident := rfl
@[simp] theorem Cont.setVl_winBase (m : Cont) (v : BitVec 16) : (m.setVl v).winBase = m.winBase := rfl
@[simp] theorem Cont.setVl_winLimit (m : Cont) (v : BitVec 16) : (m.setVl v).winLimit = m.winLimit := rfl
@[simp] theorem Cont.setVl_claim (m : Cont) (v : BitVec 16) : (m.setVl v).claim = m.claim := rfl
@[simp] theorem Cont.setVl_starting (m : Cont) (v : BitVec 16) : (m.setVl v).starting = m.starting := rfl
@[simp] theorem Cont.setVl_stage0 (m : Cont) (v : BitVec 16) : (m.setVl v).stage0 = m.stage0 := rfl
@[simp] theorem Cont.setVl_g (m : Cont) (v : BitVec 16) : (m.setVl v).g = m.g := rfl
@[simp] theorem Cont.setVl_gPoison (m : Cont) (v : BitVec 16) : (m.setVl v).gPoison = m.gPoison := rfl
@[simp] theorem Cont.setVl_streams (m : Cont) (v : BitVec 16) : (m.setVl v).streams = m.streams := rfl
@[simp] theorem Cont.setVl_p (m : Cont) (v : BitVec 16) : (m.setVl v).p = m.p := rfl
@[simp] theorem Cont.setVl_b (m : Cont) (v : BitVec 16) : (m.setVl v).b = m.b := rfl
@[simp] theorem Cont.setVl_lc (m : Cont) (v : BitVec 16) : (m.setVl v).lc = m.lc := rfl
@[simp] theorem Cont.setVl_fmt (m : Cont) (v : BitVec 16) : (m.setVl v).fmt = m.fmt := rfl
@[simp] theorem Cont.setVl_fmtOld (m : Cont) (v : BitVec 16) : (m.setVl v).fmtOld = m.fmtOld := rfl
@[simp] theorem Cont.setVl_past (m : Cont) (v : BitVec 16) : (m.setVl v).past = m.past := rfl
@[simp] theorem Cont.setVl_flags (m : Cont) (v : BitVec 16) : (m.setVl v).flags = m.flags := rfl
@[simp] theorem Cont.setVl_tx (m : Cont) (v : BitVec 16) : (m.setVl v).tx = m.tx := rfl
@[simp] theorem Cont.setVl_ag (m : Cont) (v : BitVec 16) : (m.setVl v).ag = m.ag := rfl
@[simp] theorem Cont.setVl_blocks (m : Cont) (v : BitVec 16) : (m.setVl v).blocks = m.blocks := rfl
@[simp] theorem Cont.setVl_tvec (m : Cont) (v : BitVec 16) : (m.setVl v).tvec = m.tvec := rfl
@[simp] theorem Cont.setVl_tsave (m : Cont) (v : BitVec 16) : (m.setVl v).tsave = m.tsave := rfl
@[simp] theorem Cont.setVl_trapen (m : Cont) (v : BitVec 16) : (m.setVl v).trapen = m.trapen := rfl
@[simp] theorem Cont.setVl_fev (m : Cont) (v : BitVec 16) : (m.setVl v).fev = m.fev := rfl
@[simp] theorem Cont.setVl_sysMode (m : Cont) (v : BitVec 16) : (m.setVl v).sysMode = m.sysMode := rfl
@[simp] theorem Cont.setVl_imprecise (m : Cont) (v : BitVec 16) : (m.setVl v).imprecise = m.imprecise := rfl
@[simp] theorem Cont.setVl_flagTrap (m : Cont) (v : BitVec 16) : (m.setVl v).flagTrap = m.flagTrap := rfl
@[simp] theorem Cont.setVl_vpend (m : Cont) (v : BitVec 16) : (m.setVl v).vpend = m.vpend := rfl
@[simp] theorem Cont.setVl_mx (m : Cont) (v : BitVec 16) : (m.setVl v).mx = m.mx := rfl
@[simp] theorem Cont.setVl_cursor (m : Cont) (v : BitVec 16) : (m.setVl v).cursor = m.cursor := rfl
@[simp] theorem Cont.setVl_groupLen (m : Cont) (v : BitVec 16) : (m.setVl v).groupLen = m.groupLen := rfl
@[simp] theorem Cont.setVl_groupWrites (m : Cont) (v : BitVec 16) : (m.setVl v).groupWrites = m.groupWrites := rfl
@[simp] theorem Cont.setVl_bundles (m : Cont) (v : BitVec 16) : (m.setVl v).bundles = m.bundles := rfl
@[simp] theorem Cont.setVl_groups (m : Cont) (v : BitVec 16) : (m.setVl v).groups = m.groups := rfl
@[simp] theorem Cont.setVl_queue (m : Cont) (v : BitVec 16) : (m.setVl v).queue = m.queue := rfl
@[simp] theorem Cont.setVl_timid (m : Cont) (v : BitVec 16) : (m.setVl v).timid = m.timid := rfl
@[simp] theorem Cont.setVl_lag (m : Cont) (v : BitVec 16) : (m.setVl v).lag = m.lag := rfl
@[simp] theorem Cont.setVl_fmtUndo (m : Cont) (v : BitVec 16) : (m.setVl v).fmtUndo = m.fmtUndo := rfl
@[simp] theorem Cont.setVl_holds (m : Cont) (v : BitVec 16) : (m.setVl v).holds = m.holds := rfl
@[simp] theorem Cont.setVl_sig (m : Cont) (v : BitVec 16) : (m.setVl v).sig = m.sig := rfl
@[simp] theorem Cont.setVl_answers (m : Cont) (v : BitVec 16) : (m.setVl v).answers = m.answers := rfl
@[simp] theorem Cont.setVl_barr (m : Cont) (v : BitVec 16) : (m.setVl v).barr = m.barr := rfl
@[simp] theorem Cont.setVl_inTlbcnf (m : Cont) (v : BitVec 16) : (m.setVl v).inTlbcnf = m.inTlbcnf := rfl
@[simp] theorem Cont.setVl_since (m : Cont) (v : BitVec 16) : (m.setVl v).since = m.since := rfl
@[simp] theorem Cont.setVl_image (m : Cont) (v : BitVec 16) : (m.setVl v).image = m.image := rfl
@[simp] theorem Cont.setVl_imaged (m : Cont) (v : BitVec 16) : (m.setVl v).imaged = m.imaged := rfl
@[simp] theorem Cont.setVl_early (m : Cont) (v : BitVec 16) : (m.setVl v).early = m.early := rfl
@[simp] theorem Cont.setVl_imagePoison (m : Cont) (v : BitVec 16) : (m.setVl v).imagePoison = m.imagePoison := rfl
@[simp] theorem Cont.setVl_given (m : Cont) (v : BitVec 16) : (m.setVl v).given = m.given := rfl

end Sys2Proof.Machine
end

