-- ==== Sys2Proof/Laws/Ops.lean ====
section
/-! SUPPORT. What each shared operation can do: the address of an immediate access, the checks that come before a strong
access, the format an instruction takes, the checks and the issue of a vector command, the end of an instruction. -/

namespace Sys2Proof.Machine

/-- R158: the address of an immediate access, as a sum of integers modulo 2^64. -/
theorem siAddr_eq (x : Word) (k : BitVec 11) (n : Nat) : siAddr x k n = ofI (x.toInt + k.toInt * n) := by
  simp only [siAddr, ofI, toW, BitVec.ofInt_add, BitVec.ofInt_mul, BitVec.ofInt_toInt]
  congr 2

/-- R68, R156: with every live load-block filled and every SIGC written nothing is waited for. -/
theorem awaitFills_ok {m : Mach} (h : m.cur.settled) : awaitFills m = .ok ((), m) := by
  simp only [awaitFills, act_bind, act_getC, act_awaitIf]
  rw [if_neg]
  simp only [h.2, List.isEmpty_nil, Bool.not_true, Bool.false_or, List.any_eq_true, not_exists]
  rintro b ⟨hb, hc⟩
  cases b with
  | none => simp at hc
  | some b => have := h.1 b hb; simp [this] at hc

/-- R88: a scope the manual defines passes. -/
theorem checkScope_ok {c : BitVec 3} (h : c.toNat < 5) (m : Mach) : checkScope c m = .ok ((), m) := by
  simp [checkScope]; omega

theorem checkScope_bad {c : BitVec 3} (h : ¬c.toNat < 5) (m : Mach) :
    checkScope c m = .error (.trap { cause := 0x1008 }) := by
  simp [checkScope]; omega

/-- R129: an instruction takes fmt as it stands at its cycle. -/
@[simp] theorem act_takeFmt (m : Mach) : takeFmt m = .ok (m.fmtNow, m) := by simp [takeFmt]

/-- R129: outside every shadow that is fmt itself. -/
theorem Mach.fmtNow_plain {m : Mach} (h : m.inShadow m.cur = false) : m.fmtNow = m.cur.fmt := by
  have : (m.cur.fmtOld.find? fun o => decide (m.cyc m.cur.die < o.till)) = none := by
    rw [List.find?_eq_none]; simpa [Mach.inShadow] using h
  simp [Mach.fmtNow, this]

/-- R178: the checks of a vector command, on regions that keep every rule. -/
theorem vCheck_ok {p : VPlan} {m : Mach} (hin : ∀ r ∈ p.dsts ++ p.srcs, r.inside m.cur = true) (hbad : p.bad = false)
    (hal : ∀ r ∈ p.dsts ++ p.srcs, r.off % r.z = 0) (hcl : p.clash = false) : vCheck p m = .ok ((), m.flushOver p) := by
  have h : (p.dsts ++ p.srcs).find? (fun r => !(r.inside m.cur)) = none := by
    rw [List.find?_eq_none]; intro r hr; simp [hin r hr]
  have h5 : ((p.dsts ++ p.srcs).any fun r => !r.aligned) = false := by
    rw [List.any_eq_false]; intro r hr; simp [VReg.aligned, hal r hr]
  simp only [vCheck, vRange, act_bind, act_getC, h, act_pure, act_raiseIf, hbad, h5, hcl]; rfl

/-- R179: a vector command issues, and lands at once where a flag trap is enabled. -/
theorem putV_ok (w : List SpadWrite) (ev : Nat) (m : Mach) : putV w ev m = .ok ((), m.issueV w ev) := by
  simp [putV, Mach.issueV, Mach.withCur]

/-- The end of a slot, or of a bundle of a running continuation, changes nothing of the architecture. -/
theorem advance_arch (s : State) (h : s.m.cur.state = 2) : s.advance.m.arch = s.m.arch := by
  unfold State.advance
  cases hc : s.m.cur.cursor with
  | none => rfl
  | some k =>
    simp only []
    cases hk : k.slots with
    | nil => simp [Mach.endBundle, hc, h, Mach.arch, Cont.arch]
    | cons x r =>
      cases r with
      | nil => simp [Mach.endBundle, h, Mach.arch, Cont.arch]
      | cons y z => simp [Mach.arch, Cont.arch]

/-! ### Register operand forms (R123): each reads its sources in order, then writes once -/

section
variable {m m1 m2 m3 m4 : Mach} {x y z : Word} {d a b : GF}

theorem opRR_ok {f : Word → Word → Word} (ha : readG a m = .ok (x, m1)) (hb : readG b m1 = .ok (y, m2))
    (hd : writeG d (f x y) m2 = .ok ((), m3)) : opRR f d a b m = .ok ((), m3) := by simp [opRR, ha, hb, hd]

theorem opRRR_ok {f : Word → Word → Word → Word} (hz : readG d m = .ok (z, m1)) (ha : readG a m1 = .ok (x, m2))
    (hb : readG b m2 = .ok (y, m3)) (hd : writeG d (f z x y) m3 = .ok ((), m4)) : opRRR f d a b m = .ok ((), m4) := by
  simp [opRRR, hz, ha, hb, hd]

theorem opR_ok {f : Word → Word} (ha : readG a m = .ok (x, m1)) (hd : writeG d (f x) m1 = .ok ((), m2)) :
    opR f d a m = .ok ((), m2) := by simp [opR, ha, hd]

theorem opPred_ok {f : Word → Word → Bool} {p : BitVec 3} (ha : readG a m = .ok (x, m1)) (hb : readG b m1 = .ok (y, m2)) :
    opPred f p a b m = .ok ((), m2.withCur (m2.cur.setPred p.toNat (f x y))) := by simp [opPred, ha, hb, Mach.withCur]

theorem opPredR_ok {f : Word → Bool} {p : BitVec 3} (ha : readG a m = .ok (x, m1)) :
    opPredR f p a m = .ok ((), m1.withCur (m1.cur.setPred p.toNat (f x))) := by simp [opPredR, ha, Mach.withCur]

/-- R141, R145: a floating-point result is rounded, written, and its events reach the slot's flags. -/
theorem writeFp_ok {w : Bool} {v : Num} {st : Bool} {ev : Nat}
    (hd : writeG d (toW (roundTo (fpCode w) false v st).pat) m = .ok ((), m1)) :
    writeFp w d v st ev m = .ok ((), m1.noteEvents ((roundTo (fpCode w) false v st).ev ||| ev)) := by
  simp [writeFp, hd, flagEvents, Mach.noteEvents, Mach.withCur]

theorem opFpCmp_ok {f : Num → Num → Bool} {w : Bool} {p : BitVec 3} (ha : readG a m = .ok (x, m1)) (hb : readG b m1 = .ok (y, m2)) :
    opFpCmp f w p a b m =
      .ok ((), (m2.withCur (m2.cur.setPred p.toNat (f (fpNum w x) (fpNum w y)))).noteEvents (fpSig w [x, y])) := by
  simp [opFpCmp, ha, hb, flagEvents, Mach.noteEvents, Mach.withCur]
end

/-! ### Windows, modes and transfers -/

/-- R59: an offset inside the window passes, any other reports 0x2002 with the offset. -/
theorem checkWin_eq (o : Int) (n : Nat) (m : Mach) : checkWin o n m =
    if m.cur.inWindow o n = true then .ok (o.toNat, m) else .error (.trap { cause := 0x2002, faddr := ofI o }) := by
  simp [checkWin]

theorem readS_ok {o : Int} {n : Nat} {m : Mach} (h : m.cur.inWindow o n = true) :
    readS o n m = .ok ((m.landOver o.toNat n).winRead (m.landOver o.toNat n).cur o.toNat n, m.landOver o.toNat n) := by
  simp only [readS, act_bind, checkWin_eq, h, if_true, act_modM, act_getM, act_pure]

/-- With no drain of its own still to write there, an access follows nothing (R86). -/
theorem Mach.landOver_apart {m : Mach} {o n : Nat} (h : m.drainsOver o n = false) : m.landOver o n = m := by
  simp [Mach.landOver, h]

theorem writeS_ok {o : Int} {l : List Byte} {m : Mach} (h : m.cur.inWindow o l.length = true) :
    writeS o l m = .ok ((), (m.landOver o.toNat l.length).winWrite (m.landOver o.toNat l.length).cur o.toNat l false) := by
  simp [writeS, checkWin_eq, h]

/-- R25: an instruction of the matrix claim. -/
theorem needClaim_eq (m : Mach) : needClaim m = if m.cur.claim = true then .ok ((), m) else .error (.trap { cause := 0x1006 }) := by
  cases h : m.cur.claim <;> simp [needClaim, h]

/-- R242: a privileged instruction. -/
theorem needSystem_eq (m : Mach) :
    needSystem m = if m.cur.sysMode = true then .ok ((), m) else .error (.trap { cause := 0x1005 }) := by
  cases h : m.cur.sysMode <;> simp [needSystem, h]

/-- R126, R148: a transfer to a target that a bundle can stand at. -/
theorem transfer_ok {t : BitVec 48} {g : Bool} {m : Mach} (h : m.landsAt t) : transfer t g m = .ok ((), m.jumpTo t) := by
  obtain ⟨h4, b, hb, hg⟩ := h
  simp [transfer, h4, hb, hg, Mach.jumpTo, Mach.withCur]

theorem setB_eq (n : BitVec 3) (v : BitVec 48) (m : Mach) : setB n v m = .ok ((), m.withCur (m.cur.setBranch n v)) := rfl
theorem setLc_eq (x : BitVec 2) (v : W32) (m : Mach) : setLc x v m = .ok ((), m.withCur (m.cur.setLoop x v)) := rfl
theorem expect_eq (d : GF) (v : Option Word) (m : Mach) : expect d v m = .ok ((), m.answerTo d v) := rfl
theorem flagEvents_eq (ev : Nat) (m : Mach) : flagEvents ev m = .ok ((), m.noteEvents ev) := rfl

end Sys2Proof.Machine
end

