-- ==== Sys2Proof/Laws/PerInstr.lean ====
section
/-! SUPPORT. Statements made of each instruction as syntax, one lemma for each constructor. -/

namespace Sys2Proof.Laws.Fits

open Sys2Proof.Machine

set_option Elab.async false

/-- An instruction of a slot encodes to a word of its slot's width, a micro-operation to one of 64 bits (R131 to R133, R266). -/
def Statement (i : Instr) : Prop :=
  (∀ x, i.cls = some x → encode i < 2 ^ (8 * x.bytes)) ∧ (isMicro i = true → encode i < 2 ^ 64)

theorem ofSlot {i : Instr} {x : Slot} (hc : i.cls = some x) (hm : isMicro i = false) (h : encode i < 2 ^ (8 * x.bytes)) :
    Statement i :=
  ⟨fun y hy => by rw [hc] at hy; cases hy; exact h, fun hh => by rw [hm] at hh; cases hh⟩

theorem ofMicro {i : Instr} (hc : i.cls = none) (h : encode i < 2 ^ 64) : Statement i :=
  ⟨fun y hy => (by rw [hc] at hy; cases hy), fun _ => h⟩

theorem ofEvent {i : Instr} (hc : i.cls = none) (hm : isMicro i = false) : Statement i :=
  ⟨fun y hy => (by rw [hc] at hy; cases hy), fun hh => by rw [hm] at hh; cases hh⟩

theorem guardLt (g : Guard) : g.enc < 16 := by
  have := g.p.isLt; have := g.inv.toNat_lt; simp only [Guard.enc]; omega

theorem add (gu : Guard) (d a b : GF) : Statement (.add gu d a b) := ofSlot rfl rfl (by
  have := guardLt gu; have := d.isLt; have := a.isLt; have := b.isLt; change pk _ _ < _; simp only [pk, Slot.bytes]; omega)
theorem sub (gu : Guard) (d a b : GF) : Statement (.sub gu d a b) := ofSlot rfl rfl (by
  have := guardLt gu; have := d.isLt; have := a.isLt; have := b.isLt; change pk _ _ < _; simp only [pk, Slot.bytes]; omega)
theorem addi (gu : Guard) (d a : GF) (m : BitVec 11) : Statement (.addi gu d a m) := ofSlot rfl rfl (by
  have := guardLt gu; have := d.isLt; have := a.isLt; have := m.isLt; change pk _ _ < _; simp only [pk, Slot.bytes]; omega)
theorem addsh (gu : Guard) (d a b : GF) (s : BitVec 6) : Statement (.addsh gu d a b s) := ofSlot rfl rfl (by
  have := guardLt gu; have := d.isLt; have := a.isLt; have := b.isLt; have := s.isLt; change pk _ _ < _; simp only [pk, Slot.bytes]; omega)
theorem mul (gu : Guard) (d a b : GF) : Statement (.mul gu d a b) := ofSlot rfl rfl (by
  have := guardLt gu; have := d.isLt; have := a.isLt; have := b.isLt; change pk _ _ < _; simp only [pk, Slot.bytes]; omega)
theorem mulh (gu : Guard) (d a b : GF) : Statement (.mulh gu d a b) := ofSlot rfl rfl (by
  have := guardLt gu; have := d.isLt; have := a.isLt; have := b.isLt; change pk _ _ < _; simp only [pk, Slot.bytes]; omega)
theorem mulhu (gu : Guard) (d a b : GF) : Statement (.mulhu gu d a b) := ofSlot rfl rfl (by
  have := guardLt gu; have := d.isLt; have := a.isLt; have := b.isLt; change pk _ _ < _; simp only [pk, Slot.bytes]; omega)
theorem madd (gu : Guard) (d a b : GF) : Statement (.madd gu d a b) := ofSlot rfl rfl (by
  have := guardLt gu; have := d.isLt; have := a.isLt; have := b.isLt; change pk _ _ < _; simp only [pk, Slot.bytes]; omega)
theorem div (gu : Guard) (d a b : GF) : Statement (.div gu d a b) := ofSlot rfl rfl (by
  have := guardLt gu; have := d.isLt; have := a.isLt; have := b.isLt; change pk _ _ < _; simp only [pk, Slot.bytes]; omega)
theorem divu (gu : Guard) (d a b : GF) : Statement (.divu gu d a b) := ofSlot rfl rfl (by
  have := guardLt gu; have := d.isLt; have := a.isLt; have := b.isLt; change pk _ _ < _; simp only [pk, Slot.bytes]; omega)
theorem rem (gu : Guard) (d a b : GF) : Statement (.rem gu d a b) := ofSlot rfl rfl (by
  have := guardLt gu; have := d.isLt; have := a.isLt; have := b.isLt; change pk _ _ < _; simp only [pk, Slot.bytes]; omega)
theorem remu (gu : Guard) (d a b : GF) : Statement (.remu gu d a b) := ofSlot rfl rfl (by
  have := guardLt gu; have := d.isLt; have := a.isLt; have := b.isLt; change pk _ _ < _; simp only [pk, Slot.bytes]; omega)
theorem min (gu : Guard) (d a b : GF) : Statement (.min gu d a b) := ofSlot rfl rfl (by
  have := guardLt gu; have := d.isLt; have := a.isLt; have := b.isLt; change pk _ _ < _; simp only [pk, Slot.bytes]; omega)
theorem max (gu : Guard) (d a b : GF) : Statement (.max gu d a b) := ofSlot rfl rfl (by
  have := guardLt gu; have := d.isLt; have := a.isLt; have := b.isLt; change pk _ _ < _; simp only [pk, Slot.bytes]; omega)
theorem minu (gu : Guard) (d a b : GF) : Statement (.minu gu d a b) := ofSlot rfl rfl (by
  have := guardLt gu; have := d.isLt; have := a.isLt; have := b.isLt; change pk _ _ < _; simp only [pk, Slot.bytes]; omega)
theorem maxu (gu : Guard) (d a b : GF) : Statement (.maxu gu d a b) := ofSlot rfl rfl (by
  have := guardLt gu; have := d.isLt; have := a.isLt; have := b.isLt; change pk _ _ < _; simp only [pk, Slot.bytes]; omega)
theorem and (gu : Guard) (d a b : GF) : Statement (.and gu d a b) := ofSlot rfl rfl (by
  have := guardLt gu; have := d.isLt; have := a.isLt; have := b.isLt; change pk _ _ < _; simp only [pk, Slot.bytes]; omega)
theorem or (gu : Guard) (d a b : GF) : Statement (.or gu d a b) := ofSlot rfl rfl (by
  have := guardLt gu; have := d.isLt; have := a.isLt; have := b.isLt; change pk _ _ < _; simp only [pk, Slot.bytes]; omega)
theorem xor (gu : Guard) (d a b : GF) : Statement (.xor gu d a b) := ofSlot rfl rfl (by
  have := guardLt gu; have := d.isLt; have := a.isLt; have := b.isLt; change pk _ _ < _; simp only [pk, Slot.bytes]; omega)
theorem andn (gu : Guard) (d a b : GF) : Statement (.andn gu d a b) := ofSlot rfl rfl (by
  have := guardLt gu; have := d.isLt; have := a.isLt; have := b.isLt; change pk _ _ < _; simp only [pk, Slot.bytes]; omega)
theorem andi (gu : Guard) (d a : GF) (m : BitVec 11) : Statement (.andi gu d a m) := ofSlot rfl rfl (by
  have := guardLt gu; have := d.isLt; have := a.isLt; have := m.isLt; change pk _ _ < _; simp only [pk, Slot.bytes]; omega)
theorem ori (gu : Guard) (d a : GF) (m : BitVec 11) : Statement (.ori gu d a m) := ofSlot rfl rfl (by
  have := guardLt gu; have := d.isLt; have := a.isLt; have := m.isLt; change pk _ _ < _; simp only [pk, Slot.bytes]; omega)
theorem xori (gu : Guard) (d a : GF) (m : BitVec 11) : Statement (.xori gu d a m) := ofSlot rfl rfl (by
  have := guardLt gu; have := d.isLt; have := a.isLt; have := m.isLt; change pk _ _ < _; simp only [pk, Slot.bytes]; omega)
theorem sll (gu : Guard) (d a b : GF) : Statement (.sll gu d a b) := ofSlot rfl rfl (by
  have := guardLt gu; have := d.isLt; have := a.isLt; have := b.isLt; change pk _ _ < _; simp only [pk, Slot.bytes]; omega)
theorem srl (gu : Guard) (d a b : GF) : Statement (.srl gu d a b) := ofSlot rfl rfl (by
  have := guardLt gu; have := d.isLt; have := a.isLt; have := b.isLt; change pk _ _ < _; simp only [pk, Slot.bytes]; omega)
theorem sra (gu : Guard) (d a b : GF) : Statement (.sra gu d a b) := ofSlot rfl rfl (by
  have := guardLt gu; have := d.isLt; have := a.isLt; have := b.isLt; change pk _ _ < _; simp only [pk, Slot.bytes]; omega)
theorem slli (gu : Guard) (d a : GF) (n : BitVec 6) : Statement (.slli gu d a n) := ofSlot rfl rfl (by
  have := guardLt gu; have := d.isLt; have := a.isLt; have := n.isLt; change pk _ _ < _; simp only [pk, Slot.bytes]; omega)
theorem srli (gu : Guard) (d a : GF) (n : BitVec 6) : Statement (.srli gu d a n) := ofSlot rfl rfl (by
  have := guardLt gu; have := d.isLt; have := a.isLt; have := n.isLt; change pk _ _ < _; simp only [pk, Slot.bytes]; omega)
theorem srai (gu : Guard) (d a : GF) (n : BitVec 6) : Statement (.srai gu d a n) := ofSlot rfl rfl (by
  have := guardLt gu; have := d.isLt; have := a.isLt; have := n.isLt; change pk _ _ < _; simp only [pk, Slot.bytes]; omega)
theorem ror (gu : Guard) (d a b : GF) : Statement (.ror gu d a b) := ofSlot rfl rfl (by
  have := guardLt gu; have := d.isLt; have := a.isLt; have := b.isLt; change pk _ _ < _; simp only [pk, Slot.bytes]; omega)
theorem clz (gu : Guard) (d a : GF) : Statement (.clz gu d a) := ofSlot rfl rfl (by
  have := guardLt gu; have := d.isLt; have := a.isLt; change pk _ _ < _; simp only [pk, Slot.bytes]; omega)
theorem ctz (gu : Guard) (d a : GF) : Statement (.ctz gu d a) := ofSlot rfl rfl (by
  have := guardLt gu; have := d.isLt; have := a.isLt; change pk _ _ < _; simp only [pk, Slot.bytes]; omega)
theorem popc (gu : Guard) (d a : GF) : Statement (.popc gu d a) := ofSlot rfl rfl (by
  have := guardLt gu; have := d.isLt; have := a.isLt; change pk _ _ < _; simp only [pk, Slot.bytes]; omega)
theorem bext (gu : Guard) (d a b : GF) (s : Bool) : Statement (.bext gu d a b s) := ofSlot rfl rfl (by
  have := guardLt gu; have := d.isLt; have := a.isLt; have := b.isLt; have := s.toNat_lt; change pk _ _ < _; simp only [pk, Slot.bytes]; omega)
theorem bins (gu : Guard) (d a b : GF) : Statement (.bins gu d a b) := ofSlot rfl rfl (by
  have := guardLt gu; have := d.isLt; have := a.isLt; have := b.isLt; change pk _ _ < _; simp only [pk, Slot.bytes]; omega)
theorem movi (gu : Guard) (d : GF) (m : BitVec 16) : Statement (.movi gu d m) := ofSlot rfl rfl (by
  have := guardLt gu; have := d.isLt; have := m.isLt; change pk _ _ < _; simp only [pk, Slot.bytes]; omega)
theorem movk (k : BitVec 2) (d : GF) (m : BitVec 16) : Statement (.movk k d m) := ofSlot rfl rfl (by
  have := k.isLt; have := d.isLt; have := m.isLt; change pk _ _ < _; simp only [pk, Slot.bytes]; omega)
theorem sel (gu : Guard) (d a b : GF) (q : BitVec 3) : Statement (.sel gu d a b q) := ofSlot rfl rfl (by
  have := guardLt gu; have := d.isLt; have := a.isLt; have := b.isLt; have := q.isLt; change pk _ _ < _; simp only [pk, Slot.bytes]; omega)
theorem cmpeq (gu : Guard) (d : BitVec 3) (a b : GF) : Statement (.cmpeq gu d a b) := ofSlot rfl rfl (by
  have := guardLt gu; have := d.isLt; have := a.isLt; have := b.isLt; change pk _ _ < _; simp only [pk, Slot.bytes]; omega)
theorem cmpne (gu : Guard) (d : BitVec 3) (a b : GF) : Statement (.cmpne gu d a b) := ofSlot rfl rfl (by
  have := guardLt gu; have := d.isLt; have := a.isLt; have := b.isLt; change pk _ _ < _; simp only [pk, Slot.bytes]; omega)
theorem cmplt (gu : Guard) (d : BitVec 3) (a b : GF) : Statement (.cmplt gu d a b) := ofSlot rfl rfl (by
  have := guardLt gu; have := d.isLt; have := a.isLt; have := b.isLt; change pk _ _ < _; simp only [pk, Slot.bytes]; omega)
theorem cmpltu (gu : Guard) (d : BitVec 3) (a b : GF) : Statement (.cmpltu gu d a b) := ofSlot rfl rfl (by
  have := guardLt gu; have := d.isLt; have := a.isLt; have := b.isLt; change pk _ _ < _; simp only [pk, Slot.bytes]; omega)
theorem cmpge (gu : Guard) (d : BitVec 3) (a b : GF) : Statement (.cmpge gu d a b) := ofSlot rfl rfl (by
  have := guardLt gu; have := d.isLt; have := a.isLt; have := b.isLt; change pk _ _ < _; simp only [pk, Slot.bytes]; omega)
theorem cmpgeu (gu : Guard) (d : BitVec 3) (a b : GF) : Statement (.cmpgeu gu d a b) := ofSlot rfl rfl (by
  have := guardLt gu; have := d.isLt; have := a.isLt; have := b.isLt; change pk _ _ < _; simp only [pk, Slot.bytes]; omega)
theorem cmpeqi (gu : Guard) (d : BitVec 3) (a : GF) (m : BitVec 11) : Statement (.cmpeqi gu d a m) := ofSlot rfl rfl (by
  have := guardLt gu; have := d.isLt; have := a.isLt; have := m.isLt; change pk _ _ < _; simp only [pk, Slot.bytes]; omega)
theorem cmplti (gu : Guard) (d : BitVec 3) (a : GF) (m : BitVec 11) : Statement (.cmplti gu d a m) := ofSlot rfl rfl (by
  have := guardLt gu; have := d.isLt; have := a.isLt; have := m.isLt; change pk _ _ < _; simp only [pk, Slot.bytes]; omega)
theorem plog (gu : Guard) (d a b : BitVec 3) (t : BitVec 4) : Statement (.plog gu d a b t) := ofSlot rfl rfl (by
  have := guardLt gu; have := d.isLt; have := a.isLt; have := b.isLt; have := t.isLt; change pk _ _ < _; simp only [pk, Slot.bytes]; omega)
theorem movpGet (gu : Guard) (d : GF) : Statement (.movpGet gu d) := ofSlot rfl rfl (by
  have := guardLt gu; have := d.isLt; change pk _ _ < _; simp only [pk, Slot.bytes]; omega)
theorem movpSet (gu : Guard) (a : GF) : Statement (.movpSet gu a) := ofSlot rfl rfl (by
  have := guardLt gu; have := a.isLt; change pk _ _ < _; simp only [pk, Slot.bytes]; omega)
theorem fadd (gu : Guard) (d a b : GF) (z : Bool) : Statement (.fadd gu d a b z) := ofSlot rfl rfl (by
  have := guardLt gu; have := d.isLt; have := a.isLt; have := b.isLt; have := z.toNat_lt; change pk _ _ < _; simp only [pk, Slot.bytes]; omega)
theorem fsub (gu : Guard) (d a b : GF) (z : Bool) : Statement (.fsub gu d a b z) := ofSlot rfl rfl (by
  have := guardLt gu; have := d.isLt; have := a.isLt; have := b.isLt; have := z.toNat_lt; change pk _ _ < _; simp only [pk, Slot.bytes]; omega)
theorem fmul (gu : Guard) (d a b : GF) (z : Bool) : Statement (.fmul gu d a b z) := ofSlot rfl rfl (by
  have := guardLt gu; have := d.isLt; have := a.isLt; have := b.isLt; have := z.toNat_lt; change pk _ _ < _; simp only [pk, Slot.bytes]; omega)
theorem ffma (gu : Guard) (d a b : GF) (z : Bool) : Statement (.ffma gu d a b z) := ofSlot rfl rfl (by
  have := guardLt gu; have := d.isLt; have := a.isLt; have := b.isLt; have := z.toNat_lt; change pk _ _ < _; simp only [pk, Slot.bytes]; omega)
theorem fdiv (gu : Guard) (d a b : GF) (z : Bool) : Statement (.fdiv gu d a b z) := ofSlot rfl rfl (by
  have := guardLt gu; have := d.isLt; have := a.isLt; have := b.isLt; have := z.toNat_lt; change pk _ _ < _; simp only [pk, Slot.bytes]; omega)
theorem fsqrt (gu : Guard) (d a : GF) (z : Bool) : Statement (.fsqrt gu d a z) := ofSlot rfl rfl (by
  have := guardLt gu; have := d.isLt; have := a.isLt; have := z.toNat_lt; change pk _ _ < _; simp only [pk, Slot.bytes]; omega)
theorem fmin (gu : Guard) (d a b : GF) (z : Bool) : Statement (.fmin gu d a b z) := ofSlot rfl rfl (by
  have := guardLt gu; have := d.isLt; have := a.isLt; have := b.isLt; have := z.toNat_lt; change pk _ _ < _; simp only [pk, Slot.bytes]; omega)
theorem fmax (gu : Guard) (d a b : GF) (z : Bool) : Statement (.fmax gu d a b z) := ofSlot rfl rfl (by
  have := guardLt gu; have := d.isLt; have := a.isLt; have := b.isLt; have := z.toNat_lt; change pk _ _ < _; simp only [pk, Slot.bytes]; omega)
theorem fcmpeq (gu : Guard) (d : BitVec 3) (a b : GF) (z : Bool) : Statement (.fcmpeq gu d a b z) := ofSlot rfl rfl (by
  have := guardLt gu; have := d.isLt; have := a.isLt; have := b.isLt; have := z.toNat_lt; change pk _ _ < _; simp only [pk, Slot.bytes]; omega)
theorem fcmplt (gu : Guard) (d : BitVec 3) (a b : GF) (z : Bool) : Statement (.fcmplt gu d a b z) := ofSlot rfl rfl (by
  have := guardLt gu; have := d.isLt; have := a.isLt; have := b.isLt; have := z.toNat_lt; change pk _ _ < _; simp only [pk, Slot.bytes]; omega)
theorem fcmple (gu : Guard) (d : BitVec 3) (a b : GF) (z : Bool) : Statement (.fcmple gu d a b z) := ofSlot rfl rfl (by
  have := guardLt gu; have := d.isLt; have := a.isLt; have := b.isLt; have := z.toNat_lt; change pk _ _ < _; simp only [pk, Slot.bytes]; omega)
theorem fcvt (gu : Guard) (d a : GF) (z : Bool) : Statement (.fcvt gu d a z) := ofSlot rfl rfl (by
  have := guardLt gu; have := d.isLt; have := a.isLt; have := z.toNat_lt; change pk _ _ < _; simp only [pk, Slot.bytes]; omega)
theorem ftoi (gu : Guard) (d a : GF) (r u z : Bool) : Statement (.ftoi gu d a r u z) := ofSlot rfl rfl (by
  have := guardLt gu; have := d.isLt; have := a.isLt; have := r.toNat_lt; have := u.toNat_lt; have := z.toNat_lt; change pk _ _ < _; simp only [pk, Slot.bytes]; omega)
theorem itof (gu : Guard) (d a : GF) (u z : Bool) : Statement (.itof gu d a u z) := ofSlot rfl rfl (by
  have := guardLt gu; have := d.isLt; have := a.isLt; have := u.toNat_lt; have := z.toNat_lt; change pk _ _ < _; simp only [pk, Slot.bytes]; omega)
theorem fclass (gu : Guard) (d a : GF) (z : Bool) : Statement (.fclass gu d a z) := ofSlot rfl rfl (by
  have := guardLt gu; have := d.isLt; have := a.isLt; have := z.toNat_lt; change pk _ _ < _; simp only [pk, Slot.bytes]; omega)
theorem ldb (gu : Guard) (d a : GF) (m : BitVec 11) : Statement (.ldb gu d a m) := ofSlot rfl rfl (by
  have := guardLt gu; have := d.isLt; have := a.isLt; have := m.isLt; change pk _ _ < _; simp only [pk, Slot.bytes]; omega)
theorem ldbu (gu : Guard) (d a : GF) (m : BitVec 11) : Statement (.ldbu gu d a m) := ofSlot rfl rfl (by
  have := guardLt gu; have := d.isLt; have := a.isLt; have := m.isLt; change pk _ _ < _; simp only [pk, Slot.bytes]; omega)
theorem ldh (gu : Guard) (d a : GF) (m : BitVec 11) : Statement (.ldh gu d a m) := ofSlot rfl rfl (by
  have := guardLt gu; have := d.isLt; have := a.isLt; have := m.isLt; change pk _ _ < _; simp only [pk, Slot.bytes]; omega)
theorem ldhu (gu : Guard) (d a : GF) (m : BitVec 11) : Statement (.ldhu gu d a m) := ofSlot rfl rfl (by
  have := guardLt gu; have := d.isLt; have := a.isLt; have := m.isLt; change pk _ _ < _; simp only [pk, Slot.bytes]; omega)
theorem ldw (gu : Guard) (d a : GF) (m : BitVec 11) : Statement (.ldw gu d a m) := ofSlot rfl rfl (by
  have := guardLt gu; have := d.isLt; have := a.isLt; have := m.isLt; change pk _ _ < _; simp only [pk, Slot.bytes]; omega)
theorem ldwu (gu : Guard) (d a : GF) (m : BitVec 11) : Statement (.ldwu gu d a m) := ofSlot rfl rfl (by
  have := guardLt gu; have := d.isLt; have := a.isLt; have := m.isLt; change pk _ _ < _; simp only [pk, Slot.bytes]; omega)
theorem ldd (gu : Guard) (d a : GF) (m : BitVec 11) : Statement (.ldd gu d a m) := ofSlot rfl rfl (by
  have := guardLt gu; have := d.isLt; have := a.isLt; have := m.isLt; change pk _ _ < _; simp only [pk, Slot.bytes]; omega)
theorem ldacq (gu : Guard) (d a : GF) (e : Bool) (z : BitVec 2) (c : BitVec 3) : Statement (.ldacq gu d a e z c) := ofSlot rfl rfl (by
  have := guardLt gu; have := d.isLt; have := a.isLt; have := e.toNat_lt; have := z.isLt; have := c.isLt; change pk _ _ < _; simp only [pk, Slot.bytes]; omega)
theorem stb (gu : Guard) (d a : GF) (m : BitVec 11) : Statement (.stb gu d a m) := ofSlot rfl rfl (by
  have := guardLt gu; have := d.isLt; have := a.isLt; have := m.isLt; change pk _ _ < _; simp only [pk, Slot.bytes]; omega)
theorem sth (gu : Guard) (d a : GF) (m : BitVec 11) : Statement (.sth gu d a m) := ofSlot rfl rfl (by
  have := guardLt gu; have := d.isLt; have := a.isLt; have := m.isLt; change pk _ _ < _; simp only [pk, Slot.bytes]; omega)
theorem stw (gu : Guard) (d a : GF) (m : BitVec 11) : Statement (.stw gu d a m) := ofSlot rfl rfl (by
  have := guardLt gu; have := d.isLt; have := a.isLt; have := m.isLt; change pk _ _ < _; simp only [pk, Slot.bytes]; omega)
theorem std (gu : Guard) (d a : GF) (m : BitVec 11) : Statement (.std gu d a m) := ofSlot rfl rfl (by
  have := guardLt gu; have := d.isLt; have := a.isLt; have := m.isLt; change pk _ _ < _; simp only [pk, Slot.bytes]; omega)
theorem strel (gu : Guard) (a b : GF) (e : Bool) (z : BitVec 2) (c : BitVec 3) : Statement (.strel gu a b e z c) := ofSlot rfl rfl (by
  have := guardLt gu; have := a.isLt; have := b.isLt; have := e.toNat_lt; have := z.isLt; have := c.isLt; change pk _ _ < _; simp only [pk, Slot.bytes]; omega)
theorem spldw (gu : Guard) (d a : GF) (m : BitVec 11) : Statement (.spldw gu d a m) := ofSlot rfl rfl (by
  have := guardLt gu; have := d.isLt; have := a.isLt; have := m.isLt; change pk _ _ < _; simp only [pk, Slot.bytes]; omega)
theorem spldd (gu : Guard) (d a : GF) (m : BitVec 11) : Statement (.spldd gu d a m) := ofSlot rfl rfl (by
  have := guardLt gu; have := d.isLt; have := a.isLt; have := m.isLt; change pk _ _ < _; simp only [pk, Slot.bytes]; omega)
theorem spstw (gu : Guard) (d a : GF) (m : BitVec 11) : Statement (.spstw gu d a m) := ofSlot rfl rfl (by
  have := guardLt gu; have := d.isLt; have := a.isLt; have := m.isLt; change pk _ _ < _; simp only [pk, Slot.bytes]; omega)
theorem spstd (gu : Guard) (d a : GF) (m : BitVec 11) : Statement (.spstd gu d a m) := ofSlot rfl rfl (by
  have := guardLt gu; have := d.isLt; have := a.isLt; have := m.isLt; change pk _ _ < _; simp only [pk, Slot.bytes]; omega)
theorem amoadd (gu : Guard) (d a b : GF) (e w : Bool) (c : BitVec 3) : Statement (.amoadd gu d a b e w c) := ofSlot rfl rfl (by
  have := guardLt gu; have := d.isLt; have := a.isLt; have := b.isLt; have := e.toNat_lt; have := w.toNat_lt; have := c.isLt; change pk _ _ < _; simp only [pk, Slot.bytes]; omega)
theorem amoand (gu : Guard) (d a b : GF) (e w : Bool) (c : BitVec 3) : Statement (.amoand gu d a b e w c) := ofSlot rfl rfl (by
  have := guardLt gu; have := d.isLt; have := a.isLt; have := b.isLt; have := e.toNat_lt; have := w.toNat_lt; have := c.isLt; change pk _ _ < _; simp only [pk, Slot.bytes]; omega)
theorem amoor (gu : Guard) (d a b : GF) (e w : Bool) (c : BitVec 3) : Statement (.amoor gu d a b e w c) := ofSlot rfl rfl (by
  have := guardLt gu; have := d.isLt; have := a.isLt; have := b.isLt; have := e.toNat_lt; have := w.toNat_lt; have := c.isLt; change pk _ _ < _; simp only [pk, Slot.bytes]; omega)
theorem amoxor (gu : Guard) (d a b : GF) (e w : Bool) (c : BitVec 3) : Statement (.amoxor gu d a b e w c) := ofSlot rfl rfl (by
  have := guardLt gu; have := d.isLt; have := a.isLt; have := b.isLt; have := e.toNat_lt; have := w.toNat_lt; have := c.isLt; change pk _ _ < _; simp only [pk, Slot.bytes]; omega)
theorem amomin (gu : Guard) (d a b : GF) (e u w : Bool) (c : BitVec 3) : Statement (.amomin gu d a b e u w c) := ofSlot rfl rfl (by
  have := guardLt gu; have := d.isLt; have := a.isLt; have := b.isLt; have := e.toNat_lt; have := u.toNat_lt; have := w.toNat_lt; have := c.isLt; change pk _ _ < _; simp only [pk, Slot.bytes]; omega)
theorem amomax (gu : Guard) (d a b : GF) (e u w : Bool) (c : BitVec 3) : Statement (.amomax gu d a b e u w c) := ofSlot rfl rfl (by
  have := guardLt gu; have := d.isLt; have := a.isLt; have := b.isLt; have := e.toNat_lt; have := u.toNat_lt; have := w.toNat_lt; have := c.isLt; change pk _ _ < _; simp only [pk, Slot.bytes]; omega)
theorem amoswp (gu : Guard) (d a b : GF) (e w : Bool) (c : BitVec 3) : Statement (.amoswp gu d a b e w c) := ofSlot rfl rfl (by
  have := guardLt gu; have := d.isLt; have := a.isLt; have := b.isLt; have := e.toNat_lt; have := w.toNat_lt; have := c.isLt; change pk _ _ < _; simp only [pk, Slot.bytes]; omega)
theorem amocas (gu : Guard) (d a b : GF) (e w : Bool) (c : BitVec 3) : Statement (.amocas gu d a b e w c) := ofSlot rfl rfl (by
  have := guardLt gu; have := d.isLt; have := a.isLt; have := b.isLt; have := e.toNat_lt; have := w.toNat_lt; have := c.isLt; change pk _ _ < _; simp only [pk, Slot.bytes]; omega)
theorem amofadd (gu : Guard) (d a b : GF) (e w : Bool) (c : BitVec 3) : Statement (.amofadd gu d a b e w c) := ofSlot rfl rfl (by
  have := guardLt gu; have := d.isLt; have := a.isLt; have := b.isLt; have := e.toNat_lt; have := w.toNat_lt; have := c.isLt; change pk _ _ < _; simp only [pk, Slot.bytes]; omega)
theorem fence (gu : Guard) (c : BitVec 3) (s : BitVec 4) : Statement (.fence gu c s) := ofSlot rfl rfl (by
  have := guardLt gu; have := c.isLt; have := s.isLt; change pk _ _ < _; simp only [pk, Slot.bytes]; omega)
theorem ldblk (gu : Guard) (d a b : GF) (n : BitVec 3) : Statement (.ldblk gu d a b n) := ofSlot rfl rfl (by
  have := guardLt gu; have := d.isLt; have := a.isLt; have := b.isLt; have := n.isLt; change pk _ _ < _; simp only [pk, Slot.bytes]; omega)
theorem blkwb (gu : Guard) (n : BitVec 3) : Statement (.blkwb gu n) := ofSlot rfl rfl (by
  have := guardLt gu; have := n.isLt; change pk _ _ < _; simp only [pk, Slot.bytes]; omega)
theorem blkrel (gu : Guard) (n : BitVec 3) : Statement (.blkrel gu n) := ofSlot rfl rfl (by
  have := guardLt gu; have := n.isLt; change pk _ _ < _; simp only [pk, Slot.bytes]; omega)
theorem xlt (gu : Guard) (a : GF) (l : BitVec 3) (w : Bool) (n : BitVec 2) : Statement (.xlt gu a l w n) := ofSlot rfl rfl (by
  have := guardLt gu; have := a.isLt; have := l.isLt; have := w.toNat_lt; have := n.isLt; change pk _ _ < _; simp only [pk, Slot.bytes]; omega)
theorem xltp (gu : Guard) (d a : GF) (l : BitVec 3) (w : Bool) (n : BitVec 2) : Statement (.xltp gu d a l w n) := ofSlot rfl rfl (by
  have := guardLt gu; have := d.isLt; have := a.isLt; have := l.isLt; have := w.toNat_lt; have := n.isLt; change pk _ _ < _; simp only [pk, Slot.bytes]; omega)
theorem leaseq (gu : Guard) (d a : GF) : Statement (.leaseq gu d a) := ofSlot rfl rfl (by
  have := guardLt gu; have := d.isLt; have := a.isLt; change pk _ _ < _; simp only [pk, Slot.bytes]; omega)
theorem sbind (gu : Guard) (n : BitVec 3) (a : GF) (m : BitVec 11) : Statement (.sbind gu n a m) := ofSlot rfl rfl (by
  have := guardLt gu; have := n.isLt; have := a.isLt; have := m.isLt; change pk _ _ < _; simp only [pk, Slot.bytes]; omega)
theorem sunbind (gu : Guard) (n : BitVec 3) : Statement (.sunbind gu n) := ofSlot rfl rfl (by
  have := guardLt gu; have := n.isLt; change pk _ _ < _; simp only [pk, Slot.bytes]; omega)
theorem qinit (gu : Guard) (n : BitVec 4) (a b : GF) : Statement (.qinit gu n a b) := ofSlot rfl rfl (by
  have := guardLt gu; have := n.isLt; have := a.isLt; have := b.isLt; change pk _ _ < _; simp only [pk, Slot.bytes]; omega)
theorem qadv (gu : Guard) (q : BitVec 4) (a : GF) (r h : Bool) (n : BitVec 8) : Statement (.qadv gu q a r h n) := ofSlot rfl rfl (by
  have := guardLt gu; have := q.isLt; have := a.isLt; have := r.toNat_lt; have := h.toNat_lt; have := n.isLt; change pk _ _ < _; simp only [pk, Slot.bytes]; omega)
theorem qstat (gu : Guard) (d : GF) (n : BitVec 4) (h : Bool) : Statement (.qstat gu d n h) := ofSlot rfl rfl (by
  have := guardLt gu; have := d.isLt; have := n.isLt; have := h.toNat_lt; change pk _ _ < _; simp only [pk, Slot.bytes]; omega)
theorem wenq (gu : Guard) (d a b : GF) (c : BitVec 3) : Statement (.wenq gu d a b c) := ofSlot rfl rfl (by
  have := guardLt gu; have := d.isLt; have := a.isLt; have := b.isLt; have := c.isLt; change pk _ _ < _; simp only [pk, Slot.bytes]; omega)
theorem agset (gu : Guard) (n : BitVec 3) (a : GF) : Statement (.agset gu n a) := ofSlot rfl rfl (by
  have := guardLt gu; have := n.isLt; have := a.isLt; change pk _ _ < _; simp only [pk, Slot.bytes]; omega)
theorem agadv (gu : Guard) (n : BitVec 3) (a : GF) (m : BitVec 11) : Statement (.agadv gu n a m) := ofSlot rfl rfl (by
  have := guardLt gu; have := n.isLt; have := a.isLt; have := m.isLt; change pk _ _ < _; simp only [pk, Slot.bytes]; omega)
theorem vsetlImm (gu : Guard) (m : BitVec 16) : Statement (.vsetlImm gu m) := ofSlot rfl rfl (by
  have := guardLt gu; have := m.isLt; change pk _ _ < _; simp only [pk, Slot.bytes]; omega)
theorem vsetlReg (gu : Guard) (d : GF) : Statement (.vsetlReg gu d) := ofSlot rfl rfl (by
  have := guardLt gu; have := d.isLt; change pk _ _ < _; simp only [pk, Slot.bytes]; omega)
theorem vmov (gu : Guard) (a b : GF) (l : Bool) : Statement (.vmov gu a b l) := ofSlot rfl rfl (by
  have := guardLt gu; have := a.isLt; have := b.isLt; have := l.toNat_lt; change pk _ _ < _; simp only [pk, Slot.bytes]; omega)
theorem vfill (gu : Guard) (a b : GF) : Statement (.vfill gu a b) := ofSlot rfl rfl (by
  have := guardLt gu; have := a.isLt; have := b.isLt; change pk _ _ < _; simp only [pk, Slot.bytes]; omega)
theorem vadd (gu : Guard) (a b : GF) (l : Bool) : Statement (.vadd gu a b l) := ofSlot rfl rfl (by
  have := guardLt gu; have := a.isLt; have := b.isLt; have := l.toNat_lt; change pk _ _ < _; simp only [pk, Slot.bytes]; omega)
theorem vsub (gu : Guard) (a b : GF) (l : Bool) : Statement (.vsub gu a b l) := ofSlot rfl rfl (by
  have := guardLt gu; have := a.isLt; have := b.isLt; have := l.toNat_lt; change pk _ _ < _; simp only [pk, Slot.bytes]; omega)
theorem vmul (gu : Guard) (a b : GF) (l : Bool) : Statement (.vmul gu a b l) := ofSlot rfl rfl (by
  have := guardLt gu; have := a.isLt; have := b.isLt; have := l.toNat_lt; change pk _ _ < _; simp only [pk, Slot.bytes]; omega)
theorem vfma (gu : Guard) (a b : GF) (l : Bool) : Statement (.vfma gu a b l) := ofSlot rfl rfl (by
  have := guardLt gu; have := a.isLt; have := b.isLt; have := l.toNat_lt; change pk _ _ < _; simp only [pk, Slot.bytes]; omega)
theorem vmin (gu : Guard) (a b : GF) (l : Bool) : Statement (.vmin gu a b l) := ofSlot rfl rfl (by
  have := guardLt gu; have := a.isLt; have := b.isLt; have := l.toNat_lt; change pk _ _ < _; simp only [pk, Slot.bytes]; omega)
theorem vmax (gu : Guard) (a b : GF) (l : Bool) : Statement (.vmax gu a b l) := ofSlot rfl rfl (by
  have := guardLt gu; have := a.isLt; have := b.isLt; have := l.toNat_lt; change pk _ _ < _; simp only [pk, Slot.bytes]; omega)
theorem vabs (gu : Guard) (a : GF) (l : Bool) : Statement (.vabs gu a l) := ofSlot rfl rfl (by
  have := guardLt gu; have := a.isLt; have := l.toNat_lt; change pk _ _ < _; simp only [pk, Slot.bytes]; omega)
theorem vneg (gu : Guard) (a : GF) (l : Bool) : Statement (.vneg gu a l) := ofSlot rfl rfl (by
  have := guardLt gu; have := a.isLt; have := l.toNat_lt; change pk _ _ < _; simp only [pk, Slot.bytes]; omega)
theorem vadds (gu : Guard) (a b : GF) (l : Bool) : Statement (.vadds gu a b l) := ofSlot rfl rfl (by
  have := guardLt gu; have := a.isLt; have := b.isLt; have := l.toNat_lt; change pk _ _ < _; simp only [pk, Slot.bytes]; omega)
theorem vmuls (gu : Guard) (a b : GF) (l : Bool) : Statement (.vmuls gu a b l) := ofSlot rfl rfl (by
  have := guardLt gu; have := a.isLt; have := b.isLt; have := l.toNat_lt; change pk _ _ < _; simp only [pk, Slot.bytes]; omega)
theorem vfmas (gu : Guard) (a b : GF) (l : Bool) : Statement (.vfmas gu a b l) := ofSlot rfl rfl (by
  have := guardLt gu; have := a.isLt; have := b.isLt; have := l.toNat_lt; change pk _ _ < _; simp only [pk, Slot.bytes]; omega)
theorem vrcp (gu : Guard) (a : GF) (l : Bool) : Statement (.vrcp gu a l) := ofSlot rfl rfl (by
  have := guardLt gu; have := a.isLt; have := l.toNat_lt; change pk _ _ < _; simp only [pk, Slot.bytes]; omega)
theorem vrsqrt (gu : Guard) (a : GF) (l : Bool) : Statement (.vrsqrt gu a l) := ofSlot rfl rfl (by
  have := guardLt gu; have := a.isLt; have := l.toNat_lt; change pk _ _ < _; simp only [pk, Slot.bytes]; omega)
theorem vexp (gu : Guard) (a : GF) (l : Bool) : Statement (.vexp gu a l) := ofSlot rfl rfl (by
  have := guardLt gu; have := a.isLt; have := l.toNat_lt; change pk _ _ < _; simp only [pk, Slot.bytes]; omega)
theorem vlog (gu : Guard) (a : GF) (l : Bool) : Statement (.vlog gu a l) := ofSlot rfl rfl (by
  have := guardLt gu; have := a.isLt; have := l.toNat_lt; change pk _ _ < _; simp only [pk, Slot.bytes]; omega)
theorem vsin (gu : Guard) (a : GF) (l : Bool) : Statement (.vsin gu a l) := ofSlot rfl rfl (by
  have := guardLt gu; have := a.isLt; have := l.toNat_lt; change pk _ _ < _; simp only [pk, Slot.bytes]; omega)
theorem vcos (gu : Guard) (a : GF) (l : Bool) : Statement (.vcos gu a l) := ofSlot rfl rfl (by
  have := guardLt gu; have := a.isLt; have := l.toNat_lt; change pk _ _ < _; simp only [pk, Slot.bytes]; omega)
theorem vtanh (gu : Guard) (a : GF) (l : Bool) : Statement (.vtanh gu a l) := ofSlot rfl rfl (by
  have := guardLt gu; have := a.isLt; have := l.toNat_lt; change pk _ _ < _; simp only [pk, Slot.bytes]; omega)
theorem vsig (gu : Guard) (a : GF) (l : Bool) : Statement (.vsig gu a l) := ofSlot rfl rfl (by
  have := guardLt gu; have := a.isLt; have := l.toNat_lt; change pk _ _ < _; simp only [pk, Slot.bytes]; omega)
theorem vsilu (gu : Guard) (a : GF) (l : Bool) : Statement (.vsilu gu a l) := ofSlot rfl rfl (by
  have := guardLt gu; have := a.isLt; have := l.toNat_lt; change pk _ _ < _; simp only [pk, Slot.bytes]; omega)
theorem vgelu (gu : Guard) (a : GF) (l : Bool) : Statement (.vgelu gu a l) := ofSlot rfl rfl (by
  have := guardLt gu; have := a.isLt; have := l.toNat_lt; change pk _ _ < _; simp only [pk, Slot.bytes]; omega)
theorem vcvt (gu : Guard) (a : GF) (l : Bool) : Statement (.vcvt gu a l) := ofSlot rfl rfl (by
  have := guardLt gu; have := a.isLt; have := l.toNat_lt; change pk _ _ < _; simp only [pk, Slot.bytes]; omega)
theorem vqnt (gu : Guard) (a b : GF) (l : Bool) : Statement (.vqnt gu a b l) := ofSlot rfl rfl (by
  have := guardLt gu; have := a.isLt; have := b.isLt; have := l.toNat_lt; change pk _ _ < _; simp only [pk, Slot.bytes]; omega)
theorem vdq (gu : Guard) (a b : GF) : Statement (.vdq gu a b) := ofSlot rfl rfl (by
  have := guardLt gu; have := a.isLt; have := b.isLt; change pk _ _ < _; simp only [pk, Slot.bytes]; omega)
theorem vcmp (gu : Guard) (a b : GF) (s : Bool) (c : BitVec 3) : Statement (.vcmp gu a b s c) := ofSlot rfl rfl (by
  have := guardLt gu; have := a.isLt; have := b.isLt; have := s.toNat_lt; have := c.isLt; change pk _ _ < _; simp only [pk, Slot.bytes]; omega)
theorem vsel (gu : Guard) (a b : GF) : Statement (.vsel gu a b) := ofSlot rfl rfl (by
  have := guardLt gu; have := a.isLt; have := b.isLt; change pk _ _ < _; simp only [pk, Slot.bytes]; omega)
theorem vrsum (gu : Guard) (a : GF) : Statement (.vrsum gu a) := ofSlot rfl rfl (by
  have := guardLt gu; have := a.isLt; change pk _ _ < _; simp only [pk, Slot.bytes]; omega)
theorem vrmax (gu : Guard) (a : GF) : Statement (.vrmax gu a) := ofSlot rfl rfl (by
  have := guardLt gu; have := a.isLt; change pk _ _ < _; simp only [pk, Slot.bytes]; omega)
theorem vargmax (gu : Guard) (a : GF) : Statement (.vargmax gu a) := ofSlot rfl rfl (by
  have := guardLt gu; have := a.isLt; change pk _ _ < _; simp only [pk, Slot.bytes]; omega)
theorem vscan (gu : Guard) (a : GF) : Statement (.vscan gu a) := ofSlot rfl rfl (by
  have := guardLt gu; have := a.isLt; change pk _ _ < _; simp only [pk, Slot.bytes]; omega)
theorem vdot (gu : Guard) (a b : GF) : Statement (.vdot gu a b) := ofSlot rfl rfl (by
  have := guardLt gu; have := a.isLt; have := b.isLt; change pk _ _ < _; simp only [pk, Slot.bytes]; omega)
theorem vperm (gu : Guard) (a b : GF) : Statement (.vperm gu a b) := ofSlot rfl rfl (by
  have := guardLt gu; have := a.isLt; have := b.isLt; change pk _ _ < _; simp only [pk, Slot.bytes]; omega)
theorem vgath (gu : Guard) (a b : GF) : Statement (.vgath gu a b) := ofSlot rfl rfl (by
  have := guardLt gu; have := a.isLt; have := b.isLt; change pk _ _ < _; simp only [pk, Slot.bytes]; omega)
theorem vscadd (gu : Guard) (a b : GF) : Statement (.vscadd gu a b) := ofSlot rfl rfl (by
  have := guardLt gu; have := a.isLt; have := b.isLt; change pk _ _ < _; simp only [pk, Slot.bytes]; omega)
theorem viadd (gu : Guard) (a b : GF) (s : Bool) : Statement (.viadd gu a b s) := ofSlot rfl rfl (by
  have := guardLt gu; have := a.isLt; have := b.isLt; have := s.toNat_lt; change pk _ _ < _; simp only [pk, Slot.bytes]; omega)
theorem vand (gu : Guard) (a b : GF) (s : Bool) : Statement (.vand gu a b s) := ofSlot rfl rfl (by
  have := guardLt gu; have := a.isLt; have := b.isLt; have := s.toNat_lt; change pk _ _ < _; simp only [pk, Slot.bytes]; omega)
theorem vor (gu : Guard) (a b : GF) (s : Bool) : Statement (.vor gu a b s) := ofSlot rfl rfl (by
  have := guardLt gu; have := a.isLt; have := b.isLt; have := s.toNat_lt; change pk _ _ < _; simp only [pk, Slot.bytes]; omega)
theorem vxor (gu : Guard) (a b : GF) (s : Bool) : Statement (.vxor gu a b s) := ofSlot rfl rfl (by
  have := guardLt gu; have := a.isLt; have := b.isLt; have := s.toNat_lt; change pk _ _ < _; simp only [pk, Slot.bytes]; omega)
theorem vshl (gu : Guard) (a b : GF) (s : Bool) : Statement (.vshl gu a b s) := ofSlot rfl rfl (by
  have := guardLt gu; have := a.isLt; have := b.isLt; have := s.toNat_lt; change pk _ _ < _; simp only [pk, Slot.bytes]; omega)
theorem vshr (gu : Guard) (a b : GF) (ar s : Bool) : Statement (.vshr gu a b ar s) := ofSlot rfl rfl (by
  have := guardLt gu; have := a.isLt; have := b.isLt; have := ar.toNat_lt; have := s.toNat_lt; change pk _ _ < _; simp only [pk, Slot.bytes]; omega)
theorem vsmax (gu : Guard) (a b : GF) : Statement (.vsmax gu a b) := ofSlot rfl rfl (by
  have := guardLt gu; have := a.isLt; have := b.isLt; change pk _ _ < _; simp only [pk, Slot.bytes]; omega)
theorem vrmsn (gu : Guard) (a b : GF) : Statement (.vrmsn gu a b) := ofSlot rfl rfl (by
  have := guardLt gu; have := a.isLt; have := b.isLt; change pk _ _ < _; simp only [pk, Slot.bytes]; omega)
theorem vrope (gu : Guard) (a b : GF) (h : Bool) : Statement (.vrope gu a b h) := ofSlot rfl rfl (by
  have := guardLt gu; have := a.isLt; have := b.isLt; have := h.toNat_lt; change pk _ _ < _; simp only [pk, Slot.bytes]; omega)
theorem vmaskw (gu : Guard) (a b : GF) (z n : Bool) : Statement (.vmaskw gu a b z n) := ofSlot rfl rfl (by
  have := guardLt gu; have := a.isLt; have := b.isLt; have := z.toNat_lt; have := n.toNat_lt; change pk _ _ < _; simp only [pk, Slot.bytes]; omega)
theorem tcwupd (gu : Guard) (a b : GF) : Statement (.tcwupd gu a b) := ofSlot rfl rfl (by
  have := guardLt gu; have := a.isLt; have := b.isLt; change pk _ _ < _; simp only [pk, Slot.bytes]; omega)
theorem tcwcnt (gu : Guard) (a : GF) : Statement (.tcwcnt gu a) := ofSlot rfl rfl (by
  have := guardLt gu; have := a.isLt; change pk _ _ < _; simp only [pk, Slot.bytes]; omega)
theorem vfence (gu : Guard) (s : BitVec 6) : Statement (.vfence gu s) := ofSlot rfl rfl (by
  have := guardLt gu; have := s.isLt; change pk _ _ < _; simp only [pk, Slot.bytes]; omega)
theorem vbsy (gu : Guard) (a : GF) : Statement (.vbsy gu a) := ofSlot rfl rfl (by
  have := guardLt gu; have := a.isLt; change pk _ _ < _; simp only [pk, Slot.bytes]; omega)
theorem mma (gu : Guard) (qa qb : Q) (acc : Acc) (z : Bool) (ks : BitVec 7) (ka kb : Bool) : Statement (.mma gu qa qb acc z ks ka kb) := ofSlot rfl rfl (by
  have := guardLt gu; have := qa.isLt; have := qb.isLt; have := acc.isLt; have := z.toNat_lt; have := ks.isLt; have := ka.toNat_lt; have := kb.toNat_lt; change pk _ _ < _; simp only [pk, Slot.bytes]; omega)
theorem mmabt (gu : Guard) (qa qb : Q) (acc : Acc) (z : Bool) (ks : BitVec 7) (ka kb : Bool) : Statement (.mmabt gu qa qb acc z ks ka kb) := ofSlot rfl rfl (by
  have := guardLt gu; have := qa.isLt; have := qb.isLt; have := acc.isLt; have := z.toNat_lt; have := ks.isLt; have := ka.toNat_lt; have := kb.toNat_lt; change pk _ _ < _; simp only [pk, Slot.bytes]; omega)
theorem mmasp (gu : Guard) (qa qb : Q) (acc : Acc) (z : Bool) (ks : BitVec 7) (ka kb : Bool) : Statement (.mmasp gu qa qb acc z ks ka kb) := ofSlot rfl rfl (by
  have := guardLt gu; have := qa.isLt; have := qb.isLt; have := acc.isLt; have := z.toNat_lt; have := ks.isLt; have := ka.toNat_lt; have := kb.toNat_lt; change pk _ _ < _; simp only [pk, Slot.bytes]; omega)
theorem mmacb (gu : Guard) (qa qb : Q) (acc : Acc) (z : Bool) (ks : BitVec 7) (ka kb : Bool) : Statement (.mmacb gu qa qb acc z ks ka kb) := ofSlot rfl rfl (by
  have := guardLt gu; have := qa.isLt; have := qb.isLt; have := acc.isLt; have := z.toNat_lt; have := ks.isLt; have := ka.toNat_lt; have := kb.toNat_lt; change pk _ _ < _; simp only [pk, Slot.bytes]; omega)
theorem mzero (gu : Guard) (acc : Acc) (kind : Bool) : Statement (.mzero gu acc kind) := ofSlot rfl rfl (by
  have := guardLt gu; have := acc.isLt; have := kind.toNat_lt; change pk _ _ < _; simp only [pk, Slot.bytes]; omega)
theorem mldacc (gu : Guard) (acc : Acc) (off : Off) (kind : Bool) : Statement (.mldacc gu acc off kind) := ofSlot rfl rfl (by
  have := guardLt gu; have := acc.isLt; have := off.isLt; have := kind.toNat_lt; change pk _ _ < _; simp only [pk, Slot.bytes]; omega)
theorem mdrain (gu : Guard) (acc : Acc) (dmask : BitVec 6) (off : Off) : Statement (.mdrain gu acc dmask off) := ofSlot rfl rfl (by
  have := guardLt gu; have := acc.isLt; have := dmask.isLt; have := off.isLt; change pk _ _ < _; simp only [pk, Slot.bytes]; omega)
theorem mdraina (gu : Guard) (acc : Acc) (off : Off) : Statement (.mdraina gu acc off) := ofSlot rfl rfl (by
  have := guardLt gu; have := acc.isLt; have := off.isLt; change pk _ _ < _; simp only [pk, Slot.bytes]; omega)
theorem mpop (gu : Guard) (qa qb : Q) (popA popB : Bool) : Statement (.mpop gu qa qb popA popB) := ofSlot rfl rfl (by
  have := guardLt gu; have := qa.isLt; have := qb.isLt; have := popA.toNat_lt; have := popB.toNat_lt; change pk _ _ < _; simp only [pk, Slot.bytes]; omega)
theorem mcbld (gu : Guard) (off : Off) : Statement (.mcbld gu off) := ofSlot rfl rfl (by
  have := guardLt gu; have := off.isLt; change pk _ _ < _; simp only [pk, Slot.bytes]; omega)
theorem mscl (gu : Guard) (off : Off) : Statement (.mscl gu off) := ofSlot rfl rfl (by
  have := guardLt gu; have := off.isLt; change pk _ _ < _; simp only [pk, Slot.bytes]; omega)
theorem mfence (gu : Guard) (slots : BitVec 6) : Statement (.mfence gu slots) := ofSlot rfl rfl (by
  have := guardLt gu; have := slots.isLt; change pk _ _ < _; simp only [pk, Slot.bytes]; omega)
theorem dcopy (gu : Guard) (card : GF) (ac : BitVec 6) : Statement (.dcopy gu card ac) := ofSlot rfl rfl (by
  have := guardLt gu; have := card.isLt; have := ac.isLt; change pk _ _ < _; simp only [pk, Slot.bytes]; omega)
theorem dmcast (gu : Guard) (card : GF) (mm : BitVec 4) (ac : BitVec 6) : Statement (.dmcast gu card mm ac) := ofSlot rfl rfl (by
  have := guardLt gu; have := card.isLt; have := mm.isLt; have := ac.isLt; change pk _ _ < _; simp only [pk, Slot.bytes]; omega)
theorem dgath (gu : Guard) (card : GF) (ac : BitVec 6) : Statement (.dgath gu card ac) := ofSlot rfl rfl (by
  have := guardLt gu; have := card.isLt; have := ac.isLt; change pk _ _ < _; simp only [pk, Slot.bytes]; omega)
theorem dscat (gu : Guard) (card : GF) (ac : BitVec 6) : Statement (.dscat gu card ac) := ofSlot rfl rfl (by
  have := guardLt gu; have := card.isLt; have := ac.isLt; change pk _ _ < _; simp only [pk, Slot.bytes]; omega)
theorem dscadd (gu : Guard) (card : GF) (ac : BitVec 6) : Statement (.dscadd gu card ac) := ofSlot rfl rfl (by
  have := guardLt gu; have := card.isLt; have := ac.isLt; change pk _ _ < _; simp only [pk, Slot.bytes]; omega)
theorem dred (gu : Guard) (card : GF) (ac : BitVec 6) : Statement (.dred gu card ac) := ofSlot rfl rfl (by
  have := guardLt gu; have := card.isLt; have := ac.isLt; change pk _ _ < _; simp only [pk, Slot.bytes]; omega)
theorem dbcast (gu : Guard) (card : GF) (ac : BitVec 6) : Statement (.dbcast gu card ac) := ofSlot rfl rfl (by
  have := guardLt gu; have := card.isLt; have := ac.isLt; change pk _ _ < _; simp only [pk, Slot.bytes]; omega)
theorem dallg (gu : Guard) (card : GF) (ac : BitVec 6) : Statement (.dallg gu card ac) := ofSlot rfl rfl (by
  have := guardLt gu; have := card.isLt; have := ac.isLt; change pk _ _ < _; simp only [pk, Slot.bytes]; omega)
theorem dembag (gu : Guard) (card : GF) (ac : BitVec 6) : Statement (.dembag gu card ac) := ofSlot rfl rfl (by
  have := guardLt gu; have := card.isLt; have := ac.isLt; change pk _ _ < _; simp only [pk, Slot.bytes]; omega)
theorem dstage (gu : Guard) (card : GF) (ac : BitVec 6) : Statement (.dstage gu card ac) := ofSlot rfl rfl (by
  have := guardLt gu; have := card.isLt; have := ac.isLt; change pk _ _ < _; simp only [pk, Slot.bytes]; omega)
theorem pack (gu : Guard) (card : GF) (ac : BitVec 6) : Statement (.pack gu card ac) := ofSlot rfl rfl (by
  have := guardLt gu; have := card.isLt; have := ac.isLt; change pk _ _ < _; simp only [pk, Slot.bytes]; omega)
theorem unpack (gu : Guard) (card : GF) (ac : BitVec 6) : Statement (.unpack gu card ac) := ofSlot rfl rfl (by
  have := guardLt gu; have := card.isLt; have := ac.isLt; change pk _ _ < _; simp only [pk, Slot.bytes]; omega)
theorem exn (gu : Guard) (card : GF) (ac : BitVec 6) : Statement (.exn gu card ac) := ofSlot rfl rfl (by
  have := guardLt gu; have := card.isLt; have := ac.isLt; change pk _ _ < _; simp only [pk, Slot.bytes]; omega)
theorem kvfill (gu : Guard) (card : GF) (ac : BitVec 6) : Statement (.kvfill gu card ac) := ofSlot rfl rfl (by
  have := guardLt gu; have := card.isLt; have := ac.isLt; change pk _ _ < _; simp only [pk, Slot.bytes]; omega)
theorem skfind (gu : Guard) (card : GF) (ac : BitVec 6) : Statement (.skfind gu card ac) := ofSlot rfl rfl (by
  have := guardLt gu; have := card.isLt; have := ac.isLt; change pk _ _ < _; simp only [pk, Slot.bytes]; omega)
theorem skput (gu : Guard) (card : GF) (ac : BitVec 6) : Statement (.skput gu card ac) := ofSlot rfl rfl (by
  have := guardLt gu; have := card.isLt; have := ac.isLt; change pk _ _ < _; simp only [pk, Slot.bytes]; omega)
theorem skrel (gu : Guard) (card : GF) (ac : BitVec 6) : Statement (.skrel gu card ac) := ofSlot rfl rfl (by
  have := guardLt gu; have := card.isLt; have := ac.isLt; change pk _ _ < _; simp only [pk, Slot.bytes]; omega)
theorem skpin (gu : Guard) (card : GF) (ac : BitVec 6) : Statement (.skpin gu card ac) := ofSlot rfl rfl (by
  have := guardLt gu; have := card.isLt; have := ac.isLt; change pk _ _ < _; simp only [pk, Slot.bytes]; omega)
theorem dfence (gu : Guard) (slots : BitVec 6) : Statement (.dfence gu slots) := ofSlot rfl rfl (by
  have := guardLt gu; have := slots.isLt; change pk _ _ < _; simp only [pk, Slot.bytes]; omega)
theorem ixwalk (gu : Guard) (card : GF) (ac : BitVec 6) : Statement (.ixwalk gu card ac) := ofSlot rfl rfl (by
  have := guardLt gu; have := card.isLt; have := ac.isLt; change pk _ _ < _; simp only [pk, Slot.bytes]; omega)
theorem ixsect (gu : Guard) (card : GF) (ac : BitVec 6) : Statement (.ixsect gu card ac) := ofSlot rfl rfl (by
  have := guardLt gu; have := card.isLt; have := ac.isLt; change pk _ _ < _; simp only [pk, Slot.bytes]; omega)
theorem ixpart (gu : Guard) (card : GF) (ac : BitVec 6) : Statement (.ixpart gu card ac) := ofSlot rfl rfl (by
  have := guardLt gu; have := card.isLt; have := ac.isLt; change pk _ _ < _; simp only [pk, Slot.bytes]; omega)
theorem pbr (gu : Guard) (b : BitVec 3) (m : BitVec 16) : Statement (.pbr gu b m) := ofSlot rfl rfl (by
  have := guardLt gu; have := b.isLt; have := m.isLt; change pk _ _ < _; simp only [pk, Slot.bytes]; omega)
theorem pbrr (gu : Guard) (n : BitVec 3) (a : GF) : Statement (.pbrr gu n a) := ofSlot rfl rfl (by
  have := guardLt gu; have := n.isLt; have := a.isLt; change pk _ _ < _; simp only [pk, Slot.bytes]; omega)
theorem br (gu : Guard) (b : BitVec 3) : Statement (.br gu b) := ofSlot rfl rfl (by
  have := guardLt gu; have := b.isLt; change pk _ _ < _; simp only [pk, Slot.bytes]; omega)
theorem brl (gu : Guard) (b l : BitVec 3) : Statement (.brl gu b l) := ofSlot rfl rfl (by
  have := guardLt gu; have := b.isLt; have := l.isLt; change pk _ _ < _; simp only [pk, Slot.bytes]; omega)
theorem loop (gu : Guard) (b : BitVec 3) (x : BitVec 2) : Statement (.loop gu b x) := ofSlot rfl rfl (by
  have := guardLt gu; have := b.isLt; have := x.isLt; change pk _ _ < _; simp only [pk, Slot.bytes]; omega)
theorem loopiImm (gu : Guard) (b : BitVec 3) (x : BitVec 2) (n : BitVec 15) : Statement (.loopiImm gu b x n) := ofSlot rfl rfl (by
  have := guardLt gu; have := b.isLt; have := x.isLt; have := n.isLt; change pk _ _ < _; simp only [pk, Slot.bytes]; omega)
theorem loopiReg (gu : Guard) (b : BitVec 3) (x : BitVec 2) (g : GF) : Statement (.loopiReg gu b x g) := ofSlot rfl rfl (by
  have := guardLt gu; have := b.isLt; have := x.isLt; have := g.isLt; change pk _ _ < _; simp only [pk, Slot.bytes]; omega)
theorem loopl (gu : Guard) (b : BitVec 3) (x : BitVec 2) (d : BitVec 7) : Statement (.loopl gu b x d) := ofSlot rfl rfl (by
  have := guardLt gu; have := b.isLt; have := x.isLt; have := d.isLt; change pk _ _ < _; simp only [pk, Slot.bytes]; omega)
theorem fmtw (gu : Guard) (h : Bool) (m : BitVec 16) : Statement (.fmtw gu h m) := ofSlot rfl rfl (by
  have := guardLt gu; have := h.toNat_lt; have := m.isLt; change pk _ _ < _; simp only [pk, Slot.bytes]; omega)
theorem fmtwg (gu : Guard) (a b : GF) : Statement (.fmtwg gu a b) := ofSlot rfl rfl (by
  have := guardLt gu; have := a.isLt; have := b.isLt; change pk _ _ < _; simp only [pk, Slot.bytes]; omega)
theorem waita (gu : Guard) (a b : GF) (s : Bool) (c : BitVec 3) : Statement (.waita gu a b s c) := ofSlot rfl rfl (by
  have := guardLt gu; have := a.isLt; have := b.isLt; have := s.toNat_lt; have := c.isLt; change pk _ _ < _; simp only [pk, Slot.bytes]; omega)
theorem susp (gu : Guard) : Statement (.susp gu) := ofSlot rfl rfl (by
  have := guardLt gu; change pk _ _ < _; simp only [pk, Slot.bytes]; omega)
theorem done (gu : Guard) : Statement (.done gu) := ofSlot rfl rfl (by
  have := guardLt gu; change pk _ _ < _; simp only [pk, Slot.bytes]; omega)
theorem barr (gu : Guard) (n : BitVec 3) : Statement (.barr gu n) := ofSlot rfl rfl (by
  have := guardLt gu; have := n.isLt; change pk _ _ < _; simp only [pk, Slot.bytes]; omega)
theorem sync (gu : Guard) (m : GF) : Statement (.sync gu m) := ofSlot rfl rfl (by
  have := guardLt gu; have := m.isLt; change pk _ _ < _; simp only [pk, Slot.bytes]; omega)
theorem trap (gu : Guard) (c : BitVec 12) : Statement (.trap gu c) := ofSlot rfl rfl (by
  have := guardLt gu; have := c.isLt; change pk _ _ < _; simp only [pk, Slot.bytes]; omega)
theorem sigc (gu : Guard) (a b : GF) (s : Bool) (c : BitVec 3) : Statement (.sigc gu a b s c) := ofSlot rfl rfl (by
  have := guardLt gu; have := a.isLt; have := b.isLt; have := s.toNat_lt; have := c.isLt; change pk _ _ < _; simp only [pk, Slot.bytes]; omega)
theorem tspawn (gu : Guard) (d a : GF) : Statement (.tspawn gu d a) := ofSlot rfl rfl (by
  have := guardLt gu; have := d.isLt; have := a.isLt; change pk _ _ < _; simp only [pk, Slot.bytes]; omega)
theorem crspawn (gu : Guard) (d a b : GF) : Statement (.crspawn gu d a b) := ofSlot rfl rfl (by
  have := guardLt gu; have := d.isLt; have := a.isLt; have := b.isLt; change pk _ _ < _; simp only [pk, Slot.bytes]; omega)
theorem glnch (gu : Guard) (d a : GF) : Statement (.glnch gu d a) := ofSlot rfl rfl (by
  have := guardLt gu; have := d.isLt; have := a.isLt; change pk _ _ < _; simp only [pk, Slot.bytes]; omega)
theorem gtok (gu : Guard) (d a b : GF) : Statement (.gtok gu d a b) := ofSlot rfl rfl (by
  have := guardLt gu; have := d.isLt; have := a.isLt; have := b.isLt; change pk _ _ < _; simp only [pk, Slot.bytes]; omega)
theorem gstat (gu : Guard) (d a b : GF) (n : Bool) : Statement (.gstat gu d a b n) := ofSlot rfl rfl (by
  have := guardLt gu; have := d.isLt; have := a.isLt; have := b.isLt; have := n.toNat_lt; change pk _ _ < _; simp only [pk, Slot.bytes]; omega)
theorem teamq (gu : Guard) (d a : GF) (t : Bool) : Statement (.teamq gu d a t) := ofSlot rfl rfl (by
  have := guardLt gu; have := d.isLt; have := a.isLt; have := t.toNat_lt; change pk _ _ < _; simp only [pk, Slot.bytes]; omega)
theorem sysrd (gu : Guard) (d : GF) (x : BitVec 12) : Statement (.sysrd gu d x) := ofSlot rfl rfl (by
  have := guardLt gu; have := d.isLt; have := x.isLt; change pk _ _ < _; simp only [pk, Slot.bytes]; omega)
theorem syswr (gu : Guard) (d : GF) (x : BitVec 12) : Statement (.syswr gu d x) := ofSlot rfl rfl (by
  have := guardLt gu; have := d.isLt; have := x.isLt; change pk _ _ < _; simp only [pk, Slot.bytes]; omega)
theorem eret (gu : Guard) (b : BitVec 3) : Statement (.eret gu b) := ofSlot rfl rfl (by
  have := guardLt gu; have := b.isLt; change pk _ _ < _; simp only [pk, Slot.bytes]; omega)
theorem tlbdrn (gu : Guard) (d a b : GF) (c : Bool) : Statement (.tlbdrn gu d a b c) := ofSlot rfl rfl (by
  have := guardLt gu; have := d.isLt; have := a.isLt; have := b.isLt; have := c.toNat_lt; change pk _ _ < _; simp only [pk, Slot.bytes]; omega)
theorem tlbcnf (gu : Guard) : Statement (.tlbcnf gu) := ofSlot rfl rfl (by
  have := guardLt gu; change pk _ _ < _; simp only [pk, Slot.bytes]; omega)
theorem leaseg (gu : Guard) (d a b : GF) : Statement (.leaseg gu d a b) := ofSlot rfl rfl (by
  have := guardLt gu; have := d.isLt; have := a.isLt; have := b.isLt; change pk _ _ < _; simp only [pk, Slot.bytes]; omega)
theorem cinv (gu : Guard) (a b : GF) (k : BitVec 2) : Statement (.cinv gu a b k) := ofSlot rfl rfl (by
  have := guardLt gu; have := a.isLt; have := b.isLt; have := k.isLt; change pk _ _ < _; simp only [pk, Slot.bytes]; omega)
theorem prmt (gu : Guard) (d a b : GF) : Statement (.prmt gu d a b) := ofSlot rfl rfl (by
  have := guardLt gu; have := d.isLt; have := a.isLt; have := b.isLt; change pk _ _ < _; simp only [pk, Slot.bytes]; omega)
theorem hint (gu : Guard) (a : GF) : Statement (.hint gu a) := ofSlot rfl rfl (by
  have := guardLt gu; have := a.isLt; change pk _ _ < _; simp only [pk, Slot.bytes]; omega)
theorem hset (d : H) (imm : BitVec 48) : Statement (.hset d imm) := ofMicro rfl (by
  have := d.isLt; have := imm.isLt; change pk _ _ < _; simp only [pk]; omega)
theorem hadd (d a b : H) (imm : W32) : Statement (.hadd d a b imm) := ofMicro rfl (by
  have := d.isLt; have := a.isLt; have := b.isLt; have := imm.isLt; change pk _ _ < _; simp only [pk]; omega)
theorem hjmp (c : BitVec 2) (a : H) (tgt : BitVec 10) : Statement (.hjmp c a tgt) := ofMicro rfl (by
  have := c.isLt; have := a.isLt; have := tgt.isLt; change pk _ _ < _; simp only [pk]; omega)
theorem hloop (a : H) (tgt : BitVec 10) : Statement (.hloop a tgt) := ofMicro rfl (by
  have := a.isLt; have := tgt.isLt; change pk _ _ < _; simp only [pk]; omega)
theorem agld (n : BitVec 3) (a : H) : Statement (.agld n a) := ofMicro rfl (by
  have := n.isLt; have := a.isLt; change pk _ _ < _; simp only [pk]; omega)
theorem kvrd (kv : Bool) (n : BitVec 3) (q : Q) (boff : BitVec 16) (blen : Byte) (adv : Bool) (cnt : BitVec 7) : Statement (.kvrd kv n q boff blen adv cnt) := ofMicro rfl (by
  have := kv.toNat_lt; have := n.isLt; have := q.isLt; have := boff.isLt; have := blen.isLt; have := adv.toNat_lt; have := cnt.isLt; change pk _ _ < _; simp only [pk]; omega)
theorem mxi (op : BitVec 7) (mx : BitVec 53) : Statement (.mxi op mx) := ofMicro rfl (by
  have := op.isLt; have := mx.isLt; change pk _ _ < _; simp only [pk]; omega)
theorem smax (q : Q) (a b w : H) (mk : Bool) (cnt : BitVec 7) : Statement (.smax q a b w mk cnt) := ofMicro rfl (by
  have := q.isLt; have := a.isLt; have := b.isLt; have := w.isLt; have := mk.toNat_lt; have := cnt.isLt; change pk _ _ < _; simp only [pk]; omega)
theorem resc (acc : Acc) (a : H) : Statement (.resc acc a) := ofMicro rfl (by
  have := acc.isLt; have := a.isLt; change pk _ _ < _; simp only [pk]; omega)
theorem norm (acc : Acc) (a : H) : Statement (.norm acc a) := ofMicro rfl (by
  have := acc.isLt; have := a.isLt; change pk _ _ < _; simp only [pk]; omega)
theorem rope (a b c : H) (half : Bool) (d : BitVec 10) (rows : BitVec 7) : Statement (.rope a b c half d rows) := ofMicro rfl (by
  have := a.isLt; have := b.isLt; have := c.isLt; have := half.toNat_lt; have := d.isLt; have := rows.isLt; change pk _ _ < _; simp only [pk]; omega)
theorem djob (a : H) (mm : BitVec 4) (ac : BitVec 6) : Statement (.djob a mm ac) := ofMicro rfl (by
  have := a.isLt; have := mm.isLt; have := ac.isLt; change pk _ _ < _; simp only [pk]; omega)
theorem waitw (c : BitVec 2) (a b : H) : Statement (.waitw c a b) := ofMicro rfl (by
  have := c.isLt; have := a.isLt; have := b.isLt; change pk _ _ < _; simp only [pk]; omega)
theorem sigw (sc : BitVec 3) (a b : H) : Statement (.sigw sc a b) := ofMicro rfl (by
  have := sc.isLt; have := a.isLt; have := b.isLt; change pk _ _ < _; simp only [pk]; omega)
theorem mcmb (acc : Acc) (a b c : H) : Statement (.mcmb acc a b c) := ofMicro rfl (by
  have := acc.isLt; have := a.isLt; have := b.isLt; have := c.isLt; change pk _ _ < _; simp only [pk]; omega)
theorem halt : Statement .halt := ofMicro rfl (by
  change pk _ _ < _; simp only [pk]; omega)
theorem bundleDispatch : Statement .bundleDispatch := ofEvent rfl rfl
theorem pickerPreemptContext (core : Nat) : Statement (.pickerPreemptContext core) := ofEvent rfl rfl
theorem writeApplyAtDie (die src : Nat) : Statement (.writeApplyAtDie die src) := ofEvent rfl rfl
theorem strongOperationAtHome (src : Byte) (op : StrongOp) (pa : BitVec 52) (wide uns : Bool) (v : Word × Word) : Statement (.strongOperationAtHome src op pa wide uns v) := ofEvent rfl rfl
theorem loadBlockFillComplete (cont blk : Nat) : Statement (.loadBlockFillComplete cont blk) := ofEvent rfl rfl
theorem pageWalkComplete (die task : Nat) (va : Word) : Statement (.pageWalkComplete die task va) := ofEvent rfl rfl
theorem translationComplete (cont n : Nat) : Statement (.translationComplete cont n) := ofEvent rfl rfl
theorem vectorCommandCompletion (cont : Nat) : Statement (.vectorCommandCompletion cont) := ofEvent rfl rfl
theorem jobChannelStart (die : Nat) : Statement (.jobChannelStart die) := ofEvent rfl rfl
theorem jobCompletion (job : Nat) : Statement (.jobCompletion job) := ofEvent rfl rfl
theorem followOnIssue (job : Nat) : Statement (.followOnIssue job) := ofEvent rfl rfl
theorem arrayEntry (cont : Nat) : Statement (.arrayEntry cont) := ofEvent rfl rfl
theorem matrixCommandRetire (cont : Nat) : Statement (.matrixCommandRetire cont) := ofEvent rfl rfl
theorem exitNoticeReceive (die : Nat) (ext : Option Word) : Statement (.exitNoticeReceive die ext) := ofEvent rfl rfl
theorem exitStateArrival (die : Nat) (ext : Option (Word × List Byte × Bool)) : Statement (.exitStateArrival die ext) := ofEvent rfl rfl
theorem exnRefusal (job : Nat) : Statement (.exnRefusal job) := ofEvent rfl rfl
theorem attentionReadRequest (waiter slot layer first count : Nat) : Statement (.attentionReadRequest waiter slot layer first count) := ofEvent rfl rfl
theorem darnFill (slot layer pos : Nat) : Statement (.darnFill slot layer pos) := ofEvent rfl rfl
theorem darnFillComplete (slot layer pos : Nat) : Statement (.darnFillComplete slot layer pos) := ofEvent rfl rfl
theorem fillTimeout (waiter pos : Nat) : Statement (.fillTimeout waiter pos) := ofEvent rfl rfl
theorem stagingBufferSelect (job : Nat) : Statement (.stagingBufferSelect job) := ofEvent rfl rfl
theorem skeinOperationExecute : Statement .skeinOperationExecute := ofEvent rfl rfl
theorem sqstartWrite (v : Word) : Statement (.sqstartWrite v) := ofEvent rfl rfl
theorem sqcsdWrite (v : Word) : Statement (.sqcsdWrite v) := ofEvent rfl rfl
theorem sqcsdRead (d : GF) : Statement (.sqcsdRead d) := ofEvent rfl rfl
theorem rxregWrite (n : BitVec 6) (v : Word) : Statement (.rxregWrite n v) := ofEvent rfl rfl
theorem registerWrite (ld die idx : Nat) (v : Word) : Statement (.registerWrite ld die idx v) := ofEvent rfl rfl
theorem doorbell (ld q : Nat) (tail : W32) : Statement (.doorbell ld q tail) := ofEvent rfl rfl
theorem completionHeadWrite (ld q : Nat) (head : W32) : Statement (.completionHeadWrite ld q head) := ofEvent rfl rfl
theorem submitTask (q : Nat) : Statement (.submitTask q) := ofEvent rfl rfl
theorem submitGraphReplay (q : Nat) : Statement (.submitGraphReplay q) := ofEvent rfl rfl
theorem patchCommit (q : Nat) : Statement (.patchCommit q) := ofEvent rfl rfl
theorem spawnAnswer (cont : Nat) : Statement (.spawnAnswer cont) := ofEvent rfl rfl
theorem replayStart (graph : Nat) : Statement (.replayStart graph) := ofEvent rfl rfl
theorem patchAreaCopyDone (graph : Nat) : Statement (.patchAreaCopyDone graph) := ofEvent rfl rfl
theorem taskOrderingRelease (task : Nat) : Statement (.taskOrderingRelease task) := ofEvent rfl rfl
theorem taskLeasing (task : Nat) : Statement (.taskLeasing task) := ofEvent rfl rfl
theorem teamDispatch (die : Nat) : Statement (.teamDispatch die) := ofEvent rfl rfl
theorem teamSwapOut (task team : Nat) : Statement (.teamSwapOut task team) := ofEvent rfl rfl
theorem teamSwapIn (task team : Nat) : Statement (.teamSwapIn task team) := ofEvent rfl rfl
theorem sliceQuantumExpiry (die : Nat) : Statement (.sliceQuantumExpiry die) := ofEvent rfl rfl
theorem swapAbandonTimeout (task team : Nat) : Statement (.swapAbandonTimeout task team) := ofEvent rfl rfl
theorem taskCompletion (task : Nat) : Statement (.taskCompletion task) := ofEvent rfl rfl
theorem deadlineOverrun (task : Nat) : Statement (.deadlineOverrun task) := ofEvent rfl rfl
theorem stopBegin (ctx : BitVec 12) : Statement (.stopBegin ctx) := ofEvent rfl rfl
theorem stopResume : Statement .stopResume := ofEvent rfl rfl
theorem stopSourcesStopped : Statement .stopSourcesStopped := ofEvent rfl rfl
theorem stopDrainComplete : Statement .stopDrainComplete := ofEvent rfl rfl
theorem stopDrainTimeout : Statement .stopDrainTimeout := ofEvent rfl rfl
theorem bobbinTokenArrival (gen : W32) (loads : List (Nat × Byte)) (reqs : List StealReq) : Statement (.bobbinTokenArrival gen loads reqs) := ofEvent rfl rfl
theorem bobholdExpiry : Statement .bobholdExpiry := ofEvent rfl rfl
theorem bobbinTokenRegeneration (reach : Nat) : Statement (.bobbinTokenRegeneration reach) := ofEvent rfl rfl
theorem stolenTeamArrival (origin die tag size : Nat) : Statement (.stolenTeamArrival origin die tag size) := ofEvent rfl rfl
theorem stealAcknowledge (task team : Nat) : Statement (.stealAcknowledge task team) := ofEvent rfl rfl
theorem stolenTeamAccess (task team rank : Nat) (acc : GuestAcc) (va : Word) (size : Nat) (v : Word) : Statement (.stolenTeamAccess task team rank acc va size v) := ofEvent rfl rfl
theorem hostCxlMemWrite (pa : Nat) (bytes : List Byte) : Statement (.hostCxlMemWrite pa bytes) := ofEvent rfl rfl
theorem hostCxlMemRead (pa n : Nat) : Statement (.hostCxlMemRead pa n) := ofEvent rfl rfl
theorem qctlEnable (q : BitVec 11) : Statement (.qctlEnable q) := ofEvent rfl rfl
theorem qctlDisable (q : BitVec 11) : Statement (.qctlDisable q) := ofEvent rfl rfl
theorem powerGood : Statement .powerGood := ofEvent rfl rfl
theorem powerLost : Statement .powerLost := ofEvent rfl rfl
theorem fwcmdAuthenticate : Statement .fwcmdAuthenticate := ofEvent rfl rfl
theorem authenticationComplete (result : FwResult) : Statement (.authenticationComplete result) := ofEvent rfl rfl
theorem stage1Complete (fail : Option (Byte × Word)) : Statement (.stage1Complete fail) := ofEvent rfl rfl
theorem stage2Complete (fail : Option Word) (ebnas : BitVec 16) : Statement (.stage2Complete fail ebnas) := ofEvent rfl rfl
theorem scrunStart (v : Word) : Statement (.scrunStart v) := ofEvent rfl rfl
theorem mrstModuleReset (v : Word) : Statement (.mrstModuleReset v) := ofEvent rfl rfl
theorem cxlReset : Statement .cxlReset := ofEvent rfl rfl
theorem drstDieReset (die : Nat) : Statement (.drstDieReset die) := ofEvent rfl rfl
theorem dieResetComplete (die : Nat) : Statement (.dieResetComplete die) := ofEvent rfl rfl
theorem migreqClaim (host : Bool) (page : BitVec 36) : Statement (.migreqClaim host page) := ofEvent rfl rfl
theorem migreqCommit (host : Bool) (page : BitVec 36) : Statement (.migreqCommit host page) := ofEvent rfl rfl
theorem migreqRelease (host : Bool) (page : BitVec 36) : Statement (.migreqRelease host page) := ofEvent rfl rfl
theorem powerWindowCheck (die watts temp : Nat) : Statement (.powerWindowCheck die watts temp) := ofEvent rfl rfl
theorem thermalTrip (die : Nat) : Statement (.thermalTrip die) := ofEvent rfl rfl
theorem correctedError (domain : Nat) : Statement (.correctedError domain) := ofEvent rfl rfl
theorem uncorrectableError (place : ErrorPlace) : Statement (.uncorrectableError place) := ofEvent rfl rfl
theorem podLinkDown (port : Nat) (trainingLost : Bool) : Statement (.podLinkDown port trainingLost) := ofEvent rfl rfl
theorem ebnasPortTimeout (chip : Nat) : Statement (.ebnasPortTimeout chip) := ofEvent rfl rfl
theorem firmwareWindowWrite (ld off : Nat) (v : Word) : Statement (.firmwareWindowWrite ld off v) := ofEvent rfl rfl

end Sys2Proof.Laws.Fits
end

