-- ==== Sys2Proof/Tests/Slice0.lean ====
section
/-! SUPPORT. The model's own tests: terms the legality check refuses, words of the manual's encodings and what they decode to,
single steps against the manual's worked examples, and for each statement's hypotheses a state that meets them. -/

set_option Elab.async false

namespace Sys2Proof.Tests
open Sys2Proof.Machine

/-! ### Small states -/

/-- The guard every instruction passes. -/
def gu0 : Guard := ⟨0, false⟩

/-- One continuation in the middle of a bundle of one slot. -/
def placed (x : Slot) (f : Cont → Cont) : State :=
  let s := State.reset.withFetchWord 32 0
  { s with m := { s.m with cur := f (placedCont (some (placedCursor x))) } }

/-- The same in user mode with a handler, so that a report is taken by the handler; its task has gone, so that no save area is
written. -/
def inUser (c : Cont) : Cont := { c with sysMode := false, tvec := 0x5000, task := 99 }

/-- A state whose continuation is so. -/
def onUser (s : State) : State := { s with m := { s.m with cur := inUser s.m.cur } }

/-- Values in general registers. -/
def regs (l : List (Nat × Nat)) (c : Cont) : Cont := { c with g := l.foldl (fun v p => vset v p.1 (toW p.2)) c.g }

/-- Bytes in the continuation's window. -/
def withSpad (s : State) (l : List (Nat × List Byte)) : State :=
  { s with m := { s.m with mem := { s.m.mem with spad := l.foldl (fun m p => m.puts (skey 0 p.1) p.2) s.m.mem.spad } } }

/-- Bytes of memory as die 0 sees them. -/
def withBytes (s : State) (l : List (Nat × List Byte)) : State :=
  { s with m := { s.m with mem := { s.m.mem with view := l.foldl (fun m p => m.puts p.1 p.2) s.m.mem.view } } }

/-- The state an instruction ends in. -/
def after (i : Instr) (s : State) : Option State := match exec i s with
  | .next t => some t
  | _ => none

/-- A general register after an instruction. -/
def gAfter (i : Instr) (s : State) (k : Nat) : Option Nat := (after i s).map fun t => (vget t.m.cur.g k 0).toNat

/-- A predicate after an instruction. -/
def pAfter (i : Instr) (s : State) (k : Nat) : Option Bool := (after i s).map fun t => t.m.cur.pred k

/-- The flags after an instruction. -/
def flagsAfter (i : Instr) (s : State) : Option Nat := (after i s).map fun t => t.m.cur.flags.toNat

/-- The number of bytes of memory, as die 0 sees it. -/
def memAfter (i : Instr) (s : State) (pa n : Nat) : Option Nat := (after i s).map fun t => leNat (t.m.mem.read 0 pa n)

/-- The number of bytes of the window. -/
def winAfter (i : Instr) (s : State) (o n : Nat) : Option Nat := (after i s).map fun t => leNat (t.m.winRead t.m.cur o n)

/-- The bytes the last vector command in flight writes. -/
def vAfter (i : Instr) (s : State) : Option (List Byte) := (after i s).bind fun t =>
  t.m.cur.vpend.getLast?.map fun v => (v.writes.map fun w => w.bytes).flatten

/-- The cause, the slot and the pc after a report taken by the handler. -/
def causeAfter (i : Instr) (s : State) : Option (Nat × Nat × Nat) := (after i s).map fun t =>
  (t.m.cur.tcause.toNat, t.m.cur.fslot.toNat, t.m.cur.pc.toNat)

/-- A vector command at VL = n with its operand words and fmt. -/
def vec (n fmt ga gb : Nat) : State :=
  placed .v fun c => { regs [(5, ga), (6, gb)] c with groupVl := BitVec.ofNat 16 n, fmt := BitVec.ofNat 32 fmt }

/-- Elements of z bytes, little-endian. -/
def elems (z : Nat) (l : List Nat) : List Byte := (l.map (leBytes z)).flatten

/-! ### Terms the legality check refuses -/

theorem test_illformed_stream_operand : (Instr.vadd gu0 24 6 false).wf = false ∧ (Instr.vadd gu0 5 31 false).wf = false ∧
    (Instr.vabs gu0 24 false).wf = false ∧ (Instr.dcopy gu0 24 0).wf = false ∧ (Instr.dmcast gu0 31 1 0).wf = false := by decide
theorem test_illformed_vsetl : (Instr.vsetlReg gu0 0).wf = false ∧ (Instr.vsetlReg gu0 24).wf = true := by decide
theorem test_illformed_qadv : (Instr.qadv gu0 1 0 false true 0).wf = false ∧ (Instr.qadv gu0 1 0 false true 129).wf = false ∧
    (Instr.qadv gu0 1 0 true true 1).wf = false ∧ (Instr.qadv gu0 1 7 false false 1).wf = false := by decide
theorem test_illformed_multiply : (Instr.mma gu0 3 3 0 true 96 false false).wf = false ∧ (Instr.mma gu0 1 2 0 true 0 false false).wf = false ∧
    (Instr.mmabt gu0 1 2 0 true 97 false false).wf = false ∧ (Instr.mmasp gu0 1 2 0 true 49 false false).wf = false ∧
    (Instr.mmacb gu0 1 2 0 true 3 false false).wf = false := by decide
theorem test_illformed_drain : (Instr.mdrain gu0 1 0 0x40).wf = false ∧ (Instr.mdrain gu0 1 0x10 0x40).wf = false := by decide
theorem test_illformed_mpop : (Instr.mpop gu0 0 0 false false).wf = false ∧ (Instr.mpop gu0 1 2 false true).wf = false ∧
    (Instr.mpop gu0 1 2 true false).wf = false := by decide
theorem test_illformed_loopl : (Instr.loopl gu0 1 1 0).wf = false ∧ (Instr.loopl gu0 1 1 65).wf = false := by decide
theorem test_illformed_waita : (Instr.waita gu0 5 6 false 5).wf = false := by decide
theorem test_illformed_unused : (Instr.gstat gu0 7 5 6 false).wf = false ∧ (Instr.teamq gu0 7 5 true).wf = false ∧
    (Instr.tlbdrn gu0 7 5 6 false).wf = false := by decide
theorem test_illformed_sysreg : (Instr.sysrd gu0 5 0x004).wf = false ∧ (Instr.syswr gu0 5 0x205).wf = false ∧
    (Instr.syswr gu0 5 0x618).wf = false := by decide
theorem test_illformed_kvrd : (Instr.kvrd false 0 0 0 0 false 1).wf = false ∧ (Instr.kvrd false 0 0 0 1 false 0).wf = false ∧
    (Instr.kvrd false 0 0 0 1 false 65).wf = false := by decide
theorem test_illformed_smax : (Instr.smax 0 1 2 3 false 0).wf = false ∧ (Instr.smax 0 1 2 3 false 65).wf = false := by decide
theorem test_illformed_rope : (Instr.rope 1 2 3 false 3 1).wf = false ∧ (Instr.rope 1 2 3 false 0 1).wf = false ∧
    (Instr.rope 1 2 3 false 514 1).wf = false ∧ (Instr.rope 1 2 3 false 2 0).wf = false ∧ (Instr.rope 1 2 3 false 2 65).wf = false := by decide

/-! ### Words that are no instruction -/

theorem test_reserved_opcodes : decode .s0 (0x3F * 2 ^ 25) = none ∧ decode .a (0x29 * 2 ^ 25) = none ∧ decode .v (0x33 * 2 ^ 25) = none ∧
    decode .m (0x0C * 2 ^ 57) = none ∧ decode .d (0x16 * 2 ^ 57) = none ∧ decode .k (0x1F * 2 ^ 25) = none := by decide +kernel
theorem test_unused_bits : decode .s0 0x00053001 = none ∧ decode .v 0x06053001 = none ∧ decode .d 0x000C002400000001 = none ∧
    decode .k 0x04040001 = none ∧ decodeSeq 0xF000000000000001 = none := by decide +kernel

/-! ### The words the manual works out (R131, R138, R149, R150, R158, R163, R164, R214, R218, R248, R255, R258, R267, R312) -/

theorem test_manual_words_scalar : decode .s0 0x000531C0 = some (.add gu0 5 6 7) ∧ decode .s1 0x50032980 = some (.cmplt gu0 3 5 6) ∧
    decode .s0 0x600531C1 = some (.fadd gu0 5 6 7 true) := by decide +kernel
theorem test_manual_words_memory : decode .a 0x0C084802 = some (.ldd gu0 8 9 2) ∧ decode .a 0x16074801 = some (.std gu0 7 9 1) ∧
    decode .a 0x220531CB = some (.amoadd gu0 5 6 7 false true 3) ∧ decode .a 0x34000036 = some (.fence gu0 3 6) ∧
    decode .a 0x48013A01 = some (.qadv gu0 1 7 true false 1) := by decide +kernel
theorem test_manual_words_vector : decode .v 0x06053000 = some (.vadd gu0 5 6 false) ∧
    decode .v 0x02150400 = some (.vmov gu0 21 0 true) := by decide +kernel
theorem test_manual_words_matrix : decode .m 0x0002470000000002 = some (.mma gu0 1 2 0 true 96 false true) ∧
    decode .m 0x0C00080003008000 = some (.mdrain gu0 1 3 0x8000) ∧ decode .m 0x0200248000000000 = some (.mmabt gu0 0 1 0 true 16 false false) ∧
    decode .m 0x0C00000010000000 = some (.mdrain gu0 0 0x10 0) := by decide +kernel
theorem test_manual_words_copy : decode .d 0x000C002400000000 = some (.dcopy gu0 12 9) ∧
    decode .d 0x020C0E0000000000 = some (.dmcast gu0 12 0xE 0) ∧ decode .d 0x0411000000000000 = some (.dgath gu0 17 0) ∧
    decode .d 0x260E000000000000 = some (.ixwalk gu0 14 0) := by decide +kernel
theorem test_manual_words_control : decode .k 0x0008000A = some (.pbr gu0 2 10) ∧ decode .k 0x00040004 = some (.pbr gu0 1 4) ∧
    decode .k 0x0A090003 = some (.loopiImm gu0 2 1 3) ∧ decode .k 0x08050000 = some (.loop gu0 1 1) ∧
    decode .k 0x04040000 = some (.br gu0 1) ∧ decode .k 0x0E001133 = some (.fmtw gu0 false 0x1133) ∧
    decode .k 0x12006340 = some (.waita gu0 12 13 false 0) := by decide +kernel
theorem test_manual_words_system : decode .k 0x20053000 = some (.tspawn gu0 5 6) ∧ decode .k 0x24074000 = some (.glnch gu0 7 8) ∧
    decode .k 0x2C050200 = some (.sysrd gu0 5 0x200) ∧ decode .k 0x300C0000 = some (.eret gu0 3) := by decide +kernel
theorem test_manual_words_sequencer : decodeSeq 0x0100000000000040 = some (.hset 1 64) ∧
    decodeSeq 0x3030000000000005 = some (.hloop 3 5) := by decide +kernel

/-! ### Words of every instruction, field by field -/

/-- Words of the S slots (R131, R138, R142 to R146), field by field, and what they stand for. -/
def wordsS0 : List (Nat × Instr) :=
  [(0x00E72E40, .add ⟨3, true⟩ 7 5 25), (0x02E72E40, .sub ⟨3, true⟩ 7 5 25), (0x08E72E40, .mul ⟨3, true⟩ 7 5 25),
   (0x0AE72E40, .mulh ⟨3, true⟩ 7 5 25), (0x0CE72E40, .mulhu ⟨3, true⟩ 7 5 25), (0x0EE72E40, .madd ⟨3, true⟩ 7 5
   25), (0x10E72E40, .div ⟨3, true⟩ 7 5 25), (0x12E72E40, .divu ⟨3, true⟩ 7 5 25), (0x14E72E40, .rem ⟨3, true⟩ 7 5
   25), (0x16E72E40, .remu ⟨3, true⟩ 7 5 25), (0x18E72E40, .min ⟨3, true⟩ 7 5 25), (0x1AE72E40, .max ⟨3, true⟩ 7 5
   25), (0x1CE72E40, .minu ⟨3, true⟩ 7 5 25), (0x1EE72E40, .maxu ⟨3, true⟩ 7 5 25), (0x20E72E40, .and ⟨3, true⟩ 7 5
   25), (0x22E72E40, .or ⟨3, true⟩ 7 5 25), (0x24E72E40, .xor ⟨3, true⟩ 7 5 25), (0x26E72E40, .andn ⟨3, true⟩ 7 5
   25), (0x2EE72E40, .sll ⟨3, true⟩ 7 5 25), (0x30E72E40, .srl ⟨3, true⟩ 7 5 25)]

/-- Words of the S slots (R131, R138, R142 to R146), field by field, and what they stand for. -/
def wordsS1 : List (Nat × Instr) :=
  [(0x32E72E40, .sra ⟨3, true⟩ 7 5 25), (0x3AE72E40, .ror ⟨3, true⟩ 7 5 25), (0x44E72E40, .bins ⟨3, true⟩ 7 5 25),
   (0x04072FFE, .addi ⟨0, false⟩ 7 5 0x7FE), (0x28072FFE, .andi ⟨0, false⟩ 7 5 0x7FE), (0x2A072FFE, .ori ⟨0, false⟩
   7 5 0x7FE), (0x2C072FFE, .xori ⟨0, false⟩ 7 5 0x7FE), (0x060729AA, .addsh ⟨0, false⟩ 7 5 6 0x2A), (0x3407283F,
   .slli ⟨0, false⟩ 7 5 63), (0x3607283F, .srli ⟨0, false⟩ 7 5 63), (0x3807283F, .srai ⟨0, false⟩ 7 5 63),
   (0x3C072800, .clz ⟨0, false⟩ 7 5), (0x3E072800, .ctz ⟨0, false⟩ 7 5), (0x40072800, .popc ⟨0, false⟩ 7 5),
   (0x42072981, .bext ⟨0, false⟩ 7 5 6 true), (0x46078001, .movi ⟨0, false⟩ 7 0x8001), (0x48471234, .movk 2 7
   0x1234), (0x4A072983, .sel ⟨0, false⟩ 7 5 6 3), (0x4C032980, .cmpeq ⟨0, false⟩ 3 5 6), (0x4E032980, .cmpne ⟨0,
   false⟩ 3 5 6)]

/-- Words of the S slots (R131, R138, R142 to R146), field by field, and what they stand for. -/
def wordsS2 : List (Nat × Instr) :=
  [(0x50032980, .cmplt ⟨0, false⟩ 3 5 6), (0x52032980, .cmpltu ⟨0, false⟩ 3 5 6), (0x54032980, .cmpge ⟨0, false⟩ 3 5
   6), (0x56032980, .cmpgeu ⟨0, false⟩ 3 5 6), (0x58032C00, .cmpeqi ⟨0, false⟩ 3 5 0x400), (0x5A032C00, .cmplti ⟨0,
   false⟩ 3 5 0x400), (0x5C0110C8, .plog ⟨0, false⟩ 1 2 3 8), (0x5E070000, .movpGet ⟨0, false⟩ 7), (0x5E002801,
   .movpSet ⟨0, false⟩ 5), (0x60072981, .fadd ⟨0, false⟩ 7 5 6 true), (0x62072981, .fsub ⟨0, false⟩ 7 5 6 true),
   (0x64072981, .fmul ⟨0, false⟩ 7 5 6 true), (0x66072981, .ffma ⟨0, false⟩ 7 5 6 true), (0x68072981, .fdiv ⟨0,
   false⟩ 7 5 6 true), (0x6C072981, .fmin ⟨0, false⟩ 7 5 6 true), (0x6E072981, .fmax ⟨0, false⟩ 7 5 6 true),
   (0x70032980, .fcmpeq ⟨0, false⟩ 3 5 6 false), (0x72032980, .fcmplt ⟨0, false⟩ 3 5 6 false), (0x74032980, .fcmple
   ⟨0, false⟩ 3 5 6 false), (0x6A072800, .fsqrt ⟨0, false⟩ 7 5 false)]

/-- Words of the S slots (R131, R138, R142 to R146), field by field, and what they stand for. -/
def wordsS3 : List (Nat × Instr) :=
  [(0x76072801, .fcvt ⟨0, false⟩ 7 5 true), (0x78072806, .ftoi ⟨0, false⟩ 7 5 true true false), (0x7A072803, .itof
   ⟨0, false⟩ 7 5 true true), (0x7C072801, .fclass ⟨0, false⟩ 7 5 true)]

theorem test_wordsS0 : (wordsS0.all fun p => (decode .s0 p.1 == some p.2) && decode .s1 p.1 == some p.2) = true := by decide +kernel

theorem test_wordsS1 : (wordsS1.all fun p => (decode .s0 p.1 == some p.2) && decode .s1 p.1 == some p.2) = true := by decide +kernel

theorem test_wordsS2 : (wordsS2.all fun p => (decode .s0 p.1 == some p.2) && decode .s1 p.1 == some p.2) = true := by decide +kernel

theorem test_wordsS3 : (wordsS3.all fun p => (decode .s0 p.1 == some p.2) && decode .s1 p.1 == some p.2) = true := by decide +kernel

/-- Words of the A slot (R158 to R174), field by field, and what they stand for. -/
def wordsA0 : List (Nat × Instr) :=
  [(0x00084802, .ldb ⟨0, false⟩ 8 9 2), (0x02084802, .ldbu ⟨0, false⟩ 8 9 2), (0x04084802, .ldh ⟨0, false⟩ 8 9 2),
   (0x06084802, .ldhu ⟨0, false⟩ 8 9 2), (0x08084802, .ldw ⟨0, false⟩ 8 9 2), (0x0A084802, .ldwu ⟨0, false⟩ 8 9 2),
   (0x0C084802, .ldd ⟨0, false⟩ 8 9 2), (0x10084802, .stb ⟨0, false⟩ 8 9 2), (0x12084802, .sth ⟨0, false⟩ 8 9 2),
   (0x14084802, .stw ⟨0, false⟩ 8 9 2), (0x16084802, .std ⟨0, false⟩ 8 9 2), (0x1A084802, .spldw ⟨0, false⟩ 8 9 2),
   (0x1C084802, .spldd ⟨0, false⟩ 8 9 2), (0x1E084802, .spstw ⟨0, false⟩ 8 9 2), (0x20084802, .spstd ⟨0, false⟩ 8 9
   2), (0x0E084833, .ldacq ⟨0, false⟩ 8 9 true 2 3), (0x18004A1C, .strel ⟨0, false⟩ 9 8 false 3 4), (0x220531CB,
   .amoadd ⟨0, false⟩ 5 6 7 false true 3), (0x240531CB, .amoand ⟨0, false⟩ 5 6 7 false true 3), (0x260531CB, .amoor
   ⟨0, false⟩ 5 6 7 false true 3)]

/-- Words of the A slot (R158 to R174), field by field, and what they stand for. -/
def wordsA1 : List (Nat × Instr) :=
  [(0x280531CB, .amoxor ⟨0, false⟩ 5 6 7 false true 3), (0x2E0531CB, .amoswp ⟨0, false⟩ 5 6 7 false true 3),
   (0x300531CB, .amocas ⟨0, false⟩ 5 6 7 false true 3), (0x320531CB, .amofadd ⟨0, false⟩ 5 6 7 false true 3),
   (0x2A0531F2, .amomin ⟨0, false⟩ 5 6 7 true true false 2), (0x2C0531F2, .amomax ⟨0, false⟩ 5 6 7 true true false
   2), (0x34000036, .fence ⟨0, false⟩ 3 6), (0x36072984, .ldblk ⟨0, false⟩ 7 5 6 4), (0x38000005, .blkwb ⟨0, false⟩
   5), (0x3A000006, .blkrel ⟨0, false⟩ 6), (0x3C00282E, .xlt ⟨0, false⟩ 5 5 true 2), (0x3E072819, .xltp ⟨0, false⟩ 7
   5 3 false 1), (0x40072800, .leaseq ⟨0, false⟩ 7 5), (0x421B2FFF, .sbind ⟨0, false⟩ 3 5 0x7FF), (0x441F0000,
   .sunbind ⟨0, false⟩ 7), (0x46092980, .qinit ⟨0, false⟩ 9 5 6), (0x48093A01, .qadv ⟨0, false⟩ 9 7 true false 1),
   (0x48090180, .qadv ⟨0, false⟩ 9 0 false true 128), (0x4A074801, .qstat ⟨0, false⟩ 7 9 true), (0x4C072984, .wenq
   ⟨0, false⟩ 7 5 6 4)]

/-- Words of the A slot (R158 to R174), field by field, and what they stand for. -/
def wordsA2 : List (Nat × Instr) :=
  [(0x4E022800, .agset ⟨0, false⟩ 2 5), (0x50020002, .agadv ⟨0, false⟩ 2 0 2)]

theorem test_wordsA0 : (wordsA0.all fun p => decode .a p.1 == some p.2) = true := by decide +kernel

theorem test_wordsA1 : (wordsA1.all fun p => decode .a p.1 == some p.2) = true := by decide +kernel

theorem test_wordsA2 : (wordsA2.all fun p => decode .a p.1 == some p.2) = true := by decide +kernel

/-- Words of the V slot (R131, R177 to R199), field by field, and what they stand for. -/
def wordsV0 : List (Nat × Instr) :=
  [(0x00000040, .vsetlImm ⟨0, false⟩ 64), (0x00050000, .vsetlReg ⟨0, false⟩ 5), (0x02053400, .vmov ⟨0, false⟩ 5 6
   true), (0x06053400, .vadd ⟨0, false⟩ 5 6 true), (0x08053400, .vsub ⟨0, false⟩ 5 6 true), (0x0A053400, .vmul ⟨0,
   false⟩ 5 6 true), (0x0C053400, .vfma ⟨0, false⟩ 5 6 true), (0x0E053400, .vmin ⟨0, false⟩ 5 6 true), (0x10053400,
   .vmax ⟨0, false⟩ 5 6 true), (0x16053400, .vadds ⟨0, false⟩ 5 6 true), (0x18053400, .vmuls ⟨0, false⟩ 5 6 true),
   (0x1A053400, .vfmas ⟨0, false⟩ 5 6 true), (0x32053400, .vqnt ⟨0, false⟩ 5 6 true), (0x12E50000, .vabs ⟨3, true⟩ 5
   false), (0x14E50000, .vneg ⟨3, true⟩ 5 false), (0x1CE50000, .vrcp ⟨3, true⟩ 5 false), (0x1EE50000, .vrsqrt ⟨3,
   true⟩ 5 false), (0x20E50000, .vexp ⟨3, true⟩ 5 false), (0x22E50000, .vlog ⟨3, true⟩ 5 false), (0x24E50000, .vsin
   ⟨3, true⟩ 5 false)]

/-- Words of the V slot (R131, R177 to R199), field by field, and what they stand for. -/
def wordsV1 : List (Nat × Instr) :=
  [(0x26E50000, .vcos ⟨3, true⟩ 5 false), (0x28E50000, .vtanh ⟨3, true⟩ 5 false), (0x2AE50000, .vsig ⟨3, true⟩ 5
   false), (0x2CE50000, .vsilu ⟨3, true⟩ 5 false), (0x2EE50000, .vgelu ⟨3, true⟩ 5 false), (0x30E50000, .vcvt ⟨3,
   true⟩ 5 false), (0x04053000, .vfill ⟨0, false⟩ 5 6), (0x34053000, .vdq ⟨0, false⟩ 5 6), (0x38053000, .vsel ⟨0,
   false⟩ 5 6), (0x42053000, .vdot ⟨0, false⟩ 5 6), (0x44053000, .vperm ⟨0, false⟩ 5 6), (0x46053000, .vgath ⟨0,
   false⟩ 5 6), (0x48053000, .vscadd ⟨0, false⟩ 5 6), (0x56053000, .vsmax ⟨0, false⟩ 5 6), (0x58053000, .vrmsn ⟨0,
   false⟩ 5 6), (0x5E053000, .tcwupd ⟨0, false⟩ 5 6), (0x3A050000, .vrsum ⟨0, false⟩ 5), (0x3C050000, .vrmax ⟨0,
   false⟩ 5), (0x3E050000, .vargmax ⟨0, false⟩ 5), (0x40050000, .vscan ⟨0, false⟩ 5)]

/-- Words of the V slot (R131, R177 to R199), field by field, and what they stand for. -/
def wordsV2 : List (Nat × Instr) :=
  [(0x60050000, .tcwcnt ⟨0, false⟩ 5), (0x64050000, .vbsy ⟨0, false⟩ 5), (0x3605300D, .vcmp ⟨0, false⟩ 5 6 true 5),
   (0x4A053001, .viadd ⟨0, false⟩ 5 6 true), (0x4C053001, .vand ⟨0, false⟩ 5 6 true), (0x4E053001, .vor ⟨0, false⟩ 5
   6 true), (0x50053001, .vxor ⟨0, false⟩ 5 6 true), (0x52053001, .vshl ⟨0, false⟩ 5 6 true), (0x5A053001, .vrope
   ⟨0, false⟩ 5 6 true), (0x54053002, .vshr ⟨0, false⟩ 5 6 true false), (0x5C053001, .vmaskw ⟨0, false⟩ 5 6 false
   true), (0x62000015, .vfence ⟨0, false⟩ 0x15)]

theorem test_wordsV0 : (wordsV0.all fun p => decode .v p.1 == some p.2) = true := by decide +kernel

theorem test_wordsV1 : (wordsV1.all fun p => decode .v p.1 == some p.2) = true := by decide +kernel

theorem test_wordsV2 : (wordsV2.all fun p => decode .v p.1 == some p.2) = true := by decide +kernel

/-- Words of the M slot (R132, R205 to R217), field by field, and what they stand for. -/
def wordsM : List (Nat × Instr) :=
  [(0x00025F0000000002, .mma ⟨0, false⟩ 1 2 3 true 96 false true), (0x02025C0800000002, .mmabt ⟨0, false⟩ 1 2 3 true
   1 false true), (0x04025D8000000002, .mmasp ⟨0, false⟩ 1 2 3 true 48 false true), (0x06025C1000000002, .mmacb ⟨0,
   false⟩ 1 2 3 true 2 false true), (0x0800100000000001, .mzero ⟨0, false⟩ 2 true), (0x0A000800007FFFFF, .mldacc ⟨0,
   false⟩ 1 0x7FFFFF false), (0x0C00080013008000, .mdrain ⟨0, false⟩ 1 0x13 0x8000), (0x0E00180000000040, .mdraina
   ⟨0, false⟩ 3 0x40), (0x1008A00000000003, .mpop ⟨0, false⟩ 4 5 true true), (0x12E0000000000400, .mcbld ⟨3, true⟩
   0x400), (0x1400000000000004, .mscl ⟨0, false⟩ 4), (0x1600000000000021, .mfence ⟨0, false⟩ 0x21)]

theorem test_wordsM : (wordsM.all fun p => decode .m p.1 == some p.2) = true := by decide +kernel

/-- Words of the D slot (R132, R218 to R241), field by field, and what they stand for. -/
def wordsD0 : List (Nat × Instr) :=
  [(0x000C002400000000, .dcopy ⟨0, false⟩ 12 9), (0x020C0E2400000000, .dmcast ⟨0, false⟩ 12 0xE 9),
   (0x040C002400000000, .dgath ⟨0, false⟩ 12 9), (0x060C002400000000, .dscat ⟨0, false⟩ 12 9), (0x080C002400000000,
   .dscadd ⟨0, false⟩ 12 9), (0x0A0C002400000000, .dred ⟨0, false⟩ 12 9), (0x0C0C002400000000, .dbcast ⟨0, false⟩ 12
   9), (0x0E0C002400000000, .dallg ⟨0, false⟩ 12 9), (0x100C002400000000, .dembag ⟨0, false⟩ 12 9),
   (0x120C002400000000, .dstage ⟨0, false⟩ 12 9), (0x140C002400000000, .pack ⟨0, false⟩ 12 9), (0x160C002400000000,
   .unpack ⟨0, false⟩ 12 9), (0x180C002400000000, .exn ⟨0, false⟩ 12 9), (0x1A0C002400000000, .kvfill ⟨0, false⟩ 12
   9), (0x1C0C002400000000, .skfind ⟨0, false⟩ 12 9), (0x1E0C002400000000, .skput ⟨0, false⟩ 12 9),
   (0x200C002400000000, .skrel ⟨0, false⟩ 12 9), (0x220C002400000000, .skpin ⟨0, false⟩ 12 9), (0x240000000000003F,
   .dfence ⟨0, false⟩ 0x3F), (0x260C002400000000, .ixwalk ⟨0, false⟩ 12 9)]

/-- Words of the D slot (R132, R218 to R241), field by field, and what they stand for. -/
def wordsD1 : List (Nat × Instr) :=
  [(0x280C002400000000, .ixsect ⟨0, false⟩ 12 9), (0x2A0C002400000000, .ixpart ⟨0, false⟩ 12 9)]

theorem test_wordsD0 : (wordsD0.all fun p => decode .d p.1 == some p.2) = true := by decide +kernel

theorem test_wordsD1 : (wordsD1.all fun p => decode .d p.1 == some p.2) = true := by decide +kernel

/-- Words of the K slot (R147 to R156, R248 to R261), field by field, and what they stand for. -/
def wordsK0 : List (Nat × Instr) :=
  [(0x0008000A, .pbr ⟨0, false⟩ 2 10), (0x02022800, .pbrr ⟨0, false⟩ 2 5), (0x04040000, .br ⟨0, false⟩ 1),
   (0x06040005, .brl ⟨0, false⟩ 1 5), (0x08050000, .loop ⟨0, false⟩ 1 1), (0x0A090003, .loopiImm ⟨0, false⟩ 2 1 3),
   (0x0A09801A, .loopiReg ⟨0, false⟩ 2 1 26), (0x0C090040, .loopl ⟨0, false⟩ 2 1 64), (0x0E011133, .fmtw ⟨0, false⟩
   true 0x1133), (0x10002980, .fmtwg ⟨0, false⟩ 5 6), (0x12006340, .waita ⟨0, false⟩ 12 13 false 0), (0x1200634C,
   .waita ⟨0, false⟩ 12 13 true 4), (0x14000000, .susp ⟨0, false⟩), (0x16E00000, .done ⟨3, true⟩), (0x18000007,
   .barr ⟨0, false⟩ 7), (0x1A000015, .sync ⟨0, false⟩ 0x15), (0x1C000FFF, .trap ⟨0, false⟩ 0xFFF), (0x1E004A83,
   .sigc ⟨0, false⟩ 9 10 false 3), (0x20053000, .tspawn ⟨0, false⟩ 5 6), (0x22072980, .crspawn ⟨0, false⟩ 7 5 6)]

/-- Words of the K slot (R147 to R156, R248 to R261), field by field, and what they stand for. -/
def wordsK1 : List (Nat × Instr) :=
  [(0x24074000, .glnch ⟨0, false⟩ 7 8), (0x26072980, .gtok ⟨0, false⟩ 7 5 6), (0x28072981, .gstat ⟨0, false⟩ 7 5 6
   true), (0x2A070001, .teamq ⟨0, false⟩ 7 0 true), (0x2C050200, .sysrd ⟨0, false⟩ 5 0x200), (0x2E050617, .syswr ⟨0,
   false⟩ 5 0x617), (0x300C0000, .eret ⟨0, false⟩ 3), (0x32072981, .tlbdrn ⟨0, false⟩ 7 5 6 true), (0x34000000,
   .tlbcnf ⟨0, false⟩), (0x36072980, .leaseg ⟨0, false⟩ 7 5 6), (0x38002982, .cinv ⟨0, false⟩ 5 6 2), (0x3A072980,
   .prmt ⟨0, false⟩ 7 5 6), (0x3C002800, .hint ⟨0, false⟩ 5)]

theorem test_wordsK0 : (wordsK0.all fun p => decode .k p.1 == some p.2) = true := by decide +kernel

theorem test_wordsK1 : (wordsK1.all fun p => decode .k p.1 == some p.2) = true := by decide +kernel

/-- Words of the attention sequencer (R267), field by field, and what they stand for. -/
def wordsQ : List (Nat × Instr) :=
  [(0x0100000000000040, .hset 1 64), (0x13450000FFFFFFFF, .hadd 3 4 5 0xFFFFFFFF), (0x2C600000000003FF, .hjmp 3 6
   1023), (0x3030000000000005, .hloop 3 5), (0x4720000000000000, .agld 7 2), (0x5A30001234FF00C0, .kvrd true 2 3
   0x1234 255 true 64), (0x6080100000000001, .mxi 4 0x100000000001), (0x7012348000000040, .smax 1 2 3 4 true 64),
   (0x80C2000000000000, .resc 3 2), (0x9042000000000000, .norm 1 2), (0xA012300000060040, .rope 1 2 3 true 512 64),
   (0xB01E3F0000000000, .djob 1 0xE 63), (0xCC12000000000000, .waitw 3 1 2), (0xD812000000000000, .sigw 4 1 2),
   (0xE081230000000000, .mcmb 2 1 2 3), (0xF000000000000000, .halt)]

theorem test_wordsQ : (wordsQ.all fun p => decodeSeq p.1 == some p.2) = true := by decide +kernel

/-! ### Scalar steps (worked examples of R142, R143, R146; the rest by hand from R142 to R146) -/

/-- The operands of the manual's example: g5 = 2^63, g6 = 4. -/
def sExample : State := placed .s0 (regs [(5, 2 ^ 63), (6, 4), (7, 3), (8, 0x083C)])

theorem test_mul : gAfter (.mul gu0 7 5 6) sExample 7 = some 0 := by decide +kernel
theorem test_mulh : gAfter (.mulh gu0 7 5 6) sExample 7 = some 0xFFFFFFFFFFFFFFFE := by decide +kernel
theorem test_mulhu : gAfter (.mulhu gu0 7 5 6) sExample 7 = some 2 := by decide +kernel
theorem test_div_by_zero : gAfter (.div gu0 7 5 0) sExample 7 = some 0xFFFFFFFFFFFFFFFF := by decide +kernel
theorem test_rem_by_zero : gAfter (.rem gu0 7 5 0) sExample 7 = some (2 ^ 63) := by decide +kernel
theorem test_clz : gAfter (.clz gu0 7 5) sExample 7 = some 0 := by decide +kernel
theorem test_ctz : gAfter (.ctz gu0 7 5) sExample 7 = some 63 := by decide +kernel
theorem test_popc : gAfter (.popc gu0 7 5) sExample 7 = some 1 := by decide +kernel
theorem test_bext : gAfter (.bext gu0 7 5 8 false) sExample 7 = some 8 := by decide +kernel
theorem test_bext_sx : gAfter (.bext gu0 7 5 8 true) sExample 7 = some 0xFFFFFFFFFFFFFFF8 := by decide +kernel
theorem test_bins_keeps_rest : gAfter (.bins gu0 7 6 8) sExample 7 = some (4 * 2 ^ 60 + 3) := by decide +kernel
theorem test_add_wraps : gAfter (.add gu0 7 5 5) sExample 7 = some 0 := by decide +kernel
theorem test_add_to_g0 : gAfter (.add gu0 0 5 6) sExample 0 = some 0 := by decide +kernel
theorem test_sub_borrows : gAfter (.sub gu0 7 0 6) sExample 7 = some (2 ^ 64 - 4) := by decide +kernel
theorem test_addi_negative : gAfter (.addi gu0 7 6 0x7FF) sExample 7 = some 3 := by decide +kernel
theorem test_addsh : gAfter (.addsh gu0 7 6 7 4) sExample 7 = some 52 := by decide +kernel
theorem test_madd : gAfter (.madd gu0 7 6 6) sExample 7 = some 19 := by decide +kernel
theorem test_min_signed : gAfter (.min gu0 7 5 6) sExample 7 = some (2 ^ 63) := by decide +kernel
theorem test_minu_unsigned : gAfter (.minu gu0 7 5 6) sExample 7 = some 4 := by decide +kernel
theorem test_andn : gAfter (.andn gu0 9 8 6) sExample 9 = some 0x0838 := by decide +kernel
theorem test_xori_extends : gAfter (.xori gu0 9 6 0x7FF) sExample 9 = some (2 ^ 64 - 5) := by decide +kernel
theorem test_sll_low_bits : gAfter (.sll gu0 9 7 8) sExample 9 = some (3 * 2 ^ 60) := by decide +kernel
theorem test_srai : gAfter (.srai gu0 9 5 62) sExample 9 = some (2 ^ 64 - 2) := by decide +kernel
theorem test_ror : gAfter (.ror gu0 9 7 6) sExample 9 = some (3 * 2 ^ 60) := by decide +kernel
theorem test_movi : gAfter (.movi gu0 9 0x8000) sExample 9 = some (2 ^ 64 - 2 ^ 15) := by decide +kernel
theorem test_movk : gAfter (.movk 2 8 0x1234) sExample 8 = some (0x1234 * 2 ^ 32 + 0x083C) := by decide +kernel
theorem test_cmplt_signed : pAfter (.cmplt gu0 3 5 6) sExample 3 = some true := by decide +kernel
theorem test_cmpltu_unsigned : pAfter (.cmpltu gu0 3 5 6) sExample 3 = some false := by decide +kernel
theorem test_cmp_to_p0 : pAfter (.cmpne gu0 0 5 5) sExample 0 = some true := by decide +kernel
theorem test_plog_and : pAfter (.plog gu0 1 0 2 8) (placed .s0 fun c => { c with p := 0x04 }) 1 = some true := by decide +kernel
theorem test_movp_get : gAfter (.movpGet gu0 7) (placed .s0 fun c => { c with p := 0x04 }) 7 = some 5 := by decide +kernel
theorem test_sel : gAfter (.sel gu0 9 5 6 1) sExample 9 = some 4 := by decide +kernel

/-- FP32 −2.5 in g5, FP32 1.0 in g6, FP64 1.0 in g7. -/
def fExample : State := placed .s0 (regs [(5, 0xC0200000), (6, 0x3F800000), (7, 0x3FF0000000000000), (8, 0x7F800001)])

theorem test_ftoi_truncates : gAfter (.ftoi gu0 9 5 true false false) fExample 9 = some (2 ^ 64 - 2) := by decide +kernel
theorem test_ftoi_ties_even : gAfter (.ftoi gu0 9 5 false false false) fExample 9 = some (2 ^ 64 - 2) := by decide +kernel
theorem test_ftoi_saturates : gAfter (.ftoi gu0 9 5 false true false) fExample 9 = some 0 ∧
    flagsAfter (.ftoi gu0 9 5 true false false) fExample ≠ flagsAfter (.ftoi gu0 9 5 false true false) fExample := by decide +kernel
theorem test_fadd_double : gAfter (.fadd gu0 9 7 7 true) fExample 9 = some 0x4000000000000000 := by decide +kernel
theorem test_fsub_single : gAfter (.fsub gu0 9 6 5 false) fExample 9 = some 0x40600000 := by decide +kernel
theorem test_fmul_single : gAfter (.fmul gu0 9 5 5 false) fExample 9 = some 0x40C80000 := by decide +kernel
theorem test_ffma_single : gAfter (.ffma gu0 6 5 5 false) fExample 6 = some 0x40E80000 := by decide +kernel
theorem test_fdiv_by_zero : gAfter (.fdiv gu0 9 5 0 false) fExample 9 = some 0xFF800000 := by decide +kernel
theorem test_fsqrt_negative : gAfter (.fsqrt gu0 9 5 false) fExample 9 = some 0x7FC00000 := by decide +kernel
theorem test_fsqrt_one : gAfter (.fsqrt gu0 9 7 true) fExample 9 = some 0x3FF0000000000000 := by decide +kernel
theorem test_fcmplt : pAfter (.fcmplt gu0 3 5 6 false) fExample 3 = some true := by decide +kernel
theorem test_fcmpeq_nan : pAfter (.fcmpeq gu0 3 8 8 false) fExample 3 = some false := by decide +kernel
theorem test_fcvt_widens : gAfter (.fcvt gu0 9 6 true) fExample 9 = some 0x3FF0000000000000 := by decide +kernel
theorem test_itof_unsigned : gAfter (.itof gu0 9 5 true true) (placed .s0 (regs [(5, 2 ^ 63)])) 9 = some 0x43E0000000000000 := by decide +kernel

/-- A register the guard does not allow to change. -/
theorem test_guard_false : gAfter (.add ⟨1, false⟩ 7 5 6) sExample 7 = some 3 := by decide +kernel

/-! ### Memory steps (R158 to R174) -/

/-- g9 = 0x4000, where 0x8182838485868788 stands, and 0x80 in the window at 0x100. -/
def mExample : State :=
  withSpad (withBytes (placed .a fun c => (regs [(9, 0x4000), (7, 0x1122334455667788), (6, 0x100), (5, 0x4002), (8, 1), (10, 0x4040)] c))
    [(0x4000, leBytes 8 0x8182838485868788), (0x4040, leBytes 8 10)]) [(0x100, leBytes 8 0x80)]

theorem test_ldb_extends : gAfter (.ldb gu0 8 9 0) mExample 8 = some (2 ^ 64 - 0x78) := by decide +kernel
theorem test_ldhu : gAfter (.ldhu gu0 8 9 1) mExample 8 = some 0x8586 := by decide +kernel
theorem test_ldw_extends : gAfter (.ldw gu0 8 9 1) mExample 8 = some 0xFFFFFFFF81828384 := by decide +kernel
theorem test_ldd : gAfter (.ldd gu0 8 9 0) mExample 8 = some 0x8182838485868788 := by decide +kernel
theorem test_ldd_any_alignment : gAfter (.ldd gu0 8 5 0) mExample 8 = some 0x818283848586 := by decide +kernel
theorem test_amoor_not_canonical : causeAfter (.amoor gu0 8 6 5 false true 3) (placed .a fun c => inUser (regs [(6, 2 ^ 62)] c)) = some (0x3001, 2, 0x5000) := by decide +kernel
theorem test_std : memAfter (.std gu0 7 9 1) mExample 0x4008 8 = some 0x1122334455667788 := by decide +kernel
theorem test_sth_keeps_rest : memAfter (.sth gu0 7 9 1) mExample 0x4000 8 = some 0x8182838477888788 := by decide +kernel
theorem test_spldw : gAfter (.spldw gu0 8 6 0) mExample 8 = some 0x80 := by decide +kernel
theorem test_spstd : winAfter (.spstd gu0 7 6 1) mExample 0x108 8 = some 0x1122334455667788 := by decide +kernel
theorem test_spldd_outside : causeAfter (.spldd gu0 8 9 0) (placed .a fun c => inUser (regs [(9, 65536)] c)) = some (0x2002, 2, 0x5000) := by decide +kernel
theorem test_amoadd_old : gAfter (.amoadd gu0 11 10 8 false true 3) mExample 11 = some 10 := by decide +kernel
theorem test_amoadd_new : memAfter (.amoadd gu0 11 10 8 false true 3) mExample 0x4040 8 = some 11 := by decide +kernel
theorem test_strel_bad_scope : causeAfter (.strel gu0 8 9 false 3 5) (placed .a fun c => inUser c) = some (0x1008, 2, 0x5000) := by decide +kernel

/-! ### Control steps (R147 to R156, R248 to R261) -/

/-- A continuation at the bundle 0x1000 with a loop counter of 2. -/
def kExample : State := placed .k fun c => { regs [(5, 0x30), (6, 0xFFFF)] c with
  lc := vset c.lc 1 2, b := vset (vset c.b 1 0x1000) 3 0x1002, fmt := 0x00FF1234 }

theorem test_pbr_backwards : (after (.pbr gu0 2 0xFFFF) kExample).map (fun t => (vget t.m.cur.b 2 0).toNat) = some 0xFFC := by decide +kernel
theorem test_br : (after (.br gu0 1) kExample).map (fun t => t.m.cur.pc.toNat) = some 0x1000 := by decide +kernel
theorem test_br_misaligned : causeAfter (.br gu0 3) (onUser kExample) = some (0x1004, 6, 0x5000) := by decide +kernel
theorem test_brl_links : gAfter (.brl gu0 1 4) kExample 23 = some 0x1008 := by decide +kernel
theorem test_loop_counts : (after (.loop gu0 1 1) kExample).map (fun t => ((vget t.m.cur.lc 1 0).toNat, t.m.cur.pc.toNat)) = some (1, 0x1000) := by decide +kernel
theorem test_loop_falls_through : (after (.loop gu0 1 2) kExample).map (fun t => ((vget t.m.cur.lc 2 0).toNat, t.m.cur.pc.toNat)) = some (0, 0x1008) := by
  decide +kernel
theorem test_fmtw : (after (.fmtw gu0 true 0xFFFF) kExample).map (fun t => t.m.cur.fmt.toNat) = some 0x03FF1234 := by decide +kernel
theorem test_trap_code : causeAfter (.trap gu0 0x123) (onUser kExample) = some (0xF123, 6, 0x5000) := by decide +kernel
theorem test_sysrd_privileged : causeAfter (.sysrd gu0 5 0x008) (onUser kExample) = some (0x1005, 6, 0x5000) := by decide +kernel
theorem test_eret_privileged : causeAfter (.eret gu0 1) (onUser kExample) = some (0x1005, 6, 0x5000) := by decide +kernel
theorem test_eret_returns : (after (.eret gu0 1) (placed .k fun c => { c with b := vset c.b 1 0x2000, tcause := 7 })).map (fun t =>
    (t.m.cur.pc.toNat, t.m.cur.sysMode, t.m.cur.tcause.toNat)) = some (0x2000, false, 0) := by decide +kernel
theorem test_sysrd_mode : gAfter (.sysrd gu0 5 0x003) (placed .k id) 5 = some 1 := by decide +kernel
theorem test_susp_state : (after (.susp gu0) kExample).map (fun t => t.m.cur.state.toNat) = some 2 := by decide +kernel

/-! ### Vector steps (worked examples of R111, R116, R177, R178, R185, R192, R194) -/

/-- The manual's VADD in BF16: the three elements of R178's example. -/
def vaddExample : State := withSpad (vec 3 0x11000 0x0080100000802000 0x801800)
  [(0x1000, elems 2 [0x3F80, 0x7F7F, 0x0080]), (0x1800, elems 2 [0x3B80, 0x7F7F, 0x80C0])]

theorem test_vadd : (vAfter (.vadd gu0 5 6 false) vaddExample) = some (elems 2 [0x3F80, 0x7F80, 0x8000]) := by decide +kernel
theorem test_vcvt_to_bf16 : (vAfter (.vcvt gu0 5 false) (withSpad (vec 1 0x10000 0x0080100000802000 0) [(0x1000, leBytes 4 0x3F80C000)])) =
    some (elems 2 [0x3F81]) := by decide +kernel
theorem test_vcvt_to_e4m3 : (vAfter (.vcvt gu0 5 false) (withSpad (vec 2 0x30000 0x0080100000802000 0) [(0x1000, elems 4 [0x43FA0000, 0xC47A0000])])) =
    some (elems 1 [0x7E, 0xFE]) := by decide +kernel
theorem test_vrsum_tree : (vAfter (.vrsum gu0 5) (withSpad (vec 5 0 0x0080100000802000 0)
    [(0x1000, elems 4 [0x3F800000, 0x33800000, 0x33800000, 0x33800000, 0x33800000])])) = some (elems 4 [0x3F800002]) := by decide +kernel
theorem test_vargmax : (vAfter (.vargmax gu0 5) (withSpad (vec 3 0 0x0080100000802000 0) [(0x1000, elems 4 [0x80000000, 0, 0])])) =
    some (elems 4 [1]) := by decide +kernel
theorem test_vneg_flips_sign : (vAfter (.vneg gu0 5 false) (withSpad (vec 1 0 0x0080100000802000 0) [(0x1000, leBytes 4 0)])) =
    some (elems 4 [0x80000000]) := by decide +kernel
theorem test_vrcp_zero : (vAfter (.vrcp gu0 5 false) (withSpad (vec 1 0 0x0080100000802000 0) [])) = some (elems 4 [0x7F800000]) := by decide +kernel
theorem test_vexp_zero : (vAfter (.vexp gu0 5 false) (withSpad (vec 1 0 0x0080100000802000 0) [])) = some (elems 4 [0x3F800000]) := by decide +kernel
theorem test_vrope : (vAfter (.vrope gu0 5 6 false) (withSpad (vec 2 0 0x0080100000802000 (3 * 2 ^ 32 + 0x801800))
    [(0x1000, elems 4 [0x3F800000, 0x40000000]), (0x1800, leBytes 4 0x40000000)])) = some (elems 4 [0x40000000, 0xBF800000]) := by decide +kernel
theorem test_vl_zero : vAfter (.vadd gu0 5 6 false) (vec 0 0x11000 0x0080100000802000 0x801800) = none := by decide +kernel
theorem test_vadd_off_misaligned : causeAfter (.vadd gu0 5 6 false) (onUser (vec 3 0x11000 0x0080100100802000 0x801800)) = some (0x2003, 3, 0x5000) := by decide +kernel

/-! ### Matrix and sequencer steps (R114, R149, R207, R214, R267) -/

theorem test_mzero_kind : (after (.mzero gu0 2 true) (placed .m id)).map (fun t => ((vget t.m.cur.mx.acc 2 {}).int, (vget t.m.cur.mx.acc 2 {}).mark.toNat)) =
    some (true, 0) := by decide +kernel
theorem test_mzero_without_claim : causeAfter (.mzero gu0 2 true) (placed .m fun c => inUser { c with claim := false }) = some (0x1006, 4, 0x5000) := by decide +kernel

/-! ### States that meet the hypotheses of the statements, clause by clause -/

/-! Conjuncts that are evaluated together, before others. -/

theorem join2 {a b z : Prop} (h : a ∧ b) (q : z) : a ∧ b ∧ z := ⟨h.1, h.2, q⟩
theorem join3 {a b c z : Prop} (h : a ∧ b ∧ c) (q : z) : a ∧ b ∧ c ∧ z := ⟨h.1, join2 h.2 q⟩
theorem join4 {a b c d z : Prop} (h : a ∧ b ∧ c ∧ d) (q : z) : a ∧ b ∧ c ∧ d ∧ z := ⟨h.1, join3 h.2 q⟩
theorem join5 {a b c d e z : Prop} (h : a ∧ b ∧ c ∧ d ∧ e) (q : z) : a ∧ b ∧ c ∧ d ∧ e ∧ z := ⟨h.1, join4 h.2 q⟩
theorem join6 {a b c d e f z : Prop} (h : a ∧ b ∧ c ∧ d ∧ e ∧ f) (q : z) : a ∧ b ∧ c ∧ d ∧ e ∧ f ∧ z := ⟨h.1, join5 h.2 q⟩

/-- Nothing stands in the queues and nothing holds the slot, as a value. -/
def openB (s : State) (x : Slot) : Bool :=
  s.m.cur.queue.isEmpty && (s.m.cur.cursor.bind Cursor.back).isNone && !s.m.cur.timid && !s.m.cur.lag.getLsbD (s.m.cur.slotNow x) &&
    !s.m.heldAt s.m.cur (s.m.cur.slotNow x) s.m.cur.bundleNow && (!s.m.cur.syncedNow (s.m.cur.slotNow x) || !s.m.inShadow s.m.cur)

theorem open_of {s : State} {x : Slot} (h : openB s x = true) : s.Open x := by
  simp only [openB, Bool.and_eq_true, Bool.or_eq_true, Bool.not_eq_true', List.isEmpty_iff, Option.isNone_iff_eq_none] at h
  exact State.open_of h.1.1.1.1.1 h.1.1.1.1.2 h.1.1.1.2 h.1.1.2 h.1.2 h.2

theorem ready_of {s : State} {g : Guard} {x : Slot} (h : (s.m.cur.runs g && openB s x) = true) : s.Ready g x := by
  rw [Bool.and_eq_true] at h
  exact ⟨h.1, open_of h.2⟩

theorem filledAll_of {c : Cont} (h : (c.blocks.toList.all fun o => match o with | some b => b.filled | none => true) = true) : c.filledAll := by
  intro b hb
  simpa using List.all_eq_true.mp h _ hb

theorem settled_of {c : Cont} (h : (c.sig.isEmpty && c.blocks.toList.all fun o => match o with | some b => b.filled | none => true) = true) : c.settled := by
  rw [Bool.and_eq_true, List.isEmpty_iff] at h
  exact ⟨filledAll_of h.2, h.1⟩

theorem okay_of {α ε : Type} {x : Except ε α} (h : (match x with | .ok _ => true | .error _ => false) = true) : ∃ y, x = .ok y := by
  cases x with
  | ok y => exact ⟨y, rfl⟩
  | error => cases h

theorem pair_of {α β : Type} {x : α × β} {b : β} (h : x.2 = b) : ∃ a, x = (a, b) := ⟨x.1, by rw [← h]⟩

/-- Registers g0 and g23 can be read and written; predicates 0 and 7 are within bounds. -/
theorem witness_RegisterOperands : ∀ f ∈ [(0 : GF), 23], sExample.m.cur.readable f ∧ sExample.m.cur.writable f := by
  unfold Cont.readable Cont.writable; decide +kernel

/-- An input stream over the window, an exhausted output stream, an output stream over memory; streams 3 to 7 are unbound. -/
def streamState : State := placed .s0 fun c => { c with streams := #v[
  some { base := 0x200, virt := false, out := false, lg := 3, dims := 1, counts := Vector.replicate 4 4, strides := Vector.replicate 4 8, remaining := 2 },
  some { base := 0x200, virt := false, out := true, lg := 0, dims := 1, counts := Vector.replicate 4 4, strides := Vector.replicate 4 8, remaining := 0 },
  some { base := 0x4000, virt := true, out := true, lg := 2, dims := 1, counts := Vector.replicate 4 4, strides := Vector.replicate 4 8, remaining := 1 },
  some { base := 0x4000, virt := true, out := false, lg := 2, dims := 1, counts := Vector.replicate 4 4, strides := Vector.replicate 4 8, remaining := 1 },
  some { base := 0x300, virt := false, out := true, lg := 3, dims := 1, counts := Vector.replicate 4 4, strides := Vector.replicate 4 8, remaining := 9 },
  some { base := 0x300, virt := false, out := false, lg := 3, dims := 1, counts := Vector.replicate 4 4, strides := Vector.replicate 4 8, remaining := 0 },
  none, none] }

theorem witness_StreamOperands :
    (∃ r, vget streamState.m.cur.streams 0 none = some r ∧ r.out = false ∧ r.remaining ≠ 0 ∧ r.virt = false ∧
      streamState.m.cur.inWindow r.addr (2 ^ r.lg.toNat) = true ∧ streamState.m.winMark streamState.m.cur r.addr.toNat (2 ^ r.lg.toNat) = none) ∧
    (∃ r, vget streamState.m.cur.streams 1 none = some r ∧ r.out = true ∧ r.remaining = 0) ∧
    (∃ r ps, vget streamState.m.cur.streams 2 none = some r ∧ r.out = true ∧ r.remaining ≠ 0 ∧ r.virt = true ∧
      streamState.m.resolveCont (ofI r.addr) (2 ^ r.lg.toNat) .write = .ok ps ∧ streamState.m.cur.touchesBlock (ofI r.addr).toNat (2 ^ r.lg.toNat) = false) ∧
    (∃ r ps, vget streamState.m.cur.streams 3 none = some r ∧ r.out = false ∧ r.remaining ≠ 0 ∧ r.virt = true ∧
      streamState.m.resolveCont (ofI r.addr) (2 ^ r.lg.toNat) .read = .ok ps ∧
      streamState.m.cur.touchesBlock (ofI r.addr).toNat (2 ^ r.lg.toNat) = false ∧ streamState.m.mem.markParts streamState.m.cur.die ps = none) ∧
    (∃ r, vget streamState.m.cur.streams 4 none = some r ∧ r.out = true ∧ r.remaining ≠ 0 ∧ r.virt = false ∧
      streamState.m.cur.inWindow r.addr (2 ^ r.lg.toNat) = true ∧ streamState.m.cur.resident = true) ∧
    (∃ r, vget streamState.m.cur.streams 5 none = some r ∧ r.out = false ∧ r.remaining = 0) ∧ vget streamState.m.cur.streams 7 none = none :=
  ⟨⟨_, rfl, by decide +kernel⟩, ⟨_, rfl, by decide +kernel⟩, ⟨_, [(0x4000, 4)], rfl, by decide +kernel⟩, ⟨_, [(0x4000, 4)], rfl, by decide +kernel⟩,
    ⟨_, rfl, by decide +kernel⟩, ⟨_, rfl, by decide +kernel⟩, by decide +kernel⟩

/-- Two operands read and a destination written: g7 from g5 and g6, g0 from g0 and g0. -/
theorem witness_IntegerArithmetic : sExample.Ready gu0 .s0 ∧ ∀ v : Word,
    (∃ m3, readG 5 sExample.m = .ok (toW (2 ^ 63), sExample.m) ∧ readG 6 sExample.m = .ok (4, sExample.m) ∧
      readG 7 sExample.m = .ok (3, sExample.m) ∧ writeG 7 v sExample.m = .ok ((), m3)) ∧
    ∃ m3, readG 0 sExample.m = .ok (0, sExample.m) ∧ writeG 0 v sExample.m = .ok ((), m3) :=
  ⟨ready_of (by decide +kernel), fun _ => ⟨⟨_, rfl, rfl, rfl, rfl⟩, ⟨_, rfl, rfl⟩⟩⟩

/-- The same, with a shift count of 63 bits past its field and a field that runs past bit 63. -/
theorem witness_LogicShiftField : sExample.Ready gu0 .s0 ∧ (∃ m3, readG 5 sExample.m = .ok (toW (2 ^ 63), sExample.m) ∧
    readG 8 sExample.m = .ok (0x083C, sExample.m) ∧ readG 7 sExample.m = .ok (3, sExample.m) ∧ writeG 7 0 sExample.m = .ok ((), m3)) ∧
    min (0x083C / 2 ^ 8 % 2 ^ 7) (64 - 0x083C % 64) = 4 ∧ 0x34000040 / 2 ^ 25 ∈ [0x1A, 0x1B, 0x1C] ∧ 0x34000040 / 2 ^ 6 % 2 ^ 5 ≠ 0 :=
  ⟨ready_of (by decide +kernel), ⟨_, rfl, rfl, rfl, rfl⟩, by decide⟩

theorem witness_MoveComparePredicate : sExample.Ready gu0 .s0 ∧ sExample.Open .s0 ∧ (∃ m3, readG 5 sExample.m = .ok (toW (2 ^ 63), sExample.m) ∧
    readG 6 sExample.m = .ok (4, sExample.m) ∧ writeG 7 0 sExample.m = .ok ((), m3)) ∧
    (0x48800000 / 2 ^ 25 = 0x24 ∧ 0x48800000 / 2 ^ 23 % 2 ^ 2 ≠ 0) ∧ (0x4A000008 / 2 ^ 25 = 0x25 ∧ 0x4A000008 / 2 ^ 3 % 2 ^ 3 ≠ 0) ∧
    (0x5C000010 / 2 ^ 25 = 0x2E ∧ 0x5C000010 / 2 ^ 4 % 2 ^ 2 ≠ 0) ∧ (0x5E000800 / 2 ^ 25 = 0x2F ∧ 0x5E000800 % 2 = 0 ∧ 0x5E000800 / 2 ^ 11 % 2 ^ 5 ≠ 0) ∧
    (0x5E010001 / 2 ^ 25 = 0x2F ∧ 0x5E010001 % 2 = 1 ∧ 0x5E010001 / 2 ^ 16 % 2 ^ 5 ≠ 0) :=
  ⟨ready_of (by decide +kernel), (ready_of (g := gu0) (by decide +kernel)).2, ⟨_, rfl, rfl, rfl⟩, by decide⟩

/-- A finite operand, a NaN, an infinity, for FTOI's three cases; FP64 and FP32 classes with a quiet and a signalling NaN. -/
theorem witness_ScalarFloatAndConversion : fExample.Ready gu0 .s0 ∧ (∃ m3, readG 5 fExample.m = .ok (0xC0200000, fExample.m) ∧
    readG 6 fExample.m = .ok (0x3F800000, fExample.m) ∧ readG 9 fExample.m = .ok (0, fExample.m) ∧ writeG 9 1 fExample.m = .ok ((), m3)) ∧
    fpNum false 0x7F800001 = .nan ∧ fpNum false 0xFF800000 = .inf true ∧ (∃ m e, fpNum false 0xC0200000 = .fin true m e) ∧
    fpNum true 0x7FF0000000000000 = .inf false :=
  ⟨ready_of (by decide +kernel), ⟨_, rfl, rfl, rfl, rfl⟩, by decide +kernel, by decide +kernel, ⟨_, _, rfl⟩, by decide +kernel⟩

/-- FP32 1.0 is a finite pattern whose own rounding is finite; so is the least FP8 subnormal's format. -/
theorem witness_FloatsExactThenRounded : ∃ f, floatFmt 0 = some f ∧ (f.fields (f.round false (.fin false 1 0)).pat).2.1 ≠ 2 ^ f.w - 1 ∧
    0x3F800000 < 2 ^ (1 + f.w + f.t) ∧ f.isNan 0x3F800000 = false ∧ (f.fields 0x3F800000).2.1 ≠ 2 ^ f.w - 1 :=
  ⟨_, rfl, by decide +kernel⟩

theorem witness_DuskResultsStayInBound : ∃ f, floatFmt 0 = some f ∧ f.read 0x7FC00000 = .nan ∧ f.read 0x7F800000 = .inf false ∧
    (f.read 0x80000000).isZero = true ∧ (∃ e, f.read 0x3F800000 = .fin false (2 ^ 23) e) ∧ floatFmt 6 = none :=
  ⟨_, rfl, join3 (by decide +kernel) ⟨⟨_, rfl⟩, by decide +kernel⟩⟩

/-- An event with capture armed and empty, with it armed and full, with a trap enabled for it and not. -/
theorem witness_StickyFlags : (4 : ℕ) ≠ 0 ∧ (∃ c : Cont, c.trapen.getLsbD 8 = true ∧ c.fev.getLsbD 63 = false ∧ trapBits c.trapen 4 = false) ∧
    ∃ c : Cont, c.trapen.getLsbD 8 = true ∧ c.fev.getLsbD 63 = true ∧ trapBits c.trapen 4 = true :=
  ⟨by decide, ⟨{ placedCont none with trapen := 0x100 }, by decide +kernel⟩, ⟨{ placedCont none with trapen := 0x104, fev := toW (2 ^ 63) }, by decide +kernel⟩⟩

/-- g9 holds 0x4000, a mapped address; the byte at its sign-extended offset −1 is mapped too; a marked granule. -/
def markState : State := { mExample with m := { mExample.m with mem := { mExample.m.mem with poison := [(0x100, true)] } } }

theorem witness_WeakLoads : mExample.Ready gu0 .a ∧ readG 9 mExample.m = .ok (0x4000, mExample.m) ∧ (∃ m2, writeG 8 1 mExample.m = .ok ((), m2)) ∧
    (∀ k ∈ [(0 : BitVec 11), 0x3FF, 0x400, 0x7FF], ∃ ps, mExample.m.resolveCont (ofI ((0x4000 : Word).toInt + k.toInt * 8)) 8 .read = .ok ps ∧
      mExample.m.cur.touchesBlock (ofI ((0x4000 : Word).toInt + k.toInt * 8)).toNat 8 = false ∧ mExample.m.mem.markParts mExample.m.cur.die ps = none) ∧
    ∃ g, markState.m.resolveCont 0x4000 8 .read = .ok [(0x4000, 8)] ∧ markState.m.mem.markParts markState.m.cur.die [(0x4000, 8)] = some g ∧ isPlain 8 := by
  refine ⟨ready_of (by decide +kernel), rfl, ⟨_, rfl⟩, ?_, ⟨_, by decide +kernel, rfl, by unfold isPlain; decide⟩⟩
  intro k hk
  simp only [List.mem_cons, List.mem_nil_iff, or_false] at hk
  rcases hk with rfl | rfl | rfl | rfl
  · exact ⟨[(0x4000, 8)], by decide +kernel⟩
  · exact ⟨[(0x5FF8, 8)], by decide +kernel⟩
  · exact ⟨[(0x2000, 8)], by decide +kernel⟩
  · exact ⟨[(0x3FF8, 8)], by decide +kernel⟩

/-- The first 4 GiB of the task's lease, of which the first GiB alone is mapped. -/
def leasedState : State := { mExample with m := { mExample.m with
  tasks := [{ placedTask with fp := [{ base := 0, len := 2 ^ 32, wr := true, ren := false, whole := false }] }] } }

/-- A store to a mapped address, one to a leased page that is not mapped, one to an address that is not canonical; a window access at
offset 0, one that ends at the limit, one past it and one below 0. -/
theorem witness_WeakStoresAndScratchpad : leasedState.Ready gu0 .a ∧ readG 7 leasedState.m = .ok (0x1122334455667788, leasedState.m) ∧
    readG 9 leasedState.m = .ok (0x4000, leasedState.m) ∧ leasedState.m.resolveCont 0x4000 8 .write = .ok [(0x4000, 8)] ∧
    leasedState.m.cur.touchesBlock 0x4000 8 = false ∧
    (∃ t, leasedState.m.resolveCont (toW (2 ^ 30)) 8 .write = .fail t ∧ t.cause ≠ 0x3001 ∧ t.cause ≠ 0x3005 ∧ leasedState.m.cur.imprecise = none) ∧
    (∃ t, leasedState.m.resolveCont (toW (2 ^ 62)) 8 .write = .fail t ∧ t.cause = 0x3001) ∧
    (∀ o ∈ [(0 : Int), 65528], 0 ≤ o ∧ o + (8 : ℕ) - 1 < leasedState.m.cur.winLimit ∧ leasedState.m.winMark leasedState.m.cur o.toNat 8 = none) ∧
    (∀ o ∈ [(-1 : Int), 65529], ¬(0 ≤ o ∧ o + (8 : ℕ) - 1 < leasedState.m.cur.winLimit)) ∧ leasedState.m.cur.resident = true :=
  ⟨ready_of (by decide +kernel), rfl, rfl, by decide +kernel, by decide +kernel, ⟨_, rfl, by decide +kernel⟩, ⟨_, rfl, by decide +kernel⟩,
    by decide +kernel⟩

/-- A location in memory and one in the window, for loads and stores; scopes 0, 4 and 5; every pair of sets of a FENCE. -/
theorem witness_AcquireReleaseFences : mExample.Ready gu0 .a ∧ readG 9 mExample.m = .ok (0x4000, mExample.m) ∧ readG 6 mExample.m = .ok (0x100, mExample.m) ∧
    (∀ c ∈ [(0 : BitVec 3), 4], mExample.m.strongReady c false 8 0x4000 .read (.mem 0x4000) ∧ mExample.m.strongReady c true 1 0x100 .read (.spad 1 0x100)) ∧
    (mExample.m.placePrep mExample.m.cur.die (.mem 0x4000) 8 false []).placeMark (.mem 0x4000) 8 = none ∧
    (∃ m3, writeG 8 0 ((mExample.m.placePrep mExample.m.cur.die (.mem 0x4000) 8 false []).placeAcquire mExample.m.cur.die (.mem 0x4000) 8) = .ok ((), m3)) ∧
    strongPlace false 8 0x4000 .write mExample.m = .ok (.mem 0x4000, mExample.m) ∧ mExample.m.cur.filledAll ∧ ((5 : BitVec 3).toNat ≥ 5) ∧
    ((0b0110 : BitVec 4).getLsbD 1 = true ∧ (0b0110 : BitVec 4).getLsbD 2 = true ∧ (0b0011 : BitVec 4).getLsbD 2 = false ∧ (0b0011 : BitVec 4).getLsbD 3 = false) := by
  refine ⟨ready_of (by decide +kernel), rfl, rfl, ?_, by decide +kernel, ⟨_, rfl⟩, rfl, ?_, by decide, by decide⟩
  · intro c hc
    simp only [List.mem_cons, List.mem_nil_iff, or_false] at hc
    rcases hc with rfl | rfl <;> exact ⟨⟨by decide, rfl, rfl, rfl⟩, ⟨by decide, rfl, rfl, rfl⟩⟩
  · exact filledAll_of (by decide +kernel)

/-- The counter of R163's example; for AMOCAS the comparand is in g8. -/
theorem witness_Atomics : mExample.Ready gu0 .a ∧ readG 10 mExample.m = .ok (0x4040, mExample.m) ∧ readG 8 mExample.m = .ok (1, mExample.m) ∧
    (∀ w : Bool, ∃ m4 m5, strongCheck false (if w then 8 else 4) 0x4040 mExample.m = .ok ((), mExample.m) ∧
      strongPlace false (if w then 8 else 4) 0x4040 .write mExample.m = .ok (.mem 0x4040, mExample.m) ∧ mExample.m.cur.imprecise = none ∧
      m4 = mExample.m.performed mExample.m.cur.id ∧ m5 = m4.placePrep m4.cur.die (.mem 0x4040) (if w then 8 else 4) true m4.cur.past ∧
      m5.placeMark (.mem 0x4040) (if w then 8 else 4) = none ∧ leNat (m5.placeRead (.mem 0x4040) (if w then 8 else 4)) = 10 ∧
      ∃ m7, writeG 11 10 ((m5.placeWrite m5.cur.die (.mem 0x4040) (leBytes 8 11)).placeAcquire m5.cur.die (.mem 0x4040) 8) = .ok ((), m7)) ∧
    mExample.m.cur.filledAll ∧ amoSpec 8 false 10 1 1 .add = some 11 ∧ amoSpec 8 false 10 1 1 .cas = none := by
  refine ⟨ready_of (by decide +kernel), rfl, rfl, fun w => ?_, filledAll_of (by decide +kernel), by decide, by decide⟩
  cases w <;> exact ⟨_, _, rfl, rfl, rfl, rfl, rfl, by decide +kernel, by decide +kernel, ⟨_, rfl⟩⟩

/-- A load-block of one line and one of 64; a live filled one, a live unfilled one and a free id. -/
def blockState : State := { mExample with m := { mExample.m with cur := { regs [(5, 0x100), (6, 63 * 2 ^ 32 + 0x100), (4, 0x100 + 65528 - 0x100)] mExample.m.cur with
  blocks := #v[none, some { va := 0x4000, pas := [0x4000], data := List.replicate 64 0, dirty := List.replicate 64 false, poison := [false], filled := true, cword := 0x100, cval := 9 },
    some { va := 0x4040, pas := [0x4040], data := List.replicate 64 0, dirty := List.replicate 64 false, poison := [false], filled := false, cword := 0x100, cval := 9 },
    none, none, none, none, none] } } }

theorem witness_LoadBlocks : blockState.Ready gu0 .a ∧ readG 9 blockState.m = .ok (0x4000, blockState.m) ∧
    (∀ len ∈ [64, 4096], ∃ ps, blockState.m.resolveCont 0x4000 len .read = .ok ps) ∧ 0x100 % 8 = 0 ∧ 0x100 + 8 ≤ blockState.m.cur.winLimit ∧
    65528 + 8 ≤ blockState.m.cur.winLimit ∧ (toW (63 * 2 ^ 32 + 0x100)).toNat / 2 ^ 38 = 0 ∧ (toW (63 * 2 ^ 32 + 0x100)).toNat / 2 ^ 23 % 2 ^ 9 = 0 ∧
    canonical 0x4000 = true ∧ canonical (0x4000 + toW 4095) = true ∧ vget blockState.m.cur.blocks 0 none = none ∧ vget blockState.m.cur.blocks 7 none = none ∧
    (∃ o, vget blockState.m.cur.blocks 1 none = some o ∧ o.filled = true) ∧ ∃ o, vget blockState.m.cur.blocks 2 none = some o ∧ o.filled = false := by
  refine ⟨ready_of (by decide +kernel), rfl, ?_, by decide, by decide +kernel, by decide +kernel, by decide, by decide, by decide, by decide, rfl, rfl, ⟨_, rfl, rfl⟩, ⟨_, rfl, rfl⟩⟩
  intro len h
  simp only [List.mem_cons, List.mem_nil_iff, or_false] at h
  rcases h with rfl | rfl
  · exact ⟨[(0x4000, 64)], by decide +kernel⟩
  · exact ⟨[(0x4000, 4096)], by decide +kernel⟩

/-- A task with a heap window of 64 KiB at 2^40, a page of the first GiB, an address that is not canonical; leased and unleased. -/
def heapState : State := { mExample with m := { mExample.m with
  cur := regs [(3, 2 ^ 40), (4, 2 ^ 62), (5, 0x4000)] mExample.m.cur,
  tasks := [{ placedTask with entry := { hbase := toW (2 ^ 40), hlim := 0x10000, hoff := toW (2 ^ 64 - 2 ^ 40 + 0x10000), ptbase := 0x100000 } }] } }

theorem witness_TranslationAndLeases : heapState.Ready gu0 .a ∧ readG 3 heapState.m = .ok (toW (2 ^ 40), heapState.m) ∧
    readG 4 heapState.m = .ok (toW (2 ^ 62), heapState.m) ∧ canonical (toW (2 ^ 40)) = true ∧ canonical (toW (2 ^ 62)) = false ∧
    ∃ t m2, m2 = heapState.m.withCur (heapState.m.cur.dropTx 1) ∧ m2.task? m2.cur.task = some t ∧ heapState.m.task? heapState.m.cur.task = some t ∧
      (∃ pa wr, m2.xlateTask m2.cur.die t (toW (2 ^ 40)) .write = .ok pa wr 3) ∧ (∃ pa wr sz, sz ≠ 3 ∧ m2.xlateTask m2.cur.die t 0x4000 .read = .ok pa wr sz) ∧
      t.leased = true ∧ (∃ r, t.fp.find? (fun r => decide (r.base.toNat ≤ (0x4000 : Word).toNat ∧ (0x4000 : Word).toNat < r.base.toNat + r.len)) = some r) ∧
      (∀ r ∈ t.fp, ¬(r.base.toNat ≤ (toW (2 ^ 40)).toNat ∧ (toW (2 ^ 40)).toNat < r.base.toNat + r.len)) :=
  ⟨ready_of (by decide +kernel), rfl, rfl, by decide, by decide, _, _, rfl, rfl, rfl, ⟨_, _, rfl⟩, ⟨0x4000, true, 2, by decide, by decide +kernel⟩, by decide +kernel,
    ⟨_, rfl⟩, by decide +kernel⟩

/-- The arena of R77's and R174's example behind slot 3; a stream record at 0x200 of the window and a broken one (no dimension) at
0x240; a queue descriptor at 0x4080 with one entry used of two, a full one at 0x40C0 and a bad one at 0x4100. -/
def arenaState : State :=
  let s := withSpad (withBytes mExample [
    (0x300018, leBytes 8 0x100000),
    (0x6060, leBytes 8 0x7000 ++ leBytes 8 0 ++ leBytes 2 1 ++ [0, 7] ++ leBytes 2 64 ++ leBytes 2 0 ++ leBytes 8 0),
    (0x7000, leBytes 8 0x0000400000000000 ++ leBytes 4 8256 ++ leBytes 4 131072 ++ [0, 7] ++ leBytes 2 256 ++ leBytes 2 256),
    (0x4080, leBytes 8 0x8000 ++ leBytes 4 64 ++ leBytes 4 2 ++ leBytes 8 1), (0x40C0, leBytes 8 0x8000 ++ leBytes 4 64 ++ leBytes 4 2 ++ leBytes 8 2)])
    [(0x200, leBytes 8 0x400 ++ [8, 1] ++ leBytes 6 0 ++ leBytes 2 4), (0x300, [7, 7])]
  { s with m := { s.m with
      regs := { s.m.regs with ctxtab := 0x300000, ctxcnt := 1, filltab := 0x6000 }
      cur := { regs [(1, 0x200), (2, 0x240), (3, 0x4080), (4, 0x40C0), (5, 0x00000503000003E8), (6, 0x4100), (7, 0x00000503000FFFFF)] s.m.cur with
        ag := vset s.m.cur.ag 2 { w0 := 0x0000400014280000, w1 := 0x00000503000003E8 }
        mx := { s.m.cur.mx with rings := vset s.m.cur.mx.rings 1 (BitVec.ofNat 128 (2 ^ 51 + 2 ^ 43 * 3 + 2 ^ 35 * 1 + 2 ^ 32 * 2 + 2 ^ 23 + 0x400 + 2 ^ 64 * 0x300)) } } } }

/-- Bound generators, views and queue descriptors; every clause of the checks at both sides of its boundary. -/
theorem witness_StreamsGeneratorsRings : arenaState.Ready gu0 .a ∧
    (readG 1 arenaState.m = .ok (0x200, arenaState.m) ∧ streamOk (arenaState.m.winRead arenaState.m.cur 0x200 64) = true ∧
      arenaState.m.winMark arenaState.m.cur 0x200 64 = none ∧ readG 2 arenaState.m = .ok (0x240, arenaState.m) ∧
      streamOk (arenaState.m.winRead arenaState.m.cur 0x240 64) = false ∧
      (∀ k ∈ [(-8 : Int), 1015], 0 ≤ 0x200 + k * 64 ∧ 0x200 + k * 64 + 64 ≤ arenaState.m.cur.winLimit)) ∧
    (arenaState.m.bindAg 0 0x00000503000003E8 = .ok { w0 := 0x0000400014280000, w1 := 0x00000503000003E8 } ∧ arenaState.m.bindAg 0 0x00000503000FFFFF = .error { cause := 0x200D } ∧
      arenaState.m.advanceAg 0 (vget arenaState.m.cur.ag 2 {}) 2 = .ok { w0 := 0x0000400014280000, w1 := 0x00000503000003EA } ∧
      arenaState.m.advanceAg 0 (vget arenaState.m.cur.ag 2 {}) 130072 = .error { cause := 0x200D } ∧
      arenaState.m.advanceAg 0 (vget arenaState.m.cur.ag 2 {}) 130071 = .ok { w0 := 0x0000400014280000, w1 := 0x000005030001FFFF }) ∧
    (arenaState.m.cur.claim = true ∧ (vget arenaState.m.cur.mx.rings 1 0).getLsbD 51 = true ∧ ringOk arenaState.m.cur (vget arenaState.m.cur.mx.rings 1 0) = true ∧
      arenaState.m.cur.mx.array = [] ∧ arenaState.m.cur.mx.tq1 = [] ∧ arenaState.m.jobs = [] ∧
      ringOcc (vget arenaState.m.cur.mx.rings 1 0) = 2 ∧ ringCount (vget arenaState.m.cur.mx.rings 1 0) = 4 ∧
      (∃ r, putRowCounts (vget arenaState.m.cur.mx.rings 1 0) 64 2 (ringTail (vget arenaState.m.cur.mx.rings 1 0)) (arenaState.m.performed arenaState.m.cur.id) = .ok r) ∧
      ∃ c : Cont, c.claim = false) ∧
    (arenaState.m.cur.filledAll ∧ arenaState.m.cur.imprecise = none ∧ arenaState.m.winMark arenaState.m.cur 0x200 64 = none ∧
      ∀ x ∈ [(0x4080, true, 1), (0x40C0, true, 2), (0x4100, false, 0)], arenaState.m.cur.touchesBlock x.1 64 = false ∧
        strongPlace false 64 (toW x.1) .read arenaState.m = .ok (.mem x.1, arenaState.m) ∧
        ((arenaState.m.performed 1).placePrep 0 (.mem x.1) 64 true []).placeMark (.mem x.1) 64 = none ∧
        wqOk (((arenaState.m.performed 1).placePrep 0 (.mem x.1) 64 true []).placeRead (.mem x.1) 64) = x.2.1 ∧
        leAt (((arenaState.m.performed 1).placePrep 0 (.mem x.1) 64 true []).placeRead (.mem x.1) 64) 16 8 = x.2.2) ∧
    ∃ ps, ((arenaState.m.performed 1).placePrep 0 (.mem 0x4080) 64 true []).resolveCont 0x8040 64 .write = .ok ps := by
  refine ⟨ready_of (by decide +kernel), ?_, by decide +kernel, ?_, ⟨filledAll_of (by decide +kernel), rfl, by decide +kernel, fun x hx => ?_⟩, [(0x8040, 64)], by decide +kernel⟩
  · exact ⟨rfl, join2 (by decide +kernel) ⟨rfl, by decide +kernel⟩⟩
  · refine ⟨rfl, join5 (by decide +kernel) (join2 (by decide +kernel) ⟨okay_of (by decide +kernel), { placedCont none with claim := false }, rfl⟩)⟩
  · simp only [List.mem_cons, List.mem_nil_iff, or_false] at hx
    rcases hx with rfl | rfl | rfl <;> decide +kernel

/-! Vector commands: A at 0x1000, B at 0x1800, D at 0x2000 of the window, all of stride 1 but where a name says otherwise. -/

/-- A vector command's operands are read, and something holds of them. -/
def runsCheck (s : State) (l : Bool) (a b : GF) (k : ℕ → VFmt → VArg → Mach → Bool) : Bool :=
  s.m.cur.runs gu0 && openB s .v && (!l || s.m.cur.claim) && s.m.cur.vlNow.toNat != 0 &&
    match vArgs a b s.m with
    | .ok (g, m) => k s.m.cur.vlNow.toNat (vFmt s.m.fmtNow) g m
    | .error _ => false

theorem runs_of {s : State} {l : Bool} {a b : GF} {k : ℕ → VFmt → VArg → Mach → Bool} (h : runsCheck s l a b k = true) :
    ∃ n v g m, s.vRuns gu0 l a b n v g m ∧ k n v g m = true := by
  simp only [runsCheck, Bool.and_eq_true, Bool.or_eq_true, Bool.not_eq_true', bne_iff_ne] at h
  obtain ⟨⟨⟨⟨h1, h2⟩, h3⟩, h4⟩, h5⟩ := h
  split at h5
  · rename_i g m e
    exact ⟨_, _, g, m, ⟨⟨h1, open_of h2⟩, fun hl => by simpa [hl] using h3, rfl, h4, rfl, e⟩, h5⟩
  · cases h5

/-- The checks of R178, as a value. -/
def passesB (p : VPlan) (c : Cont) : Bool :=
  (p.dsts ++ p.srcs).all (fun r => r.inside c) && !p.bad && (p.dsts ++ p.srcs).all (fun r => r.off % r.z == 0) && !p.clash

theorem passes_of {p : VPlan} {c : Cont} (h : passesB p c = true) : p.passes c := by
  simp only [passesB, Bool.and_eq_true, List.all_eq_true, Bool.not_eq_true', beq_iff_eq] at h
  exact ⟨h.1.1.1, h.1.1.2, h.1.2, h.2⟩

/-- An element-wise command's operands are in order, and something holds of its formats and elements. -/
def Elements (s : State) (l : Bool) (a b : GF) (q : VFmt → VForm) (k : VFmt → List ℕ → Bool) : Prop :=
  ∃ n v g xs ys zs mk dk m, s.vElements gu0 l a b q n v g xs ys zs mk dk m ∧ k v xs = true ∧ m.expHeld m.cur = false

/-- The elements of A. -/
def takesB (m : Mach) (l : Bool) (w z n : ℕ) : List ℕ × Mach :=
  if l then ((List.range n).map (fun i => leAt ((m.cur.mx.latch.take (n * z)).map Prod.fst) (i * z) z),
    m.withCur { m.cur with mx := { m.cur.mx with latch := m.cur.mx.latch.drop (n * z) } })
  else (m.region (vReg w z n), m)

theorem elements_of {s : State} {l : Bool} {a b : GF} {q : VFmt → VForm} {k : VFmt → List ℕ → Bool}
    (h : runsCheck s l a b (fun n v g m0 =>
      let m := m0.flushOver ((q v).plan l g n)
      (q v).ok && passesB ((q v).plan l g n) m0.cur && (q v).za != 0 &&
      (!l || decide (n * (q v).za ≤ m.cur.mx.latch.length)) && k v (takesB m l g.a (q v).za n).1 &&
      !(((takesB m l g.a (q v).za n).2.drawn v.dusk).expHeld ((takesB m l g.a (q v).za n).2.drawn v.dusk).cur)) = true) : Elements s l a b q k := by
  obtain ⟨n, v, g, m, hr, hk⟩ := runs_of h
  simp only [Bool.and_eq_true, Bool.or_eq_true, Bool.not_eq_true', bne_iff_ne, decide_eq_true_eq] at hk
  obtain ⟨⟨⟨⟨⟨h1, h2⟩, h3⟩, h4⟩, h5⟩, h6⟩ := hk
  refine ⟨n, v, g, _, _, _, _, _, _, ⟨m.flushOver ((q v).plan l g n), if l then ((m.flushOver ((q v).plan l g n)).cur.mx.latch.take (n * (q v).za)).any
    Prod.snd else (m.flushOver ((q v).plan l g n)).regionMarked (vReg g.a (q v).za n), _, ⟨m, hr, passes_of h2, rfl⟩, h1, h3, ?_, rfl, rfl, rfl, rfl, rfl⟩, h5, h6⟩
  cases l
  · exact ⟨rfl, rfl, rfl⟩
  · exact ⟨by simpa using h4, rfl, rfl, rfl⟩

/-- Three elements; two of 32 words; C at 0x2800, or the scalar. -/
def vec3 (fmt : ℕ) (c : ℕ) : State := withSpad (vec 3 fmt 0x0080100000802000 (c * 2 ^ 32 + 0x801800))
  [(0x1000, elems 4 [0x3F800000, 0x7FC00000, 0x80000001]), (0x1800, elems 4 [2, 0, 1])]

/-- The same with B unused. -/
def vecA (fmt c : ℕ) : State := withSpad (vec 3 fmt 0x0080100000802000 (c * 2 ^ 32)) [(0x1000, elems 4 [0x3F800000, 0x7FC00000, 0x80000001])]

/-- The same with A from the latch, which holds just the three elements of four bytes. -/
def vecL (fmt b c : ℕ) : State :=
  let s := vec 3 fmt 0x00802000 (c * 2 ^ 32 + b)
  { s with m := { s.m with cur := { s.m.cur with mx := { s.m.cur.mx with latch := (elems 4 [0x3F800000, 0x7FC00000, 0x80000001]).map fun x => (x, false) } } } }

theorem witness_VectorArithmetic : Elements (vec3 0 0) false 5 6 (arithForm true false false) (fun v _ => isFloat v.va) ∧
    Elements (vecL 0x02066000 0x801800 0) true 5 6 (arithForm true false false) (fun v _ => isInt v.va && v.dusk) ∧
    Elements (vec3 0 0x802800) false 5 6 (arithForm true true false) (fun _ _ => true) ∧
    Elements (vec3 0x6000 7) false 5 6 (arithForm true false true) (fun v _ => v.va != v.vd) ∧
    Elements (vecA 0 7) false 5 6 (arithForm false false true) (fun _ _ => true) ∧
    Elements (vecL 0 0 7) true 5 6 (arithForm false false true) (fun _ _ => true) ∧
    Elements (vecA 0 0) false 5 0 (arithForm false false false) (fun v xs => v.va == v.vd && isFloat v.va && xs == [0x3F800000, 0x7FC00000, 0x80000001]) ∧
    Elements (vecA 0x66000 0) false 5 0 (arithForm false false false) (fun v _ => isInt v.va) :=
  ⟨elements_of (by decide +kernel), elements_of (by decide +kernel), elements_of (by decide +kernel), elements_of (by decide +kernel),
    elements_of (by decide +kernel), elements_of (by decide +kernel), elements_of (by decide +kernel), elements_of (by decide +kernel)⟩

theorem witness_VectorFunctionsConversion :
    Elements (vecA 0 0) false 5 0 (fun v => { ok := isFloat v.va && isFloat v.vd, za := elemBytes v.va, zd := elemBytes v.vd }) (fun _ _ => true) ∧
    Elements (vecL 0x02000000 0 0) true 5 0 (fun v => { ok := floatNot64 v.va && floatNot64 v.vd, za := elemBytes v.va, zd := elemBytes v.vd }) (fun v _ => v.dusk) ∧
    Elements (vecA 0x60000 0) false 5 0 (arithForm false false false) (fun v _ => v.vd == 6) :=
  ⟨elements_of (by decide +kernel), elements_of (by decide +kernel), elements_of (by decide +kernel)⟩

theorem witness_VectorCompareSelectInteger :
    (∀ sc : Bool, Elements (if sc then vecA 0 7 else vec3 0 0) false 5 6 (fun v => { ok := vectorFmt v.va, za := elemBytes v.va, zb := if sc then 0 else elemBytes v.va, zd := 1, scalar := sc }) (fun _ _ => true)) ∧
    (∀ x ∈ [(0, true), (0x10000, false)], Elements (vec3 x.1 0x802800) false 5 6 (fun v => { ok := vectorFmt v.va && vectorFmt v.vd, za := elemBytes v.va, zb := elemBytes v.va, zc := 1, zd := elemBytes v.vd }) (fun v _ => (v.va == v.vd) == x.2)) ∧
    (∀ sc : Bool, Elements (if sc then vecA 0 7 else vec3 0 0) false 5 6 (fun _ => { za := 4, zb := if sc then 0 else 4, zd := 4, scalar := sc }) (fun _ _ => true)) ∧
    ∀ sc : Bool, Elements (if sc then vecA 0 63 else vec3 0 0) false 5 6 (fun v => { ok := vectorFmt v.vd, za := elemBytes v.vd, zb := if sc then 0 else elemBytes v.vd, zd := elemBytes v.vd, scalar := sc })
      (fun v xs => xs.all fun x => decide (x < 2 ^ (8 * elemBytes v.vd))) := by
  refine ⟨fun sc => ?_, fun x hx => ?_, fun sc => ?_, fun sc => ?_⟩
  · cases sc <;> exact elements_of (by decide +kernel)
  · simp only [List.mem_cons, List.mem_nil_iff, or_false] at hx
    rcases hx with rfl | rfl <;> exact elements_of (by decide +kernel)
  · cases sc <;> exact elements_of (by decide +kernel)
  · cases sc <;> exact elements_of (by decide +kernel)

/-- A vector command's operands are in order, and something holds of them. -/
def Runs (s : State) (l : Bool) (a b : GF) (k : ℕ → VFmt → VArg → Mach → Bool) : Prop :=
  ∃ n v g m, s.vRuns gu0 l a b n v g m ∧ k n v g m = true

/-- The plan of an addition, and which of its checks pass: range, limits, alignment, overlap. -/
def addChecks (n : ℕ) (v : VFmt) (g : VArg) (m : Mach) : List Bool :=
  let p := (arithForm true false false v).plan false g n
  [(p.dsts ++ p.srcs).all (fun r => r.inside m.cur), !p.bad, (p.dsts ++ p.srcs).all (fun r => r.off % r.z == 0), !p.clash]

/-- The window's last element is inside it; one word further is not. -/
def vecAt (fmt d a b : ℕ) : State := vec 3 fmt (a * 2 ^ 32 + d) b

theorem witness_VectorLengthMoveFill : (vec3 0 0).Ready gu0 .v ∧ readG 5 (placed .v (regs [(5, 65535), (6, 65536)])).m = .ok (65535, (placed .v (regs [(5, 65535), (6, 65536)])).m) ∧
    (65536 : Word).toNat > 65535 ∧
    Elements (vecA 0x35000 0) false 5 0 (fun v => { ok := vectorFmt v.vd, za := elemBytes v.vd, zd := elemBytes v.vd }) (fun v _ => v.va != v.vd) ∧
    Elements (vecL 0 0 0) true 5 0 (fun v => { ok := vectorFmt v.vd, za := elemBytes v.vd, zd := elemBytes v.vd }) (fun _ _ => true) ∧
    (∃ m1 m2 x y, (vecAt 0 0x802000 0 7).m.cur.vlNow = 3 ∧ readG 5 (vecAt 0 0x802000 0 7).m = .ok (x, m1) ∧ readG 6 m1 = .ok (y, m2) ∧
      vectorFmt (vFmt (vecAt 0 0x802000 0 7).m.fmtNow).vd = true ∧ x.toNat / 2 ^ 32 = 0 ∧ (vReg (x.toNat % 2 ^ 32) 4 3).inside m2.cur = true ∧
      (vReg (x.toNat % 2 ^ 32) 4 3).off % 4 = 0 ∧ (vReg (x.toNat % 2 ^ 32) 4 3).stride ≠ 0) ∧
    ((vec 0 0 0 0).Ready gu0 .v ∧ (vec 0 0 0 0).m.cur.claim = true ∧ (vec 0 0 0 0).m.cur.vlNow = 0) ∧
    ((vec 0 0 0 0).m.cur.vlGroup = (vec 0 0 0 0).m.cur.groupNow ∧ ({ (vec 0 0 0 0).m.cur with vlGroup := 9 } : Cont).vlGroup ≠ (vec 0 0 0 0).m.cur.groupNow) ∧
    Runs (vec3 0x8000 0) false 5 6 (fun _ v _ _ => !vectorFmt v.va) ∧
    Runs (vec3 0 7) false 5 6 (fun n v g m => addChecks n v g m == [true, false, true, true]) ∧
    Runs (vecAt 0 0x802000 0x801002 0x801800) false 5 6 (fun n v g m => addChecks n v g m == [true, true, false, true]) ∧
    Runs (vecAt 0 0x801004 0x801000 0x801800) false 5 6 (fun n v g m => addChecks n v g m == [true, true, true, false]) ∧
    Runs (vecAt 0 0x802000 0x80FFF4 0x801800) false 5 6 (fun n v g m => addChecks n v g m == [true, true, true, true]) ∧
    Runs (vecAt 0 0x802000 0x80FFF8 0x801800) false 5 6 (fun n v g m => addChecks n v g m == [false, true, true, true]) :=
  ⟨ready_of (by decide +kernel), rfl, by decide, elements_of (by decide +kernel), elements_of (by decide +kernel),
    ⟨_, _, _, _, by decide +kernel, rfl, rfl, by decide +kernel⟩, ⟨ready_of (by decide +kernel), rfl, by decide +kernel⟩, by decide +kernel,
    runs_of (by decide +kernel), runs_of (by decide +kernel), runs_of (by decide +kernel), runs_of (by decide +kernel), runs_of (by decide +kernel),
    runs_of (by decide +kernel)⟩

/-- 32 elements of four bytes at 0x1000, D at 0x2000, scales at 0x3000 (B), or one scale (C). -/
def quantState (fmt b c : ℕ) : State := withSpad (vec 32 fmt 0x0080100000802000 (c * 2 ^ 32 + b)) [(0x1000, elems 4 (List.replicate 32 0x3F800000))]

theorem witness_BlockQuantisation :
    (∀ x ∈ [(0x230000, 0, 0x3F800000), (0x30000, 0x803000, 0), (0x130000, 0x803000, 0)],
      Runs (quantState x.1 x.2.1 x.2.2) false 5 6 (fun n v g m => isFloat v.va && quantFmt v.vd && decide (v.bs < 3) && passesB (quantPlan false true v g n) m.cur)) ∧
    (∀ x ∈ [(0x203000, 0, 0x3F800000), (0x3000, 0x803000, 0), (0x103000, 0x803000, 0)],
      Runs (quantState x.1 x.2.1 x.2.2) false 5 6 (fun n v g m => quantFmt v.va && isFloat v.vd && decide (v.bs < 3) && passesB (quantPlan false false v g n) m.cur)) ∧
    (readNum 0 0x3F800000 = .fin false (2 ^ 23) (-23) ∧ -127 < ((quantBlock 0 3 [0x3F800000]).1 : ℤ) - 127 ∧ ((quantBlock 0 3 [0x3F800000]).1 : ℤ) - 127 < 127) := by
  refine ⟨fun x hx => ?_, fun x hx => ?_, by decide +kernel⟩ <;>
    (simp only [List.mem_cons, List.mem_nil_iff, or_false] at hx; rcases hx with rfl | rfl | rfl <;> exact runs_of (by decide +kernel))

/-- A command over A (and B) with one destination element of z bytes. -/
def toOne (s : State) (b : GF) (z : VFmt → ℕ) (k : VFmt → Bool) : Prop := Runs s false 5 b (fun n v g m => vectorFmt v.va && vectorFmt v.vd && k v &&
  passesB { srcs := [vReg g.a (elemBytes v.va) n] ++ (if b = 0 then [] else [vReg g.b (elemBytes v.va) n]), dsts := [vReg g.d (z v) 1]
            bad := (b = 0 && g.b ≠ 0) || g.c ≠ 0 } m.cur)

theorem witness_VectorReductionsScan : toOne (vecA 0 0) 0 (fun _ => 4) (fun _ => true) ∧
    toOne (vecA 0x02000000 0) 0 (fun v => elemBytes v.vd) (fun v => !isInt v.va && v.dusk) ∧ toOne (vecA 0x56000 0) 0 (fun v => elemBytes v.vd) (fun v => isInt v.va) ∧
    toOne (vec3 0 0) 6 (fun v => elemBytes v.vd) (fun v => !isInt v.va) ∧ toOne (vec3 0x66000 0) 6 (fun v => elemBytes v.vd) (fun v => isInt v.va) ∧
    Runs (vecA 0 0) false 5 0 (fun n v g m => !isInt v.va && passesB ((arithForm false false false v).plan false g n) m.cur) ∧
    Runs (vecA 0x66000 0) false 5 0 (fun n v g m => isInt v.va && vectorFmt v.vd && passesB ((arithForm false false false v).plan false g n) m.cur) :=
  ⟨runs_of (by decide +kernel), runs_of (by decide +kernel), runs_of (by decide +kernel), runs_of (by decide +kernel), runs_of (by decide +kernel),
    runs_of (by decide +kernel), runs_of (by decide +kernel)⟩

/-- Two-byte indices [0, 2, 1] (a table of three) or [0, 3, 9]; four-byte indices [2, 0, 2]. -/
def permState (ix : List ℕ) (z c : ℕ) : State := withSpad (vec 3 0 0x0080100000802000 (c * 2 ^ 32 + 0x801800))
  [(0x1000, elems 4 [0x3F800000, 0x40000000, 0x40400000]), (0x1800, elems z ix)]

/-- The index of VPERM's first element that lies past the table. -/
def permFirst (n : ℕ) (g : VArg) (m : Mach) : Option ℕ := (m.region (vReg g.b 2 n)).findIdx? fun i => decide (g.c % 2 ^ 16 ≤ i)

theorem witness_VectorPermuteGatherScatter :
    (∀ x ∈ [([0, 2, 1], none), ([0, 3, 9], some 1)], Runs (permState x.1 2 3) false 5 6 (fun n v g m => vectorFmt v.vd && permFirst n g m == x.2 &&
      passesB { srcs := [vReg g.a 4 (g.c % 2 ^ 16), vReg g.b 2 n], dsts := [vReg g.d 4 n]
                bad := decide (bits g.c 31 16 ≠ 0) || ((vReg g.d 4 n).stride == 0 && decide (1 < n)) } m.cur)) ∧
    Runs (permState [2, 0, 2] 4 0) false 5 6 (fun n v g m => vectorFmt v.vd && (vReg g.a 4 1).stride == 1 && g.c == 0 &&
      passesB { srcs := [{ vReg g.a 4 3 with stride := 1 }, vReg g.b 4 n], dsts := [vReg g.d 4 n]
                bad := (vReg g.d 4 n).stride == 0 && decide (1 < n) } m.cur) ∧
    Runs (permState [2, 0, 2] 4 0) false 5 6 (fun n v g m => isFloat v.va && isFloat v.vd && g.c == 0 && (m.region (vReg g.b 4 n)).eraseDups == [2, 0] &&
      passesB { srcs := [vReg g.a 4 n, vReg g.b 4 n], dsts := [{ vReg g.d 4 3 with stride := 1 }], strict := true } m.cur) := by
  refine ⟨fun x hx => ?_, runs_of (by decide +kernel), runs_of (by decide +kernel)⟩
  simp only [List.mem_cons, List.mem_nil_iff, or_false] at hx
  rcases hx with rfl | rfl <;> exact runs_of (by decide +kernel)

theorem witness_VectorSoftmaxNormRotateMask :
    Runs (vecAt 0 0x802000 0x801000 0x1800) false 5 6 (fun n v g m => floatNot64 v.va && vectorFmt v.vd && !m.expHeld m.cur && (vReg g.b 16 1).stride == 0 && g.c == 0 &&
      !(vReg g.b 16 1).meets (vReg g.a 4 n) && !(vReg g.b 16 1).meets (vReg g.d 4 n) &&
      passesB { srcs := [vReg g.a 4 n, vReg g.b 16 1], dsts := [vReg g.d 4 n], bad := (vReg g.d 4 n).stride == 0 && decide (1 < n) } m.cur) ∧
    Runs (vec3 0 0x3727C5AC) false 5 6 (fun n v g m => floatNot64 v.va &&
      passesB (VForm.plan { arithForm true false true v with scalar := true } false g n) m.cur) ∧
    Runs (vec 2 0 0x0080100000802000 0x00FFFFFF00801800) false 5 6 (fun n v g m => floatNot64 v.va && n % 2 == 0 && decide (g.c < 2 ^ 24) && !m.expHeld m.cur &&
      passesB { srcs := [vReg g.a 4 n, vReg g.b 4 (n / 2)], dsts := [vReg g.d 4 n], bad := (vReg g.d 4 n).stride == 0 && decide (1 < n) } m.cur) ∧
    Runs (vecAt 0 0x802000 0x801000 0x00020001) false 5 6 (fun n v g m => vectorFmt v.va && isFloat v.vd && v.vd != 3 &&
      passesB ((arithForm false false false v).plan false { g with b := 0 } n) m.cur) ∧
    Runs (vecAt 0x66000 0x802000 0x801000 0x00020001) false 5 6 (fun n v g m => vectorFmt v.va && isInt v.vd &&
      passesB ((arithForm false false false v).plan false { g with b := 0 } n) m.cur) :=
  ⟨runs_of (by decide +kernel), runs_of (by decide +kernel), runs_of (by decide +kernel), runs_of (by decide +kernel), runs_of (by decide +kernel)⟩

theorem witness_TokenWordsOrderingStatus :
    (∀ cap ∈ [0, 255, 256, 511], Runs (vec 3 0 0x0080100000802000 (cap * 2 ^ 32 + 0x1800)) false 5 6 (fun n _ g m => decide (n ≤ 64) && (vReg g.d 8 n).stride == 1 &&
      (vReg g.b 16 1).stride == 0 && (vReg g.b 16 1).off % 64 == 0 && decide (g.c < 2 ^ 9) && !m.regionMarked (vReg g.d 8 n) &&
      passesB { srcs := [vReg g.a 4 n, { vReg g.b 16 1 with off := (vReg g.b 16 1).off + 16 * (g.c % 2 ^ 8) }], dsts := [vReg g.d 8 n] } m.cur)) ∧
    Runs (vec 64 0 0x0080100000002000 0) false 5 0 (fun n _ g m => decide (n ≤ 64) && !m.regionMarked (vReg g.a 8 n) &&
      passesB { srcs := [vReg g.a 8 n], dsts := [vReg g.d 8 1] } m.cur) ∧
    ((placed .v (regs [(5, 0xFFF8)])).Ready gu0 .v ∧ readG 5 (placed .v (regs [(5, 0xFFF8)])).m = .ok (0xFFF8, (placed .v (regs [(5, 0xFFF8)])).m) ∧
      (vReg 0xFFF8 8 1).inside (placed .v (regs [(5, 0xFFF8)])).m.cur = true ∧ (vReg 0xFFF8 8 1).off % 8 = 0) := by
  refine ⟨fun x hx => ?_, runs_of (by decide +kernel), ready_of (by decide +kernel), rfl, by decide +kernel, by decide⟩
  simp only [List.mem_cons, List.mem_nil_iff, or_false] at hx
  rcases hx with rfl | rfl | rfl | rfl <;> exact runs_of (by decide +kernel)

/-! ### Matrix, job and control statements -/

/-- A ring view: base, bytes of a tile, one or two tiles, tiles produced, where the row counts stand. -/
def ringWord (base size log tail rows : ℕ) : BitVec 128 :=
  BitVec.ofNat 128 (2 ^ 51 + tail * 2 ^ 43 + log * 2 ^ 32 + size / 64 * 2 ^ 23 + base + 2 ^ 64 * rows)

/-- Rings 1 and 2 hold one tile each, of 64 rows; the elements are zeros. -/
def mState (fmt : ℕ) : State := withSpad (placed .m fun c => { c with
  fmt := BitVec.ofNat 32 fmt
  mx := { c.mx with rings := vset (vset c.mx.rings 1 (ringWord 0x1000 16384 0 1 0x300)) 2 (ringWord 0x6000 16384 1 1 0x304) } })
  [(0x300, [64, 0, 0, 0, 64]), (0x1000, [0x38, 0x38])]

theorem witness_MatrixOperands : stepOf .plain 1 2 = some (false, 2) ∧ stepOf .sparse 3 4 = some (false, 8) ∧ stepOf .codebook 4 8 = some (false, 4) ∧
    scaled 3 2 = false ∧ scaled 3 1 = true ∧ scaled 10 0 = false ∧ (63 : ℕ) < 64 ∧
    (∀ _k : ℕ, ∃ sg m e, (Machine.Num.fin true 3 (-4)) = .fin sg m e) := ⟨rfl, rfl, rfl, rfl, rfl, rfl, by decide, fun _ => ⟨_, _, _, rfl⟩⟩

/-- An M-slot command's premises, as a value. -/
def mRunsB (s : State) (f : W32) : Bool :=
  s.m.cur.runs gu0 && openB s .m && s.m.cur.claim && !s.m.runHolds s.m.cur && (s.m.cur.fmt.getLsbD 24 || !s.m.cur.queue1Ready) && f == s.m.fmtNow

theorem mRuns_of {s : State} {f : W32} (h : mRunsB s f = true) : s.mRuns gu0 f (s.m.landDrains s.m.cur.id) := by
  simp only [mRunsB, Bool.and_eq_true, Bool.or_eq_true, Bool.not_eq_true', beq_iff_eq] at h
  obtain ⟨⟨⟨⟨⟨h1, h2⟩, h3⟩, h4⟩, h5⟩, h6⟩ := h
  exact ⟨⟨h1, open_of h2⟩, h3, h4, h5, h6, rfl⟩

/-- One format pair of each kind of multiply with one K-step and sixteen, and a pair that is in no table. -/
theorem witness_MatrixMultiply :
    (∀ x ∈ [(Mul.plain, 0x11, false, 2, 1), (.plain, 0x55, true, 4, 16), (.transposed, 0x44, false, 4, 16), (.sparse, 0x200033, false, 8, 16), (.codebook, 0x83, false, 4, 16)],
      ∃ m, (mState x.2.1).mRuns gu0 (BitVec.ofNat 32 x.2.1) m ∧ m.cur.tileAt 1 = .ok (0x1000, 0x300) ∧ m.cur.tileAt 2 = .ok (0x6000, 0x304) ∧
        m.cur.mx.array = [] ∧ stepOf x.1 (x.2.1 % 16) (x.2.1 / 16 % 16) = some (x.2.2.1, x.2.2.2.1) ∧
        (x.1 = .sparse → x.2.1 / 2 ^ 22 % 4 = 0) ∧ x.2.1 / 2 ^ 20 % 4 ≠ 3 ∧
        (∀ n ∈ [tileBytes x.1 true x.2.2.2.2 x.2.2.2.1 0 + (if scaled (x.2.1 % 16) (x.2.1 / 2 ^ 20 % 4) then 4096 else 0),
          tileBytes x.1 false x.2.2.2.2 x.2.2.2.1 (elemBytes (x.2.1 / 16 % 16)) + (if scaled (x.2.1 / 16 % 16) (x.2.1 / 2 ^ 20 % 4) then 4096 else 0)],
          n ≤ 16384 ∧ m.cur.inWindow 0x1000 n = true ∧ m.cur.inWindow 0x6000 n = true) ∧
        ringSize (vget m.cur.mx.rings 1 0) = 16384 ∧ ringSize (vget m.cur.mx.rings 2 0) = 16384 ∧ m.cur.inWindow 0x300 1 = true ∧
        m.winMark m.cur 0x300 1 = none ∧ leNat (m.winRead m.cur 0x300 1) = 64) ∧
    ∃ m, (mState 0).mRuns gu0 0 m ∧ m.cur.mx.array = [] ∧ stepOf .plain 0 0 = none := by
  refine ⟨fun x hx => ?_, ⟨_, mRuns_of (by decide +kernel), rfl, rfl⟩⟩
  simp only [List.mem_cons, List.mem_nil_iff, or_false] at hx
  rcases hx with rfl | rfl | rfl | rfl | rfl <;>
    exact ⟨_, mRuns_of (by decide +kernel), by decide +kernel, by decide +kernel, rfl, by decide +kernel⟩

/-- An accumulator of each kind with one row, drained to FP32, BF16, INT32 and INT8 at the window's last place. -/
def accState (int : Bool) (fmt : ℕ) : State :=
  let s := mState fmt
  { s with m := { s.m with cur := { s.m.cur with mx := { s.m.cur.mx with acc := vset s.m.cur.mx.acc 1 { int := int, mark := 1 } } } } }

theorem witness_MatrixAccumulatorsAndDrains :
    (∃ m, (mState 0).mRuns gu0 0 m ∧ m.cur.noDrain 1 ∧ m.cur.hasTile 1 ∧ m.cur.hasTile 2 ∧ m.cur.inWindow (49152 : ℕ) 16384 = true ∧ 49152 % 64 = 0 ∧
      m.cur.inWindow (64512 : ℕ) 1024 = true ∧ 64512 % 64 = 0 ∧ m.cur.inWindow (65532 : ℕ) 4 = true ∧ 65532 % 4 = 0 ∧ 65532 % 64 ≠ 0) ∧
    ((placed .m fun c => { c with claim := false }).Ready gu0 .m ∧ (placed .m fun c => { c with claim := false }).m.cur.claim = false) ∧
    ∀ x ∈ [(false, 0x000, 65280), (false, 0x100, 65408), (true, 0x600, 65280), (true, 0x500, 65472)],
      ∃ m, (accState x.1 x.2.1).mRuns gu0 (BitVec.ofNat 32 x.2.1) m ∧ (vget m.cur.mx.acc 1 {}).int = x.1 ∧ (vget m.cur.mx.acc 1 {}).mark = 1 ∧
        (if x.1 then x.2.1 / 2 ^ 8 % 16 = 5 ∨ x.2.1 / 2 ^ 8 % 16 = 6 ∨ x.2.1 / 2 ^ 8 % 16 = 9 ∨ x.2.1 / 2 ^ 8 % 16 = 10 else x.2.1 / 2 ^ 8 % 16 ≤ 4) ∧
        x.2.2 % elemBytes (x.2.1 / 2 ^ 8 % 16) = 0 ∧ m.cur.inWindow x.2.2 (64 * 1 * elemBytes (x.2.1 / 2 ^ 8 % 16)) = true ∧
        ∃ ts, m.drainTargets m.cur 1 = some ts ∧ ∀ t ∈ ts, t.inWindow x.2.2 (64 * 1 * elemBytes (x.2.1 / 2 ^ 8 % 16)) = true := by
  refine ⟨⟨_, mRuns_of (by decide +kernel), ?_⟩, ⟨ready_of (by decide +kernel), rfl⟩, fun x hx => ?_⟩
  · unfold Cont.noDrain Cont.hasTile; decide +kernel
  · simp only [List.mem_cons, List.mem_nil_iff, or_false] at hx
    rcases hx with rfl | rfl | rfl | rfl <;>
      exact ⟨_, mRuns_of (by decide +kernel), join5 (by decide +kernel) ⟨_, rfl, by decide +kernel⟩⟩

/-- A command in the array that drains to the latch and to a window; a command at the head of tile queue 1; a continuation with neither. -/
def arrayState : State :=
  let s := mState 0
  let k : MCmd := { id := 5, mx := 0, fmt := 0, pc := 0, drain := true, acc := 1, waits := 0x10, esize := 4, elems := [1, 2], writes := [{ key := skey 0 0x100, bytes := [7] }], pops := [1, 2], src := .slot }
  { s with m := { s.m with conts := [{ s.m.cur with id := 9, mx := { s.m.cur.mx with array := [k] } },
    { s.m.cur with id := 10, mx := { s.m.cur.mx with tq1 := [{ id := 6, mx := toW (encode (.mzero gu0 2 true)), fmt := 0, src := .slot, pc := 0 }] } }] } }

theorem witness_ArrayEvents :
    (∃ c k, arrayState.m.cont? 9 = some c ∧ c.mx.array.find? (fun k => arrayState.m.canRetire c k) = some k ∧
      (∀ n, k.src ≠ .seq n) ∧ k.pops.Nodup ∧ k.waits.getLsbD 4 = true ∧ c.mx.tq1 = []) ∧
    ∃ c k, arrayState.m.cont? 10 = some c ∧ c.mx.array = [] ∧ c.mx.tq1 = [k] ∧ decodeM k.mx.toNat = some (.mzero gu0 2 true) ∧ fmtDusk k.fmt = false ∧
      arrayState.m.runHolds c = false ∧ c.resident = true ∧ c.noDrain 2 ∧ arrayState.m.queue0First c = false := by
  refine ⟨⟨_, _, rfl, rfl, (by intro n h; cases h), by decide, by decide, rfl⟩, ⟨_, _, rfl, rfl, rfl, rfl, by decide, by decide +kernel, by decide +kernel, ?_, by decide +kernel⟩⟩
  intro k hk; cases hk

/-- A good DCOPY card at 0x800, one whose completion word is misaligned at 0x880, one of the wrong kind at 0xFF80. -/
def cardState : State :=
  let copy := fun (flags cword : ℕ) => leBytes 4 flags ++ leBytes 4 0 ++ leBytes 8 0x4000 ++ leBytes 8 0x200 ++ leBytes 4 2 ++ leBytes 4 64 ++ leBytes 8 64 ++
    leBytes 8 64 ++ List.replicate 40 0 ++ leBytes 8 cword ++ leBytes 8 77 ++ List.replicate 24 0
  withSpad (placed .d (regs [(5, 0x800), (6, 0x880), (7, 0xFF80), (8, 0xFFC0)])) [(0x800, copy 0x2100 0x300), (0x880, copy 0x2100 0x301), (0xFF80, copy 0x0101 0)]

theorem witness_JobIssue : cardState.Ready gu0 .d ∧ cardState.m.sourcesHeld cardState.m.cur.ctx = false ∧
    (∀ x ∈ [(5, 0x800), (6, 0x880), (7, 0xFF80)], readG x.1 cardState.m = .ok (toW x.2, cardState.m) ∧ cardState.m.cur.inWindow x.2 128 = true ∧ x.2 % 128 = 0 ∧
      cardState.m.winMark cardState.m.cur x.2 128 = none) ∧
    cardState.m.cur.inWindow (0x10000 : ℕ) 128 = false ∧ 0xFFC0 % 128 ≠ 0 ∧
    (∃ k : Card, k = BitVec.ofNat 1024 (leNat (cardState.m.winRead cardState.m.cur 0x800 128)) ∧ cardState.m.cwordCause cardState.m.cur k = none ∧ k.good 0 = true ∧ k.fol = false) ∧
    (∃ k : Card, k = BitVec.ofNat 1024 (leNat (cardState.m.winRead cardState.m.cur 0x880 128)) ∧ cardState.m.cwordCause cardState.m.cur k = some 0x2001) ∧
    ∃ k : Card, k = BitVec.ofNat 1024 (leNat (cardState.m.winRead cardState.m.cur 0xFF80 128)) ∧ cardState.m.cwordCause cardState.m.cur k = none ∧ k.good 0 = false := by
  refine ⟨ready_of (by decide +kernel), by decide +kernel, fun x hx => ?_, by decide +kernel, by decide, ⟨_, rfl, by decide +kernel⟩,
    ⟨_, rfl, by decide +kernel⟩, ⟨_, rfl, by decide +kernel⟩⟩
  simp only [List.mem_cons, List.mem_nil_iff, or_false] at hx
  rcases hx with rfl | rfl | rfl <;> exact ⟨rfl, by decide +kernel⟩

/-- Branch registers: 0x1100 (a bundle), 0x1002 (misaligned), 0x113C (a bundle that crosses a granule), 0x1100 again. -/
def branchState : State := withBytes (placed .k fun c => { (regs [(5, 2 ^ 32 + 7), (6, 2 ^ 63), (7, 0)] c) with
  b := vset (vset (vset c.b 1 0x1100) 2 0x1002) 3 0x113C
  lc := vset (vset (vset c.lc 1 2) 2 1) 3 0
  mx := { c.mx with lrc := 65 } }) [(0x113C, [1, 0, 0, 0])]

theorem lands_of {m : Mach} {t : BitVec 48} {n : ℕ} (h : t.toNat % 4 = 0) (h' : ∃ b, m.fetchBytes m.cur t.toNat 4 = .ok b ∧ leNat b = n)
    (h'' : inGranule t.toNat n = true) : m.landsAt t := by
  obtain ⟨b, hb, rfl⟩ := h'
  exact ⟨h, b, hb, h''⟩

theorem witness_BranchesAndLoops : branchState.Ready gu0 .k ∧ branchState.m.landsAt (vget branchState.m.cur.b 1 0) ∧
    readG 5 branchState.m = .ok (toW (2 ^ 32 + 7), branchState.m) ∧ readG 7 branchState.m = .ok (0, branchState.m) ∧
    (∃ m1, writeG 23 (branchState.m.cur.nextPc.setWidth 64) branchState.m = .ok ((), m1) ∧
      (m1.withCur (m1.cur.setBranch 4 branchState.m.cur.nextPc)).landsAt 0x1100) ∧
    (vget branchState.m.cur.b 2 0).toNat % 4 ≠ 0 ∧ vget branchState.m.cur.b 3 0 = 0x113C ∧
    (∃ y, branchState.m.fetchBytes branchState.m.cur 0x113C 4 = .ok y ∧ inGranule 0x113C (leNat y) = false) ∧
    ((vget branchState.m.cur.lc 1 0).toNat = 2 ∧ (vget branchState.m.cur.lc 2 0).toNat = 1 ∧ (vget branchState.m.cur.lc 3 0).toNat = 0) ∧
    (branchState.m.cur.claim = true ∧ branchState.m.jobs = [] ∧ (branchState.m.cur.mx.lrc.toNat + 64 - 1) / 64 = 2 ∧ (0 + 127 - 1) / 127 = 0) ∧
    ∃ c : Cont, c.claim = false := by
  refine ⟨ready_of (by decide +kernel), lands_of (n := 0) (by decide +kernel) (by exact ⟨[0, 0, 0, 0], by decide +kernel⟩) (by decide +kernel), rfl, rfl,
    ⟨_, rfl, lands_of (n := 0) (by decide +kernel) (by exact ⟨[0, 0, 0, 0], by decide +kernel⟩) (by decide +kernel)⟩, by decide +kernel, by decide +kernel,
    ⟨[1, 0, 0, 0], by decide +kernel⟩, by decide +kernel, by decide +kernel, ⟨{ placedCont none with claim := false }, rfl⟩⟩

/-- A word of memory and one of the window equal to 5; a team of two whose other member has not arrived, and one alone. -/
def waitState (others : List Cont) : State :=
  let s := withSpad (withBytes (placed .k (regs [(5, 0x4000), (6, 0x100), (7, 5), (8, 6)])) [(0x4000, leBytes 8 5)]) [(0x100, leBytes 8 5)]
  { s with m := { s.m with conts := others, teams := [{ task := 1, idx := 0, die := 0, size := 2, res := .resident }] } }

theorem witness_ContinuationControl : (waitState []).Ready gu0 .k ∧
    (∀ x ∈ [(5, 0x4000), (6, 0x100), (7, 5), (8, 6)], readG x.1 (waitState []).m = .ok (toW x.2, (waitState []).m)) ∧
    ((waitState []).m.resolveCont 0x4000 8 .read = .ok [(0x4000, 8)] ∧ leNat ((waitState []).m.mem.readParts 0 [(0x4000, 8)]) = 5) ∧
    ((waitState []).m.cur.inWindow (0x100 : ℕ) 8 = true ∧ leNat ((waitState []).m.winRead (waitState []).m.cur 0x100 8) = 5) ∧
    (waitHolds 0 5 5 = true ∧ waitHolds 0 5 6 = false ∧ waitHolds 2 5 5 = true ∧ waitHolds 3 5 5 = false) ∧
    (waitState []).m.cur.imprecise = none ∧
    (∃ m1 t, m1 = (waitState []).m.performed 1 ∧ m1.team? 1 0 = some t ∧ m1.cur.rank.toNat < 16 ∧ m1.cur.team = 0 ∧ m1.cur.state = 2 ∧
      ∀ c ∈ m1.liveMembers 1 0, (vget t.arrived 0 0 ||| ((1 : BitVec 16) <<< m1.cur.rank.toNat)).getLsbD c.rank.toNat = true) ∧
    (∃ m1 t, m1 = (waitState [{ placedCont none with id := 2, rank := 1 }]).m.performed 1 ∧ m1.team? 1 0 = some t ∧
      ∃ c ∈ m1.liveMembers 1 0, (vget t.arrived 0 0 ||| ((1 : BitVec 16) <<< m1.cur.rank.toNat)).getLsbD c.rank.toNat = false) ∧
    ({ (waitState []).m with teams := [] } : Mach).team? 1 0 = none ∧
    (waitState []).m.guestOf (waitState []).m.cur = none ∧ (waitState []).m.inShadow (waitState []).m.cur = false := by
  refine ⟨ready_of (by decide +kernel), fun x hx => ?_, by decide +kernel, by decide +kernel, by decide, rfl, ⟨_, _, rfl, rfl, by decide +kernel⟩,
    ⟨_, _, rfl, rfl, by decide +kernel⟩, rfl, by decide +kernel⟩
  simp only [List.mem_cons, List.mem_nil_iff, or_false] at hx
  rcases hx with rfl | rfl | rfl | rfl <;> rfl

/-- The same with a job that has not landed. -/
def sigState (jobs : List Job) : State := { waitState [] with m := { (waitState []).m with jobs := jobs, nextJob := 4 } }

theorem witness_TrapAndSignal : (sigState []).Ready gu0 .k ∧ (4 : ℕ) < 5 ∧ readG 5 (sigState []).m = .ok (0x4000, (sigState []).m) ∧
    strongCheck false 8 0x4000 (sigState []).m = .ok ((), (sigState []).m) ∧ strongPlace false 8 0x4000 .write (sigState []).m = .ok (.mem 0x4000, (sigState []).m) ∧
    strongPlace true 8 0x100 .write (sigState []).m = .ok (.spad 1 0x100, (sigState []).m) ∧
    (sigState []).m.cur.imprecise = none ∧ ((sigState []).m.performed 1).cur.filledAll ∧ ((sigState []).m.performed 1).jobs = [] ∧
    ((sigState []).m.performed 1).cur.sig = [] ∧ (∃ p : PendSig, p.before = 9 ∧ (sigState []).m.sigReady (sigState []).m.cur p = true) ∧
    ∃ j : Job, (∃ p : PendSig, ((sigState [j]).m.sigReady (sigState [j]).m.cur p = false)) ∧ ∀ m, m = (sigState [j]).m.performed 1 → j ∈ m.jobs ∧ j.cont = m.cur.id ∧ j.seq = none ∧ j.id < m.nextJob ∧ j.st ≠ .landed :=
  ⟨ready_of (by decide +kernel), by decide, rfl, rfl, rfl, rfl, rfl, filledAll_of (by decide +kernel), rfl, rfl,
    ⟨{ target := .mem 0x4000, value := 1, scope := 3, before := 9 }, rfl, by decide +kernel⟩,
    ⟨{ id := 3, cont := 1, task := 1, die := 0, op := 0, card := 0, cardOff := 0, mm := 0, ac := 0, fmt := 0, pc := 0 },
      ⟨{ target := .mem 0x4000, value := 1, scope := 3, before := 9 }, by decide +kernel⟩, by
      rintro m rfl; decide +kernel⟩⟩

/-- One context; a kernel header at 0x4000 with its entry at 0x4040; a task record at 0x5000 that names it and one at 0x5080 whose
reserved bits are set; graph descriptors at 0x6000 and 0x6040. -/
def launchState : State :=
  let s := withBytes (placed .k (regs [(5, 0x5000), (6, 0x6000), (7, 0x5040), (8, 0x5080), (9, 1), (10, 0x6040), (11, 2), (12, 0x6001)])) [
    (0x300018, leBytes 8 0x100000), (0x4000, leBytes 4 0x40 ++ leBytes 4 0 ++ leBytes 4 4096), (0x5000, leBytes 8 0x4000), (0x5080, leBytes 8 0x4000),
    (0x50FF, [1]), (0x6008, leBytes 4 2), (0x6048, leBytes 4 2)]
  { s with m := { s.m with
      regs := { s.m.regs with ctxtab := 0x300000, ctxcnt := 1 }
      teams := [{ task := 1, idx := 0, die := 0, size := 1, res := .resident }] } }

/-- A request that leaves launchState. -/
def sentMach : Mach := (launchState.m.performed 1).withMem
  ((launchState.m.performed 1).mem.catchUp 0 ((launchState.m.performed 1).mem.stampOf (launchState.m.performed 1).cur.die))

theorem sends_launch : launchState.m.sends sentMach := ⟨rfl, settled_of (by decide +kernel), rfl⟩

/-- The record at 0x5080 is refused, for its reserved bits; the one at 0x5000 is accepted where the context's pool holds what it
asks (log entry 23: the size of a pool is a free value). -/
theorem witness_LaunchRequests : launchState.Ready gu0 .k ∧ launchState.m.cur.awaits 4 = false ∧ launchState.m.sends sentMach ∧
    readG 5 launchState.m = .ok (0x5000, launchState.m) ∧ readG 8 launchState.m = .ok (0x5080, launchState.m) ∧ readG 7 launchState.m = .ok (0x5040, launchState.m) ∧
    readG 6 launchState.m = .ok (0x6000, launchState.m) ∧ launchState.m.task? 1 = some placedTask ∧ launchState.m.sourcesHeld launchState.m.cur.ctx = false ∧
    (∀ x ∈ [(0x5000, 128), (0x5080, 128), (0x6000, 64)], launchState.m.resolveCtx 0 0 placedTask.entry (toW x.1) x.2 .read = .ok [(x.1, x.2)]) ∧ 0x5040 % 128 ≠ 0 ∧
    (∃ m3, sentMach.enrol sentMach.submitter 0x5080 = (m3, .error 2)) ∧
    (Config.poolHolds = (fun _ _ => true) → ∃ m3 q, sentMach.enrol sentMach.submitter 0x5000 = (m3, .ok q)) ∧
    (launchState.m.guestOf launchState.m.cur = none ∧ sentMach.task? sentMach.cur.task = some placedTask) ∧ (65536 ≤ ({ placedTask with helpers := 65536 } : Task).helpers) := by
  refine ⟨ready_of (by decide +kernel), by decide +kernel, sends_launch, rfl, rfl, rfl, rfl, join3 (by decide +kernel) ⟨by decide,
    pair_of (by decide +kernel), fun h => ?_, by decide +kernel, by decide⟩⟩
  have e : ∃ q, (sentMach.enrol sentMach.submitter 0x5000).2 = .ok q := okay_of (by unfold Mach.enrol Mach.examine; rw [h]; decide +kernel)
  obtain ⟨q, hq⟩ := e
  obtain ⟨m3, h3⟩ := pair_of hq
  exact ⟨m3, q, h3⟩

/-- A running graph of two nodes at 0x6000, one that does not run at 0x6040; tasks with record 0x5000 by state and policy, one of
another context whose record is the same memory. -/
def graphState (ts : List Task) : State :=
  let n : Node := { taskVa := 0x5000, npred := 2, succ := [], poff := 0, rlim := 0 }
  { launchState with m := { launchState.m with
      graphs := [{ id := 3, desc := 0x6000, ctx := 0, running := true, count := 2, nodes := [n, n] }, { id := 4, desc := 0x6040, ctx := 0, count := 2 }]
      tasks := placedTask :: ts } }

/-- A task of state st whose header asks for the policy. -/
def victim (st pol : ℕ) : Task := { placedTask with seq := 7, recVa := 0x5000, tstate := st, hdr := { ppol := BitVec.ofNat 2 pol } }

theorem witness_GraphTeamAndPreemption : (graphState []).Ready gu0 .k ∧ (graphState []).m.sends ((graphState []).m.performed 1 |>.withMem
      (((graphState []).m.performed 1).mem.catchUp 0 (((graphState []).m.performed 1).mem.stampOf 0))) ∧
    (∀ x ∈ [(6, 0x6000), (10, 0x6040), (9, 1), (11, 2), (5, 0x5000)], readG x.1 (graphState []).m = .ok (toW x.2, (graphState []).m)) ∧
    (∀ x ∈ [(0x6000, 64), (0x6040, 64), (0x5000, 128)], (graphState []).m.resolveCtx 0 0 placedTask.entry (toW x.1) x.2 .read = .ok [(x.1, x.2)]) ∧
    (∃ g n, (graphState []).m.graphOf 0 0x6000 = some g ∧ g.running = true ∧ g.count = 2 ∧ g.nodes[1]? = some n ∧ n.tokens = 0 ∧ n.st = 1 ∧
      ((((graphState []).m.performed 1).addToken g.id 1 true).cur.id ≠ 0)) ∧
    (∀ g, (graphState []).m.graphOf 0 0x6040 = some g → g.running = false) ∧ (graphState []).m.countOf 0x6040 = 2 ∧
    (∃ k t, (graphState []).m.task? 1 = some k ∧ (graphState []).m.team? 1 0 = some t) ∧ (∃ r, (graphState []).m.member? 1 0 0 = some r) ∧
    ((graphState []).m.taskAt 0 0x5000 = none ∧ (graphState []).m.foreignRecord 0x5000 = false) ∧
    (∃ ts, (graphState ts).m.taskAt 0 0x5000 = none ∧ (graphState ts).m.foreignRecord 0x5000 = true) ∧
    ∀ x ∈ [(1, 0, 1, 1), (2, 0, 1, 1), (2, 0, 2, 2), (2, 0, 3, 3), (2, 2, 1, 4), (2, 2, 0, 3)],
      ∃ t, (graphState [victim x.1 x.2.1]).m.taskAt 0 0x5000 = some t ∧ t.tstate = x.1 ∧ (graphState [victim x.1 x.2.1]).m.prmtOutcome t x.2.2.1 = x.2.2.2 := by
  refine ⟨ready_of (by decide +kernel), ⟨rfl, settled_of (by decide +kernel), rfl⟩, fun x hx => ?_, by decide +kernel, ⟨_, _, rfl, rfl, rfl, rfl, by decide +kernel⟩, by decide +kernel, by decide +kernel, ⟨_, _, rfl, rfl⟩, ⟨_, rfl⟩,
    by decide +kernel, ⟨[{ victim 2 0 with ctx := 1 }], by decide +kernel⟩, fun x hx => ?_⟩
  · simp only [List.mem_cons, List.mem_nil_iff, or_false] at hx
    rcases hx with rfl | rfl | rfl | rfl | rfl <;> rfl
  · simp only [List.mem_cons, List.mem_nil_iff, or_false] at hx
    rcases hx with rfl | rfl | rfl | rfl | rfl | rfl <;> exact ⟨_, rfl, by decide +kernel⟩

theorem witness_SystemRegisters : (placed .k id).Ready gu0 .k ∧ regInfo 0x004 = none ∧ regInfo 0x618 = none ∧ regInfo 0x008 = some (.context, true) ∧
    (inUser (placedCont none)).sysMode = false ∧ (placedCont none).sysMode = true ∧ regInfo 0x000 = some (.die, false) ∧ regInfo 0x540 = some (.die, true) ∧
    regInfo 0x617 = some (.module, false) ∧ regInfo 0x400 = some (.cluster, false) ∧ regInfo 0x34F = some (.die, false) ∧
    rxOk (placedCont none) (toW (2 ^ 63)) = false ∧ readG 5 (placed .k id).m = .ok (0, (placed .k id).m) := by
  refine ⟨ready_of (by decide +kernel), join5 (by decide +kernel) (join6 (by decide +kernel) rfl)⟩

/-- System mode, with ranges at 0x10000 of 2^16 and 2^55 bytes and broken ones; drains of a leased range and of another. -/
def privState (ds : List (ℕ × Word)) : State :=
  let s := placed .k (fun c => { (regs [(5, 0x10000), (6, 0x10000), (7, 2 ^ 55), (8, 2 ^ 55 + 65536), (9, 1), (10, 4095), (11, 0x40), (12, 2 ^ 62)] c) with
    b := vset c.b 1 0x2000 })
  { s with m := { s.m with
      drains := ds.map fun d => { cont := d.1, ctx := 0, base := d.2, len := 65536 }
      regs := { s.m.regs with ctxcnt := 1 } } }

theorem witness_PrivilegedControl : (privState []).Ready gu0 .k ∧ (privState []).m.cur.sysMode = true ∧ (vget (privState []).m.cur.b 1 0).toNat % 4 = 0 ∧
    (inUser (placedCont none)).sysMode = false ∧
    (∀ x ∈ [(5, 0x10000), (7, 2 ^ 55), (8, 2 ^ 55 + 65536), (0, 0), (9, 1), (10, 4095), (11, 0x40), (12, 2 ^ 62)],
      readG (BitVec.ofNat 5 x.1) (privState []).m = .ok (toW x.2, (privState []).m)) ∧
    (2 ^ 55 % 65536 = 0 ∧ 2 ^ 55 < 2 ^ 55 + 65536 ∧ 1 % 65536 ≠ 0) ∧ (canonical (toW (2 ^ 62)) = false ∧ canonical 0x10000 = true) ∧
    ((privState []).m.regs.ctxcnt.toNat ≤ (9 : GF).toNat ∧ (0 : ℕ) < (privState []).m.regs.ctxcnt.toNat ∧ 0x40 % 64 = 0) ∧
    (∀ x ∈ [([], false, false), ([(1, 0x10000)], true, true), ([(1, toW (2 ^ 40))], true, false)], ∀ m1, m1 = (privState x.1).m.performed 1 →
      (m1.drains.any fun q => q.cont == m1.cur.id) = x.2.1 ∧ (m1.drains.any fun q => m1.leasedRange q.ctx q.base.toNat q.len) = x.2.2 ∧
      m1.cur.id ≠ 0 ∧ ∀ c ∈ m1.conts, c.inTlbcnf = false) := by
  refine ⟨ready_of (by decide +kernel), rfl, by decide +kernel, rfl, fun x hx => ?_, by decide, by decide, by decide +kernel, ?_⟩
  · simp only [List.mem_cons, List.mem_nil_iff, or_false] at hx
    rcases hx with rfl | rfl | rfl | rfl | rfl | rfl | rfl | rfl <;> rfl
  · intro x hx m1 hm
    subst hm
    simp only [List.mem_cons, List.mem_nil_iff, or_false] at hx
    rcases hx with rfl | rfl | rfl <;> decide +kernel

/-! ### The sequencer -/

/-- A run of the placed continuation, with its h registers. -/
def runWith (h : List (Nat × Nat)) : Run := { cont := 1, task := 1, pcw := 5, h := h.foldl (fun v p => vset v p.1 (toW p.2)) (Vector.replicate 16 0) }

/-- A state in which sequencer 0 runs. -/
def seqOn (s : State) (r : Run) : State := { s with m := { s.m with seqs := [(0, { run := some r })], seqSel := 0 } }

theorem micro_of {s : State} {r : Run} {c : Cont} (h : (s.m.seq s.m.seqSel).run = some r) (h' : s.m.cont? r.cont = some c) :
    s.micro r.nextWord c (s.m.withRun r.nextWord) := ⟨⟨r, h, rfl⟩, h', rfl⟩

theorem witness_SequencerControl : ∃ r c m, (seqOn arenaState (runWith [(1, 0x00000503000003E8), (2, 0x00000503000FFFFF), (3, 2 ^ 63)])).micro r c m ∧
    r.hv 0 = 0 ∧ (r.hv 3).toInt < 0 ∧ r.hv 1 ≠ 0 ∧ m.bindAg c.die (r.hv 1) = .ok { w0 := 0x0000400014280000, w1 := 0x00000503000003E8 } ∧
    m.bindAg c.die (r.hv 2) = .error { cause := 0x200D } :=
  ⟨_, _, _, micro_of rfl rfl, by decide +kernel⟩

/-- A run whose generator 2 stands at position 0 of layer 5. -/
def kvRun : Run := { runWith [] with ag := vset (Vector.replicate 8 {}) 2 { w0 := 0x10000000, w1 := 0x0000050300000000 } }

/-- The arena at 256 MiB, whose positions 0 to 15 of layer 5 are present or not; ring 4 can take one tile of 64 bytes. -/
def kvState (present : ℕ) : State :=
  let s := withBytes arenaState [(0x7000, leBytes 8 0x10000000), (0x10000000, leBytes 2 present)]
  let s := { s with m := { s.m with cur := { s.m.cur with mx := { s.m.cur.mx with rings := vset s.m.cur.mx.rings 4 (ringWord 0x1000 64 0 0 0x300) } } } }
  seqOn s kvRun

/-- An action's answer, where it ends well. -/
def answered {α β ε : Type} [DecidableEq α] (x : Except ε (α × β)) (a : α) : Bool := match x with
  | .ok y => decide (y.1 = a)
  | .error _ => false

theorem ran_of {α β ε : Type} [DecidableEq α] {x : Except ε (α × β)} {a : α} (h : answered x a = true) : ∃ b, x = .ok (a, b) := by
  cases x with
  | ok y => exact ⟨y.2, by rw [← of_decide_eq_true h]⟩
  | error => cases h

theorem error_of {α ε : Type} [DecidableEq ε] {x : Except ε α} {e : ε} (h : (match x with | .ok _ => false | .error y => decide (y = e)) = true) : x = .error e := by
  cases x with
  | ok => cases h
  | error => rw [of_decide_eq_true h]

theorem witness_SequencerReadAndMatrix :
    (∀ x ∈ [(0x7FFE, false), (0xFFFF, true)], ∃ r c m, (kvState x.1).micro r c m ∧ ∃ t, m.task? c.task = some t ∧
      c.tailTileAt 4 (1 * 1 * 64) 0x1000 0x300 ∧ c.inWindow (0x300 : ℕ) 1 = true ∧ ∃ k, m.kvRange c.die (vget r.ag 2 {}) false 0 1 1 = .ok k ∧
      ∃ m2, kvPresent c.die t k (rangeFrom k.first 1) m = .ok (x.2, m2)) ∧
    (∃ r c m, (kvState 0).micro r c m ∧ m.kvRange c.die (vget r.ag 2 {}) false 0 128 1 = .error { cause := 0x2003 }) ∧
    (∃ r c m, (seqOn (mState 0) (runWith [])).micro r c m ∧ c.mx.array = [] ∧ mxiInstr 4 (2 ^ 44 + 1) = some (.mzero gu0 2 true, 0) ∧ c.mReady (.mzero gu0 2 true) = true ∧
      ∃ m2 c2, m2 = m.landDrains c.id ∧ m2.cont? r.cont = some c2 ∧ ∃ e, enterInstr (.mzero gu0 2 true) m2 c2 0 none 0 = .ok e) ∧
    (∃ r c m, (seqOn arrayState { runWith [] with cont := 9 }).micro r c m ∧ ∃ k ∈ c.mx.array, k.acc = 1) ∧
    mxiInstr 127 0 = none := by
  refine ⟨fun x hx => ?_, ⟨_, _, _, micro_of rfl rfl, error_of (by decide +kernel)⟩, ⟨_, _, _, micro_of rfl rfl, rfl, by decide +kernel, by decide +kernel, _, _, rfl, rfl, ⟨_, rfl⟩⟩,
    ⟨_, _, _, micro_of rfl rfl, by decide +kernel⟩, by decide +kernel⟩
  simp only [List.mem_cons, List.mem_nil_iff, or_false] at hx
  have go : ∀ n b, (match ((kvState n).m.withRun kvRun.nextWord).kvRange 0 (vget kvRun.ag 2 {}) false 0 1 1 with
      | .ok k => answered (kvPresent 0 placedTask k (rangeFrom k.first 1) ((kvState n).m.withRun kvRun.nextWord)) b
      | .error _ => false) = true → ∃ k, ((kvState n).m.withRun kvRun.nextWord).kvRange 0 (vget kvRun.ag 2 {}) false 0 1 1 = .ok k ∧
        ∃ m2, kvPresent 0 placedTask k (rangeFrom k.first 1) ((kvState n).m.withRun kvRun.nextWord) = .ok (b, m2) := fun n b h => by
    cases hk : ((kvState n).m.withRun kvRun.nextWord).kvRange 0 (vget kvRun.ag 2 {}) false 0 1 1 with
    | error => rw [hk] at h; cases h
    | ok k => rw [hk] at h; exact ⟨k, rfl, ran_of h⟩
  rcases hx with rfl | rfl <;>
    exact ⟨_, _, _, micro_of (r := kvRun) rfl rfl, placedTask, rfl, by unfold Cont.tailTileAt; decide +kernel, by decide +kernel, go _ _ (by decide +kernel)⟩

/-- Scores of two rows in FP32 against the records at 0x200; accumulator 1 holds two rows; the partial at 0x400 and its records at
0x300; ring 4 can take one tile of 512 bytes; a rotation of one row of two elements in FP32 (fmt 0) or FP8 at 0x500. -/
def smaxState (fmt : ℕ) : State :=
  let s := mState fmt
  seqOn { s with m := { s.m with cur := { s.m.cur with mx := { s.m.cur.mx with
    rings := vset s.m.cur.mx.rings 4 (ringWord 0x1000 512 0 0 0x600)
    acc := vset s.m.cur.mx.acc 1 { mark := 2 } } } } }
    { runWith [(1, 0x200), (2, 0x300), (3, 0x400), (4, 0x3F800000), (5, 2 ^ 48 + 2 ^ 24), (6, 16777215)] with
      fmt := BitVec.ofNat 32 fmt, scores := if fmt = 0 then none else some (List.replicate 128 0, 2, true, 0) }

theorem witness_SequencerSoftmaxAndAccumulators :
    (∃ r c m, (smaxState 0).micro r c m ∧ r.scores = none) ∧
    (∀ x ∈ [(1, 2), (3, 1), (5, 1)], ∃ r c m, (smaxState x.1).micro r c m ∧ r.scores = some (List.replicate 128 0, 2, true, 0) ∧ r.fmt.toNat % 16 = x.1 ∧
      elemBytes x.1 = x.2 ∧ (r.hv 1).toNat % 2 ^ 23 % 16 = 0 ∧ c.inWindow (0x200 : ℕ) 32 = true ∧ c.tailTileAt 4 (2 * 64 * x.2) 0x1000 0x600 ∧
      c.inWindow (0x1000 : ℕ) (2 * 64 * x.2) = true ∧ c.inWindow (0x600 : ℕ) 1 = true) ∧
    (∃ r c m, (smaxState 0).micro r c m ∧ (vget c.mx.acc 1 {}).mark.toNat = 2 ∧ c.mx.array = [] ∧ (r.hv 1).toNat % 2 ^ 23 = 0x200 ∧
      c.inWindow (0x200 : ℕ) 32 = true ∧ (r.hv 2).toNat % 2 ^ 23 = 0x300 ∧ c.inWindow (0x300 : ℕ) 32 = true ∧ (r.hv 3).toNat % 2 ^ 23 = 0x400 ∧
      c.inWindow (0x400 : ℕ) 512 = true ∧ floatNot64 (r.fmt.toNat / 2 ^ 12 % 16) = true ∧ 0x400 % elemBytes 0 = 0 ∧ 0x300 % 4 = 0 ∧
      (r.hv 6).toNat % 2 ^ 24 + ((1 : BitVec 7).toNat - 1) ≤ 16777215 ∧ c.inWindow (0x300 : ℕ) (4 * ((2 : BitVec 10).toNat / 2)) = true ∧
      c.inWindow (0x400 : ℕ) (1 * 2 * 4) = true) := by
  refine ⟨⟨_, _, _, micro_of rfl rfl, rfl⟩, fun x hx => ?_, ⟨_, _, _, micro_of rfl rfl, by decide +kernel⟩⟩
  simp only [List.mem_cons, List.mem_nil_iff, or_false] at hx
  rcases hx with rfl | rfl | rfl <;> exact ⟨_, _, _, micro_of rfl rfl, rfl, by unfold Cont.tailTileAt; decide +kernel⟩

/-- A run with nothing in flight, one with a command of its own in the array, one whose card is of kind 0 or 13; a continuation that
can start one: the sequencer idle, the claim held, parameters at 0. -/
def runState (own : Bool) : State :=
  let s := withSpad (mState 0) [(0x100, leBytes 8 5), (0x800, leBytes 4 0x0100 ++ leBytes 4 0 ++ leBytes 8 0x4000 ++ leBytes 8 0x200 ++ leBytes 4 2 ++ leBytes 4 64 ++
    leBytes 8 64 ++ leBytes 8 64), (0x880, [13])]
  let k : MCmd := { id := 5, mx := 0, fmt := 0, src := .seq 0, pc := 0 }
  seqOn { s with m := { s.m with cur := { s.m.cur with mx := { s.m.cur.mx with array := if own then [k] else [] } } } }
    { runWith [(1, 0x800), (2, 0x880), (3, 0x100), (4, 5), (15, 9)] with comp := 0x100 }

theorem witness_SequencerRun :
    (∃ r c m, (runState false).micro r c m ∧ m.sourcesHeld c.ctx = false ∧ m.runBusy 0 c = false ∧ (r.hv 3).toNat = 0x100 ∧
      c.inWindow (r.hv 3).toNat 8 = true ∧ leNat (m.winRead c (r.hv 3).toNat 8) = 5 ∧ r.comp.toNat % 8 = 0 ∧
      (∃ k, m.readCard c ((r.hv 1).toNat % 2 ^ 23) = .ok k ∧ k.kind = 0 ∧ m.cwordCause c k = none ∧ k.good 0 = true) ∧
      (∃ k, m.readCard c ((r.hv 2).toNat % 2 ^ 23) = .ok k ∧ k.kind = 13) ∧
      ∃ t off, m.spTarget c.task c.team.toNat 0x100 = some (t, off) ∧ t.inWindow off 8 = true) ∧
    (∃ r c m, (runState true).micro r c m ∧ m.runBusy 0 c = true) ∧
    ((mState 0).m.cur.id ≠ 0 ∧ (mState 0).m.mySeq.run = none ∧ (mState 0).m.cur.claim = true ∧ (mState 0).m.cur.inWindow (0 : ℕ) 128 = true ∧
      (toW (2 ^ 10 * 64)).toNat / 2 ^ 10 % 2 ^ 23 % 128 ≠ 0) ∧
    ((runState false).m.mySeq.run.isSome = true) :=
  ⟨⟨_, _, _, micro_of rfl rfl, join6 (by decide +kernel) ⟨⟨_, rfl, by decide +kernel⟩, ⟨_, rfl, by decide +kernel⟩, ⟨_, _, rfl, by decide +kernel⟩⟩⟩, ⟨_, _, _, micro_of rfl rfl, by decide +kernel⟩,
    by decide +kernel⟩

/-! ### Events -/

/-- Memory in which die 1 has written two bytes at 0 that die 0 has still to apply. -/
def raceMem : Mem := ({} : Mem).write 1 0 [5, 6] false

theorem witness_CausalMemory : (0 + [(7 : Byte), 8].length ≤ 2 ^ 52) ∧ coherent 0 = false ∧ coherent (2 * 2 ^ 48) = true ∧
    coherent (4 * 2 ^ 48 - 1) = true ∧ coherent (4 * 2 ^ 48) = false ∧ spadDie (skey 0 0x100) = 0 ∧ spadDie (skey 1008 0) = 63 ∧
    (∀ m ∈ [({} : Mem), raceMem], ∀ a ∈ [0, 1], keyOf (SMap.get ({} : Held) m.held (vkey 0 a)).src (SMap.get ({} : Held) m.held (vkey 0 a)).stamp < keyOf 0 (m.nextStamp 0)) ∧
    ∃ w u, raceMem.flight = [w] ∧ (raceMem.write 0 0 [7] false).flight = [w, u] ∧ w.pa + w.bytes.length ≤ 2 ^ 52 ∧ u.pa + u.bytes.length ≤ 2 ^ 52 ∧
      keyOf w.src w.stamp ≠ keyOf u.src u.stamp :=
  ⟨by decide, by decide, by decide, by decide, by decide, by decide, by decide, by decide +kernel, _, _, rfl, rfl, by decide +kernel⟩

/-- Continuation 1 in hand, and others beside it. -/
def beside (l : List Cont) : State := let s := placed .k id; { s with m := { s.m with conts := l } }

/-- A waiting continuation of the same core with its priority. -/
def rival (prio : ℕ) : Cont := { placedCont none with id := 2, state := 1, prio := BitVec.ofNat 8 prio }

/-- Continuation 3 with a load-block to fill, a page's translation pending, a vector command in flight. -/
def pendingState (ds : List Drain) : State :=
  let s := beside [{ placedCont none with
    id := 3, slot := 1
    blocks := #v[some { va := 0x4000, pas := [0x4000], data := List.replicate 64 0, dirty := List.replicate 64 false, poison := [false], filled := false, cword := 0x100, cval := 9 },
      none, none, none, none, none, none, none]
    tx := #v[{ va := 0x4000, pend := some { pa := 0x4000, size := 0, wr := true, dest := none } }, {}, {}, {}]
    vpend := [{ writes := [{ key := skey 0 0x100, bytes := [7] }], flags := 4, pc := 0x1000 }] }]
  { s with m := { s.m with drains := ds, mem := { s.m.mem with flight := [{ src := 1, stamp := [(1, 1)], pa := 0x4000, bytes := [5], poison := false, todo := [0] }] } } }

theorem witness_MemoryEvents :
    (∀ p ∈ [0, 1], ∃ c b, (beside [rival p]).m.allConts.find? (fun c => c.id ≠ 0 && c.resident && c.gcore == 0 && c.state == 2) = some c ∧
      (beside [rival p]).m.pickOf 0 = some b ∧ c.poisoned = false ∧ c.queue = [] ∧ c.prio = 0 ∧ b.prio.toNat = p) ∧
    (∃ w, (pendingState []).m.mem.flight.find? (fun w => decide (w.src = 1) && w.todo.contains 0) = some w ∧ SMap.get 0 w.stamp w.src = (pendingState []).m.mem.clk 0 w.src + 1) ∧
    (0x4000 % 8 = 0 ∧ (pendingState []).m.paFault 0x4000 = none ∧
      ((pendingState []).m.mem.gather (homeOf 0x4000)).marked (homeOf 0x4000) 0x4000 = false) ∧
    (∃ c b p v, (pendingState []).m.cont? 3 = some c ∧ vget c.blocks 0 none = some b ∧ b.filled = false ∧ b.dirty = List.replicate b.data.length false ∧
      b.data.length = 64 * b.pas.length ∧ (vget c.tx 0 {}).pend = some p ∧ p.redo = false ∧ p.dest = none ∧ (pendingState []).m.task? c.task = some placedTask ∧ c.vpend = [v]) ∧
    (canonical 0x4000 = true ∧ placedTask.entry.inHeap 0x4000 = false ∧ (pendingState []).m.draining 0 0x4000 = false ∧
      (∃ e, (pendingState []).m.walkEntry 0 placedTask 0x4000 = some e ∧ (pendingState []).m.drainsOn 0 e.va.toNat e.len = false ∧
        (pendingState [{ cont := 1, ctx := 0, base := 0x10000, len := 65536 }]).m.drainsOn 0 e.va.toNat e.len = true ∧
        (pendingState [{ cont := 1, ctx := 0, base := 0x10000, len := 65536 }]).m.draining 0 0x4000 = false) ∧
      (pendingState [{ cont := 1, ctx := 0, base := 0, len := 65536 }]).m.draining 0 0x4000 = true) := by
  refine ⟨fun p hp => ?_, ⟨_, rfl, by decide +kernel⟩, by decide +kernel, ⟨_, _, _, _, rfl, rfl, join3 (by decide +kernel) ⟨rfl, rfl, rfl, rfl, rfl⟩⟩,
    join3 (by decide +kernel) ⟨⟨_, rfl, by decide +kernel⟩, by decide +kernel⟩⟩
  simp only [List.mem_cons, List.mem_nil_iff, or_false] at hp
  rcases hp with rfl | rfl <;> exact ⟨_, _, rfl, rfl, by decide +kernel⟩

/-- One copy of 64 bytes, from 0x4000 to 0x5040, queued, started, or landed with a follow-on that needs a count of 3. -/
def copyJob (st : JobState) (follow : Bool) : Job :=
  { id := 3, cont := 1, task := 1, die := 0, op := 0, cardOff := 0, pc := 0, st := st, follow := follow
    card := BitVec.ofNat 1024 (leNat (leBytes 4 0x0300 ++ leBytes 4 0 ++ leBytes 8 0x4000 ++ leBytes 8 0x5040 ++ leBytes 4 1 ++ leBytes 4 64 ++ List.replicate 76 0 ++ leBytes 4 3)) }

def jobState (l : List Job) (ac : ℕ) : State :=
  let s := placed .k fun c => { c with answers := [{ d := 4, value := some 9 }], mx := { c.mx with ac := vset c.mx.ac 0 (BitVec.ofNat 32 ac) } }
  { s with m := { s.m with jobs := l } }

/-- The started copy's machine once it has taken what it reads. -/
def observedJob : Mach := (jobState [copyJob .started false] 0).m.withMem ((jobState [copyJob .started false] 0).m.mem.observe 0 [(0x4000, 64)])

theorem witness_JobEvents : (∃ j, (jobState [copyJob .queued false] 0).m.nextOnDie 0 = some j) ∧
    (jobState [copyJob .queued false] 0).m.channelsUsed 0 < 64 ∧ (jobState [] 0).m.nextOnDie 0 = none ∧
    64 ≤ (jobState ((List.range 64).map fun k => { copyJob .started false with id := 10 + k }) 0).m.channelsUsed 0 ∧
    (∃ j c, (jobState [copyJob .started false] 0).m.job? 3 = some j ∧ (jobState [copyJob .started false] 0).m.cont? j.cont = some c ∧ j.st = .started ∧ j.op = 0 ∧
      (jobState [copyJob .started false] 0).m.jobBlocked j = false ∧ c.resident = true ∧ (jobState [copyJob .started false] 0).m.exnBefore j = false ∧
      (jobState [copyJob .started false] 0).m.task? 1 = some placedTask ∧ j.card.dport = false ∧ j.card.kflags = 0 ∧ j.card.rows = 1 ∧ j.card.radv = false ∧
      j.card.aincEn = false ∧ j.card.cmpl = false ∧ j.card.fol = false ∧ j.card.sspace = true ∧ j.card.dspace = true ∧ j.card.rbytes = 64 ∧ j.card.dst % 64 = 0 ∧ j.follow = false ∧
      (jobState [copyJob .started false] 0).m.resolveTask 0 placedTask (toW j.card.src) 64 .read = .ok [(0x4000, 64)] ∧
      observedJob.resolveTask 0 placedTask (toW j.card.src) 64 .read = .ok [(0x4000, 64)] ∧
      observedJob.resolveTask 0 placedTask (toW j.card.dst) 64 .write = .ok [(0x5040, 64)] ∧ observedJob.mem.markParts 0 [(0x4000, 64)] = none) ∧
    (∀ x ∈ [(copyJob .landed true, 2), (copyJob .landed true, 3), (copyJob .landed false, 3), (copyJob .started true, 3)],
      ∃ j c, (jobState [x.1] x.2).m.job? 3 = some j ∧ (jobState [x.1] x.2).m.cont? j.cont = some c ∧ (vget c.mx.ac j.ac.toNat 0).toNat = x.2 ∧ j.card.thr = 3 ∧
        c.mx.tq1 = [] ∧ (jobState [x.1] x.2).m.runHolds c = false ∧ c.resident = true) ∧
    (jobState [] 0).m.thiefOf 1 0 = none ∧
    ∃ c a, (jobState [] 0).m.cont? 1 = some c ∧ c.answers.find? (fun a => a.value.isSome) = some a ∧ a.value = some 9 ∧ a.d = 4 ∧ (4 : GF).toNat < 24 ∧ c.resident = true := by
  refine ⟨⟨_, rfl⟩, by decide +kernel, rfl, by decide +kernel, ⟨_, _, rfl, rfl, rfl, rfl, by decide +kernel⟩, fun x hx => ?_, rfl, ⟨_, _, rfl, rfl, rfl, rfl, by decide, rfl⟩⟩
  simp only [List.mem_cons, List.mem_nil_iff, or_false] at hx
  rcases hx with rfl | rfl | rfl | rfl <;> exact ⟨_, _, rfl, rfl, by decide +kernel, by decide +kernel, rfl, by decide +kernel, rfl⟩

/-- A task at a stage that leads or follows another, with its region mapped or not. -/
def stageState (t : Task) (l : List Task) (teams : List Team) : State :=
  let s := placed .k fun c => { c with id := 0 }
  { s with m := { s.m with tasks := l ++ [t], teams := teams } }

/-- The waiting, parked or leaving team of task 1 on die 0. -/
def teamOf (r : Res) : Team := { task := 1, idx := 0, die := 0, size := 1, res := r }

/-- Fill slot 3 of one layer range 0 to 7 with one record: its arena at 0x12000, the layer descriptors at 0x11000, zeros for weights;
one read that waits on position 0 of layer 5. -/
def fillState : State :=
  let s := withBytes (jobState [{ copyJob .started false with op := 12, sent := true, refused := true }] 0) [(0x300018, leBytes 8 0x100000),
    (0x6060, leBytes 8 0x7000 ++ leBytes 8 0x10000 ++ leBytes 2 1 ++ [0, 7] ++ leBytes 2 64 ++ leBytes 2 0 ++ leBytes 8 0x11000),
    (0x7000, leBytes 8 0x12000 ++ leBytes 4 2112 ++ leBytes 4 16 ++ [0, 7] ++ leBytes 2 64 ++ leBytes 2 64),
    (0x10000, [1]), (0x11140, leBytes 8 0x20000 ++ leBytes 8 0x30000 ++ leBytes 8 0x40000 ++ leBytes 8 0x50000 ++ leBytes 4 0 ++ [0x11, 0x00, 2])]
  { s with m := { s.m with
      regs := { s.m.regs with ctxtab := 0x300000, ctxcnt := 1, filltab := 0x6000, fillto := 10 }
      now := 11
      reads := [{ who := .job 3, slot := 3, layer := 5, first := 0, count := 1, began := 0 }, { who := .job 3, slot := 9, layer := 5, first := 7, count := 1, began := 0 }]
      notices := [{ die := 0, word := 0, job := none, state := none }]
      exitStates := [{ word := 0x300, die := 0, slot := 3, recIdx := some 0, bytes := List.replicate 256 0, job := some 3 },
        { word := 0x301, die := 0, slot := 3, recIdx := some 0, bytes := [], job := none }]
      fills := [{ die := 0, slot := 9, layer := 0, pos := 0, recIdx := 0, k := [], v := [] }] } }

/-- The slot's entry and its arena, as the bytes above say. -/
def fillEntry : SlotEntry := { arena := 0x7000, area := 0x10000, recs := 1, first := 0, last := 7, hidden := 64, fmt := 0, ctx := 0, table := 0x11000 }
def fillArena : Arena := { base := 0x12000, stride := 2112, positions := 16, first := 0, last := 7, kb := 64, vb := 64 }

/-- A run that stands at a KVRD. -/
def askMach : Mach := { (kvState 0).m with seqs := [(0, { store := SMap.set 0 [] 5 (toW (encode (.kvrd false 2 4 0 1 false 1))), run := some kvRun })] }

/-- A value that is there. -/
theorem there_of {α : Type} {x : Option α} (h : x.isSome = true) : ∃ y, x = some y := Option.isSome_iff_exists.mp h

theorem witness_ExitAndFillEvents :
    (noticeOk (putBits (toW (2 ^ 57)).toNat 15 0 0) = false ∧ ∀ n ∈ fillState.m.notices, n.die ≠ 1) ∧
    (∃ n, fillState.m.notices.find? (fun n => n.die == 0) = some n ∧ n.job = none ∧ n.state = none ∧ fillState.m.noticeHeld n = false) ∧
    (∃ m, m = ({ fillState.m with drains := [{ cont := 1, ctx := 0, base := 0, len := 2 ^ 30 }] } : Mach) ∧ ∃ n, m.noticeHeld n = true) ∧
    (∃ w, noticeOk (putBits (w : Word).toNat 15 0 0) = true) ∧
    ((∀ d, State.reset.m.die d = {}) ∧ State.reset.m.slotArena? 0 0 = none) ∧
    ((∀ x ∈ fillState.m.exitStates, x.die = 1 → x.job = none) ∧ ∀ x ∈ fillState.m.exitStates, x.die = 0 → x.job = none → x.word ≠ 0x302) ∧
    (∃ x, fillState.m.exitStates.find? (fun x => x.die == 0 && x.job.isSome) = some x ∧ x.recIdx = some 0 ∧ fillState.m.slotEntry? 0 x.slot = some fillEntry ∧
      x.bytes.length = fillEntry.hidden * fillEntry.elem) ∧
    (∃ x, fillState.m.exitStates.find? (fun x => x.die == 0 && (x.job.isNone && x.word == 0x301)) = some x ∧ x.recIdx = some 0 ∧
      fillState.m.slotEntry? 0 x.slot = some fillEntry ∧ (List.replicate 256 (0 : Byte)).length = fillEntry.hidden * fillEntry.elem ∧
      ([] : List Byte).length ≠ fillEntry.hidden * fillEntry.elem) ∧
    ((∃ j, fillState.m.job? 3 = some j ∧ j.op = 12 ∧ j.sent = true ∧ j.refused = true) ∧ ∃ j, (jobState [copyJob .started false] 0).m.job? 3 = some j ∧ j.op ≠ 12) ∧
    (askMach.kvrdAsks 0 = some (3, 5, 0, 1) ∧ askMach.reads = []) ∧
    (∀ r ∈ fillState.m.reads, r.waitsOn 3 6 0 = false) ∧
    (∃ r, fillState.m.reads.find? (fun r => r.waitsOn 3 5 0) = some r ∧ fillState.m.readerDie r.who = 0 ∧ fillState.m.slotArena? 0 3 = some (fillEntry, fillArena) ∧ 0 < fillEntry.recs ∧
      fillState.m.slotHeld 0 3 = false ∧ fillState.m.fillHeld 0 fillEntry fillArena 5 0 = false ∧
      ({ fillState.m with drains := [{ cont := 1, ctx := 0, base := 0, len := 2 ^ 30 }] } : Mach).fillHeld 0 fillEntry fillArena 5 0 = true ∧
      fillState.m.headerParts 0 fillEntry fillArena 5 0 = some [(0x14940, 64)] ∧ ∃ m1 h, m1 = fillState.m.homePrep 0 [(0x14940, 64)] false ∧
        h = m1.homeRead [(0x14940, 64)] ∧ leAt h 0 2 = 0 ∧ leAt h 2 2 = 0 ∧ fsrcOf h 0 = 0 ∧ leNat (m1.homeRead [(fillEntry.recordPa 0, 8)]) % 2 = 1 ∧
        ∃ v, ((m1.homePrep 0 [(fillEntry.recordPa 0, 8)] false).homeAcquire 0 [(fillEntry.recordPa 0, 8)]).fillValue 0 fillEntry fillArena 5 0 0 = some v) ∧
    (∃ f, fillState.m.fills.find? (fun f => f.slot == 9 && f.layer == 0 && f.pos == 0) = some f ∧ fillState.m.slotArena? f.die 9 = none) ∧
    (fillState.m.fills.find? (fun f => f.slot == 9 && f.layer == 0 && f.pos == 1) = none) ∧
    (∃ r, fillState.m.reads.find? (fun r => decide (r.who = .job 3) && decide (r.first ≤ 7 ∧ 7 < r.first + r.count) &&
        decide (fillState.m.regs.fillto.toNat < fillState.m.cyc (fillState.m.readerDie r.who) - r.began)) = some r ∧ fillState.m.slotArena? (fillState.m.readerDie (.job 3)) r.slot = none) ∧
    (State.reset.m.reads = [] ∧ State.reset.m.job? 3 = none ∧ State.reset.m.skein = []) := by
  refine ⟨by decide +kernel, ⟨_, rfl, rfl, rfl, by decide +kernel⟩, ⟨_, rfl, { die := 0, word := 0x0000030000000000, job := none, state := none }, by decide +kernel⟩,
    ⟨0x0100000000000300, by decide +kernel⟩, ⟨fun _ => rfl, by decide +kernel⟩, by decide +kernel, ⟨_, rfl, rfl, by decide +kernel⟩,
    ⟨_, rfl, rfl, by decide +kernel⟩, ⟨⟨_, rfl, rfl, rfl, rfl⟩, ⟨_, rfl, by decide +kernel⟩⟩, by decide +kernel, by decide +kernel,
    ⟨_, rfl, rfl, join6 (by decide +kernel) ⟨_, _, rfl, rfl, join4 (by decide +kernel) (there_of (by decide +kernel))⟩⟩,
    ⟨_, rfl, by decide +kernel⟩, by decide +kernel, ⟨_, rfl, by decide +kernel⟩, rfl, by decide +kernel, rfl⟩

/-- A task of one team whose stage, region and deadline are given. -/
def stageTask (st : Stage) (f : Task → Task) : Task := f { placedTask with stage := st, tstate := if st = .dispatch then 2 else 1 }

/-- The first leaf of a team that may be resident on die 0. -/
def teamState (r : Res) (member : Cont) : State := { stageState placedTask [] [teamOf r] with m := { (stageState placedTask [] [teamOf r]).m with conts := [member] } }

/-- A member that is out of the core, done, or in the middle of a bundle. -/
def member (st : ℕ) (busy : Bool) : Cont := { placedCont (if busy then some (placedCursor .k) else none) with id := 2, state := BitVec.ofNat 8 st }

/-- A task that follows another by its region, and one that asks for a page that is not there. -/
def laterTask : Task := stageTask .ordering fun t => { t with seq := 4 }
def mappedTask : Task := stageTask .leasing fun t => { t with fp := [{ base := 0x4000, len := 65536, wr := true, ren := false, whole := false }] }
def unmappedTask : Task := stageTask .leasing fun t => { t with fp := [{ base := toW (2 ^ 40), len := 8, wr := true, ren := false, whole := false }] }

/-- A bounded task past its deadline. -/
def lateState : State := let s := stageState (stageTask .dispatch fun t => { t with deadline := some 5, bounded := true }) [] []; { s with m := { s.m with now := 6, conts := [member 1 false] } }

/-- The team of task 1 alone, of the given size, on a die that owes a turn to the longest waiting or not. -/
def owedState (owed : Bool) (r : Res) (size : ℕ) : State :=
  let s := teamState r (member 1 false)
  { s with m := { s.m with teams := [{ teamOf r with size := size }], dies := [(0, { owed := owed })] } }

/-- A team that finds no core free of a matrix claim, beside the resident team of an unbounded task; its own task is bounded or not. -/
def fullDie (bounded : Bool) : State :=
  let s := owedState false .waiting 1
  { s with m := { s.m with
      conts := s.m.conts ++ (List.range 16).map fun k => { placedCont none with id := 10 + k, core := k, task := 2, state := 1 }
      tasks := [{ placedTask with bounded := bounded }, { placedTask with seq := 2 }]
      teams := s.m.teams ++ [{ teamOf .resident with task := 2 }] } }

/-- A running bounded replay whose one node's task is 9. -/
def lateGraph : Graph :=
  { id := 3, desc := 0x6000, ctx := 0, running := true, count := 1, deadline := some 5
    nodes := [{ taskVa := 0x5000, npred := 0, succ := [], poff := 0, rlim := 0, prep := some { placedTask with seq := 9 } }] }

theorem witness_SchedulerEvents :
    (∀ b : Bool, ∃ x t, x = stageState (stageTask .ordering fun t => { t with entered := b }) [] [] ∧ x.m.task? 1 = some t ∧ t.stage = .ordering ∧
      (x.m.predecessors t).isEmpty = true ∧ t.entered = b) ∧
    (∃ t, (stageState laterTask [placedTask] []).m.task? 4 = some t ∧ t.stage = .ordering ∧ ((stageState laterTask [placedTask] []).m.predecessors t).isEmpty = false) ∧
    (∃ t, (stageState mappedTask [] []).m.task? 1 = some t ∧ t.stage = .leasing ∧ (stageState mappedTask [] []).m.canLease t = true ∧
      ∀ c ∈ (stageState mappedTask [] []).m.allConts, c.id = 0) ∧
    (∃ t, (stageState unmappedTask [] []).m.task? 1 = some t ∧ t.stage = .leasing ∧ (stageState unmappedTask [] []).m.canLease t = false) ∧
    (∀ r ∈ [Res.waiting, .parked, .out], ∀ b : Bool, ∃ m1 t, m1 = (owedState b r 1).m.retireTeams 0 ∧ (m1.die 0).owed = b ∧ m1.dispatchOrder 0 = [t] ∧ t.res = r ∧
      m1.team? 1 0 = some t ∧ m1.admitCheck t = none ∧ ∃ cs, m1.coresFor t = some cs) ∧
    (∃ m1 t, m1 = (fullDie false).m.retireTeams 0 ∧ m1.dispatchOrder 0 = [t] ∧ m1.admitCheck t = none ∧ m1.coresFor t = none ∧
      (m1.task? t.task).bind (fun k => m1.preempt 0 k) = none) ∧
    (∃ m1 t, m1 = (fullDie true).m.retireTeams 0 ∧ m1.dispatchOrder 0 = [t] ∧ m1.admitCheck t = none ∧ m1.coresFor t = none ∧
      ((m1.task? t.task).bind (fun k => m1.preempt 0 k)).isSome = true) ∧
    (∃ m1 t, m1 = (withBytes (teamState .waiting (member 1 false)) [(0x8006, [8])]).m.retireTeams 0 ∧ m1.dispatchOrder 0 = [t] ∧ m1.admitCheck t = some 0x5001) ∧
    (∀ n ∈ [2, 3], ∃ x : Mach, x = ({ (owedState false .waiting 1).m with now := n } : Mach).setDie 0 { quantumEnd := 3 } ∧
      decide ((x.die 0).quantumEnd ≤ x.cyc 0) = decide (n = 3)) ∧
    ((∀ t ∈ (owedState false .waiting 1).m.teams, t.die = 0 → t.res ≠ .resident) ∧ (owedState false (.leaving 5 true) 1).m.waitersOn 0 = []) ∧
    (∀ n ∈ [48000004, 48000005], ∃ x t, x = { (teamState (.leaving 5 true) (member 1 true)).m with now := n } ∧ x.team? 1 0 = some t ∧ t.res = .leaving 5 true ∧
      x.teamIdle t = false ∧ (decide (5 + 16 * (x.die t.die).sliceq.toNat ≤ x.cyc t.die) = decide (n = 48000005))) ∧
    (∀ n ∈ [5, 6], ∃ x g, x = { lateState.m with now := n, graphs := [lateGraph] } ∧ x.graphs.find? (fun g => g.running && nodesName g.nodes 9) = some g ∧
      g.deadline = some 5 ∧ acceptingDie g.nodes = 0 ∧ decide (5 < x.cyc 0) = decide (n = 6)) ∧
    (∀ b : Bool, ∃ t, (teamState (.leaving 5 true) (member 1 b)).m.team? 1 0 = some t ∧ t.res = .leaving 5 true ∧ (teamState (.leaving 5 true) (member 1 b)).m.teamIdle t = !b) ∧
    (∃ t, (teamState .resident (member 6 false)).m.task? 1 = some t ∧ (teamState .resident (member 6 false)).m.taskDone t = true ∧ t.node = none ∧ t.guest = none ∧
      ∀ c ∈ (teamState .resident (member 6 false)).m.allConts, c.task = 1 → c.imprecise = none) ∧
    (∃ t, (teamState .resident (member 1 false)).m.task? 1 = some t ∧ (teamState .resident (member 1 false)).m.taskDone t = false) ∧
    ∃ t, lateState.m.task? 1 = some t ∧ t.deadline = some 5 ∧ 5 < lateState.m.cyc t.accDie ∧ t.stage ≠ .ended ∧ lateState.m.taskDone t = false ∧ lateState.m.graphs = [] ∧
      t.accDie < 64 := by
  refine ⟨fun b => ?_, ⟨_, rfl, rfl, by decide +kernel⟩, ⟨_, rfl, rfl, by decide +kernel⟩, ⟨_, rfl, rfl, by decide +kernel⟩, fun r hr b => ?_,
    ⟨_, _, rfl, rfl, by decide +kernel⟩, ⟨_, _, rfl, rfl, by decide +kernel⟩, ⟨_, _, rfl, rfl, by decide +kernel⟩, fun n hn => ?_, by decide +kernel, fun n hn => ?_, fun n hn => ?_,
    fun b => ?_, ⟨_, rfl, by decide +kernel⟩, ⟨_, rfl, by decide +kernel⟩, ⟨_, rfl, rfl, by decide +kernel⟩⟩
  · cases b <;> exact ⟨_, _, rfl, rfl, rfl, by decide +kernel, rfl⟩
  · simp only [List.mem_cons, List.mem_nil_iff, or_false] at hr
    rcases hr with rfl | rfl | rfl <;> cases b <;> exact ⟨_, _, rfl, by decide +kernel, rfl, rfl, rfl, by decide +kernel, there_of (by decide +kernel)⟩
  · simp only [List.mem_cons, List.mem_nil_iff, or_false] at hn
    rcases hn with rfl | rfl <;> exact ⟨_, rfl, by decide +kernel⟩
  · simp only [List.mem_cons, List.mem_nil_iff, or_false] at hn
    rcases hn with rfl | rfl <;> exact ⟨_, _, rfl, rfl, by decide +kernel⟩
  · simp only [List.mem_cons, List.mem_nil_iff, or_false] at hn
    rcases hn with rfl | rfl <;> exact ⟨_, _, rfl, rfl, by decide +kernel⟩
  · cases b <;> exact ⟨_, rfl, rfl, by decide +kernel⟩

/-- A module of which context 0 exists, at a phase of the consistent stop, that holds the token or not. -/
def podState (phase : ℕ) (req held : Bool) (now : ℕ) : State := { State.reset with m := { State.reset.m with
  regs := { State.reset.m.regs with stopPhase := BitVec.ofNat 2 phase, stopReq := req, ctxcnt := 1 }
  bobbin := { held := held, gen := 4 }
  now := now } }

/-- A team of this module that runs at module 2, which has a notice in the queue or not. -/
def stolenState (queued : Bool) : State :=
  let s := teamState (.stolen 2) (member 1 false)
  { s with m := { s.m with notices := if queued then [{ die := 0, word := 0x200, job := none, state := none }] else [] } }

/-- The second of so many modules in a row, with the image of a team of module 0 on its way. -/
def podOf (dx : ℕ) : State := { State.reset with m := { State.reset.m with
  regs := { State.reset.m.regs with podcfg := toW (2 ^ 24 + 2 ^ 16 + 2 ^ 8 + dx) }
  inbound := [{ origin := 0, tag := 7, task := 3, team := 0, prio := 0, teams := 1, members := [placedCont none] }] } }

theorem witness_StopAndStealEvents :
    ((podState 0 false false 0).m.regs.stopPhase = 0 ∧ (podState 0 false false 0).m.regs.stopReq = false ∧ ((0 : BitVec 12).toNat < (podState 0 false false 0).m.regs.ctxcnt.toNat)) ∧
    (podState 3 false false 0).m.graphs = [] ∧
    ((podState 2 true false 0).m.regs.stopPhase = 2 ∧ ∀ t ∈ (podState 2 true false 0).m.ctxTasks 0, (podState 2 true false 0).m.inFlight t.seq = false) ∧
    (∃ t ∈ (jobState [copyJob .started false] 0).m.ctxTasks 0, (jobState [copyJob .started false] 0).m.inFlight t.seq = true) ∧
    (0 < (podState 2 true false 0).m.regs.stopBegan + 16 * ((podState 2 true false 0).m.die 0).sliceq.toNat ∧
      (podState 2 true false 48000000).m.regs.stopBegan + 16 * ((podState 2 true false 48000000).m.die 0).sliceq.toNat ≤ 48000000) ∧
    ((3 : W32).toNat < (podState 0 false true 0).m.bobbin.gen ∧ (podState 0 false true 0).m.bobbin.gen ≤ (4 : W32).toNat) ∧
    ((podState 0 false true 65536).m.bobbin.since + (podState 0 false true 65536).m.regs.bobhold.toNat ≤ 65536 ∧ 65535 < (podState 0 false true 0).m.regs.bobhold.toNat) ∧
    ((podState 0 false false 131073).m.bobbin.since + 2 * (podState 0 false false 131073).m.podSize * (podState 0 false false 131073).m.regs.bobhold.toNat < 131073) ∧
    (∃ t, (teamState (.sending 2) (member 1 false)).m.team? 1 0 = some t ∧ t.res = .sending 2) ∧
    (∀ b : Bool, ∃ t c, (stolenState b).m.task? 1 = some t ∧ (stolenState b).m.member? 1 0 0 = some c ∧ (stolenState b).m.thiefOf 1 0 = some 2 ∧
      (stolenState b).m.noticesFrom 2 = b ∧ (stolenState b).m.resolveTask c.die (c.leases t) 0x4000 8 .write = .ok [(0x4000, 8)] ∧
      (stolenState b).m.resolveTask c.die (c.leases t) 0x4001 1 .read = .ok [(0x4001, 1)] ∧
      ((stolenState b).m.mem.observe c.die [(0x4001, 1)]).markParts c.die [(0x4001, 1)] = none) ∧
    ((podState 0 true false 0).m.regs.stopReq = true ∧ (podState 0 true false 0).m.queues = [] ∧ (podState 1 true false 0).m.regs.stopPhase = 1 ∧
      (podState 2 true false 0).m.foreignExits 0 = false ∧ fillState.m.foreignExits 0 = true) ∧
    ((podState 0 false true 65536).m.bobbin.reqs = [] ∧ (podState 0 false true 65536).m.modIndex = 0 ∧ (podState 0 false true 65536).m.podSize = 1 ∧
      (podOf 2).m.modIndex = 1 ∧ (podOf 2).m.podSize = 2 ∧ (2 : ℕ) / 2 ^ 0 % 2 = 0) ∧
    ((∃ x, (podOf 2).m.inbound.find? (fun x => x.origin == 0 && x.tag == 7 && x.members.length == 1) = some x) ∧
      (∀ x ∈ (podOf 2).m.inbound, x.origin = 0 → x.tag = 7 → x.members.length ≠ 2) ∧ ∃ p, (podOf 2).m.portTo 0 = some p) := by
  refine ⟨by decide +kernel, rfl, join6 (by decide +kernel) ⟨⟨_, rfl, rfl⟩,
    fun b => ?_, ?_, ?_, ⟨_, rfl⟩, by decide +kernel, there_of (by decide +kernel)⟩⟩
  · cases b <;> exact ⟨_, _, rfl, rfl, by decide +kernel⟩
  · decide +kernel
  · decide +kernel

/-- The port of a started module: queue 3 belongs to LD 2, its next entry asks for what the bytes say; context 0 exists. -/
def portState (entry : List Byte) (phase : ℕ) : State :=
  let s := withBytes launchState [(0x7000, entry), (0x8000, leBytes 8 0 ++ leBytes 8 0x7000 ++ leBytes 8 0x9000)]
  { s with m := { s.m with
      regs := { s.m.regs with ready := true, stage := 2, qcfgt := 0x8000 - 32 * 4, stopPhase := BitVec.ofNat 2 phase, stopReq := phase ≠ 0 }
      queues := [(3, { entry := BitVec.ofNat 256 (2 ^ 64 * 0x7000 + 2 ^ 44 * 4 + 2 ^ 60 * 2), en := true, tail := 1 })]
      graphs := [{ id := 3, desc := 0x6000, ctx := 0, areaReady := false }, { id := 4, desc := 0x6040, ctx := 0 }] } }

theorem witness_HostEvents :
    (∃ x, x = (portState [] 0).m.queue 3 ∧ x.en = true ∧ x.owner = 2 ∧ (portState [] 0).m.portReady = true ∧ (portState [] 0).m.sourcesHeld x.submitter.ctx = false ∧
      (portState [] 1).m.sourcesHeld x.submitter.ctx = true ∧ x.owner ≠ 1) ∧
    ((portState [] 0).m.nextEntry 4 = none) ∧
    (∃ b, (portState ([0] ++ leBytes 7 0 ++ leBytes 8 0x5080) 0).m.nextEntry 3 = some b ∧ leAt b 0 1 = 0 ∧ entryForm b = true ∧
      ∃ m1, (portState ([0] ++ leBytes 7 0 ++ leBytes 8 0x5080) 0).m.enrol ((portState [] 0).m.queue 3).submitter (toW (leAt b 8 8)) = (m1, .error 2)) ∧
    (Config.poolHolds = (fun _ _ => true) → ∃ m1 n, (portState [] 0).m.enrol ((portState [] 0).m.queue 3).submitter 0x5000 = (m1, .ok n)) ∧
    (∃ b, (portState [3] 0).m.nextEntry 3 = some b ∧ 3 ≤ leAt b 0 1) ∧
    (∃ b, (portState ([1] ++ leBytes 7 0 ++ leBytes 8 0x6040) 0).m.nextEntry 3 = some b ∧ leAt b 0 1 = 1 ∧ entryForm b = true ∧
      ∃ m1, (portState [] 0).m.requestReplay ((portState [] 0).m.queue 3).submitter 0x6040 = (m1, .refused 9)) ∧
    (∃ b e, (portState ([2] ++ leBytes 7 0 ++ leBytes 8 0x6040) 0).m.nextEntry 3 = some b ∧ leAt b 0 1 = 2 ∧ entryForm b = true ∧
      (portState [] 0).m.ctxEntryNow 0 0 = some e ∧ (portState [] 0).m.readReplay ((portState [] 0).m.queue 3).submitter e 0x6040 = none ∧
      ∃ r, (withBytes (portState [] 0) [(0x6048, leBytes 4 1), (0x6060, leBytes 4 64)]).m.readReplay ((portState [] 0).m.queue 3).submitter e 0x6040 = some r) ∧
    (∃ g, (portState [] 0).m.graph? 3 = some g ∧ g.areaReady = false ∧ g.running = false ∧ (portState [] 0).m.sourcesHeld g.ctx = false) ∧
    (∃ g, (portState [] 0).m.graph? 4 = some g ∧ g.areaReady = true ∧ g.pend = none) ∧
    ((portState [] 0).m.entryOk (leNat ((portState [] 0).m.mem.read 0 0x8000 32)) = false ∧
      (withBytes (portState [] 0) [(0x8000, leBytes 8 (2 ^ 44 * 4)), (0x8010, leBytes 8 0x9000)]).m.entryOk (leNat ((withBytes (portState [] 0) [(0x8000, leBytes 8 (2 ^ 44 * 4)), (0x8010, leBytes 8 0x9000)]).m.mem.read 0
        ((portState [] 0).m.regs.qcfgt.toNat + 32 * 4) 32)) = true) ∧
    (State.reset.m.inHdm 0 64 = true ∧ State.reset.m.inHdm (2 ^ 42 - 63) 64 = false) ∧
    (State.reset.m.regs.stage = 0 ∧ State.reset.m.regs.fwrun = false ∧ 6291448 % 8 = 0 ∧ 6291448 + 8 ≤ 6291456 ∧ (portState [] 0).m.regs.stage ≠ 0) ∧
    (regInfo 0x500 = some (.module, false) ∧ (portState [] 0).m.cur.id ≠ 0 ∧ rxOk (portState [] 0).m.cur 0 = true) := by
  refine ⟨⟨_, rfl, by decide +kernel⟩, by decide +kernel, ⟨_, rfl, by decide +kernel, by decide +kernel, pair_of (by decide +kernel)⟩, fun h => ?_, ⟨_, rfl, by decide +kernel⟩,
    ⟨_, rfl, by decide +kernel, by decide +kernel, pair_of (by decide +kernel)⟩, ⟨_, _, rfl, by decide +kernel, by decide +kernel, rfl, by decide +kernel, there_of (by decide +kernel)⟩,
    ⟨_, rfl, by decide +kernel⟩, ⟨_, rfl, by decide +kernel⟩, by decide +kernel⟩
  have e : ∃ q, ((portState [] 0).m.enrol ((portState [] 0).m.queue 3).submitter 0x5000).2 = .ok q := okay_of (by unfold Mach.enrol Mach.examine; rw [h]; decide +kernel)
  obtain ⟨q, hq⟩ := e
  obtain ⟨m3, h3⟩ := pair_of hq
  exact ⟨m3, q, h3⟩

/-- The module right after reset with these registers, dies and claims. -/
def moduleState (r : Regs → Regs) (dies : SMap Die) (claims : List Claim) : State :=
  { State.reset with m := { State.reset.m with regs := r State.reset.m.regs, dies := dies, claims := claims } }

theorem witness_PowerAndErrorEvents :
    State.reset.m.regs.powered = true ∧ ((moduleState (fun r => { r with powered := false }) [] []).m.regs.powered = false) ∧
    (State.reset.m.regs.stage = 0 ∧ State.reset.m.regs.fwrun = false) ∧
    (∀ n ∈ [4096, 6291456], ∃ s, s = moduleState (fun r => { r with fwrun := true, fwlen := BitVec.ofNat 64 n }) [] [] ∧ s.m.regs.fwrun = true ∧ 4096 ≤ s.m.regs.fwlen.toNat ∧
      s.m.regs.fwlen.toNat ≤ 6291456) ∧
    ((moduleState (fun r => { r with stage := 1 }) [] []).m.regs.stage = 1 ∧ (moduleState (fun r => { r with stage := 2 }) [] []).m.regs.stage = 2 ∧
      (moduleState (fun r => { r with stage := 2 }) [] []).m.regs.ready = false) ∧
    (∀ c ∈ State.reset.m.allConts, c.stage0 = false) ∧ ((0x4D52 : Word).toNat % 2 ^ 16 = 0x4D52) ∧
    ((State.reset.m.die 63).rstat ≠ 1 ∧ State.reset.m.isWithheld 63 = false ∧ State.reset.m.mapElig 63 = true ∧
      (moduleState (fun r => { r with plmap := 0x8000 }) [] []).m.mapElig 1 = false ∧ State.reset.m.teams = [] ∧ (State.reset.m.die 63).tripped = false) ∧
    (((moduleState id [(5, { rstat := 1 })] []).m.die 5).rstat = 1) ∧
    (∃ c, (moduleState id [] [{ page := 4, host := true, contested := false }]).m.claimOf 4 = some c ∧ c.host = true ∧ c.host ≠ false) ∧
    ((moduleState id [] []).m.claimOf 4 = none ∧ (moduleState id [] []).m.claims.length < 64 ∧
      (moduleState id [] ((List.range 64).map fun k => { page := BitVec.ofNat 36 (k + 5), host := true, contested := false })).m.claimOf 4 = none ∧
      64 ≤ (moduleState id [] ((List.range 64).map fun k => { page := BitVec.ofNat 36 (k + 5), host := true, contested := false })).m.claims.length) ∧
    ((State.reset.m.die 1).temp < (State.reset.m.die 1).thrm.toNat / 2 ^ 16 % 2 ^ 16 ∧
      ((moduleState id [(1, { pwrstat := 0xFFFF0000 })] []).m.die 1).thrm.toNat / 2 ^ 16 % 2 ^ 16 ≤ ((moduleState id [(1, { pwrstat := 0xFFFF0000 })] []).m.die 1).temp) ∧
    (State.reset.m.paFault 0 = none ∧ State.reset.m.paFault (2 ^ 42 - 1) = none) ∧
    (∃ c, (placed .k id).m.cont? 1 = some c ∧ c.id ≠ 0 ∧ c.state.toNat < 6) ∧
    (State.reset.m.regs.podUp.getLsbD 11 = true ∧ (moduleState (fun r => { r with podUp := 0 }) [] []).m.regs.podUp.getLsbD 11 = false ∧ State.reset.m.jobs = []) ∧
    ((vget State.reset.m.regs.ebstat 15 0).getLsbD 0 = false ∧
      (vget (moduleState (fun r => { r with ebstat := Vector.replicate 16 1 }) [] []).m.regs.ebstat 15 0).getLsbD 0 = true) := by
  refine ⟨rfl, rfl, by decide, fun n hn => ?_, by decide, by decide +kernel, by decide, by decide +kernel, by decide +kernel, ⟨_, rfl, by decide⟩, join3 (by decide +kernel) ⟨⟨_, rfl, by decide⟩, by decide +kernel⟩⟩
  simp only [List.mem_cons, List.mem_nil_iff, or_false] at hn
  rcases hn with rfl | rfl <;> exact ⟨_, rfl, rfl, by decide +kernel⟩

/-! ### Frames, bundles, reports, steps -/

/-- An instruction that answers a next state on a quiet machine whose continuation is resident. -/
def Runs1 (i : Instr) (s : State) : Prop := s.Quiet ∧ s.m.cur.resident = true ∧ ∃ t, exec i s = .next t

theorem runs1_of {i : Instr} {s : State} (h : s.m.cur.state = 2) (h' : s.m.conts = []) (h'' : s.m.cur.resident = true) (h3 : (after i s).isSome = true) : Runs1 i s := by
  refine ⟨⟨h, by simp [h']⟩, h'', ?_⟩
  unfold after at h3
  split at h3
  · exact ⟨_, ‹_›⟩
  · cases h3

theorem witness_ScalarFrame : Runs1 (.add gu0 7 5 6) sExample ∧ (Instr.add gu0 7 5 6).cls = some .s0 ∧ Runs1 (.add gu0 25 5 24) streamState :=
  ⟨runs1_of rfl rfl rfl (by decide +kernel), rfl, runs1_of rfl rfl rfl (by decide +kernel)⟩

theorem witness_AccessFrame : Runs1 (.ldd gu0 8 9 0x7FF) mExample ∧ Runs1 (.spldw gu0 8 6 0) mExample ∧ Runs1 (.std gu0 7 9 0) mExample ∧ Runs1 (.spstd gu0 7 6 0) mExample ∧
    readG 7 mExample.m = .ok (0x1122334455667788, mExample.m) ∧ readG 9 mExample.m = .ok (0x4000, mExample.m) :=
  ⟨runs1_of rfl rfl rfl (by decide +kernel), runs1_of rfl rfl rfl (by decide +kernel), runs1_of rfl rfl rfl (by decide +kernel), runs1_of rfl rfl rfl (by decide +kernel), rfl, rfl⟩

theorem witness_EngineFrame : Runs1 (.vadd gu0 5 6 false) (vec3 0 0) ∧ Runs1 (.mzero gu0 1 true) (mState 0) ∧ Runs1 (.dcopy gu0 5 0) cardState ∧
    (vec3 0 0).m.cur.trapen.toNat % 2 ^ 7 = 0 ∧ (vec3 0 0).m.cur.vpend = [] ∧ (vec3 0 0).m.cur.mx.array = [] ∧
    [(Instr.vadd gu0 5 6 false).cls, (Instr.mzero gu0 1 true).cls, (Instr.dcopy gu0 5 0).cls] = [some .v, some .m, some .d] :=
  ⟨runs1_of rfl rfl rfl (by decide +kernel), runs1_of rfl rfl rfl (by decide +kernel), runs1_of rfl rfl rfl (by decide +kernel), by decide +kernel, rfl, rfl, rfl⟩

theorem witness_ControlFrame : Runs1 (.loop gu0 1 1) branchState ∧ Runs1 (.brl gu0 1 4) branchState ∧ Runs1 (.fmtw gu0 true 0xFFFF) branchState ∧
    [(Instr.loop gu0 1 1).cls, (Instr.brl gu0 1 4).cls, (Instr.fmtw gu0 true 0xFFFF).cls] = [some .k, some .k, some .k] :=
  ⟨runs1_of rfl rfl rfl (by decide +kernel), runs1_of rfl rfl rfl (by decide +kernel), runs1_of rfl rfl rfl (by decide +kernel), rfl⟩

/-- Between bundles, with the bytes of one at 0x1000: its header, then its slots. -/
def bundleState (bytes : List Byte) : State :=
  let s := withBytes (placed .k fun c => { c with cursor := none }) [(0x1000, bytes)]
  { s with snap := none }

/-- A continuation whose next instruction goes into its slot's queue; one such instruction. -/
def timidState : State := { sExample with m := { sExample.m with cur := { sExample.m.cur with
  timid := true, cursor := some { placedCursor .s0 with instr := some (.add gu0 7 5 6) } } } }

def queued (x : Slot) (i : Instr) : QEntry := { slot := (placedCursor x).slots.headD 0, instr := i, insn := 0, pc := 0x1000, bundle := 0, group := 0, sync := 0 }

/-- A header with reserved bit 15, an empty one, one S slot with a stop, two writes of one register in a group. -/
theorem witness_BundlesAndGuards :
    (∃ g : Guard, g.enc = encode (.add ⟨3, true⟩ 7 5 6) / 2 ^ 21 % 16 ∧ (sExample.m.cur.pred g.p.toNat != g.inv) = true) ∧
    (∃ g : Guard, g.enc = encode (.add ⟨3, false⟩ 7 5 6) / 2 ^ 21 % 16 ∧ (sExample.m.cur.pred g.p.toNat != g.inv) = false) ∧
    (sExample.Open .s0 ∧ timidState.m.stays (timidState.m.cur.slotNow .s0) (.add gu0 7 5 6) = true) ∧
    (∃ k x rest j, timidState.m.cur.cursor = some k ∧ k.back = none ∧ k.slots = x :: rest ∧ k.instr = some j ∧ timidState.m.cur.timid = true ∧
      timidState.m.cur.trapen.toNat % 2 ^ 7 = 0) ∧
    (∃ k x, sExample.m.cur.cursor = some k ∧ k.slots = [x] ∧ sExample.m.cur.state = 2) ∧
    ((bundleState []).m.canDispatch = true ∧ (bundleState []).m.cur.flagTrap = none ∧ (bundleState []).m.cur.groupLen < 16 ∧ (bundleState []).m.cur.sig = []) ∧
    (∀ h ∈ [2 ^ 15, 0x81, 0x03], ∃ hb, (bundleState (leBytes 4 h ++ leBytes 4 (encode (.add gu0 7 5 6)) ++ leBytes 4 (encode (.add gu0 7 5 6)))).m.fetchBytes
      (bundleState []).m.cur 0x1000 4 = .ok hb ∧ leNat hb = h) ∧
    (∃ w, groupTest [] [some (.add gu0 7 5 6)] = some w) ∧ groupTest [] [some (.add gu0 7 5 6), some (.add gu0 7 5 6)] = none ∧
    needsStop (.add gu0 7 5 6) = false := by
  refine ⟨⟨⟨3, true⟩, by decide +kernel⟩, ⟨⟨3, false⟩, by decide +kernel⟩,
    ⟨(ready_of (g := gu0) (by decide +kernel)).2, by decide +kernel⟩, ⟨_, _, _, _, rfl, rfl, rfl, rfl, rfl, by decide⟩, ⟨_, _, rfl, rfl, rfl⟩, by decide +kernel, fun h hh => ?_, there_of (by decide +kernel), by decide +kernel⟩
  simp only [List.mem_cons, List.mem_nil_iff, or_false] at hh
  rcases hh with rfl | rfl | rfl
  · exact ⟨leBytes 4 (2 ^ 15), by decide +kernel⟩
  · exact ⟨leBytes 4 0x81, by decide +kernel⟩
  · exact ⟨leBytes 4 0x03, by decide +kernel⟩

theorem witness_TrapEntry : (onUser sExample).m.cur.imprecise = none ∧ (onUser sExample).m.cur.tvec ≠ 0 ∧ (onUser sExample).m.cur.sysMode = false ∧
    (onUser sExample).m.cur.stage0 = false ∧ (onUser sExample).m.cur.poisoned = false ∧ (onUser sExample).snap = none ∧
    (∀ c ∈ [0x1001, 0x2003, 0x3001, 0xF123], c / 4096 = 1 ∨ c / 4096 = 2 ∨ c / 4096 = 15 ∨ (c / 4096 = 3 ∧ c ≠ 0x3005 ∧ c ≠ 0x3007 ∧ c ≠ 0x3006)) ∧
    (sExample.m.cur.tvec = 0 ∧ ∃ k, sExample.m.task? sExample.m.cur.task = some k ∧ k.stage ≠ .ended ∧ k.node = none ∧ k.guest = none) ∧
    (∃ m, (onUser sExample).reported = some m) ∧ ((onUser sExample).m.cur.queue = [] ∧ (onUser sExample).m.cur.timid = false ∧ timidState.m.cur.timid = true) ∧
    ∃ c : Cont, c.imprecise ≠ none :=
  ⟨rfl, by decide +kernel, rfl, rfl, by decide +kernel, rfl, by decide, ⟨rfl, _, rfl, by decide, rfl, rfl⟩,
    there_of (by decide +kernel), ⟨rfl, rfl, rfl⟩, ⟨{ placedCont none with imprecise := some ⟨{ cause := 0x3001 }, 0, 0, 0, false⟩ }, by decide⟩⟩

/-- R128, R180: a command that waits for the latch stays in its queue, and the bundle's M slot fills the latch. -/
theorem test_latch_wait_keeps_queue : (after (.vmov gu0 5 0 true) { vec 3 0 0x802000 0 with m := { (vec 3 0 0x802000 0).m with cur :=
    { (vec 3 0 0x802000 0).m.cur with cursor := some { placedCursor .v with instr := some (.vmov gu0 5 0 true) } } } }).map
      (fun t => (t.m.cur.queue.map fun e => (e.instr, e.checked), t.m.cur.cursor.isNone)) = some ([(.vmov gu0 5 0 true, true)], true) := by decide +kernel
theorem test_drain_passes_latch_wait : (after (.mdrain gu0 1 0x10 0) { accState false 0 with m := { (accState false 0).m with cur :=
    { (accState false 0).m.cur with queue := [{ queued .v (.vmov gu0 5 0 true) with checked := true }] } } }).map
      (fun t => (t.m.cur.queue.length, t.m.cur.mx.array.map MCmd.waits)) = some (1, [0x10]) := by decide +kernel

theorem witness_StepRunsDecodedInstruction :
    (∃ s k x rest b, s = State.reset.withFetchWord 32 (encode (.add gu0 7 5 6)) ∧ s.m.cur.cursor = some k ∧ k.slots = x :: rest ∧
      (s.snap.getD s.m).fetchBytes s.m.cur k.addr.toNat (Slot.of x.val).bytes = .ok b ∧ decode (Slot.of x.val) (leNat b) = some (.add gu0 7 5 6) ∧ s.m.cur.stage0 = false) ∧
    (∃ s k x rest b, s = withBytes (placed .s0 id) [(0x1004, leBytes 4 0xFFFFFFFF)] ∧ s.m.cur.cursor = some k ∧ k.slots = x :: rest ∧
      (s.snap.getD s.m).fetchBytes s.m.cur k.addr.toNat (Slot.of x.val).bytes = .ok b ∧ decode (Slot.of x.val) (leNat b) = none) ∧
    ((bundleState []).m.cur.cursor = none ∧ (bundleState []).agenda = [] ∧ (bundleState []).m.cur.id ≠ 0 ∧ (bundleState []).m.cur.state = 2 ∧ (bundleState []).m.stalled = false ∧
      (bundleState []).m.cur.queue.find? (fun e => !e.tried) = none ∧ (bundleState []).m.mustYield = false ∧
      ({ (bundleState []).m with conts := [rival 1] } : Mach).mustYield = true) ∧
    (∃ c e, c = ({ (bundleState []).m.cur with queue := [queued .v (.vmov gu0 5 0 true)] } : Cont) ∧ c.queue.find? (fun e => !e.tried) = some e) ∧
    (State.reset.m.cur.cursor = none ∧ State.reset.agenda = [] ∧ State.reset.m.cur.id = 0 ∧ State.reset.m.regs.powered = true ∧ isEvent .cxlReset = true) ∧
    (∃ r, (askMach.seq 0).run = some r ∧ decodeSeq (SMap.get 0 (askMach.seq 0).store r.pcw).toNat = some (.kvrd false 2 4 0 1 false 1)) := by
  refine ⟨⟨_, _, _, _, _, rfl, rfl, rfl, rfl, by decide +kernel, rfl⟩, ⟨_, _, _, _, _, rfl, rfl, rfl, rfl, by decide +kernel⟩, by decide +kernel, ⟨_, _, rfl, rfl⟩, by decide +kernel, ⟨_, rfl, by decide +kernel⟩⟩

theorem witness_EncodeThenDecode : (Instr.add ⟨7, true⟩ 23 31 31).wf = true ∧ (Instr.mma gu0 14 15 3 true 96 true true).wf = true ∧
    (Instr.kvrd true 7 15 0 1 true 64).wf = true ∧ isMicro (.kvrd true 7 15 0 1 true 64) = true := by decide +kernel

theorem next_of {s : State} (h : (match step s with | .next _ => true | _ => false) = true) : ∃ t, step s = .next t := by
  split at h
  · exact ⟨_, ‹_›⟩
  · cases h

theorem witness_StepKeepsMemoryCanonical : ∃ s t, s = State.reset.withFetchWord 32 (encode (.std gu0 7 0 8)) ∧ s.Canonical ∧ step s = .next t := by
  obtain ⟨t, h⟩ := next_of (s := State.reset.withFetchWord 32 (encode (.std gu0 7 0 8))) (by decide +kernel)
  refine ⟨_, t, rfl, ⟨?_, ?_⟩, h⟩
  · unfold Mem.Canonical; decide +kernel
  · intro m hm; cases hm

/-- One step on a placed word: the word at the program counter is what runs. -/
theorem test_step_runs_word : (match step (State.reset.withFetchWord 32 (encode (.addi gu0 7 0 5))) with
    | .next t => some (vget t.m.cur.g 7 0).toNat
    | _ => none) = some 5 := by decide +kernel


end Sys2Proof.Tests
end

section
/-! SUPPORT. What the integer, logic, shift, field and predicate operations of the S slots compute, in the terms of R142 to R144:
numbers modulo 2^64, and bits. -/

namespace Sys2Proof.Machine

/-! ### Words as numbers and as integers -/

theorem toW_toNat (x : Word) : toW x.toNat = x := BitVec.ofNat_toNat 64 x |>.trans (BitVec.setWidth_eq x)

theorem toW_add (m n : ℕ) : toW (m + n) = toW m + toW n := BitVec.ofNat_add m n

theorem ofI_toInt (x : Word) : ofI x.toInt = x := BitVec.ofInt_toInt

theorem ofI_add (i j : ℤ) : ofI (i + j) = ofI i + ofI j := BitVec.ofInt_add i j

theorem ofI_natCast (n : ℕ) : ofI (n : ℤ) = toW n := BitVec.ofInt_natCast 64 n

theorem toW_getLsbD {n k : ℕ} (h : k < 64) : (toW n).getLsbD k = n.testBit k := by
  simp only [toW, BitVec.getLsbD_ofNat, h, decide_true, Bool.true_and]

theorem add_eq_toW (x y : Word) : x + y = toW (x.toNat + y.toNat) := by
  rw [toW_add, toW_toNat, toW_toNat]

theorem mul_eq_toW (x y : Word) : x * y = toW (x.toNat * y.toNat) := by
  rw [toW, BitVec.ofNat_mul, ← toW, ← toW, toW_toNat, toW_toNat]

theorem sub_eq_ofI (x y : Word) : x - y = ofI (x.toInt - y.toInt) := by
  rw [BitVec.sub_eq_add_neg, Int.sub_eq_add_neg, ofI_add, ofI_toInt]
  simp [ofI, BitVec.ofInt_neg]

theorem addImm_eq_ofI (x : Word) (k : BitVec 11) : x + k.signExtend 64 = ofI (x.toInt + k.toInt) := by
  rw [ofI_add, ofI_toInt]; rfl

theorem shiftLeft_eq_toW (x : Word) (n : ℕ) : x <<< n = toW (x.toNat * 2 ^ n) := by
  apply BitVec.eq_of_toNat_eq; simp [toW, Nat.shiftLeft_eq]

theorem shiftRight_eq_toW (x : Word) (n : ℕ) : x >>> n = toW (x.toNat / 2 ^ n) := by
  rw [← Nat.shiftRight_eq_div_pow, ← BitVec.toNat_ushiftRight, toW_toNat]

theorem sshiftRight_eq_ofI (x : Word) (n : ℕ) : x.sshiftRight n = ofI (x.toInt / 2 ^ n) := by
  rw [BitVec.sshiftRight_eq, Int.shiftRight_eq_div_pow]; simp [ofI]

theorem addShift_eq_toW (x y : Word) (n : ℕ) : x + y <<< n = toW (x.toNat + y.toNat * 2 ^ n) := by
  rw [toW_add, toW_toNat, shiftLeft_eq_toW]

theorem mulAdd_eq_toW (z x y : Word) : z + x * y = toW (z.toNat + x.toNat * y.toNat) := by
  rw [toW_add, toW_toNat, mul_eq_toW]

/-- R142: the upper half of the 128-bit product of the sign-extended operands. -/
theorem ofI_mulHigh (x y : Word) :
    ofI (x.toInt * y.toInt / 2 ^ 64) = (x.signExtend 128 * y.signExtend 128).extractLsb' 64 64 := by
  have h : x.signExtend 128 * y.signExtend 128 = BitVec.ofInt 128 (x.toInt * y.toInt) :=
    (BitVec.ofInt_mul _ _).symm
  rw [h]
  generalize x.toInt * y.toInt = p
  apply BitVec.eq_of_toNat_eq
  rw [BitVec.extractLsb'_toNat, Nat.shiftRight_eq_div_pow, ofI, BitVec.toNat_ofInt, BitVec.toNat_ofInt]
  omega

theorem toW_mulHigh (x y : Word) :
    toW (x.toNat * y.toNat / 2 ^ 64) = (x.setWidth 128 * y.setWidth 128).extractLsb' 64 64 := by
  apply BitVec.eq_of_toNat_eq
  have hx : (x.setWidth 128).toNat = x.toNat := BitVec.toNat_setWidth_of_le (by decide)
  have hy : (y.setWidth 128).toNat = y.toNat := BitVec.toNat_setWidth_of_le (by decide)
  rw [BitVec.extractLsb'_toNat, Nat.shiftRight_eq_div_pow, BitVec.toNat_mul, hx, hy, toW, BitVec.toNat_ofNat]
  generalize x.toNat * y.toNat = p
  omega

/-! ### Division, minimum and maximum (R142) -/

theorem divS_eq (x y : Word) : divS x y = if y = 0 then BitVec.allOnes 64 else ofI (x.toInt.tdiv y.toInt) := by
  unfold divS
  split
  · rfl
  split
  next h => obtain ⟨rfl, rfl⟩ := h; decide +kernel
  next => exact BitVec.eq_of_toInt_eq (by rw [BitVec.toInt_sdiv, ofI, BitVec.toInt_ofInt])

theorem divU_eq (x y : Word) : divU x y = if y = 0 then BitVec.allOnes 64 else toW (x.toNat / y.toNat) := by
  rw [divU, ← BitVec.toNat_udiv, toW_toNat]

theorem remS_eq (x y : Word) : remS x y = if y = 0 then x else ofI (x.toInt.tmod y.toInt) := by
  unfold remS
  split
  · rfl
  split
  next h => obtain ⟨rfl, rfl⟩ := h; decide +kernel
  next => rw [← BitVec.toInt_srem, ofI_toInt]

theorem remU_eq (x y : Word) : remU x y = if y = 0 then x else toW (x.toNat % y.toNat) := by
  rw [remU, ← BitVec.toNat_umod, toW_toNat]

theorem sltMin_eq (x y : Word) : (if x.slt y then x else y) = ofI (min x.toInt y.toInt) := by
  simp only [BitVec.slt, decide_eq_true_eq, min_def_lt, apply_ite ofI, ofI_toInt]

theorem sltMax_eq (x y : Word) : (if x.slt y then y else x) = ofI (max x.toInt y.toInt) := by
  simp only [BitVec.slt, decide_eq_true_eq, max_def_lt, apply_ite ofI, ofI_toInt]

theorem ultMin_eq (x y : Word) : (if x.ult y then x else y) = toW (min x.toNat y.toNat) := by
  simp only [BitVec.ult, decide_eq_true_eq, min_def_lt, apply_ite toW, toW_toNat]

theorem ultMax_eq (x y : Word) : (if x.ult y then y else x) = toW (max x.toNat y.toNat) := by
  simp only [BitVec.ult, decide_eq_true_eq, max_def_lt, apply_ite toW, toW_toNat]

/-! ### Rotation, counts and bit fields (R143) -/

/-- R143: the two parts of a rotation share no bit, so they add. -/
theorem rotateRight_eq_toW (x : Word) {n : ℕ} (h : n < 64) :
    x.rotateRight n = toW (x.toNat / 2 ^ n + x.toNat * 2 ^ (64 - n)) := by
  have hand : x >>> n &&& x <<< (64 - n) = 0#64 := by
    ext k hk
    simp only [BitVec.getElem_and, BitVec.getElem_ushiftRight, BitVec.getElem_shiftLeft, BitVec.getElem_zero]
    by_cases hkn : k < 64 - n
    · simp [hkn]
    · simp [BitVec.getLsbD_of_ge x (n + k) (by omega)]
  rw [BitVec.rotateRight_def, Nat.mod_eq_of_lt h, ← BitVec.add_eq_or_of_and_eq_zero _ _ hand, toW_add,
    shiftRight_eq_toW, shiftLeft_eq_toW]

theorem clz64_spec (x : Word) : clz64 x ≤ 64 ∧ x.toNat < 2 ^ (64 - clz64 x) ∧
    (clz64 x < 64 → 2 ^ (63 - clz64 x) ≤ x.toNat) := by
  unfold clz64
  split
  next h => subst h; simp
  next h =>
    have h0 : x.toNat ≠ 0 := fun hx => h (BitVec.eq_of_toNat_eq hx)
    have hlog : x.toNat.log2 < 64 := (Nat.log2_lt h0).mpr x.isLt
    refine ⟨by omega, ?_, fun _ => ?_⟩
    · rw [show 64 - (63 - x.toNat.log2) = x.toNat.log2 + 1 by omega]; exact Nat.lt_log2_self
    · rw [show 63 - (63 - x.toNat.log2) = x.toNat.log2 by omega]; exact Nat.log2_self_le h0

theorem ctz64_spec (x : Word) : ctz64 x ≤ 64 ∧ (ctz64 x < 64 → x.getLsbD (ctz64 x) = true) ∧
    ∀ k < ctz64 x, x.getLsbD k = false := by
  unfold ctz64
  cases h : (List.range 64).find? fun k => x.getLsbD k with
  | none =>
    refine ⟨le_refl _, fun h => absurd h (lt_irrefl _), fun k hk => ?_⟩
    simpa using List.find?_eq_none.mp h k (List.mem_range.mpr hk)
  | some n =>
    obtain ⟨hn, hmem, hlow⟩ := List.find?_range_eq_some.mp h
    exact ⟨(List.mem_range.mp hmem).le, fun _ => hn, fun k hk => by simpa using hlow k hk⟩

/-- A count is the sum of one for each element that is counted. -/
theorem length_filter_eq_sum_toNat {α : Type} (p : α → Bool) (l : List α) :
    (l.filter p).length = (l.map fun k => (p k).toNat).sum := by
  induction l with
  | nil => rfl
  | cons k l ih => cases h : p k <;> simp [h, ih, Nat.add_comm]

theorem popCount_eq (x : Word) : popCount x = ((List.range 64).map fun k => x.toNat / 2 ^ k % 2).sum := by
  simp only [popCount, length_filter_eq_sum_toNat, BitVec.getLsbD, Nat.toNat_testBit]

theorem fieldOf_eq (y : Word) : fieldOf y = (y.toNat % 64, min (y.toNat / 2 ^ 8 % 2 ^ 7) (64 - y.toNat % 64)) := by
  simp only [fieldOf, bits, Nat.shiftRight_eq_div_pow]

/-- A number with a field of `n` bits from bit `lo` replaced: what stood above the field, the new field, what stood below. -/
theorem putBits_eq (v x lo : ℕ) {n : ℕ} (hn : n ≠ 0) :
    putBits v (lo + n - 1) lo x = 2 ^ lo * (2 ^ n * (v / 2 ^ lo / 2 ^ n) + x % 2 ^ n) + v % 2 ^ lo := by
  have hw : lo + n - 1 + 1 - lo = n := by omega
  have hv : 2 ^ lo * (2 ^ n * (v / 2 ^ lo / 2 ^ n)) + v / 2 ^ lo % 2 ^ n * 2 ^ lo + v % 2 ^ lo = v := by
    rw [Nat.mul_comm _ (2 ^ lo), ← Nat.mul_add, Nat.div_add_mod, Nat.div_add_mod]
  simp only [putBits, hw, Nat.shiftRight_eq_div_pow]
  rw [Nat.mul_add, Nat.mul_comm (x % 2 ^ n)]
  omega

theorem putBits_testBit (v x lo k : ℕ) {n : ℕ} (hn : n ≠ 0) :
    (putBits v (lo + n - 1) lo x).testBit k = if lo ≤ k ∧ k < lo + n then x.testBit (k - lo) else v.testBit k := by
  rw [putBits_eq v x lo hn, Nat.testBit_two_pow_mul_add _ (Nat.mod_lt v (Nat.two_pow_pos lo)),
    Nat.testBit_two_pow_mul_add _ (Nat.mod_lt x (Nat.two_pow_pos n)), Nat.testBit_mod_two_pow, Nat.testBit_mod_two_pow,
    Nat.testBit_div_two_pow, Nat.testBit_div_two_pow]
  by_cases hk : k < lo
  · simp [hk]
  by_cases hkn : k < lo + n
  · simp [hk, hkn, show k - lo < n by omega, not_lt.mp hk]
  · simp only [hk, hkn, show ¬ k - lo < n by omega, and_false, if_false]
    rw [show k - lo - n + n + lo = k by omega]

/-- The sign of an `n`-bit number is its highest bit. -/
theorem sext_eq {n v : ℕ} (hn : n ≠ 0) (hv : v < 2 ^ n) :
    sext n v = if v.testBit (n - 1) then (v : ℤ) - (2 ^ n : ℕ) else v := by
  obtain ⟨m, rfl⟩ := Nat.exists_eq_succ_of_ne_zero hn
  simp only [sext, Nat.mod_eq_of_lt hv, Nat.succ_eq_add_one, Nat.add_sub_cancel]
  by_cases h : v < 2 ^ m
  · simp [h, Nat.testBit_lt_two_pow h]
  · simp [h, Nat.testBit_of_two_pow_le_and_two_pow_add_one_gt (not_lt.mp h) hv]

theorem bextOf_eq (s : Bool) (x y : Word) {pos n : ℕ} (hpos : pos = y.toNat % 64)
    (hn : n = min (y.toNat / 2 ^ 8 % 2 ^ 7) (64 - pos)) :
    bextOf s x y = if n = 0 then 0 else
      if (s && x.getLsbD (pos + n - 1)) = true then ofI ((x.toNat / 2 ^ pos % 2 ^ n : ℕ) - (2 ^ n : ℕ))
      else toW (x.toNat / 2 ^ pos % 2 ^ n) := by
  subst hpos
  simp only [bextOf, fieldOf_eq, ← hn]
  by_cases h0 : n = 0
  · rw [if_pos h0, if_pos h0]
  have hw : y.toNat % 64 + n - 1 + 1 - y.toNat % 64 = n := by omega
  have hbit : (x.toNat / 2 ^ (y.toNat % 64) % 2 ^ n).testBit (n - 1) = x.getLsbD (y.toNat % 64 + n - 1) := by
    rw [Nat.testBit_mod_two_pow, Nat.testBit_div_two_pow, BitVec.getLsbD]
    simp [show n - 1 < n by omega, show n - 1 + y.toNat % 64 = y.toNat % 64 + n - 1 by omega]
  rw [if_neg h0, if_neg h0, bits, hw, Nat.shiftRight_eq_div_pow,
    sext_eq h0 (Nat.mod_lt _ (Nat.two_pow_pos n)), hbit]
  cases s <;> cases x.getLsbD (y.toNat % 64 + n - 1) <;> simp [← ofI_natCast]

theorem binsOf_getLsbD (z x y : Word) {pos n k : ℕ} (hpos : pos = y.toNat % 64)
    (hn : n = min (y.toNat / 2 ^ 8 % 2 ^ 7) (64 - pos)) (hk : k < 64) :
    (binsOf z x y).getLsbD k = if pos ≤ k ∧ k < pos + n then x.getLsbD (k - pos) else z.getLsbD k := by
  subst hpos
  simp only [binsOf, fieldOf_eq, ← hn]
  by_cases h0 : n = 0
  · rw [if_pos h0, if_neg (by omega)]
  · rw [if_neg h0, toW_getLsbD hk, putBits_testBit _ _ _ _ h0]; rfl

/-! ### Lanes, predicates and comparisons (R144) -/

theorem putLane_getLsbD (x : Word) {l k : ℕ} (v : BitVec 16) (hk : k < 64) :
    (putLane x l v).getLsbD k = if k / 16 = l then v.getLsbD (k % 16) else x.getLsbD k := by
  have hput := putBits_testBit x.toNat v.toNat (16 * l) k (n := 16) (by decide)
  rw [putLane, toW_getLsbD hk]
  refine hput.trans ?_
  by_cases h : k / 16 = l
  · rw [if_pos h, if_pos (by omega), show k - 16 * l = k % 16 by omega]; rfl
  · rw [if_neg h, if_neg (by omega)]; rfl

theorem testBit_or_one (n k : ℕ) : (n ||| 1).testBit k = (decide (k = 0) || n.testBit k) := by
  rw [Nat.testBit_or, Bool.or_comm]
  congr 1
  rw [Bool.eq_iff_iff, Nat.testBit_one_eq_true_iff_self_eq_zero, decide_eq_true_iff]

theorem predWord_getLsbD (c : Cont) {k : ℕ} (hk : k < 64) :
    (toW (c.p.toNat ||| 1)).getLsbD k = (decide (k < 8) && c.pred k) := by
  rw [toW_getLsbD hk, testBit_or_one, ← BitVec.getLsbD, Cont.pred]
  by_cases h8 : k < 8
  · simp only [h8, decide_true, Bool.true_and]
  · rw [BitVec.getLsbD_of_ge c.p k (by omega)]
    simp only [show k ≠ 0 by omega, h8, decide_false, Bool.false_and, Bool.or_false]

theorem pred_ofWord (c : Cont) (x : Word) {k : ℕ} (h1 : 1 ≤ k) (h8 : k < 8) :
    ({ c with p := BitVec.ofNat 8 (x.toNat ||| 1) } : Cont).pred k = x.getLsbD k := by
  simp only [Cont.pred, BitVec.getLsbD_ofNat, testBit_or_one, show k ≠ 0 by omega, h8, decide_true, decide_false,
    Bool.true_and, Bool.false_or]
  rfl

theorem beq_eq_decide_toNat (x y : Word) : (x == y) = decide (x.toNat = y.toNat) := by
  rw [beq_eq_decide, decide_eq_decide, BitVec.toNat_inj]

theorem bne_eq_decide_toNat (x y : Word) : (x != y) = decide (x.toNat ≠ y.toNat) := by
  rw [bne, beq_eq_decide_toNat, ← decide_not]

theorem beqImm_eq_decide_toInt (x : Word) (k : BitVec 11) : (x == k.signExtend 64) = decide (x.toInt = k.toInt) := by
  rw [beq_eq_decide, decide_eq_decide, ← BitVec.toInt_inj, BitVec.toInt_signExtend_of_le (by decide)]

theorem sltImm_eq_decide (x : Word) (k : BitVec 11) : x.slt (k.signExtend 64) = decide (x.toInt < k.toInt) := by
  rw [BitVec.slt, BitVec.toInt_signExtend_of_le (by decide)]

/-- R144: bit 2 p(pa) + p(pb) of the table. -/
theorem tableIndex_eq (p q : Bool) : 2 * p.toNat + q.toNat = (if p then 2 else 0) + if q then 1 else 0 := by
  cases p <;> cases q <;> rfl

end Sys2Proof.Machine
end

section
/-! SUPPORT. An instruction that is ready, whose operands can be read and whose result can be written, completes with that
result: one rule for each operand form. -/

namespace Sys2Proof.Machine

/-- A statement about every row of a table is one about its first row and one about the others. -/
theorem forall_row_cons {α β : Type} {P : α → β → Prop} {p : α} {q : β} {l : List (α × β)} :
    (∀ i v, (i, v) ∈ (p, q) :: l → P i v) ↔ P p q ∧ ∀ i v, (i, v) ∈ l → P i v := by
  simp only [← Prod.forall (p := fun r : α × β => r ∈ (p, q) :: l → P r.1 r.2), List.forall_mem_cons, Prod.forall]

theorem forall_row_nil {α β : Type} {P : α → β → Prop} : (∀ i v, (i, v) ∈ ([] : List (α × β)) → P i v) ↔ True := by
  simp only [List.not_mem_nil, false_implies, implies_true]

section
variable {s : State} {gu : Guard} {d a b : GF} {p : BitVec 3} {m1 m2 m3 : Mach} {x y z v : Word} {t : Bool} {i : Instr}

theorem runSlot_opRR {f : Word → Word → Word} (hr : s.Ready gu .s0) (ha : readG a s.m = .ok (x, m1))
    (hb : readG b m1 = .ok (y, m2)) (hv : f x y = v) :
    ∀ m3, writeG d v m2 = .ok ((), m3) → runSlot i .s0 (some gu) (opRR f d a b) s = .next (s.complete m3) := by
  subst hv; exact fun m3 hd => runSlot_ok hr (opRR_ok ha hb hd)

theorem runSlot_opR {f : Word → Word} (hr : s.Ready gu .s0) (ha : readG a s.m = .ok (x, m1)) (hv : f x = v) :
    ∀ m2, writeG d v m1 = .ok ((), m2) → runSlot i .s0 (some gu) (opR f d a) s = .next (s.complete m2) := by
  subst hv; exact fun m2 hd => runSlot_ok hr (opR_ok ha hd)

theorem runSlot_opRRR {f : Word → Word → Word → Word} (hr : s.Ready gu .s0) (hz : readG d s.m = .ok (z, m1))
    (ha : readG a m1 = .ok (x, m2)) (hb : readG b m2 = .ok (y, m3)) (hv : f z x y = v) :
    ∀ m4, writeG d v m3 = .ok ((), m4) → runSlot i .s0 (some gu) (opRRR f d a b) s = .next (s.complete m4) := by
  subst hv; exact fun m4 hd => runSlot_ok hr (opRRR_ok hz ha hb hd)

theorem runSlot_opPred {f : Word → Word → Bool} (hr : s.Ready gu .s0) (ha : readG a s.m = .ok (x, m1))
    (hb : readG b m1 = .ok (y, m2)) (hv : f x y = t) : runSlot i .s0 (some gu) (opPred f p a b) s =
      .next (s.complete { m2 with cur := m2.cur.setPred p.toNat t }) := by
  subst hv; exact runSlot_ok hr (opPred_ok ha hb)

theorem runSlot_opPredR {f : Word → Bool} (hr : s.Ready gu .s0) (ha : readG a s.m = .ok (x, m1)) (hv : f x = t) :
    runSlot i .s0 (some gu) (opPredR f p a) s = .next (s.complete { m1 with cur := m1.cur.setPred p.toNat t }) := by
  subst hv; exact runSlot_ok hr (opPredR_ok ha)

end

/-- R144: MOVI writes its sign-extended immediate. -/
theorem exec_movi {s : State} {gu : Guard} {d : GF} {k : BitVec 16} {m1 : Mach} (hr : s.Ready gu .s0)
    (hd : writeG d (ofI k.toInt) s.m = .ok ((), m1)) : exec (.movi gu d k) s = .next (s.complete m1) :=
  runSlot_ok hr hd

/-- R144: MOVK has no guard, so it needs the slot to be open and no more. -/
theorem exec_movk {s : State} {d : GF} {z : Word} {l : BitVec 2} {k : BitVec 16} {m1 m2 : Mach} (ho : s.Open .s0)
    (hz : readG d s.m = .ok (z, m1)) (hd : writeG d (putLane z l.toNat k) m1 = .ok ((), m2)) :
    exec (.movk l d k) s = .next (s.complete m2) :=
  runSlot_open_ok (u := ()) ho (by simp only [act_bind, hz, hd])

/-- R144: SEL reads both operands, then takes the one its predicate names. -/
theorem exec_sel {s : State} {gu : Guard} {d a b : GF} {q : BitVec 3} {x y : Word} {m1 m2 m3 : Mach} (hr : s.Ready gu .s0)
    (ha : readG a s.m = .ok (x, m1)) (hb : readG b m1 = .ok (y, m2))
    (hd : writeG d (if m2.cur.pred q.toNat then x else y) m2 = .ok ((), m3)) :
    exec (.sel gu d a b q) s = .next (s.complete m3) :=
  runSlot_ok (u := ()) hr (by simp only [act_bind, act_getC, ha, hb, hd])

theorem exec_plog {s : State} {gu : Guard} {d a b : BitVec 3} {t : BitVec 4} (hr : s.Ready gu .s0) :
    exec (.plog gu d a b t) s = .next (s.complete { s.m with cur := s.m.cur.setPred d.toNat (t.getLsbD
      ((if s.m.cur.pred a.toNat then 2 else 0) + if s.m.cur.pred b.toNat then 1 else 0)) }) := by
  rw [← tableIndex_eq]
  exact runSlot_ok hr
    (act_modC (fun c => c.setPred d.toNat (t.getLsbD (2 * (c.pred a.toNat).toNat + (c.pred b.toNat).toNat))) s.m)

theorem exec_movpGet {s : State} {gu : Guard} {d : GF} {m1 : Mach} (hr : s.Ready gu .s0)
    (hd : writeG d (toW (s.m.cur.p.toNat ||| 1)) s.m = .ok ((), m1)) : exec (.movpGet gu d) s = .next (s.complete m1) :=
  runSlot_ok (u := ()) hr (by simp only [act_bind, act_getC, hd])

theorem exec_movpSet {s : State} {gu : Guard} {a : GF} {x : Word} {m1 : Mach} (hr : s.Ready gu .s0)
    (ha : readG a s.m = .ok (x, m1)) : exec (.movpSet gu a) s =
      .next (s.complete { m1 with cur := { m1.cur with p := BitVec.ofNat 8 (x.toNat ||| 1) } }) :=
  runSlot_ok (u := ()) hr (by simp only [act_bind, ha, act_modC])

end Sys2Proof.Machine
end

section
/-! SUPPORT. The words of the S slots: the operation number stands from bit 25 up and the fields below it, and the decoder
refuses a word with a bit set that the encoding calls zero (R138). -/

namespace Sys2Proof.Machine

/-! ### Operation numbers -/

theorem pk_eq_add (base : ℕ) (l : List (ℕ × ℕ)) : pk base l = base + pk 0 l := by
  induction l with
  | nil => rfl
  | cons f l ih => simp only [pk, ih]; omega

/-- Fields that stay below bit 25 leave the operation number alone. -/
theorem pk_opcode (op : ℕ) {l : List (ℕ × ℕ)} (h : pk 0 l < 2 ^ 25) : pk (op * 2 ^ 25) l / 2 ^ 25 = op := by
  rw [pk_eq_add]; omega

theorem pk_nil_lt {lo : ℕ} : pk 0 [] < 2 ^ lo := Nat.two_pow_pos lo

/-- A field of `n` bits above others that stay below it stays below the bit its width leads to. -/
theorem pk_cons_lt {v n lo hi : ℕ} {l : List (ℕ × ℕ)} (hv : v < 2 ^ n) (h : lo + n ≤ hi) (hl : pk 0 l < 2 ^ lo) :
    pk 0 ((v, lo) :: l) < 2 ^ hi :=
  calc v * 2 ^ lo + pk 0 l < (v + 1) * 2 ^ lo := by rw [Nat.succ_mul]; exact Nat.add_lt_add_left hl _
    _ ≤ 2 ^ n * 2 ^ lo := Nat.mul_le_mul_right _ hv
    _ = 2 ^ (lo + n) := by rw [Nat.mul_comm, Nat.pow_add]
    _ ≤ 2 ^ hi := Nat.pow_le_pow_right (by decide) h

/-- The guard fields of S0 and S1 stand right below the operation number (R131). -/
theorem pk_guarded_opcode (op : ℕ) (gu : Guard) {l : List (ℕ × ℕ)} (h : pk 0 l < 2 ^ 21) :
    pk (op * 2 ^ 25) ((gu.enc, 21) :: l) / 2 ^ 25 = op :=
  pk_opcode op (pk_cons_lt (n := 4) (Laws.Fits.guardLt gu) le_rfl h)

section
variable {p q r n : ℕ} (op : ℕ) (gu : Guard) (d : BitVec p) (a : BitVec q) (b : BitVec r) (t : BitVec n)

theorem opcode_rr (hp : p ≤ 5 := by decide) (hq : q ≤ 5 := by decide) :
    pk (op * 2 ^ 25) [(gu.enc, 21), (d.toNat, 16), (a.toNat, 11)] / 2 ^ 25 = op :=
  pk_guarded_opcode op gu (pk_cons_lt d.isLt (by omega) (pk_cons_lt a.isLt (by omega) pk_nil_lt))

theorem opcode_rrr (hp : p ≤ 5 := by decide) (hq : q ≤ 5 := by decide) (hr : r ≤ 5 := by decide) :
    pk (op * 2 ^ 25) [(gu.enc, 21), (d.toNat, 16), (a.toNat, 11), (b.toNat, 6)] / 2 ^ 25 = op :=
  pk_guarded_opcode op gu (pk_cons_lt d.isLt (by omega) (pk_cons_lt a.isLt (by omega) (pk_cons_lt b.isLt (by omega)
    pk_nil_lt)))

theorem opcode_rrrImm (hp : p ≤ 5 := by decide) (hq : q ≤ 5 := by decide) (hr : r ≤ 5 := by decide)
    (hn : n ≤ 6 := by decide) :
    pk (op * 2 ^ 25) [(gu.enc, 21), (d.toNat, 16), (a.toNat, 11), (b.toNat, 6), (t.toNat, 0)] / 2 ^ 25 = op :=
  pk_guarded_opcode op gu (pk_cons_lt d.isLt (by omega) (pk_cons_lt a.isLt (by omega) (pk_cons_lt b.isLt (by omega)
    (pk_cons_lt t.isLt (by omega) pk_nil_lt))))

theorem opcode_rrImm (hp : p ≤ 5 := by decide) (hq : q ≤ 5 := by decide) (hn : n ≤ 11 := by decide) :
    pk (op * 2 ^ 25) [(gu.enc, 21), (d.toNat, 16), (a.toNat, 11), (t.toNat, 0)] / 2 ^ 25 = op :=
  pk_guarded_opcode op gu (pk_cons_lt d.isLt (by omega) (pk_cons_lt a.isLt (by omega) (pk_cons_lt t.isLt (by omega)
    pk_nil_lt)))

theorem opcode_rImm (hp : p ≤ 5 := by decide) (hn : n ≤ 16 := by decide) :
    pk (op * 2 ^ 25) [(gu.enc, 21), (d.toNat, 16), (t.toNat, 0)] / 2 ^ 25 = op :=
  pk_guarded_opcode op gu (pk_cons_lt d.isLt (by omega) (pk_cons_lt t.isLt (by omega) pk_nil_lt))

end

/-! ### Fields of their own -/

section
variable (gu : Guard) (d a b : GF) (p q r : BitVec 3) (t : BitVec 4) (l : BitVec 2) (n : BitVec 16)

theorem encode_addsh_shift (sh : BitVec 6) : encode (.addsh gu d a b sh) % 2 ^ 6 = sh.toNat := by
  have := sh.isLt
  change pk _ _ % _ = _
  simp only [pk]; omega

/-- The sign-extension bit of BEXT is its lowest bit. -/
theorem encode_bext_sx (sx : Bool) : encode (.bext gu d a b sx) % 2 = sx.toNat := by
  have := sx.toNat_lt
  change pk _ _ % _ = _
  simp only [pk]; omega

theorem encode_bext_opcode (sx : Bool) : encode (.bext gu d a b sx) / 2 ^ 25 = 0x21 := by
  have h := opcode_rrrImm 0x21 gu d a b (BitVec.ofBool sx)
  rwa [BitVec.toNat_ofBool] at h

/-- MOVK has a lane where the others have a guard. -/
theorem encode_movk_opcode : encode (.movk l d n) / 2 ^ 25 = 0x24 :=
  pk_opcode 0x24 (pk_cons_lt l.isLt (by decide) (pk_cons_lt d.isLt (by decide) (pk_cons_lt n.isLt (by decide) pk_nil_lt)))

theorem encode_movpGet_opcode : encode (.movpGet gu d) / 2 ^ 25 = 0x2F :=
  pk_guarded_opcode 0x2F gu (pk_cons_lt d.isLt (by decide) pk_nil_lt)

/-- MOVP.set shares its operation number with MOVP.get and has its lowest bit set. -/
theorem encode_movpSet_opcode : encode (.movpSet gu a) / 2 ^ 25 = 0x2F := by
  have := Laws.Fits.guardLt gu; have := a.isLt
  change pk _ _ / _ = _
  simp only [pk]; omega

theorem encode_movk_lane : encode (.movk l d n) / 2 ^ 21 % 2 ^ 4 = l.toNat := by
  have := l.isLt; have := d.isLt; have := n.isLt
  change pk _ _ / _ % _ = _
  simp only [pk]; omega

theorem encode_sel_pred : encode (.sel gu d a b q) % 2 ^ 6 = q.toNat := by
  have := q.isLt
  change pk _ _ % _ = _
  simp only [pk]; omega

theorem encode_cmpeq_dest : encode (.cmpeq gu p a b) / 2 ^ 16 % 2 ^ 5 = p.toNat := by
  have := p.isLt; have := a.isLt; have := b.isLt
  change pk _ _ / _ % _ = _
  simp only [pk]; omega

theorem encode_plog_table : encode (.plog gu p q r t) % 2 ^ 6 = t.toNat := by
  have := t.isLt
  change pk _ _ % _ = _
  simp only [pk]; omega

theorem encode_movpGet_form : encode (.movpGet gu d) % 2 = 0 := by
  change pk _ _ % _ = _
  simp only [pk]; omega

theorem encode_movpSet_form : encode (.movpSet gu a) % 2 = 1 := by
  change pk _ _ % _ = _
  simp only [pk]; omega

end

/-! ### Zero bits -/

/-- R143: bits 10:6 of an immediate shift are zero. -/
theorem decode_shiftImm_none {w : ℕ} (hop : w / 2 ^ 25 ∈ [0x1A, 0x1B, 0x1C]) (hz : w / 2 ^ 6 % 2 ^ 5 ≠ 0) :
    decode .s0 w = none := by
  change decodeS w = none
  unfold decodeS
  simp only [List.mem_cons, List.not_mem_nil, or_false] at hop
  obtain h | h | h := hop
  · rw [h]; exact if_neg hz
  · rw [h]; exact if_neg hz
  · rw [h]; exact if_neg hz

/-- R144: bits 24:23 of MOVK are zero. -/
theorem decode_movk_none {w : ℕ} (h : w / 2 ^ 25 = 0x24) (hz : w / 2 ^ 23 % 2 ^ 2 ≠ 0) : decode .s0 w = none := by
  change decodeS w = none
  unfold decodeS
  rw [h]; exact if_neg hz

/-- R144: bits 5:3 of SEL are zero. -/
theorem decode_sel_none {w : ℕ} (h : w / 2 ^ 25 = 0x25) (hz : w / 2 ^ 3 % 2 ^ 3 ≠ 0) : decode .s0 w = none := by
  change decodeS w = none
  unfold decodeS
  rw [h]; exact if_neg hz

/-- R144: bits 5:4 of PLOG are zero. -/
theorem decode_plog_none {w : ℕ} (h : w / 2 ^ 25 = 0x2E) (hz : w / 2 ^ 4 % 2 ^ 2 ≠ 0) : decode .s0 w = none := by
  change decodeS w = none
  unfold decodeS
  rw [h]; exact if_neg fun hf => hz hf.1

/-- R144: bits 15:11 of MOVP.get are zero. -/
theorem decode_movpGet_none {w : ℕ} (h : w / 2 ^ 25 = 0x2F) (h0 : w % 2 = 0) (hz : w / 2 ^ 11 % 2 ^ 5 ≠ 0) :
    decode .s0 w = none := by
  have hget : fld w 0 16 ≠ 0 := by unfold fld; omega
  have hset : fld w 0 11 ≠ 1 := by unfold fld; omega
  change decodeS w = none
  unfold decodeS
  rw [h]; exact (if_neg hget).trans (if_neg fun hf => hset hf.1)

/-- R144: bits 20:16 of MOVP.set are zero. -/
theorem decode_movpSet_none {w : ℕ} (h : w / 2 ^ 25 = 0x2F) (h1 : w % 2 = 1) (hz : w / 2 ^ 16 % 2 ^ 5 ≠ 0) :
    decode .s0 w = none := by
  have hget : fld w 0 16 ≠ 0 := by unfold fld; omega
  change decodeS w = none
  unfold decodeS
  rw [h]; exact (if_neg hget).trans (if_neg fun hf => hz hf.2)

end Sys2Proof.Machine
end

section
/-! PROOFS. The integer, logic, shift, field, move, compare and predicate instructions of the S slots (R142 to R144). -/

namespace Sys2Proof.Machine

/-- Settles O3: each instruction is one operand form with the operation of its row. -/
theorem integerArithmetic : Obligations.IntegerArithmetic := by
  intro s gu d a b hr
  refine ⟨?_, ?_, ?_, ?_, ?_, ?_⟩
  · intro x y m1 m2 ha hb
    simp only [forall_row_cons, forall_row_nil, and_true]
    exact ⟨runSlot_opRR hr ha hb (add_eq_toW x y), runSlot_opRR hr ha hb (sub_eq_ofI x y),
      runSlot_opRR hr ha hb (mul_eq_toW x y), runSlot_opRR hr ha hb (ofI_mulHigh x y),
      runSlot_opRR hr ha hb (toW_mulHigh x y), runSlot_opRR hr ha hb (divS_eq x y), runSlot_opRR hr ha hb (divU_eq x y),
      runSlot_opRR hr ha hb (remS_eq x y), runSlot_opRR hr ha hb (remU_eq x y), runSlot_opRR hr ha hb (sltMin_eq x y),
      runSlot_opRR hr ha hb (sltMax_eq x y), runSlot_opRR hr ha hb (ultMin_eq x y), runSlot_opRR hr ha hb (ultMax_eq x y)⟩
  · exact fun x y m1 m2 sh ha hb => runSlot_opRR hr ha hb (addShift_eq_toW x y sh.toNat)
  · exact fun x m1 k ha => runSlot_opR hr ha (addImm_eq_ofI x k)
  · exact fun z x y m1 m2 m3 hz ha hb => runSlot_opRRR hr hz ha hb (mulAdd_eq_toW z x y)
  · intro sh k
    simp only [forall_row_cons, forall_row_nil, and_true]
    exact ⟨opcode_rrr 0x00 gu d a b, opcode_rrr 0x01 gu d a b, opcode_rrImm 0x02 gu d a k, opcode_rrrImm 0x03 gu d a b sh,
      opcode_rrr 0x04 gu d a b, opcode_rrr 0x05 gu d a b, opcode_rrr 0x06 gu d a b, opcode_rrr 0x07 gu d a b,
      opcode_rrr 0x08 gu d a b, opcode_rrr 0x09 gu d a b, opcode_rrr 0x0A gu d a b, opcode_rrr 0x0B gu d a b,
      opcode_rrr 0x0C gu d a b, opcode_rrr 0x0D gu d a b, opcode_rrr 0x0E gu d a b, opcode_rrr 0x0F gu d a b⟩
  · exact encode_addsh_shift gu d a b

/-- Settles O4: each instruction is one operand form with the operation of its row; CLZ, CTZ and BINS by the bits of their
results. -/
theorem logicShiftField : Obligations.LogicShiftField := by
  intro s gu d a b hr
  refine ⟨?_, ?_, ?_, ?_, ?_, ?_, ?_, ?_, ?_⟩
  · intro x m1 k n ha
    simp only [forall_row_cons, forall_row_nil, and_true]
    exact ⟨runSlot_opR hr ha rfl, runSlot_opR hr ha rfl, runSlot_opR hr ha rfl,
      runSlot_opR hr ha (shiftLeft_eq_toW x n.toNat), runSlot_opR hr ha (shiftRight_eq_toW x n.toNat),
      runSlot_opR hr ha (sshiftRight_eq_ofI x n.toNat), runSlot_opR hr ha (congrArg toW (popCount_eq x))⟩
  · intro x m1 ha
    obtain ⟨hle, hlt, hge⟩ := clz64_spec x
    exact ⟨clz64 x, hle, hlt, hge, runSlot_opR hr ha rfl⟩
  · intro x m1 ha
    obtain ⟨hle, hset, hclear⟩ := ctz64_spec x
    exact ⟨ctz64 x, hle, hset, hclear, runSlot_opR hr ha rfl⟩
  · intro x y m1 m2 ha hb
    have hy : y.toNat % 64 < 64 := Nat.mod_lt _ (by decide)
    simp only [forall_row_cons, forall_row_nil, and_true]
    exact ⟨runSlot_opRR hr ha hb rfl, runSlot_opRR hr ha hb rfl, runSlot_opRR hr ha hb rfl, runSlot_opRR hr ha hb rfl,
      runSlot_opRR hr ha hb (shiftLeft_eq_toW x _), runSlot_opRR hr ha hb (shiftRight_eq_toW x _),
      runSlot_opRR hr ha hb (sshiftRight_eq_ofI x _), runSlot_opRR hr ha hb (rotateRight_eq_toW x hy)⟩
  · exact fun x y m1 m2 pos n sx ha hb hpos hn => runSlot_opRR hr ha hb (bextOf_eq sx x y hpos hn)
  · exact fun z x y m1 m2 m3 pos n hz ha hb hpos hn =>
      ⟨binsOf z x y, fun k hk => binsOf_getLsbD z x y hpos hn hk, runSlot_opRRR hr hz ha hb rfl⟩
  · intro n k sx
    simp only [forall_row_cons, forall_row_nil, and_true]
    exact ⟨opcode_rrr 0x10 gu d a b, opcode_rrr 0x11 gu d a b, opcode_rrr 0x12 gu d a b, opcode_rrr 0x13 gu d a b,
      opcode_rrImm 0x14 gu d a k, opcode_rrImm 0x15 gu d a k, opcode_rrImm 0x16 gu d a k, opcode_rrr 0x17 gu d a b,
      opcode_rrr 0x18 gu d a b, opcode_rrr 0x19 gu d a b, opcode_rrImm 0x1A gu d a n, opcode_rrImm 0x1B gu d a n,
      opcode_rrImm 0x1C gu d a n, opcode_rrr 0x1D gu d a b, opcode_rr 0x1E gu d a, opcode_rr 0x1F gu d a,
      opcode_rr 0x20 gu d a, encode_bext_opcode gu d a b sx, opcode_rrr 0x22 gu d a b⟩
  · exact encode_bext_sx gu d a b
  · exact fun w _ hop hz => decode_shiftImm_none hop hz

/-- Settles O5: the comparisons are one operand form each with the comparison of their row; MOVI, MOVK, SEL, PLOG and MOVP
have a rule of their own. -/
theorem moveComparePredicate : Obligations.MoveComparePredicate := by
  intro s gu
  refine ⟨?_, ?_, ?_, ?_, ?_, ?_, ?_, ?_, ?_, ?_, ?_, ?_⟩
  · exact fun d k hr m1 hd => exec_movi hr hd
  · exact fun d z m1 l k ho hz => ⟨putLane z l.toNat k, fun j hj => putLane_getLsbD z k hj, fun m2 hd => exec_movk ho hz hd⟩
  · exact fun d a b x y m1 m2 q hr ha hb m3 hd => exec_sel hr ha hb hd
  · intro d a b x y m1 m2 hr ha hb
    simp only [forall_row_cons, forall_row_nil, and_true]
    exact ⟨runSlot_opPred hr ha hb (beq_eq_decide_toNat x y), runSlot_opPred hr ha hb (bne_eq_decide_toNat x y),
      runSlot_opPred hr ha hb rfl, runSlot_opPred hr ha hb rfl, runSlot_opPred hr ha hb rfl, runSlot_opPred hr ha hb rfl⟩
  · intro d a x m1 k hr ha
    simp only [forall_row_cons, forall_row_nil, and_true]
    exact ⟨runSlot_opPredR hr ha (beqImm_eq_decide_toInt x k), runSlot_opPredR hr ha (sltImm_eq_decide x k)⟩
  · exact fun d a b t hr => exec_plog hr
  · exact fun d hr => ⟨toW (s.m.cur.p.toNat ||| 1), fun k hk => predWord_getLsbD s.m.cur hk, fun m1 hd => exec_movpGet hr hd⟩
  · exact fun a x m1 hr ha =>
      ⟨BitVec.ofNat 8 (x.toNat ||| 1), fun k h1 h8 => pred_ofWord m1.cur x h1 h8, exec_movpSet hr ha⟩
  · intro d a b p q r t k l n
    simp only [forall_row_cons, forall_row_nil, and_true]
    exact ⟨opcode_rImm 0x23 gu d n, encode_movk_opcode d l n, opcode_rrrImm 0x25 gu d a b q, opcode_rrr 0x26 gu p a b,
      opcode_rrr 0x27 gu p a b, opcode_rrr 0x28 gu p a b, opcode_rrr 0x29 gu p a b, opcode_rrr 0x2A gu p a b,
      opcode_rrr 0x2B gu p a b, opcode_rrImm 0x2C gu p a k, opcode_rrImm 0x2D gu p a k, opcode_rrrImm 0x2E gu p q r t,
      encode_movpGet_opcode gu d, encode_movpSet_opcode gu a⟩
  · intro d a b p q r t l n
    exact ⟨encode_movk_lane d l n, encode_sel_pred gu d a b q, encode_cmpeq_dest gu a b p, encode_plog_table gu p q r t,
      encode_movpGet_form gu d, encode_movpSet_form gu a⟩
  · rintro w - (⟨h, hz⟩ | ⟨h, hz⟩ | ⟨h, hz⟩ | ⟨h, h0, hz⟩ | ⟨h, h1, hz⟩)
    · exact decode_movk_none h hz
    · exact decode_sel_none h hz
    · exact decode_plog_none h hz
    · exact decode_movpGet_none h h0 hz
    · exact decode_movpSet_none h h1 hz
  · exact fun a b => ⟨rfl, rfl⟩

end Sys2Proof.Machine
end

section
/-! SUPPORT. Decoding undoes encoding: the fields of a word stand apart, so each is read off the list of fields that `pk` packs
(R131 to R138, R267). -/

namespace Sys2Proof.Machine

/-! ### Reading one field of a packed word -/

section
variable {b v k lo n : ℕ} {l : List (ℕ × ℕ)}

/-- A field is read as it stands below the ones packed above it. -/
theorem fld_skip (h : lo + n ≤ k) : fld (pk b ((v, k) :: l)) lo n = fld (pk b l) lo n := by
  obtain ⟨j, rfl⟩ := Nat.exists_eq_add_of_le h
  rw [fld, fld, pk, show v * 2 ^ (lo + n + j) = 2 ^ lo * (2 ^ n * (v * 2 ^ j)) by ring,
    Nat.mul_add_div (Nat.two_pow_pos lo), Nat.mul_add_mod]

/-- The bits from `lo` up are the base's where every packed field stays below them. -/
theorem pk_div (hl : pk (b % 2 ^ lo) l < 2 ^ lo) : pk b l / 2 ^ lo = b / 2 ^ lo := by
  rw [pk_eq_add] at hl ⊢
  have hb := Nat.div_add_mod b (2 ^ lo)
  rw [← hb, Nat.add_assoc, Nat.mul_add_div (Nat.two_pow_pos lo), Nat.div_eq_of_lt hl, hb, Nat.add_zero]

theorem fld_base (hl : pk (b % 2 ^ lo) l < 2 ^ lo) : fld (pk b l) lo n = fld b lo n := by
  rw [fld, pk_div hl, fld]

/-- The order in which two fields are packed does not matter. -/
theorem pk_swap {u j : ℕ} (_ : j < k) : pk b ((u, j) :: (v, k) :: l) = pk b ([(v, k)] ++ (u, j) :: l) := by
  simp only [pk, List.singleton_append]; omega

/-- A field with the base zero in its place, and every later field below it, is read as it was packed. -/
theorem fld_head (hl : pk (b % 2 ^ lo) l < 2 ^ lo) (hb : fld b lo n = 0) (hv : v < 2 ^ n) :
    fld (pk b ((v, lo) :: l)) lo n = v := by
  rw [fld, pk, Nat.mul_comm, Nat.mul_add_div (Nat.two_pow_pos lo), pk_div hl, Nat.add_mod, ← fld, hb, Nat.add_zero,
    Nat.mod_mod, Nat.mod_eq_of_lt hv]

/-- A packed word keeps the operation number in its base, and stays in its width. -/
theorem word_of {w op : ℕ} (hw : pk b l = w) (hop : b / 2 ^ lo = op) (hl : pk (b % 2 ^ lo) l < 2 ^ lo) (hn : op < 2 ^ n) :
    w / 2 ^ lo = op ∧ w < 2 ^ (lo + n) := by
  have h : w / 2 ^ lo = op := by rw [← hw, pk_div hl, hop]
  exact ⟨h, by rw [Nat.pow_add, Nat.mul_comm]; exact (Nat.div_lt_iff_lt_mul (Nat.two_pow_pos lo)).1 (h ▸ hn)⟩

end

/-! ### Fields as bit vectors, flags and guards -/

theorem bv_eq_fld {n : ℕ} (w lo : ℕ) : (bv w lo : BitVec n) = BitVec.ofNat n (fld w lo n) := by
  apply BitVec.eq_of_toNat_eq; simp [bv, fld]

theorem bo_eq_fld (w k : ℕ) : bo w k = decide (fld w k 1 = 1) := rfl

theorem guardOf_eq_fld (w lo : ℕ) : guardOf w lo = ⟨BitVec.ofNat 3 (fld w lo 4 / 2), decide (fld w lo 4 % 2 = 1)⟩ := by
  have h3 : w / 2 ^ (lo + 1) % 2 ^ 3 = fld w lo 4 / 2 := by rw [fld, Nat.pow_succ, ← Nat.div_div_eq_div_mul]; omega
  have h1 : w / 2 ^ lo % 2 = fld w lo 4 % 2 := by rw [fld]; omega
  rw [guardOf, bo, h1, bv_eq_fld, fld, h3]

section
variable {b v k lo n : ℕ} {l : List (ℕ × ℕ)}

theorem bv_skip (h : lo + n ≤ k) : (bv (pk b ((v, k) :: l)) lo : BitVec n) = bv (pk b l) lo := by
  rw [bv_eq_fld, fld_skip h, ← bv_eq_fld]

theorem bo_skip (h : lo + 1 ≤ k) : bo (pk b ((v, k) :: l)) lo = bo (pk b l) lo := by
  rw [bo_eq_fld, fld_skip h, ← bo_eq_fld]

theorem bv_head {x : BitVec n} (hl : pk (b % 2 ^ lo) l < 2 ^ lo) (hb : fld b lo n = 0) :
    bv (pk b ((x.toNat, lo) :: l)) lo = x := by
  rw [bv_eq_fld, fld_head hl hb x.isLt, BitVec.ofNat_toNat, BitVec.setWidth_eq]

theorem bo_head {x : Bool} (hl : pk (b % 2 ^ lo) l < 2 ^ lo) (hb : fld b lo 1 = 0) : bo (pk b ((x.toNat, lo) :: l)) lo = x := by
  rw [bo_eq_fld, fld_head hl hb x.toNat_lt]; cases x <;> rfl

theorem guardOf_head {g : Guard} (hl : pk (b % 2 ^ lo) l < 2 ^ lo) (hb : fld b lo 4 = 0) :
    guardOf (pk b ((g.enc, lo) :: l)) lo = g := by
  obtain ⟨p, i⟩ := g
  rw [guardOf_eq_fld, fld_head hl hb (Laws.Fits.guardLt _), Guard.enc]
  have hp : (p.toNat * 2 + i.toNat) / 2 = p.toNat := by have := i.toNat_lt; omega
  rw [hp, Nat.mul_add_mod_self_right, Nat.mod_eq_of_lt i.toNat_lt]
  cases i <;> simp

end

/-! ### Legal instructions -/

theorem legal_eq_some {i j : Instr} (hw : i.wf = true) (hj : j = i) : legal j = some i := by subst hj; exact if_pos hw

/-- An arm of a map that asks for zero bits. -/
theorem branch_eq_some {i j : Instr} {p : Prop} [Decidable p] {o : Option Instr} (hw : i.wf = true) (hp : p) (hj : j = i) :
    (if p then legal j else o) = some i := (if_pos hp).trans (legal_eq_some hw hj)

/-- An arm that comes after another form of the same operation number. -/
theorem arm2_eq_some {i j : Instr} {p q : Prop} [Decidable p] [Decidable q] {o u : Option Instr} (hw : i.wf = true) (hp : ¬p)
    (hq : q) (hj : j = i) : (if p then u else if q then legal j else o) = some i := (if_neg hp).trans (branch_eq_some hw hq hj)

/-! ### Each slot's map

A constructor of the map is read back field by field; one of another map is none of the slot's. -/

/-- R142 to R146: the scalar instructions. -/
theorem decodeS_encode {i : Instr} {w : ℕ} (hw : i.wf = true) (hc : i.cls = some .s0) (he : encode i = w) :
    w < 2 ^ (25 + 7) ∧ decodeS w = some i := by
  cases i with
  | addi | addsh | andi | ori | xori | movi =>
    change pk _ _ = w at he
    obtain ⟨hop, hlt⟩ := word_of (lo := 25) (n := 7) he rfl (by simp only [pk, Guard.enc, ← BitVec.toNat_ofBool]; omega) (by decide)
    conv_rhs at hop => simp only [Nat.reducePow, Nat.reduceDiv]
    refine ⟨hlt, ?_⟩
    unfold decodeS
    rw [hop]
    refine legal_eq_some hw ?_
    rw [← he]
    simp (disch := first | decide | (simp only [pk, Guard.enc, ← BitVec.toNat_ofBool]; omega)) only
      [bv_skip, guardOf_head, bv_head]
  | add | sub | mul | mulh | mulhu | madd | div | divu | rem | remu | min | max | minu | maxu | and | or | xor | andn | sll |
    srl | sra | slli | srli | srai | ror | clz | ctz | popc | bext | bins | movk | sel | cmpeq | cmpne | cmplt | cmpltu |
    cmpge | cmpgeu | cmpeqi | cmplti | plog | movpGet | fadd | fsub | fmul | ffma | fdiv | fsqrt | fmin | fmax | fcmpeq |
    fcmplt | fcmple | fcvt | ftoi | itof | fclass =>
    change pk _ _ = w at he
    obtain ⟨hop, hlt⟩ := word_of (lo := 25) (n := 7) he rfl (by simp only [pk, Guard.enc, ← BitVec.toNat_ofBool]; omega) (by decide)
    conv_rhs at hop => simp only [Nat.reducePow, Nat.reduceDiv]
    refine ⟨hlt, ?_⟩
    unfold decodeS
    rw [hop]
    refine branch_eq_some hw ?_ ?_
    · rw [← he]
      simp (disch := first | decide | (simp only [pk, Guard.enc, ← BitVec.toNat_ofBool]; omega)) only
        [fld_skip, fld_base]
      decide
    · rw [← he]
      simp (disch := first | decide | (simp only [pk, Guard.enc, ← BitVec.toNat_ofBool]; omega)) only
        [bv_skip, bo_skip, guardOf_head, bv_head, bo_head]
  | movpSet =>
    change pk _ _ = w at he
    obtain ⟨hop, hlt⟩ := word_of (lo := 25) (n := 7) he rfl (by simp only [pk, Guard.enc, ← BitVec.toNat_ofBool]; omega) (by decide)
    conv_rhs at hop => simp only [Nat.reducePow, Nat.reduceDiv]
    refine ⟨hlt, ?_⟩
    unfold decodeS
    rw [hop]
    refine arm2_eq_some hw ?_ ?_ ?_
    · rw [← he]
      simp only [pk, fld]
      omega
    · rw [← he]
      simp (disch := first | decide | (simp only [pk, Guard.enc, ← BitVec.toNat_ofBool]; omega)) only
        [fld_skip, fld_base]
      decide
    · rw [← he]
      simp (disch := first | decide | (simp only [pk, Guard.enc, ← BitVec.toNat_ofBool]; omega)) only
        [guardOf_head, bv_skip, bv_head]
  | _ => cases hc

/-- R157 to R174: the memory and translation instructions. -/
theorem decodeA_encode {i : Instr} {w : ℕ} (hw : i.wf = true) (hc : i.cls = some .a) (he : encode i = w) :
    w < 2 ^ (25 + 7) ∧ decodeA w = some i := by
  cases i with
  | ldb | ldbu | ldh | ldhu | ldw | ldwu | ldd | stb | sth | stw | std | spldw | spldd | spstw | spstd | amomin | amomax =>
    change pk _ _ = w at he
    obtain ⟨hop, hlt⟩ := word_of (lo := 25) (n := 7) he rfl (by simp only [pk, Guard.enc, ← BitVec.toNat_ofBool]; omega) (by decide)
    conv_rhs at hop => simp only [Nat.reducePow, Nat.reduceDiv]
    refine ⟨hlt, ?_⟩
    unfold decodeA
    rw [hop]
    refine legal_eq_some hw ?_
    rw [← he]
    simp (disch := first | decide | (simp only [pk, Guard.enc, ← BitVec.toNat_ofBool]; omega)) only
      [bv_skip, bo_skip, guardOf_head, bv_head, bo_head]
  | ldacq | strel | amoadd | amoand | amoor | amoxor | amoswp | amocas | amofadd | fence | ldblk | blkwb | blkrel | xlt | xltp
    | leaseq | sbind | sunbind | qinit | qadv | qstat | wenq | agset | agadv =>
    change pk _ _ = w at he
    obtain ⟨hop, hlt⟩ := word_of (lo := 25) (n := 7) he rfl (by simp only [pk, Guard.enc, ← BitVec.toNat_ofBool]; omega) (by decide)
    conv_rhs at hop => simp only [Nat.reducePow, Nat.reduceDiv]
    refine ⟨hlt, ?_⟩
    unfold decodeA
    rw [hop]
    refine branch_eq_some hw ?_ ?_
    · rw [← he]
      simp (disch := first | decide | (simp only [pk, Guard.enc, ← BitVec.toNat_ofBool]; omega)) only
        [fld_skip, fld_base]
      decide
    · rw [← he]
      simp (disch := first | decide | (simp only [pk, Guard.enc, ← BitVec.toNat_ofBool]; omega)) only
        [bv_skip, bo_skip, guardOf_head, bv_head, bo_head]
  | _ => cases hc

/-- R181 to R199: the vector commands. -/
theorem decodeV_encode {i : Instr} {w : ℕ} (hw : i.wf = true) (hc : i.cls = some .v) (he : encode i = w) :
    w < 2 ^ (25 + 7) ∧ decodeV w = some i := by
  cases i with
  | vsetlImm | vmov | vfill | vadd | vsub | vmul | vfma | vmin | vmax | vabs | vneg | vadds | vmuls | vfmas | vrcp | vrsqrt |
    vexp | vlog | vsin | vcos | vtanh | vsig | vsilu | vgelu | vcvt | vqnt | vdq | vcmp | vsel | vrsum | vrmax | vargmax |
    vscan | vdot | vperm | vgath | vscadd | viadd | vand | vor | vxor | vshl | vshr | vsmax | vrmsn | vrope | vmaskw | tcwupd
    | tcwcnt | vfence | vbsy =>
    change pk _ _ = w at he
    obtain ⟨hop, hlt⟩ := word_of (lo := 25) (n := 7) he rfl (by simp only [pk, Guard.enc, ← BitVec.toNat_ofBool]; omega) (by decide)
    conv_rhs at hop => simp only [Nat.reducePow, Nat.reduceDiv]
    refine ⟨hlt, ?_⟩
    unfold decodeV
    rw [hop]
    refine branch_eq_some hw ?_ ?_
    · rw [← he]
      simp (disch := first | decide | (simp only [pk, Guard.enc, ← BitVec.toNat_ofBool]; omega)) only
        [fld_skip, fld_base]
      decide
    · rw [← he]
      simp (disch := first | decide | (simp only [pk, Guard.enc, ← BitVec.toNat_ofBool]; omega)) only
        [bv_skip, bo_skip, guardOf_head, bv_head, bo_head]
  | vsetlReg gu a =>
    change pk _ _ = w at he
    obtain ⟨hop, hlt⟩ := word_of (lo := 25) (n := 7) he rfl (by simp only [pk, Guard.enc, ← BitVec.toNat_ofBool]; omega) (by decide)
    conv_rhs at hop => simp only [Nat.reducePow, Nat.reduceDiv]
    refine ⟨hlt, ?_⟩
    unfold decodeV
    rw [hop]
    refine arm2_eq_some hw ?_ ?_ ?_
    · rw [← he, fld_skip (by decide), fld_head (by decide) (by decide) a.isLt]
      simpa [Instr.wf, ← BitVec.toNat_inj] using hw
    · rw [← he]
      simp (disch := first | decide | (simp only [pk, Guard.enc, ← BitVec.toNat_ofBool]; omega)) only
        [fld_skip, fld_base]
      decide
    · rw [← he]
      simp (disch := first | decide | (simp only [pk, Guard.enc, ← BitVec.toNat_ofBool]; omega)) only
        [guardOf_head, bv_skip, bv_head]
  | _ => cases hc

/-- R202 to R217: the matrix commands. -/
theorem decodeM_encode {i : Instr} {w : ℕ} (hw : i.wf = true) (hc : i.cls = some .m) (he : encode i = w) :
    w < 2 ^ (57 + 7) ∧ decodeM w = some i := by
  cases i with
  | mma | mmabt | mmasp | mmacb | mzero | mldacc | mdrain | mdraina | mpop | mcbld | mscl | mfence =>
    change pk _ _ = w at he
    obtain ⟨hop, hlt⟩ := word_of (lo := 57) (n := 7) he rfl (by simp only [pk, Guard.enc, ← BitVec.toNat_ofBool]; omega) (by decide)
    conv_rhs at hop => simp only [Nat.reduceMul, Nat.reducePow, Nat.reduceDiv]
    refine ⟨hlt, ?_⟩
    unfold decodeM
    rw [hop]
    refine branch_eq_some hw ?_ ?_
    · rw [← he]
      simp (disch := first | decide | (simp only [pk, Guard.enc, ← BitVec.toNat_ofBool]; omega)) only
        [fld_skip, fld_base]
      decide
    · rw [← he]
      simp (disch := first | decide | (simp only [pk, Guard.enc, ← BitVec.toNat_ofBool]; omega)) only
        [bv_skip, bo_skip, guardOf_head, bv_head, bo_head, pk_swap, List.singleton_append]
  | _ => cases hc

/-- R218 to R241: the jobs. -/
theorem decodeD_encode {i : Instr} {w : ℕ} (hw : i.wf = true) (hc : i.cls = some .d) (he : encode i = w) :
    w < 2 ^ (57 + 7) ∧ decodeD w = some i := by
  cases i with
  | dcopy | dmcast | dgath | dscat | dscadd | dred | dbcast | dallg | dembag | dstage | pack | unpack | exn | kvfill | skfind
    | skput | skrel | skpin | dfence | ixwalk | ixsect | ixpart =>
    change pk _ _ = w at he
    obtain ⟨hop, hlt⟩ := word_of (lo := 57) (n := 7) he rfl (by simp only [pk, Guard.enc, ← BitVec.toNat_ofBool]; omega) (by decide)
    conv_rhs at hop => simp only [Nat.reduceMul, Nat.reducePow, Nat.reduceDiv]
    refine ⟨hlt, ?_⟩
    unfold decodeD
    rw [hop]
    refine branch_eq_some hw ?_ ?_
    · rw [← he]
      simp (disch := first | decide | (simp only [pk, Guard.enc, ← BitVec.toNat_ofBool]; omega)) only
        [fld_skip, fld_base]
      decide
    · rw [← he]
      simp (disch := first | decide | (simp only [pk, Guard.enc, ← BitVec.toNat_ofBool]; omega)) only
        [bv_skip, guardOf_head, bv_head]
  | _ => cases hc

/-- R147 to R156, R248 to R261: control and system. -/
theorem decodeK_encode {i : Instr} {w : ℕ} (hw : i.wf = true) (hc : i.cls = some .k) (he : encode i = w) :
    w < 2 ^ (25 + 7) ∧ decodeK w = some i := by
  cases i with
  | pbr | pbrr | br | brl | loop | loopiImm | loopl | fmtw | fmtwg | waita | susp | done | barr | sync | trap | sigc | tspawn
    | crspawn | glnch | gtok | gstat | teamq | sysrd | syswr | eret | tlbdrn | tlbcnf | leaseg | cinv | prmt | hint =>
    change pk _ _ = w at he
    obtain ⟨hop, hlt⟩ := word_of (lo := 25) (n := 7) he rfl (by simp only [pk, Guard.enc, ← BitVec.toNat_ofBool]; omega) (by decide)
    conv_rhs at hop => simp only [Nat.reducePow, Nat.reduceDiv]
    refine ⟨hlt, ?_⟩
    unfold decodeK
    rw [hop]
    refine branch_eq_some hw ?_ ?_
    · rw [← he]
      simp (disch := first | decide | (simp only [pk, Guard.enc, ← BitVec.toNat_ofBool]; omega)) only
        [fld_skip, fld_base]
      decide
    · rw [← he]
      simp (disch := first | decide | (simp only [pk, Guard.enc, ← BitVec.toNat_ofBool]; omega)) only
        [bv_skip, bo_skip, guardOf_head, bv_head, bo_head]
  | loopiReg =>
    change pk _ _ = w at he
    obtain ⟨hop, hlt⟩ := word_of (lo := 25) (n := 7) he rfl (by simp only [pk, Guard.enc, ← BitVec.toNat_ofBool]; omega) (by decide)
    conv_rhs at hop => simp only [Nat.reducePow, Nat.reduceDiv]
    refine ⟨hlt, ?_⟩
    unfold decodeK
    rw [hop]
    refine arm2_eq_some hw ?_ ?_ ?_
    · rw [← he]
      simp (disch := first | decide | (simp only [pk, Guard.enc, ← BitVec.toNat_ofBool]; omega)) only
        [fld_skip, fld_base]
      decide
    · rw [← he]
      simp (disch := first | decide | (simp only [pk, Guard.enc, ← BitVec.toNat_ofBool]; omega)) only
        [fld_skip, fld_base]
      decide
    · rw [← he]
      simp (disch := first | decide | (simp only [pk, Guard.enc, ← BitVec.toNat_ofBool]; omega)) only
        [guardOf_head, bv_skip, bv_head]
  | _ => cases hc

/-- R267: the micro-operations. -/
theorem decodeSeq_encode {i : Instr} {w : ℕ} (hw : i.wf = true) (hm : isMicro i = true) (he : encode i = w) :
    w < 2 ^ (60 + 4) ∧ decodeSeq w = some i := by
  cases i with
  | mxi =>
    change pk _ _ = w at he
    obtain ⟨hop, hlt⟩ := word_of (lo := 60) (n := 4) he rfl (by simp only [pk]; omega) (by decide)
    conv_rhs at hop => simp only [Nat.reduceMul, Nat.reducePow, Nat.reduceDiv]
    refine ⟨hlt, ?_⟩
    unfold decodeSeq
    rw [hop]
    refine legal_eq_some hw ?_
    rw [← he]
    simp (disch := first | decide | (simp only [pk, Guard.enc, ← BitVec.toNat_ofBool]; omega)) only
      [bv_skip, bv_head]
  | hset | hadd | hjmp | hloop | agld | kvrd | smax | resc | norm | rope | djob | waitw | sigw | mcmb =>
    change pk _ _ = w at he
    obtain ⟨hop, hlt⟩ := word_of (lo := 60) (n := 4) he rfl (by simp only [pk, ← BitVec.toNat_ofBool]; omega) (by decide)
    conv_rhs at hop => simp only [Nat.reduceMul, Nat.reducePow, Nat.reduceDiv]
    refine ⟨hlt, ?_⟩
    unfold decodeSeq
    rw [hop]
    refine branch_eq_some hw ?_ ?_
    · rw [← he]
      simp (disch := first | decide | (simp only [pk, Guard.enc, ← BitVec.toNat_ofBool]; omega)) only
        [fld_skip, fld_base]
      decide
    · rw [← he]
      simp (disch := first | decide | (simp only [pk, Guard.enc, ← BitVec.toNat_ofBool]; omega)) only
        [bv_skip, bo_skip, bv_head, bo_head]
  | halt => subst he; exact ⟨by decide, rfl⟩
  | _ => cases hm

/-- S1 has the map of S0, so no instruction is of class S1 alone (R138). -/
theorem cls_ne_s1 (i : Instr) : i.cls ≠ some .s1 := by
  unfold Instr.cls
  split <;> exact nofun

end Sys2Proof.Machine
end

section
/-! PROOFS. Decoding an encoded instruction gives it back (R131 to R138, R267). -/

namespace Sys2Proof.Machine

/-- Settles O58: each slot's map, and the sequencer's, reads back every word its constructors encode to. -/
theorem encodeThenDecode : Obligations.EncodeThenDecode := by
  intro i hw
  refine ⟨fun x hc => ?_, fun hm => decodeSeq_encode hw hm rfl⟩
  cases x with
  | s0 => have h := decodeS_encode hw hc rfl; exact ⟨h.1, h.2, fun _ => h.2⟩
  | s1 => exact absurd hc (cls_ne_s1 i)
  | a => have h := decodeA_encode hw hc rfl; exact ⟨h.1, h.2, nofun⟩
  | v => have h := decodeV_encode hw hc rfl; exact ⟨h.1, h.2, nofun⟩
  | m => have h := decodeM_encode hw hc rfl; exact ⟨h.1, h.2, nofun⟩
  | d => have h := decodeD_encode hw hc rfl; exact ⟨h.1, h.2, nofun⟩
  | k => have h := decodeK_encode hw hc rfl; exact ⟨h.1, h.2, nofun⟩

end Sys2Proof.Machine
end

section
/-! SUPPORT. Reading and writing one register, one predicate, one stream element (R65, R66, R122, R123). -/

namespace Sys2Proof.Machine

/-! ### Elements of vectors -/

theorem vget_vset {α : Type} {n k j : ℕ} {v : Vector α n} {x d : α} :
    vget (vset v k x) j d = if j = k ∧ k < n then x else vget v j d := by
  simp only [vget, vset, Vector.toList_setIfInBounds, List.getD_eq_getElem?_getD, List.getElem?_set, Vector.length_toList]
  by_cases hkj : k = j
  · subst hkj
    by_cases hk : k < n
    · simp [hk]
    · simp [hk]
  · simp [hkj, Ne.symm hkj]

@[simp] theorem vget_vset_same {α : Type} {n k : ℕ} {v : Vector α n} {x d : α} (hk : k < n) : vget (vset v k x) k d = x := by
  simp [vget_vset, hk]

theorem vget_vset_ne {α : Type} {n k j : ℕ} {v : Vector α n} {x d : α} (h : j ≠ k) : vget (vset v k x) j d = vget v j d := by
  simp [vget_vset, h]

/-! ### General registers (R122) -/

theorem readG_readable {m : Mach} {f : GF} (h : m.cur.readable f) : readG f m = .ok (m.cur.val f, m) := by
  obtain ⟨hf, h0 | ⟨ha, hp⟩⟩ := h
  · rw [readG, if_pos h0, Cont.val, if_pos h0, act_pure]
  · by_cases h0 : f = 0
    · rw [readG, if_pos h0, Cont.val, if_pos h0, act_pure]
    · rw [readG, if_neg h0, if_pos hf]
      simp only [act_bind, act_getC, ha, hp, Cont.val, if_neg h0]
      rfl

theorem writeG_writable {m : Mach} {f : GF} (v : Word) (h : m.cur.writable f) :
    writeG f v m = .ok ((), m.withCur (m.cur.setG f v)) := by
  obtain ⟨hf, hw⟩ := h
  by_cases h0 : f = 0
  · rw [writeG, if_pos h0, Cont.setG, if_pos h0, act_pure]; rfl
  · have ha := hw.resolve_left h0
    rw [writeG, if_neg h0, if_pos hf, Cont.setG, if_neg h0]
    simp only [act_bind, act_getC, ha]
    rfl

theorem Cont.val_of_ne {c : Cont} {f : GF} (h : f ≠ 0) : c.val f = vget c.g f.toNat 0 := if_neg h

theorem Cont.setG_of_ne {c : Cont} {f : GF} (v : Word) (h : f ≠ 0) :
    c.setG f v = { c with g := vset c.g f.toNat v, gPoison := vset c.gPoison f.toNat none } := if_neg h

theorem Cont.val_setG_same (c : Cont) {f : GF} (v : Word) (hf : f.toNat < 24) : (c.setG f v).val f = if f = 0 then 0 else v := by
  by_cases h0 : f = 0
  · rw [Cont.val, if_pos h0, if_pos h0]
  · rw [Cont.val_of_ne h0, Cont.setG_of_ne v h0, if_neg h0, vget_vset_same hf]

theorem Cont.val_setG_ne (c : Cont) {f k : GF} (v : Word) (h : k ≠ f) : (c.setG f v).val k = c.val k := by
  have hn : k.toNat ≠ f.toNat := fun e => h (BitVec.eq_of_toNat_eq e)
  by_cases h0 : f = 0
  · rw [Cont.setG, if_pos h0]
  · rw [Cont.setG_of_ne v h0, Cont.val, Cont.val, vget_vset_ne hn]

theorem Cont.setG_others (c : Cont) (f : GF) (v : Word) : { c.setG f v with g := c.g, gPoison := c.gPoison } = c := by
  unfold Cont.setG; split <;> rfl

/-! ### Predicates (R122) -/

@[simp] theorem Cont.pred_zero (c : Cont) : c.pred 0 = true := by simp [Cont.pred]

@[simp] theorem Cont.setPred_zero (c : Cont) (b : Bool) : c.setPred 0 b = c := if_pos rfl

theorem Cont.setPred_others (c : Cont) (d : ℕ) (b : Bool) : { c.setPred d b with p := c.p } = c := by
  unfold Cont.setPred; split <;> rfl

theorem Cont.pred_setPred (c : Cont) {d k : ℕ} (b : Bool) (hk : k < 8) :
    (c.setPred d b).pred k = if k = d ∧ d ≠ 0 then b else c.pred k := by
  by_cases hd : d = 0
  · simp [Cont.setPred, hd]
  by_cases hkd : k = d
  · subst hkd
    cases b <;> simp [Cont.setPred, Cont.pred, hd, hk]
  · have hbit : ((1 : BitVec 8) <<< d).getLsbD k = false := by
      rw [BitVec.getLsbD_shiftLeft]
      by_cases hlt : k < d
      · simp [hlt]
      · simp [show k - d ≠ 0 by omega]
    rw [if_neg fun h : k = d ∧ d ≠ 0 => hkd h.1, Cont.setPred, if_neg hd, Cont.pred, Cont.pred]
    cases b
    · simp only [Bool.false_eq_true, if_false, BitVec.getLsbD_and, BitVec.getLsbD_not, hbit, hk, decide_true, Bool.not_false,
        Bool.and_true]
    · simp only [if_true, BitVec.getLsbD_or, hbit, Bool.or_false]

/-! ### Stream elements (R65, R66) -/

/-- Landing a continuation's own drains changes memory and its matrix state alone (R86). -/
theorem Mach.landDrains_cur (m : Mach) :
    ∃ x mx, m.landDrains m.cur.id = { m with mem := x, cur := { m.cur with mx := mx } } := by
  simp only [Mach.landDrains, Mach.cont?, Mach.setCont, beq_self_eq_true, if_true]
  exact ⟨_, _, rfl⟩

theorem Mach.landOver_cur (m : Mach) (o n : ℕ) :
    ∃ x mx, m.landOver o n = { m with mem := x, cur := { m.cur with mx := mx } } := by
  unfold Mach.landOver
  split
  · exact m.landDrains_cur
  · exact ⟨m.mem, m.cur.mx, rfl⟩

@[simp] theorem length_leBytes (n v : ℕ) : (leBytes n v).length = n := by
  induction n generalizing v with
  | zero => rfl
  | succ n ih => simp [leBytes, ih]

theorem ne_zero_of_stream {f : GF} {k : ℕ} (h : f.toNat = 24 + k) : f ≠ 0 := by
  rintro rfl
  have h0 : (0 : GF).toNat = 0 := rfl
  omega

theorem readG_stream {f : GF} {k : ℕ} (h : f.toNat = 24 + k) : readG f = popStream k := by
  have h0 := ne_zero_of_stream h
  rw [readG, if_neg h0, if_neg (by omega), h, Nat.add_sub_cancel_left]

theorem writeG_stream {m : Mach} {f : GF} {k : ℕ} {v : Word} (h : f.toNat = 24 + k) :
    writeG f v m = pushStream m.cur.insnNow (m.cur.slotNow .s0) k v m := by
  have h0 := ne_zero_of_stream h
  rw [writeG, if_neg h0, if_neg (by omega), h, Nat.add_sub_cancel_left]
  rfl

/-- R159: a weak read of bytes no live load-block holds. -/
theorem readV_ok {m : Mach} {va : Word} {n : ℕ} {ps : List (ℕ × ℕ)} (hr : m.resolveCont va n .read = .ok ps)
    (hb : m.cur.touchesBlock va.toNat n = false) :
    readV va n m = .ok (((m.mem.observe m.cur.die ps).readParts m.cur.die ps, (m.mem.observe m.cur.die ps).markParts m.cur.die ps),
      m.withMem (m.mem.observe m.cur.die ps)) := by
  simp only [readV, hr, hb]
  rfl

/-- R158: a weak write of bytes no live load-block holds. -/
theorem writeV_ok {m : Mach} {insn : Word} {slot : ℕ} {va : Word} {bytes : List Byte} {ps : List (ℕ × ℕ)}
    (hr : m.resolveCont va bytes.length .write = .ok ps) (hb : m.cur.touchesBlock va.toNat bytes.length = false) :
    writeV insn slot va bytes m = .ok ((), m.withMem (m.mem.writeParts m.cur.die ps bytes false)) := by
  simp only [writeV, hr, hb]
  rfl

theorem Mach.winWrite_resident {m : Mach} {c : Cont} {o : ℕ} {l : List Byte} {p : Bool} (h : c.resident = true) :
    m.winWrite c o l p = m.withMem (m.mem.spadStore c.die (skey c.gcore (c.winBase + o)) l p) := by
  simp only [Mach.winWrite, Mach.winWriteBy, h, if_true]
  rfl

section
variable {m : Mach} {k : ℕ} {v i : Word} {n : ℕ} {r : StreamRec}

theorem popStream_unbound (h : vget m.cur.streams k none = none) : popStream k m = .error (.trap { cause := 0x200B }) := by
  simp [popStream, h]

theorem popStream_wrongWay (h : vget m.cur.streams k none = some r) (ho : r.out = true) :
    popStream k m = .error (.trap { cause := 0x200A }) := by
  simp [popStream, h, ho]

theorem popStream_exhausted (h : vget m.cur.streams k none = some r) (ho : r.out = false) (hz : r.remaining = 0) :
    popStream k m = .error (.trap { cause := 0x2009 }) := by
  simp only [popStream, act_bind, act_getC, h, ho, hz]
  rfl

theorem popStream_window (h : vget m.cur.streams k none = some r) (ho : r.out = false) (hz : r.remaining ≠ 0)
    (hv : r.virt = false) (hw : m.cur.inWindow r.addr (2 ^ r.lg.toNat) = true)
    {m0 : Mach} (hm : m0 = m.landOver r.addr.toNat (2 ^ r.lg.toNat))
    (hp : m0.winMark m0.cur r.addr.toNat (2 ^ r.lg.toNat) = none) :
    popStream k m = .ok (toW (leNat (m0.winRead m0.cur r.addr.toNat (2 ^ r.lg.toNat))),
      m0.withCur { m0.cur.setStream k (some r.stepIdx) with past := m0.mem.stampOf m0.cur.die }) := by
  simp only [popStream, act_bind, act_getC, h, ho, Bool.false_eq_true, if_false, act_ite, if_neg hz, hv, checkWin_eq, hw, if_true,
    act_modM, act_getM, ← hm, hp, act_pure]
  rfl

theorem popStream_virtual (h : vget m.cur.streams k none = some r) (ho : r.out = false) (hz : r.remaining ≠ 0)
    (hv : r.virt = true) {ps : List (ℕ × ℕ)} (hr : m.resolveCont (ofI r.addr) (2 ^ r.lg.toNat) .read = .ok ps)
    {m0 : Mach} (hm : m0 = m.withMem (m.mem.observe m.cur.die ps))
    (hb : m.cur.touchesBlock (ofI r.addr).toNat (2 ^ r.lg.toNat) = false) (hp : m0.mem.markParts m.cur.die ps = none) :
    popStream k m = .ok (toW (leNat (m0.mem.readParts m.cur.die ps)),
      m0.withCur { m0.cur.setStream k (some r.stepIdx) with past := m0.mem.stampOf m0.cur.die }) := by
  subst hm
  have hp' : (m.mem.observe m.cur.die ps).markParts m.cur.die ps = none := hp
  simp only [popStream, act_bind, act_getC, h, ho, Bool.false_eq_true, if_false, act_ite, if_neg hz, hv, if_true,
    readV_ok hr hb, hp', act_modM, act_pure]
  rfl

theorem pushStream_unbound (h : vget m.cur.streams k none = none) :
    pushStream i n k v m = .error (.trap { cause := 0x200B }) := by
  simp [pushStream, h]

theorem pushStream_wrongWay (h : vget m.cur.streams k none = some r) (ho : r.out = false) :
    pushStream i n k v m = .error (.trap { cause := 0x200A }) := by
  simp [pushStream, h, ho]

theorem pushStream_exhausted (h : vget m.cur.streams k none = some r) (ho : r.out = true) (hz : r.remaining = 0) :
    pushStream i n k v m = .error (.trap { cause := 0x2009 }) := by
  simp only [pushStream, act_bind, act_getC, h, ho, hz]
  rfl

theorem pushStream_window (h : vget m.cur.streams k none = some r) (ho : r.out = true) (hz : r.remaining ≠ 0)
    (hv : r.virt = false) (hw : m.cur.inWindow r.addr (2 ^ r.lg.toNat) = true) (hres : m.cur.resident = true)
    {m0 : Mach} (hm : m0 = m.landOver r.addr.toNat (2 ^ r.lg.toNat)) :
    pushStream i n k v m = .ok ((), { m0 with
      mem := m0.mem.spadStore m0.cur.die (skey m0.cur.gcore (m0.cur.winBase + r.addr.toNat)) (leBytes (2 ^ r.lg.toNat) v.toNat) false
      cur := m0.cur.setStream k (some r.stepIdx) }) := by
  have hres0 : m0.cur.resident = true := by
    obtain ⟨x, mx, hx⟩ := m.landOver_cur r.addr.toNat (2 ^ r.lg.toNat)
    rw [hm, hx]; exact hres
  have hl : m.cur.inWindow r.addr (leBytes (2 ^ r.lg.toNat) v.toNat).length = true := by rw [length_leBytes]; exact hw
  simp only [pushStream, act_bind, act_getC, h, ho, Bool.not_true, Bool.false_eq_true, if_false, act_ite, if_neg hz, hv,
    writeS_ok hl, length_leBytes, ← hm, act_modC, Mach.winWrite_resident hres0]
  rfl

theorem pushStream_virtual (h : vget m.cur.streams k none = some r) (ho : r.out = true) (hz : r.remaining ≠ 0)
    (hv : r.virt = true) {ps : List (ℕ × ℕ)} (hr : m.resolveCont (ofI r.addr) (2 ^ r.lg.toNat) .write = .ok ps)
    (hb : m.cur.touchesBlock (ofI r.addr).toNat (2 ^ r.lg.toNat) = false) :
    pushStream i n k v m = .ok ((), { m with
      mem := m.mem.writeParts m.cur.die ps (leBytes (2 ^ r.lg.toNat) v.toNat) false
      cur := m.cur.setStream k (some r.stepIdx) }) := by
  have hw := writeV_ok (insn := i) (slot := n) (bytes := leBytes (2 ^ r.lg.toNat) v.toNat) (by rwa [length_leBytes])
    (by rwa [length_leBytes])
  simp only [pushStream, act_bind, act_getC, h, ho, Bool.not_true, Bool.false_eq_true, if_false, act_ite, if_neg hz, hv, if_true,
    hw, act_modC]
  rfl
end

end Sys2Proof.Machine
end

section
/-! PROOFS. Register and stream operands (R65, R66, R122, R123). -/

namespace Sys2Proof.Machine

/-- Settles O1: a register or predicate is one place of its continuation, read and written alone. -/
theorem registerOperands : Obligations.RegisterOperands := by
  refine ⟨fun m f h => readG_readable h, fun m f v h => ?_, fun c d k b hd hk => ?_⟩
  · exact ⟨writeG_writable v h, Cont.val_setG_same _ v h.1, fun k hk => Cont.val_setG_ne _ v hk, Cont.setG_others _ f v⟩
  · exact ⟨Cont.pred_zero c, Cont.pred_setPred c b hk, Cont.setPred_zero c b, Cont.setPred_others c d b⟩

/-- Settles O2: a stream field pops or pushes the element at its stream's next address, or reports what is wrong with it. -/
theorem streamOperands : Obligations.StreamOperands := by
  refine ⟨fun m k f _ hf => ?_, fun m k f v _ hf => ?_⟩
  · rw [readG_stream hf]
    exact ⟨popStream_unbound, fun r h => ⟨popStream_wrongWay h, popStream_exhausted h,
      fun ho hz hv hw m0 hm hp => popStream_window h ho hz hv hw hm hp,
      fun ho hz hv ps hr m0 hm hb hp => popStream_virtual h ho hz hv hr hm hb hp⟩⟩
  · rw [writeG_stream hf]
    exact ⟨pushStream_unbound, fun r h => ⟨pushStream_wrongWay h, pushStream_exhausted h,
      fun ho hz hv hw hres m0 hm => pushStream_window h ho hz hv hw hres hm,
      fun ho hz hv ps hr hb => pushStream_virtual h ho hz hv hr hb⟩⟩

end Sys2Proof.Machine
end

section
/-! SUPPORT. Scalar floating point: one rule for each operand form, and the events and classes of a pattern (R107, R145, R146). -/

namespace Sys2Proof.Machine

section
variable {s : State} {gu : Guard} {d a b : GF} {z : Bool} {w x y : Word} {m1 m2 m3 m4 : Mach}

/-- R145: a two-operand operation rounds its exact result once, writes it, and notes its events. -/
theorem runSlot_opFp {i : Instr} {f : Num → Num → Num × Bool × ℕ} {v : Num} {st : Bool} {ev : ℕ} (hr : s.Ready gu .s0)
    (ha : readG a s.m = .ok (x, m1)) (hb : readG b m1 = .ok (y, m2)) (hf : f (fpNum z x) (fpNum z y) = (v, st, ev)) (p : Rounded)
    (m3 : Mach) (hp : p = roundTo (fpCode z) false v st) (hd : writeG d (toW p.pat) m2 = .ok ((), m3)) :
    runSlot i .s0 (some gu) (opFp f z d a b) s = .next (s.complete (m3.noteEvents (p.ev ||| (ev ||| fpSig z [x, y])))) := by
  subst hp
  exact runSlot_ok (u := ()) hr (by simp only [opFp, act_bind, ha, hb, hf, writeFp_ok hd])

/-- R107, R145: a comparison writes its predicate and notes the invalid event of a signalling operand. -/
theorem runSlot_opFpCmp {i : Instr} {f : Num → Num → Bool} {p : BitVec 3} {v : Bool} (hr : s.Ready gu .s0)
    (ha : readG a s.m = .ok (x, m1)) (hb : readG b m1 = .ok (y, m2)) (hf : f (fpNum z x) (fpNum z y) = v) (c : Cont)
    (hc : c = m2.cur.setPred p.toNat v) :
    runSlot i .s0 (some gu) (opFpCmp f z p a b) s = .next (s.complete ((m2.withCur c).noteEvents (fpSig z [x, y]))) := by
  subst hc hf
  exact runSlot_ok hr (opFpCmp_ok ha hb)

theorem exec_ffma (hr : s.Ready gu .s0) (hw : readG d s.m = .ok (w, m1)) (ha : readG a m1 = .ok (x, m2))
    (hb : readG b m2 = .ok (y, m3)) {p : Rounded}
    (hp : p = roundTo (fpCode z) false (Num.fma (fpNum z x) (fpNum z y) (fpNum z w)).1)
    (hd : writeG d (toW p.pat) m3 = .ok ((), m4)) :
    exec (.ffma gu d a b z) s = .next (s.complete
      (m4.noteEvents (p.ev ||| ((Num.fma (fpNum z x) (fpNum z y) (fpNum z w)).2 ||| fpSig z [w, x, y])))) := by
  subst hp
  exact runSlot_ok (u := ()) hr (by simp only [act_bind, hw, ha, hb, writeFp_ok hd])

theorem exec_fsqrt (hr : s.Ready gu .s0) (ha : readG a s.m = .ok (x, m1)) {p : Rounded}
    (hp : p = roundTo (fpCode z) false (fpNum z x).sqrt.1 (fpNum z x).sqrt.2.1) (hd : writeG d (toW p.pat) m1 = .ok ((), m2)) :
    exec (.fsqrt gu d a z) s = .next (s.complete (m2.noteEvents (p.ev ||| ((fpNum z x).sqrt.2.2 ||| fpSig z [x])))) := by
  subst hp
  exact runSlot_ok (u := ()) hr (by simp only [act_bind, ha, writeFp_ok hd])

theorem exec_fcvt (hr : s.Ready gu .s0) (ha : readG a s.m = .ok (x, m1)) {p : Rounded}
    (hp : p = roundTo (fpCode z) false (fpNum (!z) x)) (hd : writeG d (toW p.pat) m1 = .ok ((), m2)) :
    exec (.fcvt gu d a z) s = .next (s.complete (m2.noteEvents (p.ev ||| fpSig (!z) [x]))) := by
  subst hp
  exact runSlot_ok (u := ()) hr (by simp only [act_bind, ha, writeFp_ok hd])

theorem exec_ftoi {rz u : Bool} (hr : s.Ready gu .s0) (ha : readG a s.m = .ok (x, m1))
    (hd : writeG d (ofI (toIntFmt 64 (!u) rz (fpNum z x)).1) m1 = .ok ((), m2)) :
    exec (.ftoi gu d a rz u z) s =
      .next (s.complete (m2.noteEvents ((toIntFmt 64 (!u) rz (fpNum z x)).2 ||| fpSig z [x]))) :=
  runSlot_ok (u := ()) hr (by simp only [act_bind, ha, hd, flagEvents_eq])

/-- R146: an integer operand as an exact value. -/
theorem intOperand_eq (u : Bool) (x : Word) (i : ℤ) (hi : i = if u then (x.toNat : ℤ) else x.toInt) :
    Num.fin (decide (i < 0)) i.natAbs 0 = if u = true then .fin false x.toNat 0 else .fin (decide (x.toInt < 0)) x.toInt.natAbs 0 := by
  subst hi
  cases u
  · rfl
  · simp

theorem exec_itof {u : Bool} (hr : s.Ready gu .s0) (ha : readG a s.m = .ok (x, m1)) {p : Rounded}
    (hp : p = roundTo (fpCode z) false
      (if u = true then .fin false x.toNat 0 else .fin (decide (x.toInt < 0)) x.toInt.natAbs 0))
    (hd : writeG d (toW p.pat) m1 = .ok ((), m2)) :
    exec (.itof gu d a u z) s = .next (s.complete (m2.noteEvents p.ev)) := by
  rw [← intOperand_eq u x _ rfl] at hp
  subst hp
  refine runSlot_ok (u := ()) hr ?_
  simp only [act_bind, ha, writeFp_ok hd, Nat.or_zero]
end

/-! ### Signalling operands and saturation (R107, R146) -/

theorem fpNum_eq_read (z : Bool) (x : Word) : ∃ f, floatFmt (fpCode z) = some f ∧ fpNum z x = f.read (fpPat z x) ∧
    sigNan (fpCode z) (fpPat z x) = f.isSig (fpPat z x) := by
  cases z <;> exact ⟨_, rfl, rfl, rfl⟩

/-- A pattern that reads as a number is no signalling NaN. -/
theorem FloatFmt.isSig_of_read_ne_nan {f : FloatFmt} {p : ℕ} (h : f.read p ≠ .nan) : f.isSig p = false := by
  cases hn : f.isNan p
  · simp [FloatFmt.isSig, hn]
  · exact absurd (by simp [FloatFmt.read, hn]) h

theorem fpSig_of_ne_nan {z : Bool} {x : Word} (h : fpNum z x ≠ .nan) : fpSig z [x] = 0 := by
  obtain ⟨f, -, hx, hs⟩ := fpNum_eq_read z x
  simp only [fpSig, sigEv, List.map_cons, List.map_nil, List.any_cons, List.any_nil, Bool.or_false, hs,
    f.isSig_of_read_ne_nan (hx ▸ h)]
  rfl

theorem invalid_or_fpSig (z : Bool) (l : List Word) : evInvalid ||| fpSig z l = evInvalid := by
  unfold fpSig sigEv; split <;> rfl

theorem clamp_ne_self {lo hi i : ℤ} : clamp lo hi i ≠ i ↔ i < lo ∨ hi < i := by
  unfold clamp; split
  · omega
  · split <;> omega

theorem intRange_word (u : Bool) {lo hi : ℤ} (hlo : lo = (if u then 0 else -2 ^ 63 : ℤ))
    (hhi : hi = (if u then 2 ^ 64 - 1 else 2 ^ 63 - 1 : ℤ)) : intRange 64 (!u) = (lo, hi) := by
  subst hlo hhi; cases u <;> rfl

/-- R146: a finite value is rounded to an integer, then clamped; inexact where either changed it, saturation where the clamp did. -/
theorem toIntFmt_fin {k : ℕ} {sg rz s lost : Bool} {m n : ℕ} {e lo hi i : ℤ} (hr : intRange k sg = (lo, hi))
    (hu : (n, lost) = toUnit rz m e 0 false) (hi' : i = if s then -(n : ℤ) else n) :
    toIntFmt k sg rz (.fin s m e) = (if i < lo then lo else if hi < i then hi else i,
      (if lost = true ∨ i < lo ∨ hi < i then evInexact else 0) + if i < lo ∨ hi < i then evSaturation else 0) := by
  simp only [toIntFmt, hr, ← hu, ← hi', Bool.or_eq_true, decide_eq_true_eq, clamp_ne_self]
  rfl

/-! ### The class of a pattern (R145) -/

theorem decide_eq_one {p : ℕ} (n : ℕ) : p.testBit n = decide (p / 2 ^ n % 2 = 1) := by
  simp [Nat.testBit_eq_decide_div_mod_eq]

/-- R145: the class bit of a pattern of a format with infinities, from its sign, exponent and fraction. -/
theorem classOf_eq {f : FloatFmt} {x sg e m k : ℕ} (h4 : f.e4m3 = false) (hn : f.narrow = false) (ht : f.t ≠ 0)
    (hsg : sg = x / 2 ^ (f.w + f.t) % 2) (he : e = x / 2 ^ f.t % 2 ^ f.w) (hm : m = x % 2 ^ f.t)
    (hk : k = (if e = 2 ^ f.w - 1 ∧ m ≠ 0 then (if m < 2 ^ (f.t - 1) then 8 else 9)
      else if e = 2 ^ f.w - 1 then (if sg = 1 then 0 else 7)
      else if e = 0 ∧ m = 0 then (if sg = 1 then 3 else 4)
      else if e = 0 then (if sg = 1 then 2 else 5) else if sg = 1 then 1 else 6)) : classOf f x = 2 ^ k := by
  have hquiet : x.testBit (f.t - 1) = decide (2 ^ (f.t - 1) ≤ m) := by
    obtain ⟨t, ht'⟩ : ∃ t, f.t = t + 1 := ⟨f.t - 1, by omega⟩
    rw [hm, ht', Nat.add_sub_cancel, Nat.testBit_eq_decide_div_mod_eq, decide_eq_decide, pow_succ, Nat.mod_mul]
    have := Nat.mod_lt x (Nat.two_pow_pos t)
    rcases Nat.mod_two_eq_zero_or_one (x / 2 ^ t) with h | h <;> rw [h] <;> omega
  have hnan : f.isNan x = decide (e = 2 ^ f.w - 1 ∧ m ≠ 0) := by
    simp [FloatFmt.isNan, FloatFmt.fields, h4, Nat.shiftRight_eq_div_pow, he, hm]
  have hsig : f.isSig x = (decide (e = 2 ^ f.w - 1 ∧ m ≠ 0) && decide (m < 2 ^ (f.t - 1))) := by
    simp only [FloatFmt.isSig, hn, hnan, hquiet, ← Nat.not_le, decide_not, Bool.not_false, Bool.true_and]
  subst hk
  simp only [classOf, FloatFmt.fields, Nat.testBit_eq_decide_div_mod_eq, Nat.shiftRight_eq_div_pow, ← hsg, ← he, ← hm, hnan, hsig]
  by_cases h1 : e = 2 ^ f.w - 1
  · by_cases h2 : m = 0 <;> by_cases h3 : sg = 1 <;> by_cases h4 : m < 2 ^ (f.t - 1) <;> simp [h1, h2, h3, h4]
  by_cases h2 : e = 0
  · have h1' : (0 : ℕ) ≠ 2 ^ f.w - 1 := h2 ▸ h1
    by_cases h3 : m = 0 <;> by_cases h4 : sg = 1 <;> simp [h1', h2, h3, h4]
  · by_cases h3 : sg = 1 <;> simp [h1, h2, h3]

/-- R145: FCLASS's result, from the fields of the operand's pattern. -/
theorem fclass_eq (z : Bool) (x : Word) {sg e m top k : ℕ}
    (hf : (sg, e, m, top) = (if z then (x.toNat / 2 ^ 63 % 2, x.toNat / 2 ^ 52 % 2 ^ 11, x.toNat % 2 ^ 52, 2047)
      else (x.toNat / 2 ^ 31 % 2, x.toNat / 2 ^ 23 % 2 ^ 8, x.toNat % 2 ^ 23, 255)))
    (hk : k = (if e = top ∧ m ≠ 0 then (if m < (if z then 2 ^ 51 else 2 ^ 22) then 8 else 9)
      else if e = top then (if sg = 1 then 0 else 7)
      else if e = 0 ∧ m = 0 then (if sg = 1 then 3 else 4)
      else if e = 0 then (if sg = 1 then 2 else 5) else if sg = 1 then 1 else 6)) :
    ((floatFmt (fpCode z)).map fun f => classOf f (fpPat z x)).getD 0 = 2 ^ k := by
  cases z
  · simp only [Bool.false_eq_true, if_false, Prod.mk.injEq] at hf hk
    obtain ⟨rfl, rfl, rfl, rfl⟩ := hf
    refine classOf_eq (f := { w := 8, t := 23, bias := 127 }) rfl rfl (by decide) ?_ ?_ ?_ hk
    · simp only [fpPat, Bool.false_eq_true, if_false]; omega
    · simp only [fpPat, Bool.false_eq_true, if_false]; omega
    · simp only [fpPat, Bool.false_eq_true, if_false]; omega
  · simp only [if_true, Prod.mk.injEq] at hf hk
    obtain ⟨rfl, rfl, rfl, rfl⟩ := hf
    exact classOf_eq (f := { w := 11, t := 52, bias := 1023 }) rfl rfl (by decide) rfl rfl rfl hk

end Sys2Proof.Machine
end

section
/-! PROOFS. Scalar floating point and conversions (R111, R145, R146). -/

namespace Sys2Proof.Machine

/-- Settles O6: each row of R145 is one operand form with its exact operation; the conversions round, or clamp, one value. -/
theorem scalarFloatAndConversion : Obligations.ScalarFloatAndConversion := by
  refine ⟨fun s gu d a b pd z hr => ⟨?_, ?_, ?_, ?_, ?_⟩, fun s gu d a x m1 hr ha => ⟨?_, ?_, ?_⟩⟩
  · intro x y m1 m2 ha hb
    simp only [forall_row_cons, forall_row_nil, and_true]
    exact ⟨runSlot_opFp hr ha hb rfl, runSlot_opFp hr ha hb rfl, runSlot_opFp hr ha hb rfl, runSlot_opFp hr ha hb rfl,
      runSlot_opFp hr ha hb rfl, runSlot_opFp hr ha hb rfl⟩
  · exact fun w x y m1 m2 m3 p m4 hw ha hb hp hd => exec_ffma hr hw ha hb hp hd
  · exact fun x m1 p m2 ha hp hd => exec_fsqrt hr ha hp hd
  · intro x y m1 m2 ha hb
    simp only [forall_row_cons, forall_row_nil, and_true]
    exact ⟨runSlot_opFpCmp hr ha hb rfl, runSlot_opFpCmp hr ha hb rfl, runSlot_opFpCmp hr ha hb rfl⟩
  · exact fun x m1 m2 sg e m top k ha hf hk hd => runSlot_opR hr ha (congrArg toW (fclass_eq z x hf hk)) m2 hd
  · exact fun z p m2 hp hd => exec_fcvt hr ha hp hd
  · intro z u rz lo hi hlo hhi
    have hrange := intRange_word u hlo hhi
    refine ⟨fun hn m2 hd => ?_, fun sg hx m2 hd => ?_, fun sg m e n lost i hx hu hi m2 hd => ?_⟩
    · have ht : toIntFmt 64 (!u) rz (fpNum z x) = (0, evInvalid) := by rw [hn]; rfl
      rw [exec_ftoi hr ha (by rw [ht]; exact hd), ht, invalid_or_fpSig]
    · have ht : toIntFmt 64 (!u) rz (fpNum z x) = (if sg then lo else hi, evSaturation + evInexact) := by
        rw [hx]; simp only [toIntFmt, hrange]
      rw [exec_ftoi hr ha (by rw [ht]; exact hd), ht, fpSig_of_ne_nan (by simp [hx]), Nat.or_zero]
    · have ht := toIntFmt_fin hrange hu hi
      rw [← hx] at ht
      rw [exec_ftoi hr ha (by rw [ht]; exact hd), ht, fpSig_of_ne_nan (by simp [hx]), Nat.or_zero]
  · exact fun z u p m2 hp hd => exec_itof hr ha hp hd

end Sys2Proof.Machine
end

section
/-! SUPPORT. Exact values as rationals, patterns as sign, exponent and fraction, and the nearest multiple of a unit (R106, R107,
R111). -/

namespace Sys2Proof.Machine

/-! ### Exact arithmetic (R107) -/

theorem signed_cast (s : Bool) (m : ℕ) : ((signed s m : ℤ) : ℚ) = (if s then -1 else 1) * (m : ℚ) := by
  cases s <;> simp [signed]

theorem rat_fin_eq_signed (s : Bool) (m : ℕ) (e : ℤ) : Num.rat (.fin s m e) = (signed s m : ℤ) * (2 : ℚ) ^ e := by
  rw [signed_cast]; rfl

/-- A magnitude in a smaller unit is the same value. -/
theorem signed_shift (s : Bool) (m : ℕ) {e q : ℤ} (h : q ≤ e) :
    ((signed s (m <<< (e - q).toNat) : ℤ) : ℚ) * 2 ^ q = Num.rat (.fin s m e) := by
  rw [rat_fin_eq_signed, signed_cast, signed_cast, Nat.shiftLeft_eq, Nat.cast_mul, Nat.cast_pow, Nat.cast_ofNat,
    ← zpow_natCast (2 : ℚ), Int.toNat_of_nonneg (by omega), mul_assoc, mul_assoc, mul_assoc, ← zpow_add₀ (by norm_num),
    sub_add_cancel]

theorem rat_of_int (v : ℤ) (e : ℤ) : Num.rat (.fin (decide (v < 0)) v.natAbs e) = v * (2 : ℚ) ^ e := by
  have hv : signed (decide (v < 0)) v.natAbs = v := by
    rw [signed]; split
    next h => have := of_decide_eq_true h; omega
    next h => have := of_decide_eq_false (Bool.eq_false_iff.mpr h); omega
  rw [rat_fin_eq_signed, hv]

theorem add_fin_rat (s t : Bool) (m n : ℕ) (e f : ℤ) :
    (Num.add (.fin s m e) (.fin t n f)).1.rat = Num.rat (.fin s m e) + Num.rat (.fin t n f) ∧
      (Num.add (.fin s m e) (.fin t n f)).2 = 0 := by
  rw [← signed_shift s m (min_le_left e f), ← signed_shift t n (min_le_right e f), ← add_mul, ← Int.cast_add]
  simp only [Num.add]
  split
  next h => exact ⟨by rw [h]; simp [Num.rat], rfl⟩
  next h => exact ⟨rat_of_int _ _, rfl⟩

theorem mul_fin_rat (s t : Bool) (m n : ℕ) (e f : ℤ) :
    (Num.mul (.fin s m e) (.fin t n f)).1.rat = Num.rat (.fin s m e) * Num.rat (.fin t n f) ∧
      (Num.mul (.fin s m e) (.fin t n f)).2 = 0 := by
  refine ⟨?_, rfl⟩
  have hs : (if (s != t) = true then -1 else 1 : ℚ) = (if s = true then -1 else 1) * (if t = true then -1 else 1) := by
    cases s <;> cases t <;> norm_num
  by_cases h : m * n = 0
  · have h' : (m : ℚ) = 0 ∨ (n : ℚ) = 0 := by simpa using h
    rcases h' with h' | h' <;> simp [Num.mul, Num.rat, h']
  · simp only [Num.mul, Num.rat, if_neg h, hs, Nat.cast_mul, zpow_add₀ (two_ne_zero : (2 : ℚ) ≠ 0)]
    ring

theorem mul_fin_eq_fin (s t : Bool) (m n : ℕ) (e f : ℤ) : ∃ g, (Num.mul (.fin s m e) (.fin t n f)).1 = .fin (s != t) (m * n) g :=
  ⟨_, rfl⟩

theorem fma_fin_rat (s t u : Bool) (m n k : ℕ) (e f g : ℤ) :
    (Num.fma (.fin s m e) (.fin t n f) (.fin u k g)).1.rat =
        Num.rat (.fin s m e) * Num.rat (.fin t n f) + Num.rat (.fin u k g) ∧
      (Num.fma (.fin s m e) (.fin t n f) (.fin u k g)).2 = 0 := by
  obtain ⟨hp, hz⟩ := mul_fin_rat s t m n e f
  obtain ⟨x, hx⟩ := mul_fin_eq_fin s t m n e f
  obtain ⟨hs, hz'⟩ := add_fin_rat (s != t) u (m * n) k x g
  simp only [Num.fma, hz]
  rw [hx] at hp ⊢
  exact ⟨by rw [hs, hp], by rw [hz']; rfl⟩

theorem lt_fin_rat (s t : Bool) (m n : ℕ) (e f : ℤ) :
    Num.lt (.fin s m e) (.fin t n f) = true ↔ Num.rat (.fin s m e) < Num.rat (.fin t n f) := by
  rw [← signed_shift s m (min_le_left e f), ← signed_shift t n (min_le_right e f), mul_lt_mul_iff_left₀ (by positivity),
    Int.cast_lt]
  exact decide_eq_true_iff

theorem eq_fin_rat (s t : Bool) (m n : ℕ) (e f : ℤ) :
    Num.eq (.fin s m e) (.fin t n f) = true ↔ Num.rat (.fin s m e) = Num.rat (.fin t n f) := by
  rw [← signed_shift s m (min_le_left e f), ← signed_shift t n (min_le_right e f), mul_left_inj' (by positivity), Int.cast_inj]
  exact beq_iff_eq

/-! ### Patterns (R106) -/

theorem oneBit_eq (b : Bool) (k : ℕ) : oneBit b k = b.toNat * 2 ^ k := by cases b <;> simp [oneBit]

/-- A sign, an exponent and a fraction in their widths are the fields of the pattern they make. -/
theorem FloatFmt.fields_pack (f : FloatFmt) (s : Bool) {e m : ℕ} (he : e < 2 ^ f.w) (hm : m < 2 ^ f.t) :
    f.fields (oneBit s (f.w + f.t) + (e * 2 ^ f.t + m)) = (s, e, m) ∧ oneBit s (f.w + f.t) + (e * 2 ^ f.t + m) < 2 ^ (1 + f.w + f.t) := by
  have ht := Nat.two_pow_pos f.t
  have hlow : e * 2 ^ f.t + m < 2 ^ (f.w + f.t) := by
    rw [pow_add]; nlinarith
  have hdiv : (e * 2 ^ f.t + m) / 2 ^ f.t = e := by
    rw [Nat.mul_comm, Nat.mul_add_div ht, Nat.div_eq_of_lt hm, Nat.add_zero]
  have hmod : (e * 2 ^ f.t + m) % 2 ^ f.t = m := by
    rw [Nat.mul_comm, Nat.mul_add_mod, Nat.mod_eq_of_lt hm]
  rw [oneBit_eq]
  refine ⟨?_, ?_⟩
  · simp only [FloatFmt.fields, Prod.mk.injEq, Nat.shiftRight_eq_div_pow]
    refine ⟨?_, ?_, ?_⟩
    · rw [Nat.testBit_eq_decide_div_mod_eq, Nat.mul_comm, Nat.mul_add_div (Nat.two_pow_pos _), Nat.div_eq_of_lt hlow]
      cases s <;> rfl
    · rw [pow_add, ← Nat.mul_assoc, Nat.mul_comm _ (2 ^ f.t), Nat.mul_add_div ht, hdiv, Nat.mul_comm, Nat.mul_add_mod,
        Nat.mod_eq_of_lt he]
    · rw [pow_add, ← Nat.mul_assoc, Nat.mul_comm _ (2 ^ f.t), Nat.mul_add_mod, hmod]
  · rw [show 1 + f.w + f.t = f.w + f.t + 1 by omega, pow_succ]
    have := Nat.mul_le_mul_right (2 ^ (f.w + f.t)) (Bool.toNat_le s)
    omega

/-- A pattern is what its fields make. -/
theorem FloatFmt.pack_fields (f : FloatFmt) {p : ℕ} (hp : p < 2 ^ (1 + f.w + f.t)) :
    oneBit (f.fields p).1 (f.w + f.t) + ((f.fields p).2.1 * 2 ^ f.t + (f.fields p).2.2) = p := by
  have hs : (f.fields p).1.toNat = p / 2 ^ (f.w + f.t) := by
    have hlt : p / 2 ^ (f.w + f.t) < 2 := by
      rw [Nat.div_lt_iff_lt_mul (Nat.two_pow_pos _), ← pow_succ']; rwa [show f.w + f.t + 1 = 1 + f.w + f.t by omega]
    simp only [FloatFmt.fields, Nat.testBit_eq_decide_div_mod_eq, Nat.mod_eq_of_lt hlt]
    generalize p / 2 ^ (f.w + f.t) = q at hlt
    obtain rfl | rfl : q = 0 ∨ q = 1 := by omega
    · rfl
    · rfl
  have hlow : (p >>> f.t % 2 ^ f.w) * 2 ^ f.t + p % 2 ^ f.t = p % 2 ^ (f.w + f.t) := by
    rw [Nat.add_comm f.w, pow_add, Nat.mod_mul, Nat.shiftRight_eq_div_pow, Nat.mul_comm (2 ^ f.t)]; omega
  rw [oneBit_eq, hs]
  simp only [FloatFmt.fields, hlow]
  rw [Nat.mul_comm]
  exact Nat.div_add_mod p _

/-! ### Rounding to a unit (R111) -/

/-- Rounding to nearest is within half a unit. -/
theorem toUnit_half (m : ℕ) (e q : ℤ) :
    |((toUnit false m e q false).1 : ℚ) - (m : ℚ) * 2 ^ (e - q)| ≤ 1 / 2 := by
  unfold toUnit
  split
  next h =>
    rw [Nat.shiftLeft_eq, Nat.cast_mul, Nat.cast_pow, Nat.cast_ofNat, ← zpow_natCast (2 : ℚ), Int.toNat_of_nonneg (by omega),
      sub_self, abs_zero]
    norm_num
  next h =>
    obtain ⟨k, hk⟩ : ∃ k : ℕ, (q - e).toNat = k + 1 := ⟨(q - e).toNat - 1, by omega⟩
    have he : e - q = -((k + 1 : ℕ) : ℤ) := by omega
    have hdm := Nat.div_add_mod m (2 ^ (k + 1))
    have hlt := Nat.mod_lt m (Nat.two_pow_pos (k + 1))
    rw [he, zpow_neg, zpow_natCast]
    simp only [hk, Nat.shiftRight_eq_div_pow, Nat.add_sub_cancel, Bool.not_false, Bool.true_and, Bool.false_or]
    generalize m / 2 ^ (k + 1) = n at *
    generalize m % 2 ^ (k + 1) = r at *
    have hm : (m : ℚ) = 2 ^ (k + 1) * n + r := by rw [← hdm]; push_cast; ring
    have hr : (r : ℚ) < 2 ^ (k + 1) := by exact_mod_cast hlt
    have hpos : (0 : ℚ) < 2 ^ k := by positivity
    have hx : (m : ℚ) * (2 ^ (k + 1))⁻¹ = n + r / (2 * 2 ^ k) := by rw [hm, pow_succ]; field_simp
    have hr0 : (0 : ℚ) ≤ r := Nat.cast_nonneg r
    rw [hx, abs_le]
    by_cases hup : (decide (2 ^ k < r) || decide (r = 2 ^ k) && n % 2 == 1) = true
    · have hge : (2 : ℚ) ^ k ≤ r := by
        have : 2 ^ k ≤ r := by simp at hup; omega
        exact_mod_cast this
      rw [hup]
      push_cast [Bool.toNat_true]
      have h1 : 1 / 2 ≤ (r : ℚ) / (2 * 2 ^ k) := by rw [div_le_div_iff₀ (by norm_num) (by positivity)]; linarith
      have h2 : (r : ℚ) / (2 * 2 ^ k) < 1 := by rw [div_lt_one (by positivity)]; rw [pow_succ] at hr; linarith
      constructor <;> linarith
    · have hle : (r : ℚ) ≤ 2 ^ k := by
        have : r ≤ 2 ^ k := by simp at hup; omega
        exact_mod_cast this
      rw [Bool.eq_false_iff.mpr hup]
      push_cast [Bool.toNat_false]
      have h1 : (r : ℚ) / (2 * 2 ^ k) ≤ 1 / 2 := by rw [div_le_div_iff₀ (by positivity) (by norm_num)]; linarith
      have h2 : (0 : ℚ) ≤ (r : ℚ) / (2 * 2 ^ k) := by positivity
      constructor <;> linarith

/-- An integer within half a unit is no further than any other. -/
theorem nearest_int {n k : ℤ} {x : ℚ} (h : |(n : ℚ) - x| ≤ 1 / 2) : |(n : ℚ) - x| ≤ |(k : ℚ) - x| := by
  by_cases hk : k = n
  · rw [hk]
  have h1 : (1 : ℚ) ≤ |(k : ℚ) - n| := by exact_mod_cast Int.one_le_abs (sub_ne_zero.mpr hk)
  have h2 : |(k : ℚ) - n| ≤ |(k : ℚ) - x| + |(n : ℚ) - x| := by
    rw [abs_sub_comm (n : ℚ) x]; exact abs_sub_le _ _ _
  linarith

/-- The nearest multiple of `2^q` is as near as any value of a grid no finer than `2^q`, and as any that lies below where the grid
turns that coarse. -/
theorem nearest_on_grid {n k q u : ℤ} {t : ℕ} {v : ℚ} (hn : |(n : ℚ) - v * 2 ^ (-q)| ≤ 1 / 2) (hk : |k| < 2 ^ (t + 1))
    (h : q ≤ u ∨ (2 : ℚ) ^ (q + t) ≤ v) : |(n : ℚ) * 2 ^ q - v| ≤ |(k : ℚ) * 2 ^ u - v| := by
  have h2 : (2 : ℚ) ≠ 0 := two_ne_zero
  have hq : (0 : ℚ) < 2 ^ q := by positivity
  have scale : ∀ j : ℤ, |(j : ℚ) * 2 ^ q - v| = |(j : ℚ) - v * 2 ^ (-q)| * 2 ^ q := by
    intro j
    rw [← abs_of_pos hq, ← abs_mul, abs_of_pos hq, sub_mul, mul_assoc, ← zpow_add₀ h2, neg_add_cancel, zpow_zero, mul_one]
  have near : ∀ j : ℤ, |(n : ℚ) * 2 ^ q - v| ≤ |(j : ℚ) * 2 ^ q - v| := by
    intro j
    rw [scale, scale]
    exact mul_le_mul_of_nonneg_right (nearest_int hn) hq.le
  by_cases hu : q ≤ u
  · have hj : (k : ℚ) * 2 ^ u = ((k * 2 ^ (u - q).toNat : ℤ) : ℚ) * 2 ^ q := by
      push_cast
      rw [← zpow_natCast (2 : ℚ), Int.toNat_of_nonneg (by omega), mul_assoc, ← zpow_add₀ h2, sub_add_cancel]
    rw [hj]
    exact near _
  · have hv := h.resolve_left hu
    have hkq : (k : ℚ) ≤ 2 ^ (t + 1) := by exact_mod_cast (le_abs_self k).trans hk.le
    have hy : (k : ℚ) * 2 ^ u ≤ 2 ^ (q + t) := by
      calc (k : ℚ) * 2 ^ u ≤ 2 ^ (t + 1) * 2 ^ u := mul_le_mul_of_nonneg_right hkq (by positivity)
        _ = 2 ^ ((t + 1 : ℕ) + u : ℤ) := by rw [zpow_add₀ h2, zpow_natCast]
        _ ≤ 2 ^ (q + t) := zpow_le_zpow_right₀ (by norm_num) (by push_cast; omega)
    have hb := near (2 ^ t : ℤ)
    have he : ((2 ^ t : ℤ) : ℚ) * 2 ^ q = 2 ^ (q + t) := by push_cast; rw [add_comm, zpow_add₀ h2, zpow_natCast]
    rw [he] at hb
    calc |(n : ℚ) * 2 ^ q - v| ≤ |(2 : ℚ) ^ (q + t) - v| := hb
      _ ≤ |(k : ℚ) * 2 ^ u - v| := by
        rw [abs_of_nonpos (by linarith), abs_of_nonpos (by linarith)]; linarith

/-! ### Rounding to a format (R111) -/

/-- The exponent of the unit a finite magnitude is rounded to: of its own binade, or of the subnormals where it is tiny. -/
def FloatFmt.unitExp (f : FloatFmt) (m : ℕ) (e : ℤ) : ℤ :=
  if e + m.log2 - f.t + (toUnit false m e (e + m.log2 - f.t) false).1.log2 < f.emin then f.emin - f.t else e + m.log2 - f.t

/-- R111: rounding to nearest in a format that has infinities and keeps subnormals, by the unit it rounds to. -/
theorem FloatFmt.round_pat {f : FloatFmt} (h4 : f.e4m3 = false) (hn : f.narrow = false) (ht : f.t ≠ 2) (s : Bool) {m n : ℕ}
    (hm : m ≠ 0) (e : ℤ) (h : n = (toUnit false m e (f.unitExp m e) false).1) :
    (f.round false (.fin s m e)).pat = if n ≠ 0 ∧ f.emax < f.unitExp m e + n.log2 then f.infinity s
      else oneBit s (f.w + f.t) + (if f.unitExp m e + n.log2 < f.emin ∨ n = 0 then n
        else (f.unitExp m e + n.log2 + f.bias).toNat * 2 ^ f.t + ((n <<< f.t) >>> n.log2 - 2 ^ f.t)) := by
  subst h
  simp only [FloatFmt.round, if_neg hm, hn, h4, ht, Bool.false_and, Bool.false_eq_true, if_false, or_false, false_and,
    decide_eq_true_eq, FloatFmt.unitExp]
  split
  · split <;> rfl
  · split <;> rfl

theorem two_pow_log2_le_rat {m : ℕ} (hm : m ≠ 0) (e : ℤ) :
    (2 : ℚ) ^ (e + m.log2) ≤ m * 2 ^ e ∧ (m : ℚ) * 2 ^ e < 2 ^ (e + m.log2 + 1) := by
  have h1 : (2 : ℚ) ^ m.log2 ≤ m := by exact_mod_cast Nat.log2_self_le hm
  have h2 : (m : ℚ) < 2 ^ (m.log2 + 1) := by exact_mod_cast Nat.lt_log2_self
  have he : (0 : ℚ) < 2 ^ e := by positivity
  rw [add_assoc, zpow_add₀ two_ne_zero, zpow_add₀ two_ne_zero, ← Nat.cast_succ, zpow_natCast, zpow_natCast, mul_comm,
    mul_comm ((2 : ℚ) ^ e)]
  exact ⟨mul_le_mul_of_nonneg_right h1 he.le, mul_lt_mul_of_pos_right h2 he⟩

/-- What rounding to the unit of its own binade gives has the binade's `t + 1` bits, or is the next power of two. -/
theorem toUnit_binade {m : ℕ} (hm : m ≠ 0) (e : ℤ) (t : ℕ) :
    2 ^ t ≤ (toUnit false m e (e + m.log2 - t) false).1 ∧ (toUnit false m e (e + m.log2 - t) false).1 ≤ 2 ^ (t + 1) := by
  have h := abs_le.mp (toUnit_half m e (e + m.log2 - t))
  generalize (toUnit false m e (e + m.log2 - t) false).1 = n at *
  obtain ⟨hlo, hhi⟩ := two_pow_log2_le_rat hm (e - (e + m.log2 - t))
  rw [show e - (e + m.log2 - t) + m.log2 = ((t : ℕ) : ℤ) by omega, zpow_natCast] at hlo
  rw [show e - (e + m.log2 - t) + m.log2 + 1 = ((t + 1 : ℕ) : ℤ) by push_cast; omega, zpow_natCast] at hhi
  constructor
  · by_contra hc
    have : (n : ℚ) + 1 ≤ 2 ^ t := by exact_mod_cast (by omega : n + 1 ≤ 2 ^ t)
    linarith
  · by_contra hc
    have : (2 : ℚ) ^ (t + 1) + 1 ≤ n := by exact_mod_cast (by omega : 2 ^ (t + 1) + 1 ≤ n)
    linarith

/-- The unit and the count of units a finite magnitude rounds to. -/
theorem FloatFmt.unitExp_spec (f : FloatFmt) {m n : ℕ} (hm : m ≠ 0) (e : ℤ) (h : n = (toUnit false m e (f.unitExp m e) false).1) :
    (f.unitExp m e = f.emin - f.t ∧ n ≤ 2 ^ f.t) ∨
    (2 ^ f.t ≤ n ∧ n ≤ 2 ^ (f.t + 1) ∧ (2 : ℚ) ^ (f.unitExp m e + f.t) ≤ m * 2 ^ e ∧ f.emin ≤ f.unitExp m e + n.log2) := by
  obtain ⟨hlo, hhi⟩ := toUnit_binade hm e f.t
  obtain ⟨hv, hv'⟩ := two_pow_log2_le_rat hm e
  by_cases hc : e + m.log2 - f.t + (toUnit false m e (e + m.log2 - f.t) false).1.log2 < f.emin
  · left
    have hu : f.unitExp m e = f.emin - f.t := if_pos hc
    rw [hu] at h ⊢
    have hlog : f.t ≤ (toUnit false m e (e + m.log2 - f.t) false).1.log2 := (Nat.le_log2 (by have := Nat.two_pow_pos f.t; omega)).mpr hlo
    have hx : (m : ℚ) * 2 ^ (e - (f.emin - f.t)) < 2 ^ f.t := by
      have h1 := (two_pow_log2_le_rat hm (e - (f.emin - f.t))).2
      refine h1.trans_le ?_
      rw [← zpow_natCast (2 : ℚ) f.t]
      exact zpow_le_zpow_right₀ (by norm_num) (by omega)
    have hh := abs_le.mp (toUnit_half m e (f.emin - f.t))
    rw [← h] at hh
    refine ⟨rfl, ?_⟩
    by_contra hn
    have : (2 : ℚ) ^ f.t + 1 ≤ n := by exact_mod_cast (by omega : 2 ^ f.t + 1 ≤ n)
    linarith
  · right
    have hu : f.unitExp m e = e + m.log2 - f.t := if_neg hc
    rw [hu] at h ⊢
    rw [← h] at hlo hhi hc
    exact ⟨hlo, hhi, by rwa [sub_add_cancel], by omega⟩

/-- R106: the value of a finite pattern of a format that keeps subnormals, by its fields. -/
theorem FloatFmt.read_finite {f : FloatFmt} (h4 : f.e4m3 = false) (hn : f.narrow = false) {p : ℕ}
    (he : (f.fields p).2.1 ≠ 2 ^ f.w - 1) :
    f.read p = if (f.fields p).2.1 = 0 then .fin (f.fields p).1 (f.fields p).2.2 (f.emin - f.t)
      else .fin (f.fields p).1 (2 ^ f.t + (f.fields p).2.2) ((f.fields p).2.1 - f.bias - f.t) := by
  simp [FloatFmt.read, FloatFmt.isNan, h4, hn, he, FloatFmt.emin]

theorem FloatFmt.read_on_grid {f : FloatFmt} (h4 : f.e4m3 = false) (hn : f.narrow = false) {p : ℕ}
    (he : (f.fields p).2.1 ≠ 2 ^ f.w - 1) : ∃ (k u : ℤ), (f.read p).rat = k * 2 ^ u ∧ |k| < 2 ^ (f.t + 1) ∧ f.emin - f.t ≤ u := by
  have hm : (f.fields p).2.2 < 2 ^ f.t := Nat.mod_lt _ (Nat.two_pow_pos _)
  have habs : ∀ (s : Bool) (k : ℕ), k < 2 ^ (f.t + 1) → |signed s k| < 2 ^ (f.t + 1) := by
    intro s k hk
    have : ((k : ℕ) : ℤ) < 2 ^ (f.t + 1) := by exact_mod_cast hk
    cases s
    · rwa [show signed false k = (k : ℤ) from rfl, Nat.abs_cast]
    · rwa [show signed true k = -(k : ℤ) from rfl, abs_neg, Nat.abs_cast]
  rw [read_finite h4 hn he]
  split
  · exact ⟨_, _, rat_fin_eq_signed _ _ _, habs _ _ (by rw [pow_succ]; omega), le_refl _⟩
  · exact ⟨_, _, rat_fin_eq_signed _ _ _, habs _ _ (by rw [pow_succ]; omega), by rw [FloatFmt.emin]; omega⟩

/-- R111: what a finite value rounds to, where that is finite: `n` units, `n` the nearest integer, of a unit no coarser than the
subnormals' or than its own binade's. -/
theorem FloatFmt.round_rat {f : FloatFmt} (h4 : f.e4m3 = false) (hn : f.narrow = false) (ht : f.t ≠ 2) (s : Bool) {m p : ℕ}
    (hm : m ≠ 0) (e : ℤ) (hp : p = (f.round false (.fin s m e)).pat) (hfin : (f.fields p).2.1 ≠ 2 ^ f.w - 1) (hw : 2 ≤ f.w) :
    p < 2 ^ (1 + f.w + f.t) ∧ ∃ (n : ℕ) (q : ℤ), (f.read p).rat = Num.rat (.fin s n q) ∧
      |(n : ℚ) - m * 2 ^ (e - q)| ≤ 1 / 2 ∧ (q ≤ f.emin - f.t ∨ (2 : ℚ) ^ (q + f.t) ≤ m * 2 ^ e) := by
  obtain ⟨n, hndef⟩ : ∃ n, n = (toUnit false m e (f.unitExp m e) false).1 := ⟨_, rfl⟩
  have hhalf := toUnit_half m e (f.unitExp m e)
  have hspec := f.unitExp_spec hm e hndef
  rw [round_pat h4 hn ht s hm e hndef] at hp
  rw [← hndef] at hhalf
  generalize f.unitExp m e = q at *
  have h2t := Nat.two_pow_pos f.t
  have h2w : 4 ≤ 2 ^ f.w := Nat.pow_le_pow_right (n := 2) (i := 2) (by norm_num) hw
  have hunit : q ≤ f.emin - f.t ∨ (2 : ℚ) ^ (q + f.t) ≤ m * 2 ^ e := hspec.imp (fun h => h.1.le) (fun h => h.2.2.1)
  have hemax : f.emax = (2 ^ f.w - 2 : ℕ) - (f.bias : ℤ) := by rw [FloatFmt.emax, h4]; rfl
  have hemin : f.emin = 1 - (f.bias : ℤ) := rfl
  have hfinite : ¬(n ≠ 0 ∧ f.emax < q + n.log2) := by
    intro hinf
    rw [if_pos hinf, FloatFmt.infinity] at hp
    have := (f.fields_pack s (e := 2 ^ f.w - 1) (m := 0) (by omega) h2t).1
    rw [Nat.add_zero, ← hp] at this
    rw [this] at hfin
    exact hfin rfl
  rw [if_neg hfinite] at hp
  by_cases hsub : q + n.log2 < f.emin ∨ n = 0
  · rw [if_pos hsub] at hp
    have hq : q = f.emin - f.t ∧ n < 2 ^ f.t := by
      obtain ⟨hq, hle⟩ | ⟨hge, -, -, hge'⟩ := hspec
      · refine ⟨hq, lt_of_le_of_ne hle fun hx => ?_⟩
        rw [hx, Nat.log2_two_pow] at hsub
        omega
      · omega
    obtain ⟨hq, hlt⟩ := hq
    obtain ⟨hf, hlt'⟩ := f.fields_pack s (e := 0) (Nat.two_pow_pos _) hlt
    rw [Nat.zero_mul, Nat.zero_add, ← hp] at hf hlt'
    refine ⟨hlt', n, q, ?_, hhalf, hunit⟩
    rw [read_finite h4 hn hfin, hf, hq]
    rfl
  · rw [if_neg hsub] at hp
    obtain ⟨hge, hn0⟩ := not_or.mp hsub
    have hlog : f.t ≤ n.log2 ∧ n ≤ 2 ^ (f.t + 1) ∧ 2 ^ f.t ≤ n := by
      obtain ⟨hq, hle⟩ | ⟨hlo, hhi, -, -⟩ := hspec
      · have h1 : f.t ≤ n.log2 := by omega
        exact ⟨h1, by rw [pow_succ]; omega, (Nat.le_log2 hn0).mp h1⟩
      · exact ⟨(Nat.le_log2 hn0).mpr hlo, hhi, hlo⟩
    obtain ⟨hlog, hhi, hlo⟩ := hlog
    obtain ⟨E, hE⟩ : ∃ E, E = (q + n.log2 + f.bias).toNat := ⟨_, rfl⟩
    have hE' : (E : ℤ) = q + n.log2 + f.bias := by omega
    have hElt : E < 2 ^ f.w := by omega
    have hE0 : E ≠ 0 := by omega
    rw [← hE] at hp
    obtain ⟨F, hF, hFlt, hval⟩ : ∃ F, F = (n <<< f.t) >>> n.log2 - 2 ^ f.t ∧ F < 2 ^ f.t ∧
        Num.rat (.fin s (2 ^ f.t + F) (E - f.bias - f.t)) = Num.rat (.fin s n q) := by
      refine ⟨_, rfl, ?_⟩
      rcases hhi.lt_or_eq with hlt | heq
      · have ht' : n.log2 = f.t := by have := (Nat.log2_lt hn0).mpr hlt; omega
        rw [ht', Nat.shiftLeft_shiftRight]
        refine ⟨by rw [pow_succ] at hlt; omega, ?_⟩
        rw [Nat.add_sub_cancel' hlo, show (E : ℤ) - f.bias - f.t = q by omega]
      · have ht' : n.log2 = f.t + 1 := by rw [heq, Nat.log2_two_pow]
        rw [ht', heq, Nat.shiftLeft_eq, Nat.shiftRight_eq_div_pow, Nat.mul_div_cancel_left _ (Nat.two_pow_pos _), Nat.sub_self]
        refine ⟨h2t, ?_⟩
        rw [show (E : ℤ) - f.bias - f.t = q + 1 by omega]
        simp only [Num.rat]
        push_cast
        rw [zpow_add₀ two_ne_zero, pow_succ]
        ring
    rw [← hF] at hp
    obtain ⟨hf, hlt⟩ := f.fields_pack s hElt hFlt
    rw [← hp] at hf hlt
    refine ⟨hlt, n, q, ?_, hhalf, hunit⟩
    rw [read_finite h4 hn hfin, hf, if_neg hE0]
    exact hval

/-- R111: rounding a finite value to a format that has infinities and keeps subnormals takes a pattern no other is nearer than. -/
theorem FloatFmt.round_nearest {f : FloatFmt} (h4 : f.e4m3 = false) (hn : f.narrow = false) (ht : f.t ≠ 2) (hw : 2 ≤ f.w) (s : Bool)
    (m : ℕ) (e : ℤ) {p : ℕ} (hp : p = (f.round false (.fin s m e)).pat) (hfin : (f.fields p).2.1 ≠ 2 ^ f.w - 1) :
    p < 2 ^ (1 + f.w + f.t) ∧ ∀ q : ℕ, (f.fields q).2.1 ≠ 2 ^ f.w - 1 →
      |(f.read p).rat - (Num.fin s m e).rat| ≤ |(f.read q).rat - (Num.fin s m e).rat| := by
  by_cases hm : m = 0
  · have hp0 : p = oneBit s (f.w + f.t) + (0 * 2 ^ f.t + 0) := by rw [hp, hm]; simp [FloatFmt.round]
    obtain ⟨hf, hlt⟩ := f.fields_pack s (Nat.two_pow_pos f.w) (Nat.two_pow_pos f.t)
    rw [← hp0] at hf hlt
    refine ⟨hlt, fun q _ => ?_⟩
    have h0 : (f.read p).rat = 0 := by rw [read_finite h4 hn hfin, hf]; simp [Num.rat]
    have h0' : (Num.fin s m e).rat = 0 := by simp [Num.rat, hm]
    rw [h0, h0', sub_zero, abs_zero]
    exact abs_nonneg _
  · obtain ⟨hlt, n, u, hr, hhalf, hunit⟩ := round_rat h4 hn ht s hm e hp hfin hw
    refine ⟨hlt, fun q hq => ?_⟩
    obtain ⟨k, v, hk, hklt, hv⟩ := read_on_grid h4 hn hq
    have hscale : (m : ℚ) * 2 ^ (e - u) = m * 2 ^ e * 2 ^ (-u) := by rw [mul_assoc, ← zpow_add₀ two_ne_zero, Int.sub_eq_add_neg]
    rw [hscale] at hhalf
    have hgrid : u ≤ v ∨ (2 : ℚ) ^ (u + f.t) ≤ m * 2 ^ e := hunit.imp_left fun h => h.trans hv
    rw [hr, hk, rat_fin_eq_signed, rat_fin_eq_signed]
    cases s
    · exact nearest_on_grid (n := n) hhalf hklt hgrid
    · have hneg : ∀ x : ℚ, |x - ((signed true m : ℤ) : ℚ) * 2 ^ e| = |-x - m * 2 ^ e| := by
        intro x
        rw [← abs_neg, signed_cast]
        congr 1
        simp only [if_true]
        ring
      rw [hneg, hneg]
      have := nearest_on_grid (n := n) (k := -k) hhalf (by rwa [abs_neg]) hgrid
      rw [signed_cast]
      simpa using this

/-! ### A number of a format rounds to its own pattern (R106, R111) -/

/-- Rounding to a unit no larger than the value's own loses nothing. -/
theorem toUnit_exact {rz : Bool} {m : ℕ} {e q : ℤ} (h : q ≤ e) : toUnit rz m e q false = (m <<< (e - q).toNat, false) := if_pos h

theorem FloatFmt.round_zero (f : FloatFmt) (rz s : Bool) (e : ℤ) :
    f.round rz (.fin s 0 e) = { pat := oneBit s (f.w + f.t), ev := 0 } := rfl

/-- A normal number of a format, below its largest exponent or its NaN. -/
theorem FloatFmt.round_normal {f : FloatFmt} (rz s : Bool) {E F : ℕ} (hE : E ≠ 0) (hF : F < 2 ^ f.t)
    (hmax : (E : ℤ) - f.bias ≤ f.emax) (hnan : f.e4m3 = true → (E : ℤ) - f.bias = f.emax → 2 ^ f.t + F ≠ 15) :
    f.round rz (.fin s (2 ^ f.t + F) (E - f.bias - f.t)) = { pat := oneBit s (f.w + f.t) + (E * 2 ^ f.t + F), ev := 0 } := by
  have ht := Nat.two_pow_pos f.t
  have hlog : (2 ^ f.t + F).log2 = f.t := by
    refine le_antisymm (Nat.lt_succ_iff.mp ((Nat.log2_lt (by omega)).mpr ?_)) ((Nat.le_log2 (by omega)).mpr (by omega))
    rw [pow_succ]; omega
  have htop : (E : ℤ) - f.bias - f.t + (f.t : ℤ) - f.t = E - f.bias - f.t := by omega
  have htiny : ¬((E : ℤ) - f.bias - f.t + (f.t : ℤ) < f.emin) := by simp only [FloatFmt.emin]; omega
  have hover : ¬(2 ^ f.t + F ≠ 0 ∧ (f.emax < (E : ℤ) - f.bias - f.t + (f.t : ℤ) ∨
      f.e4m3 = true ∧ (E : ℤ) - f.bias - f.t + (f.t : ℤ) = f.emax ∧ 2 ^ f.t + F = 15)) := by
    rintro ⟨-, h | ⟨h1, h2, h3⟩⟩
    · omega
    · exact hnan h1 (by omega) h3
  have hpat : ((E : ℤ) - f.bias - f.t + (f.t : ℤ) + f.bias).toNat = E := by omega
  have hm0 : 2 ^ f.t + F ≠ 0 := by omega
  simp only [FloatFmt.round, hlog, htop, toUnit_exact (le_refl _), sub_self, Int.toNat_zero, Nat.shiftLeft_zero,
    htiny, decide_false, Bool.and_false, Bool.false_eq_true, if_false, if_neg hover, hm0, or_self, hpat,
    Nat.shiftLeft_shiftRight, Nat.add_sub_cancel_left]
  rfl

/-- A subnormal of a format that keeps them. -/
theorem FloatFmt.round_subnormal {f : FloatFmt} (rz s : Bool) {F : ℕ} (hn : f.narrow = false) (h0 : F ≠ 0) (hF : F < 2 ^ f.t)
    (hmax : f.emin ≤ f.emax) :
    f.round rz (.fin s F (1 - f.bias - f.t)) = { pat := oneBit s (f.w + f.t) + F, ev := 0 } := by
  have hlog : F.log2 < f.t := (Nat.log2_lt h0).mpr hF
  have hself : (F <<< (f.t - F.log2)).log2 = f.t := by
    have hlo := Nat.log2_self_le h0
    have hhi := Nat.lt_log2_self (n := F)
    have hsplit : 2 ^ f.t = 2 ^ F.log2 * 2 ^ (f.t - F.log2) := by rw [← pow_add]; congr 1; omega
    have hpos := Nat.two_pow_pos (f.t - F.log2)
    have h1 : 2 ^ f.t ≤ F * 2 ^ (f.t - F.log2) := hsplit ▸ Nat.mul_le_mul_right _ hlo
    have h2 : F * 2 ^ (f.t - F.log2) < 2 ^ (f.t + 1) := by
      rw [pow_succ, hsplit, Nat.mul_right_comm, ← pow_succ]; exact Nat.mul_lt_mul_of_pos_right hhi hpos
    rw [Nat.shiftLeft_eq]
    have hne : F * 2 ^ (f.t - F.log2) ≠ 0 := by have := Nat.two_pow_pos f.t; omega
    exact le_antisymm (Nat.lt_succ_iff.mp ((Nat.log2_lt hne).mpr h2)) ((Nat.le_log2 hne).mpr h1)
  have hq : (1 : ℤ) - f.bias - f.t + F.log2 - f.t ≤ 1 - f.bias - f.t := by omega
  have hd : ((1 : ℤ) - f.bias - f.t - (1 - f.bias - f.t + F.log2 - f.t)).toNat = f.t - F.log2 := by omega
  have htiny : (1 : ℤ) - f.bias - f.t + F.log2 - f.t + (f.t : ℕ) < f.emin := by simp only [FloatFmt.emin]; omega
  have hunit : f.emin - f.t = 1 - f.bias - f.t := rfl
  have hlow : (1 : ℤ) - f.bias - f.t + F.log2 < f.emin := by simp only [FloatFmt.emin]; omega
  have hover : ¬(F ≠ 0 ∧ (f.emax < (1 : ℤ) - f.bias - f.t + F.log2 ∨
      f.e4m3 = true ∧ (1 : ℤ) - f.bias - f.t + F.log2 = f.emax ∧ F = 15)) := by
    rintro ⟨-, h | ⟨-, h, -⟩⟩ <;> omega
  simp only [FloatFmt.round, if_neg h0, toUnit_exact hq, hd, hself, decide_eq_true htiny, hn, Bool.false_and, Bool.false_eq_true,
    if_false, if_true, hunit, toUnit_exact (le_refl _), sub_self, Int.toNat_zero, Nat.shiftLeft_zero, if_neg hover, hlow, true_or,
    Bool.and_false]
  rfl

/-- R106, R111: what a pattern that is a number, and no flushed subnormal, reads as rounds back to it with no event. -/
theorem FloatFmt.round_read {f : FloatFmt} (rz : Bool) {p : ℕ} (hp : p < 2 ^ (1 + f.w + f.t)) (hnan : f.isNan p = false)
    (hinf : (f.fields p).2.1 = 2 ^ f.w - 1 → f.e4m3 = true) (hflush : (f.fields p).2.1 = 0 → f.narrow = true → (f.fields p).2.2 = 0)
    (hw : 2 ≤ f.w) (h4 : f.e4m3 = true → f.w = 4 ∧ f.t = 3 ∧ f.bias = 7) : f.round rz (f.read p) = { pat := p, ev := 0 } := by
  have hpack := f.pack_fields hp
  have hF : (f.fields p).2.2 < 2 ^ f.t := Nat.mod_lt p (Nat.two_pow_pos f.t)
  have hE : (f.fields p).2.1 < 2 ^ f.w := Nat.mod_lt (p >>> f.t) (Nat.two_pow_pos f.w)
  have hw4 : 4 ≤ 2 ^ f.w := Nat.pow_le_pow_right (n := 2) (i := 2) (by norm_num) hw
  have hnotinf : ¬((f.fields p).2.1 = 2 ^ f.w - 1 ∧ (!f.e4m3) = true) := fun h => by simp [hinf h.1] at h
  have hread : f.read p = if (f.fields p).2.1 = 0 then
      (if f.narrow then .fin (f.fields p).1 0 0 else .fin (f.fields p).1 (f.fields p).2.2 (1 - f.bias - f.t))
      else .fin (f.fields p).1 (2 ^ f.t + (f.fields p).2.2) ((f.fields p).2.1 - f.bias - f.t) := by
    simp only [FloatFmt.read, hnan, Bool.false_eq_true, if_false, if_neg hnotinf]
  have hnan' : (f.fields p).2.1 = 2 ^ f.w - 1 → f.e4m3 = true → (f.fields p).2.2 ≠ 7 := by
    intro h1 h2 h3
    simp [FloatFmt.isNan, h1, h2, h3] at hnan
  rw [hread]
  generalize (f.fields p).1 = s at *
  generalize (f.fields p).2.1 = E at *
  generalize (f.fields p).2.2 = F at *
  by_cases h0 : E = 0
  · subst h0
    rw [if_pos rfl]
    rw [Nat.zero_mul, Nat.zero_add] at hpack
    by_cases hF0 : F = 0
    · subst hF0
      split <;> rw [round_zero, ← hpack, Nat.add_zero]
    · have hn : f.narrow = false := by
        cases hn : f.narrow
        · rfl
        · exact absurd (hflush rfl hn) hF0
      rw [hn, if_neg Bool.false_ne_true, round_subnormal rz s hn hF0 hF, hpack]
      cases h : f.e4m3
      · simp only [FloatFmt.emin, FloatFmt.emax, h, Bool.false_eq_true, if_false]; omega
      · obtain ⟨-, -, hb⟩ := h4 h
        simp only [FloatFmt.emin, FloatFmt.emax, h, if_true, hb]; omega
  · rw [if_neg h0, round_normal rz s h0 hF, hpack]
    · cases h : f.e4m3
      · have : E ≠ 2 ^ f.w - 1 := fun hE' => by simp [hinf hE'] at h
        simp only [FloatFmt.emax, h, Bool.false_eq_true, if_false]; omega
      · obtain ⟨hw', -, hb⟩ := h4 h
        rw [hw'] at hE
        simp only [FloatFmt.emax, h, if_true, hb]; omega
    · intro h hE'
      obtain ⟨hw', ht', hb⟩ := h4 h
      simp only [FloatFmt.emax, h, if_true, hb] at hE'
      have := hnan' (by rw [hw']; omega) h
      rw [ht']
      omega

end Sys2Proof.Machine
end

section
/-! PROOFS. Sums, products and rounding of finite values (R106, R107, R111). -/

namespace Sys2Proof.Machine

/-- Settles O7: the sum and the product are taken in the smaller unit; a rounded value is the nearest integer of its unit. -/
theorem floatsExactThenRounded : Obligations.FloatsExactThenRounded := by
  refine ⟨?_, ?_, ?_⟩
  · rintro s t u m n k e f g x y w rfl rfl rfl
    exact ⟨add_fin_rat s t m n e f, mul_fin_rat s t m n e f, fma_fin_rat s t u m n k e f g, lt_fin_rat s t m n e f,
      eq_fin_rat s t m n e f⟩
  · rintro c f s m e p (rfl | rfl) hf hp hfin
    · obtain rfl := Option.some.inj hf
      obtain ⟨hlt, hnear⟩ := FloatFmt.round_nearest rfl rfl (by decide) (by decide) s m e hp hfin
      exact ⟨hlt, fun q _ hq => hnear q hq⟩
    · obtain rfl := Option.some.inj hf
      obtain ⟨hlt, hnear⟩ := FloatFmt.round_nearest rfl rfl (by decide) (by decide) s m e hp hfin
      exact ⟨hlt, fun q _ hq => hnear q hq⟩
  · intro c f rz p hf hp hnan hinf hflush
    have hfmt : 2 ≤ f.w ∧ (f.e4m3 = true → f.w = 4 ∧ f.t = 3 ∧ f.bias = 7) := by
      unfold floatFmt at hf
      split at hf
      case h_7 => cases hf
      all_goals obtain rfl := Option.some.inj hf; decide
    exact FloatFmt.round_read rz hp hnan hinf hflush hfmt.1 hfmt.2

end Sys2Proof.Machine
end

section
/-! PROOFS. Dusk mode's bound and the sticky flags (R118 to R120, R367 to R371). -/

namespace Sys2Proof.Machine

theorem or_and_self_left (a b : ℕ) : (a ||| b) &&& a = a := by
  apply Nat.eq_of_testBit_eq
  intro k
  rw [Nat.testBit_and, Nat.testBit_or]
  cases a.testBit k <;> simp

/-- R119, R120: what Dusk mode makes of a finite nonzero result: the result itself, or an admissible pattern of its sign, with no
event lost. -/
theorem relax_cases (dusk : Option ℕ) (code k : ℕ) (r : Rounded) :
    relax dusk code k r = r ∨ ∃ (f : FloatFmt) (sg : Bool) (mm : ℕ) (e : ℤ) (more : ℕ),
      floatFmt code = some f ∧ f.read r.pat = .fin sg mm e ∧ mm ≠ 0 ∧ (relax dusk code k r).ev = r.ev ||| more ∧
      ((relax dusk code k r).pat = r.pat ∨
        ((f.fields (relax dusk code k r).pat).1 = sg ∧ f.admits k sg mm e (relax dusk code k r).pat = true)) := by
  unfold relax relaxIn
  split
  next n f hf =>
    split
    next sg mm e hread =>
      split
      next => exact .inl rfl
      next hmm =>
        refine .inr ⟨f, sg, mm, e, ?_⟩
        simp only [Bool.and_true, Bool.and_eq_true, beq_iff_eq]
        split
        next h => exact ⟨_, hf, hread, hmm, Nat.or_assoc .., .inr ⟨h.1.2, h.2⟩⟩
        next => exact ⟨_, hf, hread, hmm, rfl, .inl rfl⟩
    next => exact .inl rfl
  next => exact .inl rfl

/-- Settles O8: Dusk mode takes another pattern only for a finite nonzero result, and only an admissible one. -/
theorem duskResultsStayInBound : Obligations.DuskResultsStayInBound := by
  intro dusk code k r
  have hcases := relax_cases dusk code k r
  refine ⟨rfl, fun f hf hr => ?_, fun hf => ?_, fun f sg mm e hf hr hmm => ?_, ?_⟩
  · obtain h | ⟨g, sg, mm, e, more, hg, hread, hmm, -⟩ := hcases
    · exact h
    · obtain rfl := Option.some.inj (hf.symm.trans hg)
      rw [hread] at hr
      obtain h | ⟨sg, h⟩ | h := hr
      · cases h
      · cases h
      · exact absurd (beq_iff_eq.mp h) hmm
  · obtain h | ⟨g, sg, mm, e, more, hg, -⟩ := hcases
    · exact h
    · rw [hf] at hg; cases hg
  · obtain h | ⟨g, sg', mm', e', more, hg, hread, -, -, h⟩ := hcases
    · exact .inl (congrArg Rounded.pat h)
    · obtain rfl := Option.some.inj (hf.symm.trans hg)
      obtain ⟨rfl, rfl, rfl⟩ := Num.fin.inj (hr.symm.trans hread)
      exact h
  · obtain h | ⟨g, sg, mm, e, more, -, -, -, hev, -⟩ := hcases
    · rw [h, Nat.and_self]
    · rw [hev, or_and_self_left]

/-- The note of a flag trap is kept by the cursor or beside it. -/
theorem Cont.noteTrap_eq (c : Cont) (slot : ℕ) : ∃ k x, c.noteTrap slot = { c with cursor := k, flagTrap := x } := by
  unfold Cont.noteTrap
  cases c.cursor with
  | none => exact ⟨_, _, rfl⟩
  | some k => exact ⟨_, _, rfl⟩

/-- Events reach the flags and the first-event record, and perhaps the note of a flag trap (R367, R370, R371). -/
theorem Cont.setFlags_eq (c : Cont) (slot : ℕ) {ev : ℕ} (eng : Bool) (pc : BitVec 48) (hev : ev ≠ 0) :
    ∃ k x, c.setFlags slot ev eng pc = { c with
      flags := c.flags ||| BitVec.ofNat 32 (flagBits slot ev)
      fev := if c.trapen.getLsbD 8 = true ∧ c.fev.getLsbD 63 = false then
        toW (2 ^ 63 + (if eng then 2 ^ 62 else 0) + ev % 2 ^ 7 * 2 ^ 55 + slot * 2 ^ 48 + pc.toNat) else c.fev
      cursor := k, flagTrap := x } ∧
      ((eng = true ∨ trapBits c.trapen ev = false) → k = c.cursor ∧ x = c.flagTrap) := by
  unfold Cont.setFlags
  simp only [if_neg hev, Bool.and_eq_true, Bool.not_eq_true', oneBit]
  split
  next h =>
    obtain ⟨k, x, hk⟩ := Cont.noteTrap_eq { c with
      flags := c.flags ||| BitVec.ofNat 32 (flagBits slot ev)
      fev := if c.trapen.getLsbD 8 = true ∧ c.fev.getLsbD 63 = false then
        toW (2 ^ 63 + (if eng then 2 ^ 62 else 0) + ev % 2 ^ 7 * 2 ^ 55 + slot * 2 ^ 48 + pc.toNat) else c.fev } slot
    refine ⟨k, x, hk, fun hq => ?_⟩
    rcases hq with hq | hq
    · exact absurd (h.1.symm.trans hq) Bool.false_ne_true
    · exact absurd (hq.symm.trans h.2) Bool.false_ne_true
  next => exact ⟨_, _, rfl, fun _ => ⟨rfl, rfl⟩⟩

/-- Settles O9: by what events do to a continuation. -/
theorem stickyFlags : Obligations.StickyFlags := by
  intro c slot ev eng pc hev
  obtain ⟨k, x, hset, hnote⟩ := c.setFlags_eq slot eng pc hev
  rw [hset]
  exact ⟨rfl, rfl, rfl, hnote⟩

end Sys2Proof.Machine
end

section
/-! SUPPORT. Weak and scratchpad accesses: the bytes a resolved range names, and one rule for each access form (R158 to R160). -/

namespace Sys2Proof.Machine

/-! ### Lengths of what is read (R159) -/

theorem leNat_lt (l : List Byte) : leNat l < 2 ^ (8 * l.length) := by
  induction l with
  | nil => decide
  | cons b l ih =>
    have := b.isLt
    rw [leNat, List.length_cons, Nat.mul_succ, pow_add]
    omega

theorem resolveWith_lengths {chk : ℕ → Option Cause} {f : Word → Xl} {l ps : List (ℕ × ℕ)} (h : resolveWith chk f l = .ok ps) :
    ps.map Prod.snd = l.map Prod.snd := by
  induction l generalizing ps with
  | nil => cases h; rfl
  | cons p l ih =>
    obtain ⟨va, n⟩ := p
    rw [resolveWith] at h
    split at h
    · cases h
    · cases h
    · split at h
      · cases h
      · split at h
        next l' hl => cases h; simp [ih hl]
        next x hx => exact absurd h (hx ps)

theorem pagesOf_length (fuel va n : ℕ) : ((pagesOf fuel va n).map Prod.snd).sum ≤ n := by
  induction fuel generalizing va n with
  | zero => exact Nat.zero_le n
  | succ fuel ih =>
    rw [pagesOf]
    split
    · exact Nat.zero_le n
    · dsimp only
      split
      · simp
      · have := ih (va + (65536 - va % 65536)) (n - (65536 - va % 65536))
        simp only [List.map_cons, List.sum_cons]
        omega

/-- A resolved access names no more bytes than it asked for. -/
theorem Mach.resolveCont_length {m : Mach} {va : Word} {n : ℕ} {need : Acc3} {ps : List (ℕ × ℕ)}
    (h : m.resolveCont va n need = .ok ps) : (ps.map Prod.snd).sum ≤ n := by
  unfold Mach.resolveCont at h
  split at h
  · cases h
  · dsimp only at h
    split at h
    · cases h
    · split at h
      next l hl =>
        split at h
        · cases h
        · cases h
          rw [resolveWith_lengths hl]
          exact pagesOf_length _ _ _
      next x hx => exact absurd h (hx ps)

theorem Mem.length_readParts (m : Mem) (d : ℕ) (ps : List (ℕ × ℕ)) : (m.readParts d ps).length = (ps.map Prod.snd).sum := by
  simp [Mem.readParts, Mem.read, Memory.length_gets, List.length_flatten, Function.comp_def]

theorem leNat_readParts_lt {m : Mach} {x : Mem} {va : Word} {n d : ℕ} {need : Acc3} {ps : List (ℕ × ℕ)}
    (h : m.resolveCont va n need = .ok ps) : leNat (x.readParts d ps) < 2 ^ (8 * n) := by
  refine (leNat_lt _).trans_le (Nat.pow_le_pow_right (by norm_num) ?_)
  rw [x.length_readParts]
  exact Nat.mul_le_mul_left 8 (Mach.resolveCont_length h)

/-- R159: sign or zero extension of an `n`-byte value. -/
theorem extend_eq {n v : ℕ} (sx : Bool) (hv : v < 2 ^ (8 * n)) :
    (if sx then ofI (sext (8 * n) v) else toW v) =
      if sx = true ∧ 2 ^ (8 * n - 1) ≤ v then ofI ((v : ℤ) - (2 ^ (8 * n) : ℕ)) else toW v := by
  cases sx
  · simp
  · simp only [if_true, sext, Nat.mod_eq_of_lt hv, true_and]
    by_cases h : v < 2 ^ (8 * n - 1)
    · rw [if_pos h, if_neg (not_le.mpr h), ofI_natCast]
    · rw [if_neg h, if_pos (not_lt.mp h)]

/-! ### Access forms -/

theorem writeLoaded_plain {f : GF} {v : Word} {m m' : Mach} (h : writeG f v m = .ok ((), m')) :
    writeLoaded f v none m = .ok ((), m') := by simp only [writeLoaded, act_bind, h, act_pure]

theorem writeLoaded_marked {f : GF} {v : Word} {g : ℕ} {m m' : Mach} (hf : isPlain f) (h0 : f ≠ 0)
    (h : writeG f v m = .ok ((), m')) : writeLoaded f v (some g) m = .ok ((), m'.withCur (m'.cur.markG f g)) := by
  have hp : f.toNat < 24 ∧ f ≠ 0 := ⟨hf, h0⟩
  simp only [writeLoaded, act_bind, h, if_pos hp, act_modC]
  rfl

section
variable {s : State} {gu : Guard} {d a : GF} {k : BitVec 11} {i : Instr} {n : ℕ} {sx : Bool}

theorem exec_weakLoad (h : (i, n, sx) ∈ [(Instr.ldb gu d a k, 1, true), (.ldbu gu d a k, 1, false), (.ldh gu d a k, 2, true),
      (.ldhu gu d a k, 2, false), (.ldw gu d a k, 4, true), (.ldwu gu d a k, 4, false), (.ldd gu d a k, 8, false)]) :
    exec i s = runSlot i .a (some gu) (loadV n sx d a k) s := by
  simp only [List.mem_cons, Prod.mk.injEq, List.not_mem_nil, or_false] at h
  obtain ⟨rfl, rfl, rfl⟩ | ⟨rfl, rfl, rfl⟩ | ⟨rfl, rfl, rfl⟩ | ⟨rfl, rfl, rfl⟩ | ⟨rfl, rfl, rfl⟩ | ⟨rfl, rfl, rfl⟩ |
    ⟨rfl, rfl, rfl⟩ := h
  all_goals rfl

theorem exec_weakStore (h : (i, n) ∈ [(Instr.stb gu d a k, 1), (.sth gu d a k, 2), (.stw gu d a k, 4), (.std gu d a k, 8)]) :
    exec i s = runSlot i .a (some gu) (storeV n d a k) s := by
  simp only [List.mem_cons, Prod.mk.injEq, List.not_mem_nil, or_false] at h
  obtain ⟨rfl, rfl⟩ | ⟨rfl, rfl⟩ | ⟨rfl, rfl⟩ | ⟨rfl, rfl⟩ := h
  all_goals rfl

theorem exec_spadLoad (h : (i, n) ∈ [(Instr.spldw gu d a k, 4), (.spldd gu d a k, 8)]) :
    exec i s = runSlot i .a (some gu) (loadS n d a k) s := by
  simp only [List.mem_cons, Prod.mk.injEq, List.not_mem_nil, or_false] at h
  obtain ⟨rfl, rfl⟩ | ⟨rfl, rfl⟩ := h
  all_goals rfl

theorem exec_spadStore (h : (i, n) ∈ [(Instr.spstw gu d a k, 4), (.spstd gu d a k, 8)]) :
    exec i s = runSlot i .a (some gu) (storeS n d a k) s := by
  simp only [List.mem_cons, Prod.mk.injEq, List.not_mem_nil, or_false] at h
  obtain ⟨rfl, rfl⟩ | ⟨rfl, rfl⟩ := h
  all_goals rfl
end

section
variable {m m1 m2 m3 : Mach} {x v va : Word} {d a : GF} {k : BitVec 11} {n : ℕ} {sx : Bool} {o : ℤ}

/-- R159: a weak load reads at its address, extends, and writes its register with the mark of what it read. -/
theorem loadV_eq (ha : readG a m = .ok (x, m1)) (hva : va = ofI (x.toInt + k.toInt * n)) {ps : List (ℕ × ℕ)}
    (hr : m1.resolveCont va n .read = .ok ps) (hb : m1.cur.touchesBlock va.toNat n = false) {m0 : Mach}
    (hm : m0 = m1.withMem (m1.mem.observe m1.cur.die ps)) (hv : v = (if sx = true ∧ 2 ^ (8 * n - 1) ≤
        leNat (m0.mem.readParts m0.cur.die ps) then ofI ((leNat (m0.mem.readParts m0.cur.die ps) : ℤ) - (2 ^ (8 * n) : ℕ))
      else toW (leNat (m0.mem.readParts m0.cur.die ps)))) :
    loadV n sx d a k m = writeLoaded d v (m0.mem.markParts m0.cur.die ps) m0 := by
  rw [← extend_eq sx (leNat_readParts_lt hr)] at hv
  subst hv hm hva
  simp only [loadV, act_bind, ha, siAddr_eq, readV_ok hr hb]
  rfl

theorem storeV_eq (hd : readG d m = .ok (v, m1)) (ha : readG a m1 = .ok (x, m2)) (hva : va = ofI (x.toInt + k.toInt * n)) :
    storeV n d a k m = writeV m2.cur.insnNow 2 va (leBytes n v.toNat) m2 := by
  simp only [storeV, act_bind, hd, ha, act_getC, siAddr_eq, hva]

/-- R158, R376: a failure of a weak store that is neither a range fault nor a broken lease is held. -/
theorem writeV_held {insn : Word} {slot : ℕ} {bytes : List Byte} {t : Trap} (hr : m.resolveCont va bytes.length .write = .fail t)
    (h1 : t.cause ≠ 0x3001) (h5 : t.cause ≠ 0x3005) : writeV insn slot va bytes m = .ok ((), m.withCur (m.cur.holdLate
      { trap := t, pc := m.cur.pc, insn := insn, slot := BitVec.ofNat 3 slot, eng := false })) := by
  simp only [writeV, hr, h1, h5, or_self, if_false]
  rfl

theorem writeV_precise {insn : Word} {slot : ℕ} {bytes : List Byte} {t : Trap}
    (hr : m.resolveCont va bytes.length .write = .fail t) (h : t.cause = 0x3001 ∨ t.cause = 0x3005) :
    writeV insn slot va bytes m = .error (.trap t) := by
  simp only [writeV, hr, if_pos h]

/-- R59, R160: a scratchpad load reads at its offset in the window. -/
theorem loadS_eq (ha : readG a m = .ok (x, m1)) (ho : o = (ofI (x.toInt + k.toInt * n)).toInt) :
    loadS n d a k m = if m1.cur.inWindow o n = true then
      writeLoaded d (toW (leNat ((m1.landOver o.toNat n).winRead (m1.landOver o.toNat n).cur o.toNat n)))
        ((m1.landOver o.toNat n).winMark (m1.landOver o.toNat n).cur o.toNat n) (m1.landOver o.toNat n)
      else .error (.trap { cause := 0x2002, faddr := ofI o }) := by
  simp only [loadS, act_bind, ha, siAddr_eq, ← ho, checkWin_eq]
  by_cases hw : m1.cur.inWindow o n = true
  · simp only [if_pos hw, act_modM, act_getM]
  · simp only [if_neg hw]

theorem storeS_eq (hd : readG d m = .ok (v, m1)) (ha : readG a m1 = .ok (x, m2)) (ho : o = (ofI (x.toInt + k.toInt * n)).toInt) :
    storeS n d a k m = if m2.cur.inWindow o n = true then
      .ok ((), (m2.landOver o.toNat n).winWrite (m2.landOver o.toNat n).cur o.toNat (leBytes n v.toNat) false)
      else .error (.trap { cause := 0x2002, faddr := ofI o }) := by
  simp only [storeS, act_bind, hd, ha, siAddr_eq, ← ho, writeS, checkWin_eq, length_leBytes]
  by_cases hw : m2.cur.inWindow o n = true
  · simp only [if_pos hw, act_modM]
  · simp only [if_neg hw]

theorem inWindow_iff {c : Cont} : c.inWindow o n = true ↔ 0 ≤ o ∧ o + n - 1 < c.winLimit := by
  simp only [Cont.inWindow, decide_eq_true_eq]; omega

end

end Sys2Proof.Machine
end

section
/-! PROOFS. Weak and scratchpad accesses (R59, R158 to R160). -/

namespace Sys2Proof.Machine

/-- Settles O10: every weak load is one form, and its value is below `2^(8n)`, so the two spellings of extension agree. -/
theorem weakLoads : Obligations.WeakLoads := by
  intro s gu d a k x m1 i n sx va ps v hr ha hi hva hres hb m0 hm hv
  rw [exec_weakLoad hi]
  have hload := loadV_eq (d := d) ha hva hres hb hm hv
  refine ⟨fun hmark m2 hd => ?_, fun g hmark hp h0 m2 hd => ?_⟩
  · rw [hmark] at hload
    exact runSlot_ok hr (hload.trans (writeLoaded_plain hd))
  · rw [hmark] at hload
    exact runSlot_ok hr (hload.trans (writeLoaded_marked hp h0 hd))

/-- Settles O11: every weak store and every scratchpad access is one form; what it answers follows its resolved range or its
window check. -/
theorem weakStoresAndScratchpad : Obligations.WeakStoresAndScratchpad := by
  refine ⟨fun s gu d a k v x m1 m2 i n va hr hd ha hi hva => ?_, fun s gu d a k n hr => ⟨?_, ?_⟩⟩
  · rw [exec_weakStore hi]
    have hstore := storeV_eq hd ha hva
    have hlen := length_leBytes n v.toNat
    refine ⟨fun ps hres hb => ?_, fun t hres h1 h5 _ => ?_, fun t hres h => ?_⟩
    · exact runSlot_ok hr (hstore.trans (writeV_ok (by rwa [hlen]) (by rwa [hlen])))
    · exact runSlot_ok hr (hstore.trans (writeV_held (by rwa [hlen]) h1 h5))
    · exact runSlot_trap hr (hstore.trans (writeV_precise (by rwa [hlen]) h))
  · intro x m1 o i ha ho hi
    rw [exec_spadLoad hi]
    have hload := loadS_eq (d := d) ha ho
    refine ⟨fun h0 hlt m0 hm => ?_, fun hout => ?_⟩
    · rw [if_pos (inWindow_iff.mpr ⟨h0, hlt⟩), ← hm] at hload
      refine ⟨fun hmark m2 hd => ?_, fun g hmark hp hne m2 hd => ?_⟩
      · rw [hmark] at hload
        exact runSlot_ok hr (hload.trans (writeLoaded_plain hd))
      · rw [hmark] at hload
        exact runSlot_ok hr (hload.trans (writeLoaded_marked hp hne hd))
    · rw [if_neg fun h => hout (inWindow_iff.mp h)] at hload
      exact runSlot_trap hr hload
  · intro v x m1 m2 o i hd ha ho hi
    rw [exec_spadStore hi]
    have hstore := storeS_eq hd ha ho
    refine ⟨fun h0 hlt hres m0 hm => ?_, fun hout => ?_⟩
    · have hres0 : m0.cur.resident = true := by
        obtain ⟨y, mx, hx⟩ := m2.landOver_cur o.toNat n
        rw [hm, hx]; exact hres
      rw [if_pos (inWindow_iff.mpr ⟨h0, hlt⟩), ← hm, Mach.winWrite_resident hres0] at hstore
      exact runSlot_ok hr hstore
    · rw [if_neg fun h => hout (inWindow_iff.mp h)] at hstore
      exact runSlot_trap hr hstore

end Sys2Proof.Machine
end

section
/-! SUPPORT. Strong operations and load-blocks, one rule for each way they end (R68, R90 to R92, R161 to R166). -/

namespace Sys2Proof.Machine

theorem markCheck_ok {m : Mach} {p : SigTarget} {n : ℕ} (x : Word) (h : m.placeMark p n = none) :
    markCheck p n x m = .ok ((), m) := by
  simp only [markCheck, act_bind, act_getM, h, act_pure]

theorem wide_eq (c : BitVec 3) : wide c = decide (3 ≤ c.toNat) := rfl

section
variable {s : State} {gu : Guard} {d a b : GF} {e : Bool} {z : BitVec 2} {c : BitVec 3} {p : SigTarget} {n : ℕ}
  {x y : Word} {m1 m2 m3 : Mach}

theorem exec_ldacq (hr : s.Ready gu .a) (hn : n = 2 ^ z.toNat) (ha : readG a s.m = .ok (x, m1))
    (hs : m1.strongReady c e n x .read p) (hm : m2 = (m1.placeLand p n).placePrep m1.cur.die p n false [])
    (hk : m2.placeMark p n = none)
    (hd : writeG d (toW (leNat (m2.placeRead p n))) (m2.placeAcquire m2.cur.die p n) = .ok ((), m3)) :
    exec (.ldacq gu d a e z c) s = .next (s.complete m3) := by
  obtain ⟨hc, hcheck, hplace, himp⟩ := hs
  subst hn
  refine runSlot_ok (u := ()) hr ?_
  simp only [act_bind, checkScope_ok hc, ha, hcheck, hplace, reportPoint_none himp, act_modM, ← hm, markCheck_ok x hk, act_getM, hd]

theorem exec_strel (hr : s.Ready gu .a) (hn : n = 2 ^ z.toNat) (ha : readG a s.m = .ok (x, m1)) (hb : readG b m1 = .ok (y, m2))
    (hc : c.toNat < 5) (hcheck : strongCheck e n x m1 = .ok ((), m1)) (hplace : strongPlace e n x .write m2 = .ok (p, m2))
    (himp : m2.cur.imprecise = none) (hset : m2.cur.settled) (hm : m3 = m2.performed m2.cur.id) :
    exec (.strel gu a b e z c) s = .next (s.complete
      ((m3.placePrep m3.cur.die p n (decide (3 ≤ c.toNat)) m3.cur.past).placeWrite m3.cur.die p (leBytes n y.toNat))) := by
  subst hn hm
  refine runSlot_ok (u := ()) hr ?_
  simp only [act_bind, checkScope_ok hc, ha, hcheck, hb, hplace, reportPoint_none himp, awaitFills_ok hset, act_performEarlier,
    act_modM, wide_eq]

theorem exec_fence_orders {f : BitVec 4} (hr : s.Ready gu .a) (hc : c.toNat < 5) (himp : s.m.cur.imprecise = none)
    (he : f.getLsbD 0 = true ∨ f.getLsbD 1 = true) (hl : f.getLsbD 2 = true ∨ f.getLsbD 3 = true)
    (hset : f.getLsbD 0 = true → s.m.cur.settled) (hm : m1 = s.m.performed s.m.cur.id) :
    exec (.fence gu c f) s = .next (s.complete
      (if f.getLsbD 1 = true ∧ f.getLsbD 2 = true ∧ 3 ≤ c.toNat then m1.withMem (m1.mem.spread m1.cur.die) else m1)) := by
  subst hm
  have hboth : ((f.getLsbD 0 || f.getLsbD 1) && (f.getLsbD 2 || f.getLsbD 3)) = true := by
    simp only [Bool.and_eq_true, Bool.or_eq_true]; exact ⟨he, hl⟩
  have hwide : (f.getLsbD 1 && f.getLsbD 2 && wide c) = true ↔ f.getLsbD 1 = true ∧ f.getLsbD 2 = true ∧ 3 ≤ c.toNat := by
    simp only [wide_eq, Bool.and_eq_true, decide_eq_true_eq, and_assoc]
  refine runSlot_ok (u := ()) hr ?_
  cases h0 : f.getLsbD 0
  · simp only [h0] at hboth
    simp only [act_bind, checkScope_ok hc, reportPoint_none himp, if_pos hboth, Bool.false_eq_true, if_false,
      act_performEarlier, act_modM, hwide]
    rfl
  · simp only [h0] at hboth
    simp only [act_bind, checkScope_ok hc, reportPoint_none himp, if_pos hboth, if_true, awaitFills_ok (hset h0),
      act_performEarlier, act_modM, hwide]
    rfl

theorem exec_fence_empty {f : BitVec 4} (hr : s.Ready gu .a) (hc : c.toNat < 5) (himp : s.m.cur.imprecise = none)
    (h : f.getLsbD 0 = false ∧ f.getLsbD 1 = false ∨ f.getLsbD 2 = false ∧ f.getLsbD 3 = false) :
    exec (.fence gu c f) s = .next (s.complete s.m) := by
  have hnone : ((f.getLsbD 0 || f.getLsbD 1) && (f.getLsbD 2 || f.getLsbD 3)) = false := by
    rcases h with ⟨h0, h1⟩ | ⟨h0, h1⟩ <;> simp only [h0, h1, Bool.or_false, Bool.and_false, Bool.false_and]
  refine runSlot_ok (u := ()) hr ?_
  simp only [act_bind, checkScope_ok hc, reportPoint_none himp, hnone, Bool.false_eq_true, if_false, act_pure]

theorem exec_fence_scope {f : BitVec 4} (hr : s.Ready gu .a) (hc : 5 ≤ c.toNat) : exec (.fence gu c f) s =
    .next (s.takeTrap { cause := 0x1008 } (s.m.cur.slotNow .a) (toW (encode (.fence gu c f)))) :=
  runSlot_trap hr (by simp only [act_bind, checkScope_bad (not_lt.mpr hc)])
end

/-! ### Atomics (R163) -/

theorem sext_mod (k v : ℕ) : sext k (v % 2 ^ k) = sext k v := by simp only [sext, Nat.mod_mod]

/-- The pattern of a sign-extended number is the number. -/
theorem sext_pattern {k v : ℕ} (hv : v < 2 ^ k) : (sext k v % (2 ^ k : ℕ)).toNat = v := by
  simp only [sext, Nat.mod_eq_of_lt hv]
  split
  · rw [Int.emod_eq_of_lt (by omega) (by exact_mod_cast hv), Int.toNat_natCast]
  · rw [Int.sub_emod_right, Int.emod_eq_of_lt (by omega) (by exact_mod_cast hv), Int.toNat_natCast]

theorem min_pattern {k x y : ℕ} (hx : x < 2 ^ k) (hy : y < 2 ^ k) :
    (if sext k x < sext k y then x else y) = (min (sext k x) (sext k y) % (2 ^ k : ℕ)).toNat := by
  rw [min_def_lt]; split
  · exact (sext_pattern hx).symm
  · exact (sext_pattern hy).symm

theorem max_pattern {k x y : ℕ} (hx : x < 2 ^ k) (hy : y < 2 ^ k) :
    (if sext k x < sext k y then y else x) = (max (sext k x) (sext k y) % (2 ^ k : ℕ)).toNat := by
  rw [max_def_lt]; split
  · exact (sext_pattern hy).symm
  · exact (sext_pattern hx).symm

/-- The value an atomic writes is the one of its operation on the operands' low bytes. -/
theorem amoNew_value (op : StrongOp) {n old : ℕ} (uns : Bool) (v cmp : ℕ) (h : old < 2 ^ (8 * n)) :
    (amoNew op n uns old v cmp).1 = amoSpec n uns old (v % 2 ^ (8 * n)) (cmp % 2 ^ (8 * n)) op := by
  have hv : v % 2 ^ (8 * n) < 2 ^ (8 * n) := Nat.mod_lt _ (Nat.two_pow_pos _)
  cases op
  case add => simp only [amoNew, amoSpec, Nat.add_mod_mod]
  case min =>
    cases uns
    · simp only [amoNew, amoSpec, Bool.false_eq_true, if_false, decide_eq_true_eq]
      rw [← min_pattern h hv, sext_mod]
    · simp only [amoNew, amoSpec, if_true, decide_eq_true_eq, min_def_lt]
  case max =>
    cases uns
    · simp only [amoNew, amoSpec, Bool.false_eq_true, if_false, decide_eq_true_eq]
      rw [← max_pattern h hv, sext_mod]
    · simp only [amoNew, amoSpec, if_true, decide_eq_true_eq, max_def_lt]
  all_goals rfl

/-- AMOCAS alone uses its comparand. -/
theorem amoNew_comparand {op : StrongOp} (hop : op ≠ .cas) (n : ℕ) (uns : Bool) (old v k k' : ℕ) :
    amoNew op n uns old v k = amoNew op n uns old v k' := by
  cases op
  case cas => exact absurd rfl hop
  all_goals rfl

/-- AMOFADD alone has events. -/
theorem amoNew_events (op : StrongOp) (n : ℕ) (old v k : ℕ) (uns : Bool) :
    (amoNew op n uns old v k).2 = if op = .fadd then (amoNew .fadd n false old v 0).2 else 0 := by
  cases op <;> rfl

theorem exec_amo {s : State} {gu : Guard} {d a b : GF} {e w uns : Bool} {c : BitVec 3} {i : Instr} {op : StrongOp}
    (h : (i, op, uns) ∈ [(Instr.amoadd gu d a b e w c, .add, false), (.amoand gu d a b e w c, .and, false),
      (.amoor gu d a b e w c, .or, false), (.amoxor gu d a b e w c, .xor, false),
      (.amomin gu d a b e uns w c, .min, uns), (.amomax gu d a b e uns w c, .max, uns),
      (.amoswp gu d a b e w c, .swp, false), (.amocas gu d a b e w c, .cas, false),
      (.amofadd gu d a b e w c, .fadd, false)]) :
    exec i s = runSlot i .a (some gu) (amo op d a b e uns w c) s := by
  simp only [List.mem_cons, Prod.mk.injEq, List.not_mem_nil, or_false] at h
  obtain ⟨rfl, rfl, rfl⟩ | ⟨rfl, rfl, rfl⟩ | ⟨rfl, rfl, rfl⟩ | ⟨rfl, rfl, rfl⟩ | ⟨rfl, rfl, -⟩ | ⟨rfl, rfl, -⟩ |
    ⟨rfl, rfl, rfl⟩ | ⟨rfl, rfl, rfl⟩ | ⟨rfl, rfl, rfl⟩ := h
  all_goals rfl

/-- The comparand AMOCAS reads first; the other atomics read none. -/
def amoComparand (op : StrongOp) (d : GF) : Act Word := if op = .cas then readG d else pure 0

theorem amoComparand_ok {op : StrongOp} {d : GF} {m m1 : Mach} {z : Word}
    (h : if op = .cas then readG d m = .ok (z, m1) else m1 = m) :
    ∃ k, amoComparand op d m = .ok (k, m1) ∧ ∀ n uns old v, amoNew op n uns old v k.toNat = amoNew op n uns old v z.toNat := by
  by_cases hop : op = .cas
  · rw [if_pos hop] at h
    exact ⟨z, by rw [amoComparand, if_pos hop, h], fun _ _ _ _ => rfl⟩
  · rw [if_neg hop] at h
    exact ⟨0, by rw [amoComparand, if_neg hop, h]; rfl, fun n uns old v => amoNew_comparand hop n uns old v _ _⟩

/-- R91, R163: an atomic reads the old value at the home, writes the new one there, and answers the old one. -/
theorem amo_ok {d a b : GF} {e w uns : Bool} {c : BitVec 3} {op : StrongOp} {p : SigTarget} {n old : ℕ} {x y z : Word}
    {m m1 m2 m3 m4 m5 m6 m7 : Mach} (hc : c.toNat < 5) (hn : n = if w then 8 else 4)
    (hz : if op = .cas then readG d m = .ok (z, m1) else m1 = m) (ha : readG a m1 = .ok (x, m2))
    (hcheck : strongCheck e n x m2 = .ok ((), m2)) (hb : readG b m2 = .ok (y, m3))
    (hplace : strongPlace e n x .write m3 = .ok (p, m3)) (himp : m3.cur.imprecise = none) (hset : m3.cur.settled)
    (hm4 : m4 = m3.performed m3.cur.id) (hm5 : m5 = m4.placePrep m4.cur.die p n (decide (3 ≤ c.toNat)) m4.cur.past)
    (hk : m5.placeMark p n = none) (hold : old = leNat (m5.placeRead p n)) (hlt : old < 2 ^ (8 * n))
    (hm6 : m6 = (match amoSpec n uns old (y.toNat % 2 ^ (8 * n)) (z.toNat % 2 ^ (8 * n)) op with
      | some v => m5.placeWrite m5.cur.die p (leBytes n v)
      | none => m5)) (hd : writeG d (toW old) (m6.placeAcquire m6.cur.die p n) = .ok ((), m7)) :
    amo op d a b e uns w c m = .ok ((), m7.withCur (m7.cur.setFlags 2 (if op = .fadd then
      (amoNew .fadd n false old y.toNat 0).2 else 0) false m7.cur.pc)) := by
  obtain ⟨k, hk0, hkz⟩ := amoComparand_ok hz
  rw [amoComparand] at hk0
  rw [← amoNew_value op uns y.toNat z.toNat hlt, ← hkz] at hm6
  rw [← amoNew_events op n old y.toNat k.toNat uns]
  subst hm4
  rw [← wide_eq] at hm5
  cases hv : (amoNew op n uns old y.toNat k.toNat).1 with
  | none =>
    obtain rfl : m6 = m5 := by rw [hm6, hv]
    simp only [amo, act_bind, checkScope_ok hc, ← hn, hk0, ha, hcheck, hb, hplace, reportPoint_none himp, awaitFills_ok hset,
      act_performEarlier, act_modM, ← hm5, markCheck_ok x hk, act_getM, ← hold, hv, hd]
    rfl
  | some v =>
    obtain rfl : m6 = m5.placeWrite m5.cur.die p (leBytes n v) := by rw [hm6, hv]
    simp only [amo, act_bind, checkScope_ok hc, ← hn, hk0, ha, hcheck, hb, hplace, reportPoint_none himp, awaitFills_ok hset,
      act_performEarlier, act_modM, ← hm5, markCheck_ok x hk, act_getM, ← hold, hv, hd]
    rfl

/-! ### Load-blocks (R68, R165, R166) -/

section
variable {s : State} {gu : Guard} {k : BitVec 3} {o : LoadBlock} {free : Bool} {m : Mach}

theorem blockBack_absent (h : vget m.cur.blocks k.toNat none = none) : blockBack k free m = .ok ((), m) := by
  simp only [blockBack, act_bind, act_getC, h, act_pure]

theorem blockBack_filled (h : vget m.cur.blocks k.toNat none = some o) (hf : o.filled = true) :
    blockBack k free m = .ok ((), m.releaseBlock m.cur.id k.toNat free) := by
  simp only [blockBack, act_bind, act_getC, h, act_awaitIf, hf, Bool.not_true, Bool.false_eq_true, if_false, act_modM]

theorem blockBack_unfilled (h : vget m.cur.blocks k.toNat none = some o) (hf : o.filled = false) :
    blockBack k free m = .error .wait := by
  simp only [blockBack, act_bind, act_getC, h, act_awaitIf, hf, Bool.not_false, if_true]

/-- The fields of LDBLK's third operand (R165). -/
theorem ldblk_fields {y : Word} {off len : ℕ} (hoff : off = y.toNat % 2 ^ 23) (hlen : len = 64 * (y.toNat / 2 ^ 32 % 2 ^ 6 + 1))
    (h23 : y.toNat / 2 ^ 23 % 2 ^ 9 = 0) (h38 : y.toNat / 2 ^ 38 = 0) :
    bits y.toNat 22 0 = off ∧ 64 * (bits y.toNat 37 32 + 1) = len ∧ bits y.toNat 31 23 = 0 ∧ bits y.toNat 63 38 = 0 := by
  simp only [bits, Nat.shiftRight_eq_div_pow, h38, Nat.zero_mod, and_true]
  exact ⟨by omega, by omega, h23⟩

end

end Sys2Proof.Machine
end

section
/-! PROOFS. Strong operations and load-blocks (R68, R91, R92, R162 to R166). -/

namespace Sys2Proof.Machine

/-- Settles O12: each instruction runs through its checks to the one access it makes. -/
theorem acquireReleaseFences : Obligations.AcquireReleaseFences := by
  refine ⟨fun s gu d a b e z c p n hr hn => ⟨?_, ?_⟩, fun s gu c f hr => ⟨fun hc himp => ⟨?_, ?_⟩, ?_⟩⟩
  · exact fun x m1 m2 ha hs hm hk m3 hd => exec_ldacq hr hn ha hs hm hk hd
  · exact fun x y m1 m2 m3 ha hb hc hcheck hplace himp hset hm => exec_strel hr hn ha hb hc hcheck hplace himp hset hm
  · exact fun he hl hset m1 hm => exec_fence_orders hr hc himp he hl hset hm
  · exact exec_fence_empty hr hc himp
  · exact exec_fence_scope hr

/-- Settles O13: every atomic is one form; its new value is taken from the operands' low bytes. -/
theorem atomics : Obligations.Atomics := by
  intro s gu d a b e w c p n x y z m1 m2 m3 m4 m5 old i op uns hr hc hn hz ha hcheck hb hplace himp hset hm4 hm5 hk hold hi hlt m6 m7
    hm6 hd
  rw [exec_amo hi]
  exact runSlot_ok hr (amo_ok hc hn hz ha hcheck hb hplace himp hset hm4 hm5 hk hold hlt hm6 hd)

/-- Settles O14: LDBLK's checks pass up to the id; BLKWB and BLKREL look at the block alone. -/
theorem loadBlocks : Obligations.LoadBlocks := by
  intro s gu d a b k hr
  refine ⟨?_, fun h => ?_, fun o h => ⟨fun hf => ?_, fun hf => ?_⟩⟩
  · intro v x y m1 m2 m3 off len hd ha hb hoff hlen hx hoff8 hc1 hc2 hwin h23 h38
    obtain ⟨f1, f2, f3, f4⟩ := ldblk_fields hoff hlen h23 h38
    have hw : m3.cur.inWindow (off : ℤ) 8 = true := by simp only [Cont.inWindow, decide_eq_true_eq]; omega
    refine ⟨fun hfree ps hres => runSlot_ok (u := ()) hr ?_, fun o hlive => runSlot_trap hr ?_⟩
    · simp only [act_bind, hd, ha, act_raiseIf, hx, hb, f1, f2, f3, f4, hoff8, hc1, hc2, checkWin_eq, hw, ne_eq,
        not_true_eq_false, decide_false, Bool.false_eq_true, if_false, or_self, Bool.not_true, Bool.or_self, if_true, act_getM, Int.toNat_natCast,
        hfree, hres, Option.isSome_none]
      rfl
    · simp only [act_bind, hd, ha, act_raiseIf, hx, hb, f1, f2, f3, f4, hoff8, hc1, hc2, checkWin_eq, hw, ne_eq,
        not_true_eq_false, decide_false, Bool.false_eq_true, if_false, or_self, Bool.not_true, Bool.or_self, if_true, act_getM, Int.toNat_natCast,
        hlive, Option.isSome_some]
  · exact ⟨runSlot_ok hr (blockBack_absent h), runSlot_ok hr (blockBack_absent h)⟩
  · exact ⟨runSlot_ok hr (blockBack_filled h hf), runSlot_ok hr (blockBack_filled h hf)⟩
  · exact ⟨runSlot_wait hr (blockBack_unfilled h hf), runSlot_wait hr (blockBack_unfilled h hf)⟩

end Sys2Proof.Machine
end

section
/-! SUPPORT. The ways a translation ends, and the answer of a lease query (R73, R167, R168). -/

namespace Sys2Proof.Machine

section
variable {m m1 m2 : Mach} {a : GF} {w : Bool} {n : BitVec 2} {x : Word} {t : Task} {dest : Option GF}

/-- A translation that stands behind no earlier one of its register, and behind no write of its destination (R73, R128). -/
def Cont.freeTx (c : Cont) (n : BitVec 2) (dest : Option GF) : Prop :=
  ((vget c.tx n.toNat {}).pend.any fun p => !p.again) = false ∧ (dest.any fun d => c.awaits d) = false

theorem Cont.freeTx_of {c : Cont} (h : ∀ q, (vget c.tx n.toNat {}).pend = some q → q.again = true)
    (hd : ∀ d, dest = some d → c.awaits d = false) : c.freeTx n dest := by
  refine ⟨?_, ?_⟩
  · cases hp : (vget c.tx n.toNat {}).pend with
    | none => rfl
    | some q => simp [h q hp]
  · cases hx : dest with
    | none => rfl
    | some d => simp [hd d hx]

/-- R167: a heap-window address gives the register its word at once. -/
theorem xlt_heap (ha : readG a m = .ok (x, m1)) (hf : m1.cur.freeTx n dest) (hm : m2 = m1.withCur (m1.cur.dropTx n.toNat))
    (ht : m2.task? m2.cur.task = some t) (hc : canonical x = true) {pa : ℕ} {wr : Bool} {word : Word} {m3 : Mach}
    (hword : word = toW (2 ^ 63 + 2 ^ 62 + 3 * 2 ^ 60 + pa))
    (hx : m2.xlateTask m2.cur.die t x (if w then .write else .read) = .ok pa wr 3)
    (hw : (match dest with
      | some d => writeG d word
      | none => pure () : Act Unit) (m2.withCur (m2.cur.setTx n.toNat { word := word, va := x, wantWrite := w })) = .ok ((), m3)) :
    xlt dest a w n m = .ok ((), m3) := by
  subst hword
  have hdrop : ({ m1 with cur := m1.cur.dropTx n.toNat } : Mach) = m2 := hm.symm
  simp only [xlt, act_bind, ha, act_getC, act_awaitIf, hf.1, hf.2, Bool.false_eq_true, if_false, act_modC, hdrop, act_getM, hc,
    Bool.not_true, ht, hx, if_true]
  exact hw

/-- R73, R167: a page's word comes with its translation. -/
theorem xlt_page (ha : readG a m = .ok (x, m1)) (hf : m1.cur.freeTx n dest) (hm : m2 = m1.withCur (m1.cur.dropTx n.toNat))
    (ht : m2.task? m2.cur.task = some t) (hc : canonical x = true) {pa : ℕ} {sz : BitVec 2} {wr : Bool} (hsz : sz ≠ 3)
    (hx : m2.xlateTask m2.cur.die t x (if w then .write else .read) = .ok pa wr sz) {q : TxPend}
    (hq : q = { pa := pa, size := sz, wr := wr, rd := m2.mayRead m2.cur.die t x, dest := dest, pc := m1.cur.pc
                insn := m1.cur.insnNow }) :
    xlt dest a w n m = .ok ((), m2.withCur (m2.cur.setTx n.toNat { va := x, wantWrite := w, pend := some q })) := by
  subst hq
  have hdrop : ({ m1 with cur := m1.cur.dropTx n.toNat } : Mach) = m2 := hm.symm
  simp only [xlt, act_bind, ha, act_getC, act_awaitIf, hf.1, hf.2, Bool.false_eq_true, if_false, act_modC, hdrop, act_getM, hc,
    Bool.not_true, ht, hx, if_neg hsz]
  rfl

/-- R73: a translation whose range drains is done again. -/
theorem xlt_drains (ha : readG a m = .ok (x, m1)) (hf : m1.cur.freeTx n dest) (hm : m2 = m1.withCur (m1.cur.dropTx n.toNat))
    (ht : m2.task? m2.cur.task = some t) (hc : canonical x = true)
    (hx : m2.xlateTask m2.cur.die t x (if w then .write else .read) = .wait) {q : TxPend}
    (hq : q = { pa := 0, size := 0, wr := false, redo := true, dest := dest, pc := m1.cur.pc, insn := m1.cur.insnNow }) :
    xlt dest a w n m = .ok ((), m2.withCur (m2.cur.setTx n.toNat { va := x, wantWrite := w, pend := some q })) := by
  subst hq
  have hdrop : ({ m1 with cur := m1.cur.dropTx n.toNat } : Mach) = m2 := hm.symm
  simp only [xlt, act_bind, ha, act_getC, act_awaitIf, hf.1, hf.2, Bool.false_eq_true, if_false, act_modC, hdrop, act_getM, hc,
    Bool.not_true, ht, hx]
  rfl

/-- R73: a failure leaves the register invalid. -/
theorem xlt_fails (ha : readG a m = .ok (x, m1)) (hf : m1.cur.freeTx n dest) (hm : m2 = m1.withCur (m1.cur.dropTx n.toNat))
    (ht : m2.task? m2.cur.task = some t) (hc : canonical x = true) {c : Cause} {i : ℕ}
    (hx : m2.xlateTask m2.cur.die t x (if w then .write else .read) = .fail c i) :
    xlt dest a w n m = .error (.trapTx { cause := c, faddr := x, info := toW i, walk := c == 0x3006 } n.toNat) := by
  have hdrop : ({ m1 with cur := m1.cur.dropTx n.toNat } : Mach) = m2 := hm.symm
  simp only [xlt, act_bind, ha, act_getC, act_awaitIf, hf.1, hf.2, Bool.false_eq_true, if_false, act_modC, hdrop, act_getM, hc,
    Bool.not_true, ht, hx]

theorem xlt_noncanonical (ha : readG a m = .ok (x, m1)) (hf : m1.cur.freeTx n dest) (hc : canonical x = false) :
    xlt dest a w n m = .error (.trapTx { cause := 0x3001, faddr := x } n.toNat) := by
  simp only [xlt, act_bind, ha, act_getC, act_awaitIf, hf.1, hf.2, Bool.false_eq_true, if_false, act_modC, act_getM, hc,
    Bool.not_false, if_true]
end

/-- The first leased range of the task's list that holds an address (R168). -/
def Task.leaseAt (u : Task) (x : Word) : Option Region :=
  if u.leased && canonical x then u.fp.find? fun r => decide (r.base.toNat ≤ x.toNat ∧ x.toNat < r.base.toNat + r.len) else none

theorem exec_leaseq {s : State} {gu : Guard} {d a : GF} {x v : Word} {m1 m3 : Mach} {u : Task} (hr : s.Ready gu .a)
    (ha : readG a s.m = .ok (x, m1)) (hu : m1.task? m1.cur.task = some u)
    (hv : v = (match u.leaseAt x with
      | some r => toW (2 ^ 63 + (if r.wr then 2 ^ 62 else 0) + (if r.ren then 2 ^ 61 else 0) +
        (r.base.toNat + r.len - x.toNat) % 2 ^ 56)
      | none => 0)) (hd : writeG d v m1 = .ok ((), m3)) : exec (.leaseq gu d a) s = .next (s.complete m3) := by
  refine runSlot_ok (u := ()) hr ?_
  have hat' : (if (u.leased && canonical x) = true then
      u.fp.find? fun r => decide (r.base.toNat ≤ x.toNat ∧ x.toNat < r.base.toNat + r.len) else none) = u.leaseAt x := rfl
  simp only [act_bind, ha, act_getM, hu, Option.bind_some, hat']
  cases hat : u.leaseAt x with
  | none => rw [hv, hat] at hd; simpa only [oneBit] using hd
  | some r => rw [hv, hat] at hd; simpa only [oneBit] using hd

end Sys2Proof.Machine
end

section
/-! PROOFS. Translations and leases (R71, R73, R167, R168). -/

namespace Sys2Proof.Machine

/-- Settles O15: XLT and XLTP differ in their destination alone; a lease query looks at its task's footprint. -/
theorem translationAndLeases : Obligations.TranslationAndLeases := by
  intro s gu d a l w n x m1 m2 t hr ha hm ht hq
  have hx := Cont.freeTx_of (dest := none) hq fun d h => by cases h
  have hp : m1.cur.awaits d = false → m1.cur.freeTx n (some d) := fun hd =>
    Cont.freeTx_of hq fun e h => by cases h; exact hd
  refine ⟨fun hc pa wr hxl => ?_, fun hc pa wr sz hsz hxl q hqd => ?_, fun hc hxl q hqd => ?_, fun hc f i hxl => ?_, fun hc => ?_,
    fun u hu => ⟨fun r m3 hl hc hfind hd => ?_, fun m3 hnone hd => ?_⟩⟩
  · exact ⟨runSlot_ok hr (xlt_heap ha hx hm ht hc rfl hxl rfl), fun m3 hd hw => runSlot_ok hr (xlt_heap ha (hp hd) hm ht hc rfl hxl hw)⟩
  · subst hqd
    exact ⟨runSlot_ok hr (xlt_page ha hx hm ht hc hsz hxl rfl), fun hd => runSlot_ok hr (xlt_page ha (hp hd) hm ht hc hsz hxl rfl)⟩
  · subst hqd
    exact ⟨runSlot_ok hr (xlt_drains ha hx hm ht hc hxl rfl), fun hd => runSlot_ok hr (xlt_drains ha (hp hd) hm ht hc hxl rfl)⟩
  · exact runSlot_trapTx hr (xlt_fails ha hx hm ht hc hxl)
  · exact runSlot_trapTx hr (xlt_noncanonical ha hx hc)
  · have hat : u.leaseAt x = some r := by rw [Task.leaseAt, hl, hc]; exact hfind
    exact exec_leaseq hr ha hu (by rw [hat]) hd
  · have hat : u.leaseAt x = none := by
      rw [Task.leaseAt]
      rcases hnone with h | h | h
      · rw [h]; rfl
      · rw [h, Bool.and_false]; rfl
      · split
        · exact List.find?_eq_none.mpr fun r hr => by simpa using h r hr
        · rfl
    exact exec_leaseq hr ha hu (by rw [hat]) hd

end Sys2Proof.Machine
end

section
/-! SUPPORT. Stream bindings, address generators, ring views and the enqueue operation (R62, R63, R169 to R174). -/

namespace Sys2Proof.Machine

/-! ### Ring views (R62, R63) -/

theorem ringOcc_eq (v : BitVec 128) : ringOcc v = (v.toNat / 2 ^ 43 % 2 ^ 8 + 256 - v.toNat / 2 ^ 35 % 2 ^ 8) % 256 := by
  simp only [ringOcc, ringTail, ringHead, bits, Nat.shiftRight_eq_div_pow]

theorem ringHead_ringPop (v : BitVec 128) (n : ℕ) : ringHead (ringPop v n) = (ringHead v + n) % 256 := by
  have hv := v.isLt
  simp only [ringPop, ringHead, putBits, bits, Nat.shiftRight_eq_div_pow, BitVec.toNat_ofNat]
  omega

theorem ringTail_ringPop (v : BitVec 128) (n : ℕ) : ringTail (ringPop v n) = ringTail v := by
  have hv := v.isLt
  simp only [ringPop, ringTail, putBits, bits, Nat.shiftRight_eq_div_pow, BitVec.toNat_ofNat]
  omega

theorem ringTail_ringPush (v : BitVec 128) (n : ℕ) : ringTail (ringPush v n) = (ringTail v + n) % 256 := by
  have hv := v.isLt
  simp only [ringPush, ringTail, putBits, bits, Nat.shiftRight_eq_div_pow, BitVec.toNat_ofNat]
  omega

theorem ringOcc_ringPop (v : BitVec 128) {n : ℕ} (hn : n ≤ ringOcc v) : ringOcc (ringPop v n) = ringOcc v - n := by
  have ht : ringTail v < 256 := Nat.mod_lt _ (by decide)
  have hh : ringHead v < 256 := Nat.mod_lt _ (by decide)
  simp only [ringOcc, ringHead_ringPop, ringTail_ringPop] at *
  omega

theorem ringWritten_getLsbD (v : BitVec 128) {k : ℕ} (hk : k < 128) :
    (ringWritten v).getLsbD k = (v.getLsbD k && decide (k < 52 ∨ (64 ≤ k ∧ k < 87))) := by
  have h1 := putBits_testBit (putBits v.toNat 63 52 0) 0 87 k (n := 41) (by decide)
  have h2 := putBits_testBit v.toNat 0 52 k (n := 12) (by decide)
  rw [ringWritten, BitVec.getLsbD_ofNat, decide_eq_true hk, Bool.true_and]
  refine h1.trans ?_
  rw [show putBits v.toNat 63 52 0 = putBits v.toNat (52 + 12 - 1) 52 0 from rfl, h2, Nat.zero_testBit, Nat.zero_testBit]
  by_cases ha : 87 ≤ k ∧ k < 87 + 41
  · rw [if_pos ha, decide_eq_false (by omega), Bool.and_false]
  · rw [if_neg ha]
    by_cases hb : 52 ≤ k ∧ k < 52 + 12
    · rw [if_pos hb, decide_eq_false (by omega), Bool.and_false]
    · rw [if_neg hb, decide_eq_true (by omega), Bool.and_true]; rfl

theorem vset_vget_self {α : Type} {n k : ℕ} (v : Vector α n) (d : α) (hk : k < n) : vset v k (vget v k d) = v := by
  have hget : vget v k d = v[k] := by
    rw [vget, List.getD_eq_getElem?_getD, List.getElem?_eq_getElem (by simpa using hk)]; simp
  refine Vector.ext fun i hi => ?_
  rw [hget, vset, Vector.getElem_setIfInBounds]
  split
  next h => subst h; rfl
  next => rfl

/-- A ring view moves without its consume position. -/
theorem Cont.setRing_view (c : Cont) {q : ℕ} (v : BitVec 128) (hq : q < 16) :
    ({ c with mx := { c.mx with rings := vset c.mx.rings q v } } : Cont) = c.setRing q v (vget c.mx.cpos q 0) := by
  rw [Cont.setRing, vset_vget_self _ _ hq]

/-! ### Streams and address generators (R169, R170, R174) -/

section
variable {s : State} {gu : Guard} {a b d : GF} {n : BitVec 3} {k : BitVec 11} {x y o : Word} {m0 m1 m2 m3 : Mach}

theorem sbind_window (h0 : 0 ≤ o.toInt) : o.toInt.toNat = o.toNat := by
  have := o.isLt
  rw [BitVec.toInt_eq_toNat_cond] at h0 ⊢
  split at h0
  next h => rw [if_pos h]; rfl
  next h => omega

theorem exec_sbind_ok {rec : List Byte} (hr : s.Ready gu .a) (ha : readG a s.m = .ok (x, m0)) (ho : o = ofI (x.toInt + k.toInt * 64))
    (hm : m1 = m0.landOver o.toNat 64) (hrec : rec = m1.winRead m1.cur o.toNat 64) (hal : o.toNat % 64 = 0) (h0 : 0 ≤ o.toInt)
    (hlim : o.toInt + 64 ≤ m0.cur.winLimit) (hok : streamOk rec = true) (hmark : m1.winMark m1.cur o.toNat 64 = none) :
    exec (.sbind gu n a k) s = .next (s.complete (m1.withCur (m1.cur.setStream n.toNat (some (StreamRec.ofBytes rec))))) := by
  have hsi : siAddr x k 64 = o := (siAddr_eq x k 64).trans ho.symm
  have hw : m0.cur.inWindow o.toInt 64 = true := by simp only [Cont.inWindow, decide_eq_true_eq]; omega
  refine runSlot_ok (u := ()) hr ?_
  simp only [act_bind, ha, hsi, act_raiseIf, hal, ne_eq, not_true_eq_false, decide_false, Bool.false_eq_true, if_false, checkWin_eq,
    hw, if_true, act_modM, act_getM, sbind_window h0, ← hm, ← hrec, hok, Bool.not_true, hmark]
  rfl

theorem exec_sbind_bad {rec : List Byte} (hr : s.Ready gu .a) (ha : readG a s.m = .ok (x, m0)) (ho : o = ofI (x.toInt + k.toInt * 64))
    (hm : m1 = m0.landOver o.toNat 64) (hrec : rec = m1.winRead m1.cur o.toNat 64) (hal : o.toNat % 64 = 0) (h0 : 0 ≤ o.toInt)
    (hlim : o.toInt + 64 ≤ m0.cur.winLimit) (hok : streamOk rec = false) :
    exec (.sbind gu n a k) s = .next (s.takeTrap { cause := 0x2003 } (s.m.cur.slotNow .a) (toW (encode (.sbind gu n a k)))) := by
  have hsi : siAddr x k 64 = o := (siAddr_eq x k 64).trans ho.symm
  have hw : m0.cur.inWindow o.toInt 64 = true := by simp only [Cont.inWindow, decide_eq_true_eq]; omega
  refine runSlot_trap hr ?_
  simp only [act_bind, ha, hsi, act_raiseIf, hal, ne_eq, not_true_eq_false, decide_false, Bool.false_eq_true, if_false, checkWin_eq,
    hw, if_true, act_modM, act_getM, sbind_window h0, ← hm, ← hrec, hok, Bool.not_false]

theorem exec_agset (hr : s.Ready gu .a) (ha : readG a s.m = .ok (x, m1))
    (hh : m1.slotHeld m1.cur.die (bits x.toNat 39 32) = false) :
    (∀ g, m1.bindAg m1.cur.die x = .ok g → exec (.agset gu n a) s = .next (s.complete (m1.withCur (m1.cur.setAg n.toNat g)))) ∧
    (∀ t, m1.bindAg m1.cur.die x = .error t → exec (.agset gu n a) s = .next
      (s.takeTrap t (s.m.cur.slotNow .a) (toW (encode (.agset gu n a))))) := by
  refine ⟨fun g hg => runSlot_ok (u := ()) hr ?_, fun t ht => runSlot_trap hr ?_⟩
  · simp only [act_bind, ha, act_getM, act_awaitIf, hh, Bool.false_eq_true, if_false, hg]; rfl
  · simp only [act_bind, ha, act_getM, act_awaitIf, hh, Bool.false_eq_true, if_false, ht]; rfl

theorem exec_agadv (hr : s.Ready gu .a) (ha : readG a s.m = .ok (x, m1))
    (hh : m1.slotHeld m1.cur.die (bits (vget m1.cur.ag n.toNat {}).w1.toNat 39 32) = false) :
    (∀ g, m1.advanceAg m1.cur.die (vget m1.cur.ag n.toNat {}) (sext 32 x.toNat + k.toInt) = .ok g →
      exec (.agadv gu n a k) s = .next (s.complete (m1.withCur (m1.cur.setAg n.toNat g)))) ∧
    (∀ t, m1.advanceAg m1.cur.die (vget m1.cur.ag n.toNat {}) (sext 32 x.toNat + k.toInt) = .error t →
      exec (.agadv gu n a k) s = .next (s.takeTrap t (s.m.cur.slotNow .a) (toW (encode (.agadv gu n a k))))) := by
  refine ⟨fun g hg => runSlot_ok (u := ()) hr ?_, fun t ht => runSlot_trap hr ?_⟩
  · simp only [act_bind, ha, act_getM, act_awaitIf, hh, Bool.false_eq_true, if_false, hg]; rfl
  · simp only [act_bind, ha, act_getM, act_awaitIf, hh, Bool.false_eq_true, if_false, ht]; rfl
end

/-! ### Ring instructions (R171, R202) -/

section
variable {s : State} {gu : Guard} {a b d : GF} {q : BitVec 4} {n : BitVec 8} {h r : Bool} {x y : Word} {v : BitVec 128}
  {m1 m2 m3 : Mach}

theorem needClaim_ok {m : Mach} (h : m.cur.claim = true) : needClaim m = .ok ((), m) := by rw [needClaim_eq, if_pos h]

theorem needClaim_trap {m : Mach} (h : m.cur.claim = false) : needClaim m = .error (.trap { cause := 0x1006 }) := by
  rw [needClaim_eq, h]; rfl

/-- No command or job still uses a ring (R171, R202). -/
theorem ring_unused (hcmd : ∀ k ∈ m2.cur.mx.array ++ m2.cur.mx.tq1, q.toNat ∉ k.reads)
    (hjob : ∀ j ∈ m2.jobs, j.cont = m2.cur.id → j.st = .landed ∨ Card.radv j.card = false ∨ Card.ringq j.card ≠ q.toNat) :
    ((m2.cur.mx.array ++ m2.cur.mx.tq1).any fun k => k.reads.contains q.toNat) = false ∧
    (m2.jobs.any fun j => j.cont == m2.cur.id && decide (j.st ≠ .landed) && Card.radv j.card && Card.ringq j.card == q.toNat) = false := by
  refine ⟨List.any_eq_false.mpr fun k hk => by simpa using hcmd k hk, List.any_eq_false.mpr fun j hj hall => ?_⟩
  simp only [Bool.and_eq_true, beq_iff_eq, decide_eq_true_eq] at hall
  obtain ⟨⟨⟨hc, hst⟩, hradv⟩, hring⟩ := hall
  rcases hjob j hj hc with h | h | h
  · exact hst h
  · rw [h] at hradv; exact Bool.false_ne_true hradv
  · exact h hring

theorem exec_qinit (hr : s.Ready gu .a) (hcl : s.m.cur.claim = true) (ha : readG a s.m = .ok (x, m1)) (hb : readG b m1 = .ok (y, m2))
    (hv : v = BitVec.ofNat 128 (x.toNat + 2 ^ 64 * y.toNat)) (hok : v.getLsbD 51 = true → ringOk m2.cur v = true)
    (hcmd : ∀ k ∈ m2.cur.mx.array ++ m2.cur.mx.tq1, q.toNat ∉ k.reads)
    (hjob : ∀ j ∈ m2.jobs, j.cont = m2.cur.id → j.st = .landed ∨ Card.radv j.card = false ∨ Card.ringq j.card ≠ q.toNat) :
    exec (.qinit gu q a b) s = .next (s.complete
      (m2.withCur (m2.cur.setRing q.toNat (ringWritten v) (BitVec.ofNat 8 (ringHead v))))) := by
  obtain ⟨hcmd', hjob'⟩ := ring_unused hcmd hjob
  rw [Nat.mul_comm] at hv
  have hok' : (ringValid v && !(ringOk m2.cur v)) = false := by
    cases hvalid : ringValid v
    · rfl
    · rw [hok hvalid]; rfl
  refine runSlot_ok (u := ()) hr ?_
  simp only [act_bind, needClaim_ok hcl, ha, hb, act_getC, ← hv, act_raiseIf, hok', act_getM, act_awaitIf, hcmd', hjob',
    Bool.false_eq_true, if_false]
  rfl

theorem exec_qstat (hr : s.Ready gu .a) (hcl : s.m.cur.claim = true) (hv : v = vget s.m.cur.mx.rings q.toNat 0)
    (hd : writeG d (if h then v.extractLsb' 64 64 else v.extractLsb' 0 64) s.m = .ok ((), m1)) :
    exec (.qstat gu d q h) s = .next (s.complete m1) := by
  have hword : (if h then (v >>> 64).setWidth 64 else v.setWidth 64) = if h then v.extractLsb' 64 64 else v.extractLsb' 0 64 := by
    cases h
    · exact BitVec.setWidth_eq_extractLsb' (by decide)
    · apply BitVec.eq_of_toNat_eq
      simp [BitVec.extractLsb'_toNat]
  refine runSlot_ok (u := ()) hr ?_
  simp only [act_bind, needClaim_ok hcl, act_getC, ← hv, hword, hd]

theorem exec_qadv_head (hr : s.Ready gu .a) (hcl : s.m.cur.claim = true) (hv : v = vget s.m.cur.mx.rings q.toNat 0)
    (hm : m1 = s.m.performed s.m.cur.id) (hn : n.toNat ≤ ringOcc v) :
    exec (.qadv gu q 0 false true n) s = .next (s.complete (m1.withCur (m1.cur.setRing q.toNat
      (ringPop v n.toNat) (consumeAfter v (vget m1.cur.mx.cpos q.toNat 0) n.toNat)))) := by
  refine runSlot_ok (u := ()) hr ?_
  simp only [act_bind, needClaim_ok hcl, act_pure, act_getC, ← hv, if_true, Bool.false_eq_true, if_false, act_raiseIf,
    decide_eq_true_eq, if_neg (not_lt.mpr hn), act_performEarlier, act_modC, ← hm]
  rfl

theorem exec_qadv_head_trap (hr : s.Ready gu .a) (hcl : s.m.cur.claim = true) (hv : v = vget s.m.cur.mx.rings q.toNat 0)
    (hn : ringOcc v < n.toNat) : exec (.qadv gu q 0 false true n) s = .next
      (s.takeTrap { cause := 0x2007 } (s.m.cur.slotNow .a) (toW (encode (.qadv gu q 0 false true n)))) := by
  refine runSlot_trap hr ?_
  simp only [act_bind, needClaim_ok hcl, act_pure, act_getC, ← hv, if_true, Bool.false_eq_true, if_false, act_raiseIf,
    decide_eq_true_eq, if_pos hn]

theorem exec_qadv_tail (hr : s.Ready gu .a) (hcl : s.m.cur.claim = true) (hv : v = vget s.m.cur.mx.rings q.toNat 0)
    (hm : m1 = s.m.performed s.m.cur.id) (hn : ringOcc v + n.toNat ≤ ringCount v) :
    exec (.qadv gu q 0 false false n) s = .next (s.complete
      (m1.withCur (m1.cur.setRing q.toNat (ringPush v n.toNat) (vget m1.cur.mx.cpos q.toNat 0)))) := by
  refine runSlot_ok (u := ()) hr ?_
  simp only [act_bind, needClaim_ok hcl, act_pure, act_getC, ← hv, Bool.false_eq_true, if_false, act_raiseIf, decide_eq_true_eq,
    if_neg (not_lt.mpr hn), act_performEarlier, act_modC, ← hm, ← Cont.setRing_view _ _ q.isLt]
  rfl

theorem exec_qadv_tail_trap (hr : s.Ready gu .a) (hcl : s.m.cur.claim = true) (hv : v = vget s.m.cur.mx.rings q.toNat 0)
    (hn : ringCount v < ringOcc v + n.toNat) : exec (.qadv gu q 0 false false n) s = .next
      (s.takeTrap { cause := 0x2008 } (s.m.cur.slotNow .a) (toW (encode (.qadv gu q 0 false false n)))) := by
  refine runSlot_trap hr ?_
  simp only [act_bind, needClaim_ok hcl, act_pure, act_getC, ← hv, Bool.false_eq_true, if_false, act_raiseIf, decide_eq_true_eq,
    if_pos hn]

theorem exec_qadv_rows (hr : s.Ready gu .a) (hcl : s.m.cur.claim = true) (ha : readG a s.m = .ok (x, m1))
    (hv : v = vget m1.cur.mx.rings q.toNat 0) (hn : ringOcc v + n.toNat ≤ ringCount v) (hm : m2 = m1.performed m1.cur.id)
    (hp : putRowCounts v (x.setWidth 8) n.toNat (ringTail v) m2 = .ok ((), m3)) :
    exec (.qadv gu q a true false n) s = .next (s.complete
      (m3.withCur (m3.cur.setRing q.toNat (ringPush v n.toNat) (vget m3.cur.mx.cpos q.toNat 0)))) := by
  refine runSlot_ok (u := ()) hr ?_
  simp only [act_bind, needClaim_ok hcl, ha, act_getC, ← hv, if_true, Bool.false_eq_true, if_false, act_raiseIf, decide_eq_true_eq,
    if_neg (not_lt.mpr hn), act_performEarlier, act_modC, ← hm, hp, ← Cont.setRing_view _ _ q.isLt]
  rfl

theorem exec_ring_unclaimed (hr : s.Ready gu .a) (hcl : s.m.cur.claim = false) :
    ∀ i ∈ [Instr.qinit gu q a b, .qstat gu d q h, .qadv gu q a r h n],
      exec i s = .next (s.takeTrap { cause := 0x1006 } (s.m.cur.slotNow .a) (toW (encode i))) := by
  simp only [List.forall_mem_cons, List.not_mem_nil, false_implies, implies_true, and_true]
  exact ⟨runSlot_trap hr (by simp only [act_bind, needClaim_trap hcl]), runSlot_trap hr (by simp only [act_bind, needClaim_trap hcl]),
    runSlot_trap hr (by simp only [act_bind, needClaim_trap hcl])⟩
end

/-! ### The enqueue operation (R172, R173) -/

section
variable {s : State} {gu : Guard} {d a b : GF} {c : BitVec 3} {x y : Word} {m1 m2 m3 m4 : Mach} {p : SigTarget} {desc : List Byte}
  {size : ℕ}

/-- The operands of WENQ are in order, up to the descriptor, which is read at its home after everything earlier (R172, R358). -/
structure WenqReads (s : State) (gu : Guard) (a b : GF) (c : BitVec 3) (x y : Word) (m4 : Mach) (p : SigTarget) (desc : List Byte)
    (size : ℕ) : Prop where
  scope : c.toNat < 5
  operands : ∃ m1 m2, readG a s.m = .ok (x, m1) ∧ readG b m1 = .ok (y, m2) ∧ y.toNat + 64 ≤ m2.cur.winLimit ∧
    m2.cur.touchesBlock x.toNat 64 = false ∧ strongPlace false 64 x .read m2 = .ok (p, m2) ∧ m2.cur.imprecise = none ∧
    m2.cur.settled ∧
    m4 = (m2.performed m2.cur.id).placePrep (m2.performed m2.cur.id).cur.die p 64 true (m2.performed m2.cur.id).cur.past
  aligned : x.toNat % 64 = 0 ∧ y.toNat % 64 = 0 ∧ canonical x = true ∧ y.toNat < 2 ^ 23
  unmarked : m4.placeMark p 64 = none
  read : desc = m4.placeRead p 64
  size_eq : size = leAt desc 8 4

theorem inWindow_nat {k : Cont} {o n : ℕ} : k.inWindow (o : ℤ) n = decide (o + n ≤ k.winLimit) := by
  simp only [Cont.inWindow]; congr 1; apply propext; omega

theorem exec_wenq_window (hr : s.Ready gu .a) (h : WenqReads s gu a b c x y m4 p desc size) (hw : m4.cur.winLimit < y.toNat + size) :
    exec (.wenq gu d a b c) s = .next
      (s.takeTrap { cause := 0x2002, faddr := y } (s.m.cur.slotNow .a) (toW (encode (.wenq gu d a b c)))) := by
  obtain ⟨hc, ⟨m1, m2, ha, hb, hlim, htouch, hplace, himp, hset, hm⟩, ⟨hx, hy, hcan, hylt⟩, hmark, hread, hsize⟩ := h
  have hy' : y.toNat % 2 ^ 23 % 64 = 0 := by omega
  refine runSlot_trap hr ?_
  simp only [act_bind, checkScope_ok hc, ha, act_raiseIf, hx, hy', hb, ne_eq, not_true_eq_false, decide_false, Bool.false_eq_true,
    if_false, hcan, Bool.not_true, decide_eq_false (not_le.mpr hylt), checkWin_eq, inWindow_nat, decide_eq_true hlim, if_true, act_getC,
    htouch, hplace, reportPoint_none himp, awaitFills_ok hset, act_performEarlier, act_modM, ← hm, markCheck_ok x hmark,
    act_getM, ← hread, ← hsize, decide_eq_false (not_le.mpr hw), ofI_natCast, toW_toNat]

theorem exec_wenq_bad (hr : s.Ready gu .a) (h : WenqReads s gu a b c x y m4 p desc size) (hw : y.toNat + size ≤ m4.cur.winLimit)
    (hok : wqOk desc = false) : exec (.wenq gu d a b c) s = .next
      (s.takeTrap { cause := 0x2003 } (s.m.cur.slotNow .a) (toW (encode (.wenq gu d a b c)))) := by
  obtain ⟨hc, ⟨m1, m2, ha, hb, hlim, htouch, hplace, himp, hset, hm⟩, ⟨hx, hy, hcan, hylt⟩, hmark, hread, hsize⟩ := h
  have hy' : y.toNat % 2 ^ 23 % 64 = 0 := by omega
  refine runSlot_trap hr ?_
  simp only [act_bind, checkScope_ok hc, ha, act_raiseIf, hx, hy', hb, ne_eq, not_true_eq_false, decide_false, Bool.false_eq_true,
    if_false, hcan, Bool.not_true, decide_eq_false (not_le.mpr hylt), checkWin_eq, inWindow_nat, decide_eq_true hlim, if_true, act_getC,
    htouch, hplace, reportPoint_none himp, awaitFills_ok hset, act_performEarlier, act_modM, ← hm, markCheck_ok x hmark,
    act_getM, ← hread, ← hsize, decide_eq_true hw, hok, Bool.not_false]

theorem exec_wenq_full (hr : s.Ready gu .a) (h : WenqReads s gu a b c x y m4 p desc size) (hw : y.toNat + size ≤ m4.cur.winLimit)
    (hok : wqOk desc = true) {tail : SigTarget} (htail : strongPlace false 8 (x + 16) .write m4 = .ok (tail, m4))
    (hfull : ((leAt desc 12 4 : ℕ) : ℤ) ≤ ((toW (leAt desc 16 8)).toNat : ℤ) - leAt desc 24 8) {m5 : Mach}
    (hd : writeG d (BitVec.allOnes 64) (m4.placeAcquire m4.cur.die p 64) = .ok ((), m5)) :
    exec (.wenq gu d a b c) s = .next (s.complete m5) := by
  obtain ⟨hc, ⟨m1, m2, ha, hb, hlim, htouch, hplace, himp, hset, hm⟩, ⟨hx, hy, hcan, hylt⟩, hmark, hread, hsize⟩ := h
  have hy' : y.toNat % 2 ^ 23 % 64 = 0 := by omega
  refine runSlot_ok (u := ()) hr ?_
  simp only [act_bind, checkScope_ok hc, ha, act_raiseIf, hx, hy', hb, ne_eq, not_true_eq_false, decide_false, Bool.false_eq_true,
    if_false, hcan, Bool.not_true, decide_eq_false (not_le.mpr hylt), checkWin_eq, inWindow_nat, decide_eq_true hlim, if_true, act_getC,
    htouch, hplace, reportPoint_none himp, awaitFills_ok hset, act_performEarlier, act_modM, ← hm, markCheck_ok x hmark,
    act_getM, ← hread, ← hsize, decide_eq_true hw, hok, htail, if_pos hfull, hd]

theorem exec_wenq_room (hr : s.Ready gu .a) (h : WenqReads s gu a b c x y m4 p desc size) (hw : y.toNat + size ≤ m4.cur.winLimit)
    (hok : wqOk desc = true) {tail : SigTarget} (htail : strongPlace false 8 (x + 16) .write m4 = .ok (tail, m4))
    (hroom : ((toW (leAt desc 16 8)).toNat : ℤ) - leAt desc 24 8 < (leAt desc 12 4 : ℕ)) {ps : List (ℕ × ℕ)} {m5 m6 m7 : Mach}
    (hres : m4.resolveCont (toW (leAt desc 0 8) + toW ((toW (leAt desc 16 8)).toNat % leAt desc 12 4 * size)) size .write = .ok ps)
    (hwm : m4.winMark m4.cur y.toNat size = none)
    (hm5 : m5 = m4.withMem (m4.mem.writeParts m4.cur.die ps (m4.winRead m4.cur y.toNat size) false))
    (hm6 : m6 = (m5.placePrep m5.cur.die tail 8 true m5.cur.past).placeWrite m5.cur.die tail
      (leBytes 8 ((toW (leAt desc 16 8)).toNat + 1)))
    (hd : writeG d (toW (leAt desc 16 8)) (m6.placeAcquire m6.cur.die p 64) = .ok ((), m7)) :
    exec (.wenq gu d a b c) s = .next (s.complete m7) := by
  obtain ⟨hc, ⟨m1, m2, ha, hb, hlim, htouch, hplace, himp, hset, hm⟩, ⟨hx, hy, hcan, hylt⟩, hmark, hread, hsize⟩ := h
  have hy' : y.toNat % 2 ^ 23 % 64 = 0 := by omega
  subst hm6 hm5
  refine runSlot_ok (u := ()) hr ?_
  simp only [act_bind, checkScope_ok hc, ha, act_raiseIf, hx, hy', hb, ne_eq, not_true_eq_false, decide_false, Bool.false_eq_true,
    if_false, hcan, Bool.not_true, decide_eq_false (not_le.mpr hylt), checkWin_eq, inWindow_nat, decide_eq_true hlim, if_true, act_getC,
    htouch, hplace, reportPoint_none himp, awaitFills_ok hset, act_performEarlier, act_modM, ← hm, markCheck_ok x hmark,
    act_getM, ← hread, ← hsize, decide_eq_true hw, hok, htail, if_neg (not_le.mpr hroom), Int.toNat_natCast, hres, hwm]
  exact hd
end

end Sys2Proof.Machine
end

section
/-! PROOFS. Streams, address generators, rings and work queues (R62, R63, R169 to R174). -/

namespace Sys2Proof.Machine

/-- Settles O16: one rule for each way an instruction ends; the ring views' arithmetic is of their fields. -/
theorem streamsGeneratorsRings : Obligations.StreamsGeneratorsRings := by
  refine ⟨fun s gu a n k hr => ⟨?_, ?_, ?_, ?_⟩, fun s gu a b d q n h r hr => ⟨fun hcl => ⟨?_, ?_, ?_, ?_⟩, ?_, ?_⟩, ?_⟩
  · exact fun x m0 m1 o rec ha ho hm hrec hal h0 hlim => ⟨fun hok hmark => exec_sbind_ok hr ha ho hm hrec hal h0 hlim hok hmark,
      fun hok => exec_sbind_bad hr ha ho hm hrec hal h0 hlim hok⟩
  · exact runSlot_ok (u := ()) (a := modC fun c => c.setStream n.toNat none) hr rfl
  · exact fun x m1 ha hh => exec_agset hr ha hh
  · exact fun x m1 ha hh => exec_agadv hr ha hh
  · exact fun x y m1 m2 v ha hb hv hok hcmd hjob => exec_qinit hr hcl ha hb hv hok hcmd hjob
  · exact fun v m1 hv hd => exec_qstat hr hcl hv hd
  · rintro v m1 c1 hv hm rfl
    exact ⟨exec_qadv_head hr hcl hv hm, exec_qadv_head_trap hr hcl hv, exec_qadv_tail hr hcl hv hm, exec_qadv_tail_trap hr hcl hv⟩
  · exact fun x m1 v m2 m3 ha hv hn hm hp => exec_qadv_rows hr hcl ha hv hn hm hp
  · exact exec_ring_unclaimed hr
  · exact fun v => ⟨ringOcc_eq v, ringHead_ringPop v n.toNat, ringTail_ringPush v n.toNat, fun k hk => ringWritten_getLsbD v hk,
      ringOcc_ringPop v⟩
  · rintro s gu d a b c x y m1 m2 m3 m4 p desc size cap t hd hr hc ha hx hb hy hcan hylt hlim htouch hplace himp hset rfl hm hmark
      hread hsize
    have h : WenqReads s gu a b c x y m4 p desc size :=
      ⟨hc, ⟨m1, m2, ha, hb, hlim, htouch, hplace, himp, hset, hm⟩, ⟨hx, hy, hcan, hylt⟩, hmark, hread, hsize⟩
    refine ⟨exec_wenq_window hr h, exec_wenq_bad hr h, ?_⟩
    rintro hok rfl rfl rfl hw tail htail
    exact ⟨fun hfull m5 hd => exec_wenq_full hr h hw hok htail hfull hd,
      fun hroom ps m5 m6 hres hwm hm5 hm6 m7 hd => exec_wenq_room hr h hw hok htail hroom hres hwm hm5 hm6 hd⟩

end Sys2Proof.Machine
end

section
/-! SUPPORT. The shared run of a vector command: what landing earlier commands changes, the checks, the operands, the issue of the
writes (R176 to R180). -/

namespace Sys2Proof.Machine

/-! ### What lands before an access -/

/-- The second machine is the first after some of the issuing continuation's own results have landed: memory, its flags and their
record, its commands in flight and its matrix state alone may differ (R86, R90, R179). -/
def Mach.Lands (m m' : Mach) : Prop :=
  ∃ x fl fe k ft vp mx, m' = { m with mem := x, cur := { m.cur with
    flags := fl, fev := fe, cursor := k, flagTrap := ft, vpend := vp, mx := mx } }

theorem Mach.Lands.refl (m : Mach) : m.Lands m := ⟨m.mem, _, _, _, _, _, _, rfl⟩

theorem Mach.Lands.trans {m m' m'' : Mach} (h : m.Lands m') (h' : m'.Lands m'') : m.Lands m'' := by
  obtain ⟨x, fl, fe, k, ft, vp, mx, rfl⟩ := h
  obtain ⟨x', fl', fe', k', ft', vp', mx', rfl⟩ := h'
  exact ⟨_, _, _, _, _, _, _, rfl⟩

theorem Cont.setFlags_lands (c : Cont) (slot ev : ℕ) (eng : Bool) (pc : BitVec 48) :
    ∃ fl fe k x, c.setFlags slot ev eng pc = { c with flags := fl, fev := fe, cursor := k, flagTrap := x } := by
  by_cases hev : ev = 0
  · exact ⟨_, _, _, _, if_pos hev⟩
  · obtain ⟨k, x, h, -⟩ := c.setFlags_eq slot eng pc hev
    exact ⟨_, _, _, _, h⟩

theorem Mach.landV_lands (m : Mach) {c : Cont} (v : VPend) (h : c.id = m.cur.id) : m.Lands (m.landV c v) := by
  simp only [Mach.landV, Mach.cont?, Mach.setCont, h, beq_self_eq_true, if_true]
  obtain ⟨fl, fe, k, x, hs⟩ := m.cur.setFlags_lands 3 v.flags false v.pc
  rw [hs]
  simp only [beq_self_eq_true, if_true]
  exact ⟨_, _, _, _, _, _, _, rfl⟩

theorem Mach.landVs_lands {m m' : Mach} {c : Cont} (l : List VPend) (h : c.id = m.cur.id) (hm : m.Lands m') :
    m.Lands (l.foldl (fun m v => m.landV c v) m') := by
  induction l generalizing m' with
  | nil => exact hm
  | cons v l ih =>
    have hid : c.id = m'.cur.id := by obtain ⟨x, fl, fe, k, ft, vp, mx, rfl⟩ := hm; exact h
    exact ih (hm.trans (m'.landV_lands v hid))

theorem Mach.flushV_lands (m : Mach) : m.Lands (m.flushV m.cur.id) := by
  simp only [Mach.flushV, Mach.cont?, beq_self_eq_true, if_true]
  exact Mach.landVs_lands _ rfl (Mach.Lands.refl m)

theorem Mach.landDrains_lands (m : Mach) : m.Lands (m.landDrains m.cur.id) := by
  obtain ⟨x, mx, h⟩ := m.landDrains_cur
  rw [h]
  exact ⟨_, _, _, _, _, _, _, rfl⟩

theorem Mach.Lands.cur_id {m m' : Mach} (h : m.Lands m') : m'.cur.id = m.cur.id := by
  obtain ⟨x, fl, fe, k, ft, vp, mx, rfl⟩ := h; rfl

theorem Mach.performed_lands (m : Mach) : m.Lands (m.performed m.cur.id) := by
  have h := m.flushV_lands
  have hd := (m.flushV m.cur.id).landDrains_lands
  rw [h.cur_id] at hd
  exact h.trans hd

theorem Mach.flushOver_lands (m : Mach) (p : VPlan) : m.Lands (m.flushOver p) := by
  unfold Mach.flushOver
  split
  · exact m.performed_lands
  · exact Mach.Lands.refl m

theorem Mach.Lands.window {m m' : Mach} (h : m.Lands m') : m'.cur.winLimit = m.cur.winLimit := by
  obtain ⟨x, fl, fe, k, ft, vp, mx, rfl⟩ := h; rfl

theorem VReg.inside_window {r : VReg} {c c' : Cont} (h : c'.winLimit = c.winLimit) : r.inside c' = r.inside c := by
  unfold VReg.inside; rw [h]

theorem VPlan.passes_of_lands {p : VPlan} {m m' : Mach} (h : m.Lands m') (hp : p.passes m.cur) : p.passes m'.cur :=
  ⟨fun r hr => (VReg.inside_window h.window).trans (hp.1 r hr), hp.2⟩

/-! ### The run and the checks (R178) -/

section
variable {s : State} {gu : Guard} {l : Bool} {a b : GF} {n : ℕ} {v : VFmt} {g : VArg} {m m0 m1 : Mach} {p : VPlan}

/-- R178, R180, R200: a command on a nonzero VL runs its body on VL and the format it takes. -/
theorem vRun_ok {body : ℕ → VFmt → Act Unit} (hl : l = true → m.cur.claim = true) (hn : n = m.cur.vlNow.toNat) (h0 : n ≠ 0)
    (hv : v = vFmt m.fmtNow) : vRun l body m = body n v m := by
  subst hn hv
  cases l
  · simp only [vRun, act_bind, Bool.false_eq_true, if_false, act_pure, act_getC, act_takeFmt, if_neg h0]
  · simp only [vRun, act_bind, if_true, needClaim_ok (hl rfl), act_getC, act_takeFmt, if_neg h0]

/-- R178: a command on no elements does nothing. -/
theorem vRun_none {body : ℕ → VFmt → Act Unit} (hc : m.cur.claim = true) (h0 : m.cur.vlNow = 0) : vRun l body m = .ok ((), m) := by
  have hz : m.cur.vlNow.toNat = 0 := by rw [h0]; rfl
  cases l
  · simp only [vRun, act_bind, Bool.false_eq_true, if_false, act_pure, act_getC, act_takeFmt, if_pos hz]
  · simp only [vRun, act_bind, if_true, needClaim_ok hc, act_getC, act_takeFmt, if_pos hz, act_pure]

theorem State.vRuns.run (h : s.vRuns gu l a b n v g m) (body : ℕ → VFmt → Act Unit) : vRun l body s.m = body n v s.m :=
  vRun_ok h.2.1 h.2.2.1 h.2.2.2.1 h.2.2.2.2.1

theorem State.vRuns.ready (h : s.vRuns gu l a b n v g m) : s.Ready gu .v := h.1

theorem State.vRuns.args (h : s.vRuns gu l a b n v g m) : vArgs a b s.m = .ok (g, m) := h.2.2.2.2.2

theorem VPlan.passes.check (h : p.passes m.cur) : vCheck p m = .ok ((), m.flushOver p) := vCheck_ok h.1 h.2.1 h.2.2.1 h.2.2.2

theorem act_parkIf (q : Bool) (m : Mach) : parkIf q m = if q then .error .park else .ok ((), m) := by cases q <;> rfl

theorem duskCount_eq (v : VFmt) (m : Mach) : duskCount v m = .ok (m.draw v.dusk 32, m.drawn v.dusk) := by
  unfold duskCount Mach.draw Mach.drawn
  cases v.dusk
  · rfl
  · rfl
end

/-! ### Element-wise commands (R177, R179, R180) -/

/-- Where a destination's elements stand does not depend on what the latch or the free count holds. -/
theorem Mach.regionWrites_congr {m m' : Mach} (hg : m'.cur.gcore = m.cur.gcore) (hw : m'.cur.winBase = m.cur.winBase) (r : VReg)
    (vals : List ℕ) (poison : Bool) : m'.regionWrites r vals poison = m.regionWrites r vals poison := by
  simp only [Mach.regionWrites, hg, hw]

theorem Mach.takesA_region {m m' : Mach} {l : Bool} {w z n : ℕ} {xs : List ℕ} {mk : Bool} (h : m.takesA l w z n xs mk m') :
    m'.cur.gcore = m.cur.gcore ∧ m'.cur.winBase = m.cur.winBase := by
  cases l
  · obtain ⟨-, -, rfl⟩ := h; exact ⟨rfl, rfl⟩
  · obtain ⟨-, -, -, rfl⟩ := h; exact ⟨rfl, rfl⟩

theorem Mach.drawn_region (m : Mach) (on : Bool) : (m.drawn on).cur = m.cur := by
  unfold Mach.drawn; split <;> rfl

/-- R180: the elements of A and their mark, from the latch or from the region. -/
theorem takesA_ok {m m' : Mach} {l : Bool} {w z n : ℕ} {xs : List ℕ} {mk : Bool} (hz : z ≠ 0) (h : m.takesA l w z n xs mk m') :
    (if l then takeLatch n z else pure (if z = 0 then [] else m.region (vReg w z n), false) : Act (List ℕ × Bool)) m =
      .ok ((xs, if l then mk else false), m') := by
  cases l
  · obtain ⟨rfl, -, rfl⟩ := h
    simp only [Bool.false_eq_true, if_false, if_neg hz, act_pure]
  · obtain ⟨hlen, rfl, rfl, rfl⟩ := h
    simp only [if_true, takeLatch, act_bind, act_getC, act_parkIf, decide_eq_false (not_lt.mpr hlen), Bool.false_eq_true, if_false,
      act_modC, act_pure]
    rfl

/-- The mark of an element-wise command: of its latch or its region A, of its regions B and C (R381). -/
theorem VForm.marked_eq {f : VForm} {l : Bool} {g : VArg} {n : ℕ} {m : Mach} {mk : Bool} (hz : f.za ≠ 0)
    (h : l = false → mk = m.regionMarked (vReg g.a f.za n)) :
    ((if l then mk else false) || (f.plan l g n).srcs.any m.regionMarked) =
      (mk || (f.zb ≠ 0 && m.regionMarked (vReg g.b f.zb n)) || (f.zc ≠ 0 && m.regionMarked (vReg g.c f.zc n))) := by
  cases l
  · by_cases hb : f.zb = 0 <;> by_cases hc : f.zc = 0 <;> simp [VForm.plan, hz, hb, hc, h rfl, Bool.or_assoc]
  · by_cases hb : f.zb = 0 <;> by_cases hc : f.zc = 0 <;> simp [VForm.plan, hb, hc, Bool.or_assoc]

theorem getD_scalar {zc n c i : ℕ} {r zs : List ℕ} (h : zs = if zc = 0 then List.replicate n c else r) (hi : i < n) :
    (if zc = 0 then c else (if zc = 0 then [] else r).getD i 0) = zs.getD i 0 := by
  subst h; split
  · rw [List.getD_eq_getElem?_getD, List.getElem?_replicate_of_lt hi]; rfl
  · rfl

theorem Mach.expHeld_latch (m : Mach) (mx : Matrix) :
    (m.withCur { m.cur with mx := mx }).expHeld { m.cur with mx := mx } = m.expHeld m.cur := by
  have hrun : (m.withCur { m.cur with mx := mx }).seq { m.cur with mx := mx }.gcluster = m.seq m.cur.gcluster := rfl
  rw [Mach.expHeld, Mach.expHeld, hrun]
  cases (m.seq m.cur.gcluster).run with
  | none => rfl
  | some r =>
    by_cases h : (m.cur.id == r.cont) = true
    · simp only [Mach.cont?, Mach.withCur, h, if_true]; rfl
    · simp only [Mach.cont?, Mach.withCur, h]; rfl

/-- The sequencer's hold of an exponent engine does not look at a latch or a free count (R183, R264). -/
theorem Mach.takesA_expHeld {m m' : Mach} {l : Bool} {w z n : ℕ} {xs : List ℕ} {mk : Bool} (h : m.takesA l w z n xs mk m') :
    m'.expHeld m'.cur = m.expHeld m.cur := by
  cases l
  · obtain ⟨-, -, rfl⟩ := h; rfl
  · obtain ⟨-, -, -, rfl⟩ := h
    exact m.expHeld_latch _

theorem Mach.drawn_expHeld (m : Mach) (on : Bool) : (m.drawn on).expHeld (m.drawn on).cur = m.expHeld m.cur := by
  unfold Mach.drawn; split <;> rfl

/-- R179: a command that has its operands issues its writes. -/
theorem vElems_ok {s : State} {gu : Guard} {l hold : Bool} {a b : GF} {q : VFmt → VForm} {n : ℕ} {v : VFmt} {g : VArg}
    {xs ys zs : List ℕ} {mk : Bool} {dk : Option ℕ} {m : Mach} {f : VFmt → Option ℕ → ℕ → ℕ → ℕ → ℕ → Rounded}
    (h : s.vElements gu l a b q n v g xs ys zs mk dk m) (hh : hold = true → m.expHeld m.cur = false) :
    vElems l hold a b q f s.m = .ok ((), m.issueRegion (vReg g.d (q v).zd n)
      ((List.range n).map fun i => f v (dk.map (· + i)) i (xs.getD i 0) (ys.getD i 0) (zs.getD i 0)) mk 0) := by
  obtain ⟨m1, pa, m2, ⟨m0, hrun, hpass, hm1⟩, hok, hza, htake, hdk, hm, hys, hzs, hmk⟩ := h
  have hheld : (hold && m1.expHeld m1.cur) = false := by
    cases hold
    · rfl
    · rw [Bool.true_and, ← Mach.takesA_expHeld htake, ← m2.drawn_expHeld v.dusk, ← hm]; exact hh rfl
  have hregion : m.cur.gcore = m1.cur.gcore ∧ m.cur.winBase = m1.cur.winBase := by
    rw [hm, m2.drawn_region]; exact Mach.takesA_region htake
  have hpa : l = false → pa = m1.regionMarked (vReg g.a (q v).za n) := by rintro rfl; exact htake.2.1
  have hmark : ((if l then pa else false) || ((q v).plan l g n).srcs.any m1.regionMarked) = mk := by
    rw [VForm.marked_eq hza hpa, hmk]
  have hrs : (List.range n).map (fun i => f v (dk.map (· + i)) i (xs.getD i 0) (ys.getD i 0)
        (if (q v).zc = 0 then g.c else (if (q v).zc = 0 then [] else m1.region (vReg g.c (q v).zc n)).getD i 0)) =
      (List.range n).map fun i => f v (dk.map (· + i)) i (xs.getD i 0) (ys.getD i 0) (zs.getD i 0) :=
    List.map_congr_left fun i hi => by rw [getD_scalar hzs (List.mem_range.mp hi)]
  unfold vElems
  rw [hrun.run]
  have htake' := takesA_ok hza htake
  simp only [act_bind, act_raiseIf, hok, Bool.not_true, Bool.false_eq_true, if_false, hrun.args, hpass.check, ← hm1, act_getM,
    act_parkIf, hheld, htake', duskCount_eq, ← hys, ← hdk, ← hm, putV_ok, hmark, hrs, Mach.issueRegion,
    Mach.regionWrites_congr hregion.1 hregion.2]

/-- The result of an element-wise command whose elements do not look at their place. -/
theorem runSlot_vElems {s : State} {gu : Guard} {l hold : Bool} {a b : GF} {q : VFmt → VForm} {n : ℕ} {v : VFmt} {g : VArg}
    {xs ys zs : List ℕ} {mk : Bool} {dk : Option ℕ} {m : Mach} {f : VFmt → Option ℕ → ℕ → ℕ → ℕ → ℕ → Rounded} {i : Instr} {zd : ℕ}
    {F : Option ℕ → ℕ → ℕ → ℕ → Rounded} (h : s.vElements gu l a b q n v g xs ys zs mk dk m)
    (hf : ∀ j < n, ∀ d x y c, x = xs.getD j 0 → f v d j x y c = F d x y c) (hz : (q v).zd = zd)
    (hh : hold = true → m.expHeld m.cur = false) :
    runSlot i .v (some gu) (vElems l hold a b q f) s =
      .next (s.complete (m.issueRegion (vReg g.d zd n) (byElement dk n xs ys zs F) mk 0)) := by
  have hr : s.Ready gu .v := by obtain ⟨m1, pa, m2, ⟨m0, hrun, -⟩, -⟩ := h; exact hrun.ready
  have hmap : (List.range n).map (fun i => f v (dk.map (· + i)) i (xs.getD i 0) (ys.getD i 0) (zs.getD i 0)) =
      byElement dk n xs ys zs F :=
    List.map_congr_left fun j hj => hf j (List.mem_range.mp hj) _ _ _ _ rfl
  rw [← hmap, ← hz]
  exact runSlot_ok hr (vElems_ok h hh)

end Sys2Proof.Machine
end

section
/-! PROOFS. Vector length, moves and the order of the checks (R178, R181, R200, R358). -/

namespace Sys2Proof.Machine

section
variable {s : State} {gu : Guard} {a b : GF} {n : ℕ} {v : VFmt} {g : VArg} {m : Mach} {p : VPlan} {i : Instr}

/-- R181: VFILL issues VL copies of the low bytes of gb. -/
theorem exec_vfill {x y : Word} {m1 m2 m3 : Mach} {d : VReg} (hr : s.Ready gu .v) (hn : n = s.m.cur.vlNow.toNat) (h0 : n ≠ 0)
    (hv : v = vFmt s.m.fmtNow) (hok : vectorFmt v.vd = true) (ha : readG a s.m = .ok (x, m1)) (hb : readG b m1 = .ok (y, m2))
    (hd : d = vReg (x.toNat % 2 ^ 32) (elemBytes v.vd) n) (hx : x.toNat / 2 ^ 32 = 0) (hin : d.inside m2.cur = true)
    (hal : d.off % d.z = 0) (hst : d.stride ≠ 0 ∨ n = 1) (hm : m3 = m2.flushOver { srcs := [], dsts := [d] }) :
    exec (.vfill gu a b) s = .next (s.complete (m3.issueV
      (m3.regionWrites d (List.replicate n (y.toNat % 2 ^ (8 * elemBytes v.vd))) false) 0)) := by
  have hlow : bits x.toNat 31 0 = x.toNat % 2 ^ 32 := by simp [bits]
  have hhigh : bits x.toNat 63 32 = 0 := by simp only [bits, Nat.shiftRight_eq_div_pow, hx, Nat.zero_mod]
  have hbad : (decide (bits x.toNat 63 32 ≠ 0) || (d.stride == 0 && decide (1 < n))) = false := by
    rw [hhigh]
    rcases hst with h | h
    · simp [h]
    · simp [h]
  have hpass : (VPlan.mk [] [d] (decide (bits x.toNat 63 32 ≠ 0) || (d.stride == 0 && decide (1 < n))) false).passes m2.cur :=
    ⟨by simpa using hin, hbad, by simpa using hal, rfl⟩
  have hflush : m2.flushOver (VPlan.mk [] [d] (decide (bits x.toNat 63 32 ≠ 0) || (d.stride == 0 && decide (1 < n))) false) = m3 := by
    rw [hm]; rfl
  refine runSlot_ok (u := ()) hr ?_
  rw [fillWith, vRun_ok (fun h => absurd h Bool.false_ne_true) hn h0 hv]
  simp only [act_bind, act_raiseIf, hok, Bool.not_true, Bool.false_eq_true, if_false, ha, hb, hlow, ← hd, hpass.check, hflush, act_getM,
    putV_ok]

section
variable {l : Bool} {m : Mach} (hc : m.cur.claim = true) (h0 : m.cur.vlNow = 0)
include hc h0

theorem vElems_none {hold : Bool} {q : VFmt → VForm} {f : VFmt → Option ℕ → ℕ → ℕ → ℕ → ℕ → Rounded} :
    vElems l hold a b q f m = .ok ((), m) := vRun_none hc h0

theorem vTwo_none {f : Num → Num → Num × ℕ} : vTwo l a b f m = .ok ((), m) := vElems_none hc h0

theorem vScalar_none {f : Num → Num → Num × ℕ} : vScalar l a b f m = .ok ((), m) := vElems_none hc h0

theorem vFused_none {x : Bool} : vFused l x a b m = .ok ((), m) := vElems_none hc h0

theorem vPick_none {x : Bool} : vPick l x a b m = .ok ((), m) := vElems_none hc h0

theorem vSign_none {x : Bool} : vSign l x a m = .ok ((), m) := vElems_none hc h0

theorem vFunc_none {f : FuncOp} : vFunc l f a m = .ok ((), m) := by
  unfold vFunc
  exact vElems_none hc h0

theorem vWords_none {x : Bool} {size : VFmt → ℕ} {ok : VFmt → Bool} {f : ℕ → ℕ → ℕ → ℕ} :
    vWords a b x size ok f m = .ok ((), m) := vElems_none hc h0

theorem vReduce_none {useB : Bool} {ok : VFmt → Bool} {size : VFmt → ℕ} {f : VFmt → Option ℕ → List ℕ → List ℕ → Rounded} :
    vReduce a b useB ok size f m = .ok ((), m) := vRun_none hc h0
end

section
variable {l x : Bool} {cc : BitVec 3} (hr : s.Ready gu .v) (hc : s.m.cur.claim = true) (h0 : s.m.cur.vlNow = 0)
include hr hc h0

theorem exec_vl_zero_arithmetic : ∀ i ∈ [Instr.vmov gu a b l, .vfill gu a b, .vadd gu a b l, .vsub gu a b l, .vmul gu a b l,
    .vfma gu a b l, .vmin gu a b l, .vmax gu a b l, .vabs gu a l, .vneg gu a l, .vadds gu a b l, .vmuls gu a b l, .vfmas gu a b l],
    exec i s = .next (s.complete s.m) := by
  simp only [List.forall_mem_cons, List.not_mem_nil, false_implies, implies_true, and_true]
  exact ⟨runSlot_ok hr (vElems_none hc h0), runSlot_ok hr (vRun_none hc h0), runSlot_ok hr (vTwo_none hc h0),
    runSlot_ok hr (vTwo_none hc h0), runSlot_ok hr (vTwo_none hc h0), runSlot_ok hr (vFused_none hc h0),
    runSlot_ok hr (vPick_none hc h0), runSlot_ok hr (vPick_none hc h0), runSlot_ok hr (vSign_none hc h0),
    runSlot_ok hr (vSign_none hc h0), runSlot_ok hr (vScalar_none hc h0), runSlot_ok hr (vScalar_none hc h0),
    runSlot_ok hr (vFused_none hc h0)⟩

theorem exec_vl_zero_functions : ∀ i ∈ [Instr.vrcp gu a l, .vrsqrt gu a l, .vexp gu a l, .vlog gu a l, .vsin gu a l, .vcos gu a l,
    .vtanh gu a l, .vsig gu a l, .vsilu gu a l, .vgelu gu a l], exec i s = .next (s.complete s.m) := by
  simp only [List.forall_mem_cons, List.not_mem_nil, false_implies, implies_true, and_true]
  have done : ∀ (f : FuncOp) (i : Instr), runSlot i .v (some gu) (vFunc l f a) s = .next (s.complete s.m) :=
    fun f i => runSlot_ok hr (vFunc_none hc h0)
  exact ⟨done _ _, done _ _, done _ _, done _ _, done _ _, done _ _, done _ _, done _ _, done _ _, done _ _⟩

theorem exec_vl_zero_reductions : ∀ i ∈ [Instr.vcvt gu a l, .vqnt gu a b l, .vdq gu a b, .vcmp gu a b x cc, .vsel gu a b,
    .vrsum gu a, .vrmax gu a, .vargmax gu a, .vscan gu a, .vdot gu a b, .vperm gu a b, .vgath gu a b, .vscadd gu a b],
    exec i s = .next (s.complete s.m) := by
  simp only [List.forall_mem_cons, List.not_mem_nil, false_implies, implies_true, and_true]
  exact ⟨runSlot_ok hr (vElems_none hc h0), runSlot_ok hr (vRun_none hc h0), runSlot_ok hr (vRun_none hc h0),
    runSlot_ok hr (vElems_none hc h0), runSlot_ok hr (vElems_none hc h0), runSlot_ok hr (vReduce_none hc h0),
    runSlot_ok hr (vReduce_none hc h0), runSlot_ok hr (vReduce_none hc h0), runSlot_ok hr (vRun_none hc h0),
    runSlot_ok hr (vReduce_none hc h0), runSlot_ok hr (vRun_none hc h0), runSlot_ok hr (vRun_none hc h0),
    runSlot_ok hr (vRun_none hc h0)⟩

theorem exec_vl_zero_words : ∀ i ∈ [Instr.viadd gu a b x, .vand gu a b x, .vor gu a b x, .vxor gu a b x, .vshl gu a b x,
    .vshr gu a b l x, .vsmax gu a b, .vrmsn gu a b, .vrope gu a b x, .vmaskw gu a b l x, .tcwupd gu a b, .tcwcnt gu a],
    exec i s = .next (s.complete s.m) := by
  simp only [List.forall_mem_cons, List.not_mem_nil, false_implies, implies_true, and_true]
  exact ⟨runSlot_ok hr (vWords_none hc h0), runSlot_ok hr (vWords_none hc h0), runSlot_ok hr (vWords_none hc h0),
    runSlot_ok hr (vWords_none hc h0), runSlot_ok hr (vWords_none hc h0), runSlot_ok hr (vWords_none hc h0),
    runSlot_ok hr (vRun_none hc h0), runSlot_ok hr (vRun_none hc h0), runSlot_ok hr (vRun_none hc h0),
    runSlot_ok hr (vRun_none hc h0), runSlot_ok hr (vRun_none hc h0), runSlot_ok hr (vRun_none hc h0)⟩

/-- R178, R181: a vector command with VL = 0 does nothing, once its claim is checked. -/
theorem exec_vl_zero : ∀ i ∈ vlCommand gu a b l x cc, exec i s = .next (s.complete s.m) := by
  exact List.forall_mem_append.mpr ⟨List.forall_mem_append.mpr ⟨exec_vl_zero_arithmetic hr hc h0, exec_vl_zero_functions hr hc h0⟩,
    List.forall_mem_append.mpr ⟨exec_vl_zero_reductions hr hc h0, exec_vl_zero_words hr hc h0⟩⟩
end

/-- The element-wise commands of R182 on two regions. -/
theorem exec_twoRegions (hi : i ∈ [Instr.vadd gu a b false, .vsub gu a b false, .vmul gu a b false, .vmin gu a b false,
    .vmax gu a b false]) :
    ∃ f, exec i s = runSlot i .v (some gu) (vElems false false a b (arithForm true false false) f) s := by
  simp only [List.mem_cons, List.not_mem_nil, or_false] at hi
  obtain rfl | rfl | rfl | rfl | rfl := hi
  all_goals exact ⟨_, rfl⟩

variable {f : VFmt → Option ℕ → ℕ → ℕ → ℕ → ℕ → Rounded} {q : VFmt → VForm}

theorem vElems_badFormat (h : s.vRuns gu false a b n v g m) (hok : (q v).ok = false) :
    vElems false false a b q f s.m = .error (.trap { cause := 0x1007 }) := by
  unfold vElems
  rw [h.run]
  simp only [act_bind, act_raiseIf, hok, Bool.not_false, if_true]

theorem vElems_checks (h : s.vRuns gu false a b n v g m) (hok : (q v).ok = true) {e : Stop}
    (hc : vCheck ((q v).plan false g n) m = .error e) : vElems false false a b q f s.m = .error e := by
  unfold vElems
  rw [h.run]
  simp only [act_bind, act_raiseIf, hok, Bool.not_true, Bool.false_eq_true, if_false, h.args, hc]

theorem vRange_inside {r : List VReg} (h : ∀ x ∈ r, x.inside m.cur = true) : vRange r m = .ok ((), m) := by
  have hnone : r.find? (fun x => !(x.inside m.cur)) = none := List.find?_eq_none.mpr fun x hx => by simp [h x hx]
  simp only [vRange, act_bind, act_getC, hnone, act_pure]

theorem vRange_outside {r : List VReg} (h : ∃ x ∈ r, x.inside m.cur = false) :
    ∃ fa, vRange r m = .error (.trap { cause := 0x2002, faddr := fa }) := by
  obtain ⟨x, hx, hout⟩ := h
  cases hf : r.find? (fun x => !(x.inside m.cur)) with
  | none => exact absurd (List.find?_eq_none.mp hf x hx) (by simp [hout])
  | some y => exact ⟨_, by simp only [vRange, act_bind, act_getC, hf]; rfl⟩

theorem vCheck_outside (h : ∃ r ∈ p.dsts ++ p.srcs, r.inside m.cur = false) :
    ∃ fa, vCheck p m = .error (.trap { cause := 0x2002, faddr := fa }) := by
  obtain ⟨fa, hfa⟩ := vRange_outside h
  exact ⟨fa, by simp only [vCheck, act_bind, hfa]⟩

theorem vCheck_limits (hin : ∀ r ∈ p.dsts ++ p.srcs, r.inside m.cur = true)
    (h : p.bad = true ∨ ∃ r ∈ p.dsts ++ p.srcs, r.off % r.z ≠ 0) : vCheck p m = .error (.trap { cause := 0x2003 }) := by
  have hbad : (p.bad || (p.dsts ++ p.srcs).any fun r => !r.aligned) = true := by
    rcases h with h | ⟨r, hr, hal⟩
    · rw [h]; rfl
    · rw [Bool.or_eq_true]
      exact .inr (List.any_eq_true.mpr ⟨r, hr, by simp [VReg.aligned, hal]⟩)
  simp only [vCheck, act_bind, vRange_inside hin, act_raiseIf, hbad, if_true]

theorem vCheck_overlap (hin : ∀ r ∈ p.dsts ++ p.srcs, r.inside m.cur = true) (hbad : p.bad = false)
    (hal : ∀ r ∈ p.dsts ++ p.srcs, r.off % r.z = 0) (hclash : p.clash = true) :
    vCheck p m = .error (.trap { cause := 0x2005 }) := by
  have hgood : (p.bad || (p.dsts ++ p.srcs).any fun r => !r.aligned) = false := by
    rw [hbad, Bool.false_or, List.any_eq_false]
    intro r hr
    simp [VReg.aligned, hal r hr]
  simp only [vCheck, act_bind, vRange_inside hin, act_raiseIf, hgood, Bool.false_eq_true, if_false, hclash, if_true]
end

/-- Settles O17: VMOV is element-wise, VFILL issues copies, a zero length stops before the body, and the checks fail in the order
they are made. -/
theorem vectorLengthMoveFill : Obligations.VectorLengthMoveFill := by
  refine ⟨fun s gu a b l => ⟨?_, ?_, ?_, ?_, ?_, ?_⟩, ?_, ?_⟩
  · exact fun k hr => runSlot_ok (u := ()) (a := modC fun c => c.setVl k) hr rfl
  · intro x m1 hr ha
    refine runSlot_ok (u := ()) hr ?_
    simp only [act_bind, ha, act_modC, ← min_def_lt]
    rfl
  · refine fun c k => ⟨rfl, ?_, rfl⟩
    show (if c.groupNow = c.groupNow then c.vlNow else k) = c.vlNow
    exact if_pos rfl
  · exact fun c h => if_neg h
  · exact fun n v g xs ys zs mk dk m h => runSlot_vElems h (fun _ _ _ _ _ _ _ => rfl) rfl fun h => absurd h Bool.false_ne_true
  · exact fun n v x y m1 m2 m3 d hr hn h0 hv hok ha hb hd hx hin hal hst hm => exec_vfill hr hn h0 hv hok ha hb hd hx hin hal hst hm
  · exact fun s gu a b l x cc i hi hr hc h0 => exec_vl_zero hr hc h0 i hi
  · rintro s gu a b n v g m p i hi h rfl
    obtain ⟨f, hexec⟩ := exec_twoRegions (s := s) hi
    rw [hexec]
    have hokeq : ((arithForm true false false) v).ok = (vectorFmt v.va && vectorFmt v.vd) := rfl
    refine ⟨fun hno => ?_, fun hva hvd hin => ⟨fun hbad => ?_, fun hbad hal hclash => ?_⟩, fun hva hvd hout => ?_⟩
    · refine runSlot_trap h.ready (vElems_badFormat h ?_)
      rw [hokeq]
      exact Bool.eq_false_iff.mpr fun hc => hno (by simpa using hc)
    · exact runSlot_trap h.ready (vElems_checks h (by rw [hokeq, hva, hvd]; rfl) (vCheck_limits hin hbad))
    · exact runSlot_trap h.ready (vElems_checks h (by rw [hokeq, hva, hvd]; rfl) (vCheck_overlap hin hbad hal hclash))
    · obtain ⟨fa, hfa⟩ := vCheck_outside hout
      exact ⟨fa, runSlot_trap h.ready (vElems_checks h (by rw [hokeq, hva, hvd]; rfl) hfa)⟩

end Sys2Proof.Machine
end

section
/-! SUPPORT. Single elements of the vector commands: results that are not loosened, signs, comparisons and shifts of patterns
(R107, R182, R186, R191). -/

namespace Sys2Proof.Machine

/-! ### Single elements -/

theorem VFmt.put_none (v : VFmt) (k : ℕ) (x : Num) (sig : ℕ) : v.put none k x false sig = v.exact (x, 0) sig := by
  have h : (if isFloat v.va then relax none v.vd k (roundTo v.vd false x) else roundTo v.vd false x) = roundTo v.vd false x := ite_self _
  simp only [VFmt.put, VFmt.exact, h, Nat.zero_or]

theorem bit_eq (x k : ℕ) : bit x k = decide (x / 2 ^ k % 2 = 1) := Nat.testBit_eq_decide_div_mod_eq

theorem bit_top {x k : ℕ} (h : x < 2 ^ (k + 1)) : bit x k = decide (2 ^ k ≤ x) := by
  have hlt : x / 2 ^ k < 2 := Nat.div_lt_of_lt_mul (by rwa [← pow_succ])
  have hpos : 0 < x / 2 ^ k ↔ 2 ^ k ≤ x := Nat.div_pos_iff.trans ⟨fun h => h.2, fun h => ⟨by positivity, h⟩⟩
  rw [bit_eq, decide_eq_decide, ← hpos]
  generalize x / 2 ^ k = q at hlt
  omega

/-- Absolute value and negation put one sign bit on the rest of the pattern (R107). -/
theorem oneBit_sign (neg : Bool) (x k : ℕ) :
    oneBit (neg && !(bit x k)) k = if neg = true ∧ x / 2 ^ k % 2 = 0 then 2 ^ k else 0 := by
  rw [bit_eq]
  have h : (decide (x / 2 ^ k % 2 = 1)) = !decide (x / 2 ^ k % 2 = 0) := by
    rcases Nat.mod_two_eq_zero_or_one (x / 2 ^ k) with h | h <;> simp [h]
  rw [h, Bool.not_not, oneBit]
  cases neg <;> simp

theorem toNat_eq_ite : ∀ t : Bool, t.toNat = if t = true then 1 else 0 := by decide

theorem elemBytes_pos (c : ℕ) : 0 < elemBytes c := by
  unfold elemBytes
  split <;> decide

theorem mul_two_pow_mod_of_le {x n w : ℕ} (h : w ≤ n) : x * 2 ^ n % 2 ^ w = 0 :=
  Nat.mod_eq_zero_of_dvd (Dvd.dvd.mul_left (pow_dvd_pow 2 h) x)

theorem shiftLeft_pattern (w n x : ℕ) : (if w ≤ n then 0 else (x <<< n) % 2 ^ w) = x * 2 ^ n % 2 ^ w := by
  split
  · next h => exact (mul_two_pow_mod_of_le h).symm
  · rw [Nat.shiftLeft_eq]

/-- A right shift with the sign bit copied down is division of the distance to all ones. -/
theorem shiftRight_ones {w n x : ℕ} (hn : n < w) (hx : x < 2 ^ w) :
    x / 2 ^ n + (2 ^ w - 2 ^ (w - n)) = 2 ^ w - 1 - (2 ^ w - 1 - x) / 2 ^ n := by
  have hw : 2 ^ n * 2 ^ (w - n) = 2 ^ w := by rw [← pow_add]; congr 1; omega
  have hdiv : (2 ^ w - 1 - x) / 2 ^ n = 2 ^ (w - n) - (x / 2 ^ n + 1) := by
    have h := Nat.mul_sub_div x (2 ^ n) (2 ^ (w - n)) (by rwa [hw])
    rwa [hw, show 2 ^ w - (x + 1) = 2 ^ w - 1 - x by omega] at h
  have hle : x / 2 ^ n < 2 ^ (w - n) := Nat.div_lt_of_lt_mul (by rwa [hw])
  have hle' : 2 ^ (w - n) ≤ 2 ^ w := Nat.pow_le_pow_right two_pos (Nat.sub_le w n)
  rw [hdiv]
  generalize x / 2 ^ n = q at hle
  generalize 2 ^ (w - n) = r at hle hle'
  omega

theorem shiftRight_pattern {w n x : ℕ} (ar : Bool) (hw : 0 < w) (hx : x < 2 ^ w) :
    (if w ≤ n then (if ar && bit x (w - 1) then 2 ^ w - 1 else 0)
      else x >>> n + (if ar && bit x (w - 1) then 2 ^ w - 2 ^ (w - n) else 0)) =
      if ar = true ∧ 2 ^ (w - 1) ≤ x then 2 ^ w - 1 - (2 ^ w - 1 - x) / 2 ^ n else x / 2 ^ n := by
  have hbit : (ar && bit x (w - 1)) = true ↔ ar = true ∧ 2 ^ (w - 1) ≤ x := by
    rw [bit_top (by rwa [Nat.sub_add_cancel hw]), Bool.and_eq_true, decide_eq_true_iff]
  simp only [hbit, Nat.shiftRight_eq_div_pow]
  by_cases hn : w ≤ n
  · have hbig : 2 ^ w ≤ 2 ^ n := Nat.pow_le_pow_right two_pos hn
    rw [if_pos hn, Nat.div_eq_of_lt (hx.trans_le hbig), Nat.div_eq_of_lt (by omega), Nat.sub_zero]
  · rw [if_neg hn]
    split
    · exact shiftRight_ones (not_le.mp hn) hx
    · rw [add_zero]

theorem getD_lt_two_pow {xs : List ℕ} {w : ℕ} (h : ∀ x ∈ xs, x < 2 ^ w) (j : ℕ) : xs.getD j 0 < 2 ^ w := by
  by_cases hj : j < xs.length
  · rw [List.getD_eq_getElem _ _ hj]; exact h _ (List.getElem_mem hj)
  · rw [List.getD_eq_default _ _ (not_lt.mp hj)]; positivity

end Sys2Proof.Machine
end

section
/-! PROOFS. Vector arithmetic, functions, conversions, comparisons and integer commands (R182 to R184, R186, R191). -/

namespace Sys2Proof.Machine

section
variable {s : State} {gu : Guard} {a b : GF} {l : Bool} {n : ℕ} {v : VFmt} {g : VArg} {xs ys zs : List ℕ} {mk : Bool}
  {dk : Option ℕ} {m : Mach} {i : Instr}

theorem runSlot_vTwo {f : Num → Num → Num × ℕ} (h : s.vElements gu l a b (arithForm true false false) n v g xs ys zs mk dk m) :
    runSlot i .v (some gu) (vTwo l a b f) s = .next (s.complete (m.issueRegion (vReg g.d (elemBytes v.vd) n)
      (byElement dk n xs ys zs fun d x y _ =>
        v.near d (f (readNum v.va x) (readNum v.va y)) (sigEv [(v.va, x), (v.va, y)])) mk 0)) :=
  runSlot_vElems h (fun _ _ _ _ _ _ _ => rfl) rfl fun h => absurd h Bool.false_ne_true

theorem runSlot_vScalar {f : Num → Num → Num × ℕ} (h : s.vElements gu l a b (arithForm false false true) n v g xs ys zs mk dk m) :
    runSlot i .v (some gu) (vScalar l a b f) s = .next (s.complete (m.issueRegion (vReg g.d (elemBytes v.vd) n)
      (byElement dk n xs ys zs fun d x _ c => v.near d (f (readNum v.va x) (readNum (if isFloat v.va then 0 else 6) c))
        (sigEv [(v.va, x), (if isFloat v.va then 0 else 6, c)])) mk 0)) :=
  runSlot_vElems h (fun _ _ _ _ _ _ _ => rfl) rfl fun h => absurd h Bool.false_ne_true

theorem runSlot_vFused_region (h : s.vElements gu l a b (arithForm true true false) n v g xs ys zs mk dk m) :
    runSlot i .v (some gu) (vFused l false a b) s = .next (s.complete (m.issueRegion (vReg g.d (elemBytes v.vd) n)
      (byElement dk n xs ys zs fun d x y c => v.near d (Machine.Num.fma (readNum v.va x) (readNum v.va y) (readNum v.va c))
        (sigEv [(v.va, x), (v.va, y), (v.va, c)])) mk 0)) := by
  unfold vFused
  exact runSlot_vElems h (fun _ _ _ _ _ _ _ => rfl) rfl fun h => absurd h Bool.false_ne_true

theorem runSlot_vFused_scalar (h : s.vElements gu l a b (arithForm true false true) n v g xs ys zs mk dk m) :
    runSlot i .v (some gu) (vFused l true a b) s = .next (s.complete (m.issueRegion (vReg g.d (elemBytes v.vd) n)
      (byElement dk n xs ys zs fun d x y c =>
        v.near d (Machine.Num.fma (readNum v.va x) (readNum v.va y) (readNum (if isFloat v.va then 0 else 6) c))
          (sigEv [(v.va, x), (v.va, y), (if isFloat v.va then 0 else 6, c)])) mk 0)) := by
  unfold vFused
  exact runSlot_vElems h (fun _ _ _ _ _ _ _ => rfl) rfl fun h => absurd h Bool.false_ne_true

theorem runSlot_vPick {x : Bool} (h : s.vElements gu l a b (arithForm true false false) n v g xs ys zs mk dk m) :
    runSlot i .v (some gu) (vPick l x a b) s = .next (s.complete (m.issueRegion (vReg g.d (elemBytes v.vd) n)
      (byElement dk n xs ys zs fun _ p q _ => if isInt v.va then
          { pat := (roundTo v.vd false ((readNum v.va p).pick x (readNum v.va q))).pat, ev := 0 }
          else v.exact ((readNum v.va p).pick x (readNum v.va q), 0) (sigEv [(v.va, p), (v.va, q)])) mk 0)) :=
  runSlot_vElems h (fun _ _ _ _ _ _ _ => by simp only [VFmt.put_none]; rfl) rfl fun h => absurd h Bool.false_ne_true

/-- R107: with va = vd floating, absolute value and negation touch the sign bit alone. -/
theorem runSlot_vSign_pattern {neg : Bool} (h : s.vElements gu l a 0 (arithForm false false false) n v g xs ys zs mk dk m)
    (heq : v.va = v.vd) (hfl : isFloat v.va = true) :
    runSlot i .v (some gu) (vSign l neg a) s = .next (s.complete (m.issueRegion (vReg g.d (elemBytes v.vd) n)
      (byElement dk n xs ys zs fun _ x _ _ => { pat := x % 2 ^ (8 * elemBytes v.va - 1) +
        (if neg = true ∧ x / 2 ^ (8 * elemBytes v.va - 1) % 2 = 0 then 2 ^ (8 * elemBytes v.va - 1) else 0), ev := 0 }) mk 0)) := by
  have hc : (decide (v.va = v.vd) && isFloat v.va) = true := by rw [hfl, decide_eq_true heq]; rfl
  exact runSlot_vElems h (fun _ _ _ _ _ _ _ => by simp only [hc, if_true, oneBit_sign]) rfl fun h => absurd h Bool.false_ne_true

theorem runSlot_vSign_number {neg : Bool} (h : s.vElements gu l a 0 (arithForm false false false) n v g xs ys zs mk dk m)
    (hno : v.va ≠ v.vd ∨ isFloat v.va = false) :
    runSlot i .v (some gu) (vSign l neg a) s = .next (s.complete (m.issueRegion (vReg g.d (elemBytes v.vd) n)
      (byElement dk n xs ys zs fun _ x _ _ => v.exact
        (if (neg = true ∨ (readNum v.va x).neg? = true) ∧ ¬(isInt v.va = true ∧ (readNum v.va x).isZero = true)
          then (readNum v.va x).negate else readNum v.va x, 0) (sigEv [(v.va, x)])) mk 0)) := by
  have hc : (decide (v.va = v.vd) && isFloat v.va) = false := by
    rcases hno with h | h
    · rw [decide_eq_false h, Bool.false_and]
    · rw [h, Bool.and_false]
  have hneg : ∀ x, ((neg || (readNum v.va x).neg?) && !(isInt v.va && (readNum v.va x).isZero)) = true ↔
      (neg = true ∨ (readNum v.va x).neg? = true) ∧ ¬(isInt v.va = true ∧ (readNum v.va x).isZero = true) := fun x => by
    simp only [Bool.and_eq_true, Bool.or_eq_true, Bool.not_eq_true', ← Bool.not_eq_true]
  exact runSlot_vElems h (fun _ _ _ _ _ _ _ => by simp only [hc, Bool.false_eq_true, if_false, VFmt.put_none, hneg]) rfl
    fun h => absurd h Bool.false_ne_true

/-- R183: a function command; the exponent engine serves all but the two reciprocals. -/
theorem runSlot_vFunc {op : FuncOp} (h : s.vElements gu l a 0
      (fun v => { ok := if op == .rcp || op == .rsqrt then isFloat v.va && isFloat v.vd else floatNot64 v.va && floatNot64 v.vd
                  za := elemBytes v.va, zd := elemBytes v.vd }) n v g xs ys zs mk dk m)
    (hh : (!(op == .rcp || op == .rsqrt)) = true → m.expHeld m.cur = false) {k : ℕ}
    (hk : (if op == .rcp || op == .rsqrt then 4 else 8) = k) :
    runSlot i .v (some gu) (vFunc l op a) s = .next (s.complete (m.issueRegion (vReg g.d (elemBytes v.vd) n)
      (byElement dk n xs ys zs fun d x _ _ =>
        { pat := (op.loosen d v.vd k (readNum v.va x) (op.apply v.vd (readNum v.va x))).pat
          ev := (op.loosen d v.vd k (readNum v.va x) (op.apply v.vd (readNum v.va x))).ev ||| sigEv [(v.va, x)] }) mk 0)) := by
  subst hk
  unfold vFunc
  exact runSlot_vElems h (fun _ _ _ _ _ _ _ => rfl) rfl hh

theorem exec_vsel {q : VFmt → VForm}
    (hq : q = fun v => { ok := vectorFmt v.va && vectorFmt v.vd, za := elemBytes v.va, zb := elemBytes v.va, zc := 1, zd := elemBytes v.vd })
    (h : s.vElements gu false a b q n v g xs ys zs mk dk m) :
    exec (.vsel gu a b) s = .next (s.complete (m.issueRegion (vReg g.d (elemBytes v.vd) n) (byElement dk n xs ys zs fun _ x y c =>
      if v.va = v.vd then { pat := if c = 0 then y else x, ev := 0 }
      else v.exact (readNum v.va (if c = 0 then y else x), 0) (sigEv [(v.va, if c = 0 then y else x)])) mk 0)) := by
  subst hq
  show execVsel gu a b s = _
  unfold execVsel
  refine runSlot_vElems h (fun _ _ _ x y c _ => ?_) rfl fun h => absurd h Bool.false_ne_true
  simp only [ne_eq, ite_not, VFmt.put_none]

theorem runSlot_vWords {x : Bool} {size : VFmt → ℕ} {ok : VFmt → Bool} {f : ℕ → ℕ → ℕ → ℕ} {F : ℕ → ℕ → ℕ}
    (h : s.vElements gu false a b (fun v => { ok := ok v, za := size v, zb := if x then 0 else size v, zd := size v, scalar := x })
      n v g xs ys zs mk dk m) (hf : ∀ j < n, ∀ p q, p = xs.getD j 0 → f (size v) p q = F p q) :
    runSlot i .v (some gu) (vWords a b x size ok f) s = .next (s.complete (m.issueRegion (vReg g.d (size v) n)
      (byElement dk n xs ys zs fun _ p q c => { pat := F p (if x then c else q), ev := 0 }) mk 0)) :=
  runSlot_vElems h (fun j hj _ p q c hp => by rw [hf j hj p _ hp]) rfl fun h => absurd h Bool.false_ne_true
end

/-- Settles O18: every arithmetic command is element-wise with its exact result rounded once, or a sign bit set. -/
theorem vectorArithmetic : Obligations.VectorArithmetic := by
  intro s gu a b l n v g xs ys zs mk dk m
  refine ⟨?_, runSlot_vFused_region, runSlot_vFused_scalar, ?_, ?_⟩
  · simp only [forall_row_cons, forall_row_nil, and_true]
    exact ⟨runSlot_vTwo (f := Num.add), runSlot_vTwo (f := fun x y => x.add y.negate), runSlot_vTwo (f := Num.mul),
      runSlot_vPick (x := false), runSlot_vPick (x := true)⟩
  · simp only [forall_row_cons, forall_row_nil, and_true]
    exact ⟨runSlot_vScalar (f := Num.add), runSlot_vScalar (f := Num.mul)⟩
  · refine forall_row_cons.mpr ⟨fun h => ⟨?_, fun hno => ?_⟩, forall_row_cons.mpr
      ⟨fun h => ⟨?_, fun hno => ?_⟩, forall_row_nil.mpr trivial⟩⟩
    · rintro heq hfl top rfl
      exact runSlot_vSign_pattern (neg := false) h heq hfl
    · exact runSlot_vSign_number (neg := false) h hno
    · rintro heq hfl top rfl
      exact runSlot_vSign_pattern (neg := true) h heq hfl
    · exact runSlot_vSign_number (neg := true) h hno

/-- Settles O19: every function and conversion command is element-wise, the exponent engine being free. -/
theorem vectorFunctionsConversion : Obligations.VectorFunctionsConversion := by
  intro s gu a l n v g xs ys zs mk dk m
  refine ⟨?_, ?_, ?_⟩
  · simp only [forall_row_cons, forall_row_nil, and_true]
    exact ⟨fun h => runSlot_vFunc (op := .rcp) h (fun h => absurd h Bool.false_ne_true) rfl,
      fun h => runSlot_vFunc (op := .rsqrt) h (fun h => absurd h Bool.false_ne_true) rfl⟩
  · simp only [forall_row_cons, forall_row_nil, and_true]
    exact ⟨fun h he => runSlot_vFunc (op := .exp) h (fun _ => he) rfl, fun h he => runSlot_vFunc (op := .log) h (fun _ => he) rfl,
      fun h he => runSlot_vFunc (op := .sin) h (fun _ => he) rfl, fun h he => runSlot_vFunc (op := .cos) h (fun _ => he) rfl,
      fun h he => runSlot_vFunc (op := .tanh) h (fun _ => he) rfl, fun h he => runSlot_vFunc (op := .sig) h (fun _ => he) rfl,
      fun h he => runSlot_vFunc (op := .silu) h (fun _ => he) rfl, fun h he => runSlot_vFunc (op := .gelu) h (fun _ => he) rfl⟩
  · exact fun h => runSlot_vElems h (fun _ _ _ _ _ _ _ => VFmt.put_none _ _ _ _) rfl fun h => absurd h Bool.false_ne_true

/-- Settles O20: comparisons and choices are element-wise, and the shifts of patterns are divisions and products. -/
theorem vectorCompareSelectInteger : Obligations.VectorCompareSelectInteger := by
  intro s gu a b sc ar cc n v g xs ys zs mk dk m
  have nohold : false = true → m.expHeld m.cur = false := fun h => absurd h Bool.false_ne_true
  refine ⟨?_, ?_, ?_, ?_⟩
  · rintro h code rfl
    refine runSlot_vElems h (fun _ _ _ x y c _ => ?_) rfl nohold
    simp only [toNat_eq_ite]
    rfl
  · exact exec_vsel rfl
  · exact fun h => runSlot_vWords (size := fun _ => 4) (ok := fun _ => true) (F := fun x y => (x + y) % 2 ^ 32) h fun _ _ _ _ _ => rfl
  · rintro w i f rfl hrow hx h
    have hw : 0 < 8 * elemBytes v.vd := Nat.mul_pos (by decide) (elemBytes_pos _)
    have row : ∀ (i : Instr) (f : ℕ → ℕ → ℕ → ℕ) (F : ℕ → ℕ → ℕ),
        (∀ j < n, ∀ p q, p = xs.getD j 0 → f (elemBytes v.vd) p q = F p q) →
        runSlot i .v (some gu) (vWords a b sc (fun v => elemBytes v.vd) (fun v => vectorFmt v.vd) f) s =
          .next (s.complete (m.issueRegion (vReg g.d (elemBytes v.vd) n) (byElement dk n xs ys zs fun _ x y c =>
            { pat := F x (if sc then c else y), ev := 0 }) mk 0)) := fun i f F => runSlot_vWords h
    revert i f
    simp only [forall_row_cons, forall_row_nil, and_true]
    exact ⟨row _ (fun z x y => x &&& y % 2 ^ (8 * z)) (fun x y => x &&& y % 2 ^ (8 * elemBytes v.vd)) fun _ _ _ _ _ => rfl,
      row _ (fun z x y => x ||| y % 2 ^ (8 * z)) (fun x y => x ||| y % 2 ^ (8 * elemBytes v.vd)) fun _ _ _ _ _ => rfl,
      row _ (fun z x y => x ^^^ y % 2 ^ (8 * z)) (fun x y => x ^^^ y % 2 ^ (8 * elemBytes v.vd)) fun _ _ _ _ _ => rfl,
      row _ _ (fun x y => x * 2 ^ (y % 64) % 2 ^ (8 * elemBytes v.vd)) fun _ _ _ _ _ => shiftLeft_pattern _ _ _,
      row _ _ (fun x y => if ar = true ∧ 2 ^ (8 * elemBytes v.vd - 1) ≤ x then
          2 ^ (8 * elemBytes v.vd) - 1 - (2 ^ (8 * elemBytes v.vd) - 1 - x) / 2 ^ (y % 64) else x / 2 ^ (y % 64))
        fun j _ _ _ hp => shiftRight_pattern ar hw (by rw [hp]; exact getD_lt_two_pow hx j)⟩

end Sys2Proof.Machine
end

section
/-! SUPPORT. The commands that run on whole regions: their checks, their draws of free values, and block scales (R178, R185). -/

namespace Sys2Proof.Machine

theorem bits_eq (v hi lo : ℕ) : bits v hi lo = v / 2 ^ lo % 2 ^ (hi + 1 - lo) := by rw [bits, Nat.shiftRight_eq_div_pow]

theorem bits_zero_eq (v hi : ℕ) : bits v hi 0 = v % 2 ^ (hi + 1) := by rw [bits_eq, pow_zero, Nat.div_one, Nat.sub_zero]

/-- R178, R179: a command that passes its checks goes on, once what it follows has landed, with the words it took. -/
theorem State.vChecked.run {s : State} {gu : Guard} {l : Bool} {a b : GF} {n : ℕ} {v : VFmt} {g : VArg} {p : VPlan} {m : Mach}
    (h : s.vChecked gu l a b n v g p m) {bad : VFmt → Bool} {P : ℕ → VFmt → VArg → VPlan} {rest : ℕ → VFmt → VArg → Act Unit}
    (hb : bad v = false) (hp : P n v g = p) :
    vRun l (fun n v => do
      raiseIf (bad v) 0x1007
      let g ← vArgs a b
      vCheck (P n v g)
      rest n v g) s.m = rest n v g m := by
  obtain ⟨m0, hrun, hpass, rfl⟩ := h
  rw [hrun.run]
  simp only [act_bind, act_raiseIf, hb, Bool.false_eq_true, if_false, hrun.args, hp, hpass.check]

theorem State.vChecked.ready {s : State} {gu : Guard} {l : Bool} {a b : GF} {n : ℕ} {v : VFmt} {g : VArg} {p : VPlan} {m : Mach}
    (h : s.vChecked gu l a b n v g p m) : s.Ready gu .v := by obtain ⟨m0, hrun, -⟩ := h; exact hrun.ready

theorem Mach.drawn_regionWrites (m : Mach) (on : Bool) (r : VReg) (vals : List ℕ) (poison : Bool) :
    (m.drawn on).regionWrites r vals poison = m.regionWrites r vals poison :=
  Mach.regionWrites_congr (by rw [m.drawn_region]) (by rw [m.drawn_region]) r vals poison

theorem Mach.takesA_writes {m m' : Mach} {l : Bool} {w z n : ℕ} {xs : List ℕ} {mk : Bool} (h : m.takesA l w z n xs mk m') (r : VReg)
    (vals : List ℕ) (poison : Bool) : m'.regionWrites r vals poison = m.regionWrites r vals poison :=
  Mach.regionWrites_congr (Mach.takesA_region h).1 (Mach.takesA_region h).2 r vals poison

/-! ### The largest magnitude of a block (R106, R185) -/

/-- The exponent of the leading bit of a nonzero magnitude is monotone in the magnitude. -/
theorem top_le_of_rat_le {m n : ℕ} {e f : ℤ} (hm : m ≠ 0) (hn : n ≠ 0)
    (h : Num.rat (.fin false m e) ≤ Num.rat (.fin false n f)) : e + m.log2 ≤ f + n.log2 := by
  simp only [Num.rat, Bool.false_eq_true, if_false, one_mul] at h
  have := (zpow_lt_zpow_iff_right₀ (one_lt_two (α := ℚ))).mp
    (((two_pow_log2_le_rat hm e).1.trans h).trans_lt (two_pow_log2_le_rat hn f).2)
  omega

/-- R107: the larger of two magnitudes is one of them and no smaller than either. -/
theorem pick_max_magnitude (m n : ℕ) (e f : ℤ) :
    ((Num.fin false m e).pick true (.fin false n f) = .fin false m e ∨ (Num.fin false m e).pick true (.fin false n f) = .fin false n f) ∧
      Num.rat (.fin false m e) ≤ ((Num.fin false m e).pick true (.fin false n f)).rat ∧
      Num.rat (.fin false n f) ≤ ((Num.fin false m e).pick true (.fin false n f)).rat := by
  have hp : (Num.fin false m e).pick true (.fin false n f) =
      if Num.lt (.fin false m e) (.fin false n f) = true then .fin false n f else .fin false m e := by
    simp [Num.pick, Num.neg?]
  rw [hp]
  split
  · next h => exact ⟨.inr rfl, ((lt_fin_rat false false m n e f).mp h).le, le_rfl⟩
  · next h => exact ⟨.inl rfl, le_rfl, not_lt.mp fun hc => h ((lt_fin_rat false false m n e f).mpr hc)⟩

/-- A value without a sign. -/
def Num.isMagnitude (x : Num) : Prop := ∃ m e, x = .fin false m e

theorem foldl_pick_magnitude {l : List Num} {x : Num} (hx : Num.isMagnitude x) (hl : ∀ y ∈ l, Num.isMagnitude y) :
    l.foldl (fun a b => a.pick true b) x ∈ x :: l ∧ ∀ y ∈ x :: l, y.rat ≤ (l.foldl (fun a b => a.pick true b) x).rat := by
  induction l generalizing x with
  | nil => simp
  | cons y l ih =>
    obtain ⟨m, e, rfl⟩ := hx
    obtain ⟨n, f, rfl⟩ := hl y (by simp)
    obtain ⟨hmem, hle, hle'⟩ := pick_max_magnitude m n e f
    have hmag : Num.isMagnitude ((Num.fin false m e).pick true (.fin false n f)) := by
      rcases hmem with h | h <;> rw [h] <;> exact ⟨_, _, rfl⟩
    obtain ⟨hin, hall⟩ := ih hmag fun y hy => hl y (by simp [hy])
    have htop := hall _ (List.mem_cons_self ..)
    refine ⟨?_, ?_⟩
    · rw [List.foldl_cons]
      rcases List.mem_cons.mp hin with h | h
      · rw [h]; rcases hmem with h' | h' <;> rw [h'] <;> simp
      · simp [h]
    · intro z hz
      rw [List.foldl_cons]
      rcases List.mem_cons.mp hz with rfl | hz
      · exact hle.trans htop
      · rcases List.mem_cons.mp hz with rfl | hz
        · exact hle'.trans htop
        · exact hall z (by simp [hz])

theorem maxOf_magnitude {l : List Num} (hne : l ≠ []) (hl : ∀ y ∈ l, Num.isMagnitude y) :
    maxOf l ∈ l ∧ ∀ y ∈ l, y.rat ≤ (maxOf l).rat := by
  cases l with
  | nil => exact absurd rfl hne
  | cons x l => exact foldl_pick_magnitude (hl x (by simp)) fun y hy => hl y (by simp [hy])

/-- The magnitude of a value. -/
def Num.magnitude (x : Num) : Num := if x.neg? then x.negate else x

theorem magnitude_fin (s : Bool) (m : ℕ) (e : ℤ) : Num.magnitude (.fin s m e) = .fin false m e := by cases s <;> rfl

/-- R185: the scale byte of a block of finite values that are not all zero. -/
theorem quantBlock_scale {va vd : ℕ} {ys : List ℕ} {m : ℕ} {e : ℤ} (hm : m ≠ 0)
    (h : maxOf (ys.map fun y => Num.magnitude (readNum va y)) = .fin false m e) :
    ((quantBlock va vd ys).1 : ℤ) = clamp (-127) 127 (e + m.log2 - quantTop vd) + 127 := by
  have hmap : (ys.map (readNum va)).map (fun n => if n.neg? then n.negate else n) = ys.map fun y => Num.magnitude (readNum va y) :=
    List.map_map
  have hge : -127 ≤ clamp (-127) 127 (e + m.log2 - quantTop vd) := by unfold clamp; split_ifs <;> omega
  simp only [quantBlock, hmap, h, if_neg hm]
  omega

theorem clamp_inside {i e : ℤ} (h : e = clamp (-127) 127 i) (hlo : -127 < e) (hhi : e < 127) : e = i := by
  unfold clamp at h
  split_ifs at h <;> omega

/-- R185: the scale of a block is the exponent of its largest magnitude less that of the largest element. -/
theorem quantBlock_top {va vd : ℕ} {ys : List ℕ} {e : ℤ} (hfin : ∀ y ∈ ys, ∃ sg mm ee, readNum va y = .fin sg mm ee)
    (hne : ∃ y ∈ ys, (readNum va y).isZero = false) (he : e = ((quantBlock va vd ys).1 : ℤ) - 127) (hlo : -127 < e) (hhi : e < 127) :
    (∃ y ∈ ys, ∃ sg mm ee, readNum va y = .fin sg mm ee ∧ mm ≠ 0 ∧ e = ee + mm.log2 - quantTop vd) ∧
      ∀ y ∈ ys, ∀ sg mm ee, readNum va y = .fin sg mm ee → mm ≠ 0 → ee + mm.log2 - quantTop vd ≤ e := by
  obtain ⟨y0, hy0, hz0⟩ := hne
  obtain ⟨s0, m0, e0, h0⟩ := hfin y0 hy0
  have hm0 : m0 ≠ 0 := by rintro rfl; rw [h0] at hz0; exact absurd hz0 (by simp [Num.isZero])
  have hmag : ∀ x ∈ ys.map fun y => Num.magnitude (readNum va y), Num.isMagnitude x := by
    intro x hx
    obtain ⟨y, hy, rfl⟩ := List.mem_map.mp hx
    obtain ⟨s, m, f, h⟩ := hfin y hy
    exact ⟨m, f, by rw [h, magnitude_fin]⟩
  obtain ⟨hin, hall⟩ := maxOf_magnitude (List.ne_nil_of_mem (List.mem_map_of_mem hy0)) hmag
  obtain ⟨y1, hy1, h1⟩ := List.mem_map.mp hin
  obtain ⟨s1, m1, e1, hr1⟩ := hfin y1 hy1
  rw [hr1, magnitude_fin] at h1
  have hle : ∀ y ∈ ys, ∀ s m f, readNum va y = .fin s m f → Num.rat (.fin false m f) ≤ Num.rat (.fin false m1 e1) := by
    intro y hy s m f h
    have := hall _ (List.mem_map_of_mem hy)
    rwa [h, magnitude_fin, ← h1] at this
  have hm1 : m1 ≠ 0 := by
    rintro rfl
    have hpos : 0 < Num.rat (.fin false m0 e0) := by
      simp only [Num.rat, Bool.false_eq_true, if_false, one_mul]
      positivity
    exact absurd (hle y0 hy0 s0 m0 e0 h0) (not_le.mpr (by simpa [Num.rat] using hpos))
  have hk : e = e1 + m1.log2 - quantTop vd := by
    rw [quantBlock_scale hm1 h1.symm, add_sub_cancel_right] at he
    exact clamp_inside he hlo hhi
  refine ⟨⟨y1, hy1, s1, m1, e1, hr1, hm1, hk⟩, fun y hy s m f h hm => ?_⟩
  have := top_le_of_rat_le hm hm1 (hle y hy s m f h)
  omega

end Sys2Proof.Machine
end

section
/-! PROOFS. Block quantisation (R185). -/

namespace Sys2Proof.Machine

section
variable {s : State} {gu : Guard} {a b : GF} {l : Bool} {n : ℕ} {v : VFmt} {g : VArg} {m1 m : Mach} {xs : List ℕ} {mk : Bool}

theorem quantPlan_srcs : (quantPlan false true v g n).srcs = [vReg g.a (elemBytes v.va) n] := by
  by_cases h : v.bs = 2 <;> simp [quantPlan, h]

/-- R180, R185: VQNT takes its elements from the region or the latch. -/
theorem quantise_take (h : m1.takesA l g.a (elemBytes v.va) n xs mk m) :
    (if l then takeLatch n (elemBytes v.va)
      else pure (m1.region (vReg g.a (elemBytes v.va) n), (quantPlan l true v g n).srcs.any m1.regionMarked) : Act (List ℕ × Bool)) m1 =
      .ok ((xs, mk), m) := by
  have htake := takesA_ok (elemBytes_pos v.va).ne' h
  cases l
  · obtain ⟨rfl, rfl, rfl⟩ := h
    simp only [Bool.false_eq_true, if_false, act_pure, quantPlan_srcs, List.any_cons, List.any_nil, Bool.or_false]
  · exact htake

theorem quantise_run (h : s.vChecked gu l a b n v g (quantPlan l true v g n) m1) (hva : isFloat v.va = true)
    (hvd : quantFmt v.vd = true) (hbs : v.bs < 3) (ht : m1.takesA l g.a (elemBytes v.va) n xs mk m) :
    quantise l a b s.m = (if v.bs = 2 then
        let rs := xs.map fun x =>
          let q := (readNum v.va x).div (readNum 0 g.c)
          let r := roundTo v.vd false q.1 q.2.1
          { r with ev := r.ev ||| q.2.2 ||| sigEv [(v.va, x)] ||| scaleEv g.c : Rounded }
        .ok ((), m.issueRegion (vReg g.d (elemBytes v.vd) n) rs mk 0)
      else
        let bl := (chunks (blockOf v.bs) (n / blockOf v.bs) xs).map (quantBlock v.va v.vd)
        .ok ((), m.issueV (m.regionWrites (vReg g.d (elemBytes v.vd) n) ((bl.map Prod.snd).flatten.map Rounded.pat) mk ++
          m.regionWrites (vReg g.b 1 (n / blockOf v.bs)) (bl.map Prod.fst) mk)
          ((bl.map Prod.snd).flatten.foldl (fun e r => e ||| r.ev) 0))) := by
  have hbad : (!(isFloat v.va) || !(quantFmt v.vd) || v.bs == 3) = false := by
    rw [hva, hvd, beq_eq_false_iff_ne.mpr (by omega)]; rfl
  unfold quantise
  refine (h.run (bad := fun v => !(isFloat v.va) || !(quantFmt v.vd) || v.bs == 3) (P := fun n v g => quantPlan l true v g n)
    hbad rfl).trans ?_
  simp only [act_bind, act_getM, quantise_take ht]
  split <;> simp only [putV_ok, Mach.issueRegion, Mach.takesA_writes ht]

theorem dequantise_run (h : s.vChecked gu false a b n v g (quantPlan false false v g n) m) (hva : quantFmt v.va = true)
    (hvd : isFloat v.vd = true) (hbs : v.bs < 3) :
    dequantise a b s.m = .ok ((), m.issueRegion (vReg g.d (elemBytes v.vd) n)
      ((m.region (vReg g.a (elemBytes v.va) n)).zipIdx.map fun x =>
        let s := (if v.bs = 2 then [] else m.region (vReg g.b 1 (n / blockOf v.bs))).getD (x.2 / blockOf v.bs) 0
        let q := if v.bs = 2 then (readNum v.va x.1).mul (readNum 0 g.c)
          else if s = 0xFF then (.nan, evInvalid)
          else (readNum v.va x.1).mul (.fin false 1 ((s : Int) - 127))
        v.exact q (if v.bs = 2 then scaleEv g.c else 0)) ((quantPlan false false v g n).srcs.any m.regionMarked) 0) := by
  have hbad : (!(quantFmt v.va) || !(isFloat v.vd) || v.bs == 3) = false := by
    rw [hva, hvd, beq_eq_false_iff_ne.mpr (by omega)]; rfl
  unfold dequantise
  refine (h.run (bad := fun v => !(quantFmt v.va) || !(isFloat v.vd) || v.bs == 3) (P := fun n v g => quantPlan false false v g n)
    hbad rfl).trans ?_
  simp only [act_bind, act_getM, putV_ok, VFmt.put_none]
  simp only [VFmt.exact, Nat.zero_or]
  rfl
end

/-- Settles O21: VQNT and VDQ run on whole regions, and the largest element of a block sets its scale. -/
theorem blockQuantisation : Obligations.BlockQuantisation := by
  rintro s gu a b l n v g m1 m xs mk k d rfl rfl
  refine ⟨fun h hva hvd hbs ht => ⟨fun h2 => ?_, fun h2 bl hbl => ?_⟩, fun h hva hvd hbs hxs hmk => ⟨fun h2 => ?_, fun h2 => ?_⟩,
    fun va vd ys e hfin hne he hlo hhi => quantBlock_top hfin hne he hlo hhi⟩
  · exact runSlot_ok h.ready ((quantise_run h hva hvd hbs ht).trans (if_pos h2))
  · subst hbl
    exact runSlot_ok h.ready ((quantise_run h hva hvd hbs ht).trans (if_neg h2))
  · subst hxs hmk
    refine runSlot_ok (u := ()) h.ready ((dequantise_run h hva hvd hbs).trans ?_)
    simp only [h2, if_true]
    rw [← List.zipIdx_map_fst 0 (m.region (vReg g.a (elemBytes v.va) n)), List.map_map, List.zipIdx_map_fst]
    rfl
  · subst hxs hmk
    refine runSlot_ok (u := ()) h.ready ((dequantise_run h hva hvd hbs).trans ?_)
    simp only [h2, if_false]
    rfl

end Sys2Proof.Machine
end

section
/-! PROOFS. Reductions and running sums (R187, R188). -/

namespace Sys2Proof.Machine

section
variable {s : State} {gu : Guard} {a b : GF} {n : ℕ} {v : VFmt} {g : VArg} {m : Mach} {p : VPlan}

/-- R187: a reduction issues its one result. -/
theorem vReduce_run {useB : Bool} {ok : VFmt → Bool} {size : VFmt → ℕ} {f : VFmt → Option ℕ → List ℕ → List ℕ → Rounded}
    {i : Instr} {r : Rounded} (h : s.vChecked gu false a b n v g p m)
    (hp : p = { srcs := vReg g.a (elemBytes v.va) n :: (if useB then [vReg g.b (elemBytes v.va) n] else [])
                dsts := [vReg g.d (size v) 1], bad := (!useB && g.b ≠ 0) || g.c ≠ 0 }) (hok : ok v = true)
    (hr : f v (m.draw v.dusk 32) (m.region (vReg g.a (elemBytes v.va) n))
      (if useB then m.region (vReg g.b (elemBytes v.va) n) else []) = r) :
    runSlot i .v (some gu) (vReduce a b useB ok size f) s =
      .next (s.complete ((m.drawn v.dusk).issueRegion (vReg g.d (size v) 1) [r] (p.srcs.any m.regionMarked) 0)) := by
  have hev : [r].foldl (fun e r => e ||| r.ev) 0 = r.ev := Nat.zero_or _
  refine runSlot_ok (u := ()) h.ready ?_
  unfold vReduce
  refine (h.run (bad := fun v => !(ok v)) (P := fun n v g => {
    srcs := vReg g.a (elemBytes v.va) n :: (if useB then [vReg g.b (elemBytes v.va) n] else [])
    dsts := [vReg g.d (size v) 1]
    bad := (!useB && g.b ≠ 0) || g.c ≠ 0 }) (by rw [hok]; rfl) hp.symm).trans ?_
  simp only [act_bind, act_getM, duskCount_eq, putV_ok, hr, Mach.issueRegion, Mach.drawn_regionWrites, hev, hp]
  rfl

/-- Exact running sums from a first value (R188). -/
theorem scanInt_eq (va vd : ℕ) (y : Num) (xs : List ℕ) :
    scanInt va vd y xs = (List.range xs.length).map fun i =>
      roundTo vd false (((xs.take (i + 1)).map (readNum va)).foldl (fun a b => (a.add b).1) y) := by
  induction xs generalizing y with
  | nil => rfl
  | cons x xs ih =>
    rw [List.length_cons, List.range_succ_eq_map, List.map_cons, List.map_map, scanInt, ih]
    rfl

theorem Mach.length_region (m : Mach) (r : VReg) : (m.region r).length = r.n := by simp [Mach.region]

/-- R188: a scan issues its running sums. -/
theorem scan_run (h : s.vChecked gu false a 0 n v g ((arithForm false false false v).plan false g n) m) (hok : anyPair v = true) {rs : List Rounded}
    (hrs : (if isInt v.va then scanInt v.va v.vd (.fin false 0 0) (m.region (vReg g.a (elemBytes v.va) n))
      else scanGo v.va v.vd (m.draw v.dusk 32) 0 0 (m.region (vReg g.a (elemBytes v.va) n))) = rs) :
    exec (.vscan gu a) s = .next (s.complete ((m.drawn v.dusk).issueRegion (vReg g.d (elemBytes v.vd) n) rs
      (((arithForm false false false v).plan false g n).srcs.any m.regionMarked) (sigAll v.va (m.region (vReg g.a (elemBytes v.va) n))))) := by
  refine runSlot_ok (u := ()) h.ready ?_
  unfold scan
  refine (h.run (bad := fun v => !(anyPair v)) (P := fun n v g => (arithForm false false false v).plan false g n)
    (by rw [hok]; rfl) rfl).trans ?_
  simp only [act_bind, act_getM, duskCount_eq, putV_ok, hrs, Mach.issueRegion, Mach.drawn_regionWrites]
end

/-- Settles O22: a reduction issues one result, a scan the sums of the first elements. -/
theorem vectorReductionsScan : Obligations.VectorReductionsScan := by
  rintro s gu a b n v g m xs ys p mk rfl rfl rfl hva
  refine ⟨fun h hp => ?_, fun h hvd hp => ⟨?_, fun hi => ?_, fun hi t ht => ?_⟩,
    fun h hvd hp => ⟨fun hi => ?_, fun hi ls t hls ht => ?_⟩, fun h hvd hp => ⟨fun hi => ?_, fun hi => ?_⟩⟩
  · exact vReduce_run (ok := fun v => vectorFmt v.va) (size := fun _ => 4) h hp hva rfl
  all_goals have hok : anyPair v = true := by rw [anyPair, hva, hvd]; rfl
  · exact vReduce_run (ok := anyPair) (size := fun v => elemBytes v.vd) h hp hok (by simp only [VFmt.exact, Nat.zero_or])
  · exact vReduce_run (ok := anyPair) (size := fun v => elemBytes v.vd) h hp hok (by simp only [hi, if_true])
  · refine vReduce_run (ok := anyPair) (size := fun v => elemBytes v.vd) h hp hok ?_
    simp only [hi, Bool.false_eq_true, if_false, ← ht, VFmt.exact, Nat.lor_assoc]
  · refine vReduce_run (useB := true) (ok := anyPair) (size := fun v => elemBytes v.vd) h hp hok ?_
    simp only [hi, if_true, List.map_map]
    rfl
  · refine vReduce_run (useB := true) (ok := anyPair) (size := fun v => elemBytes v.vd) h hp hok ?_
    subst hls ht
    simp only [hi, Bool.false_eq_true, if_false, List.map_map]
    rfl
  · subst hp
    refine scan_run h hok ?_
    rw [if_pos hi, scanInt_eq, Mach.length_region]
    rfl
  · subst hp
    refine scan_run h hok ?_
    rw [if_neg (by rw [hi]; exact Bool.false_ne_true)]

end Sys2Proof.Machine
end

section
/-! SUPPORT. The elements a table's region reaches lie in the window, and what an index list holds (R134, R189, R190). -/

namespace Sys2Proof.Machine

/-- R134: with a stride of one, each element up to the last of a region in the window lies in the window. -/
theorem VReg.inside_element {r : VReg} {c : Cont} {i : ℕ} (h : r.inside c = true) (hs : r.stride = 1) (hi : i < r.n) :
    c.inWindow (r.pos i) r.z = true := by
  have hn : r.n ≠ 0 := by omega
  simp only [VReg.inside, hn, decide_false, Bool.false_or, decide_eq_true_eq] at h
  have hlo : r.lo ≤ r.pos 0 := min_le_left _ _
  have hhi : r.pos ((r.n : ℕ) - 1 : ℕ) + r.z ≤ r.hi := by
    have : r.pos (r.n - 1) ≤ max (r.pos 0) (r.pos (r.n - 1)) := le_max_right _ _
    simp only [VReg.hi]
    omega
  have hmono : ∀ k j : ℕ, k ≤ j → r.pos k ≤ r.pos j := by
    intro k j hkj
    have : (k : ℤ) * r.z ≤ j * r.z := mul_le_mul_of_nonneg_right (by exact_mod_cast hkj) (by positivity)
    simp only [VReg.pos, hs, mul_one]
    omega
  have h0 := hmono 0 i (Nat.zero_le i)
  have h1 := hmono i (r.n - 1) (by omega)
  simp only [Cont.inWindow, decide_eq_true_eq]
  omega

theorem le_foldl_max (l : List ℕ) (k : ℕ) : ∀ x ∈ k :: l, x ≤ l.foldl max k := by
  induction l generalizing k with
  | nil => simp
  | cons y l ih =>
    have h := ih (max k y)
    simp only [List.forall_mem_cons, max_le_iff] at h ⊢
    exact ⟨h.1.1, h.1.2, h.2⟩

/-- The entries of a list all stand in the window when the region that reaches its largest one does. -/
theorem find?_outside_none {idx : List ℕ} {r : VReg} {c c' : Cont} (hn : r.n = idx.foldl max 0 + 1) (hs : r.stride = 1)
    (h : r.inside c' = true) (hc : c.winLimit = c'.winLimit) : (idx.find? fun i => !(c.inWindow (r.pos i) r.z)) = none := by
  refine List.find?_eq_none.mpr fun i hi => ?_
  have := VReg.inside_element (i := i) (by rwa [VReg.inside_window hc]) hs (by have := le_foldl_max idx 0 i (List.mem_cons_of_mem _ hi); omega)
  simp [this]

theorem findIdx?_first {l : List ℕ} {P : ℕ → Bool} {k : ℕ} (hk : k < l.length) (hp : P (l.getD k 0) = true)
    (hbefore : ∀ j < k, P (l.getD j 0) = false) : l.findIdx? P = some k := by
  rw [List.findIdx?_eq_some_iff_getElem]
  refine ⟨hk, by rwa [← List.getD_eq_getElem l 0 hk], fun j hj => ?_⟩
  have := hbefore j hj
  rw [List.getD_eq_getElem l 0 (hj.trans hk)] at this
  simp [this]

end Sys2Proof.Machine
end

section
/-! PROOFS. Permute, gather and merged scatter (R189, R190). -/

namespace Sys2Proof.Machine

section
variable {s : State} {gu : Guard} {a b : GF} {n : ℕ} {v : VFmt} {g : VArg} {m0 m1 m : Mach} {p : VPlan} {idx : List ℕ} {d : VReg}

theorem State.vRuns.checked (h : s.vRuns gu false a b n v g m0) (hp : p.passes m0.cur) :
    s.vChecked gu false a b n v g p (m0.flushOver p) := ⟨m0, h, hp, rfl⟩

section
variable (h : s.vRuns gu false a b n v g m0) (hvd : vectorFmt v.vd = true)
  (hp : p = { srcs := [vReg g.a (elemBytes v.vd) (g.c % 2 ^ 16), vReg g.b 2 n], dsts := [vReg g.d (elemBytes v.vd) n]
              bad := decide (bits g.c 31 16 ≠ 0) || ((vReg g.d (elemBytes v.vd) n).stride == 0 && decide (1 < n)) })
  (hpass : p.passes m0.cur) (hm : m = m0.flushOver p)
include h hvd hp hpass hm

/-- R189: VPERM, its checks passed and every index inside its table. -/
theorem permute_ok (hidx : (m.region (vReg g.b 2 n)).findIdx? (fun i => decide (g.c % 2 ^ 16 ≤ i)) = none) :
    permute a b s.m = .ok ((), m.issueV (m.regionWrites (vReg g.d (elemBytes v.vd) n)
      ((m.region (vReg g.b 2 n)).map fun i => (m.region (vReg g.a (elemBytes v.vd) (g.c % 2 ^ 16))).getD i 0)
      (p.srcs.any m.regionMarked)) 0) := by
  subst hp hm
  unfold permute
  refine ((h.checked hpass).run (bad := fun v => !(vectorFmt v.vd)) (P := fun n v g => {
      srcs := [vReg g.a (elemBytes v.vd) (bits g.c 15 0), vReg g.b 2 n]
      dsts := [vReg g.d (elemBytes v.vd) n]
      bad := decide (bits g.c 31 16 ≠ 0) || ((vReg g.d (elemBytes v.vd) n).stride == 0 && decide (1 < n)) })
    (by rw [hvd]; rfl) (by rw [bits_zero_eq])).trans ?_
  simp only [act_bind, act_getM, bits_zero_eq, hidx, putV_ok]

/-- R189: VPERM, its checks passed, with a first index past its table. -/
theorem permute_outside {k : ℕ} (hidx : (m.region (vReg g.b 2 n)).findIdx? (fun i => decide (g.c % 2 ^ 16 ≤ i)) = some k) :
    permute a b s.m = .error (.trap { cause := 0x2006, info := toW k }) := by
  subst hp hm
  unfold permute
  refine ((h.checked hpass).run (bad := fun v => !(vectorFmt v.vd)) (P := fun n v g => {
      srcs := [vReg g.a (elemBytes v.vd) (bits g.c 15 0), vReg g.b 2 n]
      dsts := [vReg g.d (elemBytes v.vd) n]
      bad := decide (bits g.c 31 16 ≠ 0) || ((vReg g.d (elemBytes v.vd) n).stride == 0 && decide (1 < n)) })
    (by rw [hvd]; rfl) (by rw [bits_zero_eq])).trans ?_
  simp only [act_bind, act_getM, bits_zero_eq, hidx, act_raise]
end

/-- R189: VGATH once its checks have passed. -/
theorem gather_run (h : s.vRuns gu false a b n v g m0) (hvd : vectorFmt v.vd = true)
    (hd : d = vReg g.d (elemBytes v.vd) n) (hm1 : m1 = m0.flushOver { srcs := [vReg g.b 4 n], dsts := [] })
    (hidx : idx = m1.region (vReg g.b 4 n)) {src : VReg}
    (hsrc : src = { vReg g.a (elemBytes v.vd) (idx.foldl max 0 + 1) with stride := 1 })
    (hone : (vReg g.a (elemBytes v.vd) 1).stride = 1) (hc : g.c = 0)
    (hp : p = { srcs := [src, vReg g.b 4 n], dsts := [d], bad := d.stride == 0 && decide (1 < n) }) (hpass : p.passes m0.cur)
    (hm : m = m1.flushOver p) :
    gather a b s.m = .ok ((), m.issueV (m.regionWrites d (idx.map fun i => leNat (m.winRead m.cur (src.pos i).toNat (elemBytes v.vd)))
      (m.regionMarked (vReg g.b 4 n) || idx.any fun i => (m.winMark m.cur (src.pos i).toNat (elemBytes v.vd)).isSome)) 0) := by
  have hlands : m0.Lands m1 := hm1 ▸ m0.flushOver_lands _
  have hin := hpass.1
  have hal := hpass.2.2.1
  rw [hp] at hin hal
  simp only [List.forall_mem_append, List.forall_mem_cons, List.not_mem_nil, false_implies, implies_true, and_true] at hin hal
  obtain ⟨hd1, hs1, hi1⟩ := hin
  obtain ⟨-, -, hi2⟩ := hal
  have hfirst : ∀ x ∈ [vReg g.d (elemBytes v.vd) n, vReg g.b 4 n], x.inside m0.cur = true := by rw [← hd]; simp [hd1, hi1]
  have halign : (vReg g.b 4 n).aligned = true := decide_eq_true hi2
  have hfind : (idx.find? fun i => !(m1.cur.inWindow (src.pos i) (elemBytes v.vd))) = none := by
    have := find?_outside_none (idx := idx) (r := src) (c := m1.cur) (by rw [hsrc]; rfl) (by rw [hsrc]) hs1 hlands.window
    rwa [show src.z = elemBytes v.vd by rw [hsrc]; rfl] at this
  have hplan : (VPlan.mk [src, vReg g.b 4 n] [d]
      ((vReg g.a (elemBytes v.vd) (idx.foldl max 0 + 1)).stride != 1 || g.c ≠ 0 || (d.stride == 0 && decide (1 < n))) false) = p := by
    rw [hp, hc, show (vReg g.a (elemBytes v.vd) (idx.foldl max 0 + 1)).stride = 1 from hone]
    rfl
  have hcheck := (VPlan.passes_of_lands hlands hpass).check
  subst hd
  unfold gather
  rw [h.run]
  simp only [act_bind, act_raiseIf, hvd, Bool.not_true, Bool.false_eq_true, if_false, h.args, vRange_inside hfirst, halign, act_modM,
    act_getM, ← hm1, ← hidx, ← hsrc, hfind, hplan, hcheck, ← hm, putV_ok]

/-- R190: what VSCADD gives the destination of index `j`: the merged sum of its sources, added to what it holds. -/
def Mach.scatterSum (m : Mach) (v : VFmt) (base : VReg) (idx xs : List ℕ) (j : ℕ) : Rounded :=
  let mine := (idx.zip xs).filterMap fun p => if p.1 = j then some p.2 else none
  let old := leNat (m.winRead m.cur (base.pos j).toNat (elemBytes v.vd))
  if isInt v.va then roundTo v.vd false (exactSum (readNum v.vd old :: mine.map (readNum v.va)))
  else
    let y := mergeSum v.va mine
    let s := (readNum v.vd old).add (readNum (wideCode v.va) y.pat)
    let o := roundTo v.vd false s.1
    { o with ev := o.ev ||| y.ev ||| s.2 ||| sigEv [(v.vd, old)] }

/-- The write of one destination of VSCADD. -/
def Mach.scatterWrite (m : Mach) (v : VFmt) (base : VReg) (idx xs : List ℕ) (poison : Bool) (j : ℕ) : SpadWrite :=
  { key := skey m.cur.gcore (m.cur.winBase + (base.pos j).toNat)
    bytes := leBytes (elemBytes v.vd) (m.scatterSum v base idx xs j).pat
    poison := poison || (m.winMark m.cur (base.pos j).toNat (elemBytes v.vd)).isSome }

theorem Mach.regionWrites_one (m : Mach) (t : ℤ) (z x k : ℕ) (poison : Bool) :
    m.regionWrites { off := k, stride := t, z := z, n := 1 } [x] poison =
      [{ key := skey m.cur.gcore (m.cur.winBase + k), bytes := leBytes z x, poison := poison }] := by
  have h : (VReg.pos { off := k, stride := t, z := z, n := 1 } 0).toNat = k := by simp [VReg.pos]
  simp only [Mach.regionWrites, List.zipIdx_cons, List.zipIdx_nil, List.map_cons, List.map_nil]
  rw [h]

theorem scatter_run (h : s.vRuns gu false a b n v g m0)
    (hf : (isFloat v.va = true ∧ isFloat v.vd = true) ∨ (isInt v.va = true ∧ isInt v.vd = true)) (hc : g.c = 0)
    (hm1 : m1 = m0.flushOver { srcs := [vReg g.b 4 n], dsts := [] }) (hidx : idx = m1.region (vReg g.b 4 n)) {src base : VReg}
    (hsrc : src = vReg g.a (elemBytes v.va) n) {xs : List ℕ} (hxs : xs = m.region src)
    (hbase : base = { vReg g.d (elemBytes v.vd) (idx.foldl max 0 + 1) with stride := 1 })
    (hp : p = { srcs := [src, vReg g.b 4 n], dsts := [base], strict := true }) (hpass : p.passes m0.cur) (hm : m = m1.flushOver p) :
    scatterAdd a b s.m = .ok ((), m.issueV
      (idx.eraseDups.map (m.scatterWrite v base idx xs ([src, vReg g.b 4 n].any m.regionMarked)))
      ((idx.eraseDups.map fun j => (j, m.scatterSum v base idx xs j)).foldl (fun e o => e ||| o.2.ev) (sigAll v.va xs))) := by
  have hlands : m0.Lands m1 := hm1 ▸ m0.flushOver_lands _
  have hin := hpass.1
  have hal := hpass.2.2.1
  rw [hp] at hin hal
  simp only [List.forall_mem_append, List.forall_mem_cons, List.not_mem_nil, false_implies, implies_true, and_true] at hin hal
  obtain ⟨hd1, hs1, hi1⟩ := hin
  obtain ⟨-, -, hi2⟩ := hal
  have hfmt : (!((isFloat v.va && isFloat v.vd) || (isInt v.va && isInt v.vd))) = false := by
    rcases hf with ⟨ha, hd⟩ | ⟨ha, hd⟩ <;> simp [ha, hd]
  have hfirst : ∀ x ∈ [src, vReg g.b 4 n], x.inside m0.cur = true := by simp [hs1, hi1]
  have halign : (vReg g.b 4 n).aligned = true := decide_eq_true hi2
  have hfind : (idx.find? fun i => !(m1.cur.inWindow (base.pos i) (elemBytes v.vd))) = none := by
    have := find?_outside_none (idx := idx) (r := base) (c := m1.cur) (by rw [hbase]; rfl) (by rw [hbase]) hd1 hlands.window
    rwa [show base.z = elemBytes v.vd by rw [hbase]; rfl] at this
  have hplan : VPlan.mk [src, vReg g.b 4 n] [base] (decide (g.c ≠ 0)) true = p := by rw [hp, hc]; rfl
  have hcheck := (VPlan.passes_of_lands hlands hpass).check
  unfold scatterAdd
  rw [h.run]
  simp only [act_bind, act_raiseIf, hfmt, Bool.false_eq_true, if_false, h.args, ← hsrc, vRange_inside hfirst, halign, Bool.not_true,
    act_modM, act_getM, ← hm1, ← hidx, ← hbase, hfind, hplan, hcheck, ← hm, ← hxs, putV_ok, Mach.regionWrites_one, List.map_map]
  congr 3
  rw [← List.flatMap_def]
  exact List.flatMap_pure_eq_map _ _
end

/-- Settles O23: the index region is checked before the table it reaches, and each index moves or merges its own element. -/
theorem vectorPermuteGatherScatter : Obligations.VectorPermuteGatherScatter := by
  rintro s gu a b n v g m0 z d h rfl rfl
  refine ⟨?_, ?_, ?_⟩
  · rintro hvd len idx p m rfl hm rfl hp hpass
    refine ⟨fun hall => ?_, fun k hk hlen hbefore => ?_⟩
    · have hnone : (m.region (vReg g.b 2 n)).findIdx? (fun i => decide (g.c % 2 ^ 16 ≤ i)) = none := by
        rw [List.findIdx?_eq_none_iff]
        exact fun i hi => decide_eq_false (not_le.mpr (hall i hi))
      exact runSlot_ok h.ready (permute_ok h hvd hp hpass hm hnone)
    · have hsome : (m.region (vReg g.b 2 n)).findIdx? (fun i => decide (g.c % 2 ^ 16 ≤ i)) = some k :=
        findIdx?_first (by rw [Mach.length_region]; exact hk) (decide_eq_true hlen) fun j hj => decide_eq_false (not_le.mpr (hbefore j hj))
      exact runSlot_trap h.ready (permute_outside h hvd hp hpass hm hsome)
  · intro hvd idx src p m1 m hm1 hidx hsrc hone hc hp hpass hm
    exact runSlot_ok h.ready (gather_run h hvd rfl hm1 hidx hsrc hone hc hp hpass hm)
  · intro hf hc idx xs src base p m1 m hm1 hidx hsrc hxs hbase hp hpass hm
    refine ⟨_, _, runSlot_ok h.ready (scatter_run h hf hc hm1 hidx hsrc hxs hbase hp hpass hm), List.length_map .., ?_⟩
    rintro k j hk old mine rfl rfl
    refine ⟨[src, vReg g.b 4 n].any m.regionMarked || (m.winMark m.cur (base.pos j).toNat (elemBytes v.vd)).isSome, ?_⟩
    rw [List.getElem?_map, hk, Option.map_some, Mach.scatterWrite, Mach.scatterSum]
    congr 3
    split <;> rfl

end Sys2Proof.Machine
end

section
/-! PROOFS. Softmax step, normalisation, rotation, masks, token control words, ordering and status (R46, R192 to R199). -/

namespace Sys2Proof.Machine

theorem isInt_of_isFloat {c : ℕ} (h : isFloat c = true) : isInt c = false := by
  unfold isFloat floatFmt at h
  split at h
  any_goals rfl
  exact absurd h Bool.false_ne_true

section
variable {s : State} {gu : Guard} {a b : GF} {n : ℕ} {v : VFmt} {g : VArg} {m0 m : Mach} {p : VPlan} {src d : VReg}

/-- R192: VSMAX once its checks have passed. -/
theorem softmax_run (h : s.vChecked gu false a b n v g p m) (hsrc : src = vReg g.a (elemBytes v.va) n)
    (hd : d = vReg g.d (elemBytes v.vd) n) (hva : floatNot64 v.va = true) (hvd : vectorFmt v.vd = true)
    (hexp : m.expHeld m.cur = false) {rec' : VReg} (hrec : rec' = vReg g.b 16 1)
    (hp : p = { srcs := [src, rec'], dsts := [d], bad := d.stride == 0 && decide (1 < n) }) (hst : rec'.stride = 0) (hc : g.c = 0)
    (hms : rec'.meets src = false) (hmd : rec'.meets d = false) {sm : Softmax}
    (hsm : sm = softmaxStep (m.draw v.dusk 32) (leAt (m.winRead m.cur rec'.off 16) 0 4) (leAt (m.winRead m.cur rec'.off 16) 4 4)
      ((m.region src).map (readNum v.va))) :
    ∃ e, softmax a b s.m = .ok ((), (m.drawn v.dusk).issueV
      (m.regionWrites d (sm.p.map fun x => (roundTo v.vd false (readNum 0 x)).pat) (m.regionMarked src || m.regionMarked rec') ++
        m.regionWrites rec' [sm.m + sm.l * 2 ^ 32 + sm.c * 2 ^ 64] (m.regionMarked src || m.regionMarked rec')) e) := by
  obtain ⟨m0, hrun, ⟨hin, hbad, hal, hclash⟩, rfl⟩ := h
  have hfirst : ∀ x ∈ [d, src, rec'], x.inside m0.cur = true := by rw [hp] at hin; simpa using hin
  have haligned : src.aligned = true ∧ d.aligned = true ∧ rec'.aligned = true := by
    rw [hp] at hal
    have h' : d.off % d.z = 0 ∧ src.off % src.z = 0 ∧ rec'.off % rec'.z = 0 := by simpa using hal
    exact ⟨decide_eq_true h'.2.1, decide_eq_true h'.1, decide_eq_true h'.2.2⟩
  have hlimit : (d.stride == 0 && decide (1 < n)) = false := by rw [hp] at hbad; exact hbad
  have hmeet : (d.meets src && !(d.same src)) = false := by
    rw [hp] at hclash
    simp only [VPlan.clash, List.any_cons, List.any_nil, Bool.or_false, Bool.false_or, Bool.or_eq_false_iff] at hclash
    exact hclash.1
  have hflush : m0.flushOver { srcs := [src, rec'], dsts := [d] } = m0.flushOver p := by rw [hp]; rfl
  refine ⟨(sm.p.map fun q => roundTo v.vd false (readNum 0 q)).foldl (fun e r => e ||| r.ev)
    (sm.ev ||| sigAll v.va ((m0.flushOver p).region src) |||
      sigEv [(0, leAt ((m0.flushOver p).winRead (m0.flushOver p).cur rec'.off 16) 0 4),
        (0, leAt ((m0.flushOver p).winRead (m0.flushOver p).cur rec'.off 16) 4 4)]), ?_⟩
  unfold softmax
  rw [hrun.run]
  simp only [act_bind, act_raiseIf, hva, hvd, Bool.not_true, Bool.or_self, Bool.false_eq_true, if_false, hrun.args, ← hsrc, ← hd, ← hrec,
    vRange_inside hfirst, haligned, hst, hc, bne_self_eq_false, ne_eq, not_true_eq_false, decide_false, hlimit, hms, hmd, hmeet,
    act_modM, hflush, act_getM, act_parkIf, hexp, duskCount_eq, ← hsm, List.map_map, putV_ok]
  rfl

theorem normalise_run (h : s.vChecked gu false a b n v g p m) (hva : floatNot64 v.va = true) (hvd : vectorFmt v.vd = true)
    (hp : p = VForm.plan { arithForm true false true v with scalar := true } false g n) :
    normalise a b s.m = .ok ((), (m.drawn v.dusk).issueRegion (vReg g.d (elemBytes v.vd) n)
      (rmsNorm v.va v.vd (m.draw v.dusk 32) (m.region (vReg g.a (elemBytes v.va) n)) (m.region (vReg g.b (elemBytes v.va) n)) g.c)
      (p.srcs.any m.regionMarked) 0) := by
  subst hp
  unfold normalise
  refine (h.run (bad := fun v => !(floatNot64 v.va) || !(vectorFmt v.vd))
    (P := fun n v g => VForm.plan { arithForm true false true v with scalar := true } false g n) (by rw [hva, hvd]; rfl) rfl).trans ?_
  simp only [act_bind, act_getM, duskCount_eq, putV_ok, Mach.issueRegion, Mach.drawn_regionWrites]

theorem rotate_run (h : s.vChecked gu false a b n v g p m) (hva : floatNot64 v.va = true) (hvd : vectorFmt v.vd = true)
    (hexp : m.expHeld m.cur = false) (half : Bool) (hn : n % 2 = 0) (hc : g.c < 2 ^ 24)
    (hp : p = { srcs := [vReg g.a (elemBytes v.va) n, vReg g.b 4 (n / 2)], dsts := [vReg g.d (elemBytes v.vd) n]
                bad := (vReg g.d (elemBytes v.vd) n).stride == 0 && decide (1 < n) }) :
    rotate a b half s.m = .ok ((), (m.drawn v.dusk).issueRegion (vReg g.d (elemBytes v.vd) n)
      (ropeAll v.va v.vd (m.draw v.dusk 32) half (m.region (vReg g.a (elemBytes v.va) n)) (m.region (vReg g.b 4 (n / 2))) g.c)
      (p.srcs.any m.regionMarked) 0) := by
  have hlow : bits g.c 23 0 = g.c := by rw [bits_zero_eq, Nat.mod_eq_of_lt hc]
  have hhigh : bits g.c 31 24 = 0 := by rw [bits_eq, Nat.div_eq_of_lt hc, Nat.zero_mod]
  have hplan : ({ srcs := [vReg g.a (elemBytes v.va) n, vReg g.b 4 (n / 2)], dsts := [vReg g.d (elemBytes v.vd) n]
                  bad := decide (n % 2 ≠ 0 ∨ bits g.c 31 24 ≠ 0) || ((vReg g.d (elemBytes v.vd) n).stride == 0 && decide (1 < n)) } : VPlan) = p := by
    rw [hp, hn, hhigh]; rfl
  unfold rotate
  refine (h.run (bad := fun v => !(floatNot64 v.va) || !(vectorFmt v.vd)) (P := fun n v g => {
    srcs := [vReg g.a (elemBytes v.va) n, vReg g.b 4 (n / 2)]
    dsts := [vReg g.d (elemBytes v.vd) n]
    bad := decide (n % 2 ≠ 0 ∨ bits g.c 31 24 ≠ 0) || ((vReg g.d (elemBytes v.vd) n).stride == 0 && decide (1 < n)) })
    (by rw [hva, hvd]; rfl) hplan).trans ?_
  simp only [act_bind, act_getM, act_parkIf, hexp, Bool.false_eq_true, if_false, duskCount_eq, hlow, putV_ok, Mach.issueRegion,
    Mach.drawn_regionWrites, hp]

theorem maskRange_run (h : s.vChecked gu false a b n v g p m) (hva : vectorFmt v.va = true) (hvd : vectorFmt v.vd = true) {z : Bool}
    (out : Bool) (hz : z = true ∨ (v.vd ≠ 3 ∧ isFloat v.vd = true)) (hp : p = (arithForm false false false v).plan false { g with b := 0 } n) :
    maskRange a b z out s.m = .ok ((), m.issueRegion (vReg g.d (elemBytes v.vd) n)
      ((m.region (vReg g.a (elemBytes v.va) n)).zipIdx.map fun x => if decide (g.b % 2 ^ 16 ≤ x.2 ∧ x.2 ≤ g.b / 2 ^ 16 % 2 ^ 16) ≠ out
          then v.exact (readNum v.va x.1, 0) (sigEv [(v.va, x.1)])
          else { pat := if z then 0 else (((floatFmt v.vd).map fun f => f.infinity true).getD 0), ev := 0 })
      (p.srcs.any m.regionMarked) 0) := by
  have hbad : (!(anyPair v) || (!z && (decide (v.vd = 3) || isInt v.vd))) = false := by
    rw [anyPair, hva, hvd]
    rcases hz with hz | ⟨h3, hf⟩
    · rw [hz]; rfl
    · rw [decide_eq_false h3, isInt_of_isFloat hf]; simp
  have hlo : bits g.b 15 0 = g.b % 2 ^ 16 := bits_zero_eq _ _
  have hhi : bits g.b 31 16 = g.b / 2 ^ 16 % 2 ^ 16 := bits_eq _ _ _
  subst hp
  unfold maskRange
  refine (h.run (bad := fun v => !(anyPair v) || (!z && (decide (v.vd = 3) || isInt v.vd)))
    (P := fun n v g => VForm.plan { arithForm false false false v with zb := 0 } false { g with b := 0 } n) hbad rfl).trans ?_
  simp only [act_bind, act_getM, hlo, hhi, bne_iff_ne, VFmt.put_none, putV_ok, Mach.issueRegion]
  cases floatFmt v.vd <;> rfl
end

/-- Settles O24: each of the four commands, its checks passed, issues what its step gives. -/
theorem vectorSoftmaxNormRotateMask : Obligations.VectorSoftmaxNormRotateMask := by
  rintro s gu a b n v g m src d xs p h rfl rfl rfl hvd
  refine ⟨?_, ?_, ?_, ?_⟩
  · rintro hva hexp m0 l0 sm hp hst hc hms hmd rfl rfl hsm
    obtain ⟨e, he⟩ := softmax_run h rfl rfl hva hvd hexp rfl hp hst hc hms hmd hsm
    exact ⟨e, runSlot_ok h.ready he⟩
  · exact fun hva hp => runSlot_ok h.ready (normalise_run h hva hvd hp)
  · exact fun hva hexp half hn hc hp => runSlot_ok h.ready (rotate_run h hva hvd hexp half hn hc hp)
  · exact fun hva z out hz hp => runSlot_ok h.ready (maskRange_run h hva hvd out hz hp)

section
variable {s : State} {gu : Guard} {a b : GF} {n : ℕ} {v : VFmt} {g : VArg} {m : Mach} {p : VPlan} {src d : VReg}

/-- R381: with no marked word, the check of the token control words goes on. -/
theorem tcwMark_ok {w : ℕ} (h : m.regionMarked (vReg w 8 n) = false) : tcwMark (vReg w 8 n) m = .ok ((), m) := by
  have hnone : (List.range n).findSome? (fun i => m.winMark m.cur ((vReg w 8 n).pos i).toNat 8) = none := by
    rw [List.findSome?_eq_none_iff]
    intro i hi
    rw [Mach.regionMarked, List.any_eq_false] at h
    have := h i hi
    rwa [Bool.not_eq_true, Option.isSome_eq_false_iff, Option.isNone_iff_eq_none] at this
  simp only [tcwMark, act_bind, act_getM]
  rw [show (vReg w 8 n).n = n from rfl, hnone]
  rfl

theorem vRun_unconditional {l : Bool} {P : ℕ → VArg → VPlan} {rest : ℕ → VArg → Act Unit} (h : s.vChecked gu l a b n v g p m)
    (hp : P n g = p) :
    vRun l (fun n _ => do
      let g ← vArgs a b
      vCheck (P n g)
      rest n g) s.m = rest n g m := by
  obtain ⟨m0, hrun, hpass, rfl⟩ := h
  rw [hrun.run]
  simp only [act_bind, hrun.args, hp, hpass.check]

/-- R46, R196: TCWUPD writes each word by the rule of R46, and lands at once. -/
theorem tcwUpdate_run {entry : VReg} (h : s.vChecked gu false a b n v g p m) (hd : d = vReg g.d 8 n) (hsrc : src = vReg g.a 4 n)
    (he : entry = { vReg g.b 16 1 with off := (vReg g.b 16 1).off + 16 * (g.c % 2 ^ 8) }) (hn : n ≤ 64) (hst : d.stride = 1)
    (htab : (vReg g.b 16 1).stride = 0) (hoff : (vReg g.b 16 1).off % 64 = 0) (hc : g.c < 2 ^ 9)
    (hp : p = { srcs := [src, entry], dsts := [d] }) (hmark : m.regionMarked d = false) :
    ∃ e, tcwUpdate a b s.m = .ok ((), (m.issueV (m.regionWrites d (((m.region d).zip (m.region src)).map fun t =>
      tcwStep t.1 (g.c % 2 ^ 8) (g.c.testBit 8) (readNum 0 t.2) (m.winRead m.cur entry.off 16))
        (m.regionMarked src || m.regionMarked entry)) e).flushV m.cur.id) := by
  subst hd hsrc
  have hlow : bits g.c 7 0 = g.c % 2 ^ 8 := bits_zero_eq _ _
  have hhigh : bits g.c 31 9 = 0 := by rw [bits_eq, Nat.div_eq_of_lt hc, Nat.zero_mod]
  have hbad : (decide (64 < n) || (vReg g.d 8 n).stride != 1 || (vReg g.b 16 1).stride != 0 ||
      decide ((vReg g.b 16 1).off % 64 ≠ 0 ∨ bits g.c 31 9 ≠ 0)) = false := by
    rw [decide_eq_false (not_lt.mpr hn), hst, htab, hoff, hhigh]; rfl
  have hid : ∀ w e, (m.issueV w e).cur.id = m.cur.id := by
    intro w e
    unfold Mach.issueV
    split
    · exact (Mach.flushV_lands (m.withCur { m.cur with vpend := m.cur.vpend ++ [{ writes := w, flags := e, pc := m.cur.pc }] })).cur_id
    · rfl
  refine ⟨if (m.region (vReg g.a 4 n)).any fun x => readNum 0 x == .nan then evInvalid else 0, ?_⟩
  unfold tcwUpdate
  refine (vRun_unconditional h (P := fun n g => {
    srcs := [vReg g.a 4 n, { vReg g.b 16 1 with off := (vReg g.b 16 1).off + 16 * bits g.c 7 0 }]
    dsts := [vReg g.d 8 n]
    bad := decide (64 < n) || (vReg g.d 8 n).stride != 1 || (vReg g.b 16 1).stride != 0 ||
      decide ((vReg g.b 16 1).off % 64 ≠ 0 ∨ bits g.c 31 9 ≠ 0) }) (by rw [hp, hbad, hlow, he])).trans ?_
  have hplace : (vReg g.b 16 1).off + 16 * (g.c % 2 ^ 8) = entry.off := by rw [he]
  simp only [act_bind, tcwMark_ok hmark, act_getM, hlow, ← he, putV_ok, act_modM, hid]
  rw [hplace]
  rfl

/-- R197: TCWCNT counts the words by action, enabled or not, and marked. -/
theorem tcwCounts_run {c : ℕ → ℕ} {ts : List ℕ} (h : s.vChecked gu false a 0 n v g p m)
    (hp : p = { srcs := [vReg g.a 8 n], dsts := [vReg g.d 8 1] }) (hn : n ≤ 64) (hmark : m.regionMarked (vReg g.a 8 n) = false)
    (hts : ts = m.region (vReg g.a 8 n)) (hc : c = fun act => (ts.filter fun t => t.testBit 14 && t % 4 == act).length) :
    tcwCounts a s.m = .ok ((), m.issueV (m.regionWrites (vReg g.d 8 1)
        [c 0 + c 1 * 2 ^ 8 + c 3 * 2 ^ 16 + (ts.filter fun t => !t.testBit 14).length * 2 ^ 24 +
          (ts.filter fun t => t.testBit 15).length * 2 ^ 32 + c 2 * 2 ^ 40] false) 0) := by
  subst hp hc
  unfold tcwCounts
  refine (vRun_unconditional h (P := fun n g => { srcs := [vReg g.a 8 n], dsts := [vReg g.d 8 1], bad := decide (64 < n) })
    (by rw [decide_eq_false (not_lt.mpr hn)])).trans ?_
  simp only [act_bind, tcwMark_ok hmark, act_getM, ← hts, bits_zero_eq, tcwCount, bit, putV_ok]
  rfl

/-- R199: VBSY writes the number of commands in flight, and whether the exponent engine is held. -/
theorem busyWord_run {x : Word} {m1 m2 : Mach} (ha : readG a s.m = .ok (x, m1)) (hd : d = vReg (x.toNat % 2 ^ 32) 8 1)
    (hx : x.toNat / 2 ^ 32 = 0) (hin : d.inside m1.cur = true) (hal : d.off % 8 = 0) (hm : m2 = m1.flushOver { srcs := [], dsts := [d] }) :
    busyWord a s.m = .ok ((), m2.issueV
      (m2.regionWrites d [m2.cur.vpend.length + if m2.expHeld m2.cur then 2 ^ 16 else 0] false) 0) := by
  have hlow : bits x.toNat 31 0 = x.toNat % 2 ^ 32 := bits_zero_eq _ _
  have hhigh : bits x.toNat 63 32 = 0 := by rw [bits_eq, hx, Nat.zero_mod]
  have hpass : (VPlan.mk [] [d] (decide (bits x.toNat 63 32 ≠ 0)) false).passes m1.cur := by
    refine ⟨by simpa using hin, by rw [hhigh]; rfl, fun r hr => ?_, rfl⟩
    obtain rfl : r = d := by simpa using hr
    subst hd
    exact hal
  have hflush : m1.flushOver (VPlan.mk [] [d] (decide (bits x.toNat 63 32 ≠ 0)) false) = m2 := by rw [hm]; rfl
  simp only [busyWord, act_bind, ha, hlow, ← hd, hpass.check, hflush, act_getM, oneBit, putV_ok]
end

/-- Settles O25: TCWUPD and TCWCNT run on whole regions, VFENCE lands earlier commands, VBSY counts those in flight. -/
theorem tokenWordsOrderingStatus : Obligations.TokenWordsOrderingStatus := by
  intro s gu a b n v g m
  refine ⟨?_, ?_, ?_, ?_⟩
  · rintro d src entry conf p h hd hsrc he hn hst htab hoff hc hp hmark rfl
    obtain ⟨e, hrun⟩ := tcwUpdate_run h hd hsrc he hn hst htab hoff hc hp hmark
    exact ⟨e, _, runSlot_ok h.ready hrun, rfl⟩
  · exact fun ts p c h hp hn hmark hts hc => runSlot_ok h.ready (tcwCounts_run h hp hn hmark hts hc)
  · exact fun k hr => runSlot_ok (u := ()) (a := modM fun m => m.flushV m.cur.id) hr rfl
  · exact fun x m1 m2 d hr ha hd hx hin hal hm => runSlot_ok hr (busyWord_run ha hd hx hin hal hm)

end Sys2Proof.Machine
end

section
/-! PROOFS. The operands of a matrix step and its exact sum (R108, R109, R203, R204, R206). -/

namespace Sys2Proof.Machine

section
variable {t : List Byte} {ma mb bs n p : ℕ}

theorem isFp8_iff (c : ℕ) : isFp8 c = true ↔ c = 3 ∨ c = 4 := by simp [isFp8]

/-- R206: the pairs of MMA and MMABT. -/
theorem stepOf_dense {k : Mul} (hk : k = .plain ∨ k = .transposed) (ma mb : ℕ) : stepOf k ma mb =
    if (ma = 1 ∨ ma = 2) ∧ (mb = 1 ∨ mb = 2) then some (false, 2)
    else if (ma = 3 ∨ ma = 4) ∧ (mb = 3 ∨ mb = 4) then some (false, 4)
    else if (ma = 5 ∨ ma = 10) ∧ (mb = 5 ∨ mb = 10) then some (true, 4) else none := by
  rcases hk with rfl | rfl <;> simp only [stepOf, isFp8, Bool.and_eq_true, Bool.or_eq_true, beq_iff_eq]

theorem stepOf_sparse (ma mb : ℕ) :
    stepOf .sparse ma mb = if (ma = 3 ∨ ma = 4) ∧ (mb = 3 ∨ mb = 4) then some (false, 8) else none := by
  simp only [stepOf, isFp8, Bool.and_eq_true, Bool.or_eq_true, beq_iff_eq]

theorem stepOf_codebook (ma mb : ℕ) : stepOf .codebook ma mb = if (ma = 3 ∨ ma = 4) ∧ mb = 8 then some (false, 4) else none := by
  simp only [stepOf, isFp8, Bool.and_eq_true, Bool.or_eq_true, beq_iff_eq]

theorem scaleAt_unscaled (t : List Byte) (area bs line k : ℕ) : scaleAt t area bs false line k = .fin false 1 0 := rfl

/-- R204: a scaled operand has elements of one byte; a codebook index is no number of its own. -/
theorem readNum_scaled (h : scaled ma bs = true) (t : List Byte) (i p q : ℕ) :
    readNum ma (leAt t (i * q + p * elemBytes ma) (elemBytes ma)) = readNum ma (leAt t (i * q + p) 1) := by
  simp only [scaled, isFp8, Bool.and_eq_true, Bool.or_eq_true, beq_iff_eq] at h
  obtain ⟨(rfl | rfl) | rfl, -⟩ := h
  · rw [show elemBytes 3 = 1 from rfl, mul_one]
  · rw [show elemBytes 4 = 1 from rfl, mul_one]
  · rfl

/-- R203, R208: where the element of a sparse row stands, by its metadata. -/
theorem aVal_sparse {md s q i : ℕ} (hmd : md = (t.getD (64 * (64 * ((n + 15) / 16)) + i * (64 * ((n + 63) / 64)) + s) 0).toNat)
    (hq : q < 8) (hs : scaled ma bs = false) :
    aVal .sparse t ma bs n i (8 * s + q) =
      ((if q < 4 ∧ md % 4 = q then readNum ma (leAt t (i * (64 * ((n + 15) / 16)) + 4 * s) 1)
        else if q < 4 ∧ md / 4 % 4 = q then readNum ma (leAt t (i * (64 * ((n + 15) / 16)) + 4 * s + 1) 1)
        else if 4 ≤ q ∧ 4 + md / 16 % 4 = q then readNum ma (leAt t (i * (64 * ((n + 15) / 16)) + 4 * s + 2) 1)
        else if 4 ≤ q ∧ 4 + md / 64 % 4 = q then readNum ma (leAt t (i * (64 * ((n + 15) / 16)) + 4 * s + 3) 1)
        else .fin false 0 0).mul (.fin false 1 0)).1 := by
  have hdiv : (8 * s + q) / 8 = s := by omega
  have hmod : (8 * s + q) % 8 = q := by omega
  simp only [aVal, hdiv, hmod, hs, scaleAt_unscaled, pitchP, pitchMP, ← hmd, bits_eq, pow_zero, Nat.div_one]
  by_cases hlt : q < 4
  · simp only [hlt, not_le.mpr hlt, if_true, true_and, false_and, if_false]
    rfl
  · simp only [hlt, not_lt.mp hlt, if_false, true_and, false_and]
    rfl

/-- A value that is neither a NaN nor an infinity. -/
def Num.isFinite (x : Num) : Prop := ∃ s m e, x = .fin s m e

theorem mul_finite {x y : Num} (hx : x.isFinite) (hy : y.isFinite) : (x.mul y).1.isFinite ∧ (x.mul y).1.rat = x.rat * y.rat := by
  obtain ⟨s, m, e, rfl⟩ := hx
  obtain ⟨t, n, f, rfl⟩ := hy
  exact ⟨⟨_, _, _, rfl⟩, (mul_fin_rat s t m n e f).1⟩

theorem add_finite {x y : Num} (hx : x.isFinite) (hy : y.isFinite) : (x.add y).1.isFinite ∧ (x.add y).1.rat = x.rat + y.rat := by
  obtain ⟨s, m, e, rfl⟩ := hx
  obtain ⟨t, n, f, rfl⟩ := hy
  refine ⟨?_, (add_fin_rat s t m n e f).1⟩
  simp only [Num.add]
  split <;> exact ⟨_, _, _, rfl⟩

/-- R114, R206: a step's sum of finite products is exact. -/
theorem stepSum_exact {a b : ℕ → Num} (ha : ∀ k, (a k).isFinite) (hb : ∀ k, (b k).isFinite) (n p : ℕ) :
    (stepSum a b n p).isFinite ∧ (stepSum a b n p).rat = ((List.range n).map fun k => (a (p + k)).rat * (b (p + k)).rat).sum := by
  induction n generalizing p with
  | zero => exact ⟨⟨_, _, _, rfl⟩, by simp [stepSum, Num.rat]⟩
  | succ n ih =>
    obtain ⟨hfin, hsum⟩ := ih (p + 1)
    obtain ⟨hm, hmr⟩ := mul_finite (ha p) (hb p)
    obtain ⟨hs, hsr⟩ := add_finite hm hfin
    refine ⟨hs, ?_⟩
    show ((a p).mul (b p)).1.add (stepSum a b n (p + 1)) |>.1.rat = _
    rw [hsr, hmr, hsum, List.range_succ_eq_map, List.map_cons, List.map_map, List.sum_cons, add_zero]
    congr 3
    funext k
    simp only [Function.comp, Nat.succ_eq_add_one, add_assoc, add_comm 1]
end

/-- Settles O26: the tables of K positions, the places of elements and scales, and the exact sum of a step. -/
theorem matrixOperands : Obligations.MatrixOperands := by
  intro t mx ma mb bs n step i p j hi hj
  refine ⟨fun k hk => stepOf_dense hk ma mb, stepOf_sparse ma mb, stepOf_codebook ma mb, ⟨fun h => ?_, fun h => ?_, fun h => ?_⟩,
    fun h x hx => ?_, fun md s q hmd hq hs => aVal_sparse hmd hq hs, fun a b ha hb => (stepSum_exact ha hb n p).2⟩
  · simp only [aVal, h, scaleAt_unscaled, pitchP]
  · simp only [bVal, h, scaleAt_unscaled]
  · simp only [bVal, h, scaleAt_unscaled, pitchP]
  · subst hx
    simp only [aVal, h, readNum_scaled h, scaleAt, if_true, pitchP]
    rfl

end Sys2Proof.Machine
end

section
/-! SUPPORT. How a matrix command leaves its slot: drains land, it enters, it takes its place in the array (R124, R129, R210, R211). -/

namespace Sys2Proof.Machine

/-! ### Maps that hold elements by their key -/

theorem SMap.get_filterMap_range {α : Type} [DecidableEq α] {d : α} (f : ℕ → α) (l : List ℕ) (k : ℕ) :
    SMap.get d (l.filterMap fun k => if f k = d then none else some (k, f k)) k = if k ∈ l then f k else d := by
  induction l with
  | nil => rfl
  | cons j l ih =>
    by_cases hj : f j = d
    · rw [List.filterMap_cons_none (by simp [hj]), ih]
      by_cases hkj : k = j
      · subst hkj; simp [hj]
      · simp [hkj]
    · rw [List.filterMap_cons_some (b := (j, f j)) (by simp only [hj, if_false]), SMap.get, ih]
      by_cases hkj : j = k
      · subst hkj; simp
      · simp [hkj, Ne.symm hkj]

/-- An accumulator made from a function holds its values. -/
theorem accOf_get (f : ℕ → W32) {k : ℕ} (h : k < 4096) : SMap.get 0 (accOf f) k = f k := by
  rw [accOf, SMap.get_filterMap_range, if_pos (List.mem_range.mpr h)]

theorem leAt_lt (l : List Byte) (off n : ℕ) : leAt l off n < 2 ^ (8 * n) := by
  refine (leNat_lt _).trans_le (Nat.pow_le_pow_right two_pos ?_)
  have := List.length_take_le n (l.drop off)
  rw [slice]
  omega

theorem ofNat_leAt (l : List Byte) (off : ℕ) : (BitVec.ofNat 32 (leAt l off 4)).toNat = leAt l off 4 := by
  rw [BitVec.toNat_ofNat, Nat.mod_eq_of_lt (leAt_lt l off 4)]

theorem Mach.length_winRead (m : Mach) (c : Cont) (off n : ℕ) : (m.winRead c off n).length = n := by
  unfold Mach.winRead
  split
  · exact Memory.length_gets _ _ _
  · split
    · exact Memory.length_gets _ _ _
    · simp [rangeFrom]

/-! ### What landing drains leaves -/

/-- R86: landing a continuation's own drains changes memory and empties the writes of the commands in its array. -/
theorem Mach.landDrains_own (m : Mach) : ∃ x, m.landDrains m.cur.id = { m with mem := x, cur := { m.cur with mx := { m.cur.mx with
    array := m.cur.mx.array.map fun (k : MCmd) => { k with writes := [] } } } } := by
  simp only [Mach.landDrains, Mach.cont?, Mach.setCont, beq_self_eq_true, if_true]
  exact ⟨_, rfl⟩

theorem Mach.drawn_landDrains (m : Mach) (on : Bool) (id : ℕ) : (m.drawn on).landDrains id = (m.landDrains id).drawn on := by
  unfold Mach.drawn
  cases on
  · rfl
  · simp only [if_true, Mach.landDrains, Mach.cont?]
    split
    · rfl
    · simp only [Mach.setCont]
      split <;> rfl

theorem Mach.drawn_winRead (m : Mach) (on : Bool) (c : Cont) (off n : ℕ) : (m.drawn on).winRead c off n = m.winRead c off n := by
  unfold Mach.drawn; split <;> rfl

theorem Mach.drawn_winMark (m : Mach) (on : Bool) (c : Cont) (off n : ℕ) : (m.drawn on).winMark c off n = m.winMark c off n := by
  unfold Mach.drawn; split <;> rfl

theorem Mach.drawn_drainTargets (m : Mach) (on : Bool) (c : Cont) (k : ℕ) : (m.drawn on).drainTargets c k = m.drainTargets c k := by
  unfold Mach.drawn; split <;> rfl

theorem Mach.drawn_mem (m : Mach) (on : Bool) : (m.drawn on).mem = m.mem := by
  unfold Mach.drawn; split <;> rfl

/-! ### Waiting for tiles and drains -/

theorem Cont.tileAt_congr {c c' : Cont} (hr : c'.mx.rings = c.mx.rings) (hp : c'.mx.cpos = c.mx.cpos) (q : ℕ) :
    c'.tileAt q = c.tileAt q := by
  simp only [Cont.tileAt, hr, hp]

/-- What a command waits for does not depend on the writes that drains have still to make. -/
theorem Cont.mReady_landed (c : Cont) (i : Instr) : ({ c with mx := { c.mx with
    array := c.mx.array.map fun (k : MCmd) => { k with writes := [] } } } : Cont).mReady i = c.mReady i := by
  unfold Cont.mReady
  cases (mNeeds i).2 with
  | none => rfl
  | some a =>
    simp only [List.any_map]
    rfl

theorem Cont.queue1Ready_landed (c : Cont) : ({ c with mx := { c.mx with
    array := c.mx.array.map fun (k : MCmd) => { k with writes := [] } } } : Cont).queue1Ready = c.queue1Ready := by
  simp only [Cont.queue1Ready, Cont.mReady_landed]

/-- A command may enter once its tiles are there and its accumulator's drains are over (R211). -/
theorem Cont.mReady_of {c : Cont} {i : Instr} (ht : ∀ q ∈ (mNeeds i).1, ∃ x, c.tileAt q = .ok x) (ha : ∀ a ∈ (mNeeds i).2, c.noDrain a) :
    c.mReady i = true := by
  unfold Cont.mReady
  rw [Bool.and_eq_true, List.all_eq_true]
  refine ⟨fun q hq => ?_, ?_⟩
  · obtain ⟨x, hx⟩ := ht q hq
    rw [hx]
  · cases hacc : (mNeeds i).2 with
    | none => rfl
    | some a =>
      have : (c.mx.array.any fun k => k.drain && k.acc == a) = false := by
        rw [List.any_eq_false]
        intro k hk hc
        rw [Bool.and_eq_true, beq_iff_eq] at hc
        exact ha a (by rw [hacc]; rfl) k hk hc.1 hc.2
      simp only [this, Bool.not_false]

theorem Cont.ringsReady_of_mReady {c : Cont} {i : Instr} (h : c.mReady i = true) : c.ringsReady i = true := by
  rw [Cont.mReady, Bool.and_eq_true] at h
  exact h.1

/-! ### Entering -/

theorem enter_bind {α β : Type} (x : α) (f : α → Enter β) : ((Except.ok x : Enter α) >>= f) = f x := rfl

theorem enter_bind_error {α β : Type} (x : Stop) (f : α → Enter β) : ((Except.error x : Enter α) >>= f) = .error x := rfl

theorem enter_pure {α : Type} (x : α) : (pure x : Enter α) = .ok x := rfl

theorem failIf_false {b : Bool} {c : Cause} {fa : Word} (h : b = false) : failIf b c fa = .ok () := by rw [failIf, h]; rfl

theorem failIf_true {b : Bool} {c : Cause} {fa : Word} (h : b = true) :
    failIf b c fa = .error (.trap { cause := c, faddr := fa }) := by rw [failIf, h]; rfl

theorem arrayRead_inside {m : Mach} {c : Cont} {off n : ℕ} (h : c.inWindow off n = true) : m.arrayRead c off n = .ok (m.winRead c off n) := by
  rw [Mach.arrayRead, h]; rfl

section
variable {s : State} {gu : Guard} {f : W32} {m : Mach} {i : Instr} {enter : Mach → Cont → W32 → Option ℕ → Enter Entered}

theorem State.mRuns.ready (h : s.mRuns gu f m) : s.Ready gu .m := h.1

/-- R25, R129, R210, R211: up to its entry a matrix command waits, takes its fmt, draws in Dusk mode and lands its drains. -/
theorem mSlot_run (h : s.mRuns gu f m) (hr : m.cur.ringsReady i = true) :
    mSlot i enter s.m = (match enter (m.drawn (fmtDusk f)) m.cur f (s.m.draw (fmtDusk f) 32) with
      | .error e => fun _ => .error e
      | .ok e => do
        parkIf (!(m.cur.mReady i))
        modM fun m => m.place m.cur.id e (e.cmd m.nextCmd (m.cur.insnNow.setWidth 64) f .slot m.cur.pc)
        flagEventsAt 4 e.ev : Act Unit) (m.drawn (fmtDusk f)) := by
  obtain ⟨-, hclaim, hruns, hfirst, rfl, rfl⟩ := h
  obtain ⟨x, hland⟩ := s.m.landDrains_own
  have hrings : s.m.cur.ringsReady i = true := by
    rw [hland] at hr
    simpa only [Cont.ringsReady, Cont.tileAt] using hr
  have hyield : (!(fmtPq (s.m.landDrains s.m.cur.id).cur.fmt) && (s.m.landDrains s.m.cur.id).cur.queue1Ready) = false := by
    have hq : (s.m.landDrains s.m.cur.id).cur.queue1Ready = s.m.cur.queue1Ready := by rw [hland]; exact s.m.cur.queue1Ready_landed
    have hf : (s.m.landDrains s.m.cur.id).cur.fmt = s.m.cur.fmt := by rw [hland]
    rw [hq, hf]
    rcases hfirst with h | h
    · rw [show fmtPq s.m.cur.fmt = true from h]; rfl
    · rw [h, Bool.and_false]
  have hdusk : (if fmtDusk s.m.fmtNow then do
        let n ← fresh
        pure (some (n * 2 ^ 32))
      else pure none : Act (Option ℕ)) s.m = .ok (s.m.draw (fmtDusk s.m.fmtNow) 32, s.m.drawn (fmtDusk s.m.fmtNow)) := by
    unfold Mach.draw Mach.drawn
    cases fmtDusk s.m.fmtNow <;> rfl
  unfold mSlot
  simp only [act_bind, needClaim_ok hclaim, act_getM, act_awaitIf, hruns, hrings, Bool.not_true, Bool.or_self, Bool.false_eq_true,
    if_false, act_takeFmt, hdusk, act_modM, Mach.drawn_landDrains, Mach.drawn_region]
  cases enter ((s.m.landDrains s.m.cur.id).drawn (fmtDusk s.m.fmtNow)) (s.m.landDrains s.m.cur.id).cur s.m.fmtNow
      (s.m.draw (fmtDusk s.m.fmtNow) 32) with
  | error e => rfl
  | ok e => simp only [hyield, Bool.or_false]

/-- A command whose entry fails reports its failure (R210). -/
theorem mSlot_trap (h : s.mRuns gu f m) (hr : m.cur.ringsReady i = true) {t : Trap}
    (he : enter (m.drawn (fmtDusk f)) m.cur f (s.m.draw (fmtDusk f) 32) = .error (.trap t)) : mSlot i enter s.m = .error (.trap t) := by
  rw [mSlot_run h hr, he]

/-- R211: a command that enters takes its place, and its events go to slot 4's flags. -/
theorem mSlot_ok (h : s.mRuns gu f m) (hr : m.cur.mReady i = true) {e : Entered}
    (he : enter (m.drawn (fmtDusk f)) m.cur f (s.m.draw (fmtDusk f) 32) = .ok e) :
    ∃ m' k, mSlot i enter s.m = .ok ((), m') ∧ k = e.cmd m.nextCmd (m.cur.insnNow.setWidth 64) f .slot m.cur.pc ∧
      m'.cur.mx = { e.mx with
        array := e.mx.array ++ [k]
        portDrains := if k.waits.getLsbD 5 then e.mx.portDrains ++ [k.id] else e.mx.portDrains } ∧
      m'.mem = m.mem ∧ m'.cur.g = m.cur.g ∧ m'.cur.p = m.cur.p := by
  rw [mSlot_run h (Cont.ringsReady_of_mReady hr), he]
  have hn : (m.drawn (fmtDusk f)).nextCmd = m.nextCmd := by unfold Mach.drawn; split <;> rfl
  simp only [act_bind, act_parkIf, hr, Bool.not_true, Bool.false_eq_true, if_false, act_modM, Mach.drawn_region, hn, flagEventsAt, act_modC,
    Mach.place, Mach.cont?, Mach.setCont, beq_self_eq_true, if_true]
  obtain ⟨fl, fe, k, x, hs⟩ := Cont.setFlags_lands { m.cur with mx := { e.mx with
    array := e.mx.array ++ [e.cmd m.nextCmd (m.cur.insnNow.setWidth 64) f .slot m.cur.pc]
    portDrains := if (e.cmd m.nextCmd (m.cur.insnNow.setWidth 64) f .slot m.cur.pc).waits.getLsbD 5 then
      e.mx.portDrains ++ [(e.cmd m.nextCmd (m.cur.insnNow.setWidth 64) f .slot m.cur.pc).id] else e.mx.portDrains } } 4 e.ev false m.cur.pc
  rw [hs]
  exact ⟨_, _, rfl, rfl, rfl, m.drawn_mem _, rfl, rfl⟩
end

end Sys2Proof.Machine
end

section
/-! SUPPORT. The elements of a multiply: every result of an addition is a 32-bit pattern, and the steps are those of R207. -/

namespace Sys2Proof.Machine

/-- FP32 (R105). -/
def fp32 : FloatFmt := { w := 8, t := 23, bias := 127 }

theorem shiftRight_log2_lt (n t : ℕ) : (n <<< t) >>> n.log2 < 2 ^ (t + 1) := by
  rw [Nat.shiftRight_eq_div_pow, Nat.shiftLeft_eq]
  refine Nat.div_lt_of_lt_mul ?_
  have : n < 2 ^ (n.log2 + 1) := Nat.lt_log2_self
  calc n * 2 ^ t < 2 ^ (n.log2 + 1) * 2 ^ t := Nat.mul_lt_mul_of_pos_right this (Nat.two_pow_pos t)
    _ = 2 ^ n.log2 * 2 ^ (t + 1) := by rw [pow_succ, pow_succ, mul_assoc, mul_comm 2]

/-- R106: rounding to FP32 gives a pattern of 32 bits. -/
theorem fp32_round_lt (x : Num) : (fp32.round false x).pat < 2 ^ 32 := by
  cases x with
  | nan => decide
  | inf s => cases s <;> decide
  | fin s m e =>
    have hbit : oneBit s (fp32.w + fp32.t) ≤ 2 ^ 31 := by cases s <;> decide
    by_cases hm : m = 0
    · rw [FloatFmt.round, if_pos hm]
      exact hbit.trans_lt (by decide)
    · have hspec := fp32.unitExp_spec hm e rfl
      rw [FloatFmt.round_pat rfl rfl (by decide) s hm e rfl]
      generalize (toUnit false m e (fp32.unitExp m e) false).1 = n at *
      generalize fp32.unitExp m e = q at *
      have hn := shiftRight_log2_lt n fp32.t
      simp only [show fp32.t = 23 from rfl, show fp32.emin = -126 from rfl, show fp32.emax = 127 from rfl,
        show fp32.bias = 127 from rfl] at *
      split_ifs with hinf hsub
      · cases s <;> decide
      · have : n ≤ 2 ^ 23 := by
          rcases hspec with ⟨-, h⟩ | ⟨-, -, -, h⟩
          · exact h
          · rcases hsub with h' | h'
            · exact absurd h (not_le.mpr h')
            · omega
        omega
      · omega

theorem roundTo_fp32_lt (x : Num) : (roundTo 0 false x).pat < 2 ^ 32 := fp32_round_lt x

theorem roundTo_int32_lt (x : Num) : (roundTo 6 false x).pat < 2 ^ 32 := by
  have h := Int.emod_lt_of_pos (toIntFmt 32 true false x).1 (b := (2 ^ 32 : ℕ)) (by norm_num)
  have h0 := Int.emod_nonneg (toIntFmt 32 true false x).1 (b := (2 ^ 32 : ℕ)) (by norm_num)
  show ((toIntFmt 32 true false x).1 % (2 ^ 32 : ℕ)).toNat < 2 ^ 32
  omega

/-- One K-step of an element, outside Dusk mode (R114, R115, R207). -/
def mulStep (int : Bool) (step : ℕ) (a b : ℕ → Num) (acc : Rounded) (k : ℕ) : Rounded :=
  let p := stepSum a b step (step * k)
  let code := if int then 6 else 0
  let x := (readNum code acc.pat).add p
  let r := roundTo code false x.1
  { pat := r.pat
    ev := if int then r.ev ||| acc.ev
      else (r.ev ||| x.2 ||| (if p = .nan then evInvalid else 0) ||| sigEv [(0, acc.pat)]) ||| acc.ev }

theorem mulSteps_eq_foldl (int : Bool) (step ks : ℕ) (a b : ℕ → Num) (start : ℕ) :
    mulSteps int step ks a b start = (List.range ks).foldl (mulStep int step a b) { pat := start, ev := 0 } := rfl

theorem elemGo_eq_foldl (int : Bool) (step : ℕ) (a b : ℕ → Num) (n s : ℕ) (acc : Rounded) :
    elemGo int none step a b n s acc = (List.range' s n).foldl (mulStep int step a b) acc := by
  induction n generalizing s acc with
  | zero => rfl
  | succ n ih =>
    rw [elemGo, List.range'_succ, List.foldl_cons, ← ih]
    cases int <;> rfl

/-- Outside Dusk mode an element's steps are those of R207. -/
theorem elemGo_mulSteps (int : Bool) (step ks : ℕ) (a b : ℕ → Num) (start : ℕ) :
    elemGo int none step a b ks 0 { pat := start, ev := 0 } = mulSteps int step ks a b start := by
  rw [elemGo_eq_foldl, mulSteps_eq_foldl, List.range_eq_range']

theorem mulSteps_lt (int : Bool) (step ks : ℕ) (a b : ℕ → Num) {start : ℕ} (h : start < 2 ^ 32) :
    (mulSteps int step ks a b start).pat < 2 ^ 32 := by
  rw [mulSteps_eq_foldl]
  cases ks with
  | zero => exact h
  | succ n =>
    rw [List.range_succ, List.foldl_append]
    cases int
    · exact roundTo_fp32_lt _
    · exact roundTo_int32_lt _

/-! ### Consuming tiles (R202) -/

/-- A tile consumed, unless it is kept. -/
def Matrix.consumeUnless (x : Matrix) (keep : Bool) (q : ℕ) : Matrix := if keep then x else x.consume q

theorem consumeUnless_acc (x : Matrix) (keep : Bool) (q : ℕ) : (x.consumeUnless keep q).acc = x.acc := by
  unfold Matrix.consumeUnless; split <;> rfl

theorem consumeUnless_rings (x : Matrix) (keep : Bool) (q : ℕ) : (x.consumeUnless keep q).rings = x.rings := by
  unfold Matrix.consumeUnless; split <;> rfl

theorem consumeUnless_array (x : Matrix) (keep : Bool) (q : ℕ) : (x.consumeUnless keep q).array = x.array := by
  unfold Matrix.consumeUnless; split <;> rfl

theorem consume_cpos (x : Matrix) {q k : ℕ} (hk : k < 16) :
    vget (x.consume q).cpos k 0 = vget x.cpos k 0 + if k = q then 1 else 0 := by
  rw [Matrix.consume, vget_vset]
  by_cases h : k = q
  · subst h; rw [if_pos ⟨rfl, hk⟩, if_pos rfl]
  · rw [if_neg fun hc => h hc.1, if_neg h]
    exact (BitVec.add_zero _).symm

theorem consumeUnless_cpos (x : Matrix) (keep : Bool) {q k : ℕ} (hk : k < 16) :
    vget (x.consumeUnless keep q).cpos k 0 = vget x.cpos k 0 + if keep = false ∧ k = q then 1 else 0 := by
  unfold Matrix.consumeUnless
  cases keep
  · simp only [Bool.false_eq_true, if_false, true_and, consume_cpos x hk]
  · simp only [if_true, Bool.true_eq_false, false_and, if_false]
    exact (BitVec.add_zero _).symm

/-! ### A multiply as it enters (R205 to R208) -/

section
variable {k : Mul} {qa qb acc ks : ℕ} {z ka kb : Bool} {m : Mach} {c : Cont} {f : W32} {dk : Option ℕ} {oa ob ra rb : ℕ}

theorem enterMul_badFormat (hta : c.tileAt qa = .ok (oa, ra)) (htb : c.tileAt qb = .ok (ob, rb))
    (hstep : stepOf k (fmtMa f) (fmtMb f) = none) :
    enterMul k qa qb acc z ks ka kb m c f dk = .error (.trap { cause := 0x1007 }) := by
  unfold enterMul
  simp only [hta, htb, enter_bind, hstep]
  rfl

/-- What the elements of an accumulator start from (R205). -/
def AccState.from (old : AccState) (z : Bool) (r j : ℕ) : ℕ := if z then 0 else (old.at r j).toNat

theorem enterMul_ok {int : Bool} {step rows : ℕ} {old : AccState} (hta : c.tileAt qa = .ok (oa, ra)) (htb : c.tileAt qb = .ok (ob, rb))
    (hstep : stepOf k (fmtMa f) (fmtMb f) = some (int, step)) (hold : old = vget c.mx.acc acc {})
    (hsp : k = .sparse → fmtNm f = 0) (hbs : isFp8 (fmtMa f) = true ∨ isFp8 (fmtMb f) = true ∨ fmtMb f = 8 → fmtBs f ≠ 3)
    (hkind : z = false → old.int = int) {needA needB : ℕ}
    (hneedA : needA = tileBytes k true ks step 0 + (if scaled (fmtMa f) (fmtBs f) then 4096 else 0))
    (hneedB : needB = tileBytes k false ks step (elemBytes (fmtMb f)) + (if scaled (fmtMb f) (fmtBs f) then 4096 else 0))
    (hwa : c.inWindow oa needA = true) (hwb : c.inWindow ob needB = true) (hwr : c.inWindow ra 1 = true)
    (hra : needA ≤ ringSize (vget c.mx.rings qa 0)) (hrb : needB ≤ ringSize (vget c.mx.rings qb 0))
    (hmark : m.winMark c ra 1 = none) (hrows : rows = leNat (m.winRead c ra 1)) (hle : rows ≤ 64) :
    ∃ e st, enterMul k qa qb acc z ks ka kb m c f dk = .ok e ∧
      e.mx = (({ c.mx with acc := vset c.mx.acc acc st } : Matrix).consumeUnless ka qa).consumeUnless kb qb ∧
      e.pops = (if ka then [] else [qa]) ++ (if kb then [] else [qb]) ∧ e.drain = false ∧ e.writes = [] ∧
      st.int = int ∧ st.mark.toNat = (if z then rows else max old.mark.toNat rows) ∧
      (∀ r j, r < rows → j < 64 → st.at r j = BitVec.ofNat 32 (elemGo int (dk.map (· + (64 * r + j) * 128)) step
        (aVal k (m.winRead c oa needA) (fmtMa f) (fmtBs f) ks r)
        (fun p => bVal k (m.winRead c ob needB) c.mx (fmtMb f) (fmtBs f) ks step p j) ks 0 { pat := old.from z r j, ev := 0 }).pat) ∧
      ∀ r j, rows ≤ r → r < 64 → j < 64 → (st.at r j).toNat = old.from z r j := by
  have hfmt : ((k == .sparse && fmtNm f ≠ 0) || ((isFp8 (fmtMa f) || isFp8 (fmtMb f) || fmtMb f == 8) && fmtBs f == 3) ||
      (!z && old.int != int)) = false := by
    have h1 : (k == .sparse && decide (fmtNm f ≠ 0)) = false := by
      by_cases h : k = .sparse
      · rw [hsp h]; simp
      · rw [beq_eq_false_iff_ne.mpr h, Bool.false_and]
    have h2 : ((isFp8 (fmtMa f) || isFp8 (fmtMb f) || fmtMb f == 8) && fmtBs f == 3) = false := by
      rw [Bool.and_eq_false_iff]
      by_cases h : isFp8 (fmtMa f) = true ∨ isFp8 (fmtMb f) = true ∨ fmtMb f = 8
      · exact .inr (beq_eq_false_iff_ne.mpr (hbs h))
      · left; simpa [not_or, and_assoc] using h
    have h3 : (!z && old.int != int) = false := by
      cases z
      · rw [hkind rfl, bne_self_eq_false, Bool.and_false]
      · rfl
    rw [h1, h2, h3]; rfl
  have hring : decide (ringSize (vget c.mx.rings qa 0) < needA ∨ ringSize (vget c.mx.rings qb 0) < needB) = false :=
    decide_eq_false (by omega)
  have hrow : ∀ r j, r < 64 → j < 64 → 64 * r + j < 4096 := by omega
  have hdiv : ∀ r j, j < 64 → (64 * r + j) / 64 = r ∧ (64 * r + j) % 64 = j := by omega
  have hlt7 : (if z then rows else max old.mark.toNat rows) < 2 ^ 7 := by have := old.mark.isLt; split <;> omega
  obtain ⟨start, hstart⟩ : ∃ start : AccState, start = if z then { int := int, mark := BitVec.ofNat 7 rows }
        else { old with mark := BitVec.ofNat 7 (max old.mark.toNat rows) } := ⟨_, rfl⟩
  have hint : start.int = int := by
    cases z
    · rw [hstart]; exact hkind rfl
    · rw [hstart]; rfl
  have hm : start.mark.toNat = if z then rows else max old.mark.toNat rows := by
    cases z
    · rw [hstart]; exact (BitVec.toNat_ofNat _ _).trans (Nat.mod_eq_of_lt hlt7)
    · rw [hstart]; exact (BitVec.toNat_ofNat _ _).trans (Nat.mod_eq_of_lt hlt7)
  have hfrom : ∀ r j, (start.at r j).toNat = old.from z r j := by intro r j; cases z <;> rw [hstart] <;> rfl
  unfold enterMul
  simp only [hta, htb, enter_bind, hstep, ← hold, failIf_false hfmt, ← hneedA, ← hneedB, arrayRead_inside hwa, arrayRead_inside hwb,
    arrayRead_inside hwr, failIf_false hring, hmark, ← hrows, failIf_false (decide_eq_false (not_lt.mpr hle)), enter_pure, ← hstart]
  refine ⟨_, _, rfl, rfl, rfl, rfl, rfl, hint, hm, fun r j hr hj => ?_, fun r j hr hr' hj => ?_⟩
  · have hlt : 64 * r + j < 64 * rows := by omega
    simp only [AccState.at, accOf_get _ (hrow r j (by omega) hj), if_pos hlt]
    rw [List.getD_eq_getElem _ _ (by simpa using hlt), List.getElem_map, List.getElem_range, (hdiv r j hj).1, (hdiv r j hj).2]
    exact congrArg (fun p => BitVec.ofNat 32 (elemGo int (dk.map (· + (64 * r + j) * 128)) step _ _ ks 0 { pat := p, ev := 0 }).pat) (hfrom r j)
  · simp only [AccState.at, accOf_get _ (hrow r j hr' hj), if_neg (show ¬64 * r + j < 64 * rows by omega), (hdiv r j hj).1, (hdiv r j hj).2]
    exact hfrom r j
end

end Sys2Proof.Machine
end

section
/-! PROOFS. Matrix multiply (R205 to R208, R211). -/

namespace Sys2Proof.Machine

section
variable {s : State} {gu : Guard} {qa qb : Q} {acc : Acc} {z ka kb : Bool} {ks : BitVec 7} {i : Instr} {k : Mul} {f : W32} {m : Mach}
  {oa ob ra rb : ℕ}

/-- The four multiplies differ in how they read their tiles alone (R205, R206). -/
theorem exec_multiply (hi : (i, k) ∈ [(Instr.mma gu qa qb acc z ks ka kb, Mul.plain), (.mmabt gu qa qb acc z ks ka kb, .transposed),
      (.mmasp gu qa qb acc z ks ka kb, .sparse), (.mmacb gu qa qb acc z ks ka kb, .codebook)]) :
    mNeeds i = ([qa.toNat, qb.toNat], some acc.toNat) ∧ exec i s = runSlot i .m (some gu)
      (mSlot i (enterMul k qa.toNat qb.toNat acc.toNat z ks.toNat ka kb)) s := by
  simp only [List.mem_cons, Prod.mk.injEq, List.not_mem_nil, or_false] at hi
  obtain ⟨rfl, rfl⟩ | ⟨rfl, rfl⟩ | ⟨rfl, rfl⟩ | ⟨rfl, rfl⟩ := hi
  all_goals exact ⟨rfl, rfl⟩

theorem multiply_ready (hi : mNeeds i = ([qa.toNat, qb.toNat], some acc.toNat)) (hacc : m.cur.noDrain acc.toNat)
    (hta : m.cur.tileAt qa.toNat = .ok (oa, ra)) (htb : m.cur.tileAt qb.toNat = .ok (ob, rb)) : m.cur.mReady i = true := by
  refine Cont.mReady_of ?_ ?_
  · rw [hi]
    simp only [List.forall_mem_cons, List.not_mem_nil, false_implies, implies_true, and_true]
    exact ⟨⟨_, hta⟩, _, htb⟩
  · rw [hi]
    rintro a ⟨rfl⟩
    exact hacc

theorem fmt_fields (f : W32) : fmtMa f = f.toNat % 16 ∧ fmtMb f = f.toNat / 16 % 16 ∧ fmtMc f = f.toNat / 2 ^ 8 % 16 ∧
    fmtBs f = f.toNat / 2 ^ 20 % 4 ∧ fmtNm f = f.toNat / 2 ^ 22 % 4 :=
  ⟨bits_zero_eq _ _, bits_eq _ _ _, bits_eq _ _ _, bits_eq _ _ _, bits_eq _ _ _⟩

theorem draw_of_exact (h : f.getLsbD 25 = false) (m : Mach) (w : ℕ) : m.draw (fmtDusk f) w = none := by
  rw [Mach.draw, show fmtDusk f = false from h]; rfl
end

/-- Settles O27: a multiply enters with its tiles there, and the accumulator it leaves holds the steps of each element. -/
theorem matrixMultiply : Obligations.MatrixMultiply := by
  intro s gu qa qb acc z ka kb ks i k f m oa ob ra rb hi h hacc hta htb
  obtain ⟨hneeds, hexec⟩ := exec_multiply (s := s) hi
  have hready := multiply_ready hneeds hacc hta htb
  obtain ⟨hma, hmb, -, hbs', hnm⟩ := fmt_fields f
  rw [hexec]
  refine ⟨fun hstep => ?_, ?_⟩
  · exact runSlot_trap h.ready (mSlot_trap h (Cont.ringsReady_of_mReady hready) (enterMul_badFormat hta htb (by rwa [hma, hmb])))
  · rintro int step ma mb bs old needA needB rows start hstep rfl rfl rfl hold hsp hbs hkind hneedA hneedB hwa hwb hwr hra hrb hmark
      hrows hle rfl
    obtain ⟨e, st, he, hmx, hpops, hdrain, hwrites, hint, hmk, hin, hout⟩ := enterMul_ok (m := m.drawn (fmtDusk f))
      (dk := s.m.draw (fmtDusk f) 32) (ka := ka) (kb := kb) hta htb (by rwa [hma, hmb]) hold
      (by rwa [hnm]) (by rwa [hma, hmb, hbs']) hkind (by rwa [hma, hbs']) (by rwa [hmb, hbs']) hwa hwb hwr hra hrb
      (by rwa [Mach.drawn_winMark]) (by rwa [Mach.drawn_winRead]) hle
    obtain ⟨m', c, hrun, hc, hmx', hmem, hg, hp⟩ := mSlot_ok h hready he
    have hst : vget m'.cur.mx.acc acc.toNat {} = st := by
      rw [hmx']
      show vget e.mx.acc acc.toNat {} = st
      rw [hmx, consumeUnless_acc, consumeUnless_acc]
      exact vget_vset_same acc.isLt
    refine ⟨m', runSlot_ok h.ready hrun, by rw [hst]; exact hint, by rw [hst]; exact hmk, fun hexact r j hr hj => ?_,
      fun r j hr hr' hj => by rw [hst]; exact hout r j hr hr' hj, fun b hb hne => ?_, fun q hq => ?_, ?_, hmem, hg, hp,
      c, ?_, ?_, ?_, ?_⟩
    · rw [hst, hin r j hr hj, draw_of_exact hexact, Option.map_none, elemGo_mulSteps, BitVec.toNat_ofNat, Mach.drawn_winRead,
        Mach.drawn_winRead, hma, hmb, hbs']
      refine Nat.mod_eq_of_lt (mulSteps_lt _ _ _ _ _ ?_)
      cases z
      · exact (old.at r j).isLt
      · exact Nat.two_pow_pos 32
    · rw [hmx']
      show vget e.mx.acc b {} = _
      rw [hmx, consumeUnless_acc, consumeUnless_acc]
      exact vget_vset_ne hne
    · rw [hmx']
      show vget e.mx.cpos q 0 = _
      rw [hmx, consumeUnless_cpos _ _ hq, consumeUnless_cpos _ _ hq]
    · rw [hmx']
      show e.mx.rings = _
      rw [hmx, consumeUnless_rings, consumeUnless_rings]
    · rw [hmx']
      show e.mx.array ++ [c] = _
      rw [hmx, consumeUnless_array, consumeUnless_array]
    · rw [hc]; exact hdrain
    · rw [hc]; exact hwrites
    · rw [hc]; exact hpops

end Sys2Proof.Machine
end

section
/-! PROOFS. Accumulator clears and loads, codebook, scale, pops, drains and fences (R25, R113, R213 to R215). -/

namespace Sys2Proof.Machine

section
variable {s : State} {gu : Guard} {qa qb : Q} {acc : Acc} {f : W32} {m : Mach} {off : Off} {i : Instr}

/-- A command that reads no ring and writes an accumulator waits for its drains alone. -/
theorem mReady_of_acc {c : Cont} (hi : mNeeds i = ([], some acc.toNat)) (h : c.noDrain acc.toNat) : c.mReady i = true := by
  refine Cont.mReady_of ?_ ?_
  · rw [hi]; simp
  · rw [hi]; rintro a ⟨rfl⟩; exact h

theorem mReady_of_none {c : Cont} (hi : mNeeds i = ([], none)) : c.mReady i = true := by
  refine Cont.mReady_of ?_ ?_
  · rw [hi]; simp
  · rw [hi]; rintro a ⟨⟩

theorem tileAt_of_hasTile {c : Cont} {q : ℕ} (h : c.hasTile q) : ∃ x, c.tileAt q = .ok x := by
  obtain ⟨hv, ht⟩ := h
  simp only [Cont.tileAt, hv, Bool.not_true, Bool.false_or, decide_eq_false ht, Bool.false_eq_true, if_false]
  exact ⟨_, rfl⟩

/-- R213: MZERO leaves its accumulator clear. -/
theorem exec_mzero (h : s.mRuns gu f m) (hacc : m.cur.noDrain acc.toNat) (kind : Bool) :
    ∃ m', exec (.mzero gu acc kind) s = .next (s.complete m') ∧ vget m'.cur.mx.acc acc.toNat {} = { int := kind } ∧
      (∀ b, b < 4 → b ≠ acc.toNat → vget m'.cur.mx.acc b {} = vget m.cur.mx.acc b {}) ∧
      m'.cur.mx.rings = m.cur.mx.rings ∧ m'.mem = m.mem := by
  obtain ⟨m', k, hrun, -, hmx, hmem, -, -⟩ := mSlot_ok (i := .mzero gu acc kind)
    (enter := fun _ c _ _ => enterZero acc.toNat kind c) h (mReady_of_acc rfl hacc) rfl
  refine ⟨m', runSlot_ok h.ready hrun, ?_, fun b hb hne => ?_, ?_, hmem⟩
  · rw [hmx]; exact vget_vset_same acc.isLt
  · rw [hmx]; exact vget_vset_ne hne
  · rw [hmx]

/-- R213: MLDACC loads 64 rows of 64 patterns. -/
theorem exec_mldacc (h : s.mRuns gu f m) (hacc : m.cur.noDrain acc.toNat) (kind : Bool) (hal : off.toNat % 64 = 0)
    (hin : m.cur.inWindow off.toNat 16384 = true) :
    ∃ m', exec (.mldacc gu acc off kind) s = .next (s.complete m') ∧
      (∀ r j, r < 64 → j < 64 → ((vget m'.cur.mx.acc acc.toNat {}).at r j).toNat =
        leAt (m.winRead m.cur off.toNat 16384) (4 * (64 * r + j)) 4) ∧
      (vget m'.cur.mx.acc acc.toNat {}).int = kind ∧ (vget m'.cur.mx.acc acc.toNat {}).mark = 64 ∧
      (∀ b, b < 4 → b ≠ acc.toNat → vget m'.cur.mx.acc b {} = vget m.cur.mx.acc b {}) ∧ m'.mem = m.mem := by
  have he : ∃ st e, enterLoad acc.toNat off.toNat kind (m.drawn (fmtDusk f)) m.cur = .ok e ∧
      e.mx = { m.cur.mx with acc := vset m.cur.mx.acc acc.toNat st } ∧ st.int = kind ∧ st.mark = 64 ∧
      st.elems = accOf fun k => BitVec.ofNat 32 (leAt (m.winRead m.cur off.toNat 16384) (4 * k) 4) := by
    unfold enterLoad
    simp only [failIf_false (decide_eq_false (not_not.mpr hal)), enter_bind, arrayRead_inside hin, enter_pure, Mach.drawn_winRead]
    refine ⟨_, _, rfl, rfl, rfl, rfl, ?_⟩
    dsimp only
  obtain ⟨st, e, he, hemx, hint, hmark, helems⟩ := he
  obtain ⟨m', k, hrun, -, hmx, hmem, -, -⟩ := mSlot_ok (i := .mldacc gu acc off kind)
    (enter := fun m c _ _ => enterLoad acc.toNat off.toNat kind m c) h (mReady_of_acc rfl hacc) he
  have hst : vget m'.cur.mx.acc acc.toNat {} = st := by
    rw [hmx]
    show vget e.mx.acc acc.toNat {} = st
    rw [hemx]
    exact vget_vset_same acc.isLt
  refine ⟨m', runSlot_ok h.ready hrun, fun r j hr hj => ?_, by rw [hst, hint], by rw [hst, hmark], fun b hb hne => ?_, hmem⟩
  · rw [hst, AccState.at, helems, accOf_get _ (by omega), ofNat_leAt]
  · rw [hmx]
    show vget e.mx.acc b {} = _
    rw [hemx]
    exact vget_vset_ne hne

/-- R213: MPOP consumes the tiles it names. -/
theorem exec_mpop {pa pb : Bool} (h : s.mRuns gu f m) (ha : pa = true → m.cur.hasTile qa.toNat) (hb : pb = true → m.cur.hasTile qb.toNat) :
    ∃ m', exec (.mpop gu qa qb pa pb) s = .next (s.complete m') ∧ m'.cur.mx.acc = m.cur.mx.acc ∧ m'.cur.mx.rings = m.cur.mx.rings ∧
      (∀ q, q < 16 → vget m'.cur.mx.cpos q 0 = vget m.cur.mx.cpos q 0 + (if pa = true ∧ q = qa.toNat then 1 else 0) +
        (if pb = true ∧ q = qb.toNat then 1 else 0)) ∧ m'.mem = m.mem := by
  have htiles : ∀ q ∈ (if pa then [qa.toNat] else []) ++ (if pb then [qb.toNat] else []), ∃ x, m.cur.tileAt q = .ok x := by
    intro q hq
    rw [List.mem_append] at hq
    rcases hq with hq | hq
    · cases pa
      · exact absurd hq (List.not_mem_nil)
      · obtain rfl := List.mem_singleton.mp hq
        exact tileAt_of_hasTile (ha rfl)
    · cases pb
      · exact absurd hq (List.not_mem_nil)
      · obtain rfl := List.mem_singleton.mp hq
        exact tileAt_of_hasTile (hb rfl)
  have hready : m.cur.mReady (.mpop gu qa qb pa pb) = true := Cont.mReady_of htiles (by rintro a ⟨⟩)
  have hpops : ((if pa then [qa.toNat] else []) ++ (if pb then [qb.toNat] else [])).foldl Matrix.consume m.cur.mx =
      (m.cur.mx.consumeUnless (!pa) qa.toNat).consumeUnless (!pb) qb.toNat := by cases pa <;> cases pb <;> rfl
  have he : ∃ e, enterPop qa.toNat qb.toNat pa pb m.cur = .ok e ∧
      e.mx = (m.cur.mx.consumeUnless (!pa) qa.toNat).consumeUnless (!pb) qb.toNat := by
    unfold enterPop
    refine ⟨{ mx := _, pops := _, reads := _ }, if_neg fun hany => ?_, hpops⟩
    obtain ⟨q, hq, hqe⟩ := List.any_eq_true.mp hany
    obtain ⟨x, hx⟩ := htiles q hq
    rw [hx] at hqe
    exact absurd hqe Bool.false_ne_true
  obtain ⟨e, he, hemx⟩ := he
  obtain ⟨m', k, hrun, -, hmx, hmem, -, -⟩ := mSlot_ok (i := .mpop gu qa qb pa pb)
    (enter := fun _ c _ _ => enterPop qa.toNat qb.toNat pa pb c) h hready he
  refine ⟨m', runSlot_ok h.ready hrun, ?_, ?_, fun q hq => ?_, hmem⟩
  · rw [hmx]
    show e.mx.acc = _
    rw [hemx, consumeUnless_acc, consumeUnless_acc]
  · rw [hmx]
    show e.mx.rings = _
    rw [hemx, consumeUnless_rings, consumeUnless_rings]
  · rw [hmx]
    show vget e.mx.cpos q 0 = _
    rw [hemx, consumeUnless_cpos _ _ hq, consumeUnless_cpos _ _ hq]
    simp only [Bool.not_eq_false']

/-- R215: MCBLD loads the 256 codebook words. -/
theorem exec_mcbld (h : s.mRuns gu f m) (hal : off.toNat % 64 = 0) (hin : m.cur.inWindow off.toNat 1024 = true) :
    ∃ m', exec (.mcbld gu off) s = .next (s.complete m') ∧ m'.cur.mx.acc = m.cur.mx.acc ∧ m'.mem = m.mem ∧
      ∀ v, v < 256 → (SMap.get 0 m'.cur.mx.codebook v).toNat = leAt (m.winRead m.cur off.toNat 1024) (4 * v) 4 := by
  have he : ∃ e, enterCodebook off.toNat (m.drawn (fmtDusk f)) m.cur = .ok e ∧ e.mx.acc = m.cur.mx.acc ∧
      e.mx.codebook = (List.range 256).filterMap fun v =>
        if BitVec.ofNat 32 (leAt (m.winRead m.cur off.toNat 1024) (4 * v) 4) = 0 then none
        else some (v, BitVec.ofNat 32 (leAt (m.winRead m.cur off.toNat 1024) (4 * v) 4)) := by
    unfold enterCodebook
    simp only [failIf_false (decide_eq_false (not_not.mpr hal)), enter_bind, arrayRead_inside hin, enter_pure, Mach.drawn_winRead]
    exact ⟨_, rfl, rfl, rfl⟩
  obtain ⟨e, he, hacc, hbook⟩ := he
  obtain ⟨m', k, hrun, -, hmx, hmem, -, -⟩ := mSlot_ok (i := .mcbld gu off)
    (enter := fun m c _ _ => enterCodebook off.toNat m c) h (mReady_of_none rfl) he
  refine ⟨m', runSlot_ok h.ready hrun, by rw [hmx]; exact hacc, hmem, fun v hv => ?_⟩
  rw [hmx]
  show (SMap.get 0 e.mx.codebook v).toNat = _
  rw [hbook, SMap.get_filterMap_range (fun v => BitVec.ofNat 32 (leAt (m.winRead m.cur off.toNat 1024) (4 * v) 4)),
    if_pos (List.mem_range.mpr hv), ofNat_leAt]

theorem mSlot_misaligned (h : s.mRuns gu f m) (hal : off.toNat % 64 ≠ 0) :
    mSlot (.mcbld gu off) (fun m c _ _ => enterCodebook off.toNat m c) s.m =
      .error (.trap { cause := 0x2001, faddr := toW off.toNat }) := by
  refine mSlot_trap h (Cont.ringsReady_of_mReady (mReady_of_none rfl)) ?_
  unfold enterCodebook
  rw [failIf_true (decide_eq_true hal)]
  rfl

/-- R215: MSCL loads the tensor scale. -/
theorem exec_mscl (h : s.mRuns gu f m) (hal : off.toNat % 4 = 0) (hin : m.cur.inWindow off.toNat 4 = true) :
    ∃ m', exec (.mscl gu off) s = .next (s.complete m') ∧ m'.cur.mx.acc = m.cur.mx.acc ∧ m'.mem = m.mem ∧
      m'.cur.mx.tscale.toNat = leNat (m.winRead m.cur off.toNat 4) := by
  have he : ∃ e, enterScale off.toNat (m.drawn (fmtDusk f)) m.cur = .ok e ∧ e.mx.acc = m.cur.mx.acc ∧
      e.mx.tscale = BitVec.ofNat 32 (leNat (m.winRead m.cur off.toNat 4)) := by
    unfold enterScale
    simp only [failIf_false (decide_eq_false (not_not.mpr hal)), enter_bind, arrayRead_inside hin, enter_pure, Mach.drawn_winRead]
    exact ⟨_, rfl, rfl, rfl⟩
  obtain ⟨e, he, hacc, hscale⟩ := he
  obtain ⟨m', k, hrun, -, hmx, hmem, -, -⟩ := mSlot_ok (i := .mscl gu off)
    (enter := fun m c _ _ => enterScale off.toNat m c) h (mReady_of_none rfl) he
  refine ⟨m', runSlot_ok h.ready hrun, by rw [hmx]; exact hacc, hmem, ?_⟩
  rw [hmx]
  show e.mx.tscale.toNat = _
  rw [hscale, BitVec.toNat_ofNat, Nat.mod_eq_of_lt]
  have := leNat_lt (m.winRead m.cur off.toNat 4)
  rwa [Mach.length_winRead] at this

/-- R25: without the claim no matrix command goes on. -/
theorem mSlot_noClaim {enter : Mach → Cont → W32 → Option ℕ → Enter Entered} (hc : s.m.cur.claim = false) :
    mSlot i enter s.m = .error (.trap { cause := 0x1006 }) := by
  unfold mSlot
  simp only [act_bind, needClaim_trap hc]

theorem fenceSlots_matrix : ∀ (k : BitVec 6) (x : Fin 7), (fenceSlots k [0, 1, 2, 3, 5, 6] 16).getLsbD x =
    (decide (x.val = 4) || decide (k = 0) || k.getLsbD (if x.val < 4 then x else x - 1)) := by decide

theorem exec_noClaim {kind pa pb : Bool} {ks : BitVec 7} {k : BitVec 6} (hr : s.Ready gu .m) (hc : s.m.cur.claim = false) :
    ∀ i ∈ [Instr.mma gu qa qb acc kind ks pa pb, .mmabt gu qa qb acc kind ks pa pb, .mmasp gu qa qb acc kind ks pa pb,
      .mmacb gu qa qb acc kind ks pa pb, .mzero gu acc kind, .mldacc gu acc off kind, .mdrain gu acc k off, .mdraina gu acc off,
      .mpop gu qa qb pa pb, .mcbld gu off, .mscl gu off, .mfence gu k],
      exec i s = .next (s.takeTrap { cause := 0x1006 } (s.m.cur.slotNow .m) (toW (encode i))) := by
  have fence : ∀ rest : Act Unit, (needClaim >>= fun _ => rest) s.m = .error (.trap { cause := 0x1006 }) := fun rest => by
    rw [act_bind, needClaim_trap hc]
  simp only [List.forall_mem_cons, List.not_mem_nil, false_implies, implies_true, and_true]
  exact ⟨runSlot_trap hr (mSlot_noClaim hc), runSlot_trap hr (mSlot_noClaim hc), runSlot_trap hr (mSlot_noClaim hc),
    runSlot_trap hr (mSlot_noClaim hc), runSlot_trap hr (mSlot_noClaim hc), runSlot_trap hr (mSlot_noClaim hc),
    runSlot_trap hr (mSlot_noClaim hc), runSlot_trap hr (mSlot_noClaim hc), runSlot_trap hr (mSlot_noClaim hc),
    runSlot_trap hr (mSlot_noClaim hc), runSlot_trap hr (mSlot_noClaim hc), runSlot_trap hr (fence _)⟩

/-! ### Drains (R113, R214) -/

theorem drainFmt_of {a : AccState} {mc : ℕ} (h : if a.int then mc = 5 ∨ mc = 6 ∨ mc = 9 ∨ mc = 10 else mc ≤ 4) :
    drainFmt a.int mc = true := by
  unfold drainFmt
  cases ha : a.int
  · rw [ha] at h; simpa using h
  · rw [ha] at h
    have h : mc = 5 ∨ mc = 6 ∨ mc = 9 ∨ mc = 10 := h
    rcases h with rfl | rfl | rfl | rfl <;> rfl

/-- R113: a drained element is rounded toward zero or saturated, or moved into FP32. -/
theorem drainRows_pat (a : AccState) (mc : ℕ) : (drainRows a mc).map Rounded.pat = (List.range (64 * a.mark.toNat)).map (fun e =>
    if a.int then (roundTo mc true (readNum 6 (SMap.get 0 a.elems e).toNat)).pat
    else if mc = 0 then (SMap.get 0 a.elems e).toNat else (roundTo mc true (readNum 0 (SMap.get 0 a.elems e).toNat)).pat) := by
  rw [drainRows, List.map_map]
  refine List.map_congr_left fun k _ => ?_
  simp only [Function.comp, drainElem]
  split_ifs <;> rfl

variable {a : AccState} {mc z rows : ℕ}

theorem exec_mdrain {k : BitVec 6} {ts : List Cont} {pats : List ℕ} (h : s.mRuns gu f m) (ha : a = vget m.cur.mx.acc acc.toNat {})
    (hmc : mc = f.toNat / 2 ^ 8 % 16) (hz : z = elemBytes mc) (hrows : rows = a.mark.toNat)
    (hfmt : if a.int then mc = 5 ∨ mc = 6 ∨ mc = 9 ∨ mc = 10 else mc ≤ 4) (hts : m.drainTargets m.cur k.toNat = some ts)
    (hin : rows ≠ 0 → ∀ t ∈ ts, t.inWindow off.toNat (64 * rows * z) = true) (hal : off.toNat % z = 0)
    (hpats : pats = (drainRows a mc).map Rounded.pat) :
    ∃ m' e, exec (.mdrain gu acc k off) s = .next (s.complete m') ∧ m'.cur.mx.array = m.cur.mx.array ++ [e] ∧
      e.drain = true ∧ e.acc = acc.toNat ∧ e.elems = pats ∧ e.waits.toNat = k.toNat / 16 * 16 ∧
      e.writes = (ts.map fun t => rowWrites t off.toNat z a.poison pats rows).flatten ∧
      m'.cur.mx.acc = m.cur.mx.acc ∧ m'.mem = m.mem := by
  have hout : (decide (0 < rows) && ts.any fun t => !(t.inWindow off.toNat (64 * rows * z))) = false := by
    by_cases h0 : rows = 0
    · rw [h0]; rfl
    · rw [Bool.and_eq_false_iff]
      exact .inr (List.any_eq_false.mpr fun t ht => by rw [hin h0 t ht]; exact Bool.false_ne_true)
  have he : ∃ e, enterDrain acc.toNat k.toNat off.toNat (m.drawn (fmtDusk f)) m.cur f = .ok e ∧ e.mx = m.cur.mx ∧ e.drain = true ∧
      e.acc = acc.toNat ∧ e.elems = pats ∧ e.waits = BitVec.ofNat 8 (k.toNat / 16 * 16) ∧
      e.writes = (ts.map fun t => rowWrites t off.toNat z a.poison pats rows).flatten := by
    unfold enterDrain
    simp only [(fmt_fields f).2.2.1, ← hmc, ← ha, drainFmt_of hfmt, failIf_false (Bool.not_true), enter_bind, Mach.drawn_drainTargets, hts,
      ← hz, ← hrows, failIf_false hout, failIf_false (decide_eq_false (not_not.mpr hal)), ← hpats]
    exact ⟨_, rfl, rfl, rfl, rfl, rfl, rfl, rfl⟩
  obtain ⟨e, he, hemx, hdrain, heacc, helems, hwaits, hwrites⟩ := he
  obtain ⟨m', c, hrun, hc, hmx, hmem, -, -⟩ := mSlot_ok (i := .mdrain gu acc k off)
    (enter := fun m c f _ => enterDrain acc.toNat k.toNat off.toNat m c f) h (mReady_of_none rfl) he
  refine ⟨m', c, runSlot_ok h.ready hrun, ?_, ?_, ?_, ?_, ?_, ?_, ?_, hmem⟩
  · rw [hmx]
    show e.mx.array ++ [c] = _
    rw [hemx]
  · rw [hc]; exact hdrain
  · rw [hc]; exact heacc
  · rw [hc]; exact helems
  · rw [hc]
    show e.waits.toNat = _
    rw [hwaits, BitVec.toNat_ofNat]
    have := k.isLt
    exact Nat.mod_eq_of_lt (by omega)
  · rw [hc]; exact hwrites
  · rw [hmx]
    show e.mx.acc = _
    rw [hemx]

/-- R214: an element of MDRAINA is the exact sum with the window's element, rounded once. -/
theorem drainSum_pat (int : Bool) (mc d x : ℕ) :
    (drainSum int mc d x).pat = (roundTo mc true ((readNum mc d).add (readNum (if int then 6 else 0) x)).1).pat := by
  cases int <;> rfl

theorem exec_mdraina (h : s.mRuns gu f m) (ha : a = vget m.cur.mx.acc acc.toNat {}) (hmc : mc = f.toNat / 2 ^ 8 % 16)
    (hz : z = elemBytes mc) (hrows : rows = a.mark.toNat) (hfmt : if a.int then mc = 5 ∨ mc = 6 ∨ mc = 9 ∨ mc = 10 else mc ≤ 4)
    (hin : rows ≠ 0 → m.cur.inWindow off.toNat (64 * rows * z) = true) (hal : off.toNat % z = 0) {pats : List ℕ}
    (hpats : pats = (List.range (64 * rows)).map (fun e =>
      (roundTo mc true ((readNum mc (leAt (m.winRead m.cur off.toNat (64 * rows * z)) (e * z) z)).add
        (readNum (if a.int then 6 else 0) (SMap.get 0 a.elems e).toNat)).1).pat)) :
    ∃ m' e marks, exec (.mdraina gu acc off) s = .next (s.complete m') ∧ m'.cur.mx.array = m.cur.mx.array ++ [e] ∧
      e.drain = true ∧ e.acc = acc.toNat ∧ e.writes = rowWrites m.cur off.toNat z marks pats rows ∧
      m'.cur.mx.acc = m.cur.mx.acc ∧ m'.mem = m.mem := by
  have hread : ∃ b, (if rows = 0 then pure [] else m.arrayRead m.cur off.toNat (64 * rows * z) : Enter (List Byte)) = .ok b ∧
      (List.range (64 * rows)).map (Rounded.pat ∘ fun k => drainSum a.int mc (leAt b (k * z) z) (SMap.get 0 a.elems k).toNat) = pats := by
    by_cases h0 : rows = 0
    · exact ⟨[], if_pos h0, by rw [hpats, h0]; rfl⟩
    · refine ⟨_, (if_neg h0).trans (arrayRead_inside (hin h0)), ?_⟩
      rw [hpats]
      exact List.map_congr_left fun k _ => drainSum_pat _ _ _ _
  obtain ⟨b, hb, hvals⟩ := hread
  have hb' : (if rows = 0 then pure [] else (m.drawn (fmtDusk f)).arrayRead m.cur off.toNat (64 * rows * z) : Enter (List Byte)) = .ok b := by
    simp only [Mach.arrayRead, Mach.drawn_winRead] at hb ⊢
    exact hb
  have he : ∃ e marks, enterDrainAdd acc.toNat off.toNat (m.drawn (fmtDusk f)) m.cur f = .ok e ∧ e.mx = m.cur.mx ∧ e.drain = true ∧
      e.acc = acc.toNat ∧ e.writes = rowWrites m.cur off.toNat z marks pats rows := by
    unfold enterDrainAdd
    simp only [(fmt_fields f).2.2.1, ← hmc, ← ha, drainFmt_of hfmt, failIf_false (Bool.not_true), enter_bind, ← hz, ← hrows]
    simp only [hb', enter_bind, failIf_false (decide_eq_false (not_not.mpr hal)), List.map_map, hvals]
    exact ⟨_, _, rfl, rfl, rfl, rfl, rfl⟩
  obtain ⟨e, marks, he, hemx, hdrain, heacc, hwrites⟩ := he
  obtain ⟨m', c, hrun, hc, hmx, hmem, -, -⟩ := mSlot_ok (i := .mdraina gu acc off)
    (enter := fun m c f _ => enterDrainAdd acc.toNat off.toNat m c f) h (mReady_of_none rfl) he
  refine ⟨m', c, marks, runSlot_ok h.ready hrun, ?_, ?_, ?_, ?_, ?_, hmem⟩
  · rw [hmx]
    show e.mx.array ++ [c] = _
    rw [hemx]
  · rw [hc]; exact hdrain
  · rw [hc]; exact heacc
  · rw [hc]; exact hwrites
  · rw [hmx]
    show e.mx.acc = _
    rw [hemx]
end

/-- Settles O28: each command that sets or drains an accumulator enters with what its entry leaves. -/
theorem matrixAccumulatorsAndDrains : Obligations.MatrixAccumulatorsAndDrains := by
  refine ⟨fun s gu acc off kind k qa qb pa pb ks => ⟨fun f m h => ⟨fun hacc => exec_mzero h hacc kind,
    fun hacc hal hin => exec_mldacc h hacc kind hal hin, exec_mpop h, exec_mcbld h, exec_mscl h,
    fun hal => runSlot_trap h.ready (mSlot_misaligned h hal)⟩, ?_, fun hr hc => exec_noClaim hr hc⟩, ?_⟩
  · rintro hr hc h rfl
    refine ⟨?_, fun x hx => fenceSlots_matrix k ⟨x, hx⟩⟩
    refine runSlot_ok (u := ()) hr ?_
    simp only [act_bind, needClaim_ok hc, act_modM]
    rfl
  · intro s gu acc off f m a mc z rows h ha hmc hz hrows hfmt
    refine ⟨fun k ts pats hts hin hal hpats => ?_, fun hin hal pats hpats => exec_mdraina h ha hmc hz hrows hfmt hin hal hpats⟩
    refine exec_mdrain h ha hmc hz hrows hfmt hts hin hal ?_
    rw [drainRows_pat, hpats, hrows]

end Sys2Proof.Machine
end

section
/-! PROOFS. The D slot: the checks of a card, and the job it adds (R218, R219, R240). -/

namespace Sys2Proof.Machine

section
variable {s : State} {gu : Guard} {card : GF} {mm mk : BitVec 4} {ac : BitVec 6} {i : Instr} {op off : ℕ} {x : Word} {m : Mach}

/-- Every instruction that names a card issues its job the same way. -/
theorem exec_card (hi : (i, op, mk) ∈ cardInstrs gu card mm ac) : exec i s = runSlot i .d (some gu) (issueJob op card mk ac) s := by
  simp only [cardInstrs, List.mem_cons, Prod.mk.injEq, List.not_mem_nil, or_false] at hi
  rcases hi with ⟨rfl, rfl, rfl⟩ | ⟨rfl, rfl, rfl⟩ | ⟨rfl, rfl, rfl⟩ | ⟨rfl, rfl, rfl⟩ | ⟨rfl, rfl, rfl⟩ | ⟨rfl, rfl, rfl⟩ |
    ⟨rfl, rfl, rfl⟩ | ⟨rfl, rfl, rfl⟩ | ⟨rfl, rfl, rfl⟩ | ⟨rfl, rfl, rfl⟩ | ⟨rfl, rfl, rfl⟩ | ⟨rfl, rfl, rfl⟩ | ⟨rfl, rfl, rfl⟩ |
    ⟨rfl, rfl, rfl⟩ | ⟨rfl, rfl, rfl⟩ | ⟨rfl, rfl, rfl⟩ | ⟨rfl, rfl, rfl⟩ | ⟨rfl, rfl, rfl⟩ | ⟨rfl, rfl, rfl⟩ | ⟨rfl, rfl, rfl⟩ |
    ⟨rfl, rfl, rfl⟩
  all_goals rfl

/-- A step that some instructions make only with the claim does nothing to those that hold it. -/
theorem claim_first {p : Prop} [Decidable p] {rest : Act Unit} (h : p → m.cur.claim = true) :
    (if p then (needClaim >>= fun _ => rest) else rest) m = rest m := by
  by_cases hp : p
  · rw [if_pos hp, act_bind, needClaim_ok (h hp)]
  · rw [if_neg hp]

theorem Mach.readCard_outside (h : off % 128 ≠ 0 ∨ m.cur.inWindow off 128 = false) :
    m.readCard m.cur off = .error { cause := 0x2002, faddr := toW off } := by
  refine if_pos (h.imp id fun h => ?_)
  rw [h]; rfl

theorem Mach.readCard_ok (hal : off % 128 = 0) (hin : m.cur.inWindow off 128 = true) (hmark : m.winMark m.cur off 128 = none) :
    m.readCard m.cur off = .ok (BitVec.ofNat 1024 (leNat (m.winRead m.cur off 128))) := by
  unfold Mach.readCard
  rw [if_neg (by rw [hin]; simp [hal]), hmark]

section
variable (hh : s.m.guestOf s.m.cur ≠ none ∨ s.m.sourcesHeld s.m.cur.ctx = false) (hc : op = 10 ∨ op = 11 → s.m.cur.claim = true)
  (hx : readG card s.m = .ok (x, m)) (hoff : off = x.toNat % 2 ^ 23)
include hh hc hx hoff

/-- R218, R219: a card that cannot be read is reported. -/
theorem issueJob_outside {t : Trap} (hcard : m.readCard m.cur off = .error t) : issueJob op card mk ac s.m = .error (.trap t) := by
  have hheld : ((s.m.guestOf s.m.cur).isNone && s.m.sourcesHeld s.m.cur.ctx) = false := by
    rcases hh with h | h
    · rw [Option.isNone_eq_false_iff.mpr (Option.isSome_iff_ne_none.mpr h), Bool.false_and]
    · rw [h, Bool.and_false]
  have hlow : bits x.toNat 22 0 = off := by rw [bits_zero_eq, hoff]
  unfold issueJob
  simp only [act_bind, act_getM, act_awaitIf, hheld, Bool.false_eq_true, if_false, claim_first (p := op = opPack ∨ op = opUnpack) hc, hx,
    hlow, hcard, act_raiseT]

/-- R219: a card that has been read is checked: its completion word, then its fields. -/
theorem issueJob_card {k : Card} (hcard : m.readCard m.cur off = .ok k) (hfol : k.fol = true → m.cur.claim = true) :
    (∀ cw, m.cwordCause m.cur k = some cw →
      issueJob op card mk ac s.m = .error (.trap { cause := cw, faddr := toW k.cword })) ∧
    (m.cwordCause m.cur k = none → k.good op = false →
      issueJob op card mk ac s.m = .error (.trap { cause := 0x2004, faddr := toW off })) ∧
    (m.cwordCause m.cur k = none → k.good op = true → issueJob op card mk ac s.m = .ok ((), m.addJob
      { id := 0, cont := m.cur.id, task := m.cur.task, die := m.cur.die, op := op, card := k, cardOff := off, mm := mk, ac := ac
        fmt := m.fmtNow, pc := m.cur.pc, insn := m.cur.insnNow, past := m.jobPast })) := by
  have hheld : ((s.m.guestOf s.m.cur).isNone && s.m.sourcesHeld s.m.cur.ctx) = false := by
    rcases hh with h | h
    · rw [Option.isNone_eq_false_iff.mpr (Option.isSome_iff_ne_none.mpr h), Bool.false_and]
    · rw [h, Bool.and_false]
  have hlow : bits x.toNat 22 0 = off := by rw [bits_zero_eq, hoff]
  refine ⟨fun cw hcw => ?_, fun hcw hgood => ?_, fun hcw hgood => ?_⟩
  all_goals
    unfold issueJob
    simp only [act_bind, act_getM, act_awaitIf, hheld, Bool.false_eq_true, if_false, claim_first (p := op = opPack ∨ op = opUnpack) hc,
      hx, hlow, hcard, claim_first (p := k.fol = true) hfol, hcw]
  · rfl
  · simp only [act_raiseIf, hgood, Bool.not_false, if_true]
  · simp only [act_raiseIf, hgood, Bool.not_true, Bool.false_eq_true, if_false, act_takeFmt, act_modM]
end

/-- R220, R430: a job joins the queue; one that uses the drain port takes its turn there too. -/
theorem Mach.addJob_frame (n : Mach) (j : Job) : (n.addJob j).jobs = n.jobs ++ [{ j with
      id := n.nextJob, st := (if j.op ≤ 11 then .queued else .started), follow := j.card.fol }] ∧
    (n.addJob j).nextJob = n.nextJob + 1 ∧ (n.addJob j).mem = n.mem := by
  have hset : ∀ (m : Mach) (c : Cont), (m.setCont c).jobs = m.jobs ∧ (m.setCont c).nextJob = m.nextJob ∧ (m.setCont c).mem = m.mem := by
    intro m c
    unfold Mach.setCont
    split <;> exact ⟨rfl, rfl, rfl⟩
  have hch : (if usesChannel j.op = true then JobState.queued else .started) = if j.op ≤ 11 then .queued else .started := by
    simp only [usesChannel, decide_eq_true_eq]
  unfold Mach.addJob
  simp only [hch]
  split
  · split
    · exact hset _ _
    · exact ⟨rfl, rfl, rfl⟩
  · exact ⟨rfl, rfl, rfl⟩
end

/-- Settles O30: a card is read, checked in order, and its job added. -/
theorem jobIssue : Obligations.JobIssue := by
  intro s gu card mm ac i op mk x m off hi hr hh hc hx hoff
  rw [exec_card hi]
  refine ⟨fun hout => ?_, fun k hal hin hmark hk hfol => ?_, fun j n => n.addJob_frame j, ?_⟩
  · exact runSlot_trap hr (issueJob_outside hh hc hx hoff (Mach.readCard_outside hout))
  · obtain ⟨hcw, hbad, hgood⟩ := issueJob_card (mk := mk) (ac := ac) hh hc hx hoff (hk ▸ Mach.readCard_ok hal hin hmark) hfol
    exact ⟨fun cw h => runSlot_trap hr (hcw cw h), fun h hg => runSlot_trap hr (hbad h hg), fun h hg => runSlot_ok hr (hgood h hg)⟩
  · rintro k h rfl
    show execDfence gu k s = _
    unfold execDfence
    exact runSlot_ok (u := ()) hr rfl

end Sys2Proof.Machine
end

section
/-! PROOFS. Branches and loops: where a transfer goes, and what a loop counter becomes (R147 to R149). -/

namespace Sys2Proof.Machine

section
variable {s : State} {gu : Guard} {b l : BitVec 3} {x : BitVec 2} {t : BitVec 48} {m : Mach}

/-- A fetch reads no loop counter. -/
theorem landsAt_setLoop {v : W32} : (m.withCur (m.cur.setLoop x v)).landsAt t ↔ m.landsAt t := Iff.rfl

/-- R126, R148: a target off a multiple of 4, or whose bundle crosses a granule, is reported. -/
theorem transfer_bad (h : t.toNat % 4 ≠ 0 ∨ ∃ y, m.fetchBytes m.cur t.toNat 4 = .ok y ∧ inGranule t.toNat (leNat y) = false) :
    transfer t true m = .error (.trap { cause := 0x1004, faddr := t.setWidth 64 }) := by
  by_cases h4 : t.toNat % 4 = 0
  · obtain ⟨y, hy, hg⟩ := h.resolve_left (not_not.mpr h4)
    simp [transfer, h4, hy, hg]
  · simp [transfer, h4]

/-- R147: the bundle address plus four times the offset, as integers. -/
theorem pbr_target (pc : BitVec 48) (k : BitVec 16) :
    pc + (k.signExtend 48 <<< 2) = BitVec.ofInt 48 ((pc.toNat : ℤ) + 4 * k.toInt) := by
  rw [BitVec.ofInt_add, BitVec.ofInt_mul, BitVec.ofInt_natCast, BitVec.ofNat_toNat, BitVec.setWidth_eq]
  congr 1
  have hext : k.signExtend 48 = BitVec.ofInt 48 k.toInt := rfl
  rw [← hext, BitVec.shiftLeft_eq_mul_twoPow, BitVec.mul_comm]
  rfl

/-- R149: a loop is set up with its count, and a count of zero passes over the body. -/
theorem loopSetup_pass {n : W32} (hn : n ≠ 0) : loopSetup b x n m = .ok ((), m.withCur (m.cur.setLoop x n)) := by
  unfold loopSetup
  simp only [act_bind, setLc_eq, act_getC, if_neg hn, act_pure]

theorem loopSetup_skip (h : m.landsAt (vget m.cur.b b.toNat 0)) :
    loopSetup b x 0 m = .ok ((), (m.withCur (m.cur.setLoop x 0)).jumpTo (vget m.cur.b b.toNat 0)) := by
  unfold loopSetup
  simp only [act_bind, setLc_eq, act_getC, if_true]
  exact transfer_ok (landsAt_setLoop.mpr h)

section
variable (hr : s.Ready gu .k)
include hr

/-- R147: PBR. -/
theorem pbr_ok (k : BitVec 16) : exec (.pbr gu b k) s = .next (s.complete (s.m.withCur
    (s.m.cur.setBranch b (BitVec.ofInt 48 ((s.m.cur.pc.toNat : ℤ) + 4 * k.toInt))))) := by
  show execPbr gu b k s = _
  rw [← pbr_target, execPbr]
  refine runSlot_ok (u := ()) hr ?_
  simp only [act_bind, act_getC, setB_eq]

/-- R147: PBRR. -/
theorem pbrr_ok {a : GF} {v : Word} (h : readG a s.m = .ok (v, m)) : exec (.pbrr gu b a) s =
    .next (s.complete (m.withCur (m.cur.setBranch b (BitVec.ofNat 48 v.toNat)))) := by
  refine runSlot_ok (u := ()) hr ?_
  simp only [act_bind, h, setB_eq]
  rfl

/-- R148: BR. -/
theorem br_ok (ht : t = vget s.m.cur.b b.toNat 0) (h : s.m.landsAt t) : exec (.br gu b) s = .next (s.complete (s.m.jumpTo t)) := by
  refine runSlot_ok (u := ()) hr ?_
  simp only [act_bind, act_getC, ← ht]
  exact transfer_ok h

theorem br_bad (ht : t = vget s.m.cur.b b.toNat 0)
    (h : t.toNat % 4 ≠ 0 ∨ ∃ y, s.m.fetchBytes s.m.cur t.toNat 4 = .ok y ∧ inGranule t.toNat (leNat y) = false) :
    exec (.br gu b) s =
      .next (s.takeTrap { cause := 0x1004, faddr := t.setWidth 64 } (s.m.cur.slotNow .k) (toW (encode (.br gu b)))) := by
  refine runSlot_trap hr ?_
  simp only [act_bind, act_getC, ← ht]
  exact transfer_bad h

/-- R148: BRL goes to the target read before the link was written. -/
theorem brl_ok (ht : t = vget s.m.cur.b b.toNat 0) {m1 : Mach} (hw : writeG 23 (s.m.cur.nextPc.setWidth 64) s.m = .ok ((), m1))
    (h : (m1.withCur (m1.cur.setBranch l s.m.cur.nextPc)).landsAt t) :
    exec (.brl gu b l) s = .next (s.complete ((m1.withCur (m1.cur.setBranch l s.m.cur.nextPc)).jumpTo t)) := by
  refine runSlot_ok (u := ()) hr ?_
  simp only [act_bind, act_getC, ← ht]
  rw [hw]
  simp only [setB_eq]
  exact transfer_ok h

/-- R149: LOOP goes back while more than one pass is left. -/
theorem loop_again (ht : t = vget s.m.cur.b b.toNat 0) (h : 1 < (vget s.m.cur.lc x.toNat 0).toNat) (hl : s.m.landsAt t) :
    exec (.loop gu b x) s = .next (s.complete ((s.m.withCur (s.m.cur.setLoop x
      (BitVec.ofNat 32 ((vget s.m.cur.lc x.toNat 0).toNat - 1)))).jumpTo t)) := by
  have hdown : vget s.m.cur.lc x.toNat 0 - 1 = BitVec.ofNat 32 ((vget s.m.cur.lc x.toNat 0).toNat - 1) := by bv_omega
  refine runSlot_ok (u := ()) hr ?_
  simp only [act_bind, act_getC, if_pos h, setLc_eq, hdown, ← ht]
  exact transfer_ok (landsAt_setLoop.mpr hl)

theorem loop_last (h : (vget s.m.cur.lc x.toNat 0).toNat ≤ 1) :
    exec (.loop gu b x) s = .next (s.complete (s.m.withCur (s.m.cur.setLoop x 0))) := by
  refine runSlot_ok (u := ()) hr ?_
  simp only [act_bind, act_getC, if_neg (not_lt.mpr h), setLc_eq]

/-- R149: the three instructions that set a loop up do it with their count, on the machine their operands leave. -/
theorem loopi_run {i : Instr} {n : ℕ} (h :
    (∃ k : BitVec 15, i = .loopiImm gu b x k ∧ n = k.toNat ∧ m = s.m) ∨
    (∃ g v, i = .loopiReg gu b x g ∧ readG g s.m = .ok (v, m) ∧ n = v.toNat % 2 ^ 32) ∨
    (∃ d : BitVec 7, i = .loopl gu b x d ∧ s.m.cur.claim = true ∧ m = s.m ∧ d ≠ 0 ∧
      (∀ j ∈ s.m.jobs, j.cont = s.m.cur.id → j.op = 10 → j.st = .landed) ∧
      n = (s.m.cur.mx.lrc.toNat + d.toNat - 1) / d.toNat ∧ n < 2 ^ 32)) {m1 : Mach}
    (hset : loopSetup b x (BitVec.ofNat 32 n) m = .ok ((), m1)) : exec i s = .next (s.complete m1) := by
  obtain ⟨k, rfl, rfl, rfl⟩ | ⟨g, v, rfl, hv, rfl⟩ | ⟨d, rfl, hcl, rfl, hd, hjobs, rfl, hn⟩ := h
  · have hk : k.setWidth 32 = BitVec.ofNat 32 k.toNat := by bv_omega
    exact runSlot_ok (u := ()) hr (by rw [hk, hset])
  · refine runSlot_ok (u := ()) hr ?_
    have hv32 : v.setWidth 32 = BitVec.ofNat 32 (v.toNat % 2 ^ 32) := by bv_omega
    simp only [act_bind, hv, hv32, hset]
  · refine runSlot_ok (u := ()) hr ?_
    have hpack : (s.m.jobs.any fun j => j.cont == s.m.cur.id && j.op == opPack && j.st ≠ .landed) = false := by
      refine List.any_eq_false.mpr fun j hj => ?_
      have := hjobs j hj
      simpa [opPack] using this
    simp only [act_bind, needClaim_ok hcl, act_getM, hpack, act_awaitIf, Bool.false_eq_true, if_false, hset]

/-- R149: LOOPL needs the matrix claim. -/
theorem loopl_unclaimed {d : BitVec 7} (h : s.m.cur.claim = false) : exec (.loopl gu b x d) s = .next
    (s.takeTrap { cause := 0x1006 } (s.m.cur.slotNow .k) (toW (encode (.loopl gu b x d)))) := by
  refine runSlot_trap hr ?_
  simp only [act_bind, needClaim_trap h]
end

/-- A loop's count fits its counter. -/
theorem loopi_count {i : Instr} {n : ℕ} (h :
    (∃ k : BitVec 15, i = .loopiImm gu b x k ∧ n = k.toNat ∧ m = s.m) ∨
    (∃ g v, i = .loopiReg gu b x g ∧ readG g s.m = .ok (v, m) ∧ n = v.toNat % 2 ^ 32) ∨
    (∃ d : BitVec 7, i = .loopl gu b x d ∧ s.m.cur.claim = true ∧ m = s.m ∧ d ≠ 0 ∧
      (∀ j ∈ s.m.jobs, j.cont = s.m.cur.id → j.op = 10 → j.st = .landed) ∧
      n = (s.m.cur.mx.lrc.toNat + d.toNat - 1) / d.toNat ∧ n < 2 ^ 32)) : n < 2 ^ 32 := by
  obtain ⟨k, -, rfl, -⟩ | ⟨g, v, -, -, rfl⟩ | ⟨d, -, -, -, -, -, -, hn⟩ := h
  · exact k.isLt.trans (by decide)
  · exact Nat.mod_lt _ (by decide)
  · exact hn
end

/-- Settles O31: each instruction computes its target or its count; transfers land where the fetch finds a bundle that lies in
one granule. -/
theorem branchesAndLoops : Obligations.BranchesAndLoops := by
  unfold Obligations.BranchesAndLoops
  refine ⟨fun s gu b l t hr ht => ⟨fun k => pbr_ok hr k, fun a v m1 h => pbrr_ok hr h, br_ok hr ht, ?_, br_bad hr ht⟩,
    fun s gu b x t hr ht => ⟨?_, fun i m1 n hi => ⟨fun hn => ?_, fun hn hl => ?_⟩, fun d h => loopl_unclaimed hr h⟩⟩
  · rintro ret m1 m2 rfl hw rfl h
    exact brl_ok hr ht hw h
  · rintro n rfl
    exact ⟨fun h hl => loop_again hr ht h hl, fun h => loop_last hr h⟩
  · have hlt := loopi_count hi
    refine loopi_run hr hi (loopSetup_pass fun h0 => hn ?_)
    have := congrArg BitVec.toNat h0
    rwa [BitVec.toNat_ofNat, Nat.mod_eq_of_lt hlt] at this
  · subst hn
    exact loopi_run hr hi (loopSetup_skip hl)

end Sys2Proof.Machine
end

section
/-! PROOFS. Writes of fmt and the shadow they cast; the instructions that wait, suspend and end (R124, R129, R150 to R154, R253). -/

namespace Sys2Proof.Machine

/-! ### fmt (R124, R129, R150) -/

/-- R124, R129, R150: the issuing continuation after a write of fmt: the value before it holds for four more cycles. -/
def Mach.fmtPut (m : Mach) (v : W32) : Cont := { m.cur with
  fmt := v
  fmtOld := (m.cur.fmtOld.filter fun o => decide (m.cyc m.cur.die < o.till)) ++ [{ val := m.cur.fmt, till := m.cyc m.cur.die + 4 }]
  fmtUndo := if m.cur.queue = [] then m.cur.fmtUndo
    else m.cur.fmtUndo ++ [{ bundle := m.cur.bundleNow, fmt := m.cur.fmt, old := m.cur.fmtOld }]
  queue := m.cur.queue.map fun e => if e.slot = 3 ∨ e.slot = 4 then { e with checked := false } else e }

theorem setFmt_eq (v : W32) (m : Mach) : setFmt v m = .ok ((), m.withCur (m.fmtPut (v &&& 0x03FFFFFF))) := by
  simp only [setFmt, act_modM, Mach.fmtPut, Mach.withCur, List.isEmpty_iff]

/-- R124: bits 31:26 ignore writes. -/
theorem fmtMask_getLsbD (v : W32) {j : ℕ} (hj : j < 32) : (v &&& 0x03FFFFFF).getLsbD j = (decide (j < 26) && v.getLsbD j) := by
  have hmask : (0x03FFFFFF : W32).getLsbD j = decide (j < 26) := by
    have h26 : (0x03FFFFFF : W32) = BitVec.ofNat 32 (2 ^ 26 - 1) := rfl
    rw [h26, BitVec.getLsbD_ofNat, Nat.testBit_two_pow_sub_one]
    simp [hj]
  rw [BitVec.getLsbD_and, hmask, Bool.and_comm]

/-- R150: the half of fmt that FMTW writes. -/
theorem fmtHalf_getLsbD (f : W32) (h : Bool) (k : BitVec 16) {j : ℕ} (hj : j < 32) :
    (BitVec.ofNat 32 (if h then putBits f.toNat 31 16 k.toNat else putBits f.toNat 15 0 k.toNat)).getLsbD j =
      if decide (16 ≤ j) = h then k.getLsbD (j % 16) else f.getLsbD j := by
  rw [BitVec.getLsbD_ofNat, decide_eq_true hj, Bool.true_and]
  cases h
  · have hlow := putBits_testBit f.toNat k.toNat 0 j (n := 16) (by decide)
    rw [if_neg (by decide)]
    refine hlow.trans ?_
    by_cases h16 : j < 16
    · rw [if_pos ⟨Nat.zero_le j, by omega⟩, if_pos (by simpa using h16), Nat.mod_eq_of_lt h16, Nat.sub_zero]
      rfl
    · rw [if_neg (by omega), if_neg (by simpa using h16)]
      rfl
  · have hhigh := putBits_testBit f.toNat k.toNat 16 j (n := 16) (by decide)
    rw [if_pos rfl]
    refine hhigh.trans ?_
    by_cases h16 : 16 ≤ j
    · have hm : j % 16 = j - 16 := by omega
      rw [if_pos ⟨h16, by omega⟩, if_pos (decide_eq_true h16), hm]
      rfl
    · rw [if_neg (by omega), if_neg (by simpa using h16)]
      rfl

/-- R150: a masked write takes each bit from the value or from fmt. -/
theorem fmtMerge_getLsbD (f : W32) (x y : Word) {j : ℕ} (hj : j < 32) :
    ((f &&& ~~~(y.setWidth 32)) ||| (x.setWidth 32 &&& y.setWidth 32)).getLsbD j =
      if y.getLsbD j then x.getLsbD j else f.getLsbD j := by
  simp only [BitVec.getLsbD_or, BitVec.getLsbD_and, BitVec.getLsbD_not, BitVec.getLsbD_setWidth, hj, decide_true, Bool.true_and]
  cases y.getLsbD j <;> simp

section
variable {s : State} {gu : Guard} {a b : GF} {x y : Word} {m1 m2 : Mach}

/-- R150: FMTW. -/
theorem fmtw_ok (hr : s.Ready gu .k) (h : Bool) (k : BitVec 16) : ∃ v : W32,
    exec (.fmtw gu h k) s = .next (s.complete (s.m.withCur (s.m.fmtPut v))) ∧
    ∀ j, j < 32 → v.getLsbD j =
      (decide (j < 26) && (if decide (16 ≤ j) = h then k.getLsbD (j % 16) else s.m.cur.fmt.getLsbD j)) := by
  refine ⟨BitVec.ofNat 32 (if h then putBits s.m.cur.fmt.toNat 31 16 k.toNat else putBits s.m.cur.fmt.toNat 15 0 k.toNat) &&&
    0x03FFFFFF, ?_, fun j hj => ?_⟩
  · show execFmtw gu h k s = _
    unfold execFmtw
    refine runSlot_ok (u := ()) hr ?_
    simp only [act_bind, act_getC, setFmt_eq]
  · rw [fmtMask_getLsbD _ hj, fmtHalf_getLsbD _ h k hj]

/-- R150: FMTWG. -/
theorem fmtwg_ok (hr : s.Ready gu .k) (ha : readG a s.m = .ok (x, m1)) (hb : readG b m1 = .ok (y, m2)) : ∃ v : W32,
    exec (.fmtwg gu a b) s = .next (s.complete (m2.withCur (m2.fmtPut v))) ∧
    ∀ j, j < 32 → v.getLsbD j = (decide (j < 26) && (if y.getLsbD j then x.getLsbD j else m2.cur.fmt.getLsbD j)) := by
  refine ⟨((m2.cur.fmt &&& ~~~(y.setWidth 32)) ||| (x.setWidth 32 &&& y.setWidth 32)) &&& 0x03FFFFFF, ?_, fun j hj => ?_⟩
  · refine runSlot_ok (u := ()) hr ?_
    simp only [act_bind, ha, hb, act_getC, setFmt_eq]
  · rw [fmtMask_getLsbD _ hj, fmtMerge_getLsbD _ x y hj]
end

/-- R129: the value an instruction takes is the first one whose shadow still runs, else fmt itself. -/
theorem Mach.fmtNow_cases (m : Mach) : m.fmtNow = m.cur.fmt ∨ ∃ o ∈ m.cur.fmtOld, m.cyc m.cur.die < o.till ∧ m.fmtNow = o.val := by
  unfold Mach.fmtNow
  cases hf : m.cur.fmtOld.find? fun o => decide (m.cyc m.cur.die < o.till) with
  | none => exact .inl rfl
  | some o => exact .inr ⟨o, List.mem_of_find?_eq_some hf, by simpa using List.find?_some hf, rfl⟩

theorem Mach.fmtNow_over {m : Mach} (h : ∀ o ∈ m.cur.fmtOld, o.till ≤ m.cyc m.cur.die) : m.fmtNow = m.cur.fmt := by
  obtain hf | ⟨o, ho, hlt, -⟩ := m.fmtNow_cases
  · exact hf
  · exact absurd hlt (not_lt.mpr (h o ho))

/-- R129: a write outside any shadow casts one of four cycles: within it instructions take the value before the write. -/
theorem Mach.fmtNow_put {m n : Mach} {v : W32} (hs : m.inShadow m.cur = false) (hn : n.cur = m.fmtPut v) :
    n.fmtNow = if n.cyc n.cur.die < m.cyc m.cur.die + 4 then m.cur.fmt else v := by
  have hold : n.cur.fmtOld = [{ val := m.cur.fmt, till := m.cyc m.cur.die + 4 }] := by
    rw [hn]
    refine congrArg (· ++ _) (List.filter_eq_nil_iff.mpr fun o ho => ?_)
    simpa using List.any_eq_false.mp hs o ho
  have hfmt : n.cur.fmt = v := by rw [hn]; rfl
  rw [Mach.fmtNow, hold, hfmt]
  by_cases hc : n.cyc n.cur.die < m.cyc m.cur.die + 4
  · rw [if_pos hc, List.find?_cons_of_pos (by simpa using hc)]
  · rw [if_neg hc, List.find?_cons_of_neg (by simpa using hc)]
    rfl

/-! ### WAITA (R23, R151) -/

section
variable {s : State} {gu : Guard} {a b : GF} {x y w : Word} {v : W32} {virt : Bool} {c : BitVec 3} {m0 m1 m2 : Mach}

/-- R151: the word a WAITA watches, and the address its record keeps. -/
theorem waitWord_ok (hal : x.toNat % 8 = 0)
    (h : if virt then (∃ ps, m1.resolveCont x 8 .read = .ok ps ∧ v.toNat = leNat (m1.mem.readParts m1.cur.die ps) % 2 ^ 32) ∧
        w = x ∧ m2 = m1
      else x.toNat < 2 ^ 23 ∧ m1.cur.inWindow x.toNat 8 = true ∧ m2 = m1.landOver x.toNat 8 ∧
        v.toNat = leNat (m2.winRead m2.cur x.toNat 8) % 2 ^ 32 ∧ w.toNat = x.toNat + 2 ^ 63) :
    waitWord virt x m1 = .ok ((w, v), m2) := by
  have hv : ∀ n, v.toNat = n % 2 ^ 32 → BitVec.ofNat 32 n = v := fun n hn => by
    refine BitVec.eq_of_toNat_eq ?_
    rw [BitVec.toNat_ofNat, hn]
  cases virt
  · obtain ⟨hlt, hin, rfl, hvn, hw⟩ := h
    have hw' : x + (1 <<< 63 : ℕ) = w := by
      refine BitVec.eq_of_toNat_eq ?_
      rw [hw, BitVec.toNat_add]
      exact Nat.mod_eq_of_lt (by simp; omega)
    simp only [waitWord, act_bind, hal, act_raiseIf, ne_eq, not_true_eq_false, decide_false, Bool.false_eq_true, if_false,
      Nat.not_le.mpr hlt, readS_ok hin, act_pure, hw', Int.toNat_natCast, hv _ hvn]
  · obtain ⟨⟨ps, hps, hvn⟩, rfl, rfl⟩ := h
    simp only [waitWord, act_bind, hal, act_raiseIf, ne_eq, not_true_eq_false, decide_false, Bool.false_eq_true, if_false, if_true,
      act_getM, hps, act_pure, hv _ hvn]

theorem armAtOrigin_none {m : Mach} (h : m.guestOf m.cur = none) : m.armAtOrigin = m := by
  simp only [Mach.armAtOrigin, h]

/-- R23, R151: WAITA goes on where its condition holds. -/
theorem waita_goes_on (hr : s.Ready gu .k) (ha : readG a s.m = .ok (x, m0)) (hb : readG b m0 = .ok (y, m1))
    (hw : waitWord virt x m1 = .ok ((w, v), m2)) (hi : m2.cur.imprecise = none) (hc : c ≠ 4)
    (hh : waitHolds c v (y.setWidth 32) = true) : exec (.waita gu a b virt c) s = .next (s.complete m2) := by
  refine runSlot_ok (u := ()) hr ?_
  simp only [act_bind, ha, hb, hw, reportPoint_none hi, decide_eq_false hc, Bool.not_false, Bool.true_and, hh, if_true, act_pure]

/-- R23, R151: else it performs what stands before it and waits, on its operand or, with condition 4, on the word as it is. -/
theorem waita_waits (hr : s.Ready gu .k) (ha : readG a s.m = .ok (x, m0)) (hb : readG b m0 = .ok (y, m1))
    (hw : waitWord virt x m1 = .ok ((w, v), m2)) (hi : m2.cur.imprecise = none) (hg : m2.guestOf m2.cur = none)
    (hh : c = 4 ∨ waitHolds c v (y.setWidth 32) = false) :
    exec (.waita gu a b virt c) s = .next (s.complete ((m2.performed m2.cur.id).withCur { (m2.performed m2.cur.id).cur with
      state := 3, waddr := w, wval := if decide (c = 4) then v else y.setWidth 32, wcond := c })) := by
  have hcond : (!decide (c = 4) && waitHolds c v (y.setWidth 32)) = false := by
    rcases hh with rfl | hh
    · rfl
    · rw [hh, Bool.and_false]
  have hlands := m2.performed_lands
  have harm : ∀ u : W32, Mach.armAtOrigin ((m2.performed m2.cur.id).withCur { (m2.performed m2.cur.id).cur with
      state := 3, waddr := w, wval := u, wcond := c }) = (m2.performed m2.cur.id).withCur { (m2.performed m2.cur.id).cur with
      state := 3, waddr := w, wval := u, wcond := c } := fun u => by
    obtain ⟨mem, fl, fe, k, ft, vp, mx, hp⟩ := hlands
    exact armAtOrigin_none (by rw [hp]; exact hg)
  refine runSlot_ok (u := ()) hr ?_
  simp only [act_bind, ha, hb, hw, reportPoint_none hi, hcond, Bool.false_eq_true, if_false, act_performEarlier, act_modC, act_modM]
  exact congrArg _ (congrArg _ (harm _))

theorem waitHolds_iff (v y : W32) : (waitHolds 0 v y = true ↔ v = y) ∧ (waitHolds 1 v y = true ↔ v ≠ y) ∧
    (waitHolds 2 v y = true ↔ y.toNat ≤ v.toNat) ∧ (waitHolds 3 v y = true ↔ v.toNat < y.toNat) := by
  refine ⟨?_, ?_, ?_, ?_⟩ <;> simp [waitHolds]
end

/-! ### SUSP, DONE and BARR (R29, R152) -/

section
variable {s : State} {gu : Guard}

/-- A barrier of a team that is not there is no barrier. -/
theorem foldl_barrierCheck_none {m : Mach} (l : List ℕ) (h : m.team? m.cur.task m.cur.team.toNat = none) :
    l.foldl (fun (m : Mach) k => m.barrierCheck m.cur.task m.cur.team.toNat k) m = m := by
  induction l with
  | nil => rfl
  | cons k l ih =>
    have hk : m.barrierCheck m.cur.task m.cur.team.toNat k = m := by rw [Mach.barrierCheck, h]
    rw [List.foldl_cons, hk, ih]

/-- R152: SUSP. -/
theorem susp_ok (hr : s.Ready gu .k) : exec (.susp gu) s =
    .next (s.complete ((s.m.performed s.m.cur.id).withCur { (s.m.performed s.m.cur.id).cur with state := 1 })) := by
  show execSusp gu s = _
  unfold execSusp
  refine runSlot_ok (u := ()) hr ?_
  simp only [act_bind, act_performEarlier, act_modC]
  rfl

/-- R29, R152, R257: DONE ends the continuation, which then counts as arrived everywhere. -/
theorem done_ok (hr : s.Ready gu .k) (hi : s.m.cur.imprecise = none) {m1 m2 : Mach} (h1 : m1 = s.m.performed s.m.cur.id)
    (h2 : m2 = (m1.withCur { m1.cur with state := 6 }).clearRx fun r =>
      bit r.word.toNat 63 && r.task == m1.cur.task && r.team == m1.cur.team.toNat && r.rank == m1.cur.rank.toNat) :
    exec (.done gu) s = .next (s.complete ((List.range 8).foldl
      (fun (m : Mach) k => m.barrierCheck m.cur.task m.cur.team.toNat k) m2)) := by
  subst h1 h2
  refine runSlot_ok (u := ()) hr ?_
  simp only [act_bind, reportPoint_none hi, act_performEarlier, act_modC, act_modM]
  rfl

/-! #### Teams -/

section
variable {m : Mach} {t : Team} {q k : ℕ}

theorem Mach.team?_key (h : m.team? q k = some t) : t.task = q ∧ t.idx = k := by
  have := List.find?_some h
  simpa using this

/-- A team that has been replaced is found in its new form. -/
theorem Mach.team?_setTeam (h : m.team? q k = some t) {u : Team} (hq : u.task = t.task) (hk : u.idx = t.idx) :
    (m.setTeam u).team? q k = some u := by
  obtain ⟨rfl, rfl⟩ := Mach.team?_key h
  have hteams : m.teams.find? (fun t' => t'.task == t.task && t'.idx == t.idx) = some t := h
  show (m.teams.map fun v => if v.task == u.task && v.idx == u.idx then u else v).find? (fun v => v.task == t.task && v.idx == t.idx) =
    some u
  rw [hq, hk]
  generalize m.teams = l at hteams
  induction l with
  | nil => simp at hteams
  | cons v l ih =>
    rw [List.find?_cons] at hteams
    rw [List.map_cons, List.find?_cons]
    cases hv : (v.task == t.task && v.idx == t.idx) with
    | true => simp [hq, hk]
    | false =>
      rw [hv] at hteams
      simpa [hv] using ih hteams

theorem Mach.setTeam_frame (m : Mach) (u : Team) : (m.setTeam u).cur = m.cur ∧ (m.setTeam u).conts = m.conts := ⟨rfl, rfl⟩

theorem Mach.recordCont_teams (m : Mach) (c : Cont) : (m.recordCont c).teams = m.teams := by
  unfold Mach.recordCont Mach.putRecord Mach.setCont
  split <;> split <;> rfl

theorem Mach.recordCont_cur (m : Mach) {c : Cont} (h : c.id ≠ m.cur.id) : (m.recordCont c).cur = m.cur := by
  have hb : (m.cur.id == c.id) = false := beq_eq_false_iff_ne.mpr (Ne.symm h)
  unfold Mach.recordCont Mach.putRecord Mach.setCont
  rw [hb]
  split <;> rfl

/-- The members released from a barrier are recorded; the teams stand. -/
theorem foldl_release_teams {p : Cont → Prop} [DecidablePred p] {f : Cont → Cont} (l : List Cont) (m : Mach) :
    (l.foldl (fun m c => if p c then m.recordCont (f c) else m) m).teams = m.teams := by
  induction l generalizing m with
  | nil => rfl
  | cons c l ih =>
    rw [List.foldl_cons, ih]
    split
    · exact m.recordCont_teams (f c)
    · rfl

/-- A continuation that is not released, and whose number no other has, is not touched. -/
theorem foldl_release_cur {p : Cont → Prop} [DecidablePred p] {f : Cont → Cont} (l : List Cont) (m : Mach)
    (h : ∀ c ∈ l, p c → (f c).id ≠ m.cur.id) :
    (l.foldl (fun m c => if p c then m.recordCont (f c) else m) m).cur = m.cur := by
  induction l generalizing m with
  | nil => rfl
  | cons c l ih =>
    have hc : (if p c then m.recordCont (f c) else m).cur = m.cur := by
      split
      · next hp => exact m.recordCont_cur (h c (List.mem_cons_self ..) hp)
      · rfl
    rw [List.foldl_cons, ih _ fun c' hc' hp => by rw [hc]; exact h c' (List.mem_cons_of_mem _ hc') hp, hc]
end

section
variable {m1 : Mach} {n : BitVec 3} {t : Team} {arr : BitVec 16}

/-- The bit of a member that has arrived is set. -/
theorem arrived_ne_zero {r : ℕ} (hr : r < 16) (x : BitVec 16) : x ||| ((1 : BitVec 16) <<< r) ≠ 0 := by
  intro h0
  have hbit := congrArg (fun z : BitVec 16 => z.getLsbD r) h0
  simp [hr] at hbit

/-- R29, R152: BARR performs what stands before it and arrives. -/
theorem barr_run (hr : s.Ready gu .k) (hi : s.m.cur.imprecise = none) (n : BitVec 3) :
    exec (.barr gu n) s = .next (s.complete ((s.m.performed s.m.cur.id).arriveBarrier n)) := by
  refine runSlot_ok (u := ()) hr ?_
  simp only [act_bind, reportPoint_none hi, act_performEarlier, act_modM]

section
variable (ht : m1.team? m1.cur.task m1.cur.team.toNat = some t)
  (harr : arr = vget t.arrived n.toNat 0 ||| ((1 : BitVec 16) <<< m1.cur.rank.toNat)) (hrank : m1.cur.rank.toNat < 16)
include ht harr

/-- R29: what arrival does to the barrier: the bit is set, and the barrier is looked at. -/
theorem arriveBarrier_eq {m2 : Mach} {t' : Team}
    (hm : m2 = (m1.setTeam { t with arrived := vset t.arrived n.toNat arr }).barrierCheck m1.cur.task m1.cur.team.toNat n.toNat)
    (ht' : m2.team? m1.cur.task m1.cur.team.toNat = some t') :
    m1.arriveBarrier n = if vget t'.arrived n.toNat 0 = 0 then m2 else m2.withCur { m2.cur with state := 5, barr := some n } := by
  subst hm harr
  unfold Mach.arriveBarrier
  simp only [ht, ht']
  rfl

include hrank

/-- R29: while a member has not arrived, the issuer waits. -/
theorem arriveBarrier_waits
    (h : ∃ c ∈ m1.liveMembers m1.cur.task m1.cur.team.toNat, arr.getLsbD c.rank.toNat = false) :
    m1.arriveBarrier n = (m1.setTeam { t with arrived := vset t.arrived n.toNat arr }).withCur
      { m1.cur with state := 5, barr := some n } := by
  have hset := Mach.team?_setTeam ht (u := { t with arrived := vset t.arrived n.toNat arr }) rfl rfl
  have hget : vget (vset t.arrived n.toNat arr) n.toNat 0 = arr := vget_vset_same n.isLt
  have hstay : (m1.setTeam { t with arrived := vset t.arrived n.toNat arr }).barrierCheck m1.cur.task m1.cur.team.toNat n.toNat =
      m1.setTeam { t with arrived := vset t.arrived n.toNat arr } := by
    obtain ⟨c, hc, hbit⟩ := h
    unfold Mach.barrierCheck
    simp only [hset, hget]
    refine if_neg fun hall => ?_
    have := List.all_eq_true.mp hall.2 c hc
    rw [hbit] at this
    cases this
  have hne : arr ≠ 0 := by rw [harr]; exact arrived_ne_zero hrank _
  rw [arriveBarrier_eq ht harr hstay.symm hset]
  exact if_neg (by rw [hget]; exact hne)

/-- R29: the last member to arrive opens the barrier and goes on. -/
theorem arriveBarrier_opens
    (h : ∀ c ∈ m1.liveMembers m1.cur.task m1.cur.team.toNat, arr.getLsbD c.rank.toNat = true) :
    ∃ t', ((∀ c ∈ m1.conts, c.id ≠ m1.cur.id) → m1.cur.state = 2 → (m1.arriveBarrier n).cur = m1.cur) ∧
      (m1.arriveBarrier n).team? m1.cur.task m1.cur.team.toNat = some t' ∧ vget t'.arrived n.toNat 0 = 0 := by
  have hset := Mach.team?_setTeam ht (u := { t with arrived := vset t.arrived n.toNat arr }) rfl rfl
  have hget : vget (vset t.arrived n.toNat arr) n.toNat 0 = arr := vget_vset_same n.isLt
  have hne : arr ≠ 0 := by rw [harr]; exact arrived_ne_zero hrank _
  have hcleared := Mach.team?_setTeam hset
    (u := { t with arrived := vset (vset t.arrived n.toNat arr) n.toNat 0 }) rfl rfl
  have hopen : (m1.setTeam { t with arrived := vset t.arrived n.toNat arr }).barrierCheck m1.cur.task m1.cur.team.toNat n.toNat =
      (m1.liveMembers m1.cur.task m1.cur.team.toNat).foldl
        (fun m c => if c.state = 5 ∧ c.barr = some (BitVec.ofNat 3 n.toNat) then m.recordCont { c with state := 1, barr := none } else m)
        ((m1.setTeam { t with arrived := vset t.arrived n.toNat arr }).setTeam
          { t with arrived := vset (vset t.arrived n.toNat arr) n.toNat 0 }) := by
    unfold Mach.barrierCheck
    simp only [hset, hget]
    exact if_pos ⟨hne, List.all_eq_true.mpr h⟩
  have hteam : ((m1.setTeam { t with arrived := vset t.arrived n.toNat arr }).barrierCheck m1.cur.task m1.cur.team.toNat n.toNat).team?
      m1.cur.task m1.cur.team.toNat = some { t with arrived := vset (vset t.arrived n.toNat arr) n.toNat 0 } := by
    rw [hopen, Mach.team?, foldl_release_teams]
    exact hcleared
  have hzero : vget (vset (vset t.arrived n.toNat arr) n.toNat 0) n.toNat 0 = 0 := vget_vset_same n.isLt
  have heq := (arriveBarrier_eq ht harr rfl hteam).trans (if_pos hzero)
  refine ⟨_, fun hids hst => ?_, heq ▸ hteam, hzero⟩
  rw [heq, hopen]
  refine foldl_release_cur _ _ fun c hc hp => ?_
  rcases List.mem_cons.mp (List.mem_of_mem_filter hc) with rfl | hc
  · exact absurd (hst.symm.trans hp.1) (by decide)
  · exact hids c hc
end
end

/-! ### SYNC and HINT (R154, R253) -/

/-- R154: the holds a SYNC leaves behind. -/
theorem sync_ok (hr : s.Ready gu .k) (k : GF) {m1 : Mach}
    (h1 : m1 = if k = 0 ∨ k.getLsbD 1 = true then s.m.flushV s.m.cur.id else s.m) :
    exec (.sync gu k) s = .next (s.complete (m1.withCur { m1.cur with holds := m1.cur.holds ++
      (if k = 0 ∨ k.getLsbD 0 = true then [{ kind := .results, slots := 0x7F, before := m1.nextJob, bundle := m1.cur.bundleNow }] else []) ++
      (if k = 0 ∨ k.getLsbD 1 = true then [{ kind := .vectors, slots := 0x7F, before := 0, bundle := m1.cur.bundleNow }] else []) ++
      (if k = 0 ∨ k.getLsbD 2 = true then [{ kind := .commands, slots := 0x7F, before := m1.nextCmd, bundle := m1.cur.bundleNow }] else []) ++
      (if k = 0 ∨ k.getLsbD 3 = true then [{ kind := .stores, slots := 0x7F, before := 0, bundle := m1.cur.bundleNow }] else []) ++
      (if k = 0 ∨ k.getLsbD 4 = true then [{ kind := .jobs, slots := 0x7F, before := m1.nextJob, bundle := m1.cur.bundleNow }] else []) })) := by
  have hbit : ∀ j, (syncBit k j = true) = (k = 0 ∨ k.getLsbD j = true) := fun j => by simp [syncBit]
  show execSync gu k s = _
  unfold execSync
  refine runSlot_ok (u := ()) hr ?_
  simp only [act_bind, act_modM, hbit, ← h1, List.append_assoc]
  rfl

/-- R253: HINT. -/
theorem hint_ok (hr : s.Ready gu .k) {a : GF} {x : Word} {m1 : Mach} (ha : readG a s.m = .ok (x, m1)) {c : Cont}
    (hc : c = { m1.cur with rtime := BitVec.ofNat 48 (min x.toNat (2 ^ 48 - 1)) }) :
    exec (.hint gu a) s = .next (s.complete ((m1.withCur c).putRecord c)) := by
  subst hc
  refine runSlot_ok (u := ()) hr ?_
  simp only [act_bind, ha, act_modC, act_modM]
  rfl
end

/-- Settles O32: fmt with its shadow, then each instruction that waits, suspends or ends. -/
theorem continuationControl : Obligations.ContinuationControl := by
  unfold Obligations.ContinuationControl
  refine ⟨fun s gu hr put hput => ?_, fun s gu hr => ⟨?_, waitHolds_iff, ?_, ?_, ?_⟩⟩
  · have hput' : put = Mach.fmtPut := hput
    subst hput'
    refine ⟨fmtw_ok hr, fun a b x y m1 m2 ha hb => fmtwg_ok hr ha hb, fun m => ⟨rfl, m.fmtNow_cases, Mach.fmtNow_over⟩,
      fun m n v hs hn => ⟨fun hlt => ?_, fun hle => ?_⟩⟩
    · rw [Mach.fmtNow_put hs hn, if_pos hlt]
    · rw [Mach.fmtNow_put hs hn, if_neg (not_lt.mpr hle)]
  · intro a b x y m0 m1 m2 c v w virt ha hb hal h hi hg
    have hw := waitWord_ok hal h
    refine ⟨fun hc hh => waita_goes_on hr ha hb hw hi hc hh, ?_, ?_⟩
    · rintro hc hh m3 rfl
      have := waita_waits hr ha hb hw hi hg (.inr hh)
      rwa [decide_eq_false hc] at this
    · rintro rfl m3 rfl
      exact waita_waits hr ha hb hw hi hg (.inl rfl)
  · intro m1 h1
    refine ⟨h1 ▸ susp_ok hr, fun hi m2 h2 => ⟨fun hteam => ?_, done_ok hr hi h1 h2⟩, fun hi n t arr ht harr hrank => ⟨fun h => ?_, fun h => ?_⟩⟩
    · rw [done_ok hr hi h1 h2, foldl_barrierCheck_none _ (by rw [h2]; exact hteam)]
    · rw [barr_run hr hi, ← h1, arriveBarrier_waits ht harr hrank h]
    · obtain ⟨t', hcur, hteam, hz⟩ := arriveBarrier_opens ht harr hrank h
      exact ⟨m1.arriveBarrier n, t', h1 ▸ barr_run hr hi n, hcur, hteam, hz⟩
  · exact fun k => ⟨_, rfl, sync_ok hr k rfl⟩
  · exact fun a x m1 c ha hc => hint_ok hr ha hc

end Sys2Proof.Machine
end

section
/-! PROOFS. TRAP and SIGC: a software trap with its code; signals written in their order once what they cover is done (R155, R156). -/

namespace Sys2Proof.Machine

section
variable {m : Mach} {q p : PendSig} {rest : List PendSig}

/-- The issuing continuation is found under its own number. -/
theorem Mach.cont?_cur (m : Mach) : m.cont? m.cur.id = some m.cur := by
  simp only [Mach.cont?, beq_self_eq_true, if_true]

theorem Mach.setCont_cur {c : Cont} (h : m.cur.id = c.id) : m.setCont c = m.withCur c := by
  unfold Mach.setCont
  rw [if_pos (beq_iff_eq.mpr h)]
  rfl

/-- R156: signals are performed from the first on; while the first is not ready, none is. -/
theorem foldl_settle_waits {α : Type} (l : List α) (hs : m.cur.sig = p :: rest) (hr : m.sigReady m.cur p = false) :
    l.foldl (fun (m' : Mach) _ => match m'.cont? m.cur.id with
      | some c => match c.sig with
        | p :: _ => if m'.sigReady c p then m'.performSig c p else m'
        | [] => m'
      | none => m') m = m := by
  induction l with
  | nil => rfl
  | cons a l ih =>
    rw [List.foldl_cons]
    simp only [m.cont?_cur, hs, hr, Bool.false_eq_true, if_false]
    exact ih

theorem settleSigsOf_waits (hs : m.cur.sig = p :: rest) (hr : m.sigReady m.cur p = false) : m.settleSigsOf m.cur.id = m := by
  unfold Mach.settleSigsOf
  exact foldl_settle_waits _ hs hr

/-- R156: one signal that is ready is written. -/
theorem settleSigsOf_ready (hs : m.cur.sig = [q]) (hr : m.sigReady m.cur q = true) :
    m.settleSigsOf m.cur.id = m.performSig m.cur q := by
  unfold Mach.settleSigsOf
  simp only [m.cont?_cur, Option.map_some, Option.getD_some, hs, List.foldl_cons, List.foldl_nil, hr, if_true]

/-- The queue of signals decides neither what a signal waits for nor what it writes. -/
theorem performSig_queued (hs : m.cur.sig = []) :
    (m.withCur { m.cur with sig := [q] }).performSig { m.cur with sig := [q] } q = m.performSig m.cur q := by
  have hdrop : { m.cur with sig := m.cur.sig.drop 1 } = m.cur := by
    rw [hs]
    show { m.cur with sig := [] } = m.cur
    rw [← hs]
  have hset : (m.withCur { m.cur with sig := [q] }).setCont { m.cur with sig := [q].drop 1 } = m := by
    refine (Mach.setCont_cur (m := m.withCur { m.cur with sig := [q] }) (c := { m.cur with sig := [] }) rfl).trans ?_
    rw [← hs]
    rfl
  have hown : m.setCont { m.cur with sig := m.cur.sig.drop 1 } = m := by
    rw [hdrop]
    exact Mach.setCont_cur rfl
  unfold Mach.performSig
  rw [hown, hset]

/-- R156: a signal is ready where every earlier job has landed and every load-block is filled. -/
theorem sigReady_of {c : Cont} (hf : c.filledAll) (hj : ∀ j ∈ m.jobs, j.cont = c.id → j.st = .landed) : m.sigReady c q = true := by
  unfold Mach.sigReady
  rw [Bool.and_eq_true, Bool.not_eq_true', List.any_eq_false, List.all_eq_true]
  refine ⟨fun j hj' => ?_, fun b hb => ?_⟩
  · by_cases hc : j.cont = c.id
    · simp [hj j hj' hc]
    · simp [hc]
  · cases b with
    | none => rfl
    | some b => exact hf b hb

theorem sigReady_false_of {c : Cont} (h : ∃ j ∈ m.jobs, j.cont = c.id ∧ j.seq = none ∧ j.id < q.before ∧ j.st ≠ .landed) :
    m.sigReady c q = false := by
  obtain ⟨j, hj, hc, hseq, hid, hst⟩ := h
  have hany : (m.jobs.any fun j => j.cont == c.id && j.seq.isNone && decide (j.id < q.before) && j.st ≠ .landed) = true :=
    List.any_eq_true.mpr ⟨j, hj, by simp [hc, hseq, hid, hst]⟩
  unfold Mach.sigReady
  rw [hany]
  rfl

/-- R90, R156: where a signal of a memory word is written, and what it releases. -/
theorem performSig_mem (m : Mach) (c : Cont) (pa : ℕ) (y : Word) (sc : BitVec 3) :
    m.performSig c { target := .mem pa, value := y, scope := sc, before := 0 } =
      (m.setCont { c with sig := c.sig.drop 1 }).withMem
        ((((m.setCont { c with sig := c.sig.drop 1 }).mem.strongPrep c.die (homeOf pa) pa 8 (decide (3 ≤ sc.toNat)) c.past)).strongWrite
          c.die (homeOf pa) pa (leBytes 8 y.toNat) false) := rfl
end

section
variable {s : State} {gu : Guard}

/-- R155: the code of a software trap. -/
theorem trapCode_eq (c : BitVec 12) : (0xF000 + c.setWidth 16 : BitVec 16) = BitVec.ofNat 16 (0xF000 + c.toNat) := by bv_omega

theorem trap_raises (hr : s.Ready gu .k) (c : BitVec 12) : exec (.trap gu c) s = .next
    (s.takeTrap { cause := BitVec.ofNat 16 (0xF000 + c.toNat) } (s.m.cur.slotNow .k) (toW (encode (.trap gu c)))) := by
  rw [← trapCode_eq]
  show execTrap gu c s = _
  unfold execTrap
  refine runSlot_trap hr ?_
  rw [act_raise]

/-- R156: SIGC joins the signals of its continuation, which are then looked at. -/
theorem sigc_run (hr : s.Ready gu .k) {a b : GF} {x y : Word} {m1 m2 m3 : Mach} {v : Bool} {c : BitVec 3} {p : SigTarget} {q : PendSig}
    (hc : c.toNat < 5) (ha : readG a s.m = .ok (x, m1)) (hcheck : strongCheck (!v) 8 x m1 = .ok ((), m1)) (hb : readG b m1 = .ok (y, m2))
    (hp : strongPlace (!v) 8 x .write m2 = .ok (p, m2)) (hi : m2.cur.imprecise = none) (h3 : m3 = m2.performed m2.cur.id)
    (hq : q = { target := p, value := y, scope := c, before := m3.nextJob }) : exec (.sigc gu a b v c) s =
      .next (s.complete ((m3.withCur { m3.cur with sig := m3.cur.sig ++ [q] }).settleSigsOf m3.cur.id)) := by
  subst h3 hq
  refine runSlot_ok (u := ()) hr ?_
  simp only [act_bind, checkScope_ok hc, ha, hcheck, hb, hp, reportPoint_none hi, act_performEarlier, act_modM]
  rfl
end

/-- Settles O33: the trap's code; a signal is written at once, or waits behind what it covers and behind the signals before it. -/
theorem trapAndSignal : Obligations.TrapAndSignal := by
  unfold Obligations.TrapAndSignal
  intro s gu hr
  refine ⟨trap_raises hr, ?_, fun m c pa y sc => ⟨_, rfl, performSig_mem m c pa y sc⟩⟩
  intro a b x y m1 m2 m3 v c p q hc ha hcheck hb hp hi h3 hq
  have hrun := sigc_run hr hc ha hcheck hb hp hi h3 hq
  have hbefore : q.before = m3.nextJob := by rw [hq]
  refine ⟨fun hsig hfill hjobs => ?_, fun hsig hjob => ?_, fun r rest hsig hwait => ?_⟩
  · rw [hsig] at hrun
    have hready : (m3.withCur { m3.cur with sig := [q] }).sigReady { m3.cur with sig := [q] } q = true := sigReady_of hfill hjobs
    exact hrun.trans (congrArg (fun m => Host.Outcome.next (s.complete m))
      ((settleSigsOf_ready (m := m3.withCur { m3.cur with sig := [q] }) rfl hready).trans (performSig_queued hsig)))
  · rw [hsig] at hrun
    obtain ⟨j, hj, hcont, hseq, hid, hst⟩ := hjob
    have hwait : (m3.withCur { m3.cur with sig := [q] }).sigReady { m3.cur with sig := [q] } q = false :=
      sigReady_false_of ⟨j, hj, hcont, hseq, hbefore ▸ hid, hst⟩
    exact hrun.trans (congrArg (fun m => Host.Outcome.next (s.complete m))
      (settleSigsOf_waits (m := m3.withCur { m3.cur with sig := [q] }) rfl hwait))
  · rw [hsig] at hrun
    exact hrun.trans (congrArg (fun m => Host.Outcome.next (s.complete m))
      (settleSigsOf_waits (m := m3.withCur { m3.cur with sig := r :: rest ++ [q] }) rfl hwait))

end Sys2Proof.Machine
end

section
/-! SUPPORT. What a continuation asks of the launch unit: the checks and the release before a request, and the admission of a
task (R162, R248, R276, R285). -/

namespace Sys2Proof.Machine

section
variable {m m' : Mach} {x : Word} {n : ℕ} {t : Task} {d : GF}

/-- R123, R128: a general register without an answer on its way can take one. -/
theorem checkDest_ok (hd : d.toNat < 24) (ha : m.cur.awaits d = false) : checkDest d m = .ok ((), m) := by
  unfold checkDest
  simp only [act_bind, act_getC, act_awaitIf, ha, Bool.false_eq_true, if_false, if_pos hd, act_pure]

/-- R248, R366: an aligned record whose address is translated can be asked for. -/
theorem probe_ok (hal : x.toNat % n = 0) (ht : m.task? m.cur.task = some t)
    (hp : ∃ ps, m.resolveCtx m.cur.die t.ctx t.entry x n .read = .ok ps) : probe x n m = .ok ((), m) := by
  obtain ⟨ps, hps⟩ := hp
  simp only [probe, act_bind, act_raiseIf, hal, ne_eq, not_true_eq_false, decide_false, Bool.false_eq_true, if_false, act_getM, ht,
    hps, act_pure]

theorem probe_misaligned (hal : x.toNat % n ≠ 0) : probe x n m = .error (.trap { cause := 0x2001, faddr := x }) := by
  simp only [probe, act_bind, act_raiseIf, ne_eq, hal, not_false_eq_true, decide_true, if_true]

theorem awaitSources_ok (h : m.sourcesHeld m.cur.ctx = false) : awaitSources m = .ok ((), m) := by
  simp only [awaitSources, act_bind, act_getM, act_awaitIf, h, Bool.false_eq_true, if_false]

/-- R162, R248: a request follows everything its continuation has done. -/
theorem sendRequest_ok (h : m.sends m') : sendRequest m = .ok ((), m') := by
  obtain ⟨hi, hs, rfl⟩ := h
  simp only [sendRequest, act_bind, reportPoint_none hi, awaitFills_ok hs, act_performEarlier, act_modM]
  rfl

/-- R293: where an instruction acts: at the origin for a member of a stolen team, else here. -/
theorem atOrigin_here {r : GuestReq} {act : Act (Option Word)} (h : m.guestOf m.cur = none) : atOrigin d r act m = act m := by
  simp only [atOrigin, act_bind, act_getM, h]

theorem atOrigin_away {r : GuestReq} {act : Act (Option Word)} {g : GuestId} (h : m.guestOf m.cur = some g) :
    atOrigin d r act m = .ok (none, m.sendTo 2 g.origin (.request g.task g.team m.cur.rank.toNat d r)) := by
  simp only [atOrigin, act_bind, act_getM, h, act_modM, act_pure]
end

/-! ### Admission (R276, R285) -/

section
variable {m m' : Mach} {s : Submitter} {rec : Word} {t : Task} {q : ℕ}

/-- Two machines have the same tasks and have given the same numbers. -/
def Mach.sameTasks (m m' : Mach) : Prop := m'.tasks = m.tasks ∧ m'.seqCount = m.seqCount ∧ m'.gridCount = m.gridCount

theorem Mach.ctxWrite_sameTasks (m : Mach) (die : ℕ) (ctx : BitVec 12) (e : CtxEntry) (va : Word) (b : List Byte) :
    m.sameTasks (m.ctxWrite die ctx e va b) := by
  unfold Mach.ctxWrite
  split
  · exact ⟨rfl, rfl, rfl⟩
  · split <;> exact ⟨rfl, rfl, rfl⟩

theorem Mach.refuseRecord_sameTasks (m : Mach) (s : Submitter) (rec : Word) : m.sameTasks (m.refuseRecord s rec) := by
  unfold Mach.refuseRecord
  split
  · exact m.ctxWrite_sameTasks ..
  · exact ⟨rfl, rfl, rfl⟩

theorem Mach.putTaskState_sameTasks (m : Mach) (t : Task) (c : Cause) : m.sameTasks (m.putTaskState t c) := m.ctxWrite_sameTasks ..

/-- R244, R385: the task that an admissible record describes. -/
theorem examine_fields {own : Bool} (h : m.examine s rec own = .ok t) :
    t.seq = m.seqCount + 1 ∧ t.recVa = rec ∧ t.ctx = s.ctx ∧ t.stage = .ordering ∧ t.tstate = 1 := by
  unfold Mach.examine at h
  split at h
  · cases h
  split at h
  · cases h
  simp only at h
  split at h
  · cases h
  split at h
  · cases h
  split at h
  · cases h
  split at h
  · cases h
  split at h
  · cases h
  split at h
  · cases h
  split at h
  · cases h
  rcases ite_eq_iff.mp h with ⟨-, h⟩ | ⟨-, h⟩
  · cases h
  cases h
  exact ⟨rfl, rfl, rfl, rfl, rfl⟩

/-- A fold that keeps what it has or takes the next element ends with an element of the list, or with what it began with. -/
theorem foldl_pick_mem {α : Type} {f : Option α → α → Option α} (hf : ∀ b a, f b a = b ∨ f b a = some a) (l : List α) (b : Option α)
    {t : α} (h : l.foldl f b = some t) : t ∈ l ∨ b = some t := by
  induction l generalizing b with
  | nil => exact .inr h
  | cons a l ih =>
    obtain hl | hb := ih (f b a) h
    · exact .inl (List.mem_cons_of_mem a hl)
    · obtain hk | hk := hf b a
      · exact .inr (hk ▸ hb)
      · rw [hk] at hb
        cases hb
        exact .inl (List.mem_cons_self ..)

theorem nextEntered_mem (h : m.nextEntered = some t) : t ∈ m.tasks := by
  unfold Mach.nextEntered at h
  refine List.mem_of_mem_filter ((foldl_pick_mem (fun b a => ?_) _ _ h).resolve_right (by simp))
  cases b with
  | none => exact .inr rfl
  | some b =>
    by_cases hs : servedFirst a b 0 0 = true
    · exact .inr (if_pos hs)
    · exact .inl (if_neg hs)

/-- R277, R280: granting table entries renumbers no task, and changes what holds of the tasks with one number in no respect that
a grant does not touch. -/
theorem grantFrom_keeps {P : Task → Prop} (hP : ∀ t, P t → P { t with entered := true }) (n : ℕ) (m : Mach) :
    (m.grantFrom n).tasks.map Task.seq = m.tasks.map Task.seq ∧ (m.grantFrom n).seqCount = m.seqCount ∧
    (m.grantFrom n).gridCount = m.gridCount ∧
    ((∀ u ∈ m.tasks, u.seq = q → P u) → ∀ u ∈ (m.grantFrom n).tasks, u.seq = q → P u) := by
  induction n generalizing m with
  | zero => exact ⟨rfl, rfl, rfl, fun h => h⟩
  | succ n ih =>
    unfold Mach.grantFrom
    cases ht : m.nextEntered with
    | none => exact ⟨rfl, rfl, rfl, fun h => h⟩
    | some t =>
      obtain ⟨hseq, hs, hg, hall⟩ := ih (m.setTask { t with entered := true })
      refine ⟨hseq.trans ?_, hs, hg, fun h => hall fun u hu hq => ?_⟩
      · show (m.tasks.map fun u => if u.seq == t.seq then { t with entered := true } else u).map Task.seq = _
        rw [List.map_map]
        refine List.map_congr_left fun u _ => ?_
        by_cases hu : u.seq = t.seq
        · simp [hu]
        · simp [hu]
      · obtain ⟨v, hv, rfl⟩ := List.mem_map.mp hu
        by_cases hvt : (v.seq == t.seq) = true
        · rw [if_pos hvt] at hq ⊢
          exact hP t (h t (nextEntered_mem ht) hq)
        · rw [if_neg hvt] at hq ⊢
          exact h v hv hq

/-- R280: a task that has just entered, with a number of its own, is still there after the grants. -/
theorem grantEntries_keeps {P : Task → Prop} (hP : ∀ t, P t → P { t with entered := true }) {n : Mach} {l : List Task}
    (hl : n.tasks = l ++ [t]) : n.grantEntries.tasks.map Task.seq = l.map Task.seq ++ [t.seq] ∧
    n.grantEntries.seqCount = n.seqCount ∧ n.grantEntries.gridCount = n.gridCount ∧
    ((∀ u ∈ l, u.seq ≠ t.seq) → P t → ∃ k ∈ n.grantEntries.tasks, k.seq = t.seq ∧ P k) := by
  obtain ⟨hseq, hs, hg, hall⟩ := grantFrom_keeps (q := t.seq) hP (n.tasks.filter fun t => t.stage == .ordering && !t.entered).length n
  have hmap : n.grantEntries.tasks.map Task.seq = l.map Task.seq ++ [t.seq] := by
    rw [show n.grantEntries.tasks.map Task.seq = n.tasks.map Task.seq from hseq, hl, List.map_append]
    rfl
  refine ⟨hmap, hs, hg, fun hne ht => ?_⟩
  have hin : t.seq ∈ n.grantEntries.tasks.map Task.seq := by
    rw [hmap]
    exact List.mem_append_right _ (List.mem_singleton_self _)
  obtain ⟨k, hk, hkq⟩ := List.mem_map.mp hin
  refine ⟨k, hk, hkq, hall (fun u hu hq => ?_) k hk hkq⟩
  rw [hl] at hu
  rcases List.mem_append.mp hu with hu | hu
  · exact absurd hq (hne u hu)
  · exact List.mem_singleton.mp hu ▸ ht

/-- R276: what a machine is once a task has entered it, the table entries are granted and the task's record is written. -/
theorem enterTask_keeps {n : Mach} {ctx : BitVec 12} (htasks : n.tasks = m.tasks ++ [t]) (hcount : n.seqCount = m.seqCount + 1)
    (hgrid : n.gridCount = m.gridCount + 1) (hq : t.seq = q) (hnext : q = m.seqCount + 1)
    (ht : t.recVa = rec ∧ t.ctx = ctx ∧ t.stage = .ordering ∧ t.tstate = 1) :
    q = m.seqCount + 1 ∧ (n.grantEntries.putTaskState t 0).seqCount = q ∧
    (n.grantEntries.putTaskState t 0).gridCount = m.gridCount + 1 ∧
    (n.grantEntries.putTaskState t 0).tasks.map Task.seq = m.tasks.map Task.seq ++ [q] ∧
    ((∀ u ∈ m.tasks, u.seq ≠ q) → ∃ k ∈ (n.grantEntries.putTaskState t 0).tasks,
      k.seq = q ∧ k.recVa = rec ∧ k.ctx = ctx ∧ k.stage = .ordering ∧ k.tstate = 1) := by
  subst hq
  obtain ⟨hput, hputq, hputg⟩ := n.grantEntries.putTaskState_sameTasks t 0
  obtain ⟨hmap, hgq, hgg, hex⟩ := grantEntries_keeps
    (P := fun k => k.recVa = rec ∧ k.ctx = ctx ∧ k.stage = .ordering ∧ k.tstate = 1) (fun k h => h) htasks
  rw [hput, hputq, hputg, hmap, hgq, hgg, hcount, hgrid]
  exact ⟨hnext, hnext.symm, rfl, rfl, fun hne => hex hne ht⟩

/-- R276: an accepted task enters with the next sequence and grid numbers. -/
theorem enrol_accepts (h : m.enrol s rec = (m', .ok q)) : q = m.seqCount + 1 ∧ m'.seqCount = q ∧ m'.gridCount = m.gridCount + 1 ∧
    m'.tasks.map Task.seq = m.tasks.map Task.seq ++ [q] ∧
    ((∀ u ∈ m.tasks, u.seq ≠ q) → ∃ k ∈ m'.tasks, k.seq = q ∧ k.recVa = rec ∧ k.ctx = s.ctx ∧ k.stage = .ordering ∧ k.tstate = 1) := by
  unfold Mach.enrol at h
  cases he : m.examine s rec false with
  | error r => rw [he] at h; cases h
  | ok t =>
    rw [he] at h
    obtain ⟨hseq, hrec, hctx, hstage, hts⟩ := examine_fields he
    dsimp only at h
    split at h
    · cases h
    · rw [Prod.mk.injEq, Except.ok.injEq] at h
      obtain ⟨hm, hq⟩ := h
      subst hm
      refine enterTask_keeps ?_ ?_ ?_ hq (hq.symm.trans hseq) ⟨hrec, hctx, hstage, hts⟩
      · dsimp only
        split <;> rfl
      · dsimp only
        split <;> rfl
      · dsimp only
        split <;> rfl

/-- R285: a refused task changes no task. -/
theorem enrol_refuses {r : ℕ} (h : m.enrol s rec = (m', .error r)) : m'.tasks = m.tasks ∧ m'.seqCount = m.seqCount := by
  unfold Mach.enrol at h
  split at h
  · cases h
    exact ⟨(m.refuseRecord_sameTasks s rec).1, (m.refuseRecord_sameTasks s rec).2.1⟩
  · dsimp only at h
    split at h
    · cases h
      exact ⟨(m.refuseRecord_sameTasks s rec).1, (m.refuseRecord_sameTasks s rec).2.1⟩
    · cases h
end

end Sys2Proof.Machine
end

section
/-! PROOFS. TSPAWN, GLNCH and CRSPAWN: the request, its admission and the answer on its way (R248, R249, R293). -/

namespace Sys2Proof.Machine

/-- The word GLNCH answers (R248). -/
def ReplayAnswer.word : ReplayAnswer → Word
  | .started => 0
  | .held => 1
  | .full => 2
  | .refused k => toW (3 + k % 65536 * 65536)

section
variable {m m' m'' : Mach} {x y : Word} {t : Task} {q r : ℕ} {f : W32}

section
variable (hal : x.toNat % 128 = 0) (ht : m.task? m.cur.task = some t)
  (hp : ∃ ps, m.resolveCtx m.cur.die t.ctx t.entry x 128 .read = .ok ps) (hsrc : m.sourcesHeld m.cur.ctx = false) (hs : m.sends m')
include hal ht hp hsrc hs

theorem tspawnAt_accepts (h : m'.enrol m'.submitter x = (m'', .ok q)) : tspawnAt x m = .ok (some (toW (q % 2 ^ 63)), m'') := by
  simp only [tspawnAt, act_bind, probe_ok hal ht hp, awaitSources_ok hsrc, sendRequest_ok hs, act_getM, act_modM, h, act_pure]

theorem tspawnAt_refuses (h : m'.enrol m'.submitter x = (m'', .error r)) : tspawnAt x m = .ok (some (toW (2 ^ 63 + r)), m'') := by
  simp only [tspawnAt, act_bind, probe_ok hal ht hp, awaitSources_ok hsrc, sendRequest_ok hs, act_getM, act_modM, h, act_pure]
end

theorem glnchAt_answers (hal : x.toNat % 64 = 0) (ht : m.task? m.cur.task = some t)
    (hp : ∃ ps, m.resolveCtx m.cur.die t.ctx t.entry x 64 .read = .ok ps) (hsrc : m.sourcesHeld m.cur.ctx = false) (hs : m.sends m')
    {a : ReplayAnswer} (h : m'.requestReplay m'.submitter x = (m'', a)) : glnchAt x m = .ok (some a.word, m'') := by
  have hrun : glnchAt x m = .ok (some (m'.requestReplay m'.submitter x).2.word, (m'.requestReplay m'.submitter x).1) := by
    simp only [glnchAt, act_bind, probe_ok hal ht hp, awaitSources_ok hsrc, sendRequest_ok hs, act_getM, act_modM, act_pure]
    rfl
  rw [hrun, h]

theorem crspawnAt_answers (hsrc : m.sourcesHeld m.cur.ctx = false) (hs : m.sends m') (ht : m'.task? m'.cur.task = some t) :
    crspawnAt x y f m = .ok (some (m'.createHelper t x y f).2, (m'.createHelper t x y f).1) := by
  simp only [crspawnAt, act_bind, awaitSources_ok hsrc, sendRequest_ok hs, act_getM, ht, act_modM, act_pure]

/-- R249: a task has 65,536 helpers at most. -/
theorem createHelper_full (h : 65536 ≤ t.helpers) : m.createHelper t x y f = (m, BitVec.allOnes 64) := if_pos (.inl h)
end

section
variable {s : State} {gu : Guard} {d a b : GF} {x y : Word} {m1 m2 m3 : Mach} {v : Option Word}
variable (hr : s.Ready gu .k) (hd : d.toNat < 24) (haw : s.m.cur.awaits d = false) (ha : readG a s.m = .ok (x, m1))
include hr hd haw ha

/-- R248: the answer of TSPAWN follows to its register. -/
theorem tspawn_run (h : atOrigin d (.tspawn x) (tspawnAt x) m1 = .ok (v, m2)) :
    exec (.tspawn gu d a) s = .next (s.complete (m2.answerTo d v)) := by
  refine runSlot_ok (u := ()) hr ?_
  simp only [act_bind, checkDest_ok hd haw, ha, h, expect_eq]

theorem glnch_run (h : atOrigin d (.glnch x) (glnchAt x) m1 = .ok (v, m2)) :
    exec (.glnch gu d a) s = .next (s.complete (m2.answerTo d v)) := by
  refine runSlot_ok (u := ()) hr ?_
  simp only [act_bind, checkDest_ok hd haw, ha, h, expect_eq]

theorem crspawn_run (hb : readG b m1 = .ok (y, m2))
    (h : atOrigin d (.crspawn x y m2.fmtNow) (crspawnAt x y m2.fmtNow) m2 = .ok (v, m3)) :
    exec (.crspawn gu d a b) s = .next (s.complete (m3.answerTo d v)) := by
  refine runSlot_ok (u := ()) hr ?_
  simp only [act_bind, checkDest_ok hd haw, ha, hb, act_takeFmt, h, expect_eq]

theorem tspawn_misaligned (hg : m1.guestOf m1.cur = none) (hal : x.toNat % 128 ≠ 0) : exec (.tspawn gu d a) s =
    .next (s.takeTrap { cause := 0x2001, faddr := x } (s.m.cur.slotNow .k) (toW (encode (.tspawn gu d a)))) := by
  refine runSlot_trap hr ?_
  simp only [act_bind, checkDest_ok hd haw, ha, atOrigin_here hg, tspawnAt, probe_misaligned hal]
end

/-- Settles O34: each request is checked and released, then admitted or refused, or goes to the origin of a stolen team. -/
theorem launchRequests : Obligations.LaunchRequests := by
  unfold Obligations.LaunchRequests
  intro s gu d a b hr hd haw
  refine ⟨fun x m1 g ha hg i r hi => ?_, fun x m1 m2 t ha hg ht hsrc hs => ⟨fun hal hp => ⟨fun m3 q he => ?_, fun m3 r he => ?_⟩,
    fun hal hp m3 r he => ?_, tspawn_misaligned hr hd haw ha hg⟩, fun x y m1 m2 ha hb => ⟨fun g hg => ?_, fun m3 t hg hsrc hs ht r h => ?_⟩⟩
  · simp only [List.mem_cons, Prod.mk.injEq, List.not_mem_nil, or_false] at hi
    obtain ⟨rfl, rfl⟩ | ⟨rfl, rfl⟩ := hi
    · exact tspawn_run hr hd haw ha (atOrigin_away hg)
    · exact glnch_run hr hd haw ha (atOrigin_away hg)
  · exact ⟨tspawn_run hr hd haw ha ((atOrigin_here hg).trans (tspawnAt_accepts hal ht hp hsrc hs he)), enrol_accepts he⟩
  · exact ⟨tspawn_run hr hd haw ha ((atOrigin_here hg).trans (tspawnAt_refuses hal ht hp hsrc hs he)), enrol_refuses he⟩
  · exact glnch_run hr hd haw ha ((atOrigin_here hg).trans (glnchAt_answers hal ht hp hsrc hs he))
  · exact crspawn_run hr hd haw ha hb (atOrigin_away hg)
  · subst h
    exact ⟨crspawn_run hr hd haw ha hb ((atOrigin_here hg).trans (crspawnAt_answers hsrc hs ht)), createHelper_full⟩

end Sys2Proof.Machine
end

section
/-! PROOFS. GTOK, GSTAT, TEAMQ and PRMT: what they answer, and what PRMT has carried out (R250 to R254). -/

namespace Sys2Proof.Machine

section
variable {m m' : Mach} {x y : Word} {t : Task} {g : Graph} {n : Node} {d : GF}

theorem guestOf_none (ht : m.task? m.cur.task = some t) (hg : t.guest = none) : m.guestOf m.cur = none := by
  rw [Mach.guestOf, ht]
  exact hg

theorem writeOrExpect_some (v : Word) : writeOrExpect d (some v) = writeG d v := rfl

section
variable (hal : x.toNat % 64 = 0) (ht : m.task? m.cur.task = some t)
  (hp : ∃ ps, m.resolveCtx m.cur.die t.ctx t.entry x 64 .read = .ok ps)
include hal ht hp

/-- R250: GTOK on a node of the running replay. -/
theorem gtokAt_running (hs : m.sends m') (hg : m.graphOf m.cur.ctx x = some g) (hrun : g.running = true) (hy : y.toNat < g.count)
    (hy16 : y.toNat < 65536) (hn : g.nodes[y.toNat]? = some n) :
    gtokAt x y m = .ok (some (toW (n.tokens + 1)), m'.addToken g.id y.toNat true) := by
  have hi : bits y.toNat 15 0 = y.toNat := by rw [bits_zero_eq]; exact Nat.mod_eq_of_lt hy16
  have hok : ¬(g.count ≤ y.toNat ∨ 65536 ≤ y.toNat) := by omega
  simp only [gtokAt, act_bind, probe_ok hal ht hp, act_getM, hg, Option.bind_some, hrun, if_true, hi, act_raiseIf, hok, decide_false,
    Bool.false_eq_true, if_false, sendRequest_ok hs, act_modM, act_pure, hn, Option.map_some, Option.getD_some]

/-- R250: with no running replay it answers all ones. -/
theorem gtokAt_idle (hs : m.sends m') (hg : ∀ g, m.graphOf m.cur.ctx x = some g → g.running = false) (hy : y.toNat < m.countOf x)
    (hy16 : y.toNat < 65536) : gtokAt x y m = .ok (some (BitVec.allOnes 64), m') := by
  have hi : bits y.toNat 15 0 = y.toNat := by rw [bits_zero_eq]; exact Nat.mod_eq_of_lt hy16
  have hok : ¬(m.countOf x ≤ y.toNat ∨ 65536 ≤ y.toNat) := by omega
  have hrun : ((m.graphOf m.cur.ctx x).bind fun g => if g.running then some g else none) = none := by
    cases hgr : m.graphOf m.cur.ctx x with
    | none => rfl
    | some g => rw [Option.bind_some, hg g hgr]; rfl
  simp only [gtokAt, act_bind, probe_ok hal ht hp, act_getM, hrun, hi, act_raiseIf, hok, decide_false, Bool.false_eq_true, if_false,
    sendRequest_ok hs, act_pure]

/-- R250: a node index out of range is reported. -/
theorem gtokAt_outside (hg : m.graphOf m.cur.ctx x = some g) (hrun : g.running = true)
    (hy : g.count ≤ y.toNat % 65536 ∨ 65536 ≤ y.toNat) : gtokAt x y m = .error (.trap { cause := 0x2003 }) := by
  have hi : bits y.toNat 15 0 = y.toNat % 65536 := bits_zero_eq ..
  simp only [gtokAt, act_bind, probe_ok hal ht hp, act_getM, hg, Option.bind_some, hrun, if_true, hi, act_raiseIf, hy, decide_true]

theorem gstatAt_ok (nd : Bool) : gstatAt x y nd m = .ok (some (m.gstatWord x y nd), m) := by
  simp only [gstatAt, act_bind, probe_ok hal ht hp, act_getM, act_pure]
end

/-- R251: the word of a graph the executor holds. -/
theorem gstatWord_graph (hg : m.graphOf m.cur.ctx x = some g) : m.gstatWord x 0 false = g.statWord := by
  simp only [Mach.gstatWord, hg, Bool.not_false, if_true]

theorem statWord_toNat (h : g.nodes.length ≤ 65536) : g.statWord.toNat =
    g.flags + (if g.cur then 16 else 0) + (if g.running then (g.nodes.filter fun n => n.st == 3).length else 0) * 2 ^ 16 +
      g.replays % 2 ^ 24 * 2 ^ 40 := by
  have hbit : oneBit g.cur 4 = if g.cur then 16 else 0 := by cases g.cur <;> rfl
  have hcur : (if g.cur then 16 else 0) ≤ 16 := by split <;> omega
  have hdone : (if g.running then (g.nodes.filter fun n => n.st == 3).length else 0) ≤ 65536 := by
    split
    · exact (List.length_filter_le _ _).trans h
    · omega
  have hflags : g.flags < 16 := by
    have := g.running.toNat_le
    have := g.pend.isSome.toNat_le
    have := g.pendVersion.toNat_le
    have := g.areaReady.toNat_le
    unfold Graph.flags
    omega
  have hrep : g.replays % 2 ^ 24 < 2 ^ 24 := Nat.mod_lt _ (by decide)
  rw [Graph.statWord, hbit, toW, BitVec.toNat_ofNat]
  refine Nat.mod_eq_of_lt ?_
  generalize (if g.cur then 16 else 0) = c at *
  generalize (if g.running then (g.nodes.filter fun n => n.st == 3).length else 0) = k at *
  omega
end

section
variable {s : State} {gu : Guard} {d a b : GF} {x y : Word} {m1 m2 m3 m4 : Mach} {t : Task} {out : ℕ}
variable (hr : s.Ready gu .k)
include hr

/-- R250: GTOK's answer reaches its register, where the token has not ended the issuer. -/
theorem gtok_run {v : Word} (ha : readG a s.m = .ok (x, m1)) (hb : readG b m1 = .ok (y, m2)) (hg : m2.guestOf m2.cur = none)
    (h : gtokAt x y m2 = .ok (some v, m3)) (hid : m3.cur.id ≠ 0) (hd : writeG d v m3 = .ok ((), m4)) :
    exec (.gtok gu d a b) s = .next (s.complete m4) := by
  refine runSlot_ok (u := ()) hr ?_
  simp only [act_bind, ha, hb, atOrigin_here hg, h, act_getC, if_neg hid, writeOrExpect_some, hd]

theorem gtok_trap {k : Trap} (ha : readG a s.m = .ok (x, m1)) (hb : readG b m1 = .ok (y, m2)) (hg : m2.guestOf m2.cur = none)
    (h : gtokAt x y m2 = .error (.trap k)) : exec (.gtok gu d a b) s =
      .next (s.takeTrap k (s.m.cur.slotNow .k) (toW (encode (.gtok gu d a b)))) := by
  refine runSlot_trap hr ?_
  simp only [act_bind, ha, hb, atOrigin_here hg, h]

/-- R251: GSTAT's word is written at once. -/
theorem gstat_ok {nd : Bool} (ha : readG a s.m = .ok (x, m1)) (hb : if nd then readG b m1 = .ok (y, m2) else y = 0 ∧ m2 = m1)
    (hal : x.toNat % 64 = 0) (ht : m2.task? m2.cur.task = some t) (hg : t.guest = none)
    (hp : ∃ ps, m2.resolveCtx m2.cur.die t.ctx t.entry x 64 .read = .ok ps)
    (hd : writeG d (m2.gstatWord x y nd) m2 = .ok ((), m3)) : exec (.gstat gu d a b nd) s = .next (s.complete m3) := by
  have hb' : (if nd then readG b else pure 0 : Act Word) m1 = .ok (y, m2) := by
    cases nd
    · obtain ⟨rfl, rfl⟩ := hb; rfl
    · exact hb
  refine runSlot_ok (u := ()) hr ?_
  simp only [act_bind, ha, hb', atOrigin_here (guestOf_none ht hg), gstatAt_ok hal ht hp, writeOrExpect_some, hd]

/-- R293: a member of a stolen team asks its origin. -/
theorem gstat_away {g : GuestId} (ha : readG a s.m = .ok (x, m1)) (hg : m1.guestOf m1.cur = some g) :
    exec (.gstat gu d a b false) s = .next (s.complete
      ((m1.sendTo 2 g.origin (.request g.task g.team m1.cur.rank.toNat d (.gstat x 0 false))).answerTo d none)) := by
  refine runSlot_ok (u := ()) hr ?_
  simp only [act_bind, ha, Bool.false_eq_true, if_false, act_pure, atOrigin_away hg, writeOrExpect, expect_eq]

/-- R252: the shape of the issuer's team. -/
theorem teamq_team {k : Task} {u : Team} (hk : s.m.task? s.m.cur.task = some k) (hu : s.m.team? s.m.cur.task s.m.cur.team.toNat = some u)
    (hd : writeG d (toW (u.size + s.m.cur.die * 2 ^ 8 + s.m.cur.winLimit / 4096 * 2 ^ 16 + k.teams * 2 ^ 32)) s.m = .ok ((), m1)) :
    exec (.teamq gu d a true) s = .next (s.complete m1) := by
  refine runSlot_ok (u := ()) hr ?_
  simp only [act_bind, if_true, act_pure, act_getM, hk, hu, Option.map_some, Option.getD_some, hd]

/-- R252: the binding of a rank. -/
theorem teamq_rank {r : Cont} (ha : readG a s.m = .ok (x, m1)) (hx : x.toNat < 16)
    (hm : m1.member? m1.cur.task m1.cur.team.toNat x.toNat = some r)
    (hd : writeG d (toW (r.core + r.die * 2 ^ 4 + (if r.claim then 2 ^ 10 else 0) + 2 ^ 15)) m1 = .ok ((), m2)) :
    exec (.teamq gu d a false) s = .next (s.complete m2) := by
  have hbit : oneBit r.claim 10 = if r.claim then 2 ^ 10 else 0 := by cases r.claim <;> rfl
  refine runSlot_ok (u := ()) hr ?_
  simp only [act_bind, ha, Bool.false_eq_true, if_false, act_getM, if_pos hx, hm, hbit, hd]

theorem teamq_none (ha : readG a s.m = .ok (x, m1)) (hx : 16 ≤ x.toNat) (hd : writeG d 0 m1 = .ok ((), m2)) :
    exec (.teamq gu d a false) s = .next (s.complete m2) := by
  refine runSlot_ok (u := ()) hr ?_
  simp only [act_bind, ha, Bool.false_eq_true, if_false, act_getM, if_neg (Nat.not_lt.mpr hx), hd]

/-- R254: what PRMT has done after its checks. -/
theorem prmt_run (hd : d.toNat < 24) (haw : s.m.cur.awaits d = false) (ha : readG a s.m = .ok (x, m1)) (hb : readG b m1 = .ok (y, m2))
    (hg : m2.guestOf m2.cur = none) (h : prmtAt d x y m2 = .ok ((), m3)) : exec (.prmt gu d a b) s = .next (s.complete m3) := by
  refine runSlot_ok (u := ()) hr ?_
  simp only [act_bind, checkDest_ok hd haw, ha, hb, act_getM, hg, Option.isSome_none, Bool.false_eq_true, if_false, h]
end

section
variable {m : Mach} {x y : Word} {d : GF} {me t : Task} {out : ℕ}
variable (hal : x.toNat % 128 = 0) (hme : m.task? m.cur.task = some me)
  (hp : ∃ ps, m.resolveCtx m.cur.die me.ctx me.entry x 128 .read = .ok ps)
include hal hme hp

/-- R254: no task of the issuer's context has that record. -/
theorem prmtAt_absent (h : m.taskAt m.cur.ctx x = none) :
    prmtAt d x y m = .ok ((), m.answerTo d (some (if m.foreignRecord x then 5 else 0))) := by
  simp only [prmtAt, act_bind, probe_ok hal hme hp, act_getM, h, expect_eq]

variable (ht : m.taskAt m.cur.ctx x = some t)
include ht

theorem prmtAt_idle (h : t.tstate ≠ 2) : prmtAt d x y m = .ok ((), m.answerTo d (some 0)) := by
  simp only [prmtAt, act_bind, probe_ok hal hme hp, act_getM, ht, if_pos h, expect_eq]

variable (h2 : t.tstate = 2)
include h2

theorem prmtAt_excluded (h : m.prmtOutcome t (y.toNat % 4) = 4) : prmtAt d x y m = .ok ((), m.answerTo d (some 4)) := by
  have hout : m.prmtOutcome t (bits y.toNat 1 0) = 4 := by rw [bits_zero_eq]; exact h
  simp only [prmtAt, act_bind, probe_ok hal hme hp, act_getM, ht, h2, ne_eq, not_true_eq_false, if_false, hout, if_true, expect_eq]

theorem prmtAt_drain (h : m.prmtOutcome t (y.toNat % 4) = 3) :
    prmtAt d x y m = .ok ((), (m.carryOut t 3 (some (t.place.headD 0))).answerTo d (some 3)) := by
  have hout : m.prmtOutcome t (bits y.toNat 1 0) = 3 := by rw [bits_zero_eq]; exact h
  simp only [prmtAt, act_bind, probe_ok hal hme hp, act_getM, ht, h2, ne_eq, not_true_eq_false, if_false, hout, Nat.reduceEqDiff,
    if_true, act_modM, expect_eq]

theorem prmtAt_kill (h : m.prmtOutcome t (y.toNat % 4) = 1) :
    prmtAt d x y m = .ok ((), ((m.answerTo d (some 1)).carryOut t 1 none).pickAll) := by
  have hout : m.prmtOutcome t (bits y.toNat 1 0) = 1 := by rw [bits_zero_eq]; exact h
  simp only [prmtAt, act_bind, probe_ok hal hme hp, act_getM, ht, h2, ne_eq, not_true_eq_false, if_false, hout,
    OfNat.one_ne_ofNat, if_true, act_modM, expect_eq]

theorem prmtAt_checkpoint (h : m.prmtOutcome t (y.toNat % 4) = 2) {m1 : Mach} (h1 : m1 = m.answerTo d none) :
    prmtAt d x y m = .ok ((), (({ m1 with prmts := m1.prmts ++ [{ cont := m1.cur.id, d := d, task := t.seq }] } : Mach).carryOut
      t 2 none).answerPrmt t.seq) := by
  have hout : m.prmtOutcome t (bits y.toNat 1 0) = 2 := by rw [bits_zero_eq]; exact h
  simp only [prmtAt, act_bind, probe_ok hal hme hp, act_getM, ht, h2, ne_eq, not_true_eq_false, if_false, hout, Nat.reduceEqDiff,
    OfNat.ofNat_ne_one, expect_eq, act_modM, ← h1]
end

/-- Settles O35: GTOK, GSTAT and TEAMQ by where their graph or team is found, PRMT by the outcome of its task's policy. -/
theorem graphTeamAndPreemption : Obligations.GraphTeamAndPreemption := by
  unfold Obligations.GraphTeamAndPreemption
  refine ⟨fun s gu d a b hr => ⟨?_, ?_, fun x m1 g ha hg => gstat_away hr ha hg, ?_, fun k t m1 hk ht hd => teamq_team hr hk ht hd,
    fun x m1 m2 ha => ⟨fun r hx hm hd => teamq_rank hr ha hx hm hd, fun hx hd => teamq_none hr ha hx hd⟩⟩, ?_⟩
  · intro x y m1 m2 m3 t ha hb hal ht hg hp hs
    have hhere := guestOf_none ht hg
    refine ⟨?_, fun hidle hy hy16 hid m4 hd => gtok_run hr ha hb hhere (gtokAt_idle hal ht hp hs hidle hy hy16) hid hd,
      fun g hgr hrun hy => gtok_trap hr ha hb hhere (gtokAt_outside hal ht hp hgr hrun hy)⟩
    rintro g n m4 m5 hgr hrun hy hy16 hn rfl hid hd
    exact gtok_run hr ha hb hhere (gtokAt_running hal ht hp hs hgr hrun hy hy16 hn) hid hd
  · intro x y m1 m2 m3 t nd ha hb hal ht hg hp hd
    exact gstat_ok hr ha hb hal ht hg hp hd
  · intro m g x hg hlen
    rw [gstatWord_graph hg, statWord_toNat hlen]
  · intro s gu d a b x y m1 m2 me hr hd haw ha hb hal hme hg hp
    have run : ∀ {m3}, prmtAt d x y m2 = .ok ((), m3) → exec (.prmt gu d a b) s = .next (s.complete m3) :=
      prmt_run hr hd haw ha hb (guestOf_none hme hg)
    refine ⟨fun hno hf => ?_, fun hno hf => ?_, ?_⟩
    · exact run ((prmtAt_absent hal hme hp hno).trans (by rw [hf]; rfl))
    · exact run ((prmtAt_absent hal hme hp hno).trans (by rw [hf]; rfl))
    · rintro t out ht rfl
      exact ⟨fun h => run (prmtAt_idle hal hme hp ht h), fun h2 h => run (prmtAt_excluded hal hme hp ht h2 h),
        fun h2 h => run (prmtAt_drain hal hme hp ht h2 h), fun h2 h => run (prmtAt_kill hal hme hp ht h2 h),
        fun h2 h m3 h3 => run (prmtAt_checkpoint hal hme hp ht h2 h h3)⟩

end Sys2Proof.Machine
end

section
/-! SUPPORT. What reading an operand changes: what it first brings in, and the stream its field names (R65, R86, R123). -/

namespace Sys2Proof.Machine

section
variable {m m' m0 : Mach} {f : GF} {v : Word} {k : ℕ}

/-- What an access brings in changes memory and the matrix state alone. -/
theorem Mach.settleOne_eq (m : Mach) (o : Option (List (ℕ × ℕ))) :
    ∃ x mx, m.settleOne o = { m with mem := x, cur := { m.cur with mx := mx } } := by
  cases o with
  | none => exact m.landDrains_cur
  | some ps => exact ⟨_, m.cur.mx, rfl⟩

theorem Mach.settlesTo.eq (h : m.settlesTo m0) : ∃ x mx, m0 = { m with mem := x, cur := { m.cur with mx := mx } } := by
  obtain ⟨l, rfl⟩ := h
  induction l generalizing m with
  | nil => exact ⟨m.mem, m.cur.mx, rfl⟩
  | cons o l ih =>
    obtain ⟨x, mx, ho⟩ := m.settleOne_eq o
    obtain ⟨x', mx', hl⟩ := ih (m := m.settleOne o)
    refine ⟨x', mx', ?_⟩
    rw [List.foldl_cons, hl, ho]

theorem Mach.settlesTo.refl (m : Mach) : m.settlesTo m := ⟨[], rfl⟩

theorem Mach.settlesTo.trans {m1 m2 : Mach} (h : m.settlesTo m1) (h' : m1.settlesTo m2) : m.settlesTo m2 := by
  obtain ⟨l, rfl⟩ := h
  obtain ⟨l', rfl⟩ := h'
  exact ⟨l ++ l', List.foldl_append.symm⟩

theorem Mach.settlesTo_landDrains (m : Mach) : m.settlesTo (m.landDrains m.cur.id) := ⟨[none], rfl⟩

theorem Mach.settlesTo_landOver (m : Mach) (o n : ℕ) : m.settlesTo (m.landOver o n) := by
  unfold Mach.landOver
  split
  · exact m.settlesTo_landDrains
  · exact .refl m

theorem Mach.settlesTo_observe (m : Mach) (ps : List (ℕ × ℕ)) : m.settlesTo (m.withMem (m.mem.observe m.cur.die ps)) :=
  ⟨[some ps], rfl⟩

/-- A read of virtual memory brings in what its die is to see, and changes nothing else (R100). -/
theorem readV_settles {a : Word} {n : ℕ} {r : List Byte × Option ℕ} (h : readV a n m = .ok (r, m')) : m.settlesTo m' := by
  unfold readV at h
  split at h
  · cases h
  · cases h
  · next ps _ =>
    dsimp only at h
    split at h
    · cases h; exact m.settlesTo_observe ps
    · split at h
      · cases h
      · cases h; exact m.settlesTo_observe ps

/-- R65, R123: a pop brings in what it follows and steps its own stream. -/
theorem popStream_settles (h : popStream k m = .ok (v, m')) : ∃ m0 st pa, m.settlesTo m0 ∧
    m' = m0.withCur { m0.cur with streams := st, past := pa } ∧ ∀ j, j ≠ k → vget st j none = vget m.cur.streams j none := by
  have hkeep : ∀ {m0 : Mach} (x : Option StreamRec) (j : ℕ), m.settlesTo m0 → j ≠ k →
      vget (vset m0.cur.streams k x) j none = vget m.cur.streams j none := fun x j hs hj => by
    obtain ⟨y, mx, rfl⟩ := hs.eq
    exact vget_vset_ne hj
  unfold popStream at h
  cases hr : vget m.cur.streams k none with
  | none => simp only [act_bind, act_getC, hr, act_raise] at h; cases h
  | some r =>
    simp only [act_bind, act_getC, hr] at h
    rw [act_ite, act_raise] at h
    split at h
    · cases h
    · rw [act_ite, act_raise] at h
      split at h
      · cases h
      · cases hvirt : r.virt with
        | true =>
          simp only [hvirt, if_true, act_bind] at h
          cases hread : readV (ofI r.addr) (2 ^ r.lg.toNat) m with
          | error e => rw [hread] at h; cases h
          | ok p =>
            obtain ⟨⟨bytes, mark⟩, m0⟩ := p
            have hs := readV_settles hread
            rw [hread] at h
            cases mark with
            | some g => cases h
            | none => cases h; exact ⟨m0, _, _, hs, rfl, fun j hj => hkeep _ j hs hj⟩
        | false =>
          by_cases hw : m.cur.inWindow r.addr (2 ^ r.lg.toNat) = true
          · simp only [hvirt, Bool.false_eq_true, if_false, act_bind, checkWin_eq, hw, if_true, act_modM, act_getM] at h
            have hs := m.settlesTo_landOver r.addr.toNat (2 ^ r.lg.toNat)
            generalize m.landOver r.addr.toNat (2 ^ r.lg.toNat) = m0 at h hs
            cases hmark : m0.winMark m0.cur r.addr.toNat (2 ^ r.lg.toNat) with
            | some g => rw [hmark] at h; cases h
            | none => rw [hmark] at h; cases h; exact ⟨m0, _, _, hs, rfl, fun j hj => hkeep _ j hs hj⟩
          · simp only [hvirt, Bool.false_eq_true, if_false, act_bind, checkWin_eq, hw] at h
            cases h

/-- R123: reading an operand brings in what it follows, and steps no other stream than the one its field names. -/
theorem readG_settles (h : readG f m = .ok (v, m')) : ∃ m0 st pa, m.settlesTo m0 ∧
    m' = m0.withCur { m0.cur with streams := st, past := pa } ∧
    ∀ j, f.toNat ≠ 24 + j → vget st j none = vget m.cur.streams j none := by
  have hsame : ∀ {x : Word}, (pure x : Act Word) m = .ok (v, m') → ∃ m0 st pa, m.settlesTo m0 ∧
      m' = m0.withCur { m0.cur with streams := st, past := pa } ∧
      ∀ j, f.toNat ≠ 24 + j → vget st j none = vget m.cur.streams j none := by
    rintro x ⟨⟩
    exact ⟨m, m.cur.streams, m.cur.past, .refl m, rfl, fun _ _ => rfl⟩
  unfold readG at h
  by_cases h0 : f = 0
  · rw [if_pos h0] at h; exact hsame h
  · rw [if_neg h0] at h
    by_cases h24 : f.toNat < 24
    · rw [if_pos h24] at h
      simp only [act_bind, act_getC] at h
      rw [act_ite, act_await] at h
      split at h
      · cases h
      · cases hp : vget m.cur.gPoison f.toNat none with
        | some pa => simp only [hp, act_raise] at h; cases h
        | none => simp only [hp] at h; exact hsame h
    · rw [if_neg h24] at h
      obtain ⟨m0, st, pa, hs, hm, hk⟩ := popStream_settles h
      exact ⟨m0, st, pa, hs, hm, fun j hj => hk j (by omega)⟩

/-- R242: reading an operand leaves the mode as it is. -/
theorem readG_sysMode (h : readG f m = .ok (v, m')) : m'.cur.sysMode = m.cur.sysMode := by
  obtain ⟨m0, st, pa, hs, rfl, -⟩ := readG_settles h
  obtain ⟨x, mx, rfl⟩ := hs.eq
  rfl
end

end Sys2Proof.Machine
end

section
/-! PROOFS. SYSRD and SYSWR: the checks of an index, the register it names, and the bits a write keeps (R255 to R257). -/

namespace Sys2Proof.Machine

section
variable {m : Mach} {x : ℕ} {sc : RegScope} {p : Bool} {v : Word}

theorem needSystem_ok (h : m.cur.sysMode = true) : needSystem m = .ok ((), m) := by
  simp only [needSystem, act_bind, act_getC, act_raiseIf, h, Bool.not_true, Bool.false_eq_true, if_false]

theorem needSystem_user (h : m.cur.sysMode = false) : needSystem m = .error (.trap { cause := 0x1005 }) := by
  simp only [needSystem, act_bind, act_getC, act_raiseIf, h, Bool.not_false, if_true]

theorem regCheck_outside (h : regInfo x = none) : regCheck x m = .error (.trap { cause := 0x1001 }) := by
  simp only [regCheck, h, act_raise]

theorem regCheck_user (h : regInfo x = some (sc, true)) (hu : m.cur.sysMode = false) :
    regCheck x m = .error (.trap { cause := 0x1005 }) := by
  simp only [regCheck, h, act_bind, if_true, needSystem_user hu]

theorem regCheck_ok (h : regInfo x = some (sc, p)) (hu : p = true → m.cur.sysMode = true) : regCheck x m = .ok (sc, m) := by
  cases p
  · simp only [regCheck, h, Bool.false_eq_true, if_false]
    rfl
  · simp only [regCheck, h, act_bind, if_true, needSystem_ok (hu rfl), act_pure]

/-- R257: the receiver registrations are registers of die scope that any mode may write. -/
theorem regInfo_rx (h : 0x310 ≤ x) (h' : x ≤ 0x34F) : regInfo x = some (.die, false) := by
  interval_cases x <;> rfl

section
variable (h : regInfo x = some (sc, p)) (hu : p = true → m.cur.sysMode = true)
include h hu

theorem readReg_context (hs : sc = .context) : readReg x m = .ok (m.readCtxReg m.cur x, m) := by
  subst hs
  simp only [readReg, act_bind, regCheck_ok h hu, act_getM, act_pure]

theorem readReg_die (hs : sc = .die) : readReg x m = .ok (m.readDieReg m.cur.die x, m) := by
  subst hs
  simp only [readReg, act_bind, regCheck_ok h hu, act_getM, act_pure]

theorem readReg_module (hs : sc = .module) : readReg x m = .ok (m.readModReg x, m) := by
  subst hs
  simp only [readReg, act_bind, regCheck_ok h hu, act_getM, act_pure]

theorem writeReg_context (hs : sc = .context) : writeReg x v m = .ok ((), m.withCur (m.cur.writeCtxReg x v)) := by
  subst hs
  simp only [writeReg, act_bind, regCheck_ok h hu, act_modC]
  rfl

theorem writeReg_die (hs : sc = .die) (hx : ¬(0x310 ≤ x ∧ x ≤ 0x34F)) :
    writeReg x v m = .ok ((), m.writeDieReg m.cur.die x v) := by
  subst hs
  simp only [writeReg, act_bind, regCheck_ok h hu, if_neg hx, act_modM]

theorem writeReg_module (hs : sc = .module) : writeReg x v m = .ok ((), m.writeModReg x v) := by
  subst hs
  simp only [writeReg, act_bind, regCheck_ok h hu, act_modM]

end

/-- R263: CSA and SQSTAT of the issuer's cluster. -/
theorem readReg_cluster (h : x = 0x400 ∨ x = 0x403) :
    readReg x m = .ok (if x = 0x400 then m.mySeq.csa.setWidth 64 else m.mySeq.stat, m) := by
  rcases h with rfl | rfl
  · have hinfo : regInfo 0x400 = some (.cluster, false) := rfl
    simp only [readReg, act_bind, regCheck_ok hinfo nofun, act_getM, if_true, act_pure]
  · have hinfo : regInfo 0x403 = some (.cluster, false) := rfl
    simp only [readReg, act_bind, regCheck_ok hinfo nofun, act_getM, Nat.reduceEqDiff, if_false, if_true, act_pure]

/-- R257: a registration the member may not make is reported. -/
theorem writeReg_rx_bad (h : 0x310 ≤ x) (h' : x ≤ 0x34F) (hbad : rxOk m.cur v = false) :
    writeReg x v m = .error (.trap { cause := 0x2003 }) := by
  simp only [writeReg, act_bind, regCheck_ok (regInfo_rx h h') nofun, if_pos (And.intro h h'), writeRx, act_getC, act_raiseIf, hbad,
    Bool.not_false, if_true]

/-- R256, R367, R369: what a write of a register of context scope leaves there. -/
theorem readCtxReg_written (c : Cont) (m : Mach) (v : Word) : m.readCtxReg (c.writeCtxReg 0x008 v) 0x008 = v ∧
    (m.readCtxReg (c.writeCtxReg 0x00A v) 0x00A).toNat = v.toNat &&& 0x17F ∧
    (m.readCtxReg (c.writeCtxReg 0x00B v) 0x00B).toNat = v.toNat % 2 ^ 32 := by
  refine ⟨rfl, ?_, ?_⟩
  · show ((BitVec.ofNat 9 (v.toNat &&& 0x17F)).setWidth 64).toNat = _
    have hle : v.toNat &&& 0x17F ≤ 0x17F := Nat.and_le_right
    rw [BitVec.toNat_setWidth, BitVec.toNat_ofNat]
    omega
  · show ((v.setWidth 32).setWidth 64).toNat = _
    rw [BitVec.toNat_setWidth, BitVec.toNat_setWidth]
    omega

/-- R256: WHO, CTXID and MODE are read-only. -/
theorem writeCtxReg_readOnly (c : Cont) (v : Word) : c.writeCtxReg 0x001 v = c ∧ c.writeCtxReg 0x002 v = c ∧ c.writeCtxReg 0x003 v = c :=
  ⟨rfl, rfl, rfl⟩
end

section
variable {s : State} {gu : Guard} {d : GF} {x : BitVec 12} {v : Word} {m1 m2 : Mach} {t : Trap} {sc : RegScope} {p : Bool}
variable (hr : s.Ready gu .k)
include hr

theorem sysrd_ok (h : readReg x.toNat s.m = .ok (v, s.m)) (hd : writeG d v s.m = .ok ((), m1)) :
    exec (.sysrd gu d x) s = .next (s.complete m1) := by
  refine runSlot_ok (u := ()) hr ?_
  simp only [act_bind, h, hd]

/-- An index that may not be used is reported before any operand is read. -/
theorem sys_trap (h : regCheck x.toNat s.m = .error (.trap t)) :
    exec (.sysrd gu d x) s = .next (s.takeTrap t (s.m.cur.slotNow .k) (toW (encode (.sysrd gu d x)))) ∧
    exec (.syswr gu d x) s = .next (s.takeTrap t (s.m.cur.slotNow .k) (toW (encode (.syswr gu d x)))) := by
  refine ⟨runSlot_trap hr ?_, runSlot_trap hr ?_⟩
  · simp only [act_bind, readReg, h]
  · simp only [act_bind, h]

section
variable (h : regInfo x.toNat = some (sc, p)) (hu : p = true → s.m.cur.sysMode = true) (hv : readG d s.m = .ok (v, m1))
  (hsc : sc ≠ .cluster)
include h hu hv hsc

theorem syswr_ok (hw : writeReg x.toNat v m1 = .ok ((), m2)) : exec (.syswr gu d x) s = .next (s.complete m2) := by
  refine runSlot_ok (u := ()) hr ?_
  simp only [act_bind, regCheck_ok h hu, hv, if_neg hsc, hw]

theorem syswr_trap (hw : writeReg x.toNat v m1 = .error (.trap t)) :
    exec (.syswr gu d x) s = .next (s.takeTrap t (s.m.cur.slotNow .k) (toW (encode (.syswr gu d x)))) := by
  refine runSlot_trap hr ?_
  simp only [act_bind, regCheck_ok h hu, hv, if_neg hsc, hw]
end
end

/-- Settles O36: by the scope of the register an index names. -/
theorem systemRegisters : Obligations.SystemRegisters := by
  unfold Obligations.SystemRegisters
  intro s gu d x hr
  refine ⟨fun h => sys_trap hr (regCheck_outside h), fun sc h hu => sys_trap hr (regCheck_user h hu), fun sc p m1 h hu => ?_,
    fun sc p v m1 h hu hv => ?_, fun c m v => ⟨(readCtxReg_written c m v).1, (readCtxReg_written c m v).2.1, (readCtxReg_written c m v).2.2,
      writeCtxReg_readOnly c v⟩⟩
  · exact ⟨fun hs hd => sysrd_ok hr (readReg_context h hu hs) hd, fun hs hd => sysrd_ok hr (readReg_die h hu hs) hd,
      fun hs hd => sysrd_ok hr (readReg_module h hu hs) hd, fun hx hd => sysrd_ok hr (readReg_cluster hx) hd⟩
  · have hu1 : p = true → m1.cur.sysMode = true := fun hp => (readG_sysMode hv).trans (hu hp)
    refine ⟨fun hs => ?_, fun hs hx => ?_, fun hs => ?_, fun hlo hhi hbad => ?_⟩
    · exact syswr_ok hr h hu hv (by rw [hs]; decide) (writeReg_context h hu1 hs)
    · exact syswr_ok hr h hu hv (by rw [hs]; decide) (writeReg_die h hu1 hs hx)
    · exact syswr_ok hr h hu hv (by rw [hs]; decide) (writeReg_module h hu1 hs)
    · have hdie := regInfo_rx hlo hhi
      exact syswr_trap hr hdie nofun hv (by decide) (writeReg_rx_bad hlo hhi hbad)

end Sys2Proof.Machine
end

section
/-! PROOFS. ERET, TLBDRN, TLBCNF, LEASEG and CINV, in system mode alone (R258 to R261). -/

namespace Sys2Proof.Machine

section
variable {s : State} {gu : Guard} {d a b : GF} {n : BitVec 3} {e : Bool} {k : BitVec 2} {x y : Word} {m m1 m2 m3 : Mach}

section
variable (hr : s.Ready gu .k)
include hr

/-- R258 to R261: in user mode each is reported. -/
theorem privileged_user (hu : s.m.cur.sysMode = false) {i : Instr}
    (hi : i ∈ [Instr.eret gu n, .tlbdrn gu d a b e, .tlbcnf gu, .leaseg gu d a b, .cinv gu a b k]) :
    exec i s = .next (s.takeTrap { cause := 0x1005 } (s.m.cur.slotNow .k) (toW (encode i))) := by
  simp only [List.mem_cons, List.not_mem_nil, or_false] at hi
  rcases hi with rfl | rfl | rfl | rfl | rfl <;>
  · refine runSlot_trap hr ?_
    simp only [act_bind, needSystem_user hu]

variable (hs : s.m.cur.sysMode = true)
include hs

/-- R258: ERET. -/
theorem eret_ok {t : BitVec 48} (ht : t = vget s.m.cur.b n.toNat 0) (hal : t.toNat % 4 = 0) {c : Cont}
    (hc : c = { s.m.cur with sysMode := s.m.cur.tsave, tcause := 0, fslot := 0 }) :
    exec (.eret gu n) s = .next (s.complete ((s.m.withCur (c.jump t)).putRecord c)) := by
  subst hc
  refine runSlot_ok (u := ()) hr ?_
  simp only [act_bind, needSystem_ok hs, act_getC, ← ht, act_raiseIf, hal, ne_eq, not_true_eq_false, decide_false, Bool.false_eq_true,
    if_false]
  rfl

section
variable (ha : readG a s.m = .ok (x, m1)) (hb : readG b m1 = .ok (y, m2)) (hg : m2.guestOf m2.cur = none)
include ha hb

/-- R259: TLBDRN of the issuer's own context. -/
theorem tlbdrn_ok (hg : m2.guestOf m2.cur = none) (hx : x.toNat % 65536 = 0) (hy : y.toNat % 65536 = 0) (h0 : y ≠ 0)
    (hle : y.toNat ≤ 2 ^ 55) : exec (.tlbdrn gu d a b false) s = .next (s.complete (m2.drainRange m2.cur.ctx x y)) := by
  have hok : ¬(x.toNat % 65536 ≠ 0 ∨ y.toNat % 65536 ≠ 0 ∨ y = 0 ∨ 2 ^ 55 < y.toNat ∨ (false = true ∧ m2.regs.ctxcnt.toNat ≤ m2.cur.ctx.toNat)) := by
    rintro (h | h | h | h | ⟨h, -⟩)
    · exact h hx
    · exact h hy
    · exact h0 h
    · exact absurd hle (not_le.mpr h)
    · cases h
  refine runSlot_ok (u := ()) hr ?_
  simp only [act_bind, needSystem_ok hs, Bool.false_eq_true, if_false, act_pure, ha, hb, act_getM, act_raiseIf]
  rw [if_neg (by simpa using hok)]
  simp only [atOrigin_here hg, act_bind, act_modM, act_pure]

theorem tlbdrn_bad (h : x.toNat % 65536 ≠ 0 ∨ y.toNat % 65536 ≠ 0 ∨ y = 0 ∨ 2 ^ 55 < y.toNat) :
    exec (.tlbdrn gu d a b false) s = .next
      (s.takeTrap { cause := 0x2003 } (s.m.cur.slotNow .k) (toW (encode (.tlbdrn gu d a b false)))) := by
  refine runSlot_trap hr ?_
  simp only [act_bind, needSystem_ok hs, Bool.false_eq_true, if_false, act_pure, ha, hb, act_getM, act_raiseIf]
  rw [if_pos (by simp only [decide_eq_true_eq]; tauto)]

/-- R260: LEASEG answers at once here. -/
theorem leaseg_ok (hg : m2.guestOf m2.cur = none) (hd : writeG d (m2.leaseWord x y) m2 = .ok ((), m3)) :
    exec (.leaseg gu d a b) s = .next (s.complete m3) := by
  refine runSlot_ok (u := ()) hr ?_
  simp only [act_bind, needSystem_ok hs, ha, hb, atOrigin_here hg, act_getM, act_pure, writeOrExpect_some, hd]

/-- R261: CINV discards the instruction lines of its range, where its kind names them. -/
theorem cinv_ok (hx : x.toNat % 64 = 0) (hy : y.toNat % 64 = 0) (hle : y.toNat ≤ 2 ^ 40) (h3 : m3 = m2.performed m2.cur.id) :
    exec (.cinv gu a b k) s = .next (s.complete (if k = 0 ∨ k = 3 then { m3 with
      mem := m3.mem.spread m3.cur.die
      icache := m3.icache.filter fun l => !(l.ctx == m3.cur.ctx && overlaps l.va.toNat l.bytes.length x.toNat y.toNat) } else m3)) := by
  subst h3
  have hok : ¬(x.toNat % 64 ≠ 0 ∨ y.toNat % 64 ≠ 0 ∨ 2 ^ 40 < y.toNat) := by omega
  refine runSlot_ok (u := ()) hr ?_
  simp only [act_bind, needSystem_ok hs, ha, hb, act_raiseIf, hok, decide_false, Bool.false_eq_true, if_false, act_performEarlier,
    act_modM]
end

/-- R259: TLBCNF here: with drains of its own it waits in TLBCNF until they are over. -/
theorem tlbcnf_run (hg : s.m.guestOf s.m.cur = none) (h1 : m1 = s.m.performed s.m.cur.id) : exec (.tlbcnf gu) s =
    .next (s.complete (if m1.drains.any (fun d => d.cont == m1.cur.id) then
      (m1.withCur { m1.cur with inTlbcnf := true }).settleTlb else m1)) := by
  have hg1 : m1.guestOf m1.cur = none := by
    obtain ⟨mem, fl, fe, k, ft, vp, mx, hp⟩ := s.m.performed_lands
    rw [h1, hp]
    exact hg
  refine runSlot_ok (u := ()) hr ?_
  simp only [act_bind, needSystem_ok hs, act_performEarlier, act_getM, ← h1, hg1, Option.isSome_none, Bool.false_eq_true, if_false,
    act_modM]
  rfl
end

/-- R73, R259: a drain that begins joins the others; the tx registers of the context are looked at, and nothing else changes. -/
theorem drainRange_frame (m : Mach) (ctx : BitVec 12) (x y : Word) :
    (m.drainRange ctx x y).drains = m.drains ++ [{ cont := m.cur.id, ctx := ctx, base := x, len := y.toNat }] ∧
    (m.drainRange ctx x y).mem = m.mem ∧ (m.drainRange ctx x y).cur.g = m.cur.g := by
  refine ⟨rfl, rfl, ?_⟩
  show (if m.cur.ctx = ctx then { m.cur with tx := m.cur.tx.map fun t => t.drained x.toNat y.toNat } else m.cur).g = m.cur.g
  split <;> rfl

/-! ### LEASEG's word (R260) -/

theorem leaseWord_outside (h : canonical x = false ∨ 4096 ≤ y.toNat ∨ m.regs.ctxcnt.toNat ≤ y.toNat) : m.leaseWord x y = 0 := by
  unfold Mach.leaseWord
  refine if_pos ?_
  rcases h with h | h
  · exact .inl (by rw [h]; rfl)
  · exact .inr h

theorem min?_eq_foldl (l : List ℕ) : (match l with
    | [] => 0
    | q :: r => r.foldl min q) = l.min?.getD 0 := by
  cases l <;> rfl

/-- R260: whether a lease stands on the page, whether a TLBCNF waits there, how many leases, and the first task's number. -/
theorem leaseWord_inside {ctx : BitVec 12} {p : ℕ × ℕ} {l : List ℕ} {held : Bool} (hx : canonical x = true) (hy : y.toNat < 4096)
    (hcnt : y.toNat < m.regs.ctxcnt.toNat) (hctx : ctx = BitVec.ofNat 12 y.toNat) (hp : p = m.pageOf ctx x)
    (hl : l = ((m.tasks.filter fun t => t.leased && t.ctx == ctx && t.guest.isNone).flatMap fun t =>
      (t.fp.filter fun r => overlaps r.base.toNat r.len p.1 p.2).map fun _ => t.seq))
    (hheld : held = true ↔ ∃ k ∈ m.drains, k.ctx = ctx ∧ overlaps k.base.toNat k.len p.1 p.2 = true ∧
      ∃ c, m.cont? k.cont = some c ∧ c.inTlbcnf = true) :
    m.leaseWord x y = toW ((if l = [] then 0 else 2 ^ 63) + (if held then 2 ^ 62 else 0) + min l.length 65535 * 2 ^ 32 +
      l.min?.getD 0 % 2 ^ 32) := by
  have hctx' : y.setWidth 12 = ctx := by rw [hctx]; rfl
  have hok : ¬((!canonical x) = true ∨ 4096 ≤ y.toNat ∨ m.regs.ctxcnt.toNat ≤ y.toNat) := by
    rw [hx]
    simp [hy, hcnt]
  obtain ⟨ts, hts⟩ : ∃ ts, ts = (m.tasks.filter fun t => t.leased && t.ctx == ctx && t.guest.isNone).flatMap fun t =>
    (t.fp.filter fun r => overlaps r.base.toNat r.len p.1 p.2).map fun _ => t := ⟨_, rfl⟩
  have hmap : ts.map Task.seq = l := by
    rw [hts, hl, List.map_flatMap]
    simp only [List.map_map, Function.comp_def]
  have hempty : oneBit (!ts.isEmpty) 63 = if l = [] then 0 else 2 ^ 63 := by
    rw [← hmap]
    cases ts <;> rfl
  have hlen : ts.length = l.length := by rw [← hmap, List.length_map]
  have hany : (m.drains.any fun k => k.ctx == ctx && overlaps k.base.toNat k.len p.1 p.2 &&
      ((m.cont? k.cont).map Cont.inTlbcnf) == some true) = held := by
    rw [Bool.eq_iff_iff, hheld, List.any_eq_true]
    simp only [Bool.and_eq_true, beq_iff_eq, Option.map_eq_some_iff, and_assoc]
  unfold Mach.leaseWord
  rw [if_neg hok, hctx']
  simp only [← hp, ← hts, hempty, hlen, hmap, hany]
  rw [← min?_eq_foldl]
  rfl

/-! ### TLBCNF (R259) -/

theorem foldl_settleTlb_others (l : List Cont) (m : Mach) (h : ∀ c ∈ l, c.inTlbcnf = false) :
    l.foldl (fun (m : Mach) c =>
      if c.id ≠ 0 ∧ c.inTlbcnf ∧ !(m.drains.any fun d => d.cont == c.id && m.leasedRange d.ctx d.base.toNat d.len) then
        m.finishDrains c.id else m) m = m := by
  induction l with
  | nil => rfl
  | cons c l ih =>
    have hc : ¬(c.id ≠ 0 ∧ c.inTlbcnf = true ∧
        (!(m.drains.any fun d => d.cont == c.id && m.leasedRange d.ctx d.base.toNat d.len)) = true) := by
      rw [h c (List.mem_cons_self ..)]
      simp
    rw [List.foldl_cons, if_neg hc, ih fun c' hc' => h c' (List.mem_cons_of_mem _ hc')]

/-- R259: with no other continuation in TLBCNF, the issuer's drains are over exactly where no lease is left on them. -/
theorem settleTlb_alone (h2 : m2 = m1.withCur { m1.cur with inTlbcnf := true }) (hid : m1.cur.id ≠ 0)
    (hothers : ∀ c ∈ m1.conts, c.inTlbcnf = false) : m2.settleTlb =
      if m1.drains.any fun d => d.cont == m1.cur.id && m1.leasedRange d.ctx d.base.toNat d.len then m2
      else m2.finishDrains m1.cur.id := by
  subst h2
  unfold Mach.settleTlb Mach.allConts
  rw [List.foldl_cons]
  refine (foldl_settleTlb_others _ _ hothers).trans ?_
  show (if m1.cur.id ≠ 0 ∧ true = true ∧
    (!(m1.drains.any fun d => d.cont == m1.cur.id && m1.leasedRange d.ctx d.base.toNat d.len)) = true then _ else _) = _
  cases m1.drains.any fun d => d.cont == m1.cur.id && m1.leasedRange d.ctx d.base.toNat d.len
  · exact if_pos ⟨hid, rfl, rfl⟩
  · exact if_neg (by simp)
end

/-- Settles O37: each instruction's privilege, checks and effect. -/
theorem privilegedControl : Obligations.PrivilegedControl := by
  unfold Obligations.PrivilegedControl
  intro s gu d a b n e k hr
  refine ⟨fun hu i hi => privileged_user hr hu hi, fun hs t c ht hal hc => eret_ok hr hs ht hal hc,
    fun hs x y m1 m2 ha hb hg => ⟨fun hx hy h0 hle => ?_, tlbdrn_bad hr hs ha hb, fun m3 h hd => ?_, ?_, fun hx hy hle m3 h3 => ?_⟩,
    fun hs hg m1 h1 => ⟨fun hno => ?_, fun m2 h2 hmine hid hothers => ⟨fun hl => ?_, fun hl => ?_⟩⟩⟩
  · exact ⟨_, tlbdrn_ok hr hs ha hb hg hx hy h0 hle, drainRange_frame m2 m2.cur.ctx x y⟩
  · exact leaseg_ok hr hs ha hb hg (by rw [leaseWord_outside h]; exact hd)
  · intro ctx p l held m3 hx hy hcnt hctx hp hl hheld hd
    exact leaseg_ok hr hs ha hb hg (by rw [leaseWord_inside hx hy hcnt hctx hp hl hheld]; exact hd)
  · exact cinv_ok hr hs ha hb hx hy hle h3
  · have hany : (m1.drains.any fun d => d.cont == m1.cur.id) = false :=
      List.any_eq_false.mpr fun q hq => by simpa using hno q hq
    rw [tlbcnf_run hr hs hg h1, hany]
    rfl
  all_goals
    have hany : (m1.drains.any fun d => d.cont == m1.cur.id) = true := by
      obtain ⟨q, hq, hc⟩ := hmine
      exact List.any_eq_true.mpr ⟨q, hq, by simpa using hc⟩
    rw [tlbcnf_run hr hs hg h1, if_pos hany, ← h2, settleTlb_alone h2 hid hothers]
  · obtain ⟨q, hq, hc, hlr⟩ := hl
    rw [if_pos (List.any_eq_true.mpr ⟨q, hq, by simp [hc, hlr]⟩)]
  · have hnone : (m1.drains.any fun d => d.cont == m1.cur.id && m1.leasedRange d.ctx d.base.toNat d.len) = false := by
      refine List.any_eq_false.mpr fun q hq => ?_
      by_cases hc : q.cont = m1.cur.id
      · simp [hl q hq hc]
      · simp [hc]
    rw [hnone]
    rfl

end Sys2Proof.Machine
end

section
/-! SUPPORT. A micro-operation's run: where it is found, how it is changed, and what becomes of the machine (R266, R272). -/

namespace Sys2Proof.Machine

section
variable {α : Type} {d : α} {m : SMap α} {k : ℕ} {v w : α}

theorem SMap.erase_erase_same : SMap.erase k (SMap.erase k m) = SMap.erase k m := by
  rw [SMap.erase_eq_filter, List.filter_eq_self]
  exact fun p hp => by simpa using SMap.erase_absent hp

theorem SMap.erase_insert_same : SMap.erase k (SMap.insert k v m) = SMap.erase k m := by
  induction m with
  | nil => simp [SMap.insert, SMap.erase]
  | cons p r ih =>
    obtain ⟨j, x⟩ := p
    by_cases h : k < j
    · simp [SMap.insert, SMap.erase, h]
    · by_cases hj : j = k
      · simp [SMap.insert, SMap.erase, hj, ih]
      · simp [SMap.insert, SMap.erase, h, hj, ih]

/-- A second write at a key is the one that counts. -/
theorem SMap.set_set_same [DecidableEq α] : SMap.set d (SMap.set d m k v) k w = SMap.set d m k w := by
  have herase : SMap.erase k (SMap.set d m k v) = SMap.erase k m := by
    unfold SMap.set
    split
    · exact SMap.erase_erase_same
    · rw [SMap.erase_insert_same, SMap.erase_erase_same]
  unfold SMap.set at herase ⊢
  rw [herase]
end

section
variable {m m' : Mach} {r q : Run} {c : Cont} {k : ℕ} {x y : Seq}

theorem Mach.setSeq_setSeq : (m.setSeq k x).setSeq k y = m.setSeq k y := by
  unfold Mach.setSeq
  simp only [SMap.set_set_same]

theorem Mach.seq_setSeq : (m.setSeq k x).seq k = x := SMap.get_set_same

/-- The machine's sequencer that moves is at the run `r` (R266). -/
def Mach.atRun (m : Mach) (r : Run) : Prop := (m.seq m.seqSel).run = some r

theorem Mach.atRun_withRun (m : Mach) (r : Run) : (m.withRun r).atRun r := by
  show ((m.setSeq m.seqSel _).seq m.seqSel).run = some r
  rw [Mach.seq_setSeq]

theorem Mach.withRun_withRun : (m.withRun r).withRun q = m.withRun q := by
  show (m.setSeq m.seqSel { m.seq m.seqSel with run := some r }).setSeq m.seqSel
    { (m.setSeq m.seqSel { m.seq m.seqSel with run := some r }).seq m.seqSel with run := some q } = _
  rw [Mach.seq_setSeq, Mach.setSeq_setSeq]
  rfl

section
variable (h : m.atRun r)
include h

theorem runOf_ok : runOf m = .ok (r, m) := by
  have hrun : (m.seq m.seqSel).run = some r := h
  simp only [runOf, act_bind, act_getM, hrun, act_pure]

theorem hGet_ok (n : H) : hGet n m = .ok (r.hv n, m) := by
  simp only [hGet, act_bind, runOf_ok h, act_pure]

theorem runCont_ok (hc : m.cont? r.cont = some c) : runCont m = .ok (c, m) := by
  simp only [runCont, act_bind, runOf_ok h, act_getM, hc, act_pure]

theorem setRun_ok (f : Run → Run) : setRun f m = .ok ((), m.withRun (f r)) := by
  have hrun : (m.seq m.seqSel).run = some r := h
  simp only [setRun, act_modM, Mach.modRun, hrun, Option.map_some]
  rfl

theorem jumpIf_ok (b : Bool) (t : BitVec 10) : jumpIf b t m = .ok ((), if b then m.withRun (r.at t.toNat) else m) := by
  cases b
  · rfl
  · exact setRun_ok h _
end
end

section
variable {s : State} {r : Run} {c : Cont} {m m' : Mach} {a : Act Unit} {t : Trap}

theorem State.micro.atRun (h : s.micro r c m) : m.atRun r := h.2.2 ▸ s.m.atRun_withRun r

theorem State.micro.cont (h : s.micro r c m) : m.cont? r.cont = some c := by
  obtain ⟨-, hc, rfl⟩ := h
  exact hc

theorem State.micro.seqSel (h : s.micro r c m) : m.seqSel = s.m.seqSel := by
  obtain ⟨-, -, rfl⟩ := h
  rfl

/-- R266: a micro-operation runs on the machine whose run stands at the next word. -/
theorem State.micro.start (h : s.micro r c m) : s.m.modRun s.m.seqSel (fun r => { r with pcw := (r.pcw + 1) % 1024 }) = m := by
  obtain ⟨⟨r0, hr0, rfl⟩, -, rfl⟩ := h
  simp only [Mach.modRun, hr0, Option.map_some]
  rfl

theorem runMicro_ok (h : s.micro r c m) (ha : a m = .ok ((), m')) : runMicro a s = .next (s.after m') := by
  simp only [runMicro, h.start, ha]
  rfl

theorem runMicro_trap (h : s.micro r c m) (ha : a m = .error (.trap t)) : runMicro a s = .next (s.after (s.m.seqFails s.m.seqSel t)) := by
  simp only [runMicro, h.start, ha]
  rfl

theorem runMicro_wait (h : s.micro r c m) (ha : a m = .error .wait) : runMicro a s = .next s := by
  simp only [runMicro, h.start, ha]
end

end Sys2Proof.Machine
end

section
/-! PROOFS. Micro-operations on h registers, jumps, loops and generators (R266, R267). -/

namespace Sys2Proof.Machine

section
variable {s : State} {r : Run} {c : Cont} {m : Mach} (h : s.micro r c m)

/-- R266: h0 reads as zero; another register reads as what was written. -/
theorem Run.hv_putH (r : Run) (n : H) (v : Word) : r.putH 0 v = r ∧ r.hv 0 = 0 ∧ (n ≠ 0 → (r.putH n v).hv n = v) := by
  refine ⟨if_pos rfl, if_pos rfl, fun hn => ?_⟩
  rw [Run.putH, if_neg hn, Run.hv, if_neg hn]
  exact vget_vset_same n.isLt

include h

/-- R267: what a micro-operation that changes its run alone leaves. -/
theorem setRun_micro {a : Act Unit} {q : Run} (ha : a m = .ok ((), m.withRun q)) : runMicro a s = .next (s.after (s.m.withRun q)) := by
  rw [runMicro_ok h ha, h.2.2, Mach.withRun_withRun]

theorem hset_ok (d : H) (k : BitVec 48) :
    exec (.hset d k) s = .next (s.after (s.m.withRun (r.putH d (BitVec.ofInt 64 k.toInt)))) :=
  setRun_micro h (setRun_ok h.atRun _)

theorem hadd_ok (d a b : H) (k : W32) : exec (.hadd d a b k) s = .next (s.after (s.m.withRun (r.putH d
    (BitVec.ofInt 64 ((r.hv a).toNat + (r.hv b).toNat + k.toInt))))) := by
  have hsum : r.hv a + r.hv b + k.signExtend 64 = BitVec.ofInt 64 ((r.hv a).toNat + (r.hv b).toNat + k.toInt) := by
    rw [BitVec.ofInt_add, BitVec.ofInt_add, BitVec.ofInt_natCast, BitVec.ofInt_natCast, BitVec.ofNat_toNat, BitVec.ofNat_toNat,
      BitVec.setWidth_eq, BitVec.setWidth_eq]
    rfl
  rw [← hsum]
  refine setRun_micro h ?_
  simp only [act_bind, hGet_ok h.atRun, setRun_ok h.atRun]

theorem hjmp_ok (k : BitVec 2) (a : H) (t : BitVec 10) {go : Bool}
    (hgo : go = if k = 0 then true else if k = 1 then decide (r.hv a = 0) else if k = 2 then decide (r.hv a ≠ 0)
      else decide ((r.hv a).toInt < 0)) :
    exec (.hjmp k a t) s = .next (s.after (s.m.withRun (if go then r.at t.toNat else r))) := by
  have hcond : (k == 0 || (k == 1 && r.hv a == 0) || (k == 2 && r.hv a != 0) || (k == 3 && (r.hv a).getLsbD 63)) = go := by
    have hneg : (r.hv a).getLsbD 63 = decide ((r.hv a).toInt < 0) := by
      rw [← BitVec.msb_eq_toInt]; rfl
    have hk : k = 0 ∨ k = 1 ∨ k = 2 ∨ k = 3 := by
      have := k.isLt
      obtain h | h | h | h : k.toNat = 0 ∨ k.toNat = 1 ∨ k.toNat = 2 ∨ k.toNat = 3 := by omega
      · exact .inl (BitVec.eq_of_toNat_eq h)
      · exact .inr (.inl (BitVec.eq_of_toNat_eq h))
      · exact .inr (.inr (.inl (BitVec.eq_of_toNat_eq h)))
      · exact .inr (.inr (.inr (BitVec.eq_of_toNat_eq h)))
    rw [hgo, hneg]
    rcases hk with rfl | rfl | rfl | rfl <;> simp [beq_eq_decide, bne]
  have hrun : (hGet a >>= fun x => jumpIf (k == 0 || (k == 1 && x == 0) || (k == 2 && x != 0) || (k == 3 && x.getLsbD 63)) t) m =
      .ok ((), if go then m.withRun (r.at t.toNat) else m) := by
    simp only [act_bind, hGet_ok h.atRun, hcond, jumpIf_ok h.atRun]
  refine (runMicro_ok h hrun).trans ?_
  rw [h.2.2, Mach.withRun_withRun]
  cases go <;> rfl

theorem hloop_ok (a : H) (t : BitVec 10) {q : Run} (hq : q = r.putH a (r.hv a - 1)) :
    exec (.hloop a t) s = .next (s.after (s.m.withRun (if q.hv a = 0 then q else q.at t.toNat))) := by
  subst hq
  have hat := m.atRun_withRun (r.putH a (r.hv a - 1))
  refine (runMicro_ok h (m' := if (r.putH a (r.hv a - 1)).hv a != 0 then
    (m.withRun (r.putH a (r.hv a - 1))).withRun ((r.putH a (r.hv a - 1)).at t.toNat) else m.withRun (r.putH a (r.hv a - 1))) ?_).trans ?_
  · simp only [act_bind, hGet_ok h.atRun, setRun_ok h.atRun, hGet_ok hat, jumpIf_ok hat]
  · rw [h.2.2, Mach.withRun_withRun, Mach.withRun_withRun]
    by_cases h0 : (r.putH a (r.hv a - 1)).hv a = 0
    · rw [if_neg (by rw [h0]; decide), if_pos h0, Mach.withRun_withRun]
    · rw [if_pos (bne_iff_ne.mpr h0), if_neg h0]

section
variable {n : BitVec 3} {a : H} (hslot : m.slotHeld c.die (bits (r.hv a).toNat 39 32) = false)
include hslot

theorem agld_ok {g : Ag} (hg : m.bindAg c.die (r.hv a) = .ok g) :
    exec (.agld n a) s = .next (s.after (s.m.withRun { r with ag := vset r.ag n.toNat g })) := by
  refine setRun_micro h ?_
  simp only [act_bind, hGet_ok h.atRun, runCont_ok h.atRun h.cont, act_getM, act_awaitIf, hslot, Bool.false_eq_true, if_false, hg,
    setRun_ok h.atRun]

theorem agld_bad {t : Trap} (hg : m.bindAg c.die (r.hv a) = .error t) :
    exec (.agld n a) s = .next (s.after (s.m.seqFails s.m.seqSel t)) := by
  refine runMicro_trap h ?_
  simp only [act_bind, hGet_ok h.atRun, runCont_ok h.atRun h.cont, act_getM, act_awaitIf, hslot, Bool.false_eq_true, if_false, hg,
    act_raiseT]
end
end

/-- Settles O38: each micro-operation by what it makes of its run. -/
theorem sequencerControl : Obligations.SequencerControl := by
  unfold Obligations.SequencerControl
  intro s r c m h
  exact ⟨hset_ok h, hadd_ok h, fun k a t go hgo => hjmp_ok h k a t hgo, fun a t q hq => hloop_ok h a t hq,
    fun n a g hs hg => agld_ok h hs hg, fun n a t hs hg => agld_bad h hs hg, fun n v => r.hv_putH n v⟩

end Sys2Proof.Machine
end

section
/-! SUPPORT. A run's window, rings and free values (R61, R63, R119). -/

namespace Sys2Proof.Machine

section
variable {m : Mach} {c c' : Cont} {k o n : ℕ} {r : Run} {l : List Byte} {p : Bool}

/-- Replacing the elements with a key leaves the new one to be found under it. -/
theorem find?_replace {α : Type} {key : α → ℕ} {u v : α} {l : List α} (h : l.find? (fun x => key x == k) = some u) (hv : key v = k) :
    (l.map fun x => if key x == k then v else x).find? (fun x => key x == k) = some v := by
  induction l with
  | nil => cases h
  | cons x l ih =>
    rw [List.find?_cons] at h
    rw [List.map_cons, List.find?_cons]
    cases hx : (key x == k) with
    | true => simp [hv]
    | false =>
      rw [hx] at h
      simpa [hx] using ih h

theorem Mach.cont?_id (h : m.cont? k = some c) : c.id = k := by
  unfold Mach.cont? at h
  split at h
  · next hid => cases h; simpa using hid
  · have := List.find?_some h
    simpa using this

/-- A continuation that has been replaced is found in its new form. -/
theorem Mach.cont?_setCont (h : m.cont? k = some c) (hid : c'.id = k) : (m.setCont c').cont? k = some c' := by
  unfold Mach.cont? at h
  unfold Mach.setCont
  by_cases hk : m.cur.id = k
  · rw [if_pos (by simp [hk, hid])]
    unfold Mach.cont?
    rw [if_pos (by simp [hid])]
  · rw [if_neg (by simpa using hk)] at h
    rw [if_neg (by simpa [hid] using hk)]
    unfold Mach.cont?
    rw [if_neg (by simpa using hk)]
    have := find?_replace (key := Cont.id) h hid
    rw [← hid] at this ⊢
    exact this

/-- A write of a window, wherever the member's bytes stand, changes no sequencer and no wait for an attention read. -/
theorem Mach.winWrite_frame (m : Mach) (c : Cont) (o : ℕ) (l : List Byte) (p : Bool) :
    (m.winWrite c o l p).seqs = m.seqs ∧ (m.winWrite c o l p).seqSel = m.seqSel ∧ (m.winWrite c o l p).reads = m.reads := by
  have hset : ∀ (x : Mach) (d : Cont), (x.setCont d).seqs = x.seqs ∧ (x.setCont d).seqSel = x.seqSel ∧ (x.setCont d).reads = x.reads :=
    fun x d => ⟨x.setCont_seqs d, x.setCont_seqSel d, x.setCont_reads d⟩
  have hsend : ∀ (x : Mach) (a b : ℕ) (y : Pkt), (x.sendTo a b y).seqs = x.seqs ∧ (x.sendTo a b y).seqSel = x.seqSel ∧
      (x.sendTo a b y).reads = x.reads := fun x a b y => by
    unfold Mach.sendTo
    split <;> exact ⟨rfl, rfl, rfl⟩
  unfold Mach.winWrite Mach.winWriteBy
  split
  · exact ⟨rfl, rfl, rfl⟩
  · dsimp only
    split
    · rw [(hset _ _).1, (hset _ _).2.1, (hset _ _).2.2]
      split
      · rw [(hsend _ _ _ _).1, (hsend _ _ _ _).2.1, (hsend _ _ _ _).2.2]
        exact ⟨rfl, rfl, rfl⟩
      · exact ⟨rfl, rfl, rfl⟩
    · rw [(hset _ _).1, (hset _ _).2.1, (hset _ _).2.2]
      split
      · rw [(hsend _ _ _ _).1, (hsend _ _ _ _).2.1, (hsend _ _ _ _).2.2]
        exact ⟨rfl, rfl, rfl⟩
      · exact ⟨rfl, rfl, rfl⟩

theorem Mach.cont?_sendTo (m : Mach) (a b : ℕ) (y : Pkt) : (m.sendTo a b y).cont? k = m.cont? k := by
  unfold Mach.sendTo
  split <;> rfl

/-- The member whose window is written keeps its matrix state. -/
theorem Mach.winWrite_cont (h : m.cont? k = some c) : ∃ c', (m.winWrite c o l p).cont? k = some c' ∧ c'.mx = c.mx := by
  have hid := Mach.cont?_id h
  unfold Mach.winWrite Mach.winWriteBy
  split
  · exact ⟨c, h, rfl⟩
  · dsimp only
    split
    all_goals
      refine ⟨_, Mach.cont?_setCont (c := c) ?_ hid, rfl⟩
      split
      · rw [Mach.cont?_sendTo]; exact h
      · exact h

/-! ### Reads and writes of a run's window -/

section
variable (h : m.atRun r) (hc : m.cont? r.cont = some c)
include h hc

theorem runWrite_ok (hw : c.inWindow o l.length = true) : runWrite o l p m = .ok ((), m.winWrite c o l p) := by
  simp only [runWrite, act_bind, runCont_ok h hc, act_raiseIf, hw, Bool.not_true, Bool.false_eq_true, if_false, act_modM]

theorem runRead_ok (hw : c.inWindow o n = true) : runRead o n m = .ok ((m.winRead c o n, (m.winMark c o n).isSome), m) := by
  simp only [runRead, act_bind, runCont_ok h hc, act_raiseIf, hw, Bool.not_true, Bool.false_eq_true, if_false, act_getM, act_pure]

/-- R63: the tail tile of a ring that can take it. -/
theorem tailTile_ok {q bytes tile place : ℕ} (ht : c.tailTileAt q bytes tile place) : tailTile q bytes m = .ok ((tile, place), m) := by
  obtain ⟨hsize, hvalid, hocc, rfl, rfl⟩ := ht
  simp only [tailTile, act_bind, runCont_ok h hc, act_raiseIf, hvalid, Nat.not_lt.mpr hsize, decide_false,
    Bool.not_true, Bool.false_eq_true, if_false, act_pure]
  rw [if_neg (by simpa using hocc)]

/-- R63: the row count is written, then the tail advances. -/
theorem pushTile_ok {q rows place : ℕ} (hw : c.inWindow place 1 = true) :
    ∃ m', pushTile q rows place m = .ok ((), m') ∧ m'.mem = (m.tilePushed c q rows place).mem ∧
      (∃ c', m'.cont? r.cont = some c' ∧ c'.mx.rings = vset c.mx.rings q (ringPush (vget c.mx.rings q 0) 1)) ∧
      m'.seqs = m.seqs ∧ m'.seqSel = m.seqSel ∧ m'.reads = m.reads ∧
      (c.resident = true → m' = m.tilePushed c q rows place) := by
  obtain ⟨hseqs, hsel, hreads⟩ := m.winWrite_frame c place [BitVec.ofNat 8 rows] false
  obtain ⟨c', hc', hmx⟩ := Mach.winWrite_cont (o := place) (l := [BitVec.ofNat 8 rows]) (p := false) hc
  have hrun : ((m.winWrite c place [BitVec.ofNat 8 rows] false).seq (m.winWrite c place [BitVec.ofNat 8 rows] false).seqSel).run = some r := by
    unfold Mach.seq
    rw [hseqs, hsel]
    exact h
  refine ⟨(m.winWrite c place [BitVec.ofNat 8 rows] false).setCont
    { c' with mx := { c'.mx with rings := vset c'.mx.rings q (ringPush (vget c'.mx.rings q 0) 1) } }, ?_, ?_, ?_, ?_, ?_, ?_, fun hres => ?_⟩
  · simp only [pushTile, act_bind, runWrite_ok h hc (l := [BitVec.ofNat 8 rows]) hw, act_modM, hrun, Option.bind_some, hc']
  · rw [Mach.tilePushed, Mach.setCont_mem, Mach.setCont_mem]
  · exact ⟨_, Mach.cont?_setCont hc' (show c'.id = r.cont from Mach.cont?_id hc'), by rw [hmx]⟩
  · rw [Mach.setCont_seqs, hseqs]
  · rw [Mach.setCont_seqSel, hsel]
  · rw [Mach.setCont_reads, hreads]
  · have hsame : c' = c := by
      rw [Mach.winWrite_resident hres] at hc'
      exact Option.some.inj (hc'.symm.trans hc)
    rw [hsame]
    rfl

/-- R269: a command waits for earlier ones on its accumulator. -/
theorem awaitAcc_ok {acc : ℕ} (hk : ∀ x ∈ c.mx.array, x.acc ≠ acc) : awaitAcc acc m = .ok ((), m) := by
  have hany : (c.mx.array.any fun x => x.acc == acc) = false := List.any_eq_false.mpr fun x hx => by simpa using hk x hx
  simp only [awaitAcc, act_bind, runCont_ok h hc, act_awaitIf, hany, Bool.false_eq_true, if_false]

theorem awaitAcc_waits {acc : ℕ} (hk : ∃ x ∈ c.mx.array, x.acc = acc) : awaitAcc acc m = .error .wait := by
  have hany : (c.mx.array.any fun x => x.acc == acc) = true := by
    obtain ⟨x, hx, ha⟩ := hk
    exact List.any_eq_true.mpr ⟨x, hx, by simpa using ha⟩
  simp only [awaitAcc, act_bind, runCont_ok h hc, act_awaitIf, hany, if_true]
end

theorem Mach.landDrains_frame (m : Mach) (k : ℕ) : (m.landDrains k).seqs = m.seqs ∧ (m.landDrains k).seqSel = m.seqSel := by
  unfold Mach.landDrains
  split
  · exact ⟨rfl, rfl⟩
  · exact ⟨Mach.setCont_seqs _ _, Mach.setCont_seqSel _ _⟩

theorem Mach.landDrains_atRun (k : ℕ) (h : m.atRun r) : (m.landDrains k).atRun r := by
  unfold Mach.atRun Mach.seq
  rw [(m.landDrains_frame k).1, (m.landDrains_frame k).2]
  exact h

/-- R119: what a Dusk-mode operation of a run draws. -/
theorem runDusk_eq (r : Run) (m : Mach) : runDusk r m = .ok (m.draw (r.fmt.getLsbD 25) 40, m.drawn (r.fmt.getLsbD 25)) := by
  have hbit : fmtDusk r.fmt = r.fmt.getLsbD 25 := rfl
  unfold runDusk Mach.draw Mach.drawn
  rw [hbit]
  cases r.fmt.getLsbD 25 <;> rfl

theorem Mach.drawn_atRun {on : Bool} (h : m.atRun r) : (m.drawn on).atRun r := by
  cases on <;> exact h

theorem Mach.drawn_cont {on : Bool} (hc : m.cont? k = some c) : (m.drawn on).cont? k = some c := by
  cases on <;> exact hc
end

end Sys2Proof.Machine
end

section
/-! PROOFS. KVRD and MXI (R268, R269). -/

namespace Sys2Proof.Machine

section
variable {s : State} {r : Run} {c : Cont} {m : Mach} (h : s.micro r c m)
include h

/-! ### KVRD (R268) -/

section
variable {kv adv : Bool} {n : BitVec 3} {q : Q} {bo : BitVec 16} {bl : Byte} {cnt : BitVec 7} {ag : Ag} {x : KvRange} {tile place : ℕ} {t : Task}
variable (hag : ag = vget r.ag n.toNat {}) (hslot : m.slotHeld c.die (bits ag.w1.toNat 39 32) = false)
include hag hslot

theorem kvrd_fails {k : Trap} (hx : m.kvRange c.die ag kv bo.toNat bl.toNat cnt.toNat = .error k) :
    exec (.kvrd kv n q bo bl adv cnt) s = .next (s.after (s.m.seqFails s.m.seqSel k)) := by
  subst hag
  refine runMicro_trap h ?_
  simp only [act_bind, runOf_ok h.atRun, runCont_ok h.atRun h.cont, act_getM, act_awaitIf, hslot, Bool.false_eq_true, if_false, hx, act_raiseT]

variable (hx : m.kvRange c.die ag kv bo.toNat bl.toNat cnt.toNat = .ok x)
  (ht : c.tailTileAt q.toNat (cnt.toNat * bl.toNat * 64) tile place) (htask : m.task? c.task = some t)
include hx ht htask

theorem kvrd_waits {m2 : Mach} (hp : kvPresent c.die t x (rangeFrom x.first cnt.toNat) m = .ok (false, m2)) :
    exec (.kvrd kv n q bo bl adv cnt) s = .next s := by
  subst hag
  refine runMicro_wait h ?_
  simp only [act_bind, runOf_ok h.atRun, runCont_ok h.atRun h.cont, act_getM, act_awaitIf, hslot, Bool.false_eq_true, if_false, hx,
    act_pure, tailTile_ok h.atRun h.cont ht, htask, hp, Bool.not_false, if_true]

/-- R268: with every position present, KVRD fills the tile and, with adv, advances its generator. -/
theorem kvrd_fills {m2 m3 : Mach} {c3 : Cont} (hp : kvPresent c.die t x (rangeFrom x.first cnt.toNat) m = .ok (true, m2))
    (hcopy : kvCopy c.die t x kv bo.toNat bl.toNat tile ((rangeFrom x.first cnt.toNat).zip (List.range cnt.toNat)) m2 = .ok ((), m3))
    (hrun : m3.atRun r) (hc3 : m3.cont? r.cont = some c3) (hplace : c3.inWindow place 1 = true) (hrings : c3.mx.rings = c.mx.rings) :
    ∃ m4, exec (.kvrd kv n q bo bl adv cnt) s = .next (s.after m4) ∧ m4.mem = (m3.tilePushed c3 q.toNat cnt.toNat place).mem ∧
      (∀ c4, m4.cont? r.cont = some c4 → vget c4.mx.rings q.toNat 0 = ringPush (vget c.mx.rings q.toNat 0) 1) ∧
      m4.reads = m3.reads.filter (fun y => y.who ≠ .seq m3.seqSel) ∧
      ∃ r4, (m4.seq m4.seqSel).run = some r4 ∧ r4.h = r.h ∧
        r4.ag = if adv then vset r.ag n.toNat { ag with w1 := toW (putBits ag.w1.toNat 31 0 (x.first + cnt.toNat)) } else r.ag := by
  subst hag
  obtain ⟨m', hpush, hmem, ⟨c', hc', hr'⟩, hseqs, hsel, hreads, -⟩ :=
    pushTile_ok hrun hc3 (q := q.toNat) (rows := cnt.toNat) hplace
  obtain ⟨m5, hm5⟩ : ∃ m5 : Mach, m5 = { m' with reads := m'.reads.filter fun y => y.who ≠ .seq m'.seqSel } := ⟨_, rfl⟩
  have hat : m5.atRun r := by
    rw [hm5]
    unfold Mach.atRun Mach.seq
    rw [hseqs, hsel]
    exact hrun
  have hring : ∀ c4, m5.cont? r.cont = some c4 → vget c4.mx.rings q.toNat 0 = ringPush (vget c.mx.rings q.toNat 0) 1 := by
    intro c4 hc4
    rw [hm5] at hc4
    have hsame : c4 = c' := Option.some.inj (hc4.symm.trans hc')
    rw [hsame, hr', hrings]
    exact vget_vset_same q.isLt
  have hreads5 : m5.reads = m3.reads.filter (fun y => y.who ≠ .seq m3.seqSel) := by rw [hm5, hreads, hsel]
  have hmem5 : m5.mem = (m3.tilePushed c3 q.toNat cnt.toNat place).mem := by rw [hm5]; exact hmem
  refine ⟨if adv then m5.withRun { r with ag := vset r.ag n.toNat { vget r.ag n.toNat {} with
    w1 := toW (putBits (vget r.ag n.toNat {}).w1.toNat 31 0 (x.first + cnt.toNat)) } } else m5, runMicro_ok h ?_, ?_⟩
  · simp only [act_bind, runOf_ok h.atRun, runCont_ok h.atRun h.cont, act_getM, act_awaitIf, hslot, Bool.false_eq_true, if_false, hx,
      act_pure, tailTile_ok h.atRun h.cont ht, htask, hp, Bool.not_true, hcopy, hpush, act_modM, ← hm5]
    cases adv
    · rfl
    · exact setRun_ok hat _
  · cases adv
    · exact ⟨hmem5, hring, hreads5, r, hat, rfl, rfl⟩
    · exact ⟨hmem5, hring, hreads5, _, m5.atRun_withRun _, rfl, rfl⟩
end

/-! ### MXI (R269) -/

section
variable {op : BitVec 7} {mx : BitVec 53} {i : Instr} {high : ℕ}

theorem mxi_illegal (hi : mxiInstr op.toNat mx.toNat = none) :
    exec (.mxi op mx) s = .next (s.after (s.m.seqFails s.m.seqSel { cause := 0x1001 })) := by
  refine runMicro_trap h ?_
  simp only [act_bind, runOf_ok h.atRun, hi, act_raise]

variable (hi : mxiInstr op.toNat mx.toNat = some (i, high))
include hi

theorem mxi_waits (hk : ∃ k ∈ c.mx.array, k.acc = accOfInstr i) : exec (.mxi op mx) s = .next s := by
  refine runMicro_wait h ?_
  simp only [act_bind, runOf_ok h.atRun, hi, awaitAcc_waits h.atRun h.cont hk]

variable (hk : ∀ k ∈ c.mx.array, k.acc ≠ accOfInstr i) (hready : c.mReady i = true) {m0 m2 : Mach} {c2 : Cont}
  (h0 : m0 = m.drawn (r.fmt.getLsbD 25)) (h2 : m2 = m0.landDrains c.id) (hc2 : m2.cont? r.cont = some c2)
include hk hready h0 h2 hc2

theorem mxi_enters {e : Entered} (he : enterInstr i m2 c2 r.fmt (m.draw (r.fmt.getLsbD 25) 40) high = .ok e) :
    exec (.mxi op mx) s = .next (s.after (m2.place c2.id e
      (e.cmd m2.nextCmd (BitVec.ofNat 64 (op.toNat * 2 ^ 57 + mx.toNat)) r.fmt (.seq s.m.seqSel) c2.pc))) := by
  have hat0 : m0.atRun r := h0 ▸ Mach.drawn_atRun h.atRun
  have hc0 : m0.cont? r.cont = some c := h0 ▸ Mach.drawn_cont h.cont
  have hat2 : m2.atRun r := h2 ▸ Mach.landDrains_atRun c.id hat0
  have hsel : m2.seqSel = s.m.seqSel := by
    rw [h2, (m0.landDrains_frame c.id).2, h0, ← h.seqSel]
    cases r.fmt.getLsbD 25 <;> rfl
  refine runMicro_ok h ?_
  simp only [act_bind, runOf_ok h.atRun, hi, awaitAcc_ok h.atRun h.cont hk, runDusk_eq, ← h0, runCont_ok hat0 hc0, act_awaitIf, hready,
    Bool.not_true, Bool.false_eq_true, if_false, act_modM, ← h2, runCont_ok hat2 hc2, act_getM, he, hsel]

theorem mxi_fails {t : Trap} (he : enterInstr i m2 c2 r.fmt (m.draw (r.fmt.getLsbD 25) 40) high = .error (.trap t)) :
    exec (.mxi op mx) s = .next (s.after (s.m.seqFails s.m.seqSel t)) := by
  have hat0 : m0.atRun r := h0 ▸ Mach.drawn_atRun h.atRun
  have hc0 : m0.cont? r.cont = some c := h0 ▸ Mach.drawn_cont h.cont
  have hat2 : m2.atRun r := h2 ▸ Mach.landDrains_atRun c.id hat0
  refine runMicro_trap h ?_
  simp only [act_bind, runOf_ok h.atRun, hi, awaitAcc_ok h.atRun h.cont hk, runDusk_eq, ← h0, runCont_ok hat0 hc0, act_awaitIf, hready,
    Bool.not_true, Bool.false_eq_true, if_false, act_modM, ← h2, runCont_ok hat2 hc2, act_getM, he]
end
end

/-- Settles O39: KVRD by what it finds of its range, MXI by its word and its accumulator. -/
theorem sequencerReadAndMatrix : Obligations.SequencerReadAndMatrix := by
  unfold Obligations.SequencerReadAndMatrix
  refine ⟨?_, fun s r c m op mx h => ⟨mxi_illegal h, fun i high hi => ⟨mxi_waits h hi, ?_⟩, rfl⟩⟩
  · rintro s r c m kv n q bo bl adv cnt ag i h rfl hag hslot
    refine ⟨fun t hx => kvrd_fails h hag hslot hx, fun x tile place t hx ht htask => ⟨fun m2 hp => kvrd_waits h hag hslot hx ht htask hp, ?_⟩⟩
    exact fun m2 m3 c3 hp hcopy hrun hc3 hplace hrings => kvrd_fills h hag hslot hx ht htask hp hcopy hrun hc3 hplace hrings
  · intro hk hready m0 m2 c2 h0 h2 hc2
    exact ⟨fun e he => mxi_enters h hi hk hready h0 h2 hc2 he, fun t he => mxi_fails h hi hk hready h0 h2 hc2 he⟩

end Sys2Proof.Machine
end

section
/-! SUPPORT. Rows of a run's window and of an accumulator: what the loops of SMAX, MCMB and ROPE write (R267, R270, R271, R273). -/

namespace Sys2Proof.Machine

section
variable {m : Mach} {r : Run} {c c' : Cont} {o n i z : ℕ} {l : List Byte} {p : Bool}

/-- The run and its continuation stand as they are. -/
def Mach.runsFor (m : Mach) (r : Run) (c : Cont) : Prop := m.atRun r ∧ m.cont? r.cont = some c

theorem State.micro.runsFor {s : State} (h : s.micro r c m) : m.runsFor r c := ⟨h.atRun, h.cont⟩

theorem Mach.runsFor.drawn {on : Bool} (h : m.runsFor r c) : (m.drawn on).runsFor r c :=
  ⟨Mach.drawn_atRun h.1, Mach.drawn_cont h.2⟩

/-- A write of a resident member's window changes memory alone. -/
theorem Mach.runsFor.winWrite (h : m.runsFor r c) (hres : c'.resident = true) : (m.winWrite c' o l p).runsFor r c := by
  rw [Mach.winWrite_resident hres]
  exact h

/-- A step that succeeds goes on with the rest. -/
theorem act_bind_ok {α β : Type} {x : Act α} {f : α → Act β} {a : α} {m' : Mach} (h : x m = .ok (a, m')) : (x >>= f) m = f a m' := by
  rw [act_bind, h]

/-- A loop of actions that each succeed leaves what the loop of their results does. -/
theorem foldlM_act {I : Mach → Prop} {f : Unit → ℕ → Act Unit} {wr : Mach → ℕ → Mach} (l : List ℕ)
    (hstep : ∀ x i, i ∈ l → I x → f () i x = .ok ((), wr x i) ∧ I (wr x i)) (h : I m) :
    l.foldlM f () m = .ok ((), l.foldl wr m) ∧ I (l.foldl wr m) := by
  induction l generalizing m with
  | nil => exact ⟨rfl, h⟩
  | cons i l ih =>
    obtain ⟨hf, hI⟩ := hstep m i (List.mem_cons_self ..) h
    obtain ⟨hl, hIl⟩ := ih (fun x j hj => hstep x j (List.mem_cons_of_mem i hj)) hI
    refine ⟨?_, hIl⟩
    rw [List.foldlM_cons, act_bind, hf]
    exact hl

/-- Writes that go through memory alone are the writes of that memory. -/
theorem foldl_withMem {wr : Mach → ℕ → Mach} {w : Mem → ℕ → Mem} (hw : ∀ x i, wr x i = x.withMem (w x.mem i)) (l : List ℕ) :
    l.foldl wr m = m.withMem (l.foldl w m.mem) := by
  induction l generalizing m with
  | nil => rfl
  | cons i l ih =>
    rw [List.foldl_cons, ih, hw, List.foldl_cons]
    rfl

/-- A row of a range of the window lies in it. -/
theorem inWindow_row (h : c.inWindow o (z * n) = true) (hi : i < n) : c.inWindow (o + z * i : ℕ) z = true := by
  rw [Cont.inWindow, decide_eq_true_eq] at h ⊢
  have hrow : z * i + z ≤ z * n := by
    rw [← Nat.mul_succ]
    exact Nat.mul_le_mul_left z hi
  omega

theorem inWindow_of_le {k : ℕ} (h : c.inWindow o n = true) (hk : k ≤ n) : c.inWindow o k = true := by
  rw [Cont.inWindow, decide_eq_true_eq] at h ⊢
  omega

theorem length_flatten_leBytes {α : Type} (f : α → ℕ) (l : List α) : (l.map fun x => leBytes z (f x)).flatten.length = l.length * z := by
  rw [List.length_flatten, List.map_map]
  induction l with
  | nil => simp
  | cons x l ih =>
    rw [List.map_cons, List.sum_cons, ih, List.length_cons, Nat.succ_mul, Nat.add_comm]
    simp

theorem length_softmaxStep (dusk : Option ℕ) (m0 l0 : ℕ) (scores : List Num) : (softmaxStep dusk m0 l0 scores).p.length = scores.length := by
  unfold softmaxStep
  rw [List.length_map]
  split
  · exact List.length_map ..
  · rw [List.length_map, List.length_zipIdx]

theorem length_ropeAll (va vd : ℕ) (dusk : Option ℕ) (half : Bool) (xs freqs : List ℕ) (pos : ℕ) :
    (ropeAll va vd dusk half xs freqs pos).length = xs.length := by
  unfold ropeAll
  rw [List.length_map, List.length_range]

/-! ### Accumulators -/

section
variable {acc : ℕ} {f : ℕ → ℕ → ℕ → ℕ} {marks : ℕ → Bool} {k : AccState}

/-- An accumulator with the rows below its mark changed (R267). -/
def AccState.mapped (k : AccState) (f : ℕ → ℕ → ℕ → ℕ) (marks : ℕ → Bool) : AccState := { k with
  elems := accOf fun key =>
    if key / 64 < k.mark.toNat then BitVec.ofNat 32 (f (key / 64) (key % 64) (k.at (key / 64) (key % 64)).toNat) else k.at (key / 64) (key % 64)
  poison := (List.range k.mark.toNat).foldl (fun (x : BitVec 64) i => if marks i then x ||| ((1 : BitVec 64) <<< i) else x) k.poison }

theorem AccState.mapped_mark (k : AccState) : (k.mapped f marks).mark = k.mark := by
  unfold AccState.mapped
  dsimp only

theorem AccState.mapped_at {x y : ℕ} (hx : x < 64) (hy : y < 64) : (k.mapped f marks).at x y =
    if x < k.mark.toNat then BitVec.ofNat 32 (f x y (k.at x y).toNat) else k.at x y := by
  have hdiv : (64 * x + y) / 64 = x := by omega
  have hmod : (64 * x + y) % 64 = y := by omega
  unfold AccState.mapped AccState.at
  dsimp only
  rw [accOf_get _ (by omega), hdiv, hmod]

/-- A continuation with an accumulator changed. -/
def Cont.setAcc (c : Cont) (acc : ℕ) (k : AccState) : Cont := { c with mx := { c.mx with acc := vset c.mx.acc acc k } }

theorem mapAcc_ok (h : m.runsFor r c) (hk : k = vget c.mx.acc acc {}) :
    mapAcc acc f marks m = .ok ((), m.setCont (c.setAcc acc (k.mapped f marks))) := by
  subst hk
  simp only [mapAcc, act_bind, runCont_ok h.1 h.2, act_modM]
  rfl

theorem Mach.runsFor.setCont (h : m.runsFor r c) (hid : c'.id = c.id) : (m.setCont c').runsFor r c' := by
  refine ⟨?_, Mach.cont?_setCont h.2 (hid.trans (Mach.cont?_id h.2))⟩
  unfold Mach.atRun Mach.seq
  rw [Mach.setCont_seqs, Mach.setCont_seqSel]
  exact h.1

theorem accRows_ok (h : m.runsFor r c) : accRows acc m = .ok ((vget c.mx.acc acc {}).mark.toNat, m) := by
  simp only [accRows, act_bind, runCont_ok h.1 h.2, act_pure]

/-- What the statement asks of an accumulator whose rows below the mark were changed: those rows, the others, the other
accumulators, the mark. -/
theorem setAcc_done {n : ℕ} (hacc : acc < 4) (hn : n = k.mark.toNat) (hn64 : n ≤ 64)
    {g : ℕ → ℕ → Word → ℕ} (hg : ∀ x y, f x y (k.at x y).toNat = g x y (toW (k.at x y).toNat)) :
    (∀ x y, x < n → y < 64 → ((vget (c.setAcc acc (k.mapped f marks)).mx.acc acc {}).at x y).toNat =
      g x y (toW (k.at x y).toNat) % 2 ^ 32) ∧
    (∀ x y, n ≤ x → x < 64 → y < 64 → (vget (c.setAcc acc (k.mapped f marks)).mx.acc acc {}).at x y = k.at x y) ∧
    (∀ z, z < 4 → z ≠ acc → vget (c.setAcc acc (k.mapped f marks)).mx.acc z {} = vget c.mx.acc z {}) ∧
    (vget (c.setAcc acc (k.mapped f marks)).mx.acc acc {}).mark = k.mark := by
  have hget : vget (c.setAcc acc (k.mapped f marks)).mx.acc acc {} = k.mapped f marks := vget_vset_same hacc
  rw [hget]
  refine ⟨fun x y hx hy => ?_, fun x y hx hx64 hy => ?_, fun z _ hz => vget_vset_ne hz, k.mapped_mark⟩
  · rw [AccState.mapped_at (by omega) hy, if_pos (hn ▸ hx), BitVec.toNat_ofNat, hg]
  · rw [AccState.mapped_at hx64 hy, if_neg (by omega)]
end
end

end Sys2Proof.Machine
end

section
/-! PROOFS. SMAX (R117, R270). -/

namespace Sys2Proof.Machine

section
variable {s : State} {r : Run} {c : Cont} {m : Mach} {q : Q} {a b w : H} {mk : Bool} {cnt : BitVec 7} (h : s.micro r c m)
include h

/-- R270: with no scores delivered, SMAX waits. -/
theorem smax_waits (hs : r.scores = none) : exec (.smax q a b w mk cnt) s = .next s := by
  refine runMicro_wait h ?_
  simp only [act_bind, runOf_ok h.atRun, hs, act_await]

/-- The score of a row and a column of the delivered tile (R270). -/
def smaxAt (r : Run) (b w : H) (mk : Bool) (cnt : BitVec 7) (xs : List ℕ) (i j : ℕ) : Num :=
  smaxScore (xs.getD (64 * i + j) 0) ((r.hv b).toNat % 2 ^ 32) (decide (cnt.toNat ≤ j) || (mk && !decide (
    0 ≤ (((r.hv w).toNat % 2 ^ 24 + i : ℕ) : ℤ) - (((r.hv w).toNat / 2 ^ 24 % 2 ^ 24 + j : ℕ) : ℤ) ∧
    (((r.hv w).toNat % 2 ^ 24 + i : ℕ) : ℤ) - (((r.hv w).toNat / 2 ^ 24 % 2 ^ 24 + j : ℕ) : ℤ) ≤ (((r.hv w).toNat / 2 ^ 48 : ℕ) : ℤ))))

/-- What SMAX writes for a row: its record, then its row of the tile (R270). -/
def smaxRow (off tile za ma : ℕ) (marks : BitVec 64) (mark : Bool) (step : ℕ → Softmax) (i : ℕ) : Act Unit := do
  runWrite (off + 16 * i) (leBytes 4 (step i).m ++ leBytes 4 (step i).l ++ leBytes 4 (step i).c ++ leBytes 4 0) (marks.getLsbD i)
  runWrite (tile + i * 64 * za) ((step i).p.map fun p => leBytes za (roundTo ma false (readNum 0 p)).pat).flatten (marks.getLsbD i || mark)

theorem smax_ok {xs : List ℕ} {rows : ℕ} {marks : BitVec 64} {ma za off tile place : ℕ} {step : ℕ → Softmax} {wr : Mach → ℕ → Mach}
    (hres : c.resident = true) (hs : r.scores = some (xs, rows, true, marks)) (hma : ma = r.fmt.toNat % 16)
    (hfmt : ma = 1 ∨ ma = 2 ∨ ma = 3 ∨ ma = 4 ∨ ma = 5 ∨ ma = 10) (hza : za = elemBytes ma) (hoff : off = (r.hv a).toNat % 2 ^ 23)
    (hal : off % 16 = 0) (hrec : c.inWindow off (16 * rows) = true) (ht : c.tailTileAt q.toNat (rows * 64 * za) tile place)
    (htile : c.inWindow tile (rows * 64 * za) = true) (hplace : c.inWindow place 1 = true)
    (hstep : step = fun i => softmaxStep ((m.draw (r.fmt.getLsbD 25) 40).map (· + i * 2 ^ 24)) (leAt (m.winRead c off (16 * rows)) (16 * i) 4)
      (leAt (m.winRead c off (16 * rows)) (16 * i + 4) 4) ((List.range 64).map (smaxAt r b w mk cnt xs i)))
    (hwr : wr = fun (x : Mach) i => ((x.winWrite c (off + 16 * i) (leBytes 4 (step i).m ++ leBytes 4 (step i).l ++ leBytes 4 (step i).c ++ leBytes 4 0)
      (marks.getLsbD i)).winWrite c (tile + i * 64 * za) ((step i).p.map fun p => leBytes za (roundTo ma false (readNum 0 p)).pat).flatten
      (marks.getLsbD i || (m.winMark c off (16 * rows)).isSome))) :
    exec (.smax q a b w mk cnt) s = .next (s.after ((((List.range rows).foldl wr (m.drawn (r.fmt.getLsbD 25))).tilePushed c q.toNat rows place).withRun
      { r with scores := none })) := by
  have hma' : fmtMa r.fmt = ma := (bits_zero_eq ..).trans hma.symm
  have hoff' : bits (r.hv a).toNat 22 0 = off := (bits_zero_eq ..).trans hoff.symm
  have hscale : bits (r.hv b).toNat 31 0 = (r.hv b).toNat % 2 ^ 32 := bits_zero_eq ..
  have hqp : bits (r.hv w).toNat 23 0 = (r.hv w).toNat % 2 ^ 24 := bits_zero_eq ..
  have hkp : bits (r.hv w).toNat 47 24 = (r.hv w).toNat / 2 ^ 24 % 2 ^ 24 := bits_eq ..
  have hwin : bits (r.hv w).toNat 63 48 = (r.hv w).toNat / 2 ^ 48 := by
    rw [bits_eq]
    have := (r.hv w).isLt
    omega
  have hok : (ma == 1 || ma == 2 || isFp8 ma || ma == 5 || ma == 10) = true := by
    rcases hfmt with rfl | rfl | rfl | rfl | rfl | rfl <;> rfl
  have hrow : ∀ x i, i ∈ List.range rows → x.runsFor r c →
      smaxRow off tile za ma marks (m.winMark c off (16 * rows)).isSome step i x = .ok ((), wr x i) ∧
        (wr x i).runsFor r c := by
    intro x i hi hI
    have hi' := List.mem_range.mp hi
    have hlen : (step i).p.length = 64 := by rw [hstep, length_softmaxStep, List.length_map, List.length_range]
    have hw1 : c.inWindow (off + 16 * i : ℕ) (leBytes 4 (step i).m ++ leBytes 4 (step i).l ++ leBytes 4 (step i).c ++ leBytes 4 0).length = true := by
      simp only [List.length_append, length_leBytes]
      exact inWindow_row hrec hi'
    have hw2 : c.inWindow (tile + i * 64 * za : ℕ) ((step i).p.map fun p => leBytes za (roundTo ma false (readNum 0 p)).pat).flatten.length = true := by
      rw [length_flatten_leBytes, hlen]
      have htile' : c.inWindow tile (64 * za * rows) = true := by
        rwa [show 64 * za * rows = rows * 64 * za by ring]
      rw [show tile + i * 64 * za = tile + 64 * za * i by ring]
      exact inWindow_row htile' hi'
    have h1 : (x.winWrite c (off + 16 * i) (leBytes 4 (step i).m ++ leBytes 4 (step i).l ++ leBytes 4 (step i).c ++ leBytes 4 0)
      (marks.getLsbD i)).runsFor r c := hI.winWrite hres
    rw [hwr]
    exact ⟨(act_bind_ok (runWrite_ok hI.1 hI.2 hw1)).trans (runWrite_ok h1.1 h1.2 hw2), h1.winWrite hres⟩
  obtain ⟨hloop, hI⟩ := foldlM_act (I := fun x => x.runsFor r c) (wr := wr)
    (f := fun _ i => smaxRow off tile za ma marks (m.winMark c off (16 * rows)).isSome step i) (List.range rows) hrow (h.runsFor.drawn (on := r.fmt.getLsbD 25))
  obtain ⟨m', hpush, -, -, hseqs, hsel, -, hres'⟩ := pushTile_ok hI.1 hI.2 (q := q.toNat) (rows := rows) hplace
  have hat : m'.atRun r := by
    unfold Mach.atRun Mach.seq
    rw [hseqs, hsel]
    exact hI.1
  refine runMicro_ok h ?_
  simp only [act_bind, runOf_ok h.atRun, hs, act_raiseIf, Bool.not_true, Bool.false_eq_true, if_false, hma', hok, hoff', hal, ne_eq,
    not_true_eq_false, decide_false, runRead_ok h.atRun h.cont hrec, ← hza, tailTile_ok h.atRun h.cont ht, runDusk_eq, hscale, hqp, hkp, hwin]
  simp only [smaxRow, hstep] at hloop
  unfold smaxAt at hloop
  rw [hloop]
  simp only [hpush]
  rw [← hres' hres]
  exact setRun_ok hat _
end

end Sys2Proof.Machine
end

section
/-! PROOFS. RESC, NORM, MCMB and ROPE (R267, R271, R273). -/

namespace Sys2Proof.Machine

section
variable {s : State} {r : Run} {c : Cont} {m : Mach} {acc : Acc} {a b d : H} {k : AccState} {n o : ℕ} {own : List Byte}

/-- What the statement says of a micro-operation that changes the rows of an accumulator below its mark. -/
def RowsDone (s : State) (r : Run) (c : Cont) (acc : Acc) (k : AccState) (n : ℕ) (i : Instr) (f : ℕ → ℕ → Word → ℕ) (mem : Mem) : Prop :=
  ∃ m2 c2, exec i s = .next (s.after m2) ∧ m2.cont? r.cont = some c2 ∧ m2.mem = mem ∧
    (∀ x y, x < n → y < 64 → ((vget c2.mx.acc acc.toNat {}).at x y).toNat = f x y (toW (k.at x y).toNat) % 2 ^ 32) ∧
    (∀ x y, n ≤ x → x < 64 → y < 64 → (vget c2.mx.acc acc.toNat {}).at x y = k.at x y) ∧
    (∀ z, z < 4 → z ≠ acc.toNat → vget c2.mx.acc z {} = vget c.mx.acc z {}) ∧ (vget c2.mx.acc acc.toNat {}).mark = k.mark

theorem toW_acc (v : W32) : (toW v.toNat).toNat = v.toNat := by
  rw [toW, BitVec.toNat_ofNat]
  exact Nat.mod_eq_of_lt (v.isLt.trans (by decide))

variable (h : s.micro r c m) (hk : k = vget c.mx.acc acc.toNat {}) (hn : n = k.mark.toNat) (hn64 : n ≤ 64)
include h hk hn hn64

/-- R267: an operation on each row below the mark. -/
theorem mapRows_done {i : Instr} {f : ℕ → ℕ → ℕ → ℕ} {marks : ℕ → Bool} {body : Act Unit}
    (hexec : exec i s = runMicro body s) (hbody : body m = mapAcc acc.toNat f marks m) :
    RowsDone s r c acc k n i (fun x y v => f x y v.toNat) m.mem := by
  obtain ⟨hbelow, habove, hothers, hmark⟩ := setAcc_done (c := c) (k := k) (f := f) (marks := marks) acc.isLt hn hn64
    (g := fun x y v => f x y v.toNat) fun x y => by rw [toW_acc]
  have hset := h.runsFor.setCont (c' := c.setAcc acc.toNat (k.mapped f marks)) rfl
  exact ⟨_, _, hexec.trans (runMicro_ok h (hbody.trans (mapAcc_ok h.runsFor hk))), hset.2, Mach.setCont_mem .., hbelow, habove, hothers, hmark⟩

variable (ho : o = (r.hv a).toNat % 2 ^ 23) (hfree : ∀ x ∈ c.mx.array, x.acc ≠ acc.toNat) (hin : c.inWindow o (16 * n) = true)
  (hown : own = m.winRead c o (16 * n))
include ho hfree hin hown

theorem resc_done : RowsDone s r c acc k n (.resc acc a)
    (fun x _ v => (roundTo 0 false ((readNum 0 v.toNat).mul (readNum 0 (leAt own (16 * x + 8) 4))).1).pat) m.mem := by
  have ho' : bits (r.hv a).toNat 22 0 = o := (bits_zero_eq ..).trans ho.symm
  have hrows : (vget c.mx.acc acc.toNat {}).mark.toNat = n := by rw [hn, hk]
  refine mapRows_done (i := .resc acc a) (f := fun x _ v => (roundTo 0 false ((readNum 0 v).mul (readNum 0 (leAt own (16 * x + 8) 4))).1).pat)
    (marks := fun _ => (m.winMark c o (16 * n)).isSome) h hk hn hn64 rfl ?_
  simp only [act_bind, awaitAcc_ok h.atRun h.cont hfree, hGet_ok h.atRun, accRows_ok h.runsFor, hrows, ho', runRead_ok h.atRun h.cont hin, ← hown]

theorem norm_done : RowsDone s r c acc k n (.norm acc a)
    (fun x _ v => if (readNum 0 (leAt own (16 * x + 4) 4)).isZero then 0
      else (roundTo 0 false ((readNum 0 v.toNat).div (readNum 0 (leAt own (16 * x + 4) 4))).1
        ((readNum 0 v.toNat).div (readNum 0 (leAt own (16 * x + 4) 4))).2.1).pat) m.mem := by
  have ho' : bits (r.hv a).toNat 22 0 = o := (bits_zero_eq ..).trans ho.symm
  have hrows : (vget c.mx.acc acc.toNat {}).mark.toNat = n := by rw [hn, hk]
  refine mapRows_done (i := .norm acc a) (f := fun x _ v => if (readNum 0 (leAt own (16 * x + 4) 4)).isZero then 0
      else (roundTo 0 false ((readNum 0 v).div (readNum 0 (leAt own (16 * x + 4) 4))).1
        ((readNum 0 v).div (readNum 0 (leAt own (16 * x + 4) 4))).2.1).pat)
    (marks := fun _ => (m.winMark c o (16 * n)).isSome) h hk hn hn64 rfl ?_
  simp only [act_bind, awaitAcc_ok h.atRun h.cont hfree, hGet_ok h.atRun, accRows_ok h.runsFor, hrows, ho', runRead_ok h.atRun h.cont hin, ← hown]

/-! ### MCMB (R273) -/

/-- The sum of two products, each rounded to FP32, rounded in turn (R117, R273). -/
def fpMerge (x y u v : Num) : ℕ :=
  (roundTo 0 false ((readNum 0 (roundTo 0 false (x.mul y).1).pat).add (readNum 0 (roundTo 0 false (u.mul v).1).pat)).1).pat

/-- MCMB's step on a record (R273). -/
def mcmbRow (o : ℕ) (ms : ℕ → Num) (l : ℕ → ℕ) (mark : Bool) (x : ℕ) : Act Unit :=
  if ms x = .inf true then pure () else runWrite (o + 16 * x) (leBytes 4 (roundTo 0 false (ms x)).pat ++ leBytes 4 (l x)) mark

/-- What MCMB writes of each record: its maximum and its sum, where some score counts. -/
def mcmbWrite (c : Cont) (o : ℕ) (ms : ℕ → Num) (l : ℕ → ℕ) (mark : Bool) (y : Mach) (x : ℕ) : Mach :=
  if ms x = .inf true then y else y.winWrite c (o + 16 * x) (leBytes 4 (roundTo 0 false (ms x)).pat ++ leBytes 4 (l x)) mark

def mcmbMem (c : Cont) (o : ℕ) (ms : ℕ → Num) (l : ℕ → ℕ) (mark : Bool) (y : Mem) (x : ℕ) : Mem :=
  if ms x = .inf true then y else
    y.spadStore c.die (skey c.gcore (c.winBase + (o + 16 * x))) (leBytes 4 (roundTo 0 false (ms x)).pat ++ leBytes 4 (l x)) mark

omit h hk hn hn64 ho hfree hin hown in
theorem mcmbWrite_mem {c' : Cont} {ms : ℕ → Num} {l : ℕ → ℕ} {mark : Bool} (hres : c'.resident = true) (y : Mach) (x : ℕ) :
    mcmbWrite c' o ms l mark y x = y.withMem (mcmbMem c' o ms l mark y.mem x) := by
  unfold mcmbWrite mcmbMem
  split
  · rfl
  · exact Mach.winWrite_resident hres

theorem mcmb_done {inc out : List Byte} {ms c1 c2 : ℕ → Num} (hres : c.resident = true)
    (hinb : c.inWindow ((r.hv b).toNat % 2 ^ 23 : ℕ) (16 * n) = true) (hind : c.inWindow ((r.hv d).toNat % 2 ^ 23 : ℕ) (256 * n) = true)
    (hinc : inc = m.winRead c ((r.hv b).toNat % 2 ^ 23) (16 * n)) (hout : out = m.winRead c ((r.hv d).toNat % 2 ^ 23) (256 * n))
    (hms : ms = fun x => (readNum 0 (leAt own (16 * x) 4)).pick true (readNum 0 (leAt inc (16 * x) 4)))
    (h1 : c1 = fun x => readNum 0 (expStep ((m.draw (r.fmt.getLsbD 25) 40).map (· + x * 2 ^ 24)) (readNum 0 (leAt own (16 * x) 4)) (ms x)).pat)
    (h2 : c2 = fun x => readNum 0 (expStep ((m.draw (r.fmt.getLsbD 25) 40).map (· + x * 2 ^ 24 + 1)) (readNum 0 (leAt inc (16 * x) 4)) (ms x)).pat) :
    RowsDone s r c acc k n (.mcmb acc a b d) (fun x y v => if ms x = .inf true then v.toNat
      else fpMerge (readNum 0 v.toNat) (c1 x) (readNum 0 (leAt out (256 * x + 4 * y) 4)) (c2 x))
      ((List.range n).foldl (mcmbWrite c o ms (fun x => fpMerge (readNum 0 (leAt own (16 * x + 4) 4)) (c1 x) (readNum 0 (leAt inc (16 * x + 4) 4)) (c2 x))
        ((m.winMark c ((r.hv b).toNat % 2 ^ 23) (16 * n)).isSome || (m.winMark c o (16 * n)).isSome)) m).mem := by
  have ho' : bits (r.hv a).toNat 22 0 = o := (bits_zero_eq ..).trans ho.symm
  have hb' : bits (r.hv b).toNat 22 0 = (r.hv b).toNat % 2 ^ 23 := bits_zero_eq ..
  have hd' : bits (r.hv d).toNat 22 0 = (r.hv d).toNat % 2 ^ 23 := bits_zero_eq ..
  have hrows : (vget c.mx.acc acc.toNat {}).mark.toNat = n := by rw [hn, hk]
  obtain ⟨f, hf⟩ : ∃ f : ℕ → ℕ → ℕ → ℕ, f = fun x y v => if ms x = .inf true then v
    else fpMerge (readNum 0 v) (c1 x) (readNum 0 (leAt out (256 * x + 4 * y) 4)) (c2 x) := ⟨_, rfl⟩
  obtain ⟨l, hl⟩ : ∃ l : ℕ → ℕ, l = fun x =>
    fpMerge (readNum 0 (leAt own (16 * x + 4) 4)) (c1 x) (readNum 0 (leAt inc (16 * x + 4) 4)) (c2 x) := ⟨_, rfl⟩
  obtain ⟨mark, hmark'⟩ : ∃ mark : Bool, mark =
    ((m.winMark c ((r.hv b).toNat % 2 ^ 23) (16 * n)).isSome || (m.winMark c o (16 * n)).isSome) := ⟨_, rfl⟩
  obtain ⟨marks, hmarks⟩ : ∃ marks : ℕ → Bool, marks = fun _ => (m.winMark c ((r.hv b).toNat % 2 ^ 23) (16 * n)).isSome ||
    (m.winMark c ((r.hv d).toNat % 2 ^ 23) (256 * n)).isSome || (m.winMark c o (16 * n)).isSome := ⟨_, rfl⟩
  obtain ⟨hbelow, habove, hothers, hsame⟩ := setAcc_done (c := c) (k := k) (f := f) (marks := marks) acc.isLt hn hn64
    (g := fun x y v => f x y v.toNat) fun x y => by rw [toW_acc]
  have hset := (h.runsFor.drawn (on := r.fmt.getLsbD 25)).setCont (c' := c.setAcc acc.toNat (k.mapped f marks)) rfl
  have hrow : ∀ x i, i ∈ List.range n → x.runsFor r (c.setAcc acc.toNat (k.mapped f marks)) →
      mcmbRow o ms l mark i x =
        .ok ((), mcmbWrite (c.setAcc acc.toNat (k.mapped f marks)) o ms l mark x i) ∧
      (mcmbWrite (c.setAcc acc.toNat (k.mapped f marks)) o ms l mark x i).runsFor r (c.setAcc acc.toNat (k.mapped f marks)) := by
    intro x i hi hI
    unfold mcmbWrite mcmbRow
    by_cases hskip : ms i = .inf true
    · rw [if_pos hskip, if_pos hskip]
      exact ⟨rfl, hI⟩
    · rw [if_neg hskip, if_neg hskip]
      have hw : c.inWindow (o + 16 * i : ℕ) (leBytes 4 (roundTo 0 false (ms i)).pat ++ leBytes 4 (l i)).length = true := by
        simp only [List.length_append, length_leBytes]
        exact inWindow_of_le (inWindow_row hin (List.mem_range.mp hi)) (by decide)
      exact ⟨runWrite_ok hI.1 hI.2 hw, hI.winWrite hres⟩
  obtain ⟨hloop, hI⟩ := foldlM_act (I := fun x => x.runsFor r (c.setAcc acc.toNat (k.mapped f marks)))
    (f := fun _ i => mcmbRow o ms l mark i)
    (List.range n) hrow hset
  refine ⟨_, _, runMicro_ok h (m' := (List.range n).foldl (mcmbWrite (c.setAcc acc.toNat (k.mapped f marks)) o ms l mark)
    ((m.drawn (r.fmt.getLsbD 25)).setCont (c.setAcc acc.toNat (k.mapped f marks)))) ?_, hI.2, ?_, ?_, habove, hothers, hsame⟩
  · simp only [act_bind, awaitAcc_ok h.atRun h.cont hfree, runOf_ok h.atRun, accRows_ok h.runsFor, hrows, ho', hb', hd',
      runRead_ok h.atRun h.cont hin, runRead_ok h.atRun h.cont hinb, runRead_ok h.atRun h.cont hind, runDusk_eq, ← hown, ← hinc, ← hout,
      decide_eq_true_eq]
    have hend := (act_bind_ok (f := fun _ => (List.range n).foldlM (fun (_ : Unit) i => mcmbRow o ms l mark i) ())
      (mapAcc_ok (f := f) (marks := marks) (h.runsFor.drawn (on := r.fmt.getLsbD 25)) hk)).trans hloop
    subst hf hl hmark' hmarks h1 h2 hms
    simp only [act_bind, mcmbRow, fpMerge] at hend
    exact hend
  · rw [← hl, ← hmark', foldl_withMem (mcmbWrite_mem (c' := c.setAcc acc.toNat (k.mapped f marks)) hres), foldl_withMem (mcmbWrite_mem hres)]
    have hdrawn : (m.drawn (r.fmt.getLsbD 25)).mem = m.mem := by cases r.fmt.getLsbD 25 <;> rfl
    show List.foldl _ ((m.drawn (r.fmt.getLsbD 25)).setCont _).mem _ = List.foldl _ m.mem _
    rw [Mach.setCont_mem, hdrawn]
    rfl
  · intro x y hx hy
    rw [hbelow x y hx hy, hf]
end

/-! ### ROPE (R271) -/

section
variable {s : State} {r : Run} {c : Cont} {m : Mach} {a b d : H} {half : Bool} {dm : BitVec 10} {rows : BitVec 7} {va z tile fo pos : ℕ}

/-- A row of ROPE: rotated in place (R271). -/
def ropeRow (tile n z : ℕ) (row : ℕ → List Rounded) (mark : Bool) (x : ℕ) : Act Unit := do
  let src ← runRead (tile + x * n * z) (n * z)
  runWrite (tile + x * n * z) ((row x).map fun v => leBytes z v.pat).flatten (src.2 || mark)

theorem rope_ok (h : s.micro r c m) (hres : c.resident = true) (hva : va = r.fmt.toNat / 2 ^ 12 % 16) (hfmt : floatNot64 va = true)
    (hz : z = elemBytes va) (ht : tile = (r.hv a).toNat % 2 ^ 23) (hfo : fo = (r.hv b).toNat % 2 ^ 23) (hpos : pos = (r.hv d).toNat % 2 ^ 24)
    (halt : tile % z = 0) (half4 : fo % 4 = 0) (hlast : pos + (rows.toNat - 1) ≤ 16777215) (hinf : c.inWindow fo (4 * (dm.toNat / 2)) = true)
    (hint : c.inWindow tile (rows.toNat * dm.toNat * z) = true)
    (hrows : ∀ x, x < rows.toNat → c.inWindow (tile + x * dm.toNat * z : ℕ) (dm.toNat * z) = true) {row : ℕ → List Rounded}
    (hrow : row = fun x => ropeAll va va ((m.draw (r.fmt.getLsbD 25) 40).map (· + x * 2 ^ 20)) half
      ((List.range dm.toNat).map fun i => leAt (m.winRead c tile (rows.toNat * dm.toNat * z)) ((x * dm.toNat + i) * z) z)
      (numbers 4 (dm.toNat / 2) (m.winRead c fo (4 * (dm.toNat / 2)))) (pos + x)) :
    exec (.rope a b d half dm rows) s = .next (s.after ((List.range rows.toNat).foldl (fun (y : Mach) x =>
      y.winWrite c (tile + x * dm.toNat * z) ((row x).map fun v => leBytes z v.pat).flatten
        ((y.winMark c (tile + x * dm.toNat * z) (dm.toNat * z)).isSome || (m.winMark c fo (4 * (dm.toNat / 2))).isSome))
      (m.drawn (r.fmt.getLsbD 25)))) := by
  have hva' : bits r.fmt.toNat 15 12 = va := (bits_eq ..).trans hva.symm
  have ht' : bits (r.hv a).toNat 22 0 = tile := (bits_zero_eq ..).trans ht.symm
  have hfo' : bits (r.hv b).toNat 22 0 = fo := (bits_zero_eq ..).trans hfo.symm
  have hpos' : bits (r.hv d).toNat 23 0 = pos := (bits_zero_eq ..).trans hpos.symm
  have hok : ¬(tile % z ≠ 0 ∨ fo % 4 ≠ 0 ∨ 16777215 < pos + (rows.toNat - 1)) := by omega
  obtain ⟨mark, hmark⟩ : ∃ mark, mark = (m.winMark c fo (4 * (dm.toNat / 2))).isSome := ⟨_, rfl⟩
  have hstep : ∀ x i, i ∈ List.range rows.toNat → x.runsFor r c → ropeRow tile dm.toNat z row mark i x =
      .ok ((), x.winWrite c (tile + i * dm.toNat * z) ((row i).map fun v => leBytes z v.pat).flatten
        ((x.winMark c (tile + i * dm.toNat * z) (dm.toNat * z)).isSome || mark)) ∧
      (x.winWrite c (tile + i * dm.toNat * z) ((row i).map fun v => leBytes z v.pat).flatten
        ((x.winMark c (tile + i * dm.toNat * z) (dm.toNat * z)).isSome || mark)).runsFor r c := by
    intro x i hi hI
    have hin := hrows i (List.mem_range.mp hi)
    have hlen : ((row i).map fun v => leBytes z v.pat).flatten.length = dm.toNat * z := by
      rw [length_flatten_leBytes, hrow, length_ropeAll, List.length_map, List.length_range]
    refine ⟨(act_bind_ok (runRead_ok hI.1 hI.2 hin)).trans (runWrite_ok hI.1 hI.2 ?_), hI.winWrite hres⟩
    rw [hlen]
    exact hin
  obtain ⟨hloop, -⟩ := foldlM_act (I := fun x => x.runsFor r c) (f := fun _ i => ropeRow tile dm.toNat z row mark i) (List.range rows.toNat)
    hstep (h.runsFor.drawn (on := r.fmt.getLsbD 25))
  rw [hmark] at hloop
  refine runMicro_ok h ?_
  simp only [act_bind, runOf_ok h.atRun, act_raiseIf, hva', hfmt, ← hz, ht', hfo', hpos', hok, Bool.not_true, Bool.false_eq_true, if_false, decide_false,
    runRead_ok h.atRun h.cont hinf, runRead_ok h.atRun h.cont hint, runDusk_eq]
  simp only [ropeRow, hrow] at hloop
  rw [hrow]
  exact hloop
end

/-- Settles O40: SMAX row by row of the delivered tile; RESC, NORM and MCMB by what they make of the rows below the mark; ROPE row by
row of its tile. -/
theorem sequencerSoftmaxAndAccumulators : Obligations.SequencerSoftmaxAndAccumulators := by
  unfold Obligations.SequencerSoftmaxAndAccumulators
  refine ⟨fun s r c m q a b w mk cnt h => ⟨smax_waits h, ?_⟩, ?_⟩
  · rintro xs rows marks ma za off tile place score step wr hres hs hma hfmt hza hoff hal hrec ht htile hplace rfl hstep hwr
    exact smax_ok h hres hs hma hfmt hza hoff hal hrec ht htile hplace hstep hwr
  · rintro s r c m acc a b d k n o own h hk hn hn64 ho hfree hin hown done rfl
    refine ⟨resc_done h hk hn hn64 ho hfree hin hown, norm_done h hk hn hn64 ho hfree hin hown, ?_, ?_⟩
    · rintro inc out ms c1 c2 wr hres hinb hind hinc hout hms h1 h2 rfl
      exact mcmb_done h hk hn hn64 ho hfree hin hown hres hinb hind hinc hout hms h1 h2
    · rintro half dm rows va z tile fo pos wr hres hva hfmt hz ht hfo hpos halt half4 hlast hinf hint hrows rfl
      exact rope_ok h hres hva hfmt hz ht hfo hpos halt half4 hlast hinf hint hrows rfl

end Sys2Proof.Machine
end

section
/-! PROOFS. DJOB, WAITW, SIGW and HALT; SQSTART and SQCSD (R263 to R267, R272). -/

namespace Sys2Proof.Machine

/-! ### Writes at a member's window leave the sequencers alone -/

/-- Two machines have the same sequencers. -/
def Mach.sameSeqs (m m' : Mach) : Prop := m'.seqs = m.seqs ∧ m'.seqSel = m.seqSel

theorem Mach.placePrep_sameSeqs (m : Mach) (d : ℕ) (p : SigTarget) (n : ℕ) (rel : Bool) (past : SMap ℕ) :
    m.sameSeqs (m.placePrep d p n rel past) := by
  cases p <;> exact ⟨rfl, rfl⟩

theorem Mach.placeWrite_sameSeqs (m : Mach) (d : ℕ) (p : SigTarget) (l : List Byte) : m.sameSeqs (m.placeWrite d p l) := by
  cases p with
  | mem pa => exact ⟨rfl, rfl⟩
  | spad id off =>
    unfold Mach.placeWrite
    cases hc : m.cont? id with
    | none => simp only [hc]; exact ⟨rfl, rfl⟩
    | some t =>
      simp only [hc]
      obtain ⟨hs, hsel, -⟩ := m.winWrite_frame t off l false
      unfold Mach.placeAcquire
      dsimp only
      split <;> exact ⟨hs, hsel⟩

theorem Mach.sameSeqs.seq {m m' : Mach} (h : m.sameSeqs m') : m'.seq m'.seqSel = m.seq m.seqSel := by
  unfold Mach.seq
  rw [h.1, h.2]

section
variable {s : State} {r : Run} {c : Cont} {m : Mach} (h : s.micro r c m)
include h

/-! ### DJOB (R218, R219, R267) -/

section
variable {a : H} {mm : BitVec 4} {ac : BitVec 6} {k : Card} (hcard : m.readCard c ((r.hv a).toNat % 2 ^ 23) = .ok k)
  (hsrc : m.guestOf c ≠ none ∨ m.sourcesHeld c.ctx = false)
include hcard hsrc

theorem djob_bad (hk : 3 < k.kind ∨ k.dport = true) : exec (.djob a mm ac) s = .next (s.after (s.m.seqFails s.m.seqSel
    { cause := 0x2004, faddr := toW ((r.hv a).toNat % 2 ^ 23) })) := by
  have hoff : bits (r.hv a).toNat 22 0 = (r.hv a).toNat % 2 ^ 23 := bits_zero_eq ..
  have hheld : ((m.guestOf c).isNone && m.sourcesHeld c.ctx) = false := by
    rcases hsrc with h | h
    · rw [Option.isNone_eq_false_iff.mpr (Option.isSome_iff_ne_none.mpr h), Bool.false_and]
    · rw [h, Bool.and_false]
  have hbad : (decide (3 < k.kind) || k.dport) = true := by
    rw [Bool.or_eq_true, decide_eq_true_eq]
    exact hk
  refine runMicro_trap h ?_
  simp only [act_bind, runOf_ok h.atRun, runCont_ok h.atRun h.cont, act_getM, act_awaitIf, hheld, Bool.false_eq_true, if_false, hoff, hcard,
    act_raiseIf, hbad, if_true]

theorem djob_ok (hkind : k.kind ≤ 3) (hport : k.dport = false) (hmm : k.kind ≠ 1 → mm = 0) (hcw : m.cwordCause c k = none)
    (hgood : k.good k.kind = true) : exec (.djob a mm ac) s = .next (s.after ((m.landDrains c.id).addJob
      { id := 0, cont := c.id, task := c.task, die := c.die, op := k.kind, card := k, cardOff := (r.hv a).toNat % 2 ^ 23, mm := mm
        ac := ac, fmt := r.fmt, pc := c.pc, seq := some s.m.seqSel })) := by
  have hoff : bits (r.hv a).toNat 22 0 = (r.hv a).toNat % 2 ^ 23 := bits_zero_eq ..
  have hheld : ((m.guestOf c).isNone && m.sourcesHeld c.ctx) = false := by
    rcases hsrc with h | h
    · rw [Option.isNone_eq_false_iff.mpr (Option.isSome_iff_ne_none.mpr h), Bool.false_and]
    · rw [h, Bool.and_false]
  have hok : (decide (3 < k.kind) || k.dport) = false := by
    rw [hport, Bool.or_false]
    exact decide_eq_false (Nat.not_lt.mpr hkind)
  have hmask : ¬(k.kind ≠ opDmcast ∧ mm ≠ 0) := fun hc => hc.2 (hmm hc.1)
  have hsel : (m.landDrains c.id).seqSel = s.m.seqSel := (m.landDrains_frame c.id).2.trans h.seqSel
  refine runMicro_ok h ?_
  simp only [act_bind, runOf_ok h.atRun, runCont_ok h.atRun h.cont, act_getM, act_awaitIf, hheld, Bool.false_eq_true, if_false, hoff, hcard,
    act_raiseIf, hok, hmask, decide_false, hcw, hgood, Bool.not_true, act_modM, hsel]
end

/-! ### WAITW (R23, R267) -/

theorem waitw_ok (k : BitVec 2) (a b : H) {w : ℕ} (hal : (r.hv a).toNat % 8 = 0) (hin : c.inWindow (r.hv a).toNat 8 = true)
    (hw : w = leNat (m.winRead c (r.hv a).toNat 8) % 2 ^ 32) : exec (.waitw k a b) s =
      if (if k = 0 then decide (w = (r.hv b).toNat % 2 ^ 32) else if k = 1 then decide (w ≠ (r.hv b).toNat % 2 ^ 32)
        else if k = 2 then decide ((r.hv b).toNat % 2 ^ 32 ≤ w) else decide (w < (r.hv b).toNat % 2 ^ 32)) then .next (s.after m) else .next s := by
  have hcond : waitHolds (k.setWidth 3) (BitVec.ofNat 32 (leNat (m.winRead c (r.hv a).toNat 8))) ((r.hv b).setWidth 32) =
      (if k = 0 then decide (w = (r.hv b).toNat % 2 ^ 32) else if k = 1 then decide (w ≠ (r.hv b).toNat % 2 ^ 32)
        else if k = 2 then decide ((r.hv b).toNat % 2 ^ 32 ≤ w) else decide (w < (r.hv b).toNat % 2 ^ 32)) := by
    have hx : (BitVec.ofNat 32 (leNat (m.winRead c (r.hv a).toNat 8))).toNat = w := by rw [BitVec.toNat_ofNat, hw]
    have hy : ((r.hv b).setWidth 32).toNat = (r.hv b).toNat % 2 ^ 32 := BitVec.toNat_setWidth ..
    rw [← hy, ← hx]
    generalize BitVec.ofNat 32 (leNat (m.winRead c (r.hv a).toNat 8)) = x
    generalize (r.hv b).setWidth 32 = y
    have hk : k = 0 ∨ k = 1 ∨ k = 2 ∨ k = 3 := by
      have := k.isLt
      obtain h | h | h | h : k.toNat = 0 ∨ k.toNat = 1 ∨ k.toNat = 2 ∨ k.toNat = 3 := by omega
      · exact .inl (BitVec.eq_of_toNat_eq h)
      · exact .inr (.inl (BitVec.eq_of_toNat_eq h))
      · exact .inr (.inr (.inl (BitVec.eq_of_toNat_eq h)))
      · exact .inr (.inr (.inr (BitVec.eq_of_toNat_eq h)))
    rcases hk with rfl | rfl | rfl | rfl <;> simp [waitHolds, BitVec.toNat_inj, beq_eq_decide, bne]
  generalize (if k = 0 then decide (w = (r.hv b).toNat % 2 ^ 32) else if k = 1 then decide (w ≠ (r.hv b).toNat % 2 ^ 32)
    else if k = 2 then decide ((r.hv b).toNat % 2 ^ 32 ≤ w) else decide (w < (r.hv b).toNat % 2 ^ 32)) = go at hcond
  cases go
  · rw [if_neg (by decide)]
    refine runMicro_wait h ?_
    simp only [act_bind, runOf_ok h.atRun, act_raiseIf, hal, ne_eq, not_true_eq_false, decide_false, Bool.false_eq_true, if_false,
      runRead_ok h.atRun h.cont hin, act_awaitIf, hcond, Bool.not_false, if_true]
  · rw [if_pos rfl]
    refine runMicro_ok h ?_
    simp only [act_bind, runOf_ok h.atRun, act_raiseIf, hal, ne_eq, not_true_eq_false, decide_false, Bool.false_eq_true, if_false,
      runRead_ok h.atRun h.cont hin, act_awaitIf, hcond, Bool.not_true]
end

/-! ### SIGW and HALT (R156, R267, R272) -/

section
variable {m : Mach} {r : Run} {c t : Cont} {sc : BitVec 3} {addr off : ℕ} {v : Word}

/-- R81, R156: a release write of a run. -/
theorem runRelease_ok (h : m.runsFor r c) (hal : addr % 8 = 0) (hlt : addr < 2 ^ 32) (ht : m.spTarget c.task c.team.toNat addr = some (t, off))
    (hin : t.inWindow off 8 = true) : runRelease sc addr v m = .ok ((), (m.placePrep c.die (.spad t.id off) 8 (decide (3 ≤ sc.toNat)) []).placeWrite
      c.die (.spad t.id off) (leBytes 8 v.toNat)) := by
  simp only [runRelease, act_bind, runCont_ok h.1 h.2, act_raiseIf, hal, ne_eq, not_true_eq_false, decide_false, Bool.false_eq_true, if_false,
    act_getM, ht, Nat.not_le.mpr hlt, hin, Bool.not_true, Bool.or_self, act_modM, wide_eq]
end

section
variable {s : State} {r : Run} {c t : Cont} {m : Mach} {a b : H} {sc : BitVec 3} {off : ℕ} (h : s.micro r c m)
include h

theorem sigw_ok (hsc : sc.toNat < 5) (hbusy : m.runBusy s.m.seqSel c = false) (hal : (r.hv a).toNat % 8 = 0) (hlt : (r.hv a).toNat < 2 ^ 32)
    (ht : m.spTarget c.task c.team.toNat (r.hv a).toNat = some (t, off)) (hin : t.inWindow off 8 = true) :
    exec (.sigw sc a b) s = .next (s.after ((m.placePrep c.die (.spad t.id off) 8 (decide (3 ≤ sc.toNat)) []).placeWrite c.die (.spad t.id off)
      (leBytes 8 (r.hv b).toNat))) := by
  refine runMicro_ok h ?_
  simp only [act_bind, act_raiseIf, Nat.not_le.mpr hsc, decide_false, Bool.false_eq_true, if_false, runOf_ok h.atRun, runCont_ok h.atRun h.cont,
    act_getM, h.seqSel, act_awaitIf, hbusy, runRelease_ok h.runsFor hal hlt ht hin]

theorem sigw_waits (hsc : sc.toNat < 5) (hbusy : m.runBusy s.m.seqSel c = true) : exec (.sigw sc a b) s = .next s := by
  refine runMicro_wait h ?_
  simp only [act_bind, act_raiseIf, Nat.not_le.mpr hsc, decide_false, Bool.false_eq_true, if_false, runOf_ok h.atRun, runCont_ok h.atRun h.cont,
    act_getM, h.seqSel, act_awaitIf, hbusy, if_true]

theorem halt_waits (hbusy : m.runBusy s.m.seqSel c = true) : exec .halt s = .next s := by
  refine runMicro_wait h ?_
  simp only [act_bind, runOf_ok h.atRun, runCont_ok h.atRun h.cont, act_getM, h.seqSel, act_awaitIf, hbusy, if_true]

/-- The status of a run that has ended: inactive, no failure, one more run done (R265). -/
def haltStat (stat : Word) : Word := toW (putBits (putBits (putBits stat.toNat 63 38 0) 32 32 0) 15 0 (bits stat.toNat 15 0 + 1))

omit h in
theorem haltStat_bits (stat : Word) : (haltStat stat).getLsbD 32 = false ∧
    (haltStat stat).toNat % 2 ^ 16 = (stat.toNat % 2 ^ 16 + 1) % 2 ^ 16 := by
  have hbit : bits stat.toNat 15 0 = stat.toNat % 2 ^ 16 := bits_zero_eq ..
  unfold haltStat
  rw [hbit]
  refine ⟨?_, ?_⟩
  · have hlow := putBits_testBit (putBits (putBits stat.toNat 63 38 0) 32 32 0) (stat.toNat % 2 ^ 16 + 1) 0 32 (n := 16) (by decide)
    have hact := putBits_testBit (putBits stat.toNat 63 38 0) 0 32 32 (n := 1) (by decide)
    rw [toW_getLsbD (by decide)]
    exact hlow.trans (hact.trans (Nat.zero_testBit _))
  · have hlow := putBits_eq (putBits (putBits stat.toNat 63 38 0) 32 32 0) (stat.toNat % 2 ^ 16 + 1) 0 (n := 16) (by decide)
    have hput : putBits (putBits (putBits stat.toNat 63 38 0) 32 32 0) 15 0 (stat.toNat % 2 ^ 16 + 1) % 2 ^ 16 = (stat.toNat % 2 ^ 16 + 1) % 2 ^ 16 := by
      refine (congrArg (· % 2 ^ 16) hlow).trans ?_
      omega
    rw [toW, BitVec.toNat_ofNat]
    generalize putBits (putBits (putBits stat.toNat 63 38 0) 32 32 0) 15 0 (stat.toNat % 2 ^ 16 + 1) = w at hput ⊢
    omega

theorem halt_ok (hbusy : m.runBusy s.m.seqSel c = false) (hal : r.comp.toNat % 8 = 0) {m2 : Mach} (h2 : m2 = m.setCont { c with ag := r.ag })
    (ht : m2.spTarget c.task c.team.toNat r.comp.toNat = some (t, off)) (hin : t.inWindow off 8 = true) :
    ∃ m3, exec .halt s = .next (s.after m3) ∧ (m3.seq s.m.seqSel).run = none ∧ (m3.seq s.m.seqSel).stat.getLsbD 32 = false ∧
      (m3.seq s.m.seqSel).stat.toNat % 2 ^ 16 = ((s.m.seq s.m.seqSel).stat.toNat % 2 ^ 16 + 1) % 2 ^ 16 ∧
      m3.mem = ((m2.placePrep c.die (.spad t.id off) 8 true []).placeWrite c.die (.spad t.id off) (leBytes 8 (r.hv 15).toNat)).mem := by
  have hset : m2.runsFor r { c with ag := r.ag } := h2 ▸ h.runsFor.setCont rfl
  obtain ⟨m4, h4⟩ : ∃ m4, m4 = (m2.placePrep c.die (.spad t.id off) 8 true []).placeWrite c.die (.spad t.id off) (leBytes 8 (r.hv 15).toNat) :=
    ⟨_, rfl⟩
  have hprep := m2.placePrep_sameSeqs c.die (.spad t.id off) 8 true []
  have hwrite := (m2.placePrep c.die (.spad t.id off) 8 true []).placeWrite_sameSeqs c.die (.spad t.id off) (leBytes 8 (r.hv 15).toNat)
  have hsel2 : m2.seqSel = s.m.seqSel := by rw [h2, Mach.setCont_seqSel, h.seqSel]
  have hsel : m4.seqSel = s.m.seqSel := by rw [h4, hwrite.2, hprep.2, hsel2]
  have hstat : (m4.seq s.m.seqSel).stat = (s.m.seq s.m.seqSel).stat := by
    have hseq : m4.seqs = m.seqs := by rw [h4, hwrite.1, hprep.1, h2, Mach.setCont_seqs]
    have hrun : m.seq s.m.seqSel = { s.m.seq s.m.seqSel with run := some r } := h.2.2 ▸ Mach.seq_setSeq
    exact (congrArg (fun q => (SMap.get ({} : Seq) q s.m.seqSel).stat) hseq).trans (Eq.trans (congrArg Seq.stat hrun) rfl)
  have hrel : runRelease 3 r.comp.toNat (r.hv 15) m2 = .ok ((), m4) := h4 ▸ runRelease_ok (c := { c with ag := r.ag }) (sc := 3) hset hal r.comp.isLt ht hin
  refine ⟨m4.setSeq s.m.seqSel { m4.seq s.m.seqSel with run := none, stat := haltStat (m4.seq s.m.seqSel).stat }, runMicro_ok h ?_, ?_, ?_, ?_, ?_⟩
  · simp only [act_bind, runOf_ok h.atRun, runCont_ok h.atRun h.cont, act_getM, h.seqSel, act_awaitIf, hbusy, Bool.false_eq_true, if_false,
      act_modM, ← h2, hrel, hsel]
    rfl
  · rw [Mach.seq_setSeq]
  · rw [Mach.seq_setSeq]
    exact (haltStat_bits _).1
  · rw [Mach.seq_setSeq]
    exact (haltStat_bits _).2.trans (by rw [hstat])
  · rw [← h4]
    rfl
end

/-! ### SQSTART and SQCSD (R263, R264) -/

section
variable {s : State} {v : Word} {m' : Mach}

theorem runStep_ok (hid : s.m.cur.id ≠ 0) {a : Act Unit} (ha : a s.m = .ok ((), m')) : runStep a s = .next (s.after m') := by
  unfold runStep
  rw [if_neg hid, ha]
  rfl

theorem Seq.reject_eq (q : Seq) : q.reject = { q with stat := q.stat ||| toW (2 ^ 33) } := by
  have hstat : toW (putBits q.stat.toNat 33 33 1) = q.stat ||| toW (2 ^ 33) := by
    refine BitVec.eq_of_getLsbD_eq fun k hk => ?_
    have hput := putBits_testBit q.stat.toNat 1 33 k (n := 1) (by decide)
    rw [BitVec.getLsbD_or, toW_getLsbD hk, toW_getLsbD hk, Nat.testBit_two_pow]
    refine hput.trans ?_
    by_cases h33 : k = 33
    · subst h33
      simp
    · rw [if_neg (by omega), decide_eq_false (Ne.symm h33), Bool.or_false]
      rfl
  rw [Seq.reject, hstat]

theorem Mach.mySeq_setMySeq (m : Mach) (q : Seq) : (m.setMySeq q).mySeq = q := SMap.get_set_same

variable (hid : s.m.cur.id ≠ 0)
include hid

/-- R264: SQSTART without a free sequencer, the claim or aligned parameters sets rej. -/
theorem sqstart_rejects (h : s.m.mySeq.run ≠ none ∨ s.m.cur.claim = false ∨ v.toNat / 2 ^ 10 % 2 ^ 23 % 128 ≠ 0) :
    exec (.sqstartWrite v) s = .next (s.after (s.m.setMySeq { s.m.mySeq with stat := s.m.mySeq.stat ||| toW (2 ^ 33) })) := by
  have hpar : bits v.toNat 32 10 = v.toNat / 2 ^ 10 % 2 ^ 23 := bits_eq ..
  have hbad : (s.m.mySeq.run.isSome || !s.m.cur.claim || !(s.m.cur.inWindow (v.toNat / 2 ^ 10 % 2 ^ 23 : ℕ) 128) ||
      decide (v.toNat / 2 ^ 10 % 2 ^ 23 % 128 ≠ 0)) = true := by
    rcases h with h | h | h
    · simp [Option.isSome_iff_ne_none.mpr h]
    · simp [h]
    · rw [decide_eq_true h, Bool.or_true]
  refine runStep_ok hid ?_
  simp only [writeSqstart, act_bind, act_getM, hpar, hbad, if_true, act_modM, Seq.reject_eq]

/-- R264: else a run starts on its parameters, once everything before it is performed. -/
theorem sqstart_starts {par : ℕ} (hp : par = v.toNat / 2 ^ 10 % 2 ^ 23) (hrun : s.m.mySeq.run = none) (hcl : s.m.cur.claim = true)
    (hin : s.m.cur.inWindow par 128 = true) (hal : par % 128 = 0) :
    ∃ m2 r, exec (.sqstartWrite v) s = .next (s.after m2) ∧ m2.mySeq.run = some r ∧ r.cont = s.m.cur.id ∧ r.pcw = v.toNat % 2 ^ 10 ∧
      (∀ i : H, i ≠ 0 → (r.hv i).toNat = leAt ((s.m.performed s.m.cur.id).winRead (s.m.performed s.m.cur.id).cur par 128) (8 * i.toNat) 8) ∧
      r.ag = s.m.cur.ag ∧ m2.mySeq.stat.getLsbD 32 = true := by
  have hpar : bits v.toNat 32 10 = par := (bits_eq ..).trans hp.symm
  have hlow : bits v.toNat 9 0 = v.toNat % 2 ^ 10 := bits_zero_eq ..
  have hok : (s.m.mySeq.run.isSome || !s.m.cur.claim || !(s.m.cur.inWindow par 128) || decide (par % 128 ≠ 0)) = false := by
    simp [hrun, hcl, hin, hal]
  obtain ⟨m1, h1⟩ : ∃ m1, m1 = s.m.performed s.m.cur.id := ⟨_, rfl⟩
  obtain ⟨r, hr⟩ : ∃ r : Run, r = { cont := s.m.cur.id, task := s.m.cur.task, pcw := v.toNat % 2 ^ 10
                                    h := Vector.ofFn fun i => if i.val = 0 then 0 else toW (leAt (m1.winRead m1.cur par 128) (8 * i.val) 8)
                                    ag := s.m.cur.ag, fmt := m1.fmtNow, comp := BitVec.ofNat 32 (leAt (m1.winRead m1.cur par 128) 0 4) } := ⟨_, rfl⟩
  refine ⟨m1.setMySeq { s.m.mySeq with
      run := some r, stat := toW (putBits (putBits s.m.mySeq.stat.toNat 32 32 1) 19 16 s.m.cur.core) }, r, runStep_ok hid ?_, ?_, ?_, ?_, ?_, ?_, ?_⟩
  · simp only [writeSqstart, act_bind, act_getM, hpar, hok, Bool.false_eq_true, if_false, act_performEarlier, ← h1, act_takeFmt, act_modM, hlow, hr]
  · rw [Mach.mySeq_setMySeq]
  · rw [hr]
  · rw [hr]
  · intro i hi
    have hi0 : i.toNat ≠ 0 := fun h0 => hi (BitVec.eq_of_toNat_eq h0)
    have hget : r.hv i = toW (leAt (m1.winRead m1.cur par 128) (8 * i.toNat) 8) := by
      rw [Run.hv, if_neg hi, hr]
      show vget (Vector.ofFn _) i.toNat 0 = _
      unfold vget
      rw [List.getD_eq_getElem _ _ (by simpa using i.isLt), Vector.getElem_toList, Vector.getElem_ofFn]
      exact if_neg hi0
    rw [hget, ← h1, toW, BitVec.toNat_ofNat]
    exact Nat.mod_eq_of_lt (leAt_lt ..)
  · rw [hr]
  · rw [Mach.mySeq_setMySeq, toW_getLsbD (by decide)]
    have hcore := putBits_testBit (putBits s.m.mySeq.stat.toNat 32 32 1) s.m.cur.core 16 32 (n := 4) (by decide)
    have hact := putBits_testBit s.m.mySeq.stat.toNat 1 32 32 (n := 1) (by decide)
    exact hcore.trans hact

theorem sqcsdWrite_idle (hrun : s.m.mySeq.run = none) : exec (.sqcsdWrite v) s = .next (s.after (s.m.setMySeq { s.m.mySeq with
    csa := s.m.mySeq.csa + 1, store := SMap.set 0 s.m.mySeq.store s.m.mySeq.csa.toNat v })) := by
  show execSqcsdWrite v s = _
  unfold execSqcsdWrite
  refine runStep_ok hid ?_
  simp only [writeSqcsd, act_modM, hrun]

theorem sqcsdWrite_busy (hrun : s.m.mySeq.run ≠ none) : exec (.sqcsdWrite v) s = .next (s.after (s.m.setMySeq { s.m.mySeq with
    csa := s.m.mySeq.csa + 1, stat := s.m.mySeq.stat ||| toW (2 ^ 33) })) := by
  obtain ⟨r, hr⟩ := Option.ne_none_iff_exists'.mp hrun
  show execSqcsdWrite v s = _
  unfold execSqcsdWrite
  refine runStep_ok hid ?_
  simp only [writeSqcsd, act_modM, hr, Seq.reject_eq]

theorem sqcsdRead_ok {d : GF} {m2 : Mach} (hd : writeG d (SMap.get 0 s.m.mySeq.store s.m.mySeq.csa.toNat)
    (s.m.setMySeq { s.m.mySeq with csa := s.m.mySeq.csa + 1 }) = .ok ((), m2)) : exec (.sqcsdRead d) s = .next (s.after m2) := by
  refine runStep_ok hid ?_
  simp only [readSqcsd, act_bind, act_getM, act_modM, act_pure, hd]
end

/-- Settles O41: the micro-operations that leave their run, its start, and the store of microcode. -/
theorem sequencerRun : Obligations.SequencerRun := by
  unfold Obligations.SequencerRun
  refine fun s => ⟨fun r c m h => ⟨fun a mm ac k hcard hsrc => ⟨?_, fun hk => djob_bad h hcard hsrc hk⟩, fun k a b w hal hin hw => waitw_ok h k a b hal hin hw,
    fun sc a b t off hsc hbusy hal hlt ht hin => sigw_ok h hsc hbusy hal hlt ht hin, fun sc a b hbusy => ?_, fun hbusy => halt_waits h hbusy,
    fun t off m2 hbusy hal h2 ht hin => halt_ok h hbusy hal h2 ht hin⟩, fun hid => ⟨fun v par hp hrun hcl hin hal => sqstart_starts hid hp hrun hcl hin hal,
    fun v hv => sqstart_rejects hid hv, fun v hrun => sqcsdWrite_idle hid hrun, fun v hrun => sqcsdWrite_busy hid hrun, fun d m2 hd => sqcsdRead_ok hid hd⟩⟩
  · rintro hkind hport hmm hcw hgood m2 rfl
    exact djob_ok h hcard hsrc hkind hport hmm hcw hgood
  · by_cases hsc : sc.toNat < 5
    · exact .inl (sigw_waits h hsc hbusy)
    · exact .inr (Nat.not_lt.mp hsc)

end Sys2Proof.Machine
end

section
/-! PROOFS. Reset, the words the manual writes out, and what a step runs. -/

namespace Sys2Proof.Machine

/-- Settles O60: what the machine is built with. -/
theorem resetState : Obligations.ResetState := by
  unfold Obligations.ResetState
  refine ⟨⟨Mem.canonical_reset, fun m h => nomatch h⟩, rfl, rfl, ?_⟩
  rintro m rfl
  exact ⟨rfl, rfl, rfl, rfl, rfl, rfl, rfl, rfl, rfl, rfl, rfl, rfl, fun d => rfl⟩

/-- Settles O57: the decoder run on each word. -/
theorem decodedWordsAreTheManuals : Obligations.DecodedWordsAreTheManuals := by
  unfold Obligations.DecodedWordsAreTheManuals
  decide +kernel

section
variable {s : State}

/-! ### A cursor in a bundle (R125, R128) -/

section
variable {k : Cursor} {x : Fin 7} {rest : List (Fin 7)} {b : List Byte}
  (hk : s.m.cur.cursor = some k) (hslots : k.slots = x :: rest)
  (hb : (s.snap.getD s.m).fetchBytes s.m.cur k.addr.toNat (Slot.of x.val).bytes = .ok b)
include hk hslots hb

theorem step_slot {i : Instr} (hdec : decode (Slot.of x.val) (leNat b) = some i) (hok : s.m.cur.stage0 = false ∨ stage0Allows i = true) :
    step s = exec i { s with m := s.m.withCur { s.m.cur with cursor := some { k with insn := toW (leNat b), instr := some i } } } := by
  have hallow : (s.m.cur.stage0 && !stage0Allows i) = false := by
    rcases hok with h | h <;> simp [h]
  have hinstr : slotInstr s k x = .ok (leNat b, i) := by
    simp only [slotInstr, hb, hdec, hallow, Bool.false_eq_true, if_false]
  simp only [step, turn, hk, slotTurn, hslots, hinstr, State.noteInsn, Option.map_some]
  rfl

theorem step_undecoded (hdec : decode (Slot.of x.val) (leNat b) = none) : step s = .next (s.takeTrap { cause := 0x1001 } x.val 0) := by
  have hinstr : slotInstr s k x = .error (some { cause := 0x1001 }) := by
    simp only [slotInstr, hb, hdec]
  simp only [step, turn, hk, slotTurn, hslots, hinstr]
end

/-! ### Between bundles: the agenda, the queues and the next bundle (log entries 3 and 5) -/

section
variable (hk : s.m.cur.cursor = none)
include hk

theorem step_event {i : Instr} {rest : List Sched} (ha : s.agenda = .event i :: rest) (hi : isEvent i = true) (hp : s.m.regs.powered = true) :
    step s = exec i { s with agenda := rest } := by
  simp only [step, turn, hk, ha, agendaTurn, hi, hp, Bool.true_or, Bool.and_self, if_true]

theorem step_micro {n : ℕ} {rest : List Sched} {r : Run} {i : Instr} (ha : s.agenda = .micro n :: rest) (hr : (s.m.seq n).run = some r)
    (hi : decodeSeq (SMap.get 0 (s.m.seq n).store r.pcw).toNat = some i) :
    step s = exec i { m := { s.m with seqSel := n }, snap := s.snap, agenda := rest } := by
  have hturn : microTurn { s with agenda := rest } n = .run i { s with m := { s.m with seqSel := n }, agenda := rest } := by
    unfold microTurn
    dsimp only
    rw [hr]
    dsimp only
    rw [hi]
  simp only [step, turn, hk, ha, agendaTurn, hturn]

variable (ha : s.agenda = [])
include ha

theorem step_idle (h : s.m.cur.id = 0 ∨ s.m.cur.state ≠ 2) : step s = .next s.idle := by
  have hruns : s.m.runs = false := decide_eq_false fun hr => h.elim hr.1 fun hne => hne hr.2
  simp only [step, turn, hk, ha, hruns, Bool.not_false, if_true]

variable (hid : s.m.cur.id ≠ 0) (hst : s.m.cur.state = 2)
include hid hst

theorem step_queued {e : QEntry} (he : s.m.cur.queue.find? (fun e => !e.tried) = some e) : step s = exec e.instr (s.enterBack e) := by
  have hruns : s.m.runs = true := decide_eq_true ⟨hid, hst⟩
  simp only [step, turn, hk, ha, hruns, Bool.not_true, Bool.false_eq_true, if_false, he, queueTurn]

variable (hq : s.m.cur.queue.find? (fun e => !e.tried) = none)
include hq

theorem step_yields (hy : s.m.mustYield = true) : step s = exec (.pickerPreemptContext s.m.cur.gcore) s := by
  have hruns : s.m.runs = true := decide_eq_true ⟨hid, hst⟩
  simp only [step, turn, hk, ha, hruns, Bool.not_true, Bool.false_eq_true, if_false, hq, hy, if_true]

theorem step_dispatches (hy : s.m.mustYield = false) (hs : s.m.stalled = false) : step s = exec .bundleDispatch s := by
  have hruns : s.m.runs = true := decide_eq_true ⟨hid, hst⟩
  simp only [step, turn, hk, ha, hruns, Bool.not_true, Bool.false_eq_true, if_false, hq, hy, hs]

theorem step_stalled (hy : s.m.mustYield = false) (hs : s.m.stalled = true) : step s = .next s.idle := by
  have hruns : s.m.runs = true := decide_eq_true ⟨hid, hst⟩
  simp only [step, turn, hk, ha, hruns, Bool.not_true, Bool.false_eq_true, if_false, hq, hy, hs, if_true]
end
end

/-- Settles O56: the branches of `turn`. -/
theorem stepRunsDecodedInstruction : Obligations.StepRunsDecodedInstruction := by
  unfold Obligations.StepRunsDecodedInstruction
  intro s
  refine ⟨fun k x rest b hk hslots hb => ⟨fun i hdec hok => step_slot hk hslots hb hdec hok, fun hdec => step_undecoded hk hslots hb hdec⟩,
    fun hk => ⟨fun ha hid hst => ⟨fun e he => ⟨step_queued hk ha hid hst he, rfl, rfl, _, rfl, rfl, rfl, rfl⟩, fun hq hy => step_yields hk ha hid hst hq hy,
      fun hq hy hs => step_dispatches hk ha hid hst hq hy hs, fun hq hy hs => step_stalled hk ha hid hst hq hy hs⟩,
      fun ha h => step_idle hk ha h, rfl, fun i rest ha hi hp => step_event hk ha hi hp, fun n rest r i ha hr hi => step_micro hk ha hr hi⟩⟩

end Sys2Proof.Machine
end

section
/-! SUPPORT. What a die's view of a byte is after a write, a write that arrives, and a write of a scratchpad (R93 to R97). -/

namespace Sys2Proof.Machine

section
variable {m m' : Mem} {w u : Write} {d e a b k n pa src : ℕ} {stamp : SMap ℕ} {q : Bool} {bs : List Byte}

/-! ### Keys of views -/

/-- The arbitration key of a write held (R94). -/
def Held.key (h : Held) : ℕ := keyOf h.src h.stamp

/-- The arbitration key of the write that a die's view of a byte holds (R94). -/
def Mem.keyAt (m : Mem) (e a : ℕ) : ℕ := (SMap.get ({} : Held) m.held (vkey e a)).key

theorem vkey_addr (ha : a < 2 ^ 52) (hb : b < 2 ^ 52) (h : vkey e a = vkey d b) : a = b := by
  unfold vkey at h
  omega

theorem vkey_plain (h : coherent a = false) : vkey d a = d * 2 ^ 52 + a := by
  simp [vkey, viewDie, h]

theorem vkey_coherent (h : coherent a = true) : vkey d a = vkey e a := by
  simp [vkey, viewDie, h]

theorem vkey_die (ha : coherent a = false) (h : vkey e a = vkey d a) : e = d := by
  rw [vkey_plain ha, vkey_plain ha] at h
  omega

/-! ### A die takes a write's bytes (R96) -/

/-- A die takes one byte of a write where its key is the larger one, and the mark of a granule that begins there. -/
def Mem.takeByte (m : Mem) (e src : ℕ) (stamp : SMap ℕ) (q : Bool) (pa0 n0 pa : ℕ) (x : Byte) : Mem :=
  if m.keyAt e pa < keyOf src stamp then
    { m with
      view := Memory.put m.view (vkey e pa) x
      held := SMap.set {} m.held (vkey e pa) { src := src, stamp := stamp }
      poison := if pa = pa0 ∨ pa % 64 = 0 then
          SMap.set false m.poison (markKey e pa) (markAfter (m.marked e pa) q (pa / 64 * 64) pa0 n0)
        else m.poison }
  else m

section
variable {pa0 n0 : ℕ} {x : Byte}

theorem Mem.takeBytes_cons : m.takeBytes e src stamp q pa0 n0 pa (x :: bs) =
    (m.takeByte e src stamp q pa0 n0 pa x).takeBytes e src stamp q pa0 n0 (pa + 1) bs := rfl

theorem Mem.takeByte_other (h : k ≠ vkey e pa) :
    Memory.byte (m.takeByte e src stamp q pa0 n0 pa x).view k = Memory.byte m.view k ∧
      SMap.get ({} : Held) (m.takeByte e src stamp q pa0 n0 pa x).held k = SMap.get ({} : Held) m.held k := by
  unfold Mem.takeByte
  split
  · exact ⟨(Memory.byte_put ..).trans (if_neg h), SMap.get_set_ne h⟩
  · exact ⟨rfl, rfl⟩

theorem Mem.takeByte_same :
    Memory.byte (m.takeByte e src stamp q pa0 n0 pa x).view (vkey e pa) = (if m.keyAt e pa < keyOf src stamp then x else m.byteAt e pa) ∧
      SMap.get ({} : Held) (m.takeByte e src stamp q pa0 n0 pa x).held (vkey e pa) =
        if m.keyAt e pa < keyOf src stamp then { src := src, stamp := stamp } else SMap.get ({} : Held) m.held (vkey e pa) := by
  unfold Mem.takeByte
  split
  · exact ⟨(Memory.byte_put ..).trans (if_pos rfl), SMap.get_set_same⟩
  · exact ⟨rfl, rfl⟩

theorem Mem.takeBytes_outside (h : ∀ i, i < bs.length → vkey e (pa + i) ≠ k) :
    Memory.byte (m.takeBytes e src stamp q pa0 n0 pa bs).view k = Memory.byte m.view k ∧
      SMap.get ({} : Held) (m.takeBytes e src stamp q pa0 n0 pa bs).held k = SMap.get ({} : Held) m.held k := by
  induction bs generalizing m pa with
  | nil => exact ⟨rfl, rfl⟩
  | cons x r ih =>
    have hk : k ≠ vkey e pa := Ne.symm (h 0 (Nat.succ_pos _))
    have hr : ∀ i, i < r.length → vkey e (pa + 1 + i) ≠ k := fun i hi => by
      have := h (i + 1) (by simpa using hi)
      rwa [show pa + 1 + i = pa + (i + 1) by omega]
    rw [Mem.takeBytes_cons]
    exact ⟨(ih hr).1.trans (Mem.takeByte_other hk).1, (ih hr).2.trans (Mem.takeByte_other hk).2⟩

theorem Mem.takeBytes_inside (hb : pa + bs.length ≤ 2 ^ 52) {i : ℕ} (hi : i < bs.length) :
    Memory.byte (m.takeBytes e src stamp q pa0 n0 pa bs).view (vkey e (pa + i)) =
        (if m.keyAt e (pa + i) < keyOf src stamp then bs.getD i 0 else m.byteAt e (pa + i)) ∧
      SMap.get ({} : Held) (m.takeBytes e src stamp q pa0 n0 pa bs).held (vkey e (pa + i)) =
        if m.keyAt e (pa + i) < keyOf src stamp then { src := src, stamp := stamp } else SMap.get ({} : Held) m.held (vkey e (pa + i)) := by
  induction bs generalizing m pa i with
  | nil => exact absurd hi (Nat.not_lt_zero _)
  | cons x r ih =>
    have hlen : pa + 1 + r.length ≤ 2 ^ 52 := by
      rw [List.length_cons] at hb
      omega
    rw [Mem.takeBytes_cons]
    cases i with
    | zero =>
      have hrest : ∀ j, j < r.length → vkey e (pa + 1 + j) ≠ vkey e (pa + 0) := fun j hj h => by
        have := vkey_addr (by omega) (by omega) h
        omega
      exact ⟨(Mem.takeBytes_outside hrest).1.trans Mem.takeByte_same.1, (Mem.takeBytes_outside hrest).2.trans Mem.takeByte_same.2⟩
    | succ i =>
      have hi' : i < r.length := by simpa using hi
      have hne : vkey e (pa + 1 + i) ≠ vkey e pa := fun h => by
        have := vkey_addr (by omega) (by omega) h
        omega
      have hother := m.takeByte_other (src := src) (stamp := stamp) (q := q) (pa0 := pa0) (n0 := n0) (x := x) hne
      have h := ih (m := m.takeByte e src stamp q pa0 n0 pa x) hlen hi'
      rw [Mem.keyAt, Mem.byteAt, hother.1, hother.2] at h
      rw [show pa + (i + 1) = pa + 1 + i by omega]
      exact h
end

/-! ### A write arrives -/

theorem Mem.applyAt_inside (hb : w.pa + w.bytes.length ≤ 2 ^ 52) (h1 : w.pa ≤ a) (h2 : a < w.pa + w.bytes.length) :
    (m.applyAt e w).byteAt e a = (if m.keyAt e a < keyOf w.src w.stamp then w.bytes.getD (a - w.pa) 0 else m.byteAt e a) ∧
      (m.applyAt e w).keyAt e a = if m.keyAt e a < keyOf w.src w.stamp then keyOf w.src w.stamp else m.keyAt e a := by
  obtain ⟨i, rfl⟩ := Nat.exists_eq_add_of_le h1
  have h := Mem.takeBytes_inside (m := m) (e := e) (src := w.src) (stamp := w.stamp) (q := w.poison) (pa0 := w.pa) (n0 := w.bytes.length) hb
    (i := i) (by omega)
  rw [Nat.add_sub_cancel_left]
  refine ⟨h.1, ?_⟩
  refine (congrArg Held.key h.2).trans ?_
  by_cases hk : m.keyAt e (w.pa + i) < keyOf w.src w.stamp
  · rw [if_pos hk, if_pos hk]
    rfl
  · rw [if_neg hk, if_neg hk]
    rfl

theorem Mem.applyAt_apart {b : ℕ} (h : ∀ i, i < w.bytes.length → vkey e (w.pa + i) ≠ vkey d b) :
    (m.applyAt e w).byteAt d b = m.byteAt d b ∧ (m.applyAt e w).keyAt d b = m.keyAt d b := by
  have hout := Mem.takeBytes_outside (m := m) (src := w.src) (stamp := w.stamp) (q := w.poison) (pa0 := w.pa) (n0 := w.bytes.length) h
  exact ⟨hout.1, congrArg Held.key hout.2⟩

theorem Mem.applyAt_outside (hb : w.pa + w.bytes.length ≤ 2 ^ 52) (ha : a < 2 ^ 52) (h : ¬(w.pa ≤ a ∧ a < w.pa + w.bytes.length)) :
    (m.applyAt e w).byteAt e a = m.byteAt e a ∧ (m.applyAt e w).keyAt e a = m.keyAt e a :=
  Mem.applyAt_apart fun i hi hk => h (by
    have := vkey_addr (by omega) ha hk
    omega)

/-- R94, R96: after a write has arrived a die sees its byte exactly where its key is the larger one. -/
theorem Mem.applyAt_byte (hb : w.pa + w.bytes.length ≤ 2 ^ 52) (ha : a < 2 ^ 52) :
    (m.applyAt e w).byteAt e a = (if (w.pa ≤ a ∧ a < w.pa + w.bytes.length) ∧ m.keyAt e a < keyOf w.src w.stamp
      then w.bytes.getD (a - w.pa) 0 else m.byteAt e a) ∧
    (m.applyAt e w).keyAt e a = if (w.pa ≤ a ∧ a < w.pa + w.bytes.length) ∧ m.keyAt e a < keyOf w.src w.stamp
      then keyOf w.src w.stamp else m.keyAt e a := by
  by_cases hin : w.pa ≤ a ∧ a < w.pa + w.bytes.length
  · have h := m.applyAt_inside (e := e) hb hin.1 hin.2
    simpa only [hin, true_and, and_self] using h
  · have h := m.applyAt_outside (e := e) hb ha hin
    simpa only [hin, false_and, if_false] using h

/-- R94, R96: the order in which two writes with different keys arrive makes no difference to a byte. -/
theorem Mem.applyAt_comm (ha : a < 2 ^ 52) (hw : w.pa + w.bytes.length ≤ 2 ^ 52) (hu : u.pa + u.bytes.length ≤ 2 ^ 52)
    (hne : keyOf w.src w.stamp ≠ keyOf u.src u.stamp) :
    ((m.applyAt e w).applyAt e u).byteAt e a = ((m.applyAt e u).applyAt e w).byteAt e a := by
  rw [((m.applyAt e w).applyAt_byte hu ha).1, (m.applyAt_byte hw ha).1, (m.applyAt_byte hw ha).2,
    ((m.applyAt e u).applyAt_byte hw ha).1, (m.applyAt_byte hu ha).1, (m.applyAt_byte hu ha).2]
  by_cases hwin : w.pa ≤ a ∧ a < w.pa + w.bytes.length <;> by_cases huin : u.pa ≤ a ∧ a < u.pa + u.bytes.length
  · simp only [hwin, huin, true_and, and_self]
    by_cases hwk : m.keyAt e a < keyOf w.src w.stamp <;> by_cases huk : m.keyAt e a < keyOf u.src u.stamp <;> simp only [hwk, huk, if_true, if_false]
    · by_cases hlt : keyOf w.src w.stamp < keyOf u.src u.stamp
      · rw [if_pos hlt, if_neg (by omega)]
      · rw [if_neg hlt, if_pos (by omega)]
    · rw [if_neg (by omega)]
    · rw [if_neg (by omega)]
  all_goals simp only [hwin, huin, false_and, true_and, if_false]

/-! ### A die writes (R93) -/

/-- A memory in which a die has counted its next write. -/
def Mem.counted (m : Mem) (d : ℕ) : Mem := { m with clock := SMap.set 0 m.clock (64 * d + d) (m.clk d d + 1) }

/-- The write that an agent of a die makes next. -/
def Mem.issued (m : Mem) (d pa : ℕ) (bs : List Byte) (q : Bool) : Write :=
  { src := d, stamp := m.nextStamp d, pa := pa, bytes := bs, poison := q, todo := (List.range 64).filter fun e => e ≠ d }

theorem Mem.write_plain (h : coherent pa = false) : m.write d pa bs q = { (m.counted d).applyAt d (m.issued d pa bs q) with
    flight := ((m.counted d).applyAt d (m.issued d pa bs q)).flight ++ [m.issued d pa bs q] } := by
  unfold Mem.write
  rw [h]
  rfl

/-- R93: a die reads at once what it writes, where it holds nothing with a larger key. -/
theorem Mem.read_write (h : coherent pa = false) (hb : pa + bs.length ≤ 2 ^ 52) (hc : ∀ a, pa ≤ a → a < pa + bs.length → coherent a = false)
    (hk : ∀ a, pa ≤ a → a < pa + bs.length → m.keyAt d a < keyOf d (m.nextStamp d)) : (m.write d pa bs q).read d pa bs.length = bs := by
  rw [m.write_plain h]
  refine List.ext_getElem? fun i => ?_
  by_cases hi : i < bs.length
  · have hin := (m.counted d).applyAt_inside (e := d) (w := m.issued d pa bs q) (a := pa + i) hb (Nat.le_add_right ..) (Nat.add_lt_add_left hi _)
    have hkey : (m.counted d).keyAt d (pa + i) < keyOf (m.issued d pa bs q).src (m.issued d pa bs q).stamp :=
      hk _ (Nat.le_add_right ..) (Nat.add_lt_add_left hi _)
    have hbyte := hin.1.trans (if_pos hkey)
    have hv : vkey d pa + i = vkey d (pa + i) := by
      rw [vkey_plain h, vkey_plain (hc _ (Nat.le_add_right ..) (Nat.add_lt_add_left hi _)), Nat.add_assoc]
    refine (Memory.getElem_gets _ _ _ _ hi).trans ?_
    rw [hv, List.getElem?_eq_getElem hi, ← List.getD_eq_getElem bs 0 hi]
    refine congrArg some (hbyte.trans ?_)
    show bs.getD (pa + i - pa) 0 = _
    rw [Nat.add_sub_cancel_left]
  · exact (List.getElem?_eq_none (le_of_eq_of_le (Memory.length_gets ..) (not_lt.mp hi))).trans (List.getElem?_eq_none (not_lt.mp hi)).symm

/-- R93: no other die's view, and no other byte, changes before a write arrives. -/
theorem Mem.byteAt_write (h : coherent pa = false) (hb : pa + bs.length ≤ 2 ^ 52) (hc : ∀ a, pa ≤ a → a < pa + bs.length → coherent a = false)
    (ha : a < 2 ^ 52) (hout : e ≠ d ∨ a < pa ∨ pa + bs.length ≤ a) : (m.write d pa bs q).byteAt e a = m.byteAt e a := by
  rw [m.write_plain h]
  refine ((m.counted d).applyAt_apart (w := m.issued d pa bs q) fun i hi hk => ?_).1
  have hi : i < bs.length := hi
  obtain rfl : pa + i = a := vkey_addr (by omega) ha hk
  have hdie : d = e := vkey_die (hc (pa + i) (by omega) (by omega)) hk
  omega

/-! ### Scratchpads (R84, R91, R93, R96) -/

/-- The scratchpads of a memory are those of another. -/
def Mem.SameSpad (m m' : Mem) : Prop := m'.spad = m.spad ∧ m'.spadHeld = m.spadHeld ∧ m'.spadPoison = m.spadPoison

theorem Mem.SameSpad.refl (m : Mem) : m.SameSpad m := ⟨rfl, rfl, rfl⟩

theorem Mem.SameSpad.trans {x : Mem} (h : m.SameSpad m') (h' : m'.SameSpad x) : m.SameSpad x :=
  ⟨h'.1.trans h.1, h'.2.1.trans h.2.1, h'.2.2.trans h.2.2⟩

theorem Mem.SameSpad.foldl {β : Type} {f : Mem → β → Mem} (hf : ∀ (x : Mem) b, x.SameSpad (f x b)) (l : List β) (m : Mem) : m.SameSpad (l.foldl f m) := by
  induction l generalizing m with
  | nil => exact .refl m
  | cons b r ih => exact (hf m b).trans (ih _)

theorem Mem.takeByte_sameSpad {pa0 n0 : ℕ} {x : Byte} : m.SameSpad (m.takeByte e src stamp q pa0 n0 pa x) := by
  unfold Mem.takeByte
  split
  · exact ⟨rfl, rfl, rfl⟩
  · exact .refl m

theorem Mem.takeBytes_sameSpad {pa0 n0 : ℕ} : m.SameSpad (m.takeBytes e src stamp q pa0 n0 pa bs) := by
  induction bs generalizing m pa with
  | nil => exact .refl m
  | cons x r ih =>
    rw [Mem.takeBytes_cons]
    exact Mem.takeByte_sameSpad.trans ih

theorem Mem.applyAt_sameSpad (m : Mem) (e : ℕ) (w : Write) : m.SameSpad (m.applyAt e w) :=
  m.takeBytes_sameSpad (e := e) (src := w.src) (stamp := w.stamp) (q := w.poison) (pa0 := w.pa) (n0 := w.bytes.length)

theorem Mem.arrive_sameSpad (m : Mem) (e : ℕ) (w : Write) : m.SameSpad (m.arrive e w) := m.applyAt_sameSpad e w

theorem Mem.catchUp_sameSpad (m : Mem) (e : ℕ) (t : SMap ℕ) : m.SameSpad (m.catchUp e t) := by
  refine Mem.SameSpad.foldl (fun (x : Mem) (p : Write × List ℕ) => Mem.SameSpad.foldl (fun (y : Mem) d => ?_) p.2 x) _ m
  split
  · exact y.arrive_sameSpad d p.1
  · exact .refl y

theorem Mem.acquire_sameSpad (m : Mem) (e d pa n : ℕ) : m.SameSpad (m.acquire e d pa n) :=
  .foldl (fun x t => x.catchUp_sameSpad e t) _ m

theorem Mem.write_sameSpad (m : Mem) (d pa : ℕ) (bs : List Byte) (q : Bool) : m.SameSpad (m.write d pa bs q) := by
  have hfirst : ∀ x : Mem, m.SameSpad x → m.SameSpad ((x.counted d).applyAt d (x.issued d pa bs q)) := fun x hx =>
    hx.trans ((x.counted d).applyAt_sameSpad d _)
  cases h : coherent pa with
  | false =>
    rw [m.write_plain h]
    exact hfirst m (.refl m)
  | true =>
    unfold Mem.write
    rw [h]
    exact hfirst (m.acquire d d pa bs.length) (m.acquire_sameSpad d d pa bs.length)

theorem Mem.pass_sameSpad (m : Mem) (d : ℕ) : m.SameSpad (m.pass d) := m.write_sameSpad d 0 [] false

theorem Mem.get_stampOf (m : Mem) (d : ℕ) (h : k < 64) : SMap.get 0 (m.stampOf d) k = m.clk d k :=
  (SMap.get_filterMap_range (fun s => m.clk d s) (List.range 64) k).trans (if_pos (List.mem_range.mpr h))

theorem Mem.pass_clk (m : Mem) (h : d < 64) : (m.pass d).clk d d = m.clk d d + 1 := by
  have h0 : coherent 0 = false := by decide
  have hstamp : SMap.get 0 (m.nextStamp d) d = m.clk d d + 1 := ((m.counted d).get_stampOf d h).trans (SMap.get_set_same (m := m.clock) (v := m.clk d d + 1))
  unfold Mem.pass
  rw [m.write_plain h0]
  exact SMap.get_set_same.trans hstamp

theorem get_foldl_set (l : List ℕ) (x : SMap Held) (h : Held) :
    SMap.get ({} : Held) (l.foldl (fun p a => SMap.set {} p a h) x) k = if k ∈ l then h else SMap.get {} x k := by
  induction l generalizing x with
  | nil => rfl
  | cons a r ih =>
    rw [List.foldl_cons, ih, SMap.get_set]
    by_cases hr : k ∈ r
    · simp [hr]
    · by_cases ha : k = a
      · simp [ha]
      · simp [hr, ha]

theorem mem_rangeFrom : a ∈ rangeFrom k n ↔ k ≤ a ∧ a < k + n := by
  simp only [rangeFrom, List.mem_map, List.mem_range]
  constructor
  · rintro ⟨i, hi, rfl⟩
    omega
  · rintro ⟨h1, h2⟩
    exact ⟨a - k, by omega, by omega⟩

theorem Mem.spadPut_byte (m : Mem) (h : Held) (k : ℕ) (bs : List Byte) (q : Bool) (a : ℕ) :
    Memory.byte (m.spadPut h k bs q).spad a = if k ≤ a ∧ a < k + bs.length then bs.getD (a - k) 0 else Memory.byte m.spad a :=
  Memory.byte_puts ..

theorem Mem.spadPut_held (m : Mem) (h : Held) (k : ℕ) (bs : List Byte) (q : Bool) (a : ℕ) :
    SMap.get ({} : Held) (m.spadPut h k bs q).spadHeld a = if k ≤ a ∧ a < k + bs.length then h else SMap.get {} m.spadHeld a := by
  refine (get_foldl_set ..).trans ?_
  simp only [mem_rangeFrom]

theorem Mem.spadStore_home (m : Mem) (k : ℕ) (bs : List Byte) (q : Bool) :
    m.spadStore (spadDie k) k bs q = (m.pass (spadDie k)).spadPut ((m.pass (spadDie k)).last (spadDie k)) k bs q := by
  unfold Mem.spadStore
  rw [if_pos rfl]
  rfl

/-- R93, R96: one byte of a scratchpad that another die writes is taken where that die's key is the larger. -/
theorem Mem.spadStore_other {x : Byte} (hd : d ≠ spadDie k) : Memory.byte (m.spadStore d k [x] q).spad k =
    if (SMap.get ({} : Held) m.spadHeld k).key < ((m.pass d).last d).key then x else Memory.byte m.spad k := by
  obtain ⟨m1, h1⟩ : ∃ m1, m1 = (m.pass d).catchUp (spadDie k) ((m.pass d).last d).stamp := ⟨_, rfl⟩
  have hsame : m.SameSpad m1 := h1 ▸ (m.pass_sameSpad d).trans (Mem.catchUp_sameSpad ..)
  have htakes : m1.spadTakes ((m.pass d).last d) k = decide ((SMap.get ({} : Held) m.spadHeld k).key < ((m.pass d).last d).key) :=
    congrArg (fun p => decide ((SMap.get ({} : Held) p k).key < ((m.pass d).last d).key)) hsame.2.1
  have hrange : rangeFrom k [x].length = [k] := rfl
  unfold Mem.spadStore
  rw [if_neg hd]
  simp only [← h1, hrange, List.all_cons, List.all_nil, Bool.and_true, htakes, decide_eq_true_eq]
  by_cases hk : (SMap.get ({} : Held) m.spadHeld k).key < ((m.pass d).last d).key
  · rw [if_pos hk, if_pos hk, Mem.spadPut_byte, if_pos ⟨le_rfl, Nat.lt_succ_self k⟩, Nat.sub_self]
    rfl
  · rw [if_neg hk, if_neg hk]
    simp only [List.zipIdx_cons, List.zipIdx_nil, List.foldl_cons, List.foldl_nil, Nat.add_zero, htakes, hk, decide_false,
      Bool.false_eq_true, if_false]
    rw [hsame.1]
end

end Sys2Proof.Machine
end

section
/-! PROOFS. What a die sees of memory (R93 to R96, R100). -/

namespace Sys2Proof.Machine

/-- Settles O42: the laws of a write, of its arrival and of a scratchpad's bytes. -/
theorem causalMemory : Obligations.CausalMemory := by
  unfold Obligations.CausalMemory
  intro m d pa bs q hd hb
  refine ⟨fun hpa hc => ⟨fun hk => Mem.read_write hpa hb hc hk, fun e a he ha hout => Mem.byteAt_write hpa hb hc ha hout⟩, fun e he hne => ?_,
    fun e a ha => congrArg (Memory.byte m.view) (vkey_coherent ha), ?_, fun k x hk _ h hh => ?_,
    fun e w a he hw h1 h2 => (Mem.applyAt_inside hw h1 h2).1, fun e w u a he ha hw hu hne => Mem.applyAt_comm ha hw hu hne⟩
  · refine ⟨_, List.mem_append_right _ (List.mem_singleton_self _), rfl, rfl, rfl, ?_⟩
    exact List.mem_filter.mpr ⟨List.mem_range.mpr he, decide_eq_true hne⟩
  · rintro k m1 rfl rfl
    rw [Mem.spadStore_home]
    have hsame := m.pass_sameSpad (spadDie k)
    refine ⟨m.pass_clk hd, fun i hi => ⟨?_, ?_⟩, fun a ha => ⟨?_, ?_⟩⟩
    · rw [Mem.spadPut_byte, if_pos ⟨Nat.le_add_right .., Nat.add_lt_add_left hi _⟩, Nat.add_sub_cancel_left]
    · exact (Mem.spadPut_held ..).trans (if_pos ⟨Nat.le_add_right .., Nat.add_lt_add_left hi _⟩)
    · rw [Mem.spadPut_byte, if_neg (by omega), hsame.1]
    · rw [Mem.spadPut_held, if_neg (by omega), hsame.2.1]
  · subst hh
    exact Mem.spadStore_other hk

end Sys2Proof.Machine
end

section
/-! PROOFS. What an access of host memory first brings in is not its own die's alone: a write that it follows reaches the home of
its line before it reaches the accessing die (R69, R93, R100). -/

namespace Sys2Proof.Machine

/-- Two writes of die 1, one to HBM whose home is die 5 and one to host memory after it: both are on their way to the other dies. -/
def Mem.withTwoWrites (m : Mem) : Mem := (m.write 1 (5 * 2 ^ 36) [7] false).write 1 (2 ^ 49) [9] false

/-- Refutes O52: a read of host memory by die 0 follows die 1's write of HBM, which its home die 5 then applies too. -/
theorem not_engineFrame : ¬ Obligations.EngineFrame := by
  unfold Obligations.EngineFrame
  intro h
  obtain ⟨m, hm⟩ : ∃ m : Mach, m = { mem := ({} : Mem).withTwoWrites } := ⟨_, rfl⟩
  obtain ⟨-, -, hother, -⟩ := h.1 m (m.settleOne (some [(2 ^ 49, 1)])) ⟨[some [(2 ^ 49, 1)]], rfl⟩
  subst hm
  have hkeep := hother 5 (5 * 2 ^ 36) (by decide) (by decide) (by decide) (by decide) (by decide +kernel) (by decide)
  exact absurd hkeep (by decide +kernel)

/-- A running continuation of die 0 whose first GiB is mapped to host memory, with die 1's two writes on their way. A report would go
back to a bundle that still waits. -/
def hostStoreState : State :=
  { m := { cur := placedCont none, tasks := [placedTask]
           mem := ({ view := Memory.puts (Memory.puts [] 0x100000 (leBytes 8 0x200001)) 0x200000 (leBytes 8 (2 ^ 49 + 0x1F)) } : Mem).withTwoWrites }
    snap := some { cur := { timid := true } } }

theorem hostStoreState_undone {t : State} (h : Undone hostStoreState t) : t = hostStoreState.haltBundle := by
  have hreport : hostStoreState.reported = none := by decide +kernel
  have hhold : hostStoreState.holdReport = hostStoreState.haltBundle := rfl
  rcases h with rfl | rfl | ⟨f, slot, w, rfl⟩ | ⟨f, n, slot, w, rfl⟩ | ⟨x, rfl⟩
  · rfl
  · rfl
  · rw [State.takeTrap, hreport, hhold]
  · rw [State.takeTxTrap, hreport, hhold]
  · rw [State.takeLate, hreport, hhold]

/-- The next state of an outcome, where it has one. -/
def nextOf : Host.Outcome State Fault Refusal → Option State
  | .next t => some t
  | _ => none

/-- Refutes O51: a store to host memory first brings in what the bytes there follow, and the home of a line among it, die 5, applies it
as well as the storing die. -/
theorem not_accessFrame : ¬ Obligations.AccessFrame := by
  unfold Obligations.AccessFrame
  intro h
  obtain ⟨i, hi⟩ : ∃ i : Instr, i = .stb ⟨0, false⟩ 0 0 0 := ⟨_, rfl⟩
  have hseen : (nextOf (exec i hostStoreState)).map (fun t => t.m.mem.byteAt 5 (5 * 2 ^ 36)) = some 7 := by
    subst hi
    decide +kernel
  have hplace : hostStoreState.m.resolveCont (ofI ((0 : Word).toInt + (0 : BitVec 11).toInt * (1 : ℕ))) 1 .write = .ok [(2 ^ 49, 1)] := by decide +kernel
  cases hexec : exec i hostStoreState with
  | next t =>
    have ht : t.m.mem.byteAt 5 (5 * 2 ^ 36) = 7 := by
      rw [hexec] at hseen
      exact Option.some.inj hseen
    rcases h hostStoreState t ⟨0, false⟩ 0 0 0 i _ _ ⟨rfl, fun _ hc => nomatch hc⟩ rfl hexec rfl rfl with hu | ⟨-, hstore⟩
    · rw [hostStoreState_undone hu] at ht
      exact absurd ht (by decide +kernel)
    · obtain ⟨-, hvirt, -⟩ := hstore 1 true 0 0 hostStoreState.m hostStoreState.m _ (by simp [hi]) rfl rfl rfl
      obtain ⟨-, -, -, hspares⟩ := (hvirt rfl).1
      rcases hspares _ hplace (by decide) (by decide +kernel) 5 (5 * 2 ^ 36) (by decide) (by decide) (by decide) with hkept | ⟨-, hown, -⟩
      · rw [ht] at hkept
        exact absurd hkept (by decide +kernel)
      · exact absurd hown (by decide)
  | fault f => rw [hexec] at hseen; cases hseen
  | refused r => rw [hexec] at hseen; cases hseen

end Sys2Proof.Machine
end

section
/-! SUPPORT. The frame of an instruction: how its operands and its end fit into what it leaves alone (R65, R86, R123, R125). -/

namespace Sys2Proof.Machine

section
variable {m m' m0 m1 m2 : Mach} {c d : Cont} {f : GF} {v : Word} {l l' : List RegName}

/-! ### What an access brings in, and the streams -/

/-- A memory after the writes of the drains in an array. -/
def drainMem (a : List MCmd) (x : Mem) : Mem :=
  a.foldl (fun (x : Mem) (k : MCmd) => k.writes.foldl (fun (x : Mem) (w : SpadWrite) => x.spadWrite w.key w.bytes w.poison) x) x

theorem Mach.landDrains_eq (m : Mach) : m.landDrains m.cur.id = { m with mem := drainMem m.cur.mx.array m.mem, cur := { m.cur with
    mx := { m.cur.mx with array := m.cur.mx.array.map fun (k : MCmd) => { k with writes := [] } } } } := by
  unfold Mach.landDrains
  rw [m.cont?_cur]
  exact Mach.setCont_cur rfl

/-- A machine whose issuing continuation has stepped its streams, and is to follow some past. -/
def Mach.withStreams (m : Mach) (st : Vector (Option StreamRec) 8) (pa : SMap ℕ) : Mach := m.withCur { m.cur with streams := st, past := pa }

theorem Mach.settleOne_withStreams (m : Mach) (st : Vector (Option StreamRec) 8) (pa : SMap ℕ) (o : Option (List (ℕ × ℕ))) :
    (m.withStreams st pa).settleOne o = (m.settleOne o).withStreams st pa := by
  cases o with
  | none =>
    show (m.withStreams st pa).landDrains (m.withStreams st pa).cur.id = (m.landDrains m.cur.id).withStreams st pa
    rw [Mach.landDrains_eq, m.landDrains_eq]
    rfl
  | some ps => rfl

theorem Mach.settlesTo.of_withStreams {st : Vector (Option StreamRec) 8} {pa : SMap ℕ} (h : (m.withStreams st pa).settlesTo m') :
    ∃ m0, m.settlesTo m0 ∧ m' = m0.withStreams st pa := by
  obtain ⟨l, rfl⟩ := h
  refine ⟨l.foldl Mach.settleOne m, ⟨l, rfl⟩, ?_⟩
  induction l generalizing m with
  | nil => rfl
  | cons o l ih => rw [List.foldl_cons, Mach.settleOne_withStreams, ih, List.foldl_cons]

/-- A pop steps a stream that is read. -/
theorem popStream_steps {k : ℕ} (h : popStream k m = .ok (v, m')) : ∃ r, vget m.cur.streams k none = some r ∧ r.out = false ∧
    vget m'.cur.streams k none = vget (vset m.cur.streams k (some r.stepIdx)) k none := by
  unfold popStream at h
  cases hr : vget m.cur.streams k none with
  | none => simp only [act_bind, act_getC, hr, act_raise] at h; cases h
  | some r =>
    refine ⟨r, rfl, ?_⟩
    simp only [act_bind, act_getC, hr] at h
    rw [act_ite, act_raise] at h
    by_cases hout : r.out = true
    · rw [if_pos hout] at h; cases h
    · refine ⟨by simpa using hout, ?_⟩
      rw [if_neg hout, act_ite, act_raise] at h
      split at h
      · cases h
      · cases hvirt : r.virt with
        | true =>
          simp only [hvirt, if_true, act_bind] at h
          cases hread : readV (ofI r.addr) (2 ^ r.lg.toNat) m with
          | error e => rw [hread] at h; cases h
          | ok p =>
            obtain ⟨⟨bytes, mark⟩, m0⟩ := p
            obtain ⟨x, mx, rfl⟩ := (readV_settles hread).eq
            rw [hread] at h
            cases mark with
            | some g => cases h
            | none => cases h; rfl
        | false =>
          by_cases hw : m.cur.inWindow r.addr (2 ^ r.lg.toNat) = true
          · simp only [hvirt, Bool.false_eq_true, if_false, act_bind, checkWin_eq, hw, if_true, act_modM, act_getM] at h
            obtain ⟨x, mx, hover⟩ := m.landOver_cur r.addr.toNat (2 ^ r.lg.toNat)
            rw [hover] at h
            generalize hm0 : ({ m with mem := x, cur := { m.cur with mx := mx } } : Mach) = m0 at h
            have hst : m0.cur.streams = m.cur.streams := hm0 ▸ rfl
            cases hmark : m0.winMark m0.cur r.addr.toNat (2 ^ r.lg.toNat) with
            | some g => rw [hmark] at h; cases h
            | none => rw [hmark] at h; cases h; rw [← hst]
          · simp only [hvirt, Bool.false_eq_true, if_false, act_bind, checkWin_eq, hw] at h
            cases h


/-! ### Operands read in their order -/

/-- A machine after operands have been read: what they follow has come in, and no other streams than those their fields name have been
stepped, none of them one that is written. -/
def Mach.popped (m m' : Mach) (l : List GF) : Prop := ∃ m0 st pa, m.settlesTo m0 ∧ m' = m0.withStreams st pa ∧
  (∀ j, (∀ f ∈ l, f.toNat ≠ 24 + j) → vget st j none = vget m.cur.streams j none) ∧
  ∀ j, vget st j none = vget m.cur.streams j none ∨ ∃ r, vget m.cur.streams j none = some r ∧ r.out = false ∧
    ∀ r', vget st j none = some r' → r'.out = false

theorem Mach.popped.refl (m : Mach) : m.popped m [] :=
  ⟨m, m.cur.streams, m.cur.past, .refl m, rfl, fun _ _ => rfl, fun _ => .inl rfl⟩

theorem Mach.popped.trans {l1 l2 : List GF} (h : m.popped m1 l1) (h' : m1.popped m2 l2) : m.popped m2 (l1 ++ l2) := by
  obtain ⟨m0, st, pa, hs, rfl, hst, hout⟩ := h
  obtain ⟨m3, st', pa', hs', rfl, hst', hout'⟩ := h'
  obtain ⟨m4, hm4, rfl⟩ := hs'.of_withStreams
  refine ⟨m4, st', pa', hs.trans hm4, rfl, fun j hj => ?_, fun j => ?_⟩
  · exact (hst' j fun f hf => hj f (List.mem_append_right _ hf)).trans (hst j fun f hf => hj f (List.mem_append_left _ hf))
  · rcases hout' j with h2 | ⟨r, hr, hro, hall⟩
    · have h2 : vget st' j none = vget st j none := h2
      rw [h2]
      exact hout j
    · have hr : vget st j none = some r := hr
      rcases hout j with h1 | ⟨r0, hr0, hro0, -⟩
      · exact .inr ⟨r, h1 ▸ hr, hro, hall⟩
      · exact .inr ⟨r0, hr0, hro0, hall⟩

theorem stepIdx_out (r : StreamRec) : r.stepIdx.out = r.out := rfl

theorem readG_popped (h : readG f m = .ok (v, m')) : m.popped m' [f] := by
  obtain ⟨m0, st, pa, hs, rfl, hst⟩ := readG_settles h
  refine ⟨m0, st, pa, hs, rfl, fun j hj => hst j (hj f (List.mem_singleton_self f)), fun j => ?_⟩
  by_cases hj : f.toNat = 24 + j
  · rw [readG_stream hj] at h
    obtain ⟨r, hr, hout, hstep⟩ := popStream_steps h
    have hstep : vget st j none = vget (vset m.cur.streams j (some r.stepIdx)) j none := hstep
    refine .inr ⟨r, hr, hout, fun r' hr' => ?_⟩
    rw [hstep, vget_vset_same (by have := f.isLt; omega)] at hr'
    cases hr'
    exact hout
  · exact .inl (hst j hj)

/-- A stream that is written stands as it did before the reads. -/
theorem Mach.popped.out_stream {fs : List GF} (h : m.popped m' fs) {j : ℕ} {r : StreamRec} (hr : vget m'.cur.streams j none = some r) (ho : r.out = true) :
    vget m.cur.streams j none = some r := by
  obtain ⟨m0, st, pa, hs, rfl, -, hout⟩ := h
  have hr : vget st j none = some r := hr
  rcases hout j with h1 | ⟨-, -, -, hall⟩
  · exact h1 ▸ hr
  · exact absurd (ho.symm.trans (hall r hr)) Bool.noConfusion

/-! ### The end of an instruction -/

/-- R23, R125: with no other continuation waiting for a word, the end of an instruction changes nothing of the architecture. -/
theorem complete_arch (s : State) (hst : m.cur.state = 2) (hq : ∀ c ∈ m.conts, c.state ≠ 3) : (s.complete m).m.arch = m.arch := by
  have hslot : ∃ pa, m.slotPast = m.withCur { m.cur with past := pa } := by
    unfold Mach.slotPast
    cases hk : m.cur.cursor with
    | none => exact ⟨m.cur.past, rfl⟩
    | some k =>
      by_cases h2 : k.slots.head? = some 2
      · exact ⟨_, if_pos h2⟩
      · exact ⟨m.cur.past, if_neg h2⟩
  obtain ⟨pa, hpa⟩ := hslot
  have hwake : (m.slotPast.conts.any fun c => c.state == 3) = false := by
    rw [hpa]
    exact List.any_eq_false.mpr fun c hc => by simpa using hq c hc
  unfold State.complete
  dsimp only
  rw [hwake, if_neg Bool.false_ne_true]
  refine (advance_arch _ ?_).trans ?_
  · show m.slotPast.cur.state = 2
    rw [hpa]
    exact hst
  · show m.slotPast.arch = m.arch
    rw [hpa]
    rfl

/-- What an instruction of a slot can come to, as far as the architecture goes: no effect, a guard that fails, or its action. -/
theorem runSlot_arch {i : Instr} {x : Slot} {g : Option Guard} {a : Act Unit} {s t : State} (h : runSlot i x g a s = .next t) (hq : s.Quiet)
    (ha : ∀ m, a s.m = .ok ((), m) → m.cur.state = s.m.cur.state ∧ m.conts = s.m.conts) :
    Undone s t ∨ t.m.arch = s.m.arch ∨ ∃ m, a s.m = .ok ((), m) ∧ t.m.arch = m.arch := by
  obtain ⟨rfl, -⟩ | hu | ⟨m, hm, rfl⟩ := runSlot_cases h
  · exact .inr (.inl (advance_arch s hq.1))
  · exact .inl hu
  · obtain ⟨hst, hconts⟩ := ha m hm
    exact .inr (.inr ⟨m, hm, complete_arch s (hst.trans hq.1) (hconts ▸ hq.2)⟩)

/-! ### Registers that keep their values -/

theorem Cont.keeps.refl (c : Cont) (l : List RegName) : c.keeps c l :=
  ⟨fun _ _ _ => ⟨rfl, rfl⟩, fun _ _ _ => rfl, fun _ _ _ => rfl, fun _ _ _ => rfl⟩

theorem Cont.keeps.trans {c' : Cont} (h : c.keeps d l) (h' : d.keeps c' l) : c.keeps c' l :=
  ⟨fun k hk hl => ⟨(h'.1 k hk hl).1.trans (h.1 k hk hl).1, (h'.1 k hk hl).2.trans (h.1 k hk hl).2⟩,
    fun k hk hl => (h'.2.1 k hk hl).trans (h.2.1 k hk hl), fun k hk hl => (h'.2.2.1 k hk hl).trans (h.2.2.1 k hk hl),
    fun k hk hl => (h'.2.2.2 k hk hl).trans (h.2.2.2 k hk hl)⟩

theorem Cont.keeps.mono (h : c.keeps d l) (hl : ∀ x ∈ l, x ∈ l') : c.keeps d l' :=
  ⟨fun k hk hx => h.1 k hk fun hn => hx (hl _ hn), fun k hk hx => h.2.1 k hk fun hn => hx (hl _ hn),
    fun k hk hx => h.2.2.1 k hk fun hn => hx (hl _ hn), fun k hk hx => h.2.2.2 k hk fun hn => hx (hl _ hn)⟩

/-- The registers are part of the architecture. -/
theorem Cont.keeps.of_arch {c' : Cont} (h : c.keeps d l) (ha : c'.arch = d.arch) : c.keeps c' l := by
  have hg : c'.g = d.g := (congrArg Cont.g ha :)
  have hm : c'.gPoison = d.gPoison := (congrArg Cont.gPoison ha :)
  have hp : c'.p = d.p := (congrArg Cont.p ha :)
  have hb : c'.b = d.b := (congrArg Cont.b ha :)
  have hlc : c'.lc = d.lc := (congrArg Cont.lc ha :)
  unfold Cont.keeps at h ⊢
  simp only [Cont.pred, hg, hm, hp, hb, hlc] at h ⊢
  exact h

theorem Cont.keeps_setG (c : Cont) (f : GF) (v : Word) (hl : RegName.g f.toNat ∈ l) : c.keeps (c.setG f v) l := by
  unfold Cont.setG
  split
  · exact .refl c l
  · refine ⟨fun k _ hk => ?_, fun _ _ _ => rfl, fun _ _ _ => rfl, fun _ _ _ => rfl⟩
    have hne : k ≠ f.toNat := fun h => hk (h ▸ hl)
    exact ⟨vget_vset_ne hne, vget_vset_ne hne⟩

theorem Cont.keeps_setBranch (c : Cont) (n : BitVec 3) (v : BitVec 48) (hl : RegName.b n.toNat ∈ l) : c.keeps (c.setBranch n v) l :=
  ⟨fun _ _ _ => ⟨rfl, rfl⟩, fun _ _ _ => rfl, fun _ _ hk => vget_vset_ne fun h => hk (h ▸ hl), fun _ _ _ => rfl⟩

theorem Cont.keeps_setLoop (c : Cont) (x : BitVec 2) (v : W32) (hl : RegName.lc x.toNat ∈ l) : c.keeps (c.setLoop x v) l :=
  ⟨fun _ _ _ => ⟨rfl, rfl⟩, fun _ _ _ => rfl, fun _ _ _ => rfl, fun _ _ hk => vget_vset_ne fun h => hk (h ▸ hl)⟩
end

end Sys2Proof.Machine
end

section
/-! PROOFS. The frame of the branch, loop and format instructions (R147 to R151). -/

namespace Sys2Proof.Machine

section
variable {m m' m1 : Mach} {c d : Cont} {l : List RegName} {s : State} {i : Instr}

/-- What a branch, loop or format instruction may move of a continuation: the registers of a list, fmt, the streams its operands name,
and what the end of an instruction moves. -/
structure Cont.Moves (c d : Cont) (l : List RegName) : Prop where
  keeps : c.keeps d l
  rest : { d.arch with g := c.g, gPoison := c.gPoison, b := c.b, lc := c.lc, streams := c.streams, fmt := c.fmt, fmtOld := c.fmtOld
                       mx := c.mx } = c.arch

/-- A machine after a branch, loop or format instruction has read its operands and moved its continuation. -/
def Mach.steers (m m' : Mach) (l : List RegName) (fmtToo : Bool) : Prop := ∃ m0 d, m.settlesTo m0 ∧ m' = m0.withCur d ∧ m.cur.Moves d l ∧
  d.mx = m0.cur.mx ∧ (fmtToo = false → d.fmt = m.cur.fmt)

theorem Mach.steers.refl (m : Mach) (l : List RegName) : m.steers m l false :=
  ⟨m, m.cur, .refl m, rfl, ⟨.refl _ _, rfl⟩, rfl, fun _ => rfl⟩

theorem Mach.popped.steers {fs : List GF} (h : m.popped m' fs) : m.steers m' l false := by
  obtain ⟨m0, st, pa, hs, rfl, -⟩ := h
  refine ⟨m0, _, hs, rfl, ?_, rfl, ?_⟩
  · obtain ⟨x, mx, rfl⟩ := hs.eq
    exact ⟨⟨fun _ _ _ => ⟨rfl, rfl⟩, fun _ _ _ => rfl, fun _ _ _ => rfl, fun _ _ _ => rfl⟩, rfl⟩
  · obtain ⟨x, mx, rfl⟩ := hs.eq
    exact fun _ => rfl

/-- One more move of a steered continuation. -/
theorem Mach.steers.then {q q' : Bool} (h : m.steers m' l q) (hd : m'.cur.Moves d l) (hmx : d.mx = m'.cur.mx)
    (hf : q' = false → q = false ∧ d.fmt = m'.cur.fmt) : m.steers (m'.withCur d) l q' := by
  obtain ⟨m0, e, hs, rfl, he, hemx, hef⟩ := h
  refine ⟨m0, d, hs, rfl, ⟨he.keeps.trans hd.keeps, ?_⟩, hmx.trans hemx, fun hq => (hf hq).2.trans (hef (hf hq).1)⟩
  have hde : { d.arch with g := e.g, gPoison := e.gPoison, b := e.b, lc := e.lc, streams := e.streams, fmt := e.fmt, fmtOld := e.fmtOld
                           mx := e.mx } = e.arch := hd.rest
  rw [← he.rest, ← hde]

theorem Mach.steers.jumpTo {q : Bool} (h : m.steers m' l q) (t : BitVec 48) : m.steers (m'.jumpTo t) l q :=
  h.then ⟨⟨fun _ _ _ => ⟨rfl, rfl⟩, fun _ _ _ => rfl, fun _ _ _ => rfl, fun _ _ _ => rfl⟩, rfl⟩ rfl fun hq => ⟨hq, rfl⟩

theorem Mach.steers.setBranch {q : Bool} (h : m.steers m' l q) (n : BitVec 3) (v : BitVec 48) (hl : RegName.b n.toNat ∈ l) :
    m.steers (m'.withCur (m'.cur.setBranch n v)) l q :=
  h.then ⟨Cont.keeps_setBranch _ n v hl, rfl⟩ rfl fun hq => ⟨hq, rfl⟩

theorem Mach.steers.setLoop {q : Bool} (h : m.steers m' l q) (x : BitVec 2) (v : W32) (hl : RegName.lc x.toNat ∈ l) :
    m.steers (m'.withCur (m'.cur.setLoop x v)) l q :=
  h.then ⟨Cont.keeps_setLoop _ x v hl, rfl⟩ rfl fun hq => ⟨hq, rfl⟩

theorem Mach.steers.fmtPut {q : Bool} (h : m.steers m' l q) (v : W32) : m.steers (m'.withCur (m'.fmtPut v)) l true :=
  h.then ⟨⟨fun _ _ _ => ⟨rfl, rfl⟩, fun _ _ _ => rfl, fun _ _ _ => rfl, fun _ _ _ => rfl⟩, rfl⟩ rfl fun hq => nomatch hq

/-! ### What each action of theirs leaves -/

/-- A write of a general register. -/
theorem writeG_plain {f : GF} {v : Word} {r : Unit × Mach} (h : writeG f v m = .ok r) (hf : f.toNat < 24) :
    r.2 = m.withCur (m.cur.setG f v) := by
  unfold writeG at h
  by_cases h0 : f = 0
  · rw [if_pos h0] at h
    cases h
    rw [Cont.setG, if_pos h0]
    rfl
  · rw [if_neg h0, if_pos hf] at h
    simp only [act_bind, act_getC] at h
    rw [act_ite] at h
    split at h
    · cases h
    · cases h
      rw [Cont.setG_of_ne v h0]
      rfl

/-- A transfer that succeeds goes to its target. -/
theorem transfer_jumps {t : BitVec 48} {g : Bool} (h : transfer t g m = .ok ((), m')) : m' = m.jumpTo t := by
  unfold transfer at h
  simp only [act_bind, act_getM] at h
  rw [act_ite] at h
  split at h
  · cases h
  · cases hb : m.fetchBytes m.cur t.toNat 4 with
    | wait => rw [hb] at h; cases h
    | fail f => rw [hb] at h; cases h; rfl
    | ok b =>
      rw [hb] at h
      dsimp only at h
      rw [act_ite] at h
      split at h
      · cases h
      · cases h; rfl

theorem loopSetup_steers {b : BitVec 3} {x : BitVec 2} {n : W32} (hs : m.steers m1 l false) (hl : RegName.lc x.toNat ∈ l)
    (h : loopSetup b x n m1 = .ok ((), m')) : m.steers m' l false := by
  unfold loopSetup at h
  simp only [act_bind, setLc_eq, act_getC] at h
  rw [act_ite] at h
  split at h
  · rw [transfer_jumps h]
    exact (hs.setLoop x n hl).jumpTo _
  · cases h
    exact hs.setLoop x n hl

/-- What a steered continuation keeps, read off the architecture it is part of. -/
theorem Mach.steers.frame {n : Mach} {q : Bool} (h : m.steers m' l q) (ha : n.arch = m'.arch) : ∃ m0, m.settlesTo m0 ∧
    (m.cur.keeps n.cur l ∧ n.mem = m0.mem ∧ n.cur.flags = m.cur.flags ∧ n.cur.vl = m.cur.vl ∧ n.cur.mx = m0.cur.mx ∧ n.cur.tx = m.cur.tx ∧
      n.cur.ag = m.cur.ag ∧ n.cur.blocks = m.cur.blocks ∧ n.cur.tvec = m.cur.tvec ∧ n.cur.tsave = m.cur.tsave ∧ n.cur.tcause = m.cur.tcause ∧
      n.cur.sysMode = m.cur.sysMode ∧ n.cur.imprecise = m.cur.imprecise ∧ (q = false → n.cur.fmt = m.cur.fmt) ∧
      { n.arch with cur := m.cur.arch, mem := m.mem } = m.arch) := by
  obtain ⟨m0, d, hs, rfl, ⟨hkeep, hrest⟩, hmx, hfmt⟩ := h
  have hcur : n.cur.arch = d.arch := congrArg Mach.cur ha
  refine ⟨m0, hs, hkeep.of_arch hcur, (congrArg Mach.mem ha :), (congrArg Cont.flags hcur :).trans (congrArg Cont.flags hrest :),
    (congrArg Cont.vl hcur :).trans (congrArg Cont.vl hrest :), (congrArg Cont.mx hcur :).trans hmx,
    (congrArg Cont.tx hcur :).trans (congrArg Cont.tx hrest :), (congrArg Cont.ag hcur :).trans (congrArg Cont.ag hrest :),
    (congrArg Cont.blocks hcur :).trans (congrArg Cont.blocks hrest :), (congrArg Cont.tvec hcur :).trans (congrArg Cont.tvec hrest :),
    (congrArg Cont.tsave hcur :).trans (congrArg Cont.tsave hrest :), (congrArg Cont.tcause hcur :).trans (congrArg Cont.tcause hrest :),
    (congrArg Cont.sysMode hcur :).trans (congrArg Cont.sysMode hrest :), (congrArg Cont.imprecise hcur :).trans (congrArg Cont.imprecise hrest :),
    fun hq => (congrArg Cont.fmt hcur :).trans (hfmt hq), ?_⟩
  rw [ha]
  obtain ⟨x, mx, rfl⟩ := hs.eq
  rfl

theorem runSlot_steers {x : Slot} {g : Option Guard} {a : Act Unit} {t : State} {q : Bool} (h : runSlot i x g a s = .next t) (hq : s.Quiet)
    (ha : ∀ m, a s.m = .ok ((), m) → s.m.steers m l q) : Undone s t ∨ ∃ m, s.m.steers m l q ∧ t.m.arch = m.arch := by
  have hkeep : ∀ m, a s.m = .ok ((), m) → m.cur.state = s.m.cur.state ∧ m.conts = s.m.conts := fun m hm => by
    obtain ⟨m0, d, hs, rfl, hmoves, -⟩ := ha m hm
    refine ⟨(congrArg Cont.state hmoves.rest :), ?_⟩
    obtain ⟨y, mx, rfl⟩ := hs.eq
    rfl
  rcases runSlot_arch h hq hkeep with hu | hs | ⟨m, hm, hs⟩
  · exact .inl hu
  · obtain ⟨m0, d, hset, hd, hmoves, hmx, hfmt⟩ := Mach.steers.refl s.m l
    exact .inr ⟨s.m, ⟨m0, d, hset, hd, hmoves, hmx, fun _ => hfmt rfl⟩, hs⟩
  · exact .inr ⟨m, ha m hm, hs⟩

end

/-! ### The instructions -/

section
variable {s t : State} {gu : Guard} {b n : BitVec 3} {x : BitVec 2} (hq : s.Quiet)
include hq

theorem pbr_steers {k : BitVec 16} (h : execPbr gu b k s = .next t) :
    Undone s t ∨ ∃ m, s.m.steers m [.b b.toNat] false ∧ t.m.arch = m.arch := by
  unfold execPbr at h
  refine runSlot_steers h hq fun m hm => ?_
  simp only [act_bind, act_getC, setB_eq] at hm
  cases hm
  exact (Mach.steers.refl s.m _).setBranch b _ (List.mem_singleton_self _)

theorem pbrr_steers {a : GF} (h : execPbrr gu n a s = .next t) :
    Undone s t ∨ ∃ m, s.m.steers m [.b n.toNat] false ∧ t.m.arch = m.arch := by
  unfold execPbrr at h
  refine runSlot_steers h hq fun m hm => ?_
  simp only [act_bind] at hm
  cases ha : readG a s.m with
  | error e => rw [ha] at hm; cases hm
  | ok p =>
    rw [ha] at hm
    cases hm
    exact (readG_popped ha).steers.setBranch n _ (List.mem_singleton_self _)

theorem br_steers (h : execBr gu b s = .next t) : Undone s t ∨ ∃ m, s.m.steers m [] false ∧ t.m.arch = m.arch := by
  unfold execBr at h
  refine runSlot_steers h hq fun m hm => ?_
  simp only [act_bind, act_getC] at hm
  rw [transfer_jumps hm]
  exact (Mach.steers.refl s.m _).jumpTo _

theorem brl_steers {k : BitVec 3} (h : execBrl gu b k s = .next t) :
    Undone s t ∨ ∃ m, s.m.steers m [.g 23, .b k.toNat] false ∧ t.m.arch = m.arch := by
  unfold execBrl at h
  refine runSlot_steers h hq fun m hm => ?_
  simp only [act_bind, act_getC] at hm
  cases hw : writeG 23 (s.m.cur.nextPc.setWidth 64) s.m with
  | error e => rw [hw] at hm; cases hm
  | ok p =>
    rw [hw] at hm
    simp only [setB_eq] at hm
    rw [transfer_jumps hm]
    have h23 := writeG_plain hw (by decide)
    rw [h23]
    refine Mach.steers.jumpTo (Mach.steers.setBranch ?_ k _ (List.mem_cons_of_mem _ (List.mem_singleton_self _))) _
    refine (Mach.steers.refl s.m _).then ⟨Cont.keeps_setG _ 23 _ (List.mem_cons_self ..), ?_⟩ ?_ fun hq => ⟨hq, ?_⟩
    · rw [Cont.setG_of_ne _ (by decide)]
      rfl
    · rw [Cont.setG_of_ne _ (by decide)]
    · rw [Cont.setG_of_ne _ (by decide)]

theorem loop_steers (h : execLoop gu b x s = .next t) : Undone s t ∨ ∃ m, s.m.steers m [.lc x.toNat] false ∧ t.m.arch = m.arch := by
  unfold execLoop at h
  refine runSlot_steers h hq fun m hm => ?_
  simp only [act_bind, act_getC] at hm
  rw [act_ite] at hm
  split at hm
  · simp only [act_bind, setLc_eq] at hm
    rw [transfer_jumps hm]
    exact ((Mach.steers.refl s.m _).setLoop x _ (List.mem_singleton_self _)).jumpTo _
  · cases hm
    exact (Mach.steers.refl s.m _).setLoop x _ (List.mem_singleton_self _)

theorem loopiImm_steers {k : BitVec 15} (h : execLoopiImm gu b x k s = .next t) :
    Undone s t ∨ ∃ m, s.m.steers m [.lc x.toNat] false ∧ t.m.arch = m.arch := by
  unfold execLoopiImm at h
  exact runSlot_steers h hq fun _ hm => loopSetup_steers (Mach.steers.refl s.m _) (List.mem_singleton_self _) hm

theorem loopiReg_steers {g : GF} (h : execLoopiReg gu b x g s = .next t) :
    Undone s t ∨ ∃ m, s.m.steers m [.lc x.toNat] false ∧ t.m.arch = m.arch := by
  unfold execLoopiReg at h
  refine runSlot_steers h hq fun m hm => ?_
  simp only [act_bind] at hm
  cases hg : readG g s.m with
  | error e => rw [hg] at hm; cases hm
  | ok p =>
    rw [hg] at hm
    exact loopSetup_steers (readG_popped hg).steers (List.mem_singleton_self _) hm

theorem loopl_steers {d : BitVec 7} (h : execLoopl gu b x d s = .next t) :
    Undone s t ∨ ∃ m, s.m.steers m [.lc x.toNat] false ∧ t.m.arch = m.arch := by
  unfold execLoopl at h
  refine runSlot_steers h hq fun m hm => ?_
  cases hcl : s.m.cur.claim with
  | false =>
    simp only [act_bind, needClaim_trap hcl] at hm
    cases hm
  | true =>
    simp only [act_bind, needClaim_ok hcl, act_getM, act_awaitIf] at hm
    generalize (s.m.jobs.any fun j => j.cont == s.m.cur.id && j.op == opPack && decide (j.st ≠ .landed)) = w at hm
    cases w with
    | true => cases hm
    | false => exact loopSetup_steers (Mach.steers.refl s.m _) (List.mem_singleton_self _) hm

theorem fmtw_steers {half : Bool} {k : BitVec 16} (h : execFmtw gu half k s = .next t) :
    Undone s t ∨ ∃ m, s.m.steers m [] true ∧ t.m.arch = m.arch := by
  unfold execFmtw at h
  refine runSlot_steers h hq fun m hm => ?_
  simp only [act_bind, act_getC, setFmt_eq] at hm
  cases hm
  exact (Mach.steers.refl s.m _).fmtPut _

theorem fmtwg_steers {a c : GF} (h : execFmtwg gu a c s = .next t) :
    Undone s t ∨ ∃ m, s.m.steers m [] true ∧ t.m.arch = m.arch := by
  unfold execFmtwg at h
  refine runSlot_steers h hq fun m hm => ?_
  simp only [act_bind] at hm
  cases ha : readG a s.m with
  | error e => rw [ha] at hm; cases hm
  | ok p =>
    rw [ha] at hm
    simp only [] at hm
    cases hb : readG c p.2 with
    | error e => rw [hb] at hm; cases hm
    | ok q =>
      rw [hb] at hm
      simp only [act_getC, setFmt_eq] at hm
      cases hm
      exact ((readG_popped ha).trans (readG_popped hb)).steers.fmtPut _
end

/-- An instruction that writes fmt: FMTW or FMTWG. -/
def putsFmt (i : Instr) : Prop := (∃ g n k, i = .fmtw g n k) ∨ ∃ g n k, i = .fmtwg g n k

/-- An instruction had no effect, or it has steered its continuation, to another fmt only where it writes fmt. -/
def Steered (s t : State) (i : Instr) (l : List RegName) : Prop :=
  Undone s t ∨ ∃ m q, s.m.steers m l q ∧ t.m.arch = m.arch ∧ (q = true → putsFmt i)

section
variable {s t : State} {i : Instr} {l : List RegName}

theorem Steered.plain (h : Undone s t ∨ ∃ m, s.m.steers m l false ∧ t.m.arch = m.arch) : Steered s t i l :=
  h.imp_right fun ⟨m, hm, ha⟩ => ⟨m, false, hm, ha, fun h => nomatch h⟩

theorem Steered.fmt (hi : putsFmt i) (h : Undone s t ∨ ∃ m, s.m.steers m l true ∧ t.m.arch = m.arch) : Steered s t i l :=
  h.imp_right fun ⟨m, hm, ha⟩ => ⟨m, true, hm, ha, fun _ => hi⟩
end

/-- Settles O53: each of the ten instructions steers its continuation. -/
theorem controlFrame : Obligations.ControlFrame := by
  unfold Obligations.ControlFrame
  rintro s t i c c' hq - ⟨-, hi⟩ hexec rfl rfl
  have hsteered : Steered s t i (dests i) := by
    split at hi
    · exact .plain (pbr_steers hq hexec)
    · exact .plain (pbrr_steers hq hexec)
    · exact .plain (br_steers hq hexec)
    · exact .plain (brl_steers hq hexec)
    · exact .plain (loop_steers hq hexec)
    · exact .plain (loopiImm_steers hq hexec)
    · exact .plain (loopiReg_steers hq hexec)
    · exact .plain (loopl_steers hq hexec)
    · exact .fmt (.inl ⟨_, _, _, rfl⟩) (fmtw_steers hq hexec)
    · exact .fmt (.inr ⟨_, _, _, rfl⟩) (fmtwg_steers hq hexec)
    · exact hi.elim
  refine hsteered.imp_right fun ⟨m, q, hm, ha, hput⟩ => ?_
  obtain ⟨m0, hs, hkeep, hmem, hflags, hvl, hmx, htx, hag, hblocks, htvec, htsave, htcause, hsys, himp, hfmt, hrest⟩ := hm.frame ha
  refine ⟨m0, hs, hkeep, hmem, hflags, hvl, hmx, htx, hag, hblocks, htvec, htsave, htcause, hsys, himp, fun h1 h2 => hfmt ?_, hrest⟩
  cases q with
  | false => rfl
  | true =>
    rcases hput rfl with ⟨g, n, k, h⟩ | ⟨g, n, k, h⟩
    · exact absurd h (h1 g n k)
    · exact absurd h (h2 g n k)

end Sys2Proof.Machine
end

section
/-! PROOFS. A stream that is written to host memory, with the entry of its own page among what the access first brings in. -/

namespace Sys2Proof.Machine

section
variable {m : Mem} {e : ℕ} {t t' : SMap ℕ}

/-- What a die applies of the past of a stamp depends on which writes in flight lie in it, and on nothing else (R93). -/
theorem needs_congr {l : List Write} (h : ∀ w ∈ l, w.within t = w.within t') : Mem.needs e t l = Mem.needs e t' l := by
  induction l with
  | nil => rfl
  | cons w r ih =>
    have hr := ih fun u hu => h u (List.mem_cons_of_mem _ hu)
    have hw := h w (List.mem_cons_self ..)
    simp only [Mem.needs, hr, hw]

theorem Mem.catchUp_congr (h : ∀ w ∈ m.flight, w.within t = w.within t') : m.catchUp e t = m.catchUp e t' := by
  unfold Mem.catchUp
  rw [needs_congr h]
end

/-- Die 0's page tables, and two writes of die 1 on their way: one makes the entry of the first GiB, whose home is die 5, invalid, and
one to the host memory that entry names. -/
def pteMem : Mem :=
  (({ view := Memory.puts (Memory.puts [] 0x100000 (leBytes 8 (5 * 2 ^ 36 + 1))) (5 * 2 ^ 36) (leBytes 8 (2 ^ 49 + 0x1F)) } : Mem).write 1
    (5 * 2 ^ 36) [0x1E] false).write 1 (2 ^ 49) [9] false

/-- A running continuation of die 0 with a stream that it writes, to virtual address 0. A report would go back to a bundle that still
waits. -/
def pteState : State :=
  { m := { cur := (placedCont none).setStream 0 (some { out := true, virt := true, remaining := 1 }), tasks := [placedTask], mem := pteMem }
    snap := some { cur := { timid := true } } }

/-- The memories that accesses of die 0 can make of `pteMem`. -/
def pteMems : List Mem := [pteMem, pteMem.catchUp 0 [(1, 1)], pteMem.catchUp 0 [(1, 2)]]

theorem pteMems_writes : ∀ x ∈ pteMems, ∀ w ∈ x.flight, w.src = 1 ∧ SMap.get 0 w.stamp 1 ≤ 2 := by decide +kernel

theorem pteMems_steps : ∀ x ∈ pteMems, ∀ v ∈ [0, 1, 2], x.catchUp 0 [(1, v)] ∈ pteMems := by decide +kernel

theorem pteMems_catchUp {x : Mem} (hx : x ∈ pteMems) (t : SMap ℕ) : x.catchUp 0 t ∈ pteMems := by
  have hsame : x.catchUp 0 t = x.catchUp 0 [(1, min (SMap.get 0 t 1) 2)] := by
    refine Mem.catchUp_congr fun w hw => decide_eq_decide.mpr ?_
    obtain ⟨hsrc, hle⟩ := pteMems_writes x hx w hw
    have hget : SMap.get 0 [(1, min (SMap.get 0 t 1) 2)] 1 = min (SMap.get 0 t 1) 2 := rfl
    rw [hsrc, hget]
    omega
  rw [hsame]
  refine pteMems_steps x hx _ ?_
  have hmin : min (SMap.get 0 t 1) 2 ≤ 2 := Nat.min_le_right ..
  generalize min (SMap.get 0 t 1) 2 = v at hmin
  interval_cases v <;> simp

theorem pteMems_foldl {β : Type} {f : Mem → β → Mem} (hf : ∀ x b, x ∈ pteMems → f x b ∈ pteMems) (l : List β) {x : Mem} (hx : x ∈ pteMems) :
    l.foldl f x ∈ pteMems := by
  induction l generalizing x with
  | nil => exact hx
  | cons b r ih => exact ih (hf x b hx)

theorem pteMems_observe {x : Mem} (hx : x ∈ pteMems) (ps : List (ℕ × ℕ)) : x.observe 0 ps ∈ pteMems := by
  refine pteMems_foldl (fun y p hy => ?_) ps hx
  split
  · exact pteMems_foldl (fun z t hz => pteMems_catchUp hz t) _ hy
  · exact hy

theorem pteState_settles {m0 : Mach} (h : pteState.m.settlesTo m0) : ∃ x ∈ pteMems, m0 = pteState.m.withMem x := by
  obtain ⟨l, rfl⟩ := h
  have hsteps : ∀ (l : List (Option (List (ℕ × ℕ)))) (x : Mem), x ∈ pteMems →
      ∃ y ∈ pteMems, l.foldl Mach.settleOne (pteState.m.withMem x) = pteState.m.withMem y := by
    intro l
    induction l with
    | nil => exact fun x hx => ⟨x, hx, rfl⟩
    | cons o l ih =>
      intro x hx
      cases o with
      | none =>
        have hland : (pteState.m.withMem x).settleOne none = pteState.m.withMem x := (Mach.landDrains_eq (pteState.m.withMem x)).trans rfl
        rw [List.foldl_cons, hland]
        exact ih x hx
      | some ps => exact ih _ (pteMems_observe hx ps)
  exact hsteps l pteMem (List.mem_cons_self ..)

theorem pteState_undone {t : State} (h : Undone pteState t) : t = pteState.haltBundle := by
  have hreport : pteState.reported = none := by decide +kernel
  have hhold : pteState.holdReport = pteState.haltBundle := rfl
  rcases h with rfl | rfl | ⟨f, slot, w, rfl⟩ | ⟨f, n, slot, w, rfl⟩ | ⟨x, rfl⟩
  · rfl
  · rfl
  · rw [State.takeTrap, hreport, hhold]
  · rw [State.takeTxTrap, hreport, hhold]
  · rw [State.takeLate, hreport, hhold]

/-- With the write of the entry still to come die 5 does not see it; with it there the entry no longer names host memory. -/
theorem pteMems_cases : ∀ x ∈ pteMems, x.clk 0 0 = 0 ∧ ((x.byteAt 5 (5 * 2 ^ 36) = 0 ∧ (∀ w ∈ x.flight, w.pa + w.bytes.length ≤ 2 ^ 52) ∧
    (pteState.m.withMem x).resolveCont 0 1 .write = .ok [(2 ^ 49, 1)]) ∨
    ∃ f, (pteState.m.withMem x).resolveCont 0 1 .write = .fail f) := by
  intro x hx
  simp only [pteMems, List.mem_cons, List.not_mem_nil, or_false] at hx
  rcases hx with rfl | rfl | rfl
  · exact ⟨by decide +kernel, .inl (by decide +kernel)⟩
  · exact ⟨by decide +kernel, .inr ⟨{ cause := 0x3007 }, by decide +kernel⟩⟩
  · exact ⟨by decide +kernel, .inr ⟨{ cause := 0x3007 }, by decide +kernel⟩⟩

/-- Refutes O50: an element that is pushed to host memory follows die 1's write of the page's entry, which its home die 5 applies with
the pushing die: no machine has both the entry that the push went by and die 5's view after it. -/
theorem not_scalarFrame : ¬ Obligations.ScalarFrame := by
  unfold Obligations.ScalarFrame
  intro h
  obtain ⟨i, hi⟩ : ∃ i : Instr, i = .movi ⟨0, false⟩ 24 0 := ⟨_, rfl⟩
  have hseen : (nextOf (exec i pteState)).map (fun t => (t.m.mem.byteAt 5 (5 * 2 ^ 36), t.m.mem.clk 0 0)) = some (0x1E, 1) := by
    subst hi
    decide +kernel
  have hnot : ¬(5 = pteState.m.cur.die ∨ coherent (5 * 2 ^ 36) = true) := by decide
  cases hexec : exec i pteState with
  | next t =>
    have ht : t.m.mem.byteAt 5 (5 * 2 ^ 36) = 0x1E ∧ t.m.mem.clk 0 0 = 1 := by
      rw [hexec] at hseen
      exact Prod.mk.inj (Option.some.inj hseen)
    rcases h i pteState t _ _ 24 (hi ▸ rfl) ⟨rfl, fun _ hc => nomatch hc⟩ rfl hexec rfl rfl (hi ▸ by decide) with hu | ⟨m0, hs, -, -, -, -, hdest, -⟩
    · rw [pteState_undone hu] at ht
      exact absurd ht.1 (by decide +kernel)
    · obtain ⟨x, hx, rfl⟩ := pteState_settles hs
      obtain ⟨hvirt, -⟩ := hdest.2 { out := true, virt := true, remaining := 1 } le_rfl rfl
      obtain ⟨-, -, hfail, hok⟩ := hvirt rfl
      obtain ⟨hclk, ⟨hbyte, hflight, hplace⟩ | ⟨f, hplace⟩⟩ := pteMems_cases x hx
      · rcases hok _ hplace (by decide) hflight 5 (5 * 2 ^ 36) (by decide) (by decide) (fun h => absurd h hnot) with hkept | ⟨-, hown, -⟩
        · rw [ht.1] at hkept
          exact absurd (hkept.trans hbyte) (by decide)
        · exact absurd hown hnot
      · have hmem := hfail fun ps hps => by
          have := hplace.symm.trans hps
          cases this
        rw [hmem] at ht
        exact absurd (ht.2.symm.trans hclk) (by decide)
  | fault f => rw [hexec] at hseen; cases hseen
  | refused r => rw [hexec] at hseen; cases hseen

end Sys2Proof.Machine
end

section
/-! SUPPORT. What writing records, reports and the end of a task leave of the machine (R350 to R354). -/

namespace Sys2Proof.Machine

section
variable {m m' m'' : Mach} {c : Cont} {t : Task} {q : ℕ} {P : Task → Prop}

/-! ### The table of tasks -/

theorem Mach.sameTasks.refl (m : Mach) : m.sameTasks m := ⟨rfl, rfl, rfl⟩

theorem Mach.sameTasks.trans (h : m.sameTasks m') (h' : m'.sameTasks m'') : m.sameTasks m'' :=
  ⟨h'.1.trans h.1, h'.2.1.trans h.2.1, h'.2.2.trans h.2.2⟩

theorem Mach.sameTasks.foldl {β : Type} {f : Mach → β → Mach} (hf : ∀ (m : Mach) b, m.sameTasks (f m b)) (l : List β) (m : Mach) :
    m.sameTasks (l.foldl f m) := by
  induction l generalizing m with
  | nil => exact .refl m
  | cons b r ih => exact (hf m b).trans (ih _)

theorem Mach.setCont_sameTasks (m : Mach) (c : Cont) : m.sameTasks (m.setCont c) := by
  unfold Mach.setCont
  split <;> exact ⟨rfl, rfl, rfl⟩

theorem Mach.putRecord_sameTasks (m : Mach) (c : Cont) : m.sameTasks (m.putRecord c) := by
  unfold Mach.putRecord
  split <;> exact ⟨rfl, rfl, rfl⟩

theorem Mach.recordCont_sameTasks (m : Mach) (c : Cont) : m.sameTasks (m.recordCont c) :=
  (m.setCont_sameTasks c).trans ((m.setCont c).putRecord_sameTasks c)

theorem Mach.putSave_sameTasks (m : Mach) (c : Cont) (off : ℕ) (b : List Byte) : m.sameTasks (m.putSave c off b) := by
  unfold Mach.putSave
  split <;> exact ⟨rfl, rfl, rfl⟩

theorem Mach.sendTo_sameTasks (m : Mach) (lane dest : ℕ) (p : Pkt) (j : Option ℕ) : m.sameTasks (m.sendTo lane dest p j) := by
  unfold Mach.sendTo
  split <;> exact ⟨rfl, rfl, rfl⟩

theorem Mach.recallTeams_sameTasks (m : Mach) (q : ℕ) : m.sameTasks (m.recallTeams q) :=
  Mach.sameTasks.foldl (fun m t => by
    split
    · exact m.sendTo_sameTasks ..
    · exact m.sendTo_sameTasks ..
    · exact .refl m) _ m

theorem Mach.fillAnswer_sameTasks (m : Mach) (id : ℕ) (d : GF) (v : Word) : m.sameTasks (m.fillAnswer id d v) := by
  unfold Mach.fillAnswer
  split
  · exact .refl m
  · exact m.setCont_sameTasks _

theorem Mach.settlePrmts_sameTasks (m : Mach) (q : ℕ) (v : Word) : m.sameTasks (m.settlePrmts q v) :=
  have hfirst : m.sameTasks { m with prmts := m.prmts.filter fun p => p.task ≠ q } := ⟨rfl, rfl, rfl⟩
  hfirst.trans (Mach.sameTasks.foldl (fun m (p : Prmt) => m.fillAnswer_sameTasks p.cont p.d v) _ _)

theorem Mach.endConts_sameTasks (m : Mach) (q : ℕ) (st : Byte) (cause : Cause) : m.sameTasks (m.endConts q st cause) := by
  have hfold := Mach.sameTasks.foldl (f := fun (m : Mach) (c : Cont) => m.recordCont { (c.dropClaim) with
      state := st, tcause := cause, resident := false, flagTrap := none, imprecise := none })
    (fun m c => m.recordCont_sameTasks _) (m.allConts.filter fun c => c.id ≠ 0 && c.task == q && decide (c.state.toNat < 6)) m
  exact ⟨hfold.1, hfold.2.1, hfold.2.2⟩

theorem Mach.switchTo_sameTasks (m : Mach) (id : ℕ) : m.sameTasks (m.switchTo id) := by
  unfold Mach.switchTo
  split
  · exact .refl m
  · split <;> exact ⟨rfl, rfl, rfl⟩

theorem Mach.pick_sameTasks (m : Mach) (k : ℕ) : m.sameTasks (m.pick k) := by
  unfold Mach.pick
  split
  · exact .refl m
  · split
    · exact .refl m
    · dsimp only
      split
      · exact (m.recordCont_sameTasks _).trans (Mach.switchTo_sameTasks _ _)
      · exact m.recordCont_sameTasks _

theorem Mach.logError_frame (m : Mach) (f : Trap) (i : LogInfo) : ∃ x r o, m.logError f i = { m with mem := x, regs := r, out := o } := by
  unfold Mach.logError
  split
  · exact ⟨_, _, _, rfl⟩
  · dsimp only
    split
    · exact ⟨_, _, _, rfl⟩
    · exact ⟨_, _, _, rfl⟩

theorem Mach.logError_sameTasks (m : Mach) (f : Trap) (i : LogInfo) : m.sameTasks (m.logError f i) := by
  obtain ⟨x, r, o, h⟩ := m.logError_frame f i
  rw [h]
  exact ⟨rfl, rfl, rfl⟩

/-! ### What holds of the tasks with one number -/

/-- A task has this number, and every task with it is as said. -/
def Mach.taskIs (m : Mach) (q : ℕ) (P : Task → Prop) : Prop := q ∈ m.tasks.map Task.seq ∧ ∀ k ∈ m.tasks, k.seq = q → P k

theorem Mach.taskIs.of_same (h : m.taskIs q P) (hs : m.sameTasks m') : m'.taskIs q P := by
  unfold Mach.taskIs
  rw [hs.1]
  exact h

theorem Mach.taskIs.find (h : m.taskIs q P) : ∃ k, m.task? q = some k ∧ P k := by
  obtain ⟨u, hu, hq⟩ := List.mem_map.mp h.1
  cases hf : m.task? q with
  | none => exact absurd (List.find?_eq_none.mp hf u hu) (by simp [hq])
  | some k => exact ⟨k, rfl, h.2 k (List.mem_of_find?_eq_some hf) (by simpa using List.find?_some hf)⟩

theorem Mach.task?_mem (h : m.task? q = some t) : t ∈ m.tasks ∧ t.seq = q :=
  ⟨List.mem_of_find?_eq_some h, by simpa using List.find?_some h⟩

theorem Mach.setTask_taskIs (hm : q ∈ m.tasks.map Task.seq) (ht : t.seq = q) (hP : P t) : (m.setTask t).taskIs q P := by
  obtain ⟨u, hu, hq⟩ := List.mem_map.mp hm
  refine ⟨List.mem_map.mpr ⟨t, List.mem_map.mpr ⟨u, hu, if_pos (by simp [hq, ht])⟩, ht⟩, fun k hk hkq => ?_⟩
  obtain ⟨v, hv, rfl⟩ := List.mem_map.mp hk
  by_cases hvt : (v.seq == t.seq) = true
  · rw [if_pos hvt]
    exact hP
  · rw [if_neg hvt] at hkq
    exact absurd (hkq.trans ht.symm) (by simpa using hvt)

theorem Mach.taskIs.grantEntries (h : m.taskIs q P) (hP : ∀ t, P t → P { t with entered := true }) : m.grantEntries.taskIs q P := by
  obtain ⟨hseq, -, -, hall⟩ := grantFrom_keeps (q := q) hP (m.tasks.filter fun t => t.stage == .ordering && !t.entered).length m
  refine ⟨?_, hall h.2⟩
  show q ∈ (m.grantFrom _).tasks.map Task.seq
  rw [hseq]
  exact h.1

/-! ### The end of a task (R354) -/

theorem Mach.ctxWriteUnless_sameTasks (m : Mach) (p : Prop) [Decidable p] (die : ℕ) (ctx : BitVec 12) (e : CtxEntry) (va : Word) (b : List Byte) :
    m.sameTasks (if p then m else m.ctxWrite die ctx e va b) := by
  split
  · exact .refl m
  · exact m.ctxWrite_sameTasks ..

/-- A task that has ended by a fault: its state and stage, and no lease or reservation. -/
def Task.faulted (k : Task) : Prop := k.tstate = 4 ∧ k.stage = .ended ∧ k.leased = false ∧ k.resv = []

/-- R354: a task of this module that is no graph node's ends by a fault. -/
theorem Mach.endTask_faulted {r : Report} (ht : m.task? q = some t) (hs : t.stage ≠ .ended) (hn : t.node = none) (hg : t.guest = none) :
    (m.endTask q r).taskIs q Task.faulted := by
  obtain ⟨htm, htq⟩ := Mach.task?_mem ht
  have hstage : (t.stage == .ended) = false := by simpa using hs
  unfold Mach.endTask
  rw [ht]
  dsimp only
  rw [hstage, if_neg Bool.false_ne_true, hg]
  dsimp only
  rw [hn]
  dsimp only
  obtain ⟨m1, h1⟩ : ∃ m1, m1 = ((((m.recallTeams q).settlePrmts q 0).endConts q 7 r.trap.cause).stopWork q).clearRx fun x =>
    bit x.word.toNat 63 && x.task == q := ⟨_, rfl⟩
  have hsame : m.sameTasks m1 := by
    have h := (m.recallTeams_sameTasks q).trans ((Mach.settlePrmts_sameTasks _ q 0).trans (Mach.endConts_sameTasks _ q 7 r.trap.cause))
    exact h1 ▸ ⟨h.1, h.2.1, h.2.2⟩
  have hin : q ∈ (m1.unreserve t.cls t.resv).tasks.map Task.seq := by
    show q ∈ m1.tasks.map Task.seq
    rw [hsame.1]
    exact List.mem_map.mpr ⟨t, htm, htq⟩
  rw [← h1]
  refine Mach.taskIs.of_same ?_ (Mach.logError_sameTasks _ _ _)
  refine Mach.taskIs.of_same ?_ (Mach.ctxWriteUnless_sameTasks _ _ _ _ _ _ _)
  refine Mach.taskIs.of_same ?_ ⟨rfl, rfl, rfl⟩
  refine Mach.taskIs.of_same (Mach.taskIs.grantEntries ?_ fun _ h => h) (Mach.putTaskState_sameTasks _ _ _)
  exact Mach.setTask_taskIs hin htq ⟨rfl, rfl, rfl, rfl⟩
end

end Sys2Proof.Machine
end

section
/-! PROOFS. Taking an exception (R27, R350 to R353). -/

namespace Sys2Proof.Machine

section
variable {m : Mach} {c : Cont} {t k : Task} {s : State} {f : Trap} {slot : ℕ} {w : Word}

/-! ### Bytes of records -/

theorem leNat_leBytes (n v : ℕ) : leNat (leBytes n v) = v % 2 ^ (8 * n) := by
  induction n generalizing v with
  | zero => simp [leBytes, leNat, Nat.mod_one]
  | succ n ih =>
    rw [leBytes, leNat, ih, BitVec.toNat_ofNat, show 2 ^ (8 * (n + 1)) = 256 * 2 ^ (8 * n) by rw [Nat.mul_succ, pow_add, Nat.mul_comm]; rfl, Nat.mod_mul]

theorem drop_leBytes (n v off : ℕ) : (leBytes n v).drop off = leBytes (n - off) (v / 2 ^ (8 * off)) := by
  induction off generalizing n v with
  | zero => simp
  | succ off ih =>
    cases n with
    | zero => simp [leBytes]
    | succ n =>
      rw [leBytes, List.drop_succ_cons, ih, Nat.add_sub_add_right, Nat.div_div_eq_div_mul,
        show 2 ^ (8 * (off + 1)) = 256 * 2 ^ (8 * off) by rw [Nat.mul_succ, pow_add, Nat.mul_comm]; rfl]

theorem take_leBytes {n k : ℕ} (v : ℕ) (h : k ≤ n) : (leBytes n v).take k = leBytes k v := by
  induction k generalizing n v with
  | zero => simp [leBytes]
  | succ k ih =>
    obtain ⟨n, rfl⟩ : ∃ j, n = j + 1 := ⟨n - 1, by omega⟩
    rw [leBytes, List.take_succ_cons, ih _ (by omega), leBytes]

/-- The number at a place of a little-endian number. -/
theorem leAt_leBytes {n off k : ℕ} (v : ℕ) (h : off + k ≤ n) : leAt (leBytes n v) off k = v / 2 ^ (8 * off) % 2 ^ (8 * k) := by
  rw [leAt, slice, drop_leBytes, take_leBytes _ (by omega), leNat_leBytes]

/-- Words that follow one another stand eight bytes apart. -/
theorem leAt_words {α : Type} (g : α → ℕ) (rest : List Byte) (l : List α) {k : ℕ} (hk : k < l.length) :
    leAt ((l.map fun x => leBytes 8 (g x)).flatten ++ rest) (8 * k) 8 = g l[k] % 2 ^ 64 := by
  induction l generalizing k with
  | nil => exact absurd hk (Nat.not_lt_zero _)
  | cons x r ih =>
    rw [List.map_cons, List.flatten_cons, List.append_assoc]
    cases k with
    | zero =>
      rw [leAt, slice, Nat.mul_zero, List.drop_zero, List.take_left' (length_leBytes 8 _), leNat_leBytes]
      rfl
    | succ k =>
      have hskip : ∀ b : List Byte, leAt (leBytes 8 (g x) ++ b) (8 * (k + 1)) 8 = leAt b (8 * k) 8 := fun b => by
        rw [leAt, slice, leAt, slice, List.drop_append, List.drop_eq_nil_of_le (by rw [length_leBytes]; omega), List.nil_append, length_leBytes,
          show 8 * (k + 1) - 8 = 8 * k by omega]
      rw [hskip, ih (by simpa using hk)]
      rfl

/-- R27: a save area begins with the general registers, g0 as zero. -/
theorem saveBytes_g {k : ℕ} (hk : k < 24) : leAt c.saveBytes (8 * k) 8 = if k = 0 then 0 else (vget c.g k 0).toNat := by
  obtain ⟨rest, hrest⟩ : ∃ rest, c.saveBytes = (((0 : Word) :: c.g.toList.drop 1).map fun x => leBytes 8 x.toNat).flatten ++ rest := by
    unfold Cont.saveBytes
    simp only [List.append_assoc]
    exact ⟨_, by rw [List.map_cons, List.flatten_cons, List.append_assoc]; rfl⟩
  rw [hrest, leAt_words (fun x : Word => x.toNat) rest _ (by simp; omega), Nat.mod_eq_of_lt (BitVec.isLt _)]
  cases k with
  | zero => rfl
  | succ k =>
    rw [if_neg (Nat.succ_ne_zero k), List.getElem_cons_succ, List.getElem_drop, vget, List.getD_eq_getElem _ _ (by simp; omega)]
    congr 2
    omega

theorem length_flatten_of {α : Type} (g : α → List Byte) {n : ℕ} (l : List α) (h : ∀ x ∈ l, (g x).length = n) :
    (l.map g).flatten.length = l.length * n := by
  induction l with
  | nil => simp
  | cons x r ih =>
    rw [List.map_cons, List.flatten_cons, List.length_append, h x (List.mem_cons_self ..), ih fun y hy => h y (List.mem_cons_of_mem _ hy),
      List.length_cons, Nat.succ_mul, Nat.add_comm]

/-- R27: the bytes of a save area before the trap record. -/
theorem saveBytes_length (c : Cont) : c.saveBytes.length = 1280 := by
  unfold Cont.saveBytes
  simp only [List.length_append, length_leBytes, length_flatten_leBytes]
  rw [length_flatten_of (n := 64) (l := c.streams.toList) (h := ?hstream), length_flatten_of (n := 16) (l := c.ag.toList) (h := ?hag)]
  case hstream =>
    intro x _
    cases x with
    | none => exact length_leBytes ..
    | some r =>
      show r.bytes.length = 64
      unfold StreamRec.bytes
      simp only [List.length_append, length_leBytes, length_flatten_leBytes]
      simp
  case hag =>
    intro x _
    simp
  simp

/-- R352: the fields of a trap record. -/
theorem trapRecord_fields (f : Trap) (pc : BitVec 48) (sl : BitVec 3) (imp sys eng : Bool) (w : Word) :
    (trapRecord f pc sl imp sys eng w).length = 64 ∧ leAt (trapRecord f pc sl imp sys eng w) 0 6 = pc.toNat ∧
    leAt (trapRecord f pc sl imp sys eng w) 6 2 = f.cause.toNat ∧
    leAt (trapRecord f pc sl imp sys eng w) 8 1 = sl.toNat + 8 * imp.toNat + 16 * sys.toNat + 32 * eng.toNat ∧
    leAt (trapRecord f pc sl imp sys eng w) 16 8 = f.faddr.toNat ∧ leAt (trapRecord f pc sl imp sys eng w) 24 8 = w.toNat ∧
    leAt (trapRecord f pc sl imp sys eng w) 32 8 = f.info.toNat := by
  have hpc := pc.isLt
  have hcause := f.cause.isLt
  have hsl := sl.isLt
  have himp := imp.toNat_lt
  have hsys := sys.toNat_lt
  have heng := eng.toNat_lt
  have hfaddr := f.faddr.isLt
  have hw := w.isLt
  have hinfo := f.info.isLt
  unfold trapRecord
  refine ⟨length_leBytes .., ?_, ?_, ?_, ?_, ?_, ?_⟩ <;> rw [leAt_leBytes _ (by decide)] <;> omega

/-! ### The report -/

/-- R354: a report that ends a task of this module leaves it ended by a fault. -/
theorem reportEnd_faulted {r : Report} (h0 : c.stage0 = false) (ht : m.task? c.task = some t) (hs : t.stage ≠ .ended) (hn : t.node = none)
    (hg : t.guest = none) : (m.reportEnd c r).taskIs c.task Task.faulted := by
  have hsame : m.sameTasks ((m.setCont { c with fslot := r.fslot, cursor := none }).putTrapRecord c
      (trapRecord r.trap r.pc r.fslot r.imp r.sys r.eng r.insn)) := (m.setCont_sameTasks _).trans (Mach.putSave_sameTasks ..)
  have hfind : ((m.setCont { c with fslot := r.fslot, cursor := none }).putTrapRecord c
      (trapRecord r.trap r.pc r.fslot r.imp r.sys r.eng r.insn)).task? c.task = some t := by
    unfold Mach.task?
    rw [hsame.1]
    exact ht
  unfold Mach.reportEnd
  rw [if_neg fun h => Bool.false_ne_true (h0.symm.trans h)]
  dsimp only
  refine Mach.taskIs.of_same ?_ (Mach.pick_sameTasks _ _)
  exact Mach.endTask_faulted hfind hs hn hg

theorem reportLate_faulted {x : Imprecise} (h0 : m.cur.stage0 = false) (ht : m.task? m.cur.task = some t) (hs : t.stage ≠ .ended)
    (hn : t.node = none) (hg : t.guest = none) : (m.reportLate x).taskIs m.cur.task Task.faulted :=
  reportEnd_faulted h0 ht hs hn hg

/-- R353: where a handler is named, runs in user mode and handles the cause, the report goes to it. -/
theorem report_handled (hi : m.cur.imprecise = none) (hv : m.cur.tvec ≠ 0) (hm : m.cur.sysMode = false) (h0 : m.cur.stage0 = false)
    (hp : m.cur.poisoned = false) (hf : handled f = true) {m' : Mach} (h' : m' = ((m.saveRegs m.cur).putTrapRecord m.cur
      (trapRecord f m.cur.pc (BitVec.ofNat 3 slot) false false false w)).recordCont (m.cur.enterHandler f.cause slot)) :
    m.report f slot w = m'.logError f { severity := 1, fslot := BitVec.ofNat 3 slot, die := m.cur.die, core := m.cur.core
                                        ctx := m.cur.ctx.toNat, seq := m.cur.task, pc := m.cur.pc.toNat, ld := m'.ldOf m.cur.ctx.toNat } := by
  subst h'
  have hcond : m.cur.tvec ≠ 0 ∧ !m.cur.sysMode ∧ handled f ∧ !m.cur.stage0 := ⟨hv, by simp [hm], hf, by simp [h0]⟩
  unfold Mach.report
  dsimp only
  rw [hi]
  dsimp only
  rw [if_pos hcond, hp, if_neg Bool.false_ne_true]

/-- R353: a system-mode report, or one without a handler, ends the task. -/
theorem report_ends (hi : m.cur.imprecise = none) (h : m.cur.tvec = 0 ∨ m.cur.sysMode = true ∨ handled f = false) :
    m.report f slot w = m.reportEnd m.cur (m.cur.report f slot w) := by
  have hcond : ¬(m.cur.tvec ≠ 0 ∧ !m.cur.sysMode ∧ handled f ∧ !m.cur.stage0) := by
    rintro ⟨hv, hm, hf, -⟩
    rcases h with h | h | h
    · exact hv h
    · simp [h] at hm
    · simp [h] at hf
  unfold Mach.report
  dsimp only
  rw [hi]
  dsimp only
  rw [if_neg hcond]

theorem report_late {x : Imprecise} (hi : m.cur.imprecise = some x) : m.report f slot w = m.reportLate x := by
  unfold Mach.report
  dsimp only
  rw [hi]

/-- R353: which causes a handler takes. -/
theorem handled_of (h : f.cause.toNat / 4096 = 1 ∨ f.cause.toNat / 4096 = 2 ∨ f.cause.toNat / 4096 = 15 ∨
    (f.cause.toNat / 4096 = 3 ∧ f.cause ≠ 0x3005 ∧ f.cause ≠ 0x3007 ∧ (f.cause = 0x3006 → f.walk = false))) : handled f = true := by
  unfold handled
  dsimp only
  rcases h with h | h | h | ⟨h, h5, h7, h6⟩
  · simp [h]
  · simp [h]
  · simp [h]
  · cases hw : f.walk with
    | false => rw [decide_eq_true h, decide_eq_true h5, decide_eq_true h7, Bool.and_false, Bool.not_false, Bool.and_self, Bool.and_self, Bool.and_self, Bool.or_true]
    | true =>
      have hne : (f.cause == 0x3006) = false := beq_eq_false_iff_ne.mpr fun hc => Bool.noConfusion (hw.symm.trans (h6 hc))
      rw [decide_eq_true h, decide_eq_true h5, decide_eq_true h7, hne, Bool.false_and, Bool.not_false, Bool.and_self, Bool.and_self, Bool.and_self, Bool.or_true]

theorem handled_not (h : f.cause = 0x3005 ∨ f.cause.toNat / 4096 = 5) : handled f = false := by
  unfold handled
  rcases h with h | h
  · simp [h]
  · simp [h]

theorem Mach.putSave_mem (m : Mach) (c : Cont) (off : ℕ) (b : List Byte) : ∃ x, m.putSave c off b = m.withMem x := by
  unfold Mach.putSave
  split
  · exact ⟨m.mem, rfl⟩
  · exact ⟨_, rfl⟩

theorem Mach.putRecord_mem (m : Mach) (c : Cont) : ∃ x, m.putRecord c = m.withMem x := by
  unfold Mach.putRecord
  split
  · exact ⟨m.mem, rfl⟩
  · exact ⟨_, rfl⟩

/-- What the entry of a handler leaves of the machine: memory, registers and the log apart, the issuing continuation alone changes. -/
theorem Mach.entered_frame (m : Mach) {d : Cont} {b : List Byte} {i : LogInfo} (hd : d.id = m.cur.id) :
    ∃ x r o, (((m.saveRegs m.cur).putTrapRecord m.cur b).recordCont d).logError f i = { m with cur := d, mem := x, regs := r, out := o } := by
  obtain ⟨x1, h1⟩ := m.putSave_mem m.cur 0 m.cur.saveBytes
  obtain ⟨x2, h2⟩ := (m.withMem x1).putSave_mem m.cur 0x540 (leBytes 704 0)
  obtain ⟨x3, h3⟩ := ((m.withMem x1).withMem x2).putSave_mem m.cur 0x500 b
  obtain ⟨x4, h4⟩ := (((m.withMem x1).withMem x2).withMem x3).withCur d |>.putRecord_mem d
  obtain ⟨z, r, o, hlog⟩ := ((m.withCur d).withMem x4).logError_frame f i
  have hcur : (((m.withMem x1).withMem x2).withMem x3).setCont d = (((m.withMem x1).withMem x2).withMem x3).withCur d := Mach.setCont_cur hd.symm
  refine ⟨z, r, o, ?_⟩
  rw [Mach.saveRegs, h1, h2, Mach.putTrapRecord, h3, Mach.recordCont, hcur, h4]
  exact hlog

/-! ### When it is made -/

theorem takeTrap_reported {m : Mach} (h : s.reported = some m) :
    s.takeTrap f slot w = { s with m := { (m.report f slot w) with stalled := false }, snap := none } := by
  rw [State.takeTrap, h]

/-- R350: with nothing of an earlier bundle in a queue the report is made on the machine the bundle found. -/
theorem reported_front (hb : s.m.cur.cursor.bind Cursor.back = none) (hq : (s.snap.getD s.m).cur.queue = [])
    (ht : (s.snap.getD s.m).cur.timid = false) : s.reported = some ((s.snap.getD s.m).performed (s.snap.getD s.m).cur.id) := by
  unfold State.reported
  rw [hb]
  simp only [hq, ht, List.isEmpty_nil, Bool.not_false, Bool.and_self, if_true]

theorem reported_waits (hb : s.m.cur.cursor.bind Cursor.back = none)
    (h : (s.snap.getD s.m).cur.queue ≠ [] ∨ (s.snap.getD s.m).cur.timid = true) : s.takeTrap f slot w = s.haltBundle := by
  have hnone : s.reported = none := by
    unfold State.reported
    rw [hb]
    rcases h with h | h
    · simp [h]
    · simp [h]
  rw [State.takeTrap, hnone]
  dsimp only
  rw [State.holdReport, hb]
end

/-- Settles O55: when the report is made, what a handler finds, and how a task ends. -/
theorem trapEntry : Obligations.TrapEntry := by
  unfold Obligations.TrapEntry
  rintro s f slot w t rfl hslot
  refine ⟨fun m hb hm => ?_, fun m c hr hc => ?_⟩
  · subst hm
    exact ⟨fun hq ht => reported_front hb hq ht, fun h => reported_waits hb h⟩
  subst hc
  rw [takeTrap_reported hr]
  refine ⟨rfl, rfl, rfl, fun hi hv hm h0 hp hf => ?_, fun hi h0 h k hk hs hn hg => ?_, fun x hi h0 k hk hs hn hg => ?_, fun k hk => saveBytes_g hk,
    saveBytes_length _, fun pc sl imp sys eng b hb => hb ▸ trapRecord_fields f pc sl imp sys eng w⟩
  · have hrep := report_handled (slot := slot) (w := w) hi hv hm h0 hp (handled_of hf) rfl
    obtain ⟨x, r, o, hframe⟩ := m.entered_frame (d := m.cur.enterHandler f.cause slot) (f := f) rfl
    obtain ⟨n, hn⟩ : ∃ n, n = m.report f slot w := ⟨_, rfl⟩
    have hcur : n.cur = m.cur.enterHandler f.cause slot ∧ n.conts = m.conts ∧ n.tasks = m.tasks ∧ n.teams = m.teams ∧ n.jobs = m.jobs := by
      rw [hn, hrep, hframe]
      exact ⟨rfl, rfl, rfl, rfl, rfl⟩
    obtain ⟨hcur, hrest⟩ := hcur
    have hmem : n.mem = (m.report f slot w).mem := congrArg Mach.mem hn
    rw [← hn]
    dsimp only
    rw [hcur]
    exact ⟨rfl, rfl, hm, rfl, Nat.mod_eq_of_lt hslot, vget_vset_same (by decide), fun k _ hk => vget_vset_ne hk, rfl, rfl, hrest.1, hrest.2.1,
      hrest.2.2.1, hrest.2.2.2, fun m' h' => by rw [hmem, hrep, h']⟩
  · have hno : m.cur.tvec = 0 ∨ m.cur.sysMode = true ∨ handled f = false := by
      rcases h with h | h | h | h
      · exact .inl h
      · exact .inr (.inl h)
      · exact .inr (.inr (handled_not (.inl h)))
      · exact .inr (.inr (handled_not (.inr h)))
    rw [report_ends hi hno]
    exact (reportEnd_faulted h0 hk hs hn hg).find
  · rw [report_late hi]
    obtain ⟨k', hk', hf⟩ := (reportLate_faulted h0 hk hs hn hg).find
    exact ⟨k', hk', hf.1, hf.2.1⟩

end Sys2Proof.Machine
end

section
/-! SUPPORT. The guard of an instruction of a slot: it stands in the word's guard field, and the instruction goes by it (R130, R131). -/

namespace Sys2Proof.Machine

/-- An instruction of a slot executes as one, under the guard in the field from `lo` of its word. -/
def Guarded (i : Instr) (x : Slot) (lo : ℕ) : Prop :=
  ∃ gu a, (∀ s, exec i s = runSlot i x (some gu) a s) ∧ encode i / 2 ^ lo % 16 = gu.enc

/-- The guard is the field packed first, above every other one but the operation number. -/
theorem guard_field {i : Instr} {gu : Guard} {base lo : ℕ} {l : List (ℕ × ℕ)} (he : encode i = pk base ((gu.enc, lo) :: l))
    (hl : pk (base % 2 ^ lo) l < 2 ^ lo) (hb : fld base lo 4 = 0) : encode i / 2 ^ lo % 16 = gu.enc := by
  rw [he]
  exact fld_head hl hb (Laws.Fits.guardLt gu)

/-- R142 to R146: the scalar instructions. -/
theorem guarded_s0 {i : Instr} (hc : i.cls = some .s0) (hk : ∀ l d k, i ≠ .movk l d k) : Guarded i .s0 21 := by
  cases i with
  | add | sub | addi | addsh | mul | mulh | mulhu | madd | div | divu | rem | remu | min | max | minu | maxu | and | or | xor | andn |
    andi | ori | xori | sll | srl | sra | slli | srli | srai | ror | clz | ctz | popc | bext | bins | movi | sel | cmpeq | cmpne |
    cmplt | cmpltu | cmpge | cmpgeu | cmpeqi | cmplti | movpGet | movpSet | fadd | fsub | fmul | ffma | fdiv | fsqrt | fmin |
    fmax | fcmpeq | fcmplt | fcmple | fcvt | ftoi | itof | fclass =>
    exact ⟨_, _, fun s => rfl, guard_field rfl (by simp only [pk, ← BitVec.toNat_ofBool]; omega) (by decide)⟩
  | movk l d k => exact absurd rfl (hk l d k)
  | plog gu d a b t =>
    exact ⟨gu, _, fun s => execPlog.eq_1 .., guard_field rfl (by simp only [pk]; omega) (by decide)⟩
  | _ => cases hc

/-- R157 to R174: the memory and translation instructions. -/
theorem guarded_a {i : Instr} (hc : i.cls = some .a) : Guarded i .a 21 := by
  cases i with
  | ldb | ldbu | ldh | ldhu | ldw | ldwu | ldd | ldacq | stb | sth | stw | std | strel | spldw | spldd | spstw | spstd | amoadd |
    amoand | amoor | amoxor | amomin | amomax | amoswp | amocas | amofadd | fence | ldblk | blkwb | blkrel | xlt | xltp | leaseq |
    sbind | qinit | qadv | qstat | wenq | agset | agadv =>
    exact ⟨_, _, fun s => rfl, guard_field rfl (by simp only [pk, ← BitVec.toNat_ofBool]; omega) (by decide)⟩
  | sunbind gu n =>
    exact ⟨gu, _, fun s => execSunbind.eq_1 .., guard_field rfl (by simp only [pk]; omega) (by decide)⟩
  | _ => cases hc

/-- R176 to R199: the vector commands. -/
theorem guarded_v {i : Instr} (hc : i.cls = some .v) : Guarded i .v 21 := by
  cases i with
  | vsetlReg | vmov | vfill | vadd | vsub | vmul | vfma | vmin | vmax | vabs | vneg | vadds | vmuls | vfmas | vrcp | vrsqrt |
    vexp | vlog | vsin | vcos | vtanh | vsig | vsilu | vgelu | vcvt | vqnt | vdq | vcmp | vsel | vrsum | vrmax | vargmax | vscan | vdot |
    vperm | vgath | vscadd | viadd | vand | vor | vxor | vshl | vshr | vsmax | vrmsn | vrope | vmaskw | tcwupd | tcwcnt | vbsy =>
    exact ⟨_, _, fun s => rfl, guard_field rfl (by simp only [pk, ← BitVec.toNat_ofBool]; omega) (by decide)⟩
  | vsetlImm gu m =>
    exact ⟨gu, _, fun s => execVsetlImm.eq_1 .., guard_field rfl (by simp only [pk]; omega) (by decide)⟩
  | vfence gu c =>
    exact ⟨gu, _, fun s => execVfence.eq_1 .., guard_field rfl (by simp only [pk]; omega) (by decide)⟩
  | _ => cases hc

/-- R202 to R215: the matrix commands. -/
theorem guarded_m {i : Instr} (hc : i.cls = some .m) : Guarded i .m 53 := by
  cases i with
  | mma | mmabt | mmasp | mmacb | mzero | mldacc | mdrain | mdraina | mpop | mcbld | mscl | mfence =>
    exact ⟨_, _, fun s => rfl, guard_field rfl (by simp only [pk, ← BitVec.toNat_ofBool]; omega) (by decide)⟩
  | _ => cases hc

/-- R218 to R240: the copy-engine instructions. -/
theorem guarded_d {i : Instr} (hc : i.cls = some .d) : Guarded i .d 53 := by
  cases i with
  | dcopy | dmcast | dgath | dscat | dscadd | dred | dbcast | dallg | dembag | dstage | pack | unpack | exn | kvfill | skfind | skput |
    skrel | skpin | ixwalk | ixsect | ixpart =>
    exact ⟨_, _, fun s => rfl, guard_field rfl (by simp only [pk]; omega) (by decide)⟩
  | dfence gu m =>
    exact ⟨gu, _, fun s => execDfence.eq_1 .., guard_field rfl (by simp only [pk]; omega) (by decide)⟩
  | _ => cases hc

/-- R147 to R156, R242 to R262: control and system instructions. -/
theorem guarded_k {i : Instr} (hc : i.cls = some .k) : Guarded i .k 21 := by
  cases i with
  | pbrr | br | brl | loop | loopiImm | loopiReg | loopl | fmtwg | waita | done | barr | sigc |
    tspawn | crspawn | glnch | gtok | gstat | teamq | sysrd | syswr | eret | tlbdrn | tlbcnf | leaseg | cinv | prmt | hint =>
    exact ⟨_, _, fun s => rfl, guard_field rfl (by simp only [pk, ← BitVec.toNat_ofBool]; omega) (by decide)⟩
  | pbr gu b m =>
    exact ⟨gu, _, fun s => execPbr.eq_1 .., guard_field rfl (by simp only [pk]; omega) (by decide)⟩
  | fmtw gu h m =>
    exact ⟨gu, _, fun s => execFmtw.eq_1 .., guard_field rfl (by simp only [pk, ← BitVec.toNat_ofBool]; omega) (by decide)⟩
  | susp gu =>
    exact ⟨gu, _, fun s => execSusp.eq_1 .., guard_field rfl (by simp only [pk]; omega) (by decide)⟩
  | sync gu m =>
    exact ⟨gu, _, fun s => execSync.eq_1 .., guard_field rfl (by simp only [pk]; omega) (by decide)⟩
  | trap gu c =>
    exact ⟨gu, _, fun s => execTrap.eq_1 .., guard_field rfl (by simp only [pk]; omega) (by decide)⟩
  | _ => cases hc
end Sys2Proof.Machine
end

section
/-! PROOFS. Bundles: intake, slot order, guards and ends (R5, R125 to R130). -/

namespace Sys2Proof.Machine

/-! ### Guards (R130) -/

theorem guarded {i : Instr} {x : Slot} (hc : i.cls = some x) (hk : ∀ l d k, i ≠ .movk l d k) : Guarded i x (if x.bytes = 4 then 21 else 53) := by
  cases x with
  | s0 => exact guarded_s0 hc hk
  | s1 => exact absurd hc (cls_ne_s1 i)
  | a => exact guarded_a hc
  | v => exact guarded_v hc
  | m => exact guarded_m hc
  | d => exact guarded_d hc
  | k => exact guarded_k hc

theorem Guard.enc_injective {g g' : Guard} (h : g.enc = g'.enc) : g = g' := by
  obtain ⟨p, i⟩ := g
  obtain ⟨p', i'⟩ := g'
  have hi := i.toNat_lt
  have hi' := i'.toNat_lt
  simp only [Guard.enc] at h
  have hp : p = p' := BitVec.eq_of_toNat_eq (by omega)
  have hn : i = i' := by
    have hv : i.toNat = i'.toNat := by omega
    revert hv
    cases i <;> cases i' <;> decide
  rw [hp, hn]

theorem guard_goes {i : Instr} {x : Slot} {g : Guard} {s : State} (hc : i.cls = some x) (hk : ∀ l d k, i ≠ .movk l d k)
    (hg : g.enc = encode i / 2 ^ (if x.bytes = 4 then 21 else 53) % 16) :
    (s.Open x → (s.m.cur.pred g.p.toNat != g.inv) = false → exec i s = .next s.advance) ∧
    (s.m.stays (s.m.cur.slotNow x) i = true → exec i s = .next s.stallBundle) := by
  obtain ⟨gu, a, hexec, henc⟩ := guarded hc hk
  obtain rfl : g = gu := Guard.enc_injective (hg.trans henc)
  rw [hexec s]
  exact ⟨fun ho hr => runSlot_skip hr ho, fun hs => runSlot_held hs⟩

/-! ### The slots of a bundle (R125) -/

section
variable {s : State} {k : Cursor} {x : Fin 7} {rest : List (Fin 7)} {j : Instr}

theorem slot_bytes (x : Fin 7) : BitVec.ofNat 48 (Slot.of x.val).bytes = if x = 4 ∨ x = 5 then 8 else 4 := by
  revert x
  decide

/-- R128: an instruction that cannot go on waits in its queue, and the bundle goes on. -/
theorem stallBundle_queues (hk : s.m.cur.cursor = some k) (hb : k.back = none) (hs : k.slots = x :: rest) (hj : k.instr = some j)
    (ht : s.m.cur.timid = true) (htr : s.m.cur.trapen.toNat % 2 ^ 7 = 0) : s.stallBundle = State.advance { s with m := s.m.withCur { s.m.cur with
      queue := s.m.cur.queue ++ [{ slot := x, instr := j, insn := k.insn, pc := s.m.cur.pc, bundle := k.bundle, group := k.group
                                   sync := k.sync }] } } := by
  have hback : s.m.cur.cursor.bind Cursor.back = none := by rw [hk]; exact hb
  have hentry : s.m.cur.entryNow false = some { slot := x, instr := j, insn := k.insn, pc := s.m.cur.pc, bundle := k.bundle, group := k.group
                                                sync := k.sync, checked := false } := by
    simp only [Cont.entryNow, hk, hs, hj]
  have htraps : s.m.cur.traps = false := decide_eq_false (not_not.mpr htr)
  unfold State.stallBundle
  rw [hback]
  dsimp only
  rw [if_pos ht]
  unfold State.enqueue
  rw [hentry]
  dsimp only
  rw [htraps]
  rfl

theorem advance_next (hk : s.m.cur.cursor = some k) (hs : k.slots = x :: rest) (hr : rest ≠ []) :
    s.advance = { s with m := s.m.withCur { s.m.cur with
      cursor := some { k with slots := rest, addr := k.addr + (if x = 4 ∨ x = 5 then 8 else 4) } } } := by
  have hne : rest.isEmpty = false := by simpa using hr
  unfold State.advance
  rw [hk]
  dsimp only
  rw [hs]
  dsimp only
  rw [hne, slot_bytes]
  rfl

/-- A machine at the cursor of the last slot's end. -/
theorem advance_last (hk : s.m.cur.cursor = some k) (hs : k.slots = [x]) : ∃ k', k' = { k with
      slots := [], addr := k.addr + BitVec.ofNat 48 (Slot.of x.val).bytes } ∧
    s.advance = { s with m := (s.m.withCur { s.m.cur with cursor := some k' }).endBundle, snap := none } := by
  refine ⟨_, rfl, ?_⟩
  unfold State.advance
  rw [hk]
  dsimp only
  rw [hs]
  rfl

/-- R125, R127: the end of a bundle of a running continuation. -/
theorem endBundle_runs {m : Mach} (hk : m.cur.cursor = some k) (hst : m.cur.state = 2) : m.endBundle = { m.tickDie m.cur.die 1 with
    stalled := false
    cur := { m.cur with
      pc := k.next, cursor := none
      flagTrap := if k.back.isSome then m.cur.flagTrap else k.trapSlot
      groupLen := if k.stop || k.jumped then 0 else m.cur.groupLen
      groupWrites := if k.stop || k.jumped then [] else m.cur.groupWrites
      groups := if k.stop || k.jumped then m.cur.groups + 1 else m.cur.groups
      queue := m.cur.leftQueue, timid := false
      fmtUndo := if m.cur.leftQueue.isEmpty then [] else m.cur.fmtUndo
      holds := m.cur.holds.map fun h => { h with live := true } } } := by
  have h6 : ¬(m.cur.state = 6 ∧ k.trapSlot.isSome) := fun h => by
    rw [hst] at h
    exact absurd h.1 (by decide)
  unfold Mach.endBundle
  dsimp only
  rw [hk]
  dsimp only
  rw [if_neg h6, if_neg (not_not.mpr hst)]

theorem advance_ends (hk : s.m.cur.cursor = some k) (hs : k.slots = [x]) (hst : s.m.cur.state = 2) : s.advance.snap = none ∧
    s.advance.m.cyc s.m.cur.die = s.m.cyc s.m.cur.die + 1 ∧ (∀ d, d ≠ s.m.cur.die → s.advance.m.cyc d = s.m.cyc d) ∧
    s.advance.m.cur.pc = k.next ∧ s.advance.m.cur.cursor = none ∧ (k.back = none → s.advance.m.cur.flagTrap = k.trapSlot ∧
      s.advance.m.cur.queue = s.m.cur.queue.map fun e => { e with tried := false }) ∧ s.advance.m.mem = s.m.mem ∧
    s.advance.m.cur.groupWrites = (if k.stop = true ∨ k.jumped = true then [] else s.m.cur.groupWrites) ∧
    s.advance.m.cur.g = s.m.cur.g ∧ s.advance.m.cur.p = s.m.cur.p := by
  obtain ⟨k', hk', hadv⟩ := advance_last hk hs
  have hend := endBundle_runs (m := s.m.withCur { s.m.cur with cursor := some k' }) (k := k') rfl hst
  rw [hadv, hend]
  subst hk'
  refine ⟨rfl, ?_, fun d hd => ?_, rfl, rfl, fun hb => ⟨?_, ?_⟩, rfl, ?_, rfl, rfl⟩
  · show s.m.now + SMap.get 0 (SMap.set 0 s.m.ahead s.m.cur.die (SMap.get 0 s.m.ahead s.m.cur.die + 1)) s.m.cur.die = _
    rw [SMap.get_set_same]
    rfl
  · show s.m.now + SMap.get 0 (SMap.set 0 s.m.ahead s.m.cur.die (SMap.get 0 s.m.ahead s.m.cur.die + 1)) d = _
    rw [SMap.get_set_ne hd]
    rfl
  · dsimp only
    rw [hb]
    rfl
  · dsimp only [Cont.leftQueue, Mach.withCur, Option.bind_some]
    rw [hb]
  · dsimp only [Mach.withCur]
    simp only [Bool.or_eq_true]
end

/-! ### Intake (R125 to R128) -/

section
variable {s : State} {h : ℕ}

theorem bundleBytes_eq (h : ℕ) : bundleBytes h = 4 + bodyBytes h := by
  have hone : ∀ b : Bool, oneBit b 0 = if b then 1 else 0 := fun b => rfl
  simp only [bundleBytes, bodyBytes, hone, bit, List.range, List.range.loop, List.map_cons, List.map_nil, List.sum_cons, List.sum_nil]
  cases h.testBit 0 <;> cases h.testBit 1 <;> cases h.testBit 2 <;> cases h.testBit 3 <;> cases h.testBit 4 <;> cases h.testBit 5 <;>
    cases h.testBit 6 <;> rfl

theorem slotsOf_eq (h : ℕ) : slotsOf (h % 2 ^ 7) = (List.finRange 7).filter fun k => h.testBit k.val := by
  refine List.filter_congr fun k _ => ?_
  rw [bit, Nat.testBit_mod_two_pow]
  simp [k.isLt]

/-- R125: a sync bit stands only where its slot is present. -/
theorem sync_present (hs : ∀ k, k < 7 → h.testBit (8 + k) = true → h.testBit k = true) :
    (h / 2 ^ 8 % 2 ^ 7) &&& (h % 2 ^ 7) = h / 2 ^ 8 % 2 ^ 7 := by
  refine Nat.eq_of_testBit_eq fun k => ?_
  rw [Nat.testBit_and, Nat.testBit_mod_two_pow, Nat.testBit_mod_two_pow, Nat.testBit_div_two_pow]
  by_cases hk : k < 7
  · cases hb : h.testBit (8 + k) with
    | false => simp [Nat.add_comm k 8, hb]
    | true => simp [Nat.add_comm k 8, hb, hs k hk hb, hk]
  · simp [hk]

/-- The header's checks that a bundle passes (R125, R126, R148). -/
def Mach.takesHeader (m : Mach) (hb : List Byte) (h : ℕ) : Prop :=
  m.cur.flagTrap = none ∧ m.fetchBytes m.cur m.cur.pc.toNat 4 = .ok hb ∧ h = leNat hb ∧
    (m.cur.starting = true → m.cur.pc.toNat % 4 = 0 ∧ inGranule m.cur.pc.toNat h = true)

section
variable {m : Mach} {hb body : List Byte} {is : List (Option Instr)} (hh : m.takesHeader hb h)
include hh

theorem takesHeader_start :
    (m.cur.starting && (decide (m.cur.pc.toNat % 4 ≠ 0) || (!m.cur.stage0 && !(inGranule m.cur.pc.toNat h)))) = false := by
  obtain ⟨-, -, -, hstart⟩ := hh
  cases hs : m.cur.starting with
  | false => rfl
  | true =>
    obtain ⟨h4, hg⟩ := hstart hs
    simp [h4, hg]

/-- R125, R127, R358: reserved bits and a seventeenth bundle of a group. -/
theorem dispatch_badHeader (hbad : 2 ^ 15 ≤ h ∨ 16 ≤ m.cur.groupLen) : m.dispatch = .report { cause := 0x1002 } 7 := by
  have hstart := takesHeader_start hh
  obtain ⟨hf, hfetch, rfl, -⟩ := hh
  have hcond : leNat hb / 2 ^ 15 ≠ 0 ∨ (leNat hb / 2 ^ 8 % 2 ^ 7) &&& (leNat hb % 2 ^ 7) ≠ leNat hb / 2 ^ 8 % 2 ^ 7 ∨ 16 ≤ m.cur.groupLen := by
    rcases hbad with hbad | hbad
    · exact .inl (by omega)
    · exact .inr (.inr hbad)
  unfold Mach.dispatch
  dsimp only
  rw [hf]
  dsimp only
  rw [hfetch]
  dsimp only
  rw [hstart, if_neg Bool.false_ne_true, if_pos hcond]

variable (hlow : h < 2 ^ 15) (hsync : ∀ k, k < 7 → h.testBit (8 + k) = true → h.testBit k = true) (hlen : m.cur.groupLen < 16)
  (hbody : m.fetchBytes m.cur (m.cur.pc.toNat + 4) (bodyBytes h) = .ok body)
  (his : is = decodeSlots body ((List.finRange 7).filter fun k => h.testBit k.val))
  (hstop : h.testBit 7 = false → ∀ i, some i ∈ is → needsStop i = false)
include hlow hsync hlen hbody his hstop

/-- What dispatch comes to once the header's checks are passed and the slots are fetched and decoded: the group test decides (R127). -/
theorem dispatch_groupTest : m.dispatch = match groupTest m.cur.groupWrites is with
    | none => .report { cause := 0x1003 } 7
    | some w => .go { m.cur with
        starting := false, groupLen := m.cur.groupLen + 1, groupWrites := w, bundles := m.cur.bundles + 1
        cursor := some { slots := (List.finRange 7).filter fun k => h.testBit k.val, addr := m.cur.pc + 4
                         next := m.cur.pc + BitVec.ofNat 48 (4 + bodyBytes h), sync := BitVec.ofNat 7 (h / 2 ^ 8), stop := h.testBit 7
                         bundle := m.cur.bundles + 1, group := m.cur.groups } } := by
  have hstart := takesHeader_start hh
  obtain ⟨hf, hfetch, rfl, -⟩ := hh
  have hcond : ¬(leNat hb / 2 ^ 15 ≠ 0 ∨ (leNat hb / 2 ^ 8 % 2 ^ 7) &&& (leNat hb % 2 ^ 7) ≠ leNat hb / 2 ^ 8 % 2 ^ 7 ∨ 16 ≤ m.cur.groupLen) := by
    rintro (h1 | h2 | h3)
    · omega
    · exact h2 (sync_present hsync)
    · omega
  have hbytes : bundleBytes (leNat hb) - 4 = bodyBytes (leNat hb) := by
    rw [bundleBytes_eq]
    omega
  have hneeds : (!(bit (leNat hb) 7) && is.any fun i => match i with
      | some i => needsStop i
      | none => false) = false := by
    cases hb7 : (leNat hb).testBit 7 with
    | true => simp [bit, hb7]
    | false =>
      have hall := hstop hb7
      rw [bit, hb7, Bool.not_false, Bool.true_and]
      refine List.any_eq_false.mpr fun o ho => ?_
      cases o with
      | none => exact Bool.false_ne_true
      | some i => simp [hall i ho]
  unfold Mach.dispatch
  dsimp only
  rw [hf]
  dsimp only
  rw [hfetch]
  dsimp only
  rw [hstart, if_neg Bool.false_ne_true, if_neg hcond, hbytes, hbody]
  dsimp only
  rw [slotsOf_eq, ← his]
  refine (if_neg fun h => Bool.false_ne_true (hneeds.symm.trans h)).trans ?_
  rw [bundleBytes_eq]
  rfl
end

section
variable (hd : s.m.canDispatch = true) (hsig : s.m.cur.sig = [])
include hd hsig

theorem dispatch_settled : (!s.m.cur.sig.isEmpty || s.m.cur.inTlbcnf) = false := by
  have htlb : s.m.cur.inTlbcnf = false := by
    unfold Mach.canDispatch at hd
    simp only [Bool.and_eq_true] at hd
    obtain ⟨⟨-, htlb⟩, -⟩ := hd
    simpa using htlb
  rw [hsig, htlb]
  rfl

theorem bundleDispatch_reports {t : Trap} {k : ℕ} (hf : s.m.cur.flagTrap = none) (hr : s.m.dispatch = .report t k) : exec .bundleDispatch s =
    .next (State.takeTrap { s with m := s.m.withCur { s.m.cur with timid := false }, snap := none } t k 0) := by
  have hcur : ({ s.m.cur with flagTrap := none, timid := false } : Cont) = { s.m.cur with timid := false } :=
    congrArg (fun x => ({ s.m.cur with flagTrap := x, timid := false } : Cont)) hf.symm
  show execBundleDispatch s = _
  unfold execBundleDispatch
  rw [dispatch_settled hd hsig, if_neg Bool.false_ne_true]
  dsimp only
  rw [hd, hr]
  dsimp only
  rw [hcur]
  rfl

/-- R125, R128: a bundle without sync bits, and with a slot present, is taken in as it stands. -/
theorem bundleDispatch_takes {c : Cont} {k : Cursor} (hr : s.m.dispatch = .go c) (hk : c.cursor = some k) (hsync : k.sync = 0)
    (hslots : k.slots ≠ []) (htr : c.trapen.toNat % 2 ^ 7 = 0) : ∃ ho pa, exec .bundleDispatch s =
      .next { s with m := { s.m with cur := { c with holds := ho, past := pa }, stalled := false }, snap := some s.m } := by
  have hshadow : s.m.shadowTick c = s.m := by
    unfold Mach.shadowTick
    rw [hk]
    exact if_pos hsync
  have hno : ¬(k.sync ≠ 0 ∨ c.trapen.toNat % 2 ^ 7 ≠ 0) := fun h => h.elim (fun h => h hsync) fun h => h htr
  have hne : k.slots.isEmpty = false := by simpa using hslots
  show ∃ ho pa, execBundleDispatch s = _
  unfold execBundleDispatch
  rw [dispatch_settled hd hsig, if_neg Bool.false_ne_true]
  dsimp only
  rw [hd, hr]
  dsimp only
  rw [hshadow, hk]
  dsimp only
  rw [if_neg hno]
  by_cases hp : k.sync.getLsbD 2 = true ∨ (c.holds.any fun h => !(s.m.holdWaits c h)) = true
  · rw [if_pos hp]
    dsimp only
    rw [hne]
    exact ⟨_, _, rfl⟩
  · rw [if_neg hp]
    dsimp only
    rw [hne]
    exact ⟨_, _, rfl⟩
end
end

/-- Settles O54: guards, the end of a slot and of a bundle, and intake. -/
theorem bundlesAndGuards : Obligations.BundlesAndGuards := by
  unfold Obligations.BundlesAndGuards
  refine ⟨fun i x g s hc hk hg => guard_goes hc hk hg, fun s k x rest j hk hb hs hj ht htr s1 h1 => h1 ▸ stallBundle_queues hk hb hs hj ht htr,
    fun s k x rest c hk hs hc => ⟨fun hr => hc ▸ advance_next hk hs hr, fun hr hst => hc ▸ advance_ends hk (hr ▸ hs) (hc ▸ hst)⟩, ?_⟩
  rintro s c hb h rfl hd hf hsig hfetch hh hstart
  have hhead : s.m.takesHeader hb h := ⟨hf, hfetch, hh, hstart⟩
  refine ⟨fun hbad => bundleDispatch_reports hd hsig hf (dispatch_badHeader hhead hbad), fun hlow hsync hlen body is hbody his hstop => ?_⟩
  have hdispatch := dispatch_groupTest hhead hlow hsync hlen hbody his hstop
  refine ⟨fun hg => bundleDispatch_reports hd hsig hf (hdispatch.trans (by rw [hg])), fun w hg hpresent hnosync htr => ?_⟩
  rw [hg] at hdispatch
  have hslots : ((List.finRange 7).filter fun k => h.testBit k.val) ≠ [] := fun hnil => hpresent <| Nat.eq_of_testBit_eq fun k => by
    rw [Nat.testBit_mod_two_pow, Nat.zero_testBit]
    by_cases hk : k < 7
    · have hfalse := List.filter_eq_nil_iff.mp hnil ⟨k, hk⟩ (List.mem_finRange _)
      simpa [hk] using hfalse
    · simp [hk]
  obtain ⟨ho, pa, hexec⟩ := bundleDispatch_takes hd hsig hdispatch rfl (by rw [hnosync]; rfl) hslots htr
  refine ⟨_, hexec, rfl, rfl, rfl, rfl, rfl, rfl, rfl, rfl, ?_⟩
  dsimp only
  rw [hnosync]
  rfl

end Sys2Proof.Machine
end


section
/-! SUPPORT. What the events of memory and translation make of the machine (R22, R68, R73, R93, R179). -/

namespace Sys2Proof.Machine

variable {m : Mach} {c : Cont}

theorem Mach.recordCont_order (m : Mach) (c : Cont) : (m.recordCont c).order = m.order := by
  unfold Mach.recordCont Mach.putRecord Mach.setCont
  split <;> split <;> rfl

theorem pickerPreempt_stays {s : State} {core : ℕ} {b : Cont}
    (hc : s.m.allConts.find? (fun c => c.id ≠ 0 && c.resident && c.gcore == core && c.state == 2) = some c) (hb : s.m.pickOf core = some b)
    (h : min b.prio.toNat 7 ≤ min c.prio.toNat 7 ∨ c.queue ≠ []) : exec (.pickerPreemptContext core) s = .next (s.after s.m) := by
  show execPickerPreemptContext core s = _
  unfold execPickerPreemptContext runEvent
  dsimp only
  rw [hc, hb]
  dsimp only
  rw [if_pos (h.imp_right fun hq => by simpa using hq)]

theorem pickerPreempt_switches {s : State} {core : ℕ} {b : Cont}
    (hc : s.m.allConts.find? (fun c => c.id ≠ 0 && c.resident && c.gcore == core && c.state == 2) = some c) (hb : s.m.pickOf core = some b)
    (hlow : min c.prio.toNat 7 < min b.prio.toNat 7) (hq : c.queue = []) (hp : c.poisoned = false) :
    exec (.pickerPreemptContext core) s = .next (s.after (({ (s.m.recordCont { c with state := 1, since := s.m.order }) with
      order := s.m.order + 1 } : Mach).pick core)) := by
  show execPickerPreemptContext core s = _
  unfold execPickerPreemptContext runEvent
  dsimp only
  rw [hc, hb]
  dsimp only
  rw [if_neg (by simp [hq]; omega), hp]
  rfl

/-- When a die may apply the next write of a source (R69, R93). -/
theorem Mem.canApply_iff {x : Mem} {e : ℕ} {w : Write} : x.canApply e w = true ↔
    e ∈ w.todo ∧ SMap.get 0 w.stamp w.src = x.clk e w.src + 1 ∧ (∀ p ∈ w.stamp, p.1 = w.src ∨ p.2 ≤ x.clk e p.1) ∧
      (w.bytes = [] ∨ e = homeOf w.pa ∨ homeOf w.pa ∉ w.todo) := by
  simp [Mem.canApply, and_assoc, or_assoc]

theorem strongOperation_eq {s : State} {src : Byte} {op : StrongOp} {pa : BitVec 52} {wd uns : Bool} {v : Word × Word} {n : ℕ}
    (hn : n = if wd then 8 else 4) (hal : pa.toNat % n = 0) (hf : s.m.paFault pa.toNat = none) (x : Mem)
    (hx : x = s.m.mem.gather (homeOf pa.toNat)) (hmark : x.marked (homeOf pa.toNat) pa.toNat = false) (m1 : Mach)
    (hm : ∀ r, r = (amoNew op n uns (leNat (x.read (homeOf pa.toNat) pa.toNat n)) v.1.toNat v.2.toNat).1 →
      (∀ y, r = some y → m1 = s.m.withMem (x.write (homeOf pa.toNat) pa.toNat (leBytes n y) false)) ∧ (r = none → m1 = s.m.withMem x)) :
    exec (.strongOperationAtHome src op pa wd uns v) s =
      .next (s.after (m1.sendTo 1 src.toNat (.strong pa.toNat (toW (leNat (x.read (homeOf pa.toNat) pa.toNat n)))))) := by
  show execStrongOperationAtHome src op pa wd uns v s = _
  unfold execStrongOperationAtHome runEvent
  dsimp only
  subst hn
  rw [hx] at hmark
  rw [hx] at hm
  rw [if_neg (fun h => h.elim (fun h => h hal) fun h => by rw [hf] at h; exact Bool.false_ne_true h), hmark]
  obtain ⟨hsome, hnone⟩ := hm _ rfl
  generalize s.m.mem.gather (homeOf pa.toNat) = y at *
  rw [hx]
  generalize (if wd then 8 else 4) = n at *
  cases hr : (amoNew op n uns (leNat (y.read (homeOf pa.toNat) pa.toNat n)) v.1.toNat v.2.toNat).1 with
  | none => rw [hnone hr, if_neg Bool.false_ne_true]; rfl
  | some z => rw [hsome z hr, if_neg Bool.false_ne_true]; rfl

/-- A byte of memory stands wherever its owner has stored none. -/
theorem fill_undirtied : ∀ {data raw : List Byte}, data.length = raw.length →
    (data.zip ((List.replicate data.length false).zip raw)).map (fun t => if t.2.1 then t.1 else t.2.2) = raw
  | [], [], _ => rfl
  | _ :: _, y :: _, h => by
    rw [List.length_cons, List.replicate_succ, List.zip_cons_cons, List.zip_cons_cons, List.map_cons, fill_undirtied (Nat.succ.inj h)]
    rfl

/-- A fill of a block with no stored byte takes memory's bytes and writes the completion word (R68). -/
theorem Mach.fillBlock_clean {id k : ℕ} {b : LoadBlock} (hc : m.cont? id = some c) (hb : vget c.blocks k none = some b) (hk : k < 8)
    (hf : b.filled = false) (hd : b.dirty = List.replicate b.data.length false) (hl : b.data.length = 64 * b.pas.length) :
    ∃ c1 b1, (m.fillBlock c k).cont? id = some c1 ∧ vget c1.blocks k none = some b1 ∧ b1.filled = true ∧
      b1.data = (b.pas.map fun pa => m.mem.read c.die pa 64).flatten ∧
      (m.fillBlock c k).mem = m.mem.spadWrite b.cword (leBytes 8 b.cval.toNat) false := by
  have hlen : b.data.length = ((b.pas.map fun pa => m.mem.read c.die pa 64).flatten).length := by
    rw [length_flatten_of (fun pa => m.mem.read c.die pa 64) _ fun _ _ => Memory.length_gets .., hl, Nat.mul_comm]
  have hdata := fill_undirtied hlen
  have hid := Mach.cont?_id hc
  unfold Mach.fillBlock
  rw [hb]
  dsimp only
  rw [hf, hd, hdata, if_neg Bool.false_ne_true]
  refine ⟨_, _, Mach.cont?_setCont hc hid, vget_vset_same hk, rfl, rfl, ?_⟩
  dsimp only
  rw [Mach.setCont_mem]

theorem pageWalk_entry {s : State} {task die : ℕ} {t : Task} {va : Word} {e : TlbEntry} (ht : s.m.task? task = some t)
    (hva : canonical va = true) (hh : t.entry.inHeap va = false) (hd : s.m.draining t.ctx va = false) (he : s.m.walkEntry die t va = some e) :
    exec (.pageWalkComplete die task va) s = .next (s.after (if s.m.drainsOn t.ctx e.va.toNat e.len = true then s.m else { s.m with
      tlb := (s.m.tlb.filter fun x => !(x.die == die && x.ctx == t.ctx && overlaps x.va.toNat x.len e.va.toNat e.len)) ++ [e] })) := by
  show execPageWalkComplete die task va s = _
  unfold execPageWalkComplete runEvent
  dsimp only
  rw [ht]
  dsimp only
  rw [hva, hh, hd, he, if_neg (by simp)]

theorem pageWalk_draining {s : State} {task die : ℕ} {t : Task} {va : Word} (ht : s.m.task? task = some t)
    (hd : s.m.draining t.ctx va = true) : exec (.pageWalkComplete die task va) s = .next (s.after s.m) := by
  show execPageWalkComplete die task va s = _
  unfold execPageWalkComplete runEvent
  dsimp only
  rw [ht]
  dsimp only
  rw [if_pos (Or.inr (Or.inr hd))]

theorem translation_first {s : State} {id n : ℕ} {p : TxPend} {t : Task} (hc : s.m.cont? id = some c)
    (hp : (vget c.tx n {}).pend = some p) (hr : p.redo = false) (hdest : p.dest = none) (ht : s.m.task? c.task = some t) :
    exec (.translationComplete id n) s = .next (s.after (s.m.setCont (c.setTx n { vget c.tx n {} with
      word := txWord p, rd := p.rd, pend := none }))) := by
  show execTranslationComplete id n s = _
  unfold execTranslationComplete runEvent
  dsimp only
  rw [hc]
  dsimp only
  rw [hp, ht]
  dsimp only
  rw [hr, if_neg Bool.false_ne_true]
  unfold Mach.finishTx
  rw [hdest]

/-- A vector command that lands writes its bytes and leaves the commands after it in flight (R179). -/
theorem Mach.landV_frame {id : ℕ} {v : VPend} {rest : List VPend} (hc : m.cont? id = some c) (hv : c.vpend = v :: rest) :
    (∀ c1, (m.landV c v).cont? id = some c1 → c1.vpend = rest) ∧
      (m.landV c v).mem = v.writes.foldl (fun x w => x.spadWrite w.key w.bytes w.poison) m.mem := by
  have hid := Mach.cont?_id hc
  have hfind : (m.withMem (v.writes.foldl (fun x w => x.spadWrite w.key w.bytes w.poison) m.mem)).cont? c.id = some c := hid ▸ hc
  unfold Mach.landV
  unfold Mach.withMem at hfind
  dsimp only
  rw [hfind]
  dsimp only
  refine ⟨fun c1 h1 => ?_, by rw [Mach.setCont_mem]⟩
  rw [← hid, Mach.cont?_setCont hfind (by simp)] at h1
  cases h1
  dsimp only
  rw [hv]
  rfl

theorem vectorCompletion_lands {s : State} {id : ℕ} {v : VPend} {rest : List VPend} (hc : s.m.cont? id = some c) (hv : c.vpend = v :: rest) :
    exec (.vectorCommandCompletion id) s = .next (s.after (s.m.landV c v)) := by
  show execVectorCommandCompletion id s = _
  unfold execVectorCommandCompletion runEvent
  dsimp only
  rw [hc]
  dsimp only
  rw [hv]

end Sys2Proof.Machine
end

section
/-! PROOFS. The events of memory and of translation. -/

namespace Sys2Proof.Machine

/-- Settles O43: each event of memory, translation and the vector slot. -/
theorem memoryEvents : Obligations.MemoryEvents := by
  unfold Obligations.MemoryEvents
  intro s
  refine ⟨fun core c b hc hb => ⟨fun h => pickerPreempt_stays hc hb h, fun hlow hq hp m1 h1 => ?_⟩, fun die src w hw => ?_,
    fun src op pa wd uns v cmp n old x hn hal hf hx hmark hold m1 h1 => ?_, fun id c k b hc hb hk hf hd hl => ?_,
    fun die task t va e ht hva hh => ⟨fun hd => pageWalk_draining ht hd, fun hd he hon => ?_, fun hd he hon => ?_⟩,
    fun id c n p t hc hp hr hd ht => translation_first hc hp hr hd ht,
    fun id c v rest hc hv => ⟨vectorCompletion_lands hc hv, Mach.landV_frame hc hv⟩⟩
  · subst h1
    rw [Mach.recordCont_order]
    exact pickerPreempt_switches hc hb hlow hq hp
  · show execWriteApplyAtDie die src s = _
    unfold execWriteApplyAtDie runEvent
    dsimp only
    rw [hw]
    simp only [Mem.canApply_iff]
    rfl
  · subst hold
    refine strongOperation_eq (v := (v, cmp)) hn hal hf x hx hmark m1 fun r hr => ⟨fun y hy => ?_, fun hy => ?_⟩
    · rw [h1, ← hr, hy]
    · rw [h1, ← hr, hy]
  · obtain ⟨c1, b1, h⟩ := Mach.fillBlock_clean hc hb hk hf hd hl
    refine ⟨_, c1, b1, ?_, h⟩
    show execLoadBlockFillComplete id k s = _
    unfold execLoadBlockFillComplete runEvent
    dsimp only
    rw [hc]
  · rw [pageWalk_entry ht hva hh hd he, if_pos hon]
  · rw [pageWalk_entry ht hva hh hd he, if_neg (by rw [hon]; exact Bool.false_ne_true)]

end Sys2Proof.Machine
end


section
/-! SUPPORT. What the events of jobs make of the machine (R11, R81, R137, R220, R222). -/

namespace Sys2Proof.Machine

variable {m : Mach} {c : Cont} {j : Job}

/-! ### Channels -/

/-- A choice folded over a list takes one of its elements. -/
theorem foldl_choice_mem {α : Type} {f : Option α → α → Option α} (hf : ∀ best y, f best y = some y ∨ f best y = best) (l : List α) :
    ∀ {best : Option α} {x : α}, l.foldl f best = some x → x ∈ l ∨ best = some x := by
  induction l with
  | nil => exact fun h => Or.inr h
  | cons y r ih =>
    intro best x h
    rw [List.foldl_cons] at h
    rcases ih h with h | h
    · exact Or.inl (List.mem_cons_of_mem _ h)
    · rcases hf best y with hy | hy
      · rw [hy] at h
        cases h
        exact Or.inl List.mem_cons_self
      · exact Or.inr (hy ▸ h)

/-- The job a channel takes waits on its die (R220). -/
theorem Mach.nextOnDie_waits {d : ℕ} (h : m.nextOnDie d = some j) : j.die = d ∧ j.st = .queued := by
  have hmem := (foldl_choice_mem (fun best y => by
    cases best with
    | none => exact Or.inl rfl
    | some b =>
      dsimp only
      split
      · exact Or.inl rfl
      · exact Or.inr rfl) _ h).resolve_right (by simp)
  simp only [List.mem_filter, Bool.and_eq_true, beq_iff_eq] at hmem
  exact ⟨hmem.2.1.1.1.1, hmem.2.1.1.1.2⟩

/-! ### A job's accesses -/

theorem Mach.jobParts_ok {t : Task} {a : ℤ} {n : ℕ} {need : Acc3} {ps : List (ℕ × ℕ)} (ht : m.task? j.task = some t)
    (h : m.resolveTask j.die t (ofI a) n need = .ok ps) : m.jobParts j a n need = .ok ps := by
  unfold Mach.jobParts
  rw [ht]
  dsimp only
  rw [h]
  rfl

theorem Mach.jobSaw_virt {a : ℤ} {n : ℕ} {ps : List (ℕ × ℕ)} (h : m.jobParts j a n .read = .ok ps) :
    m.jobSaw j c true a n = m.withMem (m.mem.observe j.die ps) := by
  unfold Mach.jobSaw
  rw [if_pos rfl, h]
  rfl

/-- The pages of a range hold it all. -/
theorem pagesOf_sum (fuel va n : ℕ) (h : n < 65536 * fuel + 65536 - va % 65536) : ((pagesOf (fuel + 1) va n).map Prod.snd).sum = n := by
  induction fuel generalizing va n with
  | zero =>
    rw [pagesOf]
    split
    · next h0 => simp [h0]
    · dsimp only
      rw [if_pos (by omega)]
      simp
  | succ fuel ih =>
    rw [pagesOf]
    split
    · next h0 => simp [h0]
    · dsimp only
      split
      · simp
      · next hlt =>
        have := ih (va + (65536 - va % 65536)) (n - (65536 - va % 65536)) (by omega)
        simp only [List.map_cons, List.sum_cons, this]
        omega

/-- A resolved access of a task names all its bytes. -/
theorem Mach.resolveTask_length {d : ℕ} {t : Task} {va : Word} {n : ℕ} {need : Acc3} {ps : List (ℕ × ℕ)}
    (h : m.resolveTask d t va n need = .ok ps) : (ps.map Prod.snd).sum = n := by
  unfold Mach.resolveTask at h
  split at h
  · next h0 => cases h; simp [h0]
  · split at h
    · cases h
    · split at h
      next l hl =>
        split at h
        · cases h
        · cases h
          rw [resolveWith_lengths hl]
          exact pagesOf_sum _ _ _ (by omega)
      next x hx => exact absurd h (hx ps)

/-! ### Marks -/

theorem markKey_granule (d pa : ℕ) : markKey d (pa / 64 * 64) = markKey d pa := by
  have hview : coherent (pa / 64 * 64) = coherent pa := by
    unfold coherent
    exact decide_eq_decide.mpr ⟨fun h => by omega, fun h => by omega⟩
  unfold markKey viewDie
  rw [hview, Nat.mul_div_cancel _ (by norm_num)]

/-- A range without a marked granule has no marked byte. -/
theorem Mem.marked_of_firstMark {x : Mem} {d pa n a : ℕ} (h : x.firstMark d pa n = none) (ha : a ∈ rangeFrom pa n) :
    x.marked d a = false := by
  obtain ⟨k, hk, rfl⟩ := List.mem_map.mp ha
  have hkn := List.mem_range.mp hk
  have hg := List.find?_eq_none.mp h ((pa + k) / 64 * 64) (List.mem_map.mpr ⟨(pa + k) / 64 - pa / 64, List.mem_range.mpr (by omega), by omega⟩)
  have hpos : 0 < n := by omega
  rw [decide_eq_true hpos, Bool.true_and, Bool.not_eq_true] at hg
  unfold Mem.marked at hg ⊢
  rwa [markKey_granule] at hg

/-- What a job reads of parts without marks: their bytes, none of them marked. -/
theorem Mem.readMarked_clean {x : Mem} {d : ℕ} {ps : List (ℕ × ℕ)} (h : x.markParts d ps = none) :
    (ps.map fun p => (x.read d p.1 p.2).zip ((rangeFrom p.1 p.2).map fun a => x.marked d a)).flatten =
      (x.readParts d ps).map fun b => (b, false) := by
  unfold Mem.readParts Mem.markParts at *
  induction ps with
  | nil => rfl
  | cons p r ih =>
    rw [List.findSome?_cons] at h
    cases hp : x.firstMark d p.1 p.2 with
    | some g => rw [hp] at h; cases h
    | none =>
      rw [hp] at h
      have hmarks : ((rangeFrom p.1 p.2).map fun a => x.marked d a) = List.replicate p.2 false :=
        List.eq_replicate_iff.mpr ⟨by simp [rangeFrom], fun b hb => by
          obtain ⟨a, ha, rfl⟩ := List.mem_map.mp hb
          exact Mem.marked_of_firstMark hp ha⟩
      have hlen : (x.read d p.1 p.2).length = p.2 := Memory.length_gets ..
      simp only [List.map_cons, List.flatten_cons, List.map_append, ih h, hmarks]
      refine congrArg (· ++ _) (List.ext_getElem (by simp [hlen]) fun i h1 h2 => by simp)

/-! ### One row in one granule -/

theorem granules_single {a : ℤ} {l : List (Byte × Bool)} (n : ℕ) (hl : l ≠ []) (hfit : (l.length : ℤ) ≤ 64 - a % 64) :
    granules (n + 2) a l = [(a, l)] := by
  have hk : l.length ≤ (64 - a % 64).toNat := by omega
  rw [granules, if_neg (by simpa using hl)]
  dsimp only
  rw [List.take_of_length_le hk, List.drop_of_length_le hk]
  rfl

theorem Row.pieces_single {r : Row} (hl : r.data ≠ []) (hfit : (r.data.length : ℤ) ≤ 64 - r.dst % 64) : r.pieces = [r] := by
  unfold Row.pieces
  rw [granules_single _ hl hfit]
  cases r with
  | mk dst data src => cases src <;> simp

/-- A move's counter of free values stands outside what an access of it means. -/
theorem Mach.jobReadMarked_free (m : Mach) (j : Job) (c : Cont) (a : ℤ) (n k : ℕ) :
    ({ m with freeCount := k } : Mach).jobReadMarked j c true a n = m.jobReadMarked j c true a n := rfl

/-- A move of one row in one granule lands its bytes (R98, R222). -/
theorem Mach.landRows_single {r : Row} {a : ℤ} (hop : j.op ≠ opDmcast) (hl : r.data ≠ []) (hfit : (r.data.length : ℤ) ≤ 64 - r.dst % 64)
    (hs : j.card.sspace = true) (hsrc : r.src = some a) (hread : m.jobReadMarked j c true a r.data.length = .ok r.data) :
    m.landRows j c [r] = ({ m with freeCount := m.freeCount + 1 } : Mach).jobWrite j c j.card.dspace r.dst (r.data.map Prod.fst) (r.data.any Prod.snd) := by
  have hpieces : ([r].map Row.pieces).flatten.zipIdx = [(r, 0)] := by
    rw [List.map_singleton, Row.pieces_single hl hfit]
    rfl
  have hdata : ({ m with freeCount := m.freeCount + 1 } : Mach).pieceData j c m.freeCount r = r.data := by
    unfold Mach.pieceData
    rw [hsrc]
    dsimp only
    rw [hs, Mach.jobReadMarked_free, hread]
    dsimp only [mixed]
    rw [if_pos rfl]
  unfold Mach.landRows
  dsimp only
  rw [hpieces, if_neg hop, show byRank (Config.landRank m.freeCount) [(r, 0)] = [(r, 0)] from rfl, ite_self, eachJ]
  dsimp only
  rw [hdata]
  unfold Mach.landPiece
  exact bind_pure _

end Sys2Proof.Machine
end


section
/-! SUPPORT. A DCOPY of one row in one granule, from its move to the end of its job (R81, R98, R222). -/

namespace Sys2Proof.Machine

variable {m : Mach} {c : Cont} {j : Job} {t : Task} {x : Mem} {ps rs qs : List (ℕ × ℕ)}

/-- A card that moves one row of virtual memory into one granule, and makes no signal. -/
structure Job.MovesOneRow (j : Job) : Prop where
  op : j.op = 0
  dport : j.card.dport = false
  kflags : j.card.kflags = 0
  rows : j.card.rows = 1
  radv : j.card.radv = false
  aincEn : j.card.aincEn = false
  cmpl : j.card.cmpl = false
  follow : j.follow = false
  sspace : j.card.sspace = true
  dspace : j.card.dspace = true
  some1 : 1 ≤ j.card.rbytes
  fits : j.card.dst % 64 + j.card.rbytes ≤ 64

/-- Where the row comes from, what its die then sees, and where the row goes. -/
structure Mach.MovesFrom (m : Mach) (j : Job) (t : Task) (x : Mem) (ps rs qs : List (ℕ × ℕ)) : Prop where
  task : m.task? j.task = some t
  before : m.resolveTask j.die t (toW j.card.src) j.card.rbytes .read = .ok ps
  seen : x = m.mem.observe j.die ps
  source : (m.withMem x).resolveTask j.die t (toW j.card.src) j.card.rbytes .read = .ok rs
  dest : (m.withMem x).resolveTask j.die t (toW j.card.dst) j.card.rbytes .write = .ok qs
  clean : x.markParts j.die rs = none

/-- The row as the move takes it. -/
def Job.rowOf (j : Job) (x : Mem) (rs : List (ℕ × ℕ)) : Row :=
  { dst := (j.card.dst : ℤ), data := (x.readParts j.die rs).map fun b => (b, false), src := some (j.card.src : ℤ) }

theorem Job.MovesOneRow.plan (hj : j.MovesOneRow) : (if j.op = opDmcast ∧ j.mm = 0 then [] else rowPlan j.op j.card []) = [((j.card.src : ℤ), (j.card.dst : ℤ))] := by
  have hne : ¬(j.op = opDmcast ∧ j.mm = 0) := fun h => absurd (hj.op.symm.trans h.1) (by decide)
  rw [if_neg hne]
  unfold rowPlan
  rw [hj.op, hj.rows, if_neg (by decide), if_neg (by decide)]
  simp

section
variable (hm : m.MovesFrom j t x ps rs qs)
include hm

theorem Mach.MovesFrom.length : (x.readParts j.die rs).length = j.card.rbytes :=
  (x.length_readParts j.die rs).trans (Mach.resolveTask_length hm.source)

theorem Mach.MovesFrom.saw (c : Cont) (n : ℕ) :
    (m.jobSawAll j c true n []).jobSawAll j c true j.card.rbytes [(j.card.src : ℤ)] = m.withMem x := by
  show m.jobSaw j c true (j.card.src : ℤ) j.card.rbytes = _
  rw [Mach.jobSaw_virt (Mach.jobParts_ok hm.task (by rw [ofI_natCast]; exact hm.before)), hm.seen]

theorem Mach.MovesFrom.row_length : (j.rowOf x rs).data.length = j.card.rbytes := (List.length_map ..).trans (hm.length)

variable (hj : j.MovesOneRow)
include hj

theorem Mach.MovesFrom.read (c : Cont) : (m.withMem x).jobReadMarked j c true (j.card.src : ℤ) j.card.rbytes = .ok (j.rowOf x rs).data := by
  unfold Mach.jobReadMarked
  have hpos := hj.some1
  rw [if_neg (by omega), if_pos rfl, Mach.jobParts_ok (m := m.withMem x) hm.task (by rw [ofI_natCast]; exact hm.source)]
  exact congrArg Except.ok (Mem.readMarked_clean hm.clean)

/-- The row's bytes land where the card says. -/
theorem Mach.MovesFrom.lands (c : Cont) : (m.withMem x).landRows j c [j.rowOf x rs] =
    .ok { m with freeCount := m.freeCount + 1, mem := x.landParts j.die qs (x.readParts j.die rs) false } := by
  have hlen := hm.row_length
  have hpos := hj.some1
  have hfits := hj.fits
  have hne : (j.rowOf x rs).data ≠ [] := fun h => by rw [h] at hlen; simp at hlen; omega
  have hbytes : (j.rowOf x rs).data.map Prod.fst = x.readParts j.die rs := by
    unfold Job.rowOf
    rw [List.map_map]
    exact List.map_id _
  have hmarks : (j.rowOf x rs).data.any Prod.snd = false := by simp [Job.rowOf]
  rw [Mach.landRows_single (a := (j.card.src : ℤ)) (by rw [hj.op]; decide) hne (by rw [hlen]; simp only [Job.rowOf]; omega) hj.sspace rfl
    (by rw [hlen]; exact hm.read hj c), hbytes, hmarks, hj.dspace]
  unfold Mach.jobWrite
  have hparts : ({ (m.withMem x) with freeCount := (m.withMem x).freeCount + 1 } : Mach).jobParts j (j.rowOf x rs).dst (x.readParts j.die rs).length .write
      = .ok qs := by
    rw [hm.length]
    exact Mach.jobParts_ok (m := m.withMem x) hm.task (by simp only [Job.rowOf]; rw [ofI_natCast]; exact hm.dest)
  rw [if_neg (by rw [← hbytes]; simpa using hne), if_pos rfl, hparts]
  rfl

/-- The move of the row. -/
theorem Mach.MovesFrom.moves (c : Cont) : m.moveRows j c =
    .ok { m := { m with freeCount := m.freeCount + 1, mem := x.landParts j.die qs (x.readParts j.die rs) false }, rows := j.card.rowCount j.op } := by
  have hlist : (useOf j.op).list = false := by rw [hj.op]; rfl
  unfold Mach.moveRows
  dsimp only
  rw [hj.dport, if_neg Bool.false_ne_true, hlist, if_neg Bool.false_ne_true, pure_bind, hj.plan, if_neg Bool.false_ne_true, hj.sspace,
    List.map_singleton, hm.saw]
  simp only [gatherJ]
  rw [hm.read hj]
  have hrow : (m.withMem x).landRows j c [{ dst := (j.card.dst : ℤ), data := (j.rowOf x rs).data, src := some (j.card.src : ℤ) }] = _ := hm.lands hj c
  exact congrArg (fun y : JobM Mach => y >>= fun m => pure ({ m := m, rows := j.card.rowCount j.op } : Landed)) hrow

end

/-! ### The end of the job -/

/-- A job without signals and without a follow-on is gone once its payload has landed (R81). -/
theorem Mach.jobSignals_silent (hc : m.cont? j.cont = some c) (hr : j.card.radv = false) (ha : j.card.aincEn = false)
    (hk : j.card.cmpl = false) (hf : j.follow = false) (rows : ℕ) :
    m.jobSignals j rows 0 = .ok { (m.setCont c) with jobs := m.jobs.filter fun x => x.id ≠ j.id } := by
  unfold Mach.jobSignals
  rw [hc]
  dsimp only
  rw [hr, ha, Bool.or_false, if_neg Bool.false_ne_true, pure_bind, if_neg Bool.false_ne_true, pure_bind, if_neg Bool.false_ne_true, List.foldl_nil, pure_bind, hc]
  dsimp only
  rw [show c.setFlags 5 0 true j.pc = c from if_pos rfl, Mach.cont?_setCont hc (Mach.cont?_id hc), hf]
  dsimp only
  rw [show (m.setCont c).completionWrite j c = m.setCont c by unfold Mach.completionWrite; dsimp only; rw [hk]; rfl, if_neg Bool.false_ne_true, Mach.setCont_jobs]
  rfl

theorem Mach.completeJob_moves {n : ℕ} (hj : j.MovesOneRow) (hm : m.MovesFrom j t x ps rs qs) (hn : m.job? n = some j) (hc : m.cont? j.cont = some c)
    (hst : j.st = .started) (hb : m.jobBlocked j = false) (hres : c.resident = true) (he : m.exnBefore j = false) :
    (m.completeJob n).mem = x.landParts j.die qs (x.readParts j.die rs) false ∧ (m.completeJob n).jobs = m.jobs.filter fun x => x.id ≠ j.id := by
  have hpay : m.jobPayload j c = m.moveRows j c := by
    unfold Mach.jobPayload
    rw [if_neg (by rw [hj.kflags]; simp), if_pos (by rw [hj.op]; decide)]
  have hstage : (j.op == opDstage) = false := by rw [hj.op]; decide
  have hsig := Mach.jobSignals_silent (m := { m with freeCount := m.freeCount + 1, mem := x.landParts j.die qs (x.readParts j.die rs) false })
    (c := c) hc hj.radv hj.aincEn hj.cmpl hj.follow (j.card.rowCount j.op)
  unfold Mach.completeJob
  rw [hn]
  dsimp only
  rw [hc]
  dsimp only
  rw [if_neg (by simp [hst, hb, hres]), if_neg (by rw [hj.op]; decide), he, if_neg Bool.false_ne_true, if_neg (by rw [hj.op]; decide),
    if_neg (by rw [hj.op]; decide)]
  unfold Mach.finishJob
  dsimp only
  rw [if_neg (by rw [hj.op]; decide), hpay, hm.moves hj c]
  dsimp only [bind, Except.bind]
  rw [hsig]
  dsimp only
  rw [hstage]
  exact ⟨Mach.setCont_mem _ _, rfl⟩

end Sys2Proof.Machine
end


section
/-! SUPPORT. Follow-ons and answers (R137, R248). -/

namespace Sys2Proof.Machine

variable {m : Mach} {c : Cont} {j : Job} {n : ℕ}

theorem Mach.issueFollow_waits (hn : m.job? n = some j) (hc : m.cont? j.cont = some c)
    (h : j.st ≠ .landed ∨ j.follow = false ∨ c.resident = false ∨ (vget c.mx.ac j.ac.toNat 0).toNat < j.card.thr ∨ 8 ≤ c.mx.tq1.length ∨
      m.runHolds c = true) : m.issueFollow n = m := by
  unfold Mach.issueFollow
  rw [hn]
  dsimp only
  rw [hc]
  dsimp only
  rw [if_pos (by simpa using h)]

/-- A follow-on whose counter has reached its threshold enters tile queue 1 (R137). -/
theorem Mach.issueFollow_enters (hn : m.job? n = some j) (hc : m.cont? j.cont = some c) (hst : j.st = .landed) (hf : j.follow = true)
    (hr : c.resident = true) (hv : j.card.thr ≤ (vget c.mx.ac j.ac.toNat 0).toNat) (hq : c.mx.tq1.length < 8) (hh : m.runHolds c = false) :
    ∃ c1 e, (m.issueFollow n).cont? j.cont = some c1 ∧ c1.mx.tq1 = c.mx.tq1 ++ [e] ∧ e.mx = BitVec.ofNat 64 j.card.follow ∧ e.fmt = j.fmt ∧
      vget c1.mx.ac j.ac.toNat 0 = BitVec.ofNat 32 ((vget c.mx.ac j.ac.toNat 0).toNat - j.card.thr) ∧
      (m.issueFollow n).jobs = m.jobs.filter fun x => x.id ≠ n := by
  have hid := Mach.cont?_id hc
  unfold Mach.issueFollow
  rw [hn]
  dsimp only
  rw [hc]
  dsimp only
  rw [if_neg fun h => by
    rcases h with h | h | h | h | h | h
    · exact h hst
    · rw [hf] at h; exact Bool.false_ne_true h
    · rw [hr] at h; exact Bool.false_ne_true h
    · omega
    · omega
    · exact Bool.false_ne_true (hh.symm.trans h)]
  exact ⟨_, _, Mach.cont?_setCont hc hid, rfl, rfl, rfl, vget_vset_same j.ac.isLt, rfl⟩

theorem Mach.setCont_setCont {c1 c2 : Cont} (h : c1.id = c2.id) : (m.setCont c1).setCont c2 = m.setCont c2 := by
  unfold Mach.setCont
  rw [h]
  by_cases hk : (m.cur.id == c2.id) = true
  · rw [if_pos hk, if_pos hk]
    dsimp only
    rw [if_pos (by simp [h])]
  · rw [if_neg hk, if_neg hk, if_neg hk]
    dsimp only
    rw [List.map_map]
    refine congrArg (fun l => ({ m with conts := l } : Mach)) (List.map_congr_left fun u _ => ?_)
    by_cases hu : u.id = c2.id
    · simp [hu, h]
    · simp [hu]

theorem Mach.thiefOf_setCont (m : Mach) (c : Cont) (q k : ℕ) : (m.setCont c).thiefOf q k = m.thiefOf q k := by
  unfold Mach.thiefOf Mach.team?
  rw [Mach.setCont_teams]

/-- An answer reaches its general register (R248). -/
theorem Mach.answer_plain {id : ℕ} {a : Answer} {v : Word} (hc : m.cont? id = some c) (ha : c.answers.find? (fun a => a.value.isSome) = some a)
    (hv : a.value = some v) (hd : a.d.toNat < 24) (h0 : a.d ≠ 0) (hr : c.resident = true) (ht : m.thiefOf c.task c.team.toNat = none) :
    m.answer id = m.setCont { c with
      answers := c.answers.erase a, g := vset c.g a.d.toNat v, gPoison := vset c.gPoison a.d.toNat none } := by
  have hid := Mach.cont?_id hc
  unfold Mach.answer
  rw [hc]
  dsimp only
  rw [ha]
  dsimp only
  rw [Mach.thiefOf_setCont, ht]
  dsimp only
  unfold Mach.deliver
  rw [Mach.cont?_setCont (c' := { c with answers := c.answers.erase a }) hc hid]
  dsimp only
  rw [if_neg h0, if_pos hd, hr, if_pos rfl, Mach.setCont_setCont (by rfl), hv]
  rfl

end Sys2Proof.Machine
end

section
/-! PROOFS. The events of jobs and follow-ons. -/

namespace Sys2Proof.Machine

/-- Settles O44: channels, a copy of one row, follow-ons and answers. -/
theorem jobEvents : Obligations.JobEvents := by
  unfold Obligations.JobEvents
  intro s
  refine ⟨fun die j hj hfree => ⟨?_, Mach.nextOnDie_waits hj⟩, fun die hnone => ?_, ?_, fun n j c v hn hc hv => ⟨fun h => ?_, fun hst hf hr ht hq hh => ?_⟩,
    fun id c a v d hc ha hv hd hlow h0 hr ht => ?_⟩
  · show Host.Outcome.next (s.after (s.m.startJob die)) = _
    unfold Mach.startJob
    rw [if_neg (by unfold engineChannels; omega), hj]
  · show Host.Outcome.next (s.after (s.m.startJob die)) = _
    unfold Mach.startJob
    rcases hnone with h | h
    · rw [h, ite_self]
    · rw [if_pos (show engineChannels ≤ _ from h)]
  · rintro n j c t ps rs qs x k hn hc hst hop hb hres he ht rfl hdp hkf hrows hradv hainc hcmpl - hfol hss hds h1 hfit hps hx hrs hqs hmark
    exact ⟨_, rfl, Mach.completeJob_moves ⟨hop, hdp, hkf, hrows, hradv, hainc, hcmpl, hfol, hss, hds, h1, hfit⟩ ⟨ht, hps, hx, hrs, hqs, hmark⟩
      hn hc hst hb hres he⟩
  · subst hv
    exact congrArg (fun x => Host.Outcome.next (s.after x)) (Mach.issueFollow_waits hn hc h)
  · subst hv
    obtain ⟨c1, e, h⟩ := Mach.issueFollow_enters hn hc hst hf hr ht hq hh
    exact ⟨_, c1, e, rfl, h⟩
  · subst hd
    exact congrArg (fun x => Host.Outcome.next (s.after x)) (Mach.answer_plain hc ha hv hlow h0 hr ht)

end Sys2Proof.Machine
end


section
/-! SUPPORT. What stands through the end of a task: a property of memory that its operations keep, and the fills under way. -/

namespace Sys2Proof.Machine

/-- A property of memory that the operations the task layer makes keep. -/
structure MemInv (P : Mem → Prop) : Prop where
  write : ∀ {x : Mem} {e pa : ℕ} {l : List Byte} {q : Bool}, P x → P (x.write e pa l q)
  writeParts : ∀ {x : Mem} {e : ℕ} {ps : List (ℕ × ℕ)} {l : List Byte} {q : Bool}, P x → P (x.writeParts e ps l q)
  catchUp : ∀ {x : Mem} {e : ℕ} {t : SMap ℕ}, P x → P (x.catchUp e t)
  strongPrep : ∀ {x : Mem} {e a pa n : ℕ} {w : Bool} {t : SMap ℕ}, P x → P (x.strongPrep e a pa n w t)
  strongWrite : ∀ {x : Mem} {e a pa : ℕ} {l : List Byte} {q : Bool}, P x → P (x.strongWrite e a pa l q)

theorem MemInv.canonical : MemInv Mem.Canonical where
  write h := h.write
  writeParts h := h.writeParts
  catchUp h := h.catchUp
  strongPrep h := h.strongPrep
  strongWrite h := h.strongWrite

theorem MemInv.trivial : MemInv fun _ => True := ⟨id, id, id, id, id⟩

/-- A machine whose memory and whose fills under way have given properties, the first one that memory's operations keep. -/
def Mach.Tidy (P : Mem → Prop) (Q : List Fill → Prop) (m : Mach) : Prop := MemInv P ∧ P m.mem ∧ Q m.fills

namespace Mach.Tidy

variable {P : Mem → Prop} {Q : List Fill → Prop} {m m' : Mach}

/-- What changes neither memory nor the fills. -/
theorem of_same (h : m.Tidy P Q) (hm : m'.mem = m.mem) (hf : m'.fills = m.fills) : m'.Tidy P Q := by
  unfold Mach.Tidy
  rw [hm, hf]
  exact h

theorem withMem {x : Mem} (h : m.Tidy P Q) (hx : P x) : Mach.Tidy P Q { m with mem := x } := ⟨h.1, hx, h.2.2⟩

theorem ite {p : Prop} [Decidable p] (h : m.Tidy P Q) (h' : m'.Tidy P Q) : Mach.Tidy P Q (if p then m else m') := by
  split
  · exact h
  · exact h'

theorem foldl {β : Type} {f : Mach → β → Mach} (hf : ∀ m b, m.Tidy P Q → (f m b).Tidy P Q) (l : List β) :
    ∀ {m : Mach}, m.Tidy P Q → (l.foldl f m).Tidy P Q := by
  induction l with
  | nil => exact fun h => h
  | cons b r ih => exact fun h => ih (hf _ _ h)

/-! ### The tables -/

theorem setCont {c : Cont} (h : m.Tidy P Q) : (m.setCont c).Tidy P Q := h.of_same (Mach.setCont_mem ..) (Mach.setCont_fills ..)

theorem setTask {t : Task} (h : m.Tidy P Q) : (m.setTask t).Tidy P Q := h

theorem setSeq {k : ℕ} {x : Seq} (h : m.Tidy P Q) : (m.setSeq k x).Tidy P Q := h

theorem setGraph {g : Graph} (h : m.Tidy P Q) : (m.setGraph g).Tidy P Q := h

theorem unreserve {k : ℕ} {q : List (ℕ × ℕ)} (h : m.Tidy P Q) : (m.unreserve k q).Tidy P Q := h

theorem stopWork {q : ℕ} (h : m.Tidy P Q) : (m.stopWork q).Tidy P Q := h

theorem clearRx {p : RxReg → Bool} (h : m.Tidy P Q) : (m.clearRx p).Tidy P Q := h

theorem sendTo {lane dest : ℕ} {b : Pkt} {j : Option ℕ} (h : m.Tidy P Q) : (m.sendTo lane dest b j).Tidy P Q := by
  unfold Mach.sendTo
  split <;> exact h

theorem fillAnswer {id : ℕ} {d : GF} {v : Word} (h : m.Tidy P Q) : (m.fillAnswer id d v).Tidy P Q := by
  unfold Mach.fillAnswer
  split
  · exact h
  · exact h.setCont

theorem switchTo {id : ℕ} (h : m.Tidy P Q) : (m.switchTo id).Tidy P Q := by
  unfold Mach.switchTo
  split
  · exact h
  · split <;> exact h

theorem grantFrom (n : ℕ) : ∀ {m : Mach}, m.Tidy P Q → (m.grantFrom n).Tidy P Q := by
  induction n with
  | zero => exact fun h => h
  | succ n ih =>
    intro m h
    rw [Mach.grantFrom]
    split
    · exact h
    · exact ih h.setTask

theorem grantEntries (h : m.Tidy P Q) : m.grantEntries.Tidy P Q := h.grantFrom _

/-! ### Records, logs and completion words -/

theorem putRecord {c : Cont} (h : m.Tidy P Q) : (m.putRecord c).Tidy P Q := h.ite (h.withMem (h.1.write h.2.1))

theorem recordCont {c : Cont} (h : m.Tidy P Q) : (m.recordCont c).Tidy P Q := h.setCont.putRecord

theorem putSave {c : Cont} {off : ℕ} {b : List Byte} (h : m.Tidy P Q) : (m.putSave c off b).Tidy P Q := h.ite (h.withMem (h.1.write h.2.1))

theorem putTrapRecord {c : Cont} {b : List Byte} (h : m.Tidy P Q) : (m.putTrapRecord c b).Tidy P Q := h.putSave

theorem logError {t : Trap} {i : LogInfo} (h : m.Tidy P Q) : (m.logError t i).Tidy P Q := by
  unfold Mach.logError
  split
  · exact h
  · dsimp only
    split
    · exact h
    · exact h.withMem (h.1.write h.2.1)

theorem ctxWrite {die : ℕ} {ctx : BitVec 12} {e : CtxEntry} {va : Word} {b : List Byte} (h : m.Tidy P Q) :
    (m.ctxWrite die ctx e va b).Tidy P Q := by
  unfold Mach.ctxWrite
  split
  · exact h
  · split
    · exact h.withMem (h.1.writeParts h.2.1)
    · exact h

theorem putTaskState {t : Task} {k : Cause} (h : m.Tidy P Q) : (m.putTaskState t k).Tidy P Q := h.ctxWrite

/-- A die catches up with every die of a list. -/
theorem catchUpAll {d : ℕ} {l : List ℕ} {f : ℕ → SMap ℕ} (h : m.Tidy P Q) :
    Mach.Tidy P Q { m with mem := l.foldl (fun x e => x.catchUp d (f e)) m.mem } := by
  refine h.withMem ?_
  have hx := h.2.1
  generalize m.mem = x at hx
  induction l generalizing x with
  | nil => exact hx
  | cons e r ih => exact ih _ (h.1.catchUp hx)

/-! ### Continuations that end -/

theorem recallTeams {q : ℕ} (h : m.Tidy P Q) : (m.recallTeams q).Tidy P Q := h.foldl (fun m t h => by
  split
  · exact h.sendTo
  · exact h.sendTo
  · exact h) _

theorem settlePrmts {q : ℕ} {v : Word} (h : m.Tidy P Q) : (m.settlePrmts q v).Tidy P Q :=
  Mach.Tidy.foldl (fun _ _ h => h.fillAnswer) _ (m := { m with prmts := m.prmts.filter fun p => p.task ≠ q }) h

theorem endConts {q : ℕ} {st : Byte} {k : Cause} (h : m.Tidy P Q) : (m.endConts q st k).Tidy P Q :=
  (h.foldl (fun _ _ h => h.recordCont) _ :)

theorem releaseRecords {q : ℕ} (h : m.Tidy P Q) : (m.releaseRecords q).Tidy P Q :=
  (h.foldl (fun _ _ h => h.putRecord) _ :)

theorem dropGuest {q : ℕ} {k : Cause} (h : m.Tidy P Q) : (m.dropGuest q k).Tidy P Q :=
  (h.endConts.stopWork.releaseRecords :)

theorem kill {q : ℕ} {again : Bool} (h : m.Tidy P Q) : (m.kill q again).Tidy P Q := by
  unfold Mach.kill
  split
  · exact h
  · split
    · exact h
    · split
      · exact h.setTask.sendTo
      · have hw := ((h.recallTeams (q := q)).settlePrmts (q := q) (v := 0)).endConts (q := q) (st := 7) (k := 0)
        exact Mach.Tidy.putTaskState (Mach.Tidy.grantEntries hw)

/-! ### Graphs -/

theorem putGraph {g : Graph} (h : m.Tidy P Q) : (m.putGraph g).Tidy P Q := h.setGraph.ctxWrite.ctxWrite.ctxWrite

theorem putNode {g : Graph} {i : ℕ} {n : Node} (h : m.Tidy P Q) : (m.putNode g i n).Tidy P Q := by
  unfold Mach.putNode
  dsimp only
  split
  · exact h.ctxWrite.ctxWrite.ctxWrite
  · exact h.ctxWrite.ctxWrite

theorem setNode {gid i : ℕ} {n : Node} (h : m.Tidy P Q) : (m.setNode gid i n).Tidy P Q := by
  unfold Mach.setNode
  split
  · exact h
  · exact h.setGraph.putNode

theorem fireNode {gid i : ℕ} (h : m.Tidy P Q) : (m.fireNode gid i).Tidy P Q := by
  unfold Mach.fireNode
  split
  · exact h
  · split
    · exact h
    · split
      · exact h
      · split
        · exact h
        · exact Mach.Tidy.putTaskState (Mach.Tidy.grantEntries (Mach.Tidy.setNode h.releaseRecords))

theorem fireReady {gid : ℕ} (h : m.Tidy P Q) : (m.fireReady gid).Tidy P Q := by
  unfold Mach.fireReady
  split
  · exact h
  · exact h.foldl (fun _ _ h => h.fireNode) _

theorem replayEnd {gid : ℕ} (h : m.Tidy P Q) : (m.replayEnd gid).Tidy P Q := by
  unfold Mach.replayEnd
  split
  · exact h
  · split
    · exact h
    · refine Mach.Tidy.foldl (fun _ _ h => h.logError) _ ?_
      refine Mach.Tidy.ite ?_ (Mach.Tidy.ctxWrite ?_) <;> exact Mach.Tidy.catchUpAll (Mach.Tidy.grantEntries (Mach.Tidy.putGraph h))

theorem graphFault {gid i : ℕ} (h : m.Tidy P Q) : (m.graphFault gid i).Tidy P Q := by
  unfold Mach.graphFault
  split
  · exact h
  · refine Mach.Tidy.replayEnd (Mach.Tidy.foldl (fun m j h => ?_) _ (Mach.Tidy.foldl (fun _ _ h => h.kill) _ h.setGraph))
    split
    · exact h
    · exact h.setNode.ite (h.ite h.setNode)

theorem nodeFailed {gid i : ℕ} {k : Cause} {r : Bool} (h : m.Tidy P Q) : (m.nodeFailed gid i k r).Tidy P Q := by
  unfold Mach.nodeFailed
  split
  · exact h
  · split
    · exact h
    · dsimp only
      split
      · exact h.setNode.replayEnd
      · split
        · exact h.setNode.graphFault
        · split
          · refine Mach.Tidy.fireReady (Mach.Tidy.fireNode (Mach.Tidy.foldl (fun m j hm => ?_) _
              (Mach.Tidy.setNode (Mach.Tidy.foldl (fun m j hm => ?_) _ h.setNode))))
            all_goals
              split
              · exact hm.setNode.ite hm
              · exact hm
          · refine Mach.Tidy.ite (Mach.Tidy.foldl (fun m j hm => ?_) _ h.setNode) (Mach.Tidy.replayEnd (Mach.Tidy.foldl (fun m j hm => ?_) _ h.setNode))
            all_goals
              split
              · exact hm.setNode.ite hm
              · exact hm

/-! ### The end of a task -/

theorem endTask {q : ℕ} {r : Report} (h : m.Tidy P Q) : (m.endTask q r).Tidy P Q := by
  unfold Mach.endTask
  split
  · exact h
  · split
    · exact h
    · split
      · exact h.sendTo.dropGuest
      · have hwork := ((h.recallTeams (q := q)).settlePrmts (q := q) (v := 0)).endConts (q := q) (st := 7) (k := r.trap.cause)
        dsimp only
        split
        · refine Mach.Tidy.nodeFailed (Mach.Tidy.logError (Mach.Tidy.ite ?_ (Mach.Tidy.ctxWrite ?_))) <;>
            exact Mach.Tidy.catchUpAll (Mach.Tidy.putTaskState (Mach.Tidy.grantEntries hwork))
        · refine Mach.Tidy.logError (Mach.Tidy.ite ?_ (Mach.Tidy.ctxWrite ?_)) <;>
            exact Mach.Tidy.catchUpAll (Mach.Tidy.putTaskState (Mach.Tidy.grantEntries hwork))

theorem pick {k : ℕ} (h : m.Tidy P Q) : (m.pick k).Tidy P Q := by
  unfold Mach.pick
  split
  · exact h
  · split
    · exact h
    · exact h.recordCont.switchTo.ite h.recordCont

theorem reportEnd {c : Cont} {r : Report} (h : m.Tidy P Q) : (m.reportEnd c r).Tidy P Q := by
  unfold Mach.reportEnd
  split
  · exact (h.setCont :)
  · exact h.setCont.putTrapRecord.endTask.pick

theorem jobEnds {j : Job} {t : Trap} (h : m.Tidy P Q) : (m.jobEnds j t).Tidy P Q := by
  unfold Mach.jobEnds
  split
  · exact h
  · split <;> exact h.reportEnd

theorem seqFails {k : ℕ} {t : Trap} (h : m.Tidy P Q) : (m.seqFails k t).Tidy P Q := by
  unfold Mach.seqFails
  split
  · exact h
  · dsimp only
    split
    · exact h
    · exact Mach.Tidy.reportEnd h

theorem readerFails {who : Reader} {t : Trap} (h : m.Tidy P Q) : (m.readerFails who t).Tidy P Q := by
  unfold Mach.readerFails
  split
  · split
    · exact h.jobEnds
    · exact h
  · exact h.seqFails

/-! ### A fill that cannot finish -/

theorem homePrep {d : ℕ} {ps : List (ℕ × ℕ)} {rel : Bool} {past : SMap ℕ} (h : m.Tidy P Q) : (m.homePrep d ps rel past).Tidy P Q := by
  refine h.withMem ?_
  have hx := h.2.1
  generalize m.mem = x at hx
  induction ps generalizing x with
  | nil => exact hx
  | cons p r ih => exact ih _ (h.1.strongPrep hx)

theorem homeWrite {d : ℕ} {ps : List (ℕ × ℕ)} {b : List Byte} {q : Bool} (h : m.Tidy P Q) : (m.homeWrite d ps b q).Tidy P Q := by
  unfold Mach.homeWrite
  induction ps generalizing m b with
  | nil => exact h
  | cons p r ih => exact ih (h.withMem (h.1.strongWrite h.2.1))

theorem fillFails {die slot l p pa : ℕ} (h : m.Tidy P Q) : (m.fillFails die slot l p pa).Tidy P Q :=
  Mach.Tidy.logError (h.foldl (fun _ _ h => h.readerFails) _)

theorem abandonFill {f : Fill} (h : m.Tidy P Q) : (m.abandonFill f).Tidy P Q := h.homePrep.homeWrite.fillFails

end Mach.Tidy
end Sys2Proof.Machine
end


section
/-! SUPPORT. The events of exit notices, of states and of fills (R52 to R58, R398, R401). -/

namespace Sys2Proof.Machine

variable {m : Mach} {s : State}

/-! ### What is kept -/

/-- A machine with nothing but its fills in view. -/
theorem Mach.tidy_fills (m : Mach) : m.Tidy (fun _ => True) (· = m.fills) := ⟨MemInv.trivial, trivial, rfl⟩

theorem Mach.putHeader_fills (m : Mach) (die : ℕ) (ps : List (ℕ × ℕ)) (a : Arena) (slot l p : ℕ) (h : List Byte) (rel : Bool) :
    (m.putHeader die ps a slot l p h rel).fills = m.fills :=
  (Mach.Tidy.foldl (fun _ _ h => h.withMem trivial) _ (m.tidy_fills.homePrep.homeWrite) : (m.putHeader die ps a slot l p h rel).Tidy _ _).2.2

theorem Mach.abandonFill_fills (m : Mach) (f : Fill) : (m.abandonFill f).fills = m.fills := m.tidy_fills.abandonFill.2.2

/-! ### Notices -/

theorem Mach.matchRx_unset (m : Mach) {r : RxReg} (h : bit r.word.toNat 63 = false) (w : ℕ) : m.matchRx r w = m := by
  unfold Mach.matchRx
  dsimp only
  rw [h]
  rfl

/-- A die without registrations matches no notice (R52, R257). -/
theorem Mach.matchRx_default (m : Mach) {d : Die} (h : d = {}) (w : ℕ) : d.rx.toList.foldl (fun m r => m.matchRx r w) m = m := by
  have hall : ∀ r ∈ d.rx.toList, bit r.word.toNat 63 = false := fun r hr => by
    rw [h] at hr
    have hr : r ∈ (Vector.replicate 64 ({} : RxReg)).toList := hr
    rw [Vector.toList_replicate] at hr
    rw [(List.mem_replicate.mp hr).2]
    decide
  generalize d.rx.toList = l at hall
  induction l with
  | nil => rfl
  | cons r k ih => rw [List.foldl_cons, m.matchRx_unset (hall r List.mem_cons_self), ih fun x hx => hall x (List.mem_cons_of_mem _ hx)]

theorem Mach.slotArena?_sendTo (m : Mach) (lane dest : ℕ) (p : Pkt) (j : Option ℕ) (die slot : ℕ) :
    (m.sendTo lane dest p j).slotArena? die slot = m.slotArena? die slot := by
  unfold Mach.sendTo
  split <;> rfl

/-- A notice of another module for a slot that is not valid is answered, logged and refused (R398). -/
theorem Mach.receiveNotice_invalid {n : Notice} (hd : ∀ d, m.die d = {}) (hs : m.slotArena? n.die (bits n.word.toNat 47 40) = none) (hj : n.job = none) :
    m.receiveNotice n = ((m.sendTo 1 (bits n.word.toNat 15 8) (.noticeDone n.word)).logNotice n.die n.word.toNat 0).sendTo 1
      (bits n.word.toNat 15 8) (.refusal n.word) := by
  unfold Mach.receiveNotice
  dsimp only
  rw [m.matchRx_default (hd _), hj]
  unfold Mach.partDone Mach.refuseNotice
  dsimp only
  rw [Mach.slotArena?_sendTo, hs]

theorem noticeReceive_none {die : ℕ} (h : ∀ n ∈ s.m.notices, n.die ≠ die) : exec (.exitNoticeReceive die none) s = .next (s.after s.m) := by
  refine congrArg (fun x => Host.Outcome.next (s.after x)) ?_
  unfold Mach.noticeAt
  dsimp only
  rw [List.find?_eq_none.mpr fun n hn => by simpa using h n hn]

theorem noticeReceive_own {die : ℕ} {n : Notice} (h : s.m.notices.find? (fun n => n.die == die) = some n) :
    exec (.exitNoticeReceive die none) s = .next (s.after (if s.m.noticeHeld n then s.m else
      ({ s.m with notices := s.m.notices.erase n } : Mach).receiveNotice n)) := by
  refine congrArg (fun x => Host.Outcome.next (s.after x)) ?_
  unfold Mach.noticeAt
  dsimp only
  rw [h]

theorem noticeReceive_ext (s : State) (die : ℕ) (w : Word) : exec (.exitNoticeReceive die (some w)) s = .next (s.after (
    if noticeOk (putBits w.toNat 15 0 0) = false then s.m
    else if s.m.noticeHeld { die := die, word := w, job := none, state := none } then
      { s.m with notices := s.m.notices ++ [{ die := die, word := w, job := none, state := none }] }
    else s.m.receiveNotice { die := die, word := w, job := none, state := none })) := by
  refine congrArg (fun x => Host.Outcome.next (s.after x)) ?_
  unfold Mach.noticeAt
  dsimp only
  cases noticeOk (putBits w.toNat 15 0 0) <;> rfl

/-! ### States -/

theorem stateArrival_own {die r : ℕ} {x : ExitState} {e : SlotEntry} (hx : s.m.exitStates.find? (fun x => x.die == die && x.job.isSome) = some x)
    (hr : x.recIdx = some r) (he : s.m.slotEntry? die x.slot = some e) : exec (.exitStateArrival die none) s = .next (s.after (
      if x.bytes.length = e.hidden * e.elem then ({ s.m with exitStates := s.m.exitStates.erase x } : Mach).landState x e r x.bytes
      else ({ s.m with exitStates := s.m.exitStates.erase x } : Mach).refuseNotice x.job x.word)) := by
  refine congrArg (fun x => Host.Outcome.next (s.after x)) ?_
  unfold Mach.stateAt
  dsimp only
  rw [hx]
  dsimp only
  rw [hr, show ({ s.m with exitStates := s.m.exitStates.erase x } : Mach).slotEntry? die x.slot = some e from he]

theorem stateArrival_ext {die r : ℕ} {x : ExitState} {e : SlotEntry} {w : Word} {bs : List Byte} (q : Bool)
    (hx : s.m.exitStates.find? (fun x => x.die == die && (x.job.isNone && x.word == w)) = some x)
    (hr : x.recIdx = some r) (he : s.m.slotEntry? die x.slot = some e) : exec (.exitStateArrival die (some (w, bs, q))) s = .next (s.after (
      if bs.length = e.hidden * e.elem then ({ s.m with exitStates := s.m.exitStates.erase x } : Mach).landState { x with bytes := bs, poison := q } e r bs
      else ({ s.m with exitStates := s.m.exitStates.erase x } : Mach).refuseNotice x.job x.word)) := by
  refine congrArg (fun x => Host.Outcome.next (s.after x)) ?_
  unfold Mach.stateAt
  dsimp only
  rw [hx]
  dsimp only
  rw [hr, show ({ s.m with exitStates := s.m.exitStates.erase x } : Mach).slotEntry? die x.slot = some e from he]

theorem stateArrival_none {die : ℕ} (h : ∀ x ∈ s.m.exitStates, x.die = die → x.job = none) :
    exec (.exitStateArrival die none) s = .next (s.after s.m) := by
  refine congrArg (fun x => Host.Outcome.next (s.after x)) ?_
  unfold Mach.stateAt
  dsimp only
  rw [List.find?_eq_none.mpr fun x hx => by
    intro hand
    obtain ⟨hd, hj⟩ := Bool.and_eq_true_iff.mp hand
    rw [h x hx (by simpa using hd)] at hj
    cases hj]

theorem stateArrival_unknown {die : ℕ} {w : Word} (bs : List Byte) (q : Bool) (h : ∀ x ∈ s.m.exitStates, x.die = die → x.job = none → x.word ≠ w) :
    exec (.exitStateArrival die (some (w, bs, q))) s = .next (s.after s.m) := by
  refine congrArg (fun x => Host.Outcome.next (s.after x)) ?_
  unfold Mach.stateAt
  dsimp only
  rw [List.find?_eq_none.mpr fun x hx => by
    simp only [Bool.and_eq_true, beq_iff_eq, Option.isNone_iff_eq_none, not_and]
    exact h x hx]

theorem exnRefusal_ends {n : ℕ} {j : Job} (hn : s.m.job? n = some j) (hop : j.op = 12) (hs : j.sent = true)
    (hr : j.refused = true ∨ j.card.kspec % 2 ^ 8 ≠ s.m.modIndex) :
    exec (.exnRefusal n) s = .next (s.after (s.m.jobEnds j { cause := 0x4005, info := toW j.cardOff })) := by
  refine congrArg (fun x => Host.Outcome.next (s.after x)) ?_
  unfold Mach.exnRefused
  dsimp only
  rw [hn]
  dsimp only
  rw [if_pos ⟨hop, hs, by rwa [bits_zero_eq]⟩]
  unfold Mach.jobFails
  rw [if_pos (by decide)]

theorem exnRefusal_stays {n : ℕ} {j : Job} (hn : s.m.job? n = some j) (h : j.op ≠ 12 ∨ j.sent = false) :
    exec (.exnRefusal n) s = .next (s.after s.m) := by
  refine congrArg (fun x => Host.Outcome.next (s.after x)) ?_
  unfold Mach.exnRefused
  dsimp only
  rw [hn]
  dsimp only
  rw [if_neg]
  rintro ⟨hop, hs, -⟩
  rcases h with h | h
  · exact h hop
  · rw [h] at hs
    cases hs

end Sys2Proof.Machine
end


section
/-! SUPPORT. The events of attention reads and lazy fills (R56, R57, R401). -/

namespace Sys2Proof.Machine

variable {m : Mach} {s : State} {slot layer pos : ℕ}

theorem attentionRequest_enters {k first count : ℕ} (ha : s.m.kvrdAsks k = some (slot, layer, first, count))
    (hnew : ∀ x ∈ s.m.reads, ¬(x.who = .seq k ∧ x.slot = slot ∧ x.layer = layer ∧ x.first = first ∧ x.count = count)) :
    exec (.attentionReadRequest (2 ^ 32 + k) slot layer first count) s = .next (s.after { s.m with
      reads := s.m.reads ++ [{ who := .seq k, slot := slot, layer := layer, first := first, count := count, began := s.m.cyc (k / 4) }] }) := by
  refine congrArg (fun x => Host.Outcome.next (s.after x)) ?_
  dsimp only
  rw [if_neg (by omega), Nat.add_sub_cancel_left]
  dsimp only
  rw [if_pos ha]
  unfold Mach.request
  rw [if_neg]
  rw [Bool.not_eq_true, List.any_eq_false]
  intro x hx hall
  simp only [Bool.and_eq_true, beq_iff_eq, and_assoc] at hall
  exact hnew x hx hall

/-! ### Taking up a gap -/

theorem bit_false_of_mod {v k : ℕ} (h : v / 2 ^ k % 2 = 0) : bit v k = false := by
  rw [bit_eq, decide_eq_false_iff_not]
  omega

theorem bit_zero_of_odd {v : ℕ} (h : v % 2 = 1) : bit v 0 = true := by
  rw [bit_eq, decide_eq_true_eq, pow_zero, Nat.div_one]
  exact h

/-- A gap that a read waits on, whose state has arrived and whose value the engine can compute, is taken up (R56, R57). -/
theorem Mach.fillGap_takes {r : AttRead} {e : SlotEntry} {a : Arena} {ps : List (ℕ × ℕ)} {h : List Byte} {x die : ℕ}
    {v : List Byte × List Byte × Bool} {m1 m2 : Mach}
    (hr : m.reads.find? (fun r => r.waitsOn slot layer pos) = some r) (hdie : die = m.readerDie r.who)
    (ha : m.slotArena? die slot = some (e, a)) (hsl : m.slotHeld die slot = false) (hfl : m.fillHeld die e a layer pos = false)
    (hps : m.headerParts die e a layer pos = some ps) (hm1 : m1 = m.homePrep die ps false) (hh : h = m1.homeRead ps)
    (hpres : bit (leAt h 0 2) (pos % 16) = false) (hbusy : bit (leAt h 2 2) (pos % 16) = false) (hx : x = fsrcOf h (pos % 16)) (hnone : x ≠ 0xFFFF)
    (hrec : x < e.recs) (hhere : bit (leNat (m1.homeRead [(e.recordPa x, 8)])) 0 = true)
    (hm2 : m2 = (m1.homePrep die [(e.recordPa x, 8)] false).homeAcquire die [(e.recordPa x, 8)]) (hv : m2.fillValue die e a layer pos x = some v) :
    ∃ m3, m.fillGap slot layer pos = m3 ∧ m3.fills = m2.fills ++
      [{ die := die, slot := slot, layer := layer, pos := pos, recIdx := x, k := v.1, v := v.2.1, poison := v.2.2, hdr := ps }] := by
  unfold Mach.fillGap
  rw [hr]
  dsimp only
  rw [← hdie, ha]
  dsimp only
  rw [hsl, hfl, Bool.or_self, if_neg Bool.false_ne_true, hps]
  dsimp only
  have hgo : ¬((false || false || decide (x = 65535) || decide (e.recs ≤ x)) = true) := by simp; omega
  rw [← hm1, ← hh, hpres, hbusy, ← hx, if_neg hgo, hhere, if_neg (by simp), ← hm2, hv]
  exact ⟨_, rfl, congrArg (· ++ _) (Mach.putHeader_fills ..)⟩

theorem Mach.fillGap_waits {r : AttRead} {e : SlotEntry} {a : Arena} {die : ℕ} (hr : m.reads.find? (fun r => r.waitsOn slot layer pos) = some r)
    (hdie : die = m.readerDie r.who) (ha : m.slotArena? die slot = some (e, a)) (h : m.slotHeld die slot = true ∨ m.fillHeld die e a layer pos = true) :
    m.fillGap slot layer pos = m := by
  unfold Mach.fillGap
  rw [hr]
  dsimp only
  rw [← hdie, ha]
  dsimp only
  rw [if_pos (by simpa using h)]

theorem Mach.fillGap_unread (h : ∀ r ∈ m.reads, r.waitsOn slot layer pos = false) : m.fillGap slot layer pos = m := by
  unfold Mach.fillGap
  rw [List.find?_eq_none.mpr fun r hr => by rw [h r hr]; exact Bool.false_ne_true]

theorem Mach.fillDone_none (h : m.fills.find? (fun f => f.slot == slot && f.layer == layer && f.pos == pos) = none) :
    m.fillDone slot layer pos = m := by
  unfold Mach.fillDone
  rw [h]

/-- A fill for a slot that is not valid is gone (R401). -/
theorem Mach.fillDone_invalid {f : Fill} (h : m.fills.find? (fun f => f.slot == slot && f.layer == layer && f.pos == pos) = some f)
    (hs : m.slotArena? f.die slot = none) : (m.fillDone slot layer pos).fills = m.fills.erase f := by
  unfold Mach.fillDone
  rw [h]
  dsimp only
  rw [show ({ m with fills := m.fills.erase f } : Mach).slotArena? f.die slot = none from hs]
  exact Mach.abandonFill_fills _ f

/-! ### A wait that has become too long -/

theorem Mach.waitLate_past {r : AttRead} {n : ℕ} {j : Job} (hj : m.job? n = some j) (hw : r.who = .job n) (h1 : r.first ≤ pos) (h2 : pos < r.first + r.count)
    (ht : m.regs.fillto.toNat < m.cyc j.die - r.began) (hsl : m.slotHeld j.die r.slot = false)
    (hp : m.slotArena? j.die r.slot = none ∨ ∃ e a, m.slotArena? j.die r.slot = some (e, a) ∧ m.present j.die e a r.slot r.layer pos 1 = none) :
    m.waitLate pos r = true := by
  have hdie : m.readerDie r.who = j.die := by
    rw [hw]
    unfold Mach.readerDie
    dsimp only
    rw [hj]
    rfl
  unfold Mach.waitLate
  dsimp only
  rw [hdie, decide_eq_true ⟨h1, h2⟩, decide_eq_true ht, hsl]
  rcases hp with hp | ⟨e, a, hp, hnone⟩
  · rw [hp]
    rfl
  · rw [hp]
    dsimp only
    rw [hnone]
    rfl

theorem Mach.waitLate_early {r : AttRead} (h : m.cyc (m.readerDie r.who) ≤ r.began + m.regs.fillto.toNat) : m.waitLate pos r = false := by
  unfold Mach.waitLate
  dsimp only
  rw [decide_eq_false (p := m.regs.fillto.toNat < m.cyc (m.readerDie r.who) - r.began) (by omega), Bool.and_false]
  rfl

/-- A job whose read has waited too long ends its task with a fill fault (R57). -/
theorem Mach.fillLate_job {r : AttRead} {n : ℕ} {j : Job} (hj : m.job? n = some j) (hr : r ∈ m.reads) (hw : r.who = .job n) (hl : m.waitLate pos r = true) :
    m.fillLate (.job n) pos = m.jobEnds j { cause := 0x4004, info := toW j.cardOff } := by
  unfold Mach.fillLate
  rw [if_pos (List.any_eq_true.mpr ⟨r, hr, by rw [hl, hw]; simp⟩)]
  dsimp only
  rw [hj]
  dsimp only
  unfold Mach.jobFails
  rw [if_pos (by decide)]

theorem Mach.fillLate_early (who : Reader) (h : ∀ r ∈ m.reads, m.cyc (m.readerDie r.who) ≤ r.began + m.regs.fillto.toNat) :
    m.fillLate who pos = m := by
  unfold Mach.fillLate
  rw [if_neg]
  rw [Bool.not_eq_true, List.any_eq_false]
  intro r hr
  rw [Mach.waitLate_early (h r hr), Bool.and_false]
  exact Bool.false_ne_true

end Sys2Proof.Machine
end

section
/-! PROOFS. The events of exits, fills and the store. -/

namespace Sys2Proof.Machine

/-- Settles O45: notices, states, fills, staging and the store act on the next thing of their kind. -/
theorem exitAndFillEvents : Obligations.ExitAndFillEvents := by
  unfold Obligations.ExitAndFillEvents
  intro s
  refine ⟨fun die w hnone hbad => ⟨noticeReceive_none hnone, ?_⟩, fun die n hn => ⟨fun hh => ?_, fun hh => ?_⟩, ?_, ?_,
    fun die h => stateArrival_none h, fun die w bs q h => stateArrival_unknown bs q h, ?_, ?_,
    fun n j hn => ⟨fun h => exnRefusal_ends hn h.1 h.2.1 h.2.2, fun h => exnRefusal_stays hn h⟩,
    fun k slot layer first count _ ha hnew => attentionRequest_enters ha hnew, fun slot layer pos h => ?_, ?_, ?_, fun slot layer pos h => ?_,
    fun slot layer pos f hf => ⟨rfl, fun hs => Mach.fillDone_invalid hf hs⟩, ?_, fun n pos h => ?_, fun n hn => ?_, fun n => rfl, fun hnil => ?_, rfl⟩
  · rw [noticeReceive_ext, if_pos hbad]
  · rw [noticeReceive_own hn, hh, if_neg Bool.false_ne_true]
  · rw [noticeReceive_own hn, if_pos hh]
  · rintro die w n rfl hok
    rw [noticeReceive_ext, if_neg (by rw [hok]; exact Bool.false_ne_true.symm)]
  · rintro m n src hd hs hj rfl
    have h := Mach.receiveNotice_invalid hd (n := n) (by rw [bits_eq]; exact hs) hj
    rw [bits_eq] at h
    exact h
  · rintro die x e r m1 hx hr he rfl
    rw [stateArrival_own hx hr he]
    exact ⟨fun h => by rw [if_pos h], fun h => by rw [if_neg h]⟩
  · rintro die w bs q x e r m1 hx hr he rfl
    rw [stateArrival_ext q hx hr he]
    exact ⟨fun h => by rw [if_pos h], fun h => by rw [if_neg h]⟩
  · exact congrArg (fun x => Host.Outcome.next (s.after x)) (Mach.fillGap_unread h)
  · rintro slot layer pos r e a ps h x v m1 m2 hr die hdie ha hsl hfl hps hm1 hh hpres hbusy hx hnone hrec hhere hm2 hv
    obtain ⟨m3, heq, hfills⟩ := Mach.fillGap_takes hr hdie ha hsl hfl hps hm1 hh (bit_false_of_mod hpres) (bit_false_of_mod hbusy) hx hnone hrec
      (bit_zero_of_odd hhere) hm2 hv
    exact ⟨m3, congrArg (fun x => Host.Outcome.next (s.after x)) heq, hfills⟩
  · intro slot layer pos r e a die hr hdie ha h
    exact congrArg (fun x => Host.Outcome.next (s.after x)) (Mach.fillGap_waits hr hdie ha h)
  · exact congrArg (fun x => Host.Outcome.next (s.after x)) (Mach.fillDone_none h)
  · intro n pos r j hn hj hr hw h1 h2 ht hsl hp
    have hreader : readerOf n = .job n := if_pos hn
    have h := Mach.fillLate_job hj hr hw (Mach.waitLate_past hj hw h1 h2 ht hsl hp)
    rw [← hreader] at h
    exact congrArg (fun x => Host.Outcome.next (s.after x)) h
  · exact congrArg (fun x => Host.Outcome.next (s.after x)) (Mach.fillLate_early _ h)
  · refine congrArg (fun x => Host.Outcome.next (s.after x)) ?_
    dsimp only
    unfold Mach.selectBuffer
    rw [hn]
  · refine congrArg (fun x => Host.Outcome.next (s.after x)) ?_
    dsimp only
    unfold Mach.walkStore
    rw [hnil]

end Sys2Proof.Machine
end


section
/-! SUPPORT. Ordering, leasing and completion of a task (R35 to R37, R276, R284). -/

namespace Sys2Proof.Machine

variable {m : Mach} {s : State} {t : Task} {q : ℕ}

/-! ### The table of tasks -/

theorem Mach.task?_setTask {t' : Task} (h : m.task? q = some t) (hq : t'.seq = q) : (m.setTask t').task? q = some t' := by
  have := find?_replace (key := Task.seq) h hq
  rw [← hq] at this ⊢
  exact this

theorem Mach.sameTasks.task? {m' : Mach} (h : m.sameTasks m') : m'.task? q = m.task? q := by
  unfold Mach.task?
  rw [h.1]

/-! ### Ordering -/

theorem orderingRelease_waits (ht : s.m.task? q = some t) (h : (s.m.predecessors t).isEmpty = false ∨ t.entered = false) :
    exec (.taskOrderingRelease q) s = .next (s.after s.m) := by
  refine congrArg (fun x => Host.Outcome.next (s.after x)) ?_
  dsimp only
  rw [ht]
  dsimp only
  rw [if_pos (Or.inr (by simpa using h))]

theorem orderingRelease_goes (ht : s.m.task? q = some t) (hst : t.stage = .ordering) (hp : (s.m.predecessors t).isEmpty = true) (he : t.entered = true) :
    ∃ m1, exec (.taskOrderingRelease q) s = .next (s.after m1) ∧ m1.task? q = some { t with stage := .leasing } := by
  obtain ⟨x, hx⟩ : ∃ x, exec (.taskOrderingRelease q) s = .next (s.after ((s.m.withMem x).setTask { t with stage := .leasing })) := by
    show ∃ x, execTaskOrderingRelease q s = _
    unfold execTaskOrderingRelease runEvent
    dsimp only
    rw [ht]
    dsimp only
    rw [if_neg (by simp [hst, hp, he])]
    exact ⟨_, rfl⟩
  exact ⟨_, hx, Mach.task?_setTask (m := s.m.withMem x) ht (Mach.task?_mem ht).2⟩

/-! ### Leasing -/

/-- A continuation is added to those there are. -/
theorem Mach.createCont_frame (m : Mach) (t : Task) (team rank die : ℕ) (f : Cont → Cont) :
    (m.createCont t team rank die f).conts.length = m.conts.length + 1 ∧ (m.createCont t team rank die f).tasks = m.tasks ∧
      (m.createCont t team rank die f).teams = m.teams := by
  unfold Mach.createCont Mach.putRecord
  dsimp only
  split <;> exact ⟨List.length_append, rfl, rfl⟩

/-- A fold that adds `k` continuations a turn. -/
theorem foldl_creates {β : Type} {f : Mach → β → Mach} {k : ℕ}
    (hf : ∀ m b, (f m b).conts.length = m.conts.length + k ∧ (f m b).tasks = m.tasks ∧ (f m b).teams = m.teams) (l : List β) (m : Mach) :
    (l.foldl f m).conts.length = m.conts.length + l.length * k ∧ (l.foldl f m).tasks = m.tasks ∧ (l.foldl f m).teams = m.teams := by
  induction l generalizing m with
  | nil => exact ⟨by simp, rfl, rfl⟩
  | cons b r ih =>
    obtain ⟨h1, h2, h3⟩ := hf m b
    obtain ⟨i1, i2, i3⟩ := ih (f m b)
    refine ⟨?_, i2.trans h2, i3.trans h3⟩
    rw [List.foldl_cons, i1, h1, List.length_cons]
    ring

theorem Mach.createTeams_frame (m : Mach) (t : Task) : (m.createTeams t).conts.length = m.conts.length + t.teams * t.size ∧
    (m.createTeams t).tasks = m.tasks ∧ (m.createTeams t).teams.length = m.teams.length + t.teams := by
  unfold Mach.createTeams
  dsimp only
  obtain ⟨h1, h2, h3⟩ := foldl_creates (f := fun (m : Mach) i => (List.range t.size).foldl (fun m r => m.createCont t i r (t.place.getD i 0) id) m)
    (k := t.size) (fun m i => by
      have h := foldl_creates (f := fun (m : Mach) r => m.createCont t i r (t.place.getD i 0) id) (k := 1)
        (fun m r => m.createCont_frame t i r _ id) (List.range t.size) m
      rwa [List.length_range, mul_one] at h)
    (List.range t.teams) { m with teams := m.teams ++ (List.range t.teams).map fun i =>
      { task := t.seq, idx := i, die := t.place.getD i 0, size := t.size, since := m.cyc (t.place.getD i 0) } }
  rw [List.length_range] at h1
  exact ⟨h1, h2, by rw [h3]; simp⟩

/-- A task without continuations has no record to release. -/
theorem Mach.releaseRecords_none (h : ∀ c ∈ m.allConts, c.id ≠ 0 → c.task ≠ q) : m.releaseRecords q = m := by
  have hnil : (m.allConts.filter fun c => c.id ≠ 0 && c.task == q && decide (6 ≤ c.state.toNat)) = [] := by
    refine List.filter_eq_nil_iff.mpr fun c hc => ?_
    have := h c hc
    by_cases h0 : c.id = 0
    · simp [h0]
    · simp [h0, this h0]
  unfold Mach.releaseRecords
  rw [hnil]
  dsimp only
  simp

theorem leasing_waits (ht : s.m.task? q = some t) (h : s.m.canLease t = false) : exec (.taskLeasing q) s = .next (s.after s.m) := by
  refine congrArg (fun x => Host.Outcome.next (s.after x)) ?_
  dsimp only
  rw [ht]
  dsimp only
  rw [if_pos (Or.inr (by rw [h]; rfl))]

theorem leasing_creates (ht : s.m.task? q = some t) (hst : t.stage = .leasing) (h : s.m.canLease t = true)
    (hc : ∀ c ∈ s.m.allConts, c.id ≠ 0 → c.task ≠ q) : ∃ m1, exec (.taskLeasing q) s = .next (s.after m1) ∧
      m1.task? q = some { t with leased := true, stage := .dispatch } ∧ m1.conts.length = s.m.conts.length + t.teams * t.size ∧
      m1.teams.length = s.m.teams.length + t.teams := by
  obtain ⟨t', ht'⟩ : ∃ t', t' = { t with leased := true, stage := .dispatch } := ⟨_, rfl⟩
  obtain ⟨h1, h2, h3⟩ := (s.m.setTask t').createTeams_frame t'
  rw [ht'] at h1 h3
  refine ⟨(s.m.setTask t').createTeams t', congrArg (fun x => Host.Outcome.next (s.after x)) ?_, ?_, by rw [ht']; exact h1, by rw [ht']; exact h3⟩
  · dsimp only
    rw [ht]
    dsimp only
    rw [if_neg (by simp [hst, h]), Mach.releaseRecords_none hc, ht']
  · have hfind := Mach.task?_setTask (t' := t') ht (by rw [ht']; exact (Mach.task?_mem ht).2)
    rw [← ht']
    unfold Mach.task? at hfind ⊢
    rwa [h2]

/-! ### Completion -/

theorem Mach.landV_sameTasks (m : Mach) (c : Cont) (v : VPend) : m.sameTasks (m.landV c v) := by
  unfold Mach.landV
  dsimp only
  split
  · exact ⟨rfl, rfl, rfl⟩
  · exact Mach.sameTasks.trans (m' := { m with mem := _ }) ⟨rfl, rfl, rfl⟩ (Mach.setCont_sameTasks _ _)

theorem Mach.performed_sameTasks (m : Mach) (id : ℕ) : m.sameTasks (m.performed id) := by
  have hflush : m.sameTasks (m.flushV id) := by
    unfold Mach.flushV
    split
    · exact .refl m
    · exact Mach.sameTasks.foldl (fun m v => m.landV_sameTasks _ v) _ m
  unfold Mach.performed
  refine hflush.trans ?_
  generalize m.flushV id = m'
  unfold Mach.landDrains
  split
  · exact .refl m'
  · exact Mach.sameTasks.trans (m' := { m' with mem := _ }) ⟨rfl, rfl, rfl⟩ (Mach.setCont_sameTasks _ _)

section
variable {P : Task → Prop} {k : ℕ}

theorem Mach.taskIs.withMem {x : Mem} (h : m.taskIs q P) : Mach.taskIs { m with mem := x } q P := h

theorem Mach.taskIs.stopWork (h : m.taskIs q P) : (m.stopWork k).taskIs q P := h

theorem Mach.taskIs.releaseRecords (h : m.taskIs q P) : (m.releaseRecords k).taskIs q P :=
  (h.of_same (Mach.sameTasks.foldl (fun m c => m.putRecord_sameTasks _) _ m) :)

theorem Mach.taskIs.ctxWrite {d : ℕ} {ctx : BitVec 12} {e : CtxEntry} {va : Word} {b : List Byte} (h : m.taskIs q P) :
    (m.ctxWrite d ctx e va b).taskIs q P := h.of_same (m.ctxWrite_sameTasks ..)

theorem Mach.taskIs.ite {p : Prop} [Decidable p] {m' : Mach} (h : m.taskIs q P) (h' : m'.taskIs q P) : Mach.taskIs (if p then m else m') q P := by
  split
  · exact h
  · exact h'

end

/-- A completed task: its state and stage, and no lease or reservation (R35, R74, R284). -/
def Task.completed (k : Task) : Prop := k.tstate = 3 ∧ k.stage = .ended ∧ k.leased = false ∧ k.resv = []

theorem Mach.finishTask_completed (ht : m.task? q = some t) (hn : t.node = none) : (m.finishTask t).taskIs q Task.completed := by
  obtain ⟨htm, htq⟩ := Mach.task?_mem ht
  unfold Mach.finishTask
  extract_lets d m1 m2 m3 t' m4 m5 m6 m7 m8 m9
  have hsame : m.sameTasks m1 := Mach.sameTasks.foldl (fun m _ => m.performed_sameTasks _) _ m
  have h3 : q ∈ m3.tasks.map Task.seq := by
    show q ∈ m1.tasks.map Task.seq
    rw [hsame.1]
    exact List.mem_map.mpr ⟨t, htm, htq⟩
  clear_value m3
  have h4 : m4.taskIs q Task.completed := Mach.taskIs.ctxWrite (Mach.taskIs.grantEntries
    (Mach.setTask_taskIs (by rw [(Mach.settlePrmts_sameTasks _ _ _).1]; exact h3) htq ⟨rfl, rfl, rfl, rfl⟩) fun _ h => h)
  clear_value m4
  have h6 : m6.taskIs q Task.completed := Mach.taskIs.ite h4 (Mach.taskIs.ctxWrite (m := m5) h4)
  clear_value m6
  rw [hn]
  exact Mach.taskIs.releaseRecords (m := m7.stopWork t.seq) h6

end Sys2Proof.Machine
end


section
/-! SUPPORT. Residence of teams, time-slices and deadlines (R28, R31, R277 to R284, R392). -/

namespace Sys2Proof.Machine

variable {m : Mach} {s : State} {t u : Team} {die q n : ℕ}

/-! ### The teams of a die in the order served -/

theorem Mach.mem_insertTeam {l : List Team} (h : u ∈ m.insertTeam t l) : u = t ∨ u ∈ l := by
  induction l with
  | nil => exact Or.inl (List.mem_singleton.mp h)
  | cons v r ih =>
    rw [Mach.insertTeam] at h
    split at h
    · rcases List.mem_cons.mp h with rfl | h
      · exact Or.inr List.mem_cons_self
      · exact (ih h).imp_right (List.mem_cons_of_mem v)
    · exact List.mem_cons.mp h

theorem longestWaiting_mem {l : List Team} (h : longestWaiting l = some t) : t ∈ l :=
  (foldl_choice_mem (fun best y => by
    cases best with
    | none => exact Or.inl rfl
    | some b =>
      dsimp only
      split
      · exact Or.inl rfl
      · exact Or.inr rfl) _ h).resolve_right (by simp)

theorem Mach.mem_waitersOn (h : t ∈ m.waitersOn die) :
    t ∈ m.teams ∧ t.die = die ∧ (t.res = .waiting ∨ t.res = .out ∨ t.res = .parked) ∧ m.mayReside t = true := by
  obtain ⟨hm, hw⟩ := List.mem_filter.mp h
  simp only [Bool.and_eq_true, beq_iff_eq, Team.waits, Bool.or_eq_true] at hw
  exact ⟨hm, hw.1.1, or_assoc.mp hw.1.2, hw.2⟩

theorem Mach.mem_dispatchOrder (h : t ∈ m.dispatchOrder die) : t ∈ m.waitersOn die := by
  unfold Mach.dispatchOrder at h
  split at h
  · exact longestWaiting_mem (Option.mem_toList.mp h)
  · generalize m.waitersOn die = l at h ⊢
    induction l with
    | nil => exact h
    | cons v r ih => exact (Mach.mem_insertTeam h).elim (fun h => h ▸ List.mem_cons_self) fun h => List.mem_cons_of_mem _ (ih h)

/-! ### Residence -/

/-- Every team with these numbers is resident. -/
def Mach.residentAt (m : Mach) (q n : ℕ) : Prop := ∀ u ∈ m.teams, u.task = q → u.idx = n → u.res = .resident

theorem Mach.residentAt.of_same {m' : Mach} (h : m.residentAt q n) (ht : m'.teams = m.teams) : m'.residentAt q n := by
  unfold Mach.residentAt
  rw [ht]
  exact h

theorem Mach.ctxWrite_teams (m : Mach) (d : ℕ) (ctx : BitVec 12) (e : CtxEntry) (va : Word) (b : List Byte) :
    (m.ctxWrite d ctx e va b).teams = m.teams := by
  unfold Mach.ctxWrite
  split
  · rfl
  · split <;> rfl

theorem foldl_newVersion_teams (l : List Region) (x : Mach × Task) :
    (l.foldl (fun (x : Mach × Task) r => x.1.newVersion x.2 r) x).1.teams = x.1.teams := by
  induction l generalizing x with
  | nil => rfl
  | cons r k ih => exact ih _

theorem Mach.firstDispatch_teams (m : Mach) (t : Task) : (m.firstDispatch t).teams = m.teams := by
  unfold Mach.firstDispatch
  extract_lets seen t1 r
  exact (Mach.ctxWrite_teams ..).trans (foldl_newVersion_teams _ (m, t1))

/-- A team that becomes resident is so (R28). -/
theorem Mach.makeResident_residentAt (m : Mach) (t : Team) (cores : List ℕ) : (m.makeResident t cores).residentAt t.task t.idx := by
  unfold Mach.makeResident
  extract_lets m1 m2 x m3
  have h2 : m2.residentAt t.task t.idx := fun u hu hq hn => by
    obtain ⟨v, hv, rfl⟩ := List.mem_map.mp hu
    by_cases hk : (v.task == t.task && v.idx == t.idx) = true
    · rw [if_pos hk]
    · rw [if_neg hk] at hq hn
      exact absurd (by rw [hq, hn]; simp) hk
  clear_value m2
  have h3 : m3.residentAt t.task t.idx := h2
  clear_value m3
  split
  · exact h3
  · dsimp only
    split
    · exact h3
    · exact h3.of_same (Mach.firstDispatch_teams _ _)

theorem Mach.makeResident_resident {cores : List ℕ} (h : (m.makeResident t cores).team? t.task t.idx = some u) : u.res = .resident := by
  obtain ⟨hq, hn⟩ := Mach.team?_key h
  exact m.makeResident_residentAt t cores u (List.mem_of_find?_eq_some h) hq hn

theorem teamDispatch_eq (s : State) (die : ℕ) : exec (.teamDispatch die) s =
    .next (s.after ((s.m.retireTeams die).dispatchGo die ((s.m.retireTeams die).dispatchOrder die))) := rfl

theorem teamSwapOut_idle {d : ℕ} {k : Bool} (ht : s.m.team? q n = some t) (hr : t.res = .leaving d k) :
    exec (.teamSwapOut q n) s = .next (s.after (if s.m.teamIdle t then s.m.swapOut t (if k then .parked else .out) else s.m)) := by
  refine congrArg (fun x => Host.Outcome.next (s.after x)) ?_
  dsimp only
  rw [ht]
  dsimp only
  rw [hr]

/-- A team that is first in its die's order, out or parked, comes back in its turn (R30, R31, R277). -/
theorem teamSwapIn_first {m1 : Mach} {r : List Team} (ht : s.m.team? q n = some t) (hm : m1 = s.m.retireTeams t.die)
    (hl : m1.dispatchOrder t.die = t :: r) (hres : t.res = .out ∨ t.res = .parked) :
    (∀ k, m1.admitCheck t = some k → exec (.teamSwapIn q n) s = .next (s.after (m1.failTeam t k))) ∧
      (∀ cores, m1.admitCheck t = none → m1.coresFor t = some cores → exec (.teamSwapIn q n) s = .next (s.after (m1.makeResident t cores))) := by
  have hgo : ¬((!(t :: r).contains t) = true ∨ t.res = .waiting ∨ ((t :: r).takeWhile fun u => u ≠ t).any m1.canServe = true) := by
    rcases hres with h | h <;> simp [h]
  refine ⟨fun k hk => congrArg (fun x => Host.Outcome.next (s.after x)) ?_, fun cores hk hc => congrArg (fun x => Host.Outcome.next (s.after x)) ?_⟩
  · dsimp only
    rw [ht]
    dsimp only
    rw [← hm, hl, if_neg hgo, hk]
  · dsimp only
    rw [ht]
    dsimp only
    rw [← hm, hl, if_neg hgo, hk, hc]

/-! ### Time-slices -/

theorem sliceQuantum_early (h : s.m.cyc die < (s.m.die die).quantumEnd) : exec (.sliceQuantumExpiry die) s = .next (s.after s.m) := by
  refine congrArg (fun x => Host.Outcome.next (s.after x)) ?_
  dsimp only
  rw [if_pos h]

theorem sliceQuantum_idle {m1 : Mach} (h : (s.m.die die).quantumEnd ≤ s.m.cyc die)
    (hm : m1 = s.m.setDie die { s.m.die die with quantumEnd := s.m.cyc die + (s.m.die die).sliceq.toNat })
    (hnone : (∀ t ∈ m1.teams, t.die = die → t.res ≠ .resident) ∨ m1.waitersOn die = []) :
    exec (.sliceQuantumExpiry die) s = .next (s.after m1) := by
  refine congrArg (fun x => Host.Outcome.next (s.after x)) ?_
  dsimp only
  rw [if_neg (Nat.not_lt.mpr h), ← hm]
  rcases hnone with hnone | hnone
  · rw [List.filter_eq_nil_iff.mpr fun t ht => by simpa using hnone t ht]
    rfl
  · rw [hnone]
    split
    · rfl
    · rfl

theorem swapAbandon_late {d : ℕ} {k : Bool} (ht : s.m.team? q n = some t) (hr : t.res = .leaving d k) (hi : s.m.teamIdle t = false) :
    exec (.swapAbandonTimeout q n) s = .next (s.after (if d + 16 * (s.m.die t.die).sliceq.toNat ≤ s.m.cyc t.die then s.m.abandonSwap t k else s.m)) := by
  refine congrArg (fun x => Host.Outcome.next (s.after x)) ?_
  dsimp only
  rw [ht]
  dsimp only
  rw [hr, hi]
  simp

end Sys2Proof.Machine
end


section
/-! SUPPORT. Completion and deadlines as events (R35, R284). -/

namespace Sys2Proof.Machine

variable {m : Mach} {s : State} {t : Task} {q : ℕ}

theorem taskCompletion_waits (ht : s.m.task? q = some t) (h : s.m.taskDone t = false) : exec (.taskCompletion q) s = .next (s.after s.m) := by
  refine congrArg (fun x => Host.Outcome.next (s.after x)) ?_
  dsimp only
  unfold Mach.completeTask
  rw [ht]
  dsimp only
  rw [if_pos (by rw [h]; rfl)]

theorem taskCompletion_finishes (ht : s.m.task? q = some t) (h : s.m.taskDone t = true) (hi : ∀ c ∈ s.m.allConts, c.task = q → c.imprecise = none)
    (hg : t.guest = none) : exec (.taskCompletion q) s = .next (s.after (s.m.finishTask t)) := by
  have hnone : (s.m.allConts.findSome? fun c => if c.id ≠ 0 ∧ c.task = q then c.imprecise.map fun i => (c, i) else none) = none :=
    List.findSome?_eq_none_iff.mpr fun c hc => by
      split
      · next hq => rw [hi c hc hq.2]; rfl
      · rfl
  refine congrArg (fun x => Host.Outcome.next (s.after x)) ?_
  dsimp only
  unfold Mach.completeTask
  rw [ht]
  dsimp only
  rw [if_neg (by rw [h]; exact Bool.false_ne_true), hnone]
  dsimp only
  rw [hg]

/-! ### Deadlines -/

theorem Mach.die_setDie (m : Mach) (d : ℕ) (x : Die) : (m.setDie d x).die d = x := SMap.get_set_same

theorem Mach.logError_dies (m : Mach) (f : Trap) (i : LogInfo) : (m.logError f i).dies = m.dies := by
  obtain ⟨x, r, o, h⟩ := m.logError_frame f i
  rw [h]

/-- An overrun is counted at its die, and changes no task (R284). -/
theorem Mach.overran_frame (m : Mach) (d : ℕ) (ctx : BitVec 12) (k : ℕ) :
    ((m.overran d ctx k).die d).ovrn = (m.die d).ovrn + 1 ∧ (m.overran d ctx k).tasks = m.tasks := by
  refine ⟨?_, (Mach.logError_sameTasks _ _ _).1⟩
  unfold Mach.overran Mach.die
  rw [Mach.logError_dies]
  exact congrArg Die.ovrn (m.die_setDie d _)

section
variable (hg : ∀ g ∈ s.m.graphs, nodesName g.nodes q = false ∧ ∀ r, g.pend = some r → nodesName r.nodes q = false)
include hg

/-- A number no replay's node names is that of a task alone. -/
theorem deadline_unnamed {e : ℕ} (ht : s.m.task? q = some t) (he : t.deadline = some e) : exec (.deadlineOverrun q) s = .next (s.after (
    if s.m.cyc t.accDie ≤ e ∨ t.stage = .ended ∨ s.m.taskDone t then s.m
    else ((s.m.unreserve t.cls t.resv).setTask { t with deadline := none, resv := [] }).overran t.accDie t.ctx t.seq)) := by
  have hrun : (s.m.graphs.find? fun g => g.running && nodesName g.nodes q) = none := List.find?_eq_none.mpr fun g hm => by
    rw [(hg g hm).1, Bool.and_false]
    exact Bool.false_ne_true
  have hpend : (s.m.graphs.findSome? fun g => g.pend.bind fun r => if nodesName r.nodes q then some (g, r) else none) = none :=
    List.findSome?_eq_none_iff.mpr fun g hm => by
      cases hp : g.pend with
      | none => rfl
      | some r => exact if_neg (by rw [(hg g hm).2 r hp]; exact Bool.false_ne_true)
  refine congrArg (fun x => Host.Outcome.next (s.after x)) ?_
  dsimp only
  rw [hrun]
  dsimp only
  rw [hpend]
  dsimp only
  rw [ht]
  dsimp only
  rw [he]

theorem deadline_overruns {e : ℕ} (ht : s.m.task? q = some t) (he : t.deadline = some e) (hlt : e < s.m.cyc t.accDie) (hst : t.stage ≠ .ended)
    (hd : s.m.taskDone t = false) : ∃ m1 t1, exec (.deadlineOverrun q) s = .next (s.after m1) ∧ m1.task? q = some t1 ∧ t1.deadline = none ∧
      t1.resv = [] ∧ (m1.die t.accDie).ovrn = (s.m.die t.accDie).ovrn + 1 := by
  obtain ⟨h1, h2⟩ := ((s.m.unreserve t.cls t.resv).setTask { t with deadline := none, resv := [] }).overran_frame t.accDie t.ctx t.seq
  have hfind := Mach.task?_setTask (m := s.m.unreserve t.cls t.resv) (t' := { t with deadline := none, resv := [] }) ht (Mach.task?_mem ht).2
  rw [deadline_unnamed hg ht he, if_neg (by rw [hd]; simp [hst]; omega)]
  refine ⟨_, { t with deadline := none, resv := [] }, rfl, ?_, rfl, rfl, h1⟩
  unfold Mach.task? at hfind ⊢
  rwa [h2]

end

theorem deadline_replay {g : Graph} {e d : ℕ} (h : s.m.graphs.find? (fun g => g.running && nodesName g.nodes q) = some g) (he : g.deadline = some e)
    (hd : d = acceptingDie g.nodes) : exec (.deadlineOverrun q) s = .next (s.after (
      if s.m.cyc d ≤ e then s.m else (s.m.endReplayBound g).overran d g.ctx q)) := by
  subst hd
  refine congrArg (fun x => Host.Outcome.next (s.after x)) ?_
  dsimp only
  rw [h]
  dsimp only
  rw [he]

end Sys2Proof.Machine
end

section
/-! PROOFS. The events of the scheduler. -/

namespace Sys2Proof.Machine

/-- Settles O46: release, leasing, residence, swaps, completion and deadlines. -/
theorem schedulerEvents : Obligations.SchedulerEvents := by
  unfold Obligations.SchedulerEvents
  intro s
  refine ⟨fun q t ht hst => ⟨orderingRelease_waits ht, orderingRelease_goes ht hst⟩, fun q t ht hst => ⟨leasing_waits ht, leasing_creates ht hst⟩, ?_,
    fun q n t d k ht hr => ⟨fun h => ?_, fun h => ?_⟩, fun q n t m1 r ht hm hl hres => teamSwapIn_first ht hm hl hres,
    fun die h => sliceQuantum_early h, fun die m1 h hm hnone => sliceQuantum_idle h hm hnone,
    fun q n t d k ht hr hi => ⟨fun h => ?_, fun h => ?_⟩,
    fun q t ht => ⟨taskCompletion_waits ht, fun h hi hn hg => ⟨taskCompletion_finishes ht h hi hg, (Mach.finishTask_completed ht hn).find⟩⟩,
    fun q t e ht he hg => ⟨fun h => ?_, fun hlt hst hd => ?_⟩, fun q g e d h he hd => ⟨fun hle => ?_, fun hlt => ?_⟩⟩
  · rintro die m1 l rfl rfl
    refine ⟨fun t ht => Mach.mem_waitersOn (Mach.mem_dispatchOrder ht), fun h => if_pos h, fun h => ?_, fun t r hl => ⟨fun k hk => ?_, fun cores hk hc =>
      ⟨?_, fun u hu => Mach.makeResident_resident hu⟩, fun hk hc => ⟨fun x hx => ?_, fun hx => ?_⟩⟩⟩
    · rw [teamDispatch_eq, h]
      rfl
    · rw [teamDispatch_eq, hl, Mach.dispatchGo, hk]
    · rw [teamDispatch_eq, hl, Mach.dispatchGo, hk]
      dsimp only
      rw [hc]
    · rw [teamDispatch_eq, hl, Mach.dispatchGo, hk]
      dsimp only
      rw [hc]
      dsimp only
      rw [hx]
    · rw [teamDispatch_eq, hl, Mach.dispatchGo, hk]
      dsimp only
      rw [hc]
      dsimp only
      rw [hx]
  · rw [teamSwapOut_idle ht hr, if_neg (by rw [h]; exact Bool.false_ne_true)]
  · rw [teamSwapOut_idle ht hr, if_pos h]
  · rw [swapAbandon_late ht hr hi, if_pos h]
  · rw [swapAbandon_late ht hr hi, if_neg (Nat.not_le.mpr h)]
  · rw [deadline_unnamed hg ht he, if_pos (Or.inl h)]
  · obtain ⟨m1, t1, h1, h2, h3, h4, h5⟩ := deadline_overruns hg ht he hlt hst hd
    exact ⟨m1, t1, h1, h2, h3, h4, fun _ => h5⟩
  · rw [deadline_replay h he hd, if_pos hle]
  · rw [deadline_replay h he hd, if_neg (Nat.not_le.mpr hlt)]

end Sys2Proof.Machine
end


section
/-! SUPPORT. The consistent stop, the Bobbin token and stolen teams as events (R289 to R293). -/

namespace Sys2Proof.Machine

variable {m : Mach} {s : State}

/-! ### The stop -/

theorem Mach.beginStop_taken {ctx : BitVec 12} (hp : m.regs.stopPhase = 0) (hr : m.regs.stopReq = false) (hc : ctx.toNat < m.regs.ctxcnt.toNat) :
    m.beginStop ctx = { m with regs := { m.regs with stopReq := true, stopCtx := ctx } } :=
  if_neg (by simp [hp, hr]; omega)

theorem Mach.beginStop_held {ctx : BitVec 12} (h : m.regs.stopPhase ≠ 0 ∨ m.regs.stopReq = true) : m.beginStop ctx = m :=
  if_pos (h.imp_right Or.inl)

theorem Mach.sendTo_frame (m : Mach) (lane dest : ℕ) (b : Pkt) (j : Option ℕ) : ∃ l, m.sendTo lane dest b j = { m with links := l } := by
  unfold Mach.sendTo
  split <;> exact ⟨_, rfl⟩

/-- A fold of messages changes nothing but the links. -/
theorem foldl_links {β : Type} {f : Mach → β → Mach} (hf : ∀ m b, ∃ l, f m b = { m with links := l }) (bs : List β) :
    ∀ m : Mach, ∃ l, bs.foldl f m = { m with links := l } := by
  induction bs with
  | nil => exact fun m => ⟨m.links, rfl⟩
  | cons b r ih =>
    intro m
    obtain ⟨l, hl⟩ := hf m b
    obtain ⟨l', hl'⟩ := ih (f m b)
    refine ⟨l', ?_⟩
    rw [List.foldl_cons, hl']
    rw [hl]

theorem Mach.haltStolen_frame (m : Mach) (ctx : BitVec 12) (held : Bool) : ∃ l, m.haltStolen ctx held = { m with links := l } :=
  foldl_links (fun m t => by
    split
    · split
      · exact m.sendTo_frame ..
      · exact ⟨m.links, rfl⟩
    · exact ⟨m.links, rfl⟩) _ m

/-- What resuming leaves before the waiting nodes fire: no stop, and no team of the context parked (R289, R290). -/
theorem Mach.resumeStop_eq (h : m.regs.stopPhase = 3) : ∃ qs l, m.resumeStop =
    (m.graphs.filter fun g => g.ctx == m.regs.stopCtx).foldl (fun m g => (m.fireReady g.id).replayEnd g.id) { m with
      regs := { m.regs with stopPhase := 0, stopReq := false }
      teams := m.teams.map fun (t : Team) => if t.res = .parked ∧ (m.task? t.task).map Task.ctx = some m.regs.stopCtx then { t with res := .out } else t
      queues := qs, links := l } := by
  unfold Mach.resumeStop
  extract_lets ctx r m1
  rw [if_neg (by rw [h]; decide), if_neg (by rw [h]; simp)]
  obtain ⟨l, hl⟩ := m1.haltStolen_frame ctx false
  exact ⟨_, l, congrArg (fun x => List.foldl _ x _) hl⟩

theorem Mach.resumeStop_empty (h : m.regs.stopPhase = 3) (hg : m.graphs = []) : m.resumeStop.regs.stopPhase = 0 ∧ m.resumeStop.regs.stopReq = false ∧
    ∀ t ∈ m.resumeStop.teams, t.res = .parked → (m.task? t.task).map Task.ctx ≠ some m.regs.stopCtx := by
  obtain ⟨qs, l, heq⟩ := m.resumeStop_eq h
  rw [heq, hg]
  refine ⟨rfl, rfl, fun t ht hp hctx => ?_⟩
  obtain ⟨u, hu, rfl⟩ := List.mem_map.mp ht
  by_cases hc : u.res = .parked ∧ (m.task? u.task).map Task.ctx = some m.regs.stopCtx
  · rw [if_pos hc] at hp
    cases hp
  · rw [if_neg hc] at hp hctx
    exact hc ⟨hp, hctx⟩

/-! ### The Bobbin token -/

theorem bobbinArrival_eq (s : State) (gen : W32) (loads : List (ℕ × Byte)) (reqs : List StealReq) : exec (.bobbinTokenArrival gen loads reqs) s =
    .next (s.after (if gen.toNat < s.m.bobbin.gen then s.m else { s.m with
      bobbin := { held := true, gen := gen.toNat, loads := (loads.filter fun p => p.1 ≠ s.m.modIndex) ++ [(s.m.modIndex, s.m.loadByte)],
                  reqs := s.m.tokenRequests reqs, since := s.m.cyc 0 }
      freeCount := s.m.freeCount + 1 })) := rfl

theorem bobholdExpiry_early (h : s.m.bobbin.held = false ∨ s.m.cyc 0 < s.m.bobbin.since + s.m.regs.bobhold.toNat) :
    exec .bobholdExpiry s = .next (s.after s.m) := by
  refine congrArg (fun x => Host.Outcome.next (s.after x)) ?_
  dsimp only
  rw [if_pos (h.imp_left fun h => by rw [h]; rfl)]

/-- A held token without requests goes on with the loads this module knows (R291). -/
theorem bobholdExpiry_passes (hh : s.m.bobbin.held = true) (ht : s.m.bobbin.since + s.m.regs.bobhold.toNat ≤ s.m.cyc 0) (hr : s.m.bobbin.reqs = []) :
    exec .bobholdExpiry s = .next (s.after (s.m.passToken ((s.m.bobbin.loads.filter fun p => p.1 ≠ s.m.modIndex) ++ [(s.m.modIndex, s.m.loadByte)]) [])) := by
  refine congrArg (fun x => Host.Outcome.next (s.after x)) ?_
  dsimp only
  rw [if_neg (by rw [hh]; simp; omega), hr]
  rfl

theorem bobbinRegeneration_lowest {reach : ℕ} (hh : s.m.bobbin.held = false)
    (ht : s.m.bobbin.since + 2 * s.m.podSize * s.m.regs.bobhold.toNat < s.m.cyc 0) (hk : ∀ k, k < s.m.modIndex → reach / 2 ^ k % 2 = 0) :
    exec (.bobbinTokenRegeneration reach) s = .next (s.after { s.m with
      bobbin := { held := true, gen := s.m.bobbin.gen + 1, loads := [(s.m.modIndex, s.m.loadByte)], reqs := [], since := s.m.cyc 0 } }) := by
  have hnone : (List.range s.m.modIndex).any (fun k => bit reach k) = false :=
    List.any_eq_false.mpr fun k hlt => by rw [bit_false_of_mod (hk k (List.mem_range.mp hlt))]; exact Bool.false_ne_true
  refine congrArg (fun x => Host.Outcome.next (s.after x)) ?_
  dsimp only
  rw [if_neg]
  rintro (h | h | h)
  · rw [hh] at h; cases h
  · omega
  · rw [hnone] at h; cases h

/-! ### Stolen teams -/

/-- A member of a stolen team is added to the continuations, and nothing else but memory and counters changes. -/
theorem Mach.guestMember_frame (m : Mach) (die key : ℕ) (c : Cont) : ∃ x l a b, l.length = m.conts.length + 1 ∧
    m.guestMember die key c = { m with mem := x, conts := l, nextId := a, freeCount := b } := by
  unfold Mach.guestMember Mach.saveRegs Mach.putSave Mach.putRecord
  dsimp only
  split
  · exact ⟨_, _, _, _, List.length_append, rfl⟩
  · exact ⟨_, _, _, _, List.length_append, rfl⟩

theorem Mach.guestMembers_frame (die key : ℕ) (cs : List Cont) : ∀ m : Mach, ∃ x l a b, l.length = m.conts.length + cs.length ∧
    cs.foldl (fun (m : Mach) c => m.guestMember die key c) m = { m with mem := x, conts := l, nextId := a, freeCount := b } := by
  induction cs with
  | nil => exact fun m => ⟨m.mem, m.conts, m.nextId, m.freeCount, rfl, rfl⟩
  | cons c r ih =>
    intro m
    obtain ⟨x, l, a, b, hl, h⟩ := m.guestMember_frame die key c
    obtain ⟨x', l', a', b', hl', h'⟩ := ih (m.guestMember die key c)
    rw [h] at hl' h'
    refine ⟨x', l', a', b', hl'.trans ?_, ?_⟩
    · rw [hl, List.length_cons]
      omega
    · rw [List.foldl_cons, h]
      exact h'

/-- What the arrival of a stolen team's image leaves (R292, R397). -/
theorem Mach.landTeam_frame (m : Mach) (x : Inbound) (die : ℕ) : ∃ t : Task,
    (m.landTeam x die).teams = m.teams ++ [{ task := t.seq, idx := x.team, die := die, size := x.members.length, res := .out, since := m.cyc die }] ∧
      (m.landTeam x die).tasks = m.tasks ++ [t] ∧ t.guest = some { origin := x.origin, task := x.task, team := x.team } ∧
      (m.landTeam x die).conts.length = m.conts.length + x.members.length ∧
      ∀ p, m.portTo x.origin = some p → ∃ f ∈ (m.landTeam x die).links, f.port = p ∧ f.lane = 2 ∧ f.dest = x.origin ∧ f.body = .stealAck x.tag := by
  unfold Mach.landTeam
  extract_lets key t m1
  obtain ⟨y, l, a, b, hl, h⟩ := Mach.guestMembers_frame die key x.members m1
  rw [h]
  unfold Mach.sendTo
  have hport : ({ m1 with mem := y, conts := l, nextId := a, freeCount := b } : Mach).portTo x.origin = m.portTo x.origin := rfl
  rw [hport]
  refine ⟨t, ?_, ?_, rfl, ?_, fun p hp => ?_⟩
  · split <;> rfl
  · split <;> rfl
  · split <;> exact hl
  · rw [hp]
    exact ⟨_, List.mem_append_right _ (List.mem_singleton_self _), rfl, rfl, rfl, rfl⟩

theorem stolenArrival_found {o d g n : ℕ} {x : Inbound} (h : s.m.inbound.find? (fun x => x.origin == o && x.tag == g && x.members.length == n) = some x) :
    exec (.stolenTeamArrival o d g n) s = .next (s.after (s.m.landTeam x d)) := by
  refine congrArg (fun x => Host.Outcome.next (s.after x)) ?_
  dsimp only
  rw [h]

theorem stolenArrival_none {o d g n : ℕ} (h : ∀ x ∈ s.m.inbound, x.origin = o → x.tag = g → x.members.length ≠ n) :
    exec (.stolenTeamArrival o d g n) s = .next (s.after s.m) := by
  have hnone : s.m.inbound.find? (fun x => x.origin == o && x.tag == g && x.members.length == n) = none := List.find?_eq_none.mpr fun x hx => by
    simp only [Bool.and_eq_true, beq_iff_eq, not_and, and_imp]
    exact h x hx
  refine congrArg (fun x => Host.Outcome.next (s.after x)) ?_
  dsimp only
  rw [hnone]

theorem stealAcknowledge_sending {q n k : ℕ} {t : Team} (ht : s.m.team? q n = some t) (hr : t.res = .sending k) :
    exec (.stealAcknowledge q n) s = .next (s.after (s.m.setTeam { t with res := .stolen k })) := by
  refine congrArg (fun x => Host.Outcome.next (s.after x)) ?_
  dsimp only
  rw [ht]
  dsimp only
  rw [hr]

section
variable {q n rk k z : ℕ} {va v : Word} {t : Task} {c : Cont} {ps : List (ℕ × ℕ)} {acc : GuestAcc}
variable (ht : s.m.task? q = some t) (hc : s.m.member? q n rk = some c) (hk : s.m.thiefOf q n = some k)
include ht hc hk

/-- An access of a stolen team stays behind the notices of the module that runs it (R53). -/
theorem stolenAccess_waits (hn : s.m.noticesFrom k = true) : exec (.stolenTeamAccess q n rk acc va z v) s = .next (s.after s.m) := by
  refine congrArg (fun x => Host.Outcome.next (s.after x)) ?_
  dsimp only
  rw [ht, hc, hk]
  dsimp only
  rw [hn, Bool.true_or, if_pos rfl]

theorem stolenAccess_store (hn : s.m.noticesFrom k = false) (h1 : 1 ≤ z) (h8 : z ≤ 8) (hr : s.m.resolveTask c.die (c.leases t) va z .write = .ok ps) :
    exec (.stolenTeamAccess q n rk .store va z v) s = .next (s.after (s.m.withMem (s.m.mem.writeParts c.die ps (leBytes z v.toNat) false))) := by
  refine congrArg (fun x => Host.Outcome.next (s.after x)) ?_
  dsimp only
  rw [ht, hc, hk]
  dsimp only
  rw [hn, decide_eq_true ⟨h1, h8⟩, if_neg (by decide), show accNeed .store = .write from rfl, hr]
  rfl

theorem stolenAccess_load {x : Mem} (hn : s.m.noticesFrom k = false) (h1 : 1 ≤ z) (h8 : z ≤ 8) (hr : s.m.resolveTask c.die (c.leases t) va z .read = .ok ps)
    (hx : x = s.m.mem.observe c.die ps) (hm : x.markParts c.die ps = none) :
    exec (.stolenTeamAccess q n rk .load va z v) s = .next (s.after ((s.m.withMem x).sendTo 2 k
      (.answer c.task c.team.toNat c.rank.toNat (toW (leNat (x.readParts c.die ps))) 0))) := by
  refine congrArg (fun x => Host.Outcome.next (s.after x)) ?_
  dsimp only
  rw [ht, hc, hk]
  dsimp only
  rw [hn, decide_eq_true ⟨h1, h8⟩, if_neg (by decide), show accNeed .load = .read from rfl, hr]
  dsimp only
  unfold Mach.guestAccess
  dsimp only
  rw [← hx, hm]
  rfl

end
end Sys2Proof.Machine
end


section
/-! PROOFS. The consistent stop, the Bobbin token and stolen teams. -/

namespace Sys2Proof.Machine

variable {s : State}

theorem Mach.passToken_here {loads : List (ℕ × Byte)} {m : Mach} (h : (m.modIndex + 1) % m.podSize = m.modIndex) :
    m.passToken loads [] = { m with bobbin := { m.bobbin with loads := loads, reqs := [], since := m.cyc 0 } } := if_pos h

theorem Mach.passToken_on {loads : List (ℕ × Byte)} {m : Mach} (h : (m.modIndex + 1) % m.podSize ≠ m.modIndex) :
    m.passToken loads [] = ({ m with bobbin := { m.bobbin with held := false, loads := [], reqs := [], since := m.cyc 0 } } : Mach).sendTo 3
      ((m.modIndex + 1) % m.podSize) (.token m.bobbin.gen loads []) := if_neg h

theorem Mach.resumeStop_unbegun {m : Mach} (h : m.regs.stopPhase = 0) : m.resumeStop = { m with regs := { m.regs with stopReq := false } } := if_pos h

theorem Mach.resumeStop_early {m : Mach} (h : m.regs.stopPhase = 1 ∨ m.regs.stopPhase = 2) : m.resumeStop = m :=
  (if_neg (by rcases h with h | h <;> rw [h] <;> decide)).trans (if_pos (by rcases h with h | h <;> rw [h] <;> decide))

theorem Mach.stopTimeout_early {m : Mach} (h : m.cyc 0 < m.regs.stopBegan + 16 * (m.die 0).sliceq.toNat) : m.stopTimeout = m :=
  if_neg fun hc => absurd hc.2 (Nat.not_le.mpr h)

theorem Mach.stopTimeout_cuts (m : Mach) (hp : m.regs.stopPhase = 2) (h : m.regs.stopBegan + 16 * (m.die 0).sliceq.toNat ≤ m.cyc 0) :
    ∃ m1 : Mach, m.stopTimeout = m1.stopCut := ⟨_, if_pos ⟨hp, h⟩⟩

theorem stopSources_reads (hr : s.m.regs.stopReq = true) (hp : s.m.regs.stopPhase = 0) (h : ∀ p ∈ s.m.queues, p.2.unread s.m.regs.stopCtx = false) :
    s.m.stopSources = { s.m with regs := { s.m.regs with stopPhase := 1 } } := by
  have hnone : (s.m.queues.any fun p => p.2.unread s.m.regs.stopCtx) = false :=
    List.any_eq_false.mpr fun p hm => by rw [h p hm]; exact Bool.false_ne_true
  unfold Mach.stopSources
  rw [if_neg (by rw [hr]; decide), if_pos hp, hnone, if_neg Bool.false_ne_true]

theorem stopSources_waits (hp : s.m.regs.stopPhase = 0) (h : ∃ p ∈ s.m.queues, p.2.unread s.m.regs.stopCtx = true) : s.m.stopSources = s.m := by
  unfold Mach.stopSources
  rw [if_pos hp, if_pos (List.any_eq_true.mpr h), ite_self]

theorem stopSources_drains (hr : s.m.regs.stopReq = true) (hp : s.m.regs.stopPhase = 1) :
    s.m.stopSources = { s.m with regs := { s.m.regs with stopPhase := 2, stopBegan := s.m.cyc 0 } } := by
  unfold Mach.stopSources
  rw [if_neg (by rw [hr]; decide), if_neg (by rw [hp]; decide), if_pos hp]

theorem stopDrained_cuts (hp : s.m.regs.stopPhase = 2) (hf : s.m.foreignExits s.m.regs.stopCtx = false)
    (h : ∀ t ∈ s.m.ctxTasks s.m.regs.stopCtx, s.m.inFlight t.seq = false) : s.m.stopDrained = s.m.stopCut :=
  if_pos ⟨hp, by rw [hf]; rfl, List.all_eq_true.mpr fun t ht => by rw [h t ht]; rfl⟩

theorem stopDrained_waits (h : s.m.foreignExits s.m.regs.stopCtx = true ∨ ∃ t ∈ s.m.ctxTasks s.m.regs.stopCtx, s.m.inFlight t.seq = true) :
    s.m.stopDrained = s.m := by
  refine if_neg ?_
  rintro ⟨-, hf, ha⟩
  rcases h with h | ⟨t, ht, hi⟩
  · rw [h] at hf
    cases hf
  · have := List.all_eq_true.mp ha t ht
    rw [hi] at this
    cases this

/-- Settles O47: the phases of a stop, the token, and stolen teams. -/
theorem stopAndStealEvents : Obligations.StopAndStealEvents := by
  unfold Obligations.StopAndStealEvents
  intro s
  refine ⟨fun ctx hp hr hc => congrArg (fun x => Host.Outcome.next (s.after x)) (Mach.beginStop_taken hp hr hc),
    fun ctx h => congrArg (fun x => Host.Outcome.next (s.after x)) (Mach.beginStop_held h),
    fun h => congrArg (fun x => Host.Outcome.next (s.after x)) (Mach.resumeStop_unbegun h),
    fun h => congrArg (fun x => Host.Outcome.next (s.after x)) (Mach.resumeStop_early h),
    fun h => ⟨_, rfl, Mach.resumeStop_empty h⟩, fun hr hp h => congrArg (fun x => Host.Outcome.next (s.after x)) (stopSources_reads hr hp h),
    fun hp h => congrArg (fun x => Host.Outcome.next (s.after x)) (stopSources_waits hp h),
    fun hr hp => congrArg (fun x => Host.Outcome.next (s.after x)) (stopSources_drains hr hp),
    fun hp hf h => ⟨congrArg (fun x => Host.Outcome.next (s.after x)) (stopDrained_cuts hp hf h), rfl⟩,
    fun h => congrArg (fun x => Host.Outcome.next (s.after x)) (stopDrained_waits h),
    fun h => congrArg (fun x => Host.Outcome.next (s.after x)) (Mach.stopTimeout_early h), fun hp h => ?_,
    fun gen loads reqs => ⟨fun h => ?_, fun h => ?_⟩, fun h => bobholdExpiry_early h, ?_, fun reach hh ht hk => bobbinRegeneration_lowest hh ht hk,
    fun o d g n => ⟨fun h => stolenArrival_none h, fun x hx => ?_⟩, fun q n t k ht hr => stealAcknowledge_sending ht hr,
    fun q n rk va z v t c k ps x ht hc hk => ⟨fun hn acc => stolenAccess_waits ht hc hk hn,
      fun hn h1 h8 => ⟨fun hr => stolenAccess_store ht hc hk hn h1 h8 hr, fun hr hx hm => stolenAccess_load ht hc hk hn h1 h8 hr hx hm⟩⟩⟩
  · obtain ⟨m1, h1⟩ := s.m.stopTimeout_cuts hp h
    exact ⟨m1.stopCut, congrArg (fun x => Host.Outcome.next (s.after x)) h1, rfl⟩
  · rw [bobbinArrival_eq, if_pos h]
  · rw [bobbinArrival_eq, if_neg (Nat.not_lt.mpr h)]
    exact ⟨_, rfl, rfl, rfl, rfl, List.mem_append_right _ (List.mem_singleton_self _)⟩
  · rintro next loads hh ht hr rfl rfl
    refine ⟨fun h => ?_, fun h => ?_⟩
    · rw [bobholdExpiry_passes hh ht hr, Mach.passToken_here h]
    · rw [bobholdExpiry_passes hh ht hr, Mach.passToken_on h]
  · have hkeys := List.find?_some hx
    simp only [Bool.and_eq_true, beq_iff_eq] at hkeys
    obtain ⟨⟨ho, hg⟩, hn⟩ := hkeys
    obtain ⟨t, h⟩ := s.m.landTeam_frame x d
    rw [ho, hg, hn] at h
    exact ⟨_, t, stolenArrival_found hx, h⟩

end Sys2Proof.Machine
end


section
/-! SUPPORT. The host's events: doorbells, entries, queues, windows and registers (R38 to R40, R246, R296 to R300). -/

namespace Sys2Proof.Machine

variable {m : Mach} {s : State} {q : ℕ}

/-! ### Queues -/

theorem Mach.doorbell_owner {ld : ℕ} {tail : W32} (he : (m.queue q).en = true) (hp : m.portReady = true) (ho : (m.queue q).owner = ld) :
    m.doorbell ld q tail = if m.sourcesHeld (m.queue q).submitter.ctx then m.setQueue q { m.queue q with held := some tail }
      else m.setQueue q { m.queue q with tail := tail } := by
  unfold Mach.doorbell
  dsimp only
  rw [if_neg (by simp [he, hp]), if_neg (fun h => h ho)]

theorem Mach.doorbell_other {ld : ℕ} {tail : W32} (he : (m.queue q).en = true) (hp : m.portReady = true) (ho : (m.queue q).owner ≠ ld) :
    m.doorbell ld q tail = m.refuseHost 0x7002 ((m.queue q).entry.toNat / 2 ^ 48 % 2 ^ 12) ld (16 * q) (tail.setWidth 64) := by
  unfold Mach.doorbell
  dsimp only
  rw [if_neg (by simp [he, hp]), if_pos ho, bits_eq]

theorem Mach.putChead_owner {ld : ℕ} {head : W32} (he : (m.queue q).en = true) (ho : (m.queue q).owner = ld) :
    m.putChead ld q head = m.setQueue q { m.queue q with chead := head } := by
  unfold Mach.putChead
  dsimp only
  rw [if_neg (by simp [he, ho])]

theorem Mach.queue_setQueue (m : Mach) (q : ℕ) (x : Queue) : (m.setQueue q x).queue q = x := SMap.get_set_same

theorem Mach.enableQueue_bad {e : ℕ} (he : e = leNat (m.mem.read 0 (m.regs.qcfgt.toNat + 32 * q) 32)) (h : m.entryOk e = false) :
    m.enableQueue q = { m with regs := { m.regs with qctl := toW (q + 2 ^ 15 + 2 ^ 16) } } := by
  unfold Mach.enableQueue
  dsimp only
  rw [← he, h, if_neg Bool.false_ne_true]

theorem Mach.enableQueue_ok {e : ℕ} (he : e = leNat (m.mem.read 0 (m.regs.qcfgt.toNat + 32 * q) 32)) (h : m.entryOk e = true) :
    (m.enableQueue q).queue q = { entry := BitVec.ofNat 256 e, en := true } ∧ (m.enableQueue q).regs.qctl = toW (q + 2 ^ 15) := by
  unfold Mach.enableQueue
  dsimp only
  rw [← he, if_pos h]
  exact ⟨m.queue_setQueue q _, rfl⟩

/-! ### Entries -/

section
variable {kind : ℕ} {f : Mach → Submitter → Word → Mach × ℕ × ℕ} {b : List Byte}

theorem Mach.takeEntry_none (h : m.nextEntry q = none) : m.takeEntry q kind f = m := by
  unfold Mach.takeEntry
  rw [h]

/-- An entry of the expected kind and form is done, and answered with its completion (R299). -/
theorem Mach.takeEntry_good (h : m.nextEntry q = some b) (hk : leAt b 0 1 = kind) (hf : entryForm b = true) {m1 : Mach} {st reason : ℕ}
    (hr : f m (m.queue q).submitter (toW (leAt b 8 8)) = (m1, st, reason)) : m.takeEntry q kind f = m1.putCompletion q b st reason := by
  unfold Mach.takeEntry
  rw [h]
  dsimp only
  rw [if_neg (fun hb => hb.1 hk), if_neg (by rw [hf]; decide), hr]

theorem Mach.takeEntry_unknown (h : m.nextEntry q = some b) (hk : 3 ≤ leAt b 0 1) : m.takeEntry q 0 f = m.putCompletion q b 2 0 := by
  have hform : entryForm b = false := decide_eq_false fun hf => by omega
  unfold Mach.takeEntry
  rw [h]
  dsimp only
  rw [if_neg (fun hb => by simp [hk] at hb), if_pos (by rw [hform]; rfl)]

end

/-! ### Replays -/

theorem replayStart_free {n : ℕ} {g : Graph} (hg : s.m.graph? n = some g) (h : s.m.sourcesHeld g.ctx = false) :
    exec (.replayStart n) s = .next (s.after (s.m.startReplay n)) := by
  refine congrArg (fun x => Host.Outcome.next (s.after x)) ?_
  dsimp only
  rw [hg]
  dsimp only
  rw [h, if_neg Bool.false_ne_true]

/-- A replay starts only once the graph runs none and the patches before it have taken effect (R39, R246). -/
theorem Mach.startReplay_waits {n : ℕ} {g : Graph} (hg : m.graph? n = some g)
    (h : g.running = true ∨ g.pend = none ∨ ∃ r, g.pend = some r ∧ r.afterPatch = true) : m.startReplay n = m := by
  unfold Mach.startReplay
  rw [hg]
  dsimp only
  rcases h with h | h | ⟨r, h, hp⟩
  · cases g.pend with
    | none => rfl
    | some r =>
      dsimp only
      rw [h, Bool.true_or, if_pos rfl]
  · rw [h]
  · rw [h]
    dsimp only
    rw [hp, Bool.or_true, if_pos rfl]

theorem Mach.copyArea_ready {n : ℕ} {g : Graph} (hg : m.graph? n = some g) (h : g.areaReady = true) : m.copyArea n = m := by
  unfold Mach.copyArea
  rw [hg]
  dsimp only
  rw [if_pos h]

/-! ### Windows and registers -/

theorem Mach.firmwareWrite_taken {ld off : ℕ} {v : Word} (hl : ld = 0) (hs : m.regs.stage = 0) (hf : m.regs.fwrun = false) (ha : off % 8 = 0)
    (hr : off + 8 ≤ 6291456) : m.firmwareWrite ld off v = m.withMem (m.mem.spadWrite (skey 0 off) (leBytes 8 v.toNat) false) := by
  unfold Mach.firmwareWrite
  rw [if_neg]
  · rfl
  · rintro (h | h | h | h | h)
    · exact h hl
    · exact h hs
    · rw [hf] at h; cases h
    · exact h ha
    · exact absurd hr (Nat.not_le.mpr h)

theorem Mach.firmwareWrite_closed {ld off : ℕ} {v : Word} (h : ld ≠ 0 ∨ m.regs.stage ≠ 0 ∨ m.regs.fwrun = true) : m.firmwareWrite ld off v = m :=
  if_pos (h.imp_right fun h => h.imp_right Or.inl)

theorem Mach.bar0Write_module {x : ℕ} {v : Word} {p : Bool} (h : regInfo x = some (.module, p)) : m.bar0Write 0 0 x v = m.writeModReg x v := by
  unfold Mach.bar0Write
  rw [if_neg (fun h => h rfl), if_neg (by decide), h]
  rfl

/-- The reserved bits of a registration read as zero (R257). -/
theorem rxWord_eq (v : Word) : rxWord v = v &&& ~~~toW (1023 * 2 ^ 53) := by
  refine BitVec.eq_of_getLsbD_eq fun k hk => ?_
  have hput := putBits_testBit v.toNat 0 53 k (n := 10) (by decide)
  have hmask : (1023 * 2 ^ 53).testBit k = (decide (53 ≤ k) && decide (k - 53 < 10)) := by
    rw [Nat.testBit_mul_two_pow, show 1023 = 2 ^ 10 - 1 from rfl, Nat.testBit_two_pow_sub_one]
  rw [rxWord, toW_getLsbD hk, BitVec.getLsbD_and, BitVec.getLsbD_not, toW_getLsbD hk, hmask]
  refine hput.trans ?_
  by_cases h53 : 53 ≤ k ∧ k < 53 + 10
  · rw [if_pos h53, decide_eq_true h53.1, decide_eq_true (p := k - 53 < 10) (by omega)]
    simp
  · have hout : (decide (53 ≤ k) && decide (k - 53 < 10)) = false := by
      rw [Bool.and_eq_false_iff, decide_eq_false_iff_not, decide_eq_false_iff_not]
      omega
    rw [if_neg h53, hout]
    simp [hk, BitVec.getLsbD]

theorem rxregWrite_binds {n : BitVec 6} {v : Word} (hid : s.m.cur.id ≠ 0) (hok : rxOk s.m.cur v = true) :
    exec (.rxregWrite n v) s = .next (s.after (s.m.setDie s.m.cur.die { s.m.die s.m.cur.die with
      rx := vset (s.m.die s.m.cur.die).rx n.toNat { word := rxWord v, task := s.m.cur.task, team := s.m.cur.team.toNat, rank := s.m.cur.rank.toNat } })) := by
  refine runStep_ok hid ?_
  unfold writeRx
  simp only [act_bind, act_getC, hok, raiseIf, act_modM, Bool.not_true, Bool.false_eq_true, if_false, act_pure]

end Sys2Proof.Machine
end


section
/-! PROOFS. The events of the host. -/

namespace Sys2Proof.Machine

/-- What an event makes of the machine is what its run leaves. -/
theorem event_next {s : State} {x y : Mach} (h : x = y) : (Host.Outcome.next (s.after x) : Host.Outcome State Fault Refusal) = .next (s.after y) := by rw [h]

/-- Settles O48: doorbells, entries, queues, windows and registers of the host. -/
theorem hostEvents : Obligations.HostEvents := by
  unfold Obligations.HostEvents
  intro s
  refine ⟨?_, ?_, ?_, ?_, fun n g hg => ⟨fun h => replayStart_free hg h, fun h => Mach.startReplay_waits hg h, fun h => ?_, fun _ => rfl⟩, ?_,
    fun pa bs => ⟨fun h => if_pos h, fun h => if_neg (by rw [h]; exact Bool.false_ne_true)⟩,
    fun pa n => ⟨fun h => if_pos h, fun h => if_neg (by rw [h]; exact Bool.false_ne_true)⟩, fun ld off v => ⟨fun hl hs hf ha hr => ?_, fun h => ?_⟩,
    fun ld die x v h => event_next (if_pos h), fun x v p h => event_next (Mach.bar0Write_module h), ?_⟩
  · rintro ld q tail x rfl he hp
    refine ⟨fun ho hh => event_next ((Mach.doorbell_owner he hp ho).trans (if_neg (by rw [hh]; exact Bool.false_ne_true))),
      fun ho hh => event_next ((Mach.doorbell_owner he hp ho).trans (if_pos hh)), fun ho => event_next (Mach.doorbell_other he hp ho)⟩
  · rintro ld q head x rfl he ho
    exact event_next (Mach.putChead_owner he ho)
  · intro q hq i hi
    simp only [List.mem_cons, List.not_mem_nil, or_false] at hi
    rcases hi with rfl | rfl | rfl <;> exact event_next (Mach.takeEntry_none hq)
  · rintro q b sub a hb rfl rfl
    refine ⟨fun hk hf => ⟨fun m1 n h => event_next (Mach.takeEntry_good hb hk hf ?_), fun m1 k h => event_next (Mach.takeEntry_good hb hk hf ?_)⟩,
      fun h => event_next (Mach.takeEntry_unknown hb h), fun hk hf m1 r h => ⟨fun hr => event_next (Mach.takeEntry_good hb hk hf ?_),
      fun k hr => event_next (Mach.takeEntry_good hb hk hf ?_)⟩, fun hk hf e he => ⟨fun h => event_next (Mach.takeEntry_good hb hk hf ?_),
      fun r x h hx => event_next (Mach.takeEntry_good hb hk hf ?_)⟩⟩
    · rw [h]
    · rw [h]
    · rw [h]
      rcases hr with rfl | rfl <;> rfl
    · rw [h, hr]
    · dsimp only
      rw [he]
      dsimp only
      rw [h]
    · dsimp only
      rw [he]
      dsimp only
      rw [h, hx]
  · exact event_next (Mach.copyArea_ready hg h)
  · exact fun q e he => ⟨fun h => event_next (Mach.enableQueue_bad he h), fun h => ⟨_, rfl, Mach.enableQueue_ok he h⟩,
      ⟨_, rfl, Mach.queue_setQueue _ _ _⟩⟩
  · exact event_next (Mach.firmwareWrite_taken hl hs hf ha hr)
  · exact event_next (Mach.firmwareWrite_closed h)
  · rintro n v x hid hok rfl
    rw [rxregWrite_binds hid hok, rxWord_eq]

end Sys2Proof.Machine
end


section
/-! SUPPORT. Power, stages, firmware and resets as events (R304 to R306, R410 to R418). -/

namespace Sys2Proof.Machine

variable {m : Mach} {s : State}

/-! ### Stages and firmware -/

/-- The low byte of a word after it has been put. -/
theorem toW_putLow {w c : ℕ} (hc : c < 256) : (toW (putBits w 7 0 c)).toNat % 2 ^ 8 = c := by
  have h := putBits_eq w c 0 (n := 8) (by decide)
  rw [show 0 + 8 - 1 = 7 from rfl] at h
  rw [h]
  simp only [toW, BitVec.toNat_ofNat]
  omega

theorem Mach.beginAuth_starts (hs : m.regs.stage = 0) (hf : m.regs.fwrun = false) :
    m.beginAuth = { m with regs := { m.regs with fwrun := true, fwstat := toW (putBits m.regs.fwstat.toNat 7 0 1) } } :=
  if_neg (by simp [hs, hf])

/-- The end of an authentication that FWLEN's limits allow (R305, R307). -/
theorem Mach.endAuth_eq {r : FwResult} (hf : m.regs.fwrun = true) (hlo : 4096 ≤ m.regs.fwlen.toNat) (hhi : m.regs.fwlen.toNat ≤ 6291456) :
    m.endAuth r = if r = .passed
      then ({ m with regs := { m.regs with fwrun := false, fwstat := toW (putBits m.regs.fwstat.toNat 7 0 (fwCode r)) } } : Mach).beginStage1
      else { m with regs := { m.regs with fwrun := false, fwstat := toW (putBits m.regs.fwstat.toNat 7 0 (fwCode r)) } } := by
  have hlen : ¬(m.regs.fwlen.toNat < 4096 ∨ spadBytes < m.regs.fwlen.toNat) := by unfold spadBytes; omega
  unfold Mach.endAuth
  dsimp only
  rw [if_neg (by rw [hf]; decide), if_neg hlen]

theorem Mach.endAuth_ends {r : FwResult} {code : ℕ} (hf : m.regs.fwrun = true) (hlo : 4096 ≤ m.regs.fwlen.toNat) (hhi : m.regs.fwlen.toNat ≤ 6291456)
    (hcode : fwCode r = code) (hc : code < 256) : (m.endAuth r).regs.fwrun = false ∧ (m.endAuth r).regs.fwstat.toNat % 2 ^ 8 = code ∧
      (r = .passed → (m.endAuth r).regs.stage = 1 ∧ (∀ d, (m.endAuth r).cyc d = 0) ∧ (m.endAuth r).regs.withheld = m.regs.dieoff) ∧
      (r ≠ .passed → (m.endAuth r).regs.stage = m.regs.stage) := by
  rw [Mach.endAuth_eq hf hlo hhi, hcode]
  by_cases hr : r = .passed
  · rw [if_pos hr]
    exact ⟨rfl, toW_putLow hc, fun _ => ⟨rfl, fun _ => rfl, rfl⟩, fun h => absurd hr h⟩
  · rw [if_neg hr]
    exact ⟨rfl, toW_putLow hc, fun h => absurd h hr, fun _ => rfl⟩

theorem stage1Complete_some (hs : s.m.regs.stage = 1) (code : Byte) (dies : Word) :
    ∃ x, exec (.stage1Complete (some (code, dies))) s = .next (s.after (s.m.toStage0 code x)) :=
  ⟨_, event_next (if_neg (fun h => h hs))⟩

theorem stage2Complete_eq (hs : s.m.regs.stage = 2) (hr : s.m.regs.ready = false) (chips : BitVec 16) :
    exec (.stage2Complete none chips) s = .next (s.after (s.m.becomeReady chips)) ∧
      ∀ dies, exec (.stage2Complete (some dies) chips) s = .next (s.after (s.m.toStage0 0x20 dies)) := by
  have hgo : ¬(s.m.regs.stage ≠ 2 ∨ s.m.regs.ready = true) := by simp [hs, hr]
  exact ⟨event_next (if_neg hgo), fun dies => event_next (if_neg hgo)⟩

theorem Mach.startScalar_starts {v : Word} (hs : m.regs.stage = 0) (hc : ∀ c ∈ m.allConts, c.stage0 = false) :
    ∃ c : Cont, (m.startScalar v).conts = m.conts ++ [c] ∧ c.stage0 = true ∧ c.pc.toNat = v.toNat % 2 ^ 23 ∧ c.sysMode = false ∧ c.state = 1 := by
  have hnone : m.allConts.any (fun c => c.id ≠ 0 && c.stage0 && c.resident) = false :=
    List.any_eq_false.mpr fun c hm => by rw [hc c hm, Bool.and_false, Bool.false_and]; exact Bool.false_ne_true
  unfold Mach.startScalar
  rw [if_neg (by rw [hnone]; simp [hs])]
  refine ⟨_, rfl, rfl, ?_, rfl, rfl⟩
  dsimp only
  rw [BitVec.toNat_ofNat, bits_zero_eq]
  omega

theorem Mach.writeModReg_mrst (v : Word) : m.writeModReg 0x013 v = if v.toNat % 2 ^ 16 = 0x4D52 then m.moduleReset else m := by
  unfold Mach.writeModReg
  dsimp only
  rw [if_neg (by decide), if_pos rfl, bits_zero_eq]

/-! ### Resets of a die -/

theorem Mach.beginDieReset_eq {d : ℕ} (h0 : d ≠ 0) (h64 : d < 64) (hr : (m.die d).rstat ≠ 1) (hw : m.isWithheld d = false) :
    (m.mapElig d = true → m.beginDieReset d = m.setDie d { m.die d with rstat := 3 }) ∧
      (m.mapElig d = false → (∀ t ∈ m.teams, t.die ≠ d) → (m.die d).tripped = false → m.beginDieReset d = m.setDie d { m.die d with rstat := 1 }) := by
  have hgo : ¬(d = 0 ∨ 64 ≤ d ∨ (m.die d).rstat = 1 ∨ m.isWithheld d = true) := by
    rw [hw]
    rintro (h | h | h | h)
    · exact h0 h
    · omega
    · exact hr h
    · cases h
  refine ⟨fun he => ?_, fun he ht htrip => ?_⟩
  · unfold Mach.beginDieReset
    dsimp only
    rw [if_neg hgo, if_pos (Or.inl he)]
  · unfold Mach.beginDieReset
    dsimp only
    rw [if_neg hgo, if_neg]
    rintro (h | h | h)
    · rw [he] at h; cases h
    · obtain ⟨t, hm, hand⟩ := List.any_eq_true.mp h
      exact ht t hm (by simpa using (Bool.and_eq_true_iff.mp hand).1)
    · rw [htrip] at h; cases h.1

theorem Mach.endDieReset_other {d : ℕ} (h : (m.die d).rstat ≠ 1) : m.endDieReset d = m := if_pos h

theorem Mach.endDieReset_ends {d : ℕ} (h : (m.die d).rstat = 1) :
    ((m.endDieReset d).die d).rstat = 2 ∧ ((m.endDieReset d).die d).failed = false ∧ ∀ e ∈ (m.endDieReset d).tlb, e.die ≠ d := by
  unfold Mach.endDieReset
  extract_lets x m1 m2
  rw [if_neg (fun hr => hr h)]
  refine ⟨congrArg Die.rstat (m2.die_setDie d _), congrArg Die.failed (m2.die_setDie d _), fun e he => ?_⟩
  simpa using (List.mem_filter.mp he).2

/-! ### The migration arbiter -/

theorem Mach.migClaim_held {page : BitVec 36} {c : Claim} (h : Bool) (hc : m.claimOf page = some c) : m.migClaim h page =
    if c.host = h then m.migResult h page 3 else
      ({ m with claims := m.claims.map fun x => if x.page = page then { x with contested := true } else x } : Mach).migResult h page 1 := by
  unfold Mach.migClaim
  rw [hc]

theorem Mach.migClaim_free {page : BitVec 36} (h : Bool) (hc : m.claimOf page = none) : m.migClaim h page =
    if 64 ≤ m.claims.length then m.migResult h page 3 else
      ({ m with claims := m.claims ++ [{ page := page, host := h, contested := false }] } : Mach).migResult h page 0 := by
  unfold Mach.migClaim
  rw [hc]

theorem Mach.migCommit_held {page : BitVec 36} {c : Claim} (h : Bool) (hc : m.claimOf page = some c) : m.migCommit h page =
    m.migResult h page (if c.host = h then (if c.contested then 1 else 0) else 3) := by
  unfold Mach.migCommit
  rw [hc]
  dsimp only
  split
  · cases c.contested <;> rfl
  · rfl

theorem Mach.migCommit_free {page : BitVec 36} (h : Bool) (hc : m.claimOf page = none) : m.migCommit h page = m.migResult h page 3 := by
  unfold Mach.migCommit
  rw [hc]

theorem Mach.migRelease_held {page : BitVec 36} {c : Claim} (h : Bool) (hc : m.claimOf page = some c) : m.migRelease h page =
    if c.host = h then ({ m with claims := m.claims.filter fun x => x.page ≠ page } : Mach).migResult h page 2 else m.migResult h page 3 := by
  unfold Mach.migRelease
  rw [hc]

/-! ### Power and temperature -/

/-- A die's cap at a temperature (R308, R418). -/
theorem Die.cap_eq (x : Die) (θ : ℕ) : x.cap θ =
    if θ < x.thrm.toNat % 2 ^ 16 then x.pwrcap.toNat else max 50 (x.pwrcap.toNat - (θ - x.thrm.toNat % 2 ^ 16)) := by
  unfold Die.cap
  dsimp only
  rw [bits_zero_eq]

theorem powerWindow_eq {d w θ : ℕ} (hd : d < 64) (hw : s.m.isWithheld d = false) : exec (.powerWindowCheck d w θ) s = .next (s.after (s.m.setDie d
    { s.m.die d with pwrstat := toW (w % 65536 + θ % 65536 * 2 ^ 16 + oneBit (decide ((s.m.die d).cap θ < w)) 32) })) :=
  event_next (if_neg (by rw [hw]; simp; omega))

theorem pwrstat_toNat (w θ : ℕ) (p : Prop) [Decidable p] : (toW (w % 65536 + θ % 65536 * 2 ^ 16 + oneBit (decide p) 32)).toNat =
    w % 2 ^ 16 + θ % 2 ^ 16 * 2 ^ 16 + if p then 2 ^ 32 else 0 := by
  have hbit : oneBit (decide p) 32 = if p then 2 ^ 32 else 0 := by simp [oneBit]
  rw [hbit]
  simp only [toW, BitVec.toNat_ofNat]
  split <;> omega

theorem thermalTrip_eq {d : ℕ} (hd : d < 64) (hw : s.m.isWithheld d = false) : exec (.thermalTrip d) s = .next (s.after (
    if (s.m.die d).temp < (s.m.die d).thrm.toNat / 2 ^ 16 % 2 ^ 16 then s.m else (s.m.setDie d { s.m.die d with tripped := true }).failDie d 0x32)) := by
  refine event_next ?_
  dsimp only
  rw [hw, bits_eq]
  simp only [Nat.not_le.mpr hd, Bool.false_eq_true, false_or]

end Sys2Proof.Machine
end


section
/-! SUPPORT. Errors and ports that go down as events (R355, R383, R406, R408). -/

namespace Sys2Proof.Machine

variable {m : Mach} {s : State}

/-! ### Marks -/

/-- A fold that sets a value at a key of each index leaves it at the key of every index of the list. -/
theorem SMap.get_foldl_setKey {α : Type} [DecidableEq α] {z v : α} (key : ℕ → ℕ) (l : List ℕ) :
    ∀ p : SMap α, (∃ d ∈ l, key d = k) ∨ SMap.get z p k = v → SMap.get z (l.foldl (fun p d => SMap.set z p (key d) v) p) k = v := by
  induction l with
  | nil => exact fun p h => h.elim (fun ⟨_, hd, _⟩ => absurd hd List.not_mem_nil) id
  | cons e r ih =>
    intro p h
    refine ih _ ?_
    rw [SMap.get_set]
    by_cases hk : k = key e
    · exact Or.inr (if_pos hk)
    · rw [if_neg hk]
      refine h.imp_left fun ⟨d, hd, hkd⟩ => ⟨d, (List.mem_cons.mp hd).resolve_left fun he => hk (by rw [← hkd, he]), hkd⟩

theorem Mach.markGranule_marks {pa d : ℕ} (hp : m.paFault pa = none) (hd : d < 64) :
    (m.markGranule pa).mem.marked d pa = true ∧ (m.markGranule pa).mem.view = m.mem.view := by
  have hv : viewDie d pa < 64 := by unfold viewDie; split <;> omega
  have hmark := SMap.get_foldl_setKey (z := false) (v := true) (fun d => d * 2 ^ 46 + pa / 64) (List.range 64) m.mem.poison
    (Or.inl ⟨viewDie d pa, List.mem_range.mpr hv, rfl⟩)
  have heq : m.markGranule pa = { m with mem := { m.mem with
      poison := (List.range 64).foldl (fun p d => SMap.set false p (d * 2 ^ 46 + pa / 64) true) m.mem.poison } } :=
    if_neg (by rw [hp]; decide)
  rw [heq]
  generalize (List.range 64).foldl (fun p d => SMap.set false p (d * 2 ^ 46 + pa / 64) true) m.mem.poison = marks at hmark ⊢
  exact ⟨hmark, rfl⟩

theorem contextState_ends {id : ℕ} {c : Cont} (hc : s.m.cont? id = some c) (h0 : c.id ≠ 0) (hst : c.state.toNat < 6) :
    exec (.uncorrectableError (.contextState id)) s = .next (s.after (s.m.reportEnd c (c.report { cause := 0x6001 } 7 0))) := by
  refine event_next ?_
  dsimp only
  rw [hc]
  exact if_neg (by omega)

/-! ### What keeps the registers -/

theorem Mach.foldl_regs {β : Type} {f : Mach → β → Mach} (hf : ∀ m b, (f m b).regs = m.regs) (l : List β) :
    ∀ m : Mach, (l.foldl f m).regs = m.regs := by
  induction l with
  | nil => exact fun m => rfl
  | cons b r ih => exact fun m => (ih _).trans (hf m b)

theorem Mach.putRecord_regs (m : Mach) (c : Cont) : (m.putRecord c).regs = m.regs := by
  unfold Mach.putRecord
  split <;> rfl

theorem Mach.sendTo_regs (m : Mach) (lane dest : ℕ) (b : Pkt) (j : Option ℕ) : (m.sendTo lane dest b j).regs = m.regs := by
  obtain ⟨l, hl⟩ := m.sendTo_frame lane dest b j
  rw [hl]

theorem Mach.endConts_regs (m : Mach) (q : ℕ) (st : Byte) (cause : Cause) : (m.endConts q st cause).regs = m.regs :=
  Mach.foldl_regs (f := fun (m : Mach) (c : Cont) => m.recordCont { (c.dropClaim) with
      state := st, tcause := cause, resident := false, flagTrap := none, imprecise := none })
    (fun m _ => (Mach.putRecord_regs _ _).trans (m.setCont_regs _)) _ m

theorem Mach.releaseRecords_regs (m : Mach) (q : ℕ) : (m.releaseRecords q).regs = m.regs :=
  Mach.foldl_regs (f := fun (m : Mach) (c : Cont) => m.putRecord { c with state := 0 }) (fun m _ => m.putRecord_regs _) _ m

theorem Mach.dropGuest_regs (m : Mach) (q : ℕ) (cause : Cause) : (m.dropGuest q cause).regs = m.regs :=
  (Mach.releaseRecords_regs _ _).trans (m.endConts_regs q 7 cause)

/-- A port that goes down where no team runs elsewhere loses stolen teams alone, and no register. -/
theorem Mach.loseSteals_regs {away : ℕ → Bool} (ht : m.teams = []) : (m.loseSteals away).regs = m.regs := by
  unfold Mach.loseSteals
  rw [ht]
  refine Mach.foldl_regs (fun m t => ?_) _ m
  split
  · split
    · exact m.dropGuest_regs _ _
    · rfl
  · rfl

theorem Mach.loseSteals_none {away : ℕ → Bool} (ht : m.teams = []) (hk : m.tasks = []) : m.loseSteals away = m := by
  unfold Mach.loseSteals
  rw [ht]
  show m.tasks.foldl _ m = m
  rw [hk]
  rfl

/-! ### The log -/

/-- An entry of the log leaves what no entry counts: the ports' registers, the links, the jobs, teams and tasks. -/
theorem Mach.logError_ports (m : Mach) (f : Trap) (i : LogInfo) :
    (m.logError f i).regs.podUp = m.regs.podUp ∧ (m.logError f i).regs.ebstat = m.regs.ebstat ∧ (m.logError f i).regs.ebDown = m.regs.ebDown := by
  unfold Mach.logError
  split
  · exact ⟨rfl, rfl, rfl⟩
  · dsimp only
    split <;> exact ⟨rfl, rfl, rfl⟩

/-! ### Ports -/

theorem clearedBit {n p : ℕ} (w : BitVec n) (h : p < n) : (w &&& ~~~((1 : BitVec n) <<< p)).getLsbD p = false := by
  rw [BitVec.getLsbD_and, BitVec.getLsbD_not, BitVec.getLsbD_shiftLeft]
  have h0 : 0 < n := by omega
  simp [h, h0]

/-- Traffic takes a port that is up (R302, R406). -/
theorem Mach.portTo_up {dest p : ℕ} (h : m.portTo dest = some p) : m.regs.podUp.getLsbD p = true := by
  unfold Mach.portTo at h
  split at h
  · cases h
  · dsimp only at h
    split at h
    · next hup => cases h; exact hup
    · split at h
      · next hup => cases h; exact hup
      · cases h

/-- What waits at a port that is down leaves it (R406). -/
theorem Mach.reroute_links {p : ℕ} (hdown : m.regs.podUp.getLsbD p = false) : ∀ f ∈ (m.reroute p).links, f.port ≠ p := by
  intro f hf
  obtain ⟨x, -, hx⟩ := List.mem_filterMap.mp hf
  split at hx
  · next hne => cases hx; exact hne
  · split at hx
    · cases hx
    · obtain ⟨k, hk, rfl⟩ := Option.map_eq_some_iff.mp hx
      intro (hkp : k = p)
      rw [← hkp, Mach.portTo_up hk] at hdown
      cases hdown

theorem podLinkDown_down {p : ℕ} {lost : Bool} (h : s.m.regs.podUp.getLsbD p = false) : exec (.podLinkDown p lost) s = .next (s.after s.m) :=
  event_next (if_pos (Or.inr (by rw [h]; rfl)))

/-- The machine when a port has gone down, before what used it is told. -/
def Mach.portDown (m : Mach) (p : ℕ) (lost : Bool) : Mach :=
  (({ m with regs := { m.regs with podUp := m.regs.podUp &&& ~~~((1 : BitVec 12) <<< p) } } : Mach).reroute p).logError
    { cause := 0x6002, info := toW (p + (if lost then 2 else 1) * 256) } { severity := 3, die := podDie p }

theorem podLinkDown_up {p : ℕ} {lost : Bool} (hp : p < 12) (h : s.m.regs.podUp.getLsbD p = true) (hj : s.m.jobs = []) :
    exec (.podLinkDown p lost) s = .next (s.after ((s.m.portDown p lost).loseSteals fun k => s.m.portTo k == some p)) := by
  refine event_next ?_
  dsimp only
  rw [if_neg (by rw [h]; simp; omega)]
  have hjobs : (({ s.m with regs := { s.m.regs with podUp := s.m.regs.podUp &&& ~~~((1 : BitVec 12) <<< p) } } : Mach).reroute p).jobs = [] := hj
  rw [hjobs]
  rfl

theorem Mach.portDown_podUp (m : Mach) (p : ℕ) (lost : Bool) : (m.portDown p lost).regs.podUp = m.regs.podUp &&& ~~~((1 : BitVec 12) <<< p) :=
  (Mach.logError_ports _ _ _).1

theorem Mach.portDown_frame (m : Mach) (p : ℕ) (lost : Bool) : (m.portDown p lost).teams = m.teams ∧ (m.portDown p lost).tasks = m.tasks := by
  unfold Mach.portDown
  obtain ⟨x, r, o, h⟩ := Mach.logError_frame (({ m with regs := { m.regs with podUp := m.regs.podUp &&& ~~~((1 : BitVec 12) <<< p) } } : Mach).reroute p)
    { cause := 0x6002, info := toW (p + (if lost then 2 else 1) * 256) } { severity := 3, die := podDie p }
  rw [h]
  exact ⟨rfl, rfl⟩

theorem Mach.portDown_links {p : ℕ} (m : Mach) (lost : Bool) (hp : p < 12) : ∀ f ∈ (m.portDown p lost).links, f.port ≠ p := by
  unfold Mach.portDown
  obtain ⟨x, r, o, h⟩ := Mach.logError_frame (({ m with regs := { m.regs with podUp := m.regs.podUp &&& ~~~((1 : BitVec 12) <<< p) } } : Mach).reroute p)
    { cause := 0x6002, info := toW (p + (if lost then 2 else 1) * 256) } { severity := 3, die := podDie p }
  rw [h]
  exact Mach.reroute_links (m := { m with regs := { m.regs with podUp := m.regs.podUp &&& ~~~((1 : BitVec 12) <<< p) } }) (clearedBit _ hp)

theorem ebnasPortTimeout_down {k : ℕ} (h : (vget s.m.regs.ebstat k 0).getLsbD 0 = false) : exec (.ebnasPortTimeout k) s = .next (s.after s.m) :=
  event_next (if_pos (Or.inr (by rw [h]; rfl)))

theorem ebnasPortTimeout_up {k : ℕ} (hk : k < 16) (h : (vget s.m.regs.ebstat k 0).getLsbD 0 = true) :
    ∃ m1, exec (.ebnasPortTimeout k) s = .next (s.after m1) ∧ (vget m1.regs.ebstat k 0).getLsbD 0 = false ∧ m1.regs.ebDown.getLsbD k = true := by
  refine ⟨_, event_next (if_neg (by rw [h]; simp; omega)), ?_⟩
  obtain ⟨-, hst, hdn⟩ := Mach.logError_ports ({ s.m with regs := { s.m.regs with
    ebstat := vset s.m.regs.ebstat k (toW (putBits (vget s.m.regs.ebstat k 0).toNat 0 0 0))
    ebDown := s.m.regs.ebDown ||| ((1 : BitVec 16) <<< k) } } : Mach) { cause := 0x6003 } { severity := 3, die := ebnasDie k }
  rw [hst, hdn]
  refine ⟨?_, ?_⟩
  · have hbit := putBits_testBit (vget s.m.regs.ebstat k 0).toNat 0 0 0 (n := 1) (by decide)
    rw [vget_vset_same hk, toW_getLsbD (by decide)]
    exact hbit
  · dsimp only
    rw [BitVec.getLsbD_or, BitVec.getLsbD_shiftLeft]
    simp [hk]

end Sys2Proof.Machine
end


section
/-! PROOFS. Power, stages, resets, the arbiter, errors and ports: what each event does. -/

namespace Sys2Proof.Machine

/-- Settles O49: power, firmware, stages, resets, the migration arbiter, errors and ports. -/
theorem powerAndErrorEvents : Obligations.PowerAndErrorEvents := by
  unfold Obligations.PowerAndErrorEvents
  intro s
  refine ⟨fun hp => event_next (if_pos hp), fun hp => ⟨_, event_next (if_neg (by rw [hp]; decide)), rfl, rfl, rfl, rfl⟩,
    ⟨_, rfl, rfl, rfl, rfl⟩, fun hs hf => ⟨_, event_next (Mach.beginAuth_starts hs hf), rfl, toW_putLow (by decide)⟩,
    fun hs => event_next (if_pos (Or.inl hs)), ?authentication, ?stage1, ?stage2, ?scalar, fun v hs => event_next (if_pos (Or.inl hs)),
    ?moduleReset, ?dieReset, fun d hd => event_next (if_pos (Or.inl hd)), ?dieResetEnds, ?arbiter, ?powerWindow, ?trip, ?failDie,
    ?corrected, fun pa d hp hd _ => ⟨_, rfl, Mach.markGranule_marks hp hd⟩, fun id c => contextState_ends,
    fun d hd => event_next (if_neg (Nat.not_le.mpr hd)), fun _ => rfl, ?podLink, fun k hk => ⟨ebnasPortTimeout_down, ebnasPortTimeout_up hk⟩⟩
  case authentication =>
    intro r code hf hlo hhi hr
    have hcode : fwCode r = code ∧ code < 256 := by
      simp only [List.mem_cons, Prod.mk.injEq, List.not_mem_nil, or_false] at hr
      obtain ⟨rfl, rfl⟩ | ⟨rfl, rfl⟩ | ⟨rfl, rfl⟩ | ⟨rfl, rfl⟩ := hr <;> exact ⟨rfl, by decide⟩
    exact ⟨_, rfl, Mach.endAuth_ends hf hlo hhi hcode.1 hcode.2⟩
  case stage1 =>
    refine fun hs => ⟨event_next (if_neg fun h => h hs), fun code dies => ?_⟩
    obtain ⟨x, hx⟩ := stage1Complete_some hs code dies
    exact ⟨_, hx, rfl, rfl, rfl, rfl⟩
  case stage2 =>
    intro hs hr chips dies
    obtain ⟨hnone, hsome⟩ := stage2Complete_eq hs hr chips
    exact ⟨⟨_, hnone, rfl, rfl⟩, _, hsome dies, rfl, rfl, rfl⟩
  case scalar =>
    intro v hs hc
    obtain ⟨c, hc⟩ := Mach.startScalar_starts (v := v) hs hc
    exact ⟨_, c, rfl, hc⟩
  case moduleReset =>
    rintro v _ rfl
    exact ⟨rfl, rfl, rfl, rfl, fun hv => event_next ((s.m.writeModReg_mrst v).trans (if_pos hv)),
      fun hv => event_next ((s.m.writeModReg_mrst v).trans (if_neg hv))⟩
  case dieReset =>
    intro d h0 h64 hr hw
    obtain ⟨helig, hfree⟩ := Mach.beginDieReset_eq h0 h64 hr hw
    exact ⟨fun he => event_next (helig he), fun he ht htrip => event_next (hfree he ht htrip)⟩
  case dieResetEnds => exact fun d _ => ⟨fun h => event_next (Mach.endDieReset_other h), fun h => ⟨_, rfl, Mach.endDieReset_ends h⟩⟩
  case arbiter =>
    intro h page
    exact ⟨fun c hc => ⟨event_next (Mach.migClaim_held h hc), event_next (Mach.migCommit_held h hc), event_next (Mach.migRelease_held h hc)⟩,
      fun hc hlen => event_next ((Mach.migClaim_free h hc).trans (if_neg (Nat.not_le.mpr hlen))),
      fun hc hlen => event_next ((Mach.migClaim_free h hc).trans (if_pos hlen)), fun hc => event_next (Mach.migCommit_free h hc)⟩
  case powerWindow =>
    intro d w θ hd hw
    refine ⟨_, powerWindow_eq hd hw, ?_, rfl⟩
    rw [pwrstat_toNat, Die.cap_eq]
  case trip =>
    exact fun d hd hw => ⟨fun ht => (thermalTrip_eq hd hw).trans (event_next (if_pos ht)),
      fun ht => (thermalTrip_eq hd hw).trans (event_next (if_neg (Nat.not_lt.mpr ht)))⟩
  case failDie => exact fun m code => ⟨rfl, rfl, rfl⟩
  case corrected =>
    rintro k _ - rfl
    rfl
  case podLink =>
    refine fun p lost hp => ⟨podLinkDown_down, fun hup hj ht => ⟨_, podLinkDown_up hp hup hj, ?_, fun hk => ?_⟩⟩
    · obtain ⟨hteams, -⟩ := s.m.portDown_frame p lost
      rw [Mach.loseSteals_regs (hteams.trans ht)]
      exact s.m.portDown_podUp p lost
    · obtain ⟨hteams, htasks⟩ := s.m.portDown_frame p lost
      rw [Mach.loseSteals_none (hteams.trans ht) (htasks.trans hk)]
      exact s.m.portDown_links lost hp

end Sys2Proof.Machine
end


section
/-! SUPPORT. The canonical form of memory through the machine's operations (R64, R93): what a machine, an action, a job's work and an
outcome keep. -/

namespace Sys2Proof.Machine

/-- A machine whose memory is in canonical form. -/
abbrev Mach.Canonical (m : Mach) : Prop := m.mem.Canonical

/-- What a job's payload leaves is a machine whose memory is in canonical form. -/
abbrev Landed.Canonical (r : Landed) : Prop := r.m.Canonical

/-- What a computation that may stop answers has a property. -/
def Holds {ε α : Type} (p : α → Prop) : Except ε α → Prop
  | .ok a => p a
  | .error _ => True

/-- An action leaves memory in canonical form. -/
def Act.Keeps {α : Type} (a : Act α) : Prop := ∀ m : Mach, m.Canonical → Holds (fun p : α × Mach => p.2.Canonical) (a m)

/-- Work of a job on the machine's pages leaves memory in canonical form, where it stops too. -/
def SkM.Keeps {α : Type} (a : SkM α) : Prop := ∀ m : Mach, m.Canonical → (a m).2.Canonical

/-- The next state of an outcome, where there is one, has its memory in canonical form. -/
def NextCanonical : Host.Outcome State Fault Refusal → Prop
  | .next t => t.Canonical
  | _ => True

end Sys2Proof.Machine
end

section
/-! SUPPORT. How the canonical form passes through choices, folds and sequences of computations. -/

namespace Sys2Proof.Machine

variable {m m' : Mach}

/-- A machine whose memory is canonical, as the lemmas about the task layer take it. -/
theorem Mach.Canonical.tidy (h : m.Canonical) : m.Tidy Mem.Canonical fun _ => True := ⟨.canonical, h, True.intro⟩

theorem Mem.Canonical.settleRange {x : Mem} {d : ℕ} {ps : List (ℕ × ℕ)} (h : x.Canonical) : (x.settleRange d ps).Canonical :=
  h.foldl (fun _ _ h => h.catchUp) _

theorem Mach.Canonical.withMem {x : Mem} (h : x.Canonical) : Mach.Canonical { m with mem := x } := h

theorem Mach.Canonical.ite {p : Prop} [Decidable p] (h : m.Canonical) (h' : m'.Canonical) : Mach.Canonical (if p then m else m') := by
  split
  · exact h
  · exact h'

theorem Mach.Canonical.foldl {β : Type} {f : Mach → β → Mach} (hf : ∀ m b, m.Canonical → (f m b).Canonical) (l : List β) :
    ∀ {m : Mach}, m.Canonical → Mach.Canonical (l.foldl f m) := by
  induction l with
  | nil => exact fun h => h
  | cons b r ih => exact fun h => ih (hf _ _ h)

/-- A fold that carries something beside the machine. -/
theorem Mach.Canonical.foldlPair {β γ : Type} {f : Mach × γ → β → Mach × γ} (hf : ∀ a b, a.1.Canonical → (f a b).1.Canonical)
    (l : List β) : ∀ {a : Mach × γ}, a.1.Canonical → (l.foldl f a).1.Canonical := by
  induction l with
  | nil => exact fun h => h
  | cons b r ih => exact fun h => ih (hf _ _ h)

/-- The machine a pair of a computation holds. -/
theorem Mach.Canonical.of_fst {β : Type} {p : Mach × β} {b : β} (h : p.1.Canonical) (he : p = (m, b)) : m.Canonical := by
  rw [he] at h
  exact h

theorem Mach.Canonical.of_snd {β : Type} {p : β × Mach} {b : β} (h : p.2.Canonical) (he : p = (b, m)) : m.Canonical := by
  rw [he] at h
  exact h

theorem Mach.Canonical.of_ok {ε : Type} {r : Except ε Mach} (h : Holds Mach.Canonical r) (he : r = .ok m) : m.Canonical := by
  rw [he] at h
  exact h

theorem Mach.Canonical.of_okFst {ε β : Type} {b : β} {r : Except ε (Mach × β)} (h : Holds (fun p => p.1.Canonical) r)
    (he : r = .ok (m, b)) : m.Canonical := by
  rw [he] at h
  exact h

theorem Mach.Canonical.of_landed {ε : Type} {x : Landed} {r : Except ε Landed} (h : Holds Landed.Canonical r) (he : r = .ok x) :
    x.m.Canonical := by
  rw [he] at h
  exact h

theorem Mach.Canonical.of_act {α : Type} {a : Act α} {v : α} (ha : a.Keeps) (h : m.Canonical) (he : a m = .ok (v, m')) : m'.Canonical := by
  have hr := ha m h
  rw [he] at hr
  exact hr

theorem Holds.imp {ε α : Type} {p q : α → Prop} {r : Except ε α} (h : Holds p r) (hpq : ∀ a, p a → q a) : Holds q r := by
  cases r with
  | ok a => exact hpq a h
  | error e => exact h

theorem Holds.bind {ε α β : Type} {p : α → Prop} {q : β → Prop} {r : Except ε α} {f : α → Except ε β} (hr : Holds p r)
    (hf : ∀ a, p a → Holds q (f a)) : Holds q (r >>= f) := by
  cases r with
  | ok a => exact hf a hr
  | error e => exact hr

/-- A computation that answers a machine, and what follows it. -/
theorem Holds.andThen {ε β : Type} {q : β → Prop} {r : Except ε Mach} {f : Mach → Except ε β} (hr : Holds Mach.Canonical r)
    (hf : ∀ m, m.Canonical → Holds q (f m)) : Holds q (r >>= f) := hr.bind hf

theorem Holds.andThenFst {ε β γ : Type} {q : β → Prop} {r : Except ε (Mach × γ)} {f : Mach × γ → Except ε β}
    (hr : Holds (fun p => p.1.Canonical) r) (hf : ∀ p, p.1.Canonical → Holds q (f p)) : Holds q (r >>= f) := hr.bind hf

theorem Holds.andThenLanded {ε β : Type} {q : β → Prop} {r : Except ε Landed} {f : Landed → Except ε β} (hr : Holds Landed.Canonical r)
    (hf : ∀ x, x.Canonical → Holds q (f x)) : Holds q (r >>= f) := hr.bind hf

/-- What a computation that only reads answers does not matter for what follows it. -/
theorem Holds.seq {ε α β : Type} {q : β → Prop} {r : Except ε α} {f : α → Except ε β} (hf : ∀ a, Holds q (f a)) : Holds q (r >>= f) := by
  cases r with
  | ok a => exact hf a
  | error e => exact True.intro

theorem Holds.foldlM {ε α β : Type} {p : α → Prop} {f : α → β → Except ε α} (hf : ∀ a b, p a → Holds p (f a b)) (l : List β) :
    ∀ {a : α}, p a → Holds p (l.foldlM f a) := by
  induction l with
  | nil => exact fun h => h
  | cons b r ih => exact fun h => Holds.bind (hf _ b h) fun _ h => ih h

namespace Act.Keeps

variable {α β : Type}

theorem pure {v : α} : Act.Keeps (Pure.pure v) := fun _ h => h

theorem bind {a : Act α} {f : α → Act β} (ha : a.Keeps) (hf : ∀ v, (f v).Keeps) : (a >>= f).Keeps :=
  fun m h => Holds.bind (ha m h) fun p hp => hf p.1 p.2 hp

theorem foldlM {f : β → α → Act β} (hf : ∀ b a, (f b a).Keeps) (l : List α) : ∀ {b : β}, (l.foldlM f b).Keeps := by
  induction l with
  | nil => exact pure
  | cons a r ih => exact bind (hf _ a) fun _ => ih

theorem modM {f : Mach → Mach} (hf : ∀ m, m.Canonical → (f m).Canonical) : (Machine.modM f).Keeps := fun m h => hf m h

end Act.Keeps

namespace SkM.Keeps

variable {α β : Type}

theorem pure {v : α} : SkM.Keeps (Pure.pure v) := fun _ h => h

theorem bind {a : SkM α} {f : α → SkM β} (ha : a.Keeps) (hf : ∀ v, (f v).Keeps) : SkM.Keeps (a >>= f) := by
  intro m h
  have h1 : (StateT.run (ExceptT.run a) m).2.Canonical := ha m h
  show (StateT.run (ExceptT.run (a >>= f)) m).2.Canonical
  rw [ExceptT.run_bind, StateT.run_bind]
  generalize StateT.run (ExceptT.run a) m = r at h1
  obtain ⟨_ | v, m1⟩ := r
  · exact h1
  · exact hf v m1 h1

theorem stepJ {f : Mach → JobM Mach} (hf : ∀ m, m.Canonical → Holds Mach.Canonical (f m)) : (Machine.stepJ f).Keeps := by
  intro m h
  have h1 := hf m h
  show (Machine.stepJ f m).2.Canonical
  unfold Machine.stepJ
  generalize f m = r at h1
  cases r with
  | ok m' => exact h1
  | error e => exact h

theorem liftJ {f : Mach → JobM α} : (Machine.liftJ f).Keeps := by
  intro m h
  show (Machine.liftJ f m).2.Canonical
  unfold Machine.liftJ
  split
  · exact h
  · exact h

end SkM.Keeps

end Sys2Proof.Machine
end


section
/-! SUPPORT. The canonical form of memory through windows, records, the task layer, and what settles between bundles (R93). -/

namespace Sys2Proof.Machine

theorem Mach.Canonical.setDie {m : Mach} {d : ℕ} {x : Die} (h : m.Canonical) : (m.setDie d x).Canonical := h

theorem Mach.Canonical.tickDie {m : Mach} {d n : ℕ} (h : m.Canonical) : (m.tickDie d n).Canonical := h

theorem Mach.Canonical.setTask {m : Mach} {t : Task} (h : m.Canonical) : (m.setTask t).Canonical := h

theorem Mach.Canonical.setCont {m : Mach} {c : Cont} (h : m.Canonical) : (m.setCont c).Canonical := h.tidy.setCont.2.1

theorem Mach.Canonical.mapConts {m : Mach} {f : Cont → Cont} (h : m.Canonical) : (m.mapConts f).Canonical := h

theorem Mach.Canonical.setTeam {m : Mach} {t : Team} (h : m.Canonical) : (m.setTeam t).Canonical := h

theorem Mach.Canonical.setJob {m : Mach} {j : Job} (h : m.Canonical) : (m.setJob j).Canonical := h

theorem Mach.Canonical.setSeq {m : Mach} {k : ℕ} {x : Seq} (h : m.Canonical) : (m.setSeq k x).Canonical := h

theorem Mach.Canonical.sendTo {m : Mach} {lane dest : ℕ} {body : Pkt} {job : Option ℕ} (h : m.Canonical) :
    (m.sendTo lane dest body job).Canonical := h.tidy.sendTo.2.1

theorem Mach.Canonical.sendFlit {m : Mach} {port : ℕ} (h : m.Canonical) : (m.sendFlit port).Canonical := by
  unfold Machine.Mach.sendFlit
  split
  · exact h
  · split
    · exact h
    · dsimp only
      split
      · exact h
      · split
        · exact h
        · exact h

theorem Mach.Canonical.winWriteBy {m : Mach} {d : ℕ} {c : Cont} {off : ℕ} {bytes : List Byte} {poison : Bool} (h : m.Canonical) :
    (m.winWriteBy d c off bytes poison).Canonical := by
  unfold Machine.Mach.winWriteBy
  split
  · exact Mem.Canonical.spadStore h
  · dsimp only
    split
    · refine .setCont ?_
      split
      · exact .sendTo (Mem.Canonical.catchUp (Mem.Canonical.pass h))
      · exact Mem.Canonical.catchUp (Mem.Canonical.pass h)
    · refine .setCont ?_
      split
      · exact .sendTo (Mem.Canonical.catchUp (Mem.Canonical.pass h))
      · exact Mem.Canonical.catchUp (Mem.Canonical.pass h)

theorem Mach.Canonical.winWrite {m : Mach} {c : Cont} {off : ℕ} {bytes : List Byte} {poison : Bool} (h : m.Canonical) :
    (m.winWrite c off bytes poison).Canonical := h.winWriteBy

theorem Mach.Canonical.winSaw {m : Mach} {d : ℕ} {c : Cont} {off n : ℕ} (h : m.Canonical) : (m.winSaw d c off n).Canonical := by
  unfold Machine.Mach.winSaw
  split
  · exact h.spadAcquire
  · exact h.catchUp

theorem Mach.Canonical.ctxWrite {m : Mach} {die : ℕ} {ctx : BitVec 12} {e : CtxEntry} {va : Word} {bytes : List Byte} (h : m.Canonical) :
    (m.ctxWrite die ctx e va bytes).Canonical := h.tidy.ctxWrite.2.1

theorem Mach.Canonical.dropHeld {m : Mach} (h : m.Canonical) : m.dropHeld.Canonical := .foldl (fun _ _ h => h.ctxWrite) _ h

theorem Mach.Canonical.landV {m : Mach} {c : Cont} {v : VPend} (h : m.Canonical) : (m.landV c v).Canonical := by
  unfold Machine.Mach.landV
  dsimp only
  split
  · exact Mem.Canonical.foldl (fun _ _ h => h.spadWrite) _ h
  · exact .setCont (Mem.Canonical.foldl (fun _ _ h => h.spadWrite) _ h)

theorem Mach.Canonical.flushV {m : Mach} {id : ℕ} (h : m.Canonical) : (m.flushV id).Canonical := by
  unfold Machine.Mach.flushV
  split
  · exact h
  · exact .foldl (fun _ _ h => h.landV) _ h

theorem Mach.Canonical.landElement {m : Mach} {id k : ℕ} (h : m.Canonical) : (m.landElement id k).Canonical := by
  unfold Machine.Mach.landElement
  split
  · exact h
  · split
    · exact h
    · split
      · exact h
      · dsimp only
        exact .setCont (Mem.Canonical.spadWrite h)

theorem Mach.Canonical.landDrains {m : Mach} {id : ℕ} (h : m.Canonical) : (m.landDrains id).Canonical := by
  unfold Machine.Mach.landDrains
  split
  · exact h
  · dsimp only
    exact .setCont (Mem.Canonical.foldl (fun _ _ h => Mem.Canonical.foldl (fun _ _ h => h.spadWrite) _ h) _ h)

theorem Mach.Canonical.performed {m : Mach} {id : ℕ} (h : m.Canonical) : (m.performed id).Canonical := h.flushV.landDrains

theorem Mach.Canonical.putRecord {m : Mach} {c : Cont} (h : m.Canonical) : (m.putRecord c).Canonical := h.tidy.putRecord.2.1

theorem Mach.Canonical.recordCont {m : Mach} {c : Cont} (h : m.Canonical) : (m.recordCont c).Canonical := h.tidy.recordCont.2.1

theorem Mach.Canonical.putSave {m : Mach} {c : Cont} {off : ℕ} {bytes : List Byte} (h : m.Canonical) : (m.putSave c off bytes).Canonical :=
  h.tidy.putSave.2.1

theorem Mach.Canonical.saveRegs {m : Mach} {c : Cont} (h : m.Canonical) : (m.saveRegs c).Canonical := h.putSave.putSave

theorem Mach.Canonical.putTrapRecord {m : Mach} {c : Cont} {bytes : List Byte} (h : m.Canonical) : (m.putTrapRecord c bytes).Canonical :=
  h.tidy.putTrapRecord.2.1

theorem Mach.Canonical.logError {m : Mach} {t : Trap} {i : LogInfo} (h : m.Canonical) : (m.logError t i).Canonical := h.tidy.logError.2.1

theorem Mach.Canonical.putTaskState {m : Mach} {t : Task} {tcause : Cause} (h : m.Canonical) : (m.putTaskState t tcause).Canonical :=
  h.tidy.putTaskState.2.1

theorem Mach.Canonical.reserve {m : Mach} {cls : ℕ} {q : List (ℕ × ℕ)} (h : m.Canonical) : (m.reserve cls q).Canonical := h

theorem Mach.Canonical.unreserve {m : Mach} {cls : ℕ} {q : List (ℕ × ℕ)} (h : m.Canonical) : (m.unreserve cls q).Canonical := h

theorem Mach.Canonical.grantFrom {m : Mach} {n : ℕ} (h : m.Canonical) : (m.grantFrom n).Canonical := (h.tidy.grantFrom n).2.1

theorem Mach.Canonical.grantEntries {m : Mach} (h : m.Canonical) : m.grantEntries.Canonical := h.tidy.grantEntries.2.1

theorem Mach.Canonical.refuseRecord {m : Mach} {s : Submitter} {rec : Word} (h : m.Canonical) : (m.refuseRecord s rec).Canonical := by
  unfold Machine.Mach.refuseRecord
  split
  · exact h.ctxWrite
  · exact h

theorem Mach.Canonical.enrol {m : Mach} {s : Submitter} {rec : Word} (h : m.Canonical) : (m.enrol s rec).1.Canonical := by
  unfold Machine.Mach.enrol
  split
  · exact h.refuseRecord
  · dsimp only
    split
    · exact h.refuseRecord
    · refine .putTaskState (.grantEntries ?_)
      split
      · exact h
      · exact h

theorem Mach.Canonical.createCont {m : Mach} {t : Task} {team rank die : ℕ} {f : Cont → Cont} (h : m.Canonical) :
    (m.createCont t team rank die f).Canonical := by
  unfold Machine.Mach.createCont
  dsimp only
  exact .putRecord h

theorem Mach.Canonical.createTeams {m : Mach} {t : Task} (h : m.Canonical) : (m.createTeams t).Canonical := by
  unfold Machine.Mach.createTeams
  dsimp only
  exact .foldl (fun _ _ h => .foldl (fun _ _ h => h.createCont) _ h) _ h

theorem Mach.Canonical.stopWork {m : Mach} {q : ℕ} (h : m.Canonical) : (m.stopWork q).Canonical := h

theorem Mach.Canonical.recallTeams {m : Mach} {q : ℕ} (h : m.Canonical) : (m.recallTeams q).Canonical := h.tidy.recallTeams.2.1

theorem Mach.Canonical.endConts {m : Mach} {q : ℕ} {st : Byte} {cause : Cause} (h : m.Canonical) : (m.endConts q st cause).Canonical :=
  h.tidy.endConts.2.1

theorem Mach.Canonical.clearRx {m : Mach} {p : RxReg → Bool} (h : m.Canonical) : (m.clearRx p).Canonical := h

theorem Mach.Canonical.fillAnswer {m : Mach} {id : ℕ} {d : GF} {v : Word} (h : m.Canonical) : (m.fillAnswer id d v).Canonical :=
  h.tidy.fillAnswer.2.1

theorem Mach.Canonical.settlePrmts {m : Mach} {q : ℕ} {v : Word} (h : m.Canonical) : (m.settlePrmts q v).Canonical := h.tidy.settlePrmts.2.1

theorem Mach.Canonical.releaseRecords {m : Mach} {q : ℕ} (h : m.Canonical) : (m.releaseRecords q).Canonical := h.tidy.releaseRecords.2.1

theorem Mach.Canonical.dropGuest {m : Mach} {q : ℕ} {cause : Cause} (h : m.Canonical) : (m.dropGuest q cause).Canonical :=
  h.tidy.dropGuest.2.1

theorem Mach.Canonical.kill {m : Mach} {q : ℕ} {again : Bool} (h : m.Canonical) : (m.kill q again).Canonical := h.tidy.kill.2.1

theorem Mach.Canonical.setGraph {m : Mach} {g : Graph} (h : m.Canonical) : (m.setGraph g).Canonical := h

theorem Mach.Canonical.putGraph {m : Mach} {g : Graph} (h : m.Canonical) : (m.putGraph g).Canonical := h.tidy.putGraph.2.1

theorem Mach.Canonical.putNode {m : Mach} {g : Graph} {i : ℕ} {n : Node} (h : m.Canonical) : (m.putNode g i n).Canonical :=
  h.tidy.putNode.2.1

theorem Mach.Canonical.setNode {m : Mach} {gid i : ℕ} {n : Node} (h : m.Canonical) : (m.setNode gid i n).Canonical := h.tidy.setNode.2.1

theorem Mach.Canonical.fireNode {m : Mach} {gid i : ℕ} (h : m.Canonical) : (m.fireNode gid i).Canonical := h.tidy.fireNode.2.1

theorem Mach.Canonical.fireReady {m : Mach} {gid : ℕ} (h : m.Canonical) : (m.fireReady gid).Canonical := h.tidy.fireReady.2.1

theorem Mach.Canonical.replayEnd {m : Mach} {gid : ℕ} (h : m.Canonical) : (m.replayEnd gid).Canonical := h.tidy.replayEnd.2.1

theorem Mach.Canonical.graphFault {m : Mach} {gid i : ℕ} (h : m.Canonical) : (m.graphFault gid i).Canonical := h.tidy.graphFault.2.1

theorem Mach.Canonical.putToken {m : Mach} {gid i : ℕ} {software : Bool} (h : m.Canonical) : (m.putToken gid i software).Canonical := by
  unfold Machine.Mach.putToken
  split
  · exact h
  · split
    · exact h.graphFault
    · split
      · exact h.setNode
      · exact h.graphFault

theorem Mach.Canonical.addToken {m : Mach} {gid i : ℕ} {software : Bool} (h : m.Canonical) : (m.addToken gid i software).Canonical :=
  h.putToken.fireReady

theorem Mach.Canonical.nodeDone {m : Mach} {gid i : ℕ} (h : m.Canonical) : (m.nodeDone gid i).Canonical := by
  unfold Machine.Mach.nodeDone
  split
  · exact h
  · split
    · exact h
    · dsimp only
      refine .replayEnd (.fireReady (.foldl (fun _ _ h => ?_) _ h.setNode))
      split
      · split
        · exact h
        · exact h.putToken
      · exact h

theorem Mach.Canonical.nodeFailed {m : Mach} {gid i : ℕ} {cause : Cause} {mayRetry : Bool} (h : m.Canonical) :
    (m.nodeFailed gid i cause mayRetry).Canonical := h.tidy.nodeFailed.2.1

theorem Mach.Canonical.endTask {m : Mach} {q : ℕ} {r : Report} (h : m.Canonical) : (m.endTask q r).Canonical := h.tidy.endTask.2.1

theorem Act.Keeps.raise {α : Type} {c : Cause} {faddr info : Word} : Act.Keeps (Machine.raise c faddr info : Act α) := fun _ _ => trivial

theorem Act.Keeps.raiseT {α : Type} {t : Trap} : Act.Keeps (Machine.raiseT t : Act α) := fun _ _ => trivial

theorem Act.Keeps.await {α : Type} : Act.Keeps (Machine.await : Act α) := fun _ _ => trivial

theorem Act.Keeps.raiseIf {b : Bool} {c : Cause} {faddr : Word} : Act.Keeps (Machine.raiseIf b c faddr) := by
  unfold Machine.raiseIf
  split
  · exact .raise
  · exact .pure

theorem Act.Keeps.awaitIf {b : Bool} : Act.Keeps (Machine.awaitIf b) := by
  unfold Machine.awaitIf
  split
  · exact .await
  · exact .pure

theorem Act.Keeps.parkIf {b : Bool} : Act.Keeps (Machine.parkIf b) := by
  unfold Machine.parkIf
  split
  · exact fun _ h => trivial
  · exact .pure

theorem Act.Keeps.getC : Act.Keeps Machine.getC := fun _ h => h

theorem Act.Keeps.modC {f : Cont → Cont} : Act.Keeps (Machine.modC f) := fun _ h => h

theorem Act.Keeps.getM : Act.Keeps Machine.getM := fun _ h => h

theorem Act.Keeps.fresh : Act.Keeps Machine.fresh := fun _ h => h

theorem Mach.Canonical.switchTo {m : Mach} {id : ℕ} (h : m.Canonical) : (m.switchTo id).Canonical := h.tidy.switchTo.2.1

theorem Mach.Canonical.pick {m : Mach} {gcore : ℕ} (h : m.Canonical) : (m.pick gcore).Canonical := h.tidy.pick.2.1

theorem Mach.Canonical.reportEnd {m : Mach} {c : Cont} {r : Report} (h : m.Canonical) : (m.reportEnd c r).Canonical := h.tidy.reportEnd.2.1

theorem Mach.Canonical.suspended {m : Mach} (h : m.Canonical) : m.suspended.Canonical := by
  unfold Machine.Mach.suspended
  dsimp only
  split
  · exact .reportEnd (.recordCont h)
  · exact .pick (.recordCont h)

theorem Mach.Canonical.barrierCheck {m : Mach} {task idx id : ℕ} (h : m.Canonical) : (m.barrierCheck task idx id).Canonical := by
  unfold Machine.Mach.barrierCheck
  split
  · exact h
  · dsimp only
    split
    · refine .foldl (fun _ _ h => ?_) _ h
      split
      · exact h.recordCont
      · exact h
    · exact h

theorem Mach.Canonical.endBundle {m : Mach} (h : m.Canonical) : m.endBundle.Canonical := by
  unfold Machine.Mach.endBundle
  extract_lets c
  split
  · exact h
  · extract_lets last c' m1
    have h1 : m1.Canonical := h
    clear_value m1
    split
    · exact h1.reportEnd
    · split
      · split
        · exact .suspended h1
        · exact h1.suspended
      · exact h1

theorem Mach.Canonical.reportLate {m : Mach} {i : Imprecise} (h : m.Canonical) : (m.reportLate i).Canonical := h.reportEnd

theorem Mach.Canonical.report {m : Mach} {t : Trap} {fslot : ℕ} {insn : Word} (h : m.Canonical) : (m.report t fslot insn).Canonical := by
  unfold Machine.Mach.report
  dsimp only
  split
  · exact h.reportLate
  · split
    · split
      · exact h.reportEnd
      · exact h.saveRegs.putTrapRecord.recordCont.logError
    · exact h.reportEnd

theorem Act.Keeps.returnFrom {target : BitVec 48} : Act.Keeps (Machine.returnFrom target) := by
  unfold Machine.returnFrom
  intro _ h
  dsimp only
  exact .putRecord h

theorem Mach.Canonical.wake {m : Mach} (h : m.Canonical) : m.wake.Canonical := by
  unfold Machine.Mach.wake
  refine .foldl (fun m c h => ?_) _ h
  split
  · split
    · split
      · extract_lets m1
        have h1 : m1.Canonical := h.recordCont.pick
        clear_value m1
        split
        · exact .sendTo (.withMem h1.spread)
        · exact h1
      · exact h
    · exact h
  · exact h

theorem Mach.Canonical.pickAll {m : Mach} (h : m.Canonical) : m.pickAll.Canonical := .foldl (fun _ _ h => h.pick) _ h

theorem Act.Keeps.readV {va : Word} {n : ℕ} : Act.Keeps (Machine.readV va n) := by
  unfold Machine.readV
  intro _ h
  dsimp only
  split
  · exact trivial
  · exact trivial
  · split
    · exact h.observe
    · split
      · exact trivial
      · exact h.observe

theorem Act.Keeps.writeV {insn : Word} {slot : ℕ} {va : Word} {bytes : List Byte} : Act.Keeps (Machine.writeV insn slot va bytes) := by
  unfold Machine.writeV
  intro _ h
  dsimp only
  split
  · exact trivial
  · split
    · exact trivial
    · exact h
  · split
    · exact h.writeParts
    · refine .foldl (fun _ _ h => ?_) _ h
      split
      · exact h
      · exact h.write

theorem Act.Keeps.checkWin {off : ℤ} {n : ℕ} : Act.Keeps (Machine.checkWin off n) := by
  unfold Machine.checkWin
  refine .bind .getC fun _ => ?_
  split
  · exact .pure
  · exact .raise

theorem Mach.Canonical.landOver {m : Mach} {off n : ℕ} (h : m.Canonical) : (m.landOver off n).Canonical := by
  unfold Machine.Mach.landOver
  split
  · exact h.landDrains
  · exact h

theorem Act.Keeps.readS {off : ℤ} {n : ℕ} : Act.Keeps (Machine.readS off n) :=
  .bind .checkWin fun _ => .bind (.modM fun _ h => h.landOver) fun _ => .bind .getM fun _ => .pure

theorem Act.Keeps.writeS {off : ℤ} {bytes : List Byte} : Act.Keeps (Machine.writeS off bytes) :=
  .bind .checkWin fun _ => .modM fun _ h => h.landOver.winWrite

theorem Act.Keeps.popStream {k : ℕ} : Act.Keeps (Machine.popStream k) := by
  unfold Machine.popStream
  refine .bind .getC fun _ => ?_
  split
  · exact .raise
  · split
    · exact .raise
    · split
      · exact .raise
      · dsimp only
        refine .bind ?_ fun _ => .bind (.modM fun _ h => h) fun _ => .pure
        split
        · refine .bind .readV fun _ => ?_
          split
          · exact .raise
          · exact .pure
        · refine .bind .checkWin fun _ => .bind (.modM fun _ h => h.landOver) fun _ => .bind .getM fun _ => ?_
          split
          · exact .raise
          · exact .pure

theorem Act.Keeps.pushStream {insn : Word} {slot k : ℕ} {v : Word} : Act.Keeps (Machine.pushStream insn slot k v) := by
  unfold Machine.pushStream
  refine .bind .getC fun _ => ?_
  split
  · exact .raise
  · split
    · exact .raise
    · split
      · exact .raise
      · dsimp only
        split
        · exact .bind .writeV fun _ => .modC
        · exact .bind .writeS fun _ => .modC

theorem Act.Keeps.readG {f : GF} : Act.Keeps (Machine.readG f) := by
  unfold Machine.readG
  split
  · exact .pure
  · split
    · refine .bind .getC fun _ => ?_
      split
      · exact .await
      · split
        · exact .raise
        · exact .pure
    · exact .popStream

theorem Act.Keeps.writeG {f : GF} {v : Word} : Act.Keeps (Machine.writeG f v) := by
  unfold Machine.writeG
  split
  · exact .pure
  · split
    · refine .bind .getC fun _ => ?_
      split
      · exact .await
      · exact .modC
    · exact .bind .getC fun _ => .pushStream

theorem Act.Keeps.writeLoaded {f : GF} {v : Word} {mark : Option ℕ} : Act.Keeps (Machine.writeLoaded f v mark) := by
  unfold Machine.writeLoaded
  refine .bind .writeG fun _ => ?_
  split
  · exact .pure
  · split
    · exact .modC
    · split
      · exact .pure
      · exact .raise

theorem Act.Keeps.flagEvents {ev : ℕ} : Act.Keeps (Machine.flagEvents ev) := .modC

theorem Act.Keeps.flagEventsAt {slot ev : ℕ} : Act.Keeps (Machine.flagEventsAt slot ev) := .modC

theorem Act.Keeps.performEarlier : Act.Keeps Machine.performEarlier := .modM fun _ h => h.performed

theorem Act.Keeps.reportPoint : Act.Keeps Machine.reportPoint := by
  unfold Machine.reportPoint
  intro _ h
  dsimp only
  split
  · exact trivial
  · exact h

theorem Act.Keeps.needClaim : Act.Keeps Machine.needClaim := .bind .getC fun _ => .raiseIf

theorem Act.Keeps.needSystem : Act.Keeps Machine.needSystem := .bind .getC fun _ => .raiseIf

theorem Act.Keeps.checkScope {sc : BitVec 3} : Act.Keeps (Machine.checkScope sc) := .raiseIf

theorem Act.Keeps.strongCheck {spad : Bool} {n : ℕ} {x : Word} : Act.Keeps (Machine.strongCheck spad n x) := by
  unfold Machine.strongCheck
  refine .bind .raiseIf fun _ => ?_
  split
  · refine .bind .getM fun _ => ?_
    split
    · exact .raise
    · exact .raiseIf
  · exact .raiseIf

theorem Act.Keeps.strongPlace {spad : Bool} {n : ℕ} {x : Word} {need : Acc3} : Act.Keeps (Machine.strongPlace spad n x need) := by
  unfold Machine.strongPlace
  refine .bind .getM fun _ => ?_
  split
  · split
    · exact .raise
    · exact .bind .awaitIf fun _ => .pure
  · refine .bind .raiseIf fun _ => ?_
    split
    · exact .await
    · exact .raiseT
    · exact .pure

theorem Mach.Canonical.placeLand {m : Mach} {p : SigTarget} {n : ℕ} (h : m.Canonical) : (m.placeLand p n).Canonical := by
  unfold Machine.Mach.placeLand
  split
  · exact h
  · split
    · split
      · exact h.landDrains
      · exact h
    · exact h

theorem Mach.Canonical.placePrep {m : Mach} {d : ℕ} {p : SigTarget} {n : ℕ} {rel : Bool} {past : SMap ℕ} (h : m.Canonical) :
    (m.placePrep d p n rel past).Canonical := by
  unfold Machine.Mach.placePrep
  split
  · exact h.strongPrep
  · exact h.catchUp

theorem Mach.Canonical.placeAcquire {m : Mach} {d : ℕ} {p : SigTarget} {n : ℕ} (h : m.Canonical) : (m.placeAcquire d p n).Canonical := by
  unfold Machine.Mach.placeAcquire
  split
  · exact h.acquire
  · split
    · exact h.winSaw
    · exact h

theorem Mach.Canonical.placeWrite {m : Mach} {d : ℕ} {p : SigTarget} {bytes : List Byte} (h : m.Canonical) :
    (m.placeWrite d p bytes).Canonical := by
  unfold Machine.Mach.placeWrite
  split
  · exact h.strongWrite
  · split
    · exact h.winWrite.placeAcquire
    · exact h

theorem Mach.Canonical.performSig {m : Mach} {c : Cont} {p : PendSig} (h : m.Canonical) : (m.performSig c p).Canonical := by
  unfold Machine.Mach.performSig
  dsimp only
  exact h.setCont.placePrep.placeWrite

theorem Mach.Canonical.settleSigsOf {m : Mach} {id : ℕ} (h : m.Canonical) : (m.settleSigsOf id).Canonical := by
  unfold Machine.Mach.settleSigsOf
  refine .foldl (fun _ _ h => ?_) _ h
  split
  · split
    · split
      · exact h.performSig
      · exact h
    · exact h
  · exact h

theorem Mach.Canonical.settleSigs {m : Mach} (h : m.Canonical) : m.settleSigs.Canonical := by
  unfold Machine.Mach.settleSigs
  refine .foldl (fun _ _ h => ?_) _ h
  split
  · exact h
  · exact h.settleSigsOf

theorem Mach.Canonical.finishDrains {m : Mach} {id : ℕ} (h : m.Canonical) : (m.finishDrains id).Canonical := by
  have h1 : Mem.Canonical ((List.range 64).foldl (fun x d => x.spread d) m.mem) := Mem.Canonical.foldl (fun _ _ h => h.spread) _ h
  unfold Machine.Mach.finishDrains
  generalize (List.range 64).foldl (fun x d => x.spread d) m.mem = x at h1 ⊢
  extract_lets mine m1 m2
  have h2 : m2.Canonical := Mach.Canonical.dropHeld (m := m1) h1
  clear_value m2
  split
  · dsimp only
    split
    · exact h2.setCont.sendTo
    · exact h2.setCont
  · exact h2

theorem Mach.Canonical.settleTlb {m : Mach} (h : m.Canonical) : m.settleTlb.Canonical := by
  unfold Machine.Mach.settleTlb
  refine .foldl (fun _ _ h => ?_) _ h
  split
  · exact h.finishDrains
  · exact h

theorem Mach.Canonical.settle {m : Mach} (h : m.Canonical) : m.settle.Canonical := h.settleSigs.settleTlb

theorem Mach.Canonical.slotPast {m : Mach} (h : m.Canonical) : m.slotPast.Canonical := by
  unfold Machine.Mach.slotPast
  split
  · split
    · exact h
    · exact h
  · exact h

end Sys2Proof.Machine
end


section
/-! SUPPORT. The canonical form of memory through a bundle: its end, its undoing, the queues, reports, and the step over a slot
(R128, R350). -/

namespace Sys2Proof.Machine

variable {s : State} {m : Mach}

namespace State.Canonical

theorem mach (h : s.Canonical) : s.m.Canonical := h.1

theorem withMach (h : s.Canonical) (hm : m.Canonical) : State.Canonical { s with m := m } := ⟨hm, h.2⟩

theorem ofMach {l : List Sched} (hm : m.Canonical) : State.Canonical { m := m, snap := none, agenda := l } := ⟨hm, fun _ he => nomatch he⟩

theorem ite {p : Prop} [Decidable p] {t : State} (h : s.Canonical) (ht : t.Canonical) : State.Canonical (if p then s else t) := by
  split
  · exact h
  · exact ht

/-- The machine a bundle goes back to. -/
theorem start (h : s.Canonical) : (s.snap.getD s.m).Canonical := by
  cases hs : s.snap with
  | none => exact h.1
  | some m => exact h.2 m hs

theorem advance (h : s.Canonical) : s.advance.Canonical := by
  unfold Machine.State.advance
  split
  · exact h
  · split
    · exact .ofMach h.mach.endBundle
    · dsimp only
      split
      · exact .ofMach (.endBundle h.mach)
      · exact h.withMach h.mach

theorem haltBundle (h : s.Canonical) : s.haltBundle.Canonical := .ofMach h.start

theorem enqueue {b : Bool} (h : s.Canonical) : (s.enqueue b).Canonical := by
  unfold Machine.State.enqueue
  split
  · split
    · exact h.haltBundle
    · exact .advance (h.withMach h.mach)
  · exact h.haltBundle

theorem giveUp {e : QEntry} {b : Bool} (h : s.Canonical) : (s.giveUp e b).Canonical := .ofMach h.start

theorem stallBundle (h : s.Canonical) : s.stallBundle.Canonical := by
  unfold Machine.State.stallBundle
  split
  · exact h.giveUp
  · split
    · exact h.enqueue
    · split
      · exact h.haltBundle
      · exact .ofMach h.start

theorem passed (h : s.Canonical) : s.passed.Canonical := by
  unfold Machine.State.passed
  split
  · exact h.giveUp
  · exact h.enqueue

theorem reported (h : s.Canonical) (he : s.reported = some m) : m.Canonical := by
  have hs := h.start
  unfold Machine.State.reported at he
  generalize s.snap.getD s.m = m0 at hs he
  dsimp only at he
  split at he
  · split at he
    · cases he
      exact .performed hs
    · cases he
  · split at he
    · cases he
      exact hs.performed
    · cases he

theorem holdReport (h : s.Canonical) : s.holdReport.Canonical := by
  unfold Machine.State.holdReport
  split
  · exact h.giveUp
  · exact h.haltBundle

theorem takeTrap {t : Trap} {fslot : ℕ} {insn : Word} (h : s.Canonical) : (s.takeTrap t fslot insn).Canonical := by
  unfold Machine.State.takeTrap
  split
  · exact .ofMach (h.reported ‹_›).report
  · exact h.holdReport

theorem takeTxTrap {t : Trap} {n fslot : ℕ} {insn : Word} (h : s.Canonical) : (s.takeTxTrap t n fslot insn).Canonical := by
  unfold Machine.State.takeTxTrap
  split
  · exact .ofMach (Mach.Canonical.report (h.reported ‹s.reported = some _› :))
  · exact h.holdReport

theorem takeLate {i : Imprecise} (h : s.Canonical) : (s.takeLate i).Canonical := by
  unfold Machine.State.takeLate
  split
  · exact .ofMach (h.reported ‹_›).reportLate
  · exact h.holdReport

theorem complete (h : s.Canonical) (hm : m.Canonical) : (s.complete m).Canonical := by
  unfold Machine.State.complete
  dsimp only
  split
  · exact .advance (h.withMach hm.slotPast.wake)
  · exact .advance (h.withMach hm.slotPast)

theorem after (h : s.Canonical) (hm : m.Canonical) : (s.after m).Canonical := h.withMach hm.settle.wake.pickAll

end State.Canonical

/-- The step over a slot keeps the form where the instruction's action does. -/
theorem NextCanonical.runSlot {i : Instr} {x : Slot} {g : Option Guard} {a : Act Unit} (ha : a.Keeps) (h : s.Canonical) :
    NextCanonical (Machine.runSlot i x g a s) := by
  unfold Machine.runSlot
  extract_lets c slot go
  clear_value go
  split
  · exact h.stallBundle
  · split
    · exact State.Canonical.ite h.advance h.passed
    · split
      · exact State.Canonical.ite (h.complete (.of_act ha h.mach ‹_›)) h.passed
      · exact h.takeTrap
      · exact h.takeTxTrap
      · exact h.stallBundle
      · exact h.passed
      · exact h.takeLate

/-- An event keeps the form where its change of the machine does. -/
theorem NextCanonical.runEvent {f : Mach → Mach} (hf : ∀ m, m.Canonical → (f m).Canonical) (h : s.Canonical) :
    NextCanonical (Machine.runEvent f s) := h.after (hf _ h.mach)

end Sys2Proof.Machine
end


section
/-! SUPPORT. The canonical form of memory through dispatch, the operand forms, and the instructions of the K and A slots. -/

namespace Sys2Proof.Machine

theorem Mach.Canonical.shadowTick {m : Mach} {c : Cont} (h : m.Canonical) : (m.shadowTick c).Canonical := by
  unfold Machine.Mach.shadowTick
  split
  · split
    · exact h
    · exact h
  · exact h

theorem NextCanonical.execBundleDispatch {s : State} (h : s.Canonical) : NextCanonical (Machine.execBundleDispatch s) := by
  unfold Machine.execBundleDispatch
  extract_lets s1
  have h1 : s1.Canonical := h.withMach (.ite h.mach.settle.wake h.mach)
  clear_value s1
  split
  · exact h1.withMach h1.mach
  · split
    · exact h1.withMach h1.mach
    · exact State.Canonical.takeTrap (.ofMach h1.mach)
    · next c _ =>
      extract_lets s2 snap m1 m2 x m3
      have hsnap : snap.Canonical := h1.mach.shadowTick
      have hm1 : m1.Canonical := hsnap
      clear_value snap m1
      have hm2 : m2.Canonical := by
        unfold m2
        split
        · exact hm1.performed.ite hm1
        · exact hm1
      clear_value m2
      have hm3 : m3.Canonical := by
        unfold m3
        split
        · exact Mach.Canonical.ite hm2 hm2
        · exact hm2
      clear_value m3
      split
      · split
        · exact .ofMach hm3.endBundle
        · exact ⟨hm3, fun _ he => Option.some.inj he ▸ hsnap⟩
      · exact .ofMach hm3

theorem Act.Keeps.opRR {f : Word → Word → Word} {d a b : GF} : Act.Keeps (Machine.opRR f d a b) :=
  .bind .readG fun _ => .bind .readG fun _ => .writeG

theorem Act.Keeps.opRRR {f : Word → Word → Word → Word} {d a b : GF} : Act.Keeps (Machine.opRRR f d a b) :=
  .bind .readG fun _ => .bind .readG fun _ => .bind .readG fun _ => .writeG

theorem Act.Keeps.opR {f : Word → Word} {d a : GF} : Act.Keeps (Machine.opR f d a) := .bind .readG fun _ => .writeG

theorem Act.Keeps.opPred {f : Word → Word → Bool} {d : BitVec 3} {a b : GF} : Act.Keeps (Machine.opPred f d a b) :=
  .bind .readG fun _ => .bind .readG fun _ => .modC

theorem Act.Keeps.opPredR {f : Word → Bool} {d : BitVec 3} {a : GF} : Act.Keeps (Machine.opPredR f d a) := .bind .readG fun _ => .modC

theorem Act.Keeps.writeFp {z : Bool} {d : GF} {x : Num} {st : Bool} {ev : ℕ} : Act.Keeps (Machine.writeFp z d x st ev) := by
  unfold Machine.writeFp
  dsimp only
  exact .bind .writeG fun _ => .flagEvents

theorem Act.Keeps.opFp {f : Num → Num → Num × Bool × ℕ} {z : Bool} {d a b : GF} : Act.Keeps (Machine.opFp f z d a b) := by
  unfold Machine.opFp
  refine .bind .readG fun _ => .bind .readG fun _ => ?_
  dsimp only
  exact .writeFp

theorem Act.Keeps.opFpCmp {f : Num → Num → Bool} {z : Bool} {d : BitVec 3} {a b : GF} : Act.Keeps (Machine.opFpCmp f z d a b) :=
  .bind .readG fun _ => .bind .readG fun _ => .bind .modC fun _ => .flagEvents

theorem Act.Keeps.transfer {target : BitVec 48} {granule : Bool} : Act.Keeps (Machine.transfer target granule) := by
  unfold Machine.transfer
  refine .bind .getM fun _ => ?_
  split
  · exact .raise
  · split
    · exact .await
    · exact .modC
    · split
      · exact .raise
      · exact .modC

theorem Act.Keeps.setB {n : BitVec 3} {v : BitVec 48} : Act.Keeps (Machine.setB n v) := .modC

theorem NextCanonical.execPbr {gu : Guard} {b : BitVec 3} {m : BitVec 16} {σ : State} (h : σ.Canonical) :
    NextCanonical (Machine.execPbr gu b m σ) := .runSlot (.bind .getC fun _ => .setB) h

theorem NextCanonical.execPbrr {gu : Guard} {n : BitVec 3} {a : GF} {σ : State} (h : σ.Canonical) :
    NextCanonical (Machine.execPbrr gu n a σ) := .runSlot (.bind .readG fun _ => .setB) h

theorem NextCanonical.execBr {gu : Guard} {b : BitVec 3} {σ : State} (h : σ.Canonical) : NextCanonical (Machine.execBr gu b σ) :=
  .runSlot (.bind .getC fun _ => .transfer) h

theorem NextCanonical.execBrl {gu : Guard} {b l : BitVec 3} {σ : State} (h : σ.Canonical) : NextCanonical (Machine.execBrl gu b l σ) := by
  unfold Machine.execBrl
  refine .runSlot ?_ h
  refine .bind .getC fun _ => ?_
  dsimp only
  exact .bind .writeG fun _ => .bind .setB fun _ => .transfer

theorem Act.Keeps.setLc {x : BitVec 2} {v : W32} : Act.Keeps (Machine.setLc x v) := .modC

theorem Act.Keeps.loopSetup {b : BitVec 3} {x : BitVec 2} {n : W32} : Act.Keeps (Machine.loopSetup b x n) := by
  unfold Machine.loopSetup
  refine .bind .setLc fun _ => .bind .getC fun _ => ?_
  split
  · exact .transfer
  · exact .pure

theorem NextCanonical.execLoop {gu : Guard} {b : BitVec 3} {x : BitVec 2} {σ : State} (h : σ.Canonical) :
    NextCanonical (Machine.execLoop gu b x σ) := by
  unfold Machine.execLoop
  refine .runSlot ?_ h
  refine .bind .getC fun _ => ?_
  dsimp only
  split
  · exact .bind .setLc fun _ => .transfer
  · exact .setLc

theorem NextCanonical.execLoopiImm {gu : Guard} {b : BitVec 3} {x : BitVec 2} {n : BitVec 15} {σ : State} (h : σ.Canonical) :
    NextCanonical (Machine.execLoopiImm gu b x n σ) := .runSlot .loopSetup h

theorem NextCanonical.execLoopiReg {gu : Guard} {b : BitVec 3} {x : BitVec 2} {g : GF} {σ : State} (h : σ.Canonical) :
    NextCanonical (Machine.execLoopiReg gu b x g σ) := .runSlot (.bind .readG fun _ => .loopSetup) h

theorem NextCanonical.execLoopl {gu : Guard} {b : BitVec 3} {x : BitVec 2} {d : BitVec 7} {σ : State} (h : σ.Canonical) :
    NextCanonical (Machine.execLoopl gu b x d σ) :=
  .runSlot (.bind .needClaim fun _ => .bind .getM fun _ => .bind .awaitIf fun _ => .loopSetup) h

theorem Act.Keeps.setFmt {v : W32} : Act.Keeps (Machine.setFmt v) := .modM fun _ h => h

theorem NextCanonical.execFmtw {gu : Guard} {b : Bool} {m : BitVec 16} {σ : State} (h : σ.Canonical) :
    NextCanonical (Machine.execFmtw gu b m σ) := .runSlot (.bind .getC fun _ => .setFmt) h

theorem NextCanonical.execFmtwg {gu : Guard} {a b : GF} {σ : State} (h : σ.Canonical) : NextCanonical (Machine.execFmtwg gu a b σ) :=
  .runSlot (.bind .readG fun _ => .bind .readG fun _ => .bind .getC fun _ => .setFmt) h

theorem Act.Keeps.waitWord {virt : Bool} {x : Word} : Act.Keeps (Machine.waitWord virt x) := by
  unfold Machine.waitWord
  refine .bind .raiseIf fun _ => ?_
  split
  · refine .bind .getM fun _ => ?_
    split
    · exact .await
    · exact .raiseT
    · exact .pure
  · exact .bind .raiseIf fun _ => .bind .readS fun _ => .pure

theorem Mach.Canonical.armAtOrigin {m : Mach} (h : m.Canonical) : m.armAtOrigin.Canonical := by
  unfold Machine.Mach.armAtOrigin
  dsimp only
  split
  · exact h
  · split
    · exact h
    · exact h.sendTo

theorem NextCanonical.execWaita {gu : Guard} {a b : GF} {s : Bool} {c : BitVec 3} {σ : State} (h : σ.Canonical) :
    NextCanonical (Machine.execWaita gu a b s c σ) := by
  unfold Machine.execWaita
  refine .runSlot ?_ h
  refine .bind .readG fun _ => .bind .readG fun _ => .bind .waitWord fun _ => .bind .reportPoint fun _ => ?_
  dsimp only
  split
  · exact .pure
  · exact .bind .performEarlier fun _ => .bind .modC fun _ => .modM fun _ h => h.armAtOrigin

theorem NextCanonical.execSusp {gu : Guard} {σ : State} (h : σ.Canonical) : NextCanonical (Machine.execSusp gu σ) :=
  .runSlot (.bind .performEarlier fun _ => .modC) h

theorem NextCanonical.execDone {gu : Guard} {σ : State} (h : σ.Canonical) : NextCanonical (Machine.execDone gu σ) :=
  .runSlot (.bind .reportPoint fun _ => .bind .performEarlier fun _ => .bind .modC fun _ => .bind (.modM fun _ h => h)
    fun _ => .modM fun _ h => .foldl (fun _ _ h => h.barrierCheck) _ h) h

theorem Mach.Canonical.arriveBarrier {m : Mach} {id : BitVec 3} (h : m.Canonical) : (m.arriveBarrier id).Canonical := by
  unfold Machine.Mach.arriveBarrier
  dsimp only
  split
  · exact h
  · split
    · split
      · exact .barrierCheck h
      · exact .barrierCheck h
    · exact .barrierCheck h

theorem NextCanonical.execBarr {gu : Guard} {n : BitVec 3} {σ : State} (h : σ.Canonical) : NextCanonical (Machine.execBarr gu n σ) :=
  .runSlot (.bind .reportPoint fun _ => .bind .performEarlier fun _ => .modM fun _ h => h.arriveBarrier) h

theorem NextCanonical.execSync {gu : Guard} {m : GF} {σ : State} (h : σ.Canonical) : NextCanonical (Machine.execSync gu m σ) := by
  unfold Machine.execSync
  refine .runSlot ?_ h
  refine .bind ?_ fun _ => .modM fun _ h => h
  refine .modM fun _ h => ?_
  split
  · exact h.flushV
  · exact h

theorem NextCanonical.execTrap {gu : Guard} {c : BitVec 12} {σ : State} (h : σ.Canonical) : NextCanonical (Machine.execTrap gu c σ) :=
  .runSlot .raise h

theorem NextCanonical.execSigc {gu : Guard} {a b : GF} {s : Bool} {c : BitVec 3} {σ : State} (h : σ.Canonical) :
    NextCanonical (Machine.execSigc gu a b s c σ) := by
  unfold Machine.execSigc
  refine .runSlot ?_ h
  refine .bind .checkScope fun _ => ?_
  refine .bind .readG fun _ => .bind .strongCheck fun _ => .bind .readG fun _ => .bind .strongPlace fun _ => ?_
  refine .bind .reportPoint fun _ => .bind .performEarlier fun _ => .modM fun _ h => ?_
  dsimp only
  exact .settleSigsOf h

theorem Mach.Canonical.slotWrite {m m' : Mach} {die : ℕ} {ctx : BitVec 12} {va : Word} {bytes : List Byte} {poison : Bool} (h : m.Canonical)
    (he : m.slotWrite die ctx va bytes poison = some m') : m'.Canonical := by
  unfold Machine.Mach.slotWrite at he
  split at he
  · cases he
  · split at he
    · cases he
      exact Mem.Canonical.landParts h
    · cases he

theorem Mach.Canonical.homePrep {m : Mach} {d : ℕ} {ps : List (ℕ × ℕ)} {rel : Bool} {past : SMap ℕ} (h : m.Canonical) :
    (m.homePrep d ps rel past).Canonical := h.tidy.homePrep.2.1

theorem Mach.Canonical.homeWrite {m : Mach} {d : ℕ} {ps : List (ℕ × ℕ)} {bytes : List Byte} {poison : Bool} (h : m.Canonical) :
    (m.homeWrite d ps bytes poison).Canonical := h.tidy.homeWrite.2.1

theorem Mach.Canonical.homeAcquire {m : Mach} {d : ℕ} {ps : List (ℕ × ℕ)} (h : m.Canonical) : (m.homeAcquire d ps).Canonical :=
  Mem.Canonical.foldl (fun _ _ h => h.acquire) _ h

theorem Mach.Canonical.recordCount {m : Mach} {die : ℕ} {e : SlotEntry} {x : ℕ} {f : ℕ → ℕ} (h : m.Canonical) :
    (m.recordCount die e x f).Canonical := by
  unfold Machine.Mach.recordCount
  dsimp only
  exact h.homePrep.homeWrite

theorem Mach.Canonical.dropRecord {m : Mach} {die : ℕ} {e : SlotEntry} {x : ℕ} (h : m.Canonical) : (m.dropRecord die e x).Canonical :=
  h.recordCount

theorem Mach.Canonical.writeStaged {m : Mach} {die slot layer blk stride off : ℕ} {bytes : List Byte} {poison : Bool} (h : m.Canonical) :
    (m.writeStaged die slot layer blk stride off bytes poison).Canonical := .foldl (fun _ _ h => h.landParts) _ h

theorem Act.Keeps.loadV {n : ℕ} {sx : Bool} {d a : GF} {m : BitVec 11} : Act.Keeps (Machine.loadV n sx d a m) := by
  unfold Machine.loadV
  refine .bind .readG fun _ => .bind .readV fun _ => ?_
  dsimp only
  exact .writeLoaded

theorem Act.Keeps.storeV {n : ℕ} {d a : GF} {m : BitVec 11} : Act.Keeps (Machine.storeV n d a m) :=
  .bind .readG fun _ => .bind .readG fun _ => .bind .getC fun _ => .writeV

theorem NextCanonical.execLdb {gu : Guard} {d a : GF} {m : BitVec 11} {σ : State} (h : σ.Canonical) :
    NextCanonical (Machine.execLdb gu d a m σ) := .runSlot .loadV h

theorem NextCanonical.execLdbu {gu : Guard} {d a : GF} {m : BitVec 11} {σ : State} (h : σ.Canonical) :
    NextCanonical (Machine.execLdbu gu d a m σ) := .runSlot .loadV h

theorem NextCanonical.execLdh {gu : Guard} {d a : GF} {m : BitVec 11} {σ : State} (h : σ.Canonical) :
    NextCanonical (Machine.execLdh gu d a m σ) := .runSlot .loadV h

theorem NextCanonical.execLdhu {gu : Guard} {d a : GF} {m : BitVec 11} {σ : State} (h : σ.Canonical) :
    NextCanonical (Machine.execLdhu gu d a m σ) := .runSlot .loadV h

theorem NextCanonical.execLdw {gu : Guard} {d a : GF} {m : BitVec 11} {σ : State} (h : σ.Canonical) :
    NextCanonical (Machine.execLdw gu d a m σ) := .runSlot .loadV h

theorem NextCanonical.execLdwu {gu : Guard} {d a : GF} {m : BitVec 11} {σ : State} (h : σ.Canonical) :
    NextCanonical (Machine.execLdwu gu d a m σ) := .runSlot .loadV h

theorem NextCanonical.execLdd {gu : Guard} {d a : GF} {m : BitVec 11} {σ : State} (h : σ.Canonical) :
    NextCanonical (Machine.execLdd gu d a m σ) := .runSlot .loadV h

theorem NextCanonical.execStb {gu : Guard} {d a : GF} {m : BitVec 11} {σ : State} (h : σ.Canonical) :
    NextCanonical (Machine.execStb gu d a m σ) := .runSlot .storeV h

theorem NextCanonical.execSth {gu : Guard} {d a : GF} {m : BitVec 11} {σ : State} (h : σ.Canonical) :
    NextCanonical (Machine.execSth gu d a m σ) := .runSlot .storeV h

theorem NextCanonical.execStw {gu : Guard} {d a : GF} {m : BitVec 11} {σ : State} (h : σ.Canonical) :
    NextCanonical (Machine.execStw gu d a m σ) := .runSlot .storeV h

theorem NextCanonical.execStd {gu : Guard} {d a : GF} {m : BitVec 11} {σ : State} (h : σ.Canonical) :
    NextCanonical (Machine.execStd gu d a m σ) := .runSlot .storeV h

theorem Act.Keeps.loadS {n : ℕ} {d a : GF} {m : BitVec 11} : Act.Keeps (Machine.loadS n d a m) :=
  .bind .readG fun _ => .bind .checkWin fun _ => .bind (.modM fun _ h => h.landOver) fun _ => .bind .getM fun _ => .writeLoaded

theorem Act.Keeps.storeS {n : ℕ} {d a : GF} {m : BitVec 11} : Act.Keeps (Machine.storeS n d a m) :=
  .bind .readG fun _ => .bind .readG fun _ => .writeS

theorem NextCanonical.execSpldw {gu : Guard} {d a : GF} {m : BitVec 11} {σ : State} (h : σ.Canonical) :
    NextCanonical (Machine.execSpldw gu d a m σ) := .runSlot .loadS h

theorem NextCanonical.execSpldd {gu : Guard} {d a : GF} {m : BitVec 11} {σ : State} (h : σ.Canonical) :
    NextCanonical (Machine.execSpldd gu d a m σ) := .runSlot .loadS h

theorem NextCanonical.execSpstw {gu : Guard} {d a : GF} {m : BitVec 11} {σ : State} (h : σ.Canonical) :
    NextCanonical (Machine.execSpstw gu d a m σ) := .runSlot .storeS h

theorem NextCanonical.execSpstd {gu : Guard} {d a : GF} {m : BitVec 11} {σ : State} (h : σ.Canonical) :
    NextCanonical (Machine.execSpstd gu d a m σ) := .runSlot .storeS h

theorem Act.Keeps.awaitFills : Act.Keeps Machine.awaitFills := .bind .getC fun _ => .awaitIf

theorem Act.Keeps.markCheck {p : SigTarget} {n : ℕ} {x : Word} : Act.Keeps (Machine.markCheck p n x) := by
  unfold Machine.markCheck
  refine .bind .getM fun _ => ?_
  split
  · exact .raise
  · exact .pure

theorem NextCanonical.execLdacq {gu : Guard} {d a : GF} {e : Bool} {z : BitVec 2} {c : BitVec 3} {σ : State} (h : σ.Canonical) :
    NextCanonical (Machine.execLdacq gu d a e z c σ) :=
  .runSlot (.bind .checkScope fun _ => .bind .readG fun _ => .bind .strongCheck fun _ => .bind .strongPlace
    fun _ => .bind .reportPoint fun _ => .bind (.modM fun _ h => h.placeLand.placePrep) fun _ => .bind .markCheck
      fun _ => .bind .getM fun _ => .bind (.modM fun _ h => h.placeAcquire) fun _ => .writeG) h

theorem NextCanonical.execStrel {gu : Guard} {a b : GF} {e : Bool} {z : BitVec 2} {c : BitVec 3} {σ : State} (h : σ.Canonical) :
    NextCanonical (Machine.execStrel gu a b e z c σ) :=
  .runSlot (.bind .checkScope fun _ => .bind .readG fun _ => .bind .strongCheck fun _ => .bind .readG fun _ => .bind .strongPlace
    fun _ => .bind .reportPoint fun _ => .bind .awaitFills fun _ => .bind .performEarlier fun _ => .modM
      fun _ h => h.placePrep.placeWrite) h

theorem Act.Keeps.amo {op : StrongOp} {d a b : GF} {spad uns w : Bool} {sc : BitVec 3} :
    Act.Keeps (Machine.amo op d a b spad uns w sc) := by
  unfold Machine.amo
  refine .bind .checkScope fun _ => ?_
  dsimp only
  refine .bind ?_ fun _ => ?_
  · split
    · exact .readG
    · exact .pure
  · refine .bind .readG fun _ => .bind .strongCheck fun _ => .bind .readG fun _ => .bind .strongPlace fun _ => ?_
    refine .bind .reportPoint fun _ => .bind .awaitFills fun _ => .bind .performEarlier fun _ => ?_
    refine .bind (.modM fun _ h => h.placePrep) fun _ => .bind .markCheck fun _ => .bind .getM fun _ => ?_
    refine .bind ?_ fun _ => .bind (.modM fun _ h => h.placeAcquire) fun _ => .bind .writeG fun _ => .flagEventsAt
    refine .modM fun _ h => ?_
    split
    · exact h.placeWrite
    · exact h

theorem NextCanonical.execAmoadd {gu : Guard} {d a b : GF} {e w : Bool} {c : BitVec 3} {σ : State} (h : σ.Canonical) :
    NextCanonical (Machine.execAmoadd gu d a b e w c σ) := .runSlot .amo h

theorem NextCanonical.execAmoand {gu : Guard} {d a b : GF} {e w : Bool} {c : BitVec 3} {σ : State} (h : σ.Canonical) :
    NextCanonical (Machine.execAmoand gu d a b e w c σ) := .runSlot .amo h

theorem NextCanonical.execAmoor {gu : Guard} {d a b : GF} {e w : Bool} {c : BitVec 3} {σ : State} (h : σ.Canonical) :
    NextCanonical (Machine.execAmoor gu d a b e w c σ) := .runSlot .amo h

theorem NextCanonical.execAmoxor {gu : Guard} {d a b : GF} {e w : Bool} {c : BitVec 3} {σ : State} (h : σ.Canonical) :
    NextCanonical (Machine.execAmoxor gu d a b e w c σ) := .runSlot .amo h

theorem NextCanonical.execAmomin {gu : Guard} {d a b : GF} {e u w : Bool} {c : BitVec 3} {σ : State} (h : σ.Canonical) :
    NextCanonical (Machine.execAmomin gu d a b e u w c σ) := .runSlot .amo h

theorem NextCanonical.execAmomax {gu : Guard} {d a b : GF} {e u w : Bool} {c : BitVec 3} {σ : State} (h : σ.Canonical) :
    NextCanonical (Machine.execAmomax gu d a b e u w c σ) := .runSlot .amo h

theorem NextCanonical.execAmoswp {gu : Guard} {d a b : GF} {e w : Bool} {c : BitVec 3} {σ : State} (h : σ.Canonical) :
    NextCanonical (Machine.execAmoswp gu d a b e w c σ) := .runSlot .amo h

theorem NextCanonical.execAmocas {gu : Guard} {d a b : GF} {e w : Bool} {c : BitVec 3} {σ : State} (h : σ.Canonical) :
    NextCanonical (Machine.execAmocas gu d a b e w c σ) := .runSlot .amo h

theorem NextCanonical.execAmofadd {gu : Guard} {d a b : GF} {e w : Bool} {c : BitVec 3} {σ : State} (h : σ.Canonical) :
    NextCanonical (Machine.execAmofadd gu d a b e w c σ) := .runSlot .amo h

theorem NextCanonical.execFence {gu : Guard} {c : BitVec 3} {s : BitVec 4} {σ : State} (h : σ.Canonical) :
    NextCanonical (Machine.execFence gu c s σ) := by
  unfold Machine.execFence
  refine .runSlot ?_ h
  refine .bind .checkScope fun _ => .bind .reportPoint fun _ => ?_
  split
  · dsimp only
    split
    · refine .bind .awaitFills fun _ => .bind .performEarlier fun _ => .modM fun _ h => ?_
      split
      · exact .withMem h.spread
      · exact h
    · refine .bind .performEarlier fun _ => .modM fun _ h => ?_
      split
      · exact .withMem h.spread
      · exact h
  · exact .pure

theorem NextCanonical.execLdblk {gu : Guard} {d a b : GF} {n : BitVec 3} {σ : State} (h : σ.Canonical) :
    NextCanonical (Machine.execLdblk gu d a b n σ) := by
  unfold Machine.execLdblk
  refine .runSlot ?_ h
  refine .bind .readG fun _ => .bind .readG fun _ => .bind .raiseIf fun _ => .bind .readG fun _ => ?_
  dsimp only
  refine .bind .raiseIf fun _ => .bind .raiseIf fun _ => ?_
  refine .bind .checkWin fun _ => .bind .raiseIf fun _ => .bind .getM fun _ => .bind .raiseIf fun _ => ?_
  split
  · exact .await
  · exact .raiseT
  · exact .modC

theorem Mach.Canonical.fillBlock {m : Mach} {c : Cont} {n : ℕ} (h : m.Canonical) : (m.fillBlock c n).Canonical := by
  unfold Machine.Mach.fillBlock
  split
  · exact h
  · split
    · exact h
    · dsimp only
      exact h.setCont.spadWrite

theorem Mach.Canonical.writeBack {m : Mach} {c : Cont} {b : LoadBlock} (h : m.Canonical) : (m.writeBack c b).1.Canonical := by
  unfold Machine.Mach.writeBack
  refine .foldlPair (fun _ _ h => ?_) _ h
  split
  · split
    · exact h
    · split
      · dsimp only
        exact h.writeParts
      · exact h
      · exact h
  · exact h

theorem Mach.Canonical.releaseBlock {m : Mach} {id n : ℕ} {free : Bool} (h : m.Canonical) : (m.releaseBlock id n free).Canonical := by
  unfold Machine.Mach.releaseBlock
  split
  · exact h
  · split
    · exact h
    · dsimp only
      exact h.writeBack.setCont

theorem Act.Keeps.blockBack {n : BitVec 3} {free : Bool} : Act.Keeps (Machine.blockBack n free) := by
  unfold Machine.blockBack
  refine .bind .getC fun _ => ?_
  split
  · exact .pure
  · exact .bind .awaitIf fun _ => .modM fun _ h => h.releaseBlock

theorem NextCanonical.execBlkwb {gu : Guard} {n : BitVec 3} {σ : State} (h : σ.Canonical) : NextCanonical (Machine.execBlkwb gu n σ) :=
  .runSlot .blockBack h

theorem NextCanonical.execBlkrel {gu : Guard} {n : BitVec 3} {σ : State} (h : σ.Canonical) : NextCanonical (Machine.execBlkrel gu n σ) :=
  .runSlot .blockBack h

theorem Act.Keeps.xlt {dest : Option GF} {a : GF} {w : Bool} {n : BitVec 2} : Act.Keeps (Machine.xlt dest a w n) := by
  unfold Machine.xlt
  refine .bind .readG fun _ => .bind .getC fun _ => ?_
  refine .bind .awaitIf fun _ => .bind .awaitIf fun _ => .bind .modC fun _ => .bind .getM fun _ => ?_
  dsimp only
  split
  · exact fun _ h => trivial
  · split
    · exact fun _ h => trivial
    · split
      · exact fun _ h => trivial
      · exact .modC
      · split
        · refine .bind .modC fun _ => ?_
          split
          · exact .writeG
          · exact .pure
        · exact .modC

theorem NextCanonical.execXlt {gu : Guard} {a : GF} {l : BitVec 3} {w : Bool} {n : BitVec 2} {σ : State} (h : σ.Canonical) :
    NextCanonical (Machine.execXlt gu a l w n σ) := .runSlot .xlt h

theorem NextCanonical.execXltp {gu : Guard} {d a : GF} {l : BitVec 3} {w : Bool} {n : BitVec 2} {σ : State} (h : σ.Canonical) :
    NextCanonical (Machine.execXltp gu d a l w n σ) := .runSlot .xlt h

theorem NextCanonical.execLeaseq {gu : Guard} {d a : GF} {σ : State} (h : σ.Canonical) : NextCanonical (Machine.execLeaseq gu d a σ) := by
  unfold Machine.execLeaseq
  refine .runSlot ?_ h
  refine .bind .readG fun _ => .bind .getM fun _ => ?_
  dsimp only
  exact .writeG

theorem NextCanonical.execSbind {gu : Guard} {n : BitVec 3} {a : GF} {m : BitVec 11} {σ : State} (h : σ.Canonical) :
    NextCanonical (Machine.execSbind gu n a m σ) := by
  unfold Machine.execSbind
  refine .runSlot ?_ h
  refine .bind .readG fun _ => ?_
  dsimp only
  refine .bind .raiseIf fun _ => .bind .checkWin fun _ => ?_
  refine .bind (.modM fun _ h => h.landOver) fun _ => .bind .getM fun _ => .bind .raiseIf fun _ => ?_
  split
  · exact .raiseT
  · exact .modC

theorem NextCanonical.execSunbind {gu : Guard} {n : BitVec 3} {σ : State} (h : σ.Canonical) : NextCanonical (Machine.execSunbind gu n σ) :=
  .runSlot .modC h

theorem NextCanonical.execQinit {gu : Guard} {n : BitVec 4} {a b : GF} {σ : State} (h : σ.Canonical) :
    NextCanonical (Machine.execQinit gu n a b σ) := by
  unfold Machine.execQinit
  refine .runSlot ?_ h
  refine .bind .needClaim fun _ => .bind .readG fun _ => .bind .readG fun _ => .bind .getC fun _ => ?_
  dsimp only
  exact .bind .raiseIf fun _ => .bind .getM fun _ => .bind .awaitIf fun _ => .bind .awaitIf fun _ => .modC

theorem Act.Keeps.putRowCounts {v : BitVec 128} {x : Byte} (n : ℕ) : ∀ {i : ℕ}, Act.Keeps (Machine.putRowCounts v x n i) := by
  induction n with
  | zero => exact .pure
  | succ n ih => exact .bind .writeS fun _ => ih

theorem NextCanonical.execQadv {gu : Guard} {q : BitVec 4} {a : GF} {r b : Bool} {n : BitVec 8} {σ : State} (h : σ.Canonical) :
    NextCanonical (Machine.execQadv gu q a r b n σ) := by
  unfold Machine.execQadv
  refine .runSlot ?_ h
  refine .bind .needClaim fun _ => .bind ?_ fun _ => ?_
  · split
    · exact .readG
    · exact .pure
  · refine .bind .getC fun _ => ?_
    dsimp only
    split
    · exact .bind .raiseIf fun _ => .bind .performEarlier fun _ => .modC
    · refine .bind .raiseIf fun _ => .bind .performEarlier fun _ => ?_
      split
      · exact .bind (.putRowCounts _) fun _ => .modC
      · exact .modC

theorem NextCanonical.execQstat {gu : Guard} {d : GF} {n : BitVec 4} {b : Bool} {σ : State} (h : σ.Canonical) :
    NextCanonical (Machine.execQstat gu d n b σ) := by
  unfold Machine.execQstat
  refine .runSlot ?_ h
  refine .bind .needClaim fun _ => .bind .getC fun _ => ?_
  dsimp only
  exact .writeG

theorem NextCanonical.execWenq {gu : Guard} {d a b : GF} {c : BitVec 3} {σ : State} (h : σ.Canonical) :
    NextCanonical (Machine.execWenq gu d a b c σ) := by
  unfold Machine.execWenq
  refine .runSlot ?_ h
  refine .bind .checkScope fun _ => .bind .readG fun _ => .bind .raiseIf fun _ => ?_
  refine .bind .readG fun _ => .bind .raiseIf fun _ => .bind .raiseIf fun _ => .bind .raiseIf fun _ => ?_
  refine .bind .checkWin fun _ => .bind .getC fun _ => .bind .raiseIf fun _ => .bind .strongPlace fun _ => ?_
  refine .bind .reportPoint fun _ => .bind .awaitFills fun _ => .bind .performEarlier fun _ => ?_
  refine .bind (.modM fun _ h => h.placePrep) fun _ => .bind .markCheck fun _ => .bind .getM fun _ => ?_
  dsimp only
  refine .bind .checkWin fun _ => .bind .raiseIf fun _ => .bind .strongPlace fun _ => ?_
  split
  · exact .bind (.modM fun _ h => h.placeAcquire) fun _ => .writeG
  · split
    · exact .await
    · exact .raiseT
    · split
      · exact .raise
      · exact .bind (.modM fun _ h => h.writeParts) fun _ => .bind (.modM fun _ h => h.placePrep.placeWrite) fun _ => .bind
          (.modM fun _ h => h.placeAcquire) fun _ => .writeG

theorem Act.Keeps.putAg {n : BitVec 3} {g : Except Trap Ag} : Act.Keeps (Machine.putAg n g) := by
  unfold Machine.putAg
  split
  · exact .raiseT
  · exact .modC

theorem NextCanonical.execAgset {gu : Guard} {n : BitVec 3} {a : GF} {σ : State} (h : σ.Canonical) :
    NextCanonical (Machine.execAgset gu n a σ) := .runSlot (.bind .readG fun _ => .bind .getM fun _ => .bind .awaitIf fun _ => .putAg) h

theorem NextCanonical.execAgadv {gu : Guard} {n : BitVec 3} {a : GF} {m : BitVec 11} {σ : State} (h : σ.Canonical) :
    NextCanonical (Machine.execAgadv gu n a m σ) := .runSlot (.bind .readG fun _ => .bind .getM fun _ => .bind .awaitIf fun _ => .putAg) h

theorem Act.Keeps.takeFmt : Act.Keeps Machine.takeFmt := .bind .getM fun _ => .pure

theorem Act.Keeps.vArgs {a b : GF} : Act.Keeps (Machine.vArgs a b) := .bind .readG fun _ => .bind .readG fun _ => .pure

theorem Act.Keeps.vRun {l : Bool} {body : ℕ → VFmt → Act Unit} (hb : ∀ n f, (body n f).Keeps) : Act.Keeps (Machine.vRun l body) := by
  unfold Machine.vRun
  split
  · refine .bind .needClaim fun _ => .bind .getC fun _ => .bind .takeFmt fun _ => ?_
    split
    · exact .pure
    · exact hb _ _
  · refine .bind .getC fun _ => .bind .takeFmt fun _ => ?_
    split
    · exact .pure
    · exact hb _ _

end Sys2Proof.Machine
end


section
/-! SUPPORT. The canonical form of memory through the regions of vector commands and the matrix array. -/

namespace Sys2Proof.Machine

theorem Act.Keeps.vRange {l : List VReg} : Act.Keeps (Machine.vRange l) := by
  unfold Machine.vRange
  refine .bind .getC fun _ => ?_
  split
  · exact .raise
  · exact .pure

theorem Mach.Canonical.flushOver {m : Mach} {p : VPlan} (h : m.Canonical) : (m.flushOver p).Canonical := by
  unfold Machine.Mach.flushOver
  split
  · exact h.performed
  · exact h

theorem Act.Keeps.vCheck {p : VPlan} : Act.Keeps (Machine.vCheck p) :=
  .bind .vRange fun _ => .bind .raiseIf fun _ => .bind .raiseIf fun _ => .modM fun _ h => h.flushOver

theorem Act.Keeps.takeLatch {n z : ℕ} : Act.Keeps (Machine.takeLatch n z) := by
  unfold Machine.takeLatch
  refine .bind .getC fun _ => .bind .parkIf fun _ => .bind .modC fun _ => ?_
  dsimp only
  exact .pure

theorem Act.Keeps.putV {writes : List SpadWrite} {ev : ℕ} : Act.Keeps (Machine.putV writes ev) := by
  unfold Machine.putV
  refine .bind .modC fun _ => .modM fun _ h => ?_
  split
  · exact h.flushV
  · exact h

theorem Act.Keeps.duskCount {v : VFmt} : Act.Keeps (Machine.duskCount v) := by
  unfold Machine.duskCount
  split
  · exact .bind .fresh fun _ => .pure
  · exact .pure

theorem Act.Keeps.vElems {l hold : Bool} {a b : GF} {form : VFmt → VForm} {f : VFmt → Option ℕ → ℕ → ℕ → ℕ → ℕ → Rounded} :
    Act.Keeps (Machine.vElems l hold a b form f) := by
  unfold Machine.vElems
  refine .vRun fun _ _ => ?_
  dsimp only
  refine .bind .raiseIf fun _ => .bind .vArgs fun _ => .bind .vCheck fun _ => ?_
  refine .bind .getM fun _ => .bind .parkIf fun _ => .bind ?_ fun _ => .bind .duskCount fun _ => .putV
  split
  · exact .takeLatch
  · exact .pure

theorem Act.Keeps.vTwo {l : Bool} {a b : GF} {f : Num → Num → Num × ℕ} : Act.Keeps (Machine.vTwo l a b f) := .vElems

theorem Act.Keeps.vScalar {l : Bool} {a b : GF} {f : Num → Num → Num × ℕ} : Act.Keeps (Machine.vScalar l a b f) := .vElems

theorem Act.Keeps.vFused {l scalar : Bool} {a b : GF} : Act.Keeps (Machine.vFused l scalar a b) := .vElems

theorem Act.Keeps.vPick {l max : Bool} {a b : GF} : Act.Keeps (Machine.vPick l max a b) := .vElems

theorem Act.Keeps.vSign {l neg : Bool} {a : GF} : Act.Keeps (Machine.vSign l neg a) := .vElems

theorem Act.Keeps.vFunc {l : Bool} {f : FuncOp} {a : GF} : Act.Keeps (Machine.vFunc l f a) := by
  unfold Machine.vFunc
  dsimp only
  exact .vElems

theorem Act.Keeps.vWords {a b : GF} {s : Bool} {size : VFmt → ℕ} {ok : VFmt → Bool} {f : ℕ → ℕ → ℕ → ℕ} :
    Act.Keeps (Machine.vWords a b s size ok f) := .vElems

theorem Mach.Canonical.place {m : Mach} {id : ℕ} {e : Entered} {k : MCmd} (h : m.Canonical) : (m.place id e k).Canonical := by
  unfold Machine.Mach.place
  split
  · exact h
  · dsimp only
    exact h.setCont

theorem Act.Keeps.mSlot {i : Instr} {enter : Mach → Cont → W32 → Option ℕ → Enter Entered} : Act.Keeps (Machine.mSlot i enter) := by
  unfold Machine.mSlot
  refine .bind .needClaim fun _ => ?_
  refine .bind .getM fun _ => .bind .awaitIf fun _ => .bind .takeFmt fun _ => .bind ?_ fun _ => ?_
  · split
    · exact .bind .fresh fun _ => .pure
    · exact .pure
  · refine .bind (.modM fun _ h => h.landDrains) fun _ => .bind .getM fun _ => ?_
    split
    · exact fun _ h => trivial
    · exact .bind .parkIf fun _ => .bind (.modM fun _ h => h.place) fun _ => .flagEventsAt

theorem Mach.Canonical.followFails {m : Mach} {c : Cont} {k : MCmd} {cardOff : ℕ} {t : Trap} (h : m.Canonical) :
    (m.followFails c k cardOff t).Canonical := by
  unfold Machine.Mach.followFails
  dsimp only
  exact h.reportEnd

theorem Mach.Canonical.enterQueued {m : Mach} {id : ℕ} (h : m.Canonical) : (m.enterQueued id).Canonical := by
  unfold Machine.Mach.enterQueued
  split
  · exact h
  · split
    · exact h
    · split
      · exact h
      · split
        · exact h
        · dsimp only
          split
          · exact h.setCont.landDrains
          · split
            · split
              · refine .setCont (.place ?_)
                split
                · exact h.setCont.landDrains
                · exact h.setCont.landDrains
              · refine .place ?_
                split
                · exact h.setCont.landDrains
                · exact h.setCont.landDrains
            · refine .followFails ?_
              split
              · exact h.setCont.landDrains
              · exact h.setCont.landDrains
            · split
              · exact h.setCont.landDrains
              · exact h.setCont.landDrains

theorem Mach.Canonical.retire {m : Mach} {c : Cont} {k : MCmd} (h : m.Canonical) : (m.retire c k).Canonical := by
  unfold Machine.Mach.retire
  dsimp only
  split
  · split
    · split
      · exact .setCont (Mem.Canonical.foldl (fun _ _ h => h.spadWrite) _ h)
      · exact .setCont (Mem.Canonical.foldl (fun _ _ h => h.spadWrite) _ h)
    · exact .setCont (Mem.Canonical.foldl (fun _ _ h => h.spadWrite) _ h)
  · exact .setCont (Mem.Canonical.foldl (fun _ _ h => h.spadWrite) _ h)

theorem Mach.Canonical.retireOne {m : Mach} {id : ℕ} (h : m.Canonical) : (m.retireOne id).Canonical := by
  unfold Machine.Mach.retireOne
  split
  · exact h
  · split
    · exact h
    · exact h.retire

theorem NextCanonical.execMma {gu : Guard} {qa qb : Q} {acc : Acc} {z : Bool} {ks : BitVec 7} {ka kb : Bool} {σ : State} (h : σ.Canonical) :
    NextCanonical (Machine.execMma gu qa qb acc z ks ka kb σ) := .runSlot .mSlot h

theorem NextCanonical.execMmabt {gu : Guard} {qa qb : Q} {acc : Acc} {z : Bool} {ks : BitVec 7} {ka kb : Bool} {σ : State}
    (h : σ.Canonical) :
    NextCanonical (Machine.execMmabt gu qa qb acc z ks ka kb σ) := .runSlot .mSlot h

theorem NextCanonical.execMmasp {gu : Guard} {qa qb : Q} {acc : Acc} {z : Bool} {ks : BitVec 7} {ka kb : Bool} {σ : State}
    (h : σ.Canonical) :
    NextCanonical (Machine.execMmasp gu qa qb acc z ks ka kb σ) := .runSlot .mSlot h

theorem NextCanonical.execMmacb {gu : Guard} {qa qb : Q} {acc : Acc} {z : Bool} {ks : BitVec 7} {ka kb : Bool} {σ : State}
    (h : σ.Canonical) :
    NextCanonical (Machine.execMmacb gu qa qb acc z ks ka kb σ) := .runSlot .mSlot h

theorem NextCanonical.execMzero {gu : Guard} {acc : Acc} {kind : Bool} {σ : State} (h : σ.Canonical) :
    NextCanonical (Machine.execMzero gu acc kind σ) := .runSlot .mSlot h

theorem NextCanonical.execMldacc {gu : Guard} {acc : Acc} {off : Off} {kind : Bool} {σ : State} (h : σ.Canonical) :
    NextCanonical (Machine.execMldacc gu acc off kind σ) := .runSlot .mSlot h

theorem NextCanonical.execMdrain {gu : Guard} {acc : Acc} {dmask : BitVec 6} {off : Off} {σ : State} (h : σ.Canonical) :
    NextCanonical (Machine.execMdrain gu acc dmask off σ) := .runSlot .mSlot h

theorem NextCanonical.execMdraina {gu : Guard} {acc : Acc} {off : Off} {σ : State} (h : σ.Canonical) :
    NextCanonical (Machine.execMdraina gu acc off σ) := .runSlot .mSlot h

theorem NextCanonical.execMpop {gu : Guard} {qa qb : Q} {popA popB : Bool} {σ : State} (h : σ.Canonical) :
    NextCanonical (Machine.execMpop gu qa qb popA popB σ) := .runSlot .mSlot h

theorem NextCanonical.execMcbld {gu : Guard} {off : Off} {σ : State} (h : σ.Canonical) : NextCanonical (Machine.execMcbld gu off σ) :=
  .runSlot .mSlot h

theorem NextCanonical.execMscl {gu : Guard} {off : Off} {σ : State} (h : σ.Canonical) : NextCanonical (Machine.execMscl gu off σ) :=
  .runSlot .mSlot h

theorem NextCanonical.execMfence {gu : Guard} {slots : BitVec 6} {σ : State} (h : σ.Canonical) :
    NextCanonical (Machine.execMfence gu slots σ) := .runSlot (.bind .needClaim fun _ => .modM fun _ h => h) h

theorem NextCanonical.execArrayEntry {cont : ℕ} {σ : State} (h : σ.Canonical) : NextCanonical (Machine.execArrayEntry cont σ) :=
  .runEvent (fun _ h => h.enterQueued) h

theorem NextCanonical.execMatrixCommandRetire {cont : ℕ} {σ : State} (h : σ.Canonical) :
    NextCanonical (Machine.execMatrixCommandRetire cont σ) := .runEvent (fun _ h => h.retireOne) h

end Sys2Proof.Machine
end


section
/-! SUPPORT. The canonical form of memory through jobs: signals, moves, key-value writes, collectives, notices, staging and fills. -/

namespace Sys2Proof.Machine

theorem Mach.Canonical.addJob {m : Mach} {j : Job} (h : m.Canonical) : (m.addJob j).Canonical := by
  unfold Machine.Mach.addJob
  dsimp only
  split
  · split
    · exact .setCont h
    · exact h
  · exact h

theorem Act.Keeps.issueJob {op : ℕ} {card : GF} {mm : BitVec 4} {ac : BitVec 6} : Act.Keeps (Machine.issueJob op card mm ac) := by
  unfold Machine.issueJob
  refine .bind .getM fun _ => .bind .awaitIf fun _ => ?_
  dsimp only
  split
  · refine .bind .needClaim fun _ => .bind .readG fun _ => .bind .getM fun _ => ?_
    split
    · exact .raiseT
    · split
      · refine .bind .needClaim fun _ => ?_
        split
        · exact .raise
        · exact .bind .raiseIf fun _ => .bind .takeFmt fun _ => .modM fun _ h => h.addJob
      · split
        · exact .raise
        · exact .bind .raiseIf fun _ => .bind .takeFmt fun _ => .modM fun _ h => h.addJob
  · refine .bind .readG fun _ => .bind .getM fun _ => ?_
    split
    · exact .raiseT
    · split
      · refine .bind .needClaim fun _ => ?_
        split
        · exact .raise
        · exact .bind .raiseIf fun _ => .bind .takeFmt fun _ => .modM fun _ h => h.addJob
      · split
        · exact .raise
        · exact .bind .raiseIf fun _ => .bind .takeFmt fun _ => .modM fun _ h => h.addJob

theorem Mach.Canonical.jobSaw {m : Mach} {j : Job} {c : Cont} {virt : Bool} {a : ℤ} {n : ℕ} (h : m.Canonical) :
    (m.jobSaw j c virt a n).Canonical := by
  unfold Machine.Mach.jobSaw
  split
  · split
    · exact h.observe
    · exact h
  · split
    · exact h.winSaw
    · exact h

theorem Holds.jobWrite {m : Mach} {j : Job} {c : Cont} {virt : Bool} {a : ℤ} {bytes : List Byte} {poison : Bool} (h : m.Canonical) :
    Holds Mach.Canonical (m.jobWrite j c virt a bytes poison) := by
  unfold Machine.Mach.jobWrite
  split
  · exact h
  · split
    · exact .seq fun _ => h.landParts
    · exact .seq fun _ => h.winWriteBy

theorem Holds.eachJ {α : Type} {f : Mach → α → JobM Mach} (hf : ∀ m x, m.Canonical → Holds Mach.Canonical (f m x)) (l : List α) :
    ∀ {m : Mach}, m.Canonical → Holds Mach.Canonical (Machine.eachJ f m l) := by
  induction l with
  | nil => exact fun h => h
  | cons x r ih => exact fun h => .andThen (hf _ x h) fun _ h => ih h

theorem Mach.Canonical.signalPast {m : Mach} {j : Job} {id : ℕ} (h : m.Canonical) : (m.signalPast j id).Canonical := by
  unfold Machine.Mach.signalPast
  split
  · exact h
  · exact h.catchUp

theorem Holds.ringAdvance {m : Mach} {id q rows : ℕ} (h : m.Canonical) : Holds Mach.Canonical (m.ringAdvance id q rows) := by
  unfold Machine.Mach.ringAdvance
  split
  · exact h
  · dsimp only
    split
    · exact trivial
    · split
      · exact trivial
      · split
        · exact trivial
        · split
          · exact h.winWrite.setCont
          · exact h.winWrite

theorem Holds.arrive {m : Mach} {id k n : ℕ} (h : m.Canonical) : Holds Mach.Canonical (m.arrive id k n) := by
  unfold Machine.Mach.arrive
  split
  · exact h
  · dsimp only
    split
    · exact trivial
    · exact h.setCont

theorem Mach.Canonical.completionWrite {m : Mach} {j : Job} {c : Cont} (h : m.Canonical) : (m.completionWrite j c).Canonical := by
  unfold Machine.Mach.completionWrite
  dsimp only
  split
  · exact h
  · split
    · exact h
    · split
      · exact h.signalPast.winWriteBy
      · exact h.signalPast

theorem Holds.jobSignals {m : Mach} {j : Job} {rows ev : ℕ} (h : m.Canonical) : Holds Mach.Canonical (m.jobSignals j rows ev) := by
  unfold Machine.Mach.jobSignals
  split
  · exact h
  · dsimp only
    refine .seq fun _ => .andThen ?_ fun _ h => ?_
    · split
      · exact .eachJ (fun _ _ h => .ringAdvance h) _ (.foldl (fun _ _ h => h.signalPast) _ h)
      · exact .foldl (fun _ _ h => h.signalPast) _ h
    · refine .andThen ?_ fun _ h => ?_
      · split
        · exact .eachJ (fun _ _ h => .arrive h) _ h
        · exact h
      · split
        · split
          · refine .completionWrite ?_
            split
            · exact h.setCont
            · exact h
          · split
            · exact h.setCont
            · exact h
        · split
          · refine .completionWrite ?_
            split
            · exact h.setCont
            · exact h
          · split
            · exact h.setCont
            · exact h

theorem Mach.Canonical.jobEnds {m : Mach} {j : Job} {t : Trap} (h : m.Canonical) : (m.jobEnds j t).Canonical := h.tidy.jobEnds.2.1

theorem Mach.Canonical.jobFails {m : Mach} {j : Job} {t : Trap} (h : m.Canonical) : (m.jobFails j t).Canonical := h.jobEnds

theorem Mach.Canonical.startJob {m : Mach} {d : ℕ} (h : m.Canonical) : (m.startJob d).Canonical := by
  unfold Machine.Mach.startJob
  split
  · exact h
  · split
    · exact h
    · exact h

theorem Mach.Canonical.issueFollow {m : Mach} {n : ℕ} (h : m.Canonical) : (m.issueFollow n).Canonical := by
  unfold Machine.Mach.issueFollow
  split
  · exact h
  · split
    · exact h
    · dsimp only
      split
      · exact h
      · exact h.setCont

theorem Holds.jobWriteMarked {m : Mach} {j : Job} {c : Cont} {virt : Bool} {a : ℤ} {l : List (Byte × Bool)} (h : m.Canonical) :
    Holds Mach.Canonical (m.jobWriteMarked j c virt a l) := .eachJ (fun _ _ h => .jobWrite h) _ h

theorem Mach.Canonical.jobSawAll {m : Mach} {j : Job} {c : Cont} {virt : Bool} {n : ℕ} {l : List ℤ} (h : m.Canonical) :
    (m.jobSawAll j c virt n l).Canonical := .foldl (fun _ _ h => h.jobSaw) _ h

theorem Mach.Canonical.takePort {m : Mach} {id job cmd : ℕ} (h : m.Canonical) : (m.takePort id job cmd).Canonical := by
  unfold Machine.Mach.takePort
  split
  · exact h
  · exact h.setCont

theorem Holds.writePositions {m : Mach} {ids : List ℕ} {off : ℤ} {l : List (Byte × Bool)} (h : m.Canonical) :
    Holds Mach.Canonical (m.writePositions ids off l) := by
  unfold Machine.Mach.writePositions
  refine .eachJ (fun _ _ h => ?_) _ h
  split
  · exact h
  · split
    · refine .foldl (fun _ _ h => ?_) _ h
      split
      · exact h.winWrite
      · exact h
    · exact trivial

theorem Holds.landPiece {m : Mach} {j : Job} {c : Cont} {ids : Option (List ℕ)} {r : Row} {l : List (Byte × Bool)} (h : m.Canonical) :
    Holds Mach.Canonical (m.landPiece j c ids r l) := by
  unfold Machine.Mach.landPiece
  split
  · exact .writePositions h
  · exact .jobWrite h

theorem Holds.landRows {m : Mach} {j : Job} {c : Cont} {rows : List Row} (h : m.Canonical) :
    Holds Mach.Canonical (m.landRows j c rows) := by
  unfold Machine.Mach.landRows
  dsimp only
  split
  · split
    · exact trivial
    · exact .eachJ (fun _ _ h => .landPiece h) _ h
  · exact .eachJ (fun _ _ h => .landPiece h) _ h

theorem Holds.moveRows {m : Mach} {j : Job} {c : Cont} (h : m.Canonical) : Holds Landed.Canonical (m.moveRows j c) := by
  unfold Machine.Mach.moveRows
  dsimp only
  split
  · exact .seq fun _ => .andThen (.landRows h) fun _ h => h.takePort
  · exact .seq fun _ => .seq fun _ => .andThen (.landRows h.jobSawAll.jobSawAll) fun _ h => h

theorem Holds.jobHeader {m : Mach} {j : Job} {va : ℕ} (h : m.Canonical) : Holds (fun p => p.1.Canonical) (m.jobHeader j va) := by
  unfold Machine.Mach.jobHeader
  refine .seq fun _ => ?_
  dsimp only
  split
  · exact trivial
  · exact h.homePrep.homeAcquire

theorem Holds.putPosition {m : Mach} {j : Job} {c : Cont} {e : SlotEntry} {a : Arena} {slot layer p : ℕ} {kb vb : List (Byte × Bool)}
    (h : m.Canonical) :
    Holds Mach.Canonical (m.putPosition j c e a slot layer p kb vb) := by
  unfold Machine.Mach.putPosition
  dsimp only
  refine .andThen (.jobWriteMarked h) fun _ h => .andThen (.jobWriteMarked h) fun _ h => ?_
  refine .andThenFst (.jobHeader h.writeStaged.writeStaged) fun _ h => ?_
  split
  · exact h.homePrep.homeWrite.writeStaged
  · exact h.homePrep.homeWrite.writeStaged.dropRecord

theorem Holds.kvWrite {m : Mach} {j : Job} {c : Cont} (h : m.Canonical) : Holds Landed.Canonical (m.kvWrite j c) := by
  unfold Machine.Mach.kvWrite
  dsimp only
  split
  · exact trivial
  · split
    · exact trivial
    · refine .seq fun _ => .seq fun _ => .seq fun _ => .seq fun _ => ?_
      split
      · exact trivial
      · exact .seq fun _ => .andThen (.eachJ (fun _ _ h => .putPosition h) _ h.jobSawAll) fun _ h => h

theorem Holds.scatterAddRows {m : Mach} {j : Job} {c : Cont} (h : m.Canonical) : Holds Landed.Canonical (m.scatterAddRows j c) := by
  unfold Machine.Mach.scatterAddRows
  dsimp only
  refine .seq fun _ => .seq fun _ => .andThen (.eachJ (fun _ _ h => ?_) _ h.jobSaw.jobSawAll) fun _ h => ?_
  · exact .seq fun _ => h
  · refine .andThenFst (.foldlM (fun _ _ h => ?_) _ h) fun _ h => h
    split
    · exact .seq fun _ => h.homePrep.homeWrite
    · exact .seq fun _ => .winWrite (.withMem h.catchUp)

theorem Holds.runCollective {m : Mach} {j : Job} (h : m.Canonical) : Holds Mach.Canonical (m.runCollective j) := by
  unfold Machine.Mach.runCollective
  dsimp only
  refine .seq fun _ => ?_
  split
  · exact trivial
  · refine .seq fun _ => .seq fun _ => .andThen ?_ fun _ h => .eachJ (fun _ _ h => .jobSignals h) _ h
    split
    · exact .eachJ (fun _ _ h => .jobWriteMarked h) _ (.foldl (fun _ _ h => .foldl (fun _ _ h => h.jobSaw) _ h) _ h)
    · split
      · exact .eachJ (fun _ _ h => .jobWriteMarked h) _ (.foldl (fun _ _ h => .foldl (fun _ _ h => h.jobSaw) _ h) _ h)
      · exact .eachJ (fun _ _ h => .eachJ (fun _ _ h => .jobWriteMarked h) _ h) _ (.foldl (fun _ _ h => .foldl
          (fun _ _ h => h.jobSaw) _ h) _ h)

theorem Holds.embedBags {m : Mach} {j : Job} {c : Cont} (h : m.Canonical) : Holds Landed.Canonical (m.embedBags j c) := by
  unfold Machine.Mach.embedBags
  dsimp only
  exact .seq fun _ => .seq fun _ => .seq fun _ => .seq fun _ => .seq fun _ => .andThen (.eachJ
    (fun _ _ h => .jobWriteMarked h) _ h) fun _ h => h

theorem Mach.Canonical.selectBuffer {m : Mach} {n : ℕ} (h : m.Canonical) : (m.selectBuffer n).Canonical := by
  unfold Machine.Mach.selectBuffer
  split
  · exact h
  · split
    · exact h
    · split
      · exact h
      · exact h

theorem Holds.stageLayer {m : Mach} {j : Job} {c : Cont} {b : Bool} (h : m.Canonical) : Holds Landed.Canonical (m.stageLayer j c b) := by
  unfold Machine.Mach.stageLayer
  dsimp only
  refine .seq fun _ => .seq fun _ => .seq fun _ => .andThen (.eachJ (fun _ _ h => ?_) _ h) fun m h => .seq fun _ => ?_
  · exact .seq fun _ => .withMem h.settleRange
  · refine Mem.Canonical.landParts (Mach.Canonical.foldl (fun _ _ h => .foldl (fun _ _ h => ?_) _ h) _ h)
    exact .withMem h.landParts

theorem Mach.Canonical.stageDone {m : Mach} {j : Job} {b ok : Bool} (h : m.Canonical) : (m.stageDone j b ok).Canonical := by
  unfold Machine.Mach.stageDone
  dsimp only
  split
  · exact h
  · exact h

theorem Holds.packRows {m : Mach} {j : Job} {c : Cont} (h : m.Canonical) : Holds Landed.Canonical (m.packRows j c) := by
  unfold Machine.Mach.packRows
  dsimp only
  refine .seq fun _ => .seq fun _ => .andThen (.eachJ (fun _ _ h => .jobWriteMarked h) _ h) fun _ h => ?_
  split
  · exact h
  · exact h.setCont

theorem Holds.unpackRows {m : Mach} {j : Job} {c : Cont} (h : m.Canonical) : Holds Landed.Canonical (m.unpackRows j c) := by
  unfold Machine.Mach.unpackRows
  dsimp only
  exact .seq fun _ => .seq fun _ => .andThen (.eachJ (fun _ _ h => .jobWriteMarked h) _ h) fun _ h => h

theorem Holds.indexWalk {m : Mach} {j : Job} {c : Cont} (h : m.Canonical) : Holds Landed.Canonical (m.indexWalk j c) := by
  unfold Machine.Mach.indexWalk
  dsimp only
  exact .seq fun _ => .seq fun _ => .seq fun _ => .seq fun _ => .andThen (.jobWrite h) fun _ h => h

theorem Holds.indexIntersect {m : Mach} {j : Job} {c : Cont} (h : m.Canonical) : Holds Landed.Canonical (m.indexIntersect j c) := by
  unfold Machine.Mach.indexIntersect
  dsimp only
  exact .seq fun _ => .seq fun _ => .seq fun _ => .andThen (.jobWrite h) fun _ h => h

theorem Holds.indexPart {m : Mach} {j : Job} {c : Cont} (h : m.Canonical) : Holds Landed.Canonical (m.indexPart j c) := by
  unfold Machine.Mach.indexPart
  dsimp only
  exact .seq fun _ => .andThen (.jobWrite h) fun _ h => h

theorem Holds.jobPayload {m : Mach} {j : Job} {c : Cont} (h : m.Canonical) : Holds Landed.Canonical (m.jobPayload j c) := by
  unfold Machine.Mach.jobPayload
  split
  · exact .kvWrite h
  · split
    · exact .moveRows h
    · split
      · exact .scatterAddRows h
      · split
        · exact .embedBags h
        · split
          · split
            · exact trivial
            · exact .stageLayer h
          · split
            · exact .packRows h
            · split
              · exact .unpackRows h
              · split
                · exact .indexWalk h
                · split
                  · exact .indexIntersect h
                  · split
                    · exact .indexPart h
                    · exact trivial

theorem Mach.Canonical.finishJob {m : Mach} {j : Job} {c : Cont} (h : m.Canonical) : (m.finishJob j c).Canonical := by
  unfold Machine.Mach.finishJob
  dsimp only
  split
  · refine .of_ok ?_ ‹_›
    split
    · exact .runCollective h
    · refine .andThenLanded (.jobPayload h) fun _ h => .andThen (.jobSignals h) fun _ h => ?_
      split
      · exact h.stageDone
      · exact h
  · refine .jobFails ?_
    split
    · exact h.stageDone
    · exact h
  · exact h

theorem Mach.Canonical.sendNotice {m : Mach} {job tgt die : ℕ} {word : Word} {st : Option (List Byte) × Bool} (h : m.Canonical) :
    (m.sendNotice job tgt die word st).Canonical := by
  unfold Machine.Mach.sendNotice
  dsimp only
  split
  · exact h.sendTo.sendTo
  · exact h.sendTo

theorem Holds.sendNotices {m : Mach} {j : Job} {c : Cont} (h : m.Canonical) : Holds Mach.Canonical (m.sendNotices j c) := by
  unfold Machine.Mach.sendNotices
  dsimp only
  refine .seq fun _ => .seq fun _ => .seq fun _ => .seq fun _ => ?_
  split
  · split
    · exact h
    · exact .foldl (fun _ _ h => h.sendNotice) _ h
  · split
    · exact h
    · exact .foldl (fun _ _ h => h.sendNotice) _ h

theorem Mach.Canonical.exnCount {m : Mach} {job : Option ℕ} (h : m.Canonical) : (m.exnCount job).Canonical := by
  unfold Machine.Mach.exnCount
  split
  · exact h
  · exact h

theorem Mach.Canonical.remoteDone {m : Mach} {n : ℕ} (h : m.Canonical) : (m.remoteDone n).Canonical := by
  unfold Machine.Mach.remoteDone
  split
  · exact h
  · split
    · exact h.exnCount
    · exact h

theorem Mach.Canonical.partDone {m : Mach} {job : Option ℕ} {word : Word} (h : m.Canonical) : (m.partDone job word).Canonical := by
  unfold Machine.Mach.partDone
  split
  · exact h.exnCount
  · exact h.sendTo

theorem Mach.Canonical.refuseNotice {m : Mach} {job : Option ℕ} {word : Word} (h : m.Canonical) : (m.refuseNotice job word).Canonical := by
  unfold Machine.Mach.refuseNotice
  split
  · split
    · exact h
    · exact h
  · exact h.sendTo

theorem Mach.Canonical.exnRefused {m : Mach} {n : ℕ} (h : m.Canonical) : (m.exnRefused n).Canonical := by
  unfold Machine.Mach.exnRefused
  split
  · exact h
  · split
    · exact h.jobFails
    · exact h

theorem Mach.Canonical.matchRx {m : Mach} {r : RxReg} {word : ℕ} (h : m.Canonical) : (m.matchRx r word).Canonical := by
  unfold Machine.Mach.matchRx
  dsimp only
  split
  · exact h
  · split
    · exact h
    · refine .foldl (fun _ _ h => ?_) _ h
      split
      · exact h
      · split
        · split
          · exact h.winWrite.winWrite
          · exact h.winWrite
        · exact h

theorem Mach.Canonical.logNotice {m : Mach} {die word : ℕ} {info : Word} (h : m.Canonical) : (m.logNotice die word info).Canonical :=
  h.logError

theorem Mach.Canonical.putHeader {m : Mach} {die : ℕ} {ps : List (ℕ × ℕ)} {a : Arena} {slot l p : ℕ} {b : List Byte} {rel : Bool}
    (h : m.Canonical) :
    (m.putHeader die ps a slot l p b rel).Canonical := by
  unfold Machine.Mach.putHeader
  dsimp only
  exact h.homePrep.homeWrite.writeStaged

theorem Mach.Canonical.linkLayer {m : Mach} {die : ℕ} {e : SlotEntry} {a : Arena} {slot x l p : ℕ} (h : m.Canonical) :
    (m.linkLayer die e a slot x l p).1.Canonical := by
  unfold Machine.Mach.linkLayer
  split
  · exact h
  · split
    · exact h
    · extract_lets m1 hd i m2
      have h1 : m1.Canonical := h.homePrep
      have h2 : m2.Canonical := h1.putHeader
      clear_value m2 hd m1
      split
      · exact h1
      · exact h2.recordCount

theorem Mach.Canonical.receiveNotice {m : Mach} {n : Notice} (h : m.Canonical) : (m.receiveNotice n).Canonical := by
  unfold Machine.Mach.receiveNotice
  dsimp only
  split
  · exact .refuseNotice (.logNotice (.partDone (.foldl (fun _ _ h => h.matchRx) _ h)))
  · split
    · exact .refuseNotice (.logNotice (.partDone (.foldl (fun _ _ h => h.matchRx) _ h)))
    · split
      · split
        · refine .foldlPair (fun _ _ h => ?_) _ (.homeWrite (.homePrep (.partDone (.foldl (fun _ _ h => h.matchRx) _ h))))
          split
          · exact h.linkLayer
          · exact h.linkLayer.logNotice
        · refine .refuseNotice ?_
          refine .foldlPair (fun _ _ h => ?_) _ (.homeWrite (.homePrep (.partDone (.foldl (fun _ _ h => h.matchRx) _ h))))
          split
          · exact h.linkLayer
          · exact h.linkLayer.logNotice
      · split
        · refine .foldlPair (fun _ _ h => ?_) _ (.homeWrite (.homePrep (.partDone (.foldl (fun _ _ h => h.matchRx) _ h))))
          split
          · exact h.linkLayer
          · exact h.linkLayer.logNotice
        · refine .refuseNotice ?_
          refine .foldlPair (fun _ _ h => ?_) _ (.homeWrite (.homePrep (.partDone (.foldl (fun _ _ h => h.matchRx) _ h))))
          split
          · exact h.linkLayer
          · exact h.linkLayer.logNotice

theorem Mach.Canonical.noticeAt {m : Mach} {die : ℕ} {ext : Option Word} (h : m.Canonical) : (m.noticeAt die ext).Canonical := by
  unfold Machine.Mach.noticeAt
  split
  · dsimp only
    split
    · exact h
    · split
      · exact h
      · exact .receiveNotice h
  · split
    · exact h
    · split
      · exact h
      · exact .receiveNotice h

theorem Mach.Canonical.landState {m : Mach} {s : ExitState} {e : SlotEntry} {x : ℕ} {bytes : List Byte} (h : m.Canonical) :
    (m.landState s e x bytes).Canonical := by
  unfold Machine.Mach.landState
  dsimp only
  exact .partDone (.homeWrite (.homePrep (Mem.Canonical.landParts h)))

theorem Mach.Canonical.stateAt {m : Mach} {die : ℕ} {ext : Option (Word × List Byte × Bool)} (h : m.Canonical) :
    (m.stateAt die ext).Canonical := by
  unfold Machine.Mach.stateAt
  split
  · exact h
  · dsimp only
    split
    · split
      · split
        · exact .landState h
        · exact .refuseNotice h
      · split
        · exact .landState h
        · exact .refuseNotice h
    · exact h

theorem Mach.Canonical.readHeader? {m m' : Mach} {die : ℕ} {e : SlotEntry} {a : Arena} {slot l p : ℕ} {b : List Byte} (h : m.Canonical)
    (he : m.readHeader? die e a slot l p = some (m', b)) : m'.Canonical := by
  unfold Machine.Mach.readHeader? at he
  split at he
  · cases he
  · cases he
    exact h.homePrep.homeAcquire

theorem Mach.Canonical.presentFold {f : Option Mach → ℕ → Option Mach} (hnone : ∀ p, f none p = none)
    (hf : ∀ m m' p, m.Canonical → f (some m) p = some m' → m'.Canonical) (l : List ℕ) :
    ∀ {m m' : Mach}, m.Canonical → l.foldl f (some m) = some m' → m'.Canonical := by
  have hstay : ∀ l : List ℕ, l.foldl f none = none := fun l => by
    induction l with
    | nil => rfl
    | cons p r ih => rw [List.foldl_cons, hnone, ih]
  induction l with
  | nil => exact fun h he => Option.some.inj he ▸ h
  | cons p r ih =>
    intro m m' h he
    rw [List.foldl_cons] at he
    cases hp : f (some m) p with
    | none => rw [hp, hstay] at he; cases he
    | some m1 => rw [hp] at he; exact ih (hf m m1 p h hp) he

theorem Mach.Canonical.present {m m' : Mach} {die : ℕ} {e : SlotEntry} {a : Arena} {slot l first count : ℕ} (h : m.Canonical)
    (he : m.present die e a slot l first count = some m') : m'.Canonical := by
  refine Mach.Canonical.presentFold (fun _ => rfl) (fun m m' p h he => ?_) _ h he
  dsimp only at he
  split at he
  · cases he
  · split at he
    · cases he
      exact h.readHeader? ‹_›
    · cases he

theorem Mach.Canonical.request {m : Mach} {r : AttRead} (h : m.Canonical) : (m.request r).Canonical := by
  unfold Machine.Mach.request
  split
  · exact h
  · exact h

theorem Mach.Canonical.seqFails {m : Mach} {k : ℕ} {t : Trap} (h : m.Canonical) : (m.seqFails k t).Canonical := h.tidy.seqFails.2.1

theorem Mach.Canonical.readerFails {m : Mach} {who : Reader} {t : Trap} (h : m.Canonical) : (m.readerFails who t).Canonical :=
  h.tidy.readerFails.2.1

theorem Mach.Canonical.fillFails {m : Mach} {die slot l p headerPa : ℕ} (h : m.Canonical) : (m.fillFails die slot l p headerPa).Canonical :=
  h.tidy.fillFails.2.1

theorem Mach.Canonical.abandonFill {m : Mach} {f : Fill} (h : m.Canonical) : (m.abandonFill f).Canonical := h.tidy.abandonFill.2.1

theorem Mach.Canonical.fillGap {m : Mach} {slot l p : ℕ} (h : m.Canonical) : (m.fillGap slot l p).Canonical := by
  unfold Machine.Mach.fillGap
  split
  · exact h
  · dsimp only
    split
    · exact h
    · split
      · exact h
      · split
        · exact h
        · split
          · exact h
          · split
            · exact h
            · split
              · exact h.homePrep.homePrep.homeAcquire.fillFails
              · exact h.homePrep.homePrep.homeAcquire.putHeader

theorem Mach.Canonical.fillDone {m : Mach} {slot l p : ℕ} (h : m.Canonical) : (m.fillDone slot l p).Canonical := by
  unfold Machine.Mach.fillDone
  split
  · exact h
  · extract_lets m0 m1 die i
    have h1 : m1.Canonical := h
    clear_value m1
    split
    · exact h1.abandonFill
    · split
      · exact h
      · split
        · exact h1.abandonFill
        · extract_lets blk ko vo
          split
          · exact h1.abandonFill
          · next m2 hm2 =>
            have h2 : m2.Canonical := h1.slotWrite hm2
            split
            · exact h2.abandonFill
            · next m3 hm3 =>
              extract_lets m4 m5 m6 hd hd'
              have h6 : m6.Canonical := (h2.slotWrite hm3).writeStaged.writeStaged.homePrep
              clear_value m6
              exact h6.putHeader.dropRecord

theorem Mach.Canonical.fillLate {m : Mach} {who : Reader} {p : ℕ} (h : m.Canonical) : (m.fillLate who p).Canonical := by
  unfold Machine.Mach.fillLate
  split
  · split
    · split
      · exact h.jobFails
      · exact h
    · exact h.seqFails
  · exact h

theorem Holds.fillComplete {m : Mach} {j : Job} (h : m.Canonical) : Holds Mach.Canonical (m.fillComplete j) := by
  unfold Machine.Mach.fillComplete
  dsimp only
  refine .seq fun _ => .foldlM (fun _ _ h => ?_) _ h
  split
  · exact h.present ‹_›
  · exact trivial

theorem Mach.Canonical.requestFill {m : Mach} {n slot l first count : ℕ} (h : m.Canonical) :
    (m.requestFill n slot l first count).Canonical := by
  unfold Machine.Mach.requestFill
  split
  · exact h
  · dsimp only
    split
    · exact h
    · split
      · split
        · exact h.request
        · exact h
      · exact h.jobFails
      · exact h

end Sys2Proof.Machine
end


section
/-! SUPPORT. The canonical form of memory through the store's walker (R232 to R236). -/

namespace Sys2Proof.Machine

theorem SkM.Keeps.skM : SkM.Keeps Machine.skM := fun _ h => h

theorem SkM.Keeps.skFail {α : Type} {c : Cause} : SkM.Keeps (Machine.skFail c : SkM α) := fun _ h => h

theorem SkM.Keeps.skFailIf {b : Bool} {c : Cause} : SkM.Keeps (Machine.skFailIf b c) := by
  unfold Machine.skFailIf
  split
  · exact .skFail
  · exact .pure

theorem SkM.Keeps.skRead {k : SkJob} {va n : ℕ} : SkM.Keeps (Machine.skRead k va n) := .liftJ

theorem SkM.Keeps.skGet {k : SkJob} {va n : ℕ} : SkM.Keeps (Machine.skGet k va n) := .bind .skRead fun _ => .pure

theorem SkM.Keeps.skPut {k : SkJob} {va : ℕ} {b : List Byte} : SkM.Keeps (Machine.skPut k va b) := .stepJ fun _ h => .jobWrite h

theorem SkM.Keeps.skDesc {k : SkJob} : SkM.Keeps (Machine.skDesc k) := by
  unfold Machine.skDesc
  refine .bind .skM fun _ => ?_
  dsimp only
  exact .bind .skFailIf fun _ => .bind .skRead fun _ => .bind .skFailIf fun _ => .pure

theorem SkM.Keeps.skFreeList {k : SkJob} {d : SkDesc} {free head : ℕ} : SkM.Keeps (Machine.skFreeList k d free head) :=
  .bind .skPut fun _ => .bind .skPut fun _ => .pure

theorem SkM.Keeps.skNode {k : SkJob} {a : ℕ} : SkM.Keeps (Machine.skNode k a) := .bind .skRead fun _ => .pure

theorem SkM.Keeps.skPath {k : SkJob} {key : ℕ} (n : ℕ) :
    ∀ {node d : ℕ} {path : List (ℕ × ℕ)}, SkM.Keeps (Machine.skPath k key n node d path) := by
  induction n with
  | zero => exact .skFail
  | succ n ih =>
    intro node d path
    unfold Machine.skPath
    refine .bind .skGet fun _ => ?_
    dsimp only
    split
    · exact .pure
    · exact ih

theorem SkM.Keeps.skWalk {k : SkJob} {d : SkDesc} {key : ℕ} : SkM.Keeps (Machine.skWalk k d key) := .skPath _

theorem SkM.Keeps.skLookup {k : SkJob} {d : SkDesc} {key : ℕ} : SkM.Keeps (Machine.skLookup k d key) := by
  unfold Machine.skLookup
  refine .bind .skWalk fun _ => ?_
  split
  · exact .bind .skNode fun _ => .pure
  · exact .pure

theorem SkM.Keeps.skValid {k : SkJob} {d : SkDesc} {a : ℕ} : SkM.Keeps (Machine.skValid k d a) := by
  unfold Machine.skValid
  split
  · exact .pure
  · refine .bind .skNode fun _ => ?_
    split
    · exact .pure
    · exact .bind .skLookup fun _ => .pure

theorem SkM.Keeps.skTokens {k : SkJob} {g : ℕ} : SkM.Keeps (Machine.skTokens k g) := .liftJ

theorem SkM.Keeps.skCollide {k : SkJob} {d : SkDesc} : SkM.Keeps (Machine.skCollide k d) := .bind .skPut fun _ => .pure

theorem SkM.Keeps.findOne {k : SkJob} {d : SkDesc} {b prev g : ℕ} : SkM.Keeps (Machine.findOne k d b prev g) := by
  unfold Machine.findOne
  split
  · exact .pure
  · refine .bind .skTokens fun _ => ?_
    dsimp only
    refine .bind .skLookup fun _ => ?_
    split
    · exact .pure
    · refine .bind .liftJ fun _ => ?_
      split
      · exact .bind (.stepJ fun _ h => h) fun _ => .pure
      · split
        · exact .bind .skCollide fun _ => .pure
        · exact .bind .skPut fun _ => .bind .skPut fun _ => .bind .skPut fun _ => .pure

theorem Mach.Canonical.findLoop {k : SkJob} (n : ℕ) : ∀ {d : SkDesc} {a prev : ℕ} {got : List ℕ} {m : Mach}, m.Canonical →
    (Machine.findLoop k n d a prev got m).2.Canonical := by
  induction n with
  | zero => exact fun h => h
  | succ n ih =>
    intro d a prev got m h
    have h1 : (Machine.findOne k d a prev got.length m).2.Canonical := SkM.Keeps.findOne m h
    unfold Machine.findLoop
    split
    · exact .of_snd h1 ‹_›
    · exact .of_snd h1 ‹_›
    · exact ih (.of_snd h1 ‹_›)

theorem SkM.Keeps.resumeBlock {k : SkJob} {a : Arena} {slot src dst : ℕ} : SkM.Keeps (Machine.resumeBlock k a slot src dst) :=
  .bind .skRead fun _ => .bind .liftJ fun _ => .bind (.stepJ fun _ h => .jobWriteMarked h) fun _ => .skPut

theorem SkM.Keeps.eachSk {α : Type} {f : α → SkM Unit} (hf : ∀ x, (f x).Keeps) (l : List α) : SkM.Keeps (Machine.eachSk f l) := by
  induction l with
  | nil => exact .pure
  | cons x r ih => exact .bind (hf x) fun _ => ih

theorem SkM.Keeps.resumeAll {k : SkJob} {got : List ℕ} : SkM.Keeps (Machine.resumeAll k got) := by
  unfold Machine.resumeAll
  refine .bind .skM fun _ => ?_
  dsimp only
  refine .bind .liftJ fun _ => ?_
  split
  · exact fun _ h => h
  · exact .bind .liftJ fun _ => .bind .skFailIf fun _ => .eachSk (fun _ => .bind .skNode fun _ => .eachSk (fun _ => .eachSk
      (fun _ => .resumeBlock) _) _) _

theorem SkM.Keeps.unref {k : SkJob} {got : List ℕ} : SkM.Keeps (Machine.unref k got) := .eachSk (fun _ => .bind .skGet fun _ => .skPut) _

theorem SkM.Keeps.findAll {k : SkJob} {d : SkDesc} :
    SkM.Keeps (fun m => (.ok (Machine.findLoop k k.j.card.rows d 0 0 [] m).1, (Machine.findLoop k k.j.card.rows d 0 0 [] m).2)) :=
  fun _ h => Mach.Canonical.findLoop _ h

theorem SkM.Keeps.skFind {k : SkJob} : SkM.Keeps (Machine.skFind k) := by
  unfold Machine.skFind
  refine .bind .liftJ fun _ => .bind .skDesc fun d => .bind .findAll fun r => ?_
  extract_lets last rest
  have hlast : ∀ u, (last u).Keeps := fun _ => .stepJ fun _ h => .jobWrite h
  have hrest : rest.Keeps := by
    unfold rest
    split
    · exact fun _ h => h
    · split
      · exact .bind .resumeAll fun u => hlast u
      · exact hlast ()
  clear_value rest last
  intro m h
  have hm := hrest m h
  dsimp only
  split
  · next he =>
    rw [he] at hm
    exact SkM.Keeps.unref _ hm
  · exact hm

theorem SkM.Keeps.slotsNeeded {k : SkJob} {d : SkDesc} {key : ℕ} : SkM.Keeps (Machine.slotsNeeded k d key) := by
  unfold Machine.slotsNeeded
  refine .bind .skWalk fun _ => ?_
  split
  · exact .pure
  · refine .bind .skNode fun _ => ?_
    dsimp only
    exact .pure

theorem SkM.Keeps.allNodes {k : SkJob} (n : ℕ) : ∀ {l : List ℕ}, SkM.Keeps (Machine.allNodes k n l) := by
  induction n with
  | zero => exact .pure
  | succ n ih =>
    intro l
    cases l with
    | nil => exact .pure
    | cons node rest => exact .bind .skRead fun _ => .bind ih fun _ => .pure

theorem SkM.Keeps.best {k : SkJob} (l : List ℕ) : ∀ {b : Option (ℕ × SkNode)}, SkM.Keeps (skVictim.best k l b) := by
  induction l with
  | nil => exact .pure
  | cons a r ih => exact .bind .skNode fun _ => ih

theorem SkM.Keeps.skVictim {k : SkJob} {d : SkDesc} : SkM.Keeps (Machine.skVictim k d) := .bind (.allNodes _) fun l => .best l

theorem SkM.Keeps.skFree {k : SkJob} {d : SkDesc} {a : ℕ} : SkM.Keeps (Machine.skFree k d a) := .bind .skPut fun _ => .skFreeList

theorem SkM.Keeps.freeEmpty {k : SkJob} (l : List (ℕ × ℕ)) : ∀ {d : SkDesc}, SkM.Keeps (Machine.freeEmpty k d l) := by
  induction l with
  | nil => exact .pure
  | cons p r ih =>
    intro d
    cases r with
    | nil => exact .pure
    | cons up rest =>
      refine .bind .skRead fun b => ?_
      split
      · exact .pure
      · exact .bind .skPut fun _ => .bind .skFree fun _ => ih

theorem SkM.Keeps.skEvict {k : SkJob} {d : SkDesc} {a : ℕ} {n : SkNode} : SkM.Keeps (Machine.skEvict k d a n) := by
  unfold Machine.skEvict
  refine .bind .skWalk fun _ => ?_
  split
  · exact .pure
  · refine .bind .skPut fun _ => ?_
    dsimp only
    split
    · exact .bind .skFree fun _ => .freeEmpty _
    · exact .bind .skGet fun _ => .bind .skPut fun _ => .bind .skFree fun _ => .freeEmpty _

theorem SkM.Keeps.takeSlots {k : SkJob} {d : SkDesc} (n : ℕ) : ∀ {a : ℕ}, SkM.Keeps (Machine.takeSlots k d n a) := by
  induction n with
  | zero => exact .pure
  | succ n ih => exact .bind .skFailIf fun _ => .bind .skGet fun _ => .bind ih fun _ => .pure

theorem SkM.Keeps.putSplit {k : SkJob} {key okey a b : ℕ} (l : List ℕ) : ∀ {d : ℕ}, SkM.Keeps (Machine.putSplit k key okey a b d l) := by
  induction l with
  | nil => exact .pure
  | cons i rest ih => exact .bind ih fun _ => .skPut

theorem SkM.Keeps.makeRoom {k : SkJob} {key : ℕ} (n : ℕ) : ∀ {d : SkDesc} {ev : List ℕ}, SkM.Keeps (Machine.makeRoom k key n d ev) := by
  induction n with
  | zero => exact .pure
  | succ n ih =>
    intro d ev
    refine .bind .slotsNeeded fun _ => ?_
    split
    · exact .pure
    · refine .bind .skVictim fun v => ?_
      split
      · exact .pure
      · exact .bind .skEvict fun _ => ih

theorem SkM.Keeps.evictedName {ev : List ℕ} : SkM.Keeps (Machine.evictedName ev) := by
  intro m h
  unfold Machine.evictedName
  split
  · exact h
  · exact h

theorem SkM.Keeps.deposit {k : SkJob} {d : SkDesc} {key parent depth : ℕ} {toks : List (Byte × Bool)} :
    SkM.Keeps (Machine.deposit k d key parent depth toks) := by
  unfold Machine.deposit
  refine .bind (.makeRoom _) fun _ => .bind .evictedName fun _ => ?_
  split
  · exact .pure
  · dsimp only
    refine .bind ?_ fun _ => ?_
    · split
      · exact .pure
      · exact .bind .skValid fun _ => .pure
    · refine .bind .skFailIf fun _ => .bind (.takeSlots _) fun _ => ?_
      refine .bind (.stepJ fun _ h => .jobWriteMarked h) fun _ => .bind .skPut fun _ => ?_
      split
      · refine .bind .skPut fun _ => ?_
        split
        · exact .bind .skFreeList fun _ => .pure
        · exact .bind .skGet fun _ => .bind .skPut fun _ => .bind .skFreeList fun _ => .pure
      · refine .bind (.putSplit _) fun _ => .bind .skPut fun _ => ?_
        split
        · exact .bind .skFreeList fun _ => .pure
        · exact .bind .skGet fun _ => .bind .skPut fun _ => .bind .skFreeList fun _ => .pure

theorem SkM.Keeps.skPutOp {k : SkJob} : SkM.Keeps (Machine.skPutOp k) := by
  unfold Machine.skPutOp
  refine .bind .liftJ fun _ => .bind .skDesc fun _ => ?_
  dsimp only
  refine .bind ?_ fun _ => ?_
  · split
    · exact .pure
    · refine .bind .skValid fun _ => ?_
      split
      · exact .skFail
      · exact .pure
  · refine .bind .skTokens fun _ => .bind .skLookup fun _ => .bind ?_ fun _ => .stepJ fun _ h => .jobWrite h
    split
    · refine .bind .skRead fun _ => ?_
      split
      · exact .bind .skPut fun _ => .pure
      · exact .bind .skCollide fun _ => .pure
    · exact .deposit

theorem SkM.Keeps.all {k : SkJob} {d : SkDesc} (l : List ℕ) : SkM.Keeps (skList.all k d l) := by
  induction l with
  | nil => exact .pure
  | cons a r ih =>
    refine .bind .skValid fun v => ?_
    split
    · exact .skFail
    · exact .bind ih fun _ => .pure

theorem SkM.Keeps.skList {k : SkJob} {d : SkDesc} : SkM.Keeps (Machine.skList k d) := .bind .liftJ fun _ => .all _

theorem SkM.Keeps.skRelease {k : SkJob} : SkM.Keeps (Machine.skRelease k) :=
  .bind .skDesc fun _ => .bind .skList fun _ => .bind .skFailIf fun _ => .eachSk (fun _ => .bind .skGet fun _ => .skPut) _

theorem SkM.Keeps.skPin {k : SkJob} : SkM.Keeps (Machine.skPin k) :=
  .bind .skDesc fun _ => .bind .skList fun _ => .eachSk (fun _ => .skPut) _

theorem Mach.Canonical.walkStore {m : Mach} (h : m.Canonical) : m.walkStore.Canonical := by
  unfold Machine.Mach.walkStore
  split
  · exact h
  · split
    · exact h
    · split
      · exact h
      · split
        · exact h
        · extract_lets m0 k op
          have h0 : m0.Canonical := .withMem h.catchUp
          have hop : op.Keeps := by
            unfold op
            split
            · exact .skFind
            · split
              · exact .skPutOp
              · split
                · exact .skRelease
                · exact .skPin
          have h1 : (op m0).2.Canonical := hop m0 h0
          clear_value op m0
          split
          · next m1 he =>
            have hx : (m1.mem.spread 0).Canonical := (Mach.Canonical.of_snd h1 he).spread
            generalize m1.mem.spread 0 = x at hx
            extract_lets m2
            have h2 : m2.Canonical := hx
            clear_value m2
            split
            · exact h2.setJob
            · exact h2
          · next t m1 he =>
            have hx : (m1.mem.spread 0).Canonical := (Mach.Canonical.of_snd h1 he).spread
            generalize m1.mem.spread 0 = x at hx
            exact .jobFails (m := { m1 with mem := x, skein := _ }) hx
          · exact h

end Sys2Proof.Machine
end


section
/-! SUPPORT. The canonical form of memory through the D-slot instructions, the engines' events and the vector commands. -/

namespace Sys2Proof.Machine

theorem NextCanonical.execDcopy {gu : Guard} {card : GF} {ac : BitVec 6} {σ : State} (h : σ.Canonical) :
    NextCanonical (Machine.execDcopy gu card ac σ) := .runSlot .issueJob h

theorem NextCanonical.execDmcast {gu : Guard} {card : GF} {mm : BitVec 4} {ac : BitVec 6} {σ : State} (h : σ.Canonical) :
    NextCanonical (Machine.execDmcast gu card mm ac σ) := .runSlot .issueJob h

theorem NextCanonical.execDgath {gu : Guard} {card : GF} {ac : BitVec 6} {σ : State} (h : σ.Canonical) :
    NextCanonical (Machine.execDgath gu card ac σ) := .runSlot .issueJob h

theorem NextCanonical.execDscat {gu : Guard} {card : GF} {ac : BitVec 6} {σ : State} (h : σ.Canonical) :
    NextCanonical (Machine.execDscat gu card ac σ) := .runSlot .issueJob h

theorem NextCanonical.execDscadd {gu : Guard} {card : GF} {ac : BitVec 6} {σ : State} (h : σ.Canonical) :
    NextCanonical (Machine.execDscadd gu card ac σ) := .runSlot .issueJob h

theorem NextCanonical.execDred {gu : Guard} {card : GF} {ac : BitVec 6} {σ : State} (h : σ.Canonical) :
    NextCanonical (Machine.execDred gu card ac σ) := .runSlot .issueJob h

theorem NextCanonical.execDbcast {gu : Guard} {card : GF} {ac : BitVec 6} {σ : State} (h : σ.Canonical) :
    NextCanonical (Machine.execDbcast gu card ac σ) := .runSlot .issueJob h

theorem NextCanonical.execDallg {gu : Guard} {card : GF} {ac : BitVec 6} {σ : State} (h : σ.Canonical) :
    NextCanonical (Machine.execDallg gu card ac σ) := .runSlot .issueJob h

theorem NextCanonical.execDembag {gu : Guard} {card : GF} {ac : BitVec 6} {σ : State} (h : σ.Canonical) :
    NextCanonical (Machine.execDembag gu card ac σ) := .runSlot .issueJob h

theorem NextCanonical.execDstage {gu : Guard} {card : GF} {ac : BitVec 6} {σ : State} (h : σ.Canonical) :
    NextCanonical (Machine.execDstage gu card ac σ) := .runSlot .issueJob h

theorem NextCanonical.execPack {gu : Guard} {card : GF} {ac : BitVec 6} {σ : State} (h : σ.Canonical) :
    NextCanonical (Machine.execPack gu card ac σ) := .runSlot .issueJob h

theorem NextCanonical.execUnpack {gu : Guard} {card : GF} {ac : BitVec 6} {σ : State} (h : σ.Canonical) :
    NextCanonical (Machine.execUnpack gu card ac σ) := .runSlot .issueJob h

theorem NextCanonical.execExn {gu : Guard} {card : GF} {ac : BitVec 6} {σ : State} (h : σ.Canonical) :
    NextCanonical (Machine.execExn gu card ac σ) := .runSlot .issueJob h

theorem NextCanonical.execKvfill {gu : Guard} {card : GF} {ac : BitVec 6} {σ : State} (h : σ.Canonical) :
    NextCanonical (Machine.execKvfill gu card ac σ) := .runSlot .issueJob h

theorem NextCanonical.execSkfind {gu : Guard} {card : GF} {ac : BitVec 6} {σ : State} (h : σ.Canonical) :
    NextCanonical (Machine.execSkfind gu card ac σ) := .runSlot .issueJob h

theorem NextCanonical.execSkput {gu : Guard} {card : GF} {ac : BitVec 6} {σ : State} (h : σ.Canonical) :
    NextCanonical (Machine.execSkput gu card ac σ) := .runSlot .issueJob h

theorem NextCanonical.execSkrel {gu : Guard} {card : GF} {ac : BitVec 6} {σ : State} (h : σ.Canonical) :
    NextCanonical (Machine.execSkrel gu card ac σ) := .runSlot .issueJob h

theorem NextCanonical.execSkpin {gu : Guard} {card : GF} {ac : BitVec 6} {σ : State} (h : σ.Canonical) :
    NextCanonical (Machine.execSkpin gu card ac σ) := .runSlot .issueJob h

theorem NextCanonical.execIxwalk {gu : Guard} {card : GF} {ac : BitVec 6} {σ : State} (h : σ.Canonical) :
    NextCanonical (Machine.execIxwalk gu card ac σ) := .runSlot .issueJob h

theorem NextCanonical.execIxsect {gu : Guard} {card : GF} {ac : BitVec 6} {σ : State} (h : σ.Canonical) :
    NextCanonical (Machine.execIxsect gu card ac σ) := .runSlot .issueJob h

theorem NextCanonical.execIxpart {gu : Guard} {card : GF} {ac : BitVec 6} {σ : State} (h : σ.Canonical) :
    NextCanonical (Machine.execIxpart gu card ac σ) := .runSlot .issueJob h

theorem NextCanonical.execDfence {gu : Guard} {slots : BitVec 6} {σ : State} (h : σ.Canonical) :
    NextCanonical (Machine.execDfence gu slots σ) := .runSlot (.bind .getM fun _ => .modC) h

theorem Mach.Canonical.completeJob {m : Mach} {n : ℕ} (h : m.Canonical) : (m.completeJob n).Canonical := by
  unfold Machine.Mach.completeJob
  split
  · exact h
  · split
    · exact h
    · extract_lets signal
      have hsignal : ∀ (m : Mach) (rows : ℕ), m.Canonical → (signal m rows).Canonical := by
        intro m rows h
        unfold signal
        split
        · exact .of_ok (.jobSignals h) ‹_›
        · exact h.jobFails
        · exact h
      clear_value signal
      refine .ite h (.ite (.ite (.ite h ?_) (.ite (hsignal _ _ h) h)) (.ite h (.ite ?_ (.ite (.ite (hsignal _ _ h) h) h.finishJob))))
      · split
        · exact .of_ok (.sendNotices h) ‹_›
        · exact h.jobFails
        · exact h
      · split
        · next m1 he =>
          have h1 : m1.Canonical := .of_ok (.fillComplete h) he
          exact hsignal _ _ h1
        · exact h.jobFails
        · exact h

theorem NextCanonical.execVectorCommandCompletion {cont : ℕ} {σ : State} (h : σ.Canonical) :
    NextCanonical (Machine.execVectorCommandCompletion cont σ) := by
  unfold Machine.execVectorCommandCompletion
  refine .runEvent (fun _ h => ?_) h
  split
  · exact h
  · split
    · exact h.landV
    · exact h

theorem NextCanonical.execJobChannelStart {die : ℕ} {σ : State} (h : σ.Canonical) : NextCanonical (Machine.execJobChannelStart die σ) :=
  .runEvent (fun _ h => h.startJob) h

theorem NextCanonical.execJobCompletion {job : ℕ} {σ : State} (h : σ.Canonical) : NextCanonical (Machine.execJobCompletion job σ) :=
  .runEvent (fun _ h => h.completeJob) h

theorem NextCanonical.execFollowOnIssue {job : ℕ} {σ : State} (h : σ.Canonical) : NextCanonical (Machine.execFollowOnIssue job σ) :=
  .runEvent (fun _ h => h.issueFollow) h

theorem NextCanonical.execStagingBufferSelect {job : ℕ} {σ : State} (h : σ.Canonical) :
    NextCanonical (Machine.execStagingBufferSelect job σ) := .runEvent (fun _ h => h.selectBuffer) h

theorem NextCanonical.execExitNoticeReceive {die : ℕ} {ext : Option Word} {σ : State} (h : σ.Canonical) :
    NextCanonical (Machine.execExitNoticeReceive die ext σ) := .runEvent (fun _ h => h.noticeAt) h

theorem NextCanonical.execExitStateArrival {die : ℕ} {ext : Option (Word × List Byte × Bool)} {σ : State} (h : σ.Canonical) :
    NextCanonical (Machine.execExitStateArrival die ext σ) := .runEvent (fun _ h => h.stateAt) h

theorem NextCanonical.execExnRefusal {job : ℕ} {σ : State} (h : σ.Canonical) : NextCanonical (Machine.execExnRefusal job σ) :=
  .runEvent (fun _ h => h.exnRefused) h

theorem NextCanonical.execDarnFill {slot layer pos : ℕ} {σ : State} (h : σ.Canonical) :
    NextCanonical (Machine.execDarnFill slot layer pos σ) := .runEvent (fun _ h => h.fillGap) h

theorem NextCanonical.execDarnFillComplete {slot layer pos : ℕ} {σ : State} (h : σ.Canonical) :
    NextCanonical (Machine.execDarnFillComplete slot layer pos σ) := .runEvent (fun _ h => h.fillDone) h

theorem NextCanonical.execFillTimeout {waiter pos : ℕ} {σ : State} (h : σ.Canonical) :
    NextCanonical (Machine.execFillTimeout waiter pos σ) := .runEvent (fun _ h => h.fillLate) h

theorem NextCanonical.execSkeinOperationExecute {σ : State} (h : σ.Canonical) : NextCanonical (Machine.execSkeinOperationExecute σ) :=
  .runEvent (fun _ h => h.walkStore) h

theorem NextCanonical.execVsetlImm {gu : Guard} {m : BitVec 16} {σ : State} (h : σ.Canonical) :
    NextCanonical (Machine.execVsetlImm gu m σ) := .runSlot .modC h

theorem NextCanonical.execVsetlReg {gu : Guard} {d : GF} {σ : State} (h : σ.Canonical) : NextCanonical (Machine.execVsetlReg gu d σ) :=
  .runSlot (.bind .readG fun _ => .modC) h

theorem NextCanonical.execVmov {gu : Guard} {a b : GF} {l : Bool} {σ : State} (h : σ.Canonical) :
    NextCanonical (Machine.execVmov gu a b l σ) := .runSlot .vElems h

theorem Act.Keeps.fillWith {a b : GF} : Act.Keeps (Machine.fillWith a b) := by
  unfold Machine.fillWith
  refine .vRun fun _ _ => .bind .raiseIf fun _ => .bind .readG fun _ => .bind .readG fun _ => ?_
  dsimp only
  exact .bind .vCheck fun _ => .bind .getM fun _ => .putV

theorem NextCanonical.execVfill {gu : Guard} {a b : GF} {σ : State} (h : σ.Canonical) : NextCanonical (Machine.execVfill gu a b σ) :=
  .runSlot .fillWith h

theorem NextCanonical.execVadd {gu : Guard} {a b : GF} {l : Bool} {σ : State} (h : σ.Canonical) :
    NextCanonical (Machine.execVadd gu a b l σ) := .runSlot .vTwo h

theorem NextCanonical.execVsub {gu : Guard} {a b : GF} {l : Bool} {σ : State} (h : σ.Canonical) :
    NextCanonical (Machine.execVsub gu a b l σ) := .runSlot .vTwo h

theorem NextCanonical.execVmul {gu : Guard} {a b : GF} {l : Bool} {σ : State} (h : σ.Canonical) :
    NextCanonical (Machine.execVmul gu a b l σ) := .runSlot .vTwo h

theorem NextCanonical.execVfma {gu : Guard} {a b : GF} {l : Bool} {σ : State} (h : σ.Canonical) :
    NextCanonical (Machine.execVfma gu a b l σ) := .runSlot .vFused h

theorem NextCanonical.execVmin {gu : Guard} {a b : GF} {l : Bool} {σ : State} (h : σ.Canonical) :
    NextCanonical (Machine.execVmin gu a b l σ) := .runSlot .vPick h

theorem NextCanonical.execVmax {gu : Guard} {a b : GF} {l : Bool} {σ : State} (h : σ.Canonical) :
    NextCanonical (Machine.execVmax gu a b l σ) := .runSlot .vPick h

theorem NextCanonical.execVabs {gu : Guard} {a : GF} {l : Bool} {σ : State} (h : σ.Canonical) : NextCanonical (Machine.execVabs gu a l σ) :=
  .runSlot .vSign h

theorem NextCanonical.execVneg {gu : Guard} {a : GF} {l : Bool} {σ : State} (h : σ.Canonical) : NextCanonical (Machine.execVneg gu a l σ) :=
  .runSlot .vSign h

theorem NextCanonical.execVadds {gu : Guard} {a b : GF} {l : Bool} {σ : State} (h : σ.Canonical) :
    NextCanonical (Machine.execVadds gu a b l σ) := .runSlot .vScalar h

theorem NextCanonical.execVmuls {gu : Guard} {a b : GF} {l : Bool} {σ : State} (h : σ.Canonical) :
    NextCanonical (Machine.execVmuls gu a b l σ) := .runSlot .vScalar h

theorem NextCanonical.execVfmas {gu : Guard} {a b : GF} {l : Bool} {σ : State} (h : σ.Canonical) :
    NextCanonical (Machine.execVfmas gu a b l σ) := .runSlot .vFused h

theorem NextCanonical.execVrcp {gu : Guard} {a : GF} {l : Bool} {σ : State} (h : σ.Canonical) : NextCanonical (Machine.execVrcp gu a l σ) :=
  .runSlot .vFunc h

theorem NextCanonical.execVrsqrt {gu : Guard} {a : GF} {l : Bool} {σ : State} (h : σ.Canonical) :
    NextCanonical (Machine.execVrsqrt gu a l σ) := .runSlot .vFunc h

theorem NextCanonical.execVexp {gu : Guard} {a : GF} {l : Bool} {σ : State} (h : σ.Canonical) : NextCanonical (Machine.execVexp gu a l σ) :=
  .runSlot .vFunc h

theorem NextCanonical.execVlog {gu : Guard} {a : GF} {l : Bool} {σ : State} (h : σ.Canonical) : NextCanonical (Machine.execVlog gu a l σ) :=
  .runSlot .vFunc h

theorem NextCanonical.execVsin {gu : Guard} {a : GF} {l : Bool} {σ : State} (h : σ.Canonical) : NextCanonical (Machine.execVsin gu a l σ) :=
  .runSlot .vFunc h

theorem NextCanonical.execVcos {gu : Guard} {a : GF} {l : Bool} {σ : State} (h : σ.Canonical) : NextCanonical (Machine.execVcos gu a l σ) :=
  .runSlot .vFunc h

theorem NextCanonical.execVtanh {gu : Guard} {a : GF} {l : Bool} {σ : State} (h : σ.Canonical) :
    NextCanonical (Machine.execVtanh gu a l σ) := .runSlot .vFunc h

theorem NextCanonical.execVsig {gu : Guard} {a : GF} {l : Bool} {σ : State} (h : σ.Canonical) : NextCanonical (Machine.execVsig gu a l σ) :=
  .runSlot .vFunc h

theorem NextCanonical.execVsilu {gu : Guard} {a : GF} {l : Bool} {σ : State} (h : σ.Canonical) :
    NextCanonical (Machine.execVsilu gu a l σ) := .runSlot .vFunc h

theorem NextCanonical.execVgelu {gu : Guard} {a : GF} {l : Bool} {σ : State} (h : σ.Canonical) :
    NextCanonical (Machine.execVgelu gu a l σ) := .runSlot .vFunc h

theorem NextCanonical.execVcvt {gu : Guard} {a : GF} {l : Bool} {σ : State} (h : σ.Canonical) : NextCanonical (Machine.execVcvt gu a l σ) :=
  .runSlot .vElems h

theorem Act.Keeps.quantise {l : Bool} {a b : GF} : Act.Keeps (Machine.quantise l a b) := by
  unfold Machine.quantise
  refine .vRun fun _ _ => .bind .raiseIf fun _ => .bind .vArgs fun _ => ?_
  dsimp only
  refine .bind .vCheck fun _ => .bind .getM fun _ => .bind ?_ fun _ => ?_
  · split
    · exact .takeLatch
    · exact .pure
  · split
    · exact .putV
    · exact .putV

theorem NextCanonical.execVqnt {gu : Guard} {a b : GF} {l : Bool} {σ : State} (h : σ.Canonical) :
    NextCanonical (Machine.execVqnt gu a b l σ) := .runSlot .quantise h

theorem Act.Keeps.dequantise {a b : GF} : Act.Keeps (Machine.dequantise a b) := by
  unfold Machine.dequantise
  refine .vRun fun _ _ => .bind .raiseIf fun _ => .bind .vArgs fun _ => ?_
  dsimp only
  exact .bind .vCheck fun _ => .bind .getM fun _ => .putV

theorem NextCanonical.execVdq {gu : Guard} {a b : GF} {σ : State} (h : σ.Canonical) : NextCanonical (Machine.execVdq gu a b σ) :=
  .runSlot .dequantise h

theorem NextCanonical.execVcmp {gu : Guard} {a b : GF} {s : Bool} {c : BitVec 3} {σ : State} (h : σ.Canonical) :
    NextCanonical (Machine.execVcmp gu a b s c σ) := .runSlot .vElems h

theorem NextCanonical.execVsel {gu : Guard} {a b : GF} {σ : State} (h : σ.Canonical) : NextCanonical (Machine.execVsel gu a b σ) :=
  .runSlot .vElems h

theorem Act.Keeps.vReduce {a b : GF} {useB : Bool} {ok : VFmt → Bool} {size : VFmt → ℕ} {f : VFmt → Option ℕ → List ℕ → List ℕ → Rounded} :
    Act.Keeps (Machine.vReduce a b useB ok size f) := by
  unfold Machine.vReduce
  refine .vRun fun _ _ => .bind .raiseIf fun _ => .bind .vArgs fun _ => ?_
  dsimp only
  exact .bind .vCheck fun _ => .bind .getM fun _ => .bind .duskCount fun _ => .putV

theorem NextCanonical.execVrsum {gu : Guard} {a : GF} {σ : State} (h : σ.Canonical) : NextCanonical (Machine.execVrsum gu a σ) :=
  .runSlot .vReduce h

theorem NextCanonical.execVrmax {gu : Guard} {a : GF} {σ : State} (h : σ.Canonical) : NextCanonical (Machine.execVrmax gu a σ) :=
  .runSlot .vReduce h

theorem NextCanonical.execVargmax {gu : Guard} {a : GF} {σ : State} (h : σ.Canonical) : NextCanonical (Machine.execVargmax gu a σ) :=
  .runSlot .vReduce h

theorem Act.Keeps.scan {a : GF} : Act.Keeps (Machine.scan a) := by
  unfold Machine.scan
  refine .vRun fun _ _ => .bind .raiseIf fun _ => .bind .vArgs fun _ => ?_
  dsimp only
  exact .bind .vCheck fun _ => .bind .getM fun _ => .bind .duskCount fun _ => .putV

theorem NextCanonical.execVscan {gu : Guard} {a : GF} {σ : State} (h : σ.Canonical) : NextCanonical (Machine.execVscan gu a σ) :=
  .runSlot .scan h

theorem NextCanonical.execVdot {gu : Guard} {a b : GF} {σ : State} (h : σ.Canonical) : NextCanonical (Machine.execVdot gu a b σ) :=
  .runSlot .vReduce h

theorem Act.Keeps.permute {a b : GF} : Act.Keeps (Machine.permute a b) := by
  unfold Machine.permute
  refine .vRun fun _ _ => .bind .raiseIf fun _ => .bind .vArgs fun _ => ?_
  dsimp only
  refine .bind .vCheck fun _ => .bind .getM fun _ => ?_
  split
  · exact .raise
  · exact .putV

theorem NextCanonical.execVperm {gu : Guard} {a b : GF} {σ : State} (h : σ.Canonical) : NextCanonical (Machine.execVperm gu a b σ) :=
  .runSlot .permute h

theorem Act.Keeps.gather {a b : GF} : Act.Keeps (Machine.gather a b) := by
  unfold Machine.gather
  refine .vRun fun _ _ => .bind .raiseIf fun _ => .bind .vArgs fun _ => ?_
  dsimp only
  refine .bind .vRange fun _ => ?_
  refine .bind .raiseIf fun _ => .bind (.modM fun _ h => h.flushOver) fun _ => .bind .getM fun _ => ?_
  split
  · exact .raise
  · exact .bind .vCheck fun _ => .bind .getM fun _ => .putV

theorem NextCanonical.execVgath {gu : Guard} {a b : GF} {σ : State} (h : σ.Canonical) : NextCanonical (Machine.execVgath gu a b σ) :=
  .runSlot .gather h

theorem Act.Keeps.scatterAdd {a b : GF} : Act.Keeps (Machine.scatterAdd a b) := by
  unfold Machine.scatterAdd
  refine .vRun fun _ _ => .bind .raiseIf fun _ => .bind .vArgs fun _ => ?_
  dsimp only
  refine .bind .vRange fun _ => ?_
  refine .bind .raiseIf fun _ => .bind (.modM fun _ h => h.flushOver) fun _ => .bind .getM fun _ => ?_
  split
  · exact .raise
  · exact .bind .vCheck fun _ => .bind .getM fun _ => .putV

theorem NextCanonical.execVscadd {gu : Guard} {a b : GF} {σ : State} (h : σ.Canonical) : NextCanonical (Machine.execVscadd gu a b σ) :=
  .runSlot .scatterAdd h

theorem NextCanonical.execViadd {gu : Guard} {a b : GF} {s : Bool} {σ : State} (h : σ.Canonical) :
    NextCanonical (Machine.execViadd gu a b s σ) := .runSlot .vWords h

theorem NextCanonical.execVand {gu : Guard} {a b : GF} {s : Bool} {σ : State} (h : σ.Canonical) :
    NextCanonical (Machine.execVand gu a b s σ) := .runSlot .vWords h

theorem NextCanonical.execVor {gu : Guard} {a b : GF} {s : Bool} {σ : State} (h : σ.Canonical) :
    NextCanonical (Machine.execVor gu a b s σ) := .runSlot .vWords h

theorem NextCanonical.execVxor {gu : Guard} {a b : GF} {s : Bool} {σ : State} (h : σ.Canonical) :
    NextCanonical (Machine.execVxor gu a b s σ) := .runSlot .vWords h

theorem NextCanonical.execVshl {gu : Guard} {a b : GF} {s : Bool} {σ : State} (h : σ.Canonical) :
    NextCanonical (Machine.execVshl gu a b s σ) := .runSlot .vWords h

theorem NextCanonical.execVshr {gu : Guard} {a b : GF} {ar s : Bool} {σ : State} (h : σ.Canonical) :
    NextCanonical (Machine.execVshr gu a b ar s σ) := .runSlot .vWords h

theorem Act.Keeps.softmax {a b : GF} : Act.Keeps (Machine.softmax a b) := by
  unfold Machine.softmax
  refine .vRun fun _ _ => .bind .raiseIf fun _ => .bind .vArgs fun _ => ?_
  dsimp only
  exact .bind .vRange fun _ => .bind .raiseIf fun _ => .bind .raiseIf fun _ => .bind (.modM fun _ h => h.flushOver)
    fun _ => .bind .getM fun _ => .bind .parkIf fun _ => .bind .duskCount fun _ => .putV

theorem NextCanonical.execVsmax {gu : Guard} {a b : GF} {σ : State} (h : σ.Canonical) : NextCanonical (Machine.execVsmax gu a b σ) :=
  .runSlot .softmax h

theorem Act.Keeps.normalise {a b : GF} : Act.Keeps (Machine.normalise a b) := by
  unfold Machine.normalise
  refine .vRun fun _ _ => .bind .raiseIf fun _ => .bind .vArgs fun _ => ?_
  dsimp only
  exact .bind .vCheck fun _ => .bind .getM fun _ => .bind .duskCount fun _ => .putV

theorem NextCanonical.execVrmsn {gu : Guard} {a b : GF} {σ : State} (h : σ.Canonical) : NextCanonical (Machine.execVrmsn gu a b σ) :=
  .runSlot .normalise h

theorem Act.Keeps.rotate {a b : GF} {half : Bool} : Act.Keeps (Machine.rotate a b half) := by
  unfold Machine.rotate
  refine .vRun fun _ _ => .bind .raiseIf fun _ => .bind .vArgs fun _ => ?_
  dsimp only
  exact .bind .vCheck fun _ => .bind .getM fun _ => .bind .parkIf fun _ => .bind .duskCount fun _ => .putV

theorem NextCanonical.execVrope {gu : Guard} {a b : GF} {hd : Bool} {σ : State} (h : σ.Canonical) :
    NextCanonical (Machine.execVrope gu a b hd σ) := .runSlot .rotate h

theorem Act.Keeps.maskRange {a b : GF} {z out : Bool} : Act.Keeps (Machine.maskRange a b z out) := by
  unfold Machine.maskRange
  refine .vRun fun _ _ => .bind .raiseIf fun _ => .bind .vArgs fun _ => ?_
  dsimp only
  exact .bind .vCheck fun _ => .bind .getM fun _ => .putV

theorem NextCanonical.execVmaskw {gu : Guard} {a b : GF} {z n : Bool} {σ : State} (h : σ.Canonical) :
    NextCanonical (Machine.execVmaskw gu a b z n σ) := .runSlot .maskRange h

theorem Act.Keeps.tcwMark {r : VReg} : Act.Keeps (Machine.tcwMark r) := by
  unfold Machine.tcwMark
  refine .bind .getM fun _ => ?_
  split
  · exact .raiseT
  · exact .pure

theorem Act.Keeps.tcwUpdate {a b : GF} : Act.Keeps (Machine.tcwUpdate a b) := by
  unfold Machine.tcwUpdate
  refine .vRun fun _ _ => .bind .vArgs fun _ => ?_
  dsimp only
  exact .bind .vCheck fun _ => .bind .tcwMark fun _ => .bind .getM fun _ => .bind .putV fun _ => .modM fun _ h => h.flushV

theorem NextCanonical.execTcwupd {gu : Guard} {a b : GF} {σ : State} (h : σ.Canonical) : NextCanonical (Machine.execTcwupd gu a b σ) :=
  .runSlot .tcwUpdate h

theorem Act.Keeps.tcwCounts {a : GF} : Act.Keeps (Machine.tcwCounts a) := by
  unfold Machine.tcwCounts
  refine .vRun fun _ _ => .bind .vArgs fun _ => ?_
  dsimp only
  exact .bind .vCheck fun _ => .bind .tcwMark fun _ => .bind .getM fun _ => .putV

theorem NextCanonical.execTcwcnt {gu : Guard} {a : GF} {σ : State} (h : σ.Canonical) : NextCanonical (Machine.execTcwcnt gu a σ) :=
  .runSlot .tcwCounts h

theorem NextCanonical.execVfence {gu : Guard} {s : BitVec 6} {σ : State} (h : σ.Canonical) : NextCanonical (Machine.execVfence gu s σ) :=
  .runSlot (.modM fun _ h => h.flushV) h

theorem Act.Keeps.busyWord {a : GF} : Act.Keeps (Machine.busyWord a) := by
  unfold Machine.busyWord
  refine .bind .readG fun _ => ?_
  dsimp only
  exact .bind .vCheck fun _ => .bind .getM fun _ => .putV

theorem NextCanonical.execVbsy {gu : Guard} {a : GF} {σ : State} (h : σ.Canonical) : NextCanonical (Machine.execVbsy gu a σ) :=
  .runSlot .busyWord h

end Sys2Proof.Machine
end


section
/-! SUPPORT. The canonical form of memory through the attention sequencer and the admission of graph replays. -/

namespace Sys2Proof.Machine

theorem Act.Keeps.runOf : Act.Keeps Machine.runOf := by
  unfold Machine.runOf
  refine .bind .getM fun _ => ?_
  split
  · exact .pure
  · exact .await

theorem Mach.Canonical.modRun {m : Mach} {k : ℕ} {f : Run → Run} (h : m.Canonical) : (m.modRun k f).Canonical := h

theorem Act.Keeps.setRun {f : Run → Run} : Act.Keeps (Machine.setRun f) := .modM fun _ h => h

theorem Act.Keeps.runCont : Act.Keeps Machine.runCont := by
  unfold Machine.runCont
  refine .bind .runOf fun _ => .bind .getM fun _ => ?_
  split
  · exact .pure
  · exact .await

theorem Act.Keeps.hGet {n : H} : Act.Keeps (Machine.hGet n) := .bind .runOf fun _ => .pure

theorem NextCanonical.runMicro {a : Act Unit} {s : State} (ha : a.Keeps) (h : s.Canonical) : NextCanonical (Machine.runMicro a s) := by
  unfold Machine.runMicro
  dsimp only
  split
  · next m he => exact h.withMach (Mach.Canonical.of_act ha h.mach.modRun he).settle.wake.pickAll
  · exact h.withMach h.mach.seqFails.settle.wake.pickAll
  · exact h

theorem Act.Keeps.jumpIf {b : Bool} {tgt : BitVec 10} : Act.Keeps (Machine.jumpIf b tgt) := by
  unfold Machine.jumpIf
  split
  · exact .setRun
  · exact .pure

theorem NextCanonical.execHset {d : H} {imm : BitVec 48} {σ : State} (h : σ.Canonical) : NextCanonical (Machine.execHset d imm σ) :=
  .runMicro .setRun h

theorem NextCanonical.execHadd {d a b : H} {imm : W32} {σ : State} (h : σ.Canonical) : NextCanonical (Machine.execHadd d a b imm σ) :=
  .runMicro (.bind .hGet fun _ => .bind .hGet fun _ => .setRun) h

theorem NextCanonical.execHjmp {c : BitVec 2} {a : H} {tgt : BitVec 10} {σ : State} (h : σ.Canonical) :
    NextCanonical (Machine.execHjmp c a tgt σ) := .runMicro (.bind .hGet fun _ => .jumpIf) h

theorem NextCanonical.execHloop {a : H} {tgt : BitVec 10} {σ : State} (h : σ.Canonical) : NextCanonical (Machine.execHloop a tgt σ) :=
  .runMicro (.bind .hGet fun _ => .bind .setRun fun _ => .bind .hGet fun _ => .jumpIf) h

theorem NextCanonical.execAgld {n : BitVec 3} {a : H} {σ : State} (h : σ.Canonical) : NextCanonical (Machine.execAgld n a σ) := by
  unfold Machine.execAgld
  refine .runMicro ?_ h
  refine .bind .hGet fun _ => .bind .runCont fun _ => .bind .getM fun _ => .bind .awaitIf fun _ => ?_
  split
  · exact .raiseT
  · exact .setRun

theorem Act.Keeps.tailTile {q bytes : ℕ} : Act.Keeps (Machine.tailTile q bytes) := by
  unfold Machine.tailTile
  refine .bind .runCont fun _ => ?_
  dsimp only
  exact .bind .raiseIf fun _ => .bind .raiseIf fun _ => .bind .raiseIf fun _ => .pure

theorem Act.Keeps.runWrite {off : ℕ} {b : List Byte} {poison : Bool} : Act.Keeps (Machine.runWrite off b poison) :=
  .bind .runCont fun _ => .bind .raiseIf fun _ => .modM fun _ h => h.winWrite

theorem Act.Keeps.runRead {off n : ℕ} : Act.Keeps (Machine.runRead off n) :=
  .bind .runCont fun _ => .bind .raiseIf fun _ => .bind .getM fun _ => .pure

theorem Act.Keeps.pushTile {q rows place : ℕ} : Act.Keeps (Machine.pushTile q rows place) := by
  unfold Machine.pushTile
  refine .bind .runWrite fun _ => .modM fun _ h => ?_
  split
  · exact h.setCont
  · exact h

theorem Act.Keeps.kvPresent {die : ℕ} {t : Task} {x : KvRange} (l : List ℕ) : Act.Keeps (Machine.kvPresent die t x l) := by
  induction l with
  | nil => exact .pure
  | cons p r ih =>
    refine .bind .getM fun _ => ?_
    split
    · exact fun _ _ => trivial
    · refine .bind (.modM fun _ h => h.homePrep.homeAcquire) fun _ => .bind .getM fun _ => ?_
      split
      · exact .raise
      · split
        · exact ih
        · exact .pure

theorem Act.Keeps.kvCopy {die : ℕ} {t : Task} {x : KvRange} {kv : Bool} {boff blen tile : ℕ} (l : List (ℕ × ℕ)) :
    Act.Keeps (Machine.kvCopy die t x kv boff blen tile l) := by
  induction l with
  | nil => exact .pure
  | cons p r ih =>
    refine .bind .getM fun _ => ?_
    dsimp only
    split
    · exact fun _ _ => trivial
    · exact .bind (.foldlM (fun _ _ => .runWrite) _) fun _ => ih

theorem NextCanonical.execKvrd {kv : Bool} {n : BitVec 3} {q : Q} {boff : BitVec 16} {blen : Byte} {adv : Bool} {cnt : BitVec 7}
    {σ : State} (h : σ.Canonical) :
    NextCanonical (Machine.execKvrd kv n q boff blen adv cnt σ) := by
  unfold Machine.execKvrd
  refine .runMicro ?_ h
  refine .bind .runOf fun _ => .bind .runCont fun _ => .bind .getM fun _ => ?_
  dsimp only
  refine .bind .awaitIf fun _ => .bind ?_ fun _ => ?_
  · split
    · exact .pure
    · exact .raiseT
  · refine .bind .tailTile fun _ => ?_
    split
    · exact .await
    · refine .bind (.kvPresent _) fun _ => .bind .awaitIf fun _ => ?_
      refine .bind (.kvCopy _) fun _ => .bind .pushTile fun _ => .bind (.modM fun _ h => h) fun _ => ?_
      split
      · exact .setRun
      · exact .pure

theorem NextCanonical.execAttentionReadRequest {waiter slot layer first count : ℕ} {σ : State} (h : σ.Canonical) :
    NextCanonical (Machine.execAttentionReadRequest waiter slot layer first count σ) := by
  unfold Machine.execAttentionReadRequest
  refine .runEvent (fun _ h => ?_) h
  split
  · exact h.requestFill
  · split
    · exact h.request
    · exact h

theorem Act.Keeps.awaitAcc {acc : ℕ} : Act.Keeps (Machine.awaitAcc acc) := .bind .runCont fun _ => .awaitIf

theorem Act.Keeps.runDusk {r : Run} : Act.Keeps (Machine.runDusk r) := by
  unfold Machine.runDusk
  split
  · exact .bind .fresh fun _ => .pure
  · exact .pure

theorem NextCanonical.execMxi {op : BitVec 7} {mx : BitVec 53} {σ : State} (h : σ.Canonical) : NextCanonical (Machine.execMxi op mx σ) := by
  unfold Machine.execMxi
  refine .runMicro ?_ h
  refine .bind .runOf fun _ => ?_
  split
  · exact .raise
  · refine .bind .awaitAcc fun _ => .bind .runDusk fun _ => .bind .runCont fun _ => .bind .awaitIf fun _ => ?_
    refine .bind (.modM fun _ h => h.landDrains) fun _ => .bind .runCont fun _ => .bind .getM fun _ => ?_
    split
    · exact fun _ h => trivial
    · exact .modM fun _ h => h.place

theorem NextCanonical.execSmax {q : Q} {a b w : H} {mk : Bool} {cnt : BitVec 7} {σ : State} (h : σ.Canonical) :
    NextCanonical (Machine.execSmax q a b w mk cnt σ) := by
  unfold Machine.execSmax
  refine .runMicro ?_ h
  refine .bind .runOf fun _ => ?_
  split
  · exact .await
  · refine .bind .raiseIf fun _ => ?_
    dsimp only
    exact .bind .raiseIf fun _ => .bind .raiseIf fun _ => .bind .runRead fun _ => .bind .tailTile fun _ => .bind .runDusk
      fun _ => .bind (.foldlM (fun _ _ => .bind .runWrite fun _ => .runWrite) _) fun _ => .bind .pushTile fun _ => .setRun

theorem Act.Keeps.mapAcc {acc : ℕ} {f : ℕ → ℕ → ℕ → ℕ} {marks : ℕ → Bool} : Act.Keeps (Machine.mapAcc acc f marks) := by
  unfold Machine.mapAcc
  refine .bind .runCont fun _ => ?_
  dsimp only
  exact .modM fun _ h => h.setCont

theorem Act.Keeps.accRows {acc : ℕ} : Act.Keeps (Machine.accRows acc) := .bind .runCont fun _ => .pure

theorem NextCanonical.execResc {acc : Acc} {a : H} {σ : State} (h : σ.Canonical) : NextCanonical (Machine.execResc acc a σ) :=
  .runMicro (.bind .awaitAcc fun _ => .bind .hGet fun _ => .bind .accRows fun _ => .bind .runRead fun _ => .mapAcc) h

theorem NextCanonical.execNorm {acc : Acc} {a : H} {σ : State} (h : σ.Canonical) : NextCanonical (Machine.execNorm acc a σ) :=
  .runMicro (.bind .awaitAcc fun _ => .bind .hGet fun _ => .bind .accRows fun _ => .bind .runRead fun _ => .mapAcc) h

theorem NextCanonical.execRope {a b c : H} {half : Bool} {d : BitVec 10} {rows : BitVec 7} {σ : State} (h : σ.Canonical) :
    NextCanonical (Machine.execRope a b c half d rows σ) := by
  unfold Machine.execRope
  refine .runMicro ?_ h
  refine .bind .runOf fun _ => ?_
  dsimp only
  exact .bind .raiseIf fun _ => .bind .raiseIf fun _ => .bind .runRead fun _ => .bind .runRead fun _ => .bind .runDusk
    fun _ => .foldlM (fun _ _ => .bind .runRead fun _ => .runWrite) _

theorem NextCanonical.execMcmb {acc : Acc} {a b c : H} {σ : State} (h : σ.Canonical) : NextCanonical (Machine.execMcmb acc a b c σ) := by
  unfold Machine.execMcmb
  refine .runMicro ?_ h
  refine .bind .awaitAcc fun _ => .bind .runOf fun _ => .bind .accRows fun _ => ?_
  dsimp only
  refine .bind .runRead fun _ => .bind .runRead fun _ => ?_
  refine .bind .runRead fun _ => .bind .runDusk fun _ => .bind .mapAcc fun _ => .foldlM (fun _ _ => ?_) _
  split
  · exact .pure
  · exact .runWrite

theorem NextCanonical.execDjob {a : H} {mm : BitVec 4} {ac : BitVec 6} {σ : State} (h : σ.Canonical) :
    NextCanonical (Machine.execDjob a mm ac σ) := by
  unfold Machine.execDjob
  refine .runMicro ?_ h
  refine .bind .runOf fun _ => .bind .runCont fun _ => .bind .getM fun _ => .bind .awaitIf fun _ => ?_
  dsimp only
  split
  · exact .raiseT
  · refine .bind .raiseIf fun _ => .bind .raiseIf fun _ => ?_
    split
    · exact .raise
    · exact .bind .raiseIf fun _ => .bind (.modM fun _ h => h.landDrains) fun _ => .modM fun _ h => h.addJob

theorem NextCanonical.execWaitw {c : BitVec 2} {a b : H} {σ : State} (h : σ.Canonical) : NextCanonical (Machine.execWaitw c a b σ) := by
  unfold Machine.execWaitw
  refine .runMicro ?_ h
  refine .bind .runOf fun _ => ?_
  dsimp only
  exact .bind .raiseIf fun _ => .bind .runRead fun _ => .awaitIf

theorem Act.Keeps.runRelease {sc : BitVec 3} {addr : ℕ} {v : Word} : Act.Keeps (Machine.runRelease sc addr v) := by
  unfold Machine.runRelease
  refine .bind .runCont fun _ => .bind .raiseIf fun _ => .bind .getM fun _ => ?_
  split
  · exact .raise
  · exact .bind .raiseIf fun _ => .modM fun _ h => h.placePrep.placeWrite

theorem NextCanonical.execSigw {sc : BitVec 3} {a b : H} {σ : State} (h : σ.Canonical) : NextCanonical (Machine.execSigw sc a b σ) :=
  .runMicro (.bind .raiseIf fun _ => .bind .runOf fun _ => .bind .runCont fun _ => .bind .getM fun _ => .bind .awaitIf
    fun _ => .runRelease) h

theorem NextCanonical.execHalt {σ : State} (h : σ.Canonical) : NextCanonical (Machine.execHalt σ) := by
  unfold Machine.execHalt
  refine .runMicro ?_ h
  refine .bind .runOf fun _ => .bind .runCont fun _ => .bind .getM fun _ => .bind .awaitIf fun _ => ?_
  refine .bind (.modM fun _ h => h.setCont) fun _ => .bind .runRelease fun _ => .modM fun _ h => ?_
  dsimp only
  exact h

theorem Mach.Canonical.setMySeq {m : Mach} {s : Seq} (h : m.Canonical) : (m.setMySeq s).Canonical := h

theorem Act.Keeps.readSqcsd : Act.Keeps Machine.readSqcsd := by
  unfold Machine.readSqcsd
  refine .bind .getM fun _ => ?_
  dsimp only
  exact .bind (.modM fun _ h => h) fun _ => .pure

theorem Act.Keeps.writeSqcsd {v : Word} : Act.Keeps (Machine.writeSqcsd v) := by
  unfold Machine.writeSqcsd
  refine .modM fun _ h => ?_
  dsimp only
  exact h

theorem Act.Keeps.writeSqstart {v : Word} : Act.Keeps (Machine.writeSqstart v) := by
  unfold Machine.writeSqstart
  refine .bind .getM fun _ => ?_
  dsimp only
  split
  · exact .modM fun _ h => h
  · exact .bind .performEarlier fun _ => .bind .takeFmt fun _ => .modM fun _ h => h

theorem NextCanonical.runStep {a : Act Unit} {s : State} (ha : a.Keeps) (h : s.Canonical) : NextCanonical (Machine.runStep a s) := by
  unfold Machine.runStep
  split
  · exact h
  · split
    · next m he => exact h.withMach (Mach.Canonical.of_act ha h.mach he).settle.wake.pickAll
    · exact h.takeTrap
    · exact h

theorem NextCanonical.execSqstartWrite {v : Word} {σ : State} (h : σ.Canonical) : NextCanonical (Machine.execSqstartWrite v σ) :=
  .runStep .writeSqstart h

theorem NextCanonical.execSqcsdWrite {v : Word} {σ : State} (h : σ.Canonical) : NextCanonical (Machine.execSqcsdWrite v σ) :=
  .runStep .writeSqcsd h

theorem NextCanonical.execSqcsdRead {d : GF} {σ : State} (h : σ.Canonical) : NextCanonical (Machine.execSqcsdRead d σ) :=
  .runStep (.bind .readSqcsd fun _ => .writeG) h

theorem Mach.Canonical.enterGraph {m : Mach} {s : Submitter} {e : CtxEntry} {desc : Word} (h : m.Canonical) :
    (m.enterGraph s e desc).1.Canonical := by
  unfold Machine.Mach.enterGraph
  split
  · exact h
  · exact h

theorem Mach.Canonical.startReplay {m : Mach} {gid : ℕ} (h : m.Canonical) : (m.startReplay gid).Canonical := by
  unfold Machine.Mach.startReplay
  split
  · exact h
  · split
    · exact h
    · split
      · exact h
      · dsimp only
        refine .fireReady (.foldl (fun _ _ h => ?_) _ h.putGraph)
        split
        · exact h.setNode
        · exact h

theorem Mach.Canonical.admitReplay {m : Mach} {s : Submitter} {desc : Word} (h : m.Canonical) : (m.admitReplay s desc).1.Canonical := by
  unfold Machine.Mach.admitReplay
  split
  · exact h
  · split
    · exact h
    · dsimp only
      split
      · exact .putGraph (.enterGraph h)
      · exact .startReplay (.putGraph (.enterGraph h))

theorem Mach.Canonical.requestReplay {m : Mach} {s : Submitter} {desc : Word} (h : m.Canonical) : (m.requestReplay s desc).1.Canonical := by
  unfold Machine.Mach.requestReplay
  split
  · split
    · exact h
    · exact h.admitReplay
  · exact h.admitReplay

theorem Mach.Canonical.commitPatch {m : Mach} {g : Graph} (h : m.Canonical) : (m.commitPatch g).Canonical := by
  unfold Machine.Mach.commitPatch
  split
  · exact h.putGraph
  · exact h

theorem Mach.Canonical.copyArea {m : Mach} {gid : ℕ} (h : m.Canonical) : (m.copyArea gid).Canonical := by
  unfold Machine.Mach.copyArea
  split
  · exact h
  · split
    · exact h
    · dsimp only
      refine .putGraph ?_
      split
      · exact h.ctxWrite
      · exact h

end Sys2Proof.Machine
end


section
/-! SUPPORT. The canonical form of memory through residence, the end of a task, the stop, guests, start-up and the registers. -/

namespace Sys2Proof.Machine

theorem Mach.Canonical.runAs {m : Mach} {id : ℕ} {a : Act Unit} (h : m.Canonical) (ha : a.Keeps) : (m.runAs id a).Canonical := by
  unfold Machine.Mach.runAs
  dsimp only
  split
  · exact h
  · split
    · next he => exact (Mach.Canonical.of_act ha h.switchTo he).switchTo
    · exact Mach.Canonical.switchTo h.switchTo
    · exact h

theorem Mach.Canonical.deliver {m : Mach} {id : ℕ} {d : GF} {v : Word} (h : m.Canonical) : (m.deliver id d v).Canonical := by
  unfold Machine.Mach.deliver
  split
  · exact h
  · refine .ite h (.ite (.ite h.setCont ?_) (h.runAs .pushStream))
    split
    · exact h.setCont.putSave
    · exact h.setCont

theorem Mach.Canonical.answer {m : Mach} {id : ℕ} (h : m.Canonical) : (m.answer id).Canonical := by
  unfold Machine.Mach.answer
  split
  · exact h
  · split
    · exact h
    · dsimp only
      split
      · exact h.setCont.sendTo
      · exact h.setCont.deliver

theorem putImage_wf {s image : Memory} {key limit : ℕ} (h : s.wf = true) : (Machine.putImage s key limit image).wf = true := by
  refine SMap.wf_foldl _ _ (fun x e h => ?_) (SMap.wf_restrict _ h)
  split
  · exact Memory.wf_put h
  · exact h

theorem Mach.Canonical.seat {m : Mach} {c : Cont} {core : ℕ} (h : m.Canonical) : (m.seat c core).Canonical := by
  obtain ⟨hview, hheld, hpoison, hclock, hspad, hmarks, hspadHeld⟩ := id h
  unfold Machine.Mach.seat
  extract_lets g
  split
  · extract_lets key spad marks marks' held
    have hspad' : spad.wf = true := by
      unfold spad
      split
      · exact putImage_wf hspad
      · exact SMap.wf_foldl _ _ (fun _ _ h => Memory.wf_put h) hspad
    have hmarks' : SMap.wf false marks' = true := by
      refine SMap.wf_foldl _ _ (fun _ _ h => SMap.wf_set h) ?_
      unfold marks
      split
      · exact SMap.wf_restrict _ hmarks
      · exact hmarks
    have hheld' : SMap.wf {} held = true := SMap.wf_restrict _ hspadHeld
    exact .recordCont (.withMem ⟨hview, hheld, hpoison, hclock, hspad', hmarks', hheld'⟩)
  · exact h

theorem Mach.Canonical.retireBlock {m : Mach} {id n : ℕ} (h : m.Canonical) : (m.retireBlock id n).Canonical := by
  unfold Machine.Mach.retireBlock
  split
  · exact h
  · exact h.fillBlock.releaseBlock

theorem Mach.Canonical.unseat {m : Mach} {id : ℕ} (h : m.Canonical) : (m.unseat id).Canonical := by
  unfold Machine.Mach.unseat
  extract_lets m1
  have h1 : m1.Canonical := .foldl (fun _ _ h => h.retireBlock) _ h.performed
  clear_value m1
  split
  · exact h1
  · exact h1.saveRegs.recordCont

theorem Mach.Canonical.answerPrmt {m : Mach} {q : ℕ} (h : m.Canonical) : (m.answerPrmt q).Canonical := by
  unfold Machine.Mach.answerPrmt
  split
  · exact h
  · exact h.settlePrmts

theorem Mach.Canonical.swapOut {m : Mach} {t : Team} {res : Res} (h : m.Canonical) : (m.swapOut t res).Canonical := by
  unfold Machine.Mach.swapOut
  split
  · exact h.reportEnd
  · dsimp only
    refine .answerPrmt ?_
    split
    · exact .foldl (fun _ _ h => h.unseat) _ h
    · exact .foldl (fun _ _ h => h.unseat) _ h

theorem Mach.Canonical.beginLeave {m : Mach} {t : Team} {ckpt : Bool} (h : m.Canonical) : (m.beginLeave t ckpt).Canonical := h

theorem Mach.Canonical.abandonSwap {m : Mach} {t : Team} {ckpt : Bool} (h : m.Canonical) : (m.abandonSwap t ckpt).Canonical := by
  unfold Machine.Mach.abandonSwap
  dsimp only
  split
  · exact h
  · split
    · split
      · exact .settlePrmts h
      · exact .settlePrmts h
    · split
      · exact .settlePrmts h
      · exact .settlePrmts h

theorem Mach.Canonical.retireTeams {m : Mach} {die : ℕ} (h : m.Canonical) : (m.retireTeams die).Canonical := by
  unfold Machine.Mach.retireTeams
  refine .foldl (fun _ _ h => ?_) _ h
  split
  · exact .foldl (fun _ _ h => h.setCont) _ h
  · exact h

theorem Mach.Canonical.newVersion {m : Mach} {t : Task} {r : Region} (h : m.Canonical) : (m.newVersion t r).1.Canonical := by
  unfold Machine.Mach.newVersion
  dsimp only
  exact h.landParts

theorem Mach.Canonical.firstDispatch {m : Mach} {t : Task} (h : m.Canonical) : (m.firstDispatch t).Canonical := by
  unfold Machine.Mach.firstDispatch
  dsimp only
  exact .putTaskState (.foldlPair (fun _ _ h => h.newVersion) _ h)

theorem Mach.Canonical.makeResident {m : Mach} {t : Team} {cores : List ℕ} (h : m.Canonical) : (m.makeResident t cores).Canonical := by
  unfold Machine.Mach.makeResident
  dsimp only
  split
  · refine .foldl (fun _ _ h => ?_) _ h
    split
    · exact h.seat
    · exact h
  · split
    · refine Mem.Canonical.catchUp (Mem.Canonical.catchUp (Mach.Canonical.foldl (fun _ _ h => ?_) _ h))
      split
      · exact h.seat
      · exact h
    · refine .firstDispatch ?_
      refine Mem.Canonical.catchUp (Mem.Canonical.catchUp (Mach.Canonical.foldl (fun _ _ h => ?_) _ h))
      split
      · exact h.seat
      · exact h

theorem Mach.Canonical.carryOut {m : Mach} {v : Task} {out : ℕ} {die : Option ℕ} (h : m.Canonical) : (m.carryOut v out die).Canonical := by
  unfold Machine.Mach.carryOut
  split
  · exact h.kill
  · split
    · refine .foldl (fun _ _ h => ?_) _ h
      split
      · exact h
      · exact h
    · split
      · exact h
      · exact h

theorem Mach.Canonical.preempt {m m' : Mach} {die : ℕ} {newcomer : Task} (h : m.Canonical) (he : m.preempt die newcomer = some m') :
    m'.Canonical := by
  unfold Machine.Mach.preempt at he
  dsimp only at he
  split at he
  · nomatch he
  · split at he
    · nomatch he
    · split at he
      · nomatch he
      · cases he
        exact h.carryOut

theorem Mach.Canonical.finishTask {m : Mach} {t : Task} (h : m.Canonical) : (m.finishTask t).Canonical := by
  unfold Machine.Mach.finishTask
  extract_lets d m1 m2 m3 t' m4 m5 m6 m7 m8 m9
  have h1 : m1.Canonical := .foldl (fun _ _ h => h.performed) _ h
  have h4 : m4.Canonical := Mach.Canonical.putTaskState (.grantEntries (.settlePrmts (m := m3) h1))
  clear_value m4
  have h5 : m5.Canonical := Mem.Canonical.catchUp (.foldl (fun _ _ h => h.catchUp) _ h4)
  clear_value m5
  have h6 : m6.Canonical := .ite h5 h5.ctxWrite
  clear_value m6
  have h9 : m9.Canonical := .releaseRecords (.stopWork (.withMem h6.catchUp))
  clear_value m9
  split
  · exact h9.nodeDone
  · exact h9

theorem Mach.Canonical.finishGuest {m : Mach} {t : Task} {g : GuestId} (h : m.Canonical) : (m.finishGuest t g).Canonical := by
  unfold Machine.Mach.finishGuest
  split
  · exact h
  · exact h.sendTo.dropGuest

theorem Mach.Canonical.completeTask {m : Mach} {q : ℕ} (h : m.Canonical) : (m.completeTask q).Canonical := by
  unfold Machine.Mach.completeTask
  split
  · exact h
  · split
    · exact h
    · split
      · exact h.reportEnd
      · split
        · exact h.finishGuest
        · exact h.finishTask

theorem Mach.Canonical.haltStolen {m : Mach} {ctx : BitVec 12} {held : Bool} (h : m.Canonical) : (m.haltStolen ctx held).Canonical := by
  unfold Machine.Mach.haltStolen
  refine .foldl (fun _ _ h => ?_) _ h
  split
  · split
    · exact h.sendTo
    · exact h
  · exact h

theorem Mach.Canonical.stopCut {m : Mach} (h : m.Canonical) : m.stopCut.Canonical := by
  unfold Machine.Mach.stopCut
  extract_lets ctx m1 m2 m3 m4
  have h1 : m1.Canonical := by
    refine .foldl (fun _ _ h => ?_) _ h
    split
    · refine .ite ?_ h
      split
      · exact h.swapOut
      · exact h.swapOut
      · exact h
    · exact h
  have h3 : m3.Canonical := .foldl (fun _ _ h => .setTask (.unreserve h)) _ h1.haltStolen
  refine Mach.Canonical.foldl (fun m g h => ?_) _ h3
  refine .setGraph ?_
  split
  · exact .unreserve (.unreserve h)
  · exact .unreserve h

theorem Mach.Canonical.beginStop {m : Mach} {ctx : BitVec 12} (h : m.Canonical) : (m.beginStop ctx).Canonical := by
  unfold Machine.Mach.beginStop
  split
  · exact h
  · exact h

theorem Mach.Canonical.stopSources {m : Mach} (h : m.Canonical) : m.stopSources.Canonical := by
  unfold Machine.Mach.stopSources
  split
  · exact h
  · split
    · split
      · exact h
      · exact h
    · split
      · exact h
      · exact h

theorem Mach.Canonical.stopDrained {m : Mach} (h : m.Canonical) : m.stopDrained.Canonical := by
  unfold Machine.Mach.stopDrained
  split
  · exact h.stopCut
  · exact h

theorem Mach.Canonical.stopTimeout {m : Mach} (h : m.Canonical) : m.stopTimeout.Canonical := by
  unfold Machine.Mach.stopTimeout
  split
  · exact .stopCut (.foldl (fun _ _ h => h.endTask) _ h)
  · exact h

theorem Mach.Canonical.putStopCtx {m : Mach} {ctx : BitVec 12} (h : m.Canonical) : (m.putStopCtx ctx).Canonical := by
  unfold Machine.Mach.putStopCtx
  split
  · exact h
  · exact h

theorem Mach.Canonical.resumeStop {m : Mach} (h : m.Canonical) : m.resumeStop.Canonical := by
  unfold Machine.Mach.resumeStop
  dsimp only
  split
  · exact h
  · split
    · exact h
    · exact .foldl (fun _ _ h => .replayEnd (.fireReady h)) _ (.haltStolen h)

theorem Mach.Canonical.guestMember {m : Mach} {die key : ℕ} {c : Cont} (h : m.Canonical) : (m.guestMember die key c).Canonical := by
  unfold Machine.Mach.guestMember
  dsimp only
  exact .saveRegs (.putRecord h)

theorem Mach.Canonical.landTeam {m : Mach} {x : Inbound} {die : ℕ} (h : m.Canonical) : (m.landTeam x die).Canonical := by
  unfold Machine.Mach.landTeam
  dsimp only
  exact .sendTo (.foldl (fun _ _ h => h.guestMember) _ h)

theorem Mach.Canonical.guestAsk {m : Mach} {key page : ℕ} {write : Bool} (h : m.Canonical) : (m.guestAsk key page write).Canonical := by
  unfold Machine.Mach.guestAsk
  split
  · exact h.sendTo
  · exact h

theorem Mach.Canonical.lendPage {m : Mach} {key page : ℕ} {perm : BitVec 3} {cause : Cause} {bytes : List Byte} (h : m.Canonical) :
    (m.lendPage key page perm cause bytes).Canonical := by
  unfold Machine.Mach.lendPage
  split
  · exact h
  · dsimp only
    exact h.write

theorem Mach.Canonical.giveBack {m : Mach} {key page : ℕ} (h : m.Canonical) : (m.giveBack key page).Canonical := by
  unfold Machine.Mach.giveBack
  split
  · exact .sendTo h
  · exact h

theorem Mach.Canonical.guestReply {m : Mach} {key rank : ℕ} {d : Option GF} {v : Word} (h : m.Canonical) :
    (m.guestReply key rank d v).Canonical := by
  unfold Machine.Mach.guestReply
  split
  · exact h
  · exact h.setCont
  · exact h.fillAnswer

theorem Mach.Canonical.guestWake {m : Mach} {key rank : ℕ} (h : m.Canonical) : (m.guestWake key rank).Canonical := by
  unfold Machine.Mach.guestWake
  split
  · exact h
  · split
    · exact h.recordCont.pick
    · exact h

theorem Mach.Canonical.guestEnd {m : Mach} {origin task team : ℕ} (h : m.Canonical) : (m.guestEnd origin task team).Canonical := by
  unfold Machine.Mach.guestEnd
  dsimp only
  exact .pickAll (.foldl (fun _ _ h => h.dropGuest) _ h)

theorem Mach.Canonical.guestHalt {m : Mach} {origin task team : ℕ} {held : Bool} (h : m.Canonical) :
    (m.guestHalt origin task team held).Canonical := by
  unfold Machine.Mach.guestHalt
  refine .foldl (fun _ _ h => ?_) _ h
  dsimp only
  split
  · refine .foldl (fun _ _ h => ?_) _ h
    split
    · exact h
    · exact h
  · exact h

theorem Mach.Canonical.guestWindow {m : Mach} {key rank off : ℕ} {bytes : List Byte} {poison : Bool} (h : m.Canonical) :
    (m.guestWindow key rank off bytes poison).Canonical := by
  unfold Machine.Mach.guestWindow
  split
  · exact h
  · exact h.winWrite

theorem Mach.Canonical.guestGive {m : Mach} {key rank off n : ℕ} (h : m.Canonical) : (m.guestGive key rank off n).Canonical := by
  unfold Machine.Mach.guestGive
  split
  · exact h.sendTo
  · exact h

theorem Mach.Canonical.memberDone {m : Mach} {q n : ℕ} (h : m.Canonical) : (m.memberDone q n).Canonical := by
  unfold Machine.Mach.memberDone
  split
  · dsimp only
    refine .foldl (fun _ _ h => ?_) _ h
    split
    · exact h.recordCont
    · exact h
  · exact h

theorem Mach.Canonical.memberFault {m : Mach} {q n rank : ℕ} {cause : Cause} {record : List Byte} {imp eng : Bool} (h : m.Canonical) :
    (m.memberFault q n rank cause record imp eng).Canonical := by
  unfold Machine.Mach.memberFault
  split
  · dsimp only
    exact .endTask (.putTrapRecord h)
  · exact h

theorem Mach.Canonical.memberKilled {m : Mach} {q n : ℕ} (h : m.Canonical) : (m.memberKilled q n).Canonical := by
  unfold Machine.Mach.memberKilled
  split
  · exact h.kill
  · exact h

theorem Mach.Canonical.memberArm {m : Mach} {q n rank : ℕ} {addr : Word} {value : W32} {cond : BitVec 3} (h : m.Canonical) :
    (m.memberArm q n rank addr value cond).Canonical := by
  unfold Machine.Mach.memberArm
  split
  · exact h.recordCont
  · exact h

theorem Mach.Canonical.memberWindow {m : Mach} {q n rank off : ℕ} {bytes : List Byte} (h : m.Canonical) :
    (m.memberWindow q n rank off bytes).Canonical := by
  unfold Machine.Mach.memberWindow
  split
  · exact h.setCont
  · exact h

theorem Mach.Canonical.memberTaken {m : Mach} {q n rank : ℕ} (h : m.Canonical) : (m.memberTaken q n rank).Canonical := by
  unfold Machine.Mach.memberTaken
  split
  · exact h.setCont
  · exact h

theorem Mach.Canonical.podPayload {m : Mach} {src : Byte} {pa : ℕ} {bytes : List Byte} (h : m.Canonical) :
    (m.podPayload src pa bytes).Canonical := by
  unfold Machine.Mach.podPayload
  split
  · exact h
  · exact h.landParts

theorem Mach.Canonical.podCompletion {m : Mach} {src : Byte} {pa : ℕ} {v : Word} (h : m.Canonical) : (m.podCompletion src pa v).Canonical :=
  .ite h (.withMem (Mem.Canonical.write (Mem.Canonical.gather h)))

theorem Mach.Canonical.toStage0 {m : Mach} {code : Byte} {dies : Word} (_ : m.Canonical) : (m.toStage0 code dies).Canonical :=
  Mem.canonical_reset

theorem Mach.Canonical.moduleReset {m : Mach} (_ : m.Canonical) : m.moduleReset.Canonical := Mem.canonical_reset

theorem Mach.Canonical.beginStage1 {m : Mach} (h : m.Canonical) : m.beginStage1.Canonical :=
  have ⟨hview, _, hpoison, _, hspad, hmarks, _⟩ := h
  ⟨hview, rfl, hpoison, rfl, hspad, hmarks, rfl⟩

theorem Mach.Canonical.becomeReady {m : Mach} {chips : BitVec 16} (h : m.Canonical) : (m.becomeReady chips).Canonical := h

theorem Mach.Canonical.beginAuth {m : Mach} (h : m.Canonical) : m.beginAuth.Canonical := by
  unfold Machine.Mach.beginAuth
  split
  · exact h
  · exact h

theorem Mach.Canonical.endAuth {m : Mach} {r : FwResult} (h : m.Canonical) : (m.endAuth r).Canonical := by
  unfold Machine.Mach.endAuth
  split
  · exact h
  · dsimp only
    split
    · split
      · exact h.beginStage1
      · exact h
    · split
      · exact h.beginStage1
      · exact h

theorem Mach.Canonical.startScalar {m : Mach} {v : Word} (h : m.Canonical) : (m.startScalar v).Canonical := by
  unfold Machine.Mach.startScalar
  split
  · exact h
  · exact h

theorem Mach.Canonical.failDie {m : Mach} {d : ℕ} {code0 : Byte} (h : m.Canonical) : (m.failDie d code0).Canonical := by
  unfold Machine.Mach.failDie
  split
  · exact h.toStage0
  · dsimp only
    exact .logError (.foldl (fun _ _ h => h.endTask) _ h)

theorem Mach.Canonical.beginDieReset {m : Mach} {d : ℕ} (h : m.Canonical) : (m.beginDieReset d).Canonical := by
  unfold Machine.Mach.beginDieReset
  dsimp only
  split
  · exact h
  · split
    · exact h
    · exact h

theorem Mach.Canonical.endDieReset {m : Mach} {d : ℕ} (h : m.Canonical) : (m.endDieReset d).Canonical := by
  unfold Machine.Mach.endDieReset
  dsimp only
  split
  · exact h
  · exact .foldl (fun _ _ h => h.endTask) _ h

theorem Mach.Canonical.setQueue {m : Mach} {q : ℕ} {x : Queue} (h : m.Canonical) : (m.setQueue q x).Canonical := h

theorem Mach.Canonical.putEn {m : Mach} {q : ℕ} {en : Bool} (h : m.Canonical) : (m.putEn q en).Canonical := by
  unfold Machine.Mach.putEn
  dsimp only
  exact h.write

theorem Mach.Canonical.enableQueue {m : Mach} {q : ℕ} (h : m.Canonical) : (m.enableQueue q).Canonical := by
  unfold Machine.Mach.enableQueue
  extract_lets e ctl
  clear_value e ctl
  split
  · exact .putEn h
  · exact h

theorem Mach.Canonical.disableQueue {m : Mach} {q : ℕ} (h : m.Canonical) : (m.disableQueue q).Canonical := by
  unfold Machine.Mach.disableQueue
  refine .putEn ?_
  dsimp only
  exact h

theorem Mach.Canonical.migResult {m : Mach} {host : Bool} {page : BitVec 36} {res : ℕ} (h : m.Canonical) :
    (m.migResult host page res).Canonical := h

theorem Mach.Canonical.migClaim {m : Mach} {host : Bool} {page : BitVec 36} (h : m.Canonical) : (m.migClaim host page).Canonical := by
  unfold Machine.Mach.migClaim
  split
  · split
    · exact h
    · exact h
  · split
    · exact h
    · exact h

theorem Mach.Canonical.migCommit {m : Mach} {host : Bool} {page : BitVec 36} (h : m.Canonical) : (m.migCommit host page).Canonical := by
  unfold Machine.Mach.migCommit
  split
  · split
    · exact h
    · exact h
  · exact h

theorem Mach.Canonical.migRelease {m : Mach} {host : Bool} {page : BitVec 36} (h : m.Canonical) : (m.migRelease host page).Canonical := by
  unfold Machine.Mach.migRelease
  split
  · split
    · exact h
    · exact h
  · exact h

theorem Mach.Canonical.migRequest {m : Mach} {v : Word} (h : m.Canonical) : (m.migRequest v).Canonical := by
  unfold Machine.Mach.migRequest
  dsimp only
  split
  · exact h.migClaim
  · split
    · exact h.migCommit
    · split
      · exact h.migRelease
      · exact h

theorem Mach.Canonical.writeDieReg {m : Mach} {d x : ℕ} {v : Word} (h : m.Canonical) : (m.writeDieReg d x v).Canonical := by
  unfold Machine.Mach.writeDieReg
  dsimp only
  split
  · exact h
  · split
    · split
      · exact h.beginDieReset
      · exact h
    · split
      · exact h
      · split
        · exact h
        · split
          · exact h
          · split
            · exact h
            · split
              · exact h
              · split
                · exact h
                · split
                  · exact h
                  · split
                    · exact h
                    · exact h

theorem Mach.Canonical.writeModReg {m : Mach} {x : ℕ} {v : Word} (h : m.Canonical) : (m.writeModReg x v).Canonical := by
  unfold Machine.Mach.writeModReg
  extract_lets r n home put
  have hput : ∀ r, (put r).Canonical := fun _ => h
  clear_value put
  exact .ite (hput _) (.ite (.ite h.moduleReset h) (.ite (hput _) (.ite (hput _) (.ite h.migRequest (.ite (hput _)
    (.ite (.ite h.beginStop h.resumeStop.putStopCtx) (.ite (hput _) (.ite (hput _) (.ite (hput _) (.ite (hput _) (.ite (hput _)
    (.ite (hput _) (.ite (.ite h.beginAuth h) (.ite (hput _) (.ite h.startScalar (.ite (hput _)
    (.ite (.ite h.enableQueue h.disableQueue) (.ite (hput _) (.ite (hput _) (.ite (hput _) (.ite (hput _) (.ite (hput _)
    (.ite (hput _) h)))))))))))))))))))))))

theorem Act.Keeps.writeRx {k : ℕ} {v : Word} : Act.Keeps (Machine.writeRx k v) := by
  unfold Machine.writeRx
  refine .bind .getC fun _ => .bind .raiseIf fun _ => .modM fun _ h => ?_
  dsimp only
  exact h

theorem Act.Keeps.regCheck {x : ℕ} : Act.Keeps (Machine.regCheck x) := by
  unfold Machine.regCheck
  split
  · exact .raise
  · dsimp only
    split
    · exact .bind .needSystem fun _ => .pure
    · exact .pure

theorem Act.Keeps.readReg {x : ℕ} : Act.Keeps (Machine.readReg x) := by
  unfold Machine.readReg
  refine .bind .regCheck fun _ => .bind .getM fun _ => ?_
  split
  · exact .pure
  · exact .pure
  · exact .pure
  · split
    · exact .pure
    · split
      · exact .readSqcsd
      · split
        · exact .pure
        · exact .pure

theorem Act.Keeps.writeReg {x : ℕ} {v : Word} : Act.Keeps (Machine.writeReg x v) := by
  unfold Machine.writeReg
  refine .bind .regCheck fun _ => ?_
  split
  · exact .modC
  · split
    · exact .writeRx
    · exact .modM fun _ h => h.writeDieReg
  · exact .modM fun _ h => h.writeModReg
  · split
    · exact .modM fun _ h => h
    · split
      · exact .writeSqcsd
      · split
        · exact .writeSqstart
        · exact .modM fun _ h => h

theorem Mach.Canonical.refuseHost {m : Mach} {cause : Cause} {ctx ld off : ℕ} {v : Word} (h : m.Canonical) :
    (m.refuseHost cause ctx ld off v).Canonical := h.logError

theorem Mach.Canonical.bar0Write {m : Mach} {ld die x : ℕ} {v : Word} (h : m.Canonical) : (m.bar0Write ld die x v).Canonical := by
  unfold Machine.Mach.bar0Write
  split
  · exact h.refuseHost
  · split
    · exact h
    · split
      · split
        · split
          · exact h
          · exact h
        · exact h.writeDieReg
      · split
        · exact h.writeModReg
        · exact h
      · exact h

end Sys2Proof.Machine
end


section
/-! SUPPORT. The canonical form of memory through the events of the host, of power and of errors, and the S slots. -/

namespace Sys2Proof.Machine

theorem Mach.Canonical.doorbell {m : Mach} {ld q : ℕ} {tail : W32} (h : m.Canonical) : (m.doorbell ld q tail).Canonical := by
  unfold Machine.Mach.doorbell
  dsimp only
  split
  · exact h
  · split
    · exact h.refuseHost
    · split
      · exact h
      · exact h

theorem NextCanonical.execDoorbell {ld q : ℕ} {tail : W32} {σ : State} (h : σ.Canonical) :
    NextCanonical (Machine.execDoorbell ld q tail σ) := .runEvent (fun _ h => h.doorbell) h

theorem Mach.Canonical.putChead {m : Mach} {ld q : ℕ} {head : W32} (h : m.Canonical) : (m.putChead ld q head).Canonical := by
  unfold Machine.Mach.putChead
  dsimp only
  split
  · exact h
  · exact h

theorem NextCanonical.execCompletionHeadWrite {ld q : ℕ} {head : W32} {σ : State} (h : σ.Canonical) :
    NextCanonical (Machine.execCompletionHeadWrite ld q head σ) := .runEvent (fun _ h => h.putChead) h

theorem Mach.Canonical.putCompletion {m : Mach} {q : ℕ} {b : List Byte} {status reason : ℕ} (h : m.Canonical) :
    (m.putCompletion q b status reason).Canonical := by
  unfold Machine.Mach.putCompletion
  dsimp only
  exact h.write

theorem Mach.Canonical.takeEntry {m : Mach} {q kind : ℕ} {f : Mach → Submitter → Word → Mach × ℕ × ℕ}
    (h : m.Canonical) (hf : ∀ m s a, m.Canonical → (f m s a).1.Canonical) : (m.takeEntry q kind f).Canonical := by
  unfold Machine.Mach.takeEntry
  split
  · exact h
  · exact .ite h (.ite h.putCompletion (hf _ _ _ h).putCompletion)

theorem NextCanonical.execSubmitTask {q : ℕ} {σ : State} (h : σ.Canonical) : NextCanonical (Machine.execSubmitTask q σ) := by
  refine .runEvent (fun _ h => h.takeEntry fun _ _ _ h => ?_) h
  dsimp only
  split
  · exact h.enrol
  · exact h.enrol

theorem NextCanonical.execSubmitGraphReplay {q : ℕ} {σ : State} (h : σ.Canonical) : NextCanonical (Machine.execSubmitGraphReplay q σ) := by
  refine .runEvent (fun _ h => h.takeEntry fun _ _ _ h => ?_) h
  dsimp only
  split
  · exact h.requestReplay
  · exact h.requestReplay
  · exact h.requestReplay
  · exact h.requestReplay

theorem NextCanonical.execPatchCommit {q : ℕ} {σ : State} (h : σ.Canonical) : NextCanonical (Machine.execPatchCommit q σ) := by
  refine .runEvent (fun _ h => h.takeEntry fun _ _ _ h => ?_) h
  dsimp only
  split
  · exact h
  · split
    · exact h
    · exact h.enterGraph.commitPatch

theorem NextCanonical.execReplayStart {graph : ℕ} {σ : State} (h : σ.Canonical) : NextCanonical (Machine.execReplayStart graph σ) := by
  unfold Machine.execReplayStart
  refine .runEvent (fun _ h => ?_) h
  split
  · exact h
  · split
    · exact h
    · exact h.startReplay

theorem NextCanonical.execPatchAreaCopyDone {graph : ℕ} {σ : State} (h : σ.Canonical) :
    NextCanonical (Machine.execPatchAreaCopyDone graph σ) := .runEvent (fun _ h => h.copyArea) h

theorem NextCanonical.execQctlEnable {q : BitVec 11} {σ : State} (h : σ.Canonical) : NextCanonical (Machine.execQctlEnable q σ) :=
  .runEvent (fun _ h => h.enableQueue) h

theorem NextCanonical.execQctlDisable {q : BitVec 11} {σ : State} (h : σ.Canonical) : NextCanonical (Machine.execQctlDisable q σ) :=
  .runEvent (fun _ h => h.disableQueue) h

theorem NextCanonical.execHostCxlMemWrite {pa : ℕ} {bytes : List Byte} {σ : State} (h : σ.Canonical) :
    NextCanonical (Machine.execHostCxlMemWrite pa bytes σ) := by
  unfold Machine.execHostCxlMemWrite
  split
  · exact .runEvent (fun _ h => h.write) h
  · trivial

theorem NextCanonical.execHostCxlMemRead {pa n : ℕ} {σ : State} (h : σ.Canonical) : NextCanonical (Machine.execHostCxlMemRead pa n σ) := by
  unfold Machine.execHostCxlMemRead
  split
  · exact .runEvent (fun _ h => h) h
  · trivial

theorem Mach.Canonical.firmwareWrite {m : Mach} {ld off : ℕ} {v : Word} (h : m.Canonical) : (m.firmwareWrite ld off v).Canonical := by
  unfold Machine.Mach.firmwareWrite
  split
  · exact h
  · exact h.spadWrite

theorem NextCanonical.execFirmwareWindowWrite {ld off : ℕ} {v : Word} {σ : State} (h : σ.Canonical) :
    NextCanonical (Machine.execFirmwareWindowWrite ld off v σ) := .runEvent (fun _ h => h.firmwareWrite) h

theorem Mach.Canonical.barWrite {m : Mach} {bar ld off : ℕ} {bytes : List Byte} (h : m.Canonical) :
    (m.barWrite bar ld off bytes).Canonical := by
  unfold Machine.Mach.barWrite
  dsimp only
  split
  · exact h
  · split
    · split
      · exact h.bar0Write
      · exact h
    · split
      · split
        · exact h
        · split
          · exact h.doorbell
          · exact h.putChead
      · split
        · exact h.firmwareWrite
        · exact h

theorem Mach.Canonical.hostWrite {m : Mach} {pa : ℕ} {bytes : List Byte} (h : m.Canonical) : (m.hostWrite pa bytes).Canonical := by
  unfold Machine.Mach.hostWrite
  split
  · exact h.write
  · exact h

theorem Mach.Canonical.hostRead {m : Mach} {pa n : ℕ} (h : m.Canonical) : (m.hostRead pa n).Canonical := by
  unfold Machine.Mach.hostRead
  split
  · exact h
  · exact h

theorem NextCanonical.execPowerGood {σ : State} (h : σ.Canonical) : NextCanonical (Machine.execPowerGood σ) :=
  .runEvent (fun _ h => .ite h Mem.canonical_reset) h

theorem NextCanonical.execPowerLost {σ : State} (h : σ.Canonical) : NextCanonical (Machine.execPowerLost σ) :=
  .runEvent (fun _ _ => Mem.canonical_reset) h

theorem NextCanonical.execFwcmdAuthenticate {σ : State} (h : σ.Canonical) : NextCanonical (Machine.execFwcmdAuthenticate σ) :=
  .runEvent (fun _ h => h.beginAuth) h

theorem NextCanonical.execAuthenticationComplete {result : FwResult} {σ : State} (h : σ.Canonical) :
    NextCanonical (Machine.execAuthenticationComplete result σ) := .runEvent (fun _ h => h.endAuth) h

theorem NextCanonical.execStage1Complete {fail : Option (Byte × Word)} {σ : State} (h : σ.Canonical) :
    NextCanonical (Machine.execStage1Complete fail σ) := by
  unfold Machine.execStage1Complete
  refine .runEvent (fun _ h => ?_) h
  split
  · exact h
  · split
    · exact h
    · exact h.toStage0

theorem NextCanonical.execStage2Complete {fail : Option Word} {ebnas : BitVec 16} {σ : State} (h : σ.Canonical) :
    NextCanonical (Machine.execStage2Complete fail ebnas σ) := by
  unfold Machine.execStage2Complete
  refine .runEvent (fun _ h => ?_) h
  split
  · exact h
  · split
    · exact h
    · exact h.toStage0

theorem NextCanonical.execScrunStart {v : Word} {σ : State} (h : σ.Canonical) : NextCanonical (Machine.execScrunStart v σ) :=
  .runEvent (fun _ h => h.startScalar) h

theorem NextCanonical.execMrstModuleReset {v : Word} {σ : State} (h : σ.Canonical) : NextCanonical (Machine.execMrstModuleReset v σ) :=
  .runEvent (fun _ h => h.writeModReg) h

theorem NextCanonical.execCxlReset {σ : State} (h : σ.Canonical) : NextCanonical (Machine.execCxlReset σ) :=
  .runEvent (fun _ h => h.moduleReset) h

theorem NextCanonical.execDrstDieReset {die : ℕ} {σ : State} (h : σ.Canonical) : NextCanonical (Machine.execDrstDieReset die σ) :=
  .runEvent (fun _ h => h.beginDieReset) h

theorem NextCanonical.execDieResetComplete {die : ℕ} {σ : State} (h : σ.Canonical) : NextCanonical (Machine.execDieResetComplete die σ) :=
  .runEvent (fun _ h => h.endDieReset) h

theorem NextCanonical.execMigreqClaim {host : Bool} {page : BitVec 36} {σ : State} (h : σ.Canonical) :
    NextCanonical (Machine.execMigreqClaim host page σ) := .runEvent (fun _ h => h.migClaim) h

theorem NextCanonical.execMigreqCommit {host : Bool} {page : BitVec 36} {σ : State} (h : σ.Canonical) :
    NextCanonical (Machine.execMigreqCommit host page σ) := .runEvent (fun _ h => h.migCommit) h

theorem NextCanonical.execMigreqRelease {host : Bool} {page : BitVec 36} {σ : State} (h : σ.Canonical) :
    NextCanonical (Machine.execMigreqRelease host page σ) := .runEvent (fun _ h => h.migRelease) h

theorem NextCanonical.execPowerWindowCheck {die watts temp : ℕ} {σ : State} (h : σ.Canonical) :
    NextCanonical (Machine.execPowerWindowCheck die watts temp σ) := by
  unfold Machine.execPowerWindowCheck
  refine .runEvent (fun _ h => ?_) h
  dsimp only
  split
  · exact h
  · exact h

theorem NextCanonical.execThermalTrip {die : ℕ} {σ : State} (h : σ.Canonical) : NextCanonical (Machine.execThermalTrip die σ) := by
  unfold Machine.execThermalTrip
  refine .runEvent (fun _ h => ?_) h
  dsimp only
  split
  · exact h
  · exact .failDie h

theorem Mach.Canonical.countSoft {m : Mach} {k : ℕ} (h : m.Canonical) : (m.countSoft k).Canonical := h

theorem NextCanonical.execCorrectedError {domain : ℕ} {σ : State} (h : σ.Canonical) : NextCanonical (Machine.execCorrectedError domain σ) :=
  .runEvent (fun _ h => h) h

theorem Mach.Canonical.markGranule {m : Mach} {pa : ℕ} (h : m.Canonical) : (m.markGranule pa).Canonical := by
  obtain ⟨hview, hheld, hpoison, hrest⟩ := id h
  unfold Machine.Mach.markGranule
  extract_lets marks
  have hmarks : SMap.wf false marks = true := SMap.wf_foldl _ _ (fun _ _ h => SMap.wf_set h) hpoison
  clear_value marks
  exact .ite h (.withMem ⟨hview, hheld, hmarks, hrest⟩)

theorem NextCanonical.execUncorrectableError {place : ErrorPlace} {σ : State} (h : σ.Canonical) :
    NextCanonical (Machine.execUncorrectableError place σ) := by
  refine .runEvent (fun m h => ?_) h
  cases place with
  | memory pa => exact h.markGranule
  | scratchpad core off =>
    obtain ⟨hview, hheld, hpoison, hclock, hspad, hmarks, hspadHeld⟩ := id h
    have hmarks' : SMap.wf false (SMap.set false m.mem.spadPoison (skey core off / 64) true) = true := SMap.wf_set hmarks
    exact .ite (.withMem ⟨hview, hheld, hpoison, hclock, hspad, hmarks', hspadHeld⟩) h
  | cachedCopy domain => exact h.countSoft
  | loadBlock cont blk line =>
    dsimp only
    split
    · exact h
    · split
      · exact h
      · exact h.setCont
  | contextState cont =>
    dsimp only
    split
    · exact h
    · exact .ite h h.reportEnd
  | dieControl die => exact .ite h h.failDie
  | moduleControl code => exact h.toStage0
  | teamImage task team =>
    dsimp only
    split
    · exact h
    · exact h.endTask

theorem Mach.Canonical.loseJob {m : Mach} {j : Job} (h : m.Canonical) : (m.loseJob j).Canonical := h.jobFails

theorem Mach.Canonical.loseSteals {m : Mach} {away : ℕ → Bool} (h : m.Canonical) : (m.loseSteals away).Canonical := by
  unfold Machine.Mach.loseSteals
  dsimp only
  refine .foldl (fun _ _ h => ?_) _ ?_
  · split
    · split
      · exact .dropGuest h
      · exact h
    · exact h
  · refine .foldl (fun _ _ h => ?_) _ h
    split
    · split
      · exact .sendTo h
      · exact h
    · split
      · exact .endTask h
      · exact h
    · exact h

theorem Mach.Canonical.reroute {m : Mach} {port : ℕ} (h : m.Canonical) : (m.reroute port).Canonical := h

theorem NextCanonical.execPodLinkDown {port : ℕ} {trainingLost : Bool} {σ : State} (h : σ.Canonical) :
    NextCanonical (Machine.execPodLinkDown port trainingLost σ) := by
  unfold Machine.execPodLinkDown
  refine .runEvent (fun _ h => ?_) h
  split
  · exact h
  · dsimp only
    exact .loseSteals (.foldl (fun _ _ h => .loseJob h) _ (.logError h))

theorem NextCanonical.execEbnasPortTimeout {chip : ℕ} {σ : State} (h : σ.Canonical) :
    NextCanonical (Machine.execEbnasPortTimeout chip σ) := by
  unfold Machine.execEbnasPortTimeout
  refine .runEvent (fun _ h => ?_) h
  dsimp only
  split
  · exact h
  · exact .logError h

theorem NextCanonical.execAdd {gu : Guard} {d a b : GF} {σ : State} (h : σ.Canonical) : NextCanonical (Machine.execAdd gu d a b σ) :=
  .runSlot .opRR h

theorem NextCanonical.execSub {gu : Guard} {d a b : GF} {σ : State} (h : σ.Canonical) : NextCanonical (Machine.execSub gu d a b σ) :=
  .runSlot .opRR h

theorem NextCanonical.execAddi {gu : Guard} {d a : GF} {m : BitVec 11} {σ : State} (h : σ.Canonical) :
    NextCanonical (Machine.execAddi gu d a m σ) := .runSlot .opR h

theorem NextCanonical.execAddsh {gu : Guard} {d a b : GF} {s : BitVec 6} {σ : State} (h : σ.Canonical) :
    NextCanonical (Machine.execAddsh gu d a b s σ) := .runSlot .opRR h

theorem NextCanonical.execMul {gu : Guard} {d a b : GF} {σ : State} (h : σ.Canonical) : NextCanonical (Machine.execMul gu d a b σ) :=
  .runSlot .opRR h

theorem NextCanonical.execMulh {gu : Guard} {d a b : GF} {σ : State} (h : σ.Canonical) : NextCanonical (Machine.execMulh gu d a b σ) :=
  .runSlot .opRR h

theorem NextCanonical.execMulhu {gu : Guard} {d a b : GF} {σ : State} (h : σ.Canonical) : NextCanonical (Machine.execMulhu gu d a b σ) :=
  .runSlot .opRR h

theorem NextCanonical.execMadd {gu : Guard} {d a b : GF} {σ : State} (h : σ.Canonical) : NextCanonical (Machine.execMadd gu d a b σ) :=
  .runSlot .opRRR h

theorem NextCanonical.execDiv {gu : Guard} {d a b : GF} {σ : State} (h : σ.Canonical) : NextCanonical (Machine.execDiv gu d a b σ) :=
  .runSlot .opRR h

theorem NextCanonical.execDivu {gu : Guard} {d a b : GF} {σ : State} (h : σ.Canonical) : NextCanonical (Machine.execDivu gu d a b σ) :=
  .runSlot .opRR h

theorem NextCanonical.execRem {gu : Guard} {d a b : GF} {σ : State} (h : σ.Canonical) : NextCanonical (Machine.execRem gu d a b σ) :=
  .runSlot .opRR h

theorem NextCanonical.execRemu {gu : Guard} {d a b : GF} {σ : State} (h : σ.Canonical) : NextCanonical (Machine.execRemu gu d a b σ) :=
  .runSlot .opRR h

theorem NextCanonical.execMin {gu : Guard} {d a b : GF} {σ : State} (h : σ.Canonical) : NextCanonical (Machine.execMin gu d a b σ) :=
  .runSlot .opRR h

theorem NextCanonical.execMax {gu : Guard} {d a b : GF} {σ : State} (h : σ.Canonical) : NextCanonical (Machine.execMax gu d a b σ) :=
  .runSlot .opRR h

theorem NextCanonical.execMinu {gu : Guard} {d a b : GF} {σ : State} (h : σ.Canonical) : NextCanonical (Machine.execMinu gu d a b σ) :=
  .runSlot .opRR h

theorem NextCanonical.execMaxu {gu : Guard} {d a b : GF} {σ : State} (h : σ.Canonical) : NextCanonical (Machine.execMaxu gu d a b σ) :=
  .runSlot .opRR h

theorem NextCanonical.execAnd {gu : Guard} {d a b : GF} {σ : State} (h : σ.Canonical) : NextCanonical (Machine.execAnd gu d a b σ) :=
  .runSlot .opRR h

theorem NextCanonical.execOr {gu : Guard} {d a b : GF} {σ : State} (h : σ.Canonical) : NextCanonical (Machine.execOr gu d a b σ) :=
  .runSlot .opRR h

theorem NextCanonical.execXor {gu : Guard} {d a b : GF} {σ : State} (h : σ.Canonical) : NextCanonical (Machine.execXor gu d a b σ) :=
  .runSlot .opRR h

theorem NextCanonical.execAndn {gu : Guard} {d a b : GF} {σ : State} (h : σ.Canonical) : NextCanonical (Machine.execAndn gu d a b σ) :=
  .runSlot .opRR h

theorem NextCanonical.execAndi {gu : Guard} {d a : GF} {m : BitVec 11} {σ : State} (h : σ.Canonical) :
    NextCanonical (Machine.execAndi gu d a m σ) := .runSlot .opR h

theorem NextCanonical.execOri {gu : Guard} {d a : GF} {m : BitVec 11} {σ : State} (h : σ.Canonical) :
    NextCanonical (Machine.execOri gu d a m σ) := .runSlot .opR h

theorem NextCanonical.execXori {gu : Guard} {d a : GF} {m : BitVec 11} {σ : State} (h : σ.Canonical) :
    NextCanonical (Machine.execXori gu d a m σ) := .runSlot .opR h

theorem NextCanonical.execSll {gu : Guard} {d a b : GF} {σ : State} (h : σ.Canonical) : NextCanonical (Machine.execSll gu d a b σ) :=
  .runSlot .opRR h

theorem NextCanonical.execSrl {gu : Guard} {d a b : GF} {σ : State} (h : σ.Canonical) : NextCanonical (Machine.execSrl gu d a b σ) :=
  .runSlot .opRR h

theorem NextCanonical.execSra {gu : Guard} {d a b : GF} {σ : State} (h : σ.Canonical) : NextCanonical (Machine.execSra gu d a b σ) :=
  .runSlot .opRR h

theorem NextCanonical.execSlli {gu : Guard} {d a : GF} {n : BitVec 6} {σ : State} (h : σ.Canonical) :
    NextCanonical (Machine.execSlli gu d a n σ) := .runSlot .opR h

theorem NextCanonical.execSrli {gu : Guard} {d a : GF} {n : BitVec 6} {σ : State} (h : σ.Canonical) :
    NextCanonical (Machine.execSrli gu d a n σ) := .runSlot .opR h

theorem NextCanonical.execSrai {gu : Guard} {d a : GF} {n : BitVec 6} {σ : State} (h : σ.Canonical) :
    NextCanonical (Machine.execSrai gu d a n σ) := .runSlot .opR h

theorem NextCanonical.execRor {gu : Guard} {d a b : GF} {σ : State} (h : σ.Canonical) : NextCanonical (Machine.execRor gu d a b σ) :=
  .runSlot .opRR h

theorem NextCanonical.execClz {gu : Guard} {d a : GF} {σ : State} (h : σ.Canonical) : NextCanonical (Machine.execClz gu d a σ) :=
  .runSlot .opR h

theorem NextCanonical.execCtz {gu : Guard} {d a : GF} {σ : State} (h : σ.Canonical) : NextCanonical (Machine.execCtz gu d a σ) :=
  .runSlot .opR h

theorem NextCanonical.execPopc {gu : Guard} {d a : GF} {σ : State} (h : σ.Canonical) : NextCanonical (Machine.execPopc gu d a σ) :=
  .runSlot .opR h

theorem NextCanonical.execBext {gu : Guard} {d a b : GF} {s : Bool} {σ : State} (h : σ.Canonical) :
    NextCanonical (Machine.execBext gu d a b s σ) := .runSlot .opRR h

theorem NextCanonical.execBins {gu : Guard} {d a b : GF} {σ : State} (h : σ.Canonical) : NextCanonical (Machine.execBins gu d a b σ) :=
  .runSlot .opRRR h

theorem NextCanonical.execMovi {gu : Guard} {d : GF} {m : BitVec 16} {σ : State} (h : σ.Canonical) :
    NextCanonical (Machine.execMovi gu d m σ) := .runSlot .writeG h

theorem NextCanonical.execMovk {k : BitVec 2} {d : GF} {m : BitVec 16} {σ : State} (h : σ.Canonical) :
    NextCanonical (Machine.execMovk k d m σ) := .runSlot (.bind .readG fun _ => .writeG) h

theorem NextCanonical.execSel {gu : Guard} {d a b : GF} {q : BitVec 3} {σ : State} (h : σ.Canonical) :
    NextCanonical (Machine.execSel gu d a b q σ) := .runSlot (.bind .readG fun _ => .bind .readG fun _ => .bind .getC fun _ => .writeG) h

theorem NextCanonical.execCmpeq {gu : Guard} {d : BitVec 3} {a b : GF} {σ : State} (h : σ.Canonical) :
    NextCanonical (Machine.execCmpeq gu d a b σ) := .runSlot .opPred h

theorem NextCanonical.execCmpne {gu : Guard} {d : BitVec 3} {a b : GF} {σ : State} (h : σ.Canonical) :
    NextCanonical (Machine.execCmpne gu d a b σ) := .runSlot .opPred h

theorem NextCanonical.execCmplt {gu : Guard} {d : BitVec 3} {a b : GF} {σ : State} (h : σ.Canonical) :
    NextCanonical (Machine.execCmplt gu d a b σ) := .runSlot .opPred h

theorem NextCanonical.execCmpltu {gu : Guard} {d : BitVec 3} {a b : GF} {σ : State} (h : σ.Canonical) :
    NextCanonical (Machine.execCmpltu gu d a b σ) := .runSlot .opPred h

theorem NextCanonical.execCmpge {gu : Guard} {d : BitVec 3} {a b : GF} {σ : State} (h : σ.Canonical) :
    NextCanonical (Machine.execCmpge gu d a b σ) := .runSlot .opPred h

theorem NextCanonical.execCmpgeu {gu : Guard} {d : BitVec 3} {a b : GF} {σ : State} (h : σ.Canonical) :
    NextCanonical (Machine.execCmpgeu gu d a b σ) := .runSlot .opPred h

theorem NextCanonical.execCmpeqi {gu : Guard} {d : BitVec 3} {a : GF} {m : BitVec 11} {σ : State} (h : σ.Canonical) :
    NextCanonical (Machine.execCmpeqi gu d a m σ) := .runSlot .opPredR h

theorem NextCanonical.execCmplti {gu : Guard} {d : BitVec 3} {a : GF} {m : BitVec 11} {σ : State} (h : σ.Canonical) :
    NextCanonical (Machine.execCmplti gu d a m σ) := .runSlot .opPredR h

theorem NextCanonical.execPlog {gu : Guard} {d a b : BitVec 3} {t : BitVec 4} {σ : State} (h : σ.Canonical) :
    NextCanonical (Machine.execPlog gu d a b t σ) := .runSlot .modC h

theorem NextCanonical.execMovpGet {gu : Guard} {d : GF} {σ : State} (h : σ.Canonical) : NextCanonical (Machine.execMovpGet gu d σ) :=
  .runSlot (.bind .getC fun _ => .writeG) h

theorem NextCanonical.execMovpSet {gu : Guard} {a : GF} {σ : State} (h : σ.Canonical) : NextCanonical (Machine.execMovpSet gu a σ) :=
  .runSlot (.bind .readG fun _ => .modC) h

theorem NextCanonical.execFadd {gu : Guard} {d a b : GF} {z : Bool} {σ : State} (h : σ.Canonical) :
    NextCanonical (Machine.execFadd gu d a b z σ) := .runSlot .opFp h

theorem NextCanonical.execFsub {gu : Guard} {d a b : GF} {z : Bool} {σ : State} (h : σ.Canonical) :
    NextCanonical (Machine.execFsub gu d a b z σ) := .runSlot .opFp h

theorem NextCanonical.execFmul {gu : Guard} {d a b : GF} {z : Bool} {σ : State} (h : σ.Canonical) :
    NextCanonical (Machine.execFmul gu d a b z σ) := .runSlot .opFp h

theorem NextCanonical.execFfma {gu : Guard} {d a b : GF} {z : Bool} {σ : State} (h : σ.Canonical) :
    NextCanonical (Machine.execFfma gu d a b z σ) := by
  unfold Machine.execFfma
  refine .runSlot ?_ h
  refine .bind .readG fun _ => .bind .readG fun _ => .bind .readG fun _ => ?_
  dsimp only
  exact .writeFp

theorem NextCanonical.execFdiv {gu : Guard} {d a b : GF} {z : Bool} {σ : State} (h : σ.Canonical) :
    NextCanonical (Machine.execFdiv gu d a b z σ) := .runSlot .opFp h

theorem NextCanonical.execFsqrt {gu : Guard} {d a : GF} {z : Bool} {σ : State} (h : σ.Canonical) :
    NextCanonical (Machine.execFsqrt gu d a z σ) := by
  unfold Machine.execFsqrt
  refine .runSlot ?_ h
  refine .bind .readG fun _ => ?_
  dsimp only
  exact .writeFp

theorem NextCanonical.execFmin {gu : Guard} {d a b : GF} {z : Bool} {σ : State} (h : σ.Canonical) :
    NextCanonical (Machine.execFmin gu d a b z σ) := .runSlot .opFp h

theorem NextCanonical.execFmax {gu : Guard} {d a b : GF} {z : Bool} {σ : State} (h : σ.Canonical) :
    NextCanonical (Machine.execFmax gu d a b z σ) := .runSlot .opFp h

theorem NextCanonical.execFcmpeq {gu : Guard} {d : BitVec 3} {a b : GF} {z : Bool} {σ : State} (h : σ.Canonical) :
    NextCanonical (Machine.execFcmpeq gu d a b z σ) := .runSlot .opFpCmp h

theorem NextCanonical.execFcmplt {gu : Guard} {d : BitVec 3} {a b : GF} {z : Bool} {σ : State} (h : σ.Canonical) :
    NextCanonical (Machine.execFcmplt gu d a b z σ) := .runSlot .opFpCmp h

theorem NextCanonical.execFcmple {gu : Guard} {d : BitVec 3} {a b : GF} {z : Bool} {σ : State} (h : σ.Canonical) :
    NextCanonical (Machine.execFcmple gu d a b z σ) := .runSlot .opFpCmp h

theorem NextCanonical.execFcvt {gu : Guard} {d a : GF} {z : Bool} {σ : State} (h : σ.Canonical) :
    NextCanonical (Machine.execFcvt gu d a z σ) := .runSlot (.bind .readG fun _ => .writeFp) h

theorem NextCanonical.execFtoi {gu : Guard} {d a : GF} {r u z : Bool} {σ : State} (h : σ.Canonical) :
    NextCanonical (Machine.execFtoi gu d a r u z σ) := by
  unfold Machine.execFtoi
  refine .runSlot ?_ h
  refine .bind .readG fun _ => ?_
  dsimp only
  exact .bind .writeG fun _ => .flagEvents

theorem NextCanonical.execItof {gu : Guard} {d a : GF} {u z : Bool} {σ : State} (h : σ.Canonical) :
    NextCanonical (Machine.execItof gu d a u z σ) := by
  unfold Machine.execItof
  refine .runSlot ?_ h
  refine .bind .readG fun _ => ?_
  dsimp only
  exact .writeFp

theorem NextCanonical.execFclass {gu : Guard} {d a : GF} {z : Bool} {σ : State} (h : σ.Canonical) :
    NextCanonical (Machine.execFclass gu d a z σ) := .runSlot .opR h

end Sys2Proof.Machine
end


section
/-! SUPPORT. The canonical form of memory through the scheduler's events and the system instructions, and through every instruction. -/

namespace Sys2Proof.Machine

theorem NextCanonical.execPickerPreemptContext {core : ℕ} {σ : State} (h : σ.Canonical) :
    NextCanonical (Machine.execPickerPreemptContext core σ) := by
  unfold Machine.execPickerPreemptContext
  refine .runEvent (fun _ h => ?_) h
  split
  · exact h
  · split
    · exact h
    · split
      · exact h
      · split
        · exact h.reportEnd
        · refine .pick ?_
          dsimp only
          exact h.recordCont

theorem NextCanonical.execWriteApplyAtDie {die src : ℕ} {σ : State} (h : σ.Canonical) :
    NextCanonical (Machine.execWriteApplyAtDie die src σ) := by
  unfold Machine.execWriteApplyAtDie
  refine .runEvent (fun _ h => ?_) h
  split
  · exact h
  · split
    · exact h.arrive
    · exact h

theorem NextCanonical.execStrongOperationAtHome {src : Byte} {op : StrongOp} {pa : BitVec 52} {wide uns : Bool} {v : Word × Word}
    {σ : State} (h : σ.Canonical) :
    NextCanonical (Machine.execStrongOperationAtHome src op pa wide uns v σ) := by
  refine .runEvent (fun m h => ?_) h
  extract_lets n a e m1 old new m2
  have h1 : m1.Canonical := .withMem (.gather h)
  clear_value m1 new
  refine .ite h (.sendTo ?_)
  unfold m2
  split
  · exact .withMem h1.write
  · exact h1

theorem NextCanonical.execLoadBlockFillComplete {cont blk : ℕ} {σ : State} (h : σ.Canonical) :
    NextCanonical (Machine.execLoadBlockFillComplete cont blk σ) := by
  unfold Machine.execLoadBlockFillComplete
  refine .runEvent (fun _ h => ?_) h
  split
  · exact h
  · exact h.fillBlock

theorem NextCanonical.execPageWalkComplete {die task : ℕ} {va : Word} {σ : State} (h : σ.Canonical) :
    NextCanonical (Machine.execPageWalkComplete die task va σ) := by
  unfold Machine.execPageWalkComplete
  refine .runEvent (fun _ h => ?_) h
  split
  · exact h
  · split
    · exact h
    · split
      · exact h
      · split
        · exact h
        · exact h

theorem Mach.Canonical.finishTx {m : Mach} {c : Cont} {n : ℕ} {x : Tx} {p : TxPend} (h : m.Canonical) : (m.finishTx c n x p).Canonical := by
  unfold Machine.Mach.finishTx
  dsimp only
  split
  · exact h.setCont.deliver
  · exact h.setCont

theorem Mach.Canonical.redoTx {m : Mach} {c : Cont} {t : Task} {n : ℕ} {x : Tx} {p : TxPend} (h : m.Canonical) :
    (m.redoTx c t n x p).Canonical := by
  unfold Machine.Mach.redoTx
  split
  · exact h
  · exact .finishTx h
  · dsimp only
    split
    · exact .setCont h
    · split
      · exact .switchTo (.setCont h)
      · exact .switchTo (.report (.switchTo (.setCont h)))

theorem NextCanonical.execTranslationComplete {cont n : ℕ} {σ : State} (h : σ.Canonical) :
    NextCanonical (Machine.execTranslationComplete cont n σ) := by
  unfold Machine.execTranslationComplete
  refine .runEvent (fun _ h => ?_) h
  split
  · exact h
  · split
    · split
      · exact h.redoTx
      · exact h.finishTx
    · exact h

theorem NextCanonical.execTaskOrderingRelease {task : ℕ} {σ : State} (h : σ.Canonical) :
    NextCanonical (Machine.execTaskOrderingRelease task σ) := by
  unfold Machine.execTaskOrderingRelease
  refine .runEvent (fun _ h => ?_) h
  split
  · exact h
  · dsimp only
    split
    · exact h
    · exact Mem.Canonical.foldl (fun _ _ h => Mem.Canonical.foldl (fun _ _ h => h.catchUp) _ h) _ h

theorem NextCanonical.execTaskLeasing {task : ℕ} {σ : State} (h : σ.Canonical) : NextCanonical (Machine.execTaskLeasing task σ) := by
  unfold Machine.execTaskLeasing
  refine .runEvent (fun _ h => ?_) h
  split
  · exact h
  · split
    · exact h
    · dsimp only
      exact .createTeams (.releaseRecords h)

theorem Mach.Canonical.failTeam {m : Mach} {t : Team} {cause : Cause} (h : m.Canonical) : (m.failTeam t cause).Canonical := h.endTask

theorem Mach.Canonical.dispatchGo {m : Mach} {die : ℕ} {l : List Team} (h : m.Canonical) : (m.dispatchGo die l).Canonical := by
  induction l with
  | nil => exact h
  | cons t r ih =>
    unfold Machine.Mach.dispatchGo
    split
    · exact h.failTeam
    · split
      · exact h.makeResident
      · split
        · next he =>
          obtain ⟨k, _, hk⟩ := Option.bind_eq_some_iff.mp he
          exact h.preempt hk
        · exact ih

theorem NextCanonical.execTeamDispatch {die : ℕ} {σ : State} (h : σ.Canonical) : NextCanonical (Machine.execTeamDispatch die σ) := by
  unfold Machine.execTeamDispatch
  refine .runEvent (fun _ h => ?_) h
  dsimp only
  exact h.retireTeams.dispatchGo

theorem NextCanonical.execTeamSwapOut {task team : ℕ} {σ : State} (h : σ.Canonical) :
    NextCanonical (Machine.execTeamSwapOut task team σ) := by
  unfold Machine.execTeamSwapOut
  refine .runEvent (fun _ h => ?_) h
  split
  · exact h
  · split
    · split
      · exact h.swapOut
      · exact h
    · exact h

theorem NextCanonical.execTeamSwapIn {task team : ℕ} {σ : State} (h : σ.Canonical) :
    NextCanonical (Machine.execTeamSwapIn task team σ) := by
  unfold Machine.execTeamSwapIn
  refine .runEvent (fun _ h => ?_) h
  split
  · exact h
  · dsimp only
    split
    · exact h.retireTeams
    · split
      · exact h.retireTeams.failTeam
      · split
        · exact h.retireTeams.makeResident
        · exact h.retireTeams

theorem NextCanonical.execSliceQuantumExpiry {die : ℕ} {σ : State} (h : σ.Canonical) :
    NextCanonical (Machine.execSliceQuantumExpiry die σ) := by
  unfold Machine.execSliceQuantumExpiry
  refine .runEvent (fun _ h => ?_) h
  dsimp only
  split
  · exact h
  · split
    · split
      · exact h
      · exact h
    · exact h

theorem NextCanonical.execSwapAbandonTimeout {task team : ℕ} {σ : State} (h : σ.Canonical) :
    NextCanonical (Machine.execSwapAbandonTimeout task team σ) := by
  unfold Machine.execSwapAbandonTimeout
  refine .runEvent (fun _ h => ?_) h
  split
  · exact h
  · split
    · split
      · exact h.abandonSwap
      · exact h
    · exact h

theorem NextCanonical.execTaskCompletion {task : ℕ} {σ : State} (h : σ.Canonical) : NextCanonical (Machine.execTaskCompletion task σ) :=
  .runEvent (fun _ h => h.completeTask) h

theorem Mach.Canonical.overran {m : Mach} {d : ℕ} {ctx : BitVec 12} {seq : ℕ} (h : m.Canonical) : (m.overran d ctx seq).Canonical :=
  .logError h

theorem Mach.Canonical.endReplayBound {m : Mach} {g : Graph} (h : m.Canonical) : (m.endReplayBound g).Canonical :=
  .setGraph (.unreserve (.foldl (fun _ _ h => .setTask (.unreserve h)) _ h))

theorem NextCanonical.execDeadlineOverrun {task : ℕ} {σ : State} (h : σ.Canonical) :
    NextCanonical (Machine.execDeadlineOverrun task σ) := by
  unfold Machine.execDeadlineOverrun
  refine .runEvent (fun _ h => ?_) h
  split
  · split
    · exact h
    · split
      · exact h
      · exact .overran (.endReplayBound h)
  · split
    · split
      · exact h
      · split
        · exact h
        · exact .overran h
    · split
      · exact h
      · split
        · exact h
        · split
          · exact h
          · exact .overran h

theorem NextCanonical.execStopBegin {ctx : BitVec 12} {σ : State} (h : σ.Canonical) : NextCanonical (Machine.execStopBegin ctx σ) :=
  .runEvent (fun _ h => h.beginStop) h

theorem NextCanonical.execStopResume {σ : State} (h : σ.Canonical) : NextCanonical (Machine.execStopResume σ) :=
  .runEvent (fun _ h => h.resumeStop) h

theorem NextCanonical.execStopSourcesStopped {σ : State} (h : σ.Canonical) : NextCanonical (Machine.execStopSourcesStopped σ) :=
  .runEvent (fun _ h => h.stopSources) h

theorem NextCanonical.execStopDrainComplete {σ : State} (h : σ.Canonical) : NextCanonical (Machine.execStopDrainComplete σ) :=
  .runEvent (fun _ h => h.stopDrained) h

theorem NextCanonical.execStopDrainTimeout {σ : State} (h : σ.Canonical) : NextCanonical (Machine.execStopDrainTimeout σ) :=
  .runEvent (fun _ h => h.stopTimeout) h

theorem NextCanonical.execBobbinTokenArrival {gen : W32} {loads : List (ℕ × Byte)} {reqs : List StealReq} {σ : State} (h : σ.Canonical) :
    NextCanonical (Machine.execBobbinTokenArrival gen loads reqs σ) := by
  unfold Machine.execBobbinTokenArrival
  refine .runEvent (fun _ h => ?_) h
  split
  · exact h
  · exact h

theorem Mach.Canonical.sendTeam {m : Mach} {t : Team} {r : StealReq} (h : m.Canonical) : (m.sendTeam t r).Canonical := by
  unfold Machine.Mach.sendTeam
  split
  · exact h
  · extract_lets d m1 m2
    have h1 : m1.Canonical := .withMem (.spread (.catchUp (.catchUp h)))
    clear_value m1
    exact .sendTo (.setTeam (.ite h1 h1.firstDispatch))

theorem Mach.Canonical.serve {m : Mach} {r : StealReq} {limit : ℕ} (h : m.Canonical) : (m.serve r limit).1.Canonical := by
  unfold Machine.Mach.serve
  refine .foldlPair (fun _ _ h => ?_) _ h
  dsimp only
  split
  · exact h
  · exact h.sendTeam

theorem Mach.Canonical.passToken {m : Mach} {loads : List (ℕ × Byte)} {reqs : List StealReq} (h : m.Canonical) :
    (m.passToken loads reqs).Canonical := by
  unfold Machine.Mach.passToken
  split
  · exact h
  · exact .sendTo h

theorem NextCanonical.execBobholdExpiry {σ : State} (h : σ.Canonical) : NextCanonical (Machine.execBobholdExpiry σ) := by
  unfold Machine.execBobholdExpiry
  refine .runEvent (fun _ h => ?_) h
  split
  · exact h
  · dsimp only
    refine .passToken (.foldlPair (fun _ _ h => ?_) _ h)
    split
    · exact h
    · exact h.serve

theorem NextCanonical.execBobbinTokenRegeneration {reach : ℕ} {σ : State} (h : σ.Canonical) :
    NextCanonical (Machine.execBobbinTokenRegeneration reach σ) := by
  unfold Machine.execBobbinTokenRegeneration
  refine .runEvent (fun _ h => ?_) h
  split
  · exact h
  · exact h

theorem NextCanonical.execStolenTeamArrival {origin die tag size : ℕ} {σ : State} (h : σ.Canonical) :
    NextCanonical (Machine.execStolenTeamArrival origin die tag size σ) := by
  unfold Machine.execStolenTeamArrival
  refine .runEvent (fun _ h => ?_) h
  split
  · exact h.landTeam
  · exact h

theorem NextCanonical.execStealAcknowledge {task team : ℕ} {σ : State} (h : σ.Canonical) :
    NextCanonical (Machine.execStealAcknowledge task team σ) := by
  unfold Machine.execStealAcknowledge
  refine .runEvent (fun _ h => ?_) h
  split
  · exact h
  · split
    · exact h
    · exact h

theorem Mach.Canonical.guestAccess {m : Mach} {c : Cont} {k : ℕ} {acc : GuestAcc} {ps : List (ℕ × ℕ)} {size : ℕ} {v : Word}
    (h : m.Canonical) :
    (m.guestAccess c k acc ps size v).Canonical := by
  unfold Machine.Mach.guestAccess
  dsimp only
  split
  · split
    · exact .sendTo (Mem.Canonical.observe h)
    · exact .sendTo (Mem.Canonical.observe h)
  · exact Mem.Canonical.writeParts h
  · refine .sendTo ?_
    split
    · exact Mach.Canonical.withMem (.spread h)
    · exact h
  · split
    · exact .sendTo (.placePrep h)
    · refine .sendTo (.placeAcquire ?_)
      split
      · exact .placeWrite (.placePrep h)
      · exact .placePrep h

theorem NextCanonical.execStolenTeamAccess {task team rank : ℕ} {acc : GuestAcc} {va : Word} {size : ℕ} {v : Word} {σ : State}
    (h : σ.Canonical) :
    NextCanonical (Machine.execStolenTeamAccess task team rank acc va size v σ) := by
  unfold Machine.execStolenTeamAccess
  refine .runEvent (fun _ h => ?_) h
  split
  · dsimp only
    split
    · split
      · exact h
      · split
        · exact h
        · split
          · exact h.endTask
          · exact h.sendTo
        · exact h.guestAccess
    · split
      · exact h
      · split
        · exact h
        · split
          · exact h.endTask
          · exact h.sendTo
        · exact h.guestAccess
  · exact h

theorem Act.Keeps.sendRequest : Act.Keeps Machine.sendRequest :=
  .bind .reportPoint fun _ => .bind .awaitFills fun _ => .bind .performEarlier fun _ => .modM fun _ h => h.catchUp

theorem Act.Keeps.probe {x : Word} {n : ℕ} : Act.Keeps (Machine.probe x n) := by
  unfold Machine.probe
  refine .bind .raiseIf fun _ => .bind .getM fun _ => ?_
  split
  · exact .raise
  · split
    · exact .pure
    · exact .raiseT
    · exact .await

theorem Act.Keeps.checkDest {d : GF} : Act.Keeps (Machine.checkDest d) := by
  unfold Machine.checkDest
  refine .bind .getC fun _ => .bind .awaitIf fun _ => ?_
  split
  · exact .pure
  · split
    · exact .raise
    · split
      · exact .raise
      · exact .raiseIf

theorem Act.Keeps.awaitSources : Act.Keeps Machine.awaitSources := .bind .getM fun _ => .awaitIf

theorem Act.Keeps.expect {d : GF} {v : Option Word} : Act.Keeps (Machine.expect d v) := .modC

/-- An action that reads the machine keeps the form where what it does with the machine read does. -/
theorem Act.Keeps.bindGetM {α : Type} {f : Mach → Act α} (hf : ∀ m, m.Canonical → Holds (fun p : α × Mach => p.2.Canonical) (f m m)) :
    Act.Keeps (Machine.getM >>= f) := fun m h => hf m h

theorem Act.Keeps.atOrigin {d : GF} {r : GuestReq} {act : Act (Option Word)} (ha : act.Keeps) : Act.Keeps (Machine.atOrigin d r act) := by
  unfold Machine.atOrigin
  refine .bind .getM fun _ => ?_
  split
  · exact ha
  · exact .bind (.modM fun _ h => h.sendTo) fun _ => .pure

theorem Act.Keeps.writeOrExpect {d : GF} {v : Option Word} : Act.Keeps (Machine.writeOrExpect d v) := by
  unfold Machine.writeOrExpect
  split
  · exact .writeG
  · exact .expect

theorem Act.Keeps.tspawnAt {x : Word} : Act.Keeps (Machine.tspawnAt x) :=
  .bind .probe fun _ => .bind .awaitSources fun _ => .bind .sendRequest fun _ => .bindGetM fun _ h => h.enrol

theorem NextCanonical.execTspawn {gu : Guard} {d a : GF} {σ : State} (h : σ.Canonical) : NextCanonical (Machine.execTspawn gu d a σ) :=
  .runSlot (.bind .checkDest fun _ => .bind .readG fun _ => .bind (.atOrigin .tspawnAt) fun _ => .expect) h

theorem Mach.Canonical.createHelper {m : Mach} {t : Task} {entry g1 : Word} {fmt : W32} (h : m.Canonical) :
    (m.createHelper t entry g1 fmt).1.Canonical := by
  unfold Machine.Mach.createHelper
  split
  · exact h
  · dsimp only
    exact .createCont h

theorem Act.Keeps.crspawnAt {x y : Word} {f : W32} : Act.Keeps (Machine.crspawnAt x y f) := by
  refine .bind .awaitSources fun _ => .bind .sendRequest fun _ => .bindGetM fun m h => ?_
  dsimp only
  cases m.task? m.cur.task with
  | none => exact h
  | some t => exact h.createHelper

theorem NextCanonical.execCrspawn {gu : Guard} {d a b : GF} {σ : State} (h : σ.Canonical) :
    NextCanonical (Machine.execCrspawn gu d a b σ) :=
  .runSlot (.bind .checkDest fun _ => .bind .readG fun _ => .bind .readG fun _ => .bind .takeFmt fun _ =>
    .bind (.atOrigin .crspawnAt) fun _ => .expect) h

theorem Act.Keeps.glnchAt {x : Word} : Act.Keeps (Machine.glnchAt x) :=
  .bind .probe fun _ => .bind .awaitSources fun _ => .bind .sendRequest fun _ => .bindGetM fun _ h => h.requestReplay

theorem NextCanonical.execGlnch {gu : Guard} {d a : GF} {σ : State} (h : σ.Canonical) : NextCanonical (Machine.execGlnch gu d a σ) :=
  .runSlot (.bind .checkDest fun _ => .bind .readG fun _ => .bind (.atOrigin .glnchAt) fun _ => .expect) h

theorem Act.Keeps.gtokAt {x y : Word} : Act.Keeps (Machine.gtokAt x y) := by
  unfold Machine.gtokAt
  refine .bind .probe fun _ => .bind .getM fun _ => ?_
  dsimp only
  refine .bind .raiseIf fun _ => .bind .sendRequest fun _ => ?_
  split
  · exact .pure
  · exact .bind (.modM fun _ h => h.addToken) fun _ => .pure

theorem NextCanonical.execGtok {gu : Guard} {d a b : GF} {σ : State} (h : σ.Canonical) : NextCanonical (Machine.execGtok gu d a b σ) := by
  unfold Machine.execGtok
  refine .runSlot ?_ h
  refine .bind .readG fun _ => .bind .readG fun _ => .bind (.atOrigin .gtokAt) fun _ => .bind .getC fun _ => ?_
  split
  · exact .pure
  · exact .writeOrExpect

theorem Act.Keeps.gstatAt {x y : Word} {n : Bool} : Act.Keeps (Machine.gstatAt x y n) := .bind .probe fun _ => .bind .getM fun _ => .pure

theorem NextCanonical.execGstat {gu : Guard} {d a b : GF} {n : Bool} {σ : State} (h : σ.Canonical) :
    NextCanonical (Machine.execGstat gu d a b n σ) := by
  unfold Machine.execGstat
  refine .runSlot ?_ h
  refine .bind .readG fun _ => .bind ?_ fun _ => .bind (.atOrigin .gstatAt) fun _ => .writeOrExpect
  split
  · exact .readG
  · exact .pure

theorem NextCanonical.execTeamq {gu : Guard} {d a : GF} {t : Bool} {σ : State} (h : σ.Canonical) :
    NextCanonical (Machine.execTeamq gu d a t σ) := by
  unfold Machine.execTeamq
  refine .runSlot ?_ h
  refine .bind ?_ fun _ => ?_
  · split
    · exact .pure
    · exact .readG
  · refine .bind .getM fun _ => ?_
    dsimp only
    split
    · exact .writeG
    · split
      · exact .writeG
      · exact .writeG

theorem NextCanonical.execHint {gu : Guard} {a : GF} {σ : State} (h : σ.Canonical) : NextCanonical (Machine.execHint gu a σ) :=
  .runSlot (.bind .readG fun _ => .bind .modC fun _ => .modM fun _ h => h.putRecord) h

theorem Act.Keeps.prmtAt {d : GF} {x y : Word} : Act.Keeps (Machine.prmtAt d x y) := by
  unfold Machine.prmtAt
  refine .bind .probe fun _ => .bind .getM fun _ => ?_
  split
  · exact .expect
  · split
    · exact .expect
    · dsimp only
      split
      · exact .expect
      · split
        · exact .bind (.modM fun _ h => .carryOut h) fun _ => .expect
        · split
          · exact .bind .expect fun _ => .modM fun _ h => .pickAll (.carryOut h)
          · exact .bind .expect fun _ => .modM fun _ h => .answerPrmt (.carryOut h)

theorem NextCanonical.execPrmt {gu : Guard} {d a b : GF} {σ : State} (h : σ.Canonical) : NextCanonical (Machine.execPrmt gu d a b σ) := by
  unfold Machine.execPrmt
  refine .runSlot ?_ h
  refine .bind .checkDest fun _ => .bind .readG fun _ => .bind .readG fun _ => .bind .getM fun _ => ?_
  split
  · exact .bind (.atOrigin .pure) fun _ => .expect
  · exact .prmtAt

theorem NextCanonical.execSysrd {gu : Guard} {d : GF} {x : BitVec 12} {σ : State} (h : σ.Canonical) :
    NextCanonical (Machine.execSysrd gu d x σ) := .runSlot (.bind .readReg fun _ => .writeG) h

theorem NextCanonical.execSyswr {gu : Guard} {d : GF} {x : BitVec 12} {σ : State} (h : σ.Canonical) :
    NextCanonical (Machine.execSyswr gu d x σ) := by
  unfold Machine.execSyswr
  refine .runSlot ?_ h
  refine .bind .regCheck fun _ => .bind .readG fun _ => ?_
  dsimp only
  split
  · exact .bind .performEarlier fun _ => .writeReg
  · exact .writeReg

theorem NextCanonical.execEret {gu : Guard} {b : BitVec 3} {σ : State} (h : σ.Canonical) : NextCanonical (Machine.execEret gu b σ) := by
  unfold Machine.execEret
  refine .runSlot ?_ h
  refine .bind .needSystem fun _ => .bind .getC fun _ => ?_
  dsimp only
  exact .bind .raiseIf fun _ => .returnFrom

theorem Mach.Canonical.drainRange {m : Mach} {ctx : BitVec 12} {x y : Word} (h : m.Canonical) : (m.drainRange ctx x y).Canonical := h

theorem NextCanonical.execTlbdrn {gu : Guard} {d a b : GF} {c : Bool} {σ : State} (h : σ.Canonical) :
    NextCanonical (Machine.execTlbdrn gu d a b c σ) := by
  unfold Machine.execTlbdrn
  refine .runSlot ?_ h
  refine .bind .needSystem fun _ => .bind ?_ fun _ => ?_
  · split
    · exact .readG
    · exact .pure
  · refine .bind .readG fun _ => .bind .readG fun _ => .bind .getM fun _ => ?_
    dsimp only
    exact .bind .raiseIf fun _ => .bind (.atOrigin (.bind (.modM fun _ h => h) fun _ => .pure)) fun _ => .pure

theorem NextCanonical.execTlbcnf {gu : Guard} {σ : State} (h : σ.Canonical) : NextCanonical (Machine.execTlbcnf gu σ) := by
  unfold Machine.execTlbcnf
  refine .runSlot ?_ h
  refine .bind .needSystem fun _ => .bind .performEarlier fun _ => .bind .getM fun _ => ?_
  split
  · exact .bind (.atOrigin .pure) fun _ => .modC
  · refine .modM fun _ h => ?_
    split
    · exact .settleTlb h
    · exact h

theorem NextCanonical.execLeaseg {gu : Guard} {d a b : GF} {σ : State} (h : σ.Canonical) : NextCanonical (Machine.execLeaseg gu d a b σ) :=
  .runSlot (.bind .needSystem fun _ => .bind .readG fun _ => .bind .readG fun _ => .bind (.atOrigin (.bind .getM fun _ => .pure))
    fun _ => .writeOrExpect) h

theorem NextCanonical.execCinv {gu : Guard} {a b : GF} {k : BitVec 2} {σ : State} (h : σ.Canonical) :
    NextCanonical (Machine.execCinv gu a b k σ) := by
  refine .runSlot (.bind .needSystem fun _ => .bind .readG fun _ => .bind .readG fun _ => .bind .raiseIf fun _ =>
    .bind .performEarlier fun _ => .modM fun m h => ?_) h
  have hs : (m.mem.spread m.cur.die).Canonical := .spread h
  generalize m.mem.spread m.cur.die = x at hs
  exact .ite hs h

theorem Act.Keeps.serveAct {d : GF} {x1 : GuestReq} : Act.Keeps (Machine.serveAct d x1) := by
  unfold Machine.serveAct
  split
  · exact .bind .tspawnAt fun _ => .expect
  · exact .bind .crspawnAt fun _ => .expect
  · exact .bind .glnchAt fun _ => .expect
  · exact .bind .gtokAt fun _ => .expect
  · exact .bind .gstatAt fun _ => .expect
  · exact .prmtAt
  · exact .modM fun _ h => h
  · exact .pure
  · exact .modM fun _ h => h

theorem Mach.Canonical.memberAsk {m : Mach} {q n rank : ℕ} {d : GF} {r : GuestReq} (h : m.Canonical) :
    (m.memberAsk q n rank d r).Canonical := by
  unfold Machine.Mach.memberAsk
  split
  · split
    · split
      · exact h.setCont
      · exact h.sendTo
    · exact h.runAs .serveAct
  · exact h

theorem NextCanonical.execSpawnAnswer {cont : ℕ} {σ : State} (h : σ.Canonical) : NextCanonical (Machine.execSpawnAnswer cont σ) :=
  .runEvent (fun _ h => h.answer) h

theorem NextCanonical.execRxregWrite {n : BitVec 6} {v : Word} {σ : State} (h : σ.Canonical) :
    NextCanonical (Machine.execRxregWrite n v σ) := .runStep .writeRx h

theorem NextCanonical.execRegisterWrite {ld die idx : ℕ} {v : Word} {σ : State} (h : σ.Canonical) :
    NextCanonical (Machine.execRegisterWrite ld die idx v σ) := .runEvent (fun _ h => h.bar0Write) h

theorem NextCanonical.exec {i : Instr} {s : State} (h : s.Canonical) : NextCanonical (Machine.exec i s) := by
  unfold Machine.exec
  split
  · exact .execAdd h
  · exact .execSub h
  · exact .execAddi h
  · exact .execAddsh h
  · exact .execMul h
  · exact .execMulh h
  · exact .execMulhu h
  · exact .execMadd h
  · exact .execDiv h
  · exact .execDivu h
  · exact .execRem h
  · exact .execRemu h
  · exact .execMin h
  · exact .execMax h
  · exact .execMinu h
  · exact .execMaxu h
  · exact .execAnd h
  · exact .execOr h
  · exact .execXor h
  · exact .execAndn h
  · exact .execAndi h
  · exact .execOri h
  · exact .execXori h
  · exact .execSll h
  · exact .execSrl h
  · exact .execSra h
  · exact .execSlli h
  · exact .execSrli h
  · exact .execSrai h
  · exact .execRor h
  · exact .execClz h
  · exact .execCtz h
  · exact .execPopc h
  · exact .execBext h
  · exact .execBins h
  · exact .execMovi h
  · exact .execMovk h
  · exact .execSel h
  · exact .execCmpeq h
  · exact .execCmpne h
  · exact .execCmplt h
  · exact .execCmpltu h
  · exact .execCmpge h
  · exact .execCmpgeu h
  · exact .execCmpeqi h
  · exact .execCmplti h
  · exact .execPlog h
  · exact .execMovpGet h
  · exact .execMovpSet h
  · exact .execFadd h
  · exact .execFsub h
  · exact .execFmul h
  · exact .execFfma h
  · exact .execFdiv h
  · exact .execFsqrt h
  · exact .execFmin h
  · exact .execFmax h
  · exact .execFcmpeq h
  · exact .execFcmplt h
  · exact .execFcmple h
  · exact .execFcvt h
  · exact .execFtoi h
  · exact .execItof h
  · exact .execFclass h
  · exact .execLdb h
  · exact .execLdbu h
  · exact .execLdh h
  · exact .execLdhu h
  · exact .execLdw h
  · exact .execLdwu h
  · exact .execLdd h
  · exact .execLdacq h
  · exact .execStb h
  · exact .execSth h
  · exact .execStw h
  · exact .execStd h
  · exact .execStrel h
  · exact .execSpldw h
  · exact .execSpldd h
  · exact .execSpstw h
  · exact .execSpstd h
  · exact .execAmoadd h
  · exact .execAmoand h
  · exact .execAmoor h
  · exact .execAmoxor h
  · exact .execAmomin h
  · exact .execAmomax h
  · exact .execAmoswp h
  · exact .execAmocas h
  · exact .execAmofadd h
  · exact .execFence h
  · exact .execLdblk h
  · exact .execBlkwb h
  · exact .execBlkrel h
  · exact .execXlt h
  · exact .execXltp h
  · exact .execLeaseq h
  · exact .execSbind h
  · exact .execSunbind h
  · exact .execQinit h
  · exact .execQadv h
  · exact .execQstat h
  · exact .execWenq h
  · exact .execAgset h
  · exact .execAgadv h
  · exact .execVsetlImm h
  · exact .execVsetlReg h
  · exact .execVmov h
  · exact .execVfill h
  · exact .execVadd h
  · exact .execVsub h
  · exact .execVmul h
  · exact .execVfma h
  · exact .execVmin h
  · exact .execVmax h
  · exact .execVabs h
  · exact .execVneg h
  · exact .execVadds h
  · exact .execVmuls h
  · exact .execVfmas h
  · exact .execVrcp h
  · exact .execVrsqrt h
  · exact .execVexp h
  · exact .execVlog h
  · exact .execVsin h
  · exact .execVcos h
  · exact .execVtanh h
  · exact .execVsig h
  · exact .execVsilu h
  · exact .execVgelu h
  · exact .execVcvt h
  · exact .execVqnt h
  · exact .execVdq h
  · exact .execVcmp h
  · exact .execVsel h
  · exact .execVrsum h
  · exact .execVrmax h
  · exact .execVargmax h
  · exact .execVscan h
  · exact .execVdot h
  · exact .execVperm h
  · exact .execVgath h
  · exact .execVscadd h
  · exact .execViadd h
  · exact .execVand h
  · exact .execVor h
  · exact .execVxor h
  · exact .execVshl h
  · exact .execVshr h
  · exact .execVsmax h
  · exact .execVrmsn h
  · exact .execVrope h
  · exact .execVmaskw h
  · exact .execTcwupd h
  · exact .execTcwcnt h
  · exact .execVfence h
  · exact .execVbsy h
  · exact .execMma h
  · exact .execMmabt h
  · exact .execMmasp h
  · exact .execMmacb h
  · exact .execMzero h
  · exact .execMldacc h
  · exact .execMdrain h
  · exact .execMdraina h
  · exact .execMpop h
  · exact .execMcbld h
  · exact .execMscl h
  · exact .execMfence h
  · exact .execDcopy h
  · exact .execDmcast h
  · exact .execDgath h
  · exact .execDscat h
  · exact .execDscadd h
  · exact .execDred h
  · exact .execDbcast h
  · exact .execDallg h
  · exact .execDembag h
  · exact .execDstage h
  · exact .execPack h
  · exact .execUnpack h
  · exact .execExn h
  · exact .execKvfill h
  · exact .execSkfind h
  · exact .execSkput h
  · exact .execSkrel h
  · exact .execSkpin h
  · exact .execDfence h
  · exact .execIxwalk h
  · exact .execIxsect h
  · exact .execIxpart h
  · exact .execPbr h
  · exact .execPbrr h
  · exact .execBr h
  · exact .execBrl h
  · exact .execLoop h
  · exact .execLoopiImm h
  · exact .execLoopiReg h
  · exact .execLoopl h
  · exact .execFmtw h
  · exact .execFmtwg h
  · exact .execWaita h
  · exact .execSusp h
  · exact .execDone h
  · exact .execBarr h
  · exact .execSync h
  · exact .execTrap h
  · exact .execSigc h
  · exact .execTspawn h
  · exact .execCrspawn h
  · exact .execGlnch h
  · exact .execGtok h
  · exact .execGstat h
  · exact .execTeamq h
  · exact .execSysrd h
  · exact .execSyswr h
  · exact .execEret h
  · exact .execTlbdrn h
  · exact .execTlbcnf h
  · exact .execLeaseg h
  · exact .execCinv h
  · exact .execPrmt h
  · exact .execHint h
  · exact .execHset h
  · exact .execHadd h
  · exact .execHjmp h
  · exact .execHloop h
  · exact .execAgld h
  · exact .execKvrd h
  · exact .execMxi h
  · exact .execSmax h
  · exact .execResc h
  · exact .execNorm h
  · exact .execRope h
  · exact .execDjob h
  · exact .execWaitw h
  · exact .execSigw h
  · exact .execMcmb h
  · exact .execHalt h
  · exact .execBundleDispatch h
  · exact .execPickerPreemptContext h
  · exact .execWriteApplyAtDie h
  · exact .execStrongOperationAtHome h
  · exact .execLoadBlockFillComplete h
  · exact .execPageWalkComplete h
  · exact .execTranslationComplete h
  · exact .execVectorCommandCompletion h
  · exact .execJobChannelStart h
  · exact .execJobCompletion h
  · exact .execFollowOnIssue h
  · exact .execArrayEntry h
  · exact .execMatrixCommandRetire h
  · exact .execExitNoticeReceive h
  · exact .execExitStateArrival h
  · exact .execExnRefusal h
  · exact .execAttentionReadRequest h
  · exact .execDarnFill h
  · exact .execDarnFillComplete h
  · exact .execFillTimeout h
  · exact .execStagingBufferSelect h
  · exact .execSkeinOperationExecute h
  · exact .execSqstartWrite h
  · exact .execSqcsdWrite h
  · exact .execSqcsdRead h
  · exact .execRxregWrite h
  · exact .execRegisterWrite h
  · exact .execDoorbell h
  · exact .execCompletionHeadWrite h
  · exact .execSubmitTask h
  · exact .execSubmitGraphReplay h
  · exact .execPatchCommit h
  · exact .execSpawnAnswer h
  · exact .execReplayStart h
  · exact .execPatchAreaCopyDone h
  · exact .execTaskOrderingRelease h
  · exact .execTaskLeasing h
  · exact .execTeamDispatch h
  · exact .execTeamSwapOut h
  · exact .execTeamSwapIn h
  · exact .execSliceQuantumExpiry h
  · exact .execSwapAbandonTimeout h
  · exact .execTaskCompletion h
  · exact .execDeadlineOverrun h
  · exact .execStopBegin h
  · exact .execStopResume h
  · exact .execStopSourcesStopped h
  · exact .execStopDrainComplete h
  · exact .execStopDrainTimeout h
  · exact .execBobbinTokenArrival h
  · exact .execBobholdExpiry h
  · exact .execBobbinTokenRegeneration h
  · exact .execStolenTeamArrival h
  · exact .execStealAcknowledge h
  · exact .execStolenTeamAccess h
  · exact .execHostCxlMemWrite h
  · exact .execHostCxlMemRead h
  · exact .execQctlEnable h
  · exact .execQctlDisable h
  · exact .execPowerGood h
  · exact .execPowerLost h
  · exact .execFwcmdAuthenticate h
  · exact .execAuthenticationComplete h
  · exact .execStage1Complete h
  · exact .execStage2Complete h
  · exact .execScrunStart h
  · exact .execMrstModuleReset h
  · exact .execCxlReset h
  · exact .execDrstDieReset h
  · exact .execDieResetComplete h
  · exact .execMigreqClaim h
  · exact .execMigreqCommit h
  · exact .execMigreqRelease h
  · exact .execPowerWindowCheck h
  · exact .execThermalTrip h
  · exact .execCorrectedError h
  · exact .execUncorrectableError h
  · exact .execPodLinkDown h
  · exact .execEbnasPortTimeout h
  · exact .execFirmwareWindowWrite h

end Sys2Proof.Machine
end


section
/-! SUPPORT. The canonical form of memory through a step: what moves next, an instruction or a state (log entries 3 and 5). -/

namespace Sys2Proof.Machine

variable {s : State} {m : Mach}

namespace Mach.Canonical

theorem tickBy {n : ℕ} (h : m.Canonical) : (m.tickBy n).Canonical := h

theorem releasePool {q : ℕ} (h : m.Canonical) : (m.releasePool q).Canonical := by
  unfold Machine.Mach.releasePool
  split
  · exact h
  · exact .ite h.releaseRecords h

theorem fillLine {core : ℕ} {va : Word} (h : m.Canonical) : (m.fillLine core va).Canonical := by
  unfold Machine.Mach.fillLine
  split
  · exact h
  · dsimp only
    split
    · exact h
    · exact h

end Mach.Canonical

theorem State.Canonical.noteInsn {w : ℕ} {i : Instr} (h : s.Canonical) : (s.noteInsn w i).Canonical := h.withMach h.mach

theorem State.Canonical.idle (h : s.Canonical) : s.idle.Canonical := h.withMach h.mach

theorem State.Canonical.enterBack {e : QEntry} (h : s.Canonical) : (s.enterBack e).Canonical := by
  refine ⟨h.mach, ?_⟩
  rintro m ⟨⟩
  exact h.mach

theorem State.Canonical.withAgenda {l : List Sched} (h : s.Canonical) : State.Canonical { s with agenda := l } := h

/-- The state a turn goes on from, or to, has its memory in canonical form. -/
def Turn.Canonical : Turn → Prop
  | .run _ s => s.Canonical
  | .next s => s.Canonical

theorem Turn.Canonical.slotTurn {k : Cursor} (h : s.Canonical) : (Machine.slotTurn s k).Canonical := by
  unfold Machine.slotTurn
  split
  · exact h.advance
  · split
    · exact h.haltBundle
    · exact h.takeTrap
    · exact h.noteInsn

theorem Turn.Canonical.queueTurn {e : QEntry} (h : s.Canonical) : (Machine.queueTurn s e).Canonical := h.enterBack

theorem Turn.Canonical.microTurn {k : ℕ} (h : s.Canonical) : (Machine.microTurn s k).Canonical := by
  unfold Machine.microTurn
  split
  · exact h
  · split
    · exact h.withMach h.mach.seqFails
    · exact h.withMach h.mach

theorem Turn.Canonical.ite {p : Prop} [Decidable p] {t t' : Turn} (h : t.Canonical) (h' : t'.Canonical) :
    Turn.Canonical (if p then t else t') := by
  split
  · exact h
  · exact h'

theorem Turn.Canonical.agendaTurn {e : Sched} (h : s.Canonical) : (Machine.agendaTurn s e).Canonical := by
  have hm := h.mach
  cases e with
  | event i => exact .ite h h
  | issue id =>
    dsimp only [Machine.agendaTurn]
    split
    · exact .ite (h.withMach hm.switchTo) h
    · exact h
  | micro k => exact .microTurn h
  | ticks n => exact h.withMach hm.tickBy.wake
  | dieTicks d n => exact h.withMach hm.tickDie
  | noticeDone n => exact h.after hm.remoteDone
  | release q => exact h.withMach hm.releasePool
  | barWrite bar ld off b => exact State.Canonical.ite (h.after hm.barWrite) h
  | barRead bar off n => exact State.Canonical.ite (h.withMach hm) h
  | hostWrite pa b => exact State.Canonical.ite (h.after hm.hostWrite) h
  | hostRead pa n => exact State.Canonical.ite (h.withMach hm.hostRead) h
  | send port => exact h.withMach hm.sendFlit
  | transit lane dest body => exact h.withMach hm.sendTo
  | podPayload src pa b => exact h.after hm.podPayload
  | podCompletion src pa v => exact h.after hm.podCompletion
  | memberDone q n => exact h.after hm.memberDone
  | memberFault q n r k rec imp eng => exact h.after hm.memberFault
  | memberKilled q n => exact h.after hm.memberKilled
  | memberArm q n r a v c => exact h.after hm.memberArm
  | memberAsk q n r d x => exact h.after hm.memberAsk
  | memberWindow q n r off b => exact h.after hm.memberWindow
  | memberTaken q n r => exact h.withMach hm.memberTaken
  | guestImage x => exact h.withMach hm
  | guestAsk k p w => exact h.withMach hm.guestAsk
  | guestPage k p perm c b => exact h.after hm.lendPage
  | guestBack k p => exact h.withMach hm.giveBack
  | guestReply k r d v => exact h.after hm.guestReply
  | guestWake k r => exact h.after hm.guestWake
  | guestEnd o q n => exact h.after hm.guestEnd
  | guestHalt o q n held => exact h.after hm.guestHalt
  | guestWindow k r off b p => exact h.after hm.guestWindow
  | guestGive k r off n => exact h.withMach hm.guestGive
  | lag id x =>
    refine h.withMach ?_
    split
    · exact hm.setCont
    · exact hm
  | leave x =>
    dsimp only [Machine.agendaTurn]
    split
    · exact .ite (.queueTurn h) h
    · exact h
  | element id k => exact h.after hm.landElement
  | fillLine core va => exact h.withMach hm.fillLine
  | dropLine core => exact h.withMach hm
  | dropTlb die => exact h.withMach hm

theorem Turn.Canonical.turn (h : s.Canonical) : (Machine.turn s).Canonical := by
  unfold Machine.turn
  split
  · exact .slotTurn h
  · split
    · exact .agendaTurn h.withAgenda
    · split
      · exact h.idle
      · split
        · exact .queueTurn h
        · exact .ite h (.ite h.idle h)

theorem NextCanonical.step (h : s.Canonical) : NextCanonical (Machine.step s) := by
  have ht := Turn.Canonical.turn h
  unfold Machine.step
  split
  · next he => exact .exec (he ▸ ht :)
  · next he => exact (he ▸ ht :)

/-- Settles O59: a turn goes on from a state in canonical form, and every instruction, event and micro-operation leaves one. -/
theorem stepKeepsMemoryCanonical : Obligations.StepKeepsMemoryCanonical := by
  intro s t hs he
  have h := NextCanonical.step hs
  rwa [he] at h

end Sys2Proof.Machine
end
